-- ==== Sys2Proof/Word.lean ====
section
/-! DEFINITION.  The word types of the AQ-N4 model: what the manual treats as bits (R3, R4). -/

namespace Sys2Proof

/-- An 8-bit byte of memory. -/
abbrev Byte := BitVec 8

/-- A 32-bit control register. -/
abbrev Word := BitVec 32

end Sys2Proof
end

