-- ==== Sys2Proof/Syntax.lean ====
section
/-! DEFINITION.  The commands the AQ-N4 takes from outside, one constructor per row of
spec/opcode_table.json, with the row's operands.  Common operand names: `m` the owner ID of the
master that issues a write or read (R81), `pg` a page index (offset / 0x1000), `v` a written word,
`c` a core slot (CORE page instance, 256 × die + slot), `k` a cluster, `p`/`part` a partition. -/

namespace Sys2Proof

/-- What the protection of a line finds when it is read (Tables 18-1 and 18-2): nothing, an error
it can correct, one it cannot, or poison that a far-store expander reports. -/
inductive Ecc | clean | ce | ue | expander
  deriving DecidableEq, Repr

/-- What the protection of tier lines finds as a command reads them, by tier code × 2^48 + address of the line; a line
not named is clean. -/
abbrev Errs := List (Nat × Ecc)

/-- Who asks a work-store pool for buffers (the requesters listed after R240). -/
inductive Requester
  /-- Transfer queue `q` of the sequencer: FETCH for 0 to 2, DRAIN for 3 (R235). -/
  | queue (q : Nat)
  /-- The gather engine (FETCH). -/
  | gather
  /-- The hand-over request of a CHAIN (FETCH, R251). -/
  | handOver
  /-- The DRAIN instruction (DRAIN). -/
  | drain
  /-- An inbound write of a MOVE or RESHARD (FETCH). -/
  | inbound
  deriving DecidableEq, Repr

/-- Requests to Tormal: the two that R713 names, a lifecycle change (R708), and any other. -/
inductive TormalReq
  | other
  /-- A controller's SHARE: its page and word. -/
  | share (pg v : Nat)
  | warm
  /-- A lifecycle change, and whether its authorisation is good. -/
  | life (state : Nat) (auth : Bool)
  deriving DecidableEq, Repr

/-- A local handshake (R46): the request that waits for its acknowledge. -/
inductive Hs
  /-- Transfer request `id` of queue `q` of a core. -/
  | tq (c q id : Nat)
  /-- The list block that queue `q` of a core has asked for longest (R747); 4: the block of offsets, indices or
  vertices that its gather engine has (R357). -/
  | list (c q : Nat)
  /-- Request `id` of a core's gather engine. -/
  | gth (c id : Nat)
  /-- A core's program load. -/
  | load (c : Nat)
  /-- A cluster's layer prefetch. -/
  | lpf (k : Nat)
  /-- A transfer in the die bridge. -/
  | bridge (id : Nat)
  /-- The load of a vocabulary slot, or of a stop block, of a token engine. -/
  | vocab (e i : Nat)
  | stopSet (e i : Nat)
  /-- A request of the executor of an operation in service. -/
  | op (p slot : Nat)
  /-- A request of the checkpoint engines for what they are doing. -/
  | ckp
  deriving DecidableEq, Repr

/-- The area of a token engine's SRAM that holds a word (Table 18-1). -/
inductive TokArea
  | vocab (i : Nat)
  | stop (i : Nat)
  | stream (i : Nat)
  deriving DecidableEq, Repr

/-- Where an error lies that the protection of an on-die store or path cannot correct (Table 18-1). -/
inductive Sram
  /-- Work store, tally store, or cell registers and shadow sets, of the operation's core; or its engine's own. -/
  | own
  | cluster
  | prog
  | tok (area : TokArea)
  /-- A transfer the operation has issued. -/
  | channel
  /-- Scheduler and allocator state of the partition; global scheduler state; key slots and image keys. -/
  | sched
  | global
  | keys
  deriving DecidableEq, Repr

/-- What the host writes of a function's MSI-X capability (PCIe): the mask bit of a vector, or MSI-X Enable and
Function Mask. -/
inductive MsixSet
  | vec (n : Nat) (mask : Bool)
  | ctl (en mask : Bool)
  deriving DecidableEq, Repr

/-- A command: one constructor per row of spec/opcode_table.json. -/
inductive Instr
  /-- BRG_RETRAIN (R30). Writing BRG_CTL.RETRAIN retrains the enabled bridge modules one at a time, draining each
  module's traffic to the modules that remain up. -/
  | brgRetrain (m die rate : Nat)
  /-- BRG_MOD_EN_WRITE (R31). A write to BRG_MOD_EN_LO or BRG_MOD_EN_HI is range-checked against the other register,
  then drains and enables or disables modules. -/
  | brgModEnWrite (m die : Nat) (hi : Bool) (v : Nat)
  /-- BRG_MAX_RATE_WRITE (R30). A write that changes BRG_CTL.MAX_RATE drains and retrains the affected modules at
  the new highest rate. -/
  | brgMaxRateWrite (m die rate : Nat)
  /-- BRIDGE_TRANSFER (R22). A transfer crosses the die bridge in its traffic class, with response credit reserved
  at issue. -/
  | bridgeTransfer (die cls src dst mod : Nat) (dep : Option (Nat × Nat)) (ack : Bool)
  /-- BRIDGE_REPLAY (R24). A module that detects a CRC error replays its unacknowledged transfers and counts the
  replay. -/
  | bridgeReplay (die mod : Nat)
  /-- BRIDGE_MODULE_DOWN (R24). A module whose replay is exhausted is taken down, its transfers are reissued on the
  remaining modules, and 0x0C is logged in both BRG pages. -/
  | bridgeModuleDown (mod : Nat)
  /-- TBS_LOCK (R38).  The timebase PLL locks, TBS_STS.LOCK becomes 1 and TBS_NOW begins counting. -/
  | tbsLock (late : Nat)
  /-- SKEW_MEASURE (R40). Every 1 ms the N4 re-measures the die-copy difference of TBS_NOW and starts omitting
  increments on the leading copy. -/
  | skewMeasure
  /-- EVR_WINDOW_END (R34).  A measurement window ends and TBS_EVR0 and TBS_EVR1 take the new RATE and update MIN. -/
  | evrWindowEnd (rate0 rate1 : Nat)
  /-- CLR_MIN (R34).  Writing TBS_EVR_CTL.CLR_MIN sets MIN of both event-rate registers to 0xFFFF. -/
  | clrMin (m win : Nat)
  /-- REFERENCE_LOST (R44). The reference monitor declares the reference lost, TBS_NOW continues on the internal
  oscillator, HOLDOVER is set and 0x15 is logged. -/
  | referenceLost
  /-- REFERENCE_RETURN (R45).  The reference returns, TBS_NOW switches back without a step and HOLDOVER clears. -/
  | referenceReturn
  /-- HANDSHAKE_TIMEOUT (R52). A handshake not acknowledged within PG_TMO_NS is abandoned, 0x03 is logged and
  dependent operations fault. -/
  | handshakeTimeout (hs : Hs) (resp : Nat)
  /-- LATE_ACK (R54).  An acknowledge that arrives after its handshake was abandoned is discarded with its data. -/
  | lateAck (hs : Hs)
  /-- NEAR_RECALIBRATE (R746). Every 1 ms a near channel recalibrates its delay lines against TBS_NOW without
  delaying any access. -/
  | nearRecalibrate (ch : Nat) (start : Bool)
  /-- REGISTER_WRITE (R63). A control-space write to a register with no row of its own is checked for ownership,
  range and precondition and then takes effect or is refused. -/
  | registerWrite (m ofs size : Nat) (v : Nat)
  /-- READ_DENIED (R91).  A read that the reader may not make returns zero and logs 0x02 in the page. -/
  | readDenied (m ofs size : Nat)
  /-- UNBACKED_ACCESS (R80). An access to an unbacked offset reads zero or has no effect, logs 0x05 in GLB and
  records GLB_UNMAP. -/
  | unbackedAccess (m ofs : Nat)
  /-- PAGE_CLAIM (R83).  A write to PG_OWNER with CLAIMED 1 claims the page for the writer. -/
  | pageClaim (m pg owner : Nat)
  /-- PAGE_RELEASE (R85).  A write of 0x0000_0000 to PG_OWNER releases the page. -/
  | pageRelease (m pg : Nat)
  /-- PAGE_ENABLE (R97).  A write to PG_CTL.EN enables the block, or disables it when it is idle. -/
  | pageEnable (m pg : Nat) (en : Bool)
  /-- PAGE_HOLD (R95).  A write to PG_CTL.HOLD stops or resumes the block's taking of new work. -/
  | pageHold (m pg : Nat) (hold : Bool)
  /-- PAGE_HELD (R96).  PG_STS.HELD becomes 1 once HOLD is 1 and the block has no started work left. -/
  | pageHeld (pg : Nat)
  /-- SOFT_RESET (R99). Writing PG_CTL.SRST starts a soft reset that discards and abandons the block's work and
  returns its registers to reset values. -/
  | softReset (m pg : Nat)
  /-- SOFT_RESET_DONE (R99).  A soft reset completes, RST_BUSY becomes 0 and RST_DONE is set. -/
  | softResetDone (pg : Nat)
  /-- SOFT_RESET_TIMEOUT (R101).  A soft reset not complete within PG_TMO_NS logs 0x03 and leaves RST_BUSY at 1. -/
  | softResetTimeout (pg : Nat)
  /-- ERR_FIRST_CLEAR (R107). Writing 1 to PG_ERR_FIRST.VALID clears PG_ERR_FIRST, PG_ERR_CNT and PG_STS.WREJ as one
  command. -/
  | errFirstClear (m pg : Nat)
  /-- EVT_EN_WRITE (R111). A write that sets a PG_EVT_EN bit whose PEND bit is 1 produces one BLOCK record for that
  bit. -/
  | evtEnWrite (m pg v : Nat)
  /-- EVT_SET (R110).  Writing PG_EVT_SET sets PG_EVT_PEND bits and produces a SOFT record for each enabled bit. -/
  | evtSet (m pg v : Nat)
  /-- EVENT_RECORD_WRITE (R112). The device event arbiter grants a record its SEQ and writes a copy to the ring of
  each recipient, then advances EVQ_PROD. -/
  | eventRecordWrite (n : Nat)
  /-- RING_LOST (R117). Once a ring that lost records has room, a RING_LOST record is written before any later
  record. -/
  | ringLost (o : Nat)
  /-- EVQ_ENABLE (R121).  A write that sets EVQ_CTL.EN checks the ring's memory and zeroes PROD, CONS and LOST. -/
  | evqEnable (m pg v : Nat)
  /-- EVQ_CONS_WRITE (R116).  Software writes EVQ_CONS to consume records and free ring space. -/
  | evqConsWrite (m pg v : Nat)
  /-- GLB_STATE_WRITE (R712).  Tormal writes GLB_STATE to READY, DEGRADED or UPDATE. -/
  | glbStateWrite (m st : Nat)
  /-- ASSIGN (R127). PRT ASSIGN gives a range of unassigned units to a partition or Tormal and adds memory granules
  to the free maps. -/
  | assign (m part res first count : Nat)
  /-- UNASSIGN (R127). PRT UNASSIGN removes a range of units from their holder, releasing claims, soft-resetting and
  zeroing cluster stores and revoking allocations. -/
  | unassign (m part res first count : Nat)
  /-- UNASSIGN_APPLIED (R134). The UNASSIGN of memory units completes once every controller of those units has
  applied it. -/
  | unassignApplied (ok : Bool)
  /-- ENABLE (R127).  PRT ENABLE binds a fresh key to a FREE partition and makes it ENABLED. -/
  | enable (m part : Nat)
  /-- RESET (R156). PRT RESET starts the partition reset sequence, stops dispatch, retires the key and purges the
  partition's engine entries. -/
  | reset (m part : Nat)
  /-- DISABLE (R156). PRT DISABLE runs the partition reset sequence and ends with the partition FREE and no key
  bound. -/
  | disable (m part : Nat)
  /-- RESET_ENGINE_CLEAR (R156). During a partition reset, an engine class that reaches zero entries of the
  partition clears its PRT_P_STS.ENG bit. -/
  | resetEngineClear (part cls : Nat)
  /-- PRT_RST_TMO_EXPIRY (R159). PRT_RST_TMO expires during a reset, forcing soft resets of engines still holding
  entries and logging 0x0F. -/
  | prtRstTmoExpiry (part : Nat)
  /-- RESET_FINISH (R156). Once ENG is 0 the partition's pages are soft-reset, claims released, clusters zeroed, the
  slot freed and a new key bound, and STATE ends ENABLED or FREE. -/
  | resetFinish (part : Nat)
  /-- KEY_SLOT_FREE (R149).  A DRAINING key slot becomes FREE when no entry carries it any longer. -/
  | keySlotFree (slot : Nat)
  /-- VF_FLR (R139). A function-level reset of a VF resets its function state and starts RESET of its ENABLED
  partition. -/
  | vfFlr (part : Nat)
  /-- VF_ENABLE_CLEAR (R140). When the PF's SR-IOV VF Enable changes from 1 to 0, every ENABLED partition is
  DISABLEd. -/
  | vfEnableClear (en : Bool)
  /-- ROTATE_MGT (R151).  SEC_CMD ROTATE_MGT retires Tormal's key and binds a fresh one in a single command. -/
  | rotateMgt (m : Nat)
  /-- RNG_FAULT (R154). The random number generator fails its health test, SEC_STS.RNG_FAULT is set and 0x07 is
  logged. -/
  | rngFault
  /-- MEM_READ (R213). A controller grants a read of tier lines, checks the holder, decrypts and delivers the data
  or its poison mark. -/
  | memRead (own iss tier addr len : Nat) (rmt : Bool) (errs : Errs)
  /-- MEM_WRITE (R215). A controller grants a write of tier lines, checks the holder and encrypts under the access's
  key slot. -/
  | memWrite (own iss tier addr : Nat) (data : List Byte) (pois rmt : Bool)
  /-- MEM_ATOMIC (R197).  A controller performs a memory atomic within one grant of its line arbiter. -/
  | memAtomic (own iss tier addr code : Nat) (lanes : List (Nat × Nat)) (rmt ret : Bool) (errs : Errs)
  /-- SHARE_WINDOW (R174). A new 1 µs window begins at a controller in FIXED mode and the class shares and pending
  SHARE writes take effect. -/
  | shareWindow (pg : Nat)
  /-- ALLOC (R179). ALC_CMD ALLOC places granules across the class's tiers, or fails with its shortfalls, and writes
  the allocation record. -/
  | alloc (m p cls die : Nat)
  /-- FREE (R188).  ALC_CMD FREE returns an allocation's granules to the free maps and ends its handle. -/
  | free (m p : Nat)
  /-- QUERY (R186).  ALC_CMD QUERY writes the record of a live allocation at ALC_REC. -/
  | query (m p : Nat)
  /-- FXR_ENABLE (R209).  A write to FXR_CTL.EN enables or disables an FX64 region after its checks. -/
  | fxrEnable (m p r v : Nat)
  /-- FXR_EN_APPLIED (R210).  A change of FX64 region EN completes once every controller has applied it. -/
  | fxrEnApplied (p r : Nat)
  /-- BLOCK_ENTRY_READ (R219). A transfer queue reads and checks a block entry of its stream when the list data
  arrives. -/
  | blockEntryRead (c q : Nat) (errs : Errs)
  /-- TQ_REQUEST_ISSUE (R227). A read queue issues its next request once OUT_MAX, a buffer credit and any FENCE
  allow. -/
  | tqRequestIssue (c q : Nat)
  /-- TRANSFER_COMPLETE (R222). A transfer request completes and its data lands at its place in the packing, or its
  write is acknowledged. -/
  | transferComplete (c q id : Nat) (errs : Errs)
  /-- BUFFER_REQUEST (R237). A requester asks a pool for n buffers of class DRAIN or FETCH, which are granted whole
  or refused with 0x13. -/
  | bufferRequest (c : Nat) (r : Requester) (n : Nat)
  /-- BUFFER_RELEASE (R237).  A released buffer returns to its partition's floor or to the common buffers. -/
  | bufferRelease (c : Nat) (r : Requester) (n : Nat)
  /-- BUF_WAIT_EXPIRY (R240).  A buffer request refused for WS_BUF_WAIT.US faults its operation with 0x13. -/
  | bufWaitExpiry (c : Nat)
  /-- FETCH_SLOT_GRANT (R231).  The cluster's phase arbiter grants a waiting core a fetch slot. -/
  | fetchSlotGrant (k c : Nat)
  /-- LPF_GO (R243).  Writing CLU_LPF_CTL.GO starts the layer prefetch unit on the stream named by CLU_LPF_LIST. -/
  | lpfGo (m k outMax : Nat)
  /-- LPF_LOAD_BEGIN (R247).  A SINGLE-mode prefetch waiting for an epoch begins to load into CUR. -/
  | lpfLoadBegin (k : Nat)
  /-- LPF_DONE (R244).  The layer prefetch completes, reporting BYTES and SURPLUS, or stops on a fault with ERR. -/
  | lpfDone (k : Nat) (errs : Errs)
  /-- WEIGHT_SWAP (R246). In DOUBLE mode CUR and NEXT swap once an epoch has completed after the GO and the prefetch
  is DONE. -/
  | weightSwap (k : Nat)
  /-- CLU_WCFG_WRITE (R750).  A write to CLU_WCFG that changes MODE or WREG ends the layers in CUR and NEXT. -/
  | cluWcfgWrite (m k v : Nat)
  /-- RING_SHARD_PASS (R249).  The weight ring passes one shard and delivers it to every core waiting for it. -/
  | ringShardPass (k : Nat)
  /-- LATE_DATA_DISCARD (R255).  Data arriving for a faulted, abandoned or reset request is discarded. -/
  | lateDataDiscard (hs : Hs)
  /-- CORE_SUBSTITUTE (R263). GLB_CSUB with a spare slot faults the failed core's operation, zeroes and configures
  the spare and gives it the logical number. -/
  | coreSubstitute (m die failed spare : Nat)
  /-- CORE_RETIRE (R263). GLB_CSUB with spare 0xFF retires the failed slot and leaves its logical core without a
  slot. -/
  | coreRetire (m die failed : Nat)
  /-- CSUB_HELD_START (R525). A substitution held for a pausing, capturing or restoring partition starts once the
  partition is PAUSED or RUNNING. -/
  | csubHeldStart
  /-- PROGRAM_LOAD (R280).  Writing CORE_PLD_CTL.GO copies COUNT instructions from a tier into program store. -/
  | programLoad (m c dest count : Nat)
  /-- PROGRAM_LOAD_DONE (R281).  A program load ends, setting VALID on success or ERR and CODE on a fault. -/
  | programLoadDone (c : Nat) (errs : Errs)
  /-- NOP (R290).  The NOP instruction does nothing. -/
  | nop (c : Nat)
  /-- GET (R287). GET blocks the core in IDLE until an operation is granted, then loads indices, empties slots and
  jumps to the entry. -/
  | get (c : Nat)
  /-- PUT (R288). PUT waits for the operation's writes, completes it at the scheduler, releases its buffers and
  continues at NPC. -/
  | put (c : Nat) (errs : Errs)
  /-- JMP (R290).  JMP sets the PC to TGT. -/
  | jmp (c : Nat)
  /-- LOOP (R290).  LOOP decrements Ia and branches to TGT while it is not zero. -/
  | loop (c : Nat)
  /-- BR (R290).  BR compares two index registers and branches on the condition. -/
  | br (c : Nat)
  /-- STAGE (R253).  STAGE ends a CHAIN stage and releases the windows whose KEEP bit is 0. -/
  | stage (c : Nat)
  /-- TRAP (R298).  TRAP raises a sequencer fault with subcode 0x10 and AUX in CORE_FLT_AUX. -/
  | trap (c : Nat)
  /-- SETI (R290).  SETI loads an immediate into an index register. -/
  | seti (c : Nat)
  /-- ADDI (R290).  ADDI adds a signed immediate to an index register. -/
  | addi (c : Nat)
  /-- ADD (R290).  ADD adds two index registers. -/
  | add (c : Nat)
  /-- MULI (R290).  MULI multiplies an index register by an unsigned immediate. -/
  | muli (c : Nat)
  /-- LD (R286).  LD loads 8 B of work store into an index register after compute and transfers complete. -/
  | ld (c : Nat) (ecc : Ecc)
  /-- ST (R286).  ST stores an index register into 8 B of the static region or hand-over space. -/
  | st (c : Nat)
  /-- STRM (R291).  STRM starts a stream on a transfer queue from the list its index register names. -/
  | strm (c : Nat)
  /-- WLOAD (R249).  WLOAD asks the weight ring for a shard into the core's ring window. -/
  | wload (c : Nat)
  /-- GATH (R345).  GATH queues a gather command block for the Nuthatch gather engine on a read queue. -/
  | gath (c : Nat)
  /-- MACT (R319).  MACT multiplies and accumulates one tile into a tally slot through a shadow set. -/
  | mact (c : Nat) (ecc : Ecc)
  /-- VACC (R294).  VACC reduces rows element-wise into a tally slot. -/
  | vacc (c : Nat) (ecc : Ecc)
  /-- FUSE (R295).  FUSE names the second tensor for the DRAIN that immediately follows. -/
  | fuse (c : Nat)
  /-- DRAIN (R338).  DRAIN scales, fuses, activates and quantises a slot into work store, optionally with a header. -/
  | drain (c : Nat) (ecc : Ecc)
  /-- CORE_FLT_CLEAR (R300).  Writing 1 to CORE_FLT.VALID clears the fault and restarts a core stopped on a fault. -/
  | coreFltClear (m c : Nat)
  /-- CORE_RUNLIM_EXPIRY (R302).  An operation held past CORE_RUNLIM faults with sequencer subcode 0x0F. -/
  | coreRunlimExpiry (c : Nat)
  /-- GATHER_COMMAND_START (R346). The gather engine takes its next command block whole and begins its metadata
  reads. -/
  | gatherCommandStart (c : Nat) (errs : Errs)
  /-- GATHER_ROW_FETCH (R356). The gather engine issues a row fetch once a vertex or index is checked and OUT_MAX
  and staging allow. -/
  | gatherRowFetch (c : Nat) (errs : Errs)
  /-- GATHER_ROW_ARRIVE (R359).  A fetched row arrives and is decoded, emitted or reduced in edge order. -/
  | gatherRowArrive (c id : Nat) (errs : Errs)
  /-- EMBED_UPDATE (R390).  A migration engine adds gradient rows into a MASTER table's records with atomics. -/
  | embedUpdate (p slot : Nat) (errs : Errs)
  /-- REQUANT (R392).  A migration engine requantises master rows into a SERVE table's records. -/
  | requant (p slot : Nat) (errs : Errs)
  /-- MIGRATE_ROWS (R394).  A migration engine moves listed rows to target shards and updates the redirect tables. -/
  | migrateRows (p slot : Nat) (errs : Errs)
  /-- ROW_MOVE_REDIRECT (R394). Once a moved record's writes are acknowledged, its redirect entry is written to RDIR
  and every cluster copy. -/
  | rowMoveRedirect (p slot row : Nat) (errs : Errs)
  /-- ROW_MOVE_FINISH (R394). Once a move's redirect writes are acknowledged, the old spare slot is freed and the
  move counts in DONE. -/
  | rowMoveFinish (p slot row : Nat) (errs : Errs)
  /-- LOAD (R432).  Graph command LOAD reserves its slots as LOADING and reads and validates the descriptors. -/
  | load (p : Nat)
  /-- LOAD_COMMIT (R432). Once every descriptor is read, the LOAD commits all slots at one instant or returns them
  to EMPTY. -/
  | loadCommit (p : Nat) (errs : Errs)
  /-- SIGNAL (R429).  Graph command SIGNAL applies NDEC decrements to one slot. -/
  | signal (p : Nat)
  /-- LINK (R429).  Graph command LINK adds an edge from slot A to waiting slot B and raises B's count. -/
  | link (p : Nat)
  /-- UNLOAD (R429).  Graph command UNLOAD empties a range of slots with their banks and LINK edges. -/
  | unload (p : Nat)
  /-- RETRY (R429).  Graph command RETRY makes a FAULTED slot READY again. -/
  | retry (p : Nat)
  /-- SCH_CMD_GO (R456). Writing SCH_CMD_GO enqueues a copy of the graph command words in the partition's command
  queue. -/
  | schCmdGo (m p v : Nat)
  /-- FLOWCFG_WRITE (R463).  A write to SCH_FLOWCFG changes the selected flow's enable, type, hold or window. -/
  | flowcfgWrite (m p v : Nat)
  /-- GRANT (R449). The scheduler grants an eligible READY operation to a waiting executor by priority, flow
  rotation and age. -/
  | grant (p : Nat) (errs : Errs)
  /-- EPOCH_APPLY (R437). Once the partition has drained, the EPOCH applies its phase map, issues prefetch GOs and
  completes. -/
  | epochApply (p : Nat) (errs : Errs)
  /-- DELAY_EXPIRY (R458).  TBS_NOW reaches a delay entry's deadline and the DELAY completes. -/
  | delayExpiry (p : Nat) (errs : Errs)
  /-- MOVE (R415).  A core runs a MOVE plan, copying or zeroing ranges within the chip. -/
  | move (c : Nat) (errs : Errs)
  /-- RESHARD (R415).  A core runs a RESHARD plan, writing ranges locally and to other chips of the job domain. -/
  | reshard (c : Nat) (errs : Errs)
  /-- COMPLETION (R452). An operation completes at its executor and is released at once or held for ordered release.
  -/
  | completion (p slot : Nat) (errs : Errs)
  /-- OPERATION_FAULT (R426). An operation that faults becomes FAULTED, or is released as a completion when FREL is
  1. -/
  | operationFault (p slot code : Nat) (site : Option Sram) (errs : Errs)
  /-- TOKENIZE (R482).  A token engine turns a stream's carry and input bytes into tokens and updates the carry. -/
  | tokenize (p slot : Nat) (errs : Errs)
  /-- VOCAB_LOAD (R494).  Writing TOK_VLD_CTL.GO loads a hash or trie vocabulary image into the selected slot. -/
  | vocabLoad (m e : Nat)
  /-- VOCAB_LOAD_DONE (R477).  A vocabulary load ends, setting VALID on success or ERR and CODE on failure. -/
  | vocabLoadDone (e n : Nat) (errs : Errs)
  /-- TOK_VSLOT_WRITE (R493).  A write to TOK_VSLOT sets a slot's owner and block range and clears VALID. -/
  | tokVslotWrite (m e v : Nat)
  /-- TOK_STRM_CTL_WRITE (R495). A write to TOK_STRM_CTL enables, disables or rebinds a stream, clearing its carry
  as stated. -/
  | tokStrmCtlWrite (m e v : Nat)
  /-- DETOKENIZE (R504). A token engine turns tokens into bytes, holding partial stop strings and characters and
  stopping on a match. -/
  | detokenize (p slot : Nat) (errs : Errs)
  /-- CONSTRAIN_MASK (R511). CONSTRAIN with ADV 0 writes the permitted-token mask or masked logits of the current
  automaton state. -/
  | constrainMask (p slot : Nat) (errs : Errs)
  /-- CONSTRAIN_ADVANCE (R511).  CONSTRAIN with ADV 1 advances the automaton state through the given tokens. -/
  | constrainAdvance (p slot : Nat) (errs : Errs)
  /-- STOP_SET_LOAD (R502).  Writing TOK_SLD_CTL.GO loads a stop-set image into a block for an owner. -/
  | stopSetLoad (m e owner blk : Nat)
  /-- STOP_SET_LOAD_DONE (R503).  A stop-set load ends, setting VALID and NSTOP or ERR and CODE. -/
  | stopSetLoadDone (e blk : Nat) (errs : Errs)
  /-- PAUSE (R522).  CKP PAUSE stops grants in the partition and waits for its in-service work to end. -/
  | pause (m p : Nat)
  /-- PAUSE_QUIESCED (R522). Once every operation and request has ended, delay times are recorded and the partition
  becomes PAUSED. -/
  | pauseQuiesced (p : Nat)
  /-- CKP_QTMO_EXPIRY (R524). A pause still PAUSING after CKP_QTMO is abandoned, the partition resumes and CKP_BLOCK
  is set. -/
  | ckpQtmoExpiry (p : Nat)
  /-- CAPTURE (R541).  CKP CAPTURE pauses the partition if needed and writes a sealed checkpoint image. -/
  | capture (m p : Nat) (dom resume : Bool)
  /-- CAPTURE_COMMIT (R535). Once every image write is acknowledged, STATE and MTAG are written and the partition
  becomes PAUSED or RUNNING. -/
  | captureCommit (errs : Errs)
  /-- CAPTURE_FAIL (R543). An uncorrectable error in captured on-die state stops the capture with 0x07 and leaves
  the image uncommitted. -/
  | captureFail (tmo : Bool)
  /-- CHECKPOINT (R545). A granted CHECKPOINT operation pauses its own partition and checks capacity and the
  exclusion list. -/
  | checkpoint (p : Nat) (errs : Errs)
  /-- CHECKPOINT_CAPTURE_START (R547). After the CHECKPOINT's remote decrements complete, the capture of the
  partition starts. -/
  | checkpointCaptureStart (p : Nat) (errs : Errs)
  /-- RESUME (R558). CKP RESUME rebases delay deadlines and makes a PAUSED partition RUNNING, sending RELEASE when
  DOMAIN is set. -/
  | resume (m p : Nat) (dom : Bool)
  /-- RESTORE (R554).  CKP RESTORE checks an image and reads its verified chunks into the partition. -/
  | restore (m p : Nat) (errs : Errs)
  /-- RESTORE_DONE (R555). Once every restore write is acknowledged the partition becomes PAUSED with its CKP_PCUT
  set. -/
  | restoreDone (errs : Errs)
  /-- RESTORE_FAIL (R556).  A restore that fails after starting empties the partition's state and leaves it PAUSED. -/
  | restoreFail (tmo : Bool)
  /-- ABORT (R551).  CKP ABORT stops a capture or a coordinated domain capture and sends ABORT to members. -/
  | abort (m p : Nat)
  /-- HOLD (R550).  A HOLD cut message arriving at a member starts its pause and records CUT_ID. -/
  | hold (l hdr : Nat) (data : List Byte)
  /-- HOLD_DONE (R550). A HOLD_DONE arriving at the coordinator counts the member paused, and CUT is sent when all
  have answered. -/
  | holdDone (l hdr : Nat) (data : List Byte)
  /-- CUT (R550).  A CUT arriving at a member starts its capture. -/
  | cut (l hdr : Nat) (data : List Byte)
  /-- CUT_DONE (R551). A CUT_DONE arriving at the coordinator records the member's code and ends or aborts the
  domain capture. -/
  | cutDone (l hdr : Nat) (data : List Byte)
  /-- RELEASE_CUT (R558). A RELEASE arriving at a member resumes its partition when it is PAUSED with the same cut.
  -/
  | releaseCut (l hdr : Nat) (data : List Byte)
  /-- ABORT_CUT (R551).  An ABORT arriving at a member stops its capture and returns it to RUNNING. -/
  | abortCut (l hdr : Nat) (data : List Byte)
  /-- CKP_DTMO_EXPIRY (R552). CKP_DTMO expires at the coordinator or a member, aborting the domain capture or
  returning the member to RUNNING with 0x17. -/
  | ckpDtmoExpiry (p : Nat)
  /-- IKEY_LOAD (R539).  SEC_IKEY_CTL LOAD installs the staged image key and ID for a partition. -/
  | ikeyLoad (m p : Nat)
  /-- IKEY_CLEAR (R540).  SEC_IKEY_CTL CLEAR removes a partition's image key. -/
  | ikeyClear (m p : Nat)
  /-- LINK_TRAIN_START (R577).  Setting LNK_CTL.LINK with EN 1, or RETRAIN, starts link training from DETECT. -/
  | linkTrainStart (m l v : Nat)
  /-- LINK_STOP (R577).  Writing LINK 0 or clearing EN takes the link down and stops training. -/
  | linkStop (m l v : Nat)
  /-- TS1 (R577). A received TS1 control block reports the sender's lane and good-lane mask during DETECT and LANES.
  -/
  | ts1 (l : Nat) (b : List Byte)
  /-- TS2 (R577).  A received TS2 control block exchanges generation, FEC, spare, width, FVER and identity. -/
  | ts2 (l : Nat) (b : List Byte)
  /-- EQREQ (R571).  A received EQREQ asks for a preset or a tap adjustment, or reports READY. -/
  | eqreq (l : Nat) (b : List Byte)
  /-- EQACK (R571).  A received EQACK accepts or refuses an equalisation request. -/
  | eqack (l : Nat) (b : List Byte)
  /-- TRAIN_STEP_DONE (R577).  A training step's condition is met and training moves to the next step. -/
  | trainStepDone (l : Nat)
  /-- LINK_UP (R577).  Training reaches UP, LNK_STS.UP becomes 1 and replay starts at SEQ 0. -/
  | linkUp (l : Nat)
  /-- TRAIN_FAIL (R578). A failed step or LNK_TRN_TMO restarts training at a lower generation, or sets TFAIL after
  G1. -/
  | trainFail (l : Nat)
  /-- LANE_FAULT (R573).  A lane loses lock or exceeds its error limits and becomes faulted. -/
  | laneFault (l lane : Nat)
  /-- RECOVERY_END (R575).  RECOVERY ends and the link resumes with its replay state and credits kept. -/
  | recoveryEnd (l : Nat)
  /-- DATA_FLIT (R580). A received DATA flit is accepted or discarded with a NAK, and its ACK and credit fields are
  used. -/
  | dataFlit (l : Nat) (b : List Byte) (fecc fecu : Nat)
  /-- NOP_FLIT (R580).  A received NOP flit carries ACK, NAK and credit fields and is otherwise discarded. -/
  | nopFlit (l : Nat) (b : List Byte) (fecc fecu : Nat)
  /-- CREDIT_INIT (R577).  A received CREDIT_INIT LCTRL flit sets a virtual channel's initial credits. -/
  | creditInit (l : Nat) (b : List Byte)
  /-- RECOVER (R579).  A received RECOVER LCTRL flit takes part in link recovery. -/
  | recover (l : Nat) (b : List Byte)
  /-- NOP_INSERT (R572).  After 4,095 non-NOP flits the transmitter sends a NOP flit. -/
  | nopInsert (l : Nat)
  /-- REPLAY_TIMER_EXPIRY (R580). No ACK progress for LNK_RPLY.TMR_NS makes the transmitter resend every
  unacknowledged flit. -/
  | replayTimerExpiry (l : Nat)
  /-- READ (R589).  An arriving fabric READ is checked and reads up to 256 B for its completion. -/
  | read (l hdr : Nat) (data : List Byte) (errs : Errs)
  /-- WRITE (R589). An arriving fabric WRITE is checked and writes up to 256 B, completing after the write is
  acknowledged. -/
  | write (l hdr : Nat) (data : List Byte)
  /-- ATOMIC (R588).  An arriving fabric ATOMIC is checked and performed at its line arbiter. -/
  | atomic (l hdr : Nat) (data : List Byte) (errs : Errs)
  /-- MESSAGE (R592).  An arriving MESSAGE writes one record into the message ring of its arrival link. -/
  | message (l hdr : Nat) (data : List Byte)
  /-- EVENT (R420).  An arriving EVENT applies one decrement to the named slot of the arrival partition. -/
  | event (l hdr : Nat) (data : List Byte)
  /-- TSTREAM (R593).  An arriving TSTREAM appends its data to a ring and advances TAIL, or answers FULL. -/
  | tstream (l hdr : Nat) (data : List Byte) (errs : Errs)
  /-- CPL (R591).  An arriving completion finishes its outstanding request, or is discarded as stray. -/
  | cpl (l hdr : Nat) (data : List Byte)
  /-- LNK_RTMO_EXPIRY (R601). A fabric request without completion after LNK_RTMO faults with 0x17 and its tag is
  quarantined. -/
  | lnkRtmoExpiry (t : Nat)
  /-- TAG_QUARANTINE_END (R603).  A tag released without its completion becomes reusable after FAB_TAG_QNS. -/
  | tagQuarantineEnd (t : Nat)
  /-- LNK_XCTL_GO (R588).  Writing LNK_XCTL.GO sends one transaction from the LNK_XHDR registers on this link. -/
  | lnkXctlGo (m l v : Nat)
  /-- SQ_TAIL_WRITE (R627).  A write to Q_SQ_TAIL announces new submission queue entries. -/
  | sqTailWrite (p q v : Nat)
  /-- SQ_FETCH (R627). The N4 fetches an SQ entry and offers its command to the partition's command queue; `res`: 0,
  0x03 where host memory does not answer, another code where the fetch fails. -/
  | sqFetch (p : Nat) (entry : List Byte) (res : Nat)
  /-- CQ_WRITE (R629).  When a command completes or is refused, the N4 writes its CQ entry. -/
  | cqWrite (p q : Nat)
  /-- COMPLETION_INTERRUPT (R630). Within 1 µs of the first completion it covers, the queue pair sends its MSI-X
  message. -/
  | completionInterrupt (p q : Nat)
  /-- Q_CFG_WRITE (R635).  A write to Q_CFG enables or stops a queue pair, resetting its indices when enabled. -/
  | qCfgWrite (p q v : Nat)
  /-- HOST_WINDOW_READ (R617). A host read through a host window reads device memory as the window's owner; `tmo`:
  the controller does not answer it. -/
  | hostWindowRead (win ofs len : Nat) (bar4 tmo : Bool) (errs : Errs)
  /-- HOST_WINDOW_WRITE (R617). A host write through a host window writes device memory as the window's owner;
  `pois`: the data is marked poisoned; `tmo`: the controller does not answer it. -/
  | hostWindowWrite (win ofs : Nat) (data : List Byte) (bar4 pois tmo : Bool)
  /-- ATS_INVALIDATE (R633).  An ATS invalidation removes cached translations within 10 µs. -/
  | atsInvalidate (fn page n : Nat)
  /-- PF_FLR (R636).  An FLR of the PF clears VF Enable, disables the HIF ring and every host window. -/
  | pfFlr
  /-- UPSTREAM_RESET (R637). PERST_N low or the upstream link going down resets every function and disables the
  partitions. -/
  | upstreamReset (perst : Bool)
  /-- FSC_PRESENT (R743). FSC_PRSNT_N falls and PRESENT becomes 1 after filtering, powering the slot when POWER is
  1. -/
  | fscPresent (port : Nat)
  /-- FSC_PERST_RELEASE (R743). 100 ms after slot power, or after a 1 s retry wait, FSC_PERST_N is released and the
  root port trains. -/
  | fscPerstRelease (port : Nat)
  /-- FSC_TRAIN_CHECK (R743). 100 ms after PERST release the port sets LINK_UP or holds PERST low and waits to
  retry. -/
  | fscTrainCheck (port : Nat) (link : Option (Nat × Nat × Nat))
  /-- PORT_LOST (R640). A READY port whose link drops or expander is removed faults its requests with 0x1B and
  becomes LOST. -/
  | portLost (port : Nat) (gone : Bool)
  /-- FSC_ACCEPT (R642).  FSC_HP.ACCEPT makes the port READY with its new capacity. -/
  | fscAccept (m port cap : Nat)
  /-- FSC_DRAIN (R641).  FSC_HP.DRAIN makes the port refuse new accesses. -/
  | fscDrain (m port : Nat)
  /-- FSC_DRAINED (R641).  A draining port with no request outstanding sets DRAINED and clears READY. -/
  | fscDrained (port : Nat)
  /-- FSC_POWER_WRITE (R744).  A write to FSC_HP.POWER powers the slot on, or off when drained or lost. -/
  | fscPowerWrite (m port : Nat) (on : Bool)
  /-- SCRUB_LINE (R652).  A scrubber checks one line within one grant and corrects, poisons or rewrites it. -/
  | scrubLine (pg ofs : Nat) (ecc : Ecc) (again : Bool)
  /-- ROW_REPAIR (R656).  A controller copies a queued row to a spare row and remaps it live. -/
  | rowRepair (pg : Nat) (uncorr : List Nat) (spareBad : Bool)
  /-- RAS_FENCE (R666).  Writing RAS_FENCE.GO fences a block, abandoning its work until cold reset. -/
  | rasFence (m pg : Nat)
  /-- RAS_LOG_POP (R661).  Writing RAS_LOG_POP removes the oldest history entry into RAS_LOG_W0–W3. -/
  | rasLogPop (m : Nat)
  /-- LOOP_INTERVAL (R675). At each loop interval a die's loop computes and writes its new VCORE target over AVSBus.
  -/
  | loopInterval (die : Nat) (tj : Option Int) (hbm : Int) (pkg sense cur : Nat) (ok : Bool)
  /-- HOT_N_INPUT (R677).  A filtered change of the HOT_N input makes every die step down while it is low. -/
  | hotNInput (low : Bool)
  /-- THERMAL_TRIP (R681). A die sensor at 125 °C or stack at 105 °C drives THERMTRIP_N low and stops all activity.
  -/
  | thermalTrip
  /-- BROWN_OUT (R682).  VCORE below 0.58 V for over 1 µs acts as PWROK low. -/
  | brownOut
  /-- PWROK_FALL (R701).  PWROK going low stops memory accesses and transmitters and holds cold reset. -/
  | pwrokFall
  /-- RST_N_RELEASE (R709).  Release of RST_N ends cold reset and starts the boot sequence. -/
  | rstNRelease
  /-- BOOT_IMAGE_VERIFY (R709).  The boot ROM verifies the active firmware slot, or the other, or enters recovery. -/
  | bootImageVerify (sigAct sigOther : Bool)
  /-- SEC_SELFTEST_DONE (R146).  The security unit passes its self-tests, fills slot 8 and derives the device key. -/
  | secSelftestDone (ok : Bool)
  /-- MEMORY_TRAINED (R709).  A near channel calibrates or a stack trains, or fails and is fenced, during boot. -/
  | memoryTrained (pg rate : Nat) (ok : Bool)
  /-- UPSTREAM_RELEASE (R709).  Boot step 11 releases the upstream port and records FW_BOOT_TIME. -/
  | upstreamRelease (us : Nat) (link : Nat × Nat × Nat × Bool)
  /-- WARM_RESET (R704). FW_CTL.WARM disables partitions, resets blocks, rotates Tormal's key and reruns the boot
  from step 3. -/
  | warmReset (m : Nat)
  /-- REQUEST_UPDATE (R715).  PLDM RequestUpdate invalidates the inactive slot and starts the image transfer. -/
  | requestUpdate (pcie : Bool) (comp : Nat)
  /-- TRANSFER_COMPLETE_PLDM (R715). PLDM TransferComplete verifies the new image and sets or refuses the slot's
  VALID. -/
  | transferCompletePldm (sig : Bool) (svn build : Nat)
  /-- ACTIVATE_FIRMWARE (R715). PLDM ActivateFirmware sets UPDATE and restarts the management core on the new image.
  -/
  | activateFirmware (pcie : Bool)
  /-- TORMAL_READY (R715).  The new Tormal reports ready, ACT switches and GLB_STATE is restored. -/
  | tormalReady
  /-- FW_ACT_TMO_EXPIRY (R715). No ready report within FW_ACT_TMO restarts the management core on the previous slot.
  -/
  | fwActTmoExpiry
  /-- SVN_COMMIT (R717).  FW_CTL.SVN_COMMIT raises the fused SVN to the active image's SVN. -/
  | svnCommit (m : Nat)
  /-- WDT_KICK (R718).  Writing MGT_WDT.KICK restarts the watchdog interval. -/
  | wdtKick (m : Nat)
  /-- WDT_EXPIRY (R718).  The watchdog expires, the management core restarts and WDT_CNT rises. -/
  | wdtExpiry
  /-- MCTP_CONTROL (R713).  An MCTP control message is answered by the management endpoint. -/
  | mctpControl (pcie : Bool) (cmd : Nat)
  /-- SET_ENDPOINT_ID (R713).  The bus owner's Set Endpoint ID sets MGT_EID. -/
  | setEndpointId (pcie : Bool) (eid : Nat)
  /-- PLDM_SENSOR_READ (R713).  A PLDM monitoring request returns a sensor reading. -/
  | pldmSensorRead (pcie : Bool) (n : Nat)
  /-- VENDOR_REQUEST (R713).  A vendor-defined PCI message carries a request to Tormal. -/
  | vendorRequest (pcie : Bool) (q : TormalReq)
  /-- GET_VERSION (R719).  SPDM GET_VERSION returns the supported versions. -/
  | getVersion (pcie : Bool)
  /-- GET_CAPABILITIES (R719).  SPDM GET_CAPABILITIES returns the responder's capabilities. -/
  | getCapabilities (pcie : Bool)
  /-- NEGOTIATE_ALGORITHMS (R719).  SPDM NEGOTIATE_ALGORITHMS selects the algorithms. -/
  | negotiateAlgorithms (pcie ok : Bool)
  /-- GET_DIGESTS (R720).  SPDM GET_DIGESTS returns the certificate chain digests. -/
  | getDigests (pcie : Bool)
  /-- GET_CERTIFICATE (R720).  SPDM GET_CERTIFICATE returns the certificate chain of slot 0. -/
  | getCertificate (pcie : Bool) (slot : Nat)
  /-- CHALLENGE (R720).  SPDM CHALLENGE is answered with a signature by the device key. -/
  | challenge (pcie : Bool) (slot : Nat)
  /-- GET_MEASUREMENTS (R721).  SPDM GET_MEASUREMENTS returns the SHA-384 measurements. -/
  | getMeasurements (pcie : Bool) (op : Nat)
  /-- KEY_EXCHANGE (R719).  SPDM KEY_EXCHANGE begins a secured session. -/
  | keyExchange (pcie : Bool) (slot : Nat)
  /-- FINISH (R719).  SPDM FINISH completes the secured session handshake. -/
  | finish (pcie : Bool) (id : Nat) (ok : Bool)
  /-- END_SESSION (R719).  SPDM END_SESSION ends a secured session. -/
  | endSession (pcie : Bool) (id : Nat)
  /-- HEARTBEAT (R719).  SPDM HEARTBEAT keeps a secured session alive. -/
  | heartbeat (pcie : Bool) (id : Nat)
  /-- KEY_UPDATE (R719).  SPDM KEY_UPDATE updates a secured session's keys. -/
  | keyUpdate (pcie : Bool) (id : Nat)
  /-- PERF_SEL_WRITE (R724).  A write to PG_PERF_SEL selects, starts, holds or clears the page counter. -/
  | perfSelWrite (m pg v : Nat)
  /-- DBG_ENTER (R732).  DBG_CMD ENTER puts a consenting partition in debug mode. -/
  | dbgEnter (m p : Nat)
  /-- DBG_EXIT (R733).  DBG_CMD EXIT ends a partition's debug mode. -/
  | dbgExit (m p : Nat)
  /-- CLU_DBG_WRITE (R733). A write to CLU_DBG sets trace and debug consent, ending debug mode when DEBUG is
  cleared. -/
  | cluDbgWrite (m k v : Nat)
  /-- DBG_RD_GO (R735).  Writing DBG_RD_GO reads 8 B of a debug-visible resource. -/
  | dbgRdGo (m : Nat)
  /-- DBG_TRC_CTL_WRITE (R737).  A write to DBG_TRC_CTL starts or stops tracing and resets the trace counters. -/
  | dbgTrcCtlWrite (m v : Nat)
  /-- RST_N_ASSERT (R703).  RST_N going low with PWROK high starts and holds cold reset. -/
  | rstNAssert
  /-- PERST_N_RELEASE (R613). PERST_N rising after an upstream reset lets the upstream port train and its functions
  return. -/
  | perstNRelease (gen width cxl : Nat) (mem : Bool)
  /-- BRIDGE_MODULE_TRAINED (R29). A die-bridge module completes training at its rate and counts as up once enabled
  in both BRG pages. -/
  | bridgeModuleTrained (mod : Nat) (rate : Option Nat)
  /-- BRIDGE_LANE_REPAIR (R19). A failing bridge lane is replaced by a redundant lane of its module and
  BRG_REPAIR.LANE_CNT rises. -/
  | bridgeLaneRepair (die mod : Nat)
  /-- FSC_PRSNT_N_RISE (R743). FSC_PRSNT_N rising, or the link dropping, on a far-store port that is not READY
  clears PRESENT or LINK_UP. -/
  | fscPrsntNRise (port : Nat) (gone : Bool)
  /-- DYNAMIC_ADDRESS_ASSIGN (R713). The I3C bus controller assigns the management endpoint a dynamic address,
  setting MGT_BUS.DYN and DA. -/
  | dynamicAddressAssign (addr : Nat)
  /-- I3C_BUS_RESET (R713). A reset of the management bus applies a new MGT_BUS.SA and may switch between I3C and
  SMBus. -/
  | i3cBusReset (smbus : Bool)
  /-- DOE_CDAT_READ (R612).  A DOE request for CDAT on the upstream port is answered with the device's CDAT. -/
  | doeCdatRead
  /-- CXL_SNOOP (R614).  A CXL.cache snoop from the host is answered as a miss. -/
  | cxlSnoop (addr : Nat)
  /-- MSIX_UNMASK (R631). Unmasking an MSI-X vector whose pending bit is set sends its message and clears the
  pending bit. -/
  | msixUnmask (fn : Nat) (x : MsixSet)
  deriving DecidableEq, Repr

end Sys2Proof
end

