-- ==== Sys2Proof/Decode.lean ====
section
/-! DEFINITION.  The command that a word spells by the bits of spec/opcode_table.json.  No row of that table
gives bits: the commands of this block have no encoding, so no word spells one. -/

namespace Sys2Proof

/-- The command of a word whose bits are `w`: none, since no row of the table has bits. -/
def decodeTableWord (_nbits _w : Nat) : Option Instr := none

end Sys2Proof
end

