-- ==== Sys2Proof/Config.lean ====
section
/-! DEFINITION.  What the spec leaves to the part, to its environment or to nobody: fused values,
values the spec calls unpredictable, and results it does not state.  Each is an opaque constant:
no proof can see what it is, so a statement that holds, holds whatever it is. -/

namespace Sys2Proof.Config

/-- A value the spec leaves open, drawn at the `n`-th time one is needed. -/
opaque freeValue (n : Nat) : BitVec 64

/-- R152: the byte that reading tier byte `key` gives when the line's ciphertext `ghost` was not
written under the reader's key `reader`. -/
opaque unpredictable (key ghost reader : Nat) : Byte

/-- R15, R16: is this core slot (256 × die + slot) marked in the manufacturing defect map? -/
opaque coreDefect (slot : Nat) : Bool

/-- Table 15-5: byte `i` of what image `serial` holds in its sections 0x01 to 0x06 (`what` 0), whose arrangement only
an N4 reads, and in the 64 bytes before POISON's records (`what` 1), which the spec does not describe. -/
opaque imageByte (serial what i : Nat) : Byte

/-- GLB_UID: the fused 64-bit unique device number. -/
opaque uid : BitVec 64

/-- FW_STS.SVN: the fused security version the part left manufacture with, 0 to 63. -/
opaque fusedSvn : Nat

/-- FW_STS.LIFE: the lifecycle state the part left manufacture in (Table 20-5). -/
opaque fusedLife : Nat

/-- FW_STS.ACT: the firmware slot active at first. -/
opaque fwAct : Nat

/-- The firmware image a slot (0 A, 1 B) holds at first: verified, its SVN and its build. -/
opaque fwImage (slot : Nat) : Bool × Nat × Nat

/-- R612: the device's CDAT, read by DOE. -/
opaque cdat : List Byte

/-- R713, R719: the body of a management response that the spec leaves to other documents, drawn at the
`n`-th time one is needed. -/
opaque mgmtBody (n : Nat) : List Byte

/-- R721: the SHA-384 digest of what a measurement block measures. -/
opaque digest (index : Nat) (measured : List Nat) : List Byte

/-- RAS_SPARE_VAL.LEFT: the fused number of spare rows of controller page `pg` that manufacture left unused. -/
opaque spareRows (pg : Nat) : Nat

/-- Bytes of the management core's SRAM (EVQ_BASE_LO.SPACE 0b11): the spec gives no size. -/
opaque sramBytes : Nat

end Sys2Proof.Config
end

