-- ==== Sys2Proof/Machine/Regs.lean ====
section
/-! DEFINITION.  The control-space register tables of the AQ-N4, transcribed from the
"### NAME - page TYPE - offset" tables at the end of each chapter of spec/ (R12, R13, R72 to R75).

`R.<NAME>` is a register's offset in its page, `F.<NAME>_<FIELD>` one field of it, and
`regsOf` the whole list of a page type, by which writes are checked field by field and
reset words are read. -/

namespace Sys2Proof

/-- Table 00-4: the access types of register fields (R12). -/
inductive Acc | ro | rw | rwl | w1c | wo | res0 | claim
  deriving DecidableEq, Repr

/-- Table 03-1: the page types. -/
inductive PageType
  | glb | tbs | sec | prt | pwr | ras | dbg | mgt | fw | hif | brg | sch | tok | ckp | mig
  | lnk | nsc | msc | fsc | clu | core
  deriving DecidableEq, Repr

/-- One field of a register: its bits, access type and reset value (R12, R13). -/
structure Field where
  hi : Nat
  lo : Nat
  acc : Acc
  reset : Nat
  deriving DecidableEq, Repr

/-- One register, or `count` registers `stride` bytes apart. -/
structure RegDef where
  ofs : Nat
  stride : Nat
  count : Nat
  fields : List Field
  deriving DecidableEq, Repr

/-- The place of one field: register offset in the page, and bits. -/
structure Fld where
  ofs : Nat
  hi : Nat
  lo : Nat
  deriving DecidableEq, Repr

/-- Field `f` of the `i`-th register of a bank with the given stride. -/
def Fld.at (f : Fld) (stride i : Nat) : Fld := ⟨f.ofs + stride * i, f.hi, f.lo⟩

/-- Table 03-1: the type code of a page. -/
def PageType.code : PageType → Nat
  | .glb => 0x01
  | .tbs => 0x02
  | .sec => 0x03
  | .prt => 0x04
  | .pwr => 0x05
  | .ras => 0x06
  | .dbg => 0x07
  | .mgt => 0x08
  | .fw => 0x09
  | .hif => 0x0A
  | .brg => 0x0B
  | .sch => 0x10
  | .tok => 0x11
  | .ckp => 0x12
  | .mig => 0x13
  | .lnk => 0x20
  | .nsc => 0x21
  | .msc => 0x22
  | .fsc => 0x23
  | .clu => 0x30
  | .core => 0x31

/-- Table 03-1: how many pages of a type there are (CORE: page numbers, see `slotExists`). -/
def PageType.count : PageType → Nat
  | .glb => 1
  | .tbs => 1
  | .sec => 1
  | .prt => 1
  | .pwr => 1
  | .ras => 1
  | .dbg => 1
  | .mgt => 1
  | .fw => 1
  | .hif => 1
  | .brg => 2
  | .sch => 9
  | .tok => 4
  | .ckp => 2
  | .mig => 2
  | .lnk => 64
  | .nsc => 128
  | .msc => 8
  | .fsc => 4
  | .clu => 48
  | .core => 512

/-- Table 03-1: the page index (offset / 0x1000) of instance 0. -/
def PageType.base : PageType → Nat
  | .glb => 0x0
  | .tbs => 0x1
  | .sec => 0x2
  | .prt => 0x3
  | .pwr => 0x4
  | .ras => 0x5
  | .dbg => 0x6
  | .mgt => 0x7
  | .fw => 0x8
  | .hif => 0x9
  | .brg => 0xA
  | .sch => 0x10
  | .tok => 0x20
  | .ckp => 0x28
  | .mig => 0x2C
  | .lnk => 0x300
  | .nsc => 0x400
  | .msc => 0x500
  | .fsc => 0x510
  | .clu => 0x800
  | .core => 0x1000

namespace R
abbrev BRG_CTL : Nat := 0x100
abbrev BRG_STS : Nat := 0x104
abbrev BRG_MOD_EN_LO : Nat := 0x108
abbrev BRG_MOD_EN_HI : Nat := 0x10C
abbrev BRG_MOD_UP_LO : Nat := 0x110
abbrev BRG_MOD_UP_HI : Nat := 0x114
abbrev BRG_REPLAY_CNT : Nat := 0x118
abbrev BRG_REPAIR : Nat := 0x11C
abbrev TBS_NOW_LO : Nat := 0x100
abbrev TBS_NOW_HI : Nat := 0x104
abbrev TBS_STS : Nat := 0x108
abbrev TBS_HOLD_NS : Nat := 0x10C
abbrev TBS_EVR_CTL : Nat := 0x110
abbrev TBS_EVR0 : Nat := 0x114
abbrev TBS_EVR1 : Nat := 0x118
abbrev TBS_REF_LOSS_CNT : Nat := 0x11C
abbrev PG_ID : Nat := 0x000
abbrev PG_VER : Nat := 0x004
abbrev PG_CAP : Nat := 0x008
abbrev PG_OWNER : Nat := 0x00C
abbrev PG_CTL : Nat := 0x010
abbrev PG_STS : Nat := 0x014
abbrev PG_EVT_RAW : Nat := 0x018
abbrev PG_EVT_EN : Nat := 0x01C
abbrev PG_EVT_PEND : Nat := 0x020
abbrev PG_EVT_SET : Nat := 0x024
abbrev PG_ERR_FIRST : Nat := 0x028
abbrev PG_ERR_CNT : Nat := 0x02C
abbrev PG_WREJ_OFS : Nat := 0x030
abbrev PG_TMO_NS : Nat := 0x034
abbrev PG_PERF_SEL : Nat := 0x038
abbrev PG_PERF_VAL_LO : Nat := 0x03C
abbrev PG_PERF_VAL_HI : Nat := 0x040
abbrev EVQ_BASE_LO : Nat := 0x100
abbrev EVQ_BASE_HI : Nat := 0x104
abbrev EVQ_CTL : Nat := 0x108
abbrev EVQ_PROD : Nat := 0x10C
abbrev EVQ_CONS : Nat := 0x110
abbrev EVQ_LOST : Nat := 0x114
abbrev GLB_PART : Nat := 0x100
abbrev GLB_UID_LO : Nat := 0x104
abbrev GLB_UID_HI : Nat := 0x108
abbrev GLB_STATE : Nat := 0x10C
abbrev GLB_SEQ_LO : Nat := 0x110
abbrev GLB_SEQ_HI : Nat := 0x114
abbrev GLB_TML_FILT : Nat := 0x118
abbrev GLB_ERRSUM_LO : Nat := 0x11C
abbrev GLB_ERRSUM_HI : Nat := 0x120
abbrev GLB_UNMAP : Nat := 0x124
abbrev PRT_CMD_LO : Nat := 0x100
abbrev PRT_CMD_HI : Nat := 0x104
abbrev PRT_STS : Nat := 0x108
abbrev PRT_RST_TMO : Nat := 0x10C
abbrev PRT_QSEL : Nat := 0x110
abbrev PRT_QVAL : Nat := 0x114
abbrev PRT_P_STS : Nat := 0x140
abbrev PRT_P_MEM : Nat := 0x144
abbrev PRT_T_MEM : Nat := 0x180
abbrev SEC_STS : Nat := 0x100
abbrev SEC_CMD : Nat := 0x104
abbrev SEC_SLOT : Nat := 0x140
abbrev MC_SHARE : Nat := 0x100
abbrev NSC_STS : Nat := 0x104
abbrev MSC_STS : Nat := 0x104
abbrev FSC_STS : Nat := 0x104
abbrev FSC_CAP : Nat := 0x108
abbrev FXR_BASE_LO : Nat := 0xE00
abbrev FXR_BASE_HI : Nat := 0xE04
abbrev FXR_LEN : Nat := 0xE08
abbrev FXR_CTL : Nat := 0xE0C
abbrev ALC_SIZE : Nat := 0xF00
abbrev ALC_REC_LO : Nat := 0xF04
abbrev ALC_REC_HI : Nat := 0xF08
abbrev ALC_CMD : Nat := 0xF0C
abbrev ALC_HANDLE : Nat := 0xF10
abbrev ALC_STS : Nat := 0xF14
abbrev ALC_CNT : Nat := 0xF18
abbrev ALC_FREE_NEAR : Nat := 0xF1C
abbrev ALC_FREE_MID : Nat := 0xF20
abbrev ALC_FREE_FAR : Nat := 0xF24
abbrev TQ_CFG : Nat := 0x300
abbrev TQ_STS : Nat := 0x310
abbrev WS_POOL : Nat := 0x320
abbrev WS_POOL_STS : Nat := 0x324
abbrev WS_REFUSE_CNT : Nat := 0x328
abbrev WS_BUF_WAIT : Nat := 0x32C
abbrev CORE_PHASE : Nat := 0x330
abbrev CLU_WCFG : Nat := 0x100
abbrev CLU_PHASE : Nat := 0x104
abbrev CLU_PHASE_STS : Nat := 0x108
abbrev CLU_LPF_LIST_LO : Nat := 0x10C
abbrev CLU_LPF_LIST_HI : Nat := 0x110
abbrev CLU_LPF_CTL : Nat := 0x114
abbrev CLU_LPF_STS : Nat := 0x118
abbrev CLU_LPF_BYTES : Nat := 0x11C
abbrev CLU_LPF_SURPLUS_LO : Nat := 0x120
abbrev CLU_LPF_SURPLUS_HI : Nat := 0x124
abbrev CLU_RING_STS : Nat := 0x128
abbrev CORE_ID : Nat := 0x100
abbrev CORE_BOOT : Nat := 0x104
abbrev CORE_CFG : Nat := 0x108
abbrev CORE_STS : Nat := 0x10C
abbrev CORE_OPID_LO : Nat := 0x110
abbrev CORE_OPID_HI : Nat := 0x114
abbrev CORE_PLD_SRC_LO : Nat := 0x118
abbrev CORE_PLD_SRC_HI : Nat := 0x11C
abbrev CORE_PLD_CTL : Nat := 0x120
abbrev CORE_PLD_STS : Nat := 0x124
abbrev CORE_PIMG : Nat := 0x128
abbrev CORE_RWIN : Nat := 0x12C
abbrev CORE_FLT : Nat := 0x130
abbrev CORE_FLT_AUX : Nat := 0x134
abbrev CORE_RUNLIM : Nat := 0x138
abbrev GLB_CSUB : Nat := 0x200
abbrev GLB_CSUB_STS : Nat := 0x204
abbrev GLB_CMAP_SEL : Nat := 0x208
abbrev GLB_CMAP_VAL : Nat := 0x20C
abbrev PRT_P_SEED_LO : Nat := 0x1C0
abbrev PRT_P_SEED_HI : Nat := 0x1C4
abbrev GTH_CFG : Nat := 0x400
abbrev GTH_STS : Nat := 0x404
abbrev GTH_ROWS_LO : Nat := 0x408
abbrev GTH_ROWS_HI : Nat := 0x40C
abbrev GTH_HUBS : Nat := 0x410
abbrev GTH_FLT : Nat := 0x414
abbrev GTH_FLT_POS : Nat := 0x418
abbrev GTH_FLT_VAL_LO : Nat := 0x41C
abbrev GTH_FLT_VAL_HI : Nat := 0x420
abbrev MIG_CFG : Nat := 0x100
abbrev MIG_STS : Nat := 0x104
abbrev MIG_ROWS_LO : Nat := 0x108
abbrev MIG_ROWS_HI : Nat := 0x10C
abbrev MIG_ATOM_LO : Nat := 0x110
abbrev MIG_ATOM_HI : Nat := 0x114
abbrev MIG_REQ_LO : Nat := 0x118
abbrev MIG_REQ_HI : Nat := 0x11C
abbrev MIG_FLT : Nat := 0x120
abbrev MIG_FLT_ADDR_LO : Nat := 0x124
abbrev MIG_FLT_ADDR_HI : Nat := 0x128
abbrev SCH_G_DISP : Nat := 0x100
abbrev SCH_G_RES : Nat := 0x140
abbrev SCH_G_READY : Nat := 0x160
abbrev SCH_CMD_W : Nat := 0x120
abbrev SCH_CMD_GO : Nat := 0x140
abbrev SCH_CMD_STS : Nat := 0x144
abbrev SCH_DCFG : Nat := 0x148
abbrev SCH_TICK : Nat := 0x14C
abbrev SCH_DLY_STS : Nat := 0x150
abbrev SCH_DLY_NEXT_LO : Nat := 0x154
abbrev SCH_DLY_NEXT_HI : Nat := 0x158
abbrev SCH_CNT_RUN : Nat := 0x15C
abbrev SCH_CNT_FAULT : Nat := 0x160
abbrev SCH_LINKS : Nat := 0x164
abbrev SCH_RELBUF : Nat := 0x168
abbrev SCH_ORPHAN_CNT : Nat := 0x16C
abbrev SCH_FLOWSEL : Nat := 0x170
abbrev SCH_FLOWCFG : Nat := 0x174
abbrev SCH_FLOWMASK_LO : Nat := 0x178
abbrev SCH_FLOWMASK_HI : Nat := 0x17C
abbrev SCH_FLOWSTS : Nat := 0x180
abbrev SCH_SLOTSEL : Nat := 0x184
abbrev SCH_SLOTSTS : Nat := 0x188
abbrev SCH_GRANTS_LO : Nat := 0x18C
abbrev SCH_GRANTS_HI : Nat := 0x190
abbrev TOK_VSEL : Nat := 0x100
abbrev TOK_VSLOT : Nat := 0x104
abbrev TOK_VLD_SRC_LO : Nat := 0x108
abbrev TOK_VLD_SRC_HI : Nat := 0x10C
abbrev TOK_VLD_CTL : Nat := 0x110
abbrev TOK_VSTS : Nat := 0x114
abbrev TOK_VINFO : Nat := 0x118
abbrev TOK_STRM_SEL : Nat := 0x11C
abbrev TOK_STRM_CTL : Nat := 0x120
abbrev TOK_STRM_STS : Nat := 0x124
abbrev TOK_STRM_TOK_LO : Nat := 0x128
abbrev TOK_STRM_TOK_HI : Nat := 0x12C
abbrev TOK_STRM_INV : Nat := 0x130
abbrev TOK_ENG_STS : Nat := 0x134
abbrev TOK_FLT : Nat := 0x138
abbrev TOK_FLT_ADDR_LO : Nat := 0x13C
abbrev TOK_FLT_ADDR_HI : Nat := 0x140
abbrev TOK_DTAB_LO : Nat := 0x200
abbrev TOK_DTAB_HI : Nat := 0x204
abbrev TOK_DCTL : Nat := 0x208
abbrev TOK_DSTS : Nat := 0x20C
abbrev TOK_DPOS_LO : Nat := 0x210
abbrev TOK_DPOS_HI : Nat := 0x214
abbrev TOK_CAUT_LO : Nat := 0x218
abbrev TOK_CAUT_HI : Nat := 0x21C
abbrev TOK_CSTATE : Nat := 0x220
abbrev TOK_SLD_SRC_LO : Nat := 0x224
abbrev TOK_SLD_SRC_HI : Nat := 0x228
abbrev TOK_SLD_CTL : Nat := 0x22C
abbrev TOK_SLD_STS : Nat := 0x230
abbrev CKP_CMD : Nat := 0x100
abbrev CKP_STS : Nat := 0x104
abbrev CKP_IMG_LO : Nat := 0x108
abbrev CKP_IMG_HI : Nat := 0x10C
abbrev CKP_IMG_CAP : Nat := 0x110
abbrev CKP_EXCL_LO : Nat := 0x114
abbrev CKP_EXCL_HI : Nat := 0x118
abbrev CKP_TAG_LO : Nat := 0x11C
abbrev CKP_TAG_HI : Nat := 0x120
abbrev CKP_QTMO : Nat := 0x124
abbrev CKP_DOM : Nat := 0x128
abbrev CKP_CUT_LO : Nat := 0x12C
abbrev CKP_CUT_HI : Nat := 0x130
abbrev CKP_DTMO : Nat := 0x134
abbrev CKP_NEED_LO : Nat := 0x138
abbrev CKP_NEED_HI : Nat := 0x13C
abbrev CKP_QTIME : Nat := 0x140
abbrev CKP_BLOCK : Nat := 0x144
abbrev CKP_ENG_BYTES_LO : Nat := 0x148
abbrev CKP_ENG_BYTES_HI : Nat := 0x14C
abbrev CKP_DOM_STS : Nat := 0x150
abbrev CKP_PSTS : Nat := 0x160
abbrev CKP_PCUT_LO : Nat := 0x180
abbrev CKP_PCUT_HI : Nat := 0x184
abbrev SEC_IKEY_W : Nat := 0x200
abbrev SEC_IKEY_ID_LO : Nat := 0x220
abbrev SEC_IKEY_ID_HI : Nat := 0x224
abbrev SEC_IKEY_CTL : Nat := 0x228
abbrev SEC_IKEY_STS : Nat := 0x22C
abbrev SEC_IKEY_IDR_LO : Nat := 0x230
abbrev SEC_IKEY_IDR_HI : Nat := 0x234
abbrev SEC_IKEY_SEL : Nat := 0x238
abbrev LNK_CTL : Nat := 0x100
abbrev LNK_STS : Nat := 0x104
abbrev LNK_PEER : Nat := 0x108
abbrev LNK_TRN_TMO : Nat := 0x10C
abbrev LNK_RTMO : Nat := 0x110
abbrev LNK_RPLY : Nat := 0x114
abbrev LNK_CNT_CRC : Nat := 0x118
abbrev LNK_CNT_RPLY : Nat := 0x11C
abbrev LNK_CNT_FECC : Nat := 0x120
abbrev LNK_CNT_FECU : Nat := 0x124
abbrev LNK_CNT_STRAY : Nat := 0x128
abbrev LNK_LANE_STS : Nat := 0x12C
abbrev LNK_CRD : Nat := 0x130
abbrev LNK_OUT : Nat := 0x144
abbrev LNK_LMAP_SEL : Nat := 0x148
abbrev LNK_LMAP_VAL : Nat := 0x14C
abbrev LNK_MRING_LO : Nat := 0x150
abbrev LNK_MRING_HI : Nat := 0x154
abbrev LNK_MRING_CTL : Nat := 0x158
abbrev LNK_MRING_PROD : Nat := 0x15C
abbrev LNK_MRING_CONS : Nat := 0x160
abbrev LNK_XHDR_W : Nat := 0x164
abbrev LNK_XDATA_LO : Nat := 0x174
abbrev LNK_XDATA_HI : Nat := 0x178
abbrev LNK_XRSP_LO : Nat := 0x17C
abbrev LNK_XRSP_HI : Nat := 0x180
abbrev LNK_XCTL : Nat := 0x184
abbrev LNK_XSTS : Nat := 0x188
abbrev FAB_DEVID : Nat := 0x300
abbrev FAB_RT_SEL : Nat := 0x304
abbrev FAB_RT_LO : Nat := 0x308
abbrev FAB_RT_HI : Nat := 0x30C
abbrev FAB_TAG_QNS : Nat := 0x310
abbrev FAB_TAGS : Nat := 0x314
abbrev HIF_LINK_STS : Nat := 0x120
abbrev HIF_CNT_DENY : Nat := 0x124
abbrev HIF_CNT_POISON : Nat := 0x128
abbrev HIF_ATS_STS : Nat := 0x12C
abbrev HIF_WIN_BASE_LO : Nat := 0x140
abbrev HIF_WIN_BASE_HI : Nat := 0x144
abbrev HIF_WIN_SIZE : Nat := 0x148
abbrev HIF_WIN_CTL : Nat := 0x14C
abbrev Q_SQ_LO : Nat := 0x000
abbrev Q_SQ_HI : Nat := 0x004
abbrev Q_CQ_LO : Nat := 0x008
abbrev Q_CQ_HI : Nat := 0x00C
abbrev Q_CFG : Nat := 0x010
abbrev Q_SQ_TAIL : Nat := 0x014
abbrev Q_SQ_HEAD : Nat := 0x018
abbrev Q_CQ_HEAD : Nat := 0x01C
abbrev Q_STS : Nat := 0x020
abbrev FSC_HP : Nat := 0x10C
abbrev FSC_HP_STS : Nat := 0x110
abbrev RAS_SCRUB_NEAR : Nat := 0x100
abbrev RAS_SCRUB_MID : Nat := 0x104
abbrev RAS_SCRUB_FAR : Nat := 0x108
abbrev RAS_SCRUB_STS : Nat := 0x10C
abbrev RAS_CE_THR : Nat := 0x110
abbrev RAS_ESC_CFG : Nat := 0x114
abbrev RAS_CNT_CE : Nat := 0x118
abbrev RAS_CNT_UE : Nat := 0x11C
abbrev RAS_CNT_FREEFIX : Nat := 0x120
abbrev RAS_CNT_REPAIR : Nat := 0x124
abbrev RAS_CNT_SRAM_CE : Nat := 0x128
abbrev RAS_CNT_SRAM_UE : Nat := 0x12C
abbrev RAS_REPAIR_STS : Nat := 0x130
abbrev RAS_SPARE_SEL : Nat := 0x134
abbrev RAS_SPARE_VAL : Nat := 0x138
abbrev RAS_FENCE : Nat := 0x13C
abbrev RAS_FENCE_SEL : Nat := 0x140
abbrev RAS_FENCE_VAL : Nat := 0x144
abbrev RAS_LOG_STS : Nat := 0x148
abbrev RAS_LOG_POP : Nat := 0x14C
abbrev RAS_LOG_W : Nat := 0x150
abbrev PWR_MODE : Nat := 0x100
abbrev PWR_VLIM : Nat := 0x104
abbrev PWR_VSET : Nat := 0x108
abbrev PWR_FLOOR : Nat := 0x10C
abbrev PWR_CAP : Nat := 0x110
abbrev PWR_TLIM : Nat := 0x114
abbrev PWR_LOOP : Nat := 0x118
abbrev PWR_V0 : Nat := 0x11C
abbrev PWR_V1 : Nat := 0x120
abbrev PWR_I : Nat := 0x124
abbrev PWR_PKG : Nat := 0x128
abbrev PWR_TEMP : Nat := 0x12C
abbrev PWR_STS : Nat := 0x130
abbrev PWR_LIM_TIME : Nat := 0x134
abbrev FW_STS : Nat := 0x100
abbrev FW_VER_A : Nat := 0x104
abbrev FW_VER_B : Nat := 0x108
abbrev FW_CTL : Nat := 0x10C
abbrev FW_ACT_TMO : Nat := 0x110
abbrev FW_BOOT_TIME : Nat := 0x114
abbrev MGT_STS : Nat := 0x120
abbrev MGT_WDT : Nat := 0x124
abbrev MGT_BUS : Nat := 0x128
abbrev MGT_EID : Nat := 0x12C
abbrev CLU_DBG : Nat := 0x200
abbrev DBG_CMD : Nat := 0x100
abbrev DBG_STS : Nat := 0x104
abbrev DBG_RD_SEL : Nat := 0x108
abbrev DBG_RD_ADDR : Nat := 0x10C
abbrev DBG_RD_GO : Nat := 0x110
abbrev DBG_RD_STS : Nat := 0x114
abbrev DBG_RD_DATA_LO : Nat := 0x118
abbrev DBG_RD_DATA_HI : Nat := 0x11C
abbrev DBG_TRC_LO : Nat := 0x120
abbrev DBG_TRC_HI : Nat := 0x124
abbrev DBG_TRC_CTL : Nat := 0x128
abbrev DBG_TRC_PROD : Nat := 0x12C
abbrev DBG_TRC_LOST : Nat := 0x130
abbrev DBG_CNT : Nat := 0x134
end R

namespace F
abbrev BRG_CTL_MAX_RATE : Fld := ⟨0x100, 2, 1⟩
abbrev BRG_CTL_RETRAIN : Fld := ⟨0x100, 0, 0⟩
abbrev BRG_STS_MOD_CNT : Fld := ⟨0x104, 8, 3⟩
abbrev BRG_STS_RATE : Fld := ⟨0x104, 2, 1⟩
abbrev BRG_STS_UP : Fld := ⟨0x104, 0, 0⟩
abbrev BRG_MOD_EN_LO_EN : Fld := ⟨0x108, 31, 0⟩
abbrev BRG_MOD_EN_HI_EN : Fld := ⟨0x10C, 7, 0⟩
abbrev BRG_MOD_UP_LO_UP : Fld := ⟨0x110, 31, 0⟩
abbrev BRG_MOD_UP_HI_UP : Fld := ⟨0x114, 7, 0⟩
abbrev BRG_REPLAY_CNT_CNT : Fld := ⟨0x118, 31, 0⟩
abbrev BRG_REPAIR_DOWN_CNT : Fld := ⟨0x11C, 15, 8⟩
abbrev BRG_REPAIR_LANE_CNT : Fld := ⟨0x11C, 7, 0⟩
abbrev TBS_NOW_LO_NOW_LO : Fld := ⟨0x100, 31, 0⟩
abbrev TBS_NOW_HI_NOW_HI : Fld := ⟨0x104, 31, 0⟩
abbrev TBS_STS_SKEW_NS : Fld := ⟨0x108, 15, 8⟩
abbrev TBS_STS_ALIGNED : Fld := ⟨0x108, 3, 3⟩
abbrev TBS_STS_HOLDOVER : Fld := ⟨0x108, 2, 2⟩
abbrev TBS_STS_REF_OK : Fld := ⟨0x108, 1, 1⟩
abbrev TBS_STS_LOCK : Fld := ⟨0x108, 0, 0⟩
abbrev TBS_HOLD_NS_HOLD_NS : Fld := ⟨0x10C, 31, 0⟩
abbrev TBS_EVR_CTL_CLR_MIN : Fld := ⟨0x110, 8, 8⟩
abbrev TBS_EVR_CTL_WIN : Fld := ⟨0x110, 3, 0⟩
abbrev TBS_EVR0_MIN : Fld := ⟨0x114, 31, 16⟩
abbrev TBS_EVR0_RATE : Fld := ⟨0x114, 15, 0⟩
abbrev TBS_EVR1_MIN : Fld := ⟨0x118, 31, 16⟩
abbrev TBS_EVR1_RATE : Fld := ⟨0x118, 15, 0⟩
abbrev TBS_REF_LOSS_CNT_CNT : Fld := ⟨0x11C, 15, 0⟩
abbrev PG_ID_TYPE : Fld := ⟨0x000, 31, 16⟩
abbrev PG_ID_INST : Fld := ⟨0x000, 15, 0⟩
abbrev PG_VER_STEP : Fld := ⟨0x004, 23, 16⟩
abbrev PG_VER_MAJOR : Fld := ⟨0x004, 15, 8⟩
abbrev PG_VER_MINOR : Fld := ⟨0x004, 7, 0⟩
abbrev PG_CAP_CAP : Fld := ⟨0x008, 31, 0⟩
abbrev PG_OWNER_CLAIMED : Fld := ⟨0x00C, 31, 31⟩
abbrev PG_OWNER_OWNER : Fld := ⟨0x00C, 3, 0⟩
abbrev PG_CTL_HOLD : Fld := ⟨0x010, 2, 2⟩
abbrev PG_CTL_SRST : Fld := ⟨0x010, 1, 1⟩
abbrev PG_CTL_EN : Fld := ⟨0x010, 0, 0⟩
abbrev PG_STS_BLK : Fld := ⟨0x014, 31, 16⟩
abbrev PG_STS_ERR : Fld := ⟨0x014, 4, 4⟩
abbrev PG_STS_RST_BUSY : Fld := ⟨0x014, 3, 3⟩
abbrev PG_STS_HELD : Fld := ⟨0x014, 2, 2⟩
abbrev PG_STS_IDLE : Fld := ⟨0x014, 1, 1⟩
abbrev PG_STS_WREJ : Fld := ⟨0x014, 0, 0⟩
abbrev PG_EVT_RAW_BLK : Fld := ⟨0x018, 31, 16⟩
abbrev PG_EVT_RAW_RST_DONE : Fld := ⟨0x018, 2, 2⟩
abbrev PG_EVT_RAW_WREJ : Fld := ⟨0x018, 1, 1⟩
abbrev PG_EVT_RAW_ERR : Fld := ⟨0x018, 0, 0⟩
abbrev PG_EVT_EN_BLK : Fld := ⟨0x01C, 31, 16⟩
abbrev PG_EVT_EN_EN : Fld := ⟨0x01C, 2, 1⟩
abbrev PG_EVT_EN_ERR : Fld := ⟨0x01C, 0, 0⟩
abbrev PG_EVT_PEND_BLK : Fld := ⟨0x020, 31, 16⟩
abbrev PG_EVT_PEND_PEND : Fld := ⟨0x020, 2, 1⟩
abbrev PG_EVT_PEND_ERR : Fld := ⟨0x020, 0, 0⟩
abbrev PG_EVT_SET_BLK : Fld := ⟨0x024, 31, 16⟩
abbrev PG_EVT_SET_SET : Fld := ⟨0x024, 2, 0⟩
abbrev PG_ERR_FIRST_VALID : Fld := ⟨0x028, 31, 31⟩
abbrev PG_ERR_FIRST_SUBJ : Fld := ⟨0x028, 11, 8⟩
abbrev PG_ERR_FIRST_CODE : Fld := ⟨0x028, 7, 0⟩
abbrev PG_ERR_CNT_LAST : Fld := ⟨0x02C, 23, 16⟩
abbrev PG_ERR_CNT_CNT : Fld := ⟨0x02C, 15, 0⟩
abbrev PG_WREJ_OFS_CODE : Fld := ⟨0x030, 23, 16⟩
abbrev PG_WREJ_OFS_OWNER : Fld := ⟨0x030, 15, 12⟩
abbrev PG_WREJ_OFS_OFS : Fld := ⟨0x030, 11, 0⟩
abbrev PG_TMO_NS_TMO : Fld := ⟨0x034, 31, 0⟩
abbrev PG_PERF_SEL_CLR : Fld := ⟨0x038, 13, 13⟩
abbrev PG_PERF_SEL_RUN : Fld := ⟨0x038, 12, 12⟩
abbrev PG_PERF_SEL_SEL : Fld := ⟨0x038, 11, 0⟩
abbrev PG_PERF_VAL_LO_VAL : Fld := ⟨0x03C, 31, 0⟩
abbrev PG_PERF_VAL_HI_VAL : Fld := ⟨0x040, 31, 0⟩
abbrev EVQ_BASE_LO_ADDR : Fld := ⟨0x100, 31, 12⟩
abbrev EVQ_BASE_LO_SPACE : Fld := ⟨0x100, 1, 0⟩
abbrev EVQ_BASE_HI_ADDR : Fld := ⟨0x104, 31, 0⟩
abbrev EVQ_CTL_VEC : Fld := ⟨0x108, 21, 16⟩
abbrev EVQ_CTL_LOG2N : Fld := ⟨0x108, 12, 8⟩
abbrev EVQ_CTL_OVF : Fld := ⟨0x108, 1, 1⟩
abbrev EVQ_CTL_EN : Fld := ⟨0x108, 0, 0⟩
abbrev EVQ_PROD_PROD : Fld := ⟨0x10C, 31, 0⟩
abbrev EVQ_CONS_CONS : Fld := ⟨0x110, 31, 0⟩
abbrev EVQ_LOST_LOST : Fld := ⟨0x114, 31, 0⟩
abbrev GLB_PART_PART : Fld := ⟨0x100, 31, 16⟩
abbrev GLB_PART_STEP : Fld := ⟨0x100, 15, 8⟩
abbrev GLB_PART_SKU : Fld := ⟨0x100, 7, 0⟩
abbrev GLB_UID_LO_UID : Fld := ⟨0x104, 31, 0⟩
abbrev GLB_UID_HI_UID : Fld := ⟨0x108, 31, 0⟩
abbrev GLB_STATE_STATE : Fld := ⟨0x10C, 3, 0⟩
abbrev GLB_SEQ_LO_SEQ : Fld := ⟨0x110, 31, 0⟩
abbrev GLB_SEQ_HI_SEQ : Fld := ⟨0x114, 31, 0⟩
abbrev GLB_TML_FILT_F13 : Fld := ⟨0x118, 19, 19⟩
abbrev GLB_TML_FILT_F12 : Fld := ⟨0x118, 18, 18⟩
abbrev GLB_TML_FILT_F11 : Fld := ⟨0x118, 17, 17⟩
abbrev GLB_TML_FILT_F05 : Fld := ⟨0x118, 5, 5⟩
abbrev GLB_TML_FILT_F04 : Fld := ⟨0x118, 4, 4⟩
abbrev GLB_TML_FILT_F02 : Fld := ⟨0x118, 2, 2⟩
abbrev GLB_TML_FILT_F01 : Fld := ⟨0x118, 1, 1⟩
abbrev GLB_ERRSUM_LO_T10_13 : Fld := ⟨0x11C, 19, 16⟩
abbrev GLB_ERRSUM_LO_T01_0B : Fld := ⟨0x11C, 11, 1⟩
abbrev GLB_ERRSUM_HI_T30_31 : Fld := ⟨0x120, 17, 16⟩
abbrev GLB_ERRSUM_HI_T20_23 : Fld := ⟨0x120, 3, 0⟩
abbrev GLB_UNMAP_OWNER : Fld := ⟨0x124, 31, 28⟩
abbrev GLB_UNMAP_OFS : Fld := ⟨0x124, 25, 0⟩
abbrev PRT_CMD_LO_COUNT : Fld := ⟨0x100, 31, 16⟩
abbrev PRT_CMD_LO_FIRST : Fld := ⟨0x100, 15, 0⟩
abbrev PRT_CMD_HI_PART : Fld := ⟨0x104, 15, 12⟩
abbrev PRT_CMD_HI_RES : Fld := ⟨0x104, 10, 8⟩
abbrev PRT_CMD_HI_OP : Fld := ⟨0x104, 3, 0⟩
abbrev PRT_STS_BUSY : Fld := ⟨0x108, 0, 0⟩
abbrev PRT_RST_TMO_TMO : Fld := ⟨0x10C, 16, 0⟩
abbrev PRT_QSEL_RES : Fld := ⟨0x110, 18, 16⟩
abbrev PRT_QSEL_INDEX : Fld := ⟨0x110, 15, 0⟩
abbrev PRT_QVAL_ASSIGNED : Fld := ⟨0x114, 31, 31⟩
abbrev PRT_QVAL_HOLDER : Fld := ⟨0x114, 3, 0⟩
abbrev PRT_P_STS_ENG : Fld := ⟨0x140, 31, 24⟩
abbrev PRT_P_STS_KEYV : Fld := ⟨0x140, 21, 21⟩
abbrev PRT_P_STS_LNK_CNT : Fld := ⟨0x140, 20, 14⟩
abbrev PRT_P_STS_CLU_CNT : Fld := ⟨0x140, 13, 8⟩
abbrev PRT_P_STS_KEY_SLOT : Fld := ⟨0x140, 7, 4⟩
abbrev PRT_P_STS_STATE : Fld := ⟨0x140, 3, 0⟩
abbrev PRT_P_MEM_FAR : Fld := ⟨0x144, 28, 17⟩
abbrev PRT_P_MEM_MID : Fld := ⟨0x144, 16, 8⟩
abbrev PRT_P_MEM_NEAR : Fld := ⟨0x144, 7, 0⟩
abbrev PRT_T_MEM_VAL : Fld := ⟨0x180, 31, 0⟩
abbrev SEC_STS_DRAIN_CNT : Fld := ⟨0x100, 15, 12⟩
abbrev SEC_STS_FREE_CNT : Fld := ⟨0x100, 11, 8⟩
abbrev SEC_STS_RNG_FAULT : Fld := ⟨0x100, 1, 1⟩
abbrev SEC_STS_READY : Fld := ⟨0x100, 0, 0⟩
abbrev SEC_CMD_OP : Fld := ⟨0x104, 3, 0⟩
abbrev SEC_SLOT_GEN : Fld := ⟨0x140, 31, 16⟩
abbrev SEC_SLOT_OWNER : Fld := ⟨0x140, 7, 4⟩
abbrev SEC_SLOT_STATE : Fld := ⟨0x140, 1, 0⟩
abbrev MC_SHARE_MODE : Fld := ⟨0x100, 31, 31⟩
abbrev MC_SHARE_RMT : Fld := ⟨0x100, 14, 10⟩
abbrev MC_SHARE_WR : Fld := ⟨0x100, 9, 5⟩
abbrev MC_SHARE_RD : Fld := ⟨0x100, 4, 0⟩
abbrev NSC_STS_CAL_BUSY : Fld := ⟨0x104, 1, 1⟩
abbrev NSC_STS_CAL_OK : Fld := ⟨0x104, 0, 0⟩
abbrev MSC_STS_RATE : Fld := ⟨0x104, 15, 8⟩
abbrev MSC_STS_TRAINED : Fld := ⟨0x104, 0, 0⟩
abbrev FSC_STS_WIDTH : Fld := ⟨0x104, 11, 8⟩
abbrev FSC_STS_CXL : Fld := ⟨0x104, 5, 4⟩
abbrev FSC_STS_GEN : Fld := ⟨0x104, 3, 2⟩
abbrev FSC_STS_PRESENT : Fld := ⟨0x104, 1, 1⟩
abbrev FSC_STS_LINK_UP : Fld := ⟨0x104, 0, 0⟩
abbrev FSC_CAP_CAP4G : Fld := ⟨0x108, 9, 0⟩
abbrev FXR_BASE_LO_ADDR : Fld := ⟨0xE00, 31, 21⟩
abbrev FXR_BASE_LO_TIER : Fld := ⟨0xE00, 1, 0⟩
abbrev FXR_BASE_HI_ADDR : Fld := ⟨0xE04, 15, 0⟩
abbrev FXR_LEN_LEN : Fld := ⟨0xE08, 22, 0⟩
abbrev FXR_CTL_EN : Fld := ⟨0xE0C, 31, 31⟩
abbrev FXR_CTL_SUM_WRAP : Fld := ⟨0xE0C, 17, 17⟩
abbrev FXR_CTL_IN_OVF : Fld := ⟨0xE0C, 16, 16⟩
abbrev FXR_CTL_EXP : Fld := ⟨0xE0C, 7, 0⟩
abbrev ALC_SIZE_GRAN : Fld := ⟨0xF00, 22, 0⟩
abbrev ALC_REC_LO_ADDR : Fld := ⟨0xF04, 31, 6⟩
abbrev ALC_REC_LO_TIER : Fld := ⟨0xF04, 1, 0⟩
abbrev ALC_REC_HI_ADDR : Fld := ⟨0xF08, 15, 0⟩
abbrev ALC_CMD_DIE : Fld := ⟨0xF0C, 13, 12⟩
abbrev ALC_CMD_CLASS : Fld := ⟨0xF0C, 10, 8⟩
abbrev ALC_CMD_OP : Fld := ⟨0xF0C, 3, 0⟩
abbrev ALC_HANDLE_SEQ : Fld := ⟨0xF10, 27, 12⟩
abbrev ALC_HANDLE_SLOT : Fld := ⟨0xF10, 11, 0⟩
abbrev ALC_STS_BUSY : Fld := ⟨0xF14, 31, 31⟩
abbrev ALC_STS_RESULT : Fld := ⟨0xF14, 23, 16⟩
abbrev ALC_STS_REVOKED : Fld := ⟨0xF14, 12, 0⟩
abbrev ALC_CNT_LIVE : Fld := ⟨0xF18, 12, 0⟩
abbrev ALC_FREE_NEAR_GRAN : Fld := ⟨0xF1C, 22, 0⟩
abbrev ALC_FREE_MID_GRAN : Fld := ⟨0xF20, 22, 0⟩
abbrev ALC_FREE_FAR_GRAN : Fld := ⟨0xF24, 22, 0⟩
abbrev TQ_CFG_OUT_MAX : Fld := ⟨0x300, 8, 0⟩
abbrev TQ_STS_OUT : Fld := ⟨0x310, 24, 16⟩
abbrev TQ_STS_ACTIVE : Fld := ⟨0x310, 0, 0⟩
abbrev WS_POOL_FLOOR : Fld := ⟨0x320, 24, 16⟩
abbrev WS_POOL_SIZE : Fld := ⟨0x320, 8, 0⟩
abbrev WS_POOL_STS_FREE_FLOOR : Fld := ⟨0x324, 24, 16⟩
abbrev WS_POOL_STS_FREE_COMMON : Fld := ⟨0x324, 8, 0⟩
abbrev WS_REFUSE_CNT_CNT : Fld := ⟨0x328, 31, 0⟩
abbrev WS_BUF_WAIT_US : Fld := ⟨0x32C, 19, 0⟩
abbrev CORE_PHASE_CAUSE : Fld := ⟨0x330, 7, 4⟩
abbrev CORE_PHASE_PHASE : Fld := ⟨0x330, 1, 0⟩
abbrev CLU_WCFG_MODE : Fld := ⟨0x100, 31, 31⟩
abbrev CLU_WCFG_NSHARD : Fld := ⟨0x100, 22, 16⟩
abbrev CLU_WCFG_WREG : Fld := ⟨0x100, 7, 0⟩
abbrev CLU_PHASE_FETCH_MAX : Fld := ⟨0x104, 3, 0⟩
abbrev CLU_PHASE_STS_WAIT : Fld := ⟨0x108, 11, 8⟩
abbrev CLU_PHASE_STS_COMPUTE : Fld := ⟨0x108, 7, 4⟩
abbrev CLU_PHASE_STS_FETCH : Fld := ⟨0x108, 3, 0⟩
abbrev CLU_LPF_LIST_LO_ADDR : Fld := ⟨0x10C, 31, 4⟩
abbrev CLU_LPF_LIST_LO_TIER : Fld := ⟨0x10C, 1, 0⟩
abbrev CLU_LPF_LIST_HI_ADDR : Fld := ⟨0x110, 15, 0⟩
abbrev CLU_LPF_CTL_OUT_MAX : Fld := ⟨0x114, 24, 16⟩
abbrev CLU_LPF_CTL_GO : Fld := ⟨0x114, 0, 0⟩
abbrev CLU_LPF_STS_BUSY : Fld := ⟨0x118, 31, 31⟩
abbrev CLU_LPF_STS_DONE : Fld := ⟨0x118, 30, 30⟩
abbrev CLU_LPF_STS_SWAP_PEND : Fld := ⟨0x118, 29, 29⟩
abbrev CLU_LPF_STS_ERR : Fld := ⟨0x118, 28, 28⟩
abbrev CLU_LPF_STS_CODE : Fld := ⟨0x118, 7, 0⟩
abbrev CLU_LPF_BYTES_BYTES : Fld := ⟨0x11C, 31, 0⟩
abbrev CLU_LPF_SURPLUS_LO_SURPLUS : Fld := ⟨0x120, 31, 0⟩
abbrev CLU_LPF_SURPLUS_HI_SURPLUS : Fld := ⟨0x124, 31, 0⟩
abbrev CLU_RING_STS_WAITERS : Fld := ⟨0x128, 19, 16⟩
abbrev CLU_RING_STS_RUN : Fld := ⟨0x128, 8, 8⟩
abbrev CLU_RING_STS_SHARD : Fld := ⟨0x128, 5, 0⟩
abbrev CORE_ID_ROLE : Fld := ⟨0x100, 25, 24⟩
abbrev CORE_ID_SLOT : Fld := ⟨0x100, 23, 16⟩
abbrev CORE_ID_DIE : Fld := ⟨0x100, 15, 15⟩
abbrev CORE_ID_CLUSTER : Fld := ⟨0x100, 14, 9⟩
abbrev CORE_ID_LCORE : Fld := ⟨0x100, 8, 0⟩
abbrev CORE_BOOT_PC : Fld := ⟨0x104, 12, 0⟩
abbrev CORE_CFG_STOP_ON_FLT : Fld := ⟨0x108, 0, 0⟩
abbrev CORE_STS_STAGE : Fld := ⟨0x10C, 20, 19⟩
abbrev CORE_STS_STOPPED : Fld := ⟨0x10C, 18, 18⟩
abbrev CORE_STS_OP : Fld := ⟨0x10C, 17, 17⟩
abbrev CORE_STS_RUN : Fld := ⟨0x10C, 16, 16⟩
abbrev CORE_STS_PC : Fld := ⟨0x10C, 12, 0⟩
abbrev CORE_OPID_LO_OPID : Fld := ⟨0x110, 31, 0⟩
abbrev CORE_OPID_HI_OPID : Fld := ⟨0x114, 31, 0⟩
abbrev CORE_PLD_SRC_LO_ADDR : Fld := ⟨0x118, 31, 3⟩
abbrev CORE_PLD_SRC_LO_TIER : Fld := ⟨0x118, 1, 0⟩
abbrev CORE_PLD_SRC_HI_ADDR : Fld := ⟨0x11C, 15, 0⟩
abbrev CORE_PLD_CTL_GO : Fld := ⟨0x120, 31, 31⟩
abbrev CORE_PLD_CTL_COUNT : Fld := ⟨0x120, 29, 16⟩
abbrev CORE_PLD_CTL_DEST : Fld := ⟨0x120, 12, 0⟩
abbrev CORE_PLD_STS_BUSY : Fld := ⟨0x124, 31, 31⟩
abbrev CORE_PLD_STS_VALID : Fld := ⟨0x124, 30, 30⟩
abbrev CORE_PLD_STS_ERR : Fld := ⟨0x124, 29, 29⟩
abbrev CORE_PLD_STS_CODE : Fld := ⟨0x124, 7, 0⟩
abbrev CORE_PIMG_TAG : Fld := ⟨0x128, 31, 0⟩
abbrev CORE_RWIN_SIZE : Fld := ⟨0x12C, 24, 16⟩
abbrev CORE_RWIN_BASE : Fld := ⟨0x12C, 8, 0⟩
abbrev CORE_FLT_VALID : Fld := ⟨0x130, 31, 31⟩
abbrev CORE_FLT_SUB : Fld := ⟨0x130, 23, 16⟩
abbrev CORE_FLT_PC : Fld := ⟨0x130, 12, 0⟩
abbrev CORE_FLT_AUX_AUX : Fld := ⟨0x134, 31, 0⟩
abbrev CORE_RUNLIM_US : Fld := ⟨0x138, 31, 0⟩
abbrev GLB_CSUB_DIE : Fld := ⟨0x200, 24, 24⟩
abbrev GLB_CSUB_SPARE : Fld := ⟨0x200, 23, 16⟩
abbrev GLB_CSUB_FAILED : Fld := ⟨0x200, 7, 0⟩
abbrev GLB_CSUB_STS_BUSY : Fld := ⟨0x204, 31, 31⟩
abbrev GLB_CSUB_STS_FREE1 : Fld := ⟨0x204, 7, 4⟩
abbrev GLB_CSUB_STS_FREE0 : Fld := ⟨0x204, 3, 0⟩
abbrev GLB_CMAP_SEL_LCORE : Fld := ⟨0x208, 8, 0⟩
abbrev GLB_CMAP_VAL_VALID : Fld := ⟨0x20C, 31, 31⟩
abbrev GLB_CMAP_VAL_DIE : Fld := ⟨0x20C, 8, 8⟩
abbrev GLB_CMAP_VAL_SLOT : Fld := ⟨0x20C, 7, 0⟩
abbrev PRT_P_SEED_LO_SEED : Fld := ⟨0x1C0, 31, 0⟩
abbrev PRT_P_SEED_HI_SEED : Fld := ⟨0x1C4, 31, 0⟩
abbrev GTH_CFG_OUT_MAX : Fld := ⟨0x400, 7, 0⟩
abbrev GTH_STS_BUSY : Fld := ⟨0x404, 31, 31⟩
abbrev GTH_STS_OUT : Fld := ⟨0x404, 23, 16⟩
abbrev GTH_STS_META : Fld := ⟨0x404, 12, 8⟩
abbrev GTH_STS_WAIT : Fld := ⟨0x404, 2, 0⟩
abbrev GTH_ROWS_LO_ROWS : Fld := ⟨0x408, 31, 0⟩
abbrev GTH_ROWS_HI_ROWS : Fld := ⟨0x40C, 31, 0⟩
abbrev GTH_HUBS_HUBS : Fld := ⟨0x410, 31, 0⟩
abbrev GTH_FLT_VALID : Fld := ⟨0x414, 31, 31⟩
abbrev GTH_FLT_CODE : Fld := ⟨0x414, 15, 8⟩
abbrev GTH_FLT_CAUSE : Fld := ⟨0x414, 3, 0⟩
abbrev GTH_FLT_POS_POS : Fld := ⟨0x418, 31, 0⟩
abbrev GTH_FLT_VAL_LO_VAL : Fld := ⟨0x41C, 31, 0⟩
abbrev GTH_FLT_VAL_HI_VAL : Fld := ⟨0x420, 31, 0⟩
abbrev MIG_CFG_OUT_MAX : Fld := ⟨0x100, 24, 16⟩
abbrev MIG_CFG_MOVES : Fld := ⟨0x100, 4, 0⟩
abbrev MIG_STS_BUSY : Fld := ⟨0x104, 31, 31⟩
abbrev MIG_STS_OPS : Fld := ⟨0x104, 20, 16⟩
abbrev MIG_STS_PMASK : Fld := ⟨0x104, 15, 8⟩
abbrev MIG_ROWS_LO_ROWS : Fld := ⟨0x108, 31, 0⟩
abbrev MIG_ROWS_HI_ROWS : Fld := ⟨0x10C, 31, 0⟩
abbrev MIG_ATOM_LO_ATOM : Fld := ⟨0x110, 31, 0⟩
abbrev MIG_ATOM_HI_ATOM : Fld := ⟨0x114, 31, 0⟩
abbrev MIG_REQ_LO_REQ : Fld := ⟨0x118, 31, 0⟩
abbrev MIG_REQ_HI_REQ : Fld := ⟨0x11C, 31, 0⟩
abbrev MIG_FLT_VALID : Fld := ⟨0x120, 31, 31⟩
abbrev MIG_FLT_OWNER : Fld := ⟨0x120, 19, 16⟩
abbrev MIG_FLT_CODE : Fld := ⟨0x120, 15, 8⟩
abbrev MIG_FLT_CLASS : Fld := ⟨0x120, 7, 0⟩
abbrev MIG_FLT_ADDR_LO_ADDR : Fld := ⟨0x124, 31, 0⟩
abbrev MIG_FLT_ADDR_HI_ADDR : Fld := ⟨0x128, 31, 0⟩
abbrev SCH_G_DISP_RUN : Fld := ⟨0x100, 7, 0⟩
abbrev SCH_G_RES_RES : Fld := ⟨0x140, 16, 0⟩
abbrev SCH_G_READY_READY : Fld := ⟨0x160, 16, 0⟩
abbrev SCH_CMD_W_DATA : Fld := ⟨0x120, 31, 0⟩
abbrev SCH_CMD_GO_GO : Fld := ⟨0x140, 31, 31⟩
abbrev SCH_CMD_GO_TAG : Fld := ⟨0x140, 15, 0⟩
abbrev SCH_CMD_STS_BUSY : Fld := ⟨0x144, 31, 31⟩
abbrev SCH_CMD_STS_QFREE : Fld := ⟨0x144, 30, 24⟩
abbrev SCH_CMD_STS_RESULT : Fld := ⟨0x144, 23, 16⟩
abbrev SCH_CMD_STS_TAG : Fld := ⟨0x144, 15, 0⟩
abbrev SCH_DCFG_BAL : Fld := ⟨0x148, 31, 31⟩
abbrev SCH_DCFG_AGE_US : Fld := ⟨0x148, 19, 0⟩
abbrev SCH_TICK_N : Fld := ⟨0x14C, 4, 0⟩
abbrev SCH_DLY_STS_USED : Fld := ⟨0x150, 12, 0⟩
abbrev SCH_DLY_NEXT_LO_D : Fld := ⟨0x154, 31, 0⟩
abbrev SCH_DLY_NEXT_HI_D : Fld := ⟨0x158, 31, 0⟩
abbrev SCH_CNT_RUN_RUN : Fld := ⟨0x15C, 16, 0⟩
abbrev SCH_CNT_FAULT_FAULTED : Fld := ⟨0x160, 16, 0⟩
abbrev SCH_LINKS_USED : Fld := ⟨0x164, 14, 0⟩
abbrev SCH_RELBUF_USED : Fld := ⟨0x168, 9, 0⟩
abbrev SCH_ORPHAN_CNT_CNT : Fld := ⟨0x16C, 31, 0⟩
abbrev SCH_FLOWSEL_FLOW : Fld := ⟨0x170, 11, 0⟩
abbrev SCH_FLOWCFG_EN : Fld := ⟨0x174, 31, 31⟩
abbrev SCH_FLOWCFG_TYPE : Fld := ⟨0x174, 30, 30⟩
abbrev SCH_FLOWCFG_HOLD : Fld := ⟨0x174, 29, 29⟩
abbrev SCH_FLOWCFG_WIN : Fld := ⟨0x174, 8, 0⟩
abbrev SCH_FLOWMASK_LO_MASK : Fld := ⟨0x178, 31, 0⟩
abbrev SCH_FLOWMASK_HI_MASK : Fld := ⟨0x17C, 15, 0⟩
abbrev SCH_FLOWSTS_INSVC : Fld := ⟨0x180, 26, 18⟩
abbrev SCH_FLOWSTS_RES : Fld := ⟨0x180, 16, 0⟩
abbrev SCH_SLOTSEL_SLOT : Fld := ⟨0x184, 15, 0⟩
abbrev SCH_SLOTSTS_COUNT : Fld := ⟨0x188, 31, 16⟩
abbrev SCH_SLOTSTS_HELD : Fld := ⟨0x188, 3, 3⟩
abbrev SCH_SLOTSTS_STATE : Fld := ⟨0x188, 2, 0⟩
abbrev SCH_GRANTS_LO_GRANTS : Fld := ⟨0x18C, 31, 0⟩
abbrev SCH_GRANTS_HI_GRANTS : Fld := ⟨0x190, 31, 0⟩
abbrev TOK_VSEL_SLOT : Fld := ⟨0x100, 1, 0⟩
abbrev TOK_VSLOT_OWNER : Fld := ⟨0x104, 31, 28⟩
abbrev TOK_VSLOT_SIZE : Fld := ⟨0x104, 24, 16⟩
abbrev TOK_VSLOT_BASE : Fld := ⟨0x104, 8, 0⟩
abbrev TOK_VLD_SRC_LO_ADDR : Fld := ⟨0x108, 31, 6⟩
abbrev TOK_VLD_SRC_LO_TIER : Fld := ⟨0x108, 1, 0⟩
abbrev TOK_VLD_SRC_HI_ADDR : Fld := ⟨0x10C, 15, 0⟩
abbrev TOK_VLD_CTL_GO : Fld := ⟨0x110, 31, 31⟩
abbrev TOK_VSTS_BUSY : Fld := ⟨0x114, 31, 31⟩
abbrev TOK_VSTS_VALID : Fld := ⟨0x114, 30, 30⟩
abbrev TOK_VSTS_ERR : Fld := ⟨0x114, 29, 29⟩
abbrev TOK_VSTS_CODE : Fld := ⟨0x114, 23, 16⟩
abbrev TOK_VSTS_KIND : Fld := ⟨0x114, 9, 8⟩
abbrev TOK_VINFO_NTOK : Fld := ⟨0x118, 22, 0⟩
abbrev TOK_STRM_SEL_STREAM : Fld := ⟨0x11C, 9, 0⟩
abbrev TOK_STRM_CTL_EN : Fld := ⟨0x120, 31, 31⟩
abbrev TOK_STRM_CTL_OWNER : Fld := ⟨0x120, 19, 16⟩
abbrev TOK_STRM_CTL_VSLOT : Fld := ⟨0x120, 1, 0⟩
abbrev TOK_STRM_STS_HELD : Fld := ⟨0x124, 31, 31⟩
abbrev TOK_STRM_STS_NCARRY : Fld := ⟨0x124, 1, 0⟩
abbrev TOK_STRM_TOK_LO_TOK : Fld := ⟨0x128, 31, 0⟩
abbrev TOK_STRM_TOK_HI_TOK : Fld := ⟨0x12C, 31, 0⟩
abbrev TOK_STRM_INV_INV : Fld := ⟨0x130, 31, 0⟩
abbrev TOK_ENG_STS_OPS : Fld := ⟨0x134, 20, 16⟩
abbrev TOK_ENG_STS_PMASK : Fld := ⟨0x134, 15, 8⟩
abbrev TOK_FLT_VALID : Fld := ⟨0x138, 31, 31⟩
abbrev TOK_FLT_STREAM : Fld := ⟨0x138, 29, 20⟩
abbrev TOK_FLT_OWNER : Fld := ⟨0x138, 19, 16⟩
abbrev TOK_FLT_CODE : Fld := ⟨0x138, 15, 8⟩
abbrev TOK_FLT_CLASS : Fld := ⟨0x138, 7, 0⟩
abbrev TOK_FLT_ADDR_LO_ADDR : Fld := ⟨0x13C, 31, 0⟩
abbrev TOK_FLT_ADDR_HI_ADDR : Fld := ⟨0x140, 31, 0⟩
abbrev TOK_DTAB_LO_ADDR : Fld := ⟨0x200, 31, 3⟩
abbrev TOK_DTAB_LO_TIER : Fld := ⟨0x200, 1, 0⟩
abbrev TOK_DTAB_HI_ADDR : Fld := ⟨0x204, 15, 0⟩
abbrev TOK_DCTL_STOP_EN : Fld := ⟨0x208, 31, 31⟩
abbrev TOK_DCTL_INCL : Fld := ⟨0x208, 30, 30⟩
abbrev TOK_DCTL_SBLK : Fld := ⟨0x208, 8, 0⟩
abbrev TOK_DSTS_STOPPED : Fld := ⟨0x20C, 31, 31⟩
abbrev TOK_DSTS_NHOLD : Fld := ⟨0x20C, 7, 0⟩
abbrev TOK_DPOS_LO_POS : Fld := ⟨0x210, 31, 0⟩
abbrev TOK_DPOS_HI_POS : Fld := ⟨0x214, 31, 0⟩
abbrev TOK_CAUT_LO_ADDR : Fld := ⟨0x218, 31, 6⟩
abbrev TOK_CAUT_LO_TIER : Fld := ⟨0x218, 1, 0⟩
abbrev TOK_CAUT_HI_EN : Fld := ⟨0x21C, 31, 31⟩
abbrev TOK_CAUT_HI_ADDR : Fld := ⟨0x21C, 15, 0⟩
abbrev TOK_CSTATE_CSTARTED : Fld := ⟨0x220, 31, 31⟩
abbrev TOK_CSTATE_STATE : Fld := ⟨0x220, 15, 0⟩
abbrev TOK_SLD_SRC_LO_ADDR : Fld := ⟨0x224, 31, 6⟩
abbrev TOK_SLD_SRC_LO_TIER : Fld := ⟨0x224, 1, 0⟩
abbrev TOK_SLD_SRC_HI_ADDR : Fld := ⟨0x228, 15, 0⟩
abbrev TOK_SLD_CTL_GO : Fld := ⟨0x22C, 31, 31⟩
abbrev TOK_SLD_CTL_OWNER : Fld := ⟨0x22C, 19, 16⟩
abbrev TOK_SLD_CTL_BLK : Fld := ⟨0x22C, 8, 0⟩
abbrev TOK_SLD_STS_BUSY : Fld := ⟨0x230, 31, 31⟩
abbrev TOK_SLD_STS_VALID : Fld := ⟨0x230, 30, 30⟩
abbrev TOK_SLD_STS_ERR : Fld := ⟨0x230, 29, 29⟩
abbrev TOK_SLD_STS_CODE : Fld := ⟨0x230, 23, 16⟩
abbrev TOK_SLD_STS_OWNER : Fld := ⟨0x230, 15, 12⟩
abbrev TOK_SLD_STS_NSTOP : Fld := ⟨0x230, 6, 0⟩
abbrev CKP_CMD_GO : Fld := ⟨0x100, 31, 31⟩
abbrev CKP_CMD_DOMAIN : Fld := ⟨0x100, 30, 30⟩
abbrev CKP_CMD_RESUME : Fld := ⟨0x100, 29, 29⟩
abbrev CKP_CMD_PART : Fld := ⟨0x100, 11, 8⟩
abbrev CKP_CMD_OP : Fld := ⟨0x100, 3, 0⟩
abbrev CKP_STS_BUSY : Fld := ⟨0x104, 31, 31⟩
abbrev CKP_STS_CODE : Fld := ⟨0x104, 23, 16⟩
abbrev CKP_STS_PART : Fld := ⟨0x104, 11, 8⟩
abbrev CKP_STS_OP : Fld := ⟨0x104, 3, 0⟩
abbrev CKP_IMG_LO_ADDR : Fld := ⟨0x108, 31, 12⟩
abbrev CKP_IMG_LO_TIER : Fld := ⟨0x108, 1, 0⟩
abbrev CKP_IMG_HI_ADDR : Fld := ⟨0x10C, 15, 0⟩
abbrev CKP_IMG_CAP_MIB : Fld := ⟨0x110, 31, 0⟩
abbrev CKP_EXCL_LO_ADDR : Fld := ⟨0x114, 31, 2⟩
abbrev CKP_EXCL_LO_TIER : Fld := ⟨0x114, 1, 0⟩
abbrev CKP_EXCL_HI_NEXCL : Fld := ⟨0x118, 27, 16⟩
abbrev CKP_EXCL_HI_ADDR : Fld := ⟨0x118, 15, 0⟩
abbrev CKP_TAG_LO_TAG : Fld := ⟨0x11C, 31, 0⟩
abbrev CKP_TAG_HI_TAG : Fld := ⟨0x120, 31, 0⟩
abbrev CKP_QTMO_US : Fld := ⟨0x124, 19, 0⟩
abbrev CKP_DOM_NDEV : Fld := ⟨0x128, 28, 16⟩
abbrev CKP_DOM_SELF : Fld := ⟨0x128, 11, 0⟩
abbrev CKP_CUT_LO_CUT_ID : Fld := ⟨0x12C, 31, 0⟩
abbrev CKP_CUT_HI_CUT_ID : Fld := ⟨0x130, 31, 0⟩
abbrev CKP_DTMO_MS : Fld := ⟨0x134, 15, 0⟩
abbrev CKP_NEED_LO_BYTES : Fld := ⟨0x138, 31, 0⟩
abbrev CKP_NEED_HI_BYTES : Fld := ⟨0x13C, 31, 0⟩
abbrev CKP_QTIME_NS : Fld := ⟨0x140, 31, 0⟩
abbrev CKP_BLOCK_VALID : Fld := ⟨0x144, 31, 31⟩
abbrev CKP_BLOCK_SLOT : Fld := ⟨0x144, 15, 0⟩
abbrev CKP_ENG_BYTES_LO_BYTES : Fld := ⟨0x148, 31, 0⟩
abbrev CKP_ENG_BYTES_HI_BYTES : Fld := ⟨0x14C, 31, 0⟩
abbrev CKP_DOM_STS_WAIT : Fld := ⟨0x150, 31, 31⟩
abbrev CKP_DOM_STS_DONE : Fld := ⟨0x150, 12, 0⟩
abbrev CKP_PSTS_LAST : Fld := ⟨0x160, 15, 8⟩
abbrev CKP_PSTS_DOM : Fld := ⟨0x160, 3, 3⟩
abbrev CKP_PSTS_STATE : Fld := ⟨0x160, 2, 0⟩
abbrev CKP_PCUT_LO_CUT_ID : Fld := ⟨0x180, 31, 0⟩
abbrev CKP_PCUT_HI_CUT_ID : Fld := ⟨0x184, 31, 0⟩
abbrev SEC_IKEY_W_KEY : Fld := ⟨0x200, 31, 0⟩
abbrev SEC_IKEY_ID_LO_ID : Fld := ⟨0x220, 31, 0⟩
abbrev SEC_IKEY_ID_HI_ID : Fld := ⟨0x224, 31, 0⟩
abbrev SEC_IKEY_CTL_LOAD : Fld := ⟨0x228, 31, 31⟩
abbrev SEC_IKEY_CTL_CLEAR : Fld := ⟨0x228, 30, 30⟩
abbrev SEC_IKEY_CTL_PART : Fld := ⟨0x228, 3, 0⟩
abbrev SEC_IKEY_STS_VALID : Fld := ⟨0x22C, 7, 0⟩
abbrev SEC_IKEY_IDR_LO_ID : Fld := ⟨0x230, 31, 0⟩
abbrev SEC_IKEY_IDR_HI_ID : Fld := ⟨0x234, 31, 0⟩
abbrev SEC_IKEY_SEL_PART : Fld := ⟨0x238, 2, 0⟩
abbrev LNK_CTL_WIDTH2_EN : Fld := ⟨0x100, 6, 6⟩
abbrev LNK_CTL_SPARE_EN : Fld := ⟨0x100, 5, 5⟩
abbrev LNK_CTL_G1_FEC : Fld := ⟨0x100, 4, 4⟩
abbrev LNK_CTL_MAX_GEN : Fld := ⟨0x100, 3, 2⟩
abbrev LNK_CTL_RETRAIN : Fld := ⟨0x100, 1, 1⟩
abbrev LNK_CTL_LINK : Fld := ⟨0x100, 0, 0⟩
abbrev LNK_STS_SPARE_USED : Fld := ⟨0x104, 19, 19⟩
abbrev LNK_STS_TFAIL : Fld := ⟨0x104, 18, 18⟩
abbrev LNK_STS_UP : Fld := ⟨0x104, 17, 17⟩
abbrev LNK_STS_ACTIVE : Fld := ⟨0x104, 16, 12⟩
abbrev LNK_STS_WIDTH : Fld := ⟨0x104, 10, 8⟩
abbrev LNK_STS_FEC : Fld := ⟨0x104, 6, 6⟩
abbrev LNK_STS_GEN : Fld := ⟨0x104, 5, 4⟩
abbrev LNK_STS_STATE : Fld := ⟨0x104, 3, 0⟩
abbrev LNK_PEER_FAMILY : Fld := ⟨0x108, 31, 24⟩
abbrev LNK_PEER_FVER : Fld := ⟨0x108, 23, 20⟩
abbrev LNK_PEER_LINK : Fld := ⟨0x108, 17, 12⟩
abbrev LNK_PEER_ID : Fld := ⟨0x108, 11, 0⟩
abbrev LNK_TRN_TMO_MS : Fld := ⟨0x10C, 13, 0⟩
abbrev LNK_RTMO_US : Fld := ⟨0x110, 21, 0⟩
abbrev LNK_RPLY_TMR_NS : Fld := ⟨0x114, 31, 16⟩
abbrev LNK_RPLY_MAX : Fld := ⟨0x114, 7, 0⟩
abbrev LNK_CNT_CRC_CNT : Fld := ⟨0x118, 31, 0⟩
abbrev LNK_CNT_RPLY_CNT : Fld := ⟨0x11C, 31, 0⟩
abbrev LNK_CNT_FECC_CNT : Fld := ⟨0x120, 31, 0⟩
abbrev LNK_CNT_FECU_CNT : Fld := ⟨0x124, 31, 0⟩
abbrev LNK_CNT_STRAY_CNT : Fld := ⟨0x128, 31, 0⟩
abbrev LNK_LANE_STS_PRESET : Fld := ⟨0x12C, 19, 16⟩
abbrev LNK_LANE_STS_DOWN_CNT : Fld := ⟨0x12C, 14, 10⟩
abbrev LNK_LANE_STS_FAULT : Fld := ⟨0x12C, 9, 5⟩
abbrev LNK_LANE_STS_GOOD : Fld := ⟨0x12C, 4, 0⟩
abbrev LNK_CRD_RX : Fld := ⟨0x130, 28, 16⟩
abbrev LNK_CRD_TX : Fld := ⟨0x130, 12, 0⟩
abbrev LNK_OUT_REQ : Fld := ⟨0x144, 14, 0⟩
abbrev LNK_LMAP_SEL_LID : Fld := ⟨0x148, 11, 0⟩
abbrev LNK_LMAP_VAL_VALID : Fld := ⟨0x14C, 31, 31⟩
abbrev LNK_LMAP_VAL_PHYS : Fld := ⟨0x14C, 11, 0⟩
abbrev LNK_MRING_LO_ADDR : Fld := ⟨0x150, 31, 12⟩
abbrev LNK_MRING_LO_TIER : Fld := ⟨0x150, 1, 0⟩
abbrev LNK_MRING_HI_ADDR : Fld := ⟨0x154, 15, 0⟩
abbrev LNK_MRING_CTL_LOG2N : Fld := ⟨0x158, 12, 8⟩
abbrev LNK_MRING_CTL_EN : Fld := ⟨0x158, 0, 0⟩
abbrev LNK_MRING_PROD_CNT : Fld := ⟨0x15C, 31, 0⟩
abbrev LNK_MRING_CONS_CNT : Fld := ⟨0x160, 31, 0⟩
abbrev LNK_XHDR_W_HDR : Fld := ⟨0x164, 31, 0⟩
abbrev LNK_XDATA_LO_ADDR : Fld := ⟨0x174, 31, 2⟩
abbrev LNK_XDATA_LO_TIER : Fld := ⟨0x174, 1, 0⟩
abbrev LNK_XDATA_HI_ADDR : Fld := ⟨0x178, 15, 0⟩
abbrev LNK_XRSP_LO_ADDR : Fld := ⟨0x17C, 31, 2⟩
abbrev LNK_XRSP_LO_TIER : Fld := ⟨0x17C, 1, 0⟩
abbrev LNK_XRSP_HI_ADDR : Fld := ⟨0x180, 15, 0⟩
abbrev LNK_XCTL_GO : Fld := ⟨0x184, 31, 31⟩
abbrev LNK_XSTS_BUSY : Fld := ⟨0x188, 31, 31⟩
abbrev LNK_XSTS_CODE : Fld := ⟨0x188, 15, 8⟩
abbrev LNK_XSTS_STATUS : Fld := ⟨0x188, 7, 0⟩
abbrev FAB_DEVID_ID : Fld := ⟨0x300, 11, 0⟩
abbrev FAB_RT_SEL_PHYS : Fld := ⟨0x304, 11, 0⟩
abbrev FAB_RT_LO_MASK : Fld := ⟨0x308, 31, 0⟩
abbrev FAB_RT_HI_MASK : Fld := ⟨0x30C, 31, 0⟩
abbrev FAB_TAG_QNS_MS : Fld := ⟨0x310, 15, 0⟩
abbrev FAB_TAGS_QUAR : Fld := ⟨0x314, 30, 16⟩
abbrev FAB_TAGS_USED : Fld := ⟨0x314, 14, 0⟩
abbrev HIF_LINK_STS_UP : Fld := ⟨0x120, 31, 31⟩
abbrev HIF_LINK_STS_FLIT : Fld := ⟨0x120, 30, 30⟩
abbrev HIF_LINK_STS_CXL : Fld := ⟨0x120, 29, 28⟩
abbrev HIF_LINK_STS_MEM : Fld := ⟨0x120, 27, 27⟩
abbrev HIF_LINK_STS_WIDTH : Fld := ⟨0x120, 20, 16⟩
abbrev HIF_LINK_STS_GEN : Fld := ⟨0x120, 3, 0⟩
abbrev HIF_CNT_DENY_CNT : Fld := ⟨0x124, 31, 0⟩
abbrev HIF_CNT_POISON_CNT : Fld := ⟨0x128, 31, 0⟩
abbrev HIF_ATS_STS_HELD : Fld := ⟨0x12C, 8, 0⟩
abbrev HIF_WIN_BASE_LO_ADDR : Fld := ⟨0x140, 31, 21⟩
abbrev HIF_WIN_BASE_LO_TIER : Fld := ⟨0x140, 1, 0⟩
abbrev HIF_WIN_BASE_HI_ADDR : Fld := ⟨0x144, 15, 0⟩
abbrev HIF_WIN_SIZE_GRAN : Fld := ⟨0x148, 19, 0⟩
abbrev HIF_WIN_CTL_EN : Fld := ⟨0x14C, 31, 31⟩
abbrev HIF_WIN_CTL_OWNER : Fld := ⟨0x14C, 3, 0⟩
abbrev Q_SQ_LO_ADDR : Fld := ⟨0x000, 31, 12⟩
abbrev Q_SQ_HI_ADDR : Fld := ⟨0x004, 31, 0⟩
abbrev Q_CQ_LO_ADDR : Fld := ⟨0x008, 31, 12⟩
abbrev Q_CQ_HI_ADDR : Fld := ⟨0x00C, 31, 0⟩
abbrev Q_CFG_EN : Fld := ⟨0x010, 31, 31⟩
abbrev Q_CFG_IEN : Fld := ⟨0x010, 30, 30⟩
abbrev Q_CFG_VEC : Fld := ⟨0x010, 21, 16⟩
abbrev Q_CFG_LOG2N : Fld := ⟨0x010, 11, 8⟩
abbrev Q_SQ_TAIL_IDX : Fld := ⟨0x014, 11, 0⟩
abbrev Q_SQ_HEAD_IDX : Fld := ⟨0x018, 11, 0⟩
abbrev Q_CQ_HEAD_IDX : Fld := ⟨0x01C, 11, 0⟩
abbrev Q_STS_BUSY : Fld := ⟨0x020, 31, 31⟩
abbrev Q_STS_ERR : Fld := ⟨0x020, 30, 30⟩
abbrev Q_STS_WREJ : Fld := ⟨0x020, 29, 29⟩
abbrev Q_STS_CODE : Fld := ⟨0x020, 23, 16⟩
abbrev FSC_HP_ACCEPT : Fld := ⟨0x10C, 31, 31⟩
abbrev FSC_HP_DRAIN : Fld := ⟨0x10C, 30, 30⟩
abbrev FSC_HP_POWER : Fld := ⟨0x10C, 0, 0⟩
abbrev FSC_HP_STS_DRAINED : Fld := ⟨0x110, 2, 2⟩
abbrev FSC_HP_STS_LOST : Fld := ⟨0x110, 1, 1⟩
abbrev FSC_HP_STS_READY : Fld := ⟨0x110, 0, 0⟩
abbrev RAS_SCRUB_NEAR_EN : Fld := ⟨0x100, 31, 31⟩
abbrev RAS_SCRUB_NEAR_HOURS : Fld := ⟨0x100, 9, 0⟩
abbrev RAS_SCRUB_MID_EN : Fld := ⟨0x104, 31, 31⟩
abbrev RAS_SCRUB_MID_HOURS : Fld := ⟨0x104, 9, 0⟩
abbrev RAS_SCRUB_FAR_EN : Fld := ⟨0x108, 31, 31⟩
abbrev RAS_SCRUB_FAR_HOURS : Fld := ⟨0x108, 9, 0⟩
abbrev RAS_SCRUB_STS_BEHIND : Fld := ⟨0x10C, 2, 0⟩
abbrev RAS_CE_THR_THR : Fld := ⟨0x110, 7, 0⟩
abbrev RAS_ESC_CFG_SRAM_THR : Fld := ⟨0x114, 31, 24⟩
abbrev RAS_ESC_CFG_TMO_THR : Fld := ⟨0x114, 23, 16⟩
abbrev RAS_ESC_CFG_WIN_US : Fld := ⟨0x114, 15, 0⟩
abbrev RAS_CNT_CE_CNT : Fld := ⟨0x118, 31, 0⟩
abbrev RAS_CNT_UE_CNT : Fld := ⟨0x11C, 31, 0⟩
abbrev RAS_CNT_FREEFIX_CNT : Fld := ⟨0x120, 31, 0⟩
abbrev RAS_CNT_REPAIR_CNT : Fld := ⟨0x124, 31, 0⟩
abbrev RAS_CNT_SRAM_CE_CNT : Fld := ⟨0x128, 31, 0⟩
abbrev RAS_CNT_SRAM_UE_CNT : Fld := ⟨0x12C, 31, 0⟩
abbrev RAS_REPAIR_STS_QUEUED : Fld := ⟨0x130, 26, 16⟩
abbrev RAS_REPAIR_STS_EXHAUST : Fld := ⟨0x130, 0, 0⟩
abbrev RAS_SPARE_SEL_CTRL : Fld := ⟨0x134, 7, 0⟩
abbrev RAS_SPARE_VAL_QUEUED : Fld := ⟨0x138, 14, 11⟩
abbrev RAS_SPARE_VAL_LEFT : Fld := ⟨0x138, 10, 0⟩
abbrev RAS_FENCE_GO : Fld := ⟨0x13C, 31, 31⟩
abbrev RAS_FENCE_PAGE : Fld := ⟨0x13C, 13, 0⟩
abbrev RAS_FENCE_SEL_PAGE : Fld := ⟨0x140, 13, 0⟩
abbrev RAS_FENCE_VAL_FENCED : Fld := ⟨0x144, 31, 31⟩
abbrev RAS_FENCE_VAL_CNT : Fld := ⟨0x144, 7, 0⟩
abbrev RAS_LOG_STS_OVF : Fld := ⟨0x148, 31, 31⟩
abbrev RAS_LOG_STS_CNT : Fld := ⟨0x148, 8, 0⟩
abbrev RAS_LOG_POP_POP : Fld := ⟨0x14C, 0, 0⟩
abbrev RAS_LOG_W_DATA : Fld := ⟨0x150, 31, 0⟩
abbrev PWR_MODE_MODE : Fld := ⟨0x100, 1, 0⟩
abbrev PWR_VLIM_VMAX : Fld := ⟨0x104, 25, 16⟩
abbrev PWR_VLIM_VMIN : Fld := ⟨0x104, 9, 0⟩
abbrev PWR_VSET_MV : Fld := ⟨0x108, 9, 0⟩
abbrev PWR_FLOOR_MARGIN : Fld := ⟨0x10C, 24, 16⟩
abbrev PWR_FLOOR_RATE : Fld := ⟨0x10C, 11, 0⟩
abbrev PWR_CAP_EN : Fld := ⟨0x110, 31, 31⟩
abbrev PWR_CAP_HYST : Fld := ⟨0x110, 22, 16⟩
abbrev PWR_CAP_W : Fld := ⟨0x110, 9, 0⟩
abbrev PWR_TLIM_THROT : Fld := ⟨0x114, 6, 0⟩
abbrev PWR_LOOP_STEP : Fld := ⟨0x118, 20, 16⟩
abbrev PWR_LOOP_US : Fld := ⟨0x118, 9, 0⟩
abbrev PWR_V0_SENSE : Fld := ⟨0x11C, 25, 16⟩
abbrev PWR_V0_TGT : Fld := ⟨0x11C, 9, 0⟩
abbrev PWR_V1_SENSE : Fld := ⟨0x120, 25, 16⟩
abbrev PWR_V1_TGT : Fld := ⟨0x120, 9, 0⟩
abbrev PWR_I_I1 : Fld := ⟨0x124, 24, 16⟩
abbrev PWR_I_I0 : Fld := ⟨0x124, 8, 0⟩
abbrev PWR_PKG_W : Fld := ⟨0x128, 9, 0⟩
abbrev PWR_TEMP_HBM : Fld := ⟨0x12C, 23, 16⟩
abbrev PWR_TEMP_TJ1 : Fld := ⟨0x12C, 15, 8⟩
abbrev PWR_TEMP_TJ0 : Fld := ⟨0x12C, 7, 0⟩
abbrev PWR_STS_SENSOR_FAIL : Fld := ⟨0x130, 5, 5⟩
abbrev PWR_STS_AVS_ERR : Fld := ⟨0x130, 4, 4⟩
abbrev PWR_STS_BELOW_FLOOR : Fld := ⟨0x130, 3, 3⟩
abbrev PWR_STS_HOT_IN : Fld := ⟨0x130, 2, 2⟩
abbrev PWR_STS_HOT : Fld := ⟨0x130, 1, 1⟩
abbrev PWR_STS_CAPPED : Fld := ⟨0x130, 0, 0⟩
abbrev PWR_LIM_TIME_US : Fld := ⟨0x134, 31, 0⟩
abbrev FW_STS_RECOVERY : Fld := ⟨0x100, 31, 31⟩
abbrev FW_STS_ACTIVATING : Fld := ⟨0x100, 30, 30⟩
abbrev FW_STS_SVN : Fld := ⟨0x100, 23, 16⟩
abbrev FW_STS_LIFE : Fld := ⟨0x100, 11, 8⟩
abbrev FW_STS_ACT : Fld := ⟨0x100, 2, 2⟩
abbrev FW_STS_VALID_B : Fld := ⟨0x100, 1, 1⟩
abbrev FW_STS_VALID_A : Fld := ⟨0x100, 0, 0⟩
abbrev FW_VER_A_SVN : Fld := ⟨0x104, 31, 24⟩
abbrev FW_VER_A_BUILD : Fld := ⟨0x104, 23, 0⟩
abbrev FW_VER_B_SVN : Fld := ⟨0x108, 31, 24⟩
abbrev FW_VER_B_BUILD : Fld := ⟨0x108, 23, 0⟩
abbrev FW_CTL_WARM : Fld := ⟨0x10C, 31, 31⟩
abbrev FW_CTL_SVN_COMMIT : Fld := ⟨0x10C, 30, 30⟩
abbrev FW_ACT_TMO_MS : Fld := ⟨0x110, 15, 0⟩
abbrev FW_BOOT_TIME_US : Fld := ⟨0x114, 31, 0⟩
abbrev MGT_STS_RUN : Fld := ⟨0x120, 31, 31⟩
abbrev MGT_STS_WDT_CNT : Fld := ⟨0x120, 23, 16⟩
abbrev MGT_STS_STAGE : Fld := ⟨0x120, 7, 0⟩
abbrev MGT_WDT_EN : Fld := ⟨0x124, 31, 31⟩
abbrev MGT_WDT_KICK : Fld := ⟨0x124, 30, 30⟩
abbrev MGT_WDT_MS : Fld := ⟨0x124, 15, 0⟩
abbrev MGT_BUS_SMBUS : Fld := ⟨0x128, 31, 31⟩
abbrev MGT_BUS_DYN : Fld := ⟨0x128, 30, 30⟩
abbrev MGT_BUS_DA : Fld := ⟨0x128, 22, 16⟩
abbrev MGT_BUS_SA : Fld := ⟨0x128, 6, 0⟩
abbrev MGT_EID_EID : Fld := ⟨0x12C, 7, 0⟩
abbrev CLU_DBG_TRACE : Fld := ⟨0x200, 1, 1⟩
abbrev CLU_DBG_DEBUG : Fld := ⟨0x200, 0, 0⟩
abbrev DBG_CMD_GO : Fld := ⟨0x100, 31, 31⟩
abbrev DBG_CMD_PART : Fld := ⟨0x100, 10, 8⟩
abbrev DBG_CMD_OP : Fld := ⟨0x100, 3, 0⟩
abbrev DBG_STS_ACTIVE : Fld := ⟨0x104, 7, 0⟩
abbrev DBG_RD_SEL_RES : Fld := ⟨0x108, 26, 24⟩
abbrev DBG_RD_SEL_ENGINE : Fld := ⟨0x108, 21, 20⟩
abbrev DBG_RD_SEL_UNIT : Fld := ⟨0x108, 9, 0⟩
abbrev DBG_RD_ADDR_OFS : Fld := ⟨0x10C, 22, 0⟩
abbrev DBG_RD_GO_GO : Fld := ⟨0x110, 31, 31⟩
abbrev DBG_RD_STS_BUSY : Fld := ⟨0x114, 31, 31⟩
abbrev DBG_RD_STS_CODE : Fld := ⟨0x114, 7, 0⟩
abbrev DBG_RD_DATA_LO_DATA : Fld := ⟨0x118, 31, 0⟩
abbrev DBG_RD_DATA_HI_DATA : Fld := ⟨0x11C, 31, 0⟩
abbrev DBG_TRC_LO_ADDR : Fld := ⟨0x120, 31, 12⟩
abbrev DBG_TRC_LO_TIER : Fld := ⟨0x120, 1, 0⟩
abbrev DBG_TRC_HI_ADDR : Fld := ⟨0x124, 15, 0⟩
abbrev DBG_TRC_CTL_EN : Fld := ⟨0x128, 31, 31⟩
abbrev DBG_TRC_CTL_WRAP : Fld := ⟨0x128, 30, 30⟩
abbrev DBG_TRC_CTL_LOG2N : Fld := ⟨0x128, 20, 16⟩
abbrev DBG_TRC_CTL_PMASK : Fld := ⟨0x128, 15, 8⟩
abbrev DBG_TRC_CTL_KMASK : Fld := ⟨0x128, 3, 0⟩
abbrev DBG_TRC_PROD_PROD : Fld := ⟨0x12C, 31, 0⟩
abbrev DBG_TRC_LOST_LOST : Fld := ⟨0x130, 31, 0⟩
abbrev DBG_CNT_ENTRIES : Fld := ⟨0x134, 31, 16⟩
abbrev DBG_CNT_READS : Fld := ⟨0x134, 15, 0⟩
end F

/-- Registers of set `brg`, part 0. -/
def brgRegs0 : List RegDef :=
  [ ⟨R.BRG_CTL, 0, 1,
      [⟨31, 3, .res0, 0x0⟩, ⟨2, 1, .rw, 0x0⟩, ⟨0, 0, .wo, 0x0⟩]⟩
  , ⟨R.BRG_STS, 0, 1,
      [⟨31, 9, .res0, 0x0⟩, ⟨8, 3, .ro, 0x0⟩, ⟨2, 1, .ro, 0x0⟩, ⟨0, 0, .ro, 0x0⟩]⟩
  , ⟨R.BRG_MOD_EN_LO, 0, 1,
      [⟨31, 0, .rw, 0xFFFFFFFF⟩]⟩
  , ⟨R.BRG_MOD_EN_HI, 0, 1,
      [⟨31, 8, .res0, 0x0⟩, ⟨7, 0, .rw, 0xFF⟩]⟩
  , ⟨R.BRG_MOD_UP_LO, 0, 1,
      [⟨31, 0, .ro, 0x0⟩]⟩
  , ⟨R.BRG_MOD_UP_HI, 0, 1,
      [⟨31, 8, .res0, 0x0⟩, ⟨7, 0, .ro, 0x0⟩]⟩
  , ⟨R.BRG_REPLAY_CNT, 0, 1,
      [⟨31, 0, .w1c, 0x0⟩]⟩
  , ⟨R.BRG_REPAIR, 0, 1,
      [⟨31, 16, .res0, 0x0⟩, ⟨15, 8, .ro, 0x0⟩, ⟨7, 0, .ro, 0x0⟩]⟩
  ]

/-- Registers of set `brg`. -/
def brgRegs : List RegDef := brgRegs0

/-- Registers of set `tbs`, part 0. -/
def tbsRegs0 : List RegDef :=
  [ ⟨R.TBS_NOW_LO, 0, 1,
      [⟨31, 0, .ro, 0x0⟩]⟩
  , ⟨R.TBS_NOW_HI, 0, 1,
      [⟨31, 0, .ro, 0x0⟩]⟩
  , ⟨R.TBS_STS, 0, 1,
      [⟨31, 16, .res0, 0x0⟩, ⟨15, 8, .ro, 0x0⟩, ⟨7, 4, .res0, 0x0⟩, ⟨3, 3, .ro, 0x0⟩, ⟨2, 2, .ro, 0x0⟩, ⟨1, 1, .ro, 0x0⟩, ⟨0, 0, .ro, 0x0⟩]⟩
  , ⟨R.TBS_HOLD_NS, 0, 1,
      [⟨31, 0, .ro, 0x0⟩]⟩
  , ⟨R.TBS_EVR_CTL, 0, 1,
      [⟨31, 9, .res0, 0x0⟩, ⟨8, 8, .wo, 0x0⟩, ⟨7, 4, .res0, 0x0⟩, ⟨3, 0, .rw, 0x4⟩]⟩
  , ⟨R.TBS_EVR0, 0, 1,
      [⟨31, 16, .ro, 0xFFFF⟩, ⟨15, 0, .ro, 0x0⟩]⟩
  , ⟨R.TBS_EVR1, 0, 1,
      [⟨31, 16, .ro, 0xFFFF⟩, ⟨15, 0, .ro, 0x0⟩]⟩
  , ⟨R.TBS_REF_LOSS_CNT, 0, 1,
      [⟨31, 16, .res0, 0x0⟩, ⟨15, 0, .ro, 0x0⟩]⟩
  ]

/-- Registers of set `tbs`. -/
def tbsRegs : List RegDef := tbsRegs0

/-- Registers of set `every`, part 0. -/
def everyRegs0 : List RegDef :=
  [ ⟨R.PG_ID, 0, 1,
      [⟨31, 16, .ro, 0x0⟩, ⟨15, 0, .ro, 0x0⟩]⟩
  , ⟨R.PG_VER, 0, 1,
      [⟨31, 24, .res0, 0x0⟩, ⟨23, 16, .ro, 0xB0⟩, ⟨15, 8, .ro, 0x4⟩, ⟨7, 0, .ro, 0x0⟩]⟩
  , ⟨R.PG_CAP, 0, 1,
      [⟨31, 0, .ro, 0x0⟩]⟩
  , ⟨R.PG_OWNER, 0, 1,
      [⟨31, 31, .claim, 0x0⟩, ⟨30, 4, .res0, 0x0⟩, ⟨3, 0, .claim, 0x0⟩]⟩
  , ⟨R.PG_CTL, 0, 1,
      [⟨31, 3, .res0, 0x0⟩, ⟨2, 2, .rw, 0x0⟩, ⟨1, 1, .wo, 0x0⟩, ⟨0, 0, .rw, 0x0⟩]⟩
  , ⟨R.PG_STS, 0, 1,
      [⟨31, 16, .ro, 0x0⟩, ⟨15, 5, .res0, 0x0⟩, ⟨4, 4, .ro, 0x0⟩, ⟨3, 3, .ro, 0x0⟩, ⟨2, 2, .ro, 0x0⟩, ⟨1, 1, .ro, 0x1⟩, ⟨0, 0, .ro, 0x0⟩]⟩
  , ⟨R.PG_EVT_RAW, 0, 1,
      [⟨31, 16, .ro, 0x0⟩, ⟨15, 3, .res0, 0x0⟩, ⟨2, 2, .ro, 0x1⟩, ⟨1, 1, .ro, 0x0⟩, ⟨0, 0, .ro, 0x0⟩]⟩
  , ⟨R.PG_EVT_EN, 0, 1,
      [⟨31, 16, .rw, 0x0⟩, ⟨15, 3, .res0, 0x0⟩, ⟨2, 1, .rw, 0x0⟩, ⟨0, 0, .rw, 0x1⟩]⟩
  , ⟨R.PG_EVT_PEND, 0, 1,
      [⟨31, 16, .w1c, 0x0⟩, ⟨15, 3, .res0, 0x0⟩, ⟨2, 1, .w1c, 0x0⟩, ⟨0, 0, .w1c, 0x0⟩]⟩
  , ⟨R.PG_EVT_SET, 0, 1,
      [⟨31, 16, .wo, 0x0⟩, ⟨15, 3, .res0, 0x0⟩, ⟨2, 0, .wo, 0x0⟩]⟩
  , ⟨R.PG_ERR_FIRST, 0, 1,
      [⟨31, 31, .w1c, 0x0⟩, ⟨30, 12, .res0, 0x0⟩, ⟨11, 8, .ro, 0x0⟩, ⟨7, 0, .ro, 0x0⟩]⟩
  , ⟨R.PG_ERR_CNT, 0, 1,
      [⟨31, 24, .res0, 0x0⟩, ⟨23, 16, .ro, 0x0⟩, ⟨15, 0, .ro, 0x0⟩]⟩
  ]

/-- Registers of set `every`, part 1. -/
def everyRegs1 : List RegDef :=
  [ ⟨R.PG_WREJ_OFS, 0, 1,
      [⟨31, 24, .res0, 0x0⟩, ⟨23, 16, .ro, 0x0⟩, ⟨15, 12, .ro, 0x0⟩, ⟨11, 0, .ro, 0x0⟩]⟩
  , ⟨R.PG_TMO_NS, 0, 1,
      [⟨31, 0, .rw, 0x0⟩]⟩
  , ⟨R.PG_PERF_SEL, 0, 1,
      [⟨31, 14, .res0, 0x0⟩, ⟨13, 13, .wo, 0x0⟩, ⟨12, 12, .rw, 0x0⟩, ⟨11, 0, .rw, 0x0⟩]⟩
  , ⟨R.PG_PERF_VAL_LO, 0, 1,
      [⟨31, 0, .ro, 0x0⟩]⟩
  , ⟨R.PG_PERF_VAL_HI, 0, 1,
      [⟨31, 0, .ro, 0x0⟩]⟩
  ]

/-- Registers of set `every`. -/
def everyRegs : List RegDef := everyRegs0 ++ everyRegs1

/-- Registers of set `evq`, part 0. -/
def evqRegs0 : List RegDef :=
  [ ⟨R.EVQ_BASE_LO, 0, 1,
      [⟨31, 12, .rw, 0x0⟩, ⟨11, 2, .res0, 0x0⟩, ⟨1, 0, .rw, 0x0⟩]⟩
  , ⟨R.EVQ_BASE_HI, 0, 1,
      [⟨31, 0, .rw, 0x0⟩]⟩
  , ⟨R.EVQ_CTL, 0, 1,
      [⟨31, 22, .res0, 0x0⟩, ⟨21, 16, .rw, 0x0⟩, ⟨15, 13, .res0, 0x0⟩, ⟨12, 8, .rw, 0x6⟩, ⟨7, 2, .res0, 0x0⟩, ⟨1, 1, .w1c, 0x0⟩, ⟨0, 0, .rw, 0x0⟩]⟩
  , ⟨R.EVQ_PROD, 0, 1,
      [⟨31, 0, .ro, 0x0⟩]⟩
  , ⟨R.EVQ_CONS, 0, 1,
      [⟨31, 0, .rw, 0x0⟩]⟩
  , ⟨R.EVQ_LOST, 0, 1,
      [⟨31, 0, .ro, 0x0⟩]⟩
  ]

/-- Registers of set `evq`. -/
def evqRegs : List RegDef := evqRegs0

/-- Registers of set `glb`, part 0. -/
def glbRegs0 : List RegDef :=
  [ ⟨R.GLB_PART, 0, 1,
      [⟨31, 16, .ro, 0x4⟩, ⟨15, 8, .ro, 0x0⟩, ⟨7, 0, .ro, 0x1⟩]⟩
  , ⟨R.GLB_UID_LO, 0, 1,
      [⟨31, 0, .ro, 0x0⟩]⟩
  , ⟨R.GLB_UID_HI, 0, 1,
      [⟨31, 0, .ro, 0x0⟩]⟩
  , ⟨R.GLB_STATE, 0, 1,
      [⟨31, 4, .res0, 0x0⟩, ⟨3, 0, .rw, 0x0⟩]⟩
  , ⟨R.GLB_SEQ_LO, 0, 1,
      [⟨31, 0, .ro, 0x0⟩]⟩
  , ⟨R.GLB_SEQ_HI, 0, 1,
      [⟨31, 0, .ro, 0x0⟩]⟩
  , ⟨R.GLB_TML_FILT, 0, 1,
      [⟨31, 20, .res0, 0x0⟩, ⟨19, 19, .rw, 0x0⟩, ⟨18, 18, .rw, 0x0⟩, ⟨17, 17, .rw, 0x0⟩, ⟨16, 6, .res0, 0x0⟩, ⟨5, 5, .rw, 0x0⟩, ⟨4, 4, .rw, 0x0⟩, ⟨3, 3, .res0, 0x0⟩, ⟨2, 2, .rw, 0x1⟩, ⟨1, 1, .rw, 0x1⟩, ⟨0, 0, .res0, 0x0⟩]⟩
  , ⟨R.GLB_ERRSUM_LO, 0, 1,
      [⟨31, 20, .res0, 0x0⟩, ⟨19, 16, .ro, 0x0⟩, ⟨15, 12, .res0, 0x0⟩, ⟨11, 1, .ro, 0x0⟩, ⟨0, 0, .res0, 0x0⟩]⟩
  , ⟨R.GLB_ERRSUM_HI, 0, 1,
      [⟨31, 18, .res0, 0x0⟩, ⟨17, 16, .ro, 0x0⟩, ⟨15, 4, .res0, 0x0⟩, ⟨3, 0, .ro, 0x0⟩]⟩
  , ⟨R.GLB_UNMAP, 0, 1,
      [⟨31, 28, .ro, 0x0⟩, ⟨27, 26, .res0, 0x0⟩, ⟨25, 0, .ro, 0x0⟩]⟩
  , ⟨R.GLB_CSUB, 0, 1,
      [⟨31, 25, .res0, 0x0⟩, ⟨24, 24, .wo, 0x0⟩, ⟨23, 16, .wo, 0x0⟩, ⟨15, 8, .res0, 0x0⟩, ⟨7, 0, .wo, 0x0⟩]⟩
  , ⟨R.GLB_CSUB_STS, 0, 1,
      [⟨31, 31, .ro, 0x0⟩, ⟨30, 8, .res0, 0x0⟩, ⟨7, 4, .ro, 0x0⟩, ⟨3, 0, .ro, 0x0⟩]⟩
  ]

/-- Registers of set `glb`, part 1. -/
def glbRegs1 : List RegDef :=
  [ ⟨R.GLB_CMAP_SEL, 0, 1,
      [⟨31, 9, .res0, 0x0⟩, ⟨8, 0, .rw, 0x0⟩]⟩
  , ⟨R.GLB_CMAP_VAL, 0, 1,
      [⟨31, 31, .ro, 0x1⟩, ⟨30, 9, .res0, 0x0⟩, ⟨8, 8, .ro, 0x0⟩, ⟨7, 0, .ro, 0x0⟩]⟩
  , ⟨R.FAB_DEVID, 0, 1,
      [⟨31, 12, .res0, 0x0⟩, ⟨11, 0, .rw, 0x0⟩]⟩
  , ⟨R.FAB_RT_SEL, 0, 1,
      [⟨31, 12, .res0, 0x0⟩, ⟨11, 0, .rw, 0x0⟩]⟩
  , ⟨R.FAB_RT_LO, 0, 1,
      [⟨31, 0, .rw, 0x0⟩]⟩
  , ⟨R.FAB_RT_HI, 0, 1,
      [⟨31, 0, .rw, 0x0⟩]⟩
  , ⟨R.FAB_TAG_QNS, 0, 1,
      [⟨31, 16, .res0, 0x0⟩, ⟨15, 0, .rw, 0x64⟩]⟩
  , ⟨R.FAB_TAGS, 0, 1,
      [⟨31, 31, .res0, 0x0⟩, ⟨30, 16, .ro, 0x0⟩, ⟨15, 15, .res0, 0x0⟩, ⟨14, 0, .ro, 0x0⟩]⟩
  ]

/-- Registers of set `glb`. -/
def glbRegs : List RegDef := glbRegs0 ++ glbRegs1

/-- Registers of set `prt`, part 0. -/
def prtRegs0 : List RegDef :=
  [ ⟨R.PRT_CMD_LO, 0, 1,
      [⟨31, 16, .rw, 0x0⟩, ⟨15, 0, .rw, 0x0⟩]⟩
  , ⟨R.PRT_CMD_HI, 0, 1,
      [⟨31, 16, .res0, 0x0⟩, ⟨15, 12, .wo, 0x0⟩, ⟨11, 11, .res0, 0x0⟩, ⟨10, 8, .wo, 0x0⟩, ⟨7, 4, .res0, 0x0⟩, ⟨3, 0, .wo, 0x0⟩]⟩
  , ⟨R.PRT_STS, 0, 1,
      [⟨31, 1, .res0, 0x0⟩, ⟨0, 0, .ro, 0x0⟩]⟩
  , ⟨R.PRT_RST_TMO, 0, 1,
      [⟨31, 17, .res0, 0x0⟩, ⟨16, 0, .rw, 0x2710⟩]⟩
  , ⟨R.PRT_QSEL, 0, 1,
      [⟨31, 19, .res0, 0x0⟩, ⟨18, 16, .rw, 0x0⟩, ⟨15, 0, .rw, 0x0⟩]⟩
  , ⟨R.PRT_QVAL, 0, 1,
      [⟨31, 31, .ro, 0x0⟩, ⟨30, 4, .res0, 0x0⟩, ⟨3, 0, .ro, 0x0⟩]⟩
  , ⟨R.PRT_P_STS, 8, 8,
      [⟨31, 24, .ro, 0x0⟩, ⟨23, 22, .res0, 0x0⟩, ⟨21, 21, .ro, 0x0⟩, ⟨20, 14, .ro, 0x0⟩, ⟨13, 8, .ro, 0x0⟩, ⟨7, 4, .ro, 0x0⟩, ⟨3, 0, .ro, 0x0⟩]⟩
  , ⟨R.PRT_P_MEM, 8, 8,
      [⟨31, 29, .res0, 0x0⟩, ⟨28, 17, .ro, 0x0⟩, ⟨16, 8, .ro, 0x0⟩, ⟨7, 0, .ro, 0x0⟩]⟩
  , ⟨R.PRT_T_MEM, 0, 1,
      [⟨31, 0, .ro, 0x0⟩]⟩
  , ⟨R.PRT_P_SEED_LO, 8, 8,
      [⟨31, 0, .rw, 0x0⟩]⟩
  , ⟨R.PRT_P_SEED_HI, 8, 8,
      [⟨31, 0, .rw, 0x0⟩]⟩
  ]

/-- Registers of set `prt`. -/
def prtRegs : List RegDef := prtRegs0

/-- Registers of set `sec`, part 0. -/
def secRegs0 : List RegDef :=
  [ ⟨R.SEC_STS, 0, 1,
      [⟨31, 16, .res0, 0x0⟩, ⟨15, 12, .ro, 0x0⟩, ⟨11, 8, .ro, 0xF⟩, ⟨7, 2, .res0, 0x0⟩, ⟨1, 1, .ro, 0x0⟩, ⟨0, 0, .ro, 0x0⟩]⟩
  , ⟨R.SEC_CMD, 0, 1,
      [⟨31, 4, .res0, 0x0⟩, ⟨3, 0, .wo, 0x0⟩]⟩
  , ⟨R.SEC_SLOT, 4, 16,
      [⟨31, 16, .ro, 0x0⟩, ⟨15, 8, .res0, 0x0⟩, ⟨7, 4, .ro, 0x0⟩, ⟨3, 2, .res0, 0x0⟩, ⟨1, 0, .ro, 0x0⟩]⟩
  , ⟨R.SEC_IKEY_W, 4, 8,
      [⟨31, 0, .wo, 0x0⟩]⟩
  , ⟨R.SEC_IKEY_ID_LO, 0, 1,
      [⟨31, 0, .rw, 0x0⟩]⟩
  , ⟨R.SEC_IKEY_ID_HI, 0, 1,
      [⟨31, 0, .rw, 0x0⟩]⟩
  , ⟨R.SEC_IKEY_CTL, 0, 1,
      [⟨31, 31, .wo, 0x0⟩, ⟨30, 30, .wo, 0x0⟩, ⟨29, 4, .res0, 0x0⟩, ⟨3, 0, .wo, 0x0⟩]⟩
  , ⟨R.SEC_IKEY_STS, 0, 1,
      [⟨31, 8, .res0, 0x0⟩, ⟨7, 0, .ro, 0x0⟩]⟩
  , ⟨R.SEC_IKEY_IDR_LO, 0, 1,
      [⟨31, 0, .ro, 0x0⟩]⟩
  , ⟨R.SEC_IKEY_IDR_HI, 0, 1,
      [⟨31, 0, .ro, 0x0⟩]⟩
  , ⟨R.SEC_IKEY_SEL, 0, 1,
      [⟨31, 3, .res0, 0x0⟩, ⟨2, 0, .rw, 0x0⟩]⟩
  ]

/-- Registers of set `sec`. -/
def secRegs : List RegDef := secRegs0

/-- Registers of set `mc`, part 0. -/
def mcRegs0 : List RegDef :=
  [ ⟨R.MC_SHARE, 0, 1,
      [⟨31, 31, .rw, 0x0⟩, ⟨30, 15, .res0, 0x0⟩, ⟨14, 10, .rw, 0x2⟩, ⟨9, 5, .rw, 0x6⟩, ⟨4, 0, .rw, 0x8⟩]⟩
  ]

/-- Registers of set `mc`. -/
def mcRegs : List RegDef := mcRegs0

/-- Registers of set `nsc`, part 0. -/
def nscRegs0 : List RegDef :=
  [ ⟨R.NSC_STS, 0, 1,
      [⟨31, 2, .res0, 0x0⟩, ⟨1, 1, .ro, 0x0⟩, ⟨0, 0, .ro, 0x0⟩]⟩
  ]

/-- Registers of set `nsc`. -/
def nscRegs : List RegDef := nscRegs0

/-- Registers of set `msc`, part 0. -/
def mscRegs0 : List RegDef :=
  [ ⟨R.MSC_STS, 0, 1,
      [⟨31, 16, .res0, 0x0⟩, ⟨15, 8, .ro, 0x0⟩, ⟨7, 1, .res0, 0x0⟩, ⟨0, 0, .ro, 0x0⟩]⟩
  ]

/-- Registers of set `msc`. -/
def mscRegs : List RegDef := mscRegs0

/-- Registers of set `fsc`, part 0. -/
def fscRegs0 : List RegDef :=
  [ ⟨R.FSC_STS, 0, 1,
      [⟨31, 12, .res0, 0x0⟩, ⟨11, 8, .ro, 0x0⟩, ⟨7, 6, .res0, 0x0⟩, ⟨5, 4, .ro, 0x0⟩, ⟨3, 2, .ro, 0x0⟩, ⟨1, 1, .ro, 0x0⟩, ⟨0, 0, .ro, 0x0⟩]⟩
  , ⟨R.FSC_CAP, 0, 1,
      [⟨31, 10, .res0, 0x0⟩, ⟨9, 0, .ro, 0x0⟩]⟩
  , ⟨R.FSC_HP, 0, 1,
      [⟨31, 31, .wo, 0x0⟩, ⟨30, 30, .wo, 0x0⟩, ⟨29, 1, .res0, 0x0⟩, ⟨0, 0, .rw, 0x1⟩]⟩
  , ⟨R.FSC_HP_STS, 0, 1,
      [⟨31, 3, .res0, 0x0⟩, ⟨2, 2, .ro, 0x0⟩, ⟨1, 1, .ro, 0x0⟩, ⟨0, 0, .ro, 0x0⟩]⟩
  ]

/-- Registers of set `fsc`. -/
def fscRegs : List RegDef := fscRegs0

/-- Registers of set `schp`, part 0. -/
def schpRegs0 : List RegDef :=
  [ ⟨R.FXR_BASE_LO, 16, 16,
      [⟨31, 21, .rw, 0x0⟩, ⟨20, 2, .res0, 0x0⟩, ⟨1, 0, .rw, 0x1⟩]⟩
  , ⟨R.FXR_BASE_HI, 16, 16,
      [⟨31, 16, .res0, 0x0⟩, ⟨15, 0, .rw, 0x0⟩]⟩
  , ⟨R.FXR_LEN, 16, 16,
      [⟨31, 23, .res0, 0x0⟩, ⟨22, 0, .rw, 0x1⟩]⟩
  , ⟨R.FXR_CTL, 16, 16,
      [⟨31, 31, .rw, 0x0⟩, ⟨30, 18, .res0, 0x0⟩, ⟨17, 17, .w1c, 0x0⟩, ⟨16, 16, .w1c, 0x0⟩, ⟨15, 8, .res0, 0x0⟩, ⟨7, 0, .rw, 0xE0⟩]⟩
  , ⟨R.ALC_SIZE, 0, 1,
      [⟨31, 23, .res0, 0x0⟩, ⟨22, 0, .rw, 0x1⟩]⟩
  , ⟨R.ALC_REC_LO, 0, 1,
      [⟨31, 6, .rw, 0x0⟩, ⟨5, 2, .res0, 0x0⟩, ⟨1, 0, .rw, 0x1⟩]⟩
  , ⟨R.ALC_REC_HI, 0, 1,
      [⟨31, 16, .res0, 0x0⟩, ⟨15, 0, .rw, 0x0⟩]⟩
  , ⟨R.ALC_CMD, 0, 1,
      [⟨31, 14, .res0, 0x0⟩, ⟨13, 12, .wo, 0x0⟩, ⟨11, 11, .res0, 0x0⟩, ⟨10, 8, .wo, 0x0⟩, ⟨7, 4, .res0, 0x0⟩, ⟨3, 0, .wo, 0x0⟩]⟩
  , ⟨R.ALC_HANDLE, 0, 1,
      [⟨31, 28, .res0, 0x0⟩, ⟨27, 12, .rw, 0x0⟩, ⟨11, 0, .rw, 0x0⟩]⟩
  , ⟨R.ALC_STS, 0, 1,
      [⟨31, 31, .ro, 0x0⟩, ⟨30, 24, .res0, 0x0⟩, ⟨23, 16, .ro, 0x0⟩, ⟨15, 13, .res0, 0x0⟩, ⟨12, 0, .ro, 0x0⟩]⟩
  , ⟨R.ALC_CNT, 0, 1,
      [⟨31, 13, .res0, 0x0⟩, ⟨12, 0, .ro, 0x0⟩]⟩
  , ⟨R.ALC_FREE_NEAR, 0, 1,
      [⟨31, 23, .res0, 0x0⟩, ⟨22, 0, .ro, 0x0⟩]⟩
  ]

/-- Registers of set `schp`, part 1. -/
def schpRegs1 : List RegDef :=
  [ ⟨R.ALC_FREE_MID, 0, 1,
      [⟨31, 23, .res0, 0x0⟩, ⟨22, 0, .ro, 0x0⟩]⟩
  , ⟨R.ALC_FREE_FAR, 0, 1,
      [⟨31, 23, .res0, 0x0⟩, ⟨22, 0, .ro, 0x0⟩]⟩
  , ⟨R.SCH_CMD_W, 4, 8,
      [⟨31, 0, .rw, 0x0⟩]⟩
  , ⟨R.SCH_CMD_GO, 0, 1,
      [⟨31, 31, .wo, 0x0⟩, ⟨30, 16, .res0, 0x0⟩, ⟨15, 0, .wo, 0x0⟩]⟩
  , ⟨R.SCH_CMD_STS, 0, 1,
      [⟨31, 31, .ro, 0x0⟩, ⟨30, 24, .ro, 0x40⟩, ⟨23, 16, .ro, 0x0⟩, ⟨15, 0, .ro, 0x0⟩]⟩
  , ⟨R.SCH_DCFG, 0, 1,
      [⟨31, 31, .rw, 0x1⟩, ⟨30, 20, .res0, 0x0⟩, ⟨19, 0, .rw, 0x0⟩]⟩
  , ⟨R.SCH_TICK, 0, 1,
      [⟨31, 5, .res0, 0x0⟩, ⟨4, 0, .rw, 0x0⟩]⟩
  , ⟨R.SCH_DLY_STS, 0, 1,
      [⟨31, 13, .res0, 0x0⟩, ⟨12, 0, .ro, 0x0⟩]⟩
  , ⟨R.SCH_DLY_NEXT_LO, 0, 1,
      [⟨31, 0, .ro, 0xFFFFFFFF⟩]⟩
  , ⟨R.SCH_DLY_NEXT_HI, 0, 1,
      [⟨31, 0, .ro, 0xFFFFFFFF⟩]⟩
  , ⟨R.SCH_CNT_RUN, 0, 1,
      [⟨31, 17, .res0, 0x0⟩, ⟨16, 0, .ro, 0x0⟩]⟩
  , ⟨R.SCH_CNT_FAULT, 0, 1,
      [⟨31, 17, .res0, 0x0⟩, ⟨16, 0, .ro, 0x0⟩]⟩
  ]

/-- Registers of set `schp`, part 2. -/
def schpRegs2 : List RegDef :=
  [ ⟨R.SCH_LINKS, 0, 1,
      [⟨31, 15, .res0, 0x0⟩, ⟨14, 0, .ro, 0x0⟩]⟩
  , ⟨R.SCH_RELBUF, 0, 1,
      [⟨31, 10, .res0, 0x0⟩, ⟨9, 0, .ro, 0x0⟩]⟩
  , ⟨R.SCH_ORPHAN_CNT, 0, 1,
      [⟨31, 0, .w1c, 0x0⟩]⟩
  , ⟨R.SCH_FLOWSEL, 0, 1,
      [⟨31, 12, .res0, 0x0⟩, ⟨11, 0, .rw, 0x0⟩]⟩
  , ⟨R.SCH_FLOWCFG, 0, 1,
      [⟨31, 31, .rw, 0x0⟩, ⟨30, 30, .rw, 0x0⟩, ⟨29, 29, .rw, 0x0⟩, ⟨28, 9, .res0, 0x0⟩, ⟨8, 0, .rw, 0x100⟩]⟩
  , ⟨R.SCH_FLOWMASK_LO, 0, 1,
      [⟨31, 0, .rw, 0xFFFFFFFF⟩]⟩
  , ⟨R.SCH_FLOWMASK_HI, 0, 1,
      [⟨31, 16, .res0, 0x0⟩, ⟨15, 0, .rw, 0xFFFF⟩]⟩
  , ⟨R.SCH_FLOWSTS, 0, 1,
      [⟨31, 27, .res0, 0x0⟩, ⟨26, 18, .ro, 0x0⟩, ⟨17, 17, .res0, 0x0⟩, ⟨16, 0, .ro, 0x0⟩]⟩
  , ⟨R.SCH_SLOTSEL, 0, 1,
      [⟨31, 16, .res0, 0x0⟩, ⟨15, 0, .rw, 0x0⟩]⟩
  , ⟨R.SCH_SLOTSTS, 0, 1,
      [⟨31, 16, .ro, 0x0⟩, ⟨15, 4, .res0, 0x0⟩, ⟨3, 3, .ro, 0x0⟩, ⟨2, 0, .ro, 0x0⟩]⟩
  , ⟨R.SCH_GRANTS_LO, 0, 1,
      [⟨31, 0, .ro, 0x0⟩]⟩
  , ⟨R.SCH_GRANTS_HI, 0, 1,
      [⟨31, 0, .ro, 0x0⟩]⟩
  ]

/-- Registers of set `schp`. -/
def schpRegs : List RegDef := schpRegs0 ++ schpRegs1 ++ schpRegs2

/-- Registers of set `core`, part 0. -/
def coreRegs0 : List RegDef :=
  [ ⟨R.TQ_CFG, 4, 4,
      [⟨31, 9, .res0, 0x0⟩, ⟨8, 0, .rw, 0x40⟩]⟩
  , ⟨R.TQ_STS, 4, 4,
      [⟨31, 25, .res0, 0x0⟩, ⟨24, 16, .ro, 0x0⟩, ⟨15, 1, .res0, 0x0⟩, ⟨0, 0, .ro, 0x0⟩]⟩
  , ⟨R.WS_POOL, 0, 1,
      [⟨31, 25, .res0, 0x0⟩, ⟨24, 16, .rw, 0x10⟩, ⟨15, 9, .res0, 0x0⟩, ⟨8, 0, .rw, 0x100⟩]⟩
  , ⟨R.WS_POOL_STS, 0, 1,
      [⟨31, 25, .res0, 0x0⟩, ⟨24, 16, .ro, 0x10⟩, ⟨15, 9, .res0, 0x0⟩, ⟨8, 0, .ro, 0xF0⟩]⟩
  , ⟨R.WS_REFUSE_CNT, 0, 1,
      [⟨31, 0, .w1c, 0x0⟩]⟩
  , ⟨R.WS_BUF_WAIT, 0, 1,
      [⟨31, 20, .res0, 0x0⟩, ⟨19, 0, .rw, 0x64⟩]⟩
  , ⟨R.CORE_PHASE, 0, 1,
      [⟨31, 8, .res0, 0x0⟩, ⟨7, 4, .ro, 0x0⟩, ⟨3, 2, .res0, 0x0⟩, ⟨1, 0, .ro, 0x0⟩]⟩
  , ⟨R.CORE_ID, 0, 1,
      [⟨31, 26, .res0, 0x0⟩, ⟨25, 24, .ro, 0x0⟩, ⟨23, 16, .ro, 0x0⟩, ⟨15, 15, .ro, 0x0⟩, ⟨14, 9, .ro, 0x0⟩, ⟨8, 0, .ro, 0x0⟩]⟩
  , ⟨R.CORE_BOOT, 0, 1,
      [⟨31, 13, .res0, 0x0⟩, ⟨12, 0, .rw, 0x0⟩]⟩
  , ⟨R.CORE_CFG, 0, 1,
      [⟨31, 1, .res0, 0x0⟩, ⟨0, 0, .rw, 0x0⟩]⟩
  , ⟨R.CORE_STS, 0, 1,
      [⟨31, 21, .res0, 0x0⟩, ⟨20, 19, .ro, 0x0⟩, ⟨18, 18, .ro, 0x0⟩, ⟨17, 17, .ro, 0x0⟩, ⟨16, 16, .ro, 0x0⟩, ⟨15, 13, .res0, 0x0⟩, ⟨12, 0, .ro, 0x0⟩]⟩
  , ⟨R.CORE_OPID_LO, 0, 1,
      [⟨31, 0, .ro, 0x0⟩]⟩
  ]

/-- Registers of set `core`, part 1. -/
def coreRegs1 : List RegDef :=
  [ ⟨R.CORE_OPID_HI, 0, 1,
      [⟨31, 0, .ro, 0x0⟩]⟩
  , ⟨R.CORE_PLD_SRC_LO, 0, 1,
      [⟨31, 3, .rw, 0x0⟩, ⟨2, 2, .res0, 0x0⟩, ⟨1, 0, .rw, 0x1⟩]⟩
  , ⟨R.CORE_PLD_SRC_HI, 0, 1,
      [⟨31, 16, .res0, 0x0⟩, ⟨15, 0, .rw, 0x0⟩]⟩
  , ⟨R.CORE_PLD_CTL, 0, 1,
      [⟨31, 31, .wo, 0x0⟩, ⟨30, 30, .res0, 0x0⟩, ⟨29, 16, .rw, 0x1⟩, ⟨15, 13, .res0, 0x0⟩, ⟨12, 0, .rw, 0x0⟩]⟩
  , ⟨R.CORE_PLD_STS, 0, 1,
      [⟨31, 31, .ro, 0x0⟩, ⟨30, 30, .ro, 0x0⟩, ⟨29, 29, .ro, 0x0⟩, ⟨28, 8, .res0, 0x0⟩, ⟨7, 0, .ro, 0x0⟩]⟩
  , ⟨R.CORE_PIMG, 0, 1,
      [⟨31, 0, .rw, 0x0⟩]⟩
  , ⟨R.CORE_RWIN, 0, 1,
      [⟨31, 25, .res0, 0x0⟩, ⟨24, 16, .rw, 0x0⟩, ⟨15, 9, .res0, 0x0⟩, ⟨8, 0, .rw, 0x0⟩]⟩
  , ⟨R.CORE_FLT, 0, 1,
      [⟨31, 31, .w1c, 0x0⟩, ⟨30, 24, .res0, 0x0⟩, ⟨23, 16, .ro, 0x0⟩, ⟨15, 13, .res0, 0x0⟩, ⟨12, 0, .ro, 0x0⟩]⟩
  , ⟨R.CORE_FLT_AUX, 0, 1,
      [⟨31, 0, .ro, 0x0⟩]⟩
  , ⟨R.CORE_RUNLIM, 0, 1,
      [⟨31, 0, .rw, 0x186A0⟩]⟩
  , ⟨R.GTH_CFG, 0, 1,
      [⟨31, 8, .res0, 0x0⟩, ⟨7, 0, .rw, 0x80⟩]⟩
  , ⟨R.GTH_STS, 0, 1,
      [⟨31, 31, .ro, 0x0⟩, ⟨30, 24, .res0, 0x0⟩, ⟨23, 16, .ro, 0x0⟩, ⟨15, 13, .res0, 0x0⟩, ⟨12, 8, .ro, 0x0⟩, ⟨7, 3, .res0, 0x0⟩, ⟨2, 0, .ro, 0x0⟩]⟩
  ]

/-- Registers of set `core`, part 2. -/
def coreRegs2 : List RegDef :=
  [ ⟨R.GTH_ROWS_LO, 0, 1,
      [⟨31, 0, .ro, 0x0⟩]⟩
  , ⟨R.GTH_ROWS_HI, 0, 1,
      [⟨31, 0, .ro, 0x0⟩]⟩
  , ⟨R.GTH_HUBS, 0, 1,
      [⟨31, 0, .ro, 0x0⟩]⟩
  , ⟨R.GTH_FLT, 0, 1,
      [⟨31, 31, .w1c, 0x0⟩, ⟨30, 16, .res0, 0x0⟩, ⟨15, 8, .ro, 0x0⟩, ⟨7, 4, .res0, 0x0⟩, ⟨3, 0, .ro, 0x0⟩]⟩
  , ⟨R.GTH_FLT_POS, 0, 1,
      [⟨31, 0, .ro, 0x0⟩]⟩
  , ⟨R.GTH_FLT_VAL_LO, 0, 1,
      [⟨31, 0, .ro, 0x0⟩]⟩
  , ⟨R.GTH_FLT_VAL_HI, 0, 1,
      [⟨31, 0, .ro, 0x0⟩]⟩
  ]

/-- Registers of set `core`. -/
def coreRegs : List RegDef := coreRegs0 ++ coreRegs1 ++ coreRegs2

/-- Registers of set `clu`, part 0. -/
def cluRegs0 : List RegDef :=
  [ ⟨R.CLU_WCFG, 0, 1,
      [⟨31, 31, .rw, 0x0⟩, ⟨30, 23, .res0, 0x0⟩, ⟨22, 16, .rw, 0x8⟩, ⟨15, 8, .res0, 0x0⟩, ⟨7, 0, .rw, 0x0⟩]⟩
  , ⟨R.CLU_PHASE, 0, 1,
      [⟨31, 4, .res0, 0x0⟩, ⟨3, 0, .rw, 0x4⟩]⟩
  , ⟨R.CLU_PHASE_STS, 0, 1,
      [⟨31, 12, .res0, 0x0⟩, ⟨11, 8, .ro, 0x0⟩, ⟨7, 4, .ro, 0x0⟩, ⟨3, 0, .ro, 0x0⟩]⟩
  , ⟨R.CLU_LPF_LIST_LO, 0, 1,
      [⟨31, 4, .rw, 0x0⟩, ⟨3, 2, .res0, 0x0⟩, ⟨1, 0, .rw, 0x1⟩]⟩
  , ⟨R.CLU_LPF_LIST_HI, 0, 1,
      [⟨31, 16, .res0, 0x0⟩, ⟨15, 0, .rw, 0x0⟩]⟩
  , ⟨R.CLU_LPF_CTL, 0, 1,
      [⟨31, 25, .res0, 0x0⟩, ⟨24, 16, .rw, 0x80⟩, ⟨15, 1, .res0, 0x0⟩, ⟨0, 0, .wo, 0x0⟩]⟩
  , ⟨R.CLU_LPF_STS, 0, 1,
      [⟨31, 31, .ro, 0x0⟩, ⟨30, 30, .ro, 0x0⟩, ⟨29, 29, .ro, 0x0⟩, ⟨28, 28, .ro, 0x0⟩, ⟨27, 8, .res0, 0x0⟩, ⟨7, 0, .ro, 0x0⟩]⟩
  , ⟨R.CLU_LPF_BYTES, 0, 1,
      [⟨31, 0, .ro, 0x0⟩]⟩
  , ⟨R.CLU_LPF_SURPLUS_LO, 0, 1,
      [⟨31, 0, .ro, 0x0⟩]⟩
  , ⟨R.CLU_LPF_SURPLUS_HI, 0, 1,
      [⟨31, 0, .ro, 0x0⟩]⟩
  , ⟨R.CLU_RING_STS, 0, 1,
      [⟨31, 20, .res0, 0x0⟩, ⟨19, 16, .ro, 0x0⟩, ⟨15, 9, .res0, 0x0⟩, ⟨8, 8, .ro, 0x0⟩, ⟨7, 6, .res0, 0x0⟩, ⟨5, 0, .ro, 0x0⟩]⟩
  , ⟨R.CLU_DBG, 0, 1,
      [⟨31, 2, .res0, 0x0⟩, ⟨1, 1, .rw, 0x0⟩, ⟨0, 0, .rw, 0x0⟩]⟩
  ]

/-- Registers of set `clu`. -/
def cluRegs : List RegDef := cluRegs0

/-- Registers of set `mig`, part 0. -/
def migRegs0 : List RegDef :=
  [ ⟨R.MIG_CFG, 0, 1,
      [⟨31, 25, .res0, 0x0⟩, ⟨24, 16, .rw, 0x40⟩, ⟨15, 5, .res0, 0x0⟩, ⟨4, 0, .rw, 0x10⟩]⟩
  , ⟨R.MIG_STS, 0, 1,
      [⟨31, 31, .ro, 0x0⟩, ⟨30, 21, .res0, 0x0⟩, ⟨20, 16, .ro, 0x0⟩, ⟨15, 8, .ro, 0x0⟩, ⟨7, 0, .res0, 0x0⟩]⟩
  , ⟨R.MIG_ROWS_LO, 0, 1,
      [⟨31, 0, .ro, 0x0⟩]⟩
  , ⟨R.MIG_ROWS_HI, 0, 1,
      [⟨31, 0, .ro, 0x0⟩]⟩
  , ⟨R.MIG_ATOM_LO, 0, 1,
      [⟨31, 0, .ro, 0x0⟩]⟩
  , ⟨R.MIG_ATOM_HI, 0, 1,
      [⟨31, 0, .ro, 0x0⟩]⟩
  , ⟨R.MIG_REQ_LO, 0, 1,
      [⟨31, 0, .ro, 0x0⟩]⟩
  , ⟨R.MIG_REQ_HI, 0, 1,
      [⟨31, 0, .ro, 0x0⟩]⟩
  , ⟨R.MIG_FLT, 0, 1,
      [⟨31, 31, .w1c, 0x0⟩, ⟨30, 20, .res0, 0x0⟩, ⟨19, 16, .ro, 0x0⟩, ⟨15, 8, .ro, 0x0⟩, ⟨7, 0, .ro, 0x0⟩]⟩
  , ⟨R.MIG_FLT_ADDR_LO, 0, 1,
      [⟨31, 0, .ro, 0x0⟩]⟩
  , ⟨R.MIG_FLT_ADDR_HI, 0, 1,
      [⟨31, 0, .ro, 0x0⟩]⟩
  ]

/-- Registers of set `mig`. -/
def migRegs : List RegDef := migRegs0

/-- Registers of set `sch0`, part 0. -/
def sch0Regs0 : List RegDef :=
  [ ⟨R.SCH_G_DISP, 0, 1,
      [⟨31, 8, .res0, 0x0⟩, ⟨7, 0, .ro, 0x0⟩]⟩
  , ⟨R.SCH_G_RES, 4, 8,
      [⟨31, 17, .res0, 0x0⟩, ⟨16, 0, .ro, 0x0⟩]⟩
  , ⟨R.SCH_G_READY, 4, 8,
      [⟨31, 17, .res0, 0x0⟩, ⟨16, 0, .ro, 0x0⟩]⟩
  ]

/-- Registers of set `sch0`. -/
def sch0Regs : List RegDef := sch0Regs0

/-- Registers of set `tok`, part 0. -/
def tokRegs0 : List RegDef :=
  [ ⟨R.TOK_VSEL, 0, 1,
      [⟨31, 2, .res0, 0x0⟩, ⟨1, 0, .rw, 0x0⟩]⟩
  , ⟨R.TOK_VSLOT, 0, 1,
      [⟨31, 28, .rw, 0x0⟩, ⟨27, 25, .res0, 0x0⟩, ⟨24, 16, .rw, 0x0⟩, ⟨15, 9, .res0, 0x0⟩, ⟨8, 0, .rw, 0x0⟩]⟩
  , ⟨R.TOK_VLD_SRC_LO, 0, 1,
      [⟨31, 6, .rw, 0x0⟩, ⟨5, 2, .res0, 0x0⟩, ⟨1, 0, .rw, 0x1⟩]⟩
  , ⟨R.TOK_VLD_SRC_HI, 0, 1,
      [⟨31, 16, .res0, 0x0⟩, ⟨15, 0, .rw, 0x0⟩]⟩
  , ⟨R.TOK_VLD_CTL, 0, 1,
      [⟨31, 31, .wo, 0x0⟩, ⟨30, 0, .res0, 0x0⟩]⟩
  , ⟨R.TOK_VSTS, 0, 1,
      [⟨31, 31, .ro, 0x0⟩, ⟨30, 30, .ro, 0x0⟩, ⟨29, 29, .ro, 0x0⟩, ⟨28, 24, .res0, 0x0⟩, ⟨23, 16, .ro, 0x0⟩, ⟨15, 10, .res0, 0x0⟩, ⟨9, 8, .ro, 0x0⟩, ⟨7, 0, .res0, 0x0⟩]⟩
  , ⟨R.TOK_VINFO, 0, 1,
      [⟨31, 23, .res0, 0x0⟩, ⟨22, 0, .ro, 0x0⟩]⟩
  , ⟨R.TOK_STRM_SEL, 0, 1,
      [⟨31, 10, .res0, 0x0⟩, ⟨9, 0, .rw, 0x0⟩]⟩
  , ⟨R.TOK_STRM_CTL, 0, 1,
      [⟨31, 31, .rw, 0x0⟩, ⟨30, 20, .res0, 0x0⟩, ⟨19, 16, .rw, 0x0⟩, ⟨15, 2, .res0, 0x0⟩, ⟨1, 0, .rw, 0x0⟩]⟩
  , ⟨R.TOK_STRM_STS, 0, 1,
      [⟨31, 31, .ro, 0x0⟩, ⟨30, 2, .res0, 0x0⟩, ⟨1, 0, .ro, 0x0⟩]⟩
  , ⟨R.TOK_STRM_TOK_LO, 0, 1,
      [⟨31, 0, .ro, 0x0⟩]⟩
  , ⟨R.TOK_STRM_TOK_HI, 0, 1,
      [⟨31, 0, .ro, 0x0⟩]⟩
  ]

/-- Registers of set `tok`, part 1. -/
def tokRegs1 : List RegDef :=
  [ ⟨R.TOK_STRM_INV, 0, 1,
      [⟨31, 0, .ro, 0x0⟩]⟩
  , ⟨R.TOK_ENG_STS, 0, 1,
      [⟨31, 21, .res0, 0x0⟩, ⟨20, 16, .ro, 0x0⟩, ⟨15, 8, .ro, 0x0⟩, ⟨7, 0, .res0, 0x0⟩]⟩
  , ⟨R.TOK_FLT, 0, 1,
      [⟨31, 31, .w1c, 0x0⟩, ⟨30, 30, .res0, 0x0⟩, ⟨29, 20, .ro, 0x0⟩, ⟨19, 16, .ro, 0x0⟩, ⟨15, 8, .ro, 0x0⟩, ⟨7, 0, .ro, 0x0⟩]⟩
  , ⟨R.TOK_FLT_ADDR_LO, 0, 1,
      [⟨31, 0, .ro, 0x0⟩]⟩
  , ⟨R.TOK_FLT_ADDR_HI, 0, 1,
      [⟨31, 0, .ro, 0x0⟩]⟩
  , ⟨R.TOK_DTAB_LO, 0, 1,
      [⟨31, 3, .rw, 0x0⟩, ⟨2, 2, .res0, 0x0⟩, ⟨1, 0, .rw, 0x1⟩]⟩
  , ⟨R.TOK_DTAB_HI, 0, 1,
      [⟨31, 16, .res0, 0x0⟩, ⟨15, 0, .rw, 0x0⟩]⟩
  , ⟨R.TOK_DCTL, 0, 1,
      [⟨31, 31, .rw, 0x0⟩, ⟨30, 30, .rw, 0x0⟩, ⟨29, 9, .res0, 0x0⟩, ⟨8, 0, .rw, 0x0⟩]⟩
  , ⟨R.TOK_DSTS, 0, 1,
      [⟨31, 31, .ro, 0x0⟩, ⟨30, 8, .res0, 0x0⟩, ⟨7, 0, .ro, 0x0⟩]⟩
  , ⟨R.TOK_DPOS_LO, 0, 1,
      [⟨31, 0, .ro, 0x0⟩]⟩
  , ⟨R.TOK_DPOS_HI, 0, 1,
      [⟨31, 0, .ro, 0x0⟩]⟩
  , ⟨R.TOK_CAUT_LO, 0, 1,
      [⟨31, 6, .rw, 0x0⟩, ⟨5, 2, .res0, 0x0⟩, ⟨1, 0, .rw, 0x1⟩]⟩
  ]

/-- Registers of set `tok`, part 2. -/
def tokRegs2 : List RegDef :=
  [ ⟨R.TOK_CAUT_HI, 0, 1,
      [⟨31, 31, .rw, 0x0⟩, ⟨30, 16, .res0, 0x0⟩, ⟨15, 0, .rw, 0x0⟩]⟩
  , ⟨R.TOK_CSTATE, 0, 1,
      [⟨31, 31, .ro, 0x0⟩, ⟨30, 16, .res0, 0x0⟩, ⟨15, 0, .ro, 0x0⟩]⟩
  , ⟨R.TOK_SLD_SRC_LO, 0, 1,
      [⟨31, 6, .rw, 0x0⟩, ⟨5, 2, .res0, 0x0⟩, ⟨1, 0, .rw, 0x1⟩]⟩
  , ⟨R.TOK_SLD_SRC_HI, 0, 1,
      [⟨31, 16, .res0, 0x0⟩, ⟨15, 0, .rw, 0x0⟩]⟩
  , ⟨R.TOK_SLD_CTL, 0, 1,
      [⟨31, 31, .wo, 0x0⟩, ⟨30, 20, .res0, 0x0⟩, ⟨19, 16, .rw, 0x0⟩, ⟨15, 9, .res0, 0x0⟩, ⟨8, 0, .rw, 0x0⟩]⟩
  , ⟨R.TOK_SLD_STS, 0, 1,
      [⟨31, 31, .ro, 0x0⟩, ⟨30, 30, .ro, 0x0⟩, ⟨29, 29, .ro, 0x0⟩, ⟨28, 24, .res0, 0x0⟩, ⟨23, 16, .ro, 0x0⟩, ⟨15, 12, .ro, 0x0⟩, ⟨11, 7, .res0, 0x0⟩, ⟨6, 0, .ro, 0x0⟩]⟩
  ]

/-- Registers of set `tok`. -/
def tokRegs : List RegDef := tokRegs0 ++ tokRegs1 ++ tokRegs2

/-- Registers of set `ckp`, part 0. -/
def ckpRegs0 : List RegDef :=
  [ ⟨R.CKP_CMD, 0, 1,
      [⟨31, 31, .wo, 0x0⟩, ⟨30, 30, .wo, 0x0⟩, ⟨29, 29, .wo, 0x0⟩, ⟨28, 12, .res0, 0x0⟩, ⟨11, 8, .wo, 0x0⟩, ⟨7, 4, .res0, 0x0⟩, ⟨3, 0, .wo, 0x0⟩]⟩
  , ⟨R.CKP_STS, 0, 1,
      [⟨31, 31, .ro, 0x0⟩, ⟨30, 24, .res0, 0x0⟩, ⟨23, 16, .ro, 0x0⟩, ⟨15, 12, .res0, 0x0⟩, ⟨11, 8, .ro, 0x0⟩, ⟨7, 4, .res0, 0x0⟩, ⟨3, 0, .ro, 0x0⟩]⟩
  , ⟨R.CKP_IMG_LO, 0, 1,
      [⟨31, 12, .rw, 0x0⟩, ⟨11, 2, .res0, 0x0⟩, ⟨1, 0, .rw, 0x2⟩]⟩
  , ⟨R.CKP_IMG_HI, 0, 1,
      [⟨31, 16, .res0, 0x0⟩, ⟨15, 0, .rw, 0x0⟩]⟩
  , ⟨R.CKP_IMG_CAP, 0, 1,
      [⟨31, 0, .rw, 0x1⟩]⟩
  , ⟨R.CKP_EXCL_LO, 0, 1,
      [⟨31, 2, .rw, 0x0⟩, ⟨1, 0, .rw, 0x1⟩]⟩
  , ⟨R.CKP_EXCL_HI, 0, 1,
      [⟨31, 28, .res0, 0x0⟩, ⟨27, 16, .rw, 0x0⟩, ⟨15, 0, .rw, 0x0⟩]⟩
  , ⟨R.CKP_TAG_LO, 0, 1,
      [⟨31, 0, .rw, 0x0⟩]⟩
  , ⟨R.CKP_TAG_HI, 0, 1,
      [⟨31, 0, .rw, 0x0⟩]⟩
  , ⟨R.CKP_QTMO, 0, 1,
      [⟨31, 20, .res0, 0x0⟩, ⟨19, 0, .rw, 0x2710⟩]⟩
  , ⟨R.CKP_DOM, 0, 1,
      [⟨31, 29, .res0, 0x0⟩, ⟨28, 16, .rw, 0x1⟩, ⟨15, 12, .res0, 0x0⟩, ⟨11, 0, .rw, 0x0⟩]⟩
  , ⟨R.CKP_CUT_LO, 0, 1,
      [⟨31, 0, .rw, 0x0⟩]⟩
  ]

/-- Registers of set `ckp`, part 1. -/
def ckpRegs1 : List RegDef :=
  [ ⟨R.CKP_CUT_HI, 0, 1,
      [⟨31, 0, .rw, 0x0⟩]⟩
  , ⟨R.CKP_DTMO, 0, 1,
      [⟨31, 16, .res0, 0x0⟩, ⟨15, 0, .rw, 0x64⟩]⟩
  , ⟨R.CKP_NEED_LO, 0, 1,
      [⟨31, 0, .ro, 0x0⟩]⟩
  , ⟨R.CKP_NEED_HI, 0, 1,
      [⟨31, 0, .ro, 0x0⟩]⟩
  , ⟨R.CKP_QTIME, 0, 1,
      [⟨31, 0, .ro, 0x0⟩]⟩
  , ⟨R.CKP_BLOCK, 0, 1,
      [⟨31, 31, .w1c, 0x0⟩, ⟨30, 16, .res0, 0x0⟩, ⟨15, 0, .ro, 0x0⟩]⟩
  , ⟨R.CKP_ENG_BYTES_LO, 0, 1,
      [⟨31, 0, .ro, 0x0⟩]⟩
  , ⟨R.CKP_ENG_BYTES_HI, 0, 1,
      [⟨31, 0, .ro, 0x0⟩]⟩
  , ⟨R.CKP_DOM_STS, 0, 1,
      [⟨31, 31, .ro, 0x0⟩, ⟨30, 13, .res0, 0x0⟩, ⟨12, 0, .ro, 0x0⟩]⟩
  , ⟨R.CKP_PSTS, 4, 8,
      [⟨31, 16, .res0, 0x0⟩, ⟨15, 8, .ro, 0x0⟩, ⟨7, 4, .res0, 0x0⟩, ⟨3, 3, .ro, 0x0⟩, ⟨2, 0, .ro, 0x0⟩]⟩
  , ⟨R.CKP_PCUT_LO, 8, 8,
      [⟨31, 0, .ro, 0x0⟩]⟩
  , ⟨R.CKP_PCUT_HI, 8, 8,
      [⟨31, 0, .ro, 0x0⟩]⟩
  ]

/-- Registers of set `ckp`. -/
def ckpRegs : List RegDef := ckpRegs0 ++ ckpRegs1

/-- Registers of set `lnk`, part 0. -/
def lnkRegs0 : List RegDef :=
  [ ⟨R.LNK_CTL, 0, 1,
      [⟨31, 7, .res0, 0x0⟩, ⟨6, 6, .rw, 0x1⟩, ⟨5, 5, .rw, 0x1⟩, ⟨4, 4, .rw, 0x1⟩, ⟨3, 2, .rw, 0x3⟩, ⟨1, 1, .wo, 0x0⟩, ⟨0, 0, .rw, 0x0⟩]⟩
  , ⟨R.LNK_STS, 0, 1,
      [⟨31, 20, .res0, 0x0⟩, ⟨19, 19, .ro, 0x0⟩, ⟨18, 18, .ro, 0x0⟩, ⟨17, 17, .ro, 0x0⟩, ⟨16, 12, .ro, 0x0⟩, ⟨11, 11, .res0, 0x0⟩, ⟨10, 8, .ro, 0x0⟩, ⟨7, 7, .res0, 0x0⟩, ⟨6, 6, .ro, 0x0⟩, ⟨5, 4, .ro, 0x0⟩, ⟨3, 0, .ro, 0x0⟩]⟩
  , ⟨R.LNK_PEER, 0, 1,
      [⟨31, 24, .ro, 0x0⟩, ⟨23, 20, .ro, 0x0⟩, ⟨19, 18, .res0, 0x0⟩, ⟨17, 12, .ro, 0x0⟩, ⟨11, 0, .ro, 0x0⟩]⟩
  , ⟨R.LNK_TRN_TMO, 0, 1,
      [⟨31, 14, .res0, 0x0⟩, ⟨13, 0, .rw, 0x64⟩]⟩
  , ⟨R.LNK_RTMO, 0, 1,
      [⟨31, 22, .res0, 0x0⟩, ⟨21, 0, .rw, 0x2710⟩]⟩
  , ⟨R.LNK_RPLY, 0, 1,
      [⟨31, 16, .rw, 0x7D0⟩, ⟨15, 8, .res0, 0x0⟩, ⟨7, 0, .rw, 0x8⟩]⟩
  , ⟨R.LNK_CNT_CRC, 0, 1,
      [⟨31, 0, .w1c, 0x0⟩]⟩
  , ⟨R.LNK_CNT_RPLY, 0, 1,
      [⟨31, 0, .w1c, 0x0⟩]⟩
  , ⟨R.LNK_CNT_FECC, 0, 1,
      [⟨31, 0, .w1c, 0x0⟩]⟩
  , ⟨R.LNK_CNT_FECU, 0, 1,
      [⟨31, 0, .w1c, 0x0⟩]⟩
  , ⟨R.LNK_CNT_STRAY, 0, 1,
      [⟨31, 0, .w1c, 0x0⟩]⟩
  , ⟨R.LNK_LANE_STS, 0, 1,
      [⟨31, 20, .res0, 0x0⟩, ⟨19, 16, .ro, 0x0⟩, ⟨15, 15, .res0, 0x0⟩, ⟨14, 10, .ro, 0x0⟩, ⟨9, 5, .ro, 0x0⟩, ⟨4, 0, .ro, 0x0⟩]⟩
  ]

/-- Registers of set `lnk`, part 1. -/
def lnkRegs1 : List RegDef :=
  [ ⟨R.LNK_CRD, 4, 5,
      [⟨31, 29, .res0, 0x0⟩, ⟨28, 16, .ro, 0x0⟩, ⟨15, 13, .res0, 0x0⟩, ⟨12, 0, .ro, 0x0⟩]⟩
  , ⟨R.LNK_OUT, 0, 1,
      [⟨31, 15, .res0, 0x0⟩, ⟨14, 0, .ro, 0x0⟩]⟩
  , ⟨R.LNK_LMAP_SEL, 0, 1,
      [⟨31, 12, .res0, 0x0⟩, ⟨11, 0, .rw, 0x0⟩]⟩
  , ⟨R.LNK_LMAP_VAL, 0, 1,
      [⟨31, 31, .rw, 0x0⟩, ⟨30, 12, .res0, 0x0⟩, ⟨11, 0, .rw, 0x0⟩]⟩
  , ⟨R.LNK_MRING_LO, 0, 1,
      [⟨31, 12, .rw, 0x0⟩, ⟨11, 2, .res0, 0x0⟩, ⟨1, 0, .rw, 0x1⟩]⟩
  , ⟨R.LNK_MRING_HI, 0, 1,
      [⟨31, 16, .res0, 0x0⟩, ⟨15, 0, .rw, 0x0⟩]⟩
  , ⟨R.LNK_MRING_CTL, 0, 1,
      [⟨31, 13, .res0, 0x0⟩, ⟨12, 8, .rw, 0x6⟩, ⟨7, 1, .res0, 0x0⟩, ⟨0, 0, .rw, 0x0⟩]⟩
  , ⟨R.LNK_MRING_PROD, 0, 1,
      [⟨31, 0, .ro, 0x0⟩]⟩
  , ⟨R.LNK_MRING_CONS, 0, 1,
      [⟨31, 0, .rw, 0x0⟩]⟩
  , ⟨R.LNK_XHDR_W, 4, 4,
      [⟨31, 0, .rw, 0x0⟩]⟩
  , ⟨R.LNK_XDATA_LO, 0, 1,
      [⟨31, 2, .rw, 0x0⟩, ⟨1, 0, .rw, 0x1⟩]⟩
  , ⟨R.LNK_XDATA_HI, 0, 1,
      [⟨31, 16, .res0, 0x0⟩, ⟨15, 0, .rw, 0x0⟩]⟩
  ]

/-- Registers of set `lnk`, part 2. -/
def lnkRegs2 : List RegDef :=
  [ ⟨R.LNK_XRSP_LO, 0, 1,
      [⟨31, 2, .rw, 0x0⟩, ⟨1, 0, .rw, 0x1⟩]⟩
  , ⟨R.LNK_XRSP_HI, 0, 1,
      [⟨31, 16, .res0, 0x0⟩, ⟨15, 0, .rw, 0x0⟩]⟩
  , ⟨R.LNK_XCTL, 0, 1,
      [⟨31, 31, .wo, 0x0⟩, ⟨30, 0, .res0, 0x0⟩]⟩
  , ⟨R.LNK_XSTS, 0, 1,
      [⟨31, 31, .ro, 0x0⟩, ⟨30, 16, .res0, 0x0⟩, ⟨15, 8, .ro, 0x0⟩, ⟨7, 0, .ro, 0x0⟩]⟩
  ]

/-- Registers of set `lnk`. -/
def lnkRegs : List RegDef := lnkRegs0 ++ lnkRegs1 ++ lnkRegs2

/-- Registers of set `hif`, part 0. -/
def hifRegs0 : List RegDef :=
  [ ⟨R.HIF_LINK_STS, 0, 1,
      [⟨31, 31, .ro, 0x0⟩, ⟨30, 30, .ro, 0x0⟩, ⟨29, 28, .ro, 0x0⟩, ⟨27, 27, .ro, 0x0⟩, ⟨26, 21, .res0, 0x0⟩, ⟨20, 16, .ro, 0x0⟩, ⟨15, 4, .res0, 0x0⟩, ⟨3, 0, .ro, 0x0⟩]⟩
  , ⟨R.HIF_CNT_DENY, 0, 1,
      [⟨31, 0, .w1c, 0x0⟩]⟩
  , ⟨R.HIF_CNT_POISON, 0, 1,
      [⟨31, 0, .w1c, 0x0⟩]⟩
  , ⟨R.HIF_ATS_STS, 0, 1,
      [⟨31, 9, .res0, 0x0⟩, ⟨8, 0, .ro, 0x0⟩]⟩
  , ⟨R.HIF_WIN_BASE_LO, 16, 16,
      [⟨31, 21, .rw, 0x0⟩, ⟨20, 2, .res0, 0x0⟩, ⟨1, 0, .rw, 0x1⟩]⟩
  , ⟨R.HIF_WIN_BASE_HI, 16, 16,
      [⟨31, 16, .res0, 0x0⟩, ⟨15, 0, .rw, 0x0⟩]⟩
  , ⟨R.HIF_WIN_SIZE, 16, 16,
      [⟨31, 20, .res0, 0x0⟩, ⟨19, 0, .rw, 0x1⟩]⟩
  , ⟨R.HIF_WIN_CTL, 16, 16,
      [⟨31, 31, .rw, 0x0⟩, ⟨30, 4, .res0, 0x0⟩, ⟨3, 0, .rw, 0x0⟩]⟩
  ]

/-- Registers of set `hif`. -/
def hifRegs : List RegDef := hifRegs0

/-- Registers of set `vfq`, part 0. -/
def vfqRegs0 : List RegDef :=
  [ ⟨R.Q_SQ_LO, 64, 4,
      [⟨31, 12, .rw, 0x0⟩, ⟨11, 0, .res0, 0x0⟩]⟩
  , ⟨R.Q_SQ_HI, 64, 4,
      [⟨31, 0, .rw, 0x0⟩]⟩
  , ⟨R.Q_CQ_LO, 64, 4,
      [⟨31, 12, .rw, 0x0⟩, ⟨11, 0, .res0, 0x0⟩]⟩
  , ⟨R.Q_CQ_HI, 64, 4,
      [⟨31, 0, .rw, 0x0⟩]⟩
  , ⟨R.Q_CFG, 64, 4,
      [⟨31, 31, .rw, 0x0⟩, ⟨30, 30, .rw, 0x0⟩, ⟨29, 22, .res0, 0x0⟩, ⟨21, 16, .rw, 0x0⟩, ⟨15, 12, .res0, 0x0⟩, ⟨11, 8, .rw, 0x6⟩, ⟨7, 0, .res0, 0x0⟩]⟩
  , ⟨R.Q_SQ_TAIL, 64, 4,
      [⟨31, 12, .res0, 0x0⟩, ⟨11, 0, .rw, 0x0⟩]⟩
  , ⟨R.Q_SQ_HEAD, 64, 4,
      [⟨31, 12, .res0, 0x0⟩, ⟨11, 0, .ro, 0x0⟩]⟩
  , ⟨R.Q_CQ_HEAD, 64, 4,
      [⟨31, 12, .res0, 0x0⟩, ⟨11, 0, .rw, 0x0⟩]⟩
  , ⟨R.Q_STS, 64, 4,
      [⟨31, 31, .ro, 0x0⟩, ⟨30, 30, .ro, 0x0⟩, ⟨29, 29, .w1c, 0x0⟩, ⟨28, 24, .res0, 0x0⟩, ⟨23, 16, .ro, 0x0⟩, ⟨15, 0, .res0, 0x0⟩]⟩
  ]

/-- Registers of set `vfq`. -/
def vfqRegs : List RegDef := vfqRegs0

/-- Registers of set `ras`, part 0. -/
def rasRegs0 : List RegDef :=
  [ ⟨R.RAS_SCRUB_NEAR, 0, 1,
      [⟨31, 31, .rw, 0x1⟩, ⟨30, 10, .res0, 0x0⟩, ⟨9, 0, .rw, 0x18⟩]⟩
  , ⟨R.RAS_SCRUB_MID, 0, 1,
      [⟨31, 31, .rw, 0x1⟩, ⟨30, 10, .res0, 0x0⟩, ⟨9, 0, .rw, 0x18⟩]⟩
  , ⟨R.RAS_SCRUB_FAR, 0, 1,
      [⟨31, 31, .rw, 0x1⟩, ⟨30, 10, .res0, 0x0⟩, ⟨9, 0, .rw, 0xA8⟩]⟩
  , ⟨R.RAS_SCRUB_STS, 0, 1,
      [⟨31, 3, .res0, 0x0⟩, ⟨2, 0, .ro, 0x0⟩]⟩
  , ⟨R.RAS_CE_THR, 0, 1,
      [⟨31, 8, .res0, 0x0⟩, ⟨7, 0, .rw, 0x4⟩]⟩
  , ⟨R.RAS_ESC_CFG, 0, 1,
      [⟨31, 24, .rw, 0x10⟩, ⟨23, 16, .rw, 0x8⟩, ⟨15, 0, .rw, 0x3E8⟩]⟩
  , ⟨R.RAS_CNT_CE, 0, 1,
      [⟨31, 0, .w1c, 0x0⟩]⟩
  , ⟨R.RAS_CNT_UE, 0, 1,
      [⟨31, 0, .w1c, 0x0⟩]⟩
  , ⟨R.RAS_CNT_FREEFIX, 0, 1,
      [⟨31, 0, .w1c, 0x0⟩]⟩
  , ⟨R.RAS_CNT_REPAIR, 0, 1,
      [⟨31, 0, .w1c, 0x0⟩]⟩
  , ⟨R.RAS_CNT_SRAM_CE, 0, 1,
      [⟨31, 0, .w1c, 0x0⟩]⟩
  , ⟨R.RAS_CNT_SRAM_UE, 0, 1,
      [⟨31, 0, .w1c, 0x0⟩]⟩
  ]

/-- Registers of set `ras`, part 1. -/
def rasRegs1 : List RegDef :=
  [ ⟨R.RAS_REPAIR_STS, 0, 1,
      [⟨31, 27, .res0, 0x0⟩, ⟨26, 16, .ro, 0x0⟩, ⟨15, 1, .res0, 0x0⟩, ⟨0, 0, .ro, 0x0⟩]⟩
  , ⟨R.RAS_SPARE_SEL, 0, 1,
      [⟨31, 8, .res0, 0x0⟩, ⟨7, 0, .rw, 0x0⟩]⟩
  , ⟨R.RAS_SPARE_VAL, 0, 1,
      [⟨31, 15, .res0, 0x0⟩, ⟨14, 11, .ro, 0x0⟩, ⟨10, 0, .ro, 0x0⟩]⟩
  , ⟨R.RAS_FENCE, 0, 1,
      [⟨31, 31, .wo, 0x0⟩, ⟨30, 14, .res0, 0x0⟩, ⟨13, 0, .wo, 0x0⟩]⟩
  , ⟨R.RAS_FENCE_SEL, 0, 1,
      [⟨31, 14, .res0, 0x0⟩, ⟨13, 0, .rw, 0x0⟩]⟩
  , ⟨R.RAS_FENCE_VAL, 0, 1,
      [⟨31, 31, .ro, 0x0⟩, ⟨30, 8, .res0, 0x0⟩, ⟨7, 0, .ro, 0x0⟩]⟩
  , ⟨R.RAS_LOG_STS, 0, 1,
      [⟨31, 31, .w1c, 0x0⟩, ⟨30, 9, .res0, 0x0⟩, ⟨8, 0, .ro, 0x0⟩]⟩
  , ⟨R.RAS_LOG_POP, 0, 1,
      [⟨31, 1, .res0, 0x0⟩, ⟨0, 0, .wo, 0x0⟩]⟩
  , ⟨R.RAS_LOG_W, 4, 4,
      [⟨31, 0, .ro, 0x0⟩]⟩
  ]

/-- Registers of set `ras`. -/
def rasRegs : List RegDef := rasRegs0 ++ rasRegs1

/-- Registers of set `pwr`, part 0. -/
def pwrRegs0 : List RegDef :=
  [ ⟨R.PWR_MODE, 0, 1,
      [⟨31, 2, .res0, 0x0⟩, ⟨1, 0, .rw, 0x1⟩]⟩
  , ⟨R.PWR_VLIM, 0, 1,
      [⟨31, 26, .res0, 0x0⟩, ⟨25, 16, .rw, 0x320⟩, ⟨15, 10, .res0, 0x0⟩, ⟨9, 0, .rw, 0x28A⟩]⟩
  , ⟨R.PWR_VSET, 0, 1,
      [⟨31, 10, .res0, 0x0⟩, ⟨9, 0, .rw, 0x320⟩]⟩
  , ⟨R.PWR_FLOOR, 0, 1,
      [⟨31, 25, .res0, 0x0⟩, ⟨24, 16, .rw, 0x32⟩, ⟨15, 12, .res0, 0x0⟩, ⟨11, 0, .rw, 0x659⟩]⟩
  , ⟨R.PWR_CAP, 0, 1,
      [⟨31, 31, .rw, 0x1⟩, ⟨30, 23, .res0, 0x0⟩, ⟨22, 16, .rw, 0xA⟩, ⟨15, 10, .res0, 0x0⟩, ⟨9, 0, .rw, 0x384⟩]⟩
  , ⟨R.PWR_TLIM, 0, 1,
      [⟨31, 7, .res0, 0x0⟩, ⟨6, 0, .rw, 0x69⟩]⟩
  , ⟨R.PWR_LOOP, 0, 1,
      [⟨31, 21, .res0, 0x0⟩, ⟨20, 16, .rw, 0x5⟩, ⟨15, 10, .res0, 0x0⟩, ⟨9, 0, .rw, 0x14⟩]⟩
  , ⟨R.PWR_V0, 0, 1,
      [⟨31, 26, .res0, 0x0⟩, ⟨25, 16, .ro, 0x0⟩, ⟨15, 10, .res0, 0x0⟩, ⟨9, 0, .ro, 0x320⟩]⟩
  , ⟨R.PWR_V1, 0, 1,
      [⟨31, 26, .res0, 0x0⟩, ⟨25, 16, .ro, 0x0⟩, ⟨15, 10, .res0, 0x0⟩, ⟨9, 0, .ro, 0x320⟩]⟩
  , ⟨R.PWR_I, 0, 1,
      [⟨31, 25, .res0, 0x0⟩, ⟨24, 16, .ro, 0x0⟩, ⟨15, 9, .res0, 0x0⟩, ⟨8, 0, .ro, 0x0⟩]⟩
  , ⟨R.PWR_PKG, 0, 1,
      [⟨31, 10, .res0, 0x0⟩, ⟨9, 0, .ro, 0x0⟩]⟩
  , ⟨R.PWR_TEMP, 0, 1,
      [⟨31, 24, .res0, 0x0⟩, ⟨23, 16, .ro, 0x0⟩, ⟨15, 8, .ro, 0x0⟩, ⟨7, 0, .ro, 0x0⟩]⟩
  ]

/-- Registers of set `pwr`, part 1. -/
def pwrRegs1 : List RegDef :=
  [ ⟨R.PWR_STS, 0, 1,
      [⟨31, 6, .res0, 0x0⟩, ⟨5, 5, .ro, 0x0⟩, ⟨4, 4, .ro, 0x0⟩, ⟨3, 3, .ro, 0x0⟩, ⟨2, 2, .ro, 0x0⟩, ⟨1, 1, .ro, 0x0⟩, ⟨0, 0, .ro, 0x0⟩]⟩
  , ⟨R.PWR_LIM_TIME, 0, 1,
      [⟨31, 0, .w1c, 0x0⟩]⟩
  ]

/-- Registers of set `pwr`. -/
def pwrRegs : List RegDef := pwrRegs0 ++ pwrRegs1

/-- Registers of set `fw`, part 0. -/
def fwRegs0 : List RegDef :=
  [ ⟨R.FW_STS, 0, 1,
      [⟨31, 31, .ro, 0x0⟩, ⟨30, 30, .ro, 0x0⟩, ⟨29, 24, .res0, 0x0⟩, ⟨23, 16, .ro, 0x0⟩, ⟨15, 12, .res0, 0x0⟩, ⟨11, 8, .ro, 0x0⟩, ⟨7, 3, .res0, 0x0⟩, ⟨2, 2, .ro, 0x0⟩, ⟨1, 1, .ro, 0x0⟩, ⟨0, 0, .ro, 0x0⟩]⟩
  , ⟨R.FW_VER_A, 0, 1,
      [⟨31, 24, .ro, 0x0⟩, ⟨23, 0, .ro, 0x0⟩]⟩
  , ⟨R.FW_VER_B, 0, 1,
      [⟨31, 24, .ro, 0x0⟩, ⟨23, 0, .ro, 0x0⟩]⟩
  , ⟨R.FW_CTL, 0, 1,
      [⟨31, 31, .wo, 0x0⟩, ⟨30, 30, .wo, 0x0⟩, ⟨29, 0, .res0, 0x0⟩]⟩
  , ⟨R.FW_ACT_TMO, 0, 1,
      [⟨31, 16, .res0, 0x0⟩, ⟨15, 0, .rw, 0xC8⟩]⟩
  , ⟨R.FW_BOOT_TIME, 0, 1,
      [⟨31, 0, .ro, 0x0⟩]⟩
  ]

/-- Registers of set `fw`. -/
def fwRegs : List RegDef := fwRegs0

/-- Registers of set `mgt`, part 0. -/
def mgtRegs0 : List RegDef :=
  [ ⟨R.MGT_STS, 0, 1,
      [⟨31, 31, .ro, 0x0⟩, ⟨30, 24, .res0, 0x0⟩, ⟨23, 16, .ro, 0x0⟩, ⟨15, 8, .res0, 0x0⟩, ⟨7, 0, .ro, 0x1⟩]⟩
  , ⟨R.MGT_WDT, 0, 1,
      [⟨31, 31, .rw, 0x1⟩, ⟨30, 30, .wo, 0x0⟩, ⟨29, 16, .res0, 0x0⟩, ⟨15, 0, .rw, 0x3E8⟩]⟩
  , ⟨R.MGT_BUS, 0, 1,
      [⟨31, 31, .ro, 0x0⟩, ⟨30, 30, .ro, 0x0⟩, ⟨29, 23, .res0, 0x0⟩, ⟨22, 16, .ro, 0x0⟩, ⟨15, 7, .res0, 0x0⟩, ⟨6, 0, .rw, 0x3A⟩]⟩
  , ⟨R.MGT_EID, 0, 1,
      [⟨31, 8, .res0, 0x0⟩, ⟨7, 0, .ro, 0x0⟩]⟩
  ]

/-- Registers of set `mgt`. -/
def mgtRegs : List RegDef := mgtRegs0

/-- Registers of set `dbg`, part 0. -/
def dbgRegs0 : List RegDef :=
  [ ⟨R.DBG_CMD, 0, 1,
      [⟨31, 31, .wo, 0x0⟩, ⟨30, 11, .res0, 0x0⟩, ⟨10, 8, .wo, 0x0⟩, ⟨7, 4, .res0, 0x0⟩, ⟨3, 0, .wo, 0x0⟩]⟩
  , ⟨R.DBG_STS, 0, 1,
      [⟨31, 8, .res0, 0x0⟩, ⟨7, 0, .ro, 0x0⟩]⟩
  , ⟨R.DBG_RD_SEL, 0, 1,
      [⟨31, 27, .res0, 0x0⟩, ⟨26, 24, .rw, 0x0⟩, ⟨23, 22, .res0, 0x0⟩, ⟨21, 20, .rw, 0x0⟩, ⟨19, 10, .res0, 0x0⟩, ⟨9, 0, .rw, 0x0⟩]⟩
  , ⟨R.DBG_RD_ADDR, 0, 1,
      [⟨31, 23, .res0, 0x0⟩, ⟨22, 0, .rw, 0x0⟩]⟩
  , ⟨R.DBG_RD_GO, 0, 1,
      [⟨31, 31, .wo, 0x0⟩, ⟨30, 0, .res0, 0x0⟩]⟩
  , ⟨R.DBG_RD_STS, 0, 1,
      [⟨31, 31, .ro, 0x0⟩, ⟨30, 8, .res0, 0x0⟩, ⟨7, 0, .ro, 0x0⟩]⟩
  , ⟨R.DBG_RD_DATA_LO, 0, 1,
      [⟨31, 0, .ro, 0x0⟩]⟩
  , ⟨R.DBG_RD_DATA_HI, 0, 1,
      [⟨31, 0, .ro, 0x0⟩]⟩
  , ⟨R.DBG_TRC_LO, 0, 1,
      [⟨31, 12, .rw, 0x0⟩, ⟨11, 2, .res0, 0x0⟩, ⟨1, 0, .rw, 0x2⟩]⟩
  , ⟨R.DBG_TRC_HI, 0, 1,
      [⟨31, 16, .res0, 0x0⟩, ⟨15, 0, .rw, 0x0⟩]⟩
  , ⟨R.DBG_TRC_CTL, 0, 1,
      [⟨31, 31, .rw, 0x0⟩, ⟨30, 30, .rw, 0x0⟩, ⟨29, 21, .res0, 0x0⟩, ⟨20, 16, .rw, 0xC⟩, ⟨15, 8, .rw, 0x0⟩, ⟨7, 4, .res0, 0x0⟩, ⟨3, 0, .rw, 0xF⟩]⟩
  , ⟨R.DBG_TRC_PROD, 0, 1,
      [⟨31, 0, .ro, 0x0⟩]⟩
  ]

/-- Registers of set `dbg`, part 1. -/
def dbgRegs1 : List RegDef :=
  [ ⟨R.DBG_TRC_LOST, 0, 1,
      [⟨31, 0, .ro, 0x0⟩]⟩
  , ⟨R.DBG_CNT, 0, 1,
      [⟨31, 16, .ro, 0x0⟩, ⟨15, 0, .ro, 0x0⟩]⟩
  ]

/-- Registers of set `dbg`. -/
def dbgRegs : List RegDef := dbgRegs0 ++ dbgRegs1

/-- The block-specific registers of a page type and instance; offsets 0x100 and above (R74). -/
def regsOf (t : PageType) (inst : Nat) : List RegDef :=
  match t with
  | .glb => glbRegs
  | .tbs => tbsRegs
  | .sec => secRegs
  | .prt => prtRegs
  | .pwr => pwrRegs
  | .ras => rasRegs
  | .dbg => dbgRegs
  | .mgt => evqRegs ++ mgtRegs
  | .fw => fwRegs
  | .hif => evqRegs ++ hifRegs
  | .brg => brgRegs
  | .sch => if inst = 0 then sch0Regs else evqRegs ++ schpRegs
  | .tok => tokRegs
  | .ckp => ckpRegs
  | .mig => migRegs
  | .lnk => lnkRegs
  | .nsc => mcRegs ++ nscRegs
  | .msc => mcRegs ++ mscRegs
  | .fsc => mcRegs ++ fscRegs
  | .clu => cluRegs
  | .core => coreRegs

end Sys2Proof
end

