-- ==== Sys2Proof/Machine/Bits.lean ====
section
/-! DEFINITION.  Bit fields, sign extension and byte order (R3 to R5): the helpers every other
definition of the machine reads fields with. -/

namespace Sys2Proof

/-- Bits [hi:lo] of the number `w` (R4). -/
def bits (w hi lo : Nat) : Nat := w / 2 ^ lo % 2 ^ (hi + 1 - lo)

/-- Bit `n` of the number `w`. -/
def bit (w n : Nat) : Bool := w / 2 ^ n % 2 == 1

/-- `w` with bits [hi:lo] replaced by the low bits of `v`. -/
def setBits (w hi lo v : Nat) : Nat :=
  w / 2 ^ (hi + 1) * 2 ^ (hi + 1) + v % 2 ^ (hi + 1 - lo) * 2 ^ lo + w % 2 ^ lo

/-- 1 for true, 0 for false. -/
def b2n (b : Bool) : Nat := if b then 1 else 0

/-- A number capped at `m`: a counter that saturates. -/
def sat (m n : Nat) : Nat := min m n

/-- The signed value of the low `w` bits of `n` (two's complement). -/
def sgn (w n : Nat) : Int :=
  let v := n % 2 ^ w
  if v < 2 ^ (w - 1) then (v : Int) else (v : Int) - (2 ^ w : Nat)

/-- The low `w` bits of an integer, as a number. -/
def uns (w : Nat) (i : Int) : Nat := (i % ((2 ^ w : Nat) : Int)).toNat

/-- The little-endian value of a list of bytes (R3). -/
def leNat : List Byte → Nat
  | [] => 0
  | b :: bs => b.toNat + 256 * leNat bs

/-- The `n` little-endian bytes of a number (R3). -/
def leBytes : Nat → Nat → List Byte
  | 0, _ => []
  | n + 1, v => BitVec.ofNat 8 v :: leBytes n (v / 256)

/-- Bytes `i` to `i + n - 1` of a record, as a little-endian number. -/
def fieldOf (bs : List Byte) (i n : Nat) : Nat := leNat ((bs.drop i).take n)

/-- Division rounded up. -/
def ceilDiv (a b : Nat) : Nat := (a + b - 1) / b

/-- Does the range [a, a+n) lie within [b, b+m)? -/
def within (a n b m : Nat) : Bool := decide (b ≤ a) && decide (a + n ≤ b + m)

/-- Do the ranges [a, a+n) and [b, b+m) share a byte? -/
def overlaps (a n b m : Nat) : Bool := decide (a < b + m) && decide (b < a + n)

/-- `true` at position `i` of a list of flags. -/
def allTrue (l : List Bool) : Bool := l.all id

/-- The smallest number below `n` that satisfies `p`, counting up from `i`. -/
def findUp (p : Nat → Bool) : Nat → Nat → Option Nat
  | 0, _ => none
  | k + 1, i => if p i then some i else findUp p k (i + 1)

/-- Replace element `i` of a list (no change past its end). -/
def setAt {α : Type} : List α → Nat → α → List α
  | [], _, _ => []
  | _ :: xs, 0, v => v :: xs
  | x :: xs, i + 1, v => x :: setAt xs i v

/-- Remove element `i` of a list (no change past its end). -/
def dropAt {α : Type} : List α → Nat → List α
  | [], _ => []
  | _ :: xs, 0 => xs
  | x :: xs, i + 1 => x :: dropAt xs i

/-- Apply `f` to every number from `i` to `i + n - 1`, in ascending order. -/
def forUp {σ : Type} (f : Nat → σ → σ) : Nat → Nat → σ → σ
  | 0, _, s => s
  | n + 1, i, s => forUp f n (i + 1) (f i s)

/-- Apply `f` to every element of a list, in order. -/
def forEach {α σ : Type} (f : α → σ → σ) : List α → σ → σ
  | [], s => s
  | x :: xs, s => forEach f xs (f x s)

end Sys2Proof
end

