-- ==== Sys2Proof/Machine/Float.lean ====
section
/-! DEFINITION.  Exact values and roundings of the number formats (Table 07-4, R307, R312 to R314,
R326): a value is NaN, an infinity or an exact dyadic m × 2^e, and each rounding is one function. -/

namespace Sys2Proof

/-- An exact value: NaN, an infinity, or m × 2^e (Table 08-2a). -/
inductive Fv
  | nan
  | inf (neg : Bool)
  | fin (m : Int) (e : Int)
  deriving DecidableEq, Repr

/-- A binary format: exponent bits, fraction bits, bias, and whether it has infinities
(FP8 E4M3 has none). -/
structure FpFmt where
  ebits : Nat
  mbits : Nat
  bias : Nat
  hasInf : Bool
  deriving DecidableEq, Repr

namespace FpFmt
/-- FP8 E4M3 of the OCP 8-bit format. -/
def e4m3 : FpFmt := ⟨4, 3, 7, false⟩
/-- FP8 E5M2 of the OCP 8-bit format. -/
def e5m2 : FpFmt := ⟨5, 2, 15, true⟩
/-- BF16. -/
def bf16 : FpFmt := ⟨8, 7, 127, true⟩
/-- IEEE 754 binary16. -/
def fp16 : FpFmt := ⟨5, 10, 15, true⟩
/-- IEEE 754 binary32. -/
def fp32 : FpFmt := ⟨8, 23, 127, true⟩
/-- The cell's 20-bit running-sum format (R307). -/
def fp20 : FpFmt := ⟨8, 11, 127, true⟩
end FpFmt


/-- The value of a bit pattern of a format. -/
def FpFmt.value (f : FpFmt) (w : Nat) : Fv :=
  let neg := bit w (f.ebits + f.mbits)
  let ex := bits w (f.ebits + f.mbits - 1) f.mbits
  let fr := w % 2 ^ f.mbits
  let s (m : Nat) : Int := if neg then -(m : Int) else (m : Int)
  if ex = 2 ^ f.ebits - 1 ∧ (f.hasInf = true ∨ fr = 2 ^ f.mbits - 1) then
    if f.hasInf = true ∧ fr = 0 then .inf neg else .nan
  else if ex = 0 then .fin (s fr) (1 - (f.bias : Int) - f.mbits)
  else .fin (s (2 ^ f.mbits + fr)) ((ex : Int) - f.bias - f.mbits)

/-- a / 2^k rounded to the nearest integer, ties to even. -/
def rneShift (a k : Nat) : Nat :=
  let q := a / 2 ^ k
  let r := a % 2 ^ k
  if 2 * r > 2 ^ k ∨ (2 * r = 2 ^ k ∧ q % 2 = 1) then q + 1 else q

/-- n / d rounded to the nearest integer, ties to even (d > 0). -/
def rneDiv (n d : Nat) : Nat :=
  let q := n / d
  let r := n % d
  if 2 * r > d ∨ (2 * r = d ∧ q % 2 = 1) then q + 1 else q

/-- a × 2^e rounded to the nearest integer, ties to even. -/
def rneScale (a : Nat) (e : Int) : Nat :=
  if 0 ≤ e then a * 2 ^ e.toNat else rneShift a (-e).toNat

/-- A signed m × 2^e rounded to the nearest integer, ties to even. -/
def rneInt (m : Int) (e : Int) : Int :=
  if m < 0 then -(rneScale m.natAbs e : Int) else (rneScale m.natAbs e : Int)

/-- The magnitude code of a × 2^e in a format, rounded to nearest even and unbounded above:
codes at or past the all-ones exponent mean overflow. -/
def FpFmt.code (f : FpFmt) (a : Nat) (e : Int) : Nat :=
  let emin : Int := 1 - (f.bias : Int)
  let lead : Int := e + (Nat.log2 a : Int)
  let q : Int := (if lead < emin then emin else lead) - f.mbits
  (q - (emin - f.mbits)).toNat * 2 ^ f.mbits + rneScale a (e - q)

/-- The canonical quiet NaN of a format (R201, R313, Table 08-7). -/
def FpFmt.qnan (f : FpFmt) : Nat :=
  if f.hasInf then (2 ^ f.ebits - 1) * 2 ^ f.mbits + 2 ^ (f.mbits - 1)
  else (2 ^ f.ebits - 1) * 2 ^ f.mbits + (2 ^ f.mbits - 1)

/-- The infinity code of a format. -/
def FpFmt.infCode (f : FpFmt) : Nat := (2 ^ f.ebits - 1) * 2 ^ f.mbits

/-- The sign bit of a format. -/
def FpFmt.signBit (f : FpFmt) : Nat := 2 ^ (f.ebits + f.mbits)

/-- Round to nearest even; overflow gives infinity; a zero result is +0 (R313, R314). -/
def FpFmt.round (f : FpFmt) (v : Fv) : Nat :=
  match v with
  | .nan => f.qnan
  | .inf neg => f.infCode + (if neg then f.signBit else 0)
  | .fin m e =>
    if m = 0 then 0 else
    let c := min (f.code m.natAbs e) f.infCode
    if c = 0 then 0 else c + (if m < 0 then f.signBit else 0)

/-- FP8 E4M3 of Table 08-7: magnitudes beyond 448 give ±448, NaN gives 0x7F. -/
def roundE4m3 (v : Fv) : Nat :=
  match v with
  | .nan => 0x7F
  | .inf neg => 0x7E + (if neg then 0x80 else 0)
  | .fin m e =>
    if m = 0 then 0 else
    let c := min (FpFmt.e4m3.code m.natAbs e) 0x7E
    if c = 0 then 0 else c + (if m < 0 then 0x80 else 0)

/-- Table 08-7: FP8 E5M2, whose NaN is written as 0x7E. -/
def roundE5m2 (v : Fv) : Nat := FpFmt.e5m2.round v

/-- The exact sum of two values (Table 08-2a). -/
def Fv.add : Fv → Fv → Fv
  | .nan, _ => .nan
  | _, .nan => .nan
  | .inf a, .inf b => if a = b then .inf a else .nan
  | .inf a, .fin _ _ => .inf a
  | .fin _ _, .inf b => .inf b
  | .fin m e, .fin n f =>
    if m = 0 then .fin n f
    else if n = 0 then .fin m e
    else if e ≤ f then .fin (m + n * 2 ^ (f - e).toNat) e
    else .fin (m * 2 ^ (e - f).toNat + n) f

/-- The exact product of two values (Table 08-2a). -/
def Fv.mul : Fv → Fv → Fv
  | .nan, _ => .nan
  | _, .nan => .nan
  | .inf a, .inf b => .inf (a != b)
  | .inf a, .fin n _ => if n = 0 then .nan else .inf (a != decide (n < 0))
  | .fin m _, .inf b => if m = 0 then .nan else .inf (b != decide (m < 0))
  | .fin m e, .fin n f => .fin (m * n) (e + f)

/-- The negation of a value. -/
def Fv.neg : Fv → Fv
  | .nan => .nan
  | .inf a => .inf (!a)
  | .fin m e => .fin (-m) e

/-- Is the value NaN? -/
def Fv.isNan : Fv → Bool
  | .nan => true
  | _ => false

/-- The FP32 bits of the exact sum of two FP32 values, rounded to nearest even; a zero sum is +0 (R314). -/
def addF32 (a b : Nat) : Nat := FpFmt.fp32.round (Fv.add (FpFmt.fp32.value a) (FpFmt.fp32.value b))

/-- The IEEE 754 binary32 sum, rounded to nearest even (R200): unlike an accumulation, it keeps the sign of a sum of
two negative zeros. -/
def ieeeAdd32 (a b : Nat) : Nat := if a = FpFmt.fp32.signBit ∧ b = FpFmt.fp32.signBit then FpFmt.fp32.signBit else addF32 a b

/-- The FP32 bits of the product of two FP32 values, rounded to nearest even. -/
def mulF32 (a b : Nat) : Nat := FpFmt.fp32.round (Fv.mul (FpFmt.fp32.value a) (FpFmt.fp32.value b))

/-- R326: stochastic rounding to FP32 with the 32-bit draw `r`. -/
def roundSr (v : Fv) (r : Nat) : Nat :=
  match v with
  | .nan => FpFmt.fp32.qnan
  | .inf neg => FpFmt.fp32.infCode + (if neg then FpFmt.fp32.signBit else 0)
  | .fin m e =>
    if m = 0 then 0 else
    let a := m.natAbs
    let lead : Int := e + (Nat.log2 a : Int)
    -- quantum of the FP32 value just below, capped at that of the largest finite value
    let q : Int := min ((if lead < -126 then -126 else lead) - 23) 104
    let scaled (x : Nat) (k : Int) : Nat := if 0 ≤ k then x * 2 ^ k.toNat else x / 2 ^ (-k).toNat
    let lo := min (scaled a (e - q)) (2 ^ 24 - 1)
    -- t = floor((a - lo) / gap * 2^32), at most 2^32 - 1
    let t := min (scaled a (e - q + 32) - lo * 2 ^ 32) (2 ^ 32 - 1)
    let n := if t + r ≥ 2 ^ 32 then lo + 1 else lo
    let c := (q + 149).toNat * 2 ^ 23 + n
    if c = 0 then 0 else c + (if m < 0 then FpFmt.fp32.signBit else 0)

/-- The total order of MAX and MIN on a format's bit patterns: larger key, larger value, with
+0 above -0 (R201). -/
def FpFmt.orderKey (f : FpFmt) (w : Nat) : Int :=
  let mag : Int := (w % f.signBit : Nat)
  if bit w (f.ebits + f.mbits) then -mag - 1 else mag

/-- R201: MAX (`mx`) or MIN of two patterns; a NaN operand gives the canonical quiet NaN. -/
def FpFmt.maxMin (f : FpFmt) (mx : Bool) (a b : Nat) : Nat :=
  if (f.value a).isNan || (f.value b).isNan then f.qnan
  else if (f.orderKey a < f.orderKey b) = (mx = true) then b else a

/-- R205: the raw FX64 addend of a float lane under region exponent `e`, or none where the
conversion fails (NaN, infinity, or out of the signed 64-bit range). -/
def fx64Raw (v : Fv) (e : Int) : Option Int :=
  match v with
  | .nan => none
  | .inf _ => none
  | .fin m x =>
    let r := rneInt m (x - e)
    if r < -(2 ^ 63) ∨ r ≥ 2 ^ 63 then none else some r

end Sys2Proof
end

