-- ==== Sys2Proof/Machine/SMap.lean ====
section
/-! DEFINITION.  Sparse maps in one canonical form: a list of (key, value) pairs, keys strictly
rising, and no entry equal to what an unlisted key reads as.  Every bank of the device that is
mostly in its reset state (registers, memory, cores, links, slots) is held as one. -/

namespace Sys2Proof

/-- A sparse map from numbers. -/
abbrev SMap (α : Type) := List (Nat × α)

/-- What key `k` reads as, `d` where it is not listed. -/
def SMap.get {α : Type} : SMap α → Nat → α → α
  | [], _, d => d
  | (j, v) :: m, k, d => if j = k then v else SMap.get m k d

/-- The map without key `k`. -/
def SMap.del {α : Type} : SMap α → Nat → SMap α
  | [], _ => []
  | (j, v) :: m, k => if j = k then SMap.del m k else (j, v) :: SMap.del m k

/-- The map with key `k` listed as `v`. -/
def SMap.ins {α : Type} : SMap α → Nat → α → SMap α
  | [], k, v => [(k, v)]
  | (j, w) :: m, k, v =>
    if j = k then (k, v) :: m
    else if k < j then (k, v) :: (j, w) :: m
    else (j, w) :: SMap.ins m k v

/-- Key `k` set to `v`, where an unlisted `k` reads as `d`: keeps the canonical form. -/
def SMap.put {α : Type} [DecidableEq α] (m : SMap α) (k : Nat) (v d : α) : SMap α :=
  if v = d then SMap.del m k else SMap.ins m k v

/-- Keys strictly rising, all above `lo`, and no entry equal to what its key reads as unlisted. -/
def SMap.wfFrom {α : Type} [DecidableEq α] (d : Nat → α) : Nat → SMap α → Bool
  | _, [] => true
  | lo, (j, v) :: m => decide (lo ≤ j) && decide (v ≠ d j) && SMap.wfFrom d (j + 1) m

/-- The canonical form. -/
def SMap.wf {α : Type} [DecidableEq α] (d : Nat → α) (m : SMap α) : Bool := SMap.wfFrom d 0 m

/-- Every listed key. -/
def SMap.keys {α : Type} (m : SMap α) : List Nat := m.map Prod.fst

/-- The map with the keys that satisfy `p` removed (they read as unlisted). -/
def SMap.drop {α : Type} (m : SMap α) (p : Nat → Bool) : SMap α := m.filter (fun e => !p e.1)

end Sys2Proof
end

