-- ==== Sys2Proof/Machine/State.lean ====
section
/-! DEFINITION.  The state of the AQ-N4 as one block: every register, store, queue, counter, mode
and pin the spec gives it, as plain data, and the machine right after cold reset. -/

namespace Sys2Proof.Machine

/-! ## The timebase (R37 to R45) -/

/-- A request issued and not yet acknowledged: TBS_NOW at its issue, and PG_TMO_NS of its requester's page
then, which a later write does not change (R46, R50). -/
structure Issued where
  since : Nat := 0
  tmo : Nat := 0
  deriving DecidableEq, Repr

/-- The two copies of TBS_NOW and the correction R40 has in progress.  LOCK, HOLDOVER and the
counters are fields of the TBS page's registers. -/
structure Timebase where
  /-- Die 0's copy of TBS_NOW, in ns (R38). -/
  now0 : Nat := 0
  /-- Die 1's copy of TBS_NOW, in ns (R40). -/
  now1 : Nat := 0
  /-- Increments the leading copy still has to omit (R40). -/
  skips : Nat := 0
  /-- The leading copy is die 1's. -/
  lead1 : Bool := false
  /-- Periods that must still pass before the next omission: one in every 1,000 (R40). -/
  gap : Nat := 0
  /-- Periods before die 1's copy starts to count: what its alignment at lock has left (R40). -/
  late : Nat := 0
  /-- TBS_NOW at the last measurement of the difference (R40). -/
  measAt : Nat := 0
  /-- TBS_NOW when the measurement window began, and the WIN in force in it (R34, TBS_EVR_CTL). -/
  evrAt : Nat := 0
  evrWin : Nat := 4
  deriving DecidableEq, Repr

/-! ## Events (R104 to R121) -/

/-- Table 03-5: the kind of an event record. -/
inductive RecKind | error | block | soft | signal | ringLost | info
  deriving DecidableEq, Repr

/-- A record waiting at the device event arbiter (R110 to R113). -/
structure EvRec where
  kind : RecKind
  /-- Page index (offset / 0x1000). -/
  page : Nat
  /-- Subject owner (R104). -/
  subj : Nat
  code : Nat := 0
  bit : Nat := 0
  aux : Nat := 0
  detail : Nat := 0
  /-- The page's owner when the record was produced: recipient 1 of R112. -/
  holder : Option Nat := none
  /-- A SIGNAL record: the partition and slot of its HOST_SIGNAL operation (R461). -/
  sig : Option (Nat × Nat) := none
  deriving DecidableEq, Repr

/-- The device event arbiter and what each ring owes (R109, R117). -/
structure Events where
  /-- GLB_SEQ: the next SEQ (R109). -/
  seq : Nat := 0
  /-- Records produced and not yet granted, oldest first. -/
  waiting : List EvRec := []
  /-- By owner ID: records that ring has lost since its last RING_LOST record (R117). -/
  owed : SMap Nat := []
  /-- Pairs of a page whose records wait and one granted since (R58). -/
  turns : List (Nat × Nat) := []
  deriving DecidableEq, Repr

/-! ## Partitions and keys (R123 to R163) -/

/-- R126: the three states of a partition. -/
inductive PartSt | free | enabled | resetting
  deriving DecidableEq, Repr

/-- A partition reset in progress (Table 04-4). -/
structure ResetSeq where
  /-- DISABLE: ends FREE.  RESET: ends ENABLED. -/
  toFree : Bool := false
  /-- PRT_P_STS.ENG: the classes that still hold entries of the partition (bit 0 host DMA,
  1 fabric, 2 token, 3 checkpoint, 4 migration, 5 scrubbers, 6 controllers, 7 cores). -/
  eng : Nat := 0xFF
  /-- TBS_NOW at step 4. -/
  since : Nat := 0
  /-- PRT_RST_TMO in µs when the sequence started. -/
  tmo : Nat := 0
  deriving DecidableEq, Repr

/-- One partition. -/
structure Part where
  st : PartSt := .free
  rst : Option ResetSeq := none
  deriving DecidableEq, Repr

/-- R146: the states of a key slot. -/
inductive KeySt | free | active | draining
  deriving DecidableEq, Repr

/-- One key slot.  Keys never leave the security unit (R146): a key is known here by a serial
number, and two keys are the same only if their serials are. -/
structure KeySlot where
  st : KeySt := .free
  owner : Nat := 0
  gen : Nat := 0
  key : Nat := 0
  deriving DecidableEq, Repr

/-- An UNASSIGN of memory units that the controllers have still to apply (R134). -/
structure UnassignCmd where
  owner : Nat
  res : Nat
  first : Nat
  count : Nat
  iss : Issued := {}
  deriving DecidableEq, Repr

/-- An image key installed for a partition (R539). -/
structure ImageKey where
  id : Nat
  /-- The 256-bit key, as the eight words SEC_IKEY_W staged. -/
  key : Nat
  deriving DecidableEq, Repr

/-- The PRT and SEC pages' own state. -/
structure Prt where
  /-- Holder of unit u of type RES at key RES × 4096 + u (Table 04-2); `none` unassigned. -/
  holder : SMap (Option Nat) := []
  parts : SMap Part := []
  /-- Key slots 0 to 15. -/
  keys : SMap KeySlot := []
  /-- Key generation of each owner, modulo 2^16 (R147). -/
  gens : SMap Nat := []
  /-- The serial number the next fresh key gets. -/
  nextKey : Nat := 1
  /-- A memory UNASSIGN in progress. -/
  unassign : Option UnassignCmd := none
  /-- Image keys by partition (R538, R539). -/
  ikeys : SMap (Option ImageKey) := []
  /-- By shared engine (token 0 to 3, migration 4 and 5, checkpoint 6): pairs of a partition that waits for it and one
  granted since (R58, R440). -/
  turns : SMap (List (Nat × Nat)) := []
  deriving DecidableEq, Repr

/-! ## Tier memory (R164 to R216) -/

/-- What a controller holds of one 64 B line besides its bytes: the key it was written under,
which bytes that owner has written since, and its poison mark (R152, R167, R213).  `ghost` and
`ver` name the ciphertext the bytes not in `mask` decrypt from. -/
structure Line where
  key : Nat := 0
  ghost : Nat := 0
  ver : Nat := 0
  mask : Nat := 0
  poison : Bool := false
  deriving DecidableEq, Repr

/-- Tier memory and the management core's SRAM.  A byte's key is tier code × 2^48 + address. -/
structure Memory where
  bytes : SMap Byte := []
  /-- By tier code × 2^48 + address, of the line's first byte. -/
  lines : SMap Line := []
  /-- Counts line writes, to tell one ciphertext of a line from the next. -/
  ver : Nat := 0
  /-- By far-store port: how often an expander has been accepted (R643). -/
  epoch : SMap Nat := []
  /-- The management core's SRAM (EVQ_BASE_LO.SPACE 0b11). -/
  sram : SMap Byte := []
  /-- What the protection finds in the lines that the command in progress reads, by tier code × 2^48 + address; no
  command leaves any (the model's own field). -/
  errs : List (Nat × Ecc) := []
  /-- A controller does not take an access of the command in progress, which therefore waits (R95); no command
  leaves it set (the model's own field). -/
  wait : Bool := false
  deriving DecidableEq, Repr

/-- The canonical form of every store: keys strictly rising, none equal to what an unlisted key reads as. -/
def Memory.wf (m : Memory) : Bool :=
  SMap.wf (fun _ => 0) m.bytes && SMap.wf (fun _ => {}) m.lines && SMap.wf (fun _ => 0) m.epoch &&
    SMap.wf (fun _ => 0) m.sram

/-- One NSC, MSC or FSC controller (by page index). -/
structure Ctl where
  /-- The SHARE word in force; a written one takes effect at the next window (R176). -/
  share : Nat := 0x08C8
  /-- TBS_NOW when the present 1 µs window began (R174). -/
  winAt : Nat := 0
  /-- Bytes each class has occupied in the present 1 µs window (R174): RD, WR, RMT. -/
  used : SMap Nat := []
  /-- Bytes still charged to each class from a request larger than its share (R174). -/
  debt : SMap Nat := []
  /-- Correctable errors per tracked row, the row corrected last first (R654). -/
  track : List (Nat × Nat) := []
  /-- Rows queued for repair, oldest first (R655). -/
  repairQ : List Nat := []
  /-- Spare rows used since cold reset. -/
  spareUsed : Nat := 0
  /-- Rows remapped to a spare: row address and spare number (Table 18-4). -/
  remap : List (Nat × Nat) := []
  /-- No spare row left for a queued row (R658). -/
  exhaust : Bool := false
  /-- The next line the scrubber visits, as an offset in the controller (R648). -/
  scrubNext : Nat := 0
  /-- TBS_NOW when the present pass began, and its period in hours (R648). -/
  scrubAt : Nat := 0
  scrubHours : Nat := 0
  /-- The scrubber is more than 1 % of its period behind (R650). -/
  scrubLate : Bool := false
  deriving DecidableEq, Repr

/-! ## The tier allocator and FX64 regions (R177 to R193, R204 to R210) -/

/-- One extent of an allocation, in 2 MiB granules of a tier (Table 05-6). -/
structure Extent where
  tier : Nat
  start : Nat
  len : Nat
  lstart : Nat
  deriving DecidableEq, Repr

/-- A live allocation. -/
structure Alloc where
  seq : Nat
  cls : Nat
  die : Nat
  size : Nat
  first : Nat
  spill : Nat
  short1 : Nat := 0
  revoked : Bool := false
  /-- Units (RES × 4096 + u) unassigned since: their granules are no longer the allocation's (R190). -/
  gone : List Nat := []
  exts : List Extent
  deriving DecidableEq, Repr

/-- An FX64 region as the controllers hold it (R210). -/
structure FxReg where
  tier : Nat
  base : Nat
  len : Nat
  exp : Nat
  deriving DecidableEq, Repr

/-- The allocator's records of one partition, by record slot 0 to 4,095. -/
structure AllocSt where
  live : SMap (Option Alloc) := []
  /-- The issue count the next handle gets (from 1, modulo 2^16, skipping 0). -/
  seq : Nat := 1
  /-- The FX64 regions enabled at every controller (R210). -/
  fxrOn : SMap (Option FxReg) := []
  /-- A record that its controller has not taken yet, and the RESULT that its command completes with (R186). -/
  record : Option (List Byte × Nat) := none
  deriving DecidableEq, Repr

/-! ## Reliability (R644 to R670) -/

/-- Table 18-10: one entry of the history log. -/
structure HistEntry where
  kind : Nat
  tier : Nat := 0
  addr : Nat := 0
  page : Nat := 0
  owner : Nat := 0
  time : Nat := 0
  deriving DecidableEq, Repr

/-- The RAS page's own state. -/
structure Ras where
  /-- The history log, oldest first, at most 256 entries (R661). -/
  log : List HistEntry := []
  /-- Fenced pages (R665, R666). -/
  fenced : SMap Bool := []
  /-- Times of the timeouts counted against each responder page within the window (R662). -/
  tmos : SMap (List Nat) := []
  /-- Uncorrectable SRAM errors per core slot since cold reset (R659). -/
  sramUe : SMap Nat := []
  /-- Handshakes abandoned and not yet acknowledged late (R54). -/
  abandoned : List Hs := []
  deriving DecidableEq, Repr

/-! ## The die bridge (R19 to R31) -/

/-- One transfer in the die bridge, not yet acknowledged. -/
structure BridgeXfer where
  id : Nat
  /-- Traffic class: 0 response, 1 write, 2 request (R20). -/
  cls : Nat
  src : Nat
  dst : Nat
  /-- Direction: the die it leaves. -/
  die : Nat
  /-- The module that carries it. -/
  mod : Nat
  /-- The operation whose execution depends on it: partition and slot (R53). -/
  dep : Option (Nat × Nat) := none
  iss : Issued := {}
  deriving DecidableEq, Repr

/-- The die bridge's own state; enables and counters are BRG registers. -/
structure Bridge where
  /-- Modules that have trained (bit m), whatever their enables. -/
  trained : Nat := 0
  /-- Modules that have failed to train since the last reset (bit m). -/
  failed : Nat := 0
  /-- The rate each trained module runs at (0 32 GT/s, 1 24, 2 16). -/
  rates : SMap Nat := []
  /-- Transfers accepted and unacknowledged, oldest first. -/
  inFlight : List BridgeXfer := []
  /-- Credits in use, by die × 3 + class (R20). -/
  used : SMap Nat := []
  /-- Credits each class has per direction: the spec gives no number (the model's own field; no
  rule rests on its value). -/
  limit : Nat := 64
  /-- Enabled modules waiting to retrain; the first one is in training once it is no longer trained (R30,
  BRG_CTL.RETRAIN). -/
  retrain : List Nat := []
  /-- Response credits reserved for the completions of requests that have crossed: the direction, source
  and destination of each completion, oldest first (R21). -/
  owed : List (Nat × Nat × Nat) := []
  /-- The identity the next transfer gets. -/
  nextId : Nat := 0
  /-- Transfers delivered, by die: how many (R22). -/
  delivered : SMap Nat := []
  deriving DecidableEq, Repr

/-! ## Cores (R260 to R304) -/

/-- A core slot's role (CORE_ID.ROLE). -/
inductive Role | active | substitute | spare | failed
  deriving DecidableEq, Repr

/-- The core routers: what slot each logical core has, and each slot's role (R15, R263).  Slots
are CORE page instances, 256 × die + slot. -/
structure Router where
  /-- By logical core: its slot; `none` after a retirement. -/
  slotOf : SMap (Option Nat) := []
  /-- By slot: the logical core it serves (`none`: none). -/
  coreOf : SMap (Option Nat) := []
  role : SMap Role := []
  /-- A substitution in progress or held: die, failed slot, spare slot or 0xFF (Table 07-3). -/
  busy : Option (Nat × Nat × Nat) := none
  /-- The substitution waits for its partition (R525). -/
  held : Bool := false
  deriving DecidableEq, Repr

/-- A transfer request outstanding at a queue (R221, R226); tier 4 stands for a fabric write of a plan (R415). -/
structure TqReq where
  id : Nat
  tier : Nat
  addr : Nat
  len : Nat
  /-- Place in the packing (R222). -/
  pos : Nat
  /-- Key slot the access carries (R145). -/
  slot : Nat
  iss : Issued := {}
  /-- TAG of its block entry, which its faults report (Table 06-1). -/
  tag : Nat := 0
  deriving DecidableEq, Repr

/-- A list read outstanding (R747): the M-aligned block it asks for. -/
structure ListReq where
  tier : Nat
  addr : Nat
  slot : Nat
  iss : Issued := {}
  deriving DecidableEq, Repr

/-- A block of a list that has been read: its bytes with their marks, or the code its read failed with. -/
structure ListBlk where
  tier : Nat
  addr : Nat
  data : List (Byte × Nat)
  code : Nat := 0
  deriving DecidableEq, Repr

/-- A fault that a queue's stream has met at an entry, raised once the entries before it are done (R219, Table
06-5). -/
structure EntFail where
  /-- The fault code; 0x18 with a subcode and AUX for a sequencer fault. -/
  code : Nat
  sub : Nat := 0
  aux : Nat := 0
  detail : Nat := 0
  tag : Option Nat := none
  /-- The block that refused the access has logged it. -/
  logged : Bool := false
  deriving DecidableEq, Repr

/-- A block entry read and checked, with the bytes of it already asked for (Table 06-1). -/
structure BlockEnt where
  addr : Nat
  len : Nat
  tier : Nat
  fence : Bool
  tag : Nat
  last : Bool
  issued : Nat := 0
  deriving DecidableEq, Repr

/-- What a queue works through, in issue order: a stream by its list pointer (`ws`: in the static region, R291), or a
GATH command by the WSA of its command block (R272, R292); `pc` is the instruction's (R298). -/
inductive TqItem
  | stream (ws : Bool) (tier addr pc : Nat)
  | gath (wsa pc : Nat)
  deriving DecidableEq, Repr

/-- One transfer queue and its window (R222, R226, R272, R274). -/
structure Tq where
  items : List TqItem := []
  /-- Where the next block entry of the active stream lies; `curWs`: in the static region. -/
  curWs : Bool := false
  curTier : Nat := 0
  curAddr : Nat := 0
  /-- Bytes left of a LINK continuation; `none` in the first segment. -/
  segLeft : Option Nat := none
  /-- Entries read of the active stream (R219). -/
  count : Nat := 0
  /-- The END entry has been read. -/
  ended : Bool := false
  /-- List reads outstanding, and the list block at hand (R747). -/
  lists : List ListReq := []
  lbuf : Option ListBlk := none
  /-- An entry of the stream has failed. -/
  fail : Option EntFail := none
  ents : List BlockEnt := []
  reqs : List TqReq := []
  /-- Where the next request's data packs. -/
  issuePos : Nat := 0
  /-- Buffers granted for this window. -/
  bufs : Nat := 0
  /-- Bytes packed: the window may be read below this. -/
  packed : Nat := 0
  /-- A compute instruction has issued since the last STRM or GATH here (R272). -/
  relPend : Bool := false
  win : SMap Byte := []
  /-- Poison marks, by 64 B line: 0 none, else 1 + the DETAIL of the poisoned tier line (R213, R749). -/
  pois : SMap Nat := []
  /-- TQ3: ranges DRAIN has written since the window started (R274). -/
  written : List (Nat × Nat) := []
  /-- TQ3: pages of the window that hold a DRAIN buffer. -/
  pages : List Nat := []
  /-- TQ3: a write stream has been started since the window started (R274). -/
  strm : Bool := false
  /-- Window bytes the gather engine needs buffers for (R353); of TQ3, the buffers that the DRAIN at hand waits for.
  -/
  need : Nat := 0
  deriving DecidableEq, Repr

/-- Table 08-2: a tally slot. -/
structure Slot where
  elems : SMap Nat := []
  /-- CLASS: `none` empty, `some true` FP, `some false` INT. -/
  cls : Option Bool := none
  shape : Nat := 0
  e : Nat := 0
  k : Nat := 0
  klimit : Option Nat := none
  sat : Bool := false
  klim : Bool := false
  tile : Nat := 0
  fmt : Nat := 0
  order : Nat := 0
  width : Nat := 0
  sr : Nat := 0
  deriving DecidableEq, Repr

/-- The operation a core holds (R287, R406). -/
structure HeldOp where
  part : Nat
  slot : Nat
  opid : Nat
  chain : Bool := false
  stages : Nat := 1
  stage : Nat := 0
  /-- Hand-over buffers the descriptor asks for, and whether they are granted (R251). -/
  hand : Nat := 0
  handOk : Bool := true
  /-- TBS_NOW at the grant (R302). -/
  since : Nat := 0
  /-- The first KLIM crossing has been reported (R336). -/
  klimSeen : Bool := false
  /-- Its class (Table 11-2), and for a MOVE or RESHARD: its plan's writes have been issued. -/
  cls : Nat := 0
  issued : Bool := false
  /-- MOVE, RESHARD: the plan entry at hand, its bytes once read, and how many of its bytes are copied; the core whose
  buffer it waits for, and since when (R414). -/
  next : Nat := 0
  ent : List Byte := []
  ofs : Nat := 0
  bwait : Option (Nat × Nat) := none
  deriving DecidableEq, Repr

/-- A FUSE waiting for its DRAIN (R295). -/
structure FuseSpec where
  op : Nat
  fmt : Nat
  wsa : Nat
  deriving DecidableEq, Repr

/-- One row of a gather command, from its first request until it is decoded (R356 to R359). -/
structure GthRow where
  /-- Place in edge order within the command. -/
  seq : Nat
  tier : Nat
  addr : Nat
  len : Nat
  /-- Bytes asked for, and bytes arrived. -/
  issued : Nat := 0
  got : Nat := 0
  data : SMap Byte := []
  /-- 0, or 1 + the DETAIL of a poisoned line. -/
  mark : Nat := 0
  /-- What GTH_FLT_POS reports for it. -/
  pos : Nat := 0
  /-- Where its output goes in the window, for a row or for the vertex it is the last of. -/
  dst : Nat := 0
  last : Bool := false
  /-- Degree of its vertex. -/
  deg : Nat := 0
  deriving DecidableEq, Repr

/-- A gather command the engine has taken (R345 to R372). -/
structure GthCmd where
  no : Nat
  q : Nat
  wsa : Nat
  /-- The PC of its GATH (R298). -/
  pc : Nat := 0
  /-- The 64 B command block, and for an EMBED_LOOKUP its table descriptor. -/
  block : List Byte := []
  desc : List Byte := []
  /-- Issued by an EMBED_LOOKUP operation (R382). -/
  embed : Bool := false
  /-- Window offset reserved for the present vertex's row, and for the trailer. -/
  dst : Nat := 0
  trlAt : Nat := 0
  /-- The next item to begin, and the edges left of the present one. -/
  item : Nat := 0
  edge : Nat := 0
  edgeEnd : Nat := 0
  edge0 : Nat := 0
  deg : Nat := 0
  /-- Every fetch has been issued. -/
  allOut : Bool := false
  rows : List GthRow := []
  /-- Rows begun, and rows reduced. -/
  begun : Nat := 0
  reduced : Nat := 0
  /-- Running values of the vertex or segment being reduced; empty: none begun. -/
  acc : List Nat := []
  items : Nat := 0
  hubs : Nat := 0
  empty : Nat := 0
  firstHub : Nat := 0xFFFFFFFF
  /-- Rows fetched per shard (R384). -/
  shards : SMap Nat := []
  deriving DecidableEq, Repr

/-- A row fetch request outstanding. -/
structure GthReq where
  id : Nat
  cmd : Nat
  seq : Nat
  tier : Nat
  addr : Nat
  len : Nat
  /-- Offset of its bytes in the record. -/
  ofs : Nat
  slot : Nat
  iss : Issued := {}
  deriving DecidableEq, Repr

/-- The gather engine of one core. -/
structure Gather where
  /-- Commands waiting: queue and WSA of the block. -/
  waiting : List (Nat × Nat) := []
  /-- Commands taken and not finished, oldest first. -/
  active : List GthCmd := []
  reqs : List GthReq := []
  /-- Blocks of offsets, indices and vertex lists asked for, and read (R357). -/
  metas : List ListReq := []
  blks : List ListBlk := []
  nextId : Nat := 0
  /-- Buffers of a staging request that was refused and still waits. -/
  wait : Option Nat := none
  deriving DecidableEq, Repr

/-- A program load in progress, as GO named it (R280). -/
structure Pld where
  iss : Issued := {}
  slot : Nat
  own : Nat
  tier : Nat
  addr : Nat
  count : Nat
  dest : Nat
  deriving DecidableEq, Repr

/-- The shard a core has asked of the weight ring (R249): the PC of its WLOAD, and TBS_NOW then. -/
structure ShardReq where
  shard : Nat
  pc : Nat := 0
  since : Nat := 0
  deriving DecidableEq, Repr

/-- A buffer request that the pool has refused and the requester still wants (R238, R240). -/
structure BufWait where
  /-- The requester: queue 0 to 3, gather engine 4, hand-over 5, DRAIN 6, inbound writes 7. -/
  who : Nat
  /-- TBS_NOW at the first refusal. -/
  since : Nat
  /-- A buffer has been released since the last refusal: it may retry. -/
  retry : Bool := false
  /-- Requesters granted since it waits (R58). -/
  passed : List Nat := []
  deriving DecidableEq, Repr

/-- One core slot: its stores, sequencer, queues and gather engine (Table 07-1). -/
structure Core where
  pc : Nat := 0
  /-- Index registers I0 to I15. -/
  idx : SMap Nat := []
  /-- Program store: the entries loaded since the store was last zeroed. -/
  prog : SMap (Option Nat) := []
  work : SMap Byte := []
  workPois : SMap Nat := []
  hand : SMap Byte := []
  handPois : SMap Nat := []
  tally : SMap Slot := []
  shadowA : SMap Nat := []
  shadowB : SMap Nat := []
  /-- The shadow set the next MACT computes in is B (R278). -/
  nextB : Bool := false
  tqs : SMap Tq := []
  gth : Gather := {}
  op : Option HeldOp := none
  running : Bool := false
  stopped : Bool := false
  inGet : Bool := false
  fuse : Option FuseSpec := none
  /-- An odd number of back-to-back DRAINs has run: the next one takes no event of its own (R297). -/
  drains : Bool := false
  shard : Option ShardReq := none
  /-- Buffer requests refused and not yet granted. -/
  bufWait : List BufWait := []
  pld : Option Pld := none
  /-- Identity of the next transfer request. -/
  nextReq : Nat := 0
  /-- Staging buffers the gather engine holds (R358), and buffers inbound writes hold (R414). -/
  staged : Nat := 0
  inbound : Nat := 0
  deriving DecidableEq, Repr

/-! ## Clusters (R241 to R250) -/

/-- A layer held in a weight region. -/
structure Layer where
  bytes : Nat := 0
  /-- Its prefetch faulted with this code (Table 06-5); 0: it did not. -/
  code : Nat := 0
  /-- The surplus that is not held: tier, address and length of each range (R195). -/
  rest : List (Nat × Nat × Nat) := []
  deriving DecidableEq, Repr

/-- A range of a block entry that the prefetch unit has not loaded yet. -/
structure LpfEnt where
  tier : Nat
  addr : Nat
  len : Nat
  last : Bool
  deriving DecidableEq, Repr

/-- What a prefetch in progress has done: bytes loaded, the surplus, where its list is, the list block and the entry
at hand. -/
structure LpfRun where
  pos : Nat := 0
  surplus : Nat := 0
  rest : List (Nat × Nat × Nat) := []
  tier : Nat
  addr : Nat
  left : Option Nat := none
  count : Nat := 0
  lbuf : Option ListBlk := none
  ent : Option LpfEnt := none
  iss : Issued := {}
  deriving DecidableEq, Repr

/-- One cluster. -/
structure Cluster where
  store : SMap Byte := []
  pois : SMap Nat := []
  /-- Core slots that hold a fetch slot (R231). -/
  fetch : List Nat := []
  /-- Pairs of a core that waits for a fetch slot and one granted since it waits (R58). -/
  fetchTurns : List (Nat × Nat) := []
  cur : Option Layer := none
  next : Option Layer := none
  /-- NEXT is the upper of the two weight regions. -/
  nextHigh : Bool := false
  /-- A SINGLE-mode prefetch waits for the next epoch (R247). -/
  lpfWait : Bool := false
  /-- The prefetch that loads. -/
  lpf : Option LpfRun := none
  /-- The partition has completed an epoch since the GO (R246). -/
  epochSeen : Bool := false
  /-- The shard passing (R249). -/
  shard : Nat := 0
  deriving DecidableEq, Repr

/-! ## Pins and resets (R681, R685, R700 to R705) -/

/-- The pins the device reads and drives, and what holds it in reset. -/
structure Pins where
  /-- PWROK is high. -/
  pwrok : Bool := true
  /-- RST_N is high. -/
  rstN : Bool := false
  /-- Cold reset is held: PWROK low, RST_N low, or a trip or brown-out that stands. -/
  held : Bool := true
  /-- THERMTRIP_N is driven low: the N4 has stopped all activity (R681). -/
  tripped : Bool := false
  /-- PERST_N is high. -/
  perstN : Bool := false
  /-- The upstream port has been released (boot step 11). -/
  upReleased : Bool := false
  /-- The board holds HOT_N low (R677). -/
  hotIn : Bool := false
  deriving DecidableEq, Repr

/-! ## The scheduler (R404 to R464) -/

/-- Table 11-5: the states of an operation slot. -/
inductive SlotSt | empty | loading | waiting | ready | running | faulted
  deriving DecidableEq, Repr

/-- Table 12-1: who executes a granted operation. -/
inductive Exec
  | core (c : Nat)
  | token (e : Nat)
  | mig (d : Nat)
  | ckp (d : Nat)
  | sched
  deriving DecidableEq, Repr

/-- One operation slot of a partition. -/
structure OpSlot where
  st : SlotSt := .empty
  /-- The descriptor's eight 64-bit words (Table 11-1). -/
  desc : List Nat := []
  /-- Scoreboard count while WAITING. -/
  count : Nat := 0
  /-- Banked decrements (R423). -/
  bank : Nat := 0
  /-- Decrements held while LOADING (R424). -/
  held : Nat := 0
  /-- Run count (R407). -/
  run : Nat := 0
  /-- TBS_NOW when the slot became READY, and its place in that order (R449). -/
  readyAt : Nat := 0
  readySeq : Nat := 0
  exec : Option Exec := none
  /-- The executor has finished the operation; its completion is to be granted. -/
  fin : Bool := false
  /-- The latest request its executor has issued for it. -/
  iss : Issued := {}
  /-- MIG: the table descriptor read at the grant (R376, R440). -/
  copy : List Byte := []
  /-- CORE_PIMG.TAG or the GEN of the descriptor at the grant (Table 21-2). -/
  tag : Nat := 0
  /-- The completion is held for ordered release (SCH_SLOTSTS.HELD). -/
  heldRel : Bool := false
  /-- It has faulted with FREL 1, and its release waits for its fabric writes to be acknowledged (R420, R426). -/
  drain : Bool := false
  deriving DecidableEq, Repr

/-- One flow: SCH_FLOWCFG, SCH_FLOWMASK and its sequence numbers (R443, R444). -/
structure Flow where
  en : Bool := false
  ordered : Bool := false
  hold : Bool := false
  win : Nat := 256
  mask : Nat := 0xFFFFFFFFFFFF
  nextSeq : Nat := 0
  nextRel : Nat := 0
  deriving DecidableEq, Repr

/-- What a release entry waits for. -/
inductive RelSt | running | done | faulted
  deriving DecidableEq, Repr

/-- One entry of the release buffer: an operation of an ordered flow in service (R445). -/
structure RelEnt where
  flow : Nat
  seq : Nat
  slot : Nat
  st : RelSt := .running
  deriving DecidableEq, Repr

/-- Where a graph command came from: the register path with its TAG, or entry `idx` of a queue
pair with its command identity (R456, R629). -/
inductive CmdSrc
  | reg (tag : Nat)
  | queue (q idx cid : Nat)
  deriving DecidableEq, Repr

/-- A graph command: its 32 bytes (Table 11-6). -/
structure GraphCmd where
  bytes : List Byte
  src : CmdSrc
  deriving DecidableEq, Repr

/-- Successors of a released completion that are still to be signalled: the rest of its extended list, whose
controller does not take the read now, and its LINK edges (R419). -/
structure SuccJob where
  tier : Nat
  addr : Nat
  left : Nat
  edges : List Nat
  deriving DecidableEq, Repr

/-- A remote decrement in the inbound queue (Table 12-6): its link and header; `live`: the link has stayed up since.
-/
structure InDec where
  link : Nat
  hdr : Nat
  live : Bool := true
  deriving DecidableEq, Repr

/-- One partition's slice of the scheduler. -/
structure Sched where
  slots : SMap OpSlot := []
  flows : SMap Flow := []
  /-- Release buffer (R445). -/
  rel : List RelEnt := []
  /-- LINK edges A → B, in the order they were added. -/
  links : List (Nat × Nat) := []
  /-- Command queue, oldest first (R456). -/
  cmdQ : List GraphCmd := []
  /-- LOADs in progress (R432). -/
  loads : List GraphCmd := []
  /-- Delay list: deadline and slot, in completion order (R458). -/
  delay : List (Nat × Nat) := []
  /-- The next place in the order of becoming READY. -/
  readySeq : Nat := 0
  /-- By priority: the flow granted last, plus 1 (R449 step 3). -/
  lastFlow : SMap Nat := []
  /-- The logical core granted last, plus 1 (R450). -/
  lastCore : Nat := 0
  /-- By cluster: the number of the grant it was granted last in (R450). -/
  cluGrant : SMap Nat := []
  grantNo : Nat := 0
  /-- Successors still to be signalled, oldest first. -/
  succs : List SuccJob := []
  /-- Remote decrements not yet applied, oldest first, at most 256 (Table 12-6). -/
  inQ : List InDec := []
  /-- PAUSED: the delay list holds remaining times, and no deadline runs (Table 15-2). -/
  frozen : Bool := false
  deriving DecidableEq, Repr

/-! ## The Fobeov Fabric (R566 to R611) -/

/-- Who issued an outbound fabric request. -/
inductive FabWho
  /-- A write of the RESHARD in a slot (R416). -/
  | op (p slot : Nat)
  /-- A remote decrement of a released operation (R420, R427). -/
  | succ (p : Nat)
  /-- LNK_XCTL of a link (R588). -/
  | xctl (l : Nat)
  deriving DecidableEq, Repr

/-- A packet: the 128-bit header of Table 16-7 as a number, and its data; `cmd`: LNK_XCTL sends it, which EN and HOLD
do not gate (R745). -/
structure Packet where
  vc : Nat
  hdr : Nat
  data : List Byte := []
  cmd : Bool := false
  deriving DecidableEq, Repr

/-- A packet in a receive buffer, when it arrived, and whether the link has stayed up since (R602). -/
structure RxPkt where
  pkt : Packet
  at_ : Nat
  live : Bool := true
  deriving DecidableEq, Repr

/-- One lane's transmitter: blocks of the codeword being filled, oldest first, and a bit that waits for its PAM4
partner (R569). -/
structure LaneTx where
  blks : List Nat := []
  odd : Option Nat := none
  deriving DecidableEq, Repr

/-- A request waiting for a tag (R600): its destination by logical ID, or by the link it must leave
on; `hdr` still lacks DST, SRC and TAG. -/
structure FabOut where
  who : FabWho
  part : Nat
  lid : Option Nat := none
  link : Option Nat := none
  hdr : Nat
  data : List Byte := []
  /-- A plan's write: its place in TQ3, and the TAG of its plan entry (R412, R415). -/
  id : Nat := 0
  etag : Nat := 0
  deriving DecidableEq, Repr

/-- A request outstanding under a tag. -/
structure FabReq where
  who : FabWho
  part : Nat
  link : Nat
  opc : Nat
  /-- TBS_NOW at issue, and LNK_RTMO then in ns (R601). -/
  since : Nat
  rtmo : Nat
  id : Nat := 0
  etag : Nat := 0
  deriving DecidableEq, Repr

/-- The device-wide part of the transaction layer. -/
structure Fab where
  /-- Route table: physical ID to link mask (R596). -/
  rt : SMap Nat := []
  /-- Logical maps: partition × 4096 + logical ID to VALID and PHYS. -/
  lmap : SMap (Bool × Nat) := []
  /-- Outstanding requests by tag (R600). -/
  tags : SMap (Option FabReq) := []
  /-- Quarantined tags: when each becomes reusable (R603). -/
  quar : SMap (Option Nat) := []
  /-- The tag granted last, plus 1 (rotation, R600). -/
  nextTag : Nat := 0
  /-- Requests that wait for a tag, oldest first. -/
  wait : List FabOut := []
  deriving DecidableEq, Repr

/-- A DATA flit in the replay buffer. -/
structure Flit where
  seq : Nat
  body : List Byte
  deriving DecidableEq, Repr

/-- One link. -/
structure LinkSt where
  /-- MAX_GEN of the training attempt in progress (R578). -/
  attempt : Nat := 3
  /-- TBS_NOW at the start of the present step, and of the training. -/
  stepAt : Nat := 0
  startAt : Nat := 0
  /-- Consecutive TS1 blocks received, by lane (step 1). -/
  ts1 : SMap Nat := []
  /-- The peer's good-lane receive mask (step 2). -/
  peerMask : Nat := 0
  /-- The last TS2 received and how many identical ones in a row (step 3). -/
  ts2 : List Byte := []
  ts2n : Nat := 0
  /-- Transmitter taps by lane, in units of 0.0125: pre2, pre1, post1 (R571). -/
  taps : SMap (Int × Int × Int) := []
  /-- Lanes whose receiver at the peer has reported READY (step 5). -/
  ready : Nat := 0
  /-- Adjustment requests the peer refused, by lane (EQACK code 1). -/
  eqRef : SMap Nat := []
  /-- Virtual channels whose CREDIT_INIT has been received (step 7). -/
  credIn : Nat := 0
  /-- The next DATA flit's SEQ, and the SEQ expected of the peer (R580). -/
  txSeq : Nat := 0
  rxSeq : Nat := 0
  /-- The replay buffer, oldest first. -/
  unacked : List Flit := []
  /-- A NAK has been sent since a flit was last accepted. -/
  nakSent : Bool := false
  /-- Consecutive replays without ACK progress (R581), and when an ACK last advanced. -/
  noProg : Nat := 0
  progAt : Nat := 0
  /-- Flits other than NOP sent since the last NOP (R572). -/
  nonNop : Nat := 0
  /-- Packets waiting for credits, oldest first. -/
  txq : List Packet := []
  /-- Packets in the receive buffers that their target has not accepted, oldest first (R584). -/
  rxq : List RxPkt := []
  /-- LNK_XCTL's data is still to be read: its controller does not take the read yet (R95). -/
  xpend : Bool := false
  /-- A completion of LNK_XCTL whose data is still to be written to XRSP. -/
  xrsp : Option Packet := none
  /-- The lanes' transmitters, by physical lane. -/
  lanes : SMap LaneTx := []
  /-- The channel of EVT, WR and REQ granted last (R585). -/
  lastVc : Nat := 4
  deriving DecidableEq, Repr

/-! ## The host interface (R612 to R643) -/

/-- A completion waiting to be written to a completion queue (Table 17-4). -/
structure CqEnt where
  cid : Nat
  status : Nat
  sqHead : Nat
  check : Nat := 0
  slot : Nat := 0
  deriving DecidableEq, Repr

/-- One queue pair: its registers (Q_SQ_LO to Q_STS) and what it has in flight. -/
structure Qp where
  sqBase : Nat := 0
  cqBase : Nat := 0
  en : Bool := false
  ien : Bool := false
  vec : Nat := 0
  log2n : Nat := 6
  sqTail : Nat := 0
  sqHead : Nat := 0
  cqHead : Nat := 0
  err : Bool := false
  wrej : Bool := false
  code : Nat := 0
  /-- Commands fetched since EN, CQ entries written, and CQ entries consumed (R627). -/
  fetched : Nat := 0
  written : Nat := 0
  consumed : Nat := 0
  /-- Commands fetched that have no CQ entry yet (R635). -/
  open_ : Nat := 0
  /-- Completions not yet written, oldest first. -/
  waiting : List CqEnt := []
  /-- When the first completion that no message covers was written (R630). -/
  intAt : Option Nat := none
  /-- When the last message was sent. -/
  msgAt : Option Nat := none
  /-- A fetch of the entry at SQ_HEAD that host memory has not answered (R634). -/
  fetch : Option Issued := none
  deriving DecidableEq, Repr

/-- A host-window access that its controller has not answered (R621). -/
structure HostAcc where
  win : Nat
  ofs : Nat
  len : Nat
  write : Bool
  iss : Issued
  deriving DecidableEq, Repr

/-- One function's MSI-X state (PCIe): vector masks and pending bits. -/
structure Msix where
  /-- MSI-X Enable and Function Mask. -/
  en : Bool := false
  mask : Bool := false
  /-- Vectors unmasked; the mask bit of an entry is set at reset (PCIe). -/
  unmasked : SMap Bool := []
  pend : SMap Bool := []
  deriving DecidableEq, Repr

/-- The host interface. -/
structure Hif where
  /-- By partition × 4 + queue. -/
  qps : SMap Qp := []
  /-- By function: 0 the PF, 1 to 8 the VFs. -/
  msix : SMap Msix := []
  /-- SR-IOV VF Enable of the PF (R140). -/
  vfEn : Bool := false
  /-- By partition: the queue fetched last, plus 1 (rotation, R627). -/
  lastQ : SMap Nat := []
  /-- Translations cached: function and I/O virtual page (R633), at most 256. -/
  atc : List (Nat × Nat) := []
  /-- Host-window accesses not answered yet. -/
  accs : List HostAcc := []
  deriving DecidableEq, Repr

/-! ## The migration engines (R388 to R401) -/

/-- A row move between steps 3 and 5 of Table 10-5. -/
structure RowMove where
  row : Nat
  /-- Where it was, and where it goes. -/
  oldShard : Nat
  oldSlot : Nat
  newShard : Nat
  newSlot : Nat
  /-- The bucket its entry goes to (R395). -/
  bucket : Nat
  home : Bool
  /-- The entry has been written (step 4). -/
  redirected : Bool := false
  deriving DecidableEq, Repr

/-- The progress of an operation a migration engine holds. -/
structure MigOp where
  /-- The lists have been read and checked. -/
  started : Bool := false
  /-- REQUANT: the SERVE descriptor. -/
  serve : List Byte := []
  /-- The next entry or row. -/
  next : Nat := 0
  moves : List RowMove := []
  done : Nat := 0
  same : Nat := 0
  full : Nat := 0
  nonfin : Nat := 0
  /-- An entry has failed with this code and place: the operation faults once the moves before it are done (Table
  10-9). -/
  fail : Option (Nat × Nat) := none
  deriving DecidableEq, Repr

/-! ## The token engines (R465 to R517) -/

/-- One stream of a token engine. -/
structure Stream where
  en : Bool := false
  owner : Nat := 0
  vslot : Nat := 0
  carry : List Byte := []
  /-- TOK_STRM_TOK and TOK_STRM_INV. -/
  tok : Nat := 0
  inv : Nat := 0
  hold : List Byte := []
  stopped : Bool := false
  pos : Nat := 0
  /-- Constraint state and CSTARTED. -/
  cstate : Nat := 0
  cstarted : Bool := false
  /-- TOK_DTAB, TOK_DCTL and TOK_CAUT as their registers hold them. -/
  dtab : Nat := 1
  dctl : Nat := 0
  caut : Nat := 1
  deriving DecidableEq, Repr

/-- One vocabulary slot. -/
structure VSlot where
  owner : Nat := 0
  size : Nat := 0
  base : Nat := 0
  busy : Bool := false
  valid : Bool := false
  err : Bool := false
  code : Nat := 0
  /-- 1 hash, 2 trie. -/
  kind : Nat := 0
  /-- Hash: the whole image.  Trie: its 64 B header. -/
  img : List Byte := []
  /-- The load in progress. -/
  iss : Issued := {}
  /-- Where the image lies, as GO took it from TOK_VLD_SRC. -/
  tier : Nat := 1
  addr : Nat := 0
  deriving DecidableEq, Repr

/-- One stop block. -/
structure StopBlk where
  owner : Nat := 0
  busy : Bool := false
  valid : Bool := false
  err : Bool := false
  code : Nat := 0
  strs : List (List Byte) := []
  /-- The load in progress. -/
  iss : Issued := {}
  /-- Where the image lies, as GO took it from TOK_SLD_SRC. -/
  tier : Nat := 1
  addr : Nat := 0
  deriving DecidableEq, Repr

/-- What the completion of a token-class operation gives its stream (R472, R498), and its INFO record: code, DETAIL,
AUX. -/
structure TokAfter where
  part : Nat
  slot : Nat
  strm : Stream
  info : Option (Nat × Nat × Nat) := none
  deriving DecidableEq, Repr

/-- One token engine. -/
structure TokEng where
  slots : SMap VSlot := []
  streams : SMap Stream := []
  stops : SMap StopBlk := []
  /-- Operations taken, by partition and slot, in the order in which it took them (R468). -/
  held : List (Nat × Nat) := []
  /-- Of the operations it has finished whose completion is to come. -/
  after : List TokAfter := []
  deriving DecidableEq, Repr

/-! ## Checkpoints (R518 to R565) -/

/-- A captured register field: offset, bits, value. -/
structure RegSnap where
  ofs : Nat
  hi : Nat := 31
  lo : Nat := 0
  val : Nat
  deriving DecidableEq, Repr

/-- What an image holds of one logical core (Table 15-3). -/
structure CoreSnap where
  lcore : Nat
  prog : SMap (Option Nat) := []
  work : SMap Byte := []
  workPois : SMap Nat := []
  regs : List RegSnap := []
  deriving DecidableEq, Repr

/-- What an image holds of one cluster. -/
structure CluSnap where
  clu : Nat
  store : SMap Byte := []
  pois : SMap Nat := []
  regs : List RegSnap := []
  cur : Option Layer := none
  next : Option Layer := none
  nextHigh : Bool := false
  epochSeen : Bool := false
  deriving DecidableEq, Repr

/-- What an image holds of one token engine: the areas the partition owns. -/
structure TokSnap where
  eng : Nat
  streams : SMap Stream := []
  slots : SMap VSlot := []
  stops : SMap StopBlk := []
  deriving DecidableEq, Repr

/-- The state an image holds in sections 0x01 to 0x06 (Table 15-3, Table 15-5). -/
structure Snap where
  seedLo : Nat := 0
  seedHi : Nat := 0
  /-- Units held, by type 0 to 3. -/
  units : List (List Nat) := []
  tick : Nat := 0
  dcfg : Nat := 0
  sch : Sched := {}
  alloc : AllocSt := {}
  fxr : List RegSnap := []
  cores : List CoreSnap := []
  clus : List CluSnap := []
  toks : List TokSnap := []
  /-- Record slots of the captured allocations, ascending: those whose bytes MEM holds (R537). -/
  incl : List Nat := []
  deriving DecidableEq, Repr

/-- What the bytes of sections 0x01 to 0x06 of an image stand for; only an N4 reads their arrangement. -/
structure SealedImg where
  body : List Byte
  snap : Snap
  deriving DecidableEq, Repr

/-- Who started what the engines do. -/
inductive CkpBy
  /-- A CKP command. -/
  | cmd
  /-- The CHECKPOINT operation in a slot. -/
  | op (slot : Nat)
  /-- A CUT of a domain capture. -/
  | cut
  deriving DecidableEq, Repr

/-- How far it has come. -/
inductive CkpPh
  /-- A CHECKPOINT has been granted and has not begun, or a RESTORE has still to read its header; the partition is
  PAUSED and the checks of Table 15-6 come next. -/
  | granted | held
  /-- Table 15-2 runs. -/
  | pausing
  /-- A CHECKPOINT has completed; its remote decrements have not (R547). -/
  | draining
  | capturing
  | restoring
  /-- The coordinator's own capture is done (step 6 of Table 15-7). -/
  | domain
  deriving DecidableEq, Repr

/-- What the engines are doing. -/
structure CkpRun where
  /-- Table 15-11: 1 PAUSE, 2 CAPTURE, 4 RESTORE. -/
  op : Nat
  part : Nat
  dom : Bool := false
  resume : Bool := false
  who : CkpBy := .cmd
  ph : CkpPh := .pausing
  /-- The image area, its size in MiB, the exclusion list and the tag. -/
  tier : Nat := 0
  addr : Nat := 0
  mib : Nat := 0
  exTier : Nat := 0
  exAddr : Nat := 0
  nexcl : Nat := 0
  tag : Nat := 0
  cutId : Nat := 0
  /-- The handles of the exclusion list, once read (R528). -/
  excl : List Nat := []
  /-- NONCE of the image being written, what tells its sections' bytes from any other image's, and TBS_NOW when
  capture began. -/
  nonce : Nat := 0
  serial : Nat := 0
  tbs : Nat := 0
  /-- The header and the tag table of the image being restored, and what its sections stand for (R554). -/
  hdr : List Byte := []
  tags : List Byte := []
  img : Option SealedImg := none
  /-- TBS_NOW at the grant of a domain capture. -/
  since : Nat := 0
  /-- The latest request of the engines. -/
  iss : Issued := {}
  /-- The members' logical IDs that have answered in the current step, and whether CUT has been sent. -/
  done : List Nat := []
  cutSent : Bool := false
  deriving DecidableEq, Repr

/-- A partition that takes part in another chip's domain capture. -/
structure CutMember where
  link : Nat
  src : Nat
  since : Nat
  held : Bool := false
  done : Bool := false
  deriving DecidableEq, Repr

/-- The checkpoint engines. -/
structure Ckp where
  run : Option CkpRun := none
  /-- By partition: TBS_NOW at the grant of its PAUSE. -/
  pauseAt : SMap Nat := []
  members : SMap (Option CutMember) := []
  /-- What N4s have put in their images' sections, newest first. -/
  images : List SealedImg := []
  deriving DecidableEq, Repr

/-! ## Far-store slots, power, start-up and management (R638 to R644, R671 to R721) -/

/-- Where a far-store port stands in Table 17-4a. -/
inductive SlotStep
  /-- No presence, or no power: FSC_PWREN follows POWER, FSC_PERST_N is low. -/
  | off
  /-- Powered, FSC_PERST_N low, until 100 ms have passed (step 2), or 1 s after a failed attempt (step 4). -/
  | perst
  /-- FSC_PERST_N released: the root port trains (step 3). -/
  | train
  /-- The link has trained (step 4). -/
  | up
  deriving DecidableEq, Repr

/-- A far-store port's slot. -/
structure FscSlot where
  step : SlotStep := .off
  /-- TBS_NOW when the step began, and how long it lasts before the next, in ns. -/
  since : Nat := 0
  wait : Nat := 0
  /-- R641: the port refuses new accesses. -/
  draining : Bool := false
  deriving DecidableEq, Repr

/-- The voltage loops: one bit for each die. -/
structure Power where
  /-- The loops have started (boot step 5). -/
  started : Bool := false
  capped : Nat := 0
  hot : Nat := 0
  below : Nat := 0
  avsErr : Nat := 0
  sensorFail : Nat := 0
  /-- By die: the TBS_NOW at which the interval in progress ends (R675, R676). -/
  next : SMap Nat := []
  /-- TBS_NOW up to which PWR_LIM_TIME has counted. -/
  limEnd : Nat := 0
  deriving DecidableEq, Repr

/-- A firmware image slot: verified, its SVN and its build. -/
structure FwImage where
  valid : Bool
  svn : Nat
  build : Nat
  deriving DecidableEq, Repr

/-- What fuses and the firmware store hold that has changed since the part left manufacture; what has
not is the part's own (Config). -/
structure NonVol where
  svn : Option Nat := none
  life : Option Nat := none
  /-- The active slot: 0 A, 1 B. -/
  act : Option Nat := none
  /-- By slot. -/
  images : SMap (Option FwImage) := []
  deriving DecidableEq, Repr

/-- A firmware activation in progress (Table 20-9). -/
structure FwAct where
  /-- TBS_NOW at step 3, and GLB_STATE before it. -/
  since : Nat
  prev : Nat
  /-- Step 5: the core has restarted on the previous slot. -/
  back : Bool := false
  deriving DecidableEq, Repr

/-- An SPDM secured session. -/
structure SpdmSession where
  id : Nat
  /-- FINISH has completed the handshake. -/
  open_ : Bool := false
  /-- Key updates made. -/
  updates : Nat := 0
  deriving DecidableEq, Repr

/-- The management core and its endpoint. -/
structure Mgmt where
  /-- The boot in progress, or the last, followed a warm reset (R704). -/
  warm : Bool := false
  /-- TBS_NOW at the last kick of the watchdog, or the last restart. -/
  kickAt : Nat := 0
  act : Option FwAct := none
  /-- An image transfer into the inactive slot is in progress. -/
  updating : Bool := false
  /-- The static address in force (MGT_BUS.SA after the last bus reset). -/
  sa : Nat := 0x3A
  /-- SPDM: 0 nothing agreed, 1 version, 2 capabilities, 3 algorithms. -/
  spdm : Nat := 0
  sessions : List SpdmSession := []
  nextSession : Nat := 1
  deriving DecidableEq, Repr

/-- Soft resets in progress, by page: when each started and how long it may take; `none` none, or one that
has timed out (R101). -/
abbrev SoftResets := SMap (Option Issued)


/-! ## What the device has sent out -/

/-- What the device has put on its outside interfaces, newest first: the model's own record of its
outputs, which no rule reads back. -/
inductive Output
  /-- An MSI-X message of function `fn` (0 PF, 1 to 8 the VFs) on a vector (R115, R630, R631). -/
  | msix (fn vec : Nat)
  /-- A write of bytes to host memory. -/
  | hostWrite (addr : Nat) (data : List Byte)
  /-- Data a control-space, memory or window read returned to owner ID `own`. -/
  | readData (own : Nat) (data : List Byte) (poison : Bool) (code : Nat)
  /-- A control block or flit sent on a link, as its bytes. -/
  | block (link : Nat) (data : List Byte)
  /-- `n` symbols on a lane of a link, the first in time least significant: bits, or PAM4 levels 0 to 3 (R569). -/
  | line (link lane : Nat) (pam4 : Bool) (n v : Nat)
  /-- A management response: protocol, command code and body. -/
  | mgmt (proto code : Nat) (body : List Byte)
  /-- An AVSBus target sent to a die's regulator, in mV. -/
  | avs (die mv : Nat)
  /-- A pin driven: pin number and level. -/
  | pin (num : Nat) (high : Bool)
  /-- The answer to a CXL.cache snoop: a miss (R614). -/
  | snoopMiss (addr : Nat)
  /-- A DOE response on the upstream port. -/
  | doe (body : List Byte)
  deriving DecidableEq, Repr

/-- Why the machine stops with a fault.  No meaning of this model ends in one: every happening the
spec describes has an effect, and one whose condition does not hold leaves the state as it is. -/
inductive Fault
  /-- Raised by nothing; kept so that the type has a value.  Safe. -/
  | none
  deriving DecidableEq, Repr

/-- Why a command is refused without a meaning. -/
inductive Refusal
  /-- Raised by Machine/Dispatch.lean for a command this model gives no meaning yet.  Safe. -/
  | notModelled (mnemonic : String)
  deriving DecidableEq, Repr

/-- The AQ-N4. -/
structure State where
  /-- Commands waiting, first in, first out. -/
  pending : List Instr := []
  /-- Control registers by offset in the control space; an unlisted one reads its reset word. -/
  regs : SMap Word := []
  tb : Timebase := {}
  ev : Events := {}
  prt : Prt := {}
  mem : Memory := {}
  /-- Memory controllers by page index. -/
  ctls : SMap Ctl := []
  /-- Tier allocator by partition. -/
  alloc : SMap AllocSt := []
  ras : Ras := {}
  bridge : Bridge := {}
  router : Router := {}
  /-- Core slots by CORE page instance, 256 × die + slot. -/
  cores : SMap Core := []
  clus : SMap Cluster := []
  pins : Pins := {}
  /-- The scheduler, by partition. -/
  sch : SMap Sched := []

  /-- The fabric's transaction layer. -/
  fab : Fab := {}
  /-- Links 0 to 63. -/
  links : SMap LinkSt := []

  /-- The host interface. -/
  hif : Hif := {}

  /-- Operations the migration engines hold, by partition × 65536 + slot. -/
  mig : SMap MigOp := []

  /-- Token engines 0 to 3. -/
  tok : SMap TokEng := []

  /-- The checkpoint engines. -/
  ckp : Ckp := {}
  /-- Soft resets in progress. -/
  rstAt : SoftResets := []
  /-- Far-store slots by port. -/
  fsc : SMap FscSlot := []
  pwr : Power := {}
  nv : NonVol := {}
  mgt : Mgmt := {}
  /-- What the device has sent, newest first. -/
  out : List Output := []
  /-- Counts the free values drawn (the model's own field; no rule rests on its value). -/
  fresh : Nat := 0
  deriving DecidableEq, Repr

/-- Nothing happens while cold reset is held or after a thermal trip (R681, R701, R703). -/
def State.dead (s : State) : Bool := s.pins.held || s.pins.tripped

/-- The AQ-N4 right after cold reset is applied: every register at its Reset column's value (the
register map lists nothing), every store empty, key slot 8 held by Tormal with generation 1 (R146),
and RST_N still low: RST_N_RELEASE starts the boot (R709). -/
def State.reset : State :=
  { prt := { keys := [(8, { st := .active, owner := 0xE, gen := 1, key := 0 })], gens := [(0xE, 1)] } }

end Sys2Proof.Machine
end

