-- ==== Sys2Proof/Machine/Ops.lean ====
section
/-! DEFINITION.  The named operations over registers, pages, errors and events: every meaning is
written over these (R61 to R122, R722 to R727). -/

namespace Sys2Proof.Machine

/-! ## Owner IDs (R81, Table 04-1) -/

/-- Tormal's owner ID. -/
abbrev oTormal : Nat := 0xE
/-- The host physical function's owner ID. -/
abbrev oPF : Nat := 0xF

/-! ## Pages (R72 to R75) -/

/-- Every page type, in Table 03-1's order. -/
def allTypes : List PageType :=
  [.glb, .tbs, .sec, .prt, .pwr, .ras, .dbg, .mgt, .fw, .hif, .brg, .sch, .tok, .ckp, .mig,
   .lnk, .nsc, .msc, .fsc, .clu, .core]

/-- R73: is there an `i`-th page of type `t`?  CORE pages exist for slots 0 to 199 of each die. -/
def pageExists (t : PageType) (i : Nat) : Bool :=
  decide (i < t.count) && (t != .core || decide (i % 256 < 200))

/-- The page type and instance of a page index, if a page stands there (R73). -/
def pageInfo (pg : Nat) : Option (PageType × Nat) :=
  (allTypes.find? (fun t => decide (t.base ≤ pg) && decide (pg < t.base + t.count))).bind fun t =>
    if pageExists t (pg - t.base) then some (t, pg - t.base) else none

/-- The page index of an instance. -/
abbrev pgOf (t : PageType) (i : Nat) : Nat := t.base + i

/-- Page indexes of the single-instance pages. -/
abbrev pGLB : Nat := 0x0
abbrev pTBS : Nat := 0x1
abbrev pSEC : Nat := 0x2
abbrev pPRT : Nat := 0x3
abbrev pPWR : Nat := 0x4
abbrev pRAS : Nat := 0x5
abbrev pDBG : Nat := 0x6
abbrev pMGT : Nat := 0x7
abbrev pFW : Nat := 0x8
abbrev pHIF : Nat := 0x9
/-- The SCH page of partition `p` (R73). -/
abbrev pSCH (p : Nat) : Nat := 0x11 + p
abbrev pCLU (k : Nat) : Nat := 0x800 + k
abbrev pCORE (c : Nat) : Nat := 0x1000 + c
abbrev pTOK (e : Nat) : Nat := 0x20 + e
abbrev pLNK (l : Nat) : Nat := 0x300 + l
abbrev pCKP (d : Nat) : Nat := 0x28 + d
abbrev pMIG (d : Nat) : Nat := 0x2C + d
abbrev pBRG (d : Nat) : Nat := 0xA + d

/-- The owner IDs that have an event ring, and the page that holds its EVQ set (R107). -/
def ringPage (o : Nat) : Option Nat :=
  if o < 8 then some (pSCH o) else if o = oTormal then some pMGT else if o = oPF then some pHIF else none

/-- The ring a page's EVQ set serves. -/
def ringOwner (pg : Nat) : Nat :=
  if pg = pHIF then oPF else if pg = pMGT then oTormal else pg - 0x11

/-- Table 02-2: the reset value of PG_TMO_NS. -/
def tmoReset : PageType → Nat
  | .tbs => 10000 | .brg => 10000 | .nsc => 10000
  | .msc => 20000 | .clu => 20000 | .core => 20000 | .sch => 20000
  | .ckp => 1000000 | .lnk => 1000000
  | .hif => 50000000 | .fsc => 50000000
  | .glb => 100000 | .sec => 100000 | .prt => 100000 | .pwr => 100000 | .ras => 100000
  | .dbg => 100000 | .mgt => 100000 | .fw => 100000 | .tok => 100000 | .mig => 100000

/-- PG_CAP of a page type: only the CORE and LNK chapters define bits. -/
def capOf : PageType → Nat
  | .core => 0xF3F
  | .lnk => 0xF
  | _ => 0

/-! ## Registers -/

/-- The register of a bank at an offset: the bank that covers it. -/
def findReg (rs : List RegDef) (ofs : Nat) : Option RegDef :=
  rs.find? fun d =>
    decide (d.ofs ≤ ofs) &&
      (if d.stride = 0 then d.ofs == ofs
       else decide (ofs < d.ofs + d.stride * d.count) && (ofs - d.ofs) % d.stride == 0)

/-- The register at an offset of a page; none where the offset holds no register (R75). -/
def regDefAt (pg ofs : Nat) : Option RegDef :=
  (pageInfo pg).bind fun ti =>
    if ofs < 0x100 then findReg everyRegs ofs else findReg (regsOf ti.1 ti.2) ofs

/-- The word a register's Reset column gives (R13). -/
def defReset (d : RegDef) : Nat :=
  d.fields.foldl (fun a f => a + f.reset % 2 ^ (f.hi + 1 - f.lo) * 2 ^ f.lo) 0

/-- What the register at absolute offset `k` holds after cold reset (R13, R51). -/
def resetWord (k : Nat) : Word :=
  match pageInfo (k / 4096) with
  | none => 0
  | some (t, i) =>
    if k % 4096 = R.PG_ID then BitVec.ofNat 32 (t.code * 65536 + i)
    else if k % 4096 = R.PG_CAP then BitVec.ofNat 32 (capOf t)
    else if k % 4096 = R.PG_TMO_NS then BitVec.ofNat 32 (tmoReset t)
    else match regDefAt (k / 4096) (k % 4096) with
      | none => 0
      | some d => BitVec.ofNat 32 (defReset d)

/-- The stored word of the register at absolute offset `k`. -/
def State.reg (s : State) (k : Nat) : Word := SMap.get s.regs k (resetWord k)

/-- `s` with the register at absolute offset `k` set. -/
def State.setReg (s : State) (k : Nat) (v : Word) : State :=
  { s with regs := SMap.put s.regs k v (resetWord k) }

/-- A field of a page's register. -/
def State.f (s : State) (pg : Nat) (x : Fld) : Nat :=
  bits (s.reg (pg * 4096 + x.ofs)).toNat x.hi x.lo

/-- A field of a page's register, set. -/
def State.setF (s : State) (pg : Nat) (x : Fld) (v : Nat) : State :=
  s.setReg (pg * 4096 + x.ofs) (BitVec.ofNat 32 (setBits (s.reg (pg * 4096 + x.ofs)).toNat x.hi x.lo v))

/-- A whole register of a page. -/
def State.w (s : State) (pg ofs : Nat) : Nat := (s.reg (pg * 4096 + ofs)).toNat

/-- A whole register of a page, set. -/
def State.setW (s : State) (pg ofs v : Nat) : State := s.setReg (pg * 4096 + ofs) (BitVec.ofNat 32 v)

/-- A field raised by `n`, saturating at its largest value. -/
def State.addF (s : State) (pg : Nat) (x : Fld) (n : Nat) : State :=
  s.setF pg x (sat (2 ^ (x.hi + 1 - x.lo) - 1) (s.f pg x + n))

/-- A 64-bit value held by two registers (low word at `lo`, high word at `hi`). -/
def State.w64 (s : State) (pg lo hi : Nat) : Nat := s.w pg lo + s.w pg hi * 2 ^ 32

/-- A 64-bit value held by two registers, set. -/
def State.setW64 (s : State) (pg lo hi v : Nat) : State :=
  (s.setW pg lo (v % 2 ^ 32)).setW pg hi (v / 2 ^ 32 % 2 ^ 32)

/-- A 64-bit counter raised by `n`, saturating. -/
def State.add64 (s : State) (pg lo hi n : Nat) : State :=
  s.setW64 pg lo hi (sat (2 ^ 64 - 1) (s.w64 pg lo hi + n))

/-! ## Banks -/

def State.part (s : State) (p : Nat) : Part := SMap.get s.prt.parts p {}
def State.setPart (s : State) (p : Nat) (v : Part) : State :=
  { s with prt := { s.prt with parts := SMap.put s.prt.parts p v {} } }
def State.keySlot (s : State) (n : Nat) : KeySlot := SMap.get s.prt.keys n {}
def State.setKeySlot (s : State) (n : Nat) (v : KeySlot) : State :=
  { s with prt := { s.prt with keys := SMap.put s.prt.keys n v {} } }
def State.ctl (s : State) (pg : Nat) : Ctl := SMap.get s.ctls pg {}
def State.setCtl (s : State) (pg : Nat) (v : Ctl) : State := { s with ctls := SMap.put s.ctls pg v {} }
def State.al (s : State) (p : Nat) : AllocSt := SMap.get s.alloc p {}
def State.setAl (s : State) (p : Nat) (v : AllocSt) : State := { s with alloc := SMap.put s.alloc p v {} }
def State.core (s : State) (c : Nat) : Core := SMap.get s.cores c {}
def State.setCore (s : State) (c : Nat) (v : Core) : State := { s with cores := SMap.put s.cores c v {} }
def State.clu (s : State) (k : Nat) : Cluster := SMap.get s.clus k {}
def State.setClu (s : State) (k : Nat) (v : Cluster) : State := { s with clus := SMap.put s.clus k v {} }
/-- An output sent. -/
def State.emit (s : State) (o : Output) : State := { s with out := o :: s.out }

/-- Die 0's TBS_NOW, which register reads and event records take (R41). -/
abbrev State.now (s : State) : Nat := s.tb.now0

/-- The copy of TBS_NOW that a die's blocks use (R41). -/
def State.nowOn (s : State) (die : Nat) : Nat := if die = 0 then s.tb.now0 else s.tb.now1

/-- The die a page's block stands on, where its instance number says so (Table 03-1). -/
def dieOfPage (pg : Nat) : Nat :=
  match pageInfo pg with
  | some (.brg, i) => i
  | some (.tok, i) => i / 2
  | some (.ckp, i) => i
  | some (.mig, i) => i
  | some (.lnk, i) => i / 32
  | some (.nsc, i) => i / 64
  | some (.msc, i) => i / 4
  | some (.fsc, i) => i / 2
  | some (.clu, i) => i / 24
  | some (.core, i) => i / 256
  | _ => 0

/-! ## Handshakes (R46 to R50) -/

/-- A request the block of page `pg` issues now: its time limit is PG_TMO_NS as it stands (R50). -/
def State.issue (s : State) (pg : Nat) : Issued := { since := s.nowOn (dieOfPage pg), tmo := s.w pg R.PG_TMO_NS }

/-- R49: a request of the block of page `pg` may be found timed out. -/
def State.expired (s : State) (pg : Nat) (i : Issued) : Bool := decide (i.since + i.tmo ≤ s.nowOn (dieOfPage pg))

/-- R49: a request of the block of page `pg` has been found timed out, at the latest. -/
def State.overdue (s : State) (pg : Nat) (i : Issued) : Bool := decide (i.since + i.tmo + 512 < s.nowOn (dieOfPage pg))

/-! ## Core slots and logical cores (R15 to R18, R125) -/

/-- R15: the marked slots of the manufacturing defect map, in ascending order, on one die. -/
def markedOn (die : Nat) (defect : Nat → Bool) : List Nat :=
  (List.range 200).filter (fun k => defect (256 * die + k))

/-- R15: the spare each marked slot among 0 to 191 is replaced by. -/
def coldSpares (die : Nat) (defect : Nat → Bool) : List (Nat × Nat) :=
  let marked := (markedOn die defect).filter (· < 192)
  let spares := (List.range 8).map (· + 192) |>.filter (fun k => !defect (256 * die + k))
  marked.zip spares

/-- The role of a slot by its number alone: spares are 192 to 199 (R18). -/
def roleDefault (c : Nat) : Role := if c % 256 < 192 then .active else .spare

/-- The logical core of a slot by its number alone (R15). -/
def coreOfDefault (c : Nat) : Option Nat := if c % 256 < 192 then some (192 * (c / 256) + c % 256) else none

/-- The slot of a logical core by its number alone (R15). -/
def slotOfDefault (n : Nat) : Option Nat := some (256 * (n / 192) + n % 192)

def State.role (s : State) (c : Nat) : Role := SMap.get s.router.role c (roleDefault c)
def State.lcore (s : State) (c : Nat) : Option Nat := SMap.get s.router.coreOf c (coreOfDefault c)
def State.slotOfCore (s : State) (n : Nat) : Option Nat := SMap.get s.router.slotOf n (slotOfDefault n)

/-- R17: the cluster of a slot, none for a spare not in use or a failed slot. -/
def State.cluOf (s : State) (c : Nat) : Option Nat := (s.lcore c).map (· / 8)

/-- The slots of a cluster: those of its eight logical cores (R17). -/
def State.slotsOfClu (s : State) (k : Nat) : List Nat :=
  (List.range 8).filterMap (fun j => s.slotOfCore (8 * k + j))

/-! ## Holders of units (Table 04-2) -/

/-- Unit types. -/
abbrev resClu : Nat := 0
abbrev resNear : Nat := 1
abbrev resMid : Nat := 2
abbrev resFar : Nat := 3
abbrev resLnk : Nat := 4

/-- Table 04-2: how many units of a type there are. -/
def resCount : Nat → Nat
  | 0 => 48 | 1 => 128 | 2 => 288 | 3 => 2048 | 4 => 64 | _ => 0

/-- The holder of a unit. -/
def State.holderOf (s : State) (res u : Nat) : Option Nat := SMap.get s.prt.holder (res * 4096 + u) none

/-- The unit whose assignment decides a page's partition (R82, R125): clusters, cores, links. -/
def State.unitOfPage (s : State) (pg : Nat) : Option (Nat × Nat) :=
  match pageInfo pg with
  | some (.clu, i) => some (resClu, i)
  | some (.core, i) => (s.cluOf i).map (fun k => (resClu, k))
  | some (.lnk, i) => some (resLnk, i)
  | _ => none

/-- The partition or owner a CLU, CORE or LNK page is assigned to. -/
def State.assignee (s : State) (pg : Nat) : Option Nat :=
  (s.unitOfPage pg).bind fun ru => s.holderOf ru.1 ru.2

/-- The units of a type that an owner holds, ascending. -/
def State.unitsOf (s : State) (res o : Nat) : List Nat :=
  (List.range (resCount res)).filter (fun u => s.holderOf res u == some o)

/-- R126: is the partition ENABLED? -/
def State.enabled (s : State) (p : Nat) : Bool := (s.part p).st == .enabled

/-! ## Claims (R82 to R91) -/

/-- The holder of a page, while it is claimed. -/
def State.ownerOf (s : State) (pg : Nat) : Option Nat :=
  if s.f pg F.PG_OWNER_CLAIMED = 1 then some (s.f pg F.PG_OWNER_OWNER) else none

/-- Table 03-2: may this master claim the page?  A partition must be ENABLED (R131). -/
def State.mayClaim (s : State) (m pg : Nat) : Bool :=
  match pageInfo pg with
  | none => false
  | some (t, i) =>
    match t with
    | .glb | .tbs | .pwr | .ras | .mgt | .fw | .brg | .nsc | .msc | .fsc | .sec | .dbg => m == oTormal
    | .prt | .hif | .tok | .ckp | .mig => m == oTormal || m == oPF
    | .sch => if i = 0 then m == oTormal || m == oPF else m == i - 1 && s.enabled m
    | .clu | .core | .lnk =>
      match s.assignee pg with
      | none => m == oTormal || m == oPF
      | some o => m == o && s.enabled m

/-- Does the master's window back the page (R72, R102, R131)?  The PF and Tormal reach every page;
a VF reaches the TBS page and, while its partition is ENABLED, its SCH page and its units' pages. -/
def State.reaches (s : State) (m pg : Nat) : Bool :=
  match pageInfo pg with
  | none => false
  | some (t, i) =>
    if m = oTormal || m = oPF then true
    else match t with
      | .tbs => true
      | .sch => i == m + 1 && s.enabled m
      | .clu | .core | .lnk => s.assignee pg == some m && s.enabled m
      | _ => false

/-- R90: may the master read the registers that are not open to every reader? -/
def State.mayRead (s : State) (m pg : Nat) : Bool :=
  m == oTormal || s.ownerOf pg == some m || s.mayClaim m pg ||
  (match pageInfo pg with
   | some (t, _) =>
     match t with
     | .tbs => true
     | .glb | .pwr | .ras | .mgt | .fw | .brg | .nsc | .msc | .fsc => m == oPF
     | _ => false
   | none => false)

/-- R88, R89: may the master write the page's registers? -/
def State.mayWrite (s : State) (m pg : Nat) : Bool :=
  match s.ownerOf pg with
  | some o => m == o
  | none => s.mayClaim m pg

/-! ## Counters (R722 to R727) -/

/-- The page counter counts `n` happenings of `code` that carry owner ID `own` (R723, R727). -/
def perfOwn (pg code n own : Nat) (s : State) : State :=
  let sel := s.f pg F.PG_PERF_SEL_SEL
  if s.f pg F.PG_PERF_SEL_RUN = 1 ∧ sel % 256 = code ∧
     (sel / 256 = 0 ∨ sel / 256 = own + 1 ∧ own < 8 ∨ sel / 256 = 0xF ∧ (own = oTormal ∨ own = oPF)) then
    s.add64 pg R.PG_PERF_VAL_LO R.PG_PERF_VAL_HI n
  else s

/-- The page counter counts `n` happenings of `code`, in a page that is not filterable. -/
def perf (pg code n : Nat) (s : State) : State := perfOwn pg code n oTormal s

/-! ## Errors and records (R103 to R119) -/

/-- A record joins those waiting at the device event arbiter. -/
def emitRec (r : EvRec) (s : State) : State := { s with ev := { s.ev with waiting := s.ev.waiting ++ [r] } }

/-- R105, R110: an error is logged in a page, with its subject owner and record fields. -/
def logErr (pg code subj : Nat) (detail : Nat := 0) (aux : Nat := 0) (s : State) : State :=
  let s := perf pg 0x02 1 s
  let s := (s.addF pg F.PG_ERR_CNT_CNT 1).setF pg F.PG_ERR_CNT_LAST code
  let s := s.setF pg F.PG_EVT_PEND_ERR 1
  let s := if s.f pg F.PG_ERR_FIRST_VALID = 0 then
      ((s.setF pg F.PG_ERR_FIRST_CODE code).setF pg F.PG_ERR_FIRST_SUBJ subj).setF pg F.PG_ERR_FIRST_VALID 1
    else s
  if s.f pg F.PG_EVT_EN_ERR = 1 then
    emitRec { kind := .error, page := pg, subj := subj, code := code, aux := aux, detail := detail,
              holder := s.ownerOf pg } s
  else s

/-- R104: the subject owner where no owner's work or data is concerned. -/
def State.defSubj (s : State) (pg : Nat) : Nat := (s.ownerOf pg).getD oTormal

/-- R106, R113: an informational code produces one INFO record for its subject owner. -/
def logInfo (pg code subj : Nat) (detail : Nat := 0) (aux : Nat := 0) (s : State) : State :=
  emitRec { kind := .info, page := pg, subj := subj, code := code, aux := aux, detail := detail } s

/-- A PG_EVT_PEND bit from 1 to 31 is set: a BLOCK record when it was 0 and is enabled (R110). -/
def pendSet (pg b : Nat) (s : State) : State :=
  let w := s.w pg R.PG_EVT_PEND
  if bit w b then s else
    let s := s.setW pg R.PG_EVT_PEND (w + 2 ^ b)
    if bit (s.w pg R.PG_EVT_EN) b then
      emitRec { kind := .block, page := pg, subj := s.defSubj pg, bit := b, holder := s.ownerOf pg } s
    else s

/-- R93: a control write is refused: WREJ, PG_WREJ_OFS and the log, with the writer as subject. -/
def refuse (m pg ofs code : Nat) (s : State) : State :=
  let s := perf pg 0x03 1 s
  let s := ((s.setF pg F.PG_WREJ_OFS_OFS ofs).setF pg F.PG_WREJ_OFS_OWNER m).setF pg F.PG_WREJ_OFS_CODE code
  let s := if s.f pg F.PG_STS_WREJ = 1 then s else pendSet pg 1 (s.setF pg F.PG_STS_WREJ 1)
  logErr pg code m (ofs + m * 2 ^ 16) 0 s

/-- R80, R102: an access to an unbacked offset logs 0x05 in GLB and records GLB_UNMAP; its record's DETAIL, which the
spec does not define, is 0 (DESIGN CHOICE, log entry 79). -/
def unbacked (m ofs : Nat) (s : State) : State :=
  let s := (s.setF pGLB F.GLB_UNMAP_OWNER m).setF pGLB F.GLB_UNMAP_OFS ofs
  logErr pGLB 0x05 m 0 0 s

/-! ## Checking a write (R63, R75, R92) -/

/-- R12: are the Res0 bits of the word zero? -/
def defRes0Ok (d : RegDef) (v : Nat) : Bool :=
  d.fields.all (fun f => f.acc != .res0 || bits v f.hi f.lo == 0)

/-- R12: the register word after an accepted write: RW fields take the written bits, W1C fields
clear where written 1, and the others keep what they hold. -/
def defAfter (d : RegDef) (old v : Nat) : Nat :=
  d.fields.foldl (fun a f =>
    match f.acc with
    | .rw | .rwl => setBits a f.hi f.lo (bits v f.hi f.lo)
    | .w1c => setBits a f.hi f.lo (bits (Nat.land old (Nat.xor (2 ^ 32 - 1) v)) f.hi f.lo)
    | _ => a) old

/-- The word of an accepted write to a register of a page, merged under R12. -/
def merged (pg ofs v : Nat) (s : State) : Nat :=
  match regDefAt pg ofs with
  | some d => defAfter d (s.w pg ofs) v
  | none => s.w pg ofs

/-- Is the page in soft reset (R100)? -/
def State.rstBusy (s : State) (pg : Nat) : Bool := s.f pg F.PG_STS_RST_BUSY == 1

/-- R63: a write to a register at 0x100 or above, by the order of its checks: ownership, range
(Res0 bits and the register's own rule), precondition (R100 and the register's own rule), effect. -/
def checkedWrite (m pg ofs v : Nat) (range pre : State → Bool) (eff : State → State) (s : State) : State :=
  if !s.reaches m pg then unbacked m (pg * 4096 + ofs) s
  else if !s.mayWrite m pg then refuse m pg ofs 0x02 s
  else if !((regDefAt pg ofs).elim (v == 0) (fun d => defRes0Ok d v)) || !range s then refuse m pg ofs 0x01 s
  else if s.rstBusy pg || !pre s then refuse m pg ofs 0x11 s
  else eff s

/-- A checked write whose effect is the plain one of R12. -/
def plainWrite (m pg ofs v : Nat) (range pre : State → Bool) (s : State) : State :=
  checkedWrite m pg ofs v range pre (fun s => s.setW pg ofs (merged pg ofs v s)) s

/-- R739: does the write change the field? -/
def changes (pg : Nat) (x : Fld) (v : Nat) (s : State) : Bool := bits v x.hi x.lo != s.f pg x

/-! ## Work gates (R95, R665, R666) -/

/-- Is the page fenced (R666)? -/
def State.fenced (s : State) (pg : Nat) : Bool := SMap.get s.ras.fenced pg false

/-- R95: does the block take new work? -/
def State.takesWork (s : State) (pg : Nat) : Bool :=
  s.f pg F.PG_CTL_EN == 1 && s.f pg F.PG_CTL_HOLD == 0 && !s.rstBusy pg

/-- GLB_STATE.STATE. -/
abbrev State.glbState (s : State) : Nat := s.f pGLB F.GLB_STATE_STATE

/-- The device has failed (R664). -/
def State.failed (s : State) : Bool := s.glbState == 3

/-- R25, R122, R664: the N4 declares itself failed. -/
def declareFailed (s : State) : State := s.setF pGLB F.GLB_STATE_STATE 3

/-! ## The history log (R661) -/

/-- One history entry, dropped with OVF when the log is full. -/
def hist (kind tier addr page owner : Nat) (s : State) : State :=
  if s.ras.log.length < 256 then
    { s with ras := { s.ras with log := s.ras.log ++
      [{ kind := kind, tier := tier, addr := addr, page := page, owner := owner,
         time := s.now / 1024 % 2 ^ 32 }] } }
  else s.setF pRAS F.RAS_LOG_STS_OVF 1

/-! ## Abandoned handshakes (R52 to R55, R662) -/

/-- R662: a timeout is counted against its responder, which is held when it has collected too many. -/
def escalate (resp : Nat) (s : State) : State :=
  let win := s.f pRAS F.RAS_ESC_CFG_WIN_US * 1000
  let ts := s.now :: (SMap.get s.ras.tmos resp []).filter (fun t => decide (s.now < t + win))
  if s.f pRAS F.RAS_ESC_CFG_TMO_THR ≤ ts.length then
    let s := { s with ras := { s.ras with tmos := SMap.put s.ras.tmos resp [] [] } }
    let s := hist 8 0 0 resp oTormal (s.setF resp F.PG_CTL_HOLD 1)
    logErr pRAS 0x03 oTormal resp 0 s
  else { s with ras := { s.ras with tmos := SMap.put s.ras.tmos resp ts [] } }

/-- R54: the handshake is abandoned: what arrives for it is discarded; the timeout counts against its responder. -/
def abandon (hs : Hs) (resp : Nat) (s : State) : State :=
  escalate resp { s with ras := { s.ras with abandoned := s.ras.abandoned ++ [hs] } }

/-! ## Arbiters (R58) -/

/-- R58: may an arbiter grant requester `x`?  `turns` pairs each requester that waits with those granted since. -/
def mayGrant (turns : List (Nat × Nat)) (waiting : List Nat) (x : Nat) : Bool :=
  waiting.all (fun w => w == x || !turns.contains (w, x))

/-- The pairs after requester `x` has been granted. -/
def granted (turns : List (Nat × Nat)) (waiting : List Nat) (x : Nat) : List (Nat × Nat) :=
  turns.filter (fun t => t.1 != x && t.2 != x && waiting.contains t.1) ++ (waiting.filter (· != x)).map (·, x)

/-! ## Free values -/

/-- A fresh free value of `w` bits: nothing constrains it (see Config.freeValue). -/
def State.free (s : State) (w : Nat) : Nat := (Config.freeValue s.fresh).toNat % 2 ^ w

/-- The next free value will be another one. -/
def State.drawn (s : State) : State := { s with fresh := s.fresh + 1 }

end Sys2Proof.Machine
end

