-- ==== Sys2Proof/WellFormed.lean ====
section
/-! DEFINITION.  Well-formed commands: the operands name masters, pages, slots, links and partitions the
part has, and the words fit their registers (Tables 01-1, 03-1 and 04-1).  A command whose operands name
nothing does nothing (see the log). -/

namespace Sys2Proof

/-- An owner ID of Table 04-1 that issues control accesses: partitions 0 to 7, Tormal and the PF. -/
def okMaster (m : Nat) : Bool := decide (m < 8) || m == 14 || m == 15
/-- An owner ID that memory is accessed for. -/
def okOwner (o : Nat) : Bool := decide (o < 8) || o == 14 || o == 15
/-- Is `x` one of the first `n` numbers? -/
def below (n x : Nat) : Bool := decide (x < n)
def okDie (d : Nat) : Bool := below 2 d
/-- A bridge module (R20). -/
def okModule (m : Nat) : Bool := below 40 m
/-- A core slot: 256 × die + slot, 200 slots on each die (R14). -/
def okCore (c : Nat) : Bool := below 512 c && below 200 (c % 256)
def okCluster (k : Nat) : Bool := below 48 k
def okLink (l : Nat) : Bool := below 64 l
def okToken (e : Nat) : Bool := below 4 e
def okPart (p : Nat) : Bool := below 8 p
/-- An operation slot of a partition (R406). -/
def okSlot (n : Nat) : Bool := below 65536 n
/-- The operation a transfer serves, if one does. -/
def okDep (d : Option (Nat × Nat)) : Bool := d.all (fun x => okPart x.1 && okSlot x.2)
/-- A page index of the control space (R72). -/
def okPage (pg : Nat) : Bool := below 16384 pg
/-- A 32-bit word. -/
def okWord (v : Nat) : Bool := below (2 ^ 32) v
/-- A 128-bit packet header (Table 16-7). -/
def okHeader (h : Nat) : Bool := below (2 ^ 128) h
/-- An offset of a master's window: the control space, or for a virtual function its queue page after it. -/
def okOffset (m ofs : Nat) : Bool := below (2 ^ 26) ofs || (below 8 m && below (2 ^ 26 + 2 ^ 15) ofs)

/-- A function has MSI-X vectors 0 to 63. -/
def okMsix : MsixSet → Bool
  | .vec n _ => below 64 n
  | .ctl _ _ => true

/-- Is a command well formed? -/
def wellFormed : Instr → Bool
  | .brgRetrain m die rate => okMaster m && okDie die && below 4 rate
  | .brgModEnWrite m die _ v => okMaster m && okDie die && okWord v
  | .brgMaxRateWrite m die rate => okMaster m && okDie die && below 4 rate
  | .bridgeTransfer die cls src dst mod dep _ =>
    okDie die && below 3 cls && okPage src && okPage dst && okModule mod && okDep dep
  | .bridgeReplay die mod => okDie die && okModule mod
  | .bridgeModuleDown mod => okModule mod
  | .tbsLock late => below 5 late
  | .skewMeasure => true
  | .evrWindowEnd _ _ => true
  | .clrMin m win => okMaster m && below 16 win
  | .referenceLost => true
  | .referenceReturn => true
  | .handshakeTimeout _ resp => okPage resp
  | .lateAck _ => true
  | .nearRecalibrate ch _ => below 128 ch
  | .registerWrite m ofs _ v => okMaster m && okOffset m ofs && below (2 ^ 64) v
  | .readDenied m ofs _ => okMaster m && okOffset m ofs
  | .unbackedAccess m ofs => okMaster m && below (2 ^ 26) ofs
  | .pageClaim m pg owner => okMaster m && okPage pg && below 16 owner
  | .pageRelease m pg => okMaster m && okPage pg
  | .pageEnable m pg _ => okMaster m && okPage pg
  | .pageHold m pg _ => okMaster m && okPage pg
  | .pageHeld pg => okPage pg
  | .softReset m pg => okMaster m && okPage pg
  | .softResetDone pg => okPage pg
  | .softResetTimeout pg => okPage pg
  | .errFirstClear m pg => okMaster m && okPage pg
  | .evtEnWrite m pg v => okMaster m && okPage pg && okWord v
  | .evtSet m pg v => okMaster m && okPage pg && okWord v
  | .eventRecordWrite _ => true
  | .ringLost o => okOwner o
  | .evqEnable m pg v => okMaster m && okPage pg && okWord v
  | .evqConsWrite m pg v => okMaster m && okPage pg && okWord v
  | .glbStateWrite m st => okMaster m && okWord st
  | .assign m part res first count => okMaster m && below 16 part && below 8 res && below (2 ^ 16) first && below (2 ^ 16) count
  | .unassign m part res first count => okMaster m && below 16 part && below 8 res && below (2 ^ 16) first && below (2 ^ 16) count
  | .unassignApplied _ => true
  | .enable m part => okMaster m && below 16 part
  | .reset m part => okMaster m && below 16 part
  | .disable m part => okMaster m && below 16 part
  | .resetEngineClear part cls => okPart part && below 8 cls
  | .prtRstTmoExpiry part => okPart part
  | .resetFinish part => okPart part
  | .keySlotFree slot => below 16 slot
  | .vfFlr part => okPart part
  | .vfEnableClear _ => true
  | .rotateMgt m => okMaster m
  | .rngFault => true
  | .memRead own iss tier addr _ _ _ => okOwner own && okPage iss && below 4 tier && below (2 ^ 48) addr
  | .memWrite own iss tier addr _ _ _ => okOwner own && okPage iss && below 4 tier && below (2 ^ 48) addr
  | .memAtomic own iss tier addr _ _ _ _ _ => okOwner own && okPage iss && below 4 tier && below (2 ^ 48) addr
  | .shareWindow pg => okPage pg
  | .alloc m p cls die => okMaster m && okPart p && below 8 cls && below 4 die
  | .free m p => okMaster m && okPart p
  | .query m p => okMaster m && okPart p
  | .fxrEnable m p r v => okMaster m && okPart p && below 16 r && okWord v
  | .fxrEnApplied p r => okPart p && below 16 r
  | .blockEntryRead c q _ => okCore c && below 4 q
  | .tqRequestIssue c q => okCore c && below 4 q
  | .transferComplete c q _ _ => okCore c && below 4 q
  | .bufferRequest c _ _ => okCore c
  | .bufferRelease c _ _ => okCore c
  | .bufWaitExpiry c => okCore c
  | .fetchSlotGrant k c => okCluster k && okCore c
  | .lpfGo m k outMax => okMaster m && okCluster k && below 512 outMax
  | .lpfLoadBegin k => okCluster k
  | .lpfDone k _ => okCluster k
  | .weightSwap k => okCluster k
  | .cluWcfgWrite m k v => okMaster m && okCluster k && okWord v
  | .ringShardPass k => okCluster k
  | .lateDataDiscard _ => true
  | .coreSubstitute m die failed spare => okMaster m && okDie die && below 256 failed && below 256 spare
  | .coreRetire m die failed => okMaster m && okDie die && below 256 failed
  | .csubHeldStart => true
  | .programLoad m c dest count => okMaster m && okCore c && below 8192 dest && below (2 ^ 16) count
  | .programLoadDone c _ => okCore c
  | .nop c => okCore c
  | .get c => okCore c
  | .put c _ => okCore c
  | .jmp c => okCore c
  | .loop c => okCore c
  | .br c => okCore c
  | .stage c => okCore c
  | .trap c => okCore c
  | .seti c => okCore c
  | .addi c => okCore c
  | .add c => okCore c
  | .muli c => okCore c
  | .ld c _ => okCore c
  | .st c => okCore c
  | .strm c => okCore c
  | .wload c => okCore c
  | .gath c => okCore c
  | .mact c _ => okCore c
  | .vacc c _ => okCore c
  | .fuse c => okCore c
  | .drain c _ => okCore c
  | .coreFltClear m c => okMaster m && okCore c
  | .coreRunlimExpiry c => okCore c
  | .gatherCommandStart c _ => okCore c
  | .gatherRowFetch c _ => okCore c
  | .gatherRowArrive c _ _ => okCore c
  | .embedUpdate p slot _ => okPart p && okSlot slot
  | .requant p slot _ => okPart p && okSlot slot
  | .migrateRows p slot _ => okPart p && okSlot slot
  | .rowMoveRedirect p slot _ _ => okPart p && okSlot slot
  | .rowMoveFinish p slot _ _ => okPart p && okSlot slot
  | .load p => okPart p
  | .loadCommit p _ => okPart p
  | .signal p => okPart p
  | .link p => okPart p
  | .unload p => okPart p
  | .retry p => okPart p
  | .schCmdGo m p v => okMaster m && okPart p && okWord v
  | .flowcfgWrite m p v => okMaster m && okPart p && okWord v
  | .grant p _ => okPart p
  | .epochApply p _ => okPart p
  | .delayExpiry p _ => okPart p
  | .move c _ => okCore c
  | .reshard c _ => okCore c
  | .completion p slot _ => okPart p && okSlot slot
  | .operationFault p slot code _ _ => okPart p && okSlot slot && below 256 code
  | .tokenize p slot _ => okPart p && okSlot slot
  | .vocabLoad m e => okMaster m && okToken e
  | .vocabLoadDone e n _ => okToken e && below 4 n
  | .tokVslotWrite m e v => okMaster m && okToken e && okWord v
  | .tokStrmCtlWrite m e v => okMaster m && okToken e && okWord v
  | .detokenize p slot _ => okPart p && okSlot slot
  | .constrainMask p slot _ => okPart p && okSlot slot
  | .constrainAdvance p slot _ => okPart p && okSlot slot
  | .stopSetLoad m e owner blk => okMaster m && okToken e && below 16 owner && below 512 blk
  | .stopSetLoadDone e blk _ => okToken e && below 320 blk
  | .pause m p => okMaster m && below 16 p
  | .pauseQuiesced p => okPart p
  | .ckpQtmoExpiry p => okPart p
  | .capture m p _ _ => okMaster m && below 16 p
  | .captureCommit _ => true
  | .captureFail _ => true
  | .checkpoint p _ => okPart p
  | .checkpointCaptureStart p _ => okPart p
  | .resume m p _ => okMaster m && below 16 p
  | .restore m p _ => okMaster m && below 16 p
  | .restoreDone _ => true
  | .restoreFail _ => true
  | .abort m p => okMaster m && below 16 p
  | .hold l hdr _ => okLink l && okHeader hdr
  | .holdDone l hdr _ => okLink l && okHeader hdr
  | .cut l hdr _ => okLink l && okHeader hdr
  | .cutDone l hdr _ => okLink l && okHeader hdr
  | .releaseCut l hdr _ => okLink l && okHeader hdr
  | .abortCut l hdr _ => okLink l && okHeader hdr
  | .ckpDtmoExpiry p => okPart p
  | .ikeyLoad m p => okMaster m && below 16 p
  | .ikeyClear m p => okMaster m && below 16 p
  | .linkTrainStart m l v => okMaster m && okLink l && okWord v
  | .linkStop m l v => okMaster m && okLink l && okWord v
  | .ts1 l _ => okLink l
  | .ts2 l _ => okLink l
  | .eqreq l _ => okLink l
  | .eqack l _ => okLink l
  | .trainStepDone l => okLink l
  | .linkUp l => okLink l
  | .trainFail l => okLink l
  | .laneFault l lane => okLink l && below 5 lane
  | .recoveryEnd l => okLink l
  | .dataFlit l _ _ _ => okLink l
  | .nopFlit l _ _ _ => okLink l
  | .creditInit l _ => okLink l
  | .recover l _ => okLink l
  | .nopInsert l => okLink l
  | .replayTimerExpiry l => okLink l
  | .read l hdr _ _ => okLink l && okHeader hdr
  | .write l hdr _ => okLink l && okHeader hdr
  | .atomic l hdr _ _ => okLink l && okHeader hdr
  | .message l hdr _ => okLink l && okHeader hdr
  | .event l hdr _ => okLink l && okHeader hdr
  | .tstream l hdr _ _ => okLink l && okHeader hdr
  | .cpl l hdr _ => okLink l && okHeader hdr
  | .lnkRtmoExpiry t => below 16384 t
  | .tagQuarantineEnd t => below 16384 t
  | .lnkXctlGo m l v => okMaster m && okLink l && okWord v
  | .sqTailWrite p q v => okPart p && below 4 q && okWord v
  | .sqFetch p _ _ => okPart p
  | .cqWrite p q => okPart p && below 4 q
  | .completionInterrupt p q => okPart p && below 4 q
  | .qCfgWrite p q v => okPart p && below 4 q && okWord v
  | .hostWindowRead win _ _ _ _ _ => below 16 win
  | .hostWindowWrite win _ _ _ _ _ => below 16 win
  | .atsInvalidate fn _ _ => below 9 fn
  | .pfFlr => true
  | .upstreamReset _ => true
  | .fscPresent port => below 4 port
  | .fscPerstRelease port => below 4 port
  | .fscTrainCheck port _ => below 4 port
  | .portLost port _ => below 4 port
  | .fscAccept m port _ => okMaster m && below 4 port
  | .fscDrain m port => okMaster m && below 4 port
  | .fscDrained port => below 4 port
  | .fscPowerWrite m port _ => okMaster m && below 4 port
  | .scrubLine pg _ _ _ => okPage pg
  | .rowRepair pg _ _ => okPage pg
  | .rasFence m pg => okMaster m && okPage pg
  | .rasLogPop m => okMaster m
  | .loopInterval die _ _ _ _ _ _ => okDie die
  | .hotNInput _ => true
  | .thermalTrip => true
  | .brownOut => true
  | .pwrokFall => true
  | .rstNRelease => true
  | .bootImageVerify _ _ => true
  | .secSelftestDone _ => true
  | .memoryTrained pg _ _ => okPage pg
  | .upstreamRelease _ _ => true
  | .warmReset m => okMaster m
  | .requestUpdate _ _ => true
  | .transferCompletePldm _ _ _ => true
  | .activateFirmware _ => true
  | .tormalReady => true
  | .fwActTmoExpiry => true
  | .svnCommit m => okMaster m
  | .wdtKick m => okMaster m
  | .wdtExpiry => true
  | .mctpControl _ cmd => below 256 cmd
  | .setEndpointId _ eid => below 256 eid
  | .pldmSensorRead _ _ => true
  | .vendorRequest _ _ => true
  | .getVersion _ => true
  | .getCapabilities _ => true
  | .negotiateAlgorithms _ _ => true
  | .getDigests _ => true
  | .getCertificate _ _ => true
  | .challenge _ _ => true
  | .getMeasurements _ _ => true
  | .keyExchange _ _ => true
  | .finish _ _ _ => true
  | .endSession _ _ => true
  | .heartbeat _ _ => true
  | .keyUpdate _ _ => true
  | .perfSelWrite m pg v => okMaster m && okPage pg && okWord v
  | .dbgEnter m p => okMaster m && okPart p
  | .dbgExit m p => okMaster m && okPart p
  | .cluDbgWrite m k v => okMaster m && okCluster k && okWord v
  | .dbgRdGo m => okMaster m
  | .dbgTrcCtlWrite m v => okMaster m && okWord v
  | .rstNAssert => true
  | .perstNRelease _ _ _ _ => true
  | .bridgeModuleTrained mod _ => okModule mod
  | .bridgeLaneRepair die mod => okDie die && okModule mod
  | .fscPrsntNRise port _ => below 4 port
  | .dynamicAddressAssign addr => below 128 addr
  | .i3cBusReset _ => true
  | .doeCdatRead => true
  | .cxlSnoop addr => below (2 ^ 64) addr
  | .msixUnmask fn x => below 9 fn && okMsix x

end Sys2Proof
end

