-- ==== Sys2Proof/Machine/Run.lean ====
section
/-! DEFINITION.  The frame every meaning runs in: nothing happens while cold reset is held or after
a thermal trip, and block event conditions that become true set their PG_EVT_PEND bits
(PG_EVT_RAW, R110). -/

namespace Sys2Proof.Machine

/-- FREE_CNT and DRAIN_CNT of SEC_STS: key slots in a state. -/
def State.slotsIn (s : State) (st : KeySt) : Nat :=
  ((List.range 16).filter (fun n => (s.keySlot n).st == st)).length

/-- The block event conditions of a SCH partition page (R464). -/
def State.schRaw (s : State) (p : Nat) : Nat :=
  let q : Sched := SMap.get s.sch p {}
  let any (t : OpSlot → Bool) : Bool := q.slots.any (fun e => t e.2)
  b2n (s.f (pSCH p) F.SCH_CMD_STS_BUSY == 0) * 2 ^ 16 + b2n (any (fun o => o.st == .faulted)) * 2 ^ 17
    + b2n (!any (fun o => o.st == .ready || o.st == .running) && q.delay.isEmpty) * 2 ^ 18

/-- Is a vocabulary load of a token engine in progress? -/
def State.tokBusy (s : State) (e : Nat) : Bool := (SMap.get s.tok e {}).slots.any (fun x => x.2.busy)

/-- Is a stop-set load of a token engine in progress? -/
def State.stopBusy (s : State) (e : Nat) : Bool := (SMap.get s.tok e {}).stops.any (fun x => x.2.busy)

/-- PG_EVT_RAW.BLK of a page: the block event conditions that hold (bits 16 to 31). -/
def State.rawBlk (s : State) (pg : Nat) : Nat :=
  match pageInfo pg with
  | some (.prt, _) =>
    (List.range 8).foldl (fun a p => a + b2n ((s.part p).st != .resetting) * 2 ^ (16 + p)) 0
      + b2n (s.f pPRT F.PRT_STS_BUSY == 0) * 2 ^ 24
  | some (.sec, _) => b2n (s.slotsIn .free != 0) * 2 ^ 16
  | some (.core, c) =>
    b2n (s.core c).stopped * 2 ^ 16 + b2n (s.role c == .substitute) * 2 ^ 17
      + s.f pg F.CORE_PLD_STS_VALID * 2 ^ 18
  | some (.sch, i) => if i = 0 then 0 else s.schRaw (i - 1)
  | some (.tok, e) => b2n (!s.tokBusy e) * 2 ^ 16 + b2n (!s.stopBusy e) * 2 ^ 17
  | some (.lnk, _) =>
    b2n (s.w pg R.LNK_MRING_PROD != s.w pg R.LNK_MRING_CONS) * 2 ^ 16
      + s.f pg F.LNK_STS_UP * 2 ^ 17 + s.f pg F.LNK_STS_TFAIL * 2 ^ 18
      + b2n (s.w pg R.LNK_LANE_STS % 32 != 0) * 2 ^ 19
  | some (.hif, _) => s.f pg F.HIF_LINK_STS_UP * 2 ^ 16
  | some (.fsc, _) =>
    s.f pg F.FSC_STS_PRESENT * 2 ^ 16 + s.f pg F.FSC_STS_LINK_UP * 2 ^ 17
      + s.f pg F.FSC_HP_STS_LOST * 2 ^ 18
  | some (.ras, _) =>
    b2n (s.ras.log.length != 0) * 2 ^ 16 + s.f pg F.RAS_REPAIR_STS_EXHAUST * 2 ^ 17
      + b2n (s.f pg F.RAS_SCRUB_STS_BEHIND != 0) * 2 ^ 18
  | some (.pwr, _) =>
    s.f pg F.PWR_STS_CAPPED * 2 ^ 16 + s.f pg F.PWR_STS_HOT * 2 ^ 17
      + s.f pg F.PWR_STS_BELOW_FLOOR * 2 ^ 18 + s.f pg F.PWR_STS_AVS_ERR * 2 ^ 19
  | _ => 0

/-- The PEND bits that a change of a page's conditions from `old` to the present ones sets. -/
def edges (pg old : Nat) (s : State) : State :=
  forUp (fun b s => if bit (s.rawBlk pg) b && !bit old b then pendSet pg b s else s) 16 16 s

/-- The state after a happening, with the event edges of the pages it touches. -/
def happen (pgs : List Nat) (k : State → State) (s : State) : State :=
  forEach (fun pg t => edges pg (s.rawBlk pg) t) pgs (k s)

/-- A command whose operands name nothing the part has (wellFormed) does nothing; `o` is the outcome of a
well-formed one.  `ok` is the command's row of wellFormed. -/
def whenOk (ok : Bool) (s : State) (o : Host.Outcome State Fault Refusal) : Host.Outcome State Fault Refusal :=
  if ok then o else .next s

/-- A command's outcome: nothing happens while the device is held in cold reset or has tripped
(R681, R701, R703); otherwise the effect `k`, and the event edges of pages `pgs`. -/
def run (pgs : List Nat) (s : State) (k : State → State) : Host.Outcome State Fault Refusal :=
  .next (if s.dead then s else happen pgs k s)

/-- The effect of a command that reads tier lines in which the protection finds `errs`: it waits, and has no effect
yet, where a controller does not take one of its accesses (R95). -/
def settle (errs : Errs) (k : State → State) (s : State) : State :=
  let t := k { s with mem := { s.mem with errs := errs, wait := false } }
  if t.mem.wait then s else { t with mem := { t.mem with errs := [] } }

/-- What a block does next, `k`, where every controller takes its accesses now; else it waits, which `w` notes. -/
def orWait (k w : State → State) (s : State) : State :=
  let t := k s
  if t.mem.wait then w s else t

/-- A command's outcome, where its accesses may wait and may find errors. -/
def runErr (errs : Errs) (pgs : List Nat) (s : State) (k : State → State) : Host.Outcome State Fault Refusal :=
  run pgs s (settle errs k)

/-- The outcome of an arriving fabric request, which is answered after a thermal trip too (R681). -/
def runArrival (pgs : List Nat) (s : State) (k : State → State) : Host.Outcome State Fault Refusal :=
  .next (if s.pins.held then s else happen pgs k s)

/-- The outcome of an arriving fabric request whose accesses may wait and may find errors. -/
def runArrivalErr (errs : Errs) (pgs : List Nat) (s : State) (k : State → State) : Host.Outcome State Fault Refusal :=
  runArrival pgs s (settle errs k)

/-- The outcome of a change of an input pin: the pin follows even while nothing else happens. -/
def runPin (pgs : List Nat) (s : State) (pin k : State → State) : Host.Outcome State Fault Refusal :=
  .next (if s.dead then pin s else happen pgs k (pin s))

end Sys2Proof.Machine
end

