-- ==== Sys2Proof/Machine/Mem.lean ====
section
/-! DEFINITION.  Tier memory: the address maps, the checks a controller makes, encryption by owner
key, poison, reads, writes and atomics (R135, R141 to R153, R164 to R216, R644 to R655, R667). -/

namespace Sys2Proof.Machine

/-! ## Address maps (Table 05-2) -/

/-- Who makes an access: its owner ID, and the key slot it carried when it entered (R145). -/
structure Access where
  own : Nat
  slot : Nat
  deriving DecidableEq, Repr

/-- R145: the key slot an access of owner `o` carries now: its ACTIVE slot, else its DRAINING one. -/
def State.slotFor (s : State) (o : Nat) : Nat :=
  match (List.range 16).find? (fun n => (s.keySlot n).st == .active && (s.keySlot n).owner == o) with
  | some n => n
  | none => ((List.range 16).find? (fun n => (s.keySlot n).st == .draining && (s.keySlot n).owner == o)).getD 16

/-- An access of owner `o` that enters now. -/
def State.access (s : State) (o : Nat) : Access := ⟨o, s.slotFor o⟩

/-- The key of a tier byte in `Memory`: tier code and address (R142). -/
abbrev memKey (tier addr : Nat) : Nat := tier * 2 ^ 48 + addr

/-- The assignable unit of an address: type and number (Table 04-2). -/
def tierUnit (tier addr : Nat) : Nat × Nat :=
  match tier with
  | 1 => (resNear, addr / 2 ^ 28)
  | 2 => (resMid, addr / 2 ^ 30)
  | _ => (resFar, addr / 2 ^ 32)

/-- The page of the controller that serves an address (Table 05-2); page 0, which is none, where the tier code names
no tier. -/
def tierCtl (tier addr : Nat) : Nat :=
  match tier with
  | 1 => 0x400 + addr / 2 ^ 28 % 128
  | 2 => 0x500 + addr / (36 * 2 ^ 30) % 8
  | 3 => 0x510 + addr / 2 ^ 41 % 4
  | _ => 0

/-- M of R168: the minimum efficient transfer of a tier (cluster store: 256 B, R221). -/
def tierM : Nat → Nat
  | 1 => 256 | 2 => 512 | 3 => 4096 | _ => 256

/-- R166, R641: is the far port READY, and does it take new accesses? -/
def State.portReady (s : State) (port : Nat) : Bool :=
  s.f (pgOf .fsc port) F.FSC_HP_STS_READY == 1 && !(SMap.get s.fsc port {}).draining

/-- R166: 0 when the range lies in its tier's valid range, else the code it faults with. -/
def State.rangeCode (s : State) (tier addr len : Nat) : Nat :=
  match tier with
  | 1 => if addr + len ≤ 2 ^ 35 then 0 else 0x05
  | 2 => if addr + len ≤ 288 * 2 ^ 30 then 0 else 0x05
  | 3 =>
    let port := addr / 2 ^ 41 % 4
    if !s.portReady port then 0x1B
    else if decide (addr < 2 ^ 43) && decide (addr % 2 ^ 41 + len ≤ s.f (pgOf .fsc port) F.FSC_CAP_CAP4G * 2 ^ 32)
      then 0 else 0x05
  | _ => 0x05

/-- The units a range touches. -/
def unitsTouched (tier addr len : Nat) : List (Nat × Nat) :=
  let u0 := tierUnit tier addr
  let u1 := tierUnit tier (addr + len - 1)
  (List.range (u1.2 + 1 - u0.2)).map (fun i => (u0.1, u0.2 + i))

/-- Bytes in the units of a tier (Table 04-2). -/
def tierSpan : Nat → Nat
  | 1 => 2 ^ 35 | 2 => 288 * 2 ^ 30 | 3 => 2 ^ 43 | _ => 0

/-- Does the range lie wholly in units the owner holds? -/
def State.holds (s : State) (o tier addr len : Nat) : Bool :=
  decide (addr + max len 1 ≤ tierSpan tier) &&
    (unitsTouched tier addr (max len 1)).all (fun ru => s.holderOf ru.1 ru.2 == some o)

/-- R130: a FREE partition holds units without the use of them. -/
def State.mayUse (s : State) (o : Nat) : Bool := decide (8 ≤ o) || (s.part o).st != .free

/-- The checks a request meets before it is granted, first failure first: the tier's range (R166),
a fenced controller (R666), the controller's EN and HOLD (R95), the holder of the unit (R130, R135). -/
def State.accessCode (s : State) (o tier addr len : Nat) : Nat :=
  if s.rangeCode tier addr len ≠ 0 then s.rangeCode tier addr len
  else if s.fenced (tierCtl tier addr) then 0x03
  else if !s.takesWork (tierCtl tier addr) then 0x12
  else if !s.holds o tier addr len || !s.mayUse o then 0x02
  else 0

/-- Where an access that fails its checks is logged: 0x02 in the controller's page (R135), a range
or port failure and an abandoned handshake in the issuing block's page (R166, R52). -/
def accessFail (iss o tier addr code : Nat) (s : State) : State :=
  if code = 0x02 then logErr (tierCtl tier addr) 0x02 o (memKey tier addr) 0 s
  else if code = 0x12 then s
  else logErr iss code o (memKey tier addr) 0 s

/-! ## Lines (R141 to R153, R167, R213 to R216) -/

def State.line (s : State) (k : Nat) : Line := SMap.get s.mem.lines (k / 64 * 64) {}
def State.setLine (s : State) (k : Nat) (l : Line) : State :=
  { s with mem := { s.mem with lines := SMap.put s.mem.lines (k / 64 * 64) l {} } }
/-- The key a slot holds. -/
def State.keyOf (s : State) (slot : Nat) : Nat := (s.keySlot slot).key
def State.slotDraining (s : State) (slot : Nat) : Bool := (s.keySlot slot).st == .draining

/-- R643: which expander a far-store line lies on. -/
def State.epochOf (s : State) (k : Nat) : Nat :=
  if k / 2 ^ 48 = 3 then SMap.get s.mem.epoch (k / 2 ^ 41 % 4) 0 * 2 ^ 64 else 0

/-- The byte at a tier key as the slot's key decrypts it (R141, R152). -/
def State.byteAs (s : State) (slot k : Nat) : Byte :=
  let l := s.line k
  let key := s.keyOf slot
  if l.key = key ∧ bit l.mask (k % 64) = true then SMap.get s.mem.bytes k 0
  else Config.unpredictable k (s.epochOf k + if l.key = key then l.ghost else l.ver) key

/-- What a read of one byte delivers: the byte and its poison mark.  A read under a DRAINING slot returns zero,
whatever the line holds (R150); a poisoned line delivers no data (R213). -/
def State.readByte (s : State) (slot k : Nat) : Byte × Bool :=
  if s.slotDraining slot then (0, false)
  else if (s.line k).poison then (0, true)
  else (s.byteAs slot k, false)

/-- `n` bytes from a tier address. -/
def State.readBytes (s : State) (slot tier addr n : Nat) : List (Byte × Bool) :=
  (List.range n).map (fun i => s.readByte slot (memKey tier (addr + i)))

/-- One byte written under a slot's key: the rest of the line, where it was not written under that
key, becomes whatever the old ciphertext decrypts to (R152). -/
def storeByte (slot k : Nat) (b : Byte) (s : State) : State :=
  let l := s.line k
  let key := s.keyOf slot
  let v := s.mem.ver + 1
  let base : Line := if l.key = key then l else { l with key := key, ghost := l.ver, mask := 0 }
  let l' : Line := { base with ver := v, mask := setBits base.mask (k % 64) (k % 64) 1 }
  { s with mem := { s.mem with
      bytes := SMap.put s.mem.bytes k b 0
      lines := SMap.put s.mem.lines (k / 64 * 64) l' {}
      ver := v } }

/-- Bytes written from a tier key on. -/
def storeBytes (slot k : Nat) : List Byte → State → State
  | [], s => s
  | b :: bs, s => storeBytes slot (k + 1) bs (storeByte slot k b s)

/-- The line at `k` marked poisoned, or cleared. -/
def setPoison (k : Nat) (p : Bool) (s : State) : State := s.setLine k { s.line k with poison := p }

/-- Split a run of bytes at line boundaries: (address, bytes). -/
def lineChunks (addr : Nat) (data : List (Byte × Bool)) : Nat → List (Nat × List (Byte × Bool))
  | 0 => []
  | fuel + 1 =>
    if data.isEmpty then []
    else
      let n := 64 - addr % 64
      (addr, data.take n) :: lineChunks (addr + n) (data.drop n) fuel

/-- One chunk within a line (R213 to R215, R653): marked bytes poison the line, a full line clears
its mark, a partial write of a poisoned line is not performed; under a DRAINING slot that faults nobody (R150). -/
def writeChunk (slot tier addr : Nat) (data : List (Byte × Bool)) (s : State) : Nat × State :=
  let k := memKey tier addr
  if data.any (·.2) then (0, setPoison k true s)
  else if data.length = 64 then (0, setPoison k false (storeBytes slot k (data.map (·.1)) s))
  else if (s.line k).poison then (if s.slotDraining slot then 0 else 0x06, s)
  else (0, storeBytes slot k (data.map (·.1)) s)

/-- All chunks of a write, in address order; the first failure's code. -/
def writeChunks (slot tier : Nat) : List (Nat × List (Byte × Bool)) → Nat × State → Nat × State
  | [], r => r
  | c :: cs, r =>
    let x := writeChunk slot tier c.1 c.2 r.2
    writeChunks slot tier cs (if r.1 = 0 then x.1 else r.1, x.2)

/-! ## Controller occupation and shares (R168, R173 to R176) -/

/-- Bytes a request occupies its controller for: the M-aligned blocks it touches (R168). -/
def occupied (tier addr len : Nat) : Nat :=
  let m := tierM tier
  ((addr + len - 1) / m + 1 - addr / m) * m

/-- Bytes a controller moves in 1 µs (Table 05-1, Table 05-3; MSC_STS.RATE scales mid store). -/
def State.ctlBw (s : State) (tier pg : Nat) : Nat :=
  match tier with
  | 1 => 375000
  | 2 => 1175000 * s.f pg F.MSC_STS_RATE / 92
  | _ =>
    let bw := match s.f pg F.FSC_STS_GEN with
      | 0 => 60000 | 1 => 30000 | _ => 15000
    bw * s.f pg F.FSC_STS_WIDTH / 8

/-- The class share in force, in bytes per window: 0 RD, 1 WR, 2 RMT (R174). -/
def State.shareCap (s : State) (tier pg cls : Nat) : Nat :=
  let w := (s.ctl pg).share
  let sh := match cls with | 0 => bits w 4 0 | 1 => bits w 9 5 | _ => bits w 14 10
  s.ctlBw tier pg * sh / 16

/-- R174: in FIXED mode, may a request of this class be granted in the present window?  One larger than its class's
whole share is granted at the start of a window only.  An atomic occupies its controller twice (R212): `n` is 2. -/
def State.shareOk (s : State) (tier addr len cls : Nat) (n : Nat := 1) : Bool :=
  let pg := tierCtl tier addr
  let c := s.ctl pg
  if bit c.share 31 then
    let occ := n * occupied tier addr len
    let cap := s.shareCap tier pg cls
    let used := SMap.get c.used cls 0
    SMap.get c.debt cls 0 == 0 &&
      (decide (used + occ ≤ cap) || (decide (cap < occ) && used == 0 && s.nowOn (dieOfPage pg) == c.winAt))
  else true

/-- Is the byte in a granule that an allocation placed in its second tier, and still holds (R190, R194)? -/
def State.spilled (s : State) (tier addr : Nat) : Bool :=
  let u := tierUnit tier addr
  s.alloc.any fun pa => pa.2.live.any fun e =>
    match e.2 with
    | none => false
    | some a => !a.gone.contains (u.1 * 4096 + u.2) && a.exts.any (fun x => x.tier == tier && decide (a.first ≤ x.lstart) &&
        decide (x.start ≤ addr / 2 ^ 21) && decide (addr / 2 ^ 21 < x.start + x.len))

/-- What a granted request adds to its controller's window and counters (R174, Table 21-1). -/
def account (own tier addr len cls : Nat) (s : State) : State :=
  let pg := tierCtl tier addr
  let c := s.ctl pg
  let occ := occupied tier addr len
  let s := s.setCtl pg { c with used := SMap.put c.used cls (SMap.get c.used cls 0 + occ) 0 }
  let s := perfOwn pg (0x60 + cls) len own s
  let s := perfOwn pg 0x64 (occ * 1000 / max 1 (s.ctlBw tier pg)) own s
  if s.spilled tier addr then perfOwn pg 0x65 len own s else s

/-! ## Correctable and uncorrectable errors (R646, R647, R654, R655) -/

/-- Bytes in a row of a tier (18, "Memory rows"). -/
def rowBytes (tier : Nat) : Nat := if tier = 1 then 2048 else 1024

/-- Bytes of an HBM3E stack (Table 05-1). -/
abbrev stackBytes : Nat := 36 * 2 ^ 30

/-- The row an address lies in, by the address of its first line.  In a stack consecutive 512 B blocks rotate over
32 pseudo-channels (Table 05-2), so a row of one pseudo-channel holds blocks that lie 32 blocks apart: two
successive ones of its own (DEDUCED, log entry 80). -/
def rowOf (tier addr : Nat) : Nat :=
  if tier = 2 then
    let b := addr % stackBytes / 512
    addr / stackBytes * stackBytes + (b / 64 * 64 + b % 32) * 512
  else addr / rowBytes tier * rowBytes tier

/-- Line `i` of the row that begins at `row`. -/
def rowLine (tier row i : Nat) : Nat := if tier = 2 then row + 64 * (i % 8) + 32 * 512 * (i / 8) else row + 64 * i

/-- R655: a row joins its controller's repair queue, unless it is queued already or the queue of 8
is full.  Far store has no queue. -/
def queueRow (tier addr : Nat) (s : State) : State :=
  let pg := tierCtl tier addr
  let row := rowOf tier addr
  let c := s.ctl pg
  if tier = 3 ∨ row ∈ c.repairQ ∨ 8 ≤ c.repairQ.length then s
  else (s.setCtl pg { c with repairQ := c.repairQ ++ [row] }).addF pRAS F.RAS_REPAIR_STS_QUEUED 1

/-- R654: one more corrected error in a row: tracked with 64 others, and queued at RAS_CE_THR. -/
def trackCe (tier addr : Nat) (s : State) : State :=
  if tier = 3 then s else
  let pg := tierCtl tier addr
  let row := rowOf tier addr
  let c := s.ctl pg
  let n := ((c.track.find? (fun e => e.1 == row)).map (·.2)).getD 0 + 1
  let rest := c.track.filter (fun e => e.1 != row)
  if s.f pRAS F.RAS_CE_THR_THR ≤ n then
    queueRow tier addr (s.setCtl pg { c with track := rest })
  else s.setCtl pg { c with track := ((row, n) :: rest).take 64 }

/-- DETAIL of a line's record: tier code in [49:48], line address in [47:0] (Table 18-2). -/
abbrev lineDetail (tier addr : Nat) : Nat := memKey tier (addr / 64 * 64)

/-- R213, R216, R646, R647: a demand read of one line, in which its protection finds `ecc`. -/
def lineEcc (tier addr : Nat) (ecc : Ecc) (s : State) : State :=
  let pg := tierCtl tier addr
  let u := tierUnit tier addr
  let subj := (s.holderOf u.1 u.2).getD (s.defSubj pg)
  let bad (s : State) : State :=
    logErr pg 0x07 subj (lineDetail tier addr) 0 (setPoison (memKey tier addr) true s)
  match ecc with
  | .clean => s
  | .ce => trackCe tier addr (s.addF pRAS F.RAS_CNT_CE_CNT 1)
  | .ue => if (s.line (memKey tier addr)).poison then s
           else queueRow tier addr (bad (s.addF pRAS F.RAS_CNT_UE_CNT 1))
  | .expander => if tier = 3 then bad (s.addF pRAS F.RAS_CNT_UE_CNT 1) else s

/-- What the present command's reads find in a line. -/
def State.finding (s : State) (tier line : Nat) : Ecc :=
  ((s.mem.errs.find? (fun e => e.1 == memKey tier (64 * line))).map (·.2)).getD .clean

/-- A demand read of tier bytes: the protection of each line it touches is checked. -/
def demandEcc (tier addr len : Nat) (s : State) : State :=
  if s.mem.errs.isEmpty then s
  else forUp (fun l s => lineEcc tier (64 * l) (s.finding tier l) s) ((addr + len - 1) / 64 + 1 - addr / 64) (addr / 64) s

/-- R150: an access under a DRAINING slot logs 0x10 in the controller's page, with the slot's former
owner as subject. -/
def drainLog (slot tier addr : Nat) (s : State) : State :=
  if s.slotDraining slot then logErr (tierCtl tier addr) 0x10 (s.keySlot slot).owner (memKey tier addr) 0 s else s

/-! ## Reads, writes and atomics -/

/-- The class of a request: RD, WR, or RMT when it comes from the other die, the fabric or the host. -/
def reqClass (write rmt : Bool) : Nat := if rmt then 2 else if write then 1 else 0

/-- A read of tier bytes by `a`, issued by the block of page `iss`: its fault code (0: granted), the
bytes with their poison marks, and the state after (R135, R141, R150, R152, R213). -/
def memRead (iss : Nat) (a : Access) (tier addr len : Nat) (rmt : Bool) (s : State) :
    Nat × List (Byte × Bool) × State :=
  let code := s.accessCode a.own tier addr len
  if code ≠ 0 then (code, [], accessFail iss a.own tier addr code s)
  else
    let s := demandEcc tier addr len (account a.own tier addr len (reqClass false rmt) s)
    (0, s.readBytes a.slot tier addr len, drainLog a.slot tier addr s)

/-- A write of tier bytes, with their poison marks: its fault code and the state after (R135, R141,
R150, R213 to R215, R653). -/
def memWrite (iss : Nat) (a : Access) (tier addr : Nat) (data : List (Byte × Bool)) (rmt : Bool)
    (s : State) : Nat × State :=
  let code := s.accessCode a.own tier addr data.length
  if code ≠ 0 then (code, accessFail iss a.own tier addr code s)
  else
    let s := drainLog a.slot tier addr (account a.own tier addr data.length (reqClass true rmt) s)
    writeChunks a.slot tier (lineChunks addr data (data.length / 64 + 2)) (0, s)

/-- A range cut at every M-aligned block, as the requests that cover it (R221). -/
def mBlocks (tier : Nat) : Nat → Nat → Nat → List (Nat × Nat)
  | 0, _, _ => []
  | fuel + 1, addr, len =>
    if len = 0 then []
    else
      let n := min len (tierM tier - addr % tierM tier)
      (addr, n) :: mBlocks tier fuel (addr + n) (len - n)

/-- An access that its controller does not take now: the command that makes it waits, and has no effect yet (R95). -/
def awaitIf (code : Nat) (s : State) : State := if code = 0x12 then { s with mem := { s.mem with wait := true } } else s

/-- The code of the first block of a range that would not be granted now; 0: all would. -/
def State.spanCode (s : State) (own tier addr len : Nat) : Nat :=
  (((mBlocks tier (len + 1) addr len).map (fun b => s.accessCode own tier b.1 b.2)).find? (· != 0)).getD 0

/-- Reads of a run of blocks, up to the first that is not granted. -/
def readBlocks (iss : Nat) (a : Access) (tier : Nat) (rmt : Nat → Bool) :
    List (Nat × Nat) → State → Nat × List (Byte × Bool) × State
  | [], s => (0, [], s)
  | b :: bs, s =>
    let x := memRead iss a tier b.1 b.2 (rmt b.1) s
    if x.1 ≠ 0 then (x.1, [], awaitIf x.1 x.2.2)
    else
      let y := readBlocks iss a tier rmt bs x.2.2
      (y.1, x.2.1 ++ y.2.1, y.2.2)

/-- Writes of a run of blocks, up to the first that is not granted. -/
def writeBlocks (iss : Nat) (a : Access) (tier : Nat) (rmt : Nat → Bool) :
    List (Nat × Nat) → List (Byte × Bool) → State → Nat × State
  | [], _, s => (0, s)
  | b :: bs, d, s =>
    let x := memWrite iss a tier b.1 (d.take b.2) (rmt b.1) s
    if x.1 ≠ 0 then (x.1, awaitIf x.1 x.2) else writeBlocks iss a tier rmt bs (d.drop b.2) x.2

/-- A read of any length by a block on a die, request by request. -/
def bulkRead (iss die : Nat) (a : Access) (tier addr len : Nat) (s : State) : Nat × List (Byte × Bool) × State :=
  readBlocks iss a tier (fun x => dieOfPage (tierCtl tier x) != die) (mBlocks tier (len + 1) addr len) s

/-- A write of any length by a block on a die, request by request. -/
def bulkWrite (iss die : Nat) (a : Access) (tier addr : Nat) (d : List (Byte × Bool)) (s : State) : Nat × State :=
  writeBlocks iss a tier (fun x => dieOfPage (tierCtl tier x) != die) (mBlocks tier (d.length + 1) addr d.length) d s

/-- Does a request of a block on a die go to a controller of the other die (R173)? -/
def State.isRmtDie (_s : State) (die tier addr : Nat) : Bool := dieOfPage (tierCtl tier addr) != die

/-- Plain bytes, none marked. -/
def plain (bs : List Byte) : List (Byte × Bool) := bs.map (·, false)

/-- The data of a read without its marks. -/
def dataOf (r : List (Byte × Bool)) : List Byte := r.map (·.1)

/-- Does any byte of a read carry a poison mark? -/
def anyMark (r : List (Byte × Bool)) : Bool := r.any (·.2)

/-- A read by an engine that consumes what it reads: poison is the fault 0x06 (R213). It is remote where its
controller stands on the other die (R173). -/
def readPlain (iss : Nat) (a : Access) (tier addr len : Nat) (s : State)
    (rmt : Bool := dieOfPage iss != dieOfPage (tierCtl tier addr)) : Nat × List Byte × State :=
  let r := memRead iss a tier addr len rmt s
  if r.1 ≠ 0 then (r.1, [], awaitIf r.1 r.2.2)
  else if anyMark r.2.1 then (0x06, [], r.2.2)
  else (0, dataOf r.2.1, r.2.2)

/-- Table 05-7: the element size of an atomic; 0 for a code that is none. -/
def atomicSize (code : Nat) : Nat :=
  match code with
  | 0x01 => 4 | 0x02 => 8 | 0x03 => 4 | 0x04 => 8 | 0x05 => 8 | 0x06 => 8 | 0x07 => 8
  | 0x08 => 1 | 0x09 => 4 | 0x0A => 2 | 0x0B => 2 | 0x0C => 4
  | 0x10 => 1 | 0x11 => 4 | 0x12 => 2 | 0x13 => 2 | 0x14 => 4
  | 0x18 => 8
  | _ => 0

/-- R197, R198: is the request well formed?  Every lane is an aligned element of one line, the lanes
are distinct, and CAS has one. -/
def atomicOk (addr code : Nat) (lanes : List (Nat × Nat)) : Bool :=
  let sz := atomicSize code
  sz != 0 && !lanes.isEmpty && addr % 64 == 0 && lanes.length ≤ 64 / max 1 sz &&
    (code != 0x18 || lanes.length == 1) &&
    lanes.all (fun l => l.1 % max 1 sz == 0 && decide (l.1 + sz ≤ 64)) &&
    decide ((lanes.map (·.1)).Nodup)

/-- R205: is the code an ADD.FX64, and in which input format? -/
def fx64Input (code v : Nat) : Option (Int → Option Int) :=
  match code with
  | 0x04 => some (fun _ => some (sgn 64 v))
  | 0x05 => some (fun e => fx64Raw (FpFmt.fp32.value (v % 2 ^ 32)) e)
  | 0x06 => some (fun e => fx64Raw (FpFmt.bf16.value (v % 2 ^ 16)) e)
  | 0x07 => some (fun e => fx64Raw (FpFmt.fp16.value (v % 2 ^ 16)) e)
  | _ => none

/-- The FX64 region of partition `p` that covers a line, of those the controllers have applied (R204, R210). -/
def State.fxrOf (s : State) (p tier addr : Nat) : Option (Nat × FxReg) :=
  if p < 8 then
    (List.range 16).findSome? fun r =>
      (SMap.get (s.al p).fxrOn r none).bind fun x =>
        if x.tier = tier ∧ x.base ≤ addr ∧ addr + 64 ≤ x.base + x.len then some (r, x) else none
  else none

/-- The integer, float, MAX, MIN and CAS atomics on one element: the new element (R199 to R202). -/
def atomicNew (code m v : Nat) : Nat :=
  match code with
  | 0x01 => (m + v) % 2 ^ 32
  | 0x02 => (m + v) % 2 ^ 64
  | 0x03 => ieeeAdd32 m (v % 2 ^ 32)
  | 0x08 => if sgn 8 m < sgn 8 v then v % 2 ^ 8 else m
  | 0x09 => if sgn 32 m < sgn 32 v then v % 2 ^ 32 else m
  | 0x0A => FpFmt.bf16.maxMin true m (v % 2 ^ 16)
  | 0x0B => FpFmt.fp16.maxMin true m (v % 2 ^ 16)
  | 0x0C => FpFmt.fp32.maxMin true m (v % 2 ^ 32)
  | 0x10 => if sgn 8 v < sgn 8 m then v % 2 ^ 8 else m
  | 0x11 => if sgn 32 v < sgn 32 m then v % 2 ^ 32 else m
  | 0x12 => FpFmt.bf16.maxMin false m (v % 2 ^ 16)
  | 0x13 => FpFmt.fp16.maxMin false m (v % 2 ^ 16)
  | 0x14 => FpFmt.fp32.maxMin false m (v % 2 ^ 32)
  | _ => if m = v % 2 ^ 64 then v / 2 ^ 64 % 2 ^ 64 else m

/-- One lane of an atomic at a granted line: the failed-lane flag and the state after. -/
def atomicLane (own slot tier addr code : Nat) (lane : Nat × Nat) (r : Bool × State) : Bool × State :=
  let s := r.2
  let sz := atomicSize code
  let k := memKey tier (addr + lane.1)
  let m := leNat ((List.range sz).map (fun i => s.byteAs slot (k + i)))
  match s.fxrOf own tier addr, fx64Input code lane.2 with
  | some (rg, x), some conv =>
    let pg := pSCH own
    let e := sgn 8 x.exp
    match conv e with
    | none => (true, s.setF pg (F.FXR_CTL_IN_OVF.at 16 rg) 1)
    | some n =>
      let t := sgn 64 m + n
      let s := storeBytes slot k (leBytes sz (uns 64 t)) s
      (r.1, if t < -(2 ^ 63) ∨ t ≥ 2 ^ 63 then s.setF pg (F.FXR_CTL_SUM_WRAP.at 16 rg) 1 else s)
  | _, _ => (r.1, storeBytes slot k (leBytes sz (atomicNew code m lane.2)) s)

/-- All lanes, in order. -/
def atomicLanes (own slot tier addr code : Nat) : List (Nat × Nat) → Bool × State → Bool × State
  | [], r => r
  | l :: ls, r => atomicLanes own slot tier addr code ls (atomicLane own slot tier addr code l r)

/-- A memory atomic within one grant of its line arbiter: its fault code, the prior values of its lanes, and the
state after (R144, R150, R197 to R207, R214). It reads its line, so the line's protection is checked. -/
def memAtomic (iss : Nat) (a : Access) (tier addr code : Nat) (lanes : List (Nat × Nat)) (rmt : Bool)
    (s : State) : Nat × List Nat × State :=
  let sz := atomicSize code
  let isFx := (fx64Input code 0).isSome
  let chk := s.accessCode a.own tier addr 64
  if !atomicOk addr code lanes then (0x04, [], logErr iss 0x04 a.own (memKey tier addr) 0 s)
  else if chk ≠ 0 then (chk, [], accessFail iss a.own tier addr chk s)
  else
  let s := demandEcc tier addr 64 s
  if s.slotDraining a.slot then (0, lanes.map (fun _ => 0), drainLog a.slot tier addr s)
  else if (s.line (memKey tier addr)).poison then (0x06, [], s)
  else if isFx && (s.fxrOf a.own tier addr).isNone then
    (0x05, [], logErr iss 0x05 a.own (memKey tier addr) 0 s)
  else
    let prior := lanes.map fun l =>
      leNat ((List.range sz).map (fun i => s.byteAs a.slot (memKey tier (addr + l.1) + i)))
    let s := account a.own tier addr 64 (reqClass true rmt) (account a.own tier addr 64 (reqClass true rmt) s)
    let s := perfOwn (tierCtl tier addr) 0x63 1 a.own s
    let r := atomicLanes a.own a.slot tier addr code lanes (false, s)
    if r.1 then (0x1A, prior, logErr (tierCtl tier addr) 0x1A a.own (memKey tier addr) 0 r.2)
    else (0, prior, r.2)

end Sys2Proof.Machine
end

