-- ==== Sys2Proof/Machine/FabOps.lean ====
section
/-! DEFINITION.  The fabric's sending side: flits and their CRC, packet headers, routes, tags and
credits (R579 to R610). -/

namespace Sys2Proof.Machine

/-! ## Flits (Table 16-5) -/

/-- One bit of CRC-32C (RFC 3720). -/
def crcBit (c : Nat) : Nat := if c % 2 = 1 then Nat.xor (c / 2) 0x82F63B78 else c / 2

/-- One byte of CRC-32C. -/
def crcByte (c : Nat) (b : Byte) : Nat :=
  crcBit (crcBit (crcBit (crcBit (crcBit (crcBit (crcBit (crcBit (Nat.xor c b.toNat))))))))

/-- CRC-32C of a run of bytes. -/
def crc32c (bs : List Byte) : Nat := Nat.xor (bs.foldl crcByte 0xFFFFFFFF) 0xFFFFFFFF

/-- `n` bytes: the list cut or padded with zeros. -/
def padTo (n : Nat) (bs : List Byte) : List Byte := bs.take n ++ List.replicate (n - bs.length) 0

/-- The fields of a flit's header. -/
structure FlitHdr where
  ftype : Nat
  seq : Nat := 0
  ack : Nat := 0
  ackv : Bool := false
  nak : Bool := false
  cvc : Nat := 0
  crd : Nat := 0
  deriving DecidableEq, Repr

/-- R579: the 256 bytes of a flit. -/
def flitBytes (h : FlitHdr) (body : List Byte) : List Byte :=
  let w := h.ftype + h.seq * 2 ^ 4 + h.ack * 2 ^ 16 + b2n h.ackv * 2 ^ 28 + b2n h.nak * 2 ^ 29
    + h.cvc * 2 ^ 32 + h.crd * 2 ^ 36
  let bs := leBytes 8 w ++ padTo 244 body
  bs ++ leBytes 4 (crc32c bs)

/-- R579: the header and body of 256 received bytes; none for a bad flit (CRC or FTYPE). -/
def parseFlit (bs : List Byte) : Option (FlitHdr × List Byte) :=
  let w := fieldOf bs 0 8
  if bs.length = 256 ∧ crc32c (bs.take 252) = fieldOf bs 252 4 ∧ bits w 3 0 ≤ 2 then
    some ({ ftype := bits w 3 0, seq := bits w 15 4, ack := bits w 27 16, ackv := bit w 28,
            nak := bit w 29, cvc := bits w 34 32, crd := bits w 48 36 }, (bs.drop 8).take 244)
  else none

/-! ## Links -/

def State.link (s : State) (l : Nat) : LinkSt := SMap.get s.links l {}
def State.setLink (s : State) (l : Nat) (v : LinkSt) : State := { s with links := SMap.put s.links l v {} }

/-- LNK_STS.UP. -/
def State.linkUp (s : State) (l : Nat) : Bool := s.f (pLNK l) F.LNK_STS_UP == 1
/-- LNK_CRD.TX of a channel. -/
def State.crdTx (s : State) (l v : Nat) : Nat := s.f (pLNK l) (F.LNK_CRD_TX.at 4 v)
/-- Table 16-6: the N4's receive buffer of a channel, in credit units. -/
def rxBuf : Nat → Nat
  | 0 => 64 | 1 => 4096 | 2 => 256 | 3 => 4096 | 4 => 1024 | _ => 0

/-! ## Line coding (R569) -/

/-- The lowest `n` lanes of a mask. -/
def lowLanes (mask n : Nat) : List Nat := ((List.range 5).filter (fun i => bit mask i)).take n

/-- One bit of a product in GF(2^10), whose field polynomial is x^10 + x^3 + 1 (PRESUMED, IEEE 802.3, log entry 84).
-/
def gfDouble (a : Nat) : Nat := if 512 ≤ a then Nat.xor (2 * a - 1024) 9 else 2 * a

/-- A product in GF(2^10), over the low `n` bits of `b`. -/
def gfMul (a b : Nat) : Nat → Nat
  | 0 => 0
  | n + 1 => Nat.xor (if b % 2 = 1 then a else 0) (gfMul (gfDouble a) (b / 2) n)

/-- The polynomial `p`, highest power first, times x + `r`. -/
def polyRoot (r : Nat) (p : List Nat) : List Nat := List.zipWith Nat.xor (p ++ [0]) (0 :: p.map (fun c => gfMul c r 10))

/-- The generator polynomial with roots a^0 to a^(n-1), without its leading 1. -/
def rsGen (n : Nat) : List Nat :=
  ((List.range n).foldl (fun x _ => (gfDouble x.1, polyRoot x.1 x.2)) (1, [1])).2.drop 1

/-- The parity symbols of a message, both highest power first. -/
def rsParity (gen msg : List Nat) : List Nat :=
  msg.foldl (fun reg m =>
    let fb := Nat.xor m (reg.headD 0)
    List.zipWith Nat.xor (reg.drop 1 ++ [0]) (gen.map (fun g => gfMul g fb 10))) (gen.map (fun _ => 0))

/-- 10-bit symbols of a run of bits, the first in time least significant. -/
def symbols (v : Nat) : Nat → List Nat
  | 0 => []
  | n + 1 => v % 1024 :: symbols (v / 1024) n

/-- R569 step 4: 20 blocks of 257 bits and their parity: RS(528,514) at G1, else RS(544,514). -/
def codeword (gen : Nat) (blks : List Nat) : Nat × Nat :=
  let n := if gen = 1 then 14 else 30
  let m := blks.foldr (fun b a => b + a * 2 ^ 257) 0
  let p := rsParity (rsGen n) (symbols m 514)
  (5140 + 10 * n, m + p.foldr (fun b a => b + a * 1024) 0 * 2 ^ 5140)

/-- R569 step 5: bits in pairs, the first in time the more significant, as Gray-coded levels. -/
def pamLevels (v : Nat) : Nat → Nat
  | 0 => 0
  | n + 1 => (if v % 4 = 3 then 2 else if v % 4 = 2 then 1 else if v % 4 = 1 then 3 else 0) + 4 * pamLevels (v / 4) n

/-- `n` bits go out on a lane: as they are at G1, else two to a PAM4 symbol. -/
def sendBits (l lane n v : Nat) (s : State) : State :=
  if s.f (pLNK l) F.LNK_STS_GEN ≤ 1 then s.emit (.line l lane false n v)
  else
    let k := s.link l
    let t := SMap.get k.lanes lane {}
    let m := n + t.odd.elim 0 (fun _ => 1)
    let v := t.odd.elim v (fun b => b + 2 * v)
    let t := { t with odd := if m % 2 = 1 then some (v / 2 ^ (m - 1)) else none }
    (s.setLink l { k with lanes := SMap.put k.lanes lane t {} }).emit (.line l lane true (m / 2) (pamLevels v (m / 2)))

/-- R569 steps 3 and 4: one 256-bit block goes to a lane, with its header bit; with FEC, once 20 make a codeword. -/
def sendBlock (l lane hdr v : Nat) (s : State) : State :=
  let b := hdr + 2 * v
  if s.f (pLNK l) F.LNK_STS_FEC = 0 ∨ hdr = 1 then sendBits l lane 257 b s
  else
    let k := s.link l
    let t := SMap.get k.lanes lane {}
    let bs := t.blks ++ [b]
    let put (bs : List Nat) : State := s.setLink l { k with lanes := SMap.put k.lanes lane { t with blks := bs } {} }
    if bs.length < 20 then put bs
    else
      let c := codeword (s.f (pLNK l) F.LNK_STS_GEN) bs
      sendBits l lane c.1 c.2 (put [])

/-- The active lanes of a link. -/
def State.activeLanes (s : State) (l : Nat) : List Nat := lowLanes (s.f (pLNK l) F.LNK_STS_ACTIVE) 5

/-- R569 steps 1 and 2: a flit's 256-bit blocks go to the active lanes in turn. -/
def sendRaw (l : Nat) (bs : List Byte) (s : State) : State :=
  let s := s.emit (.block l bs)
  let ls := s.activeLanes l
  if ls.isEmpty then s
  else
    let v := leNat bs
    forUp (fun i s => sendBlock l (ls.getD (i % ls.length) 0) 0 (v / 2 ^ (256 * i) % 2 ^ 256) s) 8 0 s

/-- A control block goes out on a lane (Table 16-4). -/
def sendControl (l lane : Nat) (bs : List Byte) (s : State) : State :=
  sendBlock l lane 1 (leNat (padTo 32 bs)) (s.emit (.block l (padTo 32 bs)))

/-! ## Sending flits -/

/-- A NOP flit sent now (R572, R580): its ACK, a NAK if asked, and credits returned. -/
def sendNop (l : Nat) (nak : Bool) (cvc crd : Nat) (s : State) : State :=
  let k := s.link l
  sendRaw l (flitBytes { ftype := 0, ack := k.rxSeq, ackv := true, nak := nak, cvc := cvc, crd := crd } [])
    (s.setLink l { k with nonNop := 0 })

/-- A DATA flit sent, or resent; a NOP goes first once 4,095 others have gone since the last (R572). -/
def sendFlit (l : Nat) (f : Flit) (s : State) : State :=
  let s := if 4095 ≤ (s.link l).nonNop then sendNop l false 0 0 s else s
  let k := s.link l
  let s := s.setLink l { k with nonNop := k.nonNop + 1 }
  perf (pLNK l) 0x80 1 (sendRaw l (flitBytes { ftype := 1, seq := f.seq, ack := k.rxSeq, ackv := true } f.body) s)

/-! ## Packets (Table 16-7, Table 16-8) -/

/-- The fields of a packet header. -/
structure PktHdr where
  opc : Nat
  len : Nat := 0
  poison : Bool := false
  space : Nat := 0
  sub : Nat := 0
  pmask : Nat := 0
  dst : Nat := 0
  src : Nat := 0
  rlen : Nat := 0
  tag : Nat := 0
  ret : Bool := false
  addr : Nat := 0
  /-- Of an arriving request: its completion is dropped, since its link has gone down (R602). -/
  mute : Bool := false
  deriving DecidableEq, Repr

/-- Table 16-7: a header as its 128-bit number. -/
def PktHdr.word (h : PktHdr) : Nat :=
  h.opc + h.len * 2 ^ 8 + b2n h.poison * 2 ^ 17 + h.space * 2 ^ 18 + h.sub * 2 ^ 20 + h.pmask * 2 ^ 28
    + h.dst * 2 ^ 32 + h.src * 2 ^ 44 + h.rlen * 2 ^ 56 + h.tag * 2 ^ 64 + b2n h.ret * 2 ^ 78
    + h.addr * 2 ^ 80

/-- Table 16-7: the fields of a 128-bit header. -/
def hdrOf (w : Nat) : PktHdr :=
  { opc := bits w 7 0, len := bits w 16 8, poison := bit w 17, space := bits w 19 18, sub := bits w 27 20,
    pmask := bits w 31 28, dst := bits w 43 32, src := bits w 55 44, rlen := bits w 63 56,
    tag := bits w 77 64, ret := bit w 78, addr := bits w 127 80 }

/-- Bit 79 is the one header bit Table 16-7 assigns to nothing. -/
def hdrReserved (w : Nat) : Bool := bit w 79

/-- Table 16-8: the virtual channel of an opcode. -/
def vcOf : Nat → Nat
  | 0x01 => 4 | 0x02 => 3 | 0x03 => 4 | 0x04 => 2 | 0x05 => 2 | 0x06 => 3 | 0x10 => 1 | _ => 0

/-- A packet's bytes: header, data, zeros to a 4 B multiple. -/
def Packet.bytes (p : Packet) : List Byte :=
  leBytes 16 p.hdr ++ p.data ++ List.replicate ((4 - p.data.length % 4) % 4) 0

/-- R583: the credit units a packet costs. -/
def Packet.units (p : Packet) : Nat := ceilDiv p.bytes.length 16

/-- The DATA flit bodies of a packet: 244 B of the transaction stream each, the rest padding (R582). -/
def flitBodies (bs : List Byte) : Nat → List (List Byte)
  | 0 => []
  | fuel + 1 => if bs.isEmpty then [] else bs.take 244 :: flitBodies (bs.drop 244) fuel

/-- A packet starts and its flits go out (R580, R583). -/
def sendBodies (l : Nat) : List (List Byte) → State → State
  | [], s => s
  | b :: bs, s =>
    let k := s.link l
    let f : Flit := { seq := k.txSeq, body := b }
    let s := s.setLink l { k with
      txSeq := (k.txSeq + 1) % 4096
      progAt := if k.unacked.isEmpty then s.nowOn (l / 32) else k.progAt
      unacked := k.unacked ++ [f] }
    sendBodies l bs (sendFlit l f s)

/-- May the packet start now: its channel has the credits, and the replay buffer has room (R580, R583);
while the page takes no work, completions go out (R610, R95), and what LNK_XCTL sends (R745). -/
def State.canSend (s : State) (l : Nat) (p : Packet) : Bool :=
  let k := s.link l
  let n := ceilDiv p.bytes.length 244
  (p.vc == 1 || ((p.cmd || s.takesWork (pLNK l)) && !s.fenced (pLNK l))) &&
    decide (p.units ≤ s.crdTx l p.vc) && decide (k.unacked.length + n ≤ 512)

/-- R585: the packet that goes next: CTL, then RSP, then EVT, WR and REQ in rotation; each channel in
order. -/
def State.nextPacket (s : State) (l : Nat) : Option Packet :=
  let k := s.link l
  let head (v : Nat) : Option Packet := k.txq.find? (fun p => p.vc == v)
  let ok (v : Nat) : Option Packet := (head v).bind (fun p => if s.canSend l p then some p else none)
  let rot := [2, 3, 4].map (fun i => (k.lastVc - 2 + (i - 1)) % 3 + 2)
  ((0 :: 1 :: rot).filterMap ok).head?

/-- Remove the first packet of a channel. -/
def dropFirst (v : Nat) : List Packet → List Packet
  | [] => []
  | p :: ps => if p.vc = v then ps else p :: dropFirst v ps

/-- R583, R585: packets go out while one may. -/
def flush (l : Nat) : Nat → State → State
  | 0, s => s
  | fuel + 1, s =>
    if s.f (pLNK l) F.LNK_STS_STATE = 8 then
      match s.nextPacket l with
      | none => s
      | some p =>
        let k := s.link l
        let s := s.setLink l { k with txq := dropFirst p.vc k.txq, lastVc := if p.vc < 2 then k.lastVc else p.vc }
        let s := s.setF (pLNK l) (F.LNK_CRD_TX.at 4 p.vc) (s.crdTx l p.vc - p.units)
        let s := perf (pLNK l) 0x82 p.bytes.length s
        flush l fuel (sendBodies l (flitBodies p.bytes (p.bytes.length + 1)) s)
    else s

/-- Every packet that may go out on a link now. -/
def flushAll (l : Nat) (s : State) : State := flush l ((s.link l).txq.length + 1) s

/-- A packet joins a link's queue. -/
def enqueuePkt (l : Nat) (p : Packet) (s : State) : State :=
  let k := s.link l
  flushAll l (s.setLink l { k with txq := k.txq ++ [p] })

/-! ## Routes (R596, R608) -/

/-- mix64 of R322. -/
def mix64 (x : Nat) : Nat :=
  let m := 2 ^ 64
  let x := Nat.xor x (x / 2 ^ 32)
  let x := x * 0xD6E8FEB86659FD93 % m
  let x := Nat.xor x (x / 2 ^ 29)
  let x := x * 0xA0F4C3B15E2B7D29 % m
  Nat.xor x (x / 2 ^ 32)

/-- The physical ID of a logical one in a partition's map. -/
def State.lmapOf (s : State) (p lid : Nat) : Option Nat :=
  let e := SMap.get s.fab.lmap (p * 4096 + lid) (false, 0)
  if e.1 then some e.2 else none

/-- R596: the link that a transaction of partition `p` for `dst` on channel `vc` leaves by. -/
def State.pickLink (s : State) (p dst vc : Nat) : Option Nat :=
  let m := SMap.get s.fab.rt dst 0
  let dev := s.f pGLB F.FAB_DEVID_ID
  let cand := (List.range 64).filter (fun l => bit m l && s.holderOf resLnk l == some p && s.linkUp l)
  let wt (l : Nat) : Nat :=
    mix64 (Nat.lor (Nat.lor (Nat.lor (dev * 2 ^ 40 % 2 ^ 64) (dst * 2 ^ 20)) (vc * 2 ^ 8)) l) % 2 ^ 32
  cand.foldl (fun b l => match b with
    | none => some l
    | some c => if wt c < wt l then some l else some c) none

/-- R608: does a link's FVER support the request? -/
def fverOk (fver opc sub : Nat) : Bool :=
  if 3 ≤ fver then true
  else
    let fx := opc == 3 && decide (4 ≤ sub) && decide (sub ≤ 7)
    !(fx || opc == 6 || opc == 7 || (fver ≤ 1 && opc == 4))

/-! ## Tags (R600, R603) -/

def State.tagReq (s : State) (t : Nat) : Option FabReq := SMap.get s.fab.tags t none
def State.tagQuar (s : State) (t : Nat) : Option Nat := SMap.get s.fab.quar t none

/-- R600: the next tag in rotation that is neither outstanding nor in quarantine. -/
def State.freeTag (s : State) : Option Nat :=
  (findUp (fun i =>
    let t := (s.fab.nextTag + i) % 16384
    (s.tagReq t).isNone && (s.tagQuar t).isNone) 16384 0).map (fun i => (s.fab.nextTag + i) % 16384)

/-- The link a waiting request goes out on, and its destination: by its partition's map and routes, or
the link it names, while that is up. -/
def State.outPath (s : State) (o : FabOut) : Option (Nat × Nat) :=
  match o.link, o.lid with
  | some l, _ => if s.linkUp l then some (l, bits o.hdr 43 32) else none
  | none, some lid =>
    (s.lmapOf o.part lid).bind fun dst => (s.pickLink o.part dst (vcOf (bits o.hdr 7 0))).map (fun l => (l, dst))
  | none, none => none

/-- The outcome of offering a request to the transaction layer. -/
inductive IssueRes | sent | waits | noPath
  deriving DecidableEq, Repr

/-- R600: a request takes a tag and goes to its link; it waits without one, and is not sent where no
link serves it (R596) or its link's peer does not know it (R608). -/
def issueReq (o : FabOut) (s : State) : IssueRes × State :=
  match s.outPath o with
  | none => (.noPath, s)
  | some (l, dst) =>
    let h := hdrOf o.hdr
    if !fverOk (s.f (pLNK l) F.LNK_PEER_FVER) h.opc h.sub then (.noPath, s)
    else
      match s.freeTag with
      | none => (.waits, s)
      | some t =>
        let h := { h with dst := dst, src := s.f pGLB F.FAB_DEVID_ID, tag := t }
        let r : FabReq :=
          { who := o.who, part := o.part, link := l, opc := h.opc, since := s.nowOn (l / 32),
            rtmo := s.f (pLNK l) F.LNK_RTMO_US * 1000, id := o.id, etag := o.etag }
        let s := { s with fab := { s.fab with tags := SMap.put s.fab.tags t (some r) none, nextTag := (t + 1) % 16384 } }
        (.sent, enqueuePkt l { vc := vcOf h.opc, hdr := h.word, data := o.data, cmd := o.link.isSome } s)

/-- The tag of a request that its completion has reached is free again. -/
def freeReq (t : Nat) (s : State) : State := { s with fab := { s.fab with tags := SMap.put s.fab.tags t none none } }

/-- R603: a tag released without its completion stays unusable for FAB_TAG_QNS. -/
def quarantine (t : Nat) (s : State) : State :=
  let e := s.now + s.f pGLB F.FAB_TAG_QNS_MS * 1000000
  { s with fab := { s.fab with tags := SMap.put s.fab.tags t none none, quar := SMap.put s.fab.quar t (some e) none } }

/-- The outstanding tags, ascending, that satisfy `q`. -/
def State.tagsWhere (s : State) (q : FabReq → Bool) : List Nat :=
  s.fab.tags.filterMap (fun e => match e.2 with | some r => if q r then some e.1 else none | none => none)

/-- Requests outstanding on a link (LNK_OUT.REQ). -/
def State.linkReqs (s : State) (l : Nat) : Nat := (s.tagsWhere (fun r => r.link == l)).length

/-- The fabric requests of an operation that have not completed. -/
def State.opReqs (s : State) (p n : Nat) : Bool :=
  !(s.tagsWhere (fun r => r.who == .op p n)).isEmpty || s.fab.wait.any (fun o => o.who == .op p n)

/-- R420: the remote decrement of a released operation.  A device that is absent is logged in the SCH
page with 0x08 (R427). -/
def sendEvent (p lid slot : Nat) (s : State) : State :=
  let o : FabOut := { who := .succ p, part := p, lid := some lid, hdr := ({ opc := 5, addr := slot } : PktHdr).word }
  match issueReq o s with
  | (.sent, s) => s
  | (.waits, s) => { s with fab := { s.fab with wait := s.fab.wait ++ [o] } }
  | (.noPath, s) => logErr (pSCH p) 0x08 p slot 0 s

end Sys2Proof.Machine
end

