-- ==== Sys2Proof/Machine/Sched.lean ====
section
/-! DEFINITION.  Operation slots, scoreboards, completion and release, and the trace (R404 to R464,
R728 to R731). -/

namespace Sys2Proof.Machine

/-! ## The scheduler's banks -/

def State.sc (s : State) (p : Nat) : Sched := SMap.get s.sch p {}
def State.setSc (s : State) (p : Nat) (v : Sched) : State := { s with sch := SMap.put s.sch p v {} }
def State.slot (s : State) (p n : Nat) : OpSlot := SMap.get (s.sc p).slots n {}
def State.setSlot (s : State) (p n : Nat) (v : OpSlot) : State :=
  let q := s.sc p
  s.setSc p { q with slots := SMap.put q.slots n v {} }
def State.flow (s : State) (p n : Nat) : Flow := SMap.get (s.sc p).flows n {}
def State.setFlow (s : State) (p n : Nat) (v : Flow) : State :=
  let q := s.sc p
  s.setSc p { q with flows := SMap.put q.flows n v {} }

/-! ## Descriptors (Table 11-1) -/

def OpSlot.dw (o : OpSlot) (i : Nat) : Nat := o.desc.getD i 0
def OpSlot.cls (o : OpSlot) : Nat := bits (o.dw 0) 7 0
def OpSlot.prio (o : OpSlot) : Nat := bits (o.dw 0) 9 8
def OpSlot.persist (o : OpSlot) : Bool := bit (o.dw 0) 10
def OpSlot.frel (o : OpSlot) : Bool := bit (o.dw 0) 11
def OpSlot.flow (o : OpSlot) : Nat := bits (o.dw 0) 27 16
def OpSlot.dep (o : OpSlot) : Nat := bits (o.dw 0) 47 32
def OpSlot.entry (o : OpSlot) : Nat := bits (o.dw 0) 60 48
def OpSlot.id (o : OpSlot) : Nat := bits (o.dw 1) 47 0
/-- R406: the operation's identity. -/
def OpSlot.opid (o : OpSlot) : Nat := o.run * 2 ^ 48 + o.id
def OpSlot.hcnt (o : OpSlot) : Nat := bits (o.dw 2) 56 50
/-- ARG0 to ARG3. -/
def OpSlot.arg (o : OpSlot) (i : Nat) : Nat := o.dw (4 + i)

/-- The address and tier code of a pointer field P (R142, R411). -/
abbrev ptrAddr (w : Nat) : Nat := bits w 47 0
abbrev ptrTier (w : Nat) : Nat := bits w 49 48

/-- Table 11-2: classes a core runs as a tile program. -/
def clsTile (c : Nat) : Bool := c == 1 || c == 2 || c == 3 || c == 4 || c == 6
/-- Classes a core executes: tile programs, MOVE and RESHARD. -/
def clsCore (c : Nat) : Bool := clsTile c || c == 7 || c == 0xB
/-- Classes of the token engines. -/
def clsTok (c : Nat) : Bool := c == 8 || c == 9 || c == 0xA
/-- Classes of the migration engines. -/
def clsMig (c : Nat) : Bool := c == 5 || c == 0x10 || c == 0x11
abbrev cMOVE : Nat := 0x07
abbrev cRESHARD : Nat := 0x0B
abbrev cEPOCH : Nat := 0x0C
abbrev cDELAY : Nat := 0x0D
abbrev cSIGNAL : Nat := 0x0E
abbrev cCKPT : Nat := 0x0F

/-- A partition's pause state, CKP_PSTS.STATE (Table 15-1). -/
def State.pauseSt (s : State) (p : Nat) : Nat := s.f (pCKP 0) (F.CKP_PSTS_STATE.at 4 p)

/-! ## What the scheduler counts (R442, R464) -/

/-- Slots of a partition that satisfy `q`. -/
def State.countSlots (s : State) (p : Nat) (q : OpSlot → Bool) : Nat :=
  ((s.sc p).slots.filter (fun e => q e.2)).length

/-- SCH_FLOWSTS.RES: slots naming the flow that are not EMPTY. -/
def State.flowRes (s : State) (p fl : Nat) : Nat :=
  s.countSlots p (fun o => o.st != .empty && o.st != .loading && o.flow == fl)

/-- SCH_FLOWSTS.INSVC: operations of a flow in service (R442). -/
def State.inSvc (s : State) (p fl : Nat) : Nat :=
  if (s.flow p fl).ordered then ((s.sc p).rel.filter (fun r => r.flow == fl)).length
  else s.countSlots p (fun o => o.st == .running && o.flow == fl)

/-- R435: an EPOCH of the partition has reached a count of 0 and not completed. -/
def State.epochGate (s : State) (p : Nat) : Bool :=
  (s.sc p).slots.any (fun e => e.2.cls == cEPOCH && (e.2.st == .ready || e.2.st == .running))

/-! ## Trace (R728 to R731) -/

/-- Table 21-2: the EXEC code of an executor. -/
def State.execCode (s : State) : Option Exec → Nat
  | some (.core c) => (s.lcore c).getD 0
  | some (.token e) => 0x200 + e
  | some (.mig d) => 0x210 + d
  | some (.ckp _) => 0x220
  | _ => 0x230

/-- R728: the partition's trace consent. -/
def State.traceConsent (s : State) (p : Nat) : Bool :=
  let cl := s.unitsOf resClu p
  !cl.isEmpty && cl.all (fun k => s.f (pCLU k) F.CLU_DBG_TRACE == 1)

/-- R728 to R731: a record of kind 1 GRANT, 2 COMPLETE, 3 RELEASE or 4 FAULT of the operation in a
slot; `tag` is a faulting block entry's TAG. -/
def trace (p n kind code : Nat) (tag : Option Nat) (s : State) : State :=
  if s.f pDBG F.DBG_TRC_CTL_EN = 1 ∧ bit (s.f pDBG F.DBG_TRC_CTL_PMASK) p ∧
     bit (s.f pDBG F.DBG_TRC_CTL_KMASK) (kind - 1) ∧ s.traceConsent p then
    let o := s.slot p n
    let k := s.f pDBG F.DBG_TRC_PROD_PROD
    let size := 2 ^ s.f pDBG F.DBG_TRC_CTL_LOG2N
    if s.f pDBG F.DBG_TRC_CTL_WRAP = 0 ∧ size ≤ k then s.addF pDBG F.DBG_TRC_LOST_LOST 1
    else
      let a := s.w64 pDBG R.DBG_TRC_LO R.DBG_TRC_HI
      let rec_ := leBytes 8 s.now ++ leBytes 8 o.opid ++ leBytes 2 n ++ leBytes 1 kind ++ leBytes 1 p
        ++ leBytes 1 o.cls ++ leBytes 1 (if kind = 4 then code else 0) ++ leBytes 2 (s.execCode o.exec)
        ++ leBytes 4 (tag.getD o.tag) ++ leBytes 4 0
      let r := memWrite pDBG (s.access oTormal) (a % 4) (bits a 47 12 * 2 ^ 12 + 32 * (k % size)) (plain rec_) false s
      if r.1 = 0 then r.2.setF pDBG F.DBG_TRC_PROD_PROD (k + 1)
      else r.2.addF pDBG F.DBG_TRC_LOST_LOST 1
  else s

/-! ## Scoreboards (R418 to R427) -/

/-- A slot becomes READY: last in its ready list. -/
def becomeReady (p n : Nat) (s : State) : State :=
  let q := s.sc p
  let s := s.setSc p { q with readySeq := q.readySeq + 1 }
  s.setSlot p n { s.slot p n with
    st := .ready, count := 0, readyAt := s.now, readySeq := q.readySeq, exec := none, fin := false, heldRel := false, drain := false }

/-- R425: a decrement that finds nothing to act on is discarded, logged and counted. -/
def orphan (p n : Nat) (s : State) : State :=
  logErr (pSCH p) 0x11 p n 0 (s.addF (pSCH p) F.SCH_ORPHAN_CNT_CNT 1)

/-- R422 to R425: one scoreboard decrement of a slot. -/
def decrement (p n : Nat) (s : State) : State :=
  let o := s.slot p n
  let applied := perf (pSCH p) 0x51 1 s
  match o.st with
  | .waiting =>
    if o.count ≤ 1 then becomeReady p n applied
    else applied.setSlot p n { o with count := o.count - 1 }
  | .loading => applied.setSlot p n { o with held := o.held + 1 }
  | .ready | .running =>
    if o.persist && decide (o.bank < o.dep) then applied.setSlot p n { o with bank := o.bank + 1 }
    else orphan p n s
  | .empty | .faulted => orphan p n s

/-- `k` decrements of a slot. -/
def decrements (p n : Nat) : Nat → State → State
  | 0, s => s
  | k + 1, s => decrements p n k (decrement p n s)

/-- One word of an extended successor list (R418, R427). -/
def succWord (p w : Nat) (s : State) : State :=
  if bits w 31 29 ≠ 0 ∨ bit w 28 = false ∧ bits w 27 16 ≠ 0 then logErr (pSCH p) 0x04 p 0 0 s
  else if bit w 28 then sendEvent p (bits w 27 16) (bits w 15 0) s
  else decrement p (bits w 15 0) s

/-- The rest of the successors of a released operation, in order (R419): the words of its extended list, then its LINK
edges.  A word that cannot be read is skipped, and logged where it was poisoned; one whose controller does not take
the read now (R95) waits, with all after it. -/
def succFrom (p tier : Nat) (edges : List Nat) : Nat → Nat → State → State
  | 0, _, s => forEach (decrement p) edges s
  | k + 1, addr, s =>
    if s.accessCode p tier addr 4 = 0x12 then
      let q := s.sc p
      s.setSc p { q with succs := q.succs ++ [{ tier := tier, addr := addr, left := k + 1, edges := edges }] }
    else
      let r := readPlain (pSCH p) (s.access p) tier addr 4 s
      succFrom p tier edges k (addr + 4)
        (if r.1 = 0 then succWord p (leNat r.2.1) r.2.2
         else if r.1 = 0x06 then logErr (pSCH p) 0x06 p (lineDetail tier addr) 0 r.2.2 else r.2.2)

/-- R419: the successors of a released operation, in order. -/
def signalSuccs (p n : Nat) (s : State) : State :=
  let o := s.slot p n
  let inl := [bits (o.dw 2) 15 0, bits (o.dw 2) 31 16, bits (o.dw 2) 47 32].take (bits (o.dw 2) 49 48)
  let edges := ((s.sc p).links.filter (fun e => e.1 == n)).map (·.2)
  succFrom p (ptrTier (o.dw 3)) edges (bits (o.dw 3) 63 52) (ptrAddr (o.dw 3)) (forEach (decrement p) inl s)

/-- Successors that waited for a controller are signalled now, where it takes the reads. -/
def retrySuccs (p : Nat) (s : State) : State :=
  let q := s.sc p
  if q.succs.isEmpty then s
  else forEach (fun j s => succFrom p j.tier j.edges j.left j.addr s) q.succs (s.setSc p { q with succs := [] })

/-- R423, Table 12-5 step 3: the slot leaves, or re-arms. -/
def rearm (p n : Nat) (s : State) : State :=
  let o := s.slot p n
  if o.persist then
    let c := o.dep - o.bank
    let s := s.setSlot p n { o with st := .waiting, count := c, bank := 0, run := (o.run + 1) % 65536, exec := none, fin := false, heldRel := false, drain := false, copy := [], tag := 0 }
    if c = 0 then becomeReady p n s else s
  else
    let q := s.sc p
    s.setSc p { q with slots := SMap.put q.slots n {} {}, links := q.links.filter (fun e => e.1 != n) }

/-- R419: a completion is released. -/
def release (p n : Nat) (s : State) : State := rearm p n (signalSuccs p n (trace p n 3 0 none s))

/-- R444, R453: while the flow's next sequence number has finished, it is released in order. -/
def advance (p fl : Nat) : Nat → State → State
  | 0, s => s
  | fuel + 1, s =>
    let q := s.sc p
    let f := s.flow p fl
    match q.rel.find? (fun r => r.flow == fl && r.seq == f.nextRel && r.st != .running) with
    | none => s
    | some r =>
      let s := s.setSc p { q with rel := q.rel.filter (fun x => !(x.flow == fl && x.seq == r.seq)) }
      let s := s.setFlow p fl { f with nextRel := f.nextRel + 1 }
      advance p fl fuel (if r.st == .done then release p r.slot s else s)

/-- An ordered flow's release entry of a slot takes a state (R444). -/
def markRel (p n : Nat) (st : RelSt) (s : State) : State :=
  let q := s.sc p
  s.setSc p { q with rel := q.rel.map (fun r => if r.slot == n && r.st == .running then { r with st := st } else r) }

/-- An operation in service leaves its flow as a completion: in sequence in an ordered one (R444, R453). -/
def releaseNow (p n : Nat) (s : State) : State :=
  let o := s.slot p n
  if (s.flow p o.flow).ordered then
    advance p o.flow 512 (markRel p n .done (s.setSlot p n { o with fin := true, heldRel := true, drain := false }))
  else release p n (s.setSlot p n { o with drain := false })

/-- R452: an operation completes: released at once in an atomic flow, in sequence in an ordered one. -/
def completed (p n : Nat) (s : State) : State :=
  let o := s.slot p n
  if o.st == .running && !o.heldRel then
    releaseNow p n (trace p n 2 0 none s)
  else s

/-- What the operation has not put on a link yet is not sent. -/
def dropUnsent (p n : Nat) (s : State) : State :=
  { s with fab := { s.fab with wait := s.fab.wait.filter (fun o => o.who != .op p n) } }

/-- R426, R453: an operation faults; `tag` is a faulting block entry's TAG. With FREL 1 it is released as a
completion, once its fabric writes have been acknowledged (R420). -/
def opFault (p n code : Nat) (tag : Option Nat) (s : State) : State :=
  let o := s.slot p n
  if o.st == .running && !o.heldRel then
    let s := dropUnsent p n (trace p n 4 code tag s)
    if o.frel then
      if s.opReqs p n then s.setSlot p n { o with fin := true, heldRel := true, drain := true } else releaseNow p n s
    else
      let s := s.setSlot p n { o with st := .faulted, exec := none, fin := false, copy := [] }
      if (s.flow p o.flow).ordered then advance p o.flow 512 (markRel p n .faulted s) else s
  else s

/-- A faulted operation whose fabric writes have all been acknowledged is released (R420). -/
def drainEnd (p n : Nat) (s : State) : State :=
  if (s.slot p n).drain && !s.opReqs p n then releaseNow p n s else s

/-! ## Completion of graph commands (R431, R456, R629) -/

/-- A queue pair. -/
def State.qp (s : State) (p q : Nat) : Qp := SMap.get s.hif.qps (p * 4 + q) {}
def State.setQp (s : State) (p q : Nat) (v : Qp) : State :=
  { s with hif := { s.hif with qps := SMap.put s.hif.qps (p * 4 + q) v {} } }

/-- The outcome of a graph command returns by the path it came on: SCH_CMD_STS, or a completion
queue entry; a command whose queue pair an FLR has disabled gets none (R636). -/
def respond (p : Nat) (src : CmdSrc) (code check slot : Nat) (s : State) : State :=
  match src with
  | .reg tag =>
    ((s.setF (pSCH p) F.SCH_CMD_STS_BUSY 0).setF (pSCH p) F.SCH_CMD_STS_RESULT code).setF (pSCH p) F.SCH_CMD_STS_TAG tag
  | .queue q idx cid =>
    let v := s.qp p q
    if v.open_ ≤ v.waiting.length then s
    else s.setQp p q { v with waiting := v.waiting ++ [{ cid := cid, status := code, sqHead := idx, check := check, slot := slot }] }

/-- A command leaves the queue with a refusal, logged in the SCH page (R431, R434, R457). -/
def refuseCmd (p : Nat) (src : CmdSrc) (code check slot : Nat) (s : State) : State :=
  let s := if code = 0x12 then perf (pSCH p) 0x52 1 s else s
  respond p src code check slot (logErr (pSCH p) code p slot check s)

/-! ## Graph commands (Table 11-6, Table 11-7) -/

def GraphCmd.op (c : GraphCmd) : Nat := fieldOf c.bytes 0 1
def GraphCmd.ndec (c : GraphCmd) : Nat := fieldOf c.bytes 2 2
def GraphCmd.first (c : GraphCmd) : Nat := fieldOf c.bytes 4 4
def GraphCmd.count (c : GraphCmd) : Nat := fieldOf c.bytes 8 4
def GraphCmd.slot2 (c : GraphCmd) : Nat := fieldOf c.bytes 12 4
def GraphCmd.addr (c : GraphCmd) : Nat := fieldOf c.bytes 16 6
def GraphCmd.tier (c : GraphCmd) : Nat := fieldOf c.bytes 22 1

/-- R429, check 1 of Table 11-8: is the command well formed? -/
def GraphCmd.ok (c : GraphCmd) : Bool :=
  let common := fieldOf c.bytes 1 1 == 0 && fieldOf c.bytes 23 9 == 0 && decide (c.first < 65536)
  let noMem := c.addr == 0 && c.tier == 0
  match c.op with
  | 1 => common && c.ndec == 0 && c.slot2 == 0 && decide (1 ≤ c.count) && decide (c.first + c.count ≤ 65536)
      && c.addr % 64 == 0 && decide (1 ≤ c.tier) && decide (c.tier ≤ 3)
  | 2 => common && noMem && decide (1 ≤ c.ndec) && c.count == 1 && c.slot2 == 0
  | 3 => common && noMem && c.ndec == 0 && c.count == 1 && decide (c.slot2 < 65536)
  | 4 => common && noMem && c.ndec == 0 && c.slot2 == 0 && decide (1 ≤ c.count) && decide (c.first + c.count ≤ 65536)
  | 5 => common && noMem && c.ndec == 0 && c.count == 1 && c.slot2 == 0
  | _ => false

/-- Does every slot of a range satisfy `q`?  Slots that are not listed are EMPTY. -/
def State.rangeAll (s : State) (p first count : Nat) (q : OpSlot → Bool) : Bool :=
  (q {} || decide (((s.sc p).slots.filter (fun e => decide (first ≤ e.1) && decide (e.1 < first + count))).length = count)) &&
    (s.sc p).slots.all (fun e => !(decide (first ≤ e.1) && decide (e.1 < first + count)) || q e.2)

/-- The head of the command queue is taken off it. -/
def popCmd (p : Nat) (s : State) : State :=
  let q := s.sc p
  s.setSc p { q with cmdQ := q.cmdQ.tail }

/-- The head of the command queue when its OP is `op`, evaluated by `k`; LOAD also takes a command
whose OP is none of Table 11-7, which is malformed. -/
def evalHead (p op : Nat) (k : GraphCmd → State → State) (s : State) : State :=
  match (s.sc p).cmdQ with
  | [] => s
  | c :: _ =>
    if c.op = op ∨ op = 1 ∧ (c.op = 0 ∨ 5 < c.op) then
      let s := popCmd p s
      if c.ok then k c s else refuseCmd p c.src 0x04 (if c.op = 1 then 1 else 0) (c.first % 65536) s
    else s

/-- R429: SIGNAL. -/
def cmdSignal (p : Nat) (s : State) : State :=
  evalHead p 2 (fun c s => respond p c.src 0 0 0 (decrements p c.first c.ndec s)) s

/-- R429, R431: LINK. -/
def cmdLink (p : Nat) (s : State) : State :=
  evalHead p 3 (fun c s =>
    let a := s.slot p c.first
    let b := s.slot p c.slot2
    if !((a.st == .waiting || a.st == .ready || a.st == .running) && b.st == .waiting) then
      refuseCmd p c.src 0x11 0 0 s
    else if 16384 ≤ (s.sc p).links.length then refuseCmd p c.src 0x12 0 0 s
    else
      let s := s.setSlot p c.slot2 { b with count := b.count + 1 }
      let q := s.sc p
      respond p c.src 0 0 0 (s.setSc p { q with links := q.links ++ [(c.first, c.slot2)] })) s

/-- The slots of a range emptied, with their LINK edges. -/
def emptyRange (p first count : Nat) (s : State) : State :=
  let q := s.sc p
  let inn (n : Nat) : Bool := decide (first ≤ n) && decide (n < first + count)
  s.setSc p { q with slots := q.slots.filter (fun e => !inn e.1), links := q.links.filter (fun e => !inn e.1 && !inn e.2) }

/-- R429: UNLOAD. -/
def cmdUnload (p : Nat) (s : State) : State :=
  evalHead p 4 (fun c s =>
    if s.rangeAll p c.first c.count (fun o => o.st == .empty || o.st == .waiting || o.st == .ready || o.st == .faulted) then
      respond p c.src 0 0 0 (emptyRange p c.first c.count s)
    else refuseCmd p c.src 0x11 0 0 s) s

/-- R429: RETRY. -/
def cmdRetry (p : Nat) (s : State) : State :=
  evalHead p 5 (fun c s =>
    if (s.slot p c.first).st == .faulted then respond p c.src 0 0 0 (becomeReady p c.first s)
    else refuseCmd p c.src 0x11 0 0 s) s

/-- R432, checks 1 to 3 of Table 11-8: LOAD reserves its slots as LOADING. -/
def cmdLoad (p : Nat) (s : State) : State :=
  evalHead p 1 (fun c s =>
    let rc := s.rangeCode c.tier c.addr (64 * c.count)
    if rc ≠ 0 || !s.holds p c.tier c.addr (64 * c.count) then refuseCmd p c.src 0x02 2 c.first s
    else if !s.rangeAll p c.first c.count (fun o => o.st == .empty) then refuseCmd p c.src 0x11 3 c.first s
    else
      let s := forUp (fun n s => s.setSlot p n { st := .loading }) c.count c.first s
      let q := s.sc p
      s.setSc p { q with loads := q.loads ++ [c] }) s

/-! ## Validation (Table 11-8, checks 4 to 11) -/

/-- A pointer field of an argument: reserved bits above bit 49 other than `mask`, alignment, tier. -/
def ptrOk (w align : Nat) : Bool := ptrTier w != 0 && ptrAddr w % align == 0

/-- Check 5: class listed, no reserved bit, no reserved encoding. -/
def descFormOk (o : OpSlot) : Bool :=
  let c := o.cls
  let a (i : Nat) : Nat := o.arg i
  let hi (w n : Nat) : Bool := w / 2 ^ n == 0
  decide (1 ≤ c) && decide (c ≤ 0x11) &&
  bits (o.dw 0) 15 12 == 0 && bits (o.dw 0) 31 28 == 0 && bits (o.dw 0) 63 61 == 0 &&
  bits (o.dw 2) 63 57 == 0 && bits (o.dw 3) 51 50 == 0 &&
  (if clsTile c then true
   else if c = 5 then hi (a 0) 50 && bits (a 2) 63 57 == 0 && hi (a 3) 50
   else if c = 0x10 then hi (a 0) 50 && a 2 == 0 && hi (a 3) 50
   else if c = 0x11 then hi (a 0) 50 && hi (a 1) 50 && hi (a 3) 50
   else if c = cMOVE || c = cRESHARD then a 1 == 0 && a 2 == 0 && a 3 == 0
   else if c = 8 || c = 9 then bits (a 0) 63 14 == 0 && hi (a 1) 50 && hi (a 2) 50
   else if c = 0xA then bits (a 0) 63 16 == 0 && bits (a 0) 15 14 != 3 && hi (a 1) 50 && hi (a 2) 50
   else if c = cCKPT then hi (a 0) 50 && bits (a 1) 63 32 == 0 && bits (a 2) 63 62 == 0
   else if c = cEPOCH then bits (a 0) 63 62 == 0 && hi (a 1) 48 && a 2 == 0 && a 3 == 0
   else if c = cDELAY then hi (a 0) 32 && a 1 == 0 && a 2 == 0 && a 3 == 0
   else hi (a 0) 16 && a 2 == 0 && a 3 == 0)

/-- Check 6: ENTRY and HCNT as Table 11-2, DEP of a persistent operation, no inline self-successor. -/
def descBasicOk (n : Nat) (o : OpSlot) : Bool :=
  (clsTile o.cls || o.entry == 0) &&
  (if o.cls = 3 then decide (1 ≤ o.hcnt) && decide (o.hcnt ≤ 64) else o.hcnt == 0) &&
  !(o.persist && o.dep == 0) &&
  !(([bits (o.dw 2) 15 0, bits (o.dw 2) 31 16, bits (o.dw 2) 47 32].take (bits (o.dw 2) 49 48)).contains n)

/-- Input element bytes of a token-class operation (R470, R496, R510). -/
def tokInBytes (o : OpSlot) : Nat :=
  let n := bits (o.arg 3) 31 0
  if o.cls = 8 then n else if o.cls = 9 then 4 * n
  else if bit (o.arg 0) 13 then 4 * n else n * 2 * bits (o.arg 0) 15 14

/-- Output range of a token-class operation. -/
def tokOutBytes (o : OpSlot) : Nat :=
  16 + (if o.cls = 8 then 4 else 1) * bits (o.arg 3) 63 32

/-- NENT of a plan. -/
def OpSlot.nent (o : OpSlot) : Nat := bits (o.arg 0) 63 50 + 1
/-- NMAP of a phase map. -/
def OpSlot.nmap (o : OpSlot) : Nat := bits (o.arg 0) 61 50 + 1

/-- R412, R414: is a plan entry well formed for the class? -/
def planEntryOk (reshard : Bool) (e : List Byte) : Bool :=
  let b6 := fieldOf e 6 1
  let dk := fieldOf e 7 1
  let dtier := fieldOf e 15 1
  let darg := fieldOf e 24 6
  b6 / 8 == 0 && fieldOf e 14 1 == 0 && decide (dk ≤ 3) && decide (dtier ≤ 3) && decide (1 ≤ fieldOf e 16 4) && fieldOf e 30 2 == 0 &&
  (!bit b6 2 || (fieldOf e 0 6 == 0 && bits b6 1 0 == 0)) &&
  (match dk with
   | 0 => dtier != 0 && darg == 0
   | 1 => dtier == 0
   | 2 => dtier == 0 && decide (darg < 384)
   | _ => reshard && dtier != 0 && decide (darg < 4096))

/-- Check 9 on what the descriptor itself holds. -/
def descArgsOk (o : OpSlot) : Bool :=
  let a (i : Nat) : Nat := o.arg i
  let c := o.cls
  if clsTile c then true
  else if c = 5 then ptrOk (a 0) 64 && ptrOk (a 1) 4 && ptrOk (a 2) 64 && ptrOk (a 3) 16
  else if c = 0x10 then ptrOk (a 0) 64 && ptrOk (a 1) 8 && ptrOk (a 3) 16
  else if c = 0x11 then ptrOk (a 0) 64 && ptrOk (a 1) 64 && decide (1 ≤ bits (a 2) 63 32) && ptrOk (a 3) 16
  else if c = cMOVE || c = cRESHARD then ptrOk (a 0) 32
  else if clsTok c then
    (tokInBytes o == 0 || ptrTier (a 1) != 0) && ptrAddr (a 1) % (if c = 9 then 4 else 1) == 0 && ptrOk (a 2) 16 &&
      (c != 8 || decide (bits (a 3) 63 32 < 2 ^ 28))
  else if c = cCKPT then ptrOk (a 0) 4096 && decide (1 ≤ bits (a 1) 31 0) &&
      (if bits (a 2) 61 50 = 0 then ptrAddr (a 2) % 4 == 0 else ptrOk (a 2) 4)
  else if c = cEPOCH then ptrTier (a 0) == 0 || ptrAddr (a 0) % 8 == 0
  else if c = cDELAY then decide (1 ≤ a 0)
  else true

/-- The ranges of memory a descriptor names: (tier, address, bytes). -/
def descRanges (o : OpSlot) : List (Nat × Nat × Nat) :=
  let a (i : Nat) : Nat := o.arg i
  let r (w n : Nat) : Nat × Nat × Nat := (ptrTier w, ptrAddr w, n)
  let c := o.cls
  let sl := if bits (o.dw 3) 63 52 = 0 then [] else [r (o.dw 3) (4 * bits (o.dw 3) 63 52)]
  let n1 := bits (a 1) 63 50 + 1
  let own :=
    if clsTile c then []
    else if c = 5 then [r (a 0) 64, r (a 1) (4 * n1), r (a 2) (n1 * (bits (a 2) 55 50 + 1) * 64), r (a 3) 16]
    else if c = 0x10 then [r (a 0) 64, r (a 1) (8 * n1), r (a 3) 16]
    else if c = 0x11 then [r (a 0) 64, r (a 1) 64, r (a 3) 16]
    else if c = cMOVE || c = cRESHARD then [r (a 0) (32 * o.nent)]
    else if clsTok c then [r (a 1) (tokInBytes o), r (a 2) (tokOutBytes o)]
    else if c = cCKPT then [r (a 0) (bits (a 1) 31 0 * 2 ^ 20), r (a 2) (4 * bits (a 2) 61 50)]
    else if c = cEPOCH then (if ptrTier (a 0) = 0 then [] else [r (a 0) (8 * o.nmap)])
    else []
  (sl ++ own).filter (fun x => x.2.2 != 0)

/-- Does the partition hold every cluster of a mask? -/
def State.holdsMask (s : State) (p mask : Nat) : Bool :=
  (List.range 48).all (fun k => !bit mask k || s.holderOf resClu k == some p)

/-- Entry `i` of a table of `n`-byte entries, as the partition reads it, where it can be read. -/
def State.entryAt (s : State) (p w n i : Nat) : List Byte :=
  dataOf (s.readBytes (s.slotFor p) (ptrTier w) (ptrAddr w + n * i) n)

/-- The plan or phase map that a descriptor names: its pointer, the size of its entries and their number. -/
def OpSlot.table (o : OpSlot) : Option (Nat × Nat × Nat) :=
  if o.cls = cMOVE || o.cls = cRESHARD then some (o.arg 0, 32, o.nent)
  else if o.cls = cEPOCH && ptrTier (o.arg 0) != 0 then some (o.arg 0, 8, o.nmap)
  else none

/-- The entries of that table, once read. -/
def OpSlot.tableEntries (o : OpSlot) (tab : List Byte) : List (List Byte) :=
  match o.table with
  | none => []
  | some (_, sz, n) => if tab.isEmpty then [] else (List.range n).map (fun i => (tab.drop (sz * i)).take sz)

/-- The table's bytes, where its range is one the partition may read; none where it is not, which checks 10 and 11
see. -/
def tableRead (p : Nat) (o : OpSlot) (s : State) : Nat × List Byte × State :=
  match o.table with
  | none => (0, [], s)
  | some (w, sz, n) =>
    if s.rangeCode (ptrTier w) (ptrAddr w) (sz * n) ≠ 0 || !s.holds p (ptrTier w) (ptrAddr w) (sz * n) then (0, [], s)
    else
      let r := bulkRead (pSCH p) 0 (s.access p) (ptrTier w) (ptrAddr w) (sz * n) s
      if r.1 = 0 ∧ anyMark r.2.1 = true then (0x06, [], r.2.2) else (r.1, dataOf r.2.1, r.2.2)

/-- Checks 5 to 9 of one descriptor by itself, for slot `n`: the code and number of the first that fails. -/
def State.descCheck (s : State) (p n : Nat) (o : OpSlot) : Option (Nat × Nat) :=
  if !descFormOk o then some (0x04, 5)
  else if !descBasicOk n o then some (0x04, 6)
  else if !(s.flow p o.flow).en then some (0x11, 7)
  else if bits (o.dw 3) 63 52 ≠ 0 && !ptrOk (o.dw 3) 4 then some (0x04, 8)
  else if !descArgsOk o then some (0x04, 9)
  else none

/-- The masks and destinations of check 11: EPOCH's cluster mask, and each plan entry's. -/
def State.descMasksOk (s : State) (p : Nat) (o : OpSlot) (tab : List Byte) : Bool :=
  if o.cls = cEPOCH then s.holdsMask p (o.arg 1)
  else (o.tableEntries tab).all fun e =>
    match fieldOf e 7 1 with
    | 1 => s.holdsMask p (fieldOf e 24 6)
    | 2 => s.holderOf resClu (fieldOf e 24 6 / 8) == some p
    | _ => true

/-- Check 9 on the table a descriptor names, and checks 10 and 11. -/
def State.descCheckUse (s : State) (p : Nat) (o : OpSlot) (tab : List Byte) : Option (Nat × Nat) :=
  if !(o.tableEntries tab).all (fun e =>
      if o.cls = cEPOCH then bits (leNat e) 15 12 == 0 else planEntryOk (o.cls == cRESHARD) e) then some (0x04, 9)
  else if (descRanges o).any (fun r => s.rangeCode r.1 r.2.1 r.2.2 != 0) then some (0x05, 10)
  else if !((descRanges o).all (fun r => s.holds p r.1 r.2.1 r.2.2) && s.descMasksOk p o tab) then some (0x02, 11)
  else none

/-- A descriptor read from its 64 bytes. -/
def descOf (bs : List Byte) : List Nat := (List.range 8).map (fun i => fieldOf bs (8 * i) 8)

/-- One descriptor of a LOAD is read and validated: the code and number of the check it fails, or the descriptor.
A read that fails with a code of no check, such as the 0x03 of a fenced controller, has number 0; a table that cannot
be read fails check 9 with the code of the read (DESIGN CHOICE, log entry 83). -/
def readDesc (p n tier addr : Nat) (s : State) : Except (Nat × Nat) (List Nat) × State :=
  let r := readPlain (pSCH p) (s.access p) tier addr 64 s
  if r.1 = 0x06 then (.error (0x06, 4), r.2.2)
  else if r.1 = 0x03 then (.error (0x03, 0), r.2.2)
  else if r.1 ≠ 0 then (.error (0x02, 2), r.2.2)
  else
    let o : OpSlot := { desc := descOf r.2.1 }
    match r.2.2.descCheck p n o with
    | some e => (.error e, r.2.2)
    | none =>
      let x := tableRead p o r.2.2
      if x.1 ≠ 0 then (.error (x.1, 9), x.2.2)
      else match x.2.2.descCheckUse p o x.2.1 with
        | some e => (.error e, x.2.2)
        | none => (.ok o.desc, x.2.2)

/-- Reads and validates the descriptors of a LOAD in slot order: the first failure (code, check, slot),
or the descriptors. -/
def readDescs (p tier addr first : Nat) : Nat → Nat → State → Except (Nat × Nat × Nat) (List (List Nat)) × State
  | 0, _, s => (.ok [], s)
  | k + 1, i, s =>
    match readDesc p (first + i) tier (addr + 64 * i) s with
    | (.error e, s) => (.error (e.1, e.2, first + i), s)
    | (.ok d, s) =>
      match readDescs p tier addr first k (i + 1) s with
      | (.ok ds, s) => (.ok (d :: ds), s)
      | (.error e, s) => (.error e, s)

/-- R424, R432: one slot commits, with the decrements held while it was LOADING; those beyond DEP are
banked or orphaned one by one. -/
def commitSlot (p n : Nat) (d : List Nat) (s : State) : State :=
  let held := (s.slot p n).held
  let o : OpSlot := { desc := d, run := bits (d.getD 1 0) 63 48, st := .waiting }
  let s := s.setSlot p n { o with count := o.dep - held }
  let s := if o.dep ≤ held then becomeReady p n s else s
  decrements p n (held - o.dep) s

/-- The slots of a LOAD commit, in slot order. -/
def commitAll (p : Nat) : Nat → List (List Nat) → State → State
  | _, [], s => s
  | n, d :: ds, s => commitAll p (n + 1) ds (commitSlot p n d s)

/-- The held decrements of a refused LOAD's slot become orphans (R432). -/
def abandonSlot (p n : Nat) (s : State) : State :=
  let held := (s.slot p n).held
  decrements p n held (s.setSlot p n {})

/-- R432: LOAD_COMMIT of the oldest LOAD in progress. -/
def loadCommit (p : Nat) (s : State) : State :=
  match (s.sc p).loads with
  | [] => s
  | c :: rest =>
    let q := s.sc p
    let s := s.setSc p { q with loads := rest }
    match readDescs p c.tier c.addr c.first c.count 0 s with
    | (.ok ds, s) => respond p c.src 0 0 0 (commitAll p c.first ds s)
    | (.error (code, check, slot), s) => refuseCmd p c.src code check slot (forUp (abandonSlot p) c.count c.first s)

/-! ## Producers (R456, R457, R520) -/

/-- Table 12-6, R520: does the partition take commands now? -/
def State.takesCmds (s : State) (p : Nat) : Bool :=
  s.takesWork (pSCH p) && s.enabled p && s.pauseSt p == 0

/-- Free command queue entries (SCH_CMD_STS.QFREE): an entry is freed when its command completes. -/
def State.qfree (s : State) (p : Nat) : Nat := 64 - ((s.sc p).cmdQ.length + (s.sc p).loads.length)

/-- A command joins the partition's command queue. -/
def enqueueCmd (p : Nat) (c : GraphCmd) (s : State) : State :=
  let q := s.sc p
  s.setSc p { q with cmdQ := q.cmdQ ++ [c] }

/-- SCH_CMD_GO (R456, R457). -/
def wrCmdGo (m p v : Nat) (s : State) : State :=
  let pg := pSCH p
  checkedWrite m pg R.SCH_CMD_GO v (fun _ => true) (fun s => !bit v 31 || s.f pg F.SCH_CMD_STS_BUSY == 0)
    (fun s =>
      if !bit v 31 then s
      else if !s.takesCmds p || s.qfree p == 0 then
        refuse m pg R.SCH_CMD_GO 0x12 (perf pg 0x52 1 s)
      else
        let bytes := (List.range 8).foldl (fun a w => a ++ leBytes 4 (s.w pg (R.SCH_CMD_W + 4 * w))) []
        let s := s.setF pg F.SCH_CMD_STS_BUSY 1
        enqueueCmd p { bytes := bytes, src := .reg (v % 65536) } s) s

/-! ## Flow registers (R446, R463, R464) -/

/-- The word SCH_FLOWCFG reads for a flow. -/
def Flow.cfgWord (f : Flow) : Nat := b2n f.en * 2 ^ 31 + b2n f.ordered * 2 ^ 30 + b2n f.hold * 2 ^ 29 + f.win

/-- SCH_FLOWCFG. -/
def wrFlowCfg (m p v : Nat) (s : State) : State :=
  let pg := pSCH p
  checkedWrite m pg R.SCH_FLOWCFG v (fun _ => decide (1 ≤ bits v 8 0) && decide (bits v 8 0 ≤ 256))
    (fun s =>
      let n := s.f pg F.SCH_FLOWSEL_FLOW
      let f := s.flow p n
      let chg := f.ordered != bit v 30 || (f.en && !bit v 31)
      !(chg && (s.flowRes p n != 0 || s.inSvc p n != 0)))
    (fun s =>
      let n := s.f pg F.SCH_FLOWSEL_FLOW
      let f := s.flow p n
      s.setFlow p n { f with en := bit v 31, ordered := bit v 30, hold := bit v 29, win := bits v 8 0 }) s

/-- SCH_FLOWMASK_LO and SCH_FLOWMASK_HI. -/
def wrFlowMask (m p : Nat) (hi : Bool) (v : Nat) (s : State) : State :=
  let pg := pSCH p
  checkedWrite m pg (if hi then R.SCH_FLOWMASK_HI else R.SCH_FLOWMASK_LO) v (fun _ => true) (fun _ => true)
    (fun s =>
      let n := s.f pg F.SCH_FLOWSEL_FLOW
      let f := s.flow p n
      s.setFlow p n { f with mask := if hi then setBits f.mask 47 32 v else setBits f.mask 31 0 v }) s

/-- SCH_TICK (R460). -/
def wrTick (m p v : Nat) (s : State) : State :=
  plainWrite m (pSCH p) R.SCH_TICK v (fun _ => decide (bits v 4 0 ≤ 20))
    (fun s => !changes (pSCH p) F.SCH_TICK_N v s || (s.sc p).delay.isEmpty) s

/-! ## Delays (R458, R459) -/

/-- R458: where a deadline goes in the list: after every entry with a deadline at or before it. -/
def insertDelay (d n : Nat) : List (Nat × Nat) → List (Nat × Nat)
  | [] => [(d, n)]
  | e :: es => if e.1 ≤ d then e :: insertDelay d n es else (d, n) :: e :: es

/-- R458: a granted DELAY joins the delay list. -/
def startDelay (p n : Nat) (s : State) : State :=
  let tick := 1000 * 2 ^ s.f (pSCH p) F.SCH_TICK_N
  let d := ceilDiv s.now tick * tick + bits ((s.slot p n).arg 0) 31 0 * tick
  let q := s.sc p
  s.setSc p { q with delay := insertDelay d n q.delay }

/-- DELAY_EXPIRY: TBS_NOW has reached the first entry's deadline. -/
def delayExpiry (p : Nat) (s : State) : State :=
  let q := s.sc p
  match q.delay with
  | [] => s
  | e :: es => if q.frozen || decide (s.now < e.1) then s else completed p e.2 (s.setSc p { q with delay := es })

/-! ## Meanings -/

/-- LOAD. -/
def execLoad (p : Nat) (s : State) : Host.Outcome State Fault Refusal :=
  whenOk (okPart p) s <| run [pSCH p] s (cmdLoad p)
/-- LOAD_COMMIT. -/
def execLoadCommit (p : Nat) (errs : Errs) (s : State) : Host.Outcome State Fault Refusal :=
  whenOk (okPart p) s <| runErr errs [pSCH p] s (loadCommit p)
/-- SIGNAL. -/
def execSignal (p : Nat) (s : State) : Host.Outcome State Fault Refusal :=
  whenOk (okPart p) s <| run [pSCH p] s (cmdSignal p)
/-- LINK. -/
def execLink (p : Nat) (s : State) : Host.Outcome State Fault Refusal :=
  whenOk (okPart p) s <| run [pSCH p] s (cmdLink p)
/-- UNLOAD. -/
def execUnload (p : Nat) (s : State) : Host.Outcome State Fault Refusal :=
  whenOk (okPart p) s <| run [pSCH p] s (cmdUnload p)
/-- RETRY. -/
def execRetry (p : Nat) (s : State) : Host.Outcome State Fault Refusal :=
  whenOk (okPart p) s <| run [pSCH p] s (cmdRetry p)
/-- SCH_CMD_GO. -/
def execSchCmdGo (m p v : Nat) (s : State) : Host.Outcome State Fault Refusal :=
  whenOk (okMaster m && okPart p && okWord v) s <| run [pSCH (p % 8)] s (wrCmdGo m (p % 8) (v % 2 ^ 32))
/-- FLOWCFG_WRITE. -/
def execFlowcfgWrite (m p v : Nat) (s : State) : Host.Outcome State Fault Refusal :=
  whenOk (okMaster m && okPart p && okWord v) s <| run [pSCH (p % 8)] s (wrFlowCfg m (p % 8) (v % 2 ^ 32))
/-- DELAY_EXPIRY. -/
def execDelayExpiry (p : Nat) (errs : Errs) (s : State) : Host.Outcome State Fault Refusal :=
  whenOk (okPart p) s <| runErr errs [pSCH p] s (delayExpiry p)
/-- R472, R498: the completion of a token-class operation gives its stream its new state, and makes its record. -/
def commitTok (p n : Nat) (s : State) : State :=
  match (s.slot p n).exec with
  | some (.token e) =>
    let g := SMap.get s.tok e {}
    match g.after.find? (fun x => x.part == p && x.slot == n) with
    | some x =>
      let s := { s with tok := SMap.put s.tok e { g with
        streams := SMap.put g.streams (bits ((s.slot p n).arg 0) 11 2) x.strm {}
        held := g.held.filter (· != (p, n)), after := g.after.filter (fun x => !(x.part == p && x.slot == n)) } {} }
      match x.info with
      | some (c, d, a) => logInfo (pTOK e) c p d a s
      | none => s
    | none => s
  | _ => s

/-- COMPLETION (R452): the executor of a RUNNING operation reports it done. -/
def execCompletion (p slot : Nat) (errs : Errs) (s : State) : Host.Outcome State Fault Refusal :=
  whenOk (okPart p && okSlot slot) s <|
  runErr errs [pSCH p] s fun s => if (s.slot p slot).fin && !(s.slot p slot).heldRel then completed p slot (commitTok p slot s) else s

end Sys2Proof.Machine
end

