-- ==== Sys2Proof/Machine/CoreOps.lean ====
section
/-! DEFINITION.  What the core families share: the work-store pool, on-die stores with their poison
marks, windows, transfers, and the faults of an operation at its executor (R213, R229 to R240, R271 to
R274, R298 to R301, R653, R749). -/

namespace Sys2Proof.Machine

/-! ## On-die stores (R653, R749) -/

/-- Bytes with their marks: 0 for none, else 1 + DETAIL of the poisoned tier line. -/
abbrev Marked := List (Byte × Nat)

/-- Unmarked bytes. -/
def unmarked (bs : List Byte) : Marked := bs.map (·, 0)

/-- A tier read's bytes: a poisoned line's bytes carry its tier and address (R213). -/
def withSrc (tier addr : Nat) (r : List (Byte × Bool)) : Marked :=
  (List.range r.length).zip r |>.map (fun x => (x.2.1, if x.2.2 then 1 + lineDetail tier (addr + x.1) else 0))

/-- Marked bytes as a tier write takes them. -/
def toTier (d : Marked) : List (Byte × Bool) := d.map (fun x => (x.1, x.2 != 0))

/-- The first mark of some bytes, 0 if none is marked. -/
def firstMark (d : Marked) : Nat := ((d.map (·.2)).find? (· != 0)).getD 0

/-- Bytes of an on-die store with the marks of their lines. -/
def getDie (b : SMap Byte) (m : SMap Nat) (ofs n : Nat) : Marked :=
  (List.range n).map (fun i => (SMap.get b (ofs + i) 0, SMap.get m ((ofs + i) / 64) 0))

/-- The bytes alone, stored. -/
def putDieBytes (b : SMap Byte) : Nat → List Byte → SMap Byte
  | _, [] => b
  | ofs, x :: xs => putDieBytes (SMap.put b ofs x 0) (ofs + 1) xs

/-- R653, R749: the mark of one line after bytes [ofs, ofs + |d|) of the store are written: marked by a
marked byte, cleared by a whole line, else as it was. -/
def lineMark (m : SMap Nat) (ofs : Nat) (d : Marked) (line : Nat) : SMap Nat :=
  let lo := max ofs (64 * line)
  let hi := min (ofs + d.length) (64 * line + 64)
  let part := (d.drop (lo - ofs)).take (hi - lo)
  let mk := firstMark part
  if mk ≠ 0 then SMap.put m line mk 0 else if part.length = 64 then SMap.put m line 0 0 else m

/-- The marks of every line a write touches. -/
def putDieMarks (m : SMap Nat) (ofs : Nat) (d : Marked) : SMap Nat :=
  if d.isEmpty then m
  else (List.range ((ofs + d.length - 1) / 64 + 1 - ofs / 64)).foldl (fun m i => lineMark m ofs d (ofs / 64 + i)) m

/-! ## Pages and subjects -/

/-- The partition whose work a core does: that of its held operation, else the holder of its cluster. -/
def State.corePart (s : State) (c : Nat) : Nat :=
  match (s.core c).op with
  | some h => h.part
  | none => (s.assignee (pCORE c)).getD oTormal

/-- The pages a core's happening may touch: its own, and its operation's SCH page. -/
def State.corePages (s : State) (c : Nat) : List Nat :=
  match (s.core c).op with
  | some h => [pCORE c, pSCH h.part, pRAS]
  | none => [pCORE c, pRAS]

/-- The access a core makes now. -/
def State.coreAcc (s : State) (c : Nat) : Access := s.access (s.corePart c)

/-- The logical core's die-local time. -/
def State.coreNow (s : State) (c : Nat) : Nat := s.nowOn (c / 256)

/-! ## The work-store pool (R233 to R240) -/

/-- WS_POOL.SIZE and FLOOR. -/
def State.poolSize (s : State) (c : Nat) : Nat := s.f (pCORE c) F.WS_POOL_SIZE
def State.poolFloor (s : State) (c : Nat) : Nat := s.f (pCORE c) F.WS_POOL_FLOOR

/-- The pool with `fl` free floor buffers and `co` free common ones. -/
def setPool (c fl co : Nat) (s : State) : State :=
  (s.setF (pCORE c) F.WS_POOL_STS_FREE_FLOOR fl).setF (pCORE c) F.WS_POOL_STS_FREE_COMMON co

/-- Every buffer of the pool free. -/
def poolReset (c : Nat) (s : State) : State := setPool c (s.poolFloor c) (s.poolSize c - s.poolFloor c) s

/-- The outcome of a buffer request; `waits`: it is not its turn, or nothing has been released since its refusal. -/
inductive PoolRes | granted | refused | never | waits
  deriving DecidableEq, Repr

/-- The number a requester of a pool goes by (the list after R240). -/
def whoOf : Requester → Nat
  | .queue q => q | .gather => 4 | .handOver => 5 | .drain => 6 | .inbound => 7

/-- R58, R238: is it the requester's turn?  A refused one retries after a release; and one that has been served
since another's retry came up is not served again before it. -/
def State.poolTurn (s : State) (c who : Nat) : Bool :=
  (s.core c).bufWait.all (fun w => if w.who == who then w.retry else !(w.retry && w.passed.contains who))

/-- The requesters that wait while `who` is served. -/
def poolServed (who : Nat) (ws : List BufWait) : List BufWait :=
  (ws.filter (fun w => w.who != who)).map
    (fun w => if w.retry && !w.passed.contains who then { w with passed := w.passed ++ [who] } else w)

/-- A buffer request of requester `who` is refused: it waits from its first refusal on. -/
def poolRefused (c who : Nat) (s : State) : State :=
  let k := s.core c
  let since := ((k.bufWait.find? (fun w => w.who == who)).map (·.since)).getD (s.coreNow c)
  s.setCore c { k with bufWait := poolServed who k.bufWait ++ [{ who := who, since := since }] }

/-- R237 to R239: a request of requester `who` for `n` buffers of class DRAIN or FETCH: granted whole, refused
(and counted), or more than the pool could ever give. -/
def poolAsk (c who : Nat) (drain : Bool) (n : Nat) (s : State) : PoolRes × State :=
  let fl := s.f (pCORE c) F.WS_POOL_STS_FREE_FLOOR
  let co := s.f (pCORE c) F.WS_POOL_STS_FREE_COMMON
  let k := s.core c
  let served (s : State) : State := s.setCore c { k with bufWait := poolServed who k.bufWait }
  if (if drain then s.poolSize c else s.poolSize c - s.poolFloor c) < n then (.never, s)
  else if !s.poolTurn c who then (.waits, s)
  else if drain && decide (n ≤ fl + co) then (.granted, served (setPool c (fl - n) (co - (n - fl)) s))
  else if !drain && decide (n ≤ co) then (.granted, served (setPool c fl (co - n) s))
  else (.refused, poolRefused c who (s.addF (pCORE c) F.WS_REFUSE_CNT_CNT 1))

/-- R237: released buffers return to the floor first; those that wait may retry (R238). -/
def poolGive (c n : Nat) (s : State) : State :=
  if n = 0 then s
  else
    let fl := s.f (pCORE c) F.WS_POOL_STS_FREE_FLOOR
    let co := s.f (pCORE c) F.WS_POOL_STS_FREE_COMMON
    let toFloor := min n (s.poolFloor c - fl)
    let k := s.core c
    setPool c (fl + toFloor) (co + (n - toFloor)) (s.setCore c { k with bufWait := k.bufWait.map (fun w => { w with retry := true }) })

/-! ## Grants at a controller (R173, R174) -/

/-- TBS_NOW at the issue of each request of the cores that is outstanding at a controller. -/
def State.waitingAt (s : State) (pg : Nat) : List Nat :=
  let at_ (tier addr : Nat) (i : Issued) : Option Nat := if tier ≠ 0 ∧ tierCtl tier addr = pg then some i.since else none
  s.cores.flatMap fun e =>
    e.2.tqs.flatMap (fun t => t.2.reqs.filterMap (fun r => at_ r.tier r.addr r.iss) ++
      t.2.lists.filterMap (fun r => at_ r.tier r.addr r.iss)) ++ e.2.gth.reqs.filterMap (fun r => at_ r.tier r.addr r.iss)

/-- R173, R174: may the controller grant a request issued at `since` now?  In FCFS mode no older one may wait there;
in FIXED mode its class needs room in the window. -/
def State.turnAt (s : State) (tier addr len cls since : Nat) (n : Nat := 1) : Bool :=
  tier == 0 ||
    (if bit (s.ctl (tierCtl tier addr)).share 31 then s.shareOk tier addr len cls n
     else (s.waitingAt (tierCtl tier addr)).all (since ≤ ·))

/-- The page that answers a request of a core: the controller's, or its cluster's for cluster store. -/
def State.respPage (s : State) (c tier addr : Nat) : Nat :=
  if tier = 0 then pCLU ((s.cluOf c).getD 0) else tierCtl tier addr

/-! ## Windows and transfers (R226 to R232, R272 to R274) -/

def Core.tq (k : Core) (q : Nat) : Tq := SMap.get k.tqs q {}
def Core.setTq (k : Core) (q : Nat) (v : Tq) : Core := { k with tqs := SMap.put k.tqs q v {} }
def State.tq (s : State) (c q : Nat) : Tq := (s.core c).tq q
def State.setTq (s : State) (c q : Nat) (v : Tq) : State := s.setCore c ((s.core c).setTq q v)

/-- R229: is a transfer of the core outstanding or waiting to issue?  A gather command is an item of
its queue; a ring request and a running MOVE or RESHARD count too. -/
def Core.busy (k : Core) : Bool :=
  k.tqs.any (fun e => !e.2.items.isEmpty) || k.shard.isSome ||
    (match k.op with | some h => h.cls == cMOVE || h.cls == cRESHARD | none => false)

/-- The cluster of a slot holds a fetch slot for it (R231). -/
def State.hasFetch (s : State) (c : Nat) : Bool :=
  match s.cluOf c with
  | none => false
  | some k => (s.clu k).fetch.contains c

/-- R232: a core that leaves FETCH gives its fetch slot up. -/
def leaveFetch (c : Nat) (s : State) : State :=
  if (s.core c).busy then s
  else match s.cluOf c with
    | none => s
    | some k => s.setClu k { s.clu k with
        fetch := (s.clu k).fetch.filter (· != c), fetchTurns := (s.clu k).fetchTurns.filter (fun x => x.1 != c) }

/-- The phase of a core (R229): 0 IDLE, 1 FETCH, 2 COMPUTE. -/
def State.phase (s : State) (c : Nat) : Nat :=
  let k := s.core c
  if k.busy then 1 else if k.running && !k.inGet then 2 else 0

/-- R272: the window's buffers are released, and the next stream packs from offset 0. -/
def releaseWin (c q : Nat) (s : State) : State :=
  let t := s.tq c q
  let s := poolGive c t.bufs s
  s.setTq c q { t with bufs := 0, packed := 0, issuePos := 0, relPend := false, need := 0, win := [], pois := [], pages := [], written := [] }

/-- A compute instruction has issued: the next STRM or GATH of each read queue starts its window anew. -/
def compMark (c : Nat) (s : State) : State :=
  forUp (fun q s =>
    let t := s.tq c q
    if t.bufs = 0 ∧ t.packed = 0 then s else s.setTq c q { t with relPend := true }) 3 0 s

/-! ## The gather engine's buffers and fault record (R358, R370) -/

/-- Word `i` of a gather command block. -/
def GthCmd.w (g : GthCmd) (i : Nat) : Nat := fieldOf g.block (8 * i) 8
/-- AGG and RST of Table 09-1. -/
def GthCmd.agg (g : GthCmd) : Nat := bits (g.w 0) 7 4
def GthCmd.rst (g : GthCmd) : Nat := bits (g.w 0) 42 36
/-- R358: rows per staging buffer. -/
def GthCmd.perBuf (g : GthCmd) : Nat := max 1 (4096 / (max 1 g.rst * 64))
/-- Staging buffers that hold rows not yet reduced. -/
def GthCmd.stagedUse (g : GthCmd) : Nat := if g.agg = 0 then 0 else ceilDiv g.begun g.perBuf - g.reduced / g.perBuf
def Gather.stagedUse (g : Gather) : Nat := g.active.foldl (fun a x => a + x.stagedUse) 0

/-- R370: GTH_FLT and its companions. -/
def gthFltSet (c code cause pos val : Nat) (s : State) : State :=
  let pg := pCORE c
  let s := ((s.setF pg F.GTH_FLT_VALID 1).setF pg F.GTH_FLT_CODE code).setF pg F.GTH_FLT_CAUSE cause
  (s.setF pg F.GTH_FLT_POS_POS pos).setW64 pg R.GTH_FLT_VAL_LO R.GTH_FLT_VAL_HI val

/-- MODE of Table 09-1, and SEGMENT mode. -/
def GthCmd.mode (g : GthCmd) : Nat := bits (g.w 0) 3 0
def GthCmd.seg (g : GthCmd) : Bool := g.mode == 2
/-- GTH_FLT_POS now. -/
def GthCmd.pos (g : GthCmd) : Nat := if g.seg then sat 0xFFFFFFFF (g.edge - g.edge0) else g.item - 1

/-- Cause 10: a staging request that has waited too long (R240). -/
def gthWaitFlt (c : Nat) (s : State) : State :=
  match (s.core c).gth.wait, (s.core c).gth.active.getLast? with
  | some n, some g => gthFltSet c 0x13 10 g.pos n s
  | _, _ => s

/-! ## Faults of an operation (R298 to R301) -/

/-- A plan no longer waits for a buffer of core `t` (R414). -/
def unwaitInbound (t : Nat) (s : State) : State :=
  let k := s.core t
  s.setCore t { k with bufWait := k.bufWait.filter (fun w => w.who != 7) }

/-- R299: the core drops the operation: transfers discarded, buffers released, slots empty; it
continues at CORE_BOOT.PC, or stops where it is by a fault (`flt`) and STOP_ON_FLT is 1 (R300). -/
def coreDrop (c : Nat) (flt : Bool) (s : State) : State :=
  let s := match (s.core c).op.bind (·.bwait) with
    | some (t, _) => unwaitInbound t s
    | none => s
  let k := s.core c
  let stop := flt && s.f (pCORE c) F.CORE_CFG_STOP_ON_FLT == 1
  let s := s.setCore c { k with
    tqs := [], tally := [], fuse := none, op := none, shard := none, bufWait := [], hand := [], handPois := []
    gth := { nextId := k.gth.nextId }, staged := 0, inbound := 0
    pc := if stop then k.pc else s.f (pCORE c) F.CORE_BOOT_PC
    inGet := false, stopped := stop && k.running || k.stopped, running := k.running && !stop }
  leaveFetch c (poolReset c s)

/-- CORE_FLT records a sequencer fault with the PC of the instruction that caused it (R298), and any fault that
stops its core, since a stopped core waits for VALID to be cleared (R300). -/
def coreFltSet (c pc code sub aux : Nat) (s : State) : State :=
  let pg := pCORE c
  if code = 0x18 ∨ s.f pg F.CORE_CFG_STOP_ON_FLT = 1 then
    (((s.setF pg F.CORE_FLT_VALID 1).setF pg F.CORE_FLT_SUB sub).setF pg F.CORE_FLT_PC pc).setF pg F.CORE_FLT_AUX_AUX aux
  else s

/-- R299 to R301: an operation's fault at its core, whatever the code: CORE_FLT, the operation's end, and the
core's; `pc` is the instruction's that caused it. -/
def coreFaultAt (c pc code sub aux : Nat) (tag : Option Nat) (s : State) : State :=
  let s := coreFltSet c pc code sub aux s
  match (s.core c).op with
  | some h => coreDrop c true (perf (pCORE c) 0x32 1 (opFault h.part h.slot code tag s))
  | none => coreDrop c true s

/-- The same of the instruction at the PC. -/
def coreFault (c code sub aux : Nat) (tag : Option Nat) (s : State) : State :=
  coreFaultAt c (s.core c).pc code sub aux tag s

/-- R298: a sequencer fault of subcode `sub`, of the instruction at `pc`. -/
def seqFaultAt (c pc sub aux : Nat) (s : State) : State :=
  let aux := aux % 2 ^ 32
  let s := logErr (pCORE c) 0x18 (s.corePart c) (pc + aux * 2 ^ 32) sub s
  coreFaultAt c pc 0x18 sub aux none s

/-- R298: a sequencer fault of the instruction at the PC. -/
def seqFault (c sub aux : Nat) (s : State) : State := seqFaultAt c (s.core c).pc sub aux s

/-- An operation faults with a code that is logged in its CORE page; `pc` as for `coreFaultAt`. -/
def coreFaultLogAt (c pc code detail : Nat) (tag : Option Nat) (s : State) : State :=
  coreFaultAt c pc code 0 0 tag (logErr (pCORE c) code (s.corePart c) detail 0 s)

/-- A core's operation faults with a code that is logged in its CORE page. -/
def coreFaultLog (c code detail : Nat) (tag : Option Nat) (s : State) : State :=
  coreFaultLogAt c (s.core c).pc code detail tag s

/-- R213: an operation consumes bytes marked poisoned. -/
def poisonFault (c mark : Nat) (s : State) : State := coreFaultLog c 0x06 (mark - 1) none s

/-- R490, R498: TOK_FLT records an engine's fault. -/
def tokFltSet (e code : Nat) (o : OpSlot) (p addr : Nat) (s : State) : State :=
  let pg := pTOK e
  let s := ((s.setF pg F.TOK_FLT_VALID 1).setF pg F.TOK_FLT_STREAM (bits (o.arg 0) 11 2)).setF pg F.TOK_FLT_OWNER p
  let s := (s.setF pg F.TOK_FLT_CODE code).setF pg F.TOK_FLT_CLASS o.cls
  s.setW64 pg R.TOK_FLT_ADDR_LO R.TOK_FLT_ADDR_HI addr

/-- R473: the header of a faulted token-class operation (Table 13-1, Table 14-1, R511).  STATUS is the code, the bytes
and bits that tell of the arguments or of the stream, which is unchanged, are as the tables say, and those that tell
what the operation came to are free: the spec states no value of them for such a fault. -/
def State.tokFltHeader (s : State) (e p n code : Nat) : List Byte :=
  let o := s.slot p n
  let st := SMap.get (SMap.get s.tok e {}).streams (bits (o.arg 0) 11 2) {}
  let fr (i : Nat) : Nat := (Config.freeValue (s.fresh + i)).toNat
  let start := b2n (bit (o.arg 0) 12)
  let end_ := b2n (bit (o.arg 0) 13)
  if o.cls = 8 then
    leBytes 4 (fr 0) ++ leBytes 4 (fr 1) ++ leBytes 1 (if start = 1 then 0 else st.carry.length) ++ leBytes 1 (fr 2 % 4)
      ++ leBytes 1 (fr 3 % 4 + end_ * 4 + start * 8) ++ leBytes 1 code ++ leBytes 4 (fr 4)
  else if o.cls = 9 then
    leBytes 4 (fr 0) ++ leBytes 4 (fr 1) ++ leBytes 2 st.hold.length
      ++ leBytes 1 (b2n st.stopped + fr 2 % 2 * 2 + end_ * 4 + start * 8 + fr 3 % 2 * 16) ++ leBytes 1 code
      ++ leBytes 1 (fr 4) ++ leBytes 3 0
  else leBytes 4 (fr 0) ++ leBytes 2 st.cstate ++ leBytes 1 (fr 1 % 2 + start * 2) ++ leBytes 1 code ++ leBytes 8 0

/-- That header written, if its line can be. -/
def tokHdrFault (e p n code : Nat) (s : State) : State :=
  let o := s.slot p n
  let r := memWrite (pTOK e) (s.access p) (ptrTier (o.arg 2)) (ptrAddr (o.arg 2)) (plain (s.tokFltHeader e p n code))
    (s.isRmtDie (e / 2) (ptrTier (o.arg 2)) (ptrAddr (o.arg 2))) { s with fresh := s.fresh + 5 }
  if r.1 = 0 then r.2 else s

/-- The engine lets go of an operation, and of what its completion would have given its stream. -/
def tokForget (e p n : Nat) (s : State) : State :=
  let g := SMap.get s.tok e {}
  { s with tok := SMap.put s.tok e { g with
      held := g.held.filter (· != (p, n)), after := g.after.filter (fun x => !(x.part == p && x.slot == n)) } {} }

/-- R473, R490: a token-class operation faults: its header, the log, TOK_FLT and its end. -/
def tokFault (e p n code addr : Nat) (log hdr : Bool) (s : State) : State :=
  let s := if hdr then tokHdrFault e p n code s else s
  let s := if log then logErr (pTOK e) code p (if code = 0x06 then addr else 0) 0 s else s
  opFault p n code none (tokForget e p n (tokFltSet e code (s.slot p n) p addr s))

def State.mop (s : State) (p n : Nat) : MigOp := SMap.get s.mig (p * 65536 + n) {}
def State.setMop (s : State) (p n : Nat) (v : MigOp) : State := { s with mig := SMap.put s.mig (p * 65536 + n) v {} }

/-- R400: an operation of a migration engine faults: MIG_FLT and the operation's end. -/
def migFltEnd (d p n code addr : Nat) (s : State) : State :=
  let pg := pMIG d
  let s := ((s.setF pg F.MIG_FLT_VALID 1).setF pg F.MIG_FLT_OWNER p).setF pg F.MIG_FLT_CODE code
  let s := (s.setF pg F.MIG_FLT_CLASS (s.slot p n).cls).setW64 pg R.MIG_FLT_ADDR_LO R.MIG_FLT_ADDR_HI addr
  opFault p n code none (s.setMop p n {})

/-- The page of the block that executes an operation. -/
def execPage (p : Nat) : Option Exec → Nat
  | some (.core c) => pCORE c
  | some (.token e) => pTOK e
  | some (.mig d) => pMIG d
  | some (.ckp d) => pCKP d
  | _ => pSCH p

/-- The executor of an operation has issued a request for it. -/
def stamp (p n : Nat) (s : State) : State :=
  let o := s.slot p n
  if o.st == .running then s.setSlot p n { o with iss := s.issue (execPage p o.exec) } else s

/-- An operation faults at its executor, which logs the code in its page (Table 12-9). -/
def execFault (p n code : Nat) (s : State) : State :=
  let o := s.slot p n
  if o.st == .running && !o.heldRel then
    match o.exec with
    | some (.core c) => coreFaultLog c code 0 none s
    | some (.token e) => tokFault e p n code 0 true true s
    | some (.mig d) => migFltEnd d p n code 0 (logErr (pMIG d) code p 0 0 s)
    | some (.ckp d) => opFault p n code none (logErr (pCKP d) code p 0 0 s)
    | _ =>
      let q := s.sc p
      opFault p n code none (logErr (pSCH p) code p n 0 (s.setSc p { q with delay := q.delay.filter (fun e => e.2 != n) }))
  else s

/-! ## Work-store addresses (Table 07-6) -/

/-- The region of a WSA. -/
inductive Region
  | static
  /-- The window of a queue, with the offset in it. -/
  | win (q ofs : Nat)
  | hand (ofs : Nat)
  | none
  deriving DecidableEq, Repr

/-- Bytes of the static region. -/
def State.staticBytes (s : State) (c : Nat) : Nat := (384 - s.poolSize c) * 4096

/-- Hand-over buffers of the CHAIN the core runs (0: none). -/
def State.handBufs (s : State) (c : Nat) : Nat :=
  match (s.core c).op with
  | some h => if h.chain then h.hand else 0
  | none => 0

/-- R271: the region a WSA lies in.  Hand-over space is told apart by its base alone, so that an
overrun is seen as one. -/
def State.regionOf (s : State) (c wsa : Nat) : Region :=
  if wsa < s.staticBytes c then .static
  else if 0x800000 ≤ wsa ∧ wsa < 0xC00000 then .win ((wsa - 0x800000) / 2 ^ 20) (wsa % 2 ^ 20)
  else if 0xC00000 ≤ wsa ∧ s.handBufs c ≠ 0 then .hand (wsa - 0xC00000)
  else .none

/-- R271, R273: bytes read by LD or as an operand: the subcode and AUX of the fault, or the data. -/
def State.wsRead (s : State) (c wsa n : Nat) : Except (Nat × Nat) Marked :=
  let k := s.core c
  match s.regionOf c wsa with
  | .static => if s.staticBytes c < wsa + n then .error (0x05, wsa) else .ok (getDie k.work k.workPois wsa n)
  | .win q ofs =>
    if q = 3 then .error (0x04, wsa)
    else if 2 ^ 20 < ofs + n then .error (0x05, wsa)
    else if (k.tq q).packed < ofs + n then .error (0x04, wsa)
    else .ok (getDie (k.tq q).win (k.tq q).pois ofs n)
  | .hand ofs =>
    if 4096 * s.handBufs c ≤ ofs then .error (0x04, wsa)
    else if 4096 * s.handBufs c < ofs + n then .error (0x05, wsa)
    else .ok (getDie k.hand k.handPois ofs n)
  | .none => .error (0x04, wsa)

/-- Bytes of the static region alone: scale vectors, lists and command blocks. -/
def State.staticRead (s : State) (c wsa n : Nat) : Except (Nat × Nat) Marked :=
  if s.staticBytes c ≤ wsa then .error (0x04, wsa)
  else if s.staticBytes c < wsa + n then .error (0x05, wsa)
  else .ok (getDie (s.core c).work (s.core c).workPois wsa n)

/-- Bytes stored in the static region. -/
def staticPut (c wsa : Nat) (d : Marked) (s : State) : State :=
  let k := s.core c
  s.setCore c { k with work := putDieBytes k.work wsa (d.map (·.1)), workPois := putDieMarks k.workPois wsa d }

/-- R252: bytes stored in static or hand-over space by ST or DRAIN: the fault, or the state after. -/
def wsWrite (c wsa : Nat) (d : Marked) (s : State) : Except (Nat × Nat) State :=
  match s.regionOf c wsa with
  | .static => if s.staticBytes c < wsa + d.length then .error (0x05, wsa) else .ok (staticPut c wsa d s)
  | .hand ofs =>
    if 4096 * s.handBufs c < ofs + d.length then .error (0x08, wsa)
    else
      let k := s.core c
      .ok (s.setCore c { k with hand := putDieBytes k.hand ofs (d.map (·.1)), handPois := putDieMarks k.handPois ofs d })
  | _ => .error (0x04, wsa)

end Sys2Proof.Machine
end

