-- ==== Sys2Proof/Machine/Streams.lean ====
section
/-! DEFINITION.  Block-entry streams, transfer queues, buffer requests and fetch slots (R218 to R240,
R255, R747). -/

namespace Sys2Proof.Machine

/-! ## Block entries (Table 06-1) -/

/-- A block entry. -/
structure Entry where
  addr : Nat
  len : Nat
  tier : Nat
  end_ : Bool
  link : Bool
  fence : Bool
  res : Bool
  tag : Nat
  deriving DecidableEq, Repr

/-- Table 06-1: the fields of a 16 B entry; `res` when a reserved bit is set. -/
def entryOf (bs : List Byte) : Entry :=
  let w := leNat bs
  { addr := bits w 47 0, len := bits w 71 48, tier := bits w 73 72, end_ := bit w 80, link := bit w 81,
    fence := bit w 82, res := bits w 79 74 != 0 || bits w 95 83 != 0, tag := bits w 127 96 }

/-- R219: is the entry malformed?  `core`: the stream is issued by a core; `count`: entries read so
far, this one included; `last`: it is the last entry of a continuation. -/
def Entry.bad (e : Entry) (core : Bool) (count : Nat) (last : Bool) : Bool :=
  e.len == 0 || e.res || (e.end_ && e.link) || (e.link && (e.addr % 16 != 0 || e.len % 16 != 0)) ||
    (e.tier == 0 && !core) || decide (65536 < count) || (last && !e.end_ && !e.link)

/-- R241: bytes of the shared region of a cluster store. -/
def State.sharedBytes (s : State) (k : Nat) : Nat :=
  let w := s.f (pCLU k) F.CLU_WCFG_WREG
  2 ^ 23 - (if s.f (pCLU k) F.CLU_WCFG_MODE = 0 then 2 * w else w) * 2 ^ 16

/-- R220: the code a transfer entry's range faults with. -/
def State.entryCode (s : State) (k : Nat) (e : Entry) : Nat :=
  if e.tier = 0 then (if e.addr + e.len ≤ s.sharedBytes k then 0 else 0x05)
  else s.rangeCode e.tier e.addr e.len

/-! ## Streams of a queue (R219, Table 06-5) -/

/-- The next stream of a queue becomes the active one. -/
def startItem (t : Tq) : Tq :=
  let t := { t with segLeft := none, count := 0, ended := false, ents := [], lists := [], lbuf := none, fail := none }
  match t.items with
  | .stream ws tier addr _ :: _ => { t with curWs := ws, curTier := tier, curAddr := addr }
  | _ => t

/-- A stream joins a queue. -/
def addItem (c q : Nat) (it : TqItem) (s : State) : State :=
  let t := s.tq c q
  let t' := { t with items := t.items ++ [it], strm := t.strm || q == 3 }
  s.setTq c q (if t.items.isEmpty then startItem t' else t')

/-- The PC of the instruction that started the queue's stream (R298). -/
def Tq.pc (t : Tq) : Nat :=
  match t.items with
  | .stream _ _ _ pc :: _ => pc
  | .gath _ pc :: _ => pc
  | [] => 0

/-- The fault of an entry is raised. -/
def raiseFail (c q : Nat) (f : EntFail) (s : State) : State :=
  let pc := (s.tq c q).pc
  if f.code = 0x18 then seqFaultAt c pc f.sub f.aux s
  else if f.logged then coreFaultAt c pc f.code 0 0 f.tag s
  else coreFaultLogAt c pc f.code f.detail f.tag s

/-- Every earlier entry of the queue's stream has completed. -/
def Tq.quiet (t : Tq) : Bool := t.reqs.isEmpty && t.ents.all (fun e => e.issued == e.len)

/-- The queue's stream is finished once its entries have all completed: the next one starts; or the fault that
it has met is raised (R219). -/
def finishItem (c q : Nat) (s : State) : State :=
  let t := s.tq c q
  match t.items with
  | .stream _ _ _ _ :: rest =>
    if !t.quiet then s
    else match t.fail with
      | some f => raiseFail c q f s
      | none =>
        if t.ended then
          leaveFetch c (s.setTq c q (startItem { t with items := rest, issuePos := if q = 3 then 0 else t.issuePos }))
        else s
  | _ => s

/-- The stream fails at an entry: no later one is read, and the entries before it go on. -/
def entFail (c q : Nat) (f : EntFail) (s : State) : State :=
  let t := s.tq c q
  finishItem c q (s.setTq c q { t with fail := some (t.fail.getD f), ended := true, lists := [], lbuf := none })

/-- A request of the stream fails: nothing that it has not asked for yet is asked for. -/
def reqFail (c q : Nat) (f : EntFail) (s : State) : State :=
  let t := s.tq c q
  entFail c q f (s.setTq c q { t with ents := [] })

/-! ## Requests of a core (R223) -/

/-- R223: does an outstanding write request of the core touch a line of the range? -/
def State.writeOverlap (s : State) (c tier addr len : Nat) : Bool :=
  (s.tq c 3).reqs.any (fun r => r.tier == tier &&
    overlaps (r.addr / 64) (ceilDiv (r.addr % 64 + r.len) 64) (addr / 64) (ceilDiv (addr % 64 + len) 64))

/-- Bytes of a cluster store with their marks. -/
def State.cluRead (s : State) (k ofs n : Nat) : Marked := getDie (s.clu k).store (s.clu k).pois ofs n

/-- Bytes stored in a cluster store. -/
def cluWrite (k ofs : Nat) (d : Marked) (s : State) : State :=
  let v := s.clu k
  s.setClu k { v with store := putDieBytes v.store ofs (d.map (·.1)), pois := putDieMarks v.pois ofs d }

/-- A granted read request of a core: its code, its data with their marks, and the state after. -/
def coreRead (c slot tier addr len : Nat) (s : State) : Nat × Marked × State :=
  if tier = 0 then (0, s.cluRead ((s.cluOf c).getD 0) addr len, s)
  else
    let x := memRead (pCORE c) ⟨s.corePart c, slot⟩ tier addr len (s.isRmtDie (c / 256) tier addr) s
    (x.1, withSrc tier addr x.2.1, x.2.2)

/-- R52, R53: a request of a core's stream has timed out: the operation faults with 0x03. -/
def coreTimeout (c pc : Nat) (hs : Hs) (tier addr : Nat) (tag : Option Nat) (s : State) : State :=
  coreFaultLogAt c pc 0x03 (memKey tier addr) tag (abandon hs (s.respPage c tier addr) s)

/-! ## Reading entries (R219, R747) -/

/-- The M-aligned block of a tier that an address lies in. -/
def blockOf (tier addr : Nat) : Nat := addr / tierM tier * tierM tier

/-- The blocks of the list that the queue may read ahead: in a continuation, whose length is known, up to its end. -/
def Tq.listAhead (t : Tq) : List Nat :=
  let m := tierM t.curTier
  let b := blockOf t.curTier t.curAddr
  (List.range 4).filterMap fun i =>
    if b + i * m < t.curAddr + (t.segLeft.getD 16) then some (b + i * m) else none

/-- Is the block at hand, or asked for? -/
def Tq.hasBlock (t : Tq) (a : Nat) : Bool :=
  t.lists.any (fun r => r.tier == t.curTier && r.addr == a) || t.lbuf.elim false (fun b => b.tier == t.curTier && b.addr == a)

/-- The queue asks for the list blocks it needs next, with at most 4 list reads outstanding (R747); not while the
core waits for a fetch slot (R231), nor for a block that a write before it touches (R223). -/
def listIssue (c q : Nat) (s : State) : State :=
  let t := s.tq c q
  match t.items with
  | .stream _ _ _ _ :: _ =>
    if t.curWs || t.ended || !s.hasFetch c then s
    else
      let need := t.listAhead.filter (fun a => !t.hasBlock a && !s.writeOverlap c t.curTier a (tierM t.curTier))
      let new : List ListReq := (need.take (4 - t.lists.length)).map fun a =>
        { tier := t.curTier, addr := a, slot := s.slotFor (s.corePart c), iss := s.issue (pCORE c) }
      s.setTq c q { t with lists := t.lists ++ new }
  | _ => s

/-- The list read that has been outstanding longest returns, or is found timed out, or waits for its grant. -/
def listArrive (c q : Nat) (s : State) : State :=
  let t := s.tq c q
  match t.lists with
  | [] => s
  | r :: rest =>
    if s.overdue (pCORE c) r.iss then coreTimeout c t.pc (.list c q) r.tier r.addr none s
    else if !s.turnAt r.tier r.addr (tierM r.tier) (reqClass false (s.isRmtDie (c / 256) r.tier r.addr)) r.iss.since then s
    else
      let x := coreRead c r.slot r.tier r.addr (tierM r.tier) s
      if x.1 = 0x12 then s
      else if x.1 ≠ 0 then entFail c q { code := x.1, logged := true } x.2.2
      else x.2.2.setTq c q { (x.2.2.tq c q) with lists := rest, lbuf := some { tier := r.tier, addr := r.addr, data := x.2.1 } }

/-- The 16 bytes at the queue's list position, where they are at hand; `error` with a static-region fault. -/
def State.entryAt16 (s : State) (c : Nat) (t : Tq) : Option (Except (Nat × Nat) Marked) :=
  if t.curWs then some (s.staticRead c t.curAddr 16)
  else t.lbuf.bind fun b =>
    if b.tier = t.curTier ∧ b.addr = blockOf t.curTier t.curAddr then
      some (.ok ((b.data.drop (t.curAddr - b.addr)).take 16))
    else none

/-- The queue's next entry is checked and taken (R219, R220). -/
def takeEntry (c q : Nat) (bs : Marked) (s : State) : State :=
  let t := s.tq c q
  let e := entryOf (bs.map (·.1))
  let n := t.count + 1
  if firstMark bs ≠ 0 then entFail c q { code := 0x06, detail := firstMark bs - 1 } s
  else if e.bad true n (t.segLeft == some 16) then
    entFail c q { code := 0x04, detail := if t.curWs then t.curAddr else memKey t.curTier t.curAddr, tag := some e.tag } s
  else
    let code := s.entryCode ((s.cluOf c).getD 0) e
    if code ≠ 0 then entFail c q { code := code, detail := memKey e.tier e.addr, tag := some e.tag } s
    else if e.link then
      listIssue c q (s.setTq c q { t with
        curWs := false, curTier := e.tier, curAddr := e.addr, segLeft := some e.len, count := n, lists := [], lbuf := none })
    else
      listIssue c q (s.setTq c q { t with
        curAddr := t.curAddr + 16, segLeft := t.segLeft.map (· - 16), count := n, ended := e.end_
        lists := if e.end_ then [] else t.lists
        ents := t.ents ++ [{ addr := e.addr, len := e.len, tier := e.tier, fence := e.fence, tag := e.tag, last := e.end_ }] })

/-- BLOCK_ENTRY_READ: the queue reads and checks its next entry.  Where the entry's block is not at hand, the queue
asks for it, or the block that it has asked for returns. -/
def blockEntryRead (c q : Nat) (s : State) : State :=
  let t := s.tq c q
  match t.items with
  | .stream _ _ _ _ :: _ =>
    if t.ended || !s.hasFetch c then s
    else match s.entryAt16 c t with
      | some (.error (sub, aux)) => entFail c q { code := 0x18, sub := sub, aux := aux } s
      | some (.ok bs) => takeEntry c q bs s
      | none =>
        if t.lists.isEmpty then listIssue c q s
        else
          let s := listArrive c q s
          match s.entryAt16 c (s.tq c q) with
          | some (.ok bs) => takeEntry c q bs s
          | _ => s
  | _ => s

/-! ## Requests (R221 to R227) -/

/-- The first entry with bytes not yet asked for. -/
def nextEnt : List BlockEnt → Option BlockEnt
  | [] => none
  | e :: es => if e.issued < e.len then some e else nextEnt es

/-- The entry that `nextEnt` names has `n` more bytes asked for. -/
def bumpEnt (n : Nat) : List BlockEnt → List BlockEnt
  | [] => []
  | e :: es => if e.issued < e.len then { e with issued := e.issued + n } :: es else e :: bumpEnt n es

/-- R274: are the bytes of the write window written by DRAIN since the window started? -/
def coveredBy (written : List (Nat × Nat)) (pos n : Nat) : Bool :=
  (List.range n).all (fun i => written.any (fun w => decide (w.1 ≤ pos + i) && decide (pos + i < w.1 + w.2)))

/-- R226, R231: the queue may not issue now, whatever its next request: no fetch slot, or OUT_MAX. -/
def State.tqFull (s : State) (c q : Nat) : Bool :=
  !s.hasFetch c || decide (s.f (pCORE c) (F.TQ_CFG_OUT_MAX.at 4 q) ≤ (s.tq c q).reqs.length)

/-- TQ_REQUEST_ISSUE (R227): the next request of the queue's stream goes out once OUT_MAX, its buffer
and any FENCE allow.  One request covers one M-aligned block (R221). -/
def tqIssue (c q : Nat) (s : State) : State :=
  let t := s.tq c q
  match t.items, nextEnt t.ents with
  | .stream _ _ _ pc :: _, some e =>
    let a := e.addr + e.issued
    let n := min (e.len - e.issued) (tierM e.tier - a % tierM e.tier)
    let k := s.core c
    let go : State :=
      s.setCore c { (k.setTq q { t with
          ents := bumpEnt n t.ents
          reqs := t.reqs ++ [{ id := k.nextReq, tier := e.tier, addr := a, len := n, pos := t.issuePos, slot := s.slotFor (s.corePart c)
                               iss := s.issue (pCORE c), tag := e.tag }]
          issuePos := t.issuePos + n }) with nextReq := k.nextReq + 1 }
    if e.tier ≠ 0 ∧ s.fenced (tierCtl e.tier a) = true then
      reqFail c q { code := 0x03, detail := memKey e.tier a, tag := some e.tag } s
    else if s.tqFull c q || (e.fence && e.issued == 0 && !t.reqs.isEmpty) then s
    else if q = 3 then
      if coveredBy t.written t.issuePos n then go
      else reqFail c q { code := 0x18, sub := 0x04, aux := 0xB00000 + t.issuePos } s
    else if 2 ^ 20 < t.issuePos + n then seqFaultAt c pc 0x0B q s
    else if t.bufs * 4096 ≤ t.issuePos || s.writeOverlap c e.tier a n then s
    else go
  | _, _ => s

/-- Every buffer and byte of a finished request is accounted for: with none outstanding, the window
may be read up to what was asked for. -/
def settleTq (c q : Nat) (s : State) : State :=
  let t := s.tq c q
  finishItem c q (if t.reqs.isEmpty then s.setTq c q { t with packed := max t.packed t.issuePos } else s)

/-- The request is no longer outstanding. -/
def dropReq (c q id : Nat) (s : State) : State :=
  s.setTq c q { s.tq c q with reqs := (s.tq c q).reqs.filter (fun x => x.id != id) }

/-- TRANSFER_COMPLETE of a read: its data lands at its place in the packing (R222), poison and all. -/
def completeRead (c q : Nat) (r : TqReq) (s : State) : State :=
  let res := coreRead c r.slot r.tier r.addr r.len s
  if res.1 = 0x12 then s
  else if res.1 ≠ 0 then reqFail c q { code := res.1, tag := some r.tag, logged := true } (dropReq c q r.id res.2.2)
  else
    let s := dropReq c q r.id (perf (pCORE c) 0x36 r.len res.2.2)
    let t := s.tq c q
    settleTq c q (s.setTq c q { t with
      win := putDieBytes t.win r.pos (res.2.1.map (·.1)), pois := putDieMarks t.pois r.pos res.2.1 })

/-- TRANSFER_COMPLETE of a write: its bytes come from the write window (R222), poison and all (R653). -/
def completeWrite (c : Nat) (r : TqReq) (s : State) : State :=
  let clu := (s.cluOf c).getD 0
  let t := s.tq c 3
  let d := getDie t.win t.pois r.pos r.len
  let res := if r.tier = 0 then (0, cluWrite clu r.addr d s)
    else memWrite (pCORE c) ⟨s.corePart c, r.slot⟩ r.tier r.addr (toTier d) (s.isRmtDie (c / 256) r.tier r.addr) s
  if res.1 = 0x12 then s
  else
    let s := dropReq c 3 r.id res.2
    if res.1 = 0x06 then reqFail c 3 { code := 0x06, detail := lineDetail r.tier r.addr, tag := some r.tag } s
    else if res.1 ≠ 0 then reqFail c 3 { code := res.1, tag := some r.tag, logged := true } s
    else settleTq c 3 (perf (pCORE c) 0x37 r.len s)

/-- TRANSFER_COMPLETE of request `id` of a queue: its controller grants it, in its turn (R173, R174); one that its
queue must have found timed out by now is abandoned (R49). -/
def transferComplete (c q id : Nat) (s : State) : State :=
  match (s.tq c q).reqs.find? (fun r => r.id == id && decide (r.tier < 4)) with
  | none => s
  | some r =>
    if s.overdue (pCORE c) r.iss then coreTimeout c (s.tq c q).pc (.tq c q id) r.tier r.addr (some r.tag) s
    else if !s.turnAt r.tier r.addr r.len (reqClass (q == 3) (s.isRmtDie (c / 256) r.tier r.addr)) r.iss.since then s
    else if q = 3 then completeWrite c r s else completeRead c q r s

/-! ## Buffers (R228, R233 to R240) -/

/-- What a requester may ask for now, and in which class: `none` when it asks for nothing.  DRAIN asks for what the
write window lacks (R274); inbound writes ask for the buffer that a plan waits for (R414). -/
def State.wants (s : State) (c : Nat) (r : Requester) (n : Nat) : Option (Bool × Nat) :=
  let k := s.core c
  if n = 0 ∨ 64 < n then none
  else match r with
  | .queue q =>
    let t := s.tq c q
    if q < 3 && !t.items.isEmpty && s.hasFetch c && (decide (t.bufs * 4096 < t.need) ||
        (decide (t.bufs * 4096 ≤ t.issuePos) && (nextEnt t.ents).isSome)) then some (false, 1) else none
  | .gather => match k.gth.active.getLast? with
    | some g =>
      if g.agg ≠ 0 && decide (k.staged + n ≤ ceilDiv (s.f (pCORE c) F.GTH_CFG_OUT_MAX) g.perBuf + 1) then some (false, n) else none
    | none => none
  | .handOver => match k.op with
    | some h => if h.chain && !h.handOk then some (false, h.hand) else none
    | none => none
  | .drain => let m := (s.tq c 3).need; if m = 0 then none else some (true, m)
  | .inbound => if k.bufWait.any (fun w => w.who == whoOf .inbound) then some (false, 1) else none

/-- Granted buffers belong to their requester. -/
def giveBufs (c : Nat) (r : Requester) (n : Nat) (s : State) : State :=
  let k := s.core c
  match r with
  | .queue q => s.setTq c q { s.tq c q with bufs := (s.tq c q).bufs + n }
  | .drain => s.setTq c 3 { s.tq c 3 with bufs := (s.tq c 3).bufs + n, need := 0 }
  | .gather => s.setCore c { k with staged := k.staged + n }
  | .inbound => s.setCore c { k with inbound := k.inbound + n }
  | .handOver => match k.op with
    | some h => s.setCore c { k with op := some { h with handOk := true } }
    | none => s

/-- BUFFER_REQUEST (R237 to R239). -/
def bufferRequest (c : Nat) (r : Requester) (n : Nat) (s : State) : State :=
  match s.wants c r n with
  | none => s
  | some (drain, n) =>
    let wait (w : Option Nat) (s : State) : State :=
      if r = .gather then s.setCore c { s.core c with gth := { (s.core c).gth with wait := w } } else s
    match poolAsk c (whoOf r) drain n s with
    | (.granted, s) => wait none (giveBufs c r n s)
    | (.refused, s) => wait (some n) s
    | (.waits, _) => s
    | (.never, s) => coreFaultLog c 0x13 0 none s

/-- BUFFER_RELEASE: buffers that their requester no longer needs go back to the pool (R237): those of a
queue with no stream, staging buffers, and buffers of inbound writes. -/
def bufferRelease (c : Nat) (r : Requester) (n : Nat) (s : State) : State :=
  let k := s.core c
  match r with
  | .queue q =>
    let t := s.tq c q
    if q < 3 && t.items.isEmpty && decide (n ≤ t.bufs) then
      poolGive c n (s.setTq c q { t with bufs := t.bufs - n, packed := min t.packed ((t.bufs - n) * 4096) })
    else s
  | .drain =>
    let t := s.tq c 3
    if t.items.isEmpty && decide (n + t.pages.length ≤ t.bufs) then
      poolGive c n (s.setTq c 3 { t with bufs := t.bufs - n })
    else s
  | .gather => if n + k.gth.stagedUse ≤ k.staged then poolGive c n (s.setCore c { k with staged := k.staged - n }) else s
  | .inbound => if n ≤ k.inbound then poolGive c n (s.setCore c { k with inbound := k.inbound - n }) else s
  | .handOver => s

/-- BUF_WAIT_EXPIRY (R240): a refused request has waited for WS_BUF_WAIT.US. -/
def bufWaitExpiry (c : Nat) (s : State) : State :=
  match (s.core c).bufWait.find? (fun w => w.who != whoOf .inbound &&
      decide (w.since + s.f (pCORE c) F.WS_BUF_WAIT_US * 1000 ≤ s.coreNow c)) with
  | none => s
  | some w => coreFaultLog c 0x13 0 none (if w.who = whoOf .gather then gthWaitFlt c s else s)

/-- The cores of a cluster that wait for a fetch slot (R231). -/
def State.slotWaiters (s : State) (k : Nat) : List Nat :=
  (s.slotsOfClu k).filter (fun c => (s.core c).busy && !(s.clu k).fetch.contains c)

/-- FETCH_SLOT_GRANT (R231): a core of the cluster that has transfers waiting gets a free fetch slot, in its turn. -/
def fetchSlotGrant (k c : Nat) (s : State) : State :=
  let v := s.clu k
  let ws := s.slotWaiters k
  if ws.contains c ∧ mayGrant v.fetchTurns ws c = true ∧ v.fetch.length < s.f (pCLU k) F.CLU_PHASE_FETCH_MAX then
    forUp (fun q s => listIssue c q s) 4 0
      (s.setClu k { v with fetch := v.fetch ++ [c], fetchTurns := granted v.fetchTurns ws c })
  else s

/-! ## Meanings -/

/-- BLOCK_ENTRY_READ. -/
def execBlockEntryRead (c q : Nat) (errs : Errs) (s : State) : Host.Outcome State Fault Refusal :=
  whenOk (okCore c && below 4 q) s <|
  runErr errs (s.corePages c) s (blockEntryRead c (q % 4))
/-- TQ_REQUEST_ISSUE. -/
def execTqRequestIssue (c q : Nat) (s : State) : Host.Outcome State Fault Refusal :=
  whenOk (okCore c && below 4 q) s <|
  run (s.corePages c) s (tqIssue c (q % 4))
/-- TRANSFER_COMPLETE. -/
def execTransferComplete (c q id : Nat) (errs : Errs) (s : State) : Host.Outcome State Fault Refusal :=
  whenOk (okCore c && below 4 q) s <|
  runErr errs (s.corePages c) s (transferComplete c (q % 4) id)
/-- BUFFER_REQUEST. -/
def execBufferRequest (c : Nat) (r : Requester) (n : Nat) (s : State) : Host.Outcome State Fault Refusal :=
  whenOk (okCore c) s <|
  run (s.corePages c) s (bufferRequest c r n)
/-- BUFFER_RELEASE. -/
def execBufferRelease (c : Nat) (r : Requester) (n : Nat) (s : State) : Host.Outcome State Fault Refusal :=
  whenOk (okCore c) s <|
  run (s.corePages c) s (bufferRelease c r n)
/-- BUF_WAIT_EXPIRY. -/
def execBufWaitExpiry (c : Nat) (s : State) : Host.Outcome State Fault Refusal :=
  whenOk (okCore c) s <|
  run (s.corePages c) s (bufWaitExpiry c)
/-- FETCH_SLOT_GRANT. -/
def execFetchSlotGrant (k c : Nat) (s : State) : Host.Outcome State Fault Refusal :=
  whenOk (okCluster k && okCore c) s <|
  run (s.corePages c) s (fetchSlotGrant k c)

end Sys2Proof.Machine
end

