-- ==== Sys2Proof/Machine/Lpf.lean ====
section
/-! DEFINITION.  The layer prefetch unit and the weight ring (R241 to R250, R259, R750). -/

namespace Sys2Proof.Machine

/-! ## Weight regions (R241, R242) -/

/-- DOUBLE mode. -/
def State.dbl (s : State) (k : Nat) : Bool := s.f (pCLU k) F.CLU_WCFG_MODE == 0
/-- Bytes of one weight region. -/
def State.wregBytes (s : State) (k : Nat) : Nat := s.f (pCLU k) F.CLU_WCFG_WREG * 2 ^ 16
/-- Where the upper or the lower weight region starts. -/
def State.wregBase (s : State) (k : Nat) (high : Bool) : Nat :=
  if high || !s.dbl k then 2 ^ 23 - s.wregBytes k else 2 ^ 23 - 2 * s.wregBytes k
/-- Where CUR starts, and where a prefetch loads. -/
def State.curBase (s : State) (k : Nat) : Nat := s.wregBase k (!(s.clu k).nextHigh)
def State.loadBase (s : State) (k : Nat) : Nat := s.wregBase k (!s.dbl k || (s.clu k).nextHigh)

/-- Is the prefetch unit loading, or waiting under R247? -/
def State.lpfBusy (s : State) (k : Nat) : Bool := s.f (pCLU k) F.CLU_LPF_STS_BUSY == 1

/-- CLU_WCFG (R259, R750). -/
def wrWcfg (m k v : Nat) (s : State) : State :=
  let pg := pCLU k
  checkedWrite m pg R.CLU_WCFG v
    (fun _ => decide (1 ≤ bits v 22 16) && decide (bits v 22 16 ≤ 64) &&
      decide (bits v 7 0 ≤ (if bit v 31 then 128 else 64)))
    (fun s => v == s.w pg R.CLU_WCFG ||
      ((s.slotsOfClu k).all (fun c => s.phase c == 0) && !s.lpfBusy k && s.f pg F.CLU_LPF_STS_SWAP_PEND == 0))
    (fun s =>
      let chg := changes pg F.CLU_WCFG_MODE v s || changes pg F.CLU_WCFG_WREG v s
      let s := s.setW pg R.CLU_WCFG (merged pg R.CLU_WCFG v s)
      if chg then
        let s := s.setClu k { s.clu k with cur := none, next := none, nextHigh := false }
        let s := (s.setF pg F.CLU_LPF_STS_DONE 0).setF pg F.CLU_LPF_BYTES_BYTES 0
        s.setW64 pg R.CLU_LPF_SURPLUS_LO R.CLU_LPF_SURPLUS_HI 0
      else s) s

/-! ## Layer prefetch (R243 to R247) -/

/-- CLU_LPF_LIST: tier and address. -/
def State.lpfList (s : State) (k : Nat) : Nat × Nat :=
  (s.f (pCLU k) F.CLU_LPF_LIST_LO_TIER,
   s.f (pCLU k) F.CLU_LPF_LIST_LO_ADDR * 16 + s.f (pCLU k) F.CLU_LPF_LIST_HI_ADDR * 2 ^ 32)

/-- The code a GO is refused with, 0 if it is accepted. -/
def State.lpfGoCode (s : State) (k : Nat) : Nat :=
  let l := s.lpfList k
  match s.holderOf resClu k with
  | none => 0x02
  | some p => if s.lpfBusy k then 0x11 else if s.holds p l.1 l.2 16 then 0 else 0x02

/-- R246: the swap is due: an epoch has completed after the GO, and the prefetch is DONE. -/
def State.swapDue (s : State) (k : Nat) : Bool :=
  s.dbl k && (s.clu k).epochSeen && s.f (pCLU k) F.CLU_LPF_STS_SWAP_PEND == 1

/-- WEIGHT_SWAP (R246): CUR and NEXT swap once an epoch has completed after the GO and the prefetch is
DONE. -/
def weightSwap (k : Nat) (s : State) : State :=
  let v := s.clu k
  if s.swapDue k then
    (s.setF (pCLU k) F.CLU_LPF_STS_SWAP_PEND 0).setClu k
      { v with cur := v.next, next := none, nextHigh := !v.nextHigh, epochSeen := false }
  else s

/-- A prefetch of cluster `k` that starts now. -/
def State.lpfRun (s : State) (k : Nat) : LpfRun :=
  let l := s.lpfList k
  { tier := l.1, addr := l.2, iss := s.issue (pCLU k) }

/-- R243, R246, R247: an accepted GO; a swap that is due takes place first.  In SINGLE mode with a layer in CUR it
waits for the next epoch. -/
def lpfStart (k : Nat) (s : State) : State :=
  let pg := pCLU k
  let s := weightSwap k s
  let v := s.clu k
  let s := ((s.setF pg F.CLU_LPF_STS_BUSY 1).setF pg F.CLU_LPF_STS_DONE 0).setF pg F.CLU_LPF_STS_ERR 0
  let s := (s.setF pg F.CLU_LPF_STS_CODE 0).setF pg F.CLU_LPF_STS_SWAP_PEND 0
  let s := (s.setF pg F.CLU_LPF_BYTES_BYTES 0).setW64 pg R.CLU_LPF_SURPLUS_LO R.CLU_LPF_SURPLUS_HI 0
  let wait := !s.dbl k && v.cur.elim false (fun l => l.code == 0)
  s.setClu k { v with
    next := none, epochSeen := false, lpfWait := wait, lpf := if wait then none else some (s.lpfRun k)
    cur := if s.dbl k || wait then v.cur else none }

/-- LPF_GO: a write of CLU_LPF_CTL. -/
def wrLpfCtl (m k v : Nat) (s : State) : State :=
  let pg := pCLU k
  checkedWrite m pg R.CLU_LPF_CTL v (fun _ => decide (1 ≤ bits v 24 16) && decide (bits v 24 16 ≤ 256))
    (fun s => !bit v 0 || s.lpfGoCode k != 0x11)
    (fun s =>
      if bit v 0 && s.lpfGoCode k != 0 then refuse m pg R.CLU_LPF_CTL 0x02 s
      else
        let s := s.setF pg F.CLU_LPF_CTL_OUT_MAX (bits v 24 16)
        if bit v 0 then lpfStart k s else s) s

/-- LPF_LOAD_BEGIN (R247): a waiting prefetch begins to load once an epoch has completed after its GO. -/
def lpfLoadBegin (k : Nat) (s : State) : State :=
  let v := s.clu k
  if v.lpfWait && v.epochSeen then s.setClu k { v with lpfWait := false, lpf := some (s.lpfRun k), cur := none } else s

/-- How far the prefetch unit gets at once: it goes on, it has reached END, it must wait for a controller, or it
stops on a code, already logged or with the DETAIL to log. -/
inductive LpfOut
  | ok | end_ | wait
  | fail (code : Nat) (detail : Option Nat)
  deriving DecidableEq, Repr

/-- One request of the unit at its controller (R168, R173 to R175, R245): the bytes with their marks, none where it is
not granted. -/
def lpfRead (k p tier addr len since : Nat) (s : State) : Except LpfOut Marked × State :=
  let rmt := s.isRmtDie (k / 24) tier addr
  let code := s.accessCode p tier addr len
  if code = 0 && !s.turnAt tier addr len (reqClass false rmt) since then (.error .wait, s)
  else
    let x := memRead (pCLU k) (s.access p) tier addr len rmt s
    if x.1 = 0x12 then (.error .wait, s)
    else if x.1 ≠ 0 then (.error (.fail x.1 none), x.2.2)
    else (.ok (withSrc tier addr x.2.1), x.2.2)

/-- The unit's next entry is checked (R219, R220, R747): its list is read in M-aligned blocks. -/
def lpfEntry (k p : Nat) (r : LpfRun) (s : State) : LpfOut × LpfRun × State :=
  let base := blockOf r.tier r.addr
  match r.lbuf with
  | some b =>
    if b.tier = r.tier ∧ b.addr = base then
      let bs := (b.data.drop (r.addr - base)).take 16
      let e := entryOf (bs.map (·.1))
      let r := { r with count := r.count + 1 }
      if firstMark bs ≠ 0 then (.fail 0x06 (some (firstMark bs - 1)), r, s)
      else if e.bad false r.count (r.left == some 16) then (.fail 0x04 (some (memKey r.tier r.addr)), r, s)
      else if s.rangeCode e.tier e.addr e.len ≠ 0 then
        (.fail (s.rangeCode e.tier e.addr e.len) (some (memKey e.tier e.addr)), r, s)
      else if e.link then (.ok, { r with tier := e.tier, addr := e.addr, left := some e.len, lbuf := none }, s)
      else (.ok, { r with addr := r.addr + 16, left := r.left.map (· - 16), ent := some ⟨e.tier, e.addr, e.len, e.end_⟩ }, s)
    else (.ok, { r with lbuf := none }, s)
  | none =>
    match lpfRead k p r.tier base (tierM r.tier) r.iss.since s with
    | (.error o, s) => (o, r, s)
    | (.ok d, s) => (.ok, { r with lbuf := some { tier := r.tier, addr := base, data := d } }, s)

/-- R221, R244: the next block of the entry at hand is loaded, or what is left of it once the region is full is
surplus, which its holder is checked for all the same. -/
def lpfBlock (k p cap base : Nat) (e : LpfEnt) (r : LpfRun) (s : State) : LpfOut × LpfRun × State :=
  if e.len = 0 then (if e.last then .end_ else .ok, { r with ent := none }, s)
  else if cap ≤ r.pos then
    if s.holds p e.tier e.addr e.len && s.mayUse p then
      (.ok, { r with surplus := r.surplus + e.len, rest := r.rest ++ [(e.tier, e.addr, e.len)], ent := some { e with len := 0 } }, s)
    else (.fail 0x02 none, r, accessFail (pCLU k) p e.tier e.addr 0x02 s)
  else
    let n := min e.len (tierM e.tier - e.addr % tierM e.tier)
    let take := min n (cap - r.pos)
    match lpfRead k p e.tier e.addr take r.iss.since s with
    | (.error o, s) => (o, r, s)
    | (.ok d, s) =>
      (.ok, { r with pos := r.pos + take, ent := some { e with addr := e.addr + take, len := e.len - take } },
        perf (pCLU k) 0x40 take (cluWrite k (base + r.pos) d s))

/-- The prefetch goes on until it ends or must wait. -/
def lpfLoop (k p cap base : Nat) : Nat → LpfRun → State → LpfOut × LpfRun × State
  | 0, r, s => (.wait, r, s)
  | fuel + 1, r, s =>
    let x := match r.ent with
      | some e => lpfBlock k p cap base e r s
      | none => lpfEntry k p r s
    match x.1 with
    | .ok => lpfLoop k p cap base fuel x.2.1 x.2.2
    | _ => x

/-- R244, Table 06-5: the prefetch has stopped on a code. -/
def lpfFail (k code : Nat) (s : State) : State :=
  let pg := pCLU k
  let v := s.clu k
  let bytes := v.lpf.elim 0 (·.pos)
  let s := (s.setF pg F.CLU_LPF_STS_BUSY 0).setF pg F.CLU_LPF_BYTES_BYTES bytes
  let s := (s.setF pg F.CLU_LPF_STS_ERR 1).setF pg F.CLU_LPF_STS_CODE code
  let ly : Layer := { bytes := bytes, code := code }
  let v := { v with lpf := none, lpfWait := false }
  s.setClu k (if s.dbl k then { v with next := some ly } else { v with cur := some ly })

/-- R244, R246: the prefetch is DONE. -/
def lpfEnd (k : Nat) (r : LpfRun) (s : State) : State :=
  let pg := pCLU k
  let v := { s.clu k with lpf := none }
  let s := (s.setF pg F.CLU_LPF_STS_BUSY 0).setF pg F.CLU_LPF_BYTES_BYTES r.pos
  let s := (s.setF pg F.CLU_LPF_STS_DONE 1).setW64 pg R.CLU_LPF_SURPLUS_LO R.CLU_LPF_SURPLUS_HI (r.surplus % 2 ^ 64)
  let ly : Layer := { bytes := r.pos, rest := r.rest }
  if s.dbl k then (s.setF pg F.CLU_LPF_STS_SWAP_PEND 1).setClu k { v with next := some ly }
  else s.setClu k { v with cur := some ly }

/-- LPF_DONE (R244, Table 06-5): the prefetch has loaded its stream, or stopped on a fault; where a controller does
not take its next request yet, it keeps what it has done. -/
def lpfDone (k : Nat) (s : State) : State :=
  match s.holderOf resClu k, (s.clu k).lpf with
  | some p, some r =>
    let x := lpfLoop k p (s.wregBytes k) (s.loadBase k) (2 ^ 26) r s
    let s := x.2.2.setClu k { x.2.2.clu k with lpf := some { x.2.1 with iss := s.issue (pCLU k) } }
    match x.1 with
    | .end_ => lpfEnd k x.2.1 s
    | .fail code d => lpfFail k code (match d with | some d => logErr (pCLU k) code p d 0 s | none => s)
    | _ => s
  | _, _ => s

/-! ## The weight ring (R248 to R250) -/

/-- R248: bytes of a full shard of CUR. -/
def shardBytes (bytes nshard : Nat) : Nat := 64 * ceilDiv bytes (64 * nshard)

/-- Ring requests for the new layer wait (R246, R247, R750). -/
def State.ringWaits (s : State) (k : Nat) : Bool :=
  let v := s.clu k
  v.cur.isNone || (s.dbl k && v.epochSeen && (s.lpfBusy k || s.f (pCLU k) F.CLU_LPF_STS_SWAP_PEND == 1))

/-- Table 06-5: the code every ring request for a layer whose prefetch faulted faults with. -/
def State.ringCode (s : State) (k : Nat) : Nat :=
  let v := s.clu k
  let code (l : Option Layer) : Nat := l.elim 0 (·.code)
  if code v.cur ≠ 0 then code v.cur else if v.epochSeen then code v.next else 0

/-- The ring window of a core: base and bytes. -/
def State.ringWin (s : State) (c : Nat) : Nat × Nat :=
  (s.f (pCORE c) F.CORE_RWIN_BASE * 4096, s.f (pCORE c) F.CORE_RWIN_SIZE * 4096)

/-- R276: one core's copy of the passing shard. -/
def ringDeliver (d : Marked) (c : Nat) (s : State) : State :=
  let w := s.ringWin c
  if w.2 < d.length then seqFaultAt c ((s.core c).shard.elim 0 (·.pc)) 0x09 d.length s
  else
    let s := staticPut c w.1 d s
    leaveFetch c (s.setCore c { s.core c with shard := none })

/-- RING_SHARD_PASS: one whole pass of the shard that comes next, delivered to every core that waits for
it and holds a fetch slot.  The CLU page's EN and HOLD gate the ring's service (R745), and a fenced
cluster's ring takes no request (R666). -/
def ringPass (k : Nat) (s : State) : State :=
  let v := s.clu k
  let waiters := (s.slotsOfClu k).filter (fun c => (s.core c).shard.isSome && s.hasFetch c)
  if waiters.isEmpty || !s.takesWork (pCLU k) || s.fenced (pCLU k) then s
  else if s.ringCode k ≠ 0 then
    forEach (fun c s => coreFaultAt c ((s.core c).shard.elim 0 (·.pc)) (s.ringCode k) 0 0 none s) waiters s
  else if s.ringWaits k then s
  else
    let n := max 1 (s.f (pCLU k) F.CLU_WCFG_NSHARD)
    let sh := v.shard % n
    let bytes := match v.cur with | some l => l.bytes | none => 0
    let full := shardBytes bytes n
    let len := min full (bytes - sh * full)
    let d := s.cluRead k (s.curBase k + sh * full) len
    let s := perf (pCLU k) 0x41 1 (s.setClu k { v with shard := (sh + 1) % n })
    forEach (ringDeliver d) (waiters.filter (fun c => (s.core c).shard.elim false (fun r => r.shard == sh))) s

/-! ## Meanings -/

/-- LPF_GO: a write of CLU_LPF_CTL with GO 1. -/
def execLpfGo (m k outMax : Nat) (s : State) : Host.Outcome State Fault Refusal :=
  whenOk (okMaster m && okCluster k && below 512 outMax) s <|
  run [pCLU (k % 48)] s (wrLpfCtl m (k % 48) (1 + outMax % 512 * 2 ^ 16))
/-- LPF_LOAD_BEGIN. -/
def execLpfLoadBegin (k : Nat) (s : State) : Host.Outcome State Fault Refusal :=
  whenOk (okCluster k) s <| run [pCLU k] s (lpfLoadBegin k)
/-- LPF_DONE. -/
def execLpfDone (k : Nat) (errs : Errs) (s : State) : Host.Outcome State Fault Refusal :=
  whenOk (okCluster k) s <| runErr errs [pCLU k] s (lpfDone k)
/-- WEIGHT_SWAP. -/
def execWeightSwap (k : Nat) (s : State) : Host.Outcome State Fault Refusal :=
  whenOk (okCluster k) s <| run [pCLU k] s (weightSwap k)
/-- CLU_WCFG_WRITE. -/
def execCluWcfgWrite (m k v : Nat) (s : State) : Host.Outcome State Fault Refusal :=
  whenOk (okMaster m && okCluster k && okWord v) s <|
  run [pCLU (k % 48)] s (wrWcfg m (k % 48) (v % 2 ^ 32))
/-- RING_SHARD_PASS. -/
def execRingShardPass (k : Nat) (s : State) : Host.Outcome State Fault Refusal :=
  whenOk (okCluster k) s <|
  run (pCLU k :: (s.slotsOfClu k).flatMap (fun c => s.corePages c)) s (ringPass k)

end Sys2Proof.Machine
end

