-- ==== Sys2Proof/Machine/Seq.lean ====
section
/-! DEFINITION.  The sequencer: control, index and transfer instructions, program load and the run
limit (R280 to R292, R298 to R302).  Each command runs the instruction at the core's program counter
if it is the one named. -/

namespace Sys2Proof.Machine

/-! ## Fetching (R284, R290) -/

/-- The instruction word at the program counter. -/
def State.instr (s : State) (c : Nat) : Option Nat := SMap.get (s.core c).prog (s.core c).pc none

/-- Does the sequencer execute: running, not blocked in GET, and not carrying out a MOVE or RESHARD? -/
def State.seqRuns (s : State) (c : Nat) : Bool :=
  let k := s.core c
  k.running && !k.inGet && !s.fenced (pCORE c) &&
    !(match k.op with | some h => h.cls == cMOVE || h.cls == cRESHARD | none => false)

/-- Go on at a program counter (13 bits). -/
def setPc (c pc : Nat) (s : State) : State := s.setCore c { s.core c with pc := pc % 8192 }
/-- Go on at the next instruction. -/
def nextPc (c : Nat) (s : State) : State := setPc c ((s.core c).pc + 1) s

/-- Index registers. -/
def State.ireg (s : State) (c i : Nat) : Nat := SMap.get (s.core c).idx i 0
def setIreg (c i v : Nat) (s : State) : State :=
  s.setCore c { s.core c with idx := SMap.put (s.core c).idx i (v % 2 ^ 64) 0 }

/-- The instruction at the program counter, if its opcode is `op`: R295's rule on FUSE, the reserved
bits `res`, then its effect `k` on the word. -/
def instr (c op : Nat) (res : Nat) (k : Nat → State → State) (s : State) : State :=
  match s.instr c with
  | none => s
  | some w =>
    if !s.seqRuns c || bits w 63 58 != op then s
    else if (s.core c).fuse.isSome && op != 0x23 then seqFault c 0x0A (((s.core c).pc + 8191) % 8192) s
    else
      let s := if op = 0x22 ∨ op = 0x23 then s else s.setCore c { s.core c with drains := false }
      if Nat.land w res ≠ 0 then seqFault c 0x02 (bits w 63 32) s else k w s

/-- A mask of bits [hi:lo]. -/
abbrev mask (hi lo : Nat) : Nat := 2 ^ (hi + 1) - 2 ^ lo

/-- R287: the first instruction of a CHAIN that is not an index or control one waits for its hand-over
buffers. -/
def State.handWait (s : State) (c : Nat) : Bool :=
  match (s.core c).op with
  | some h => h.chain && !h.handOk
  | none => false

/-! ## Control instructions (Table 07-7) -/

/-- NOP. -/
def seqNop (c : Nat) (s : State) : State := instr c 0x00 (mask 57 0) (fun _ => nextPc c) s

/-- GET blocks until an operation is granted. -/
def seqGet (c : Nat) (s : State) : State :=
  instr c 0x01 (mask 57 0) (fun _ s =>
    if (s.core c).op.isSome then seqFault c 0x0C (s.core c).pc s
    else if (s.core c).busy then s
    else s.setCore c { s.core c with inGet := true }) s

/-- The operation leaves the core: windows, hand-over buffers and slots are released. -/
def endOp (c : Nat) (s : State) : State :=
  let k := s.core c
  leaveFetch c (poolReset c (s.setCore c { k with
    tqs := [], hand := [], handPois := [], op := none, bufWait := [], staged := 0, inbound := 0 }))

/-- PUT (R225, R288): waits for the operation's transfers, completes it and continues at NPC. -/
def seqPut (c : Nat) (s : State) : State :=
  instr c 0x02 (mask 57 13) (fun w s =>
    match (s.core c).op with
    | none => seqFault c 0x0C (s.core c).pc s
    | some h => if (s.core c).busy then s else setPc c (bits w 12 0) (endOp c (completed h.part h.slot s))) s

/-- JMP. -/
def seqJmp (c : Nat) (s : State) : State := instr c 0x03 (mask 57 13) (fun w => setPc c (bits w 12 0)) s

/-- LOOP. -/
def seqLoop (c : Nat) (s : State) : State :=
  instr c 0x04 (mask 53 13) (fun w s =>
    let i := bits w 57 54
    let v := (s.ireg c i + 2 ^ 64 - 1) % 2 ^ 64
    let s := setIreg c i v s
    if v ≠ 0 then setPc c (bits w 12 0) s else nextPc c s) s

/-- BR: COND 0 EQ, 1 NE, 2 LTU, 3 GEU. -/
def seqBr (c : Nat) (s : State) : State :=
  instr c 0x05 (mask 47 13) (fun w s =>
    let a := s.ireg c (bits w 57 54)
    let b := s.ireg c (bits w 53 50)
    let take := match bits w 49 48 with
      | 0 => a == b
      | 1 => a != b
      | 2 => decide (a < b)
      | _ => decide (b ≤ a)
    if take then setPc c (bits w 12 0) s else nextPc c s) s

/-- STAGE (R253): ends a CHAIN stage and releases the windows whose KEEP bit is 0. -/
def seqStage (c : Nat) (s : State) : State :=
  instr c 0x06 (mask 57 3) (fun w s =>
    match (s.core c).op with
    | none => seqFault c 0x0C (s.core c).pc s
    | some h =>
      if !h.chain || decide (3 ≤ h.stage) then seqFault c 0x0C (s.core c).pc s
      else if (List.range 3).any (fun q => !bit w q && !(s.tq c q).items.isEmpty) then s
      else
        let s := forUp (fun q s => if bit w q then s else releaseWin c q s) 3 0 s
        nextPc c (s.setCore c { s.core c with op := some { h with stage := h.stage + 1 } })) s

/-- Opcodes of Table 07-7. -/
def opListed (o : Nat) : Bool :=
  decide (o ≤ 0x0D) || (decide (0x10 ≤ o) && decide (o ≤ 0x12)) || (decide (0x20 ≤ o) && decide (o ≤ 0x23))

/-- TRAP (R298), and the faults of an instruction that is none: a reserved opcode, or an entry that
was not loaded. -/
def seqTrap (c : Nat) (s : State) : State :=
  if !s.seqRuns c then s
  else match s.instr c with
    | none => seqFault c 0x03 (s.core c).pc s
    | some w =>
      if !opListed (bits w 63 58) then
        (if (s.core c).fuse.isSome then seqFault c 0x0A (((s.core c).pc + 8191) % 8192) s else seqFault c 0x01 (bits w 63 32) s)
      else instr c 0x07 (mask 57 16) (fun w => seqFault c 0x10 (bits w 15 0)) s

/-! ## Index instructions -/

/-- SETI. -/
def seqSeti (c : Nat) (s : State) : State :=
  instr c 0x08 (mask 53 48) (fun w s => nextPc c (setIreg c (bits w 57 54) (bits w 47 0) s)) s

/-- ADDI. -/
def seqAddi (c : Nat) (s : State) : State :=
  instr c 0x09 (mask 49 32) (fun w s =>
    nextPc c (setIreg c (bits w 57 54) (uns 64 (s.ireg c (bits w 53 50) + sgn 32 (bits w 31 0))) s)) s

/-- ADD. -/
def seqAdd (c : Nat) (s : State) : State :=
  instr c 0x0A (mask 45 0) (fun w s =>
    nextPc c (setIreg c (bits w 57 54) (s.ireg c (bits w 53 50) + s.ireg c (bits w 49 46)) s)) s

/-- MULI. -/
def seqMuli (c : Nat) (s : State) : State :=
  instr c 0x0B (mask 49 32) (fun w s =>
    nextPc c (setIreg c (bits w 57 54) (s.ireg c (bits w 53 50) * bits w 31 0) s)) s

/-- The WSA of LD and ST: (Ib + SIMM)[23:0]. -/
def State.ldAddr (s : State) (c w : Nat) : Nat := uns 24 (s.ireg c (bits w 53 50) + sgn 24 (bits w 23 0))

/-- R644, R661: an uncorrectable SRAM error of the block of a page, in the work of an owner. -/
def sramUe (pg own : Nat) (s : State) : State :=
  let s := hist 7 0 0 pg own (s.addF pRAS F.RAS_CNT_SRAM_UE_CNT 1)
  match pageInfo pg with
  | some (.core, c) => { s with ras := { s.ras with sramUe := SMap.put s.ras.sramUe c (SMap.get s.ras.sramUe c 0 + 1) 0 } }
  | _ => s

/-- R644, R645, Table 18-1: what SECDED finds in an on-die store an operation reads: a corrected error
is counted; an uncorrectable one faults the operation (`none`: it reads on). -/
def sramEcc (c : Nat) (ecc : Ecc) (s : State) : State × Bool :=
  match ecc with
  | .clean => (s, false)
  | .ce => (hist 6 0 0 (pCORE c) (s.corePart c) (s.addF pRAS F.RAS_CNT_SRAM_CE_CNT 1), false)
  | _ => (coreFaultLog c 0x07 0 none (sramUe (pCORE c) (s.corePart c) s), true)

/-- LD (R286): waits for compute and transfers, then loads 8 B. -/
def seqLd (c : Nat) (ecc : Ecc) (s : State) : State :=
  instr c 0x0C (mask 49 24) (fun w s =>
    let a := s.ldAddr c w
    if (s.core c).busy then s
    else if a % 8 ≠ 0 then seqFault c 0x07 a s
    else match s.wsRead c a 8 with
      | .error (sub, aux) => seqFault c sub aux s
      | .ok d =>
        let x := sramEcc c ecc s
        if x.2 then x.1
        else if firstMark d ≠ 0 then poisonFault c (firstMark d) x.1
        else nextPc c (setIreg c (bits w 57 54) (leNat (d.map (·.1))) x.1)) s

/-- ST (R286): stores 8 B in the static region or hand-over space. -/
def seqSt (c : Nat) (s : State) : State :=
  instr c 0x0D (mask 49 24) (fun w s =>
    let a := s.ldAddr c w
    if (s.core c).busy then s
    else if a % 8 ≠ 0 then seqFault c 0x07 a s
    else match wsWrite c a (unmarked (leBytes 8 (s.ireg c (bits w 57 54)))) s with
      | .error (sub, aux) => seqFault c sub aux s
      | .ok s => nextPc c s) s

/-! ## Transfer instructions -/

/-- R272: a STRM or GATH on a read queue first releases a window that a compute instruction has used. -/
def freshWin (c q : Nat) (s : State) : State :=
  if q < 3 ∧ (s.tq c q).relPend then releaseWin c q s else s

/-- STRM (R291). -/
def seqStrm (c : Nat) (s : State) : State :=
  instr c 0x10 (mask 51 0) (fun w s =>
    let q := bits w 57 56
    let p := s.ireg c (bits w 55 52)
    let tier := bits p 49 48
    if s.handWait c then s
    else if bits p 63 50 ≠ 0 ∨ p % 16 ≠ 0 then seqFault c 0x0D (bits p 63 32) s
    else
      let it : TqItem := .stream (tier == 0) tier (if tier = 0 then bits p 23 0 else bits p 47 0) (s.core c).pc
      nextPc c (addItem c q it (freshWin c q s))) s

/-- WLOAD (R249, R276): asks the ring for a shard. -/
def seqWload (c : Nat) (s : State) : State :=
  instr c 0x11 (mask 53 0) (fun w s =>
    let k := (s.cluOf c).getD 0
    let sh := s.ireg c (bits w 57 54) % 64
    if s.handWait c || (s.core c).shard.isSome then s
    else if s.f (pCLU k) F.CLU_WCFG_NSHARD ≤ sh then seqFault c 0x06 (bits w 63 32) s
    else if s.ringCode k ≠ 0 then coreFault c (s.ringCode k) 0 0 none s
    else nextPc c (s.setCore c { s.core c with shard := some { shard := sh, pc := (s.core c).pc, since := s.coreNow c } })) s

/-- GATH (R345, R292): queues the command block for the gather engine, which holds up to 4 behind the
one it works on. -/
def seqGath (c : Nat) (s : State) : State :=
  instr c 0x12 (mask 51 0) (fun w s =>
    let q := bits w 57 56
    let a := s.ireg c (bits w 55 52) % 2 ^ 24
    let g := (s.core c).gth
    if s.handWait c || decide (4 ≤ g.waiting.length) then s
    else if q = 3 then seqFault c 0x06 (bits w 63 32) s
    else
      let s := addItem c q (.gath a (s.core c).pc) (freshWin c q s)
      let k := s.core c
      nextPc c (s.setCore c { k with gth := { k.gth with waiting := k.gth.waiting ++ [(q, a)] } })) s

/-! ## Program load (R280, R281), faults and the run limit -/

/-- CORE_PLD_SRC: tier and address. -/
def State.pldSrc (s : State) (c : Nat) : Nat × Nat :=
  (s.f (pCORE c) F.CORE_PLD_SRC_LO_TIER,
   s.f (pCORE c) F.CORE_PLD_SRC_LO_ADDR * 8 + s.f (pCORE c) F.CORE_PLD_SRC_HI_ADDR * 2 ^ 32)

/-- CORE_PLD_CTL. -/
def wrPldCtl (m c v : Nat) (s : State) : State :=
  let pg := pCORE c
  let n := bits v 29 16
  let d := bits v 12 0
  checkedWrite m pg R.CORE_PLD_CTL v
    (fun _ => decide (1 ≤ n) && decide (n ≤ 8192) && decide (d + n ≤ 8192))
    (fun s => !bit v 31 || (s.f pg F.PG_CTL_EN == 0 && s.f pg F.CORE_PLD_STS_BUSY == 0))
    (fun s =>
      let src := s.pldSrc c
      let own := (s.assignee pg).getD oTormal
      if bit v 31 && !s.holds own src.1 src.2 (8 * n) then refuse m pg R.CORE_PLD_CTL 0x02 s
      else
        let s := (s.setF pg F.CORE_PLD_CTL_COUNT n).setF pg F.CORE_PLD_CTL_DEST d
        if bit v 31 then
          let s := s.setW pg R.CORE_PLD_STS (2 ^ 31)
          let x : Pld := { iss := s.issue pg, slot := s.slotFor own, own := own, tier := src.1, addr := src.2, count := n, dest := d }
          s.setCore c { s.core c with pld := some x }
        else s) s

/-- The copy has failed with a code. -/
def pldFail (c code : Nat) (s : State) : State :=
  (s.setW (pCORE c) R.CORE_PLD_STS (2 ^ 29 + code)).setCore c { s.core c with pld := none }

/-- PROGRAM_LOAD_DONE: the copy ends; it takes what GO named. -/
def pldDone (c : Nat) (s : State) : State :=
  let pg := pCORE c
  match (s.core c).pld with
  | none => s
  | some x =>
    let r := bulkRead pg (c / 256) ⟨x.own, x.slot⟩ x.tier x.addr (8 * x.count) s
    if r.1 = 0x12 then r.2.2
    else if r.1 ≠ 0 then pldFail c r.1 r.2.2
    else if anyMark r.2.1 then pldFail c 0x06 (logErr pg 0x06 x.own (firstMark (withSrc x.tier x.addr r.2.1) - 1) 0 r.2.2)
    else
      let k := r.2.2.core c
      let bs := dataOf r.2.1
      let prog := (List.range x.count).foldl (fun m i => SMap.put m (x.dest + i) (some (fieldOf bs (8 * i) 8)) none) k.prog
      (r.2.2.setW pg R.CORE_PLD_STS (2 ^ 30)).setCore c { k with prog := prog, pld := none }

/-- CORE_FLT (R300): writing 1 to VALID clears it and restarts a stopped core. -/
def wrCoreFlt (m c v : Nat) (s : State) : State :=
  let pg := pCORE c
  checkedWrite m pg R.CORE_FLT v (fun _ => true) (fun _ => true)
    (fun s =>
      if bit v 31 then
        let s := s.setF pg F.CORE_FLT_VALID 0
        let k := s.core c
        if k.stopped then
          s.setCore c { k with stopped := false, running := s.f pg F.PG_CTL_EN == 1, pc := s.f pg F.CORE_BOOT_PC }
        else s
      else s) s

/-- CORE_RUNLIM_EXPIRY (R302). -/
def runlimExpiry (c : Nat) (s : State) : State :=
  let lim := s.f (pCORE c) F.CORE_RUNLIM_US
  match (s.core c).op with
  | none => s
  | some h => if lim ≠ 0 ∧ h.since + lim * 1000 ≤ s.coreNow c then seqFault c 0x0F lim s else s

/-! ## Meanings -/

/-- NOP. -/
def execNop (c : Nat) (s : State) : Host.Outcome State Fault Refusal :=
  whenOk (okCore c) s <| run (s.corePages c) s (seqNop c)
/-- GET. -/
def execGet (c : Nat) (s : State) : Host.Outcome State Fault Refusal :=
  whenOk (okCore c) s <| run (s.corePages c) s (seqGet c)
/-- PUT. -/
def execPut (c : Nat) (errs : Errs) (s : State) : Host.Outcome State Fault Refusal :=
  whenOk (okCore c) s <|
  runErr errs (s.corePages c) s (seqPut c)
/-- JMP. -/
def execJmp (c : Nat) (s : State) : Host.Outcome State Fault Refusal :=
  whenOk (okCore c) s <| run (s.corePages c) s (seqJmp c)
/-- LOOP. -/
def execLoop (c : Nat) (s : State) : Host.Outcome State Fault Refusal :=
  whenOk (okCore c) s <| run (s.corePages c) s (seqLoop c)
/-- BR. -/
def execBr (c : Nat) (s : State) : Host.Outcome State Fault Refusal :=
  whenOk (okCore c) s <| run (s.corePages c) s (seqBr c)
/-- STAGE. -/
def execStage (c : Nat) (s : State) : Host.Outcome State Fault Refusal :=
  whenOk (okCore c) s <| run (s.corePages c) s (seqStage c)
/-- TRAP. -/
def execTrap (c : Nat) (s : State) : Host.Outcome State Fault Refusal :=
  whenOk (okCore c) s <| run (s.corePages c) s (seqTrap c)
/-- SETI. -/
def execSeti (c : Nat) (s : State) : Host.Outcome State Fault Refusal :=
  whenOk (okCore c) s <| run (s.corePages c) s (seqSeti c)
/-- ADDI. -/
def execAddi (c : Nat) (s : State) : Host.Outcome State Fault Refusal :=
  whenOk (okCore c) s <| run (s.corePages c) s (seqAddi c)
/-- ADD. -/
def execAdd (c : Nat) (s : State) : Host.Outcome State Fault Refusal :=
  whenOk (okCore c) s <| run (s.corePages c) s (seqAdd c)
/-- MULI. -/
def execMuli (c : Nat) (s : State) : Host.Outcome State Fault Refusal :=
  whenOk (okCore c) s <| run (s.corePages c) s (seqMuli c)
/-- LD. -/
def execLd (c : Nat) (ecc : Ecc) (s : State) : Host.Outcome State Fault Refusal :=
  whenOk (okCore c) s <| run (s.corePages c) s (seqLd c ecc)
/-- ST. -/
def execSt (c : Nat) (s : State) : Host.Outcome State Fault Refusal :=
  whenOk (okCore c) s <| run (s.corePages c) s (seqSt c)
/-- STRM. -/
def execStrm (c : Nat) (s : State) : Host.Outcome State Fault Refusal :=
  whenOk (okCore c) s <| run (s.corePages c) s (seqStrm c)
/-- WLOAD. -/
def execWload (c : Nat) (s : State) : Host.Outcome State Fault Refusal :=
  whenOk (okCore c) s <| run (s.corePages c) s (seqWload c)
/-- GATH. -/
def execGath (c : Nat) (s : State) : Host.Outcome State Fault Refusal :=
  whenOk (okCore c) s <| run (s.corePages c) s (seqGath c)
/-- PROGRAM_LOAD: a write of CORE_PLD_CTL with GO 1. -/
def execProgramLoad (m c dest count : Nat) (s : State) : Host.Outcome State Fault Refusal :=
  whenOk (okMaster m && okCore c && below 8192 dest && below (2 ^ 16) count) s <|
  run (s.corePages c) s (wrPldCtl m c (2 ^ 31 + count % 2 ^ 14 * 2 ^ 16 + dest % 8192))
/-- PROGRAM_LOAD_DONE. -/
def execProgramLoadDone (c : Nat) (errs : Errs) (s : State) : Host.Outcome State Fault Refusal :=
  whenOk (okCore c) s <| runErr errs (s.corePages c) s (pldDone c)
/-- CORE_FLT_CLEAR: a write of CORE_FLT with VALID 1. -/
def execCoreFltClear (m c : Nat) (s : State) : Host.Outcome State Fault Refusal :=
  whenOk (okMaster m && okCore c) s <|
  run (s.corePages c) s (wrCoreFlt m c (2 ^ 31))
/-- CORE_RUNLIM_EXPIRY. -/
def execCoreRunlimExpiry (c : Nat) (s : State) : Host.Outcome State Fault Refusal :=
  whenOk (okCore c) s <| run (s.corePages c) s (runlimExpiry c)

end Sys2Proof.Machine
end

