-- ==== Sys2Proof/Machine/Accum.lean ====
section
/-! DEFINITION.  The cell array and the tally store: MACT, VACC, FUSE and DRAIN (R267 to R279, R293 to
R297, R305 to R342). -/

namespace Sys2Proof.Machine

/-! ## Shapes and formats (Table 07-4, Table 07-5) -/

/-- G, R and C of a tile shape. -/
def shapeG : Nat → Nat | 0 => 1 | 1 => 2 | 2 => 4 | _ => 16
def shapeR : Nat → Nat | 0 => 32 | 1 => 16 | 2 => 16 | _ => 8
def shapeC : Nat → Nat | 0 => 32 | 1 => 32 | 2 => 16 | _ => 8

/-- Lanes per cell of an input format. -/
def lanesOf : Nat → Nat | 0 => 16 | 1 => 8 | 2 => 8 | 3 => 8 | _ => 2

/-- Bytes of `n` elements of an input or output format (codes of Table 07-11). -/
def elemBytes (fmt n : Nat) : Nat :=
  match fmt with
  | 0 => n / 2 | 1 => n | 2 => n | 3 => n | 4 => 2 * n | 5 => 2 * n | _ => 4 * n

/-- Is the format an integer one (FMT 0 and 1)? -/
def fmtInt (fmt : Nat) : Bool := decide (fmt < 2)

/-- Element `i` of an operand, as its bit pattern. -/
def rawElem (fmt : Nat) (d : List Byte) (i : Nat) : Nat :=
  match fmt with
  | 0 => let b := (d.getD (i / 2) 0).toNat; if i % 2 = 0 then b % 16 else b / 16
  | 1 => (d.getD i 0).toNat
  | 2 => (d.getD i 0).toNat
  | 3 => (d.getD i 0).toNat
  | 6 => fieldOf d (4 * i) 4
  | 7 => fieldOf d (4 * i) 4
  | _ => fieldOf d (2 * i) 2

/-- The binary format of a code of Table 07-4 (FMT 2 to 5) or Table 07-11 (6). -/
def fpOf : Nat → FpFmt
  | 2 => .e4m3 | 3 => .e5m2 | 4 => .bf16 | 5 => .fp16 | _ => .fp32

/-- FP32 bits of a BF16, FP16 or FP32 pattern, exactly: the sign of a zero is kept, a NaN is the
canonical one. -/
def toF32 (f : FpFmt) (w : Nat) : Nat :=
  if w % f.signBit = 0 then (if bit w (f.ebits + f.mbits) then 0x80000000 else 0) else FpFmt.fp32.round (f.value w)

/-- The place of element i of row r, group g, k-block j in an A or B operand of `rows` rows (R270). -/
def panelIdx (groups rows lanes j g r i : Nat) : Nat := ((j * groups + g) * rows + r) * lanes + i

/-! ## The stochastic-rounding generator (R320 to R326) -/

/-- sr_next. -/
def srNext (x : Nat) : Nat :=
  let x := Nat.xor x (x * 2 ^ 13 % 2 ^ 32)
  let x := Nat.xor x (x / 2 ^ 17)
  Nat.xor x (x * 2 ^ 5 % 2 ^ 32)

/-- sr_seed. -/
def srSeed (pseed opid tile : Nat) : Nat :=
  mix64 (Nat.xor (mix64 (Nat.xor (mix64 (Nat.xor pseed 0x5A3C9E170B4D62F1)) opid)) tile)

/-- sr_init of output element `c`. -/
def srInit (seed c : Nat) : Nat :=
  let x := mix64 ((seed + c) % 2 ^ 64) % 2 ^ 32
  if x ≠ 0 then x else 1

/-- rnd32: to nearest even without a generator, else stochastic with one draw (R319, R325). -/
def rnd32 (g : Option Nat) (v : Fv) : Nat × Option Nat :=
  match g with
  | none => (FpFmt.fp32.round v, none)
  | some x => let x := srNext x; (roundSr v x, some x)

/-! ## Floating-point accumulation (R315 to R319) -/

/-- A running value with the cell's generator. -/
abbrev Run := Nat × Option Nat

/-- A rounding of running sums: FP32 by rnd32, or FP20 to nearest even. -/
def rndSum (narrow : Bool) (g : Option Nat) (v : Fv) : Run :=
  if narrow then (FpFmt.fp20.round v, g) else rnd32 g v

/-- The format of running sums. -/
def sumFmt (narrow : Bool) : FpFmt := if narrow then .fp20 else .fp32

/-- The exact sum of a k-block's products (R312). -/
def exactSum (ps : List Fv) : Fv := ps.foldl Fv.add (.fin 0 0)

/-- SEQ: products added one at a time (R317). -/
def addSeq (narrow : Bool) (ps : List Fv) (r : Run) : Run :=
  ps.foldl (fun r p => rndSum narrow r.2 (Fv.add ((sumFmt narrow).value r.1) p)) r

/-- P of a shape (Table 08-3). -/
def treeP : Nat → Nat | 0 => 4 | 1 => 4 | 2 => 2 | _ => 1

/-- TREE: a k-block joins sum j mod P (R316). -/
def addTree (narrow : Bool) (p j : Nat) (ps : List Fv) (x : List Nat × Option Nat) : List Nat × Option Nat :=
  let r := rndSum narrow x.2 (Fv.add ((sumFmt narrow).value (x.1.getD (j % p) 0)) (exactSum ps))
  (setAt x.1 (j % p) r.1, r.2)

/-- The combination of the running sums (Table 08-3). -/
def combine (narrow : Bool) (shape : Nat) (x : List Nat × Option Nat) : Run :=
  let add (a b : Nat) (g : Option Nat) : Run :=
    rndSum narrow g (Fv.add ((sumFmt narrow).value a) ((sumFmt narrow).value b))
  let a (i : Nat) : Nat := x.1.getD i 0
  match shape with
  | 0 => let u := add (a 0) (a 1) x.2; let v := add (a 2) (a 3) u.2; add u.1 v.1 v.2
  | 1 => let u := add (a 0) (a 2) x.2; let v := add (a 1) (a 3) u.2; add u.1 v.1 v.2
  | 2 => add (a 0) (a 1) x.2
  | _ => (a 0, x.2)

/-- The TREE sum of k-blocks j0 to j0 + n − 1. -/
def treeSum (narrow : Bool) (shape : Nat) (p : Nat → List Fv) (j0 n : Nat) (g : Option Nat) : Run :=
  combine narrow shape (forUp (fun j => addTree narrow (treeP shape) j (p j)) n j0 ([0, 0, 0, 0], g))

/-- The SEQ sum of k-blocks j0 to j0 + n − 1 added to a running value. -/
def seqSum (narrow : Bool) (p : Nat → List Fv) (j0 n : Nat) (r : Run) : Run :=
  forUp (fun j => addSeq narrow (p j)) n j0 r

/-- NARROW: promotions from k-block j0 on, `fuel` of them; `v` is none while the value is empty. -/
def narrowSum (seq : Bool) (shape per kb : Nat) (p : Nat → List Fv) : Nat → Nat → Option Nat → Option Nat → Run
  | 0, _, v, g => (v.getD 0, g)
  | fuel + 1, j0, v, g =>
    let n := min per (kb - j0)
    let t := if seq then seqSum true p j0 n (0, g) else treeSum true shape p j0 n g
    let t32 := FpFmt.fp20.value t.1
    let r := match v with
      | none => (FpFmt.fp32.round t32, t.2)
      | some o => rnd32 t.2 (Fv.add (FpFmt.fp32.value o) t32)
    narrowSum seq shape per kb p fuel (j0 + n) (some r.1) r.2

/-- mact_float of R319: `f` is the SEQ rate factor of R293, `p` the exact products of each k-block. -/
def mactFloat (narrow seq acc : Bool) (shape f kb old : Nat) (p : Nat → List Fv) (g : Option Nat) : Nat :=
  if narrow then
    let per := if seq then 4 / f else 4
    (narrowSum seq shape per kb p (ceilDiv kb per) 0 (if acc then some old else none) g).1
  else if seq then (seqSum false p 0 kb (if acc then old else 0, g)).1
  else
    let t := treeSum false shape p 0 kb g
    if acc then (rnd32 t.2 (Fv.add (FpFmt.fp32.value old) (FpFmt.fp32.value t.1))).1 else t.1

/-! ## Integer accumulation (R318, R329) -/

/-- The inner loop of mact_int: each check adds `per` events and may clamp. -/
def mactIntLoop (clamp : Bool) (per kb : Nat) (ev : Nat → Int) : Nat → Nat → Int × Bool → Int × Bool
  | 0, _, r => r
  | fuel + 1, j0, r =>
    let n := min per (kb - j0)
    let v := r.1 + (List.range n).foldl (fun a i => a + ev (j0 + i)) 0
    let sat := decide (v > 2147483647) || decide (v < -2147483648)
    mactIntLoop clamp per kb ev fuel (j0 + n)
      (if sat && clamp then (if v > 0 then 2147483647 else -2147483648) else v, r.2 || sat)

/-- mact_int of R329: one cell, one attempt with exponent `e`; `ev e j` is the exact sum of k-block j. -/
def mactInt (narrow acc : Bool) (kb : Nat) (old : Int) (eOld e : Nat) (ev : Nat → Nat → Int) : Int × Bool :=
  let per := if narrow then 512 else 1
  mactIntLoop (e == 3) per kb (ev e) (ceilDiv kb per) 0 (if acc then old / 2 ^ (e - eOld) else 0, false)

/-- One attempt over every cell: the values in element order, and whether any cell saturated. -/
def intAttempt (narrow acc : Bool) (kb : Nat) (old : Nat → Int) (eOld e : Nat) (ev : Nat → Nat → Nat → Int) :
    List Int × Bool :=
  let r := (List.range 1024).map (fun c => mactInt narrow acc kb (old c) eOld e (ev c))
  (r.map (·.1), r.any (·.2))

/-- R330: attempts from exponent `e` on: the values, the exponent reached, whether it saturated, and
how many attempts ran. -/
def intAttempts (narrow acc : Bool) (kb : Nat) (old : Nat → Int) (eOld : Nat) (ev : Nat → Nat → Nat → Int) :
    Nat → Nat → Nat → List Int × Nat × Bool × Nat
  | 0, e, n => ([], e, false, n)
  | fuel + 1, e, n =>
    let r := intAttempt narrow acc kb old eOld e ev
    if r.2 && decide (e < 3) then intAttempts narrow acc kb old eOld ev fuel (e + 1) (n + 1)
    else (r.1, e, r.2, n + 1)

/-! ## Tally slots (Table 08-2) -/

def State.tslot (s : State) (c n : Nat) : Slot := SMap.get (s.core c).tally n {}
def State.setTslot (s : State) (c n : Nat) (v : Slot) : State :=
  s.setCore c { s.core c with tally := SMap.put (s.core c).tally n v {} }
/-- Element `i` of a slot: an empty slot reads as zeros (R277). -/
def Slot.el (v : Slot) (i : Nat) : Nat := SMap.get v.elems i 0

/-- Elements from position `o` on, stored. -/
def putElems (m : SMap Nat) : Nat → List Nat → SMap Nat
  | _, [] => m
  | o, x :: xs => putElems (SMap.put m o x 0) (o + 1) xs

/-- Table 08-5: the K limit of a format; none for the integer ones. -/
def kLimit (fmt : Nat) : Option Nat :=
  if fmt = 2 ∨ fmt = 3 then some (2 ^ 20) else if fmt = 4 ∨ fmt = 5 then some (2 ^ 22) else none

/-- The smaller of two limits. -/
def minLimit : Option Nat → Option Nat → Option Nat
  | none, b => b
  | some a, none => some a
  | some a, some b => some (min a b)

/-- R336: K compared with KLIMIT after an instruction that wrote the slot. -/
def klimCheck (c n : Nat) (s : State) : State :=
  let v := s.tslot c n
  if v.klim || !(v.klimit.elim false (fun l => decide (l < v.k))) then s
  else
    let s := perf (pCORE c) 0x35 1 (s.setTslot c n { v with klim := true })
    match (s.core c).op with
    | some h =>
      if h.klimSeen then s
      else logInfo (pCORE c) 0x0A (s.corePart c) v.tile n (s.setCore c { s.core c with op := some { h with klimSeen := true } })
    | none => s

/-- R230, R272: a compute instruction issues only when no transfer of the core is in flight; the read
windows it finds are released by their next stream.  R287: a CHAIN's first waits for its buffers. -/
def compute (c : Nat) (k : State → State) (s : State) : State :=
  if s.handWait c || (s.core c).busy then s else k (compMark c s)

/-! ## MACT -/

/-- R293: the rate factor. -/
def rateOf (seq : Bool) (fmt : Nat) : Nat := if !seq || fmtInt fmt then 1 else if 4 ≤ fmt then 2 else 4

/-- R306, Table 07-12: an invalid combination of MACT fields. -/
def mactBad (fmt kb : Nat) (narrow sr : Bool) : Bool :=
  (sr && fmtInt fmt) || (narrow && fmt == 1) || kb == 0 || decide (2 ^ 24 < kb)

/-- The value cell `i` gets from a floating-point MACT (R319). -/
def cellFloat (w kb old : Nat) (a b : List Byte) (seed i : Nat) : Nat :=
  let shape := bits w 57 56; let fmt := bits w 55 53
  let g := shapeG shape; let r := shapeR shape; let cc := shapeC shape; let l := lanesOf fmt
  let gi := i / (r * cc); let ri := i / cc % r; let ci := i % cc
  let bsh := bit w 49
  let f := fpOf fmt
  let p (j : Nat) : List Fv := (List.range l).map fun x =>
    Fv.mul (f.value (rawElem fmt a (panelIdx g r l j gi ri x)))
      (f.value (rawElem fmt b (if bsh then panelIdx 1 cc l j 0 ci x else panelIdx g cc l j gi ci x)))
  mactFloat (bit w 51) (bit w 52) (bit w 50) shape (rateOf (bit w 52) fmt) kb old p
    (if bit w 48 then some (srInit seed i) else none)

/-- The exact sum of event j in cell `i` of an integer MACT with exponent `e` (R329). -/
def cellEvent (w : Nat) (a b : List Byte) (i e j : Nat) : Int :=
  let shape := bits w 57 56; let fmt := bits w 55 53
  let g := shapeG shape; let r := shapeR shape; let cc := shapeC shape; let l := lanesOf fmt
  let gi := i / (r * cc); let ri := i / cc % r; let ci := i % cc
  let wd := if fmt = 0 then 4 else 8
  (List.range l).foldl (fun acc x =>
    let av := sgn wd (rawElem fmt a (panelIdx g r l j gi ri x))
    let bv := sgn wd (rawElem fmt b (if bit w 49 then panelIdx 1 cc l j 0 ci x else panelIdx g cc l j gi ci x))
    acc + av / 2 ^ e * bv) 0

/-- The tile goes from the shadow set to its slot (R278, R308, R335). -/
def writeTile (c w kb tile : Nat) (vals : List Nat) (e : Nat) (sat : Bool) (s : State) : State :=
  let n := bits w 47 41; let fmt := bits w 55 53; let acc := bit w 50
  let v := s.tslot c n
  let k := s.core c
  let shadow := putElems [] 0 vals
  let s := s.setCore c (if k.nextB then { k with shadowB := shadow, nextB := false } else { k with shadowA := shadow, nextB := true })
  let add := if fmtInt fmt then 0 else kb * lanesOf fmt
  klimCheck c n (s.setTslot c n {
    elems := shadow, cls := some (fmtInt fmt), shape := bits w 57 56, e := e
    k := (if acc then v.k else 0) + add
    klimit := if acc then minLimit v.klimit (kLimit fmt) else kLimit fmt
    sat := sat || (acc && v.sat), klim := acc && v.klim, tile := tile, fmt := fmt
    order := bits w 52 52, width := bits w 51 51, sr := bits w 48 48 })

/-- The cell array runs a MACT on its operands (R311, R319, R330 to R332). -/
def mactRun (c w kb tile : Nat) (a b : List Byte) (s : State) : State :=
  let pg := pCORE c
  let n := bits w 47 41; let fmt := bits w 55 53; let seq := bit w 52; let acc := bit w 50
  let v := s.tslot c n
  let ev := kb * rateOf seq fmt
  if fmtInt fmt then
    let e0 := if acc then v.e else 0
    let r := intAttempts (bit w 51) acc kb (fun i => sgn 32 (v.el i)) v.e (cellEvent w a b) (4 - e0) e0 0
    let s := perf pg 0x33 (r.2.2.2 - 1) (perf pg 0x30 (ev * r.2.2.2) s)
    let s := writeTile c w kb tile (r.1.map (uns 32)) r.2.1 r.2.2.1 s
    if r.2.2.1 then logErr pg 0x09 (s.corePart c) tile n (perf pg 0x34 1 s) else s
  else
    let p := s.corePart c
    let opid := match (s.core c).op with | some h => h.opid | none => 0
    let seed := srSeed (s.w64 pPRT (R.PRT_P_SEED_LO + 8 * p) (R.PRT_P_SEED_HI + 8 * p)) opid tile
    writeTile c w kb tile ((List.range 1024).map (fun i => cellFloat w kb (v.el i) a b seed i)) 0 false (perf pg 0x30 ev s)

/-- MACT (Table 07-8). -/
def seqMact (c : Nat) (ecc : Ecc) (s : State) : State :=
  instr c 0x20 (mask 24 0) (fun w s =>
    let shape := bits w 57 56; let fmt := bits w 55 53; let n := bits w 47 41
    let kb := s.ireg c (bits w 32 29)
    let v := s.tslot c n
    let l := lanesOf fmt
    let bad06 := seqFault c 0x06 (bits w 63 32)
    if 6 ≤ fmt then seqFault c 0x02 (bits w 63 32) s
    else if mactBad fmt kb (bit w 51) (bit w 48) then bad06 s
    else compute c (fun s =>
      if bit w 50 ∧ v.cls ≠ none ∧ (v.cls ≠ some (fmtInt fmt) ∨ v.shape ≠ shape) then bad06 s
      else
        let na := elemBytes fmt (kb * shapeG shape * shapeR shape * l)
        let nb := elemBytes fmt (kb * (if bit w 49 then 1 else shapeG shape) * shapeC shape * l)
        match s.wsRead c (s.ireg c (bits w 40 37) % 2 ^ 24) na, s.wsRead c (s.ireg c (bits w 36 33) % 2 ^ 24) nb with
        | .error (sub, aux), _ => seqFault c sub aux s
        | _, .error (sub, aux) => seqFault c sub aux s
        | .ok a, .ok b =>
          let x := sramEcc c ecc s
          if x.2 then x.1
          else if firstMark (a ++ b) ≠ 0 then poisonFault c (firstMark (a ++ b)) x.1
          else nextPc c (mactRun c w kb (s.ireg c (bits w 28 25) % 2 ^ 32) (a.map (·.1)) (b.map (·.1)) x.1)) s) s

/-! ## VACC -/

/-- One combination of VACC (R294): a slot element with a source element's pattern. -/
def vaccStep (fmt op m raw : Nat) : Nat :=
  if fmt = 1 then
    let x := sgn 8 raw
    match op with
    | 0 => uns 32 (sgn 32 m + x)
    | 1 => uns 32 (max (sgn 32 m) x)
    | _ => uns 32 (min (sgn 32 m) x)
  else
    let x := toF32 (fpOf fmt) raw
    match op with
    | 0 => addF32 m x
    | 1 => FpFmt.fp32.maxMin true m x
    | _ => FpFmt.fp32.maxMin false m x

/-- The identity of OP in a class. -/
def vaccId (fmt op : Nat) : Nat :=
  match op with
  | 0 => 0
  | 1 => if fmt = 1 then 2 ^ 31 else 0xFF800000
  | _ => if fmt = 1 then 2 ^ 31 - 1 else 0x7F800000

/-- The slot after VACC on its source bytes. -/
def vaccSlot (v : Slot) (fmt op n o wd : Nat) (acc : Bool) (d : List Byte) : Slot :=
  let el (i : Nat) : Nat :=
    (List.range n).foldl (fun m r => vaccStep fmt op m (rawElem fmt d (r * wd + i)))
      (if acc then v.el (o + i) else vaccId fmt op)
  let add := if fmt = 1 then 0 else n
  { v with
    elems := putElems v.elems o ((List.range wd).map el), cls := some (fmt == 1)
    shape := if acc then v.shape else 0, e := if acc then v.e else 0
    k := (if acc then v.k else 0) + add
    klimit := if acc then minLimit v.klimit (kLimit fmt) else kLimit fmt
    sat := acc && v.sat, klim := acc && v.klim
    fmt := fmt, tile := 0, order := 0, width := 0, sr := 0 }

/-- VACC (Table 07-9, R294, R310). -/
def seqVacc (c : Nat) (ecc : Ecc) (s : State) : State :=
  instr c 0x21 (mask 21 0) (fun w s =>
    let fmt := bits w 57 55; let op := bits w 54 53; let acc := bit w 52; let sl := bits w 51 45
    let n := s.ireg c (bits w 40 37); let o := s.ireg c (bits w 36 33); let wd := bits w 32 22
    let v := s.tslot c sl
    let bad06 := seqFault c 0x06 (bits w 63 32)
    if !(fmt == 1 || fmt == 4 || fmt == 5) || op == 3 then seqFault c 0x02 (bits w 63 32) s
    else if wd = 0 ∨ 1024 < o + wd ∨ n = 0 ∨ 2 ^ 20 < n then bad06 s
    else compute c (fun s =>
      if acc ∧ v.cls ≠ none ∧ (v.cls ≠ some (fmt == 1) ∨ v.e ≠ 0) then bad06 s
      else match s.wsRead c (s.ireg c (bits w 44 41) % 2 ^ 24) (elemBytes fmt (n * wd)) with
        | .error (sub, aux) => seqFault c sub aux s
        | .ok d =>
          let x := sramEcc c ecc s
          if x.2 then x.1
          else if firstMark d ≠ 0 then poisonFault c (firstMark d) x.1
          else
            let s := perf (pCORE c) 0x30 (ceilDiv (n * wd) (1024 * lanesOf fmt)) x.1
            nextPc c (klimCheck c sl (s.setTslot c sl (vaccSlot v fmt op n o wd acc (d.map (·.1)))))) s) s

/-! ## FUSE and DRAIN -/

/-- FUSE (Table 07-10): names the second tensor for the next DRAIN. -/
def seqFuse (c : Nat) (s : State) : State :=
  instr c 0x22 (mask 50 0) (fun w s =>
    if bits w 56 55 = 3 then seqFault c 0x02 (bits w 63 32) s
    else compute c (fun s =>
      nextPc c (s.setCore c { s.core c with fuse := some ⟨bits w 57 57, bits w 56 55, s.ireg c (bits w 54 51) % 2 ^ 24⟩ })) s) s

/-- Table 08-6, step 4 on the FP path. -/
def actFp (act x : Nat) : Nat :=
  if (FpFmt.fp32.value x).isNan || !bit x 31 then x
  else match act with
    | 1 => 0
    | 2 => if x % 2 ^ 31 = 0 then x else mulF32 x 0x3D800000
    | _ => x

/-- Table 08-6, step 4 on the INT path. -/
def actInt (act : Nat) (x : Int) : Int :=
  match act with
  | 1 => max x 0
  | 2 => if x < 0 then x / 16 else x
  | _ => x

/-- The signed bits of an integer output format: INT4, INT8, INT32. -/
def intBits (ofmt : Nat) : Nat := if ofmt = 0 then 4 else if ofmt = 1 then 8 else 32

/-- Saturation to an integer output format: the value and whether it saturated. -/
def satInt (ofmt : Nat) (x : Int) : Int × Bool :=
  let hi : Int := 2 ^ (intBits ofmt - 1) - 1
  let lo : Int := -(2 ^ (intBits ofmt - 1))
  if x > hi then (hi, true) else if x < lo then (lo, true) else (x, false)

/-- Table 08-7: the output pattern of FP32 bits, and OSAT. -/
def quant (ofmt x : Nat) : Nat × Bool :=
  let v := FpFmt.fp32.value x
  if ofmt = 0 ∨ ofmt = 1 ∨ ofmt = 7 then
    match v with
    | .nan => (0, false)
    | .inf neg => (uns (intBits ofmt) (if neg then -(2 ^ (intBits ofmt - 1)) else 2 ^ (intBits ofmt - 1) - 1), true)
    | .fin m e => let r := satInt ofmt (rneInt m e); (uns (intBits ofmt) r.1, r.2)
  else if ofmt = 2 then
    (roundE4m3 v, match v with
      | .nan => false
      | .inf _ => true
      | .fin m e => m != 0 && decide (0x7E < FpFmt.e4m3.code m.natAbs e))
  else
    let f := fpOf ofmt
    let q := f.round v
    (q, match v with
      | .fin _ _ => q % f.signBit == f.infCode
      | _ => false)

/-- Is the slot drained on the FP path (R338)? -/
def drainFp (v : Slot) (scl fused : Bool) (ofmt : Nat) : Bool :=
  v.cls == some false || scl || fused || (decide (2 ≤ ofmt) && decide (ofmt ≤ 6))

/-- FFMT as a code of Table 07-11. -/
def ffmtCode (ff : Nat) : Nat := 4 + ff

/-- Element `i` of the output before quantisation on the FP path, as FP32 bits (Table 08-6). -/
def drainFpElem (v : Slot) (act i : Nat) (scale : Option (List Byte)) (fz : Option (FuseSpec × List Byte)) : Nat :=
  let cc := shapeC v.shape; let rc := shapeR v.shape * cc
  let x := if v.cls = some false then v.el i else FpFmt.fp32.round (.fin (sgn 32 (v.el i)) v.e)
  let x := match scale with
    | none => x
    | some d => mulF32 x (fieldOf d (4 * (i / rc * cc + i % cc)) 4)
  let x := match fz with
    | none => x
    | some (f, d) =>
      let y := toF32 (fpOf (ffmtCode f.fmt)) (rawElem (ffmtCode f.fmt) d i)
      if f.op = 0 then addF32 x y else mulF32 x y
  actFp act x

/-- Every output pattern in element order, with OSAT. -/
def drainElems (v : Slot) (ofmt act : Nat) (scale : Option (List Byte)) (fz : Option (FuseSpec × List Byte)) : List (Nat × Bool) :=
  (List.range 1024).map fun i =>
    if drainFp v scale.isSome fz.isSome ofmt then quant ofmt (drainFpElem v act i scale fz)
    else
      let r := satInt ofmt (actInt act (sgn 32 (v.el i)))
      (uns (intBits ofmt) r.1, r.2)

/-- Patterns packed as output bytes (R296). -/
def packOut (ofmt : Nat) : List Nat → List Byte
  | [] => []
  | x :: xs =>
    if ofmt = 0 then
      match xs with
      | [] => leBytes 1 x
      | y :: ys => leBytes 1 (x + 16 * y) ++ packOut ofmt ys
    else leBytes (elemBytes ofmt 1) x ++ packOut ofmt xs

/-- The output tile header (Table 08-8). -/
def tileHeader (v : Slot) (opid n w : Nat) (fz : Option FuseSpec) (outs : List (Nat × Bool)) : List Byte :=
  let ofmt := bits w 50 48
  let f := fpOf ofmt
  let isF := decide (2 ≤ ofmt) && decide (ofmt ≤ 6)
  let anyNan := isF && outs.any (fun o => (f.value o.1).isNan)
  let anyInf := isF && outs.any (fun o => match f.value o.1 with | .inf _ => true | _ => false)
  let b12 := v.shape + v.fmt * 4 + v.order * 32 + v.width * 64 + v.sr * 128
  let b13 := v.e + b2n v.sat * 4 + b2n v.klim * 8 + b2n anyNan * 16 + b2n anyInf * 32
    + b2n (outs.any (·.2)) * 64 + b2n (v.cls == some true) * 128
  let b14 := ofmt + bits w 47 46 * 8 + bits w 44 44 * 32 + b2n fz.isSome * 64 + (fz.elim 0 (·.op)) * 128
  if v.cls = none then leBytes 8 opid ++ leBytes 5 0 ++ leBytes 1 0x80 ++ leBytes 1 b14 ++ leBytes 1 n
  else leBytes 8 opid ++ leBytes 4 v.tile ++ leBytes 1 b12 ++ leBytes 1 b13 ++ leBytes 1 b14 ++ leBytes 1 n

/-- R274: a DRAIN into the write window after a write stream starts a new window; the buffers of the
previous one, whose writes have all been acknowledged (R230), go back. -/
def freshWriteWin (c : Nat) (s : State) : State :=
  let t := s.tq c 3
  if t.strm then
    poolGive c t.pages.length (s.setTq c 3 { t with strm := false, win := [], pois := [], written := [], bufs := t.bufs - t.pages.length, pages := [], need := 0 })
  else s

/-- R274: the 4 KiB pages of the write window that a write touches and that hold no buffer yet. -/
def newPages (t : Tq) (ofs n : Nat) : List Nat :=
  ((List.range ((ofs + n - 1) / 4096 + 1 - ofs / 4096)).map (· + ofs / 4096)).filter (fun x => !t.pages.contains x)

/-- Where a DRAIN of `n` bytes stores into the write window: the window has a buffer for each page it touches first
(R274); without, it asks the pool for those it lacks, and the instruction waits. -/
def drainRoom (c wsa n : Nat) (s : State) : Bool × State :=
  match s.regionOf c wsa with
  | .win q ofs =>
    if q = 3 ∧ ofs + n ≤ 2 ^ 20 then
      let s := freshWriteWin c s
      let t := s.tq c 3
      let want := t.pages.length + (newPages t ofs n).length
      if want ≤ t.bufs then (true, s) else (false, s.setTq c 3 { t with need := want - t.bufs })
    else (true, s)
  | _ => (true, s)

/-- Output bytes stored at a WSA, and the instruction after. -/
def drainStore (c wsa : Nat) (d : List Byte) (k : State → State) (s : State) : State :=
  match s.regionOf c wsa with
  | .win q ofs =>
    if q ≠ 3 then seqFault c 0x04 wsa s
    else if 2 ^ 20 < ofs + d.length then seqFault c 0x05 wsa s
    else
      let t := s.tq c 3
      k (s.setTq c 3 { t with
        win := putDieBytes t.win ofs d, pois := putDieMarks t.pois ofs (unmarked d)
        written := t.written ++ [(ofs, d.length)], pages := t.pages ++ newPages t ofs d.length })
  | _ =>
    match wsWrite c wsa (unmarked d) s with
    | .error (sub, aux) => seqFault c sub aux s
    | .ok s => k s

/-- An operand that an instruction may have: read if it is asked for. -/
def State.optRead (s : State) (c : Nat) (want : Bool) (wsa n : Nat) : Except (Nat × Nat) Marked :=
  if want then s.wsRead c wsa n else .ok []

/-- DRAIN (Table 07-11, R296, R338 to R342). -/
def seqDrain (c : Nat) (ecc : Ecc) (s : State) : State :=
  instr c 0x23 (mask 35 0) (fun w s =>
    let sl := bits w 57 51; let ofmt := bits w 50 48; let act := bits w 47 46
    let k := s.core c
    let v := s.tslot c sl
    let ns := 4 * shapeG v.shape * shapeC v.shape
    let nf := k.fuse.elim 0 (fun f => elemBytes (ffmtCode f.fmt) 1024)
    if act = 3 then seqFault c 0x02 (bits w 63 32) s
    else compute c (fun s =>
      match s.optRead c (bit w 44) (s.ireg c (bits w 39 36) % 2 ^ 24) ns, s.optRead c k.fuse.isSome (k.fuse.elim 0 (·.wsa)) nf with
      | .error (sub, aux), _ => seqFault c sub aux s
      | _, .error (sub, aux) => seqFault c sub aux s
      | .ok a, .ok b =>
        let wsa := s.ireg c (bits w 43 40) % 2 ^ 24
        let y := drainRoom c wsa (16 * bits w 45 45 + elemBytes ofmt (1024)) s
        if y.1 = false then y.2
        else
        let x := sramEcc c ecc y.2
        if x.2 then x.1
        else if firstMark (a ++ b) ≠ 0 then poisonFault c (firstMark (a ++ b)) x.1
        else
          let outs := drainElems v ofmt act (if bit w 44 then some (a.map (·.1)) else none)
            (k.fuse.map (fun f => (f, b.map (·.1))))
          let hdr := if bit w 45 then tileHeader v (k.op.elim 0 (·.opid)) sl w k.fuse outs else []
          drainStore c wsa (hdr ++ packOut ofmt (outs.map (·.1)))
            (fun s =>
              let s := if k.drains then s else perf (pCORE c) 0x30 1 s
              nextPc c (s.setCore c { s.core c with fuse := none, drains := !k.drains })) x.1) s) s

/-! ## Meanings -/

/-- MACT. -/
def execMact (c : Nat) (ecc : Ecc) (s : State) : Host.Outcome State Fault Refusal :=
  whenOk (okCore c) s <| run (s.corePages c) s (seqMact c ecc)
/-- VACC. -/
def execVacc (c : Nat) (ecc : Ecc) (s : State) : Host.Outcome State Fault Refusal :=
  whenOk (okCore c) s <| run (s.corePages c) s (seqVacc c ecc)
/-- FUSE. -/
def execFuse (c : Nat) (s : State) : Host.Outcome State Fault Refusal :=
  whenOk (okCore c) s <| run (s.corePages c) s (seqFuse c)
/-- DRAIN. -/
def execDrain (c : Nat) (ecc : Ecc) (s : State) : Host.Outcome State Fault Refusal :=
  whenOk (okCore c) s <| run (s.corePages c) s (seqDrain c ecc)

end Sys2Proof.Machine
end

