-- ==== Sys2Proof/Machine/Bridge.lean ====
section
/-! DEFINITION.  The die bridge and the BRG pages (R19 to R31). -/

namespace Sys2Proof.Machine

/-- The 40-bit module mask of a page's two registers. -/
def State.mask40 (s : State) (die lo hi : Nat) : Nat := s.w (pBRG die) lo + s.w (pBRG die) hi % 256 * 2 ^ 32

/-- The modules enabled in a BRG page. -/
def State.modEn (s : State) (die : Nat) : Nat := s.mask40 die R.BRG_MOD_EN_LO R.BRG_MOD_EN_HI

/-- R29: is the module up: enabled in both pages, and trained? -/
def State.modUp (s : State) (m : Nat) : Bool :=
  bit (s.modEn 0) m && bit (s.modEn 1) m && bit s.bridge.trained m

/-- The modules that are up, ascending. -/
def State.upMods (s : State) : List Nat := (List.range 40).filter (fun m => s.modUp m)

/-- The status fields of one BRG page: modules up, their count and their lowest rate. -/
def bridgeStatusOn (up : List Nat) (rate : Nat) (die : Nat) (s : State) : State :=
  let mask := up.foldl (fun a m => a + 2 ^ m) 0
  let s := (s.setW (pBRG die) R.BRG_MOD_UP_LO (mask % 2 ^ 32)).setW (pBRG die) R.BRG_MOD_UP_HI (mask / 2 ^ 32)
  ((s.setF (pBRG die) F.BRG_STS_MOD_CNT up.length).setF (pBRG die) F.BRG_STS_RATE rate).setF
    (pBRG die) F.BRG_STS_UP (b2n (!up.isEmpty))

/-- BRG_STS, BRG_MOD_UP_LO and BRG_MOD_UP_HI of both pages follow the modules that are up. -/
def bridgeStatus (s : State) : State :=
  let up := s.upMods
  let rate := up.foldl (fun a m => max a (SMap.get s.bridge.rates m 0)) 0
  bridgeStatusOn up rate 1 (bridgeStatusOn up rate 0 s)

/-- Traffic in flight on module `m` goes on over module `o`, if there is one. -/
def moveTo (m : Nat) (o : Option Nat) (s : State) : State :=
  match o with
  | none => s
  | some n => { s with bridge := { s.bridge with
      inFlight := s.bridge.inFlight.map (fun x => if x.mod = m then { x with mod := n } else x) } }

/-- R24, R30: the transfers a module carries move to the first module that is up (DESIGN CHOICE, log entry 76: the
spec does not say which of them takes a module's transfers). -/
def moveTraffic (m : Nat) (s : State) : State := moveTo m (s.upMods.find? (· != m)) s

/-- R25: the device fails when no module is left up of those that were. -/
def failIfNone (had : Bool) (s : State) : State :=
  if had && s.upMods.isEmpty then declareFailed s else s

/-- The next module of a retraining starts to train: its traffic moves to another module that is up first, and
while there is none it stays up and waits, so that traffic continues (R30).  A module that is not up has none
to move. -/
def startRetrain (s : State) : State :=
  match s.bridge.retrain with
  | [] => s
  | m :: _ =>
    if s.modUp m && !s.upMods.any (· != m) then s
    else
      let s := moveTraffic m s
      bridgeStatus { s with bridge := { s.bridge with trained := setBits s.bridge.trained m m 0 } }

/-- The modules enabled in both pages, ascending. -/
def State.enMods (s : State) : List Nat := (List.range 40).filter (fun m => bit (s.modEn 0) m && bit (s.modEn 1) m)

/-- R30: the enabled modules are retrained one at a time, in ascending order, the one already in training first. -/
def retrainAll (s : State) : State :=
  let cur := s.bridge.retrain.head?.toList.filter (fun m => !s.modUp m)
  startRetrain { s with bridge := { s.bridge with retrain := cur ++ s.enMods.filter (fun m => !cur.contains m) } }

/-- A write to BRG_CTL: MAX_RATE is range-checked, and RETRAIN or a changed rate retrains (R30). -/
def wrBrgCtl (m die v : Nat) (s : State) : State :=
  checkedWrite m (pBRG die) R.BRG_CTL v (fun _ => bits v 2 1 != 3) (fun _ => true)
    (fun s =>
      let chg := changes (pBRG die) F.BRG_CTL_MAX_RATE v s
      let s := s.setF (pBRG die) F.BRG_CTL_MAX_RATE (bits v 2 1)
      if bit v 0 || chg then retrainAll s else s) s

/-- A write to BRG_MOD_EN_LO or BRG_MOD_EN_HI: refused when it would leave no module enabled in the
page (R31); otherwise the modules it disables drain first (R30), and leave the retraining in progress, which goes on
with the next.  A module disabled keeps its training, and is up again once it is enabled (DESIGN CHOICE, log entry
76). -/
def wrBrgModEn (m die : Nat) (hi : Bool) (v : Nat) (s : State) : State :=
  let ofs := if hi then R.BRG_MOD_EN_HI else R.BRG_MOD_EN_LO
  let other := if hi then R.BRG_MOD_EN_LO else R.BRG_MOD_EN_HI
  checkedWrite m (pBRG die) ofs v (fun s => v != 0 || s.w (pBRG die) other != 0) (fun _ => true)
    (fun s =>
      let before := s.upMods
      let s := s.setW (pBRG die) ofs v
      let s := forEach (fun n s => if s.modUp n then s else moveTraffic n s) before s
      let s := { s with bridge := { s.bridge with retrain := s.bridge.retrain.filter (fun n => s.enMods.contains n) } }
      failIfNone (!before.isEmpty) (startRetrain (bridgeStatus s))) s

/-- BRG_RETRAIN: a write of BRG_CTL with RETRAIN 1. -/
def execBrgRetrain (m die rate : Nat) (s : State) : Host.Outcome State Fault Refusal :=
  whenOk (okMaster m && okDie die && below 4 rate) s <|
  run [] s (wrBrgCtl m (die % 2) (1 + 2 * (rate % 4)))

/-- BRG_MAX_RATE_WRITE: a write of BRG_CTL.MAX_RATE. -/
def execBrgMaxRateWrite (m die rate : Nat) (s : State) : Host.Outcome State Fault Refusal :=
  whenOk (okMaster m && okDie die && below 4 rate) s <|
  run [] s (wrBrgCtl m (die % 2) (2 * (rate % 4)))

/-- BRG_MOD_EN_WRITE. -/
def execBrgModEnWrite (m die : Nat) (hi : Bool) (v : Nat) (s : State) : Host.Outcome State Fault Refusal :=
  whenOk (okMaster m && okDie die && okWord v) s <|
  run [] s (wrBrgModEn m (die % 2) hi (v % 2 ^ 32))

/-- Response credits of a direction that completions still to cross hold (R21). -/
def State.bridgeOwed (s : State) (die : Nat) : Nat := (s.bridge.owed.filter (fun x => x.1 == die)).length

/-- Credits of a class in use in a direction (R20). -/
def State.bridgeUsed (s : State) (die cls : Nat) : Nat := SMap.get s.bridge.used (die * 3 + cls) 0

/-- Is a response credit of a direction free: neither in use nor reserved (R20, R21)? -/
def State.respFree (s : State) (die : Nat) : Bool := decide (s.bridgeUsed die 0 + s.bridgeOwed die < s.bridge.limit)

/-- May a transfer cross (R20, R21)?  A response takes the credit its request reserved, if one did, and a free
one otherwise; a request needs a free response credit of the other direction besides its own. -/
def State.bridgeCredit (s : State) (die cls src dst : Nat) : Bool :=
  match cls with
  | 0 => s.bridge.owed.contains (die, src, dst) || s.respFree die
  | 1 => decide (s.bridgeUsed die 1 < s.bridge.limit)
  | _ => decide (s.bridgeUsed die 2 < s.bridge.limit) && s.respFree (1 - die)

/-- A transfer of a class is accepted on a module that is up (R20 to R22): it takes a credit of its class, a
request reserves response credit for its completion, and a completion uses the reservation of its request.  Page
BRG's EN and HOLD gate it (R95). -/
def bridgeAccept (die cls src dst mod : Nat) (dep : Option (Nat × Nat)) (s : State) : State :=
  let key := die * 3 + cls
  if s.modUp mod && decide (cls ≤ 2) && s.takesWork (pBRG die) && s.bridgeCredit die cls src dst then
    { s with bridge := { s.bridge with
        inFlight := s.bridge.inFlight ++ [{ id := s.bridge.nextId, cls := cls, src := src, dst := dst, die := die,
                                            mod := mod, dep := dep, iss := s.issue (pBRG die) }]
        used := SMap.put s.bridge.used key (SMap.get s.bridge.used key 0 + 1) 0
        owed := if cls = 0 then s.bridge.owed.erase (die, src, dst)
                else if cls = 2 then s.bridge.owed ++ [(1 - die, dst, src)] else s.bridge.owed
        nextId := s.bridge.nextId + 1 } }
  else s

/-- A transfer leaves the bridge, and its credit returns. -/
def bridgeLeave (x : BridgeXfer) (s : State) : State :=
  let key := x.die * 3 + x.cls
  { s with bridge := { s.bridge with
      inFlight := s.bridge.inFlight.filter (fun y => y.id != x.id)
      used := SMap.put s.bridge.used key (SMap.get s.bridge.used key 0 - 1) 0 } }

/-- The oldest accepted transfer of a class, source and destination is delivered and acknowledged (R22). -/
def bridgeAck (die cls src dst : Nat) (s : State) : State :=
  match s.bridge.inFlight.find? (fun x => x.die == die && x.cls == cls && x.src == src && x.dst == dst) with
  | none => s
  | some x =>
    let s := bridgeLeave x s
    { s with bridge := { s.bridge with
        delivered := SMap.put s.bridge.delivered die (SMap.get s.bridge.delivered die 0 + 1) 0 } }

/-- BRIDGE_TRANSFER (R20 to R22): a transfer is accepted, or with `ack` acknowledged. -/
def bridgeTransfer (die cls src dst mod : Nat) (dep : Option (Nat × Nat)) (ack : Bool) (s : State) : State :=
  if ack then bridgeAck die cls src dst s else bridgeAccept die cls src dst mod dep s

/-- BRIDGE_TRANSFER. -/
def execBridgeTransfer (die cls src dst mod : Nat) (dep : Option (Nat × Nat)) (ack : Bool) (s : State) :
    Host.Outcome State Fault Refusal :=
  whenOk (okDie die && below 3 cls && okPage src && okPage dst && okModule mod && okDep dep) s <|
  run [] s (bridgeTransfer (die % 2) cls src dst mod dep ack)

/-- BRIDGE_REPLAY (R24): the module resends its unacknowledged transfers; the replay is counted. -/
def execBridgeReplay (die mod : Nat) (s : State) : Host.Outcome State Fault Refusal :=
  whenOk (okDie die && okModule mod) s <|
  run [] s fun s => if s.modUp mod then s.addF (pBRG (die % 2)) F.BRG_REPLAY_CNT_CNT 1 else s

/-- 0x0C is logged in both BRG pages (R24). -/
def bridgeLog (s : State) : State :=
  logErr (pBRG 1) 0x0C (s.defSubj (pBRG 1)) 0 0 (logErr (pBRG 0) 0x0C (s.defSubj (pBRG 0)) 0 0 s)

/-- R24, R25: a module is taken down and its transfers move; with none left the device fails. -/
def moduleDown (mod : Nat) (s : State) : State :=
  if s.modUp mod then
    let s := moveTraffic mod s
    let s := bridgeStatus { s with bridge := { s.bridge with
      trained := setBits s.bridge.trained mod mod 0, retrain := s.bridge.retrain.filter (· != mod) } }
    let s := (s.addF (pBRG 0) F.BRG_REPAIR_DOWN_CNT 1).addF (pBRG 1) F.BRG_REPAIR_DOWN_CNT 1
    failIfNone true (startRetrain (bridgeLog s))
  else s

/-- BRIDGE_MODULE_DOWN. -/
def execBridgeModuleDown (mod : Nat) (s : State) : Host.Outcome State Fault Refusal :=
  whenOk (okModule mod) s <|
  run [] s (moduleDown mod)

/-- The near channels' and stacks' pages. -/
def memPages : List Nat := (List.range 128).map (pgOf .nsc) ++ (List.range 8).map (pgOf .msc)

/-- Has the channel calibrated, or the stack trained? -/
def State.memOk (s : State) (pg : Nat) : Bool :=
  if pg < pgOf .msc 0 then s.f pg F.NSC_STS_CAL_OK == 1 else s.f pg F.MSC_STS_TRAINED == 1

/-- R709, step 7 is done once every channel and stack is in service or fenced (R710). -/
def memBooted (s : State) : State :=
  if s.f pMGT F.MGT_STS_STAGE = 7 ∧ memPages.all (fun pg => s.memOk pg || s.fenced pg) = true then
    s.setF pMGT F.MGT_STS_STAGE 8
  else s

/-- R709, step 6: once a module is up during boot, Tormal sets EN of both BRG pages, and the memories
follow.  After a warm reset they are trained already (R704). -/
def bridgeBooted (s : State) : State :=
  if s.f pMGT F.MGT_STS_STAGE = 6 ∧ s.upMods ≠ [] then
    let s := ((s.setF (pBRG 0) F.PG_CTL_EN 1).setF (pBRG 1) F.PG_CTL_EN 1).setF pMGT F.MGT_STS_STAGE 7
    memBooted (forEach (fun pg s => if s.memOk pg then s.setF pg F.PG_CTL_EN 1 else s) memPages s)
  else s

/-- R29, Table 01-2: a module that is not trained completes training at a rate no higher than MAX_RATE of both
pages; the next one of a retraining follows.  The spec does not say whether a module that is not enabled trains, nor
whether one taken down under R24 trains again without a retraining or a reset: the model lets both train (DESIGN
CHOICE, log entry 76); neither is up before it is enabled in both pages. -/
def moduleTrained (mod rate : Nat) (s : State) : State :=
  if mod < 40 ∧ rate ≤ 2 ∧ bit s.bridge.trained mod = false ∧
     s.f (pBRG 0) F.BRG_CTL_MAX_RATE ≤ rate ∧ s.f (pBRG 1) F.BRG_CTL_MAX_RATE ≤ rate then
    bridgeBooted (startRetrain (bridgeStatus { s with bridge := { s.bridge with
      trained := setBits s.bridge.trained mod mod 1
      rates := SMap.put s.bridge.rates mod rate 0
      retrain := s.bridge.retrain.filter (· != mod) } }))
  else s

/-- R25, R710: with no module up the device has failed, unless the boot still waits for one that can train. -/
def untrainedFails (s : State) : Bool :=
  s.upMods.isEmpty && (decide (6 < s.f pMGT F.MGT_STS_STAGE) || s.enMods.all (fun m => bit s.bridge.failed m))

/-- A module fails to train at every rate. -/
def moduleUntrained (mod : Nat) (s : State) : State :=
  if mod < 40 ∧ bit s.bridge.trained mod = false then
    let s := startRetrain { s with bridge := { s.bridge with
      failed := setBits s.bridge.failed mod mod 1, retrain := s.bridge.retrain.filter (· != mod) } }
    if untrainedFails s then declareFailed (bridgeLog s) else s
  else s

/-- BRIDGE_MODULE_TRAINED: a module completes training at a rate, or (`none`) fails to train. -/
def execBridgeModuleTrained (mod : Nat) (rate : Option Nat) (s : State) : Host.Outcome State Fault Refusal :=
  whenOk (okModule mod) s <|
  run [] s fun s => match rate with
    | some r => moduleTrained mod r s
    | none => moduleUntrained mod s

/-- BRIDGE_LANE_REPAIR (R19, Table 01-2): a redundant lane takes a failing lane's place.  The spec gives no number
of redundant lanes: any number of a module's lanes can be repaired, whether it is up or not (DESIGN CHOICE, log
entry 76). -/
def execBridgeLaneRepair (die mod : Nat) (s : State) : Host.Outcome State Fault Refusal :=
  whenOk (okDie die && okModule mod) s <|
  run [] s fun s => if mod < 40 then s.addF (pBRG (die % 2)) F.BRG_REPAIR_LANE_CNT 1 else s

end Sys2Proof.Machine
end

