-- ==== Sys2Proof/Machine/Aead.lean ====
section
/-! DEFINITION.  AES-256 in Galois/Counter Mode, by which images are sealed (R533, R534).  The spec names it; the
cipher itself is taken from FIPS 197 and NIST SP 800-38D (PRESUMED, log entry 85). -/

namespace Sys2Proof.Machine

/-! ## AES-256 -/

/-- The substitution table, a row of 16 bytes to a number, the first byte most significant. -/
def sboxRows : List Nat :=
  [0x637c777bf26b6fc53001672bfed7ab76, 0xca82c97dfa5947f0add4a2af9ca472c0,
   0xb7fd9326363ff7cc34a5e5f171d83115, 0x04c723c31896059a071280e2eb27b275,
   0x09832c1a1b6e5aa0523bd6b329e32f84, 0x53d100ed20fcb15b6acbbe394a4c58cf,
   0xd0efaafb434d338545f9027f503c9fa8, 0x51a3408f929d38f5bcb6da2110fff3d2,
   0xcd0c13ec5f974417c4a77e3d645d1973, 0x60814fdc222a908846eeb814de5e0bdb,
   0xe0323a0a4906245cc2d3ac629195e479, 0xe7c8376d8dd54ea96c56f4ea657aae08,
   0xba78252e1ca6b4c6e8dd741f4bbd8b8a, 0x703eb5664803f60e613557b986c11d9e,
   0xe1f8981169d98e949b1e87e9ce5528df, 0x8ca1890dbfe6426841992d0fb054bb16]

/-- The substitution of a byte. -/
def aesSub (a : Nat) : Nat := sboxRows.getD (a / 16) 0 / 2 ^ (8 * (15 - a % 16)) % 256

/-- A byte times x. -/
def aesTwo (a : Nat) : Nat := if a < 128 then 2 * a else Nat.xor (2 * a) 0x11B

/-- Two runs of bytes, added. -/
def xorAll (a b : List Nat) : List Nat := List.zipWith Nat.xor a b

/-- The words of the key schedule from word `i` on, given those before it, the latest first. -/
def aesExpand : Nat → Nat → List (List Nat) → List (List Nat)
  | 0, _, ws => ws.reverse
  | n + 1, i, ws =>
    let t := ws.headD []
    let t := if i % 8 = 0 then
        match (t.drop 1 ++ t.take 1).map aesSub with
        | a :: r => Nat.xor a (2 ^ (i / 8 - 1)) :: r
        | [] => []
      else if i % 8 = 4 then t.map aesSub else t
    aesExpand n (i + 1) (xorAll (ws.getD 7 []) t :: ws)

/-- The 15 round keys of a 32 B key. -/
def aesKeys (key : List Nat) : List (List Nat) :=
  let ws := aesExpand 52 8 ((List.range 8).map (fun i => (key.drop (4 * i)).take 4)).reverse
  (List.range 15).map (fun r => ((ws.drop (4 * r)).take 4).flatten)

/-- The substitution and the shift of the rows; byte 4c + r of a block is row r of column c. -/
def aesShift (b : List Nat) : List Nat :=
  (List.range 16).map (fun i => aesSub (b.getD ((i % 4 + 4 * ((i / 4 + i % 4) % 4))) 0))

/-- The mix of the columns. -/
def aesMix (b : List Nat) : List Nat :=
  (List.range 16).map fun i =>
    let a (j : Nat) : Nat := b.getD (i / 4 * 4 + (i + j) % 4) 0
    Nat.xor (Nat.xor (aesTwo (a 0)) (Nat.xor (aesTwo (a 1)) (a 1))) (Nat.xor (a 2) (a 3))

/-- A block enciphered under the round keys. -/
def aesBlock (ks : List (List Nat)) (b : List Nat) : List Nat :=
  let b := (List.range 13).foldl (fun b r => xorAll (aesMix (aesShift b)) (ks.getD (r + 1) [])) (xorAll b (ks.getD 0 []))
  xorAll (aesShift b) (ks.getD 14 [])

/-! ## Galois/Counter Mode -/

/-- A run of bytes as a number, the first byte most significant. -/
def beNat (bs : List Nat) : Nat := bs.foldl (fun a b => 256 * a + b) 0

/-- The `n` bytes of a number, the most significant first. -/
def beBytes (n v : Nat) : List Nat := (List.range n).map (fun i => v / 256 ^ (n - 1 - i) % 256)

/-- A product in GF(2^128), from bit `n - 1` of `x` down; bit 127 is the coefficient of 1. -/
def ghMul (x : Nat) : Nat → Nat → Nat → Nat
  | 0, _, z => z
  | n + 1, v, z =>
    ghMul x n (if v % 2 = 1 then Nat.xor (v / 2) (0xE1 * 2 ^ 120) else v / 2) (if x / 2 ^ n % 2 = 1 then Nat.xor z v else z)

/-- GHASH of a run of bytes, padded to whole blocks, from hash value `y`. -/
def ghash (h : Nat) : Nat → List Nat → Nat → Nat
  | 0, _, y => y
  | fuel + 1, bs, y =>
    if bs.isEmpty then y
    else
      let b := bs.take 16
      ghash h fuel (bs.drop 16) (ghMul (Nat.xor y (beNat b * 256 ^ (16 - b.length))) 128 h 0)

/-- The key stream exclusive-ored on a run of bytes, from counter `ctr` on. -/
def gcmCtr (ks : List (List Nat)) (iv : List Nat) : Nat → Nat → List Nat → List Nat
  | 0, _, _ => []
  | fuel + 1, ctr, bs =>
    if bs.isEmpty then []
    else xorAll (bs.take 16) (aesBlock ks (iv ++ beBytes 4 ctr)) ++ gcmCtr ks iv fuel (ctr + 1) (bs.drop 16)

/-- The tag of a ciphertext and its additional authenticated data. -/
def gcmTag (ks : List (List Nat)) (iv aad ct : List Nat) : List Nat :=
  let h := beNat (aesBlock ks (List.replicate 16 0))
  let y := ghash h (ct.length + 1) ct (ghash h (aad.length + 1) aad 0)
  let y := ghash h 2 (beBytes 8 (8 * aad.length) ++ beBytes 8 (8 * ct.length)) y
  xorAll (beBytes 16 y) (aesBlock ks (iv ++ beBytes 4 1))

/-- Bytes as numbers, and back. -/
def toNats (bs : List Byte) : List Nat := bs.map BitVec.toNat
def ofNats (bs : List Nat) : List Byte := bs.map (BitVec.ofNat 8)

/-- Sealing under a 256-bit key, whose byte i is bits 8i + 7 to 8i, with a 12 B IV: the ciphertext and its 16 B tag.
-/
def gcmSeal (key : Nat) (iv aad pt : List Byte) : List Byte × List Byte :=
  let ks := aesKeys (toNats (leBytes 32 key))
  let ct := gcmCtr ks (toNats iv) (pt.length + 1) 2 (toNats pt)
  (ofNats ct, ofNats (gcmTag ks (toNats iv) (toNats aad) ct))

/-- Opening: the plaintext, where the tag verifies. -/
def gcmOpen (key : Nat) (iv aad ct tag : List Byte) : Option (List Byte) :=
  let ks := aesKeys (toNats (leBytes 32 key))
  if ofNats (gcmTag ks (toNats iv) (toNats aad) (toNats ct)) = tag then
    some (ofNats (gcmCtr ks (toNats iv) (ct.length + 1) 2 (toNats ct)))
  else none

end Sys2Proof.Machine
end

