-- ==== Sys2Proof/Machine/Embed.lean ====
section
/-! DEFINITION.  Row records and embedding tables: what the gather engines and the migration engines
share (R348 to R352, R374 to R381). -/

namespace Sys2Proof.Machine

/-! ## Row records (Table 09-3) -/

/-- Bytes of a record of `w` elements. -/
def recBytes (rfmt w : Nat) : Nat :=
  match rfmt with
  | 0 => 4 + w | 1 => 4 + (w + 1) / 2 | 2 => 2 * w | 3 => 2 * w | 4 => 4 * w | 5 => w | _ => 8 * w

/-- R349: one element of a record: FP32 bits, or the 32 bits of an INT32 for I8. -/
def decodeElem (rfmt fxexp : Nat) (bs : List Byte) (i : Nat) : Nat :=
  let so (wd code : Nat) : Nat :=
    FpFmt.fp32.round (Fv.add (Fv.mul (.fin (sgn wd code) 0) (FpFmt.fp16.value (fieldOf bs 0 2))) (FpFmt.fp16.value (fieldOf bs 2 2)))
  match rfmt with
  | 0 => so 8 (fieldOf bs (4 + i) 1)
  | 1 => so 4 (let b := fieldOf bs (4 + i / 2) 1; if i % 2 = 0 then b % 16 else b / 16)
  | 2 => toF32 .bf16 (fieldOf bs (2 * i) 2)
  | 3 => toF32 .fp16 (fieldOf bs (2 * i) 2)
  | 4 => toF32 .fp32 (fieldOf bs (4 * i) 4)
  | 5 => uns 32 (sgn 8 (fieldOf bs i 1))
  | _ => FpFmt.fp32.round (.fin (sgn 64 (fieldOf bs (8 * i) 8)) (sgn 8 fxexp))

/-- A record's elements. -/
def decodeRec (rfmt fxexp w : Nat) (bs : List Byte) : List Nat := (List.range w).map (decodeElem rfmt fxexp bs)

/-- The exact quotient of a value by a positive integer, with a sticky bit below every rounding place. -/
def fvDivNat (v : Fv) (d : Nat) : Fv :=
  match v with
  | .fin m e =>
    let k := 64 + Nat.log2 d
    let n := m.natAbs * 2 ^ k
    let q := 2 * (n / d) + (if n % d = 0 then 0 else 1)
    .fin (if m < 0 then -(q : Int) else (q : Int)) (e - (k : Int) - 1)
  | x => x

/-! ## Reads of engines -/

/-- A read by an engine that consumes what it reads: its bytes, or a fault's code and place (tier code
and address; of a poisoned line, its first).  Code 0x12: the controller grants nothing now. -/
def engRead (iss : Nat) (a : Access) (rmt : Bool) (tier addr n : Nat) (s : State) : Except (Nat × Nat) (List Byte) × State :=
  let r := memRead iss a tier addr n rmt s
  if r.1 ≠ 0 then (.error (r.1, memKey tier addr), awaitIf r.1 r.2.2)
  else match (List.range n).zip r.2.1 |>.find? (·.2.2) with
    | some x => (.error (0x06, lineDetail tier (addr + x.1)), r.2.2)
    | none => (.ok (dataOf r.2.1), r.2.2)

/-! ## Table descriptors (Table 10-1) -/

/-- A table descriptor, as its 64 bytes. -/
abbrev Tdesc := List Byte

/-- Word `i` of a descriptor. -/
def tdw (t : Tdesc) (i : Nat) : Nat := fieldOf t (8 * i) 8
def tdKind (t : Tdesc) : Nat := bits (tdw t 0) 3 0
def tdRfmt (t : Tdesc) : Nat := bits (tdw t 0) 6 4
def tdRedir (t : Tdesc) : Bool := bit (tdw t 0) 7
def tdW (t : Tdesc) : Nat := bits (tdw t 0) 18 8 + 1
def tdRst (t : Tdesc) : Nat := bits (tdw t 0) 25 19
def tdNshard (t : Tdesc) : Nat := bits (tdw t 0) 31 26 + 1
def tdSlice (t : Tdesc) : Nat := bits (tdw t 0) 37 32
def tdNslice (t : Tdesc) : Nat := bits (tdw t 0) 43 38 + 1
def tdFxexp (t : Tdesc) : Nat := bits (tdw t 0) 51 44
def tdRb (t : Tdesc) : Nat := bits (tdw t 0) 54 52 + 8
def tdHdie (t : Tdesc) : Nat := bits (tdw t 0) 56 56
def tdNrows (t : Tdesc) : Nat := bits (tdw t 1) 31 0
def tdRps (t : Tdesc) : Nat := bits (tdw t 1) 55 32
def tdRdofs (t : Tdesc) : Nat := bits (tdw t 4) 22 0
def tdGen (t : Tdesc) : Nat := bits (tdw t 4) 63 32

/-- R375: is the descriptor malformed?  `shared`: bytes of the shared region of the clusters that hold
its redirect copies. -/
def tdBad (t : Tdesc) (shared : Nat) : Bool :=
  let k := tdKind t
  let w0 := tdw t 0
  bit w0 55 || bits w0 63 57 != 0 || bits (tdw t 1) 63 56 != 0 || bits (tdw t 2) 63 50 != 0 ||
  bits (tdw t 3) 63 50 != 0 || bits (tdw t 4) 31 23 != 0 || bits (tdw t 5) 63 50 != 0 || tdw t 6 != 0 || tdw t 7 != 0 ||
  !(k == 1 && decide (tdRfmt t ≤ 1) || k == 2 && (tdRfmt t == 4 || tdRfmt t == 6)) ||
  tdRst t == 0 || decide (64 < tdRst t) || decide (2048 < tdW t) || tdNrows t == 0 || tdRps t == 0 ||
  (tdRfmt t == 6 && decide (sgn 8 (tdFxexp t) < -126)) ||
  ptrTier (tdw t 2) == 0 || ptrAddr (tdw t 2) % 64 != 0 ||
  (tdRedir t && (ptrTier (tdw t 3) == 0 || ptrAddr (tdw t 3) % 64 != 0 || tdRdofs t % 64 != 0 ||
    decide (shared < tdRdofs t + 8 * 2 ^ tdRb t))) ||
  (ptrTier (tdw t 5) != 0 && ptrAddr (tdw t 5) % 64 != 0) ||
  decide (tdRps t * tdNshard t < tdNrows t) || decide (tdNslice t ≤ tdSlice t) ||
  decide (64 * tdRst t < recBytes (tdRfmt t) (tdW t))

/-! ## Finding a row (R379 to R381) -/

/-- The home bucket of a row. -/
def rowBucket (t : Tdesc) (r : Nat) : Nat := r * 0x9E3779B1 % 2 ^ 32 / 2 ^ (32 - tdRb t)

/-- The fields of a redirect entry (Table 10-3). -/
def reRow (e : Nat) : Nat := bits e 31 0
def reSlot (e : Nat) : Nat := bits e 55 32
def reShard (e : Nat) : Nat := bits e 61 56
def reState (e : Nat) : Nat := bits e 63 62

/-- A reader of redirect buckets; its first argument: the probe has read no other bucket of the line yet (R381). -/
abbrev BucketRd := Bool → Nat → State → Except (Nat × Nat) Nat × State

/-- The probe of R379: shard and slot of a VALID entry of the row; STATE 0b11 matches with a shard out
of range. -/
def probe (t : Tdesc) (rd : BucketRd) (r : Nat) : Nat → Nat → State → Except (Nat × Nat) (Option (Nat × Nat)) × State
  | 0, _, s => (.ok none, s)
  | fuel + 1, i, s =>
    let n := (rowBucket t r + i) % 2 ^ tdRb t
    match rd (i == 0 || n % 8 == 0) n s with
    | (.error e, s) => (.error e, s)
    | (.ok e, s) =>
      if reState e = 0 then (.ok none, s)
      else if (reState e = 1 ∨ reState e = 3) ∧ reRow e = r then
        (.ok (some (if reState e = 3 then (64, reSlot e) else (reShard e, reSlot e))), s)
      else probe t rd r fuel (i + 1) s

/-- A shard map entry: tier, base and CAP, with its spare bitmap's tier and address. -/
structure Shard where
  tier : Nat
  base : Nat
  cap : Nat
  sbTier : Nat
  sbAddr : Nat
  deriving DecidableEq, Repr

/-- Entry `h` of the shard map (Table 10-2). -/
def shardOf (iss : Nat) (a : Access) (die : Nat) (t : Tdesc) (h : Nat) (s : State) : Except (Nat × Nat) Shard × State :=
  let tier := ptrTier (tdw t 2)
  let addr := ptrAddr (tdw t 2) + 32 * h
  match engRead iss a (s.isRmtDie die tier addr) tier addr 32 s with
  | (.error e, s) => (.error e, s)
  | (.ok b, s) => (.ok { tier := bits (fieldOf b 6 1) 1 0, base := fieldOf b 0 6, cap := fieldOf b 8 4,
                         sbTier := bits (fieldOf b 22 1) 1 0, sbAddr := fieldOf b 16 6 }, s)

/-- Where a row lies. -/
structure RowAt where
  shard : Nat
  slot : Nat
  tier : Nat
  addr : Nat
  deriving DecidableEq, Repr

/-- Why a row has no address: out of range (R379), or a read's fault. -/
inductive RowErr
  | range
  | rd (code place : Nat)
  deriving DecidableEq, Repr

/-- row_addr of R379. -/
def rowAddr (iss : Nat) (a : Access) (die : Nat) (t : Tdesc) (rd : BucketRd) (r : Nat) (s : State) :
    Except RowErr RowAt × State :=
  match (if tdRedir t then probe t rd r 64 0 s else (.ok none, s)) with
  | (.error e, s) => (.error (.rd e.1 e.2), s)
  | (.ok hit, s) =>
    let hs := hit.getD (r / tdRps t, r % tdRps t)
    if tdNshard t ≤ hs.1 then (.error .range, s)
    else match shardOf iss a die t hs.1 s with
      | (.error e, s) => (.error (.rd e.1 e.2), s)
      | (.ok m, s) =>
        if m.cap ≤ hs.2 then (.error .range, s)
        else (.ok ⟨hs.1, hs.2, m.tier, m.base + hs.2 * tdRst t * 64⟩, s)

/-- rd_copy: bucket `n` of the redirect copy in the cluster store of core `c`, read in its 64 B line of 8 (R381). -/
def rdCopy (c : Nat) (t : Tdesc) : BucketRd := fun new n s =>
  let s := if new then perf (pCORE c) 0x36 64 s else s
  let d := s.cluRead ((s.cluOf c).getD 0) (tdRdofs t + 8 * n) 8
  if firstMark d ≠ 0 then (.error (0x06, firstMark d - 1), s) else (.ok (leNat (d.map (·.1))), s)

/-- Bucket `n` of the redirect table in memory. -/
def rdTable (iss : Nat) (a : Access) (die : Nat) (t : Tdesc) : BucketRd := fun _ n s =>
  let tier := ptrTier (tdw t 3)
  let addr := ptrAddr (tdw t 3) + 8 * n
  match engRead iss a (s.isRmtDie die tier addr) tier addr 8 s with
  | (.error e, s) => (.error e, s)
  | (.ok b, s) => (.ok (leNat b), s)

end Sys2Proof.Machine
end

