-- ==== Sys2Proof/Machine/Gather.lean ====
section
/-! DEFINITION.  The gather engine (R345 to R373, R382 to R387). -/

namespace Sys2Proof.Machine

/-! ## The command block (Table 09-1) -/

def GthCmd.rfmt (g : GthCmd) : Nat := bits (g.w 0) 10 8
def GthCmd.ofmt (g : GthCmd) : Nat := bits (g.w 0) 13 11
def GthCmd.hubact (g : GthCmd) : Nat := bits (g.w 0) 15 14
def GthCmd.comb (g : GthCmd) : Nat := bits (g.w 0) 18 16
def GthCmd.trl (g : GthCmd) : Bool := bit (g.w 0) 19
def GthCmd.width (g : GthCmd) : Nat := bits (g.w 0) 34 24 + 1
def GthCmd.fxexp (g : GthCmd) : Nat := bits (g.w 0) 55 48
def GthCmd.first (g : GthCmd) : Nat := bits (g.w 4) 31 0
def GthCmd.count (g : GthCmd) : Nat := bits (g.w 4) 63 32
def GthCmd.thr (g : GthCmd) : Nat := if bits (g.w 5) 23 0 = 0 then 4096 else bits (g.w 5) 23 0
def GthCmd.sfirst (g : GthCmd) : Nat := bits (g.w 5) 63 32
def GthCmd.nv (g : GthCmd) : Nat := bits (g.w 7) 31 0
/-- Bytes of an offsets entry. -/
def GthCmd.ow (g : GthCmd) : Nat := if bit (g.w 0) 20 then 8 else 4
/-- Bytes of one output row. -/
def GthCmd.outRow (g : GthCmd) : Nat := g.width * (if g.ofmt ≤ 1 then 2 else if g.ofmt ≤ 3 then 4 else 1)
/-- Bytes of one row record. -/
def GthCmd.rec_ (g : GthCmd) : Nat := recBytes g.rfmt g.width
/-- Items the command begins one after the other. -/
def GthCmd.nItems (g : GthCmd) : Nat := if g.seg then 1 else g.count

/-- Table 09-5. -/
def gthLegal (rf ag md of_ cb : Nat) : Bool :=
  let seg := md == 2
  if rf = 5 then
    if ag = 0 then !seg && of_ == 4 && cb == 0
    else if ag = 2 || of_ ≠ 3 || md == 3 then false
    else if seg then cb == (if ag = 1 then 5 else ag) else cb == 0
  else if 2 < of_ then false
  else if ag = 0 then !seg && cb == 0
  else if md == 3 then false
  else if !seg then cb == 0
  else if ag ≤ 2 then of_ == 2 && (cb == 1 || cb == 2)
  else cb == ag

/-- R370: the first failing check of a command block, as its lowest word. -/
def GthCmd.bad (g : GthCmd) : Option Nat :=
  let m := g.mode
  let hi50 (i : Nat) : Bool := bits (g.w i) 63 50 != 0
  let res0 := bits (g.w 0) 23 21 != 0 || bit (g.w 0) 35 || bits (g.w 0) 47 43 != 0 || bits (g.w 0) 63 56 != 0
  let reserved : List Bool := [res0 || (m == 3 && bit (g.w 0) 20), hi50 1 || (m == 3 && g.w 1 != 0), hi50 2, hi50 3,
    m == 1 && g.first != 0,
    bits (g.w 5) 31 24 != 0 || (m != 2 && g.sfirst != 0) || (m == 3 && bits (g.w 5) 23 0 != 0),
    hi50 6 || ((m == 0 || m == 3) && g.w 6 != 0), bits (g.w 7) 63 32 != 0]
  let enc0 := decide (3 < m) || decide (4 < g.agg) || decide (6 < g.rfmt) || decide (4 < g.ofmt) || decide (5 < g.comb) ||
    g.rst == 0 || decide (64 < g.rst) || (decide (m ≤ 1) && g.hubact == 3) || decide (2048 < g.width) ||
    (g.rfmt == 6 && decide (sgn 8 g.fxexp < -126))
  let tier0 (i : Nat) : Bool := ptrTier (g.w i) == 0
  let encs : List Bool := [enc0, m != 3 && tier0 1, tier0 2, tier0 3, decide (65536 < g.count), false, (m == 1 || m == 2) && tier0 6, g.nv == 0]
  match reserved.findIdx? id with
  | some i => some i
  | none => match encs.findIdx? id with
    | some i => some i
    | none =>
      if !gthLegal g.rfmt g.agg m g.ofmt g.comb then some 0
      else if g.rst * 64 < g.rec_ then some 0
      else if g.count = 0 then some 4
      else if m = 2 && ptrAddr (g.w 6) % 64 != 0 then some 6
      else none

/-- R383: the word of an EMBED_LOOKUP's command that its descriptor makes malformed. -/
def GthCmd.badDesc (g : GthCmd) (shared : Nat) : Option Nat :=
  if g.rfmt ≠ tdRfmt g.desc ∨ g.rst ≠ tdRst g.desc ∨ g.width ≠ tdW g.desc then some 0
  else if tdBad g.desc shared then some 3
  else if g.nv ≠ tdNrows g.desc then some 7
  else none

/-! ## Faults (Table 09-8a) -/

/-- The PC of the GATH whose command the engine fetches for, which its fault reports where it stops its core. -/
def State.gthPc (s : State) (c : Nat) : Nat := (s.core c).gth.active.getLast?.elim (s.core c).pc (·.pc)

/-- R370: a gather fault, logged here unless the access that failed has logged it. -/
def gthFault (c code cause pos val : Nat) (log : Bool) (s : State) : State :=
  let s := if log then logErr (pCORE c) code (s.corePart c) val 0 s else s
  coreFaultAt c (s.gthPc c) code 0 0 none (gthFltSet c code cause pos val s)

/-- A failed access of the engine: a code of 0x12 only means that it waits. -/
def gthRdFault (c pos : Nat) (e : Nat × Nat) (s : State) : State :=
  if e.1 = 0x12 then s
  else gthFault c e.1 (if e.1 = 0x06 then 6 else if e.1 = 0x03 then 8 else 7) pos (if e.1 = 0x06 then e.2 else e.2 % 2 ^ 48) (e.1 == 0x06 || e.1 == 0x02 || e.1 == 0x1A) s

/-- R52, cause 8: a request of the engine has timed out. -/
def gthTimeout (c pos : Nat) (hs : Hs) (tier addr : Nat) (s : State) : State :=
  gthFault c 0x03 8 pos addr true (abandon hs (tierCtl tier addr) s)

/-! ## Offsets, indices and vertex lists (R357) -/

/-- The M-aligned blocks that a range touches. -/
def blocksOf (tier addr len : Nat) : List Nat :=
  let m := tierM tier
  (List.range ((addr + len - 1) / m + 1 - addr / m)).map (fun i => (addr / m + i) * m)

/-- The engine asks for those blocks of a range that it neither has nor has asked for, with at most 16 requests
outstanding; not for one that an earlier write of the core touches (R223). -/
def metaAsk (c tier addr len : Nat) (s : State) : State :=
  let k := s.core c
  let g := k.gth
  let lack := (blocksOf tier addr len).filter fun a =>
    !g.metas.any (fun r => r.tier == tier && r.addr == a) && !g.blks.any (fun b => b.tier == tier && b.addr == a) &&
      !s.writeOverlap c tier a (tierM tier)
  let new : List ListReq := (lack.take (16 - g.metas.length)).map fun a =>
    { tier := tier, addr := a, slot := s.slotFor (s.corePart c), iss := s.issue (pCORE c) }
  s.setCore c { k with gth := { g with metas := g.metas ++ new } }

/-- The block request outstanding longest returns, with its data or the code it fails with; or it is found timed out,
or waits for its grant. -/
def metaArrive (c : Nat) (s : State) : State :=
  match (s.core c).gth.metas with
  | [] => s
  | r :: rest =>
    if s.overdue (pCORE c) r.iss then
      gthTimeout c ((s.core c).gth.active.getLast?.elim 0 (·.pos)) (.list c 4) r.tier r.addr s
    else if !s.turnAt r.tier r.addr (tierM r.tier) (reqClass false (s.isRmtDie (c / 256) r.tier r.addr)) r.iss.since then s
    else
      let x := coreRead c r.slot r.tier r.addr (tierM r.tier) s
      if x.1 = 0x12 then s
      else
        let s := if x.1 = 0 then perf (pCORE c) 0x36 (tierM r.tier) x.2.2 else x.2.2
        let k := s.core c
        let b : ListBlk := { tier := r.tier, addr := r.addr, data := x.2.1, code := x.1 }
        s.setCore c { k with gth := { k.gth with metas := rest, blks := (b :: k.gth.blks).take 64 } }

/-- The block of a tier address, if the engine has it. -/
def Gather.blk (g : Gather) (tier addr : Nat) : Option ListBlk :=
  g.blks.find? (fun b => b.tier == tier && b.addr == blockOf tier addr)

/-- `n` bytes of an array, or why there are none: 0x12 while the engine waits for their blocks.  It asks for `ahead`
bytes from there on, which it will come to use. -/
def gthRead (c tier addr n ahead : Nat) (s : State) : Except (Nat × Nat) (List Byte) × State :=
  let g := (s.core c).gth
  let bs := (List.range n).map fun i => (g.blk tier (addr + i)).map fun b => (b.code, b.data.getD (addr + i - b.addr) (0, 0))
  let s := metaAsk c tier addr (min (max n ahead) (16 * tierM tier)) s
  if bs.any (·.isNone) then (.error (0x12, 0), s)
  else
    let d := bs.filterMap id
    match d.find? (fun x => x.1 != 0) with
    | some x => (.error (x.1, memKey tier addr), s)
    | none =>
      let m := firstMark (d.map (·.2))
      if m ≠ 0 then (.error (0x06, m - 1), s) else (.ok (d.map (·.2.1)), s)

/-! ## The engine's commands -/

/-- The command with number `no` replaced. -/
def setCmd (c : Nat) (g : GthCmd) (s : State) : State :=
  let k := s.core c
  s.setCore c { k with gth := { k.gth with active := k.gth.active.map (fun x => if x.no = g.no then g else x) } }

/-- Window space for `n` bytes of output of queue `q` (R353, R273): where they go, or none while the
queue lacks buffers for them. -/
def reserve (c q n : Nat) (s : State) : Option Nat × State :=
  let t := s.tq c q
  if t.issuePos + n ≤ t.bufs * 4096 then (some t.issuePos, s.setTq c q { t with issuePos := t.issuePos + n })
  else (none, s.setTq c q { t with need := t.issuePos + n })

/-- Output bytes, with their mark, in the window. -/
def land (c q dst : Nat) (d : Marked) (s : State) : State :=
  let t := s.tq c q
  s.setTq c q { t with win := putDieBytes t.win dst (d.map (·.1)), pois := putDieMarks t.pois dst d }

/-- R273: output of queue `q` that would pass 1 MiB of its window. -/
def State.pastWin (s : State) (c q n : Nat) : Bool := decide (2 ^ 20 < (s.tq c q).issuePos + n)

/-- A zero row at a place of the window. -/
def landZero (c : Nat) (g : GthCmd) (dst : Nat) (s : State) : State := land c g.q dst (unmarked (List.replicate g.outRow 0)) s

/-- Is a queue item a GATH? -/
def isGath : TqItem → Bool
  | .gath _ _ => true
  | _ => false

/-- Staging buffers go back to the pool. -/
def unstage (c n : Nat) (s : State) : State :=
  let k := s.core c
  let n := min n k.staged
  poolGive c n (s.setCore c { k with staged := k.staged - n })

/-! ## Elements (R350 to R352) -/

/-- The identity of AGG. -/
def gthId (rfmt agg : Nat) : Nat :=
  if rfmt = 5 then (match agg with | 3 => 2 ^ 31 | 4 => 2 ^ 31 - 1 | _ => 0)
  else (match agg with | 3 => 0xFF800000 | 4 => 0x7F800000 | _ => 0)

/-- step() of R351. -/
def gthStep (rfmt agg a x : Nat) : Nat :=
  if rfmt = 5 then
    match agg with
    | 3 => if sgn 32 a < sgn 32 x then x else a
    | 4 => if sgn 32 x < sgn 32 a then x else a
    | _ => (a + x) % 2 ^ 32
  else
    match agg with
    | 3 => FpFmt.fp32.maxMin true a x
    | 4 => FpFmt.fp32.maxMin false a x
    | _ => addF32 a x

/-- The division of MEAN: the exact quotient rounded once. -/
def gthMean (d a : Nat) : Nat := FpFmt.fp32.round (fvDivNat (FpFmt.fp32.value a) (max 1 d))

/-- to_ofmt() of R352: the pattern of an element in OFMT. -/
def gthOut (ofmt x : Nat) : Nat :=
  match ofmt with
  | 3 => x % 2 ^ 32
  | 4 => x % 2 ^ 8
  | _ => (quant (4 + ofmt) x).1

/-- A row of elements as output bytes. -/
def GthCmd.outBytes (g : GthCmd) (xs : List Nat) : List Byte :=
  xs.foldr (fun x acc => leBytes (g.outRow / g.width) (gthOut g.ofmt x) ++ acc) []

/-- A record's elements. -/
def GthCmd.decode (g : GthCmd) (bs : List Byte) : List Nat := decodeRec g.rfmt g.fxexp g.width bs

/-- The reduced row of a vertex or segment: MEAN divides by the degree. -/
def GthCmd.reduced_ (g : GthCmd) (deg : Nat) (acc : List Nat) : List Nat :=
  if g.agg = 2 then acc.map (gthMean deg) else acc

/-! ## Segment combining (R362 to R364, R369) -/

/-- The atomic and element size of Table 09-6. -/
def GthCmd.combOp (g : GthCmd) : Nat × Nat :=
  match g.comb with
  | 1 => (0x05, 8)
  | 2 => (0x03, 4)
  | 5 => (0x01, 4)
  | cb =>
    let b := if cb = 3 then 0x08 else 0x10
    match g.ofmt with
    | 0 => (b + 2, 2) | 1 => (b + 3, 2) | 2 => (b + 4, 4) | _ => (b + 1, 4)

/-- The lanes of line `i` of the destination row. -/
def combLanes (esz : Nat) (vals : List Nat) (i : Nat) : List (Nat × Nat) :=
  let per := 64 / esz
  (List.range per).zip ((vals.drop (i * per)).take per) |>.map (fun x => (x.1 * esz, x.2))

/-- Atomics of lines `i` on, all of them issued: the first failure's code and place. -/
def combLines (c tier addr code esz : Nat) (vals : List Nat) : Nat → Nat → Nat × Nat × State → Nat × Nat × State
  | 0, _, r => r
  | n + 1, i, r =>
    let s := r.2.2
    let x := memAtomic (pCORE c) (s.coreAcc c) tier (addr + 64 * i) code (combLanes esz vals i) (s.isRmtDie (c / 256) tier (addr + 64 * i)) s
    combLines c tier addr code esz vals n (i + 1)
      (if r.1 = 0 then (x.1, addr + 64 * i, x.2.2) else (r.1, r.2.1, x.2.2))

/-- An element of a partial row as a lane of its atomic (R362, R363): the FP32 or INT32 that reduce() leaves, rounded
as by to_ofmt() for a 16-bit one (DEDUCED, log entry 82). -/
def GthCmd.lane (g : GthCmd) (x : Nat) : Nat := if g.combOp.2 = 2 then gthOut g.ofmt x else x

/-- The partial row combined into the destination row at AUXA. -/
def combineRow (c : Nat) (g : GthCmd) (row : GthRow) (vals : List Nat) (s : State) : State :=
  let tier := ptrTier (g.w 6); let addr := ptrAddr (g.w 6)
  let op := g.combOp
  let n := ceilDiv (g.width * op.2) 64
  let rc := s.rangeCode tier addr (g.width * op.2)
  if rc ≠ 0 then gthFault c rc 7 row.pos addr true s
  else
    let r := combLines c tier addr op.1 op.2 (vals.map g.lane) n 0 (0, 0, perf (pCORE c) 0x37 (g.width * op.2) s)
    if r.1 = 0 ∨ r.1 = 0x12 then r.2.2
    else if r.1 = 0x05 ∨ r.1 = 0x1A then gthFault c r.1 9 row.pos addr (r.1 == 0x1A) r.2.2
    else gthRdFault c row.pos (r.1, if r.1 = 0x06 then lineDetail tier r.2.1 else r.2.1) r.2.2

/-- Does every line of the destination row have a controller that grants requests now? -/
def State.combReady (s : State) (c : Nat) (g : GthCmd) : Bool :=
  let tier := ptrTier (g.w 6); let addr := ptrAddr (g.w 6)
  !g.seg || (List.range (ceilDiv (g.width * g.combOp.2) 64)).all
    (fun i => s.accessCode (s.corePart c) tier (addr + 64 * i) 64 != 0x12)

/-! ## Finishing a command -/

/-- The trailer (Table 09-4). -/
def GthCmd.trailer (g : GthCmd) : List Byte :=
  leBytes 4 (sat 0xFFFFFFFF g.items) ++ leBytes 4 (sat 0xFFFFFFFF g.begun) ++ leBytes 2 (sat 0xFFFF g.hubs)
    ++ leBytes 2 (sat 0xFFFF g.empty) ++ leBytes 4 g.firstHub

/-- Commands whose every fetch has been issued and consumed leave, oldest first. -/
def gthFinish (c : Nat) : Nat → State → State
  | 0, s => s
  | fuel + 1, s =>
    match (s.core c).gth.active with
    | [] => s
    | g :: rest =>
      if g.allOut && g.rows.isEmpty then
        let s := if g.trl then land c g.q g.trlAt (unmarked g.trailer) s else s
        let s := unstage c g.stagedUse s
        let k := s.core c
        let t := k.tq g.q
        let t := startItem { t with items := t.items.tail }
        let t := if rest.any (fun x => x.q == g.q) then t else { t with packed := max t.packed t.issuePos }
        gthFinish c fuel (leaveFetch c (s.setCore c { k.setTq g.q t with gth := { k.gth with active := rest } }))
      else s

/-! ## Taking a command (R345, R346) -/

/-- GATHER_COMMAND_START: the next command's block, and an EMBED_LOOKUP's descriptor, are read and
checked whole. -/
def gthStart (c : Nat) (s : State) : State :=
  let k := s.core c
  match k.gth.waiting with
  | [] => s
  | (q, wsa) :: rest =>
    let t := k.tq q
    let n := (k.gth.active.filter (fun g => g.q == q)).length
    if !k.gth.active.all (·.allOut) || !s.hasFetch c || !(t.items.take n).all isGath || !(t.items[n]?.elim false isGath) then s
    else
    let pc := match t.items[n]? with | some (.gath _ pc) => pc | _ => 0
    if s.staticBytes c < wsa + 64 ∨ wsa % 64 ≠ 0 then seqFaultAt c pc 0x04 wsa s
    else
      let d := getDie k.work k.workPois wsa 64
      if firstMark d ≠ 0 then poisonFault c (firstMark d) s
      else
        let embed := match k.op with | some h => h.cls == 4 | none => false
        let g : GthCmd := { no := k.gth.nextId, q := q, wsa := wsa, pc := pc, block := d.map (·.1), embed := embed }
        let take (g : GthCmd) (s : State) : State :=
          let k := s.core c
          s.setCore c { k with gth := { k.gth with waiting := rest, active := k.gth.active ++ [g], blks := [], nextId := k.gth.nextId + 1 } }
        match g.bad with
        | some w => gthFault c 0x04 5 0 w true s
        | none =>
          if !embed then take g s
          else
            let tier := ptrTier (g.w 3); let addr := ptrAddr (g.w 3)
            if addr % 64 ≠ 0 then gthFault c 0x04 5 0 3 true s
            else match engRead (pCORE c) (s.coreAcc c) (s.isRmtDie (c / 256) tier addr) tier addr 64 s with
              | (.error e, s) => gthRdFault c 0 e s
              | (.ok b, s) =>
                let g := { g with desc := b }
                match g.badDesc (s.sharedBytes ((s.cluOf c).getD 0)) with
                | some w => gthFault c 0x04 5 0 w true s
                | none => take g s

/-! ## Fetching rows (R350, R356 to R358) -/

/-- The row being asked for has its next request issued, if OUT_MAX and R223 allow. -/
def issueBlock (c : Nat) (g : GthCmd) (row : GthRow) (s : State) : State :=
  let k := s.core c
  let a := row.addr + row.issued
  let n := min (row.len - row.issued) (tierM row.tier - a % tierM row.tier)
  if s.fenced (tierCtl row.tier a) then gthFault c 0x03 8 row.pos a true s
  else if !s.hasFetch c || decide (s.f (pCORE c) F.GTH_CFG_OUT_MAX ≤ k.gth.reqs.length) || s.writeOverlap c row.tier a n then s
  else
    let rq : GthReq := { id := k.nextReq, cmd := g.no, seq := row.seq, tier := row.tier, addr := a, len := n, ofs := row.issued, slot := s.slotFor (s.corePart c), iss := s.issue (pCORE c) }
    let g := { g with rows := g.rows.map (fun x => if x.seq = row.seq then { x with issued := x.issued + n } else x) }
    setCmd c g (s.setCore c { k with nextReq := k.nextReq + 1, gth := { k.gth with reqs := k.gth.reqs ++ [rq] } })

/-- Room for the next row: its place in the window, or a staging buffer (R358). -/
def rowRoom (c : Nat) (g : GthCmd) (s : State) : Option Nat × State :=
  if g.agg = 0 then reserve c g.q g.outRow s
  else
    let k := s.core c
    let mx := ceilDiv (s.f (pCORE c) F.GTH_CFG_OUT_MAX) g.perBuf + 1
    if g.begun % g.perBuf ≠ 0 then (some g.dst, s)
    else if g.stagedUse < mx ∧ k.gth.stagedUse < k.staged then (some g.dst, s)
    else (none, s)

/-- Row `r` of the command begins: its address is resolved and its first request issued. -/
def beginRow (c : Nat) (g : GthCmd) (r dst : Nat) (s : State) : State :=
  let pos := g.pos
  let go (shard : Option Nat) (tier addr : Nat) (s : State) : State :=
    let rc := s.rangeCode tier addr g.rec_
    if rc ≠ 0 then gthFault c rc 7 pos addr true s
    else
      let row : GthRow := { seq := g.begun, tier := tier, addr := addr, len := g.rec_, pos := pos, dst := dst, last := g.edge + 1 == g.edgeEnd, deg := g.deg }
      let g := { g with rows := g.rows ++ [row], begun := g.begun + 1, edge := g.edge + 1
                        shards := match shard with | none => g.shards | some h => SMap.put g.shards h (SMap.get g.shards h 0 + 1) 0 }
      let s := s.add64 (pCORE c) R.GTH_ROWS_LO R.GTH_ROWS_HI 1
      issueBlock c g row (setCmd c g s)
  if g.embed then
    match rowAddr (pCORE c) (s.coreAcc c) (c / 256) g.desc (rdCopy c g.desc) r s with
    | (.error .range, s) => gthFault c 0x05 2 pos r true s
    | (.error (.rd code place), s) => gthRdFault c pos (code, place) s
    | (.ok a, s) => go (some a.shard) a.tier a.addr s
  else go none (ptrTier (g.w 3)) (ptrAddr (g.w 3) + r * g.rst * 64) s

/-- The next edge of the present item: its index is read and checked before its row (R357). -/
def nextEdge (c : Nat) (g : GthCmd) (s : State) : State :=
  if g.agg = 0 && s.pastWin c g.q g.outRow then seqFaultAt c g.pc 0x0B g.q s
  else
  let ahead := if g.mode = 3 then min (g.count + 1 - g.item) (2 ^ 32 - g.edge) else g.edgeEnd - g.edge
  match gthRead c (ptrTier (g.w 2)) (ptrAddr (g.w 2) + 4 * g.edge) 4 (4 * ahead) s with
    | (.error e, s) => gthRdFault c g.pos e s
    | (.ok b, s) =>
      if g.nv ≤ leNat b then gthFault c 0x05 2 g.pos (leNat b) true s
      else match rowRoom c g s with
        | (none, s) => s
        | (some dst, s) => beginRow c g (leNat b) dst s

/-- The offsets of a vertex: e0 and e1; those of `n` vertices are read ahead. -/
def offsets (c : Nat) (g : GthCmd) (v n : Nat) (s : State) : Except (Nat × Nat) (Nat × Nat) × State :=
  match gthRead c (ptrTier (g.w 1)) (ptrAddr (g.w 1) + g.ow * v) (2 * g.ow) ((n + 1) * g.ow) s with
  | (.error e, s) => (.error e, s)
  | (.ok b, s) => (.ok (fieldOf b 0 g.ow, fieldOf b g.ow g.ow), s)

/-- A vertex of RANGE or VLIST mode begins (R350): the state, and whether the engine may go on. -/
def beginVertex (c : Nat) (g0 : GthCmd) (v : Nat) (s : State) : State × Bool :=
  let g := { g0 with item := g0.item + 1 }
  let pos := g0.item
  if g.nv ≤ v then (gthFault c 0x05 1 pos v true s, false)
  else match offsets c g v (if g.mode = 0 then min (g.count - g0.item) (g.nv - v) else 1) s with
    | (.error e, s) => (gthRdFault c pos e s, false)
    | (.ok (e0, e1), s) =>
      let d := e1 - e0
      if e1 < e0 then (gthFault c 0x04 3 pos v true s, false)
      else if g.thr < d ∧ g.hubact = 1 then (gthFault c 0x05 4 pos d true s, false)
      else
        let room := if g.agg = 0 then (none, s) else reserve c g.q g.outRow s
        let dst := room.1.getD 0
        let s := room.2
        let g := { g with items := g.items + 1, dst := dst }
        let zero (g : GthCmd) (s : State) : State := setCmd c g (if g.agg = 0 then s else landZero c g dst s)
        if g.thr < d ∧ g.hubact ≠ 2 then
          (zero { g with hubs := g.hubs + 1, firstHub := if g.firstHub = 0xFFFFFFFF then pos else g.firstHub }
            (s.addF (pCORE c) F.GTH_HUBS_HUBS 1), true)
        else if d = 0 then (zero { g with empty := g.empty + 1 } s, true)
        else (setCmd c { g with edge := e0, edgeEnd := e1, edge0 := e0, deg := d } s, true)

/-- The vertex of SEGMENT mode begins (R350, R361). -/
def beginSegment (c : Nat) (g : GthCmd) (s : State) : State × Bool :=
  if g.nv ≤ g.first then (gthFault c 0x05 1 0 g.first true s, false)
  else match offsets c g g.first 1 s with
    | (.error e, s) => (gthRdFault c 0 e s, false)
    | (.ok (e0, e1), s) =>
      if e1 < e0 then (gthFault c 0x04 3 0 g.first true s, false)
      else
        let d := e1 - e0
        let n := min (g.sfirst + g.count) (ceilDiv d g.thr) - g.sfirst
        (setCmd c { g with item := 1, items := n, empty := g.count - n, deg := d, edge0 := e0,
                           edge := min (e0 + g.sfirst * g.thr) e1, edgeEnd := min (e0 + (g.sfirst + g.count) * g.thr) e1 } s, true)

/-- The next item begins, once the window has room for its output row. -/
def beginItem (c : Nat) (g : GthCmd) (s : State) : State × Bool :=
  if g.seg then beginSegment c g s
  else if g.agg ≠ 0 && s.pastWin c g.q g.outRow then (seqFaultAt c g.pc 0x0B g.q s, false)
  else if g.agg ≠ 0 && (reserve c g.q g.outRow s).1.isNone then ((reserve c g.q g.outRow s).2, false)
  else match g.mode with
    | 0 => beginVertex c g ((g.first + g.item) % 2 ^ 32) s
    | 1 =>
      match gthRead c (ptrTier (g.w 6)) (ptrAddr (g.w 6) + 4 * g.item) 4 (4 * (g.count - g.item)) s with
      | (.error e, s) => (gthRdFault c g.item e s, false)
      | (.ok b, s) => beginVertex c g (leNat b) s
    | _ => (setCmd c { g with item := g.item + 1, items := g.items + 1, edge := (g.first + g.item) % 2 ^ 32, edgeEnd := (g.first + g.item) % 2 ^ 32 + 1 } s, true)

/-- R384: the counts of the rows fetched per shard, one atomic per line. -/
def addLoads (c : Nat) (g : GthCmd) : Nat → Nat → Nat × Nat × State → Nat × Nat × State
  | 0, _, r => r
  | n + 1, i, r =>
    let lanes := ((List.range 8).map (fun j => (8 * j, SMap.get g.shards (8 * i + j) 0))).filter (·.2 != 0)
    if lanes.isEmpty then addLoads c g n (i + 1) r
    else
      let s := r.2.2
      let tier := ptrTier (tdw g.desc 5); let addr := ptrAddr (tdw g.desc 5) + 64 * i
      let x := memAtomic (pCORE c) (s.coreAcc c) tier addr 0x02 lanes (s.isRmtDie (c / 256) tier addr) s
      addLoads c g n (i + 1) (if r.1 = 0 then (x.1, if x.1 = 0x06 then lineDetail tier addr else addr, x.2.2) else (r.1, r.2.1, x.2.2))

/-- Does the command count loads, and would a controller of the counters grant nothing now? -/
def State.loadsHeld (s : State) (c : Nat) (g : GthCmd) : Bool :=
  let w := tdw g.desc 5
  g.embed && ptrTier w != 0 && (List.range 8).any (fun i => s.accessCode (s.corePart c) (ptrTier w) (ptrAddr w + 64 * i) 64 == 0x12)

/-- Every fetch of the command has been issued: its load counts are added and its trailer placed. -/
def endFetch (c : Nat) (g : GthCmd) (s : State) : State :=
  if s.loadsHeld c g then s
  else if g.trl && s.pastWin c g.q 16 then seqFaultAt c g.pc 0x0B g.q s
  else match (if g.trl then reserve c g.q 16 s else (some 0, s)) with
    | (none, s) => s
    | (some at_, s) =>
      let r := if g.embed && ptrTier (tdw g.desc 5) != 0 then addLoads c g 8 0 (0, 0, s) else (0, 0, s)
      if r.1 ≠ 0 then gthRdFault c g.pos (r.1, r.2.1) r.2.2
      else gthFinish c 5 (setCmd c { g with allOut := true, trlAt := at_ } r.2.2)

/-- The engine goes on until it has issued one request, or must wait. -/
def gthFetch (c : Nat) : Nat → State → State
  | 0, s => s
  | fuel + 1, s =>
    match (s.core c).gth.active.getLast? with
    | none => s
    | some g =>
      if g.allOut then s
      else match g.rows.find? (fun r => decide (r.issued < r.len)) with
        | some row => issueBlock c g row s
        | none =>
          if g.edge < g.edgeEnd then nextEdge c g s
          else if g.item < g.nItems then
            match beginItem c g s with
            | (s, true) => gthFetch c fuel s
            | (s, false) => s
          else endFetch c g s

/-- GATHER_ROW_FETCH: a block that the engine has asked for returns, and the engine goes on (R357). -/
def gatherFetch (c : Nat) (s : State) : State := gthFetch c 65540 (metaArrive c s)

/-! ## Rows that arrive (R359, R371) -/

/-- The oldest rows of a reducing command that have arrived are consumed in edge order. -/
def reduceRows (c no : Nat) : Nat → State → State
  | 0, s => s
  | fuel + 1, s =>
    match (s.core c).gth.active.find? (fun g => g.no == no) with
    | none => s
    | some g =>
      match g.rows with
      | [] => s
      | row :: rest =>
        if row.got < row.len then s
        else if row.mark ≠ 0 then gthFault c 0x06 6 row.pos (row.mark - 1) true s
        else
          let acc0 := if g.acc.isEmpty then List.replicate g.width (gthId g.rfmt g.agg) else g.acc
          let x := g.decode ((List.range row.len).map (fun i => SMap.get row.data i 0))
          let acc := (acc0.zip x).map (fun p => gthStep g.rfmt g.agg p.1 p.2)
          let g' := { g with rows := rest, reduced := g.reduced + 1, acc := if row.last then [] else acc }
          let s := setCmd c g' s
          let s := if g'.reduced % g.perBuf = 0 then unstage c 1 s else s
          let s := if row.last then
              (if g.seg then combineRow c g row (g.reduced_ row.deg acc) s
               else land c g.q row.dst (unmarked (g.outBytes (g.reduced_ row.deg acc))) s)
            else s
          reduceRows c no fuel s

/-- A row of an AGG NONE command lands: poisoned, it is not consumed, and the mark goes with it (R371). -/
def landRow (c : Nat) (g : GthCmd) (row : GthRow) (s : State) : State :=
  let d := if row.mark ≠ 0 then List.replicate g.outRow ((0 : Byte), row.mark)
    else unmarked (g.outBytes (g.decode ((List.range row.len).map (fun i => SMap.get row.data i 0))))
  land c g.q row.dst d (setCmd c { g with rows := g.rows.filter (fun x => x.seq != row.seq) } s)

/-- GATHER_ROW_ARRIVE: a row fetch request's data arrives. -/
def gthArrive (c id : Nat) (s : State) : State :=
  let k := s.core c
  match k.gth.reqs.find? (fun r => r.id == id) with
  | none => s
  | some rq =>
    match k.gth.active.find? (fun g => g.no == rq.cmd) with
    | none => s
    | some g =>
      match g.rows.find? (fun r => r.seq == rq.seq) with
      | none => s
      | some row =>
        let rmt := s.isRmtDie (c / 256) rq.tier rq.addr
        if s.overdue (pCORE c) rq.iss then gthTimeout c row.pos (.gth c id) rq.tier rq.addr s
        else if !s.turnAt rq.tier rq.addr rq.len (reqClass false rmt) rq.iss.since then s
        else
        let r := memRead (pCORE c) ⟨s.corePart c, rq.slot⟩ rq.tier rq.addr rq.len rmt s
        if r.1 = 0x12 ∨ !s.combReady c g then s
        else if r.1 ≠ 0 then gthRdFault c row.pos (r.1, if g.embed then row.addr else rq.addr) r.2.2
        else
          let s := perf (pCORE c) 0x36 rq.len r.2.2
          let d := withSrc rq.tier rq.addr r.2.1
          let row := { row with got := row.got + rq.len, data := putDieBytes row.data rq.ofs (d.map (·.1)), mark := if row.mark ≠ 0 then row.mark else firstMark d }
          let g := { g with rows := g.rows.map (fun x => if x.seq = row.seq then row else x) }
          let k := s.core c
          let s := setCmd c g (s.setCore c { k with gth := { k.gth with reqs := k.gth.reqs.filter (fun x => x.id != id) } })
          let s := if g.agg ≠ 0 then reduceRows c g.no (g.rows.length + 1) s
            else if row.got = row.len then landRow c g row s else s
          gthFinish c 5 s

/-! ## Meanings -/

/-- GATHER_COMMAND_START. -/
def execGatherCommandStart (c : Nat) (errs : Errs) (s : State) : Host.Outcome State Fault Refusal :=
  whenOk (okCore c) s <| runErr errs (s.corePages c) s (gthStart c)
/-- GATHER_ROW_FETCH. -/
def execGatherRowFetch (c : Nat) (errs : Errs) (s : State) : Host.Outcome State Fault Refusal :=
  whenOk (okCore c) s <| runErr errs (s.corePages c) s (gatherFetch c)
/-- GATHER_ROW_ARRIVE. -/
def execGatherRowArrive (c id : Nat) (errs : Errs) (s : State) : Host.Outcome State Fault Refusal :=
  whenOk (okCore c) s <|
  runErr errs (s.corePages c) s (gthArrive c id)

end Sys2Proof.Machine
end

