-- ==== Sys2Proof/Machine/Mig.lean ====
section
/-! DEFINITION.  The migration engines: EMBED_UPDATE, REQUANT and MIGRATE_ROWS (R388 to R401).  An
engine works one entry at a time on an operation it holds. -/

namespace Sys2Proof.Machine

/-! ## Operations held -/

/-- The engine that holds the operation of a slot, while it runs with class `cls`. -/
def State.migOf (s : State) (p n cls : Nat) : Option Nat :=
  let o := s.slot p n
  if o.st == .running && !o.fin && !o.heldRel && o.cls == cls then
    match o.exec with
    | some (.mig d) => if s.fenced (pMIG d) then none else some d
    | _ => none
  else none

/-- Operations an engine holds (R388). -/
def State.migHeld (s : State) (d : Nat) : List (Nat × Nat) :=
  (List.range 8).foldl (fun a p => a ++ ((s.sc p).slots.filter
    (fun e => e.2.st == .running && !e.2.fin && !e.2.heldRel && e.2.exec == some (.mig d))).map (fun e => (p, e.1))) []

/-- R400: an operation faults, with the log of the MIG page unless the access that failed made it. -/
def migFault (d p n code addr : Nat) (log : Bool) (s : State) : State :=
  migFltEnd d p n code addr (if log then logErr (pMIG d) code p addr 0 s else s)

/-- The moves of an operation that are in progress end before its fault (Table 10-9); that of row `drop` ends here. -/
def migStop (d p n : Nat) (drop : Option Nat) (code addr : Nat) (log : Bool) (s : State) : State :=
  let m := s.mop p n
  let left := m.moves.filter (fun v => some v.row != drop)
  let f := m.fail.getD (code, addr)
  let s := if log then logErr (pMIG d) code p addr 0 s else s
  if left.isEmpty then migFltEnd d p n f.1 f.2 s
  else s.setMop p n { m with moves := left, fail := some f }

/-- A failed access, with its code and place; 0x12 only means that the engine waits in state `s0`. -/
def migRdFault (d p n : Nat) (e : Nat × Nat) (s0 s : State) : State :=
  if e.1 = 0x12 then awaitIf 0x12 s0
  else migStop d p n none e.1 e.2 (e.1 == 0x06 || e.1 == 0x02 || e.1 == 0x1A) s

/-- A read for an operation of partition `p` by the engine of die `d`. -/
def migRead (d p tier addr n : Nat) (s : State) : Except (Nat × Nat) (List Byte) × State :=
  engRead (pMIG d) (s.access p) (s.isRmtDie d tier addr) tier addr n s

/-- A write for an operation: its failure code. -/
def migWrite (d p tier addr : Nat) (bs : List Byte) (s : State) : Nat × State :=
  memWrite (pMIG d) (s.access p) tier addr (plain bs) (s.isRmtDie d tier addr) s

/-- Bytes of the shared region of every cluster the partition holds (R375). -/
def State.sharedOf (s : State) (p : Nat) : Nat :=
  (s.unitsOf resClu p).foldl (fun a k => min a (s.sharedBytes k)) (2 ^ 23)

/-- Is a malformed descriptor or one of the wrong kind (R375, R400)? -/
def State.tdWrong (s : State) (p : Nat) (t : Tdesc) (kind : Nat) : Bool := tdBad t (s.sharedOf p) || tdKind t != kind

/-- R397: the result record is written and the operation is done, once every entry is. -/
def migEnd (d p n : Nat) (s : State) : State :=
  let o := s.slot p n
  let m := s.mop p n
  let rec_ := leBytes 4 m.done ++ leBytes 4 m.same ++ leBytes 4 m.full ++ leBytes 4 m.nonfin
  let r := migWrite d p (ptrTier (o.arg 3)) (ptrAddr (o.arg 3)) rec_ s
  if r.1 ≠ 0 then migRdFault d p n (r.1, memKey (ptrTier (o.arg 3)) (ptrAddr (o.arg 3))) s r.2
  else (perfOwn (pMIG d) 0x91 1 p (r.2.setMop p n {})).setSlot p n { o with fin := true }

/-- A row of a table resolved by the engine, or the operation's fault. -/
def migRow (d p n : Nat) (t : Tdesc) (r : Nat) (s0 s : State) (k : RowAt → State → State) : State :=
  if tdNrows t ≤ r then migStop d p n none 0x05 r true s
  else match rowAddr (pMIG d) (s.access p) d t (rdTable (pMIG d) (s.access p) d t) r s with
    | (.error .range, s) => migStop d p n none 0x05 r true s
    | (.error (.rd code place), s) => migRdFault d p n (code, place) s0 s
    | (.ok a, s) => k a s

/-! ## EMBED_UPDATE (R390) -/

/-- The lanes of line `i` of a gradient row: an FX64 master takes them as they are, an F32 one as FP32. -/
def gradLanes (fx bf : Bool) (w : Nat) (g : List Byte) (i : Nat) : List (Nat × Nat) :=
  let esz := if fx then 8 else 4
  let per := 64 / esz
  (List.range (min per (w - i * per))).map fun j =>
    let x := if bf then fieldOf g (2 * (i * per + j)) 2 else fieldOf g (4 * (i * per + j)) 4
    (j * esz, if bf && !fx then toF32 .bf16 x else x)

/-- Atomics of a record's lines in order, up to the first failure: its code and place. -/
def updLines (d p tier addr code : Nat) (lanes : Nat → List (Nat × Nat)) : Nat → Nat → State → Nat × Nat × State
  | 0, _, s => (0, 0, s)
  | k + 1, i, s =>
    let a := addr + 64 * i
    let s := s.add64 (pMIG d) R.MIG_ATOM_LO R.MIG_ATOM_HI 1
    let r := memAtomic (pMIG d) (s.access p) tier a code (lanes i) (s.isRmtDie d tier a) s
    if r.1 ≠ 0 then (r.1, a, r.2.2) else updLines d p tier addr code lanes k (i + 1) r.2.2

/-- One entry of an EMBED_UPDATE. -/
def updEntry (d p n : Nat) (s : State) : State :=
  let o := s.slot p n
  let m := s.mop p n
  let t := o.copy
  let w := tdW t
  let bf := bit (o.arg 2) 56
  let gt := ptrTier (o.arg 2)
  match migRead d p (ptrTier (o.arg 1)) (ptrAddr (o.arg 1) + 4 * m.next) 4 s with
  | (.error e, s1) => migRdFault d p n e s s1
  | (.ok rb, s1) =>
    match migRead d p gt (ptrAddr (o.arg 2) + m.next * (bits (o.arg 2) 55 50 + 1) * 64) ((if bf then 2 else 4) * w) s1 with
    | (.error e, s2) => migRdFault d p n e s s2
    | (.ok g, s2) =>
      migRow d p n t (leNat rb) s s2 fun a s3 =>
        let fx := tdRfmt t == 6
        let lines := ceilDiv (recBytes (tdRfmt t) w) 64
        if (List.range lines).any (fun i => s3.accessCode p a.tier (a.addr + 64 * i) 64 == 0x12) then awaitIf 0x12 s
        else
          let r := updLines d p a.tier a.addr (if fx then (if bf then 0x06 else 0x05) else 0x03) (gradLanes fx bf w g) lines 0 s3
          if r.1 ≠ 0 then migRdFault d p n (r.1, memKey a.tier r.2.1) s r.2.2
          else (perfOwn (pMIG d) 0x90 (recBytes (tdRfmt t) w) p r.2.2).setMop p n { m with next := m.next + 1, done := m.done + 1 }

/-- EMBED_UPDATE: the engine's next step on the operation. -/
def embedUpdate (p n : Nat) (s : State) : State :=
  match s.migOf p n 5 with
  | none => s
  | some d =>
    let o := s.slot p n
    if s.tdWrong p o.copy 2 then migFault d p n 0x04 (memKey (ptrTier (o.arg 0)) (ptrAddr (o.arg 0))) true s
    else if (s.mop p n).next ≤ bits (o.arg 1) 63 50 then updEntry d p n s
    else migEnd d p n s

/-! ## REQUANT (R392, R393) -/

/-- Is a < b, for finite values? -/
def fvLt (a b : Fv) : Bool :=
  match Fv.add a (Fv.neg b) with
  | .fin m _ => decide (m < 0)
  | _ => false

/-- rnd16_sat: FP16 to nearest even, ±65,504 for magnitudes beyond. -/
def rnd16Sat (v : Fv) : Nat :=
  let q := FpFmt.fp16.round v
  if q % FpFmt.fp16.signBit = FpFmt.fp16.infCode then q - 1 else q

/-- (x − o) / s rounded to the nearest integer, ties to even, for s > 0. -/
def quotRne (x o s : Fv) : Int :=
  match Fv.add x (Fv.neg o), s with
  | .fin m e, .fin ms es =>
    let up := 2 ^ (e - es).toNat
    let dn := 2 ^ (es - e).toNat
    let q := rneDiv (m.natAbs * up) (ms.natAbs * dn)
    if m < 0 then -(q : Int) else (q : Int)
  | _, _ => 0

/-- An integer held within bounds. -/
def clampInt (lo hi x : Int) : Int := if x < lo then lo else if x > hi then hi else x

/-- The scale, offset and codes of requant_row, from FP32 patterns; the last part says NaN or infinity. -/
def requantRow (q4 : Bool) (xs : List Nat) : Nat × Nat × List Int × Bool :=
  let vs := xs.map FpFmt.fp32.value
  let fin (v : Fv) : Bool := match v with | .fin _ _ => true | _ => false
  if !vs.all fin then (0x7E00, 0, vs.map (fun _ => 0), true)
  else
    let lo := vs.tail.foldl (fun a v => if fvLt v a then v else a) (vs.headD (.fin 0 0))
    let hi := vs.tail.foldl (fun a v => if fvLt a v then v else a) (vs.headD (.fin 0 0))
    let sc := rnd16Sat (fvDivNat (Fv.add hi (Fv.neg lo)) (if q4 then 15 else 255))
    let of_ := rnd16Sat (Fv.mul (Fv.add hi lo) (.fin 1 (-1)))
    let code (v : Fv) : Int :=
      if sc = 0 then 0
      else clampInt (if q4 then -8 else -128) (if q4 then 7 else 127) (quotRne v (FpFmt.fp16.value of_) (FpFmt.fp16.value sc))
    (sc, of_, vs.map code, false)

/-- The codes of a record packed as its bytes. -/
def packCodes (q4 : Bool) : List Int → List Byte
  | [] => []
  | x :: xs =>
    if q4 then
      match xs with
      | [] => leBytes 1 (uns 4 x)
      | y :: ys => leBytes 1 (uns 4 x + 16 * uns 4 y) ++ packCodes q4 ys
    else leBytes 1 (uns 8 x) ++ packCodes q4 xs

/-- One row of a REQUANT. -/
def requantOne (d p n : Nat) (s : State) : State :=
  let o := s.slot p n
  let m := s.mop p n
  let t := o.copy
  let v := m.serve
  let r := bits (o.arg 2) 31 0 + m.next
  migRow d p n t r s s fun a s1 =>
    match migRead d p a.tier a.addr (recBytes (tdRfmt t) (tdW t)) s1 with
    | (.error e, s2) => migRdFault d p n e s s2
    | (.ok b, s2) =>
      migRow d p n v r s s2 fun w s3 =>
        let q4 := tdRfmt v == 1
        let q := requantRow q4 (decodeRec (tdRfmt t) (tdFxexp t) (tdW t) b)
        let bytes := padTo (64 * tdRst v) (leBytes 2 q.1 ++ leBytes 2 q.2.1 ++ packCodes q4 q.2.2.1)
        let x := migWrite d p w.tier w.addr bytes s3
        if x.1 ≠ 0 then migRdFault d p n (x.1, memKey w.tier w.addr) s x.2
        else
          let s := (perfOwn (pMIG d) 0x90 bytes.length p x.2).add64 (pMIG d) R.MIG_REQ_LO R.MIG_REQ_HI 1
          s.setMop p n { m with next := m.next + 1, done := m.done + 1, nonfin := m.nonfin + b2n q.2.2.2 }

/-- Do the two sides of a REQUANT match? -/
def requantPair (t v : Tdesc) : Bool := tdW t == tdW v && tdSlice t == tdSlice v && tdNrows t == tdNrows v

/-- REQUANT: the engine's next step on the operation. -/
def requant (p n : Nat) (s : State) : State :=
  match s.migOf p n 0x11 with
  | none => s
  | some d =>
    let o := s.slot p n
    let m := s.mop p n
    if !m.started then
      match migRead d p (ptrTier (o.arg 1)) (ptrAddr (o.arg 1)) 64 s with
      | (.error e, s1) => migRdFault d p n e s s1
      | (.ok v, s1) =>
        if s1.tdWrong p o.copy 2 || s1.tdWrong p v 1 || !requantPair o.copy v then
          migFault d p n 0x04 (memKey (ptrTier (o.arg 0)) (ptrAddr (o.arg 0))) true s1
        else s1.setMop p n { m with started := true, serve := v }
    else if m.next < bits (o.arg 2) 63 32 then requantOne d p n s
    else migEnd d p n s

/-! ## MIGRATE_ROWS (R394, R395) -/

/-- The whole move list read and checked: `none` when it is malformed. -/
def listOk (d p tier addr : Nat) : Nat → Nat → State → Except (Nat × Nat) Bool × State
  | 0, _, s => (.ok true, s)
  | k + 1, i, s =>
    match migRead d p tier (addr + 8 * i) 8 s with
    | (.error e, s) => (.error e, s)
    | (.ok b, s) => if bits (leNat b) 63 38 ≠ 0 then (.ok false, s) else listOk d p tier addr k (i + 1) s

/-- R395: the bucket of a row's entry: its VALID one, else the first EMPTY or TOMB one that no move in
progress has taken; `none` without one. -/
def findBucket (t : Tdesc) (rd : BucketRd) (r : Nat) (taken : List Nat) :
    Nat → Nat → Option Nat → State → Except (Nat × Nat) (Option Nat) × State
  | 0, _, f, s => (.ok f, s)
  | fuel + 1, i, f, s =>
    let b := (rowBucket t r + i) % 2 ^ tdRb t
    match rd (i == 0 || b % 8 == 0) b s with
    | (.error e, s) => (.error e, s)
    | (.ok e, s) =>
      if reState e = 1 ∧ reRow e = r then (.ok (some b), s)
      else findBucket t rd r taken fuel (i + 1)
        (if f.isNone && (reState e == 0 || reState e == 2) && !taken.contains b then some b else f) s

/-- The lowest clear bit of a spare bitmap of `n` bits, from 64-bit word `i` on. -/
def findSpare (d p tier addr n : Nat) : Nat → Nat → State → Except (Nat × Nat) (Option Nat) × State
  | 0, _, s => (.ok none, s)
  | fuel + 1, i, s =>
    match migRead d p tier (addr + 8 * i) 8 s with
    | (.error e, s) => (.error e, s)
    | (.ok b, s) =>
      match findUp (fun j => decide (64 * i + j < n) && !bit (leNat b) j) 64 0 with
      | some j => (.ok (some (64 * i + j)), s)
      | none => findSpare d p tier addr n fuel (i + 1) s

/-- One bit of a spare bitmap set or cleared: the failure code. -/
def setSpare (d p : Nat) (m : Shard) (j : Nat) (v : Bool) (s : State) : Nat × Nat × State :=
  let a := m.sbAddr + j / 64 * 8
  match migRead d p m.sbTier a 8 s with
  | (.error e, s) => (e.1, e.2, s)
  | (.ok b, s) =>
    let r := migWrite d p m.sbTier a (leBytes 8 (setBits (leNat b) (j % 64) (j % 64) (b2n v))) s
    (r.1, memKey m.sbTier a, r.2)

/-- Step 3 of Table 10-5: the record is copied, and the move waits for step 4. -/
def moveCopy (d p n : Nat) (t : Tdesc) (a : RowAt) (ntier naddr : Nat) (mv : RowMove) (s0 s : State) : State :=
  match migRead d p a.tier a.addr (64 * tdRst t) s with
  | (.error e, s1) => migRdFault d p n e s0 s1
  | (.ok b, s1) =>
    let r := migWrite d p ntier naddr b s1
    if r.1 ≠ 0 then migRdFault d p n (r.1, memKey ntier naddr) s0 r.2
    else
      let m := r.2.mop p n
      (perfOwn (pMIG d) 0x90 b.length p r.2).setMop p n { m with next := m.next + 1, moves := m.moves ++ [mv] }

/-- The move ends here, counted in SAME or FULL. -/
def moveNone (p n : Nat) (full : Bool) (s : State) : State :=
  let m := s.mop p n
  s.setMop p n (if full then { m with next := m.next + 1, full := m.full + 1 } else { m with next := m.next + 1, same := m.same + 1 })

/-- Step 2: a spare slot of the target is claimed. -/
def moveSpare (d p n : Nat) (t : Tdesc) (a : RowAt) (r target bucket : Nat) (s0 s : State) : State :=
  match shardOf (pMIG d) (s.access p) d t target s with
  | (.error e, s1) => migRdFault d p n e s0 s1
  | (.ok m, s1) =>
    match findSpare d p m.sbTier m.sbAddr (m.cap - tdRps t) (ceilDiv (m.cap - tdRps t) 64) 0 s1 with
    | (.error e, s2) => migRdFault d p n e s0 s2
    | (.ok none, s2) => moveNone p n true s2
    | (.ok (some j), s2) =>
      let x := setSpare d p m j true s2
      if x.1 ≠ 0 then migRdFault d p n (x.1, x.2.1) s0 x.2.2
      else moveCopy d p n t a m.tier (m.base + (tdRps t + j) * tdRst t * 64)
        { row := r, oldShard := a.shard, oldSlot := a.slot, newShard := target, newSlot := tdRps t + j, bucket := bucket, home := false } s0 x.2.2

/-- Moves an engine has in progress (MIG_CFG.MOVES). -/
def State.movesOf (s : State) (d : Nat) : Nat := (s.migHeld d).foldl (fun a x => a + (s.mop x.1 x.2).moves.length) 0

/-- Steps 1 to 3 of the next move of the list. -/
def moveStart (d p n : Nat) (s : State) : State :=
  let o := s.slot p n
  let m := s.mop p n
  let t := o.copy
  match migRead d p (ptrTier (o.arg 1)) (ptrAddr (o.arg 1) + 8 * m.next) 8 s with
  | (.error e, s1) => migRdFault d p n e s s1
  | (.ok eb, s1) =>
    let r := bits (leNat eb) 31 0
    let target := bits (leNat eb) 37 32
    if m.moves.any (fun x => x.row == r) || decide (s.f (pMIG d) F.MIG_CFG_MOVES ≤ s.movesOf d) then s
    else migRow d p n t r s s1 fun a s2 =>
      if tdNshard t ≤ target then migStop d p n none 0x05 r true s2
      else if target = a.shard then moveNone p n false s2
      else
        match findBucket t (rdTable (pMIG d) (s2.access p) d t) r (m.moves.map (·.bucket)) 64 0 none s2 with
        | (.error e, s3) => migRdFault d p n e s s3
        | (.ok none, s3) => moveNone p n true s3
        | (.ok (some b), s3) =>
          if target = r / tdRps t then
            match shardOf (pMIG d) (s3.access p) d t target s3 with
            | (.error e, s4) => migRdFault d p n e s s4
            | (.ok h, s4) =>
              moveCopy d p n t a h.tier (h.base + r % tdRps t * tdRst t * 64)
                { row := r, oldShard := a.shard, oldSlot := a.slot, newShard := target, newSlot := r % tdRps t, bucket := b, home := true } s s4
          else moveSpare d p n t a r target b s s3

/-- MIGRATE_ROWS: the engine begins its next move, or ends the operation. -/
def migrateRows (p n : Nat) (s : State) : State :=
  match s.migOf p n 0x10 with
  | none => s
  | some d =>
    let o := s.slot p n
    let m := s.mop p n
    let here := memKey (ptrTier (o.arg 0)) (ptrAddr (o.arg 0))
    if !m.started then
      if tdBad o.copy (s.sharedOf p) || !tdRedir o.copy then migFault d p n 0x04 here true s
      else match listOk d p (ptrTier (o.arg 1)) (ptrAddr (o.arg 1)) (bits (o.arg 1) 63 50 + 1) 0 s with
        | (.error e, s1) => migRdFault d p n e s s1
        | (.ok false, s1) => migFault d p n 0x04 (memKey (ptrTier (o.arg 1)) (ptrAddr (o.arg 1))) true s1
        | (.ok true, s1) => s1.setMop p n { m with started := true }
    else if m.fail.isSome then s
    else if m.next ≤ bits (o.arg 1) 63 50 then moveStart d p n s
    else if m.moves.isEmpty then migEnd d p n s
    else s

/-- The redirect entry of a move (Table 10-3). -/
def RowMove.entry (v : RowMove) : Nat :=
  v.row + v.newSlot * 2 ^ 32 + v.newShard * 2 ^ 56 + (if v.home then 2 else 1) * 2 ^ 62

/-- ROW_MOVE_REDIRECT (step 4): the entry is written to RDIR and to the copy of every cluster.  A copy that reaches
into a weight region by now (R242) makes the descriptor malformed (R375). -/
def moveRedirect (p n r : Nat) (s : State) : State :=
  let m := s.mop p n
  match s.migOf p n 0x10, m.moves.find? (fun v => v.row == r && !v.redirected) with
  | some d, some v =>
    let t := (s.slot p n).copy
    let tier := ptrTier (tdw t 3)
    let addr := ptrAddr (tdw t 3) + 8 * v.bucket
    if s.sharedOf p < tdRdofs t + 8 * v.bucket + 8 then migStop d p n (some r) 0x04 (memKey tier addr) true s
    else
      let x := migWrite d p tier addr (leBytes 8 v.entry) s
      if x.1 = 0x12 then awaitIf 0x12 s
      else if x.1 ≠ 0 then migStop d p n (some r) x.1 (memKey tier addr) (x.1 == 0x06 || x.1 == 0x02) x.2
      else
        let s := forEach (fun k s => cluWrite k (tdRdofs t + 8 * v.bucket) (unmarked (leBytes 8 v.entry)) s) (s.unitsOf resClu p) x.2
        s.setMop p n { m with moves := m.moves.map (fun y => if y.row = r then { y with redirected := true } else y) }
  | _, _ => s

/-- A move is done; the last one before a failed entry raises its fault. -/
def moveDone (d p n r : Nat) (s : State) : State :=
  let m := s.mop p n
  let s := (s.add64 (pMIG d) R.MIG_ROWS_LO R.MIG_ROWS_HI 1).setMop p n
    { m with done := m.done + 1, moves := m.moves.filter (fun y => y.row != r) }
  match m.fail with
  | some f => migStop d p n none f.1 f.2 false s
  | none => s

/-- ROW_MOVE_FINISH (step 5): an old spare slot is freed, and the move counts in DONE. -/
def moveFinish (p n r : Nat) (s : State) : State :=
  let m := s.mop p n
  match s.migOf p n 0x10, m.moves.find? (fun v => v.row == r && v.redirected) with
  | some d, some v =>
    let t := (s.slot p n).copy
    if v.oldSlot < tdRps t then moveDone d p n r s
    else match shardOf (pMIG d) (s.access p) d t v.oldShard s with
      | (.error e, s1) => if e.1 = 0x12 then awaitIf 0x12 s else migStop d p n (some r) e.1 e.2 (e.1 == 0x06 || e.1 == 0x02) s1
      | (.ok h, s1) =>
        let x := setSpare d p h (v.oldSlot - tdRps t) false s1
        if x.1 = 0x12 then awaitIf 0x12 s
        else if x.1 ≠ 0 then migStop d p n (some r) x.1 x.2.1 (x.1 == 0x06 || x.1 == 0x02) x.2.2
        else moveDone d p n r x.2.2
  | _, _ => s

/-! ## Meanings -/

/-- EMBED_UPDATE. -/
def execEmbedUpdate (p slot : Nat) (errs : Errs) (s : State) : Host.Outcome State Fault Refusal :=
  whenOk (okPart p && okSlot slot) s <| runErr errs [pSCH p] s (fun s => stamp p slot (embedUpdate p slot s))
/-- REQUANT. -/
def execRequant (p slot : Nat) (errs : Errs) (s : State) : Host.Outcome State Fault Refusal :=
  whenOk (okPart p && okSlot slot) s <| runErr errs [pSCH p] s (fun s => stamp p slot (requant p slot s))
/-- MIGRATE_ROWS. -/
def execMigrateRows (p slot : Nat) (errs : Errs) (s : State) : Host.Outcome State Fault Refusal :=
  whenOk (okPart p && okSlot slot) s <| runErr errs [pSCH p] s (fun s => stamp p slot (migrateRows p slot s))
/-- ROW_MOVE_REDIRECT. -/
def execRowMoveRedirect (p slot row : Nat) (errs : Errs) (s : State) : Host.Outcome State Fault Refusal :=
  whenOk (okPart p && okSlot slot) s <| runErr errs [pSCH p] s (fun s => stamp p slot (moveRedirect p slot row s))
/-- ROW_MOVE_FINISH. -/
def execRowMoveFinish (p slot row : Nat) (errs : Errs) (s : State) : Host.Outcome State Fault Refusal :=
  whenOk (okPart p && okSlot slot) s <| runErr errs [pSCH p] s (fun s => stamp p slot (moveFinish p slot row s))

end Sys2Proof.Machine
end

