-- ==== Sys2Proof/Machine/Tok.lean ====
section
/-! DEFINITION.  Tokenizing: vocabularies, streams and TOKENIZE (R465 to R495). -/

namespace Sys2Proof.Machine

/-! ## Engines, slots and streams -/

def State.eng (s : State) (e : Nat) : TokEng := SMap.get s.tok e {}
def State.setEng (s : State) (e : Nat) (v : TokEng) : State := { s with tok := SMap.put s.tok e v {} }
def State.vslot (s : State) (e n : Nat) : VSlot := SMap.get (s.eng e).slots n {}
def State.setVslot (s : State) (e n : Nat) (v : VSlot) : State :=
  s.setEng e { s.eng e with slots := SMap.put (s.eng e).slots n v {} }
def State.strm (s : State) (e n : Nat) : Stream := SMap.get (s.eng e).streams n {}
def State.setStrm (s : State) (e n : Nat) (v : Stream) : State :=
  s.setEng e { s.eng e with streams := SMap.put (s.eng e).streams n v {} }
def State.stopBlk (s : State) (e n : Nat) : StopBlk := SMap.get (s.eng e).stops n {}
def State.setStopBlk (s : State) (e n : Nat) (v : StopBlk) : State :=
  s.setEng e { s.eng e with stops := SMap.put (s.eng e).stops n v {} }

/-- ENGINE, STREAM, START and END of ARG0. -/
def OpSlot.tokEng (o : OpSlot) : Nat := bits (o.arg 0) 1 0
def OpSlot.strm (o : OpSlot) : Nat := bits (o.arg 0) 11 2
def OpSlot.start (o : OpSlot) : Bool := bit (o.arg 0) 12
def OpSlot.end_ (o : OpSlot) : Bool := bit (o.arg 0) 13
/-- Count and capacity of ARG3. -/
def OpSlot.inLen (o : OpSlot) : Nat := bits (o.arg 3) 31 0
def OpSlot.cap (o : OpSlot) : Nat := bits (o.arg 3) 63 32

/-- Operations the engine holds, in the order in which it took them. -/
def State.tokHeld (s : State) (e : Nat) : List (Nat × Nat) :=
  (s.eng e).held.filter (fun x =>
    let o := s.slot x.1 x.2
    o.st == .running && o.exec == some (.token e) && !o.heldRel)

/-- Has a stream an operation held? -/
def State.strmHeld (s : State) (e n : Nat) : Bool := (s.tokHeld e).any (fun x => (s.slot x.1 x.2).strm == n)

/-- The engine that works on the operation of a slot now: one of class `cls`, first of its stream (R468). -/
def State.tokOf (s : State) (p n cls : Nat) : Option Nat :=
  let o := s.slot p n
  match o.exec with
  | some (.token e) =>
    if o.cls == cls && !o.fin && !s.fenced (pTOK e) && (s.tokHeld e).find? (fun x => (s.slot x.1 x.2).strm == o.strm) == some (p, n) then some e
    else none
  | _ => none

/-- A read for an operation of partition `p` by an engine. -/
def tokRead (e p tier addr n : Nat) (s : State) : Except (Nat × Nat) (List Byte) × State :=
  if n = 0 then (.ok [], s) else engRead (pTOK e) (s.access p) (s.isRmtDie (e / 2) tier addr) tier addr n s

/-- A failed read or check: 0x12 only means that the engine waits in state `s0`. -/
def tokErr (e p n : Nat) (x : Nat × Nat) (s0 s : State) : State :=
  if x.1 = 0x12 then s0
  else tokFault e p n x.1 x.2 (x.1 != 0x03 && x.1 != 0x1B && !(x.1 == 0x05 && x.2 != 0)) true s

/-- R469: the code an operation faults with when it starts, 0 for none. -/
def State.tokStartCode (s : State) (e p n : Nat) : Nat :=
  let st := s.strm e (s.slot p n).strm
  let v := s.vslot e st.vslot
  if st.owner ≠ p ∨ v.owner ≠ p then 0x02 else if !st.en || !v.valid then 0x11 else 0

/-- `n` free bytes: what a faulted operation has written before its fault is not specified (R473). -/
def freeBytes (n : Nat) (s : State) : List Byte × State :=
  ((List.range n).map (fun i => BitVec.ofNat 8 (Config.freeValue (s.fresh + i)).toNat), { s with fresh := s.fresh + n })

/-- The output of an operation: header and data; a fault code where it cannot be written. -/
def tokWrite (e p n : Nat) (bs : List Byte) (s : State) : Nat × State :=
  let o := s.slot p n
  memWrite (pTOK e) (s.access p) (ptrTier (o.arg 2)) (ptrAddr (o.arg 2)) (plain bs) (s.isRmtDie (e / 2) (ptrTier (o.arg 2)) (ptrAddr (o.arg 2))) s

/-- The operation is done: its completion is to be granted, and gives its stream state `st` (R472). -/
def tokDone (e p n : Nat) (st : Stream) (info : Option (Nat × Nat × Nat)) (s : State) : State :=
  let g := s.eng e
  let s := s.setEng e { g with
    after := g.after.filter (fun x => !(x.part == p && x.slot == n)) ++ [{ part := p, slot := n, strm := st, info := info }] }
  s.setSlot p n { s.slot p n with fin := true }

/-- R474: the output of an operation whose capacity is too small: its header with STATUS 0x05, and no
data beyond the capacity. -/
def capFault (e p n need : Nat) (hdr : List Byte) (s : State) : State :=
  let f := freeBytes (tokOutBytes (s.slot p n) - 16) s
  let r := tokWrite e p n (hdr ++ f.1) f.2
  if r.1 = 0x12 then s
  else tokFault e p n 0x05 (need % 2 ^ 32) true false (if r.1 = 0 then r.2 else s)

/-! ## UTF-8 (Table 13-4) -/

/-- Length of a character by its first byte, and the range of its second. -/
def leadOf (f : Nat) : Option (Nat × Nat × Nat) :=
  if f < 0x80 then some (1, 0, 0)
  else if 0xC2 ≤ f ∧ f ≤ 0xDF then some (2, 0x80, 0xBF)
  else if f = 0xE0 then some (3, 0xA0, 0xBF)
  else if f = 0xED then some (3, 0x80, 0x9F)
  else if 0xE1 ≤ f ∧ f ≤ 0xEF then some (3, 0x80, 0xBF)
  else if f = 0xF0 then some (4, 0x90, 0xBF)
  else if 0xF1 ≤ f ∧ f ≤ 0xF3 then some (4, 0x80, 0xBF)
  else if f = 0xF4 then some (4, 0x80, 0x8F)
  else none

/-- Is the byte within a range? -/
def inRange (b : Byte) (lo hi : Nat) : Bool := decide (lo ≤ b.toNat) && decide (b.toNat ≤ hi)

/-- wf_len of the bytes from a position to the end: the length of a well-formed character, −1 for a
proper prefix of one that the end cuts off, else 0. -/
def wfLen : List Byte → Int
  | [] => 0
  | f :: rest =>
    match leadOf f.toNat with
    | none => 0
    | some (len, lo, hi) =>
      if len = 1 then 1
      else match rest with
        | [] => -1
        | b :: r1 =>
          if !inRange b lo hi then 0
          else if len = 2 then 2
          else match r1 with
            | [] => -1
            | b2 :: r2 =>
              if !inRange b2 0x80 0xBF then 0
              else if len = 3 then 3
              else match r2 with
                | [] => -1
                | b3 :: _ => if inRange b3 0x80 0xBF then 4 else 0

/-! ## Vocabulary images (Table 13-2, Table 13-3) -/

def imgCB (h : List Byte) : Nat := fieldOf h 6 1
def imgMB (h : List Byte) : Nat := fieldOf h 7 1
def imgNtok (h : List Byte) : Nat := fieldOf h 8 4
def imgByteBase (h : List Byte) : Nat := fieldOf h 12 4
def imgSize (h : List Byte) : Nat := fieldOf h 24 8
/-- SPLIT holds byte value `b`. -/
def imgSplit (h : List Byte) (b : Byte) : Bool := bit (fieldOf h (32 + b.toNat / 8) 1) (b.toNat % 8)
/-- Bytes of a hash image. -/
def hashSize (h : List Byte) : Nat := 64 + 16 * (2 ^ imgCB h + 2 ^ imgMB h)

/-- Char bucket `j`: KEY, LEN, ID and the bytes that are 0. -/
def charEnt (img : List Byte) (j : Nat) : Nat × Nat × Nat × Nat :=
  let o := 64 + 16 * j
  (fieldOf img o 4, fieldOf img (o + 4) 1, fieldOf img (o + 8) 4, fieldOf img (o + 5) 3 + fieldOf img (o + 12) 4)
/-- Merge bucket `j`: LEFT, RIGHT, RANK, RESULT. -/
def mergeEnt (img : List Byte) (j : Nat) : Nat × Nat × Nat × Nat :=
  let o := 64 + 16 * 2 ^ imgCB img + 16 * j
  (fieldOf img o 4, fieldOf img (o + 4) 4, fieldOf img (o + 8) 4, fieldOf img (o + 12) 4)
/-- Home buckets (R476). -/
def charHome (img : List Byte) (key : Nat) : Nat := key * 0x9E3779B1 % 2 ^ 32 / 2 ^ (32 - imgCB img)
def mergeHome (img : List Byte) (l r : Nat) : Nat :=
  Nat.xor (l * 0x9E3779B1 % 2 ^ 32) (r * 0x85EBCA77 % 2 ^ 32) / 2 ^ (32 - imgMB img)

/-- char_find. -/
def charFind (img : List Byte) (c : List Byte) : Option Nat :=
  let key := leNat c
  let rec go : Nat → Nat → Option Nat
    | 0, _ => none
    | fuel + 1, i =>
      let e := charEnt img ((charHome img key + i) % 2 ^ imgCB img)
      if e.2.1 = 0 then none
      else if e.2.1 = c.length ∧ e.1 = key then some e.2.2.1
      else go fuel (i + 1)
  go 32 0

/-- merge_find: RANK and RESULT. -/
def mergeFind (img : List Byte) (l r : Nat) : Option (Nat × Nat) :=
  let rec go : Nat → Nat → Option (Nat × Nat)
    | 0, _ => none
    | fuel + 1, i =>
      let e := mergeEnt img ((mergeHome img l r + i) % 2 ^ imgMB img)
      if e.2.2.1 = 0xFFFFFFFF then none
      else if e.1 = l ∧ e.2.1 = r then some (e.2.2.1, e.2.2.2)
      else go fuel (i + 1)
  go 32 0

/-- Does a header's common part fit Table 13-2? -/
def imgCommonOk (h : List Byte) : Bool :=
  fieldOf h 0 4 == 0x48544B53 && fieldOf h 5 1 == 1 && decide (257 ≤ imgNtok h) && decide (imgByteBase h + 256 ≤ imgNtok h)

/-- R477: does a hash image's header fit a slot of `room` bytes? -/
def hashHdrOk (h : List Byte) (room : Nat) : Bool :=
  imgCommonOk h && fieldOf h 4 1 == 1 && decide (8 ≤ imgCB h) && decide (imgCB h ≤ 20) && decide (8 ≤ imgMB h) && decide (imgMB h ≤ 20) &&
    decide (imgNtok h ≤ 262144) && imgSize h == 0 && decide (fieldOf h 16 4 + fieldOf h 20 4 ≤ 262144) && decide (hashSize h ≤ room)

/-- Is the ID below NTOK and outside the byte tokens? -/
def imgIdOk (h : List Byte) (x : Nat) : Bool := decide (x < imgNtok h) && !(decide (imgByteBase h ≤ x) && decide (x < imgByteBase h + 256))

/-- R477: is bucket `j` of a table of `nb` within 32 of its home, with no empty bucket between? -/
def nearHome (nb j home : Nat) (empty : Nat → Bool) : Bool :=
  let d := (j + nb - home) % nb
  decide (d < 32) && (List.range d).all (fun i => !empty ((home + i) % nb))

/-- R477: are the tables of a hash image well formed? -/
def hashBodyOk (img : List Byte) : Bool :=
  let nc := 2 ^ imgCB img
  let nm := 2 ^ imgMB img
  let cEmpty (j : Nat) : Bool := (charEnt img j).2.1 == 0
  let mEmpty (j : Nat) : Bool := (mergeEnt img j).2.2.1 == 0xFFFFFFFF
  let cs := (List.range nc).filter (fun j => !cEmpty j)
  let ms := (List.range nm).filter (fun j => !mEmpty j)
  cs.all (fun j =>
    let e := charEnt img j
    decide (e.2.1 ≤ 4) && e.2.2.2 == 0 && wfLen ((leBytes 4 e.1).take e.2.1) == (e.2.1 : Int) && decide (e.1 < 256 ^ e.2.1) &&
      imgIdOk img e.2.2.1 && nearHome nc j (charHome img e.1) cEmpty) &&
  ms.all (fun j =>
    let e := mergeEnt img j
    imgIdOk img e.1 && imgIdOk img e.2.1 && imgIdOk img e.2.2.2 && nearHome nm j (mergeHome img e.1 e.2.1) mEmpty) &&
  decide ((cs.map (fun j => (charEnt img j).1)).Nodup) &&
  decide ((ms.map (fun j => ((mergeEnt img j).1, (mergeEnt img j).2.1))).Nodup) &&
  cs.length == fieldOf img 16 4 && ms.length == fieldOf img 20 4

/-- R478: does a trie image's header fit Table 13-2? -/
def trieHdrOk (h : List Byte) : Bool :=
  imgCommonOk h && fieldOf h 4 1 == 2 && imgCB h == 0 && imgMB h == 0 && decide (imgNtok h ≤ 4194304) &&
    decide (1 ≤ fieldOf h 16 4) && decide (fieldOf h 16 4 ≤ 4194304) && fieldOf h 20 4 == 0 && imgSize h % 64 == 0 && decide (64 ≤ imgSize h)

/-! ## Pieces (R484, R485) -/

/-- Tokens a piece emits, and whether it needed byte tokens (FALLBACK). -/
abbrev PieceOut := List Nat × Bool

/-- The symbols of a BPE piece before merging: ID and whether it is a lone byte. -/
def bpeSyms (img : List Byte) : Nat → List Byte → List (Nat × Bool)
  | 0, _ => []
  | fuel + 1, bs =>
    match bs with
    | [] => []
    | _ =>
      let k := max 1 (wfLen bs).toNat
      let c := bs.take k
      (match charFind img c with
        | some id => [(id, false)]
        | none => c.map (fun b => (imgByteBase img + b.toNat, true))) ++ bpeSyms img fuel (bs.drop k)

/-- The best merge of a symbol list: position, rank and result; leftmost among equal ranks. -/
def bestMerge (img : List Byte) : Nat → List (Nat × Bool) → Option (Nat × Nat × Nat)
  | i, a :: b :: rest =>
    let here := if a.2 || b.2 then none else (mergeFind img a.1 b.1).map (fun m => (i, m.1, m.2))
    match here, bestMerge img (i + 1) (b :: rest) with
    | none, r => r
    | some m, none => some m
    | some m, some r => if r.2.1 < m.2.1 then some r else some m
  | _, _ => none

/-- Merging until no pair merges. -/
def bpeMerge (img : List Byte) : Nat → List (Nat × Bool) → List (Nat × Bool)
  | 0, xs => xs
  | fuel + 1, xs =>
    match bestMerge img 0 xs with
    | none => xs
    | some (i, _, res) => bpeMerge img fuel (setAt (dropAt xs (i + 1)) i (res, false))

/-- bpe_piece. -/
def bpePiece (img : List Byte) (bs : List Byte) : PieceOut :=
  let xs := bpeSyms img bs.length bs
  ((bpeMerge img xs.length xs).map (·.1), xs.any (·.2))

/-- A trie node read and checked (R479): TOKEN and its children (LABEL, LEN, OFS). -/
def trieNode (e p : Nat) (v : VSlot) (ofs : Nat) (s : State) : Except (Nat × Nat) (Nat × List (List Byte × Nat)) × State :=
  let a := v.addr + ofs
  let h := v.img
  let bad := (0x04, memKey 1 a)
  if imgSize h < ofs + 16 then (.error bad, s)
  else match tokRead e p 1 a 16 s with
    | (.error x, s) => (.error x, s)
    | (.ok nh, s) =>
      let tok := fieldOf nh 0 4
      let nch := fieldOf nh 4 2
      if fieldOf nh 6 10 ≠ 0 ∨ 256 < nch ∨ imgSize h < ofs + 16 + 16 * nch ∨ (tok ≠ 0xFFFFFFFF ∧ imgIdOk h tok = false) ∨
         (ofs = 64 ∧ tok ≠ 0xFFFFFFFF) then (.error bad, s)
      else match tokRead e p 1 (a + 16) (16 * nch) s with
        | (.error x, s) => (.error x, s)
        | (.ok d, s) =>
          let kid (i : Nat) : List Byte := (d.drop (16 * i)).take 16
          let lab0 (i : Nat) : Nat := fieldOf (kid i) 0 1
          let ok (i : Nat) : Bool :=
            let k := kid i
            let ln := fieldOf k 8 1
            decide (1 ≤ ln) && decide (ln ≤ 8) && fieldOf k 9 3 == 0 && fieldOf k ln (8 - ln) == 0 &&
              (i == 0 || decide (lab0 (i - 1) < lab0 i)) && decide (64 * fieldOf k 12 4 + 16 ≤ imgSize h)
          if (List.range nch).all ok then
            (.ok (tok, (List.range nch).map (fun i => ((kid i).take (fieldOf (kid i) 8 1), fieldOf (kid i) 12 4))), s)
          else (.error bad, s)

/-- trie_match from the root on: the longest match's length and ID.  `q` bytes of the piece have been
matched, `bs` are the rest. -/
def trieMatch (e p : Nat) (v : VSlot) : Nat → Nat → List Byte → Nat × Nat → Nat → State → Except (Nat × Nat) (Nat × Nat) × State
  | 0, _, _, best, _, s => (.ok best, s)
  | fuel + 1, ofs, bs, best, q, s =>
    match trieNode e p v ofs s with
    | (.error x, s) => (.error x, s)
    | (.ok (tok, kids), s) =>
      let ends := match bs with
        | [] => true
        | b :: _ => !inRange b 0x80 0xBF
      let best := if q ≠ 0 ∧ tok ≠ 0xFFFFFFFF ∧ ends = true then (q, tok) else best
      match bs with
      | [] => (.ok best, s)
      | b :: _ =>
        match kids.find? (fun c => c.1.head? == some b) with
        | none => (.ok best, s)
        | some c =>
          if bs.take c.1.length = c.1 then trieMatch e p v fuel (64 * c.2) (bs.drop c.1.length) best (q + c.1.length) s
          else (.ok best, s)

/-- trie_piece. -/
def triePiece (e p : Nat) (v : VSlot) : Nat → List Byte → State → Except (Nat × Nat) PieceOut × State
  | 0, _, s => (.ok ([], false), s)
  | fuel + 1, bs, s =>
    match bs with
    | [] => (.ok ([], false), s)
    | _ =>
      match trieMatch e p v (bs.length + 1) 64 bs (0, 0) 0 s with
      | (.error x, s) => (.error x, s)
      | (.ok (l, id), s) =>
        let k := max 1 (wfLen bs).toNat
        let out := if 0 < l then [id] else (bs.take k).map (fun b => imgByteBase v.img + b.toNat)
        match triePiece e p v fuel (bs.drop (if 0 < l then l else k)) s with
        | (.error x, s) => (.error x, s)
        | (.ok (xs, fb), s) => (.ok (out ++ xs, fb || l == 0), s)

/-- piece() in the slot's mode. -/
def piece (e p : Nat) (v : VSlot) (bs : List Byte) (s : State) : Except (Nat × Nat) PieceOut × State :=
  if v.kind = 1 then (.ok (bpePiece v.img bs), s) else triePiece e p v bs.length bs s

/-! ## TOKENIZE (R470 to R474, R482, R483) -/

/-- What a TOKENIZE has produced so far. -/
structure TokAcc where
  /-- Tokens, in order. -/
  toks : List Nat := []
  ninv : Nat := 0
  /-- Position of the first ill-formed byte. -/
  first : Nat := 0
  fallback : Bool := false
  carry : List Byte := []
  deriving DecidableEq, Repr

/-- A piece closed: its tokens join the output. -/
def closePiece (e p : Nat) (v : VSlot) (ps : List Byte) (a : TokAcc) (s : State) : Except (Nat × Nat) TokAcc × State :=
  if ps.isEmpty then (.ok a, s)
  else match piece e p v ps s with
    | (.error x, s) => (.error x, s)
    | (.ok (ts, fb), s) => (.ok { a with toks := a.toks ++ ts, fallback := a.fallback || fb }, s)

/-- The loop of R482: `i` bytes are behind, `ps` is the piece so far, `bs` what is left. -/
def tokLoop (e p : Nat) (v : VSlot) (end_ : Bool) : Nat → Nat → List Byte → List Byte → TokAcc → State → Except (Nat × Nat) TokAcc × State
  | 0, _, ps, _, a, s => closePiece e p v ps a s
  | fuel + 1, i, ps, bs, a, s =>
    match bs with
    | [] => closePiece e p v ps a s
    | b :: rest =>
      let k := wfLen bs
      if k = -1 ∧ end_ = false then
        match closePiece e p v ps a s with
        | (.error x, s) => (.error x, s)
        | (.ok a, s) => (.ok { a with carry := bs }, s)
      else if k ≤ 0 then
        match closePiece e p v ps a s with
        | (.error x, s) => (.error x, s)
        | (.ok a, s) =>
          tokLoop e p v end_ fuel (i + 1) [] rest
            { a with toks := a.toks ++ [imgByteBase v.img + b.toNat], ninv := a.ninv + 1, first := if a.ninv = 0 then i else a.first } s
      else
        let n := k.toNat
        if !ps.isEmpty && (imgSplit v.img b || decide (1024 < ps.length + n)) then
          match closePiece e p v ps a s with
          | (.error x, s) => (.error x, s)
          | (.ok a, s) => tokLoop e p v end_ fuel (i + n) (bs.take n) (bs.drop n) a s
        else tokLoop e p v end_ fuel (i + n) (ps ++ bs.take n) (bs.drop n) a s

/-- Table 13-1. -/
def tokHeader (o : OpSlot) (cin : Nat) (a : TokAcc) (status : Nat) : List Byte :=
  leBytes 4 a.toks.length ++ leBytes 4 (o.inLen - a.carry.length) ++ leBytes 1 cin ++ leBytes 1 a.carry.length
    ++ leBytes 1 (b2n (a.ninv != 0) + b2n a.fallback * 2 + b2n o.end_ * 4 + b2n o.start * 8) ++ leBytes 1 status ++ leBytes 4 a.ninv

/-- TOKENIZE: the engine works through the operation. -/
def tokenize (p n : Nat) (s : State) : State :=
  match s.tokOf p n 8 with
  | none => s
  | some e =>
    let o := s.slot p n
    let st := s.strm e o.strm
    let v := s.vslot e st.vslot
    let sc := s.tokStartCode e p n
    if sc ≠ 0 then tokErr e p n (sc, 0) s s
    else match tokRead e p (ptrTier (o.arg 1)) (ptrAddr (o.arg 1)) o.inLen s with
      | (.error x, s1) => tokErr e p n x s s1
      | (.ok d, s1) =>
        let cin := if o.start then [] else st.carry
        let b := cin ++ d
        match tokLoop e p v o.end_ (b.length + 1) 0 [] b {} s1 with
        | (.error x, s2) => tokErr e p n x s s2
        | (.ok a, s2) =>
          let ntok := a.toks.length
          if o.cap < ntok then capFault e p n ntok (tokHeader o cin.length a 0x05) s2
          else
            let r := tokWrite e p n (tokHeader o cin.length a 0 ++ a.toks.flatMap (leBytes 4)) s2
            if r.1 ≠ 0 then tokErr e p n (r.1, memKey (ptrTier (o.arg 2)) (ptrAddr (o.arg 2))) s r.2
            else
              let s := perfOwn (pTOK e) 0x71 ntok p (perfOwn (pTOK e) 0x70 o.inLen p r.2)
              tokDone e p n { st with carry := a.carry, tok := sat (2 ^ 64 - 1) (st.tok + ntok), inv := sat (2 ^ 32 - 1) (st.inv + a.ninv) }
                (if a.ninv ≠ 0 then some (0x0B, a.ninv % 2 ^ 32 + a.first % 2 ^ 32 * 2 ^ 32, o.strm + e * 1024) else none) s

/-! ## Registers of slots and streams (R492 to R495, R517) -/

/-- The slot and the stream selected. -/
def State.vsel (s : State) (e : Nat) : Nat := s.f (pTOK e) F.TOK_VSEL_SLOT
def State.ssel (s : State) (e : Nat) : Nat := s.f (pTOK e) F.TOK_STRM_SEL_STREAM

/-- Is an enabled stream bound to a slot? -/
def State.enBound (s : State) (e n : Nat) : Bool := (s.eng e).streams.any (fun x => x.2.vslot == n && x.2.en)

/-- Has a stream bound to a slot an operation held? -/
def State.heldBound (s : State) (e n : Nat) : Bool :=
  (s.tokHeld e).any (fun x => (s.strm e (s.slot x.1 x.2).strm).vslot == n)

/-- Is a block inside a slot of non-zero SIZE? -/
def VSlot.covers (v : VSlot) (b : Nat) : Bool := decide (v.base ≤ b) && decide (b < v.base + v.size)

/-- TOK_VSLOT (R493, R517). -/
def wrVslot (m e v : Nat) (s : State) : State :=
  let n := s.vsel e
  let base := bits v 8 0; let size := bits v 24 16; let own := bits v 31 28
  let nv : VSlot := { s.vslot e n with owner := own, size := size, base := base, valid := false, kind := 0, img := [] }
  checkedWrite m (pTOK e) R.TOK_VSLOT v
    (fun s => decide (own < 8) && decide (base < 320) && decide (base + size ≤ 320) &&
      (List.range 4).all (fun k => k == n || !((s.vslot e k).size != 0 && size != 0 && overlaps base size (s.vslot e k).base (s.vslot e k).size)))
    (fun s => ((s.vslot e n).owner == own && (s.vslot e n).size == size && (s.vslot e n).base == base) ||
      (!(s.vslot e n).busy && !s.enBound e n && !(s.eng e).stops.any (fun x => x.2.valid && nv.covers x.1)))
    (fun s => s.setVslot e n nv) s

/-- TOK_VLD_CTL (R494). -/
def wrVldCtl (m e v : Nat) (s : State) : State :=
  let n := s.vsel e
  let pg := pTOK e
  checkedWrite m pg R.TOK_VLD_CTL v (fun _ => true)
    (fun s => !bit v 31 || (!(s.vslot e n).busy && (s.vslot e n).size != 0 && !s.heldBound e n))
    (fun s =>
      if bit v 31 then
        s.setVslot e n { s.vslot e n with
          busy := true, valid := false, err := false, code := 0, kind := 0, img := [], iss := s.issue pg
          tier := s.f pg F.TOK_VLD_SRC_LO_TIER
          addr := s.f pg F.TOK_VLD_SRC_LO_ADDR * 64 + s.f pg F.TOK_VLD_SRC_HI_ADDR * 2 ^ 32 }
      else s) s

/-- A load of a slot fails with a code. -/
def vldFail (e n code : Nat) (log : Bool) (s : State) : State :=
  let v := s.vslot e n
  let s := if log then logErr (pTOK e) code v.owner 0 0 s else s
  s.setVslot e n { v with busy := false, valid := false, err := true, code := code, kind := 0, img := [] }

/-- VOCAB_LOAD_DONE: the load of a slot ends (R475 to R478). -/
def vldDone (e n : Nat) (s : State) : State :=
  let v := s.vslot e n
  if !v.busy then s
  else if !s.holds v.owner v.tier v.addr 64 then vldFail e n 0x02 true s
  else match tokRead e v.owner v.tier v.addr 64 s with
    | (.error x, s1) => if x.1 = 0x12 then s else vldFail e n x.1 (x.1 != 0x03) s1
    | (.ok h, s1) =>
      let done (img : List Byte) (kind : Nat) (s : State) : State :=
        s.setVslot e n { v with busy := false, valid := true, err := false, code := 0, kind := kind, img := img }
      if fieldOf h 4 1 = 2 then
        if !trieHdrOk h || v.tier != 1 then vldFail e n 0x04 true s1
        else if !s.holds v.owner 1 v.addr (imgSize h) then vldFail e n 0x02 true s1
        else done h 2 s1
      else if !hashHdrOk h (v.size * 65536) then vldFail e n 0x04 true s1
      else if !s.holds v.owner v.tier v.addr (hashSize h) then vldFail e n 0x02 true s1
      else match tokRead e v.owner v.tier (v.addr + 64) (hashSize h - 64) s1 with
        | (.error x, s2) => if x.1 = 0x12 then s else vldFail e n x.1 (x.1 != 0x03) s2
        | (.ok body, s2) => if hashBodyOk (h ++ body) then done (h ++ body) 1 s2 else vldFail e n 0x04 true s2

/-- TOK_STRM_CTL (R495). -/
def wrStrmCtl (m e v : Nat) (s : State) : State :=
  let n := s.ssel e
  let st := s.strm e n
  let en := bit v 31; let own := bits v 19 16; let vs := bits v 1 0
  checkedWrite m (pTOK e) R.TOK_STRM_CTL v (fun _ => decide (own < 8))
    (fun s => (!s.strmHeld e n || (st.en == en && st.owner == own && st.vslot == vs)) && !(en && (s.vslot e vs).owner != own))
    (fun s => s.setStrm e n { st with
      en := en, owner := own, vslot := vs
      carry := if en = st.en then st.carry else []
      tok := if en && !st.en then 0 else st.tok, inv := if en && !st.en then 0 else st.inv }) s

/-! ## Meanings -/

/-- TOKENIZE. -/
def execTokenize (p slot : Nat) (errs : Errs) (s : State) : Host.Outcome State Fault Refusal :=
  whenOk (okPart p && okSlot slot) s <| runErr errs [pSCH p] s (tokenize p slot)
/-- VOCAB_LOAD: a write of TOK_VLD_CTL with GO 1. -/
def execVocabLoad (m e : Nat) (s : State) : Host.Outcome State Fault Refusal :=
  whenOk (okMaster m && okToken e) s <| run [pTOK (e % 4)] s (wrVldCtl m (e % 4) (2 ^ 31))
/-- VOCAB_LOAD_DONE. -/
def execVocabLoadDone (e n : Nat) (errs : Errs) (s : State) : Host.Outcome State Fault Refusal :=
  whenOk (okToken e && below 4 n) s <| runErr errs [pTOK e] s (vldDone e n)
/-- TOK_VSLOT_WRITE. -/
def execTokVslotWrite (m e v : Nat) (s : State) : Host.Outcome State Fault Refusal :=
  whenOk (okMaster m && okToken e && okWord v) s <|
  run [pTOK (e % 4)] s (wrVslot m (e % 4) (v % 2 ^ 32))
/-- TOK_STRM_CTL_WRITE. -/
def execTokStrmCtlWrite (m e v : Nat) (s : State) : Host.Outcome State Fault Refusal :=
  whenOk (okMaster m && okToken e && okWord v) s <|
  run [pTOK (e % 4)] s (wrStrmCtl m (e % 4) (v % 2 ^ 32))

end Sys2Proof.Machine
end

