-- ==== Sys2Proof/Machine/Detok.lean ====
section
/-! DEFINITION.  Detokenizing, stop strings and the constraint automaton (R496 to R517). -/

namespace Sys2Proof.Machine

/-! ## Stop matching (R505) -/

/-- Does string `x` occur in `b` at `st`? -/
def occursAt (b x : List Byte) (st : Nat) : Bool := (b.drop st).take x.length == x

/-- first_stop: start and index of the occurrence that ends first, then starts first, then has the
lowest index. -/
def firstStop (strs : List (List Byte)) (b : List Byte) : Option (Nat × Nat) :=
  (List.range (b.length + 1)).findSome? fun en =>
    (List.range en).findSome? fun st =>
      (strs.findIdx? (fun x => x.length == en - st && occursAt b x st)).map (fun i => (st, i))

/-- The longest suffix of `b` that is a proper prefix of a stop string. -/
def stopHold (strs : List (List Byte)) (b : List Byte) : Nat :=
  ((List.range (min b.length 255 + 1)).reverse.find? fun k =>
    strs.any (fun x => decide (k < x.length) && b.drop (b.length - k) == x.take k)).getD 0

/-- The longest suffix, of 1 to 3 bytes, that is a proper prefix of a well-formed character. -/
def utfHold (b : List Byte) : Nat :=
  ([3, 2, 1].find? fun k => decide (k ≤ b.length) && wfLen (b.drop (b.length - k)) == -1).getD 0

/-! ## DETOKENIZE (R496 to R507) -/

/-- What a DETOKENIZE has produced so far. -/
structure DetAcc where
  /-- Bytes released, and bytes held. -/
  out : List Byte := []
  hold : List Byte := []
  ntok : Nat := 0
  stop : Option Nat := none
  /-- Start of the match, counted from the first byte released in this operation. -/
  matchAt : Nat := 0
  deriving DecidableEq, Repr

/-- R499: the bytes of a token. -/
def tokenBytes (e p : Nat) (st : Stream) (v : VSlot) (t : Nat) (s : State) : Except (Nat × Nat) (List Byte) × State :=
  let tier := st.dtab % 4
  let base := bits st.dtab 47 3 * 8
  let bb := imgByteBase v.img
  if bb ≤ t ∧ t < bb + 256 then (.ok [BitVec.ofNat 8 (t - bb)], s)
  else if imgNtok v.img ≤ t then (.error (0x05, 0), s)
  else match tokRead e p tier (base + 8 * t) 8 s with
    | (.error x, s) => (.error x, s)
    | (.ok eb, s) =>
      let w := leNat eb
      if bits w 63 51 ≠ 0 ∨ 1024 < bits w 50 40 then (.error (0x04, memKey tier (base + 8 * t)), s)
      else tokRead e p tier (base + bits w 39 0) (bits w 50 40) s

/-- The loop of R504 from token `i` on. -/
def detLoop (e p : Nat) (o : OpSlot) (st : Stream) (v : VSlot) (strs : List (List Byte)) :
    Nat → Nat → DetAcc → State → Except (Nat × Nat) DetAcc × State
  | 0, _, a, s => (.ok a, s)
  | fuel + 1, i, a, s =>
    match tokRead e p (ptrTier (o.arg 1)) (ptrAddr (o.arg 1) + 4 * i) 4 s with
    | (.error x, s) => (.error x, s)
    | (.ok tb, s) =>
      match tokenBytes e p st v (leNat tb) s with
      | (.error x, s) => (.error x, s)
      | (.ok bs, s) =>
        let b := a.hold ++ bs
        let a := { a with ntok := a.ntok + 1 }
        match firstStop strs b with
        | some (at_, x) =>
          let r := if bit st.dctl 30 then at_ + (strs.getD x []).length else at_
          (.ok { a with out := a.out ++ b.take r, hold := [], stop := some x, matchAt := a.out.length + at_ }, s)
        | none =>
          let h := max (stopHold strs b) (utfHold b)
          detLoop e p o st v strs fuel (i + 1) { a with out := a.out ++ b.take (b.length - h), hold := b.drop (b.length - h) } s

/-- Table 14-1. -/
def detHeader (o : OpSlot) (a : DetAcc) (stopped incomplete : Bool) (status : Nat) : List Byte :=
  leBytes 4 a.out.length ++ leBytes 4 a.ntok ++ leBytes 2 a.hold.length
    ++ leBytes 1 (b2n stopped + b2n a.stop.isSome * 2 + b2n o.end_ * 4 + b2n o.start * 8 + b2n incomplete * 16)
    ++ leBytes 1 status ++ leBytes 1 (a.stop.getD 0xFF) ++ leBytes 3 0

/-- The end of a DETOKENIZE: output, and the stream's new state (R498, R506). -/
def detFinish (e p n : Nat) (st : Stream) (a : DetAcc) (incomplete : Bool) (s0 s : State) : State :=
  let o := s.slot p n
  let stopped := st.stopped || a.stop.isSome
  let st0 := s.strm e o.strm
  if o.cap < a.out.length then
    capFault e p n a.out.length (detHeader o { a with hold := st0.hold } st0.stopped incomplete 0x05) s
  else
    let r := tokWrite e p n (detHeader o a stopped incomplete 0 ++ a.out) s
    if r.1 ≠ 0 then tokErr e p n (r.1, memKey (ptrTier (o.arg 2)) (ptrAddr (o.arg 2))) s0 r.2
    else
      let s := perfOwn (pTOK e) 0x72 a.ntok p r.2
      tokDone e p n { st with hold := a.hold, stopped := stopped, pos := (st.pos + a.out.length) % 2 ^ 64 }
        (a.stop.map (fun x => (0x14, x + (st.pos + a.matchAt) % 2 ^ 32 * 2 ^ 32, o.strm + e * 1024)))
        (if a.stop.isSome then perfOwn (pTOK e) 0x73 1 p s else s)

/-- DETOKENIZE. -/
def detokenize (p n : Nat) (s : State) : State :=
  match s.tokOf p n 9 with
  | none => s
  | some e =>
    let o := s.slot p n
    let st0 := s.strm e o.strm
    let v := s.vslot e st0.vslot
    let sb := s.stopBlk e (bits st0.dctl 8 0)
    let stopEn := bit st0.dctl 31
    let sc := s.tokStartCode e p n
    if sc ≠ 0 then tokErr e p n (sc, 0) s s
    else if stopEn && !sb.valid then tokErr e p n (0x11, 0) s s
    else if stopEn && sb.owner != p then tokErr e p n (0x02, 0) s s
    else
      let st := if o.start then { st0 with hold := [], stopped := false, pos := 0 } else st0
      let strs := if stopEn then sb.strs else []
      if st.stopped then detFinish e p n st { hold := st.hold } false s s
      else match detLoop e p o st v strs o.inLen 0 { hold := st.hold } s with
        | (.error x, s1) => tokErr e p n x s s1
        | (.ok a, s1) =>
          if o.end_ && a.stop.isNone then
            detFinish e p n st { a with out := a.out ++ a.hold, hold := [] } (utfHold a.hold != 0) s s1
          else detFinish e p n st a false s s1

/-! ## CONSTRAIN (R508 to R512) -/

/-- The automaton bound to a stream: its address, in near store. -/
def Stream.autAddr (st : Stream) : Nat := bits st.caut 47 6 * 64

/-- A read of an automaton image; one outside near store is 0x02 (R509). -/
def autRead (e p : Nat) (st : Stream) (ofs n : Nat) (s : State) : Except (Nat × Nat) (List Byte) × State :=
  if 2 ^ 35 < st.autAddr + ofs + n then (.error (0x02, memKey 1 (st.autAddr + ofs)), s)
  else tokRead e p 1 (st.autAddr + ofs) n s

/-- The header of an automaton image read and checked (R508, R509). -/
def autHeader (e p : Nat) (st : Stream) (ntok : Nat) (s : State) : Except (Nat × Nat) (List Byte) × State :=
  match autRead e p st 0 64 s with
  | (.error x, s) => (.error x, s)
  | (.ok h, s) =>
    if fieldOf h 0 4 = 0x48544B53 ∧ fieldOf h 4 1 = 4 ∧ fieldOf h 5 1 = 1 ∧ fieldOf h 6 2 = 0 ∧ fieldOf h 8 4 = ntok ∧
       1 ≤ fieldOf h 12 4 ∧ fieldOf h 12 4 ≤ 65536 ∧ fieldOf h 16 4 < fieldOf h 12 4 ∧ fieldOf h 20 4 = 0 ∧
       fieldOf h 24 8 % 64 = 0 ∧ 64 ≤ fieldOf h 24 8 ∧ fieldOf h 32 32 = 0 then (.ok h, s)
    else (.error (0x04, memKey 1 st.autAddr), s)

/-- A range of an automaton: LO, HI, NEXT. -/
abbrev AutRange := Nat × Nat × Nat

/-- The ranges of a state from the `i`-th on, read and checked against the one before. -/
def autRanges (e p : Nat) (st : Stream) (h : List Byte) (ofs : Nat) : Nat → Nat → Option Nat → State →
    Except (Nat × Nat) (List AutRange) × State
  | 0, _, _, s => (.ok [], s)
  | k + 1, i, prev, s =>
    let a := ofs + 16 * i
    let bad := (0x04, memKey 1 (st.autAddr + a))
    if fieldOf h 24 8 < a + 16 then (.error bad, s)
    else match autRead e p st a 16 s with
      | (.error x, s) => (.error x, s)
      | (.ok r, s) =>
        let lo := fieldOf r 0 4; let hi := fieldOf r 4 4; let nx := fieldOf r 8 4
        if hi < lo ∨ fieldOf h 8 4 ≤ hi ∨ fieldOf h 12 4 ≤ nx ∨ fieldOf r 12 4 ≠ 0 ∨ (prev.any (fun q => decide (lo ≤ q))) = true then (.error bad, s)
        else match autRanges e p st h ofs k (i + 1) (some hi) s with
          | (.error x, s) => (.error x, s)
          | (.ok rs, s) => (.ok ((lo, hi, nx) :: rs), s)

/-- A state entry read and checked: ACCEPT, OFS in bytes and NRANGE. -/
def autState (e p : Nat) (st : Stream) (h : List Byte) (q : Nat) (s : State) : Except (Nat × Nat) (Bool × Nat × Nat) × State :=
  let a := 64 + 16 * q
  let bad := (0x04, memKey 1 (st.autAddr + a))
  if fieldOf h 24 8 < a + 16 then (.error bad, s)
  else match autRead e p st a 16 s with
    | (.error x, s) => (.error x, s)
    | (.ok b, s) =>
      if fieldOf b 8 8 / 2 ≠ 0 then (.error bad, s) else (.ok (bit (fieldOf b 8 1) 0, 16 * fieldOf b 0 4, fieldOf b 4 4), s)

/-- A state with its ranges. -/
def autFull (e p : Nat) (st : Stream) (h : List Byte) (q : Nat) (s : State) : Except (Nat × Nat) (Bool × List AutRange) × State :=
  match autState e p st h q s with
  | (.error x, s) => (.error x, s)
  | (.ok (acc, ofs, n), s) =>
    match autRanges e p st h ofs n 0 none s with
    | (.error x, s) => (.error x, s)
    | (.ok rs, s) => (.ok (acc, rs), s)

/-- The range that holds a token. -/
def rangeFor (rs : List AutRange) (t : Nat) : Option AutRange := rs.find? (fun r => decide (r.1 ≤ t) && decide (t ≤ r.2.1))

/-- ADVANCE over the tokens from the `i`-th on: the state reached.  A token that is not permitted gives
code 0x11 and its position. -/
def advLoop (e p : Nat) (o : OpSlot) (st : Stream) (h : List Byte) : Nat → Nat → Nat → State → Except (Nat × Nat) Nat × State
  | 0, _, q, s => (.ok q, s)
  | k + 1, i, q, s =>
    match tokRead e p (ptrTier (o.arg 1)) (ptrAddr (o.arg 1) + 4 * i) 4 s with
    | (.error x, s) => (.error x, s)
    | (.ok tb, s) =>
      match autFull e p st h q s with
      | (.error x, s) => (.error x, s)
      | (.ok (_, rs), s) =>
        match rangeFor rs (leNat tb) with
        | none => (.error (0x11, i), s)
        | some r => advLoop e p o st h k (i + 1) r.2.2 s

/-- The 16-byte header of a CONSTRAIN's output (R511). -/
def conHeader (o : OpSlot) (nperm q : Nat) (acc : Bool) (status : Nat) : List Byte :=
  leBytes 4 nperm ++ leBytes 2 q ++ leBytes 1 (b2n acc + b2n o.start * 2) ++ leBytes 1 status ++ leBytes 8 0

/-- A MASK's bitmask words. -/
def maskBits (rs : List AutRange) (ntok : Nat) : List Byte :=
  (List.range (ceilDiv ntok 32)).flatMap fun w =>
    leBytes 4 ((List.range 32).foldl (fun a b =>
      if 32 * w + b < ntok && (rangeFor rs (32 * w + b)).isSome then a + 2 ^ b else a) 0)

/-- A MASK's logits: permitted ones bit for bit, the others −∞. -/
def maskLogits (rs : List AutRange) (sz ntok : Nat) (d : List Byte) : List Byte :=
  (List.range ntok).flatMap fun t =>
    if (rangeFor rs t).isSome then (d.drop (sz * t)).take sz else leBytes sz (if sz = 2 then 0xFF80 else 0xFF800000)

/-- The header of a CONSTRAIN whose capacity is too small: the state is unchanged (R498); ACCEPT of a state that the
operation has not read is free. -/
def conCapHeader (o : OpSlot) (st0 st : Stream) (nperm : Nat) (acc : Bool) (s : State) : List Byte :=
  conHeader o nperm st0.cstate (if st0.cstate = st.cstate then acc else bit (s.free 1) 0) 0x05

/-- The end of a CONSTRAIN: output and new state. -/
def conFinish (e p n : Nat) (st : Stream) (nperm : Nat) (acc : Bool) (data : List Byte) (s0 s : State) : State :=
  let o := s.slot p n
  if o.cap < data.length then capFault e p n data.length (conCapHeader o (s.strm e o.strm) st nperm acc s) s.drawn
  else
    let r := tokWrite e p n (conHeader o nperm st.cstate acc 0 ++ data) s
    if r.1 ≠ 0 then tokErr e p n (r.1, memKey (ptrTier (o.arg 2)) (ptrAddr (o.arg 2))) s0 r.2
    else tokDone e p n st none r.2

/-- The engine and stream a CONSTRAIN of a mode works on. -/
def State.conOf (s : State) (p n : Nat) (adv : Bool) : Option Nat :=
  if bit ((s.slot p n).arg 0) 13 = adv then s.tokOf p n 0xA else none

/-- What MASK and ADVANCE begin with: R469, the automaton's EN, its header, and the count of R510; then
`k` with the header and the stream as START leaves it. -/
def conStart (p n : Nat) (adv : Bool) (k : Nat → List Byte → Stream → Nat → State → State) (s : State) : State :=
  match s.conOf p n adv with
  | none => s
  | some e =>
    let o := s.slot p n
    let st0 := s.strm e o.strm
    let ntok := imgNtok (s.vslot e st0.vslot).img
    let sc := s.tokStartCode e p n
    let lf := bits (o.arg 0) 15 14
    if sc ≠ 0 then tokErr e p n (sc, 0) s s
    else if !bit st0.caut 63 then tokErr e p n (0x11, 0) s s
    else if !adv && o.inLen != (if lf = 0 then 0 else ntok) then tokErr e p n (0x04, 0) s s
    else match autHeader e p st0 ntok s with
      | (.error x, s1) => tokErr e p n x s s1
      | (.ok h, s1) =>
        if !o.start && !st0.cstarted then tokErr e p n (0x11, 0) s s1
        else k e h (if o.start then { st0 with cstate := fieldOf h 16 4, cstarted := true } else st0) ntok s1

/-- CONSTRAIN_MASK. -/
def conMask (p n : Nat) (s : State) : State :=
  conStart p n false (fun e h st ntok s1 =>
    let o := s.slot p n
    match autFull e p st h st.cstate s1 with
    | (.error x, s2) => tokErr e p n x s s2
    | (.ok (acc, rs), s2) =>
      if rs.isEmpty then tokErr e p n (0x19, 0) s s2
      else
        let nperm := ((List.range ntok).filter (fun t => (rangeFor rs t).isSome)).length
        let sz := 2 * bits (o.arg 0) 15 14
        if sz = 0 then conFinish e p n st nperm acc (maskBits rs ntok) s s2
        else match tokRead e p (ptrTier (o.arg 1)) (ptrAddr (o.arg 1)) (sz * ntok) s2 with
          | (.error x, s3) => tokErr e p n x s s3
          | (.ok d, s3) => conFinish e p n st nperm acc (maskLogits rs sz ntok d) s s3) s

/-- CONSTRAIN_ADVANCE. -/
def conAdvance (p n : Nat) (s : State) : State :=
  conStart p n true (fun e h st _ s1 =>
    let o := s.slot p n
    match advLoop e p o st h o.inLen 0 st.cstate s1 with
    | (.error x, s2) => tokErr e p n x s s2
    | (.ok q, s2) =>
      match autState e p st h q s2 with
      | (.error x, s3) => tokErr e p n x s s3
      | (.ok (acc, _, _), s3) => conFinish e p n { st with cstate := q } o.inLen acc [] s s3) s

/-! ## Stop sets and stream registers (R501 to R503, R516, R517) -/

/-- R501, R502: the strings of a stop-set image; none for a malformed one. -/
def stopImage (b : List Byte) : Option (List (List Byte)) :=
  let n := fieldOf b 6 1
  let len (k : Nat) : Nat := fieldOf b (64 + 4 * k) 4
  let strOk (k : Nat) : Bool :=
    if k < n then decide (1 ≤ len k) && decide (len k ≤ 256) && (((b.drop (320 + 256 * k)).take 256).drop (len k)).all (· == 0)
    else len k == 0 && ((b.drop (320 + 256 * k)).take 256).all (· == 0)
  if fieldOf b 0 4 = 0x48544B53 ∧ fieldOf b 4 1 = 3 ∧ fieldOf b 5 1 = 1 ∧ 1 ≤ n ∧ n ≤ 64 ∧ fieldOf b 7 57 = 0 ∧
     (List.range 64).all strOk = true then
    some ((List.range n).map (fun k => (b.drop (320 + 256 * k)).take (len k)))
  else none

/-- TOK_SLD_CTL (R517). -/
def wrSldCtl (m e v : Nat) (s : State) : State :=
  let pg := pTOK e
  let blk := bits v 8 0; let own := bits v 19 16
  checkedWrite m pg R.TOK_SLD_CTL v (fun _ => decide (own < 8) && decide (blk < 320))
    (fun s => !bit v 31 || (!s.stopBusy e && (List.range 4).all (fun k => !((s.vslot e k).size != 0 && (s.vslot e k).covers blk)) &&
      !(s.eng e).streams.any (fun x => x.2.en && bit x.2.dctl 31 && bits x.2.dctl 8 0 == blk)))
    (fun s =>
      let s := (s.setF pg F.TOK_SLD_CTL_OWNER own).setF pg F.TOK_SLD_CTL_BLK blk
      if bit v 31 then
        s.setStopBlk e blk { owner := own, busy := true, iss := s.issue pg, tier := s.f pg F.TOK_SLD_SRC_LO_TIER
                             addr := s.f pg F.TOK_SLD_SRC_LO_ADDR * 64 + s.f pg F.TOK_SLD_SRC_HI_ADDR * 2 ^ 32 }
      else s) s

/-- A load of a stop block fails with a code. -/
def sldFail (e blk code : Nat) (log : Bool) (s : State) : State :=
  let v := s.stopBlk e blk
  let s := if log then logErr (pTOK e) code v.owner 0 0 s else s
  s.setStopBlk e blk { v with busy := false, valid := false, err := true, code := code, strs := [] }

/-- STOP_SET_LOAD_DONE: the load of a block ends (R502). -/
def sldDone (e blk : Nat) (s : State) : State :=
  let v := s.stopBlk e blk
  if !v.busy then s
  else if !s.holds v.owner v.tier v.addr 16704 then sldFail e blk 0x02 true s
  else match tokRead e v.owner v.tier v.addr 16704 s with
    | (.error x, s1) => if x.1 = 0x12 then s else sldFail e blk x.1 (x.1 != 0x03) s1
    | (.ok b, s1) =>
      match stopImage b with
      | none => sldFail e blk 0x04 true s1
      | some strs => s1.setStopBlk e blk { v with busy := false, valid := true, err := false, code := 0, strs := strs }

/-- TOK_DTAB_LO and TOK_DTAB_HI. -/
def wrDtab (m e : Nat) (hi : Bool) (v : Nat) (s : State) : State :=
  let n := s.ssel e
  let st := s.strm e n
  checkedWrite m (pTOK e) (if hi then R.TOK_DTAB_HI else R.TOK_DTAB_LO) v (fun _ => hi || v % 4 != 0)
    (fun s => !s.strmHeld e n || v == (if hi then bits st.dtab 63 32 else bits st.dtab 31 0))
    (fun s => s.setStrm e n { st with dtab := if hi then setBits st.dtab 63 32 v else setBits st.dtab 31 0 v }) s

/-- TOK_DCTL (R516). -/
def wrDctl (m e v : Nat) (s : State) : State :=
  let n := s.ssel e
  let st := s.strm e n
  checkedWrite m (pTOK e) R.TOK_DCTL v (fun _ => decide (bits v 8 0 < 320))
    (fun s => (!s.strmHeld e n || v == st.dctl) && (!bit v 31 || ((s.stopBlk e (bits v 8 0)).valid && (s.stopBlk e (bits v 8 0)).owner == st.owner)))
    (fun s => s.setStrm e n { st with dctl := v }) s

/-- TOK_CAUT_LO and TOK_CAUT_HI. -/
def wrCaut (m e : Nat) (hi : Bool) (v : Nat) (s : State) : State :=
  let n := s.ssel e
  let st := s.strm e n
  checkedWrite m (pTOK e) (if hi then R.TOK_CAUT_HI else R.TOK_CAUT_LO) v (fun _ => hi || v % 4 == 1)
    (fun s => !s.strmHeld e n || v == (if hi then bits st.caut 63 32 else bits st.caut 31 0))
    (fun s => s.setStrm e n { st with caut := if hi then setBits st.caut 63 32 v else setBits st.caut 31 0 v }) s

/-! ## Meanings -/

/-- DETOKENIZE. -/
def execDetokenize (p slot : Nat) (errs : Errs) (s : State) : Host.Outcome State Fault Refusal :=
  whenOk (okPart p && okSlot slot) s <| runErr errs [pSCH p] s (detokenize p slot)
/-- CONSTRAIN_MASK. -/
def execConstrainMask (p slot : Nat) (errs : Errs) (s : State) : Host.Outcome State Fault Refusal :=
  whenOk (okPart p && okSlot slot) s <| runErr errs [pSCH p] s (conMask p slot)
/-- CONSTRAIN_ADVANCE. -/
def execConstrainAdvance (p slot : Nat) (errs : Errs) (s : State) : Host.Outcome State Fault Refusal :=
  whenOk (okPart p && okSlot slot) s <| runErr errs [pSCH p] s (conAdvance p slot)
/-- STOP_SET_LOAD: a write of TOK_SLD_CTL with GO 1. -/
def execStopSetLoad (m e owner blk : Nat) (s : State) : Host.Outcome State Fault Refusal :=
  whenOk (okMaster m && okToken e && below 16 owner && below 512 blk) s <|
  run [pTOK (e % 4)] s (wrSldCtl m (e % 4) (2 ^ 31 + owner % 16 * 2 ^ 16 + blk % 512))
/-- STOP_SET_LOAD_DONE. -/
def execStopSetLoadDone (e blk : Nat) (errs : Errs) (s : State) : Host.Outcome State Fault Refusal :=
  whenOk (okToken e && below 320 blk) s <| runErr errs [pTOK e] s (sldDone e blk)

end Sys2Proof.Machine
end

