-- ==== Sys2Proof/Machine/Link.lean ====
section
/-! DEFINITION.  Fabric links: training, lanes, flits, replay and credits (R567 to R587, R602). -/

namespace Sys2Proof.Machine

/-! ## Failed requests (R591, R601, R602, R427) -/

/-- The core that runs the operation of a plan's write, while request `id` stands in its TQ3. -/
def State.planCoreOf (s : State) (p n id : Nat) : Option Nat :=
  match (s.slot p n).exec with
  | some (.core c) => if (s.tq c 3).reqs.any (fun r => r.id == id && r.tier == 4) then some c else none
  | _ => none

/-- A plan's fabric write has been acknowledged (R415, R416, R420). -/
def planAck (p n id : Nat) (s : State) : State :=
  drainEnd p n (match s.planCoreOf p n id with
    | some c =>
      let len := (((s.tq c 3).reqs.find? (fun r => r.id == id)).map (·.len)).getD 0
      dropReq c 3 id (perf (pCORE c) 0x37 len s)
    | none => s)

/-- An outstanding request ends with a failure: its operation faults with `code` and the TAG of its plan entry; a
remote decrement's failure is logged in the SCH page, an LNK_XCTL one reported in LNK_XSTS. -/
def failWho (who : FabWho) (id etag code status : Nat) (s : State) : State :=
  match who with
  | .op p n => drainEnd p n (match s.planCoreOf p n id with
    | some c => coreFaultLog c code 0 (some etag) s
    | none => s)
  | .succ p => logErr (pSCH p) (if code = 0x08 then 0x08 else 0x17) p 0 0 s
  | .xctl l => ((s.setF (pLNK l) F.LNK_XSTS_BUSY 0).setF (pLNK l) F.LNK_XSTS_CODE code).setF (pLNK l) F.LNK_XSTS_STATUS status

/-- A request is released without its completion (R601 to R603). -/
def failReq (t code : Nat) (s : State) : State :=
  match s.tagReq t with
  | none => s
  | some r => failWho r.who r.id r.etag code 0 (quarantine t s)

/-- A waiting request is offered again; one that no link serves faults its operation (R596). -/
def offer (o : FabOut) (s : State) : State :=
  match issueReq o s with
  | (.sent, s) => s
  | (.waits, s) => { s with fab := { s.fab with wait := s.fab.wait ++ [o] } }
  | (.noPath, s) => failWho o.who o.id o.etag 0x08 0 s

/-- Requests that wait for a tag are offered, oldest first (R600). -/
def pump (s : State) : State :=
  let w := s.fab.wait
  if w.isEmpty then s else forEach offer w { s with fab := { s.fab with wait := [] } }

/-! ## Link state -/

/-- The link holder a link's errors concern (R581). -/
def State.linkSubj (s : State) (l : Nat) : Nat := (s.holderOf resLnk l).getD (s.defSubj (pLNK l))

/-- Training enters a step, or the link a state (LNK_STS.STATE). -/
def setStep (l st : Nat) (s : State) : State :=
  let s := s.setF (pLNK l) F.LNK_STS_STATE st
  s.setLink l { s.link l with stepAt := s.nowOn (l / 32) }

/-- R602: remote decrements that have arrived on a link are carried out, without their completions. -/
def muteDecs (l p : Nat) (s : State) : State :=
  let q := s.sc p
  if q.inQ.any (fun d => d.link == l && d.live) then
    s.setSc p { q with inQ := q.inQ.map (fun d => if d.link == l then { d with live := false } else d) }
  else s

/-- TS1 on every lane, with this end's good-lane mask (Table 16-4). -/
def sendTs1 (l : Nat) (s : State) : State :=
  forUp (fun lane s =>
    sendControl l lane [0x1E, BitVec.ofNat 8 lane, BitVec.ofNat 8 (s.f (pLNK l) F.LNK_LANE_STS_GOOD)] s) 5 0 s

/-- TS2 on every active lane (Table 16-4): what this end offers, and who it is. -/
def sendTs2 (l : Nat) (s : State) : State :=
  let pg := pLNK l
  let b3 := (s.link l).attempt + 4 * s.f pg F.LNK_CTL_G1_FEC + 8 * s.f pg F.LNK_CTL_SPARE_EN + 16 * s.f pg F.LNK_CTL_WIDTH2_EN
  let dev := s.f pGLB F.FAB_DEVID_ID
  forEach (fun lane s =>
    sendControl l lane ([0x2D, BitVec.ofNat 8 lane, BitVec.ofNat 8 (s.f pg F.LNK_STS_ACTIVE), BitVec.ofNat 8 b3, 3,
      BitVec.ofNat 8 (s.f pGLB F.GLB_PART_PART)] ++ leBytes 2 dev ++ [BitVec.ofNat 8 l]) s) (s.activeLanes l) s

/-- R602, R586: what a link loses when it goes down: requests, queues, replay state and credits. -/
def linkDown (l : Nat) (s : State) : State :=
  if s.linkUp l then
    let pg := pLNK l
    let s := s.addF pg F.LNK_LANE_STS_DOWN_CNT 1
    let s := ((s.setF pg F.LNK_STS_UP 0).setF pg F.LNK_STS_GEN 0).setF pg F.LNK_STS_WIDTH 0
    let s := ((s.setF pg F.LNK_STS_ACTIVE 0).setF pg F.LNK_STS_FEC 0).setF pg F.LNK_STS_SPARE_USED 0
    let s := forUp (fun v s => (s.setF pg (F.LNK_CRD_TX.at 4 v) 0).setF pg (F.LNK_CRD_RX.at 4 v) 0) 5 0 s
    let k := s.link l
    let s := setStep l 0 (s.setLink l { k with
      txq := [], unacked := [], noProg := 0, nakSent := false, credIn := 0, lanes := []
      rxq := k.rxq.map (fun e => { e with live := false }) })
    let s := forUp (fun p s => muteDecs l p s) 8 0 s
    pump (forEach (fun t s => failReq t 0x0C s) (s.tagsWhere (fun r => r.link == l)) s)
  else setStep l 0 (s.setF (pLNK l) F.LNK_STS_GEN 0)

/-- Training starts at step 1, at G1 without FEC, for the attempt's highest generation (Table 16-3). -/
def startTraining (l gen : Nat) (s : State) : State :=
  let pg := pLNK l
  let s := (s.setF pg F.LNK_LANE_STS_GOOD 0).setF pg F.LNK_LANE_STS_FAULT 0
  let s := ((s.setF pg F.LNK_STS_ACTIVE 0).setF pg F.LNK_STS_WIDTH 0).setF pg F.LNK_STS_FEC 0
  let s := s.setF pg F.LNK_STS_GEN 1
  let s := setStep l 1 s
  let k := s.link l
  sendTs1 l (s.setLink l { k with
    attempt := gen, startAt := k.stepAt, ts1 := [], peerMask := 0, ts2 := [], ts2n := 0, taps := [], ready := 0
    eqRef := [], credIn := 0, lanes := [] })

/-- May the link train: EN and LINK are 1 (R577). -/
def State.wantsUp (s : State) (l : Nat) : Bool :=
  s.f (pLNK l) F.PG_CTL_EN == 1 && s.f (pLNK l) F.LNK_CTL_LINK == 1 && !s.fenced (pLNK l)

/-- R577: the link goes down and stops training. -/
def linkStop (l : Nat) (s : State) : State := linkDown l (s.setF (pLNK l) F.LNK_STS_TFAIL 0)

/-- R577: what LINK, EN and RETRAIN ask for now.  A link that is up with EN at 0 stays up (R610). -/
def linkFollow (l : Nat) (retrain : Bool) (s : State) : State :=
  let st := s.f (pLNK l) F.LNK_STS_STATE
  if !s.wantsUp l then
    (if st = 0 ∧ s.f (pLNK l) F.LNK_STS_TFAIL = 0 ∨
        s.linkUp l = true ∧ s.f (pLNK l) F.LNK_CTL_LINK = 1 ∧ s.fenced (pLNK l) = false then s else linkStop l s)
  else if s.linkUp l then
    (if retrain then startTraining l (s.f (pLNK l) F.LNK_CTL_MAX_GEN) (linkDown l s) else s)
  else if st = 0 then startTraining l (s.f (pLNK l) F.LNK_CTL_MAX_GEN) s
  else s

/-- LNK_CTL. -/
def wrLnkCtl (m l v : Nat) (s : State) : State :=
  let pg := pLNK l
  checkedWrite m pg R.LNK_CTL v (fun _ => bits v 3 2 != 0) (fun _ => true)
    (fun s => linkFollow l (bit v 1) (s.setW pg R.LNK_CTL (merged pg R.LNK_CTL v s))) s

/-! ## Training (Table 16-3, Table 16-4) -/

/-- A control block: byte `i`. -/
abbrev cb (b : List Byte) (i : Nat) : Nat := fieldOf b i 1

/-- A received control block of 32 bytes is well formed: its kind, its lane, and no reserved byte set. -/
def blockOk (kind last : Nat) (b : List Byte) : Bool :=
  b.length == 32 && cb b 0 == kind && decide (cb b 1 < 5) && (b.drop last).all (· == 0)

/-- TS1: the lane counts one more in a row (to 8), and the peer's good-lane mask is noted. -/
def ts1In (l : Nat) (b : List Byte) (s : State) : State :=
  let st := s.f (pLNK l) F.LNK_STS_STATE
  if blockOk 0x1E 3 b ∧ (st = 1 ∨ st = 2) ∧ cb b 2 < 32 then
    let k := s.link l
    let n := min 8 (SMap.get k.ts1 (cb b 1) 0 + 1)
    let s := s.setLink l { k with ts1 := SMap.put k.ts1 (cb b 1) n 0, peerMask := cb b 2 }
    if st = 1 ∧ n = 8 then
      s.setF (pLNK l) F.LNK_LANE_STS_GOOD (setBits (s.f (pLNK l) F.LNK_LANE_STS_GOOD) (cb b 1) (cb b 1) 1)
    else s
  else s

/-- TS2: identical consecutive blocks are counted (step 3). -/
def ts2In (l : Nat) (b : List Byte) (s : State) : State :=
  if blockOk 0x2D 9 b ∧ s.f (pLNK l) F.LNK_STS_STATE = 3 ∧ cb b 3 < 32 ∧ cb b 7 < 16 then
    let k := s.link l
    let body := b.drop 2
    s.setLink l { k with ts2 := body, ts2n := if k.ts2 = body then k.ts2n + 1 else 1 }
  else s

/-- Step 2: the active set from the lanes good at both ends; none when the step fails. -/
def activeSet (good spare w2 : Nat) : Option (List Nat) :=
  let g := if spare = 0 then good % 16 else good
  let n := (lowLanes g 5).length
  if 4 ≤ n then some (lowLanes g 4) else if n = 3 ∧ w2 = 1 then some (lowLanes g 2) else none

/-- A list of lanes as a mask. -/
def laneMask (ls : List Nat) : Nat := ls.foldl (fun a i => a + 2 ^ i) 0

/-- Table 16-2: pre1 and post1 of a preset, in units of 0.0125. -/
def preset : Nat → Int × Int
  | 0 => (0, 0) | 1 => (0, -4) | 2 => (0, -8) | 3 => (0, -12) | 4 => (-4, 0) | 5 => (-4, -4)
  | 6 => (-4, -8) | 7 => (-4, -12) | 8 => (-8, 0) | 9 => (-8, -8) | _ => (-8, -16)

/-- R571: may the transmitter use these taps? -/
def tapsOk (t : Int × Int × Int) : Bool :=
  let a (x : Int) : Nat := x.natAbs
  decide (a t.1 ≤ 4) && decide (a t.2.1 ≤ 20) && decide (a t.2.2 ≤ 28) &&
    decide (a t.1 + a t.2.1 + a t.2.2 ≤ 40)

/-- EQACK sent for a request (Table 16-4). -/
def sendEqAck (l lane code arg : Nat) (s : State) : State :=
  sendControl l lane [0x55, BitVec.ofNat 8 lane, BitVec.ofNat 8 code, BitVec.ofNat 8 arg] s

/-- Step 5 begins: each receiver requests a starting preset of its choice from 0 to 10, which the
spec leaves to the receiver (a free value). -/
def startEq (l : Nat) (s : State) : State :=
  let p := s.free 32 % 11
  let s := setStep l 5 ((s.setF (pLNK l) F.LNK_LANE_STS_PRESET p).drawn)
  forEach (fun lane s => sendControl l lane [0x33, BitVec.ofNat 8 lane, 0, BitVec.ofNat 8 p] s) (s.activeLanes l) s

/-- EQREQ (R571): a preset, a tap adjustment or READY from the peer's receiver. -/
def eqReqIn (l : Nat) (b : List Byte) (s : State) : State :=
  if blockOk 0x33 4 b ∧ s.f (pLNK l) F.LNK_STS_STATE = 5 then
    let lane := cb b 1
    let k := s.link l
    let t := SMap.get k.taps lane (0, 0, 0)
    let set (t : Int × Int × Int) : State := s.setLink l { k with taps := SMap.put k.taps lane t (0, 0, 0) }
    match cb b 2 with
    | 0 => if cb b 3 ≤ 10 then sendEqAck l lane 0 (cb b 3) (set (0, (preset (cb b 3)).1, (preset (cb b 3)).2)) else s
    | 1 =>
      let d : Int := if bit (cb b 3) 2 then 1 else -1
      let n : Int × Int × Int := match bits (cb b 3) 1 0 with
        | 0 => (t.1 + d, t.2)
        | 1 => (t.1, t.2.1 + d, t.2.2)
        | _ => (t.1, t.2.1, t.2.2 + d)
      if 8 ≤ cb b 3 ∨ bits (cb b 3) 1 0 = 3 then s
      else if tapsOk n then sendEqAck l lane 0 (cb b 3) (set n) else sendEqAck l lane 1 (cb b 3) s
    | 2 => sendEqAck l lane 0 (cb b 3) (s.setLink l { k with ready := setBits k.ready lane lane 1 })
    | _ => s
  else s

/-- EQACK (R571): the peer's answer to a request of this end's receiver. -/
def eqAckIn (l : Nat) (b : List Byte) (s : State) : State :=
  if blockOk 0x55 4 b ∧ s.f (pLNK l) F.LNK_STS_STATE = 5 then
    let k := s.link l
    if cb b 2 = 1 then
      s.setLink l { k with eqRef := SMap.put k.eqRef (cb b 1) (SMap.get k.eqRef (cb b 1) 0 + 1) 0 }
    else s
  else s

/-- The end of step 3: generation, FEC, FVER and the peer's identity from its TS2. -/
def exchanged (l : Nat) (s : State) : State :=
  let pg := pLNK l
  let k := s.link l
  let b (i : Nat) : Nat := fieldOf k.ts2 (i - 2) 1
  let gen := min k.attempt (bits (b 3) 1 0)
  let fec := if gen = 1 then b2n (bit (b 3) 2 && s.f pg F.LNK_CTL_G1_FEC == 1) else 1
  let s := (s.setF pg F.LNK_STS_GEN gen).setF pg F.LNK_STS_FEC fec
  let s := ((s.setF pg F.LNK_PEER_FAMILY (b 5)).setF pg F.LNK_PEER_FVER (min 3 (b 4))).setF pg F.LNK_PEER_LINK (b 8)
  let s := s.setF pg F.LNK_PEER_ID (b 6 + 256 * (b 7 % 16))
  setStep l (if gen = 1 then 5 else 4) s

/-- TRAIN_STEP_DONE: the condition of the present step, 1 to 6, is met and training moves on. -/
def trainStep (l : Nat) (s : State) : State :=
  let pg := pLNK l
  let k := s.link l
  let good := s.f pg F.LNK_LANE_STS_GOOD
  match s.f pg F.LNK_STS_STATE with
  | 1 =>
    if good = 31 ∨ k.stepAt + 1000000 ≤ s.nowOn (l / 32) then
      sendTs1 l (setStep l 2 (s.setF pg F.LNK_LANE_STS_FAULT (31 - good))) else s
  | 2 =>
    match activeSet (Nat.land good k.peerMask) (s.f pg F.LNK_CTL_SPARE_EN) (s.f pg F.LNK_CTL_WIDTH2_EN) with
    | none => s
    | some ls =>
      let s := (s.setF pg F.LNK_STS_ACTIVE (laneMask ls)).setF pg F.LNK_STS_WIDTH ls.length
      sendTs2 l (setStep l 3 (s.setF pg F.LNK_STS_SPARE_USED (b2n (ls.contains 4))))
  | 3 => if 8 ≤ k.ts2n ∧ 1 ≤ min k.attempt (bits (fieldOf k.ts2 1 1) 1 0) then exchanged l s else s
  | 4 => startEq l s
  | 5 => if Nat.land k.ready (s.f pg F.LNK_STS_ACTIVE) = s.f pg F.LNK_STS_ACTIVE then setStep l 6 s else s
  | 6 =>
    forUp (fun v s => s.setF pg (F.LNK_CRD_RX.at 4 v) (rxBuf v)) 5 0
      (forUp (fun v s => sendRaw l (flitBytes { ftype := 2 } ([1, BitVec.ofNat 8 v] ++ leBytes 2 (rxBuf v))) s) 5 0
        (setStep l 7 s))
  | _ => s

/-- LINK_UP (step 8): every channel's credits have been received; replay starts at SEQ 0. -/
def linkUpDone (l : Nat) (s : State) : State :=
  let k := s.link l
  if s.f (pLNK l) F.LNK_STS_STATE = 7 ∧ k.credIn = 31 then
    let s := setStep l 8 ((s.setF (pLNK l) F.LNK_STS_UP 1).setF (pLNK l) F.LNK_STS_TFAIL 0)
    let s := s.setLink l { s.link l with
      txSeq := 0, rxSeq := 0, unacked := [], nakSent := false, noProg := 0, nonNop := 0, progAt := s.nowOn (l / 32) }
    flushAll l s
  else s

/-- TRAIN_FAIL (R578): a step fails, or LNK_TRN_TMO passes before UP: training restarts with the attempt's
generation lowered by one; after G1 TFAIL is set and the link waits LNK_TRN_TMO; after that wait it
starts again from MAX_GEN. -/
def trainFail (l : Nat) (s : State) : State :=
  let pg := pLNK l
  let k := s.link l
  let st := s.f pg F.LNK_STS_STATE
  if st = 0 ∧ s.f pg F.LNK_STS_TFAIL = 1 ∧ s.wantsUp l then
    (if k.stepAt + s.f pg F.LNK_TRN_TMO_MS * 1000000 ≤ s.nowOn (l / 32) then
      startTraining l (s.f pg F.LNK_CTL_MAX_GEN) s else s)
  else if 1 ≤ st ∧ st ≤ 7 then
    (if 2 ≤ k.attempt then startTraining l (k.attempt - 1) s
     else setStep l 0 ((s.setF pg F.LNK_STS_TFAIL 1).setF pg F.LNK_STS_GEN 0))
  else s

/-! ## Lanes (R573 to R576) -/

/-- LANE_FAULT: a lane becomes faulted; an active lane's fault puts an up link in RECOVERY on the spare,
at width 2, or takes it down (R574). -/
def laneFault (l lane : Nat) (s : State) : State :=
  let pg := pLNK l
  let active := s.f pg F.LNK_STS_ACTIVE
  let f := s.f pg F.LNK_LANE_STS_FAULT
  let st := s.f pg F.LNK_STS_STATE
  if 5 ≤ lane ∨ bit f lane then s
  else
    let s := s.setF pg F.LNK_LANE_STS_FAULT (f + 2 ^ lane)
    if (st = 8 ∨ st = 9) ∧ bit active lane then
      let s := s.setLink l { s.link l with lanes := [] }
      let rest := active - 2 ^ lane
      let spares := (List.range 5).filter (fun i => !bit active i && !bit f i && bit (s.f pg F.LNK_LANE_STS_GOOD) i)
      let lanes := lowLanes rest 5
      match spares, decide (s.f pg F.LNK_CTL_SPARE_EN = 1) && decide (s.f pg F.LNK_STS_WIDTH = 4) with
      | sp :: _, true =>
        let a := rest + 2 ^ sp
        setStep l 9 ((s.setF pg F.LNK_STS_ACTIVE a).setF pg F.LNK_STS_SPARE_USED (b2n (bit a 4)))
      | _, _ =>
        if s.f pg F.LNK_CTL_WIDTH2_EN = 1 ∧ 2 ≤ lanes.length then
          let a := laneMask (lanes.take 2)
          setStep l 9 (((s.setF pg F.LNK_STS_ACTIVE a).setF pg F.LNK_STS_WIDTH 2).setF pg F.LNK_STS_SPARE_USED (b2n (bit a 4)))
        else linkFollow l false (linkDown l s)
    else s

/-- RECOVERY_END (R575): the link resumes; what was lost is replayed. -/
def recoveryEnd (l : Nat) (s : State) : State :=
  if s.f (pLNK l) F.LNK_STS_STATE = 9 then
    let s := setStep l 8 s
    flushAll l (forEach (sendFlit l) (s.link l).unacked s)
  else s

/-! ## Flits (R580 to R584) -/

/-- R580, R581: every unacknowledged flit is resent; after MAX replays without progress the link goes
down and trains again. -/
def replay (l : Nat) (s : State) : State :=
  let pg := pLNK l
  let k := s.link l
  if k.unacked.isEmpty then s
  else if s.f pg F.LNK_RPLY_MAX ≤ k.noProg then
    let s := logErr pg 0x0C (s.linkSubj l) 0 0 s
    linkFollow l false (linkDown l s)
  else
    let s := s.setLink l { k with noProg := k.noProg + 1, progAt := s.nowOn (l / 32) }
    forEach (sendFlit l) k.unacked (s.addF pg F.LNK_CNT_RPLY_CNT 1)

/-- An ACK of the next SEQ the peer expects frees the flits before it (modulo 4,096). -/
def ackFlits (l ack : Nat) (s : State) : State :=
  let k := s.link l
  match k.unacked with
  | [] => s
  | f :: _ =>
    let n := (ack + 4096 - f.seq) % 4096
    if n = 0 ∨ k.unacked.length < n then s
    else s.setLink l { k with unacked := k.unacked.drop n, noProg := 0, progAt := s.nowOn (l / 32) }

/-- The ACK, credit and NAK fields of a good flit (R580). -/
def useFields (l : Nat) (h : FlitHdr) (s : State) : State :=
  let s := if h.ackv then ackFlits l h.ack s else s
  let s := if h.cvc < 5 then
      s.setF (pLNK l) (F.LNK_CRD_TX.at 4 h.cvc) (sat 8191 (s.crdTx l h.cvc + h.crd)) else s
  let s := if h.nak then replay l s else s
  flushAll l s

/-- Does the link layer run: UP or RECOVERY? -/
def State.flitsOn (s : State) (l : Nat) : Bool :=
  s.f (pLNK l) F.LNK_STS_STATE == 8 || s.f (pLNK l) F.LNK_STS_STATE == 9

/-- A flit that is not accepted: a NAK goes out once (R580). -/
def nakOnce (l : Nat) (s : State) : State :=
  let k := s.link l
  if k.nakSent then s else sendNop l true 0 0 (s.setLink l { k with nakSent := true })

/-- A received flit with a bad CRC or FTYPE: counted, and NAKed as a lost DATA flit would be. -/
def badFlit (l : Nat) (s : State) : State := nakOnce l (s.addF (pLNK l) F.LNK_CNT_CRC_CNT 1)

/-- The forward error correction of the codewords a flit came in: symbols corrected and codewords that
could not be, while FEC is on (LNK_CNT_FECC, LNK_CNT_FECU). -/
def fecIn (l corr uncorr : Nat) (s : State) : State :=
  if s.f (pLNK l) F.LNK_STS_FEC = 1 then
    (s.addF (pLNK l) F.LNK_CNT_FECC_CNT corr).addF (pLNK l) F.LNK_CNT_FECU_CNT uncorr
  else s

/-- DATA_FLIT. -/
def dataFlit (l : Nat) (b : List Byte) (s : State) : State :=
  if !s.flitsOn l then s
  else match parseFlit b with
    | none => badFlit l s
    | some (h, _) =>
      if h.ftype ≠ 1 then s
      else
        let k := s.link l
        let s := if h.seq = k.rxSeq then
            let s := perf (pLNK l) 0x81 1 (s.setLink l { k with rxSeq := (k.rxSeq + 1) % 4096, nakSent := false })
            sendNop l false 0 0 s
          else nakOnce l s
        useFields l h s

/-- NOP_FLIT. -/
def nopFlit (l : Nat) (b : List Byte) (s : State) : State :=
  if !s.flitsOn l && s.f (pLNK l) F.LNK_STS_STATE != 7 then s
  else match parseFlit b with
    | none => badFlit l s
    | some (h, _) => if h.ftype = 0 then useFields l h s else s

/-- CREDIT_INIT (step 7): a channel's initial credits. -/
def creditInit (l : Nat) (b : List Byte) (s : State) : State :=
  match parseFlit b with
  | none => if s.f (pLNK l) F.LNK_STS_STATE = 7 then s.addF (pLNK l) F.LNK_CNT_CRC_CNT 1 else s
  | some (h, body) =>
    let v := fieldOf body 1 1
    if s.f (pLNK l) F.LNK_STS_STATE = 7 ∧ h.ftype = 2 ∧ fieldOf body 0 1 = 1 ∧ v < 5 then
      let k := s.link l
      (s.setF (pLNK l) (F.LNK_CRD_TX.at 4 v) (sat 8191 (fieldOf body 2 2))).setLink l { k with credIn := setBits k.credIn v v 1 }
    else s

/-- RECOVER: the peer is in recovery, so this end recovers with it; its fields are used. -/
def recoverIn (l : Nat) (b : List Byte) (s : State) : State :=
  match parseFlit b with
  | none => if s.flitsOn l then badFlit l s else s
  | some (h, body) =>
    if s.flitsOn l ∧ h.ftype = 2 ∧ fieldOf body 0 1 = 2 then
      useFields l h (if s.f (pLNK l) F.LNK_STS_STATE = 8 then setStep l 9 s else s)
    else s

/-- NOP_INSERT (R572). -/
def nopInsert (l : Nat) (s : State) : State :=
  if s.flitsOn l && decide (4095 ≤ (s.link l).nonNop) then flushAll l (sendNop l false 0 0 s) else s

/-- REPLAY_TIMER_EXPIRY (R580). -/
def replayTimer (l : Nat) (s : State) : State :=
  let k := s.link l
  if s.flitsOn l && !k.unacked.isEmpty && decide (k.progAt + s.f (pLNK l) F.LNK_RPLY_TMR_NS ≤ s.nowOn (l / 32)) then
    replay l s else s

/-! ## Meanings -/

/-- The pages a link's happening may touch: its own, and those of the operations that wait on it. -/
def State.linkPages (s : State) (l : Nat) : List Nat :=
  pLNK l :: (s.tagsWhere (fun r => r.link == l)).flatMap fun t =>
    match s.tagReq t with
    | some r => match r.who with
      | .op p n => match (s.slot p n).exec with
        | some (.core c) => [pSCH p, pCORE c]
        | _ => [pSCH p]
      | _ => []
    | none => []

/-- LINK_TRAIN_START: a write of LNK_CTL. -/
def execLinkTrainStart (m l v : Nat) (s : State) : Host.Outcome State Fault Refusal :=
  whenOk (okMaster m && okLink l && okWord v) s <|
  run (s.linkPages (l % 64)) s (wrLnkCtl m (l % 64) (v % 2 ^ 32))
/-- LINK_STOP: a write of LNK_CTL with LINK 0. -/
def execLinkStop (m l v : Nat) (s : State) : Host.Outcome State Fault Refusal :=
  whenOk (okMaster m && okLink l && okWord v) s <|
  run (s.linkPages (l % 64)) s (wrLnkCtl m (l % 64) (v % 2 ^ 32 / 2 * 2))
/-- TS1. -/
def execTs1 (l : Nat) (b : List Byte) (s : State) : Host.Outcome State Fault Refusal :=
  whenOk (okLink l) s <| run [pLNK l] s (ts1In l b)
/-- TS2. -/
def execTs2 (l : Nat) (b : List Byte) (s : State) : Host.Outcome State Fault Refusal :=
  whenOk (okLink l) s <| run [pLNK l] s (ts2In l b)
/-- EQREQ. -/
def execEqreq (l : Nat) (b : List Byte) (s : State) : Host.Outcome State Fault Refusal :=
  whenOk (okLink l) s <| run [pLNK l] s (eqReqIn l b)
/-- EQACK. -/
def execEqack (l : Nat) (b : List Byte) (s : State) : Host.Outcome State Fault Refusal :=
  whenOk (okLink l) s <| run [pLNK l] s (eqAckIn l b)
/-- TRAIN_STEP_DONE. -/
def execTrainStepDone (l : Nat) (s : State) : Host.Outcome State Fault Refusal :=
  whenOk (okLink l) s <| run [pLNK l] s (trainStep l)
/-- LINK_UP. -/
def execLinkUp (l : Nat) (s : State) : Host.Outcome State Fault Refusal :=
  whenOk (okLink l) s <| run [pLNK l] s (linkUpDone l)
/-- TRAIN_FAIL. -/
def execTrainFail (l : Nat) (s : State) : Host.Outcome State Fault Refusal :=
  whenOk (okLink l) s <| run [pLNK l] s (trainFail l)
/-- LANE_FAULT. -/
def execLaneFault (l lane : Nat) (s : State) : Host.Outcome State Fault Refusal :=
  whenOk (okLink l && below 5 lane) s <|
  run (s.linkPages l) s (laneFault l lane)
/-- RECOVERY_END. -/
def execRecoveryEnd (l : Nat) (s : State) : Host.Outcome State Fault Refusal :=
  whenOk (okLink l) s <| run [pLNK l] s (recoveryEnd l)
/-- DATA_FLIT. -/
def execDataFlit (l : Nat) (b : List Byte) (fecc fecu : Nat) (s : State) : Host.Outcome State Fault Refusal :=
  whenOk (okLink l) s <|
  run (s.linkPages l) s fun s => dataFlit l b (fecIn l fecc fecu s)
/-- NOP_FLIT. -/
def execNopFlit (l : Nat) (b : List Byte) (fecc fecu : Nat) (s : State) : Host.Outcome State Fault Refusal :=
  whenOk (okLink l) s <|
  run (s.linkPages l) s fun s => nopFlit l b (fecIn l fecc fecu s)
/-- CREDIT_INIT. -/
def execCreditInit (l : Nat) (b : List Byte) (s : State) : Host.Outcome State Fault Refusal :=
  whenOk (okLink l) s <| run [pLNK l] s (creditInit l b)
/-- RECOVER. -/
def execRecover (l : Nat) (b : List Byte) (s : State) : Host.Outcome State Fault Refusal :=
  whenOk (okLink l) s <|
  run (s.linkPages l) s (recoverIn l b)
/-- NOP_INSERT. -/
def execNopInsert (l : Nat) (s : State) : Host.Outcome State Fault Refusal :=
  whenOk (okLink l) s <| run [pLNK l] s (nopInsert l)
/-- REPLAY_TIMER_EXPIRY. -/
def execReplayTimerExpiry (l : Nat) (s : State) : Host.Outcome State Fault Refusal :=
  whenOk (okLink l) s <|
  run (s.linkPages l) s (replayTimer l)

end Sys2Proof.Machine
end

