-- ==== Sys2Proof/Machine/Fabric.lean ====
section
/-! DEFINITION.  Fabric transactions: arrivals, completions, timeouts and LNK_XCTL (R588 to R610). -/

namespace Sys2Proof.Machine

/-! ## Arrivals (R598) -/

/-- LNK_CRD.RX of a channel. -/
def State.crdRx (s : State) (l v : Nat) : Nat := s.f (pLNK l) (F.LNK_CRD_RX.at 4 v)

/-- A packet that has arrived takes its units of the receive buffer (R583). -/
def rxTake (l : Nat) (p : Packet) (s : State) : State :=
  s.setF (pLNK l) (F.LNK_CRD_RX.at 4 p.vc) (s.crdRx l p.vc - p.units)

/-- R584: the buffer of an accepted packet is free again, and its credits return; not to a link that has gone down. -/
def rxFree (l : Nat) (live : Bool) (p : Packet) (s : State) : State :=
  if live && s.linkUp l then
    sendNop l false p.vc p.units (s.setF (pLNK l) (F.LNK_CRD_RX.at 4 p.vc) (min (rxBuf p.vc) (s.crdRx l p.vc + p.units)))
  else s

/-- A completion returns on the link its request arrived on (R597), unless that has gone down since (R602). -/
def sendCpl (l : Nat) (h : PktHdr) (status : Nat) (data : List Byte) (pmask : Nat) (s : State) : State :=
  if h.mute || !s.linkUp l then s else
  let c : PktHdr :=
    { opc := 0x10, len := data.length, poison := pmask != 0, sub := status, pmask := pmask, dst := h.src,
      src := s.f pGLB F.FAB_DEVID_ID, tag := h.tag }
  enqueuePkt l { vc := 1, hdr := c.word, data := data } s

/-- R589, Table 16-8: is the request's form right? -/
def reqOk (w : Nat) (h : PktHdr) (data : List Byte) : Bool :=
  let blk (n : Nat) : Bool := decide (1 ≤ n) && decide (h.addr % 256 + n ≤ 256)
  let ctl (n : Nat) : Bool := (n == 4 || n == 8) && h.addr % n == 0 && decide (h.addr < 2 ^ 26)
  !hdrReserved w && h.len == data.length && decide (h.len ≤ 256) &&
  (match h.opc with
   | 0x01 => h.len == 0 && blk (h.rlen + 1) && (h.space != 0 || ctl (h.rlen + 1))
   | 0x02 => blk h.len && (h.space != 0 || ctl h.len)
   | 0x03 =>
     let sz := if h.sub = 0x18 then 16 else atomicSize h.sub
     h.space != 0 && sz != 0 && h.len % max 1 sz == 0 && decide (1 ≤ h.len) &&
       h.addr % max 1 (atomicSize h.sub) == 0 &&
       (if h.sub = 0x18 then h.len == 16 else decide (h.addr % 64 + h.len ≤ 64))
   | 0x04 => decide (1 ≤ h.len) && decide (h.len ≤ 48)
   | 0x05 => h.len == 0
   | 0x06 => h.space != 0 && decide (4 ≤ h.len) && h.len % 4 == 0 && h.addr % 64 == 0
   | _ => false)

/-- R598: the checks of an arriving request, in order: the status it is answered with, or the arrival
partition.  A failed device answers every one with ABSENT, and so does one that has tripped (R665, R681). -/
def arrival (l w : Nat) (data : List Byte) (s : State) : Except (Nat × State) Nat :=
  let h := hdrOf w
  if s.failed || s.pins.tripped then .error (0x03, s)
  else match s.holderOf resLnk l with
  | none => .error (0x02, logErr (pLNK l) 0x02 oTormal 0 0 s)
  | some p =>
    if 8 ≤ p || (s.part p).st == .free then .error (0x02, logErr (pLNK l) 0x02 oTormal 0 0 s)
    else if h.dst ≠ s.f pGLB F.FAB_DEVID_ID then .error (0x03, s)
    else if (s.part p).st == .resetting then .error (0x01, s)
    else if 3 ≤ s.pauseSt p then .error (0x01, logErr (pCKP 0) 0x11 p 0 0 s)
    else if !reqOk w h data then .error (0x05, s)
    else if s.f (pLNK l) F.PG_CTL_EN = 0 then .error (0x01, s)
    else .ok p

/-- Table 16-9: the status that a fault code of the target is answered with. -/
def statusOf : Nat → Nat
  | 0 => 0x00 | 0x02 => 0x02 | 0x03 => 0x08 | 0x04 => 0x05 | 0x05 => 0x04 | 0x06 => 0x09 | 0x12 => 0x06
  | 0x1A => 0x07 | 0x1B => 0x04 | _ => 0x02

/-- Table 16-9: the requester's code for a status. -/
def codeOf : Nat → Nat
  | 0x00 => 0x00 | 0x01 => 0x08 | 0x02 => 0x02 | 0x03 => 0x08 | 0x04 => 0x05 | 0x05 => 0x04 | 0x06 => 0x12
  | 0x07 => 0x1A | 0x08 => 0x03 | 0x09 => 0x06 | _ => 0x04

/-- A request waits in its receive buffer (R584). -/
def await (s : State) : State := awaitIf 0x12 s

/-- A request in a receive buffer: refused under R598, or acting through `k` with the arrival partition and the time
of its arrival; false while it waits there: the page is held (R95), or its target has not accepted it (R584). -/
def rxTry (l : Nat) (e : RxPkt) (k : Nat → Nat → PktHdr → State → State) (s : State) : Bool × State :=
  let h := { hdrOf e.pkt.hdr with mute := !e.live }
  match arrival l e.pkt.hdr e.pkt.data s with
  | .error (st, t) => (true, rxFree l e.live e.pkt (sendCpl l h st [] 0 t))
  | .ok p =>
    if s.f (pLNK l) F.PG_CTL_HOLD = 1 then (false, s)
    else
      let t := k p e.at_ h s
      if t.mem.wait then (false, s) else (true, rxFree l e.live e.pkt t)

/-- A request of opcode `opc` arrives on an up link, within the credits of its channel (R583): it is carried out at
once, or waits in the receive buffer, behind those of its channel that wait there (R604). -/
def arrive (l opc w : Nat) (data : List Byte) (k : Nat → Nat → PktHdr → State → State) (s : State) : State :=
  let p : Packet := { vc := vcOf opc, hdr := w, data := data }
  if !s.linkUp l || (hdrOf w).opc ≠ opc || decide (s.crdRx l p.vc < p.units) then s
  else
    let e : RxPkt := { pkt := p, at_ := s.nowOn (l / 32) }
    let s := rxTake l p s
    let x := if (s.link l).rxq.any (fun q => q.pkt.vc == p.vc) then (false, s) else rxTry l e k s
    if x.1 then x.2 else x.2.setLink l { x.2.link l with rxq := (x.2.link l).rxq ++ [e] }

/-- Remove the first waiting packet of a channel. -/
def dropRx (v : Nat) : List RxPkt → List RxPkt
  | [] => []
  | p :: ps => if p.pkt.vc = v then ps else p :: dropRx v ps

/-- The packets of a channel that wait in its receive buffer are tried, in order, until one waits on; `k` acts on
one. -/
def rxServe (l v : Nat) (k : List Byte → Nat → Nat → PktHdr → State → State) : Nat → State → State
  | 0, s => s
  | fuel + 1, s =>
    match (s.link l).rxq.find? (fun q => q.pkt.vc == v) with
    | none => s
    | some e =>
      let x := rxTry l e (k e.pkt.data) s
      if x.1 then rxServe l v k fuel (x.2.setLink l { x.2.link l with rxq := dropRx v (x.2.link l).rxq }) else s

/-- The 64 B lines that bytes [addr, addr + n) touch: PMASK bits of the marked ones. -/
def pmaskOf (addr : Nat) (d : List (Byte × Bool)) : Nat :=
  let touched := (addr % 64 + d.length + 63) / 64
  (List.range touched).foldl (fun a i =>
    let lo := 64 * i - addr % 64
    let hi := 64 * (i + 1) - addr % 64
    if ((d.take hi).drop lo).any (·.2) then a + 2 ^ i else a) 0

/-- A write's bytes with the lines that PMASK names marked (R590). -/
def maskBytes (addr pmask : Nat) (data : List Byte) : List (Byte × Bool) :=
  (List.range data.length).zip data |>.map (fun x => (x.2, bit pmask ((addr % 64 + x.1) / 64)))

/-- R590: a READ of tier memory. -/
def readTier (l p since : Nat) (h : PktHdr) (s : State) : State :=
  if !s.turnAt h.space h.addr (h.rlen + 1) (reqClass false true) since then await s
  else
    let r := memRead (pLNK l) (s.access p) h.space h.addr (h.rlen + 1) true s
    if r.1 = 0x12 then await s
    else if r.1 ≠ 0 then sendCpl l h (statusOf r.1) [] 0 r.2.2
    else sendCpl l h 0 (r.2.1.map (fun x => if x.2 then 0 else x.1)) (pmaskOf h.addr r.2.1) r.2.2

/-- R590: a WRITE of tier memory: completes once acknowledged. -/
def writeTier (l p since : Nat) (h : PktHdr) (data : List Byte) (s : State) : State :=
  if !s.turnAt h.space h.addr data.length (reqClass true true) since then await s
  else
    let r := memWrite (pLNK l) (s.access p) h.space h.addr (maskBytes h.addr (if h.poison then h.pmask else 0) data) true s
    if r.1 = 0x12 then await s else sendCpl l h (statusOf r.1) [] 0 r.2

/-- ATOMIC (R144, R198): its lanes are consecutive elements from ADDR; CAS.64 has compare, then swap. -/
def atomicIn (l p since : Nat) (h : PktHdr) (data : List Byte) (s : State) : State :=
  let sz := atomicSize h.sub
  let lanes := if h.sub = 0x18 then [(h.addr % 64, fieldOf data 0 16)]
    else (List.range (h.len / max 1 sz)).map (fun i => (h.addr % 64 + i * sz, fieldOf data (i * sz) sz))
  let r := memAtomic (pLNK l) (s.access p) h.space (h.addr / 64 * 64) h.sub lanes true s
  if r.1 = 0x12 ∨ s.turnAt h.space (h.addr / 64 * 64) 64 2 since 2 = false then await s
  else
    let out := if h.ret && r.1 == 0 then r.2.1.foldl (fun a v => a ++ leBytes sz v) [] else []
    sendCpl l h (statusOf r.1) out 0 r.2.2

/-- A message ring's base: tier and address. -/
def State.mring (s : State) (l : Nat) : Nat × Nat :=
  (s.f (pLNK l) F.LNK_MRING_LO_TIER,
   s.f (pLNK l) F.LNK_MRING_LO_ADDR * 4096 + s.f (pLNK l) F.LNK_MRING_HI_ADDR * 2 ^ 32)

/-- MESSAGE (R592): one record in the ring of the arrival link. -/
def messageIn (l p : Nat) (h : PktHdr) (data : List Byte) (s : State) : State :=
  let pg := pLNK l
  let prod := s.f pg F.LNK_MRING_PROD_CNT
  let size := 2 ^ s.f pg F.LNK_MRING_CTL_LOG2N
  if s.f pg F.LNK_MRING_CTL_EN = 0 then sendCpl l h 0x03 [] 0 s
  else if (prod + 2 ^ 32 - s.f pg F.LNK_MRING_CONS_CNT) % 2 ^ 32 = size then sendCpl l h 0x06 [] 0 s
  else
    let rec_ := leBytes 2 h.src ++ leBytes 1 h.len ++ List.replicate 5 0 ++ leBytes 8 (s.nowOn (l / 32)) ++ padTo 48 data
    let b := s.mring l
    let r := memWrite pg (s.access p) b.1 (b.2 + 64 * (prod % size)) (plain rec_) false s
    if r.1 = 0x12 then await s
    else if r.1 ≠ 0 then sendCpl l h (statusOf r.1) [] 0 r.2
    else sendCpl l h 0 [] 0 (r.2.setF pg F.LNK_MRING_PROD_CNT (prod + 1))

/-- The partition's inbound remote decrements are applied at its scheduler while that takes work (R95, R425), and the
partition is not being captured or restored (R521), each with its completion. -/
def inServe (p : Nat) : Nat → State → State
  | 0, s => s
  | fuel + 1, s =>
    let q := s.sc p
    match q.inQ with
    | [] => s
    | d :: ds =>
      if !s.takesWork (pSCH p) || decide (3 ≤ s.pauseSt p) then s
      else
        let h := { hdrOf d.hdr with mute := !d.live }
        inServe p fuel (sendCpl d.link h 0 [] 0 (decrement p h.addr (s.setSc p { q with inQ := ds })))

/-- EVENT (R420, R425, Table 12-6): one decrement of the named slot of the arrival partition, through its inbound
queue of 256 entries. -/
def eventIn (l p : Nat) (w : Nat) (h : PktHdr) (s : State) : State :=
  let q := s.sc p
  if 65536 ≤ h.addr then sendCpl l h 0x03 [] 0 s
  else if 256 ≤ q.inQ.length then await s
  else inServe p 256 (s.setSc p { q with inQ := q.inQ ++ [{ link := l, hdr := w, live := !h.mute }] })

/-- The data of a TSTREAM at TAIL of its ring of `size` bytes, which it wraps round (R593). -/
def ringAppend (pg : Nat) (a : Access) (tier base size tail len : Nat) (bs : List (Byte × Bool)) (s : State) : Nat × State :=
  let first := min len (size - tail % size)
  match memWrite pg a tier (base + tail % size) (bs.take first) true s with
  | (code, s) => if first = len ∨ code ≠ 0 then (code, s) else memWrite pg a tier base (bs.drop first) true s

/-- TAIL moves past the data, and the old TAIL answers (R593). -/
def tailMove (l p tail : Nat) (h : PktHdr) (s : State) : State :=
  match memWrite (pLNK l) (s.access p) h.space (h.addr + 16) (plain (leBytes 8 (tail + h.len))) true s with
  | (code, s) => if code ≠ 0 then sendCpl l h (statusOf code) [] 0 s else sendCpl l h 0 (leBytes 8 tail) 0 s

/-- A TSTREAM whose descriptor reads `d`: the form check, the room check, the data and TAIL (R593). -/
def tstreamPut (l p : Nat) (h : PktHdr) (data d : List Byte) (s : State) : State :=
  let lg := fieldOf d 7 1
  let tail := fieldOf d 16 8
  if fieldOf d 6 1 = 0 ∨ 4 ≤ fieldOf d 6 1 ∨ lg < 12 ∨ 40 < lg ∨ (d.drop 24).all (· == 0) = false then sendCpl l h 0x05 [] 0 s
  else if fieldOf d 8 8 + 2 ^ lg < tail + h.len then sendCpl l h 0x06 [] 0 s
  else match ringAppend (pLNK l) (s.access p) (fieldOf d 6 1) (fieldOf d 0 6) (2 ^ lg) tail h.len
      (maskBytes h.addr (if h.poison then h.pmask else 0) data) s with
  | (code, t) =>
    if code = 0x12 then await s
    else if code ≠ 0 then sendCpl l h (statusOf code) [] 0 t
    else tailMove l p tail h t

/-- TSTREAM (R593): the descriptor, the room check, the data with its wrap, TAIL, and the old TAIL. -/
def tstreamIn (l p since : Nat) (h : PktHdr) (data : List Byte) (s : State) : State :=
  match readPlain (pLNK l) (s.access p) h.space h.addr 64 s true with
  | (code, d, t) =>
    if code = 0x12 ∨ s.turnAt h.space h.addr 64 (reqClass true true) since = false then await s
    else if code ≠ 0 then sendCpl l h (statusOf code) [] 0 t
    else tstreamPut l p h data d t

/-! ## Completions, timeouts and quarantine (R591, R599, R601, R603) -/

/-- An LNK_XCTL's completion: its data goes to XRSP, poison and all, once its controller takes the write; status and
code to LNK_XSTS. -/
def xctlDone (l : Nat) (h : PktHdr) (data : List Byte) (s : State) : State :=
  let pg := pLNK l
  let own := (s.assignee pg).getD (s.defSubj pg)
  let a := s.f pg F.LNK_XRSP_LO_ADDR * 4 + s.f pg F.LNK_XRSP_HI_ADDR * 2 ^ 32
  let held := !data.isEmpty && s.accessCode own (s.f pg F.LNK_XRSP_LO_TIER) a data.length == 0x12
  let s := s.setLink l { s.link l with xrsp := if held then some { vc := 1, hdr := h.word, data := data } else none }
  if held then s else
  let r := if data.isEmpty then (0, s)
    else memWrite pg (s.access own) (s.f pg F.LNK_XRSP_LO_TIER) a (maskBytes 0 (if h.poison then h.pmask else 0) data) false s
  let s := ((r.2.setF pg F.LNK_XSTS_BUSY 0).setF pg F.LNK_XSTS_STATUS h.sub).setF pg F.LNK_XSTS_CODE (if h.sub = 0 then r.1 else codeOf h.sub)
  s

/-- LNK_RTMO_EXPIRY (R601). -/
def rtmoExpiry (t : Nat) (s : State) : State :=
  match s.tagReq t with
  | none => s
  | some r =>
    if r.since + r.rtmo ≤ s.nowOn (r.link / 32) then pump (failReq t 0x17 (logErr (pLNK r.link) 0x17 r.part 0 0 s)) else s

/-- A completion finishes its outstanding request `r` (R591).  That of a partition in reset is dropped, and its tag is
quarantined (Table 04-4 step 5). -/
def cplDone (r : FabReq) (h : PktHdr) (data : List Byte) (s : State) : State :=
  if r.part < 8 ∧ (s.part r.part).st = .resetting then quarantine h.tag s
  else
    let s := freeReq h.tag s
    let s := if h.sub = 0 then s else logErr (pLNK r.link) (codeOf h.sub) r.part 0 0 s
    match r.who with
    | .xctl k => xctlDone k h data s
    | .op p n => if h.sub = 0 then planAck p n r.id s else failWho r.who r.id r.etag (codeOf h.sub) h.sub s
    | .succ _ => if h.sub = 0 then s else failWho r.who r.id r.etag (codeOf h.sub) h.sub s

/-- A completion that finishes nothing is counted and discarded (R599). -/
def cplStray (l : Nat) (s : State) : State := s.addF (pLNK l) F.LNK_CNT_STRAY_CNT 1

/-- Must the request have timed out by `now`: LNK_RTMO and the 10 µs within which the expiry follows have passed
(R601)? -/
def FabReq.late (r : FabReq) (now : Nat) : Bool := decide (r.since + r.rtmo + 10000 < now)

/-- A completion in the completion store finishes its outstanding request; one that comes when its request must have
timed out finds it gone (R591, R601). -/
def cplTake (l w : Nat) (data : List Byte) (s : State) : State :=
  match s.tagReq (hdrOf w).tag with
  | none => cplStray l s
  | some r =>
    if r.late (s.nowOn (r.link / 32)) then cplStray l (rtmoExpiry (hdrOf w).tag s)
    else pump (cplDone r (hdrOf w) data s)

/-- CPL: a completion finishes its outstanding request, or is discarded as stray (R591, R599).  The completion store
takes it at once, so its credits return (R584). -/
def cplIn (l w : Nat) (data : List Byte) (s : State) : State :=
  let p : Packet := { vc := 1, hdr := w, data := data }
  if !s.linkUp l || (hdrOf w).opc ≠ 0x10 || decide (s.crdRx l 1 < p.units) then s
  else cplTake l w data (rxFree l true p (rxTake l p s))

/-- TAG_QUARANTINE_END (R603). -/
def quarEnd (t : Nat) (s : State) : State :=
  match s.tagQuar t with
  | none => s
  | some e =>
    if e ≤ s.now then pump { s with fab := { s.fab with quar := SMap.put s.fab.quar t none none } } else s

/-! ## LNK_XCTL (R588) -/

/-- LNK_XHDR as one number. -/
def State.xhdr (s : State) (l : Nat) : Nat :=
  (List.range 4).foldl (fun a i => a + s.w (pLNK l) (R.LNK_XHDR_W + 4 * i) * 2 ^ (32 * i)) 0

/-- An accepted GO: the data is read from XDATA, once its controller takes the read, and the transaction goes out on
this link. -/
def xctlSend (l : Nat) (s : State) : State :=
  let pg := pLNK l
  let w := s.xhdr l
  let h := hdrOf w
  let own := (s.assignee pg).getD (s.defSubj pg)
  let tier := s.f pg F.LNK_XDATA_LO_TIER
  let a := s.f pg F.LNK_XDATA_LO_ADDR * 4 + s.f pg F.LNK_XDATA_HI_ADDR * 2 ^ 32
  let s := ((s.setF pg F.LNK_XSTS_BUSY 1).setF pg F.LNK_XSTS_CODE 0).setF pg F.LNK_XSTS_STATUS 0
  let held := h.len != 0 && s.spanCode own tier a h.len == 0x12
  let s := s.setLink l { s.link l with xpend := held }
  if held then s
  else
    let r := if h.len = 0 then (0, [], s) else readPlain pg (s.access own) tier a h.len s
    if r.1 ≠ 0 then (r.2.2.setF pg F.LNK_XSTS_BUSY 0).setF pg F.LNK_XSTS_CODE r.1
    else offer { who := .xctl l, part := own, link := some l, hdr := w, data := r.2.1 } r.2.2

/-- LNK_XCTL. -/
def wrXctl (m l v : Nat) (s : State) : State :=
  let pg := pLNK l
  checkedWrite m pg R.LNK_XCTL v
    (fun s =>
      let h := hdrOf (s.xhdr l)
      !bit v 31 || (decide (1 ≤ h.opc) && decide (h.opc ≤ 6) && !hdrReserved (s.xhdr l)))
    (fun s => !bit v 31 || (s.f pg F.LNK_XSTS_BUSY == 0 && s.linkUp l))
    (fun s => if bit v 31 then xctlSend l s else s) s

/-- LNK_XCTL's accesses that waited for their controllers are tried again. -/
def xctlRetry (l : Nat) (s : State) : State :=
  let s := if (s.link l).xpend then xctlSend l s else s
  match (s.link l).xrsp with
  | some p => xctlDone l (hdrOf p.hdr) p.data s
  | none => s

/-! ## Meanings -/

/-- ATOMIC. -/
def execAtomic (l hdr : Nat) (data : List Byte) (errs : Errs) (s : State) : Host.Outcome State Fault Refusal :=
  whenOk (okLink l && okHeader hdr) s <|
  runArrivalErr errs [pLNK l] s (arrive l 0x03 hdr data (fun p at_ h => atomicIn l p at_ h data))
/-- MESSAGE. -/
def execMessage (l hdr : Nat) (data : List Byte) (s : State) : Host.Outcome State Fault Refusal :=
  whenOk (okLink l && okHeader hdr) s <|
  runArrival [pLNK l] s (arrive l 0x04 hdr data (fun p _ h => messageIn l p h data))
/-- EVENT. -/
def execEvent (l hdr : Nat) (data : List Byte) (s : State) : Host.Outcome State Fault Refusal :=
  whenOk (okLink l && okHeader hdr) s <|
  runArrival [pLNK l, pSCH ((s.holderOf resLnk l).getD 0)] s (arrive l 0x05 hdr data (fun p _ h => eventIn l p hdr h))
/-- TSTREAM. -/
def execTstream (l hdr : Nat) (data : List Byte) (errs : Errs) (s : State) : Host.Outcome State Fault Refusal :=
  whenOk (okLink l && okHeader hdr) s <|
  runArrivalErr errs [pLNK l] s (arrive l 0x06 hdr data (fun p at_ h => tstreamIn l p at_ h data))
/-- CPL. -/
def execCpl (l hdr : Nat) (data : List Byte) (s : State) : Host.Outcome State Fault Refusal :=
  whenOk (okLink l && okHeader hdr) s <|
  run (s.linkPages l) s (cplIn l hdr data)
/-- LNK_RTMO_EXPIRY. -/
def execLnkRtmoExpiry (t : Nat) (s : State) : Host.Outcome State Fault Refusal :=
  whenOk (below 16384 t) s <|
  run (match s.tagReq t with | some r => s.linkPages r.link | none => []) s (rtmoExpiry t)
/-- TAG_QUARANTINE_END. -/
def execTagQuarantineEnd (t : Nat) (s : State) : Host.Outcome State Fault Refusal :=
  whenOk (below 16384 t) s <| run [] s (quarEnd t)
/-- LNK_XCTL_GO: a write of LNK_XCTL. -/
def execLnkXctlGo (m l v : Nat) (s : State) : Host.Outcome State Fault Refusal :=
  whenOk (okMaster m && okLink l && okWord v) s <|
  run [pLNK (l % 64)] s (wrXctl m (l % 64) (v % 2 ^ 32))

end Sys2Proof.Machine
end

