-- ==== Sys2Proof/Machine/Grant.lean ====
section
/-! DEFINITION.  Dispatch: eligibility, the grant, EPOCHs, and the plans of MOVE and RESHARD (R409 to
R417, R435 to R461). -/

namespace Sys2Proof.Machine

/-! ## Choosing the least -/

/-- Lexicographic order on lists of numbers. -/
def lexLt : List Nat → List Nat → Bool
  | [], [] => false
  | [], _ :: _ => true
  | _ :: _, [] => false
  | a :: as, b :: bs => decide (a < b) || (a == b && lexLt as bs)

/-- The first element with the least key. -/
def minBy {α : Type} (key : α → List Nat) : List α → Option α
  | [] => none
  | x :: xs => match minBy key xs with
    | none => some x
    | some y => if lexLt (key y) (key x) then some y else some x

/-- How far `x` lies after the position `last` in a rotation of `n`, `last` being 1 + the one served last. -/
def rotDist (n last x : Nat) : Nat := (x + n - last % n) % n

/-! ## Executors (Table 12-1) -/

/-- Does the core wait for work (R287, R289)? -/
def State.coreAsks (s : State) (c : Nat) : Bool :=
  let k := s.core c
  k.running && k.inGet && k.op.isNone && s.takesWork (pCORE c) && !s.fenced (pCORE c) &&
    !(match s.router.busy with | some (d, f, _) => c == 256 * d + f | none => false)

/-- R447: the asking cores of the flow's held and unfenced clusters, in ascending logical number. -/
def State.coresFor (s : State) (p mask : Nat) : List Nat :=
  (List.range 48).flatMap fun k =>
    if bit mask k && s.holderOf resClu k == some p && !s.fenced (pCLU k) then (s.slotsOfClu k).filter s.coreAsks else []

/-- Does the token engine take the operation (R467, R503)? -/
def State.tokTakes (s : State) (e : Nat) (o : OpSlot) : Bool :=
  let st := s.strm e o.strm
  decide ((s.tokHeld e).length < 16) && s.takesWork (pTOK e) && !s.fenced (pTOK e) &&
    !(s.vslot e st.vslot).busy && !(s.stopBlk e (bits st.dctl 8 0)).busy

/-- The table descriptor of a migration-class operation, as the scheduler finds it in memory. -/
def State.descPeek (s : State) (p : Nat) (o : OpSlot) : List Byte := s.entryAt p (o.arg 0) 64 0

/-- The executors that wait and for which the operation is eligible (Table 12-2, the class rows). -/
def State.execsBase (s : State) (p : Nat) (o : OpSlot) : List Exec :=
  if clsCore o.cls then (s.coresFor p (s.flow p o.flow).mask).map .core
  else if clsTok o.cls then (if s.tokTakes o.tokEng o then [.token o.tokEng] else [])
  else if clsMig o.cls then
    let d := tdHdie (s.descPeek p o)
    if (s.migHeld d).length < 16 ∧ s.takesWork (pMIG d) ∧ s.fenced (pMIG d) = false then [.mig d] else []
  else if o.cls = cCKPT then
    (if s.ckp.run.isNone && s.takesWork (pCKP 0) && !s.fenced (pCKP 0) then [.ckp 0] else [])
  else if o.cls = cDELAY then (if (s.sc p).delay.length < 4096 then [.sched] else [])
  else [.sched]

/-! ## Eligibility and choice (R448, R449) -/

/-- Table 12-2, the partition rows, R520 and R665. -/
def State.grants (s : State) (p : Nat) : Bool :=
  !s.failed && s.takesWork (pSCH p) && !s.fenced (pSCH p) && s.enabled p && s.pauseSt p == 0

/-- Table 12-2, the flow rows (R443, R445, R446). -/
def State.flowOpen (s : State) (p fl : Nat) : Bool :=
  let f := s.flow p fl
  f.en && !f.hold &&
    (if f.ordered then decide (s.inSvc p fl < f.win) && decide ((s.sc p).rel.length < 512) else s.inSvc p fl == 0)

/-- R435, R436: the EPOCH that reached a count of 0 first. -/
def State.gateOf (s : State) (p : Nat) : Option Nat :=
  let es := (s.sc p).slots.filter (fun e => e.2.cls == cEPOCH && e.2.st == .ready)
  (minBy (fun e => [e.2.readySeq]) es).map (·.1)

/-- Is an EPOCH of the partition in progress (R436)? -/
def State.epochRuns (s : State) (p : Nat) : Bool :=
  (s.sc p).slots.any (fun e => e.2.cls == cEPOCH && e.2.st == .running && !e.2.heldRel)

/-- R448: the READY operations that may be granted now, `ex` giving each its executors. -/
def State.eligibleBy (s : State) (ex : Nat → OpSlot → List Exec) (p : Nat) : List (Nat × OpSlot) :=
  if !s.grants p || s.epochRuns p then []
  else
    (s.sc p).slots.filter fun e =>
      e.2.st == .ready && ((s.gateOf p).isNone || s.gateOf p == some e.1) && s.flowOpen p e.2.flow &&
        !(ex p e.2).isEmpty

/-- An engine that all partitions share: the number its rotation stands under. -/
def engNo : Exec → Option Nat
  | .token e => some e
  | .mig d => some (4 + d)
  | .ckp _ => some 6
  | _ => none

/-- The partitions that have an operation for a shared engine. -/
def State.engWaiters (s : State) (x : Exec) : List Nat :=
  (List.range 8).filter (fun p => (s.eligibleBy s.execsBase p).any (fun e => (s.execsBase p e.2).contains x))

/-- R440, R58: a shared engine asks the schedulers in rotation. -/
def State.engTurn (s : State) (p : Nat) (x : Exec) : Bool :=
  match engNo x with
  | some i => mayGrant (SMap.get s.prt.turns i []) (s.engWaiters x) p
  | none => true

/-- The executors that may take the operation now. -/
def State.execsFor (s : State) (p : Nat) (o : OpSlot) : List Exec := (s.execsBase p o).filter (s.engTurn p)

/-- R448: the READY operations that may be granted now. -/
def State.eligible (s : State) (p : Nat) : List (Nat × OpSlot) := s.eligibleBy s.execsFor p

/-- R449 step 2: has the operation been READY for longer than AGE_US? -/
def State.aged (s : State) (p : Nat) (o : OpSlot) : Bool :=
  let a := s.f (pSCH p) F.SCH_DCFG_AGE_US
  decide (a ≠ 0) && decide (o.readyAt + a * 1000 < s.now)

/-- R449 step 2: the priority an operation counts at. -/
def State.effPrio (s : State) (p : Nat) (o : OpSlot) : Nat := if s.aged p o then 0 else o.prio

/-- R449, steps 2 to 4, as one order: priority, the flow's place in the rotation at that priority, aged
operations first, then the earliest to become READY. -/
def State.grantKey (s : State) (p : Nat) (o : OpSlot) : List Nat :=
  let pr := s.effPrio p o
  [pr, rotDist 4096 (SMap.get (s.sc p).lastFlow pr 0) o.flow, b2n (!s.aged p o), o.readySeq]

/-- R449: the operation granted next. -/
def State.pickOp (s : State) (p : Nat) : Option (Nat × OpSlot) := minBy (fun e => s.grantKey p e.2) (s.eligible p)

/-- CLU_PHASE_STS.FETCH + WAIT of a cluster. -/
def State.cluLoad (s : State) (k : Nat) : Nat := ((s.slotsOfClu k).filter (fun c => (s.core c).busy)).length

/-- R450: the core chosen among several. -/
def State.pickCore (s : State) (p : Nat) (cs : List Nat) : Option Nat :=
  let q := s.sc p
  let clu (c : Nat) : Nat := (s.cluOf c).getD 0
  let rot := minBy (fun c => [rotDist 384 q.lastCore ((s.lcore c).getD 0)])
  if s.f (pSCH p) F.SCH_DCFG_BAL = 1 then
    match minBy (fun c => [s.cluLoad (clu c), SMap.get q.cluGrant (clu c) 0, clu c]) cs with
    | none => none
    | some b => rot (cs.filter (fun c => clu c == clu b))
  else rot cs

/-- R449 step 5: the executor. -/
def State.pickExec (s : State) (p : Nat) (o : OpSlot) : Option Exec :=
  let es := s.execsFor p o
  match es with
  | [] => none
  | .core _ :: _ =>
    (s.pickCore p (es.filterMap (fun e => match e with | .core c => some c | _ => none))).map .core
  | e :: _ => some e

/-! ## Delivery (R449 step 7) -/

/-- R287: GET's index registers. -/
def argRegs (o : OpSlot) : SMap Nat :=
  (List.range 4).foldl (fun m i => SMap.put m (12 + i) (o.arg i % 2 ^ 64) 0) []

/-- R251: the hand-over request of a CHAIN. -/
def askHand (c : Nat) (h : HeldOp) (s : State) : State :=
  match poolAsk c (whoOf .handOver) false h.hand s with
  | (.granted, s) => s.setCore c { s.core c with op := some { h with handOk := true } }
  | (.refused, s) => s
  | (.waits, s) => s
  | (.never, s) => coreFaultLog c 0x13 0 none s

/-- R287, R415: a core takes the operation. -/
def coreTake (p n c : Nat) (s : State) : State :=
  let o := s.slot p n
  let k := s.core c
  let chain := o.cls == 3
  let h : HeldOp :=
    { part := p, slot := n, opid := o.opid, chain := chain, hand := o.hcnt, handOk := !chain, since := s.coreNow c,
      cls := o.cls }
  let k := { k with inGet := false, op := some h, tally := [], fuse := none, drains := false }
  let k := if clsTile o.cls then { k with idx := argRegs o, pc := o.entry, hand := [], handPois := [] } else k
  let s := perf (pCORE c) 0x31 1 (s.setCore c k)
  if chain then askHand c h s else s

/-- R440: a migration engine takes the operation with the scheduler's copy of its table descriptor. -/
def migTake (p n d : Nat) (s : State) : State :=
  let o := s.slot p n
  let r := readPlain (pMIG d) (s.access p) (ptrTier (o.arg 0)) (ptrAddr (o.arg 0)) 64 s
  let s := r.2.2.setMop p n {}
  if r.1 ≠ 0 then migFault d p n r.1 (memKey (ptrTier (o.arg 0)) (ptrAddr (o.arg 0))) (r.1 == 0x06 || r.1 == 0x02) s
  else s.setSlot p n { s.slot p n with copy := r.2.1, tag := tdGen r.2.1 }

/-- A token engine takes the operation, last of those it holds (R468). -/
def tokTake (p n e : Nat) (s : State) : State :=
  s.setEng e { s.eng e with held := (s.eng e).held.filter (· != (p, n)) ++ [(p, n)] }

/-- R461: HOST_SIGNAL's record. -/
def hostSignal (p n : Nat) (s : State) : State :=
  let o := s.slot p n
  emitRec { kind := .signal, page := pSCH p, subj := p, aux := bits (o.arg 0) 15 0, detail := o.arg 1 % 2 ^ 64,
            holder := some p, sig := some (p, n) } s

/-- R544: the checkpoint engines take the operation. -/
def ckpTake (p n : Nat) (s : State) : State :=
  let o := s.slot p n
  let s := s.setF (pCKP 0) F.CKP_STS_BUSY 1
  { s with ckp := { s.ckp with
    run := some { op := 2, part := p, resume := true, who := .op n, ph := .granted, tier := ptrTier (o.arg 0)
                  addr := ptrAddr (o.arg 0), mib := bits (o.arg 1) 31 0, exTier := ptrTier (o.arg 2)
                  exAddr := ptrAddr (o.arg 2), nexcl := bits (o.arg 2) 61 50, tag := o.arg 3 % 2 ^ 64 } } }

/-- R449 step 7. -/
def deliver (p n : Nat) (e : Exec) (s : State) : State :=
  match e with
  | .core c => coreTake p n c s
  | .token i => tokTake p n i s
  | .mig d => migTake p n d s
  | .ckp _ => ckpTake p n s
  | .sched =>
    let o := s.slot p n
    if o.cls = cDELAY then startDelay p n s else if o.cls = cSIGNAL then hostSignal p n s else s

/-! ## The grant (Table 12-3) -/

/-- Steps 3, 5 and 6: the rotations advance, the slot runs, and an ordered flow gives a sequence number. -/
def grantMark (p n : Nat) (o : OpSlot) (e : Exec) (s : State) : State :=
  let q := s.sc p
  let q := { q with lastFlow := SMap.put q.lastFlow (s.effPrio p o) (o.flow + 1) 0, grantNo := q.grantNo + 1 }
  let q := match e with
    | .core c => { q with lastCore := (s.lcore c).getD 0 + 1, cluGrant := SMap.put q.cluGrant ((s.cluOf c).getD 0) q.grantNo 0 }
    | _ => q
  let tag := match e with | .core c => s.f (pCORE c) F.CORE_PIMG_TAG | _ => 0
  let s := s.setSc p q
  let s := match engNo e with
    | some i => { s with prt := { s.prt with turns := SMap.put s.prt.turns i (granted (SMap.get s.prt.turns i []) (s.engWaiters e) p) [] } }
    | none => s
  let s := s.setSlot p n { o with
    st := .running, exec := some e, fin := false, heldRel := false, drain := false, tag := tag, iss := s.issue (execPage p (some e)) }
  let f := s.flow p o.flow
  if f.ordered then
    let q := s.sc p
    let s := s.setSc p { q with rel := q.rel ++ [{ flow := o.flow, seq := f.nextSeq, slot := n }] }
    s.setFlow p o.flow { f with nextSeq := f.nextSeq + 1 }
  else s

/-- Does the descriptor read of R440 wait (the controller takes no access now)? -/
def State.grantWaits (s : State) (p : Nat) (o : OpSlot) : Exec → Bool
  | .mig _ => s.accessCode p (ptrTier (o.arg 0)) (ptrAddr (o.arg 0)) 64 == 0x12
  | _ => false

/-- GRANT: one grant of the partition's scheduler, when an executor waits for an eligible operation. -/
def grant (p : Nat) (s : State) : State :=
  match s.pickOp p with
  | none => s
  | some (n, o) =>
    match s.pickExec p o with
    | none => s
    | some e =>
      if s.grantWaits p o e then s
      else
        let s := grantMark p n o e s
        let s := perf (pSCH p) 0x50 1 (s.add64 (pSCH p) R.SCH_GRANTS_LO R.SCH_GRANTS_HI 1)
        let s := if e matches .mig _ then deliver p n e s else s
        let s := trace p n 1 0 none s
        if e matches .mig _ then s else deliver p n e s

/-! ## EPOCH (Table 11-9, Table 06-3) -/

/-- Step 2: has every operation granted before the EPOCH completed, and is every core IDLE? -/
def State.drained (s : State) (p n : Nat) : Bool :=
  (s.sc p).slots.all (fun e => e.1 == n || e.2.st != .running || e.2.heldRel) &&
    (s.unitsOf resClu p).all (fun k => (s.slotsOfClu k).all (fun c => s.phase c == 0)) &&
    (s.tagsWhere (fun r => r.part == p && (match r.who with | .op _ _ => true | _ => false))).isEmpty

/-- Step 3: one phase map entry.  The code of a cluster no longer held. -/
def applyMap (p : Nat) (e : List Byte) (r : Nat × State) : Nat × State :=
  let w := leNat e
  let s := r.2
  let fl := bits w 11 0
  let code := if r.1 = 0 ∧ s.holdsMask p (bits w 63 16) = false then 0x02 else r.1
  (code, s.setFlow p fl { s.flow p fl with mask := bits w 63 16 })

/-- The partition completes an epoch as cluster `k` sees it (R246, R247). -/
def epochSeenBy (k : Nat) (s : State) : State :=
  if s.lpfBusy k || s.f (pCLU k) F.CLU_LPF_STS_SWAP_PEND == 1 then s.setClu k { s.clu k with epochSeen := true } else s

/-- Step 4: GO of one cluster.  A swap that waited for this epoch takes place first, and frees the region that the
carried prefetch loads (Table 06-3 step 4). -/
def epochGo (p k : Nat) (r : Nat × State) : Nat × State :=
  let s := r.2
  if s.holderOf resClu k ≠ some p then (if r.1 = 0 then 0x02 else r.1, s)
  else
    let code := s.lpfGoCode k
    if code ≠ 0 then (if r.1 = 0 then code else r.1, s) else (r.1, lpfStart k (epochSeenBy k s))

/-- R246, R247: an epoch of the partition completes. -/
def epochDone (p : Nat) (s : State) : State := forEach epochSeenBy (s.unitsOf resClu p) s

/-- The EPOCH ends: it completes, or faults as the scheduler's operation (R439). -/
def epochEnd (p n code : Nat) (s : State) : State :=
  if code = 0 then completed p n (epochDone p s) else execFault p n code s

/-- The phase map's bytes: its code, the DETAIL of a poisoned line, and the bytes (R213). -/
def mapRead (p : Nat) (o : OpSlot) (s : State) : Nat × Nat × List Byte × State :=
  let a := o.arg 0
  if ptrTier a = 0 then (0, 0, [], s)
  else
    let r := bulkRead (pSCH p) 0 (s.access p) (ptrTier a) (ptrAddr a) (8 * o.nmap) s
    let d := withSrc (ptrTier a) (ptrAddr a) r.2.1
    if r.1 ≠ 0 then (r.1, 0, [], r.2.2)
    else if firstMark d ≠ 0 then (0x06, firstMark d - 1, [], r.2.2)
    else (0, 0, dataOf r.2.1, r.2.2)

/-- EPOCH_APPLY: steps 2 to 5. -/
def epochApply (p : Nat) (s : State) : State :=
  match (s.sc p).slots.find? (fun e => e.2.cls == cEPOCH && e.2.st == .running && !e.2.heldRel) with
  | none => s
  | some (n, o) =>
    if !s.drained p n then s
    else
      let r := mapRead p o s
      if r.1 = 0x12 then r.2.2.2
      else if r.1 ≠ 0 then
        opFault p n r.1 none (if r.1 = 0x06 then logErr (pSCH p) 0x06 p r.2.1 0 r.2.2.2 else r.2.2.2)
      else
        let x := if ptrTier (o.arg 0) = 0 then (0, s)
          else forUp (fun i x => applyMap p ((r.2.2.1.drop (8 * i)).take 8) x) o.nmap 0 (0, r.2.2.2)
        let y := forUp (fun k y => if bit (o.arg 1) k then epochGo p k y else y) 48 0 x
        epochEnd p n y.1 y.2

/-! ## MOVE and RESHARD plans (R412 to R417) -/

/-- Table 11-4: a plan entry. -/
structure PlanEnt where
  src : Nat
  stier : Nat
  zero : Bool
  dkind : Nat
  dst : Nat
  dtier : Nat
  len : Nat
  tag : Nat
  darg : Nat
  deriving DecidableEq, Repr

/-- Table 11-4: the fields of 32 bytes. -/
def planEnt (e : List Byte) : PlanEnt :=
  { src := fieldOf e 0 6, stier := bits (fieldOf e 6 1) 1 0, zero := bit (fieldOf e 6 1) 2, dkind := fieldOf e 7 1,
    dst := fieldOf e 8 6, dtier := fieldOf e 15 1, len := fieldOf e 16 4, tag := fieldOf e 20 4, darg := fieldOf e 24 6 }

/-- What a plan entry, or a part of it, came to: done; waiting, in the state it began in or in the one it has reached;
waiting for a buffer of the target core; or a fault with its code, and whether the block that failed has logged it. -/
inductive PlanRes
  | done
  | wait
  | hold
  | noBuf (c : Nat)
  | fault (code : Nat) (logged : Bool)
  deriving DecidableEq, Repr

/-- The outcome of a tier access made for a plan. -/
def planOf (code : Nat) : PlanRes :=
  if code = 0 then .done else if code = 0x12 then .wait else .fault code (code != 0x06)

/-- The bytes of an entry that its next request copies: none crosses a block of the source tier or of the destination
(R221, R589), and none is longer than a buffer. -/
def planLen (e : PlanEnt) (ofs : Nat) : Nat :=
  let a := if e.zero then 4096 else tierM e.stier - (e.src + ofs) % tierM e.stier
  let b := match e.dkind with
    | 0 => tierM e.dtier - (e.dst + ofs) % tierM e.dtier
    | 3 => 256 - (e.dst + ofs) % 256
    | _ => 4096
  min (e.len - ofs) (min a b)

/-- The range of an entry's source and of a destination in a tier (R166, R220, R241): 0, or the code it faults with.
-/
def State.planCode (s : State) (c : Nat) (e : PlanEnt) : Nat :=
  let src := if e.zero then 0
    else if e.stier = 0 then (if e.src + e.len ≤ s.sharedBytes ((s.cluOf c).getD 0) then 0 else 0x05)
    else s.rangeCode e.stier e.src e.len
  if src ≠ 0 then src else if e.dkind = 0 then s.rangeCode e.dtier e.dst e.len else 0

/-- TQ0 holds the FETCH buffer that the plan's reads go through (R415). -/
def planBuf (c : Nat) (s : State) : PlanRes × State :=
  let t := s.tq c 0
  if t.bufs ≠ 0 then (.done, s)
  else match poolAsk c (whoOf (.queue 0)) false 1 s with
    | (.granted, s) => (.done, s.setTq c 0 { s.tq c 0 with bufs := 1 })
    | (.refused, s) => (.hold, s)
    | (.waits, s) => (.hold, s)
    | (.never, s) => (.fault 0x13 false, s)

/-- `m` bytes of an entry's source from offset `ofs`, through TQ0 (R415). -/
def planRead (c : Nat) (e : PlanEnt) (ofs m : Nat) (s : State) : PlanRes × Marked × State :=
  if e.zero then (.done, unmarked (List.replicate m 0), s)
  else if e.stier = 0 then (.done, s.cluRead ((s.cluOf c).getD 0) (e.src + ofs) m, s)
  else
    let a := e.src + ofs
    let x := memRead (pCORE c) (s.coreAcc c) e.stier a m (s.isRmtDie (c / 256) e.stier a) s
    (planOf x.1, withSrc e.stier a x.2.1, x.2.2)

/-- R413: CLUSTER, every cluster of the mask in turn; a page that takes no work makes the entry wait (R745). -/
def planClus (p : Nat) (e : PlanEnt) (ofs : Nat) (d : Marked) : List Nat → State → PlanRes × State
  | [], s => (.done, s)
  | k :: ks, s =>
    if s.holderOf resClu k ≠ some p then (.fault 0x02 false, s)
    else if s.fenced (pCLU k) then (.fault 0x03 false, s)
    else if !s.takesWork (pCLU k) then (.wait, s)
    else if s.sharedBytes k < e.dst + e.len then (.fault 0x05 false, s)
    else planClus p e ofs d ks (cluWrite k (e.dst + ofs) d s)

/-- R414: CORE, through one FETCH buffer of the target's pool, which it holds until the bytes are written. -/
def planCore (p : Nat) (e : PlanEnt) (ofs : Nat) (d : Marked) (s : State) : PlanRes × State :=
  if s.holderOf resClu (e.darg / 8) ≠ some p then (.fault 0x02 false, s)
  else match s.slotOfCore e.darg with
    | none => (.fault 0x05 false, s)
    | some t =>
      if s.staticBytes t < e.dst + e.len then (.fault 0x05 false, s)
      else if !s.takesWork (pCORE t) then (.wait, s)
      else if (s.core t).inbound ≠ 0 then
        (.done, staticPut t (e.dst + ofs) d (poolGive t 1 (s.setCore t { s.core t with inbound := (s.core t).inbound - 1 })))
      else match poolAsk t (whoOf .inbound) false 1 s with
        | (.granted, s) => (.done, staticPut t (e.dst + ofs) d (poolGive t 1 s))
        | (.refused, s) => (.noBuf t, s)
        | (.waits, s) => (.noBuf t, s)
        | (.never, s) => (.fault 0x13 false, s)

/-- R415, R589, R596, R600: the fabric write of a piece of a REMOTE entry, through TQ3; one that no link serves faults
the operation. -/
def planRemote (c p n : Nat) (e : PlanEnt) (ofs : Nat) (d : Marked) (s : State) : PlanRes × State :=
  let a := e.dst + ofs
  let k := s.core c
  let t := k.tq 3
  if s.f (pCORE c) (F.TQ_CFG_OUT_MAX.at 4 3) ≤ t.reqs.length then (.hold, s)
  else
    let pm := pmaskOf a (toTier d)
    let h : PktHdr := { opc := 2, len := d.length, poison := pm != 0, space := e.dtier, pmask := pm, addr := a }
    let o : FabOut :=
      { who := .op p n, part := p, lid := some e.darg, hdr := h.word, data := d.map (·.1), id := k.nextReq, etag := e.tag }
    let r : TqReq := { id := k.nextReq, tier := 4, addr := a, len := d.length, pos := 0, slot := 0, iss := s.issue (pCORE c), tag := e.tag }
    let s := s.setCore c { (k.setTq 3 { t with reqs := t.reqs ++ [r] }) with nextReq := k.nextReq + 1 }
    match issueReq o s with
    | (.sent, s) => (.done, s)
    | (.waits, s) => (.done, { s with fab := { s.fab with wait := s.fab.wait ++ [o] } })
    | (.noPath, s) => (.fault 0x08 false, s)

/-- `d`, the bytes of an entry from offset `ofs`, go to their destination (R413). -/
def planPut (c p n : Nat) (e : PlanEnt) (ofs : Nat) (d : Marked) (s : State) : PlanRes × State :=
  match e.dkind with
  | 0 =>
    let a := e.dst + ofs
    let w := memWrite (pCORE c) (s.coreAcc c) e.dtier a (toTier d) (s.isRmtDie (c / 256) e.dtier a) s
    (planOf w.1, perf (pCORE c) 0x37 d.length w.2)
  | 1 =>
    let w := planClus p e ofs d ((List.range 48).filter (bit e.darg)) s
    (w.1, perf (pCORE c) 0x37 d.length w.2)
  | 2 =>
    let w := planCore p e ofs d s
    (w.1, if w.1 = .done then perf (pCORE c) 0x37 d.length w.2 else w.2)
  | _ => planRemote c p n e ofs d s

/-- One piece of an entry: `m` bytes from offset `ofs`. -/
def planPiece (c p n : Nat) (e : PlanEnt) (ofs m : Nat) (s : State) : PlanRes × State :=
  if s.planCode c e ≠ 0 then (.fault (s.planCode c e) false, s)
  else
    let b := planBuf c s
    if b.1 ≠ .done then b
    else
      let r := planRead c e ofs m b.2
      if r.1 ≠ .done then (r.1, r.2.2)
      else planPut c p n e ofs r.2.1 (perf (pCORE c) 0x36 m r.2.2)

/-- R414: the wait of the executing core for a target core's buffer, bounded by the target's
WS_BUF_WAIT. -/
def planWait (c t : Nat) (h : HeldOp) (tag : Nat) (s : State) : State :=
  match h.bwait with
  | none => s.setCore c { s.core c with op := some { h with bwait := some (t, s.coreNow t) } }
  | some (_, b) =>
    if b + s.f (pCORE t) F.WS_BUF_WAIT_US * 1000 ≤ s.coreNow t then coreFaultLog c 0x13 0 (some tag) s else s

/-- R416: the operation completes once every write has been acknowledged; the core waits in GET again. -/
def planEnd (c : Nat) (h : HeldOp) (s : State) : State :=
  if !(s.tq c 3).reqs.isEmpty then s
  else
    let s := releaseWin c 0 (completed h.part h.slot s)
    leaveFetch c (s.setCore c { s.core c with op := none, inGet := true })

/-- The plan's entry at hand is read and checked (R412). -/
def planFetch (c : Nat) (o : OpSlot) (h : HeldOp) (s : State) : PlanRes × State :=
  let a := o.arg 0
  let at_ := ptrAddr a + 32 * h.next
  if s.accessCode (s.corePart c) (ptrTier a) at_ 32 = 0x12 then (.wait, s)
  else
    let r := readPlain (pCORE c) (s.coreAcc c) (ptrTier a) at_ 32 s
    if r.1 = 0x06 then (.wait, poisonFault c (1 + lineDetail (ptrTier a) at_) r.2.2)
    else if r.1 ≠ 0 then (.wait, coreFault c r.1 0 0 none r.2.2)
    else if !planEntryOk (h.cls == cRESHARD) r.2.1 then
      (.wait, coreFaultLog c 0x04 (memKey (ptrTier a) at_) (some (planEnt r.2.1).tag) r.2.2)
    else (.done, r.2.2.setCore c { r.2.2.core c with op := some { h with ent := r.2.1, ofs := 0 } })

/-- The plan from where it stands on, until it ends, waits or faults. -/
def planFrom (c : Nat) (o : OpSlot) : Nat → State → State
  | 0, s => s
  | fuel + 1, s =>
    match (s.core c).op with
    | none => s
    | some h =>
      if o.nent ≤ h.next then planEnd c h s
      else if h.ent.isEmpty then
        match planFetch c o h s with
        | (.done, s) => planFrom c o fuel s
        | (_, s) => s
      else
        let e := planEnt h.ent
        let m := planLen e h.ofs
        if m = 0 then planFrom c o fuel (s.setCore c { s.core c with op := some { h with next := h.next + 1, ent := [], ofs := 0 } })
        else match planPiece c h.part h.slot e h.ofs m s with
          | (.done, s) => planFrom c o fuel (s.setCore c { s.core c with op := some { h with ofs := h.ofs + m, bwait := none } })
          | (.wait, _) => s
          | (.hold, s) => s
          | (.noBuf t, s) => planWait c t h e.tag s
          | (.fault code logged, s) =>
            if logged then coreFault c code 0 0 (some e.tag) s else coreFaultLog c code 0 (some e.tag) s

/-- MOVE or RESHARD: a core that holds an operation of the class, and a fetch slot, works on its plan. -/
def plan (c cls : Nat) (s : State) : State :=
  match (s.core c).op with
  | none => s
  | some h =>
    if h.cls ≠ cls || !s.hasFetch c || s.fenced (pCORE c) then s
    else
      let o := s.slot h.part h.slot
      planFrom c o (o.nent * 2 ^ 26) s

/-! ## Meanings -/

/-- GRANT. -/
def execGrant (p : Nat) (errs : Errs) (s : State) : Host.Outcome State Fault Refusal :=
  whenOk (okPart p) s <|
  runErr errs (pSCH p :: (match (s.pickOp p).bind (fun x => s.pickExec p x.2) with | some (.core c) => [pCORE c] | _ => [])) s (grant p)
/-- EPOCH_APPLY. -/
def execEpochApply (p : Nat) (errs : Errs) (s : State) : Host.Outcome State Fault Refusal :=
  whenOk (okPart p) s <| runErr errs [pSCH p] s (epochApply p)
/-- MOVE. -/
def execMove (c : Nat) (errs : Errs) (s : State) : Host.Outcome State Fault Refusal :=
  whenOk (okCore c) s <| runErr errs (s.corePages c) s (plan c cMOVE)
/-- RESHARD. -/
def execReshard (c : Nat) (errs : Errs) (s : State) : Host.Outcome State Fault Refusal :=
  whenOk (okCore c) s <| runErr errs (s.corePages c) s (plan c cRESHARD)

end Sys2Proof.Machine
end

