-- ==== Sys2Proof/Machine/Ckp.lean ====
section
/-! DEFINITION.  Pause, checkpoint and exact resumption: the Jay checkpoint engines, their commands, the
CHECKPOINT operation, domain captures and image keys (R518 to R565). -/

namespace Sys2Proof.Machine

/-! ## The engines' record -/

def State.setRun (s : State) (r : Option CkpRun) : State := { s with ckp := { s.ckp with run := r } }
def State.member (s : State) (p : Nat) : Option CutMember := SMap.get s.ckp.members p none
def State.setMember (s : State) (p : Nat) (v : Option CutMember) : State :=
  { s with ckp := { s.ckp with members := SMap.put s.ckp.members p v none } }

/-- The partition enters a pause state (Table 15-1). -/
def setPause (p st : Nat) (s : State) : State := s.setF (pCKP 0) (F.CKP_PSTS_STATE.at 4 p) st

/-- CKP_STS reports the command that ended. -/
def ckpSts (op p code : Nat) (s : State) : State :=
  let s := ((s.setF (pCKP 0) F.CKP_STS_CODE code).setF (pCKP 0) F.CKP_STS_PART p).setF (pCKP 0) F.CKP_STS_OP op
  perfOwn (pCKP 0) 0x91 1 p s

/-- What the engines were doing ends, with a code: they are idle again. -/
def ckpEnd (r : CkpRun) (code : Nat) (s : State) : State :=
  let s := if r.op = 1 then s else s.setF (pCKP 0) (F.CKP_PSTS_LAST.at 4 r.part) code
  let s := (s.setRun none).setF (pCKP 0) F.CKP_STS_BUSY 0
  if r.who = .cmd then ckpSts r.op r.part code s else s

/-- CKP_PCUT of a partition. -/
def State.pcut (s : State) (p : Nat) : Nat := s.w64 (pCKP 0) (R.CKP_PCUT_LO + 8 * p) (R.CKP_PCUT_HI + 8 * p)
def setPcut (p v : Nat) (s : State) : State := s.setW64 (pCKP 0) (R.CKP_PCUT_LO + 8 * p) (R.CKP_PCUT_HI + 8 * p) v

/-! ## Cut messages (R594) -/

/-- A cut message of a kind, with its 16 B of data. -/
def cutPkt (dst src kind cutId code : Nat) : Packet :=
  let h : PktHdr := { opc := 7, len := 16, sub := kind, dst := dst, src := src }
  { vc := 0, hdr := h.word, data := leBytes 8 cutId ++ leBytes 1 code ++ List.replicate 7 0 }

/-- The coordinator's message to one logical device; `false` where no link serves it (R596, R608). -/
def cutTo (p lid kind cutId : Nat) (s : State) : Bool × State :=
  match (s.lmapOf p lid).bind (fun d => (s.pickLink p d 0).map (fun l => (l, d))) with
  | none => (false, s)
  | some (l, d) =>
    if s.f (pLNK l) F.LNK_PEER_FVER < 3 then (false, s)
    else (true, enqueuePkt l (cutPkt d (s.f pGLB F.FAB_DEVID_ID) kind cutId 0) s)

/-- The members of the domain but this chip (Table 15-7, step 1). -/
def State.peers (s : State) : List Nat :=
  (List.range (s.f (pCKP 0) F.CKP_DOM_NDEV)).filter (· != s.f (pCKP 0) F.CKP_DOM_SELF)

/-- The message to every other member: whether every one of them was reached. -/
def cutAll (p kind cutId : Nat) : List Nat → State → Bool × State
  | [], s => (true, s)
  | d :: ds, s =>
    let x := cutTo p d kind cutId s
    let y := cutAll p kind cutId ds x.2
    (x.1 && y.1, y.2)

/-- A member's answer, on the link its HOLD arrived on. -/
def cutReply (m : CutMember) (kind cutId code : Nat) (s : State) : State :=
  if s.linkUp m.link then enqueuePkt m.link (cutPkt m.src (s.f pGLB F.FAB_DEVID_ID) kind cutId code) s else s

/-! ## Resuming (R558) -/

/-- The partition runs again: deadlines restart from their remaining times. -/
def resumePart (p : Nat) (s : State) : State :=
  let q := s.sc p
  let q := if q.frozen then { q with delay := q.delay.map (fun e => (s.now + e.1, e.2)), frozen := false } else q
  let s := ((s.setSc p q).setMember p none).setF (pCKP 0) (F.CKP_PSTS_DOM.at 4 p) 0
  setPause p 0 s

/-- A pause is abandoned: grants resume, and delay deadlines were never stopped (R524). -/
def unpause (p : Nat) (s : State) : State :=
  setPause p 0 ((s.setMember p none).setF (pCKP 0) (F.CKP_PSTS_DOM.at 4 p) 0)

/-- Table 15-2, step 1: the partition becomes PAUSING. -/
def startPause (p : Nat) (dom : Bool) (s : State) : State :=
  let s := { s with ckp := { s.ckp with pauseAt := SMap.put s.ckp.pauseAt p s.now 0 } }
  setPause p 1 (s.setF (pCKP 0) (F.CKP_PSTS_DOM.at 4 p) (b2n dom))

/-! ## What an image holds (Table 15-3) -/

/-- Whole registers of a page, captured. -/
def State.words (s : State) (pg : Nat) (os : List Nat) : List RegSnap := os.map (fun o => { ofs := o, val := s.w pg o })

/-- Register fields of a page, captured. -/
def State.flds (s : State) (pg : Nat) (xs : List Fld) : List RegSnap :=
  xs.map (fun x => { ofs := x.ofs, hi := x.hi, lo := x.lo, val := s.f pg x })

/-- Captured fields put in place, whatever the page's claim and PG_CTL (R559). -/
def putRegs (pg : Nat) (rs : List RegSnap) (s : State) : State := forEach (fun r s => s.setF pg ⟨r.ofs, r.hi, r.lo⟩ r.val) rs s

/-- Captured fields of a page return to their reset values (R556). -/
def zeroRegs (pg : Nat) (rs : List RegSnap) (s : State) : State :=
  forEach (fun r s => s.setF pg ⟨r.ofs, r.hi, r.lo⟩ (bits (resetWord (pg * 4096 + r.ofs)).toNat r.hi r.lo)) rs s

/-- Captured registers of a core. -/
def coreRegs : List Nat :=
  [R.CORE_BOOT, R.CORE_CFG, R.CORE_RUNLIM, R.CORE_RWIN, R.CORE_PIMG, R.TQ_CFG, R.TQ_CFG + 4, R.TQ_CFG + 8, R.TQ_CFG + 12,
   R.WS_POOL, R.WS_BUF_WAIT, R.GTH_CFG]

/-- Captured registers of a cluster, and fields of others. -/
def cluRegs : List Nat :=
  [R.CLU_WCFG, R.CLU_PHASE, R.CLU_LPF_LIST_LO, R.CLU_LPF_LIST_HI, R.CLU_LPF_BYTES, R.CLU_LPF_SURPLUS_LO, R.CLU_LPF_SURPLUS_HI]
def cluFlds : List Fld := [F.CLU_LPF_CTL_OUT_MAX, F.CLU_LPF_STS_DONE, F.CLU_LPF_STS_SWAP_PEND]

/-- FXR0 to FXR15. -/
def fxrRegs : List Nat := (List.range 64).map (fun i => R.FXR_BASE_LO + 4 * i)

/-- The partition's logical cores that have a slot, ascending. -/
def State.coresOf (s : State) (p : Nat) : List (Nat × Nat) :=
  (s.unitsOf resClu p).flatMap fun k => (List.range 8).filterMap (fun j => (s.slotOfCore (8 * k + j)).map (fun c => (8 * k + j, c)))

/-- Bytes of the static region, of those the map lists. -/
def staticPart (n : Nat) (m : SMap Byte) : SMap Byte := m.filter (fun e => decide (e.1 < n))

/-- What is captured of one core. -/
def State.coreSnap (s : State) (lc c : Nat) : CoreSnap :=
  let k := s.core c
  { lcore := lc, prog := k.prog, work := staticPart (s.staticBytes c) k.work
    workPois := k.workPois.filter (fun e => decide (64 * e.1 < s.staticBytes c))
    regs := s.words (pCORE c) coreRegs ++ s.flds (pCORE c) [F.CORE_PLD_STS_VALID] }

/-- What is captured of one cluster. -/
def State.cluSnap (s : State) (k : Nat) : CluSnap :=
  let v := s.clu k
  { clu := k, store := v.store, pois := v.pois, regs := s.words (pCLU k) cluRegs ++ s.flds (pCLU k) cluFlds
    cur := v.cur, next := v.next, nextHigh := v.nextHigh, epochSeen := v.epochSeen }

/-- What is captured of one token engine: the areas whose OWNER names the partition, VALID or not (R514).  Areas that
stand as cold reset left them are nobody's (DESIGN CHOICE, log entry 86). -/
def State.tokSnap (s : State) (p e : Nat) : TokSnap :=
  let v := s.eng e
  { eng := e, streams := v.streams.filter (fun x => x.2.owner == p), slots := v.slots.filter (fun x => x.2.owner == p)
    stops := v.stops.filter (fun x => x.2.owner == p) }

/-- Does an engine hold any of the partition's state? -/
def TokSnap.any (t : TokSnap) : Bool := !(t.streams.isEmpty && t.slots.isEmpty && t.stops.isEmpty)

/-- ALC_HANDLE's format. -/
def handleOf (n : Nat) (a : Alloc) : Nat := a.seq * 4096 + n

/-- The live allocations of a partition: record slot and record. -/
def State.allocs (s : State) (p : Nat) : List (Nat × Alloc) :=
  (s.al p).live.filterMap (fun e => e.2.map (fun a => (e.1, a)))

/-- The tier ranges of an allocation in logical order (R185): tier, address, bytes. -/
def Alloc.ranges (a : Alloc) : List (Nat × Nat × Nat) := a.exts.map (fun x => (x.tier, x.start * 2 ^ 21, x.len * 2 ^ 21))

/-- R528: the allocations a capture includes. -/
def State.included (s : State) (p : Nat) (excl : List Nat) : List (Nat × Alloc) :=
  (s.allocs p).filter (fun x => !excl.contains (handleOf x.1 x.2))

/-- Table 15-3: the state that sections 0x01 to 0x06 of an image hold. -/
def State.snap (s : State) (p : Nat) (excl : List Nat) : Snap :=
  let sp := pSCH p
  { seedLo := s.w pPRT (R.PRT_P_SEED_LO + 8 * p), seedHi := s.w pPRT (R.PRT_P_SEED_HI + 8 * p)
    units := (List.range 4).map (fun t => s.unitsOf t p)
    tick := s.w sp R.SCH_TICK, dcfg := s.w sp R.SCH_DCFG
    sch := s.sc p, alloc := s.al p, fxr := s.words sp fxrRegs
    cores := (s.coresOf p).map (fun x => s.coreSnap x.1 x.2)
    clus := (s.unitsOf resClu p).map s.cluSnap
    toks := ((List.range 4).map (s.tokSnap p)).filter TokSnap.any
    incl := (s.included p excl).map (·.1) }

/-- The tier ranges of MEM, in its order (R537). -/
def Snap.ranges (v : Snap) : List (Nat × Nat × Nat) :=
  v.incl.flatMap (fun n => (SMap.get v.alloc.live n none).elim [] Alloc.ranges)

/-! ## Sections and sizes (Table 15-5) -/

/-- Rounded up to a multiple of `n`. -/
def roundUp (n x : Nat) : Nat := ceilDiv x n * n

/-- The 2 MiB granules of some ranges that hold a line marked poisoned. -/
def State.poisGran (s : State) (rs : List (Nat × Nat × Nat)) : Nat :=
  (rs.map (fun r => ((List.range (r.2.2 / 2 ^ 21)).filter (fun g =>
    (List.range (2 ^ 15)).any (fun i => (s.line (memKey r.1 (r.2.1 + g * 2 ^ 21 + 64 * i))).poison))).length)).foldl (· + ·) 0

/-- WS_POOL.SIZE of a captured core. -/
def CoreSnap.pool (c : CoreSnap) : Nat :=
  bits ((c.regs.find? (fun r => r.ofs == R.WS_POOL)).elim 0 (·.val)) F.WS_POOL_SIZE.hi F.WS_POOL_SIZE.lo

/-- Table 15-5: the sections in payload order: type, instance, length; `pg` granules have poisoned lines. -/
def Snap.sections (v : Snap) (pg : Nat) : List (Nat × Nat × Nat) :=
  let sum (l : List Nat) : Nat := l.foldl (· + ·) 0
  let sl := v.sch.slots.filter (fun e => e.2.st != .empty)
  let live := v.alloc.live.filter (fun e => e.2.isSome)
  let onDie (d : Nat) := v.cores.filter (fun c => c.lcore / 192 == d)
  let cluDie (d : Nat) := v.clus.filter (fun c => c.clu / 24 == d)
  [(1, 0, 4096),
   (2, 0, roundUp 64 (65536 + 128 * sl.length + 16 * v.sch.links.length + 32 * v.sch.delay.length + 16 * v.sch.rel.length)),
   (3, 0, 4096 + 4160 * live.length)]
  ++ ([0, 1].filter (fun d => !(onDie d).isEmpty)).map (fun d => (4, d, sum ((onDie d).map (fun c => 69632 + (384 - c.pool) * 4096))))
  ++ ([0, 1].filter (fun d => !(cluDie d).isEmpty)).map (fun d => (5, d, 8392704 * (cluDie d).length))
  ++ v.toks.map (fun t => (6, t.eng, 4096 + 4096 * t.streams.length + sum (t.slots.map (fun x => x.2.size * 65536)) + 65536 * t.stops.length))
  ++ [(7, 0, sum (v.ranges.map (·.2.2))), (8, 0, 64 + 4160 * pg)]

/-- PAYLOAD of some sections, NCHUNK, where the payload starts, and IMG_BYTES. -/
def payloadOf (xs : List (Nat × Nat × Nat)) : Nat := xs.foldl (fun a x => a + x.2.2) 0
def chunksOf (payload : Nat) : Nat := ceilDiv payload (2 ^ 20)
def payloadAt (payload : Nat) : Nat := 4096 + roundUp 4096 (16 * chunksOf payload)
def imgBytes (payload : Nat) : Nat := payloadAt payload + payload

/-- R538: the records of MEM's poisoned granules: index, 56 zero bytes, and a bit for each line. -/
def poisonRecords (mem : List (Byte × Bool)) : List Byte :=
  (List.range (mem.length / 2 ^ 21)).flatMap fun g =>
    let m := (mem.drop (g * 2 ^ 21)).take (2 ^ 21)
    if anyMark m then
      leBytes 8 g ++ List.replicate 56 0 ++
        leBytes 4096 ((List.range (2 ^ 15)).foldl (fun a i => a + b2n (anyMark ((m.drop (64 * i)).take 64)) * 2 ^ i) 0)
    else []

/-- The bytes of sections 0x01 to 0x06 of an image. -/
def bodyBytes (serial n : Nat) : List Byte := (List.range n).map (Config.imageByte serial 0)

/-- The payload of an image: `body`, MEM, and POISON, the 64 bytes before whose records the spec does not describe
(DESIGN CHOICE, log entry 86). -/
def payloadBytes (serial : Nat) (body : List Byte) (mem : List (Byte × Bool)) : List Byte :=
  body ++ dataOf mem ++ (List.range 64).map (Config.imageByte serial 1) ++ poisonRecords mem

/-! ## The header (Table 15-4) -/

/-- The section entries of the header, from byte 256. -/
def sectionBytes : Nat → List (Nat × Nat × Nat) → List Byte
  | _, [] => []
  | ofs, x :: xs =>
    leBytes 1 x.1 ++ leBytes 1 x.2.1 ++ List.replicate 6 0 ++ leBytes 8 ofs ++ leBytes 8 x.2.2 ++ List.replicate 8 0
      ++ sectionBytes (ofs + x.2.2) xs

/-- Header bytes 0 to 4,095 with bytes 192 to 255 read as 0 (R531, R533). -/
def State.imgHeader (s : State) (r : CkpRun) (keyId : Nat) (xs : List (Nat × Nat × Nat)) : List Byte :=
  let pl := payloadOf xs
  padTo 4096 (padTo 256
    (leBytes 4 0x54504B43 ++ leBytes 2 (s.f pGLB F.GLB_PART_PART) ++ leBytes 1 1 ++ leBytes 1 0 ++ leBytes 8 keyId
      ++ leBytes 8 r.nonce ++ leBytes 8 Config.uid.toNat ++ leBytes 8 r.tbs ++ leBytes 8 r.cutId
      ++ leBytes 2 (if r.cutId = 0 then 0 else s.f (pCKP 0) F.CKP_DOM_SELF)
      ++ leBytes 2 (if r.cutId = 0 then 1 else s.f (pCKP 0) F.CKP_DOM_NDEV)
      ++ leBytes 1 r.part ++ leBytes 1 xs.length ++ leBytes 2 0 ++ leBytes 8 r.tag
      ++ leBytes 8 (imgBytes pl) ++ leBytes 8 pl ++ leBytes 4 (chunksOf pl))
    ++ sectionBytes 0 xs)

/-- Header bytes 192 to 255: STATE and MTAG. -/
def stateLine (committed : Bool) (mtag : List Byte) : List Byte :=
  leBytes 1 (b2n committed) ++ List.replicate 15 0 ++ padTo 48 mtag

/-- A header with bytes 192 to 255 put in. -/
def withState (h line : List Byte) : List Byte := h.take 192 ++ line ++ h.drop 256

/-! ## The seal (R533, R534) -/

/-- The IV of a chunk: NONCE and its number. -/
def chunkIv (nonce k : Nat) : List Byte := leBytes 8 nonce ++ leBytes 4 k

/-- Chunk `k` of some bytes that stand in the place of the payload (R532). -/
def chunkOf (k : Nat) (pl : List Byte) : List Byte := (pl.drop (k * 2 ^ 20)).take (2 ^ 20)

/-- The payload sealed chunk by chunk: its ciphertext, and the tags. -/
def sealPayload (key nonce : Nat) (hdr pl : List Byte) : List Byte × List Byte :=
  let cs := (List.range (chunksOf pl.length)).map (fun k => gcmSeal key (chunkIv nonce k) hdr (chunkOf k pl))
  (cs.flatMap (·.1), cs.flatMap (·.2))

/-- MTAG: the tag of an empty plaintext, which authenticates the header and the tag table. -/
def masterTag (key nonce : Nat) (hdr tags : List Byte) : List Byte := (gcmSeal key (chunkIv nonce (2 ^ 32 - 1)) (hdr ++ tags) []).2

/-! ## CAPTURE (Table 15-6) -/

/-- The exclusion list: the code it cannot be used with, and its handles (R528). -/
def readExcl (r : CkpRun) (s : State) : Nat × List Nat × State :=
  if r.nexcl = 0 then (0, [], s)
  else
    let x := bulkRead (pCKP 0) 0 (s.access r.part) r.exTier r.exAddr (4 * r.nexcl) s
    if x.1 ≠ 0 then (x.1, [], x.2.2)
    else if anyMark x.2.1 then (0x06, [], x.2.2)
    else (0, (List.range r.nexcl).map (fun i => fieldOf (dataOf x.2.1) (4 * i) 4), x.2.2)

/-- Step 1's checks, first failure first: the image area held, the list, R528, R530, and the size. -/
def State.capCode (s : State) (r : CkpRun) (excl : List Nat) (need : Nat) : Nat :=
  let hs := (s.allocs r.part).map (fun x => handleOf x.1 x.2)
  if !s.holds r.part r.tier r.addr (r.mib * 2 ^ 20) then 0x02
  else if excl.any (fun h => !hs.contains h) then 0x11
  else if (s.included r.part excl).any (fun x => x.2.ranges.any (fun g => g.1 == r.tier && overlaps g.2.1 g.2.2 r.addr (r.mib * 2 ^ 20))) then 0x11
  else if r.mib * 2 ^ 20 < need then 0x05
  else 0

/-- Step 1 of Table 15-6: CKP_NEED and the checks: the code of the first that fails, and the run with its exclusion
list, which a capture reads once. -/
def capCheck (r : CkpRun) (s : State) : Nat × CkpRun × State :=
  let x := readExcl r s
  if x.1 ≠ 0 then (x.1, r, x.2.2)
  else
    let s := x.2.2
    let v := s.snap r.part x.2.1
    let need := imgBytes (payloadOf (v.sections (s.poisGran v.ranges)))
    (s.capCode r x.2.1 need, { r with excl := x.2.1 }, s.setW64 (pCKP 0) R.CKP_NEED_LO R.CKP_NEED_HI (need % 2 ^ 64))

/-- R551: the domain capture is aborted: ABORT goes to every member, the code is logged, and the command
ends with it. -/
def domAbort (r : CkpRun) (code : Nat) (s : State) : State :=
  let x := cutAll r.part 6 r.cutId s.peers s
  let s := logErr (pCKP 0) code r.part 0 0 x.2
  let s := if s.pauseSt r.part = 1 then unpause r.part s else setPause r.part 2 s
  ckpEnd r code s

/-- A capture fails: nothing is committed (R543, R545, R548, R551). -/
def capFail (r : CkpRun) (code : Nat) (s : State) : State :=
  let p := r.part
  match r.who with
  | .op _ => resumePart p (ckpEnd r code (logErr (pCKP 0) code p 0 0 s))
  | .cut =>
    let s := setPause p 2 (ckpEnd r code (logErr (pCKP 0) code p 0 0 s))
    (match s.member p with
     | some m => cutReply m 4 r.cutId code (s.setMember p (some { m with done := true }))
     | none => s)
  | .cmd => if r.dom then domAbort r code s else setPause p 2 (ckpEnd r code (logErr (pCKP 0) code p 0 0 s))

/-- A run whose capture begins now, under a fresh NONCE. -/
def CkpRun.begun (r : CkpRun) (s : State) : CkpRun :=
  { r with ph := .capturing, nonce := s.free 64, serial := s.fresh, tbs := s.now, iss := s.issue (pCKP 0) }

/-- Step 2, for a run that has begun: CAPTURING, and the header with STATE WRITING. -/
def capHeader (r : CkpRun) (s : State) : Nat × State :=
  let p := r.part
  let s := setPause p 3 (s.drawn.setRun (some r))
  let id := (SMap.get s.prt.ikeys p none).elim 0 (·.id)
  let v := s.snap p r.excl
  let hdr := s.imgHeader r id (v.sections (s.poisGran v.ranges))
  bulkWrite (pCKP 0) 0 (s.access p) r.tier r.addr (plain (withState hdr (stateLine false []))) s

/-- Step 2; a header that is not written fails the capture. -/
def capBegin (r : CkpRun) (s : State) : State :=
  let x := capHeader (r.begun s) s
  if x.1 ≠ 0 then capFail (r.begun s) x.1 x.2 else x.2

/-- The capture of a PAUSED partition starts, or fails its checks; it waits while a controller takes none of its
accesses. -/
def capStart (r : CkpRun) (s : State) : State :=
  orWait (fun s =>
      let x := capCheck r s
      if x.1 ≠ 0 then capFail r x.1 x.2.2 else capBegin x.2.1 x.2.2)
    (fun s => s.setRun (some { r with ph := .held })) s

/-- Step 6 of Table 15-7: every CUT_DONE has come, and the own capture is done. -/
def domDone (r : CkpRun) (s : State) : State :=
  if r.ph = .domain ∧ r.done.length = s.peers.length then
    let s := ckpEnd r 0 s
    if r.resume then resumePart r.part (cutAll r.part 5 r.cutId s.peers s).2 else s
  else s

/-- Step 4 of Table 15-7: PAUSED, and every HOLD_DONE has come. -/
def domCut (r : CkpRun) (s : State) : State :=
  if s.pauseSt r.part = 2 ∧ !r.cutSent ∧ r.done.length = s.peers.length then
    let x := cutAll r.part 3 r.cutId s.peers s
    let r := { r with cutSent := true, done := [] }
    if x.1 then capStart r (x.2.setRun (some r)) else domAbort r 0x08 x.2
  else s

/-- Image bytes moved by the engines, shared between them as the spec leaves open. -/
def engBytes (p n : Nat) (s : State) : State :=
  let a := s.free 64 % (n + 1)
  let s := s.drawn
  let s := perfOwn (pCKP 0) 0x90 a p (s.add64 (pCKP 0) R.CKP_ENG_BYTES_LO R.CKP_ENG_BYTES_HI a)
  perfOwn (pCKP 1) 0x90 (n - a) p (s.add64 (pCKP 1) R.CKP_ENG_BYTES_LO R.CKP_ENG_BYTES_HI (n - a))

/-- Reads of MEM's ranges, in order, under the partition's key (R537, R541): a poisoned line comes as 64 zero bytes
that are marked. -/
def readRanges (p : Nat) : List (Nat × Nat × Nat) → State → Nat × List (Byte × Bool) × State
  | [], s => (0, [], s)
  | g :: gs, s =>
    let x := bulkRead (pCKP 0) 0 (s.access p) g.1 g.2.1 g.2.2 s
    if x.1 ≠ 0 then (x.1, [], x.2.2)
    else
      let y := readRanges p gs x.2.2
      (y.1, x.2.1 ++ y.2.1, y.2.2)

/-- The bytes of a sealed image whose state is `v` and whose MEM is `mem`: its header as R533 reads it, its tag table
and its ciphertext. -/
def State.seal (s : State) (r : CkpRun) (k : ImageKey) (v : Snap) (mem : List (Byte × Bool)) : List Byte × List Byte × List Byte :=
  let xs := v.sections ((poisonRecords mem).length / 4160)
  let hdr := s.imgHeader r k.id xs
  let x := sealPayload k.key r.nonce hdr (payloadBytes r.serial (bodyBytes r.serial (payloadOf (xs.filter (fun x => decide (x.1 < 7))))) mem)
  (hdr, x.2, x.1)

/-- What follows the commit of an image (step 5, and step 6 of Table 15-7). -/
def capDone (r : CkpRun) (s : State) : State :=
  let p := r.part
  match r.who with
  | .op _ => resumePart p (ckpEnd r 0 s)
  | .cut =>
    let s := ckpEnd r 0 s
    (match s.member p with
     | some m => cutReply m 4 r.cutId 0 (s.setMember p (some { m with done := true }))
     | none => s)
  | .cmd =>
    if r.dom then
      let r := { r with ph := .domain }
      domDone r ((s.setF (pCKP 0) (F.CKP_PSTS_LAST.at 4 p) 0).setRun (some r))
    else
      let s := ckpEnd r 0 s
      if r.resume then resumePart p s else s

/-- CAPTURE_COMMIT: steps 3 to 5.  The state and the memory are read, sealed and written, then STATE and MTAG in one
64 B write (R535).  A line in which the read finds an uncorrectable error is recorded as poisoned (R543); where that
makes the image larger than its area, the capture fails as in step 1. -/
def capCommit (s : State) : State :=
  match s.ckp.run with
  | none => s
  | some r =>
    if r.ph ≠ .capturing || !s.enabled r.part then s
    else match SMap.get s.prt.ikeys r.part none with
      | none => capFail r 0x11 s
      | some k =>
        let v := s.snap r.part r.excl
        let m := readRanges r.part v.ranges s
        if m.1 ≠ 0 then capFail r m.1 m.2.2
        else
          let s := m.2.2
          let g := s.seal r k v m.2.1
          let pl := g.2.2.length
          if r.mib * 2 ^ 20 < imgBytes pl then capFail r 0x05 s
          else
            let img := withState g.1 (stateLine false []) ++ padTo (payloadAt pl - 4096) g.2.1 ++ g.2.2
            let x := bulkWrite (pCKP 0) 0 (s.access r.part) r.tier r.addr (plain img) s
            if x.1 ≠ 0 then capFail r x.1 x.2
            else
              let y := bulkWrite (pCKP 0) 0 (x.2.access r.part) r.tier (r.addr + 192)
                (plain (stateLine true (masterTag k.key r.nonce g.1 g.2.1))) x.2
              if y.1 ≠ 0 then capFail r y.1 y.2
              else
                let s := y.2
                let b : SealedImg := { body := bodyBytes r.serial (payloadOf ((v.sections 0).filter (fun x => decide (x.1 < 7)))), snap := v }
                let s := { s with ckp := { s.ckp with images := b :: s.ckp.images } }
                capDone r (setPause r.part 2 (engBytes r.part (imgBytes pl) s))

/-- CAPTURE_FAIL (R543, Table 15-10): an uncorrectable error in on-die state stops the capture with 0x07,
a handshake timeout, once its time has passed (R49), with 0x03. -/
def capFailed (tmo : Bool) (s : State) : State :=
  match s.ckp.run with
  | some r =>
    if r.ph ≠ .capturing then s
    else if tmo then (if s.expired (pCKP 0) r.iss then capFail r 0x03 s else s)
    else capFail r 0x07 s
  | none => s

/-! ## PAUSE (Table 15-2) -/

/-- Steps 2 to 4: has everything of the partition ended, the CHECKPOINT in slot `self` apart? -/
def State.quiet (s : State) (p : Nat) (self : Option Nat) : Bool :=
  let q := s.sc p
  q.cmdQ.isEmpty && q.loads.isEmpty && q.succs.isEmpty &&
    q.slots.all (fun e => e.2.st != .running || e.2.cls == cDELAY || self == some e.1) &&
    q.rel.all (fun r => (s.slot p r.slot).cls == cDELAY || self == some r.slot) &&
    (s.unitsOf resClu p).all (fun k => !s.lpfBusy k && (s.slotsOfClu k).all (fun c => (s.tq c 3).reqs.isEmpty)) &&
    (s.tagsWhere (fun r => r.part == p)).isEmpty && !s.fab.wait.any (fun o => o.part == p) &&
    (List.range 4).all (fun e => !(s.eng e).slots.any (fun x => x.2.owner == p && x.2.busy) &&
      !(s.eng e).stops.any (fun x => x.2.owner == p && x.2.busy)) &&
    s.f (pSCH p) F.ALC_STS_BUSY == 0

/-- The slot of the CHECKPOINT that pauses the partition. -/
def State.ckpSelf (s : State) (p : Nat) : Option Nat :=
  match s.ckp.run with
  | some r => match r.who with
    | .op n => if r.part = p then some n else none
    | _ => none
  | none => none

/-- What follows PAUSED, by what asked for it. -/
def afterPaused (p : Nat) (s : State) : State :=
  let s := match s.member p with
    | some m => if m.held then s else cutReply m 2 (s.pcut p) 0 (s.setMember p (some { m with held := true }))
    | none => s
  match s.ckp.run with
  | none => s
  | some r =>
    if r.part ≠ p || r.ph != .pausing then s
    else match r.who with
      | .op _ => s.setRun (some { r with ph := .held })
      | _ => if r.op ≠ 2 then ckpEnd r 0 s else if r.dom then domCut r s else capStart r s

/-- PAUSE_QUIESCED: step 5. -/
def pauseDone (p : Nat) (s : State) : State :=
  if s.pauseSt p = 1 ∧ s.enabled p ∧ s.quiet p (s.ckpSelf p) then
    let q := s.sc p
    let s := s.setSc p { q with delay := q.delay.map (fun e => (e.1 - s.now, e.2)), frozen := true }
    let s := s.setF (pCKP 0) F.CKP_QTIME_NS (sat (2 ^ 32 - 1) (s.now - SMap.get s.ckp.pauseAt p 0))
    afterPaused p (setPause p 2 s)
  else s

/-- R524: CKP_BLOCK names the first slot that is still in service. -/
def blockMark (p : Nat) (s : State) : State :=
  match (s.sc p).slots.find? (fun e => e.2.st == .running) with
  | some e => s.setW (pCKP 0) R.CKP_BLOCK (2 ^ 31 + e.1)
  | none => s

/-- A pause that took too long is abandoned, with the capture or cut that waits for it (R524, R546). -/
def qtmoEnd (p : Nat) (s : State) : State :=
  match s.ckp.run with
  | some r =>
    if r.part ≠ p then unpause p s
    else match r.who with
      | .op n => execFault p n 0x11 (unpause p (ckpEnd r 0x11 s))
      | _ =>
        let s := if r.dom then (cutAll p 6 r.cutId s.peers s).2 else s
        unpause p (ckpEnd r 0x11 s)
  | none => unpause p s

/-- CKP_QTMO_EXPIRY (R524, R546): a pause that is still PAUSING after CKP_QTMO is abandoned. -/
def qtmo (p : Nat) (s : State) : State :=
  if s.pauseSt p = 1 ∧ SMap.get s.ckp.pauseAt p 0 + s.f (pCKP 0) F.CKP_QTMO_US * 1000 ≤ s.now then
    qtmoEnd p (blockMark p (logErr (pCKP 0) 0x11 p 0 0 s))
  else s

/-! ## The CHECKPOINT operation (R544 to R548) -/

/-- CHECKPOINT: the granted operation pauses its partition; at PAUSED it makes its checks, and completes
or faults. -/
def checkpoint (p : Nat) (s : State) : State :=
  match s.ckp.run with
  | none => s
  | some r =>
    match r.who with
    | .op n =>
      if r.part ≠ p || !s.enabled p then s
      else if r.ph = .granted then startPause p false (s.setRun (some { r with ph := .pausing }))
      else if r.ph = .held then
        let x := if (SMap.get s.prt.ikeys p none).isNone then (0x11, r, s) else capCheck r s
        if x.1 ≠ 0 then resumePart p (execFault p n x.1 ((x.2.2.setRun none).setF (pCKP 0) F.CKP_STS_BUSY 0))
        else completed p n (x.2.2.setRun (some { x.2.1 with ph := .draining }))
      else s
    | _ => s

/-- CHECKPOINT_CAPTURE_START (R547): the capture starts once every remote decrement has completed. -/
def ckpCapStart (p : Nat) (s : State) : State :=
  match s.ckp.run with
  | some r =>
    if r.part = p ∧ r.ph = .draining ∧ s.enabled p ∧ (s.sc p).succs.isEmpty ∧ (s.tagsWhere (fun t => t.who == .succ p)).isEmpty ∧
       s.fab.wait.any (fun o => o.who == .succ p) = false then capBegin r s
    else s
  | none => s

/-! ## RESTORE (Table 15-8) -/

/-- Bytes of the image, as the engines read them: the code they cannot be used with, or the bytes. -/
def readImg (r : CkpRun) (ofs n : Nat) (s : State) : Nat × List Byte × State :=
  let x := bulkRead (pCKP 0) 0 (s.access r.part) r.tier (r.addr + ofs) n s
  if x.1 ≠ 0 then (x.1, [], x.2.2) else if anyMark x.2.1 then (0x06, [], x.2.2) else (0, dataOf x.2.1, x.2.2)

/-- PAYLOAD and NONCE of a header, and the header as R533 reads it. -/
def hdrPayload (h : List Byte) : Nat := fieldOf h 72 8
/-- CHUNKS of a header, and where the payload begins after the tag table. -/
def hdrChunks (h : List Byte) : Nat := fieldOf h 80 4
def hdrBody (h : List Byte) : Nat := 4096 + roundUp 4096 (16 * hdrChunks h)
def hdrNonce (h : List Byte) : Nat := fieldOf h 16 8
def hdrAad (h : List Byte) : List Byte := withState h (List.replicate 64 0)

/-- Table 15-8, row 4, on what the header itself says.  An image that its area does not hold whole cannot verify. -/
def State.headOk (s : State) (r : CkpRun) (k : ImageKey) (h : List Byte) : Bool :=
  fieldOf h 0 4 == 0x54504B43 && fieldOf h 4 2 == s.f pGLB F.GLB_PART_PART && fieldOf h 6 1 == 1 && fieldOf h 8 8 == k.id &&
    fieldOf h 192 1 == 1 && hdrChunks h == chunksOf (hdrPayload h) && decide (imgBytes (hdrPayload h) ≤ r.mib * 2 ^ 20)

/-- OFFSET and LENGTH of the section of a type in a header. -/
def hdrSection (h : List Byte) (type : Nat) : Nat × Nat :=
  match (List.range (fieldOf h 53 1)).find? (fun i => fieldOf h (256 + 32 * i) 1 == type) with
  | some i => (fieldOf h (264 + 32 * i) 8, fieldOf h (272 + 32 * i) 8)
  | none => (0, 0)

/-- Chunk `k` of an image whose ciphertext is `ct`: its plaintext, where its tag verifies. -/
def openChunk (key : Nat) (h tags ct : List Byte) (k : Nat) : Option (List Byte) :=
  gcmOpen key (chunkIv (hdrNonce h) k) (hdrAad h) ct ((tags.drop (16 * k)).take 16)

/-- Bytes of chunk `k` of a payload of `n`: 1 MiB, but for a last one that holds the rest. -/
def chunkLen (n k : Nat) : Nat := if k < n / 2 ^ 20 then 2 ^ 20 else n % 2 ^ 20

/-- Table 15-8, row 5: the units agree and every logical core has a slot. -/
def State.unitsMatch (s : State) (p : Nat) (v : Snap) : Bool :=
  v.units == (List.range 4).map (fun t => s.unitsOf t p) &&
    (s.unitsOf resClu p).all (fun k => (List.range 8).all (fun j => (s.slotOfCore (8 * k + j)).isSome))

/-- Table 15-8, row 6: nothing of the image's token state is owned or in use by another partition. -/
def State.tokFree (s : State) (p : Nat) (v : Snap) : Bool :=
  v.toks.all fun t =>
    let g := s.eng t.eng
    let alien := g.slots.filter (fun x => x.2.owner != p)
    let alienB := g.stops.filter (fun x => x.2.owner != p)
    let used (a : Nat × VSlot) (b n : Nat) : Bool := a.2.size != 0 && overlaps a.2.base a.2.size b n
    t.streams.all (fun x => !g.streams.any (fun y => y.1 == x.1 && y.2.owner != p)) &&
      t.slots.all (fun x => !alien.any (fun a => a.1 == x.1 || (x.2.size != 0 && used a x.2.base x.2.size)) &&
        (x.2.size == 0 || !alienB.any (fun b => overlaps b.1 1 x.2.base x.2.size))) &&
      t.stops.all (fun x => !alienB.any (fun b => b.1 == x.1) && !alien.any (fun a => used a x.1 1))

/-- Does the master tag over the tag table verify? -/
def tagsOk (k : ImageKey) (h tags : List Byte) : Bool := masterTag k.key (hdrNonce h) (hdrAad h) tags == (h.drop 208).take 16

/-- The sections that stand for an image whose first chunk reads as `ct`, where it verifies. -/
def State.imageIn (s : State) (k : ImageKey) (h tags ct : List Byte) : Option SealedImg :=
  (openChunk k.key h tags ct 0).bind (fun t => s.ckp.images.find? (fun i => i.body.take 4096 == t.take 4096))

/-- The first chunk of an image whose header and tag table verify, and what its sections ask of the partition. -/
def readFirst (r : CkpRun) (k : ImageKey) (h tags : List Byte) (s : State) :
    Except Nat (List Byte × List Byte × SealedImg) × State :=
  match readImg r (hdrBody h) (chunkLen (hdrPayload h) 0) s with
  | (code, ct, t) =>
    if code ≠ 0 then (.error code, t)
    else match s.imageIn k h tags ct with
      | none => (.error 0x0E, t)
      | some i =>
        if !s.unitsMatch r.part i.snap || !s.tokFree r.part i.snap then (.error 0x11, t) else (.ok (h, tags, i), t)

/-- The tag table of an image whose header says what it must, and then its first chunk. -/
def readTags (r : CkpRun) (k : ImageKey) (h : List Byte) (s : State) : Except Nat (List Byte × List Byte × SealedImg) × State :=
  match readImg r 4096 (16 * hdrChunks h) s with
  | (code, tags, t) =>
    if code ≠ 0 then (.error code, t)
    else if !tagsOk k h tags then (.error 0x0E, t)
    else readFirst r k h tags t

/-- The image in the area: the code its reading checks fail with, or its header, its tag table and what its sections
stand for (R554).  Sections that no N4 has written stand for nothing: such an image is as one whose PART chunk fails
(DESIGN CHOICE, log entry 86). -/
def readHead (r : CkpRun) (s : State) : Except Nat (List Byte × List Byte × SealedImg) × State :=
  match SMap.get s.prt.ikeys r.part none with
  | none => (.error 0x11, s)
  | some k =>
    match readImg r 0 4096 s with
    | (code, h, t) =>
      if code ≠ 0 then (.error code, t)
      else if !s.headOk r k h then (.error 0x0E, t)
      else readTags r k h t

/-- The checks that need the image, and the start of the reading (R554, R555); they wait while a controller takes none
of the reads. -/
def restoreStart (r : CkpRun) (s : State) : State :=
  orWait (fun s =>
      match readHead r s with
      | (.error code, s) => ckpEnd r code (logErr (pCKP 0) code r.part 0 0 s)
      | (.ok (h, tags, i), s) =>
        setPause r.part 4 (s.setRun (some { r with ph := .restoring, hdr := h, tags := tags, img := some i, iss := s.issue (pCKP 0) })))
    (fun s => s.setRun (some { r with ph := .granted })) s

/-- A captured core put in place. -/
def putCore (c : Nat) (k : CoreSnap) (s : State) : State :=
  let s := putRegs (pCORE c) k.regs s
  poolReset c (s.setCore c { s.core c with prog := k.prog, work := k.work, workPois := k.workPois })

/-- A captured cluster put in place. -/
def putClu (k : CluSnap) (s : State) : State :=
  let s := putRegs (pCLU k.clu) k.regs s
  s.setClu k.clu { s.clu k.clu with
    store := k.store, pois := k.pois, cur := k.cur, next := k.next, nextHigh := k.nextHigh, epochSeen := k.epochSeen
    lpfWait := false, lpf := none }

/-- Captured token state put in place, for the partition restored. -/
def putTok (p : Nat) (t : TokSnap) (s : State) : State :=
  let s := forEach (fun (x : Nat × Stream) s => s.setStrm t.eng x.1 { x.2 with owner := p }) t.streams s
  let s := forEach (fun (x : Nat × VSlot) s => s.setVslot t.eng x.1 { x.2 with owner := p }) t.slots s
  forEach (fun (x : Nat × StopBlk) s => s.setStopBlk t.eng x.1 { x.2 with owner := p }) t.stops s

/-- Bytes of MEM from place `ofs` on, written under the partition's key, range by range. -/
def putRanges (p : Nat) : List (Nat × Nat × Nat) → Nat → List (Byte × Bool) → Nat × State → Nat × State
  | [], _, _, x => x
  | g :: gs, ofs, d, x =>
    if x.1 ≠ 0 || d.isEmpty then x
    else if g.2.2 ≤ ofs then putRanges p gs (ofs - g.2.2) d x
    else
      let n := g.2.2 - ofs
      putRanges p gs 0 (d.drop n) (bulkWrite (pCKP 0) 0 (x.2.access p) g.1 (g.2.1 + ofs) (d.take n) x.2)

/-- R555, R557, R559: the state of an image's sections 0x01 to 0x06 in the partition. -/
def putSnap (p : Nat) (v : Snap) (s : State) : State :=
  let s := (s.setW pPRT (R.PRT_P_SEED_LO + 8 * p) v.seedLo).setW pPRT (R.PRT_P_SEED_HI + 8 * p) v.seedHi
  let s := putRegs (pSCH p) v.fxr ((s.setW (pSCH p) R.SCH_TICK v.tick).setW (pSCH p) R.SCH_DCFG v.dcfg)
  let slots := v.sch.slots.map (fun e => (e.1, { e.2 with readyAt := s.now }))
  let s := s.setSc p { v.sch with slots := slots, cmdQ := [], loads := [], succs := [], inQ := [], frozen := true }
  let s := s.setAl p v.alloc
  let s := forEach (fun (k : CoreSnap) s => match s.slotOfCore k.lcore with | some c => putCore c k s | none => s) v.cores s
  forEach (putTok p) v.toks (forEach putClu v.clus s)

/-- The poison marks of a payload's POISON section, by line of MEM (R538). -/
def poisonOf (rec_ : List Byte) (line : Nat) : Bool :=
  (List.range (rec_.length / 4160)).any fun i =>
    fieldOf rec_ (4160 * i) 8 == line / 2 ^ 15 && bit (fieldOf rec_ (4160 * i + 64) 4096) (line % 2 ^ 15)

/-- MEM of a payload, with the marks of its POISON section. -/
def payloadMem (h pl : List Byte) : List (Byte × Bool) :=
  let m := hdrSection h 7
  let q := hdrSection h 8
  let rec_ := (pl.drop (q.1 + 64)).take (q.2 - 64)
  (List.range m.2).zip ((pl.drop m.1).take m.2) |>.map (fun x => (x.2, poisonOf rec_ (x.1 / 64)))

/-- Where chunk `k` lies in the area. -/
def chunkAt (h : List Byte) (k : Nat) : Nat := hdrBody h + k * 2 ^ 20

/-- Does a payload begin with an image's sections? -/
def SealedImg.heads (i : SealedImg) (pay : List Byte) : Bool := pay.take i.body.length == i.body

/-- Chunk `k` of an image, read and verified: the code it fails with, or its plaintext. -/
def readChunk (r : CkpRun) (key k : Nat) (s : State) : Nat × List Byte × State :=
  match readImg r (chunkAt r.hdr k) (chunkLen (hdrPayload r.hdr) k) s with
  | (code, ct, s) =>
    if code ≠ 0 then (code, [], s)
    else match openChunk key r.hdr r.tags ct k with
      | none => (0x0E, [], s)
      | some t => (0, t, s)

/-- The chunks of an image read and verified, from chunk `k` on: the code of the first that fails, or the plaintext.
-/
def readChunks (r : CkpRun) (key : Nat) : Nat → Nat → State → Nat × List Byte × State
  | 0, _, s => (0, [], s)
  | fuel + 1, k, s =>
    match readChunk r key k s with
    | (code, t, s) =>
      if code ≠ 0 then (code, [], s)
      else match readChunks r key fuel (k + 1) s with
        | (code, ts, s) => (code, t ++ ts, s)

/-- The whole payload, read, verified and opened, with what its sections stand for. -/
def readPayload (r : CkpRun) (i : SealedImg) (s : State) : Nat × List Byte × State :=
  match SMap.get s.prt.ikeys r.part none with
  | none => (0x0E, [], s)
  | some k =>
    match readChunks r k.key (hdrChunks r.hdr) 0 s with
    | (code, pay, s) => if code == 0 && !i.heads pay then (0x0E, [], s) else (code, pay, s)

/-- R556: one free bit: the spec does not say how far the engines had come. -/
def State.bitAt (s : State) (i : Nat) : Bool := (Config.freeValue (s.fresh + i)).toNat % 2 == 1

/-- Chunk `k` of the image in the area, opened, where it verifies now. -/
def State.goodChunk (s : State) (r : CkpRun) (k : Nat) : Option (List Byte) :=
  let x := s.readBytes (s.slotFor r.part) r.tier (r.addr + chunkAt r.hdr k) (chunkLen (hdrPayload r.hdr) k)
  if anyMark x then none
  else (SMap.get s.prt.ikeys r.part none).bind (fun key => openChunk key.key r.hdr r.tags (dataOf x) k)

/-- The MEM bytes that chunk `k` holds: where they lie in the section, and the bytes. -/
def memPart (h t : List Byte) (k : Nat) : Nat × List Byte :=
  let m := hdrSection h 7
  let lo := max m.1 (k * 2 ^ 20)
  let hi := min (m.1 + m.2) (k * 2 ^ 20 + t.length)
  (lo - m.1, (t.drop (lo - k * 2 ^ 20)).take (hi - lo))

/-- The MEM bytes of chunk `k` of the image in the area, where it verifies now. -/
def State.memChunk (s : State) (r : CkpRun) (k : Nat) : Option (Nat × List Byte) :=
  (s.goodChunk r k).map (fun t => memPart r.hdr t k)

/-- MEM bytes of verified chunk `k` that a failed restore had written: all of them, or none. -/
def undoChunk (r : CkpRun) (v : Snap) (k : Nat) (s : State) : State :=
  match s.memChunk r k with
  | none => s
  | some x =>
    if x.2.isEmpty then s
    else
      let t := (putRanges r.part v.ranges x.1 (plain x.2) (0, s)).2
      { t with mem := { t.mem with wait := false } }

/-- R556: the on-die and token state a failed restore had written is zeroed, and the memory it had written
stays: the verified chunks it had come to, which is free. -/
def restoreUndo (r : CkpRun) (i : SealedImg) (s : State) : State :=
  let p := r.part
  let v := i.snap
  let nc := v.cores.length
  let nk := v.clus.length
  let nt := v.toks.length
  let nm := hdrChunks r.hdr
  let s0 := s
  let s := forEach (fun (x : Nat × CoreSnap) s =>
    if s0.bitAt x.1 then match s.slotOfCore x.2.lcore with
      | some c => poolReset c ((zeroRegs (pCORE c) x.2.regs s).setCore c { s.core c with prog := [], work := [], workPois := [] })
      | none => s
    else s) ((List.range nc).zip v.cores) s
  let s := forEach (fun (x : Nat × CluSnap) s =>
    if s0.bitAt (nc + x.1) then (zeroRegs (pCLU x.2.clu) x.2.regs s).setClu x.2.clu {} else s) ((List.range nk).zip v.clus) s
  let s := forEach (fun (x : Nat × TokSnap) s =>
    if s0.bitAt (nc + nk + x.1) then
      putTok p { eng := x.2.eng, streams := x.2.streams.map (fun y => (y.1, {})), slots := x.2.slots.map (fun y => (y.1, {}))
                 stops := x.2.stops.map (fun y => (y.1, {})) } s
    else s) ((List.range nt).zip v.toks) s
  let s := forUp (fun k s => if s0.bitAt (nc + nk + nt + k) then undoChunk r v k s else s) nm 0 s
  let s := (s.setSc p {}).setAl p { seq := (s.al p).seq }
  let s := forEach (fun o s => s.setW (pSCH p) o (resetWord (pSCH p * 4096 + o)).toNat) fxrRegs s
  { s with fresh := s.fresh + nc + nk + nt + nm }

/-- R556: a RESTORE that has started fails. -/
def restoreFail (r : CkpRun) (i : SealedImg) (code : Nat) (s : State) : State :=
  let s := restoreUndo r i (logErr (pCKP 0) code r.part 0 0 s)
  let q := s.sc r.part
  ckpEnd r code (setPause r.part 2 (s.setSc r.part { q with frozen := true }))

/-- RESTORE_DONE (R555): every chunk is read and verified, then the state and the memory are written; it fails where a
chunk does, or a write. -/
def restoreDone (s : State) : State :=
  match s.ckp.run with
  | none => s
  | some r =>
    match r.ph, r.img with
    | .restoring, some i =>
      if !s.enabled r.part then s
      else
        let x := readPayload r i s
        if x.1 ≠ 0 then restoreFail r i x.1 x.2.2
        else
          let y := putRanges r.part i.snap.ranges 0 (payloadMem r.hdr x.2.1) (0, putSnap r.part i.snap x.2.2)
          if y.1 ≠ 0 then restoreFail r i y.1 y.2
          else
            let s := engBytes r.part (imgBytes (hdrPayload r.hdr)) y.2
            let s := setPcut r.part (fieldOf r.hdr 40 8) (setPause r.part 2 s)
            ckpEnd r 0 (s.setF (pCKP 0) (F.CKP_PSTS_DOM.at 4 r.part) 0)
    | _, _ => s

/-- RESTORE_FAIL (R556): a chunk fails its tag, a line of the image is poisoned, or a handshake times
out, once its time has passed (R49). -/
def restoreFailed (tmo : Bool) (s : State) : State :=
  match s.ckp.run with
  | none => s
  | some r =>
    match r.ph, r.img with
    | .restoring, some i =>
      if tmo then (if s.expired (pCKP 0) r.iss then restoreFail r i 0x03 s else s)
      else
        let x := readPayload r i s
        if x.1 ≠ 0 then restoreFail r i x.1 x.2.2 else s
    | _, _ => s

/-- The engines' checks that wait for a controller are made again. -/
def ckpRetry (s : State) : State :=
  match s.ckp.run with
  | some r =>
    if !s.enabled r.part then s
    else match r.who, r.ph with
      | .op _, _ => s
      | _, .granted => if r.op = 4 then restoreStart r s else s
      | _, .held => capStart r s
      | _, _ => s
  | none => s

/-! ## CKP_CMD (Table 15-11) -/

/-- The image area and list that the CKP registers name. -/
def State.ckpArea (s : State) (r : CkpRun) : CkpRun :=
  let pg := pCKP 0
  { r with
    tier := s.f pg F.CKP_IMG_LO_TIER, addr := s.f pg F.CKP_IMG_LO_ADDR * 4096 + s.f pg F.CKP_IMG_HI_ADDR * 2 ^ 32
    mib := s.w pg R.CKP_IMG_CAP, exTier := s.f pg F.CKP_EXCL_LO_TIER
    exAddr := s.f pg F.CKP_EXCL_LO_ADDR * 4 + s.f pg F.CKP_EXCL_HI_ADDR * 2 ^ 32, nexcl := s.f pg F.CKP_EXCL_HI_NEXCL
    tag := s.w64 pg R.CKP_TAG_LO R.CKP_TAG_HI }

/-- CKP_CUT. -/
def State.ckpCut (s : State) : Nat := s.w64 (pCKP 0) R.CKP_CUT_LO R.CKP_CUT_HI

/-- Table 15-8, rows 1 and 2. -/
def State.restorePre (s : State) (p : Nat) : Bool :=
  s.enabled p && (s.pauseSt p == 0 || s.pauseSt p == 2) && (SMap.get s.prt.ikeys p none).isSome &&
    (s.sc p).slots.isEmpty && (s.allocs p).isEmpty &&
    (List.range 16).all (fun r => s.f (pSCH p) (F.FXR_CTL_EN.at 16 r) == 0)

/-- R565: does the command's precondition hold? -/
def State.ckpPre (s : State) (v : Nat) : Bool :=
  let p := bits v 11 8
  let dom := bit v 30
  match bits v 3 0 with
  | 1 => s.ckp.run.isNone && s.enabled p && s.pauseSt p == 0
  | 2 => s.ckp.run.isNone && s.enabled p && (SMap.get s.prt.ikeys p none).isSome &&
      (if dom then s.pauseSt p == 0 && s.ckpCut != 0 else s.pauseSt p == 0 || s.pauseSt p == 2)
  | 3 => s.pauseSt p == 2
  | 4 => s.ckp.run.isNone && s.restorePre p
  | _ => match s.ckp.run with
    | some r => r.op == 2 && r.part == p
    | none => false

/-- CAPTURE, accepted. -/
def capture (p : Nat) (dom resume : Bool) (s : State) : State :=
  let r : CkpRun := s.ckpArea { op := 2, part := p, dom := dom, resume := resume, since := s.now, cutId := if dom then s.ckpCut else 0 }
  let s := s.setF (pCKP 0) F.CKP_STS_BUSY 1
  if s.pauseSt p = 2 then capStart r (s.setRun (some r))
  else
    let s := startPause p false (s.setRun (some r))
    if dom then
      let x := cutAll p 1 r.cutId s.peers s
      if x.1 then x.2 else domAbort r 0x08 x.2
    else s

/-- RESUME, accepted (R558). -/
def resume (p : Nat) (dom : Bool) (s : State) : State :=
  let s := if dom then (cutAll p 5 (s.pcut p) s.peers s).2 else s
  let s := match s.ckp.run with
    | some r => if r.part = p then (s.setRun none).setF (pCKP 0) F.CKP_STS_BUSY 0 else s
    | none => s
  ckpSts 3 p 0 (resumePart p s)

/-- ABORT, accepted: a capture stops uncommitted; a coordinator tells its members (R551). -/
def abort (p : Nat) (s : State) : State :=
  match s.ckp.run with
  | none => s
  | some r =>
    let s := if r.dom then (cutAll p 6 r.cutId s.peers s).2 else s
    match r.who with
    | .op n =>
      let s := (s.setRun none).setF (pCKP 0) F.CKP_STS_BUSY 0
      if r.ph = .granted ∨ r.ph = .pausing ∨ r.ph = .held then
        ckpSts 5 p 0 (resumePart p (execFault p n 0x11 s))
      else ckpSts 5 p 0 (setPause p 2 s)
    | _ =>
      if r.ph = .pausing ∧ s.pauseSt p = 1 then s.setRun (some { r with op := 5, dom := false })
      else ckpSts 5 p 0 (setPause p 2 ((s.setRun none).setF (pCKP 0) F.CKP_STS_BUSY 0))

/-- A write of CKP_CMD of instance `d`. -/
def wrCkpCmd (m d v : Nat) (s : State) : State :=
  let pg := pCKP d
  let p := bits v 11 8
  let op := bits v 3 0
  checkedWrite m pg R.CKP_CMD v (fun _ => decide (p < 8) && decide (1 ≤ op) && decide (op ≤ 5))
    (fun s => !bit v 31 || (d == 0 && s.ckpPre v))
    (fun s =>
      if !bit v 31 then s
      else if op = 1 then startPause p false ((s.setF pg F.CKP_STS_BUSY 1).setRun (some { op := 1, part := p }))
      else if op = 3 then resume p (bit v 30) s
      else if op = 5 then abort p s
      else
        let r := s.ckpArea { op := op, part := p }
        if !s.holds p r.tier r.addr (r.mib * 2 ^ 20) ||
           (op == 2 && r.nexcl != 0 && !s.holds p r.exTier r.exAddr (4 * r.nexcl)) then refuse m pg R.CKP_CMD 0x02 s
        else if op = 2 then capture p (bit v 30) (bit v 29) s
        else restoreStart r ((s.setF pg F.CKP_STS_BUSY 1).setRun (some r))) s

/-! ## Arriving cut messages (Table 15-7, R551, R552, R558) -/

/-- The partition a cut message of a kind reaches, and its CUT_ID, where its form is right (R594, R598). -/
def State.cutIn (s : State) (l w kind : Nat) (data : List Byte) : Option (Nat × Nat) :=
  let h := hdrOf w
  match s.holderOf resLnk l with
  | some p =>
    if s.linkUp l && decide (p < 8) && s.enabled p && h.opc == 7 && h.sub == kind && h.dst == s.f pGLB F.FAB_DEVID_ID &&
       data.length == 16 && h.len == 16 && (kind == 4 || fieldOf data 8 1 == 0) && fieldOf data 9 7 == 0 then some (p, fieldOf data 0 8)
    else none
  | none => none

/-- HOLD at a member. -/
def holdIn (l w : Nat) (data : List Byte) (s : State) : State :=
  match s.cutIn l w 1 data with
  | some (p, id) =>
    if s.pauseSt p = 0 then
      setPcut p id (startPause p true (s.setMember p (some { link := l, src := (hdrOf w).src, since := s.now })))
    else s
  | none => s

/-- The coordinator's capture that a member's answer belongs to, and the member's logical ID. -/
def State.coordOf (s : State) (p id src : Nat) : Option (CkpRun × Nat) :=
  match s.ckp.run with
  | some r =>
    if r.part = p ∧ r.dom ∧ r.cutId = id then
      (s.peers.find? (fun d => s.lmapOf p d == some src && !r.done.contains d)).map (fun d => (r, d))
    else none
  | none => none

/-- HOLD_DONE at the coordinator. -/
def holdDoneIn (l w : Nat) (data : List Byte) (s : State) : State :=
  match s.cutIn l w 2 data with
  | some (p, id) =>
    (match s.coordOf p id (hdrOf w).src with
     | some (r, d) =>
       if r.cutSent then s
       else
         let r := { r with done := r.done ++ [d] }
         domCut r (s.setRun (some r))
     | none => s)
  | none => s

/-- CUT at a member: it captures, or answers with a failure (R549, R550). -/
def cutArrive (l w : Nat) (data : List Byte) (s : State) : State :=
  match s.cutIn l w 3 data with
  | some (p, id) =>
    (match s.member p with
     | some m =>
       if s.pauseSt p ≠ 2 || !m.held || m.done || s.pcut p != id then s
       else if s.ckp.run.isSome || (SMap.get s.prt.ikeys p none).isNone then
         cutReply m 4 id 0x11 (s.setMember p (some { m with done := true }))
       else
         let r := s.ckpArea { op := 2, part := p, who := .cut, cutId := id }
         capStart r ((s.setRun (some r)).setF (pCKP 0) F.CKP_STS_BUSY 1)
     | none => s)
  | none => s

/-- CUT_DONE at the coordinator. -/
def cutDoneIn (l w : Nat) (data : List Byte) (s : State) : State :=
  match s.cutIn l w 4 data with
  | some (p, id) =>
    (match s.coordOf p id (hdrOf w).src with
     | some (r, d) =>
       let code := fieldOf data 8 1
       if !r.cutSent then s
       else if code ≠ 0 then domAbort r code s
       else
         let r := { r with done := r.done ++ [d] }
         domDone r (s.setRun (some r))
     | none => s)
  | none => s

/-- RELEASE at a member (R558). -/
def releaseIn (l w : Nat) (data : List Byte) (s : State) : State :=
  match s.cutIn l w 5 data with
  | some (p, id) => if s.pauseSt p = 2 ∧ s.pcut p = id then resumePart p s else s
  | none => s

/-- A member stops what it does for the cut and runs again (R551, R552). -/
def leaveCut (p : Nat) (s : State) : State :=
  let s := match s.ckp.run with
    | some r => if r.part = p ∧ r.who = .cut then (s.setRun none).setF (pCKP 0) F.CKP_STS_BUSY 0 else s
    | none => s
  if s.pauseSt p = 1 then unpause p s else resumePart p s

/-- ABORT at a member. -/
def abortIn (l w : Nat) (data : List Byte) (s : State) : State :=
  match s.cutIn l w 6 data with
  | some (p, id) => if (s.member p).isSome && s.pcut p == id then leaveCut p s else s
  | none => s

/-- CKP_DTMO_EXPIRY (R551, R552): at the coordinator of partition `p`, or at a member that has had neither
CUT nor ABORT. -/
def dtmo (p : Nat) (s : State) : State :=
  let t := s.f (pCKP 0) F.CKP_DTMO_MS * 1000000
  match s.ckp.run, s.member p with
  | some r, mb =>
    if r.part = p ∧ r.dom then (if r.since + t ≤ s.now then domAbort r 0x17 s else s)
    else (match mb with
      | some m => if m.since + t ≤ s.now ∧ !m.done ∧ !(r.part = p ∧ r.who = .cut) then leaveCut p (logErr (pCKP 0) 0x17 p 0 0 s) else s
      | none => s)
  | none, some m => if m.since + t ≤ s.now ∧ !m.done then leaveCut p (logErr (pCKP 0) 0x17 p 0 0 s) else s
  | none, none => s

/-! ## Image keys (R539, R540) -/

/-- A write of SEC_IKEY_CTL. -/
def wrIkeyCtl (m v : Nat) (s : State) : State :=
  let p := bits v 3 0
  let id := s.w64 pSEC R.SEC_IKEY_ID_LO R.SEC_IKEY_ID_HI
  checkedWrite m pSEC R.SEC_IKEY_CTL v (fun _ => decide (p < 8))
    (fun s => !(bit v 31 || bit v 30) || (s.f (pCKP 0) F.CKP_STS_BUSY == 0 && (!bit v 31 || id != 0)))
    (fun s =>
      let key := (List.range 8).foldl (fun a w => a + s.w pSEC (R.SEC_IKEY_W + 4 * w) * 2 ^ (32 * w)) 0
      let s := if bit v 31 then
          let s := { s with prt := { s.prt with ikeys := SMap.put s.prt.ikeys p (some { id := id, key := key }) none } }
          forUp (fun w s => s.setW pSEC (R.SEC_IKEY_W + 4 * w) 0) 8 0 s
        else s
      if bit v 30 then { s with prt := { s.prt with ikeys := SMap.put s.prt.ikeys p none none } } else s) s

/-! ## Meanings -/

/-- PAUSE: CKP_CMD with OP 1. -/
def execPause (m p : Nat) (s : State) : Host.Outcome State Fault Refusal :=
  whenOk (okMaster m && below 16 p) s <|
  run [pCKP 0, pSCH (p % 8)] s (wrCkpCmd m 0 (2 ^ 31 + p % 16 * 2 ^ 8 + 1))
/-- PAUSE_QUIESCED. -/
def execPauseQuiesced (p : Nat) (s : State) : Host.Outcome State Fault Refusal :=
  whenOk (okPart p) s <| run [pCKP 0, pSCH p] s (pauseDone p)
/-- CKP_QTMO_EXPIRY. -/
def execCkpQtmoExpiry (p : Nat) (s : State) : Host.Outcome State Fault Refusal :=
  whenOk (okPart p) s <| run [pCKP 0, pSCH p] s (qtmo p)
/-- CAPTURE: CKP_CMD with OP 2. -/
def execCapture (m p : Nat) (dom resume : Bool) (s : State) : Host.Outcome State Fault Refusal :=
  whenOk (okMaster m && below 16 p) s <|
  run [pCKP 0, pSCH (p % 8)] s (wrCkpCmd m 0 (2 ^ 31 + b2n dom * 2 ^ 30 + b2n resume * 2 ^ 29 + p % 16 * 2 ^ 8 + 2))
/-- CAPTURE_COMMIT. -/
def execCaptureCommit (errs : Errs) (s : State) : Host.Outcome State Fault Refusal := runErr errs [pCKP 0] s capCommit
/-- CAPTURE_FAIL. -/
def execCaptureFail (tmo : Bool) (s : State) : Host.Outcome State Fault Refusal := run [pCKP 0] s (capFailed tmo)
/-- CHECKPOINT. -/
def execCheckpoint (p : Nat) (errs : Errs) (s : State) : Host.Outcome State Fault Refusal :=
  whenOk (okPart p) s <| runErr errs [pCKP 0, pSCH p] s (checkpoint p)
/-- CHECKPOINT_CAPTURE_START. -/
def execCheckpointCaptureStart (p : Nat) (errs : Errs) (s : State) : Host.Outcome State Fault Refusal :=
  whenOk (okPart p) s <| runErr errs [pCKP 0] s (ckpCapStart p)
/-- RESUME: CKP_CMD with OP 3. -/
def execResume (m p : Nat) (dom : Bool) (s : State) : Host.Outcome State Fault Refusal :=
  whenOk (okMaster m && below 16 p) s <|
  run [pCKP 0] s (wrCkpCmd m 0 (2 ^ 31 + b2n dom * 2 ^ 30 + p % 16 * 2 ^ 8 + 3))
/-- RESTORE: CKP_CMD with OP 4. -/
def execRestore (m p : Nat) (errs : Errs) (s : State) : Host.Outcome State Fault Refusal :=
  whenOk (okMaster m && below 16 p) s <|
  runErr errs [pCKP 0] s (wrCkpCmd m 0 (2 ^ 31 + p % 16 * 2 ^ 8 + 4))
/-- RESTORE_DONE. -/
def execRestoreDone (errs : Errs) (s : State) : Host.Outcome State Fault Refusal :=
  runErr errs (match s.ckp.run with | some r => [pCKP 0, pSCH r.part] | none => [pCKP 0]) s restoreDone
/-- RESTORE_FAIL. -/
def execRestoreFail (tmo : Bool) (s : State) : Host.Outcome State Fault Refusal :=
  runErr [] (match s.ckp.run with | some r => [pCKP 0, pSCH r.part] | none => [pCKP 0]) s (restoreFailed tmo)
/-- ABORT: CKP_CMD with OP 5. -/
def execAbort (m p : Nat) (s : State) : Host.Outcome State Fault Refusal :=
  whenOk (okMaster m && below 16 p) s <|
  run [pCKP 0, pSCH (p % 8)] s (wrCkpCmd m 0 (2 ^ 31 + p % 16 * 2 ^ 8 + 5))
/-- HOLD. -/
def execHold (l hdr : Nat) (data : List Byte) (s : State) : Host.Outcome State Fault Refusal :=
  whenOk (okLink l && okHeader hdr) s <| run [pCKP 0] s (holdIn l hdr data)
/-- HOLD_DONE. -/
def execHoldDone (l hdr : Nat) (data : List Byte) (s : State) : Host.Outcome State Fault Refusal :=
  whenOk (okLink l && okHeader hdr) s <| run [pCKP 0] s (holdDoneIn l hdr data)
/-- CUT. -/
def execCut (l hdr : Nat) (data : List Byte) (s : State) : Host.Outcome State Fault Refusal :=
  whenOk (okLink l && okHeader hdr) s <| run [pCKP 0] s (cutArrive l hdr data)
/-- CUT_DONE. -/
def execCutDone (l hdr : Nat) (data : List Byte) (s : State) : Host.Outcome State Fault Refusal :=
  whenOk (okLink l && okHeader hdr) s <| run [pCKP 0] s (cutDoneIn l hdr data)
/-- RELEASE_CUT. -/
def execReleaseCut (l hdr : Nat) (data : List Byte) (s : State) : Host.Outcome State Fault Refusal :=
  whenOk (okLink l && okHeader hdr) s <| run [pCKP 0] s (releaseIn l hdr data)
/-- ABORT_CUT. -/
def execAbortCut (l hdr : Nat) (data : List Byte) (s : State) : Host.Outcome State Fault Refusal :=
  whenOk (okLink l && okHeader hdr) s <| run [pCKP 0] s (abortIn l hdr data)
/-- CKP_DTMO_EXPIRY. -/
def execCkpDtmoExpiry (p : Nat) (s : State) : Host.Outcome State Fault Refusal :=
  whenOk (okPart p) s <| run [pCKP 0] s (dtmo p)
/-- IKEY_LOAD: a write of SEC_IKEY_CTL with LOAD 1. -/
def execIkeyLoad (m p : Nat) (s : State) : Host.Outcome State Fault Refusal :=
  whenOk (okMaster m && below 16 p) s <| run [pSEC] s (wrIkeyCtl m (2 ^ 31 + p % 16))
/-- IKEY_CLEAR: a write of SEC_IKEY_CTL with CLEAR 1. -/
def execIkeyClear (m p : Nat) (s : State) : Host.Outcome State Fault Refusal :=
  whenOk (okMaster m && below 16 p) s <| run [pSEC] s (wrIkeyCtl m (2 ^ 30 + p % 16))

end Sys2Proof.Machine
end

