-- ==== Sys2Proof/Machine/Reset.lean ====
section
/-! DEFINITION.  A block's started work (R95, R96), the soft reset of a page and what each block loses
by it (R97 to R101, R132, R159, R609, R740, R741). -/

namespace Sys2Proof.Machine

/-! ## Started work -/

/-- Has the core a request outstanding at the controller of page `pg`? -/
def Core.asks (k : Core) (pg : Nat) : Bool :=
  let at_ (tier addr : Nat) : Bool := tier != 0 && tierCtl tier addr == pg
  k.tqs.any (fun t => t.2.reqs.any (fun r => at_ r.tier r.addr) || t.2.lists.any (fun r => at_ r.tier r.addr)) ||
    k.gth.reqs.any (fun r => at_ r.tier r.addr) || k.gth.metas.any (fun r => at_ r.tier r.addr)

/-- The core slots with a request outstanding at a controller. -/
def State.askers (s : State) (pg : Nat) : List Nat := (s.cores.filter (fun e => e.2.asks pg)).map (·.1)

/-- PG_STS.IDLE: the block of a page has no started work. -/
def State.idle (s : State) (pg : Nat) : Bool :=
  match pageInfo pg with
  | some (.core, c) =>
    let k := s.core c
    k.op.isNone && k.pld.isNone && !k.busy && k.gth.active.isEmpty
  | some (.clu, k) => !s.lpfBusy k
  | some (.sch, i) => i == 0 || ((s.sc (i - 1)).loads.isEmpty && (s.sc (i - 1)).succs.isEmpty && !(s.sc (i - 1)).slots.any (fun e => e.2.st == .running))
  | some (.tok, e) => (s.tokHeld e).isEmpty && !s.tokBusy e && !s.stopBusy e
  | some (.ckp, _) => s.ckp.run.isNone
  | some (.mig, d) => (s.migHeld d).isEmpty
  | some (.lnk, l) => (s.link l).txq.isEmpty && (s.link l).unacked.isEmpty && s.linkReqs l == 0 && !(s.link l).xpend && (s.link l).xrsp.isNone
  | some (.nsc, _) | some (.msc, _) | some (.fsc, _) => (s.askers pg).isEmpty
  | some (.prt, _) => s.prt.unassign.isNone
  | some (.hif, _) => s.hif.accs.isEmpty && s.hif.qps.all (fun q => q.2.open_ == 0 && q.2.waiting.isEmpty)
  | some (.brg, d) => s.bridge.inFlight.all (fun x => x.die != d)
  | _ => true

/-- PG_STS.HELD (R96); a core stopped under R300 is HELD too. -/
def State.held (s : State) (pg : Nat) : Bool :=
  (s.f pg F.PG_CTL_HOLD == 1 && s.f pg F.PG_STS_HELD == 1 && s.idle pg) ||
    (match pageInfo pg with
     | some (.core, c) => (s.core c).stopped
     | _ => false)

/-! ## Registers after a soft reset (R99, Table 03-3) -/

/-- A mask of every bit of a register. -/
abbrev allBits : Nat := 2 ^ 32 - 1

/-- The bits of a block-specific register that a soft reset keeps: the read-only fields of R740, and
what the owning chapters name (R281, R609, R741). -/
def keptBlk : PageType → Nat → Nat
  | .tbs, o => if o = R.TBS_EVR_CTL then 0 else allBits
  | .glb, o =>
    if o = R.GLB_PART ∨ o = R.GLB_UID_LO ∨ o = R.GLB_UID_HI ∨ o = R.GLB_STATE ∨ o = R.GLB_CSUB_STS then allBits else 0
  | .prt, o => if o = R.PRT_STS ∨ o = R.PRT_RST_TMO ∨ (R.PRT_P_SEED_LO ≤ o ∧ o < R.PRT_P_SEED_LO + 64) then allBits else 0
  | .sec, o => if o = R.SEC_STS then allBits else 0
  | .brg, o =>
    if o = R.BRG_STS ∨ o = R.BRG_MOD_UP_LO ∨ o = R.BRG_MOD_UP_HI ∨ o = R.BRG_REPAIR then allBits else 0
  | .nsc, o => if o = R.NSC_STS then allBits else 0
  | .msc, o => if o = R.MSC_STS then allBits else 0
  | .fsc, o => if o = R.FSC_STS ∨ o = R.FSC_CAP ∨ o = R.FSC_HP_STS then allBits else 0
  | .hif, o => if o = R.HIF_LINK_STS then allBits else 0
  | .lnk, o =>
    if o = R.LNK_CTL ∨ o = R.LNK_STS ∨ o = R.LNK_PEER ∨ o = R.LNK_TRN_TMO ∨ o = R.LNK_RTMO ∨ o = R.LNK_RPLY ∨
       o = R.LNK_LANE_STS ∨ (R.LNK_CRD ≤ o ∧ o < R.LNK_CRD + 20) then allBits else 0
  | .fw, o => if o = R.FW_STS ∨ o = R.FW_VER_A ∨ o = R.FW_VER_B ∨ o = R.FW_BOOT_TIME then allBits else 0
  | .mgt, o =>
    if o = R.MGT_STS ∨ o = R.MGT_EID then allBits
    else if o = R.MGT_BUS then allBits - 127 else 0
  | .pwr, o => if R.PWR_V0 ≤ o ∧ o ≤ R.PWR_STS then allBits else 0
  | .ras, o => if o = R.RAS_FENCE_VAL ∨ o = R.RAS_REPAIR_STS then allBits else 0
  | .dbg, o => if o = R.DBG_STS ∨ o = R.DBG_CNT then allBits else 0
  | .mig, o => if o = R.MIG_ROWS_LO ∨ o = R.MIG_ROWS_HI then allBits else 0
  | .ckp, o =>
    if o = R.CKP_ENG_BYTES_LO ∨ o = R.CKP_ENG_BYTES_HI ∨ (R.CKP_PSTS ≤ o ∧ o < R.CKP_PSTS + 32) ∨
       (R.CKP_PCUT_LO ≤ o ∧ o < R.CKP_PCUT_LO + 64) then allBits else 0
  | .core, o => if o = R.CORE_PLD_STS then 2 ^ F.CORE_PLD_STS_VALID.lo else 0
  | _, _ => 0

/-- The bits of any register of a page that a soft reset keeps. -/
def keptBits (t : PageType) (o : Nat) : Nat :=
  if o = R.PG_OWNER ∨ o = R.PG_TMO_NS ∨ o = R.PG_EVT_EN ∨ o = R.PG_EVT_PEND ∨ o = R.PG_ERR_FIRST ∨
     o = R.PG_ERR_CNT ∨ o = R.PG_WREJ_OFS then allBits
  else if o = R.PG_STS then allBits - 2 ^ F.PG_STS_HELD.lo
  else if o < 0x100 then 0
  else keptBlk t o

/-- The word of a register after a soft reset. -/
def afterReset (t : PageType) (k v : Nat) : Nat :=
  let m := keptBits t (k % 4096)
  Nat.land v m + Nat.land (resetWord k).toNat (Nat.xor m allBits)

/-- A page's registers after a soft reset. -/
def resetRegs (pg : Nat) (s : State) : State :=
  match pageInfo pg with
  | none => s
  | some (t, _) =>
    { s with regs := s.regs.filterMap fun e =>
        if e.1 / 4096 ≠ pg then some e
        else
          let w := BitVec.ofNat 32 (afterReset t e.1 e.2.toNat)
          if w = resetWord e.1 then none else some (e.1, w) }

/-! ## What each block loses (R99) -/

/-- Does the executor of a RUNNING operation still hold it? -/
def State.holdsOp (s : State) (p n : Nat) : Bool :=
  match (s.slot p n).exec with
  | some (.core c) => (s.core c).op.any (fun h => h.part == p && h.slot == n)
  | some (.token e) => (s.tokHeld e).contains (p, n)
  | some (.ckp _) => s.ckp.run.any (fun r => r.who == .op n && r.part == p)
  | some _ => true
  | none => false

/-- The operations of a partition in service. -/
def State.runningOps (s : State) (p : Nat) : List Nat :=
  ((s.sc p).slots.filter (fun e => e.2.st == .running && !e.2.heldRel)).map (·.1)

/-- Graph commands of queue pairs that a partition's scheduler still holds are discarded, and no CQ entry
is written for them (R158). -/
def dropQueued (p : Nat) (s : State) : State :=
  let q := s.sc p
  (q.cmdQ ++ q.loads).foldl (fun s c =>
    match c.src with
    | .queue n _ _ => s.setQp p n { s.qp p n with open_ := (s.qp p n).open_ - 1 }
    | .reg _ => s) s

/-- A completion held for ordered release is in service too (R442): it faults (R462), or goes on to its release as
FREL says. -/
def heldFault (p code n : Nat) (s : State) : State :=
  let o := s.slot p n
  let s := logErr (pSCH p) code p n 0 (trace p n 4 code none s)
  if o.frel then s
  else
    let q := s.sc p
    (s.setSc p { q with rel := q.rel.map (fun r => if r.slot == n then { r with st := .faulted } else r) }).setSlot p n
      { o with st := .faulted, exec := none, fin := false, heldRel := false, copy := [] }

/-- An operation in service faults: at its executor, or at the scheduler, where only its completion is to come. -/
def runFault (p code n : Nat) (s : State) : State :=
  if s.holdsOp p n then execFault p n code s else opFault p n code none (logErr (pSCH p) code p n 0 s)

/-- Remote decrements that the scheduler has not applied are answered with a target reset. -/
def inReset (p : Nat) (s : State) : State :=
  let q := s.sc p
  forEach (fun (d : InDec) s => sendCpl d.link { hdrOf d.hdr with mute := !d.live } 0x01 [] 0 s) q.inQ (s.setSc p { q with inQ := [] })

/-- A SCH page: operations in service fault, what has not started is discarded, FX64 regions are off. -/
def schReset (p code : Nat) (s : State) : State :=
  let held := ((s.sc p).slots.filter (fun e => e.2.st == .running && e.2.heldRel && !e.2.drain)).map (·.1)
  let s := forEach (runFault p code) (s.runningOps p) (forEach (heldFault p code) held s)
  let s := dropQueued p (inReset p s)
  let s := s.setSc p { slots := (s.sc p).slots.filter (fun e => e.2.st == .faulted) }
  s.setAl p { s.al p with fxrOn := [], record := none }

/-- A CORE page: its operation faults, and its queues, engine and load are abandoned.  The stores keep
their contents (R281). -/
def coreReset (c code : Nat) (s : State) : State :=
  let s := if (s.core c).op.isSome then coreFaultLog c code 0 none s else coreDrop c false s
  let k := s.core c
  s.setCore c { prog := k.prog, work := k.work, workPois := k.workPois, shadowA := k.shadowA, shadowB := k.shadowB, nextReq := k.nextReq }

/-- Debug mode of a partition ends (R733). -/
def debugEnd (p : Nat) (s : State) : State :=
  let w := s.w pDBG R.DBG_STS
  if bit w p then s.setW pDBG R.DBG_STS (w - 2 ^ p) else s

/-- A CLU page: prefetch and ring are discarded, and the cores that wait for a shard fault. -/
def cluReset (k code : Nat) (s : State) : State :=
  let waiters := (s.slotsOfClu k).filter (fun c => (s.core c).shard.isSome)
  let s := forEach (fun c s => coreFault c code 0 0 none (logErr (pCLU k) code (s.corePart c) 0 0 s)) waiters s
  let v := s.clu k
  let s := s.setClu k { store := v.store, pois := v.pois }
  match s.holderOf resClu k with
  | some p => if p < 8 then debugEnd p s else s
  | none => s

/-- A TOK page: the operations it holds fault, its loads are abandoned, each with an error for the owner it works
for (R159), and slots, streams and stop blocks return to reset. -/
def tokReset (e code : Nat) (s : State) : State :=
  let s := forEach (fun (x : Nat × Nat) s => execFault x.1 x.2 code s) (s.tokHeld e) s
  let owners := ((s.eng e).slots.filter (fun x => x.2.busy)).map (fun x => x.2.owner) ++
    ((s.eng e).stops.filter (fun x => x.2.busy)).map (fun x => x.2.owner)
  (forEach (fun o s => logErr (pTOK e) code o 0 0 s) owners s).setEng e {}

/-- A MIG page: the operations it holds fault. -/
def migReset (d code : Nat) (s : State) : State :=
  forEach (fun (x : Nat × Nat) s => (execFault x.1 x.2 code s).setMop x.1 x.2 {}) (s.migHeld d) s

/-- A CKP page: the command or operation in progress is abandoned (R524, R543, R556). -/
def ckpReset (code : Nat) (s : State) : State :=
  match s.ckp.run with
  | none => s
  | some r =>
    match r.ph with
    | .pausing | .granted | .held =>
      (match r.who with
       | .op n => execFault r.part n code (resumePart r.part (ckpEnd r code s))
       | _ =>
         if r.op = 4 then ckpEnd r code s
         else if r.ph = .held then capFail r code s
         else ckpEnd r code (unpause r.part s))
    | .capturing | .draining | .domain => capFail r code s
    | .restoring =>
      match r.img with
      | some i => restoreFail r i code s
      | none => ckpEnd r code s

/-- An LNK page (R609): the transactions queued for the link are discarded; the link stays trained. -/
def lnkReset (l code : Nat) (s : State) : State :=
  let q := (s.link l).txq
  let tags := (q.filter (fun k => decide (1 ≤ (hdrOf k.hdr).opc) && decide ((hdrOf k.hdr).opc ≤ 6))).map (fun k => (hdrOf k.hdr).tag)
  let mine := s.tagsWhere (fun r => r.link == l)
  let s := s.setLink l { s.link l with txq := [], xpend := false, xrsp := none }
  let s := forEach (fun t s => failReq t code s) (mine.filter tags.contains) s
  let gone := s.fab.wait.filter (fun o => o.link == some l)
  let s := { s with fab := { s.fab with wait := s.fab.wait.filter (fun o => o.link != some l) } }
  pump (forEach (fun o s => failWho o.who o.id o.etag code 0 s) gone s)

/-- A memory controller: the requests outstanding at it are abandoned, and their operations fault. -/
def ctlReset (pg code : Nat) (s : State) : State :=
  let s := forEach (fun c s => coreFault c code 0 0 none (logErr pg code (s.corePart c) 0 0 s)) (s.askers pg) s
  let k := s.ctl pg
  let n := k.repairQ.length
  let s := s.setCtl pg { k with share := 0x08C8, used := [], debt := [], repairQ := [] }
  s.setF pRAS F.RAS_REPAIR_STS_QUEUED (s.f pRAS F.RAS_REPAIR_STS_QUEUED - n)

/-- A far-store port whose link is down reports no trained link: LINK_UP, WIDTH, GEN and CXL are 0. -/
def fscLinkDown (pg : Nat) (s : State) : State :=
  (((s.setF pg F.FSC_STS_LINK_UP 0).setF pg F.FSC_STS_WIDTH 0).setF pg F.FSC_STS_GEN 0).setF pg F.FSC_STS_CXL 0

/-- A far-store port's slot after FSC_HP.POWER has changed (Table 17-4a, step 2). -/
def slotPower (i : Nat) (s : State) : State :=
  let k := SMap.get s.fsc i {}
  let pg := pgOf .fsc i
  if s.f pg F.FSC_HP_POWER = 0 then
    ((fscLinkDown pg s).emit (.pin (40 + i) false)).emit (.pin (50 + i) false)
      |> fun s => { s with fsc := SMap.put s.fsc i { k with step := .off } {} }
  else if s.f pg F.FSC_STS_PRESENT = 1 ∧ k.step = .off then
    { (s.emit (.pin (50 + i) false)).emit (.pin (40 + i) true) with
      fsc := SMap.put s.fsc i { k with step := .perst, since := s.nowOn (dieOfPage pg), wait := 100000000 } {} }
  else s

/-- A transfer in the die bridge is discarded (R99): its credit returns, a request's reservation of response credit
with it, and the operation that depended on it faults. -/
def dropXfer (code : Nat) (x : BridgeXfer) (s : State) : State :=
  let s := bridgeLeave x s
  let s := if x.cls = 2 then { s with bridge := { s.bridge with owed := s.bridge.owed.erase (1 - x.die, x.dst, x.src) } } else s
  match x.dep with
  | some (p, n) => execFault p n code s
  | none => s

/-- An UNASSIGN that its controllers have not applied is abandoned as under R52: 0x03 is logged, its units stay with
their holder, and BUSY becomes 0 (R741). -/
def unassignDrop (s : State) : State :=
  match s.prt.unassign with
  | none => s
  | some u => logErr pPRT 0x03 u.owner 0 0 (({ s with prt := { s.prt with unassign := none } }).setF pPRT F.PRT_STS_BUSY 0)

/-- The HIF page: completions that wait for their CQ entry are discarded; in a forced reset each partition that
loses one has its record (R159). -/
def hifReset (code : Nat) (s : State) : State :=
  forEach (fun (e : Nat × Qp) s =>
    if e.2.waiting.isEmpty then s
    else
      let s := s.setQp (e.1 / 4) (e.1 % 4) { e.2 with waiting := [], open_ := e.2.open_ - e.2.waiting.length }
      if code = 0x0F then logErr pHIF 0x0F (e.1 / 4) 0 0 s else s) s.hif.qps
    { s with hif := { s.hif with accs := [], qps := s.hif.qps.map (fun e => (e.1, { e.2 with fetch := none })) } }

/-- What the block of a page loses; `code` is 0x16, or 0x0F in an engine forced under R159. -/
def blockDrop (pg code : Nat) (s : State) : State :=
  match pageInfo pg with
  | some (.sch, i) => if i = 0 then s else schReset (i - 1) code s
  | some (.core, c) => coreReset c code s
  | some (.clu, k) => cluReset k code s
  | some (.tok, e) => tokReset e code s
  | some (.mig, d) => migReset d code s
  | some (.ckp, _) => ckpReset code s
  | some (.lnk, l) => lnkReset l code s
  | some (.nsc, _) | some (.msc, _) => ctlReset pg code s
  | some (.fsc, i) =>
    let s := ctlReset pg code s
    { s with fsc := SMap.put s.fsc i { SMap.get s.fsc i {} with draining := false } {} }
  | some (.prt, _) => unassignDrop s
  | some (.hif, _) => hifReset code s
  | some (.brg, d) => forEach (dropXfer code) (s.bridge.inFlight.filter (fun x => x.die == d)) s
  | _ => s

/-- What follows from the registers having returned to their reset values. -/
def blockAfter (pg : Nat) (s : State) : State :=
  match pageInfo pg with
  | some (.core, c) => poolReset c s
  | some (.brg, _) => bridgeStatus s
  | some (.fsc, i) => slotPower i s
  | _ => match ringPage (ringOwner pg) with
    | some r => if r = pg then { s with ev := { s.ev with owed := SMap.put s.ev.owed (ringOwner pg) 0 0 } } else s
    | none => s

/-- The effects of a soft reset of a page (R99), all at its start. -/
def blockReset (pg code : Nat) (s : State) : State := blockAfter pg (resetRegs pg (blockDrop pg code s))

/-- A soft reset starts (R98): RST_BUSY is 1 until SOFT_RESET_DONE. -/
def startReset (pg code : Nat) (s : State) : State :=
  let s := (blockReset pg code s).setF pg F.PG_STS_RST_BUSY 1
  { s with rstAt := SMap.put s.rstAt pg (some (s.issue pg)) none }

/-- A soft reset that Table 04-4 or R132 starts, unless one is already in progress. -/
def forceReset (pg code : Nat) (s : State) : State :=
  if s.rstBusy pg then blockReset pg code s |>.setF pg F.PG_STS_RST_BUSY 1 else startReset pg code s

/-- SOFT_RESET_TIMEOUT (R101): PG_TMO_NS has passed; 0x03 is logged and RST_BUSY stays 1. -/
def resetTimeout (pg : Nat) (s : State) : State :=
  match SMap.get s.rstAt pg none with
  | none => s
  | some i =>
    if s.expired pg i then
      logErr pg 0x03 (s.defSubj pg) 0 0 { s with rstAt := SMap.put s.rstAt pg none none }
    else s

/-- SOFT_RESET_DONE: RST_BUSY becomes 0, and RST_DONE is set; a reset that has not completed by its time limit no
longer does (R101). -/
def resetDone (pg : Nat) (s : State) : State :=
  match SMap.get s.rstAt pg none with
  | none => s
  | some i =>
    if s.overdue pg i then resetTimeout pg s
    else
      let s := { s with rstAt := SMap.put s.rstAt pg none none }
      pendSet pg 2 (s.setF pg F.PG_STS_RST_BUSY 0)

/-! ## On-die stores (R133, R748) -/

/-- The stores of a core slot set to zero; its program is no longer VALID (R281). -/
def zeroCore (c : Nat) (s : State) : State :=
  let k := s.core c
  (s.setCore c { nextReq := k.nextReq }).setF (pCORE c) F.CORE_PLD_STS_VALID 0

/-- The stores of a cluster and of its cores set to zero (R133). -/
def zeroClu (k : Nat) (s : State) : State := forEach zeroCore (s.slotsOfClu k) (s.setClu k {})

/-! ## Meanings -/

/-- SOFT_RESET_DONE. -/
def execSoftResetDone (pg : Nat) (s : State) : Host.Outcome State Fault Refusal :=
  whenOk (okPage pg) s <| run [] s (resetDone pg)
/-- SOFT_RESET_TIMEOUT. -/
def execSoftResetTimeout (pg : Nat) (s : State) : Host.Outcome State Fault Refusal :=
  whenOk (okPage pg) s <| run [] s (resetTimeout pg)

end Sys2Proof.Machine
end

