-- ==== Sys2Proof/Machine/Timebase.lean ====
section
/-! DEFINITION.  The timebase: both copies of TBS_NOW, the reference monitor and the event-rate
registers (R34, R37 to R45). -/

namespace Sys2Proof.Machine

/-- One period of the 1 GHz timebase clock: each copy counts once the PLL has locked, except that the
leading copy omits an increment under R40 (R37, R38), and that die 1's copy starts as late as its alignment at lock
has left it (DESIGN CHOICE, log entry 77). -/
def tickCopies (t : Timebase) : Timebase :=
  if t.late ≠ 0 then { t with now0 := t.now0 + 1, late := t.late - 1 }
  else if t.skips = 0 ∨ t.gap ≠ 0 then { t with now0 := t.now0 + 1, now1 := t.now1 + 1, gap := t.gap - 1 }
  else if t.lead1 then { t with now0 := t.now0 + 1, skips := t.skips - 1, gap := 999 }
  else { t with now1 := t.now1 + 1, skips := t.skips - 1, gap := 999 }

/-- The pages Tormal claims at boot step 3 (R709). -/
def tormalPages : List Nat :=
  [pGLB, pTBS, pSEC, pPWR, pRAS, pDBG, pMGT, pFW, pBRG 0, pBRG 1] ++ (List.range 128).map (pgOf .nsc) ++
    (List.range 8).map (pgOf .msc) ++ (List.range 4).map (pgOf .fsc)

/-- R709, step 3: Tormal claims its pages. -/
def tormalClaims (s : State) : State := forEach (fun pg s => s.setW pg R.PG_OWNER (2 ^ 31 + oTormal)) tormalPages s

/-- Step 3 of Table 20-6 is done once Tormal runs and the PLL has locked. -/
def stepThree (s : State) : State :=
  if s.f pMGT F.MGT_STS_STAGE = 3 ∧ s.f pTBS F.TBS_STS_LOCK = 1 then (tormalClaims s).setF pMGT F.MGT_STS_STAGE 4 else s

/-- TBS_NOW counts from now on (R38), die 1's copy `late` ns behind, within the bound of R40; during boot, step 3
is done.  The PLL locks once. -/
def tbsLock (late : Nat) (s : State) : State :=
  if s.f pTBS F.TBS_STS_LOCK = 1 then s
  else stepThree ((({ s with tb := { s.tb with late := late } }).setF pTBS F.TBS_STS_LOCK 1).setF pTBS F.TBS_STS_REF_OK 1
    |>.setF pTBS F.TBS_STS_ALIGNED 1)

/-- TBS_LOCK: the PLL locks, and die 1's copy is aligned to within `late` ns of die 0's. -/
def execTbsLock (late : Nat) (s : State) : Host.Outcome State Fault Refusal :=
  whenOk (below 5 late) s <| run [] s (tbsLock late)

/-- The difference of the two copies. -/
def Timebase.skew (t : Timebase) : Nat := (t.now0 - t.now1) + (t.now1 - t.now0)

/-- R40: 1 ms after the last measurement the difference is measured again, and the leading copy starts to omit
increments until the copies agree to within 1 ns. -/
def skewMeasure (s : State) : State :=
  if s.f pTBS F.TBS_STS_LOCK = 1 ∧ s.tb.measAt + 1000000 ≤ s.now then
    let d := s.tb.skew
    let s := (s.setF pTBS F.TBS_STS_SKEW_NS (sat 255 d)).setF pTBS F.TBS_STS_ALIGNED (b2n (d ≤ 4))
    { s with tb := { s.tb with skips := d - 1, lead1 := decide (s.tb.now0 < s.tb.now1), measAt := s.now } }
  else s

/-- SKEW_MEASURE. -/
def execSkewMeasure (s : State) : Host.Outcome State Fault Refusal := run [] s skewMeasure

/-- RATE of both dies over the window just ended, and the lowest since (R34). -/
def evrRates (rate0 rate1 : Nat) (s : State) : State :=
  let s := s.setF pTBS F.TBS_EVR0_RATE rate0
  let s := s.setF pTBS F.TBS_EVR0_MIN (min (s.f pTBS F.TBS_EVR0_MIN) (rate0 % 65536))
  let s := s.setF pTBS F.TBS_EVR1_RATE rate1
  s.setF pTBS F.TBS_EVR1_MIN (min (s.f pTBS F.TBS_EVR1_MIN) (rate1 % 65536))

/-- EVR_WINDOW_END (R34): a window of 2^WIN µs is over, and the next one has the WIN now written. -/
def evrEnd (rate0 rate1 : Nat) (s : State) : State :=
  if s.f pTBS F.TBS_STS_LOCK = 1 ∧ s.tb.evrAt + 2 ^ s.tb.evrWin * 1000 ≤ s.now then
    let s := evrRates rate0 rate1 s
    { s with tb := { s.tb with evrAt := s.now, evrWin := s.f pTBS F.TBS_EVR_CTL_WIN } }
  else s

/-- EVR_WINDOW_END. -/
def execEvrWindowEnd (rate0 rate1 : Nat) (s : State) : Host.Outcome State Fault Refusal :=
  run [] s (evrEnd rate0 rate1)

/-- A write to TBS_EVR_CTL: WIN is 0 to 10, and CLR_MIN sets both MIN fields to 0xFFFF. -/
def wrEvrCtl (m v : Nat) (s : State) : State :=
  checkedWrite m pTBS R.TBS_EVR_CTL v (fun _ => decide (bits v 3 0 ≤ 10)) (fun _ => true)
    (fun s =>
      let s := s.setF pTBS F.TBS_EVR_CTL_WIN (bits v 3 0)
      if bit v 8 then (s.setF pTBS F.TBS_EVR0_MIN 0xFFFF).setF pTBS F.TBS_EVR1_MIN 0xFFFF else s) s

/-- CLR_MIN: a write of TBS_EVR_CTL with CLR_MIN 1 and WIN as given. -/
def execClrMin (m win : Nat) (s : State) : Host.Outcome State Fault Refusal :=
  whenOk (okMaster m && below 16 win) s <|
  run [] s (wrEvrCtl m (256 + win % 16))

/-- REFERENCE_LOST (R44): holdover begins, 0x15 is logged. -/
def refLost (s : State) : State :=
  if s.f pTBS F.TBS_STS_HOLDOVER = 0 then
    let s := (s.setF pTBS F.TBS_STS_HOLDOVER 1).setF pTBS F.TBS_STS_REF_OK 0
    logErr pTBS 0x15 (s.defSubj pTBS) 0 0 (s.addF pTBS F.TBS_REF_LOSS_CNT_CNT 1)
  else s

/-- REFERENCE_LOST. -/
def execReferenceLost (s : State) : Host.Outcome State Fault Refusal := run [] s refLost

/-- REFERENCE_RETURN (R45): TBS_NOW switches back without a step. -/
def execReferenceReturn (s : State) : Host.Outcome State Fault Refusal :=
  run [] s fun s => if s.f pTBS F.TBS_STS_HOLDOVER = 1 then
    (s.setF pTBS F.TBS_STS_HOLDOVER 0).setF pTBS F.TBS_STS_REF_OK 1 else s

/-- NEAR_RECALIBRATE (R746): CAL_BUSY is 1 while a channel's delay lines are recalibrated; no access
waits for it. -/
def execNearRecalibrate (ch : Nat) (start : Bool) (s : State) : Host.Outcome State Fault Refusal :=
  whenOk (below 128 ch) s <|
  run [] s fun s => if ch < 128 then s.setF (pgOf .nsc ch) F.NSC_STS_CAL_BUSY (b2n start) else s

end Sys2Proof.Machine
end

