-- ==== Sys2Proof/Machine/Pages.lean ====
section
/-! DEFINITION.  The common header of a page: claiming, enabling, holding, resetting, clearing errors and
event enables (R82 to R101, R107, R110, R111, R712), and accesses to offsets no page backs. -/

namespace Sys2Proof.Machine

/-! ## Claims (R83 to R89) -/

/-- A write to PG_OWNER. -/
def wrPgOwner (m pg v : Nat) (s : State) : State :=
  let own := bits v 3 0
  let cur := s.ownerOf pg
  if !s.reaches m pg then unbacked m (pg * 4096 + R.PG_OWNER) s
  else if bit v 31 then
    if !s.mayClaim m pg || !(cur == none || cur == some m) then refuse m pg R.PG_OWNER 0x02 s
    else if own ≠ m ∨ bits v 30 4 ≠ 0 then refuse m pg R.PG_OWNER 0x01 s
    else s.setW pg R.PG_OWNER (2 ^ 31 + m)
  else if !(cur == some m || m == oTormal || cur == none && s.mayClaim m pg) then refuse m pg R.PG_OWNER 0x02 s
  else if v ≠ 0 then refuse m pg R.PG_OWNER 0x01 s
  else s.setW pg R.PG_OWNER 0

/-- R85: a page is released. -/
def releasePage (pg : Nat) (s : State) : State := s.setW pg R.PG_OWNER 0

/-! ## PG_CTL (R86, R95 to R98, R282) -/

/-- What a change of EN starts or ends: a core's sequencer, unless a fault has stopped it (R300); a link's training.
-/
def enFollow (pg : Nat) (was : Bool) (s : State) : State :=
  let en := s.f pg F.PG_CTL_EN == 1
  match pageInfo pg with
  | some (.core, c) =>
    if en && !was then
      s.setCore c { s.core c with running := !(s.core c).stopped, inGet := false, pc := s.f pg F.CORE_BOOT_PC }
    else if was && !en then s.setCore c { s.core c with running := false, inGet := false }
    else s
  | some (.lnk, l) => if was && !en then linkStop l s else linkFollow l false s
  | _ => s

/-- May a write change PG_CTL as it asks (R97, R98, R100, R282)? -/
def State.ctlPre (s : State) (pg v : Nat) : Bool :=
  let en := s.f pg F.PG_CTL_EN == 1
  !s.rstBusy pg && !(en && !bit v 0 && !s.idle pg) &&
    (match pageInfo pg with
     | some (.core, _) => en || !bit v 0 || s.f pg F.CORE_PLD_STS_VALID == 1
     | _ => true)

/-- A write to PG_CTL. -/
def wrPgCtl (m pg v : Nat) (s : State) : State :=
  let en := s.f pg F.PG_CTL_EN == 1
  if !s.reaches m pg then unbacked m (pg * 4096 + R.PG_CTL) s
  else if !(s.mayWrite m pg || m == oTormal && bit v 0 == en) then refuse m pg R.PG_CTL 0x02 s
  else if 8 ≤ v then refuse m pg R.PG_CTL 0x01 s
  else if !s.ctlPre pg v then refuse m pg R.PG_CTL 0x11 s
  else if bit v 1 then startReset pg 0x16 s
  else
    let s := (s.setF pg F.PG_CTL_EN (bits v 0 0)).setF pg F.PG_CTL_HOLD (bits v 2 2)
    let s := if bit v 2 then s else s.setF pg F.PG_STS_HELD 0
    enFollow pg en s

/-- The PG_CTL word as it stands. -/
def State.ctlWord (s : State) (pg : Nat) : Nat := s.f pg F.PG_CTL_EN + 4 * s.f pg F.PG_CTL_HOLD

/-- R96: HELD becomes 1 once HOLD is 1 and no started work is left. -/
def pageHeld (pg : Nat) (s : State) : State :=
  if s.f pg F.PG_CTL_HOLD = 1 ∧ s.idle pg = true then s.setF pg F.PG_STS_HELD 1 else s

/-! ## Header registers that a soft reset does not gate (R100) -/

/-- A write to a header register other than PG_OWNER and PG_CTL. -/
def headWrite (m pg ofs v : Nat) (range : State → Bool) (eff : State → State) (s : State) : State :=
  if !s.reaches m pg then unbacked m (pg * 4096 + ofs) s
  else if !s.mayWrite m pg then refuse m pg ofs 0x02 s
  else if !((regDefAt pg ofs).elim (v == 0) (fun d => defRes0Ok d v)) || !range s then refuse m pg ofs 0x01 s
  else eff s

/-- R107: VALID written 1 clears PG_ERR_FIRST, PG_ERR_CNT and PG_STS.WREJ. -/
def wrErrFirst (m pg v : Nat) (s : State) : State :=
  headWrite m pg R.PG_ERR_FIRST v (fun _ => true)
    (fun s => if bit v 31 then
        ((s.setW pg R.PG_ERR_FIRST 0).setW pg R.PG_ERR_CNT 0).setF pg F.PG_STS_WREJ 0
      else s) s

/-- R111: the record of a bit enabled while its PEND bit is 1. -/
def enRecord (pg b : Nat) (s : State) : State :=
  emitRec { kind := .block, page := pg, subj := s.defSubj pg, bit := b, holder := s.ownerOf pg } s

/-- PG_EVT_EN. -/
def wrEvtEn (m pg v : Nat) (s : State) : State :=
  headWrite m pg R.PG_EVT_EN v (fun _ => true)
    (fun s =>
      let old := s.w pg R.PG_EVT_EN
      let pend := s.w pg R.PG_EVT_PEND
      forUp (fun b s => if bit v b && !bit old b && bit pend b then enRecord pg b s else s) 32 0 (s.setW pg R.PG_EVT_EN v)) s

/-- A PG_EVT_PEND bit set through PG_EVT_SET (R110): a bit from 1 to 31 that goes from 0 to 1 produces its BLOCK
record like any other, bit 0 is set without one, and an enabled bit produces a SOFT record besides. -/
def softBit (pg b : Nat) (s : State) : State :=
  let s := if b = 0 then s.setF pg F.PG_EVT_PEND_ERR 1 else pendSet pg b s
  if bit (s.w pg R.PG_EVT_EN) b then
    emitRec { kind := .soft, page := pg, subj := s.defSubj pg, bit := b, holder := s.ownerOf pg } s
  else s

/-- PG_EVT_SET: each bit written 1 is set in PG_EVT_PEND (R110). -/
def wrEvtSet (m pg v : Nat) (s : State) : State :=
  headWrite m pg R.PG_EVT_SET v (fun _ => true)
    (fun s => forUp (fun b s => if bit v b then softBit pg b s else s) 32 0 s) s

/-- PG_EVT_PEND: bits written 1 are cleared. -/
def wrEvtPend (m pg v : Nat) (s : State) : State :=
  headWrite m pg R.PG_EVT_PEND v (fun _ => true) (fun s => s.setW pg R.PG_EVT_PEND (merged pg R.PG_EVT_PEND v s)) s

/-- PG_TMO_NS (R48). -/
def wrTmo (m pg v : Nat) (s : State) : State :=
  headWrite m pg R.PG_TMO_NS v (fun _ => decide (1000 ≤ v) && decide (v ≤ 4000000000)) (fun s => s.setW pg R.PG_TMO_NS v) s

/-- The counter codes of a page type (Table 21-1). -/
def perfCodes (t : PageType) (i : Nat) : List Nat :=
  [0, 1, 2, 3] ++ (match t with
    | .core => [0x10, 0x11, 0x12, 0x21, 0x22, 0x23, 0x24, 0x25, 0x26, 0x27, 0x30, 0x31, 0x32, 0x33, 0x34, 0x35, 0x36, 0x37]
    | .clu => [0x40, 0x41, 0x42]
    | .sch => if i = 0 then [] else [0x50, 0x51, 0x52, 0x53]
    | .nsc | .msc | .fsc => [0x60, 0x61, 0x62, 0x63, 0x64, 0x65]
    | .tok => [0x70, 0x71, 0x72, 0x73]
    | .lnk => [0x80, 0x81, 0x82, 0x83]
    | .mig | .ckp => [0x90, 0x91]
    | .hif => [0xA0, 0xA1, 0xA2]
    | _ => [])

/-- The page types Table 21-1 marks filterable. -/
def filterable : PageType → Bool
  | .nsc | .msc | .fsc | .tok | .mig | .ckp | .hif => true
  | _ => false

/-- R722: is the SEL field of a PG_PERF_SEL word legal for the page? -/
def perfSelOk (pg v : Nat) : Bool :=
  match pageInfo pg with
  | none => false
  | some (t, i) =>
    let code := bits v 7 0
    let filt := bits v 11 8
    (perfCodes t i).contains code && (filt == 0 || filterable t) && !(decide (9 ≤ filt) && decide (filt ≤ 14))

/-- PG_PERF_SEL (R722 to R724): a change of SEL, or CLR, sets PG_PERF_VAL to 0. -/
def wrPerfSel (m pg v : Nat) (s : State) : State :=
  headWrite m pg R.PG_PERF_SEL v (fun _ => perfSelOk pg v)
    (fun s =>
      let chg := changes pg F.PG_PERF_SEL_SEL v s
      let s := if chg || bit v 13 then s.setW64 pg R.PG_PERF_VAL_LO R.PG_PERF_VAL_HI 0 else s
      (s.setF pg F.PG_PERF_SEL_SEL (bits v 11 0)).setF pg F.PG_PERF_SEL_RUN (bits v 12 12)) s

/-- A write to any header register (offsets below 0x100). -/
def wrHead (m pg ofs v : Nat) (s : State) : State :=
  if ofs = R.PG_OWNER then wrPgOwner m pg v s
  else if ofs = R.PG_CTL then wrPgCtl m pg v s
  else if ofs = R.PG_EVT_EN then wrEvtEn m pg v s
  else if ofs = R.PG_EVT_SET then wrEvtSet m pg v s
  else if ofs = R.PG_EVT_PEND then wrEvtPend m pg v s
  else if ofs = R.PG_ERR_FIRST then wrErrFirst m pg v s
  else if ofs = R.PG_TMO_NS then wrTmo m pg v s
  else if ofs = R.PG_PERF_SEL then wrPerfSel m pg v s
  else headWrite m pg ofs v (fun _ => true) id s

/-! ## GLB_STATE (R122, R711, R712) -/

/-- GLB_STATE: READY, DEGRADED or UPDATE; READY or DEGRADED ends boot step 10. -/
def wrGlbState (m v : Nat) (s : State) : State :=
  checkedWrite m pGLB R.GLB_STATE v (fun _ => v == 1 || v == 2 || v == 4) (fun s => !s.failed)
    (fun s =>
      let st := s.f pMGT F.MGT_STS_STAGE
      let s := if v ≠ 4 ∧ 8 ≤ st ∧ st ≤ 10 then s.setF pMGT F.MGT_STS_STAGE 11 else s
      s.setF pGLB F.GLB_STATE_STATE v) s

/-! ## Meanings -/

/-- UNBACKED_ACCESS (R80, R102): an access of a master to an offset its window does not back. -/
def execUnbackedAccess (m ofs : Nat) (s : State) : Host.Outcome State Fault Refusal :=
  whenOk (okMaster m && below (2 ^ 26) ofs) s <|
  run [] s fun s => if s.reaches m (ofs % 2 ^ 26 / 4096) then s else unbacked m (ofs % 2 ^ 26) s
/-- PAGE_CLAIM: a write to PG_OWNER with CLAIMED 1. -/
def execPageClaim (m pg owner : Nat) (s : State) : Host.Outcome State Fault Refusal :=
  whenOk (okMaster m && okPage pg && below 16 owner) s <|
  run [] s (wrPgOwner m pg (2 ^ 31 + owner % 16))
/-- PAGE_RELEASE: a write of 0 to PG_OWNER. -/
def execPageRelease (m pg : Nat) (s : State) : Host.Outcome State Fault Refusal :=
  whenOk (okMaster m && okPage pg) s <| run [] s (wrPgOwner m pg 0)
/-- PAGE_ENABLE: a write to PG_CTL that gives EN a value and leaves HOLD as it is. -/
def execPageEnable (m pg : Nat) (en : Bool) (s : State) : Host.Outcome State Fault Refusal :=
  whenOk (okMaster m && okPage pg) s <|
  run [pg] s fun s => wrPgCtl m pg (b2n en + 4 * s.f pg F.PG_CTL_HOLD) s
/-- PAGE_HOLD: a write to PG_CTL that gives HOLD a value and leaves EN as it is. -/
def execPageHold (m pg : Nat) (hold : Bool) (s : State) : Host.Outcome State Fault Refusal :=
  whenOk (okMaster m && okPage pg) s <|
  run [pg] s fun s => wrPgCtl m pg (s.f pg F.PG_CTL_EN + 4 * b2n hold) s
/-- PAGE_HELD. -/
def execPageHeld (pg : Nat) (s : State) : Host.Outcome State Fault Refusal :=
  whenOk (okPage pg) s <| run [] s (pageHeld pg)
/-- SOFT_RESET: a write to PG_CTL with SRST 1 that leaves EN and HOLD as they are. -/
def execSoftReset (m pg : Nat) (s : State) : Host.Outcome State Fault Refusal :=
  whenOk (okMaster m && okPage pg) s <|
  run [pg] s fun s => wrPgCtl m pg (s.ctlWord pg + 2) s
/-- ERR_FIRST_CLEAR: a write to PG_ERR_FIRST with VALID 1. -/
def execErrFirstClear (m pg : Nat) (s : State) : Host.Outcome State Fault Refusal :=
  whenOk (okMaster m && okPage pg) s <| run [] s (wrErrFirst m pg (2 ^ 31))
/-- EVT_EN_WRITE. -/
def execEvtEnWrite (m pg v : Nat) (s : State) : Host.Outcome State Fault Refusal :=
  whenOk (okMaster m && okPage pg && okWord v) s <| run [] s (wrEvtEn m pg (v % 2 ^ 32))
/-- EVT_SET. -/
def execEvtSet (m pg v : Nat) (s : State) : Host.Outcome State Fault Refusal :=
  whenOk (okMaster m && okPage pg && okWord v) s <| run [] s (wrEvtSet m pg (v % 2 ^ 32))
/-- GLB_STATE_WRITE. -/
def execGlbStateWrite (m st : Nat) (s : State) : Host.Outcome State Fault Refusal :=
  whenOk (okMaster m && okWord st) s <| run [] s (wrGlbState m (st % 2 ^ 32))
/-- PERF_SEL_WRITE. -/
def execPerfSelWrite (m pg v : Nat) (s : State) : Host.Outcome State Fault Refusal :=
  whenOk (okMaster m && okPage pg && okWord v) s <| run [] s (wrPerfSel m pg (v % 2 ^ 32))

end Sys2Proof.Machine
end

