-- ==== Sys2Proof/Machine/Events.lean ====
section
/-! DEFINITION.  The device event arbiter, the event rings and their registers, and MSI-X messages
(R107 to R121, R461, R631). -/

namespace Sys2Proof.Machine

/-! ## Messages (R115, R631) -/

def State.msix (s : State) (fn : Nat) : Msix := SMap.get s.hif.msix fn {}
def State.setMsix (s : State) (fn : Nat) (v : Msix) : State :=
  { s with hif := { s.hif with msix := SMap.put s.hif.msix fn v {} } }

/-- A function raises a vector: a message, or the pending bit of a masked vector.  With the upstream link
down, or VF Enable 0 for a VF, there is no function to send it, and with MSI-X Enable 0 it may send none. -/
def sendMsix (fn vec : Nat) (s : State) : State :=
  let x := s.msix fn
  if s.f pHIF F.HIF_LINK_STS_UP = 0 ∨ (fn ≠ 0 ∧ s.hif.vfEn = false) ∨ x.en = false then s
  else if x.mask || !SMap.get x.unmasked vec false then s.setMsix fn { x with pend := SMap.put x.pend vec true false }
  else s.emit (.msix fn vec)

/-- A pending vector that nothing masks now sends its message. -/
def sendPending (fn vec : Nat) (s : State) : State :=
  let x := s.msix fn
  if SMap.get x.pend vec false && SMap.get x.unmasked vec false && x.en && !x.mask then
    sendMsix fn vec (s.setMsix fn { x with pend := SMap.put x.pend vec false false })
  else s

/-- MSIX_UNMASK: the host unmasks a vector or a function, or masks it; what is pending sends its message then. -/
def unmask (fn : Nat) (what : MsixSet) (s : State) : State :=
  let x := s.msix fn
  match what with
  | .vec n mask => sendPending fn n (s.setMsix fn { x with unmasked := SMap.put x.unmasked n (!mask) false })
  | .ctl en mask => forUp (sendPending fn) 64 0 (s.setMsix fn { x with en := en, mask := mask })

/-! ## Rings (R114 to R119) -/

/-- A ring's base address. -/
def State.evqBase (s : State) (pg : Nat) : Nat := s.f pg F.EVQ_BASE_LO_ADDR * 4096 + s.w pg R.EVQ_BASE_HI * 2 ^ 32

/-- The tier of a device-tier SPACE: 0b01 mid, 0b10 near. -/
def spaceTier (sp : Nat) : Nat := if sp = 1 then 2 else 1

/-- R116: records in the ring, modulo 2^32. -/
def State.evqUsed (s : State) (pg : Nat) : Nat := (s.w pg R.EVQ_PROD + 2 ^ 32 - s.w pg R.EVQ_CONS) % 2 ^ 32
def State.evqRoom (s : State) (pg : Nat) : Bool := decide (s.evqUsed pg < 2 ^ s.f pg F.EVQ_CTL_LOG2N)
def State.evqOn (s : State) (pg : Nat) : Bool := s.f pg F.EVQ_CTL_EN == 1

/-- Table 03-5: KIND. -/
def RecKind.code : RecKind → Nat
  | .error => 1 | .block => 2 | .soft => 3 | .signal => 4 | .ringLost => 5 | .info => 6

/-- Table 03-5: the 32 bytes of a record granted at `ts` with sequence number `seq`. -/
def EvRec.bytes (r : EvRec) (seq ts : Nat) : List Byte :=
  leBytes 8 seq ++ leBytes 8 ts ++ leBytes 2 (r.page % 2 ^ 14) ++ leBytes 1 r.kind.code ++ leBytes 1 (r.subj % 16)
    ++ leBytes 1 r.code ++ leBytes 1 r.bit ++ leBytes 2 r.aux ++ leBytes 8 r.detail

/-- R633: a translation of function `fn` is used; up to 256 are cached, the one used longest ago leaves. -/
def atsUse (fn addr : Nat) (s : State) : State :=
  let e := (fn, addr / 4096)
  { s with hif := { s.hif with atc := (e :: s.hif.atc.filter (· != e)).take 256 } }

/-- The bytes of a record written to a ring: `false` where the write fails.  A write to host memory is posted: the
spec does not say what becomes of one while the upstream link is down, and the model takes it as done (DESIGN
CHOICE, log entry 78). -/
def ringStore (o pg addr : Nat) (bs : List Byte) (s : State) : Bool × State :=
  match s.f pg F.EVQ_BASE_LO_SPACE with
  | 0 => (true, (atsUse (if o = oPF then 0 else o + 1) addr s).emit (.hostWrite addr bs))
  | 3 => (true, { s with mem := { s.mem with sram := putDieBytes s.mem.sram addr bs } })
  | sp =>
    let t := spaceTier sp
    let r := memWrite pg (s.access o) t addr (plain bs) (s.isRmtDie 0 t addr) s
    (r.1 == 0, awaitIf r.1 r.2)

/-- A record is lost (R116). -/
def recLost (o pg : Nat) (s : State) : State :=
  let s := (s.setW pg R.EVQ_LOST (sat (2 ^ 32 - 1) (s.w pg R.EVQ_LOST + 1))).setF pg F.EVQ_CTL_OVF 1
  { s with ev := { s.ev with owed := SMap.put s.ev.owed o (SMap.get s.ev.owed o 0 + 1) 0 } }

/-- The ring's interrupt (R115, R631): the PF's, a VF's, or the management core's own. -/
def ringIrq (o pg : Nat) (s : State) : State :=
  let vec := s.f pg F.EVQ_CTL_VEC
  if o = oTormal then s.emit (.mgmt 0xFF vec []) else sendMsix (if o = oPF then 0 else o + 1) vec s

/-- One copy of a record, with the sequence number it was granted, to the ring of `o`: discarded (R119),
lost (R116), or written, whereupon PROD advances and then the interrupt is raised (R115). -/
def ringPut (o seq : Nat) (r : EvRec) (s : State) : State :=
  match ringPage o with
  | none => s
  | some pg =>
    if !s.evqOn pg then s
    else if !s.evqRoom pg then recLost o pg s
    else
      let k := s.w pg R.EVQ_PROD
      let x := ringStore o pg (s.evqBase pg + 32 * (k % 2 ^ s.f pg F.EVQ_CTL_LOG2N)) (r.bytes seq s.now) s
      if x.1 then ringIrq o pg (x.2.setW pg R.EVQ_PROD ((k + 1) % 2 ^ 32)) else recLost o pg x.2

/-- The arbiter takes the next sequence number (R109). -/
def takeSeq (s : State) : Nat × State := (s.ev.seq, { s with ev := { s.ev with seq := (s.ev.seq + 1) % 2 ^ 64 } })

/-- One copy with the next sequence number. -/
def grantCopy (r : EvRec) (o : Nat) (s : State) : State :=
  let x := takeSeq s
  ringPut o x.1 r x.2

/-- R117: a ring that has lost records and has room again gets its RING_LOST record.  Where the write of that
record fails too, it is one more record lost, and all of them are still owed. -/
def ringLost (o : Nat) (s : State) : State :=
  match ringPage o with
  | none => s
  | some pg =>
    let n := SMap.get s.ev.owed o 0
    if n = 0 || !s.evqOn pg || !s.evqRoom pg then s
    else
      let t := grantCopy { kind := .ringLost, page := pg, subj := o, aux := sat 0xFFFF n } o
        { s with ev := { s.ev with owed := SMap.put s.ev.owed o 0 0 } }
      if SMap.get t.ev.owed o 0 = 0 then t
      else { t with ev := { t.ev with owed := SMap.put t.ev.owed o (n + SMap.get t.ev.owed o 0) 0 } }

/-- R112 item 3: GLB_TML_FILT lets the code through to Tormal. -/
def State.toTormal (s : State) (code : Nat) : Bool := !(decide (code < 32) && bit (s.w pGLB R.GLB_TML_FILT) code)

/-- R112, R113, R461: the owners whose rings a record goes to, in the order of its copies. -/
def State.recipients (s : State) (r : EvRec) : List Nat :=
  match r.kind with
  | .info | .signal | .ringLost => [r.subj]
  | k =>
    let l := match r.holder with | some h => if h = r.subj then [h] else [h, r.subj] | none => [r.subj]
    if k = .error ∧ s.toTormal r.code = true ∧ oTormal ∉ l then l ++ [oTormal] else l

/-- The recipients of a BLOCK record of an unclaimed page, and of every other record: item 1 falls away
with the holder (R112). -/
def grantRec (r : EvRec) (s : State) : State :=
  let dst := s.recipients r
  let s := forEach ringLost dst s
  let s := forEach (grantCopy r) dst s
  match r.sig with
  | some x => if (s.slot x.1 x.2).st == .running && (s.slot x.1 x.2).cls == cSIGNAL then completed x.1 x.2 s else s
  | none => s

/-- The pages whose records wait: the requesters of the arbiter. -/
def State.evPages (s : State) : List Nat := (s.ev.waiting.map (·.page)).eraseDups

/-- EVENT_RECORD_WRITE: the arbiter grants the `i`-th of the records that wait, where it is the first of its page and
the page's turn (R58). -/
def eventWrite (i : Nat) (s : State) : State :=
  match s.ev.waiting[i]? with
  | none => s
  | some r =>
    if (s.ev.waiting.take i).any (fun x => x.page == r.page) || !mayGrant s.ev.turns s.evPages r.page then s
    else
      let rest := dropAt s.ev.waiting i
      let left := (rest.map (·.page)).eraseDups
      grantRec r { s with ev := { s.ev with
        waiting := rest, turns := (granted s.ev.turns s.evPages r.page).filter (fun t => left.contains t.1) } }

/-! ## EVQ registers (R120, R121) -/

/-- Does the page hold an EVQ set? -/
def hasEvq (pg : Nat) : Bool := pg == pHIF || pg == pMGT || (decide (0x11 ≤ pg) && decide (pg < 0x19))

/-- The pair EVQ_BASE as it would stand: a device tier needs address bits [63:48] zero. -/
def evqPairOk (pg lo hi : Nat) : Bool :=
  let sp := bits lo 1 0
  (sp != 3 || pg == pMGT) && (sp == 0 || sp == 3 || bits hi 31 16 == 0)

/-- EVQ_BASE_LO. -/
def wrEvqLo (m pg v : Nat) (s : State) : State :=
  checkedWrite m pg R.EVQ_BASE_LO v (fun s => evqPairOk pg v (s.w pg R.EVQ_BASE_HI))
    (fun s => !s.evqOn pg || v == s.w pg R.EVQ_BASE_LO) (fun s => s.setW pg R.EVQ_BASE_LO v) s

/-- EVQ_BASE_HI. -/
def wrEvqHi (m pg v : Nat) (s : State) : State :=
  checkedWrite m pg R.EVQ_BASE_HI v (fun s => evqPairOk pg (s.w pg R.EVQ_BASE_LO) v)
    (fun s => !s.evqOn pg || v == s.w pg R.EVQ_BASE_HI) (fun s => s.setW pg R.EVQ_BASE_HI v) s

/-- R121: does a ring of 2^n records lie in memory of its owner?  Host memory is not checked; the management core's
SRAM, whose size the spec does not give, is all Tormal's. -/
def State.ringHeld (s : State) (pg n : Nat) : Bool :=
  let sp := s.f pg F.EVQ_BASE_LO_SPACE
  sp == 0 || sp == 3 && decide (s.evqBase pg + 32 * 2 ^ n ≤ Config.sramBytes) || sp != 3 && s.holds (ringOwner pg) (spaceTier sp) (s.evqBase pg) (32 * 2 ^ n)

/-- EVQ_CTL: EN set checks the ring and zeroes PROD, CONS and LOST.  A RING_LOST record still owed is then forgotten
with the losses LOST counted (DESIGN CHOICE, log entry 78: R117 does not say). -/
def wrEvqCtl (m pg v : Nat) (s : State) : State :=
  checkedWrite m pg R.EVQ_CTL v (fun _ => decide (6 ≤ bits v 12 8) && decide (bits v 12 8 ≤ 16))
    (fun s => !(s.evqOn pg && changes pg F.EVQ_CTL_LOG2N v s))
    (fun s =>
      let rise := bit v 0 && !s.evqOn pg
      if rise && !s.ringHeld pg (bits v 12 8) then refuse m pg R.EVQ_CTL 0x02 s
      else
        let s := s.setW pg R.EVQ_CTL (merged pg R.EVQ_CTL v s)
        if rise then
          let s := ((s.setW pg R.EVQ_PROD 0).setW pg R.EVQ_CONS 0).setW pg R.EVQ_LOST 0
          { s with ev := { s.ev with owed := SMap.put s.ev.owed (ringOwner pg) 0 0 } }
        else s) s

/-- EVQ_CONS: a value from the present CONS to PROD, while EN is 1. -/
def wrEvqCons (m pg v : Nat) (s : State) : State :=
  checkedWrite m pg R.EVQ_CONS v
    (fun s => decide ((v + 2 ^ 32 - s.w pg R.EVQ_CONS) % 2 ^ 32 ≤ s.evqUsed pg))
    (fun s => s.evqOn pg) (fun s => s.setW pg R.EVQ_CONS v) s

/-! ## Meanings -/

/-- EVENT_RECORD_WRITE. -/
def execEventRecordWrite (i : Nat) (s : State) : Host.Outcome State Fault Refusal :=
  run (match s.ev.waiting[i]? with | some r => (match r.sig with | some x => [pSCH x.1] | none => []) | none => []) s (settle [] (eventWrite i))
/-- RING_LOST. -/
def execRingLost (o : Nat) (s : State) : Host.Outcome State Fault Refusal :=
  whenOk (okOwner o) s <| runErr [] [] s (ringLost o)
/-- EVQ_ENABLE: a write to EVQ_CTL. -/
def execEvqEnable (m pg v : Nat) (s : State) : Host.Outcome State Fault Refusal :=
  whenOk (okMaster m && okPage pg && okWord v) s <|
  run [] s fun s => if hasEvq pg then wrEvqCtl m pg (v % 2 ^ 32) s else s
/-- EVQ_CONS_WRITE. -/
def execEvqConsWrite (m pg v : Nat) (s : State) : Host.Outcome State Fault Refusal :=
  whenOk (okMaster m && okPage pg && okWord v) s <|
  run [] s fun s => if hasEvq pg then wrEvqCons m pg (v % 2 ^ 32) s else s
/-- MSIX_UNMASK. -/
def execMsixUnmask (fn : Nat) (x : MsixSet) (s : State) : Host.Outcome State Fault Refusal :=
  whenOk (below 9 fn && okMsix x) s <| run [] s (unmask fn x)

end Sys2Proof.Machine
end

