-- ==== Sys2Proof/Machine/Prt.lean ====
section
/-! DEFINITION.  Partitions: keys and key slots, assignment of units, ENABLE, and the partition reset
sequence of Table 04-4 (R124 to R162, R189 to R191, R265, R491, R515, R526, R625, R636, R742). -/

namespace Sys2Proof.Machine

/-! ## Keys (R146 to R151) -/

/-- The lowest-numbered FREE slot. -/
def State.freeSlot (s : State) : Option Nat := (List.range 16).find? (fun n => (s.keySlot n).st == .free)

/-- The owner's ACTIVE slot. -/
def State.activeSlot (s : State) (o : Nat) : Option Nat :=
  (List.range 16).find? (fun n => (s.keySlot n).st == .active && (s.keySlot n).owner == o)

/-- The owner's DRAINING slot. -/
def State.drainSlot (s : State) (o : Nat) : Option Nat :=
  (List.range 16).find? (fun n => (s.keySlot n).st == .draining && (s.keySlot n).owner == o)

/-- The serial of a fresh key is used up. -/
def keyMade (s : State) : State := { s with prt := { s.prt with nextKey := s.prt.nextKey + 1 } }

/-- R147: a key is bound to an owner. -/
def bindKey (o : Nat) (s : State) : State :=
  match s.freeSlot with
  | none => s
  | some n =>
    let g := (SMap.get s.prt.gens o 0 + 1) % 2 ^ 16
    let s := { s with prt := { s.prt with gens := SMap.put s.prt.gens o g 0 } }
    keyMade (s.setKeySlot n { st := .active, owner := o, gen := g, key := s.prt.nextKey })

/-- R148: the owner's key is retired: overwritten with a value held nowhere else. -/
def retireKey (o : Nat) (s : State) : State :=
  match s.activeSlot o with
  | none => s
  | some n => keyMade (s.setKeySlot n { s.keySlot n with st := .draining, key := s.prt.nextKey })

/-- Does a core hold an entry that carries a key slot? -/
def Core.carries (k : Core) (n : Nat) : Bool :=
  k.tqs.any (fun t => t.2.reqs.any (fun r => r.slot == n)) || k.gth.reqs.any (fun r => r.slot == n) ||
    k.pld.any (fun x => x.2 == n)

/-- KEY_SLOT_FREE (R149): no entry carries the DRAINING slot any longer.  A partition's slot is freed by
step 8 of its reset. -/
def keySlotFree (n : Nat) (s : State) : State :=
  let k := s.keySlot n
  if k.st == .draining && !(decide (k.owner < 8) && (s.part k.owner).st == .resetting) && !s.cores.any (fun e => e.2.carries n) then
    s.setKeySlot n {}
  else s

/-- SEC_STS.RNG_FAULT (R154). -/
def State.rngFault (s : State) : Bool := s.f pSEC F.SEC_STS_RNG_FAULT == 1

/-- A write to SEC_CMD (R151, R154, R155). -/
def wrSecCmd (m v : Nat) (s : State) : State :=
  checkedWrite m pSEC R.SEC_CMD v (fun _ => bits v 3 0 == 1) (fun s => !s.rngFault && s.freeSlot.isSome)
    (fun s => bindKey oTormal (retireKey oTormal s)) s

/-- RNG_FAULT (R154). -/
def rngFails (s : State) : State :=
  if s.rngFault then s else logErr pSEC 0x07 (s.defSubj pSEC) 0 0 (s.setF pSEC F.SEC_STS_RNG_FAULT 1)

/-! ## Units -/

/-- The units of a range, as unit numbers. -/
def rangeUnits (first count : Nat) : List Nat := (List.range count).map (· + first)

/-- The pages a cluster or link unit brings with it (Table 04-2, R125). -/
def State.unitPages (s : State) (res u : Nat) : List Nat :=
  if res = resClu then pCLU u :: (s.slotsOfClu u).map pCORE else if res = resLnk then [pLNK u] else []

/-- The units of a type set to a holder. -/
def setHolders (res : Nat) (us : List Nat) (o : Option Nat) (s : State) : State :=
  { s with prt := { s.prt with holder := us.foldl (fun h u => SMap.put h (res * 4096 + u) o none) s.prt.holder } }

/-- Lies the far unit within the expander on its port (04, Limits)? -/
def State.farFits (s : State) (u : Nat) : Bool := decide (u % 512 < s.f (pgOf .fsc (u / 512)) F.FSC_CAP_CAP4G)

/-- Table 04-3, ASSIGN. -/
def State.assignPre (s : State) (o res : Nat) (us : List Nat) : Bool :=
  us.all (fun u => s.holderOf res u == none && (s.unitPages res u).all (fun pg => s.ownerOf pg == none) &&
    (res != resFar || s.farFits u)) &&
  !(decide (o < 8) && (s.part o).st == .resetting)

/-- Table 04-3, UNASSIGN. -/
def State.unassignPre (s : State) (o res : Nat) (us : List Nat) : Bool :=
  us.all (fun u => s.holderOf res u == some o) &&
  !(decide (o < 8) && (s.part o).st == .resetting) &&
  (!(res == resClu || res == resLnk) || (s.part o).st == .free || us.all (fun u => (s.unitPages res u).all s.held))

/-- The claims on a page end, and it is soft-reset (R132, step 8 of Table 04-4). -/
def clearPage (pg : Nat) (s : State) : State := forceReset pg 0x16 (releasePage pg s)

/-- R132, R133: a cluster or link leaves its holder. -/
def dropUnit (res u : Nat) (s : State) : State :=
  let s := forEach clearPage (s.unitPages res u) s
  if res = resClu then zeroClu u s else s

/-- The unit of a granule: type and number. -/
def granUnit (tier g : Nat) : Nat := (tierUnit tier (g * 2 ^ 21)).1 * 4096 + (tierUnit tier (g * 2 ^ 21)).2

/-- R190: an allocation with a granule in one of the units is REVOKED. -/
def Alloc.revoke (us : List Nat) (a : Alloc) : Alloc :=
  let hit := us.filter (fun u => !a.gone.contains u && a.exts.any (fun x =>
    (unitsTouched x.tier (x.start * 2 ^ 21) (x.len * 2 ^ 21)).any (fun t => t.1 * 4096 + t.2 == u)))
  if hit.isEmpty then a else { a with revoked := true, gone := a.gone ++ hit }

/-- R190, in every allocation of a partition. -/
def revokeAll (o : Nat) (us : List Nat) (s : State) : State :=
  if o < 8 then s.setAl o { s.al o with live := (s.al o).live.map (fun e => (e.1, e.2.map (Alloc.revoke us))) } else s

/-- PRT_STS.BUSY returns to 0 in the grant that set it (R137). -/
def prtBusyEnd (s : State) : State := pendSet pPRT 24 (s.setF pPRT F.PRT_STS_BUSY 0)

/-- ASSIGN and UNASSIGN take effect. -/
def assign (o res : Nat) (us : List Nat) (s : State) : State := prtBusyEnd (setHolders res us (some o) s)

def unassign (o res first count : Nat) (s : State) : State :=
  if res = resClu ∨ res = resLnk then
    prtBusyEnd (setHolders res (rangeUnits first count) none (forEach (dropUnit res) (rangeUnits first count) s))
  else
    { s with prt := { s.prt with unassign := some { owner := o, res := res, first := first, count := count, iss := s.issue pPRT } } }
      |> fun s => s.setF pPRT F.PRT_STS_BUSY 1

/-- UNASSIGN_APPLIED (R134, and 04 "When it goes wrong"): every controller of the units has applied the
change; or one has not within PG_TMO_NS, and the units stay with their holder. -/
def unassignApplied (ok : Bool) (s : State) : State :=
  match s.prt.unassign with
  | none => s
  | some c =>
    let us := rangeUnits c.first c.count
    let t := { s with prt := { s.prt with unassign := none } }
    if s.overdue pPRT c.iss || (!ok && s.expired pPRT c.iss) then prtBusyEnd (logErr pPRT 0x03 c.owner 0 0 t)
    else if ok then prtBusyEnd (revokeAll c.owner (us.map (fun u => c.res * 4096 + u)) (setHolders c.res us none t))
    else s

/-! ## Partition reset (Table 04-4) -/

/-- The core slots of a partition. -/
def State.partCores (s : State) (p : Nat) : List Nat := (s.unitsOf resClu p).flatMap s.slotsOfClu

/-- R625: DISABLE clears EN of the partition's host windows. -/
def windowsOff (p : Nat) (s : State) : State :=
  forUp (fun i s =>
    if s.f pHIF (F.HIF_WIN_CTL_OWNER.at 16 i) = p then s.setF pHIF (F.HIF_WIN_CTL_EN.at 16 i) 0 else s) 16 0 s

/-- Operations of a partition that an engine of a kind holds. -/
def State.heldBy (s : State) (p : Nat) (q : Exec → Bool) : List Nat :=
  ((s.sc p).slots.filter (fun e => e.2.st == .running && e.2.exec.any q)).map (·.1)

/-- An operation has left its engine; its slot is discarded at step 8. -/
def leaveExec (p n : Nat) (s : State) : State := s.setSlot p n { s.slot p n with exec := none }

/-- The token engines' operations of a partition are discarded. -/
def purgeTokOps (p : Nat) (s : State) : State :=
  let s := forUp (fun e s => s.setEng e { s.eng e with held := (s.eng e).held.filter (fun x => x.1 != p), after := (s.eng e).after.filter (fun x => x.part != p) }) 4 0 s
  forEach (leaveExec p) (s.heldBy p (fun e => match e with | .token _ => true | _ => false)) s

/-- The migration engines' operations of a partition that satisfy `q` are discarded. -/
def purgeMig (p : Nat) (q : MigOp → Bool) (s : State) : State :=
  forEach (fun n s => if q (s.mop p n) then leaveExec p n (s.setMop p n {}) else s)
    (s.heldBy p (fun e => match e with | .mig _ => true | _ => false)) s

/-- R526: a pause, capture or restore of the partition is abandoned.  The spec states no code for the
command that ends so: it is free. -/
def purgeCkp (p : Nat) (s : State) : State :=
  let s := match s.ckp.run with
    | some r => if r.part = p then ckpEnd r (s.free 8) s.drawn else s
    | none => s
  let s := s.setSc p { s.sc p with frozen := false }
  unpause p s

/-- The token engines' areas of a partition are zeroed; the assignments stay (R491, R515). -/
def zeroTok (p : Nat) (s : State) : State :=
  forUp (fun e s =>
    let v := s.eng e
    s.setEng e { v with
      streams := v.streams.filterMap (fun x => if x.2.owner ≠ p then some x else if p = 0 then none else some (x.1, { owner := p }))
      slots := v.slots.filterMap (fun x =>
        let k : VSlot := { owner := x.2.owner, size := x.2.size, base := x.2.base }
        if x.2.owner ≠ p then some x else if k = {} then none else some (x.1, k))
      stops := v.stops.filterMap (fun x => if x.2.owner ≠ p then some x else if p = 0 then none else some (x.1, { owner := p })) }) 4 0 s

/-- A core's requests at the controllers are abandoned. -/
def dropReqs (c : Nat) (s : State) : State :=
  let k := s.core c
  s.setCore c { k with
    tqs := k.tqs.foldl (fun m t => SMap.put m t.1 { t.2 with reqs := [] } {}) []
    gth := { k.gth with reqs := [] } }

/-- Steps 4 to 6: what an engine class loses of the partition when it reaches zero entries. -/
def purge (p cls : Nat) (s : State) : State :=
  match cls with
  | 0 => forUp (fun q s => s.setQp p q { s.qp p q with open_ := 0, waiting := [] }) 4 0 s
  | 1 => pump (forEach quarantine (s.tagsWhere (fun r => r.part == p)) s)
  | 2 => zeroTok p (purgeTokOps p s)
  | 3 => purgeCkp p s
  | 4 => purgeMig p (fun _ => true) s
  | 5 => s
  | 6 => forEach dropReqs (s.partCores p) s
  | _ => forEach (fun c s => coreDrop c false s) (s.partCores p) s

/-- Step 4: what the shared engines had not started; a pause is abandoned (R526); completions not yet written are
never delivered (R158). -/
def dropUnstarted (p : Nat) (s : State) : State :=
  let s := dropQueued p s
  let s := forUp (fun q s => s.setQp p q { s.qp p q with open_ := (s.qp p q).open_ - (s.qp p q).waiting.length, waiting := [] }) 4 0 s
  let s := inReset p (s.setSc p { s.sc p with cmdQ := [], loads := [], succs := [] })
  let s := purgeMig p (fun o => !o.started) (purgeTokOps p s)
  let s := match s.ckp.run with
    | some r =>
      if r.part = p ∧ (r.ph = CkpPh.capturing ∨ r.ph = CkpPh.restoring ∨ r.ph = CkpPh.draining ∨ r.ph = CkpPh.domain) then s else purgeCkp p s
    | none => purgeCkp p s
  { s with fab := { s.fab with wait := s.fab.wait.filter (fun o => o.part != p) } }

/-- Steps 1 to 4 of Table 04-4. -/
def startPrtReset (p : Nat) (toFree : Bool) (s : State) : State :=
  let r : ResetSeq := { toFree := toFree, eng := 0xFF, since := s.now, tmo := s.f pPRT F.PRT_RST_TMO_TMO }
  let s := s.setPart p { st := .resetting, rst := some r }
  let s := dropUnstarted p (retireKey p s)
  let s := debugEnd p s
  if toFree then windowsOff p s else s

/-- RESET_ENGINE_CLEAR (step 6). -/
def engineClear (p cls : Nat) (s : State) : State :=
  match (s.part p).rst with
  | some r =>
    if cls < 8 ∧ bit r.eng cls = true then (purge p cls s).setPart p { s.part p with rst := some { r with eng := r.eng - 2 ^ cls } }
    else s
  | none => s

/-- The pages of the engines of a class that still hold entries of the partition (step 7). -/
def State.stuckPages (s : State) (p cls : Nat) : List Nat :=
  match cls with
  | 0 => if (List.range 4).any (fun q => (s.qp p q).open_ != 0) then [pHIF] else []
  | 1 => ((s.tagsWhere (fun r => r.part == p)).filterMap (fun t => (s.tagReq t).map (fun r => pLNK r.link))).eraseDups
  | 2 => ((List.range 4).filter (fun e => (s.tokHeld e).any (fun x => x.1 == p) ||
      (s.eng e).slots.any (fun x => x.2.owner == p && x.2.busy) || (s.eng e).stops.any (fun x => x.2.owner == p && x.2.busy))).map pTOK
  | 3 => if s.ckp.run.any (fun r => r.part == p) then [pCKP 0, pCKP 1] else []
  | 4 => ((List.range 2).filter (fun d => (s.migHeld d).any (fun x => x.1 == p))).map pMIG
  | 6 => ((s.partCores p).flatMap (fun c =>
      (s.core c).tqs.flatMap (fun t => t.2.reqs.filterMap (fun r => if r.tier = 0 then none else some (tierCtl r.tier r.addr))) ++
      (s.core c).gth.reqs.filterMap (fun r => if r.tier = 0 then none else some (tierCtl r.tier r.addr)))).eraseDups
  | 7 => ((s.partCores p).filter (fun c => (s.core c).op.isSome)).map pCORE
  | _ => []

/-- The engine classes of an ENG byte. -/
def classesOf (eng : Nat) : List Nat := (List.range 8).filter (bit eng)

/-- PRT_RST_TMO_EXPIRY (step 7, R159): the engines that still hold entries are forced through a soft
reset, and the work of other partitions in them faults with 0x0F. -/
def rstTmo (p : Nat) (s : State) : State :=
  match (s.part p).rst with
  | some r =>
    if r.eng ≠ 0 ∧ r.since + r.tmo * 1000 ≤ s.now then
      let pgs := (classesOf r.eng).flatMap (s.stuckPages p)
      let s := forEach (purge p) (classesOf r.eng) s
      let s := logErr pPRT 0x0F p 0 0 s
      let s := forEach (fun pg s => logErr pg 0x0F p 0 0 (forceReset pg 0x0F s)) pgs s
      s.setPart p { s.part p with rst := some { r with eng := 0 } }
    else s
  | none => s

/-- The pages of a partition: those of its clusters, cores and links, and its SCH page. -/
def State.partPages (s : State) (p : Nat) : List Nat :=
  (s.unitsOf resClu p).flatMap (s.unitPages resClu) ++ (s.unitsOf resLnk p).map pLNK ++ [pSCH p]

/-- Every claim of an owner is released. -/
def releaseAll (o : Nat) (s : State) : State :=
  forEach releasePage ((s.regs.filter (fun e => e.1 % 4096 == R.PG_OWNER && e.2.toNat == 2 ^ 31 + o)).map (fun e => e.1 / 4096)) s

/-- Steps 8 and 9 of Table 04-4 (R154, R157, R191, R526): while no key can be made, the sequence ends as DISABLE
does. -/
def resetEnd (p : Nat) (toFree0 : Bool) (s : State) : State :=
  let toFree := toFree0 || s.rngFault
  let s := if toFree then windowsOff p s else s
  let s := s.setSc p {}
  let s := s.setAl p { s.al p with live := [], fxrOn := [], record := none }
  let s := forEach (fun pg => forceReset pg 0x16) (s.partPages p) s
  let s := forEach zeroClu (s.unitsOf resClu p) (releaseAll p s)
  let s := match s.drainSlot p with
    | some n => s.setKeySlot n {}
    | none => s
  let s := unpause p s
  let s := { s with fab := { s.fab with lmap := if toFree then s.fab.lmap.drop (fun k => k / 4096 == p) else s.fab.lmap } }
  let s :=
    if s.rngFault then logErr pPRT 0x07 p 0 0 (s.setPart p { st := .free })
    else if toFree then s.setPart p { st := .free }
    else bindKey p (s.setPart p { st := .enabled })
  pendSet pPRT (16 + p) s

/-- A substitution of one of the partition's cores is in progress (R265); one of another partition's cores holds up
no other reset (R161, R163). -/
def State.csubOf (s : State) (p : Nat) : Bool :=
  s.router.busy.any fun x => (s.cluOf (256 * x.1 + x.2.1)).bind (s.holderOf resClu) == some p

/-- RESET_FINISH: ENG is 0, and no substitution of a core of the partition is in progress (R265). -/
def resetFinish (p : Nat) (s : State) : State :=
  match (s.part p).rst with
  | some r => if r.eng = 0 ∧ s.csubOf p = false then resetEnd p r.toFree s else s
  | none => s

/-! ## The PRT commands -/

/-- Table 04-3, ENABLE, with R154, R155 and 20's Tables 20-5 and 20-8. -/
def State.enablePre (s : State) (p : Nat) : Bool :=
  (s.part p).st == .free && s.freeSlot.isSome && !s.rngFault && s.glbState != 0 && s.f pFW F.FW_STS_LIFE != 3

/-- PRT_CMD_LO. -/
def wrPrtCmdLo (m v : Nat) (s : State) : State := plainWrite m pPRT R.PRT_CMD_LO v (fun _ => true) (fun _ => true) s

/-- The range checks of a PRT command. -/
def prtArgsOk (op part res first count : Nat) : Bool :=
  decide (1 ≤ op) && decide (op ≤ 5) && decide (res ≤ 4) &&
    (decide (part < 8) || (part == oTormal && op ≤ 2 && decide (1 ≤ res) && decide (res ≤ 3))) &&
    (decide (3 ≤ op) || (decide (1 ≤ count) && decide (count ≤ 2048) && decide (first + count ≤ resCount res)))

/-- The precondition of a PRT command (Table 04-3, R128, R137, R154, R155, R160). -/
def State.prtPre (s : State) (op part res first count : Nat) : Bool :=
  s.f pPRT F.PRT_STS_BUSY == 0 &&
  match op with
  | 1 => s.assignPre part res (rangeUnits first count)
  | 2 => s.unassignPre part res (rangeUnits first count)
  | 3 => s.enablePre part
  | _ => s.enabled part && !s.rngFault

/-- The effect of a PRT command. -/
def prtCommand (op part res first count : Nat) (s : State) : State :=
  match op with
  | 1 => assign part res (rangeUnits first count) s
  | 2 => unassign part res first count s
  | 3 => prtBusyEnd (bindKey part (s.setPart part { st := .enabled }))
  | 4 => prtBusyEnd (startPrtReset part false s)
  | _ => prtBusyEnd (startPrtReset part true s)

/-- A write to PRT_CMD_HI issues a command with the arguments in PRT_CMD_LO. -/
def wrPrtCmdHi (m v : Nat) (s : State) : State :=
  let op := bits v 3 0
  let part := bits v 15 12
  let res := bits v 10 8
  let first := s.f pPRT F.PRT_CMD_LO_FIRST
  let count := s.f pPRT F.PRT_CMD_LO_COUNT
  checkedWrite m pPRT R.PRT_CMD_HI v (fun _ => prtArgsOk op part res first count)
    (fun s => s.prtPre op part res first count) (prtCommand op part res first count) s

/-- A 64-bit write at PRT_CMD_LO (R77). -/
def prtWrite (m op part res first count : Nat) (s : State) : State :=
  wrPrtCmdHi m (op + res % 8 * 2 ^ 8 + part % 16 * 2 ^ 12) (wrPrtCmdLo m (first % 2 ^ 16 + count % 2 ^ 16 * 2 ^ 16) s)

/-! ## SR-IOV (R138 to R140, R636) -/

/-- VF_FLR of VF p + 1 (R139, R154, R158, R636). -/
def vfFlr (p : Nat) (s : State) : State :=
  if p < 8 then
    let s := { s with hif := { s.hif with
      qps := s.hif.qps.drop (fun k => k / 4 == p)
      msix := SMap.put s.hif.msix (p + 1) {} {} } }
    if s.enabled p then startPrtReset p false s else s
  else s

/-- Every virtual function goes: its queue pairs and its messages are reset as PCIe defines. -/
def vfsGone (s : State) : State :=
  { s with hif := { s.hif with qps := [], msix := s.hif.msix.drop (fun f => f != 0) } }

/-- R140: VF Enable goes from 1 to 0. -/
def vfOff (s : State) : State :=
  if s.hif.vfEn then
    let s := vfsGone { s with hif := { s.hif with vfEn := false } }
    forUp (fun p s => if s.enabled p then startPrtReset p true s else s) 8 0 s
  else s

/-- A host write of VF Enable. -/
def vfEnable (en : Bool) (s : State) : State :=
  if en then { s with hif := { s.hif with vfEn := true } } else vfOff s

/-! ## Meanings -/

/-- The pages whose block events a partition's change touches. -/
abbrev prtPages (p : Nat) : List Nat := [pPRT, pSCH p, pSEC]

/-- ASSIGN. -/
def execAssign (m part res first count : Nat) (s : State) : Host.Outcome State Fault Refusal :=
  whenOk (okMaster m && below 16 part && below 8 res && below (2 ^ 16) first && below (2 ^ 16) count) s <|
  run [] s (prtWrite m 1 part res first count)
/-- UNASSIGN. -/
def execUnassign (m part res first count : Nat) (s : State) : Host.Outcome State Fault Refusal :=
  whenOk (okMaster m && below 16 part && below 8 res && below (2 ^ 16) first && below (2 ^ 16) count) s <|
  run [] s (prtWrite m 2 part res first count)
/-- UNASSIGN_APPLIED. -/
def execUnassignApplied (ok : Bool) (s : State) : Host.Outcome State Fault Refusal := run [] s (unassignApplied ok)
/-- ENABLE. -/
def execEnable (m part : Nat) (s : State) : Host.Outcome State Fault Refusal :=
  whenOk (okMaster m && below 16 part) s <| run [pSEC] s (prtWrite m 3 part 0 0 0)
/-- RESET. -/
def execReset (m part : Nat) (s : State) : Host.Outcome State Fault Refusal :=
  whenOk (okMaster m && below 16 part) s <| run [] s (prtWrite m 4 part 0 0 0)
/-- DISABLE. -/
def execDisable (m part : Nat) (s : State) : Host.Outcome State Fault Refusal :=
  whenOk (okMaster m && below 16 part) s <| run [] s (prtWrite m 5 part 0 0 0)
/-- RESET_ENGINE_CLEAR. -/
def execResetEngineClear (part cls : Nat) (s : State) : Host.Outcome State Fault Refusal :=
  whenOk (okPart part && below 8 cls) s <| run [] s (engineClear part cls)
/-- PRT_RST_TMO_EXPIRY. -/
def execPrtRstTmoExpiry (part : Nat) (s : State) : Host.Outcome State Fault Refusal :=
  whenOk (okPart part) s <| run [] s (rstTmo part)
/-- RESET_FINISH. -/
def execResetFinish (part : Nat) (s : State) : Host.Outcome State Fault Refusal :=
  whenOk (okPart part) s <| run [pSEC, pSCH part] s (resetFinish part)
/-- KEY_SLOT_FREE. -/
def execKeySlotFree (slot : Nat) (s : State) : Host.Outcome State Fault Refusal :=
  whenOk (below 16 slot) s <| run [pSEC] s (keySlotFree slot)
/-- VF_FLR. -/
def execVfFlr (part : Nat) (s : State) : Host.Outcome State Fault Refusal :=
  whenOk (okPart part) s <| run [] s (vfFlr part)
/-- VF_ENABLE_CLEAR: a write of the PF's VF Enable bit. -/
def execVfEnableClear (en : Bool) (s : State) : Host.Outcome State Fault Refusal := run [] s (vfEnable en)
/-- ROTATE_MGT. -/
def execRotateMgt (m : Nat) (s : State) : Host.Outcome State Fault Refusal :=
  whenOk (okMaster m) s <| run [pSEC] s (wrSecCmd m 1)
/-- RNG_FAULT. -/
def execRngFault (s : State) : Host.Outcome State Fault Refusal := run [] s rngFails

end Sys2Proof.Machine
end

