-- ==== Sys2Proof/Machine/Tiers.lean ====
section
/-! DEFINITION.  Requests at a memory controller, the share windows, the tier allocator and the FX64
regions (R173 to R193, R208 to R210). -/

namespace Sys2Proof.Machine

/-! ## Requests at a controller -/

/-- MEM_READ: a read of owner `own`, issued by page `iss`.  A request whose class has used up its share,
or whose controller is held, waits (R95, R174). -/
def ctlRead (own iss tier addr len : Nat) (rmt : Bool) (s : State) : State :=
  if s.accessCode own tier addr len = 0x12 ∨ s.accessCode own tier addr len = 0 ∧ s.shareOk tier addr len (reqClass false rmt) = false then s
  else
    let r := memRead iss (s.access own) tier addr len rmt s
    r.2.2.emit (.readData own (dataOf r.2.1) (anyMark r.2.1) r.1)

/-- MEM_WRITE. -/
def ctlWrite (own iss tier addr : Nat) (data : List Byte) (pois rmt : Bool) (s : State) : State :=
  if data = [] ∨ s.accessCode own tier addr data.length = 0x12 ∨
      s.accessCode own tier addr data.length = 0 ∧ s.shareOk tier addr data.length (reqClass true rmt) = false then s
  else
    let r := memWrite iss (s.access own) tier addr (data.map (·, pois)) rmt s
    if r.1 = 0x06 then logErr iss 0x06 own (lineDetail tier addr) 0 r.2 else r.2

/-- MEM_ATOMIC: a malformed request is refused before it waits for anything (R198); the prior values go back when
asked for, and always for CAS (R198, R202). -/
def ctlAtomic (own iss tier addr code : Nat) (lanes : List (Nat × Nat)) (rmt ret : Bool) (s : State) : State :=
  if atomicOk addr code lanes = true ∧ (s.accessCode own tier addr 64 = 0x12 ∨
      s.accessCode own tier addr 64 = 0 ∧ s.shareOk tier addr 64 (reqClass true rmt) 2 = false) then s
  else
    let r := memAtomic iss (s.access own) tier addr code lanes rmt s
    let s := if r.1 = 0x06 then logErr iss 0x06 own (lineDetail tier addr) 0 r.2.2 else r.2.2
    if ret || code == 0x18 then s.emit (.readData own (r.2.1.flatMap (leBytes (atomicSize code))) false r.1) else s

/-- The tier a controller page serves; 0 where it is none. -/
def ctlTier (pg : Nat) : Nat :=
  match pageInfo pg with
  | some (.nsc, _) => 1
  | some (.msc, _) => 2
  | some (.fsc, _) => 3
  | _ => 0

/-- What a class carries into the next window: its remaining charge, and what the new window has used
already (R174). -/
def carryOver (cap cap' used debt : Nat) : Nat × Nat :=
  let owed := debt + (used - cap)
  (owed - cap', min owed cap')

/-- SHARE_WINDOW: 1 µs after the present window began, a new one begins, and a written SHARE takes effect (R174,
R176). -/
def shareWindow (pg : Nat) (s : State) : State :=
  let tier := ctlTier pg
  let c := s.ctl pg
  let now := s.nowOn (dieOfPage pg)
  if tier = 0 ∨ now < c.winAt + 1000 then s else
  let s' := s.setCtl pg { c with share := s.w pg R.MC_SHARE, winAt := now }
  forUp (fun cls t =>
    let k := t.ctl pg
    let x := if bit c.share 31 then
        carryOver (s.shareCap tier pg cls) (s'.shareCap tier pg cls) (SMap.get c.used cls 0) (SMap.get c.debt cls 0)
      else (0, 0)
    t.setCtl pg { k with debt := SMap.put k.debt cls x.1 0, used := SMap.put k.used cls x.2 0 }) 3 0 s'

/-- NSC_SHARE, MSC_SHARE, FSC_SHARE (R175). -/
def wrShare (m pg v : Nat) (s : State) : State :=
  let ok (x : Nat) : Bool := decide (1 ≤ x) && decide (x ≤ 14)
  plainWrite m pg R.MC_SHARE v
    (fun _ => ok (bits v 4 0) && ok (bits v 9 5) && ok (bits v 14 10) && bits v 4 0 + bits v 9 5 + bits v 14 10 == 16)
    (fun _ => true) s

/-! ## Free maps (R177, R178, R188 to R190): runs of 2 MiB granules -/

/-- A run of granules: start and length. -/
abbrev Runs := List (Nat × Nat)

/-- Runs in ascending order, merged where one directly follows another. -/
def mergeRuns : Runs → Runs
  | [] => []
  | (a, n) :: rs => match mergeRuns rs with
    | (b, k) :: ts => if a + n = b then (a, n + k) :: ts else (a, n) :: (b, k) :: ts
    | [] => [(a, n)]

/-- Runs without the granules of one run. -/
def cutRun (a n : Nat) (rs : Runs) : Runs :=
  rs.flatMap fun r =>
    let lo := (r.1, min r.2 (a - r.1))
    let hi := (max r.1 (a + n), (r.1 + r.2) - max r.1 (a + n))
    if r.1 + r.2 ≤ a ∨ a + n ≤ r.1 then [r] else [lo, hi].filter (fun x => x.2 != 0)

/-- Granules of one unit of a tier, and the granules a controller of the tier serves. -/
def unitGran : Nat → Nat
  | 1 => 128 | 2 => 512 | _ => 2048
def ctlGran : Nat → Nat
  | 1 => 128 | 2 => 18432 | _ => 1048576

/-- Controllers of a tier, and those of one die. -/
def ctlCount : Nat → Nat
  | 1 => 128 | 2 => 8 | _ => 4
def ctlOnDie (tier die i : Nat) : Bool := decide (2 ≤ die) || i / (ctlCount tier / 2) == die

/-- The granules an allocation holds in a tier: those of its extents whose units are not gone. -/
def Alloc.runs (a : Alloc) (tier : Nat) : Runs :=
  a.exts.flatMap fun x =>
    if x.tier = tier then
      a.gone.foldl (fun rs u => if u / 4096 = tier then cutRun (u % 4096 * unitGran tier) (unitGran tier) rs else rs) [(x.start, x.len)]
    else []

/-- The free granules of a partition at one controller of a tier. -/
def State.freeRuns (s : State) (p tier ctl : Nat) : Runs :=
  let per := ctlGran tier / unitGran tier
  let units := (s.unitsOf tier p).filter (fun u => u / per == ctl)
  let mine := mergeRuns (units.map (fun u => (u * unitGran tier, unitGran tier)))
  (s.allocs p).foldl (fun rs x => (x.2.runs tier).foldl (fun rs r => cutRun r.1 r.2 rs) rs) mine

/-- Granules in runs. -/
def granIn (rs : Runs) : Nat := rs.foldl (fun a r => a + r.2) 0

/-- The free runs of the controllers of a tier that DIE allows, in ascending order. -/
def State.freeCtls (s : State) (p tier die : Nat) : List Runs :=
  ((List.range (ctlCount tier)).filter (ctlOnDie tier die)).map (s.freeRuns p tier)

/-- F of R180: free granules of a tier under the DIE filter. -/
def State.freeGran (s : State) (p tier die : Nat) : Nat := (s.freeCtls p tier die).foldl (fun a r => a + granIn r) 0

/-! ## Placement (R183) -/

/-- The largest run, the lowest on a tie. -/
def largest : Runs → Option (Nat × Nat)
  | [] => none
  | r :: rs => match largest rs with
    | none => some r
    | some x => if x.2 ≤ r.2 then some r else some x

/-- An extent joins the list, merged into the last one where it directly follows it on its controller. -/
def appendExt (tier start len : Nat) (xs : List (Nat × Nat × Nat)) : List (Nat × Nat × Nat) :=
  match xs.getLast? with
  | some (t, a, n) =>
    if t = tier ∧ a + n = start ∧ a / ctlGran tier = start / ctlGran tier then xs.dropLast ++ [(t, a, n + len)]
    else xs ++ [(tier, start, len)]
  | none => xs ++ [(tier, start, len)]

/-- One visit of every controller with a share: what is still needed, the extents, and the free runs. -/
def placeOnce (tier share : Nat) : List Runs → Nat → List (Nat × Nat × Nat) → Nat × List (Nat × Nat × Nat) × List Runs
  | [], need, xs => (need, xs, [])
  | c :: cs, need, xs =>
    match largest c with
    | none =>
      let r := placeOnce tier share cs need xs
      (r.1, r.2.1, c :: r.2.2)
    | some run =>
      let take := min (min share need) run.2
      if take = 0 then (need, xs, c :: cs)
      else
        let r := placeOnce tier share cs (need - take) (appendExt tier run.1 take xs)
        (r.1, r.2.1, cutRun run.1 take c :: r.2.2)

/-- R183's procedure; every visit of the controllers that leaves a need uses up a run. -/
def place (tier : Nat) : Nat → Nat → List Runs → List (Nat × Nat × Nat) → List (Nat × Nat × Nat)
  | 0, _, _, xs => xs
  | fuel + 1, need, cs, xs =>
    let navail := (cs.filter (fun c => !c.isEmpty)).length
    if need = 0 ∨ navail = 0 then xs
    else
      let r := placeOnce tier (ceilDiv need navail) cs need xs
      place tier fuel r.1 r.2.2 r.2.1

/-- The extents that `n` granules of a tier take. -/
def State.placeIn (s : State) (p tier die n : Nat) (xs : List (Nat × Nat × Nat)) : List (Nat × Nat × Nat) :=
  let cs := s.freeCtls p tier die
  place tier (cs.foldl (fun a c => a + c.length) 2) n cs xs

/-! ## ALLOC, FREE and QUERY (R179 to R193) -/

/-- Table 05-5: a class's tiers, in order (0: none). -/
def classTiers : Nat → Nat × Nat
  | 0 => (1, 0) | 1 => (1, 2) | 2 => (2, 0) | 3 => (2, 3) | _ => (3, 2)

/-- Extents with their logical starts. -/
def withStarts : Nat → List (Nat × Nat × Nat) → List Extent
  | _, [] => []
  | l, (t, a, n) :: xs => { tier := t, start := a, len := n, lstart := l } :: withStarts (l + n) xs

/-- Table 05-6: an allocation record. -/
def allocRec (handle status cls die size first spill short1 short2 : Nat) (revoked : Bool) (xs : List Extent) : List Byte :=
  let ts := classTiers cls
  let used (t : Nat) : Nat := b2n (xs.any (fun x => x.tier == t))
  let short (t : Nat) : Nat := (if ts.1 = t then short1 else if ts.2 = t then short2 else 0) * 2 ^ 21
  leBytes 4 handle ++ leBytes 1 status ++ leBytes 1 cls ++ leBytes 1 die ++
    leBytes 1 (b2n (spill != 0) + 2 * b2n revoked + 4 * used 1 + 8 * used 2 + 16 * used 3) ++
    leBytes 2 xs.length ++ leBytes 6 0 ++ leBytes 8 (size * 2 ^ 21) ++ leBytes 8 (short 1) ++ leBytes 8 (short 2) ++
    leBytes 8 (short 3) ++ leBytes 8 (first * 2 ^ 21) ++ leBytes 8 (spill * 2 ^ 21) ++
    xs.flatMap (fun x => leBytes 6 (x.start * 2 ^ 21) ++ leBytes 1 x.tier ++ leBytes 1 0 ++ leBytes 4 x.len ++ leBytes 4 x.lstart)

/-- ALC_REC: tier and address. -/
def State.alcRec (s : State) (p : Nat) : Nat × Nat :=
  (s.f (pSCH p) F.ALC_REC_LO_TIER, s.f (pSCH p) F.ALC_REC_LO_ADDR * 64 + s.f (pSCH p) F.ALC_REC_HI_ADDR * 2 ^ 32)

/-- ALC_STS.RESULT of a completed command; BUSY returns to 0. -/
def alcResult (p code : Nat) (s : State) : State := (s.setF (pSCH p) F.ALC_STS_RESULT code).setF (pSCH p) F.ALC_STS_BUSY 0

/-- R186: the record is written at ALC_REC, and the command completes with `code`. Until the record's controllers
take the write, BUSY is 1. -/
def putRec (p : Nat) (bs : List Byte) (code : Nat) (s : State) : State :=
  let a := s.alcRec p
  if s.spanCode p a.1 a.2 bs.length = 0x12 then
    (s.setAl p { s.al p with record := some (bs, code) }).setF (pSCH p) F.ALC_STS_BUSY 1
  else
    let r := bulkWrite (pSCH p) 0 (s.access p) a.1 a.2 (plain bs) s
    let s := if r.1 = 0x06 then logErr (pSCH p) 0x06 p (lineDetail a.1 a.2) 0 r.2 else r.2
    alcResult p code (s.setAl p { s.al p with record := none })

/-- A record that waits is written once its controllers take it. -/
def recRetry (p : Nat) (s : State) : State :=
  match (s.al p).record with
  | some (bs, code) => if s.spanCode p (s.alcRec p).1 (s.alcRec p).2 bs.length = 0x12 then s else putRec p bs code s
  | none => s

/-- ALLOC (R179 to R184, R192). -/
def alloc (p cls die : Nat) (s : State) : State :=
  let al := s.al p
  let n := s.f (pSCH p) F.ALC_SIZE_GRAN
  let ts := classTiers cls
  let short1 := n - s.freeGran p ts.1 die
  let short2 := if ts.2 = 0 then 0 else short1 - s.freeGran p ts.2 die
  let last := if ts.2 = 0 then short1 else short2
  let fail (code : Nat) (s : State) : State :=
    putRec p (allocRec 0 code cls die n 0 0 short1 short2 false []) code s
  match (List.range 4096).find? (fun k => (SMap.get al.live k none).isNone) with
  | none => alcResult p 0x11 s
  | some k =>
    if last ≠ 0 then fail 0x0D (logErr (pSCH p) 0x0D p 0 0 s)
    else
      let xs := s.placeIn p ts.1 die (n - short1) []
      let xs := withStarts 0 (if short1 = 0 then xs else s.placeIn p ts.2 die short1 xs)
      if 256 < xs.length then fail 0x11 s
      else
        let a : Alloc := { seq := al.seq, cls := cls, die := die, size := n, first := n - short1, spill := short1, short1 := short1, exts := xs }
        let s := s.setAl p { al with live := SMap.put al.live k (some a) none, seq := if al.seq = 65535 then 1 else al.seq + 1 }
        let s := s.setW (pSCH p) R.ALC_HANDLE (handleOf k a)
        putRec p (allocRec (handleOf k a) 0 cls die n a.first a.spill short1 0 false xs) 0 s

/-- The live allocation ALC_HANDLE names. -/
def State.alcNamed (s : State) (p : Nat) : Option Alloc :=
  (SMap.get (s.al p).live (s.f (pSCH p) F.ALC_HANDLE_SLOT) none).filter (fun a => a.seq == s.f (pSCH p) F.ALC_HANDLE_SEQ)

/-- FREE (R188, R190). -/
def free (p : Nat) (s : State) : State :=
  alcResult p 0 (s.setAl p { s.al p with live := SMap.put (s.al p).live (s.f (pSCH p) F.ALC_HANDLE_SLOT) none none })

/-- QUERY (R186). -/
def query (p : Nat) (s : State) : State :=
  match s.alcNamed p with
  | none => s
  | some a =>
    putRec p (allocRec (s.w (pSCH p) R.ALC_HANDLE) 0 a.cls a.die a.size a.first a.spill a.short1 0 a.revoked a.exts) 0 s

/-- A write to ALC_CMD (R187, R193). -/
def wrAlcCmd (m p v : Nat) (s : State) : State :=
  let op := bits v 3 0
  let a := s.alcRec p
  checkedWrite m (pSCH p) R.ALC_CMD v
    (fun _ => decide (1 ≤ op) && decide (op ≤ 3) && (op != 1 || decide (bits v 13 12 ≤ 2) && decide (bits v 10 8 ≤ 4)))
    (fun s => s.f (pSCH p) F.ALC_STS_BUSY == 0 && (op == 1 || (s.alcNamed p).isSome))
    (fun s =>
      if op ≠ 2 ∧ s.holds p a.1 a.2 4160 = false then refuse m (pSCH p) R.ALC_CMD 0x02 s
      else if op = 1 then alloc p (bits v 10 8) (bits v 13 12) s
      else if op = 2 then free p s
      else query p s) s

/-! ## FX64 regions (R208 to R210) -/

/-- A region's tier, base and bytes. -/
def State.fxr (s : State) (p r : Nat) : Nat × Nat × Nat :=
  let pg := pSCH p
  (s.f pg (F.FXR_BASE_LO_TIER.at 16 r),
   s.f pg (F.FXR_BASE_LO_ADDR.at 16 r) * 2 ^ 21 + s.f pg (F.FXR_BASE_HI_ADDR.at 16 r) * 2 ^ 32,
   s.f pg (F.FXR_LEN_LEN.at 16 r) * 2 ^ 21)

/-- FXR_CTL.EN of a region. -/
def State.fxrEn (s : State) (p r : Nat) : Bool := s.f (pSCH p) (F.FXR_CTL_EN.at 16 r) == 1

/-- Do two regions of a partition overlap? -/
def State.fxrMeet (s : State) (p r q : Nat) : Bool :=
  let a := s.fxr p r
  let b := s.fxr p q
  a.1 == b.1 && overlaps a.2.1 a.2.2 b.2.1 b.2.2

/-- FXR_BASE_LO, FXR_BASE_HI and FXR_LEN (R208): `k` is 0, 1 or 2. -/
def wrFxrBase (m p r k v : Nat) (s : State) : State :=
  let ofs := R.FXR_BASE_LO + 16 * r + 4 * k
  plainWrite m (pSCH p) ofs v
    (fun _ => match k with
      | 0 => bits v 1 0 != 0
      | 1 => true
      | _ => decide (1 ≤ bits v 22 0) && decide (bits v 22 0 ≤ 4194304))
    (fun s => !s.fxrEn p r || v == s.w (pSCH p) ofs) s

/-- FXR_CTL (R208, R209). -/
def wrFxrCtl (m p r v : Nat) (s : State) : State :=
  let pg := pSCH p
  let ofs := R.FXR_CTL + 16 * r
  let rise := bit v 31 && !s.fxrEn p r
  checkedWrite m pg ofs v (fun _ => bits v 7 0 != 0x80 && bits v 7 0 != 0x81)
    (fun s => !(s.fxrEn p r && changes pg (F.FXR_CTL_EXP.at 16 r) v s) &&
      !(rise && (List.range 16).any (fun q => q != r && s.fxrEn p q && s.fxrMeet p r q)))
    (fun s =>
      let a := s.fxr p r
      if rise ∧ s.holds p a.1 a.2.1 a.2.2 = false then refuse m pg ofs 0x02 s
      else s.setW pg ofs (merged pg ofs v s)) s

/-- FXR_EN_APPLIED (R210): every controller has applied a region's EN, with its place and EXP as they then are; until
the next such change they keep the region so. -/
def fxrApplied (p r : Nat) (s : State) : State :=
  if p < 8 ∧ r < 16 then
    let a := s.fxr p r
    let x : FxReg := { tier := a.1, base := a.2.1, len := a.2.2, exp := s.f (pSCH p) (F.FXR_CTL_EXP.at 16 r) }
    s.setAl p { s.al p with fxrOn := SMap.put (s.al p).fxrOn r (if s.fxrEn p r then some x else none) none }
  else s

/-! ## Meanings -/

/-- MEM_READ. -/
def execMemRead (own iss tier addr len : Nat) (rmt : Bool) (errs : Errs) (s : State) : Host.Outcome State Fault Refusal :=
  whenOk (okOwner own && okPage iss && below 4 tier && below (2 ^ 48) addr) s <|
  runErr errs [] s (ctlRead own iss tier addr len rmt)
/-- MEM_WRITE. -/
def execMemWrite (own iss tier addr : Nat) (data : List Byte) (pois rmt : Bool) (s : State) : Host.Outcome State Fault Refusal :=
  whenOk (okOwner own && okPage iss && below 4 tier && below (2 ^ 48) addr) s <|
  run [] s (ctlWrite own iss tier addr data pois rmt)
/-- MEM_ATOMIC. -/
def execMemAtomic (own iss tier addr code : Nat) (lanes : List (Nat × Nat)) (rmt ret : Bool) (errs : Errs) (s : State) :
    Host.Outcome State Fault Refusal :=
  whenOk (okOwner own && okPage iss && below 4 tier && below (2 ^ 48) addr) s <|
  runErr errs [] s (ctlAtomic own iss tier addr code lanes rmt ret)
/-- SHARE_WINDOW. -/
def execShareWindow (pg : Nat) (s : State) : Host.Outcome State Fault Refusal :=
  whenOk (okPage pg) s <| run [] s (shareWindow pg)
/-- ALLOC. -/
def execAlloc (m p cls die : Nat) (s : State) : Host.Outcome State Fault Refusal :=
  whenOk (okMaster m && okPart p && below 8 cls && below 4 die) s <|
  run [] s (wrAlcCmd m (p % 8) (1 + cls % 8 * 2 ^ 8 + die % 4 * 2 ^ 12))
/-- FREE. -/
def execFree (m p : Nat) (s : State) : Host.Outcome State Fault Refusal :=
  whenOk (okMaster m && okPart p) s <| run [] s (wrAlcCmd m (p % 8) 2)
/-- QUERY. -/
def execQuery (m p : Nat) (s : State) : Host.Outcome State Fault Refusal :=
  whenOk (okMaster m && okPart p) s <| run [] s (wrAlcCmd m (p % 8) 3)
/-- FXR_ENABLE: a write of FXR_CTL. -/
def execFxrEnable (m p r v : Nat) (s : State) : Host.Outcome State Fault Refusal :=
  whenOk (okMaster m && okPart p && below 16 r && okWord v) s <|
  run [] s (wrFxrCtl m (p % 8) (r % 16) (v % 2 ^ 32))
/-- FXR_EN_APPLIED. -/
def execFxrEnApplied (p r : Nat) (s : State) : Host.Outcome State Fault Refusal :=
  whenOk (okPart p && below 16 r) s <| run [] s (fxrApplied p r)

end Sys2Proof.Machine
end

