-- ==== Sys2Proof/Machine/Csub.lean ====
section
/-! DEFINITION.  Core substitution and retirement (R261 to R266, R525). -/

namespace Sys2Proof.Machine

/-- The logical core of a slot is given to another slot, or to none. -/
def moveLogical (frm : Nat) (dst : Option Nat) (s : State) : State :=
  let n := s.lcore frm
  let r := s.router
  let coreOf := SMap.put r.coreOf frm none (coreOfDefault frm)
  let coreOf := match dst with
    | some t => SMap.put coreOf t n (coreOfDefault t)
    | none => coreOf
  let slotOf := match n with
    | some k => SMap.put r.slotOf k dst (slotOfDefault k)
    | none => r.slotOf
  { s with router := { r with coreOf := coreOf, slotOf := slotOf } }

/-- A slot's role. -/
def setRole (c : Nat) (v : Role) (s : State) : State :=
  { s with router := { s.router with role := SMap.put s.router.role c v (roleDefault c) } }

/-- The offsets of a register bank. -/
def regOffsets (d : RegDef) : List Nat := if d.stride = 0 then [d.ofs] else (List.range d.count).map (fun i => d.ofs + d.stride * i)

/-- Step 4 of Table 07-3: every RW field at 0x100 to 0x7FF of a CORE page. -/
def copyRw (frm dst : Nat) (s : State) : State :=
  forEach (fun (d : RegDef) s => forEach (fun o s => forEach (fun f s =>
    if f.acc = .rw then s.setF dst ⟨o, f.hi, f.lo⟩ (s.f frm ⟨o, f.hi, f.lo⟩) else s) d.fields s) (regOffsets d) s)
    ((regsOf .core 0).filter (fun d => decide (d.ofs < 0x800))) s

/-- Steps 3 and 4 of Table 07-3: the spare is zeroed and configured. -/
def prepSpare (f t : Nat) (s : State) : State :=
  let s := zeroCore t s
  let a := pCORE f
  let b := pCORE t
  let s := ((s.setW b R.PG_OWNER (s.w a R.PG_OWNER)).setW b R.PG_TMO_NS (s.w a R.PG_TMO_NS)).setW b R.PG_EVT_EN (s.w a R.PG_EVT_EN)
  let s := copyRw a b s
  poolReset t (s.setF b F.PG_CTL_EN 0)

/-- The handshakes a core has outstanding. -/
def Core.handshakes (k : Core) (c : Nat) : List Hs :=
  k.tqs.flatMap (fun t => (t.2.reqs.filter (fun r => decide (r.tier < 4))).map (fun r => Hs.tq c t.1 r.id) ++ t.2.lists.map (fun _ => Hs.list c t.1))
    ++ k.gth.reqs.map (fun r => Hs.gth c r.id) ++ k.gth.metas.map (fun _ => Hs.list c 4) ++ k.pld.toList.map (fun _ => Hs.load c)

/-- Steps 2 to 6 of Table 07-3, for failed slot `f` and the spare, if there is one.  The failed core's handshakes are
abandoned under R54. -/
def substitute (f : Nat) (t : Option Nat) (s : State) : State :=
  let s := { s with ras := { s.ras with abandoned := s.ras.abandoned ++ (s.core f).handshakes f } }
  let s := if (s.core f).op.isSome then coreFaultLog f 0x16 0 none s else coreDrop f false s
  let s := s.setCore f { s.core f with running := false, inGet := false }
  let s := match t with
    | some t => prepSpare f t s
    | none => s
  let s := moveLogical f t s
  let s := releasePage (pCORE f) (setRole f .failed s)
  match t with
  | some t => pendSet (pCORE t) 17 (setRole t .substitute s)
  | none => s

/-- R525: does the substitution wait for the failed core's partition? -/
def State.csubWaits (s : State) (f : Nat) : Bool :=
  match (s.cluOf f).bind (s.holderOf resClu) with
  | some p => decide (p < 8) && (s.pauseSt p == 1 || s.pauseSt p == 3 || s.pauseSt p == 4)
  | none => false

/-- The failed slot's partition is RESETTING. -/
def State.csubResetting (s : State) (f : Nat) : Bool :=
  match (s.cluOf f).bind (s.holderOf resClu) with
  | some p => decide (p < 8) && (s.part p).st == .resetting
  | none => false

/-- The slots a GLB_CSUB word names: failed, and spare. -/
def csubSlots (v : Nat) : Nat × Option Nat :=
  let d := 256 * bits v 24 24
  (d + bits v 7 0, if bits v 23 16 = 0xFF then none else some (d + bits v 23 16))

/-- A write to GLB_CSUB (R261 to R263, R525). -/
def wrCsub (m v : Nat) (s : State) : State :=
  let x := csubSlots v
  checkedWrite m pGLB R.GLB_CSUB v
    (fun _ => decide (bits v 7 0 ≤ 199) && (bits v 23 16 == 0xFF || decide (192 ≤ bits v 23 16) && decide (bits v 23 16 ≤ 199)))
    (fun s => s.router.busy == none && (s.role x.1 == .active || s.role x.1 == .substitute) &&
      (match x.2 with
       | some t => s.role t == .spare
       | none => true) && !s.csubResetting x.1)
    (fun s =>
      if s.csubWaits x.1 then
        { s with router := { s.router with busy := some (bits v 24 24, bits v 7 0, bits v 23 16), held := true } }
      else substitute x.1 x.2 s) s

/-- CSUB_HELD_START (R525): the partition of a held substitution is PAUSED or RUNNING. -/
def csubStart (s : State) : State :=
  match s.router.busy with
  | none => s
  | some (d, f, t) =>
    if s.csubWaits (256 * d + f) then s
    else
      substitute (256 * d + f) (if t = 0xFF then none else some (256 * d + t)) { s with router := { s.router with busy := none, held := false } }

/-! ## Meanings -/

/-- CORE_SUBSTITUTE: a write of GLB_CSUB with a spare slot. -/
def execCoreSubstitute (m die failed spare : Nat) (s : State) : Host.Outcome State Fault Refusal :=
  whenOk (okMaster m && okDie die && below 256 failed && below 256 spare) s <|
  run [pCORE (256 * (die % 2) + failed % 256)] s (wrCsub m (die % 2 * 2 ^ 24 + spare % 256 * 2 ^ 16 + failed % 256))
/-- CORE_RETIRE: a write of GLB_CSUB with 0xFF in place of a spare slot. -/
def execCoreRetire (m die failed : Nat) (s : State) : Host.Outcome State Fault Refusal :=
  whenOk (okMaster m && okDie die && below 256 failed) s <|
  run [pCORE (256 * (die % 2) + failed % 256)] s (wrCsub m (die % 2 * 2 ^ 24 + 0xFF * 2 ^ 16 + failed % 256))
/-- CSUB_HELD_START. -/
def execCsubHeldStart (s : State) : Host.Outcome State Fault Refusal :=
  run (match s.router.busy with | some x => [pCORE (256 * x.1 + x.2.1)] | none => []) s csubStart

end Sys2Proof.Machine
end

