-- ==== Sys2Proof/Machine/Ras.lean ====
section
/-! DEFINITION.  Handshake timeouts and their escalation, faults of an operation at its executor, SRAM errors, the scrubber, row repair, fencing and the history
log (R46 to R55, R255, R648 to R666). -/

namespace Sys2Proof.Machine

/-! ## Handshake timeouts (R46 to R55, R662) -/

/-- The requests of an operation's executor that this model holds as one: those of the bulk engines, and the
scheduler's reading of a phase map. A wait on the delay list is none (R47). -/
def OpSlot.bulk (o : OpSlot) : Bool :=
  o.st == .running && !o.heldRel && !o.fin &&
    (match o.exec with
     | some (.core _) => o.cls == cMOVE || o.cls == cRESHARD
     | some .sched => o.cls == cEPOCH
     | some (.ckp _) | none => false
     | _ => true)

/-- R52: a transfer in the die bridge is abandoned: it leaves the bridge with its credit and its reservation, BRG logs
0x03, and the operation that depended on it faults (R53).  The module replays what it has still to deliver (R24). -/
def bridgeTimeout (x : BridgeXfer) (resp : Nat) (s : State) : State :=
  let s := abandon (.bridge x.id) resp (logErr (pBRG x.die) 0x03 (x.dep.elim (s.defSubj (pBRG x.die)) (·.1)) 0 0 s)
  (dropXfer 0x03 x s).addF (pBRG x.die) F.BRG_REPLAY_CNT_CNT 1

/-- HANDSHAKE_TIMEOUT (R49, R52 to R55): a handshake whose time has passed is abandoned: its requester's page logs
0x03 and is idle again for it, the operation that depended on it faults, and the timeout counts against the responder:
where the request does not name it, the page `resp`. -/
def hsTimeout (hs : Hs) (resp : Nat) (s : State) : State :=
  match hs with
  | .tq c q id =>
    (match (s.tq c q).reqs.find? (fun r => r.id == id && decide (r.tier < 4)) with
     | some r => if s.expired (pCORE c) r.iss then coreTimeout c (s.tq c q).pc hs r.tier r.addr (some r.tag) s else s
     | none => s)
  | .list c q =>
    if q = 4 then
      match (s.core c).gth.metas.head? with
      | some r =>
        if s.expired (pCORE c) r.iss then gthTimeout c ((s.core c).gth.active.getLast?.elim 0 (·.pos)) hs r.tier r.addr s else s
      | none => s
    else match (s.tq c q).lists.head? with
      | some r => if s.expired (pCORE c) r.iss then coreTimeout c (s.tq c q).pc hs r.tier r.addr none s else s
      | none => s
  | .gth c id =>
    (match (s.core c).gth.reqs.find? (fun r => r.id == id) with
     | some r =>
       if s.expired (pCORE c) r.iss then
         let pos := (((s.core c).gth.active.find? (fun g => g.no == r.cmd)).bind (fun g => g.rows.find? (fun x => x.seq == r.seq))).elim 0 (·.pos)
         gthTimeout c pos hs r.tier r.addr s
       else s
     | none => s)
  | .load c =>
    (match (s.core c).pld with
     | some x => if s.expired (pCORE c) x.iss then pldFail c 0x03 (abandon hs resp (logErr (pCORE c) 0x03 x.own 0 0 s)) else s
     | none => s)
  | .lpf k =>
    (match (s.clu k).lpf with
     | some r =>
       if s.expired (pCLU k) r.iss then
         lpfFail k 0x03 (abandon hs resp (logErr (pCLU k) 0x03 ((s.assignee (pCLU k)).getD (s.defSubj (pCLU k))) 0 0 s))
       else s
     | none => s)
  | .bridge id =>
    (match s.bridge.inFlight.find? (fun x => x.id == id) with
     | some x => if s.expired (pBRG x.die) x.iss then bridgeTimeout x resp s else s
     | none => s)
  | .vocab e i =>
    let v := s.vslot e i
    if v.busy && s.expired (pTOK e) v.iss then vldFail e i 0x03 true (abandon hs resp s) else s
  | .stopSet e i =>
    let v := s.stopBlk e i
    if v.busy && s.expired (pTOK e) v.iss then sldFail e i 0x03 true (abandon hs resp s) else s
  | .op p n =>
    let o := s.slot p n
    if o.bulk && s.expired (execPage p o.exec) o.iss then execFault p n 0x03 (abandon hs resp s) else s
  | .ckp =>
    (match s.ckp.run with
     | some r =>
       if (r.ph == .capturing || r.ph == .restoring) && s.expired (pCKP 0) r.iss then
         (if r.ph = .capturing then capFailed true else restoreFailed true) (abandon hs resp s)
       else s
     | none => s)

/-- The pages a handshake's timeout touches. -/
def State.hsPages (s : State) : Hs → List Nat
  | .tq c _ _ | .list c _ | .gth c _ | .load c => s.corePages c
  | .lpf k => [pCLU k, pRAS]
  | .bridge _ => [pBRG 0, pBRG 1, pRAS]
  | .vocab e _ | .stopSet e _ => [pTOK e, pRAS]
  | .op p n => [execPage p (s.slot p n).exec, pSCH p, pRAS]
  | .ckp => [pCKP 0, pRAS]

/-- R54, R255: what arrives for an abandoned handshake is discarded, and the handshake is over. -/
def lateArrival (hs : Hs) (s : State) : State :=
  { s with ras := { s.ras with abandoned := s.ras.abandoned.erase hs } }

/-! ## SRAM errors (R644, Table 18-1) -/

/-- The core that executes an operation. -/
def OpSlot.onCore (o : OpSlot) : Option Nat := match o.exec with | some (.core c) => some c | _ => none
/-- The token engine that executes an operation. -/
def OpSlot.onTok (o : OpSlot) : Option Nat := match o.exec with | some (.token e) => some e | _ => none

/-- An uncorrectable error in cluster store, which the CLU page logs: the consuming operation faults with 0x07. -/
def cluUe (p c : Nat) (s : State) : State :=
  let pg := pCLU ((s.cluOf c).getD 0)
  coreFault c 0x07 0 0 none (logErr pg 0x07 p 0 0 (sramUe pg p s))

/-- One in program store: the operation faults, VALID becomes 0, and the page is held. -/
def progUe (p n c : Nat) (s : State) : State :=
  ((execFault p n 0x07 (sramUe (pCORE c) p s)).setF (pCORE c) F.CORE_PLD_STS_VALID 0).setF (pCORE c) F.PG_CTL_HOLD 1

/-- One in a token engine's SRAM: the operation faults, and the area that holds the word is lost. -/
def tokUe (p n e : Nat) (area : TokArea) (s : State) : State :=
  let s := execFault p n 0x07 (sramUe (pTOK e) p s)
  match area with
  | .vocab i => s.setVslot e i { s.vslot e i with valid := false }
  | .stop i => s.setStopBlk e i { s.stopBlk e i with valid := false }
  | .stream i => s.setStrm e i { s.strm e i with en := false }

/-- An uncorrectable error that the operation in a slot meets, or the scheduler, by where it lies (Table 18-1). -/
def sramFault (p n : Nat) (site : Sram) (s : State) : State :=
  let o := s.slot p n
  let on := o.st == .running && !o.heldRel
  match site with
  | .sched => (logErr (pSCH p) 0x07 p 0 0 (sramUe (pSCH p) p s)).setF (pSCH p) F.PG_CTL_HOLD 1
  | .global => declareFailed (logErr (pgOf .sch 0) 0x07 oTormal 0 0 (sramUe (pgOf .sch 0) oTormal s))
  | .keys => declareFailed (logErr pSEC 0x07 oTormal 0 0 (sramUe pSEC oTormal s))
  | .channel => execFault p n 0x07 s
  | .own => if on then execFault p n 0x07 (sramUe (execPage p o.exec) p s) else s
  | .cluster => if on then match o.onCore with
      | some c => cluUe p c s
      | none => s
    else s
  | .prog => if on then match o.onCore with
      | some c => progUe p n c s
      | none => s
    else s
  | .tok area => if on then match o.onTok with
      | some e => tokUe p n e area s
      | none => s
    else s

/-- The pages an operation's fault touches. -/
def State.faultPages (s : State) (p n : Nat) : List Nat :=
  match (s.slot p n).exec with
  | some (.core c) => s.corePages c
  | x => [execPage p x, pSCH p, pRAS]

/-- OPERATION_FAULT (R426): the executor of a RUNNING operation faults it with a code, or meets an SRAM error. -/
def execOperationFault (p slot code : Nat) (site : Option Sram) (errs : Errs) (s : State) : Host.Outcome State Fault Refusal :=
  whenOk (okPart p && okSlot slot && below 256 code) s <|
  runErr errs (s.faultPages p slot) s (match site with | none => execFault p slot (code % 256) | some x => sramFault p slot x)

/-! ## The scrubber (R648 to R652) -/

/-- Bytes a controller serves (Table 05-2), and where they start in its tier. -/
def ctlBytes (tier : Nat) : Nat := ctlGran tier * 2 ^ 21
def ctlBase (pg : Nat) : Nat :=
  match pageInfo pg with
  | some (.nsc, i) => i * 2 ^ 28
  | some (.msc, i) => i * (36 * 2 ^ 30)
  | some (.fsc, i) => i * 2 ^ 41
  | _ => 0

/-- Bytes its scrubber visits: a far port has as many as its expander. -/
def State.scrubBytes (s : State) (pg : Nat) : Nat :=
  if ctlTier pg = 3 then s.f pg F.FSC_CAP_CAP4G * 2 ^ 32 else ctlBytes (ctlTier pg)

/-- EN and HOURS of a tier's scrubbing. -/
def State.scrubEn (s : State) : Nat → Bool
  | 1 => s.f pRAS F.RAS_SCRUB_NEAR_EN == 1
  | 2 => s.f pRAS F.RAS_SCRUB_MID_EN == 1
  | _ => s.f pRAS F.RAS_SCRUB_FAR_EN == 1
def State.scrubHours (s : State) : Nat → Nat
  | 1 => s.f pRAS F.RAS_SCRUB_NEAR_HOURS
  | 2 => s.f pRAS F.RAS_SCRUB_MID_HOURS
  | _ => s.f pRAS F.RAS_SCRUB_FAR_HOURS

/-- The holder of the unit a line lies in. -/
def State.lineHolder (s : State) (tier addr : Nat) : Option Nat :=
  s.holderOf (tierUnit tier addr).1 (tierUnit tier addr).2

/-- A line rewritten as 64 zero bytes of ciphertext, which no key has written (Table 18-2). -/
def rewriteLine (tier addr : Nat) (s : State) : State :=
  let v := s.mem.ver + 1
  { s with mem := { s.mem with
      lines := SMap.put s.mem.lines (memKey tier addr / 64 * 64) { ghost := v, ver := v } {}
      ver := v } }

/-- Table 18-2: an uncorrectable error in a line that is not poisoned yet, found by a scrub or a repair. -/
def foundUe (pg tier addr : Nat) (s : State) : State :=
  match s.lineHolder tier addr with
  | some o =>
    let s := setPoison (memKey tier addr) true (s.addF pRAS F.RAS_CNT_UE_CNT 1)
    hist 2 tier addr pg o (logErr pg 0x07 o (lineDetail tier addr) 1 s)
  | none => hist 3 tier addr pg 16 ((rewriteLine tier addr s).addF pRAS F.RAS_CNT_FREEFIX_CNT 1)

/-- Table 18-2: what a scrub does with what it finds; `again`: a rewritten free line is still in error. -/
def scrubFinding (pg tier addr : Nat) (ecc : Ecc) (again : Bool) (s : State) : State :=
  if (s.line (memKey tier addr)).poison then s
  else
    match ecc with
    | .clean => s
    | .ce =>
      let o := (s.lineHolder tier addr).getD 16
      hist 1 tier addr pg o (trackCe tier addr (s.addF pRAS F.RAS_CNT_CE_CNT 1))
    | .ue =>
      let owned := (s.lineHolder tier addr).isSome
      let s := foundUe pg tier addr s
      if owned || again then queueRow tier addr s else s
    | .expander => if tier = 3 then foundUe pg tier addr s else s

/-- The scrubbers of a tier that are behind their schedule set their bit (R650). -/
def behind (tier : Nat) (s : State) : State :=
  let late := (List.range (ctlCount tier)).any (fun i => (s.ctl ((if tier = 1 then 0x400 else if tier = 2 then 0x500 else 0x510) + i)).scrubLate)
  s.setF pRAS ⟨R.RAS_SCRUB_STS, tier - 1, tier - 1⟩ (b2n late)

/-- SCRUB_LINE: the scrubber of a controller visits its next line (R648 to R652).  It scrubs no line of a
partition in reset (R651), and skips a fenced controller and a port that is not READY. -/
def scrubLine (pg ofs : Nat) (ecc : Ecc) (again : Bool) (s : State) : State :=
  let tier := ctlTier pg
  let c := s.ctl pg
  let n := s.scrubBytes pg
  if tier = 0 ∨ s.fenced pg = true ∨ s.takesWork pg = false ∨ s.scrubEn tier = false ∨ n ≤ ofs ∨ ofs ≠ c.scrubNext ∨
     (tier = 3 ∧ s.f pg F.FSC_HP_STS_READY = 0) then s
  else
    let first := decide (ofs = 0)
    let now := s.nowOn (dieOfPage pg)
    let at_ := if first then now else c.scrubAt
    let hours := if first then s.scrubHours tier else c.scrubHours
    let period := hours * 3600000000000
    let late := decide (ofs * period / n + period / 100 < now - at_)
    let next := if ofs + 64 < n then ofs + 64 else 0
    let s := behind tier (s.setCtl pg { c with scrubNext := next, scrubAt := at_, scrubHours := hours, scrubLate := late })
    let addr := ctlBase pg + ofs
    match s.lineHolder tier addr with
    | some o => if o < 8 ∧ (s.part o).st = .resetting then s else scrubFinding pg tier addr ecc again s
    | none => scrubFinding pg tier addr ecc again s

/-! ## Row repair (R656 to R658) -/

/-- Spare rows of a controller: those that manufacture has left of the 64 of a near channel or the 1,024 of a stack.
-/
def spareRows (pg : Nat) : Nat := min (Config.spareRows pg) (if ctlTier pg = 1 then 64 else 1024)

/-- A line of the row under repair is found uncorrectable: Table 18-2, but the row is already queued. -/
def repairLine (pg tier row : Nat) (i : Nat) (s : State) : State :=
  let a := rowLine tier row i
  if i < rowBytes tier / 64 ∧ (s.line (memKey tier a)).poison = false then foundUe pg tier a s else s

/-- ROW_REPAIR (Table 18-4): the row at the head of the queue is copied to the next spare row and
remapped.  `uncorr` are its lines found uncorrectable; a spare that shows an error queues the row again. -/
def rowRepair (pg : Nat) (uncorr : List Nat) (spareBad : Bool) (s : State) : State :=
  let tier := ctlTier pg
  let c := s.ctl pg
  match c.repairQ with
  | [] => s
  | row :: rest =>
    if tier = 0 ∨ tier = 3 ∨ s.fenced pg = true ∨ s.takesWork pg = false then s
    else if spareRows pg ≤ c.spareUsed then
      let s := s.setCtl pg { c with repairQ := rest, exhaust := true }
      let s := s.setF pRAS F.RAS_REPAIR_STS_QUEUED (s.f pRAS F.RAS_REPAIR_STS_QUEUED - 1)
      hist 5 tier row pg ((s.lineHolder tier row).getD 16) (s.setF pRAS F.RAS_REPAIR_STS_EXHAUST 1)
    else if spareBad then s.setCtl pg { c with repairQ := rest ++ [row], spareUsed := c.spareUsed + 1 }
    else
      let s := forEach (repairLine pg tier row) uncorr s
      let c := s.ctl pg
      let s := s.setCtl pg { c with
        repairQ := rest, spareUsed := c.spareUsed + 1
        remap := (row, c.spareUsed) :: c.remap.filter (fun e => e.1 != row) }
      let s := s.setF pRAS F.RAS_REPAIR_STS_QUEUED (s.f pRAS F.RAS_REPAIR_STS_QUEUED - 1)
      hist 4 tier row pg ((s.lineHolder tier row).getD 16) (s.addF pRAS F.RAS_CNT_REPAIR_CNT 1)

/-! ## Fencing (R665, R666) -/

/-- May the page be fenced? -/
def fenceable (pg : Nat) : Bool :=
  match pageInfo pg with
  | some (t, _) => [PageType.tok, .ckp, .mig, .lnk, .nsc, .msc, .fsc, .clu].contains t
  | none => false

/-- What a fenced block's started work and its dependents lose. -/
def fenceDrop (pg : Nat) (s : State) : State :=
  match pageInfo pg with
  | some (.tok, e) =>
    let s := forEach (fun (x : Nat × Nat) s => execFault x.1 x.2 0x03 s) (s.tokHeld e) s
    let v := s.eng e
    s.setEng e { v with
      slots := v.slots.map (fun x => (x.1, if x.2.busy then { x.2 with busy := false, err := true, code := 0x03 } else x.2))
      stops := v.stops.map (fun x => (x.1, if x.2.busy then { x.2 with busy := false, err := true, code := 0x03 } else x.2)) }
  | some (.mig, d) => migReset d 0x03 s
  | some (.ckp, _) => ckpReset 0x03 s
  | some (.lnk, l) => linkFollow l false s
  | some (.clu, k) =>
    let s := forEach (fun c s => if (s.core c).op.isSome then coreFaultLog c 0x03 0 none s else s) (s.slotsOfClu k) s
    if s.lpfBusy k then lpfFail k 0x03 s else s
  | _ => forEach (fun c s => coreFaultLog c 0x03 0 none s) (s.askers pg) s

/-- A page is fenced, until cold reset. -/
def fence (pg : Nat) (s : State) : State :=
  if s.fenced pg then s
  else
    let s := { s with ras := { s.ras with fenced := SMap.put s.ras.fenced pg true false } }
    hist 9 0 0 pg (s.defSubj pg) (fenceDrop pg (s.addF pRAS F.RAS_FENCE_VAL_CNT 1))

/-- A write to RAS_FENCE. -/
def wrFence (m v : Nat) (s : State) : State :=
  checkedWrite m pRAS R.RAS_FENCE v (fun _ => !bit v 31 || fenceable (bits v 13 0)) (fun _ => true)
    (fun s => if bit v 31 then fence (bits v 13 0) s else s) s

/-! ## The history log (R661) -/

/-- Table 18-10: an entry's 16 bytes. -/
def HistEntry.bytes (e : HistEntry) : List Byte :=
  leBytes 6 e.addr ++ leBytes 1 e.tier ++ leBytes 1 e.kind ++ leBytes 2 e.page ++ leBytes 1 e.owner ++ leBytes 1 0 ++ leBytes 4 e.time

/-- RAS_LOG_W0 to W3 hold 16 bytes. -/
def setLogW (bs : List Byte) (s : State) : State :=
  forUp (fun w s => s.setW pRAS (R.RAS_LOG_W + 4 * w) (fieldOf bs (4 * w) 4)) 4 0 s

/-- A write to RAS_LOG_POP. -/
def wrLogPop (m v : Nat) (s : State) : State :=
  checkedWrite m pRAS R.RAS_LOG_POP v (fun _ => true) (fun _ => true)
    (fun s =>
      if !bit v 0 then s
      else match s.ras.log with
        | [] => setLogW [] s
        | e :: es => setLogW e.bytes { s with ras := { s.ras with log := es } }) s

/-! ## Meanings -/

/-- HANDSHAKE_TIMEOUT. -/
def execHandshakeTimeout (hs : Hs) (resp : Nat) (s : State) : Host.Outcome State Fault Refusal :=
  whenOk (okPage resp) s <| runErr [] (resp :: s.hsPages hs) s (hsTimeout hs resp)
/-- LATE_ACK (R54). -/
def execLateAck (hs : Hs) (s : State) : Host.Outcome State Fault Refusal := run [] s (lateArrival hs)
/-- LATE_DATA_DISCARD (R255). -/
def execLateDataDiscard (hs : Hs) (s : State) : Host.Outcome State Fault Refusal := run [] s (lateArrival hs)
/-- SCRUB_LINE. -/
def execScrubLine (pg ofs : Nat) (ecc : Ecc) (again : Bool) (s : State) : Host.Outcome State Fault Refusal :=
  whenOk (okPage pg) s <|
  run [pRAS] s (scrubLine pg ofs ecc again)
/-- ROW_REPAIR. -/
def execRowRepair (pg : Nat) (uncorr : List Nat) (spareBad : Bool) (s : State) : Host.Outcome State Fault Refusal :=
  whenOk (okPage pg) s <|
  run [pRAS] s (rowRepair pg uncorr spareBad)
/-- RAS_FENCE: a write of RAS_FENCE with GO 1. -/
def execRasFence (m pg : Nat) (s : State) : Host.Outcome State Fault Refusal :=
  whenOk (okMaster m && okPage pg) s <|
  run [pRAS, pg % 2 ^ 14] s (wrFence m (2 ^ 31 + pg % 2 ^ 14))
/-- RAS_LOG_POP: a write of RAS_LOG_POP with POP 1. -/
def execRasLogPop (m : Nat) (s : State) : Host.Outcome State Fault Refusal :=
  whenOk (okMaster m) s <| run [pRAS] s (wrLogPop m 1)

end Sys2Proof.Machine
end

