-- ==== Sys2Proof/Machine/Hostif.lean ====
section
/-! DEFINITION.  The host interface: queue pairs, host windows, functions and the upstream link
(R612 to R637). -/

namespace Sys2Proof.Machine

/-! ## Queue pages (R615, R616, R635) -/

/-- Q_STS.BUSY: a command fetched has no CQ entry yet (R635). -/
def Qp.busy (q : Qp) : Bool := q.open_ != 0

/-- R616: a refusal sets WREJ of the queue concerned and logs the code in the HIF page. -/
def refuseQ (p : Nat) (q : Option Nat) (code : Nat) (s : State) : State :=
  let s := perfOwn pHIF 0x03 1 p s
  let s := match q with
    | some q => s.setQp p q { s.qp p q with wrej := true }
    | none => s
  logErr pHIF code p 0 0 s

/-- Are the Res0 bits of a queue-page register zero? -/
def qRes0 (o v : Nat) : Bool :=
  match o with
  | 0x00 | 0x08 => bits v 11 0 == 0
  | 0x04 | 0x0C => true
  | 0x10 => bits v 29 22 == 0 && bits v 15 12 == 0 && bits v 7 0 == 0
  | 0x14 | 0x18 | 0x1C => bits v 31 12 == 0
  | 0x20 => bits v 28 24 == 0 && bits v 15 0 == 0
  | _ => v == 0

/-- Q_CFG as its register reads. -/
def Qp.cfgWord (q : Qp) : Nat := b2n q.en * 2 ^ 31 + b2n q.ien * 2 ^ 30 + q.vec * 2 ^ 16 + q.log2n * 2 ^ 8

/-- The range rule of a queue-page register. -/
def Qp.rangeOk (q : Qp) (o v : Nat) : Bool :=
  match o with
  | 0x10 => decide (4 ≤ bits v 11 8) && decide (bits v 11 8 ≤ 12)
  | 0x14 => decide (v < 2 ^ q.log2n)
  | 0x1C => decide (v < 2 ^ q.log2n) && decide ((v + 2 ^ q.log2n - q.cqHead) % 2 ^ q.log2n ≤ q.written - q.consumed)
  | _ => true

/-- The precondition of a queue-page register (R635): while EN is 1 a write may clear EN, and refuses a change of
any other guarded field (R739). -/
def Qp.preOk (q : Qp) (o v : Nat) : Bool :=
  match o with
  | 0x00 => !q.en || v == q.sqBase % 2 ^ 32
  | 0x04 => !q.en || v == q.sqBase / 2 ^ 32
  | 0x08 => !q.en || v == q.cqBase % 2 ^ 32
  | 0x0C => !q.en || v == q.cqBase / 2 ^ 32
  | 0x10 => if q.en then v == q.cfgWord || v + 2 ^ 31 == q.cfgWord else !(bit v 31 && q.busy)
  | 0x14 | 0x1C => q.en
  | _ => true

/-- The effect of a write to a queue-page register. -/
def Qp.after (q : Qp) (o v : Nat) : Qp :=
  match o with
  | 0x00 => { q with sqBase := setBits q.sqBase 31 0 v }
  | 0x04 => { q with sqBase := setBits q.sqBase 63 32 v }
  | 0x08 => { q with cqBase := setBits q.cqBase 31 0 v }
  | 0x0C => { q with cqBase := setBits q.cqBase 63 32 v }
  | 0x10 =>
    if q.en && bit v 31 then q
    else if bit v 31 then
      { q with
        en := true, ien := bit v 30, vec := bits v 21 16, log2n := bits v 11 8, sqTail := 0, sqHead := 0, cqHead := 0
        err := false, code := 0, fetched := 0, written := 0, consumed := 0, intAt := none, fetch := none }
    else { q with en := false, fetch := none, ien := bit v 30, vec := bits v 21 16, log2n := bits v 11 8 }
  | 0x14 => { q with sqTail := v }
  | 0x1C => { q with cqHead := v, consumed := q.consumed + (v + 2 ^ q.log2n - q.cqHead) % 2 ^ q.log2n }
  | 0x20 => if bit v 29 then { q with wrej := false } else q
  | _ => q

/-- A write of VF p + 1 to its queue page, at an offset below 0x8000: refused as R616 states. -/
def wrQueue (p ofs v : Nat) (s : State) : State :=
  let q := if ofs < 0x100 then some (ofs / 0x40) else none
  match q with
    | none => if v = 0 then s else refuseQ p none 0x01 s
    | some n =>
      if !s.enabled p then refuseQ p q 0x02 s
      else
      let k := s.qp p n
      let o := ofs % 0x40
      if !qRes0 o v || !k.rangeOk o v then refuseQ p q 0x01 s
      else if !k.preOk o v then refuseQ p q 0x11 s
      else s.setQp p n (k.after o v)

/-- What a register of the queue page reads (R616). -/
def State.readQueue (s : State) (p ofs : Nat) : Nat :=
  if !s.enabled p || decide (0x100 ≤ ofs) then 0
  else
    let k := s.qp p (ofs / 0x40)
    match ofs % 0x40 with
    | 0x00 => k.sqBase % 2 ^ 32
    | 0x04 => k.sqBase / 2 ^ 32
    | 0x08 => k.cqBase % 2 ^ 32
    | 0x0C => k.cqBase / 2 ^ 32
    | 0x10 => k.cfgWord
    | 0x14 => k.sqTail
    | 0x18 => k.sqHead
    | 0x1C => k.cqHead
    | 0x20 => b2n k.busy * 2 ^ 31 + b2n k.err * 2 ^ 30 + b2n k.wrej * 2 ^ 29 + k.code * 2 ^ 16
    | _ => 0

/-! ## Submission and completion (R626 to R634) -/

/-- May the queue fetch an entry (R627, R635)? -/
def Qp.mayFetch (q : Qp) : Bool :=
  q.en && !q.err && q.sqHead != q.sqTail && decide (q.fetched - q.consumed < 2 ^ q.log2n)

/-- The queue of a partition that fetches next: in rotation (R627). -/
def State.nextQ (s : State) (p : Nat) : Option Nat :=
  let l := SMap.get s.hif.lastQ p 0
  ((List.range 4).map (fun i => (l + i) % 4)).find? (fun q => (s.qp p q).mayFetch)

/-- R628: an entry is offered to the command queue, or completes with a refusal. -/
def offerCmd (p q idx : Nat) (e : List Byte) (s : State) : State :=
  let src : CmdSrc := .queue q idx (fieldOf e 32 2)
  if (e.drop 34).any (· != 0) then respond p src 0x04 0 0 s
  else if !s.takesCmds p || s.qfree p == 0 then refuseCmd p src 0x12 0 0 s
  else enqueueCmd p { bytes := e.take 32, src := src } s

/-- R634: a fetch that fails stops its queue pair. -/
def queueStop (p q code : Nat) (s : State) : State :=
  logErr pHIF code p 0 0 (s.setQp p q { s.qp p q with err := true, code := code, fetch := none })

/-- SQ_FETCH: the next queue of a partition reads an SQ entry from host memory.  `entry` is the 64 bytes the
host returned; `res` is 0, or 0x03 where host memory does not answer, or another code where the fetch failed (R634).
An unanswered fetch stays outstanding, and stops its queue once the HIF page's PG_TMO_NS has passed (R621). -/
def sqFetch (p : Nat) (entry : List Byte) (res : Nat) (s : State) : State :=
  if p < 8 ∧ s.enabled p = true ∧ s.f pHIF F.HIF_LINK_STS_UP = 1 then
    match s.nextQ p with
    | none => s
    | some q =>
      let k := s.qp p q
      let s := atsUse (p + 1) (k.sqBase + 64 * k.sqHead) s
      let iss := k.fetch.getD (s.issue pHIF)
      if s.overdue pHIF iss then queueStop p q 0x03 s
      else if res = 0x03 then
        if k.fetch.isSome && s.expired pHIF iss then queueStop p q 0x03 s else s.setQp p q { k with fetch := some iss }
      else if res ≠ 0 then queueStop p q 0x07 s
      else
        let h := (k.sqHead + 1) % 2 ^ k.log2n
        let s := s.setQp p q { k with sqHead := h, fetched := k.fetched + 1, open_ := k.open_ + 1, fetch := none }
        let s := { s with hif := { s.hif with lastQ := SMap.put s.hif.lastQ p (q + 1) 0 } }
        offerCmd p q h (padTo 64 entry) (perfOwn pHIF 0xA2 1 p s)
  else s

/-- Table 17-4: a CQ entry. -/
def CqEnt.bytes (e : CqEnt) (q : Nat) (phase : Bool) : List Byte :=
  leBytes 2 e.cid ++ leBytes 1 q ++ leBytes 1 e.status ++ leBytes 2 e.sqHead ++ leBytes 1 (b2n phase) ++ leBytes 1 0 ++
    leBytes 2 e.check ++ leBytes 2 e.slot ++ leBytes 4 0

/-- CQ_WRITE (R629): the oldest completion of a queue pair is written at the next CQ position.  A completion of a
partition that is being reset is never delivered (R158). -/
def cqWrite (p q : Nat) (s : State) : State :=
  let k := s.qp p q
  match k.waiting with
  | [] => s
  | e :: es =>
    if (s.part p).st = .resetting then s.setQp p q { k with waiting := es, open_ := k.open_ - 1 }
    else
    let n := 2 ^ k.log2n
    let a := k.cqBase + 16 * (k.written % n)
    let s := atsUse (p + 1) a s
    let s := s.emit (.hostWrite a (e.bytes q (k.written / n % 2 == 0)))
    s.setQp p q { k with
      waiting := es, written := k.written + 1, open_ := k.open_ - 1
      intAt := if k.ien && k.intAt.isNone then some s.now else k.intAt }

/-- COMPLETION_INTERRUPT (R630): at most one message each µs. -/
def cplInt (p q : Nat) (s : State) : State :=
  let k := s.qp p q
  if k.intAt.isSome && (match k.msgAt with | some t => decide (t + 1000 ≤ s.now) | none => true) then
    sendMsix (p + 1) k.vec (s.setQp p q { k with intAt := none, msgAt := some s.now })
  else s

/-! ## Host windows (R617 to R625) -/

/-- An access through a window: 0, or the code it is refused with (Table 17-3); `wait` stands for a
controller in soft reset or held, where the access waits. -/
def State.winCode (s : State) (i ofs len : Nat) : Nat :=
  let o := s.f pHIF (F.HIF_WIN_CTL_OWNER.at 16 i)
  if s.failed then 0x07
  else if s.f pHIF (F.HIF_WIN_CTL_EN.at 16 i) = 0 ∨ s.f pHIF (F.HIF_WIN_SIZE_GRAN.at 16 i) * 2 ^ 21 < ofs + len then 0x05
  else if (s.part o).st = .resetting then 0x11
  else s.spanCode o (s.f pHIF (F.HIF_WIN_BASE_LO_TIER.at 16 i))
    (s.f pHIF (F.HIF_WIN_BASE_LO_ADDR.at 16 i) * 2 ^ 21 + s.f pHIF (F.HIF_WIN_BASE_HI_ADDR.at 16 i) * 2 ^ 32 + ofs) len

/-- The owner a window acts as, and the tier address of an offset. -/
def State.winOwner (s : State) (i : Nat) : Nat :=
  if s.f pHIF (F.HIF_WIN_CTL_EN.at 16 i) = 1 then s.f pHIF (F.HIF_WIN_CTL_OWNER.at 16 i) else oPF
def State.winTier (s : State) (i : Nat) : Nat := s.f pHIF (F.HIF_WIN_BASE_LO_TIER.at 16 i)
def State.winAddr (s : State) (i ofs : Nat) : Nat :=
  s.f pHIF (F.HIF_WIN_BASE_LO_ADDR.at 16 i) * 2 ^ 21 + s.f pHIF (F.HIF_WIN_BASE_HI_ADDR.at 16 i) * 2 ^ 32 + ofs

/-- R619: a refused access is logged in the HIF page and counted; a unit not held is logged in the
controller's page too (R135). -/
def winDeny (i ofs code : Nat) (s : State) : State :=
  let o := s.winOwner i
  let s := if code = 0x02 then accessFail pHIF o (s.winTier i) (s.winAddr i ofs) code s else s
  logErr pHIF code o 0 0 (s.addF pHIF F.HIF_CNT_DENY_CNT 1)

/-- Can the access reach the window: an enabled path, and an offset the path has (R613, R617)? -/
def State.winReach (s : State) (i ofs len : Nat) (bar4 : Bool) : Bool :=
  decide (i < 16) && decide (0 < len) && s.f pHIF F.HIF_LINK_STS_UP == 1 &&
    (if bar4 then decide (ofs + len ≤ 2 ^ 32) else s.f pHIF F.HIF_LINK_STS_MEM == 1 && decide (ofs + len ≤ 2 ^ 40))

/-- The outstanding access that this one is, if its controller has left it without an answer before. -/
def State.hostAcc (s : State) (i ofs len : Nat) (write : Bool) : Option HostAcc :=
  s.hif.accs.find? (fun a => a.win == i && a.ofs == ofs && a.len == len && a.write == write)

/-- An access stays outstanding: the HIF block times it against PG_TMO_NS of the controller page that it reaches
(R621). -/
def accWait (i ofs len : Nat) (write : Bool) (s : State) : State :=
  if (s.hostAcc i ofs len write).isSome then s
  else
    let iss : Issued := { since := s.now, tmo := s.w (tierCtl (s.winTier i) (s.winAddr i ofs)) R.PG_TMO_NS }
    { s with hif := { s.hif with accs := s.hif.accs ++ [{ win := i, ofs := ofs, len := len, write := write, iss := iss }] } }

/-- An access has its completion. -/
def accDone (i ofs len : Nat) (write : Bool) (s : State) : State :=
  match s.hostAcc i ofs len write with
  | some a => { s with hif := { s.hif with accs := s.hif.accs.erase a } }
  | none => s

/-- Has an access timed out?  `tmo`: the controller does not answer. -/
def State.accLate (s : State) (i ofs len : Nat) (write tmo : Bool) : Bool :=
  (s.hostAcc i ofs len write).any (fun a => s.overdue pHIF a.iss || (tmo && s.expired pHIF a.iss))

/-- An access through a window, which ends in `deny code` where it cannot be carried out (R619) and in `go` where it
can; it waits, outstanding, while its controller does not take it, does not answer (`tmo`), or has no share left for
its class. -/
def winAccess (i ofs len : Nat) (bar4 write tmo : Bool) (deny : Nat → State → State) (go : State → State) (s : State) : State :=
  if !s.winReach i ofs len bar4 then s
  else
    let c := s.winCode i ofs len
    if c ≠ 0 ∧ c ≠ 0x12 then deny c (accDone i ofs len write s)
    else if s.accLate i ofs len write tmo then
      escalate (tierCtl (s.winTier i) (s.winAddr i ofs)) (deny 0x03 (accDone i ofs len write s))
    else if c = 0x12 || tmo || !s.shareOk (s.winTier i) (s.winAddr i ofs) len 2 then accWait i ofs len write s
    else go (accDone i ofs len write s)

/-- HOST_WINDOW_READ. -/
def winRead (i ofs len : Nat) (bar4 tmo : Bool) (s : State) : State :=
  winAccess i ofs len bar4 false tmo (fun c s => (winDeny i ofs c s).emit (.readData oPF (List.replicate len 0) true c))
    (fun s =>
      let o := s.winOwner i
      let r := readBlocks pHIF (s.access o) (s.winTier i) (fun _ => true) (mBlocks (s.winTier i) (len + 1) (s.winAddr i ofs) len) s
      let s := perfOwn pHIF 0xA0 len o r.2.2
      let s := if anyMark r.2.1 then s.addF pHIF F.HIF_CNT_POISON_CNT 1 else s
      s.emit (.readData oPF (dataOf r.2.1) (anyMark r.2.1) 0)) s

/-- HOST_WINDOW_WRITE (R620). -/
def winWrite (i ofs : Nat) (data : List Byte) (bar4 pois tmo : Bool) (s : State) : State :=
  winAccess i ofs data.length bar4 true tmo (winDeny i ofs)
    (fun s =>
      let o := s.winOwner i
      let r := writeBlocks pHIF (s.access o) (s.winTier i) (fun _ => true)
        (mBlocks (s.winTier i) (data.length + 1) (s.winAddr i ofs) data.length) (data.map (·, pois)) s
      let s := perfOwn pHIF 0xA1 data.length o r.2
      if r.1 = 0 then s else logErr pHIF r.1 o 0 0 s) s

/-- HIF_WIN registers (R624): `k` is 0 BASE_LO, 1 BASE_HI, 2 SIZE, 3 CTL. -/
def wrWin (m i k v : Nat) (s : State) : State :=
  let ofs := R.HIF_WIN_BASE_LO + 16 * i + 4 * k
  let en (s : State) : Bool := s.f pHIF (F.HIF_WIN_CTL_EN.at 16 i) == 1
  plainWrite m pHIF ofs v
    (fun _ => match k with
      | 0 => bits v 1 0 != 0
      | 1 => true
      | 2 => decide (1 ≤ bits v 19 0) && decide (bits v 19 0 ≤ 524288)
      | _ => decide (bits v 3 0 < 8))
    (fun s =>
      if k = 3 then
        !(en s && changes pHIF (F.HIF_WIN_CTL_OWNER.at 16 i) v s) && !(bit v 31 && !en s && !s.enabled (bits v 3 0))
      else !en s || v == s.w pHIF ofs) s

/-! ## Functions and the upstream link (R612 to R614, R633, R636, R637) -/

/-- PF_FLR (R636). -/
def pfFlr (s : State) : State :=
  let s := vfOff s
  let s := s.setMsix 0 {}
  let s := s.setF pHIF F.EVQ_CTL_EN 0
  forUp (fun i s => s.setF pHIF (F.HIF_WIN_CTL_EN.at 16 i) 0) 16 0 s

/-- The upstream link goes down: every function is reset, and the partitions are disabled (R637). -/
def linkGone (s : State) : State :=
  let s := forUp (fun p s => if s.enabled p then startPrtReset p true s else s) 8 0 (pfFlr s)
  { s.setW pHIF R.HIF_LINK_STS 0 with hif := { s.hif with atc := [], accs := [] } }

/-- The level of PERST_N. -/
def setPerst (high : Bool) (s : State) : State := { s with pins := { s.pins with perstN := high } }

/-- UPSTREAM_RESET: the upstream link is down, by PERST_N or by itself. -/
def upstreamReset (s : State) : State :=
  if s.f pHIF F.HIF_LINK_STS_UP = 1 then linkGone s else s

/-- The upstream link trains (R613): at a generation, width and CXL version both ends support. -/
def linkTrained (gen width cxl : Nat) (mem : Bool) (s : State) : State :=
  if s.pins.upReleased ∧ s.pins.perstN ∧ s.f pHIF F.HIF_LINK_STS_UP = 0 ∧ 4 ≤ gen ∧ gen ≤ 6 ∧ (width = 4 ∨ width = 8 ∨ width = 16) ∧ cxl ≤ 3 then
    s.setW pHIF R.HIF_LINK_STS
      (2 ^ 31 + b2n (gen == 6) * 2 ^ 30 + cxl * 2 ^ 28 + b2n (mem && cxl != 0) * 2 ^ 27 + width * 2 ^ 16 + gen)
  else s

/-- ATS_INVALIDATE (R633): translations of `n` pages of a function from `page` on are removed. -/
def atsInvalidate (fn page n : Nat) (s : State) : State :=
  { s with hif := { s.hif with atc := s.hif.atc.filter (fun e => !(e.1 == fn && decide (page ≤ e.2) && decide (e.2 < page + n))) } }

/-- CXL_SNOOP (R614). -/
def snoop (addr : Nat) (s : State) : State :=
  if s.f pHIF F.HIF_LINK_STS_UP = 1 ∧ s.f pHIF F.HIF_LINK_STS_CXL ≠ 0 then s.emit (.snoopMiss addr) else s

/-- DOE_CDAT_READ: the device's CDAT, which the spec does not write out. -/
def cdatRead (s : State) : State :=
  if s.f pHIF F.HIF_LINK_STS_UP = 1 then s.emit (.doe Config.cdat) else s

/-! ## Meanings -/

/-- SQ_TAIL_WRITE. -/
def execSqTailWrite (p q v : Nat) (s : State) : Host.Outcome State Fault Refusal :=
  whenOk (okPart p && below 4 q && okWord v) s <|
  run [] s (wrQueue (p % 8) (0x40 * (q % 4) + 0x14) (v % 2 ^ 32))
/-- SQ_FETCH. -/
def execSqFetch (p : Nat) (entry : List Byte) (res : Nat) (s : State) : Host.Outcome State Fault Refusal :=
  whenOk (okPart p) s <|
  run [] s (sqFetch p entry res)
/-- CQ_WRITE. -/
def execCqWrite (p q : Nat) (s : State) : Host.Outcome State Fault Refusal :=
  whenOk (okPart p && below 4 q) s <| run [] s (cqWrite p (q % 4))
/-- COMPLETION_INTERRUPT. -/
def execCompletionInterrupt (p q : Nat) (s : State) : Host.Outcome State Fault Refusal :=
  whenOk (okPart p && below 4 q) s <| run [] s (cplInt p (q % 4))
/-- Q_CFG_WRITE. -/
def execQCfgWrite (p q v : Nat) (s : State) : Host.Outcome State Fault Refusal :=
  whenOk (okPart p && below 4 q && okWord v) s <|
  run [] s (wrQueue (p % 8) (0x40 * (q % 4) + 0x10) (v % 2 ^ 32))
/-- HOST_WINDOW_READ. -/
def execHostWindowRead (i ofs len : Nat) (bar4 tmo : Bool) (errs : Errs) (s : State) : Host.Outcome State Fault Refusal :=
  whenOk (below 16 i) s <|
  runErr errs [] s (winRead i ofs len bar4 tmo)
/-- HOST_WINDOW_WRITE. -/
def execHostWindowWrite (i ofs : Nat) (data : List Byte) (bar4 pois tmo : Bool) (s : State) : Host.Outcome State Fault Refusal :=
  whenOk (below 16 i) s <|
  runErr [] [] s (winWrite i ofs data bar4 pois tmo)
/-- ATS_INVALIDATE. -/
def execAtsInvalidate (fn page n : Nat) (s : State) : Host.Outcome State Fault Refusal :=
  whenOk (below 9 fn) s <| run [] s (atsInvalidate fn page n)
/-- PF_FLR. -/
def execPfFlr (s : State) : Host.Outcome State Fault Refusal := run [] s pfFlr
/-- UPSTREAM_RESET: PERST_N goes low (`perst`), or the link goes down. -/
def execUpstreamReset (perst : Bool) (s : State) : Host.Outcome State Fault Refusal :=
  runPin [pHIF] s (fun s => if perst then setPerst false s else s) upstreamReset
/-- PERST_N_RELEASE: PERST_N rises, or a link that has dropped comes back, and the port trains. -/
def execPerstNRelease (gen width cxl : Nat) (mem : Bool) (s : State) : Host.Outcome State Fault Refusal :=
  runPin [pHIF] s (setPerst true) (linkTrained gen width cxl mem)
/-- CXL_SNOOP. -/
def execCxlSnoop (addr : Nat) (s : State) : Host.Outcome State Fault Refusal :=
  whenOk (below (2 ^ 64) addr) s <| run [] s (snoop addr)
/-- DOE_CDAT_READ. -/
def execDoeCdatRead (s : State) : Host.Outcome State Fault Refusal := run [] s cdatRead

end Sys2Proof.Machine
end

