-- ==== Sys2Proof/Machine/Fsc.lean ====
section
/-! DEFINITION.  Far-store ports: slots, training, loss, drain and acceptance (R638 to R644, R743, R744). -/

namespace Sys2Proof.Machine

def State.fscSlot (s : State) (i : Nat) : FscSlot := SMap.get s.fsc i {}
def State.setFsc (s : State) (i : Nat) (v : FscSlot) : State := { s with fsc := SMap.put s.fsc i v {} }

/-- Ports 0 to 3. -/
abbrev pFSC (i : Nat) : Nat := 0x510 + i

/-! ## Slot bring-up (Table 17-4a) -/

/-- FSC_PRESENT: FSC_PRSNT_N has been low for the class D filter time (step 1). -/
def present (i : Nat) (s : State) : State :=
  if i < 4 then slotPower i (s.setF (pFSC i) F.FSC_STS_PRESENT 1) else s

/-- FSC_PERST_RELEASE (step 3): FSC_PERST_N is released and the root port trains. -/
def fscPerst (i : Nat) (s : State) : State :=
  let k := s.fscSlot i
  let now := s.nowOn (dieOfPage (pFSC i))
  if i < 4 ∧ k.step = .perst ∧ k.since + k.wait ≤ now then
    (s.emit (.pin (50 + i) true)).setFsc i { k with step := .train, since := now, wait := 100000000 }
  else s

/-- The link of a port is up: its rate code (Table 05-3), lanes and CXL version. -/
def fscUp (i gen width cxl : Nat) (s : State) : State :=
  let s := ((s.setF (pFSC i) F.FSC_STS_GEN gen).setF (pFSC i) F.FSC_STS_WIDTH width).setF (pFSC i) F.FSC_STS_CXL cxl
  (s.setF (pFSC i) F.FSC_STS_LINK_UP 1).setFsc i { s.fscSlot i with step := .up }

/-- FSC_TRAIN_CHECK (step 4): the link has trained within 100 ms; or they have passed and it has not, FSC_PERST_N is
held low, and the port tries again after 1 s. -/
def trainCheck (i : Nat) (link : Option (Nat × Nat × Nat)) (s : State) : State :=
  let k := s.fscSlot i
  let now := s.nowOn (dieOfPage (pFSC i))
  if i < 4 ∧ k.step = .train then
    match link with
    | some (gen, width, cxl) =>
      if gen ≤ 2 ∧ (width = 1 ∨ width = 2 ∨ width = 4 ∨ width = 8) ∧ cxl ≤ 3 ∧ now ≤ k.since + k.wait then fscUp i gen width cxl s
      else s
    | none =>
      if k.since + k.wait ≤ now then
        (s.emit (.pin (50 + i) false)).setFsc i { k with step := .perst, since := now, wait := 1000000000 }
      else s
  else s

/-- The expander is gone (`gone`), or only its link: what FSC_STS reports, and where the slot stands. -/
def fscGone (i : Nat) (gone : Bool) (s : State) : State :=
  let k := s.fscSlot i
  let s := fscLinkDown (pFSC i) s
  if gone then
    ((s.setF (pFSC i) F.FSC_STS_PRESENT 0).emit (.pin (40 + i) false)).emit (.pin (50 + i) false)
      |> fun s => s.setFsc i { k with step := .off, draining := false }
  else if k.step = .up then s.setFsc i { k with step := .train, since := s.nowOn (dieOfPage (pFSC i)), wait := 100000000, draining := false }
  else s

/-- FSC_PRSNT_N_RISE on a port that is not READY (R743). -/
def prsntRise (i : Nat) (gone : Bool) (s : State) : State :=
  if i < 4 ∧ s.f (pFSC i) F.FSC_HP_STS_READY = 0 then fscGone i gone s else s

/-! ## Loss (R640) -/

/-- The partitions that hold a far unit of a port. -/
def State.farHolders (s : State) (i : Nat) : List Nat :=
  (List.range 8).filter (fun p => (s.unitsOf resFar p).any (fun u => u / 512 == i))

/-- An ERROR record of the FSC page for one partition. -/
def lostRec (i p : Nat) (s : State) : State :=
  if s.f (pFSC i) F.PG_EVT_EN_ERR = 1 then emitRec { kind := .error, page := pFSC i, subj := p, code := 0x1B } s else s

/-- PORT_LOST: the link of a READY port goes down, or its expander's presence is lost. -/
def portLost (i : Nat) (gone : Bool) (s : State) : State :=
  if i < 4 ∧ s.f (pFSC i) F.FSC_HP_STS_READY = 1 then
    let s := forEach (fun c s => coreFault c 0x1B 0 0 none s) (s.askers (pFSC i)) s
    let s := (s.setF (pFSC i) F.FSC_HP_STS_READY 0).setF (pFSC i) F.FSC_HP_STS_LOST 1
    let s := fscGone i gone s
    forEach (lostRec i) (s.farHolders i) (logErr (pFSC i) 0x1B oTormal 0 0 s)
  else s

/-! ## FSC_HP (R641, R642, R744) -/

/-- R643: after ACCEPT every line of the port reads as unpredictable data. -/
def freshFar (i : Nat) (s : State) : State :=
  let here (k : Nat) : Bool := k / 2 ^ 48 == 3 && k / 2 ^ 41 % 4 == i
  { s with mem := { s.mem with
      bytes := s.mem.bytes.drop here, lines := s.mem.lines.drop here
      epoch := SMap.put s.mem.epoch i (SMap.get s.mem.epoch i 0 + 1) 0 } }

/-- Does every assigned far unit of the port lie within a capacity (R642)? -/
def State.farWithin (s : State) (i cap : Nat) : Bool :=
  (List.range 512).all (fun u => s.holderOf resFar (512 * i + u) == none || decide (u < cap))

/-- ACCEPT. -/
def accept (i cap : Nat) (s : State) : State :=
  let s := (s.setF (pFSC i) F.FSC_CAP_CAP4G cap).setF (pFSC i) F.FSC_HP_STS_READY 1
  let s := (s.setF (pFSC i) F.FSC_HP_STS_LOST 0).setF (pFSC i) F.FSC_HP_STS_DRAINED 0
  freshFar i (s.setFsc i { s.fscSlot i with draining := false })

/-- A write to FSC_HP; `given` is the capacity of the expander on the port, in units of 4 GiB, where the
command gives it; otherwise it is the expander's own, a free value that ACCEPT draws. -/
def wrFscHp (m i v : Nat) (given : Option Nat) (s : State) : State :=
  let pg := pFSC i
  let cap := min (given.getD (s.free 10)) 512
  checkedWrite m pg R.FSC_HP v (fun _ => true)
    (fun s =>
      !(bit v 31 && bit v 30) &&
      !(!bit v 0 && s.f pg F.FSC_HP_POWER == 1 && s.f pg F.FSC_HP_STS_DRAINED == 0 && s.f pg F.FSC_HP_STS_LOST == 0) &&
      !(bit v 31 && !(s.f pg F.FSC_STS_LINK_UP == 1 && s.f pg F.FSC_STS_CXL != 0 && s.farWithin i cap)))
    (fun s =>
      let s := if changes pg F.FSC_HP_POWER v s then slotPower i (s.setF pg F.FSC_HP_POWER (bits v 0 0)) else s
      if bit v 30 then s.setFsc i { s.fscSlot i with draining := true }
      else if bit v 31 then accept i cap (if given.isNone then s.drawn else s)
      else s) s

/-- FSC_DRAINED (R641): no request is outstanding on a draining port. -/
def drained (i : Nat) (s : State) : State :=
  if i < 4 ∧ (s.fscSlot i).draining = true ∧ s.askers (pFSC i) = [] then
    let s := (s.setF (pFSC i) F.FSC_HP_STS_DRAINED 1).setF (pFSC i) F.FSC_HP_STS_READY 0
    s.setFsc i { s.fscSlot i with draining := false }
  else s

/-! ## Meanings -/

/-- FSC_PRESENT. -/
def execFscPresent (i : Nat) (s : State) : Host.Outcome State Fault Refusal :=
  whenOk (below 4 i) s <| run [pFSC (i % 4)] s (present i)
/-- FSC_PERST_RELEASE. -/
def execFscPerstRelease (i : Nat) (s : State) : Host.Outcome State Fault Refusal :=
  whenOk (below 4 i) s <| run [] s (fscPerst i)
/-- FSC_TRAIN_CHECK. -/
def execFscTrainCheck (i : Nat) (link : Option (Nat × Nat × Nat)) (s : State) : Host.Outcome State Fault Refusal :=
  whenOk (below 4 i) s <|
  run [pFSC (i % 4)] s (trainCheck i link)
/-- PORT_LOST. -/
def execPortLost (i : Nat) (gone : Bool) (s : State) : Host.Outcome State Fault Refusal :=
  whenOk (below 4 i) s <| run [pFSC (i % 4)] s (portLost i gone)
/-- FSC_ACCEPT: a write of FSC_HP with ACCEPT 1 and POWER as it is. -/
def execFscAccept (m i cap : Nat) (s : State) : Host.Outcome State Fault Refusal :=
  whenOk (okMaster m && below 4 i) s <|
  run [pFSC (i % 4)] s fun s => wrFscHp m (i % 4) (2 ^ 31 + s.f (pFSC (i % 4)) F.FSC_HP_POWER) (some cap) s
/-- FSC_DRAIN: a write of FSC_HP with DRAIN 1 and POWER as it is. -/
def execFscDrain (m i : Nat) (s : State) : Host.Outcome State Fault Refusal :=
  whenOk (okMaster m && below 4 i) s <|
  run [pFSC (i % 4)] s fun s => wrFscHp m (i % 4) (2 ^ 30 + s.f (pFSC (i % 4)) F.FSC_HP_POWER) (some 0) s
/-- FSC_DRAINED. -/
def execFscDrained (i : Nat) (s : State) : Host.Outcome State Fault Refusal :=
  whenOk (below 4 i) s <| run [pFSC (i % 4)] s (drained i)
/-- FSC_POWER_WRITE: a write of FSC_HP with POWER as given. -/
def execFscPowerWrite (m i : Nat) (on : Bool) (s : State) : Host.Outcome State Fault Refusal :=
  whenOk (okMaster m && below 4 i) s <|
  run [pFSC (i % 4)] s fun s => wrFscHp m (i % 4) (b2n on) (some 0) s
/-- FSC_PRSNT_N_RISE. -/
def execFscPrsntNRise (i : Nat) (gone : Bool) (s : State) : Host.Outcome State Fault Refusal :=
  whenOk (below 4 i) s <|
  run [pFSC (i % 4)] s (prsntRise i gone)

end Sys2Proof.Machine
end

