-- ==== Sys2Proof/Machine/Power.lean ====
section
/-! DEFINITION.  The adaptive voltage loops, the HOT_N input and the thermal trip (R672 to R682, R699). -/

namespace Sys2Proof.Machine

/-! ## Pins the device drives: 1 THERMTRIP_N, 2 HOT_N, 3 ALERT_N, 40 + i FSC_PWREN, 50 + i FSC_PERST_N -/

abbrev pinTrip : Nat := 1
abbrev pinHot : Nat := 2
abbrev pinAlert : Nat := 3

/-! ## R675 -/

/-- What a loop reads at the start of an interval. -/
structure LoopIn where
  hot : Bool
  pkg : Nat
  rate : Nat

/-- R675: the new target of a die whose present target is `v`. -/
def State.nextVcore (s : State) (x : LoopIn) (v : Nat) : Nat :=
  let en := s.f pPWR F.PWR_CAP_EN == 1
  let capped := en && decide (s.f pPWR F.PWR_CAP_W ≤ x.pkg)
  let room := !en || decide (x.pkg + s.f pPWR F.PWR_CAP_HYST < s.f pPWR F.PWR_CAP_W)
  let step := s.f pPWR F.PWR_LOOP_STEP
  let mode := s.f pPWR F.PWR_MODE_MODE
  let floor := s.f pPWR F.PWR_FLOOR_RATE
  let up := if room then v + step else v
  let t :=
    if x.hot || capped then v - step
    else if mode = 0 then s.f pPWR F.PWR_VSET_MV
    else if x.rate < floor then up
    else if mode = 1 then up
    else if floor + s.f pPWR F.PWR_FLOOR_MARGIN < x.rate then v - step
    else v
  min (max t (s.f pPWR F.PWR_VLIM_VMIN)) (s.f pPWR F.PWR_VLIM_VMAX)

/-- The PWR_V register of a die. -/
def fldTgt (die : Nat) : Fld := if die = 0 then F.PWR_V0_TGT else F.PWR_V1_TGT
def fldSense (die : Nat) : Fld := if die = 0 then F.PWR_V0_SENSE else F.PWR_V1_SENSE
def fldI (die : Nat) : Fld := if die = 0 then F.PWR_I_I0 else F.PWR_I_I1
def fldTj (die : Nat) : Fld := if die = 0 then F.PWR_TEMP_TJ0 else F.PWR_TEMP_TJ1
def fldRate (die : Nat) : Fld := if die = 0 then F.TBS_EVR0_RATE else F.TBS_EVR1_RATE

/-- PWR_STS follows what both loops found, and HOT_N is driven while a die is hot by its own
temperatures (R677). -/
def pwrStatus (s : State) : State :=
  let hot := s.pwr.hot != 0
  let s := if (s.f pPWR F.PWR_STS_HOT == 1) == hot then s else s.emit (.pin pinHot (!hot))
  let s := (s.setF pPWR F.PWR_STS_CAPPED (b2n (s.pwr.capped != 0))).setF pPWR F.PWR_STS_HOT (b2n hot)
  let s := (s.setF pPWR F.PWR_STS_BELOW_FLOOR (b2n (s.pwr.below != 0))).setF pPWR F.PWR_STS_AVS_ERR (b2n (s.pwr.avsErr != 0))
  (s.setF pPWR F.PWR_STS_SENSOR_FAIL (b2n (s.pwr.sensorFail != 0))).setF pPWR F.PWR_STS_HOT_IN (b2n s.pins.hotIn)

/-- The readings of an interval.  With every sensor of the die failed its temperature reads as anything,
and the failure is logged when it begins (Table 19-12). -/
def pwrReadings (die : Nat) (tj : Option Int) (hbm : Int) (pkg : Nat) (s : State) : State :=
  let s := (s.setF pPWR F.PWR_PKG_W (sat 1023 pkg)).setF pPWR F.PWR_TEMP_HBM (uns 8 hbm)
  match tj with
  | some t => { s.setF pPWR (fldTj die) (uns 8 t) with pwr := { s.pwr with sensorFail := setBits s.pwr.sensorFail die die 0 } }
  | none =>
    let was := bit s.pwr.sensorFail die
    let s := { (s.setF pPWR (fldTj die) (s.free 8)).drawn with pwr := { s.pwr with sensorFail := setBits s.pwr.sensorFail die die 1 } }
    if was then s else logErr pPWR 0x07 (s.defSubj pPWR) 0 0 s

/-- Is a die hot by its own temperatures (R675, R680, Table 19-12)? -/
def State.ownHot (s : State) (tj : Option Int) (hbm : Int) : Bool :=
  (match tj with
   | some t => decide ((s.f pPWR F.PWR_TLIM_THROT : Int) < t)
   | none => true) || decide (95 < hbm)

/-- PWR_LIM_TIME counts an interval of `us` in which a limit made a step, once for both dies. -/
def limCount (die us : Nat) (s : State) : State :=
  let now := s.nowOn die
  let e := now + us * 1000
  let from_ := max now s.pwr.limEnd
  let s := s.addF pPWR F.PWR_LIM_TIME_US ((e - from_) / 1000)
  { s with pwr := { s.pwr with limEnd := max e s.pwr.limEnd } }

/-- R681: the N4 drives THERMTRIP_N low and stops all activity. -/
def trip (s : State) : State := { s.emit (.pin pinTrip false) with pins := { s.pins with tripped := true } }

/-- R681: the readings that trip the device: 125 °C on a die, 105 °C in a stack. -/
def tripsAt (tj : Option Int) (hbm : Int) : Bool := tj.any (fun t => decide (125 ≤ t)) || decide (105 ≤ hbm)

/-- LOOP_INTERVAL: a die's loop reads its inputs at the start of an interval, writes its target over
AVSBus and reads VCORE and its current back; `ok` is false where the transaction is not answered or the
regulator reports a fault (R672, R675, R676, Table 19-12). -/
def loopInterval (die : Nat) (tj : Option Int) (hbm : Int) (pkg sense cur : Nat) (ok : Bool) (s : State) : State :=
  if die < 2 ∧ s.pwr.started = true ∧ SMap.get s.pwr.next die 0 ≤ s.nowOn die then
    let us := s.f pPWR F.PWR_LOOP_US
    let own := s.ownHot tj hbm
    let hot := own || s.pins.hotIn
    let capped := s.f pPWR F.PWR_CAP_EN == 1 && decide (s.f pPWR F.PWR_CAP_W ≤ pkg)
    let rate := s.f pTBS (fldRate die)
    let below := decide (rate < s.f pPWR F.PWR_FLOOR_RATE)
    let v := s.f pPWR (fldTgt die)
    let v' := if bit s.pwr.avsErr die then v else s.nextVcore { hot := hot, pkg := pkg, rate := rate } v
    let s := pwrReadings die tj hbm pkg s
    let s := s.emit (.avs die v')
    let s := { s with pwr := { s.pwr with
      next := SMap.put s.pwr.next die (s.nowOn die + us * 1000) 0
      hot := setBits s.pwr.hot die die (b2n own)
      below := setBits s.pwr.below die die (b2n below)
      capped := setBits s.pwr.capped die die (b2n (capped && ok && decide (v' < v)))
      avsErr := setBits s.pwr.avsErr die die (b2n (!ok)) } }
    let s := if ok then ((s.setF pPWR (fldTgt die) v').setF pPWR (fldSense die) (sat 1023 sense)).setF pPWR (fldI die) (sat 511 cur)
      else logErr pPWR 0x03 (s.defSubj pPWR) 0 0 s
    let s := pwrStatus (if ok && (hot || capped) && decide (v' < v) then limCount die us s else s)
    if tripsAt tj hbm then trip s else s
  else s

/-- HOT_N as the board drives it (R677). -/
def setHotIn (low : Bool) (s : State) : State := { s with pins := { s.pins with hotIn := low } }

/-! ## PWR registers (R699 and their Meaning columns) -/

/-- The range rules of the PWR page's registers. -/
def pwrRange (ofs v : Nat) (s : State) : Bool :=
  let mv (x : Nat) : Bool := decide (650 ≤ x) && decide (x ≤ 900)
  if ofs = R.PWR_MODE then bits v 1 0 != 3
  else if ofs = R.PWR_VLIM then mv (bits v 25 16) && mv (bits v 9 0) && decide (bits v 9 0 ≤ bits v 25 16)
  else if ofs = R.PWR_VSET then
    decide (s.f pPWR F.PWR_VLIM_VMIN ≤ bits v 9 0) && decide (bits v 9 0 ≤ s.f pPWR F.PWR_VLIM_VMAX)
  else if ofs = R.PWR_FLOOR then
    decide (bits v 24 16 ≤ 500) && decide (1000 ≤ bits v 11 0) && decide (bits v 11 0 ≤ 2400)
  else if ofs = R.PWR_CAP then
    decide (1 ≤ bits v 22 16) && decide (bits v 22 16 ≤ 100) && decide (300 ≤ bits v 9 0) && decide (bits v 9 0 ≤ 900)
  else if ofs = R.PWR_TLIM then decide (60 ≤ bits v 6 0) && decide (bits v 6 0 ≤ 105)
  else if ofs = R.PWR_LOOP then
    decide (1 ≤ bits v 20 16) && decide (bits v 20 16 ≤ 20) && decide (5 ≤ bits v 9 0) && decide (bits v 9 0 ≤ 1000)
  else true

/-! ## Meanings -/

/-- LOOP_INTERVAL. -/
def execLoopInterval (die : Nat) (tj : Option Int) (hbm : Int) (pkg sense cur : Nat) (ok : Bool) (s : State) :
    Host.Outcome State Fault Refusal :=
  whenOk (okDie die) s <|
  run [pPWR] s (loopInterval die tj hbm pkg sense cur ok)
/-- HOT_N_INPUT: the filtered level of the pin, as the board drives it, changes. -/
def execHotNInput (low : Bool) (s : State) : Host.Outcome State Fault Refusal :=
  runPin [pPWR] s (setHotIn low) (fun s => s.setF pPWR F.PWR_STS_HOT_IN (b2n low))
/-- THERMAL_TRIP. -/
def execThermalTrip (s : State) : Host.Outcome State Fault Refusal := run [] s trip

end Sys2Proof.Machine
end

