-- ==== Sys2Proof/Machine/Boot.lean ====
section
/-! DEFINITION.  Cold and warm reset, the boot sequence and the firmware slots (R146, R682, R700 to R712,
R748). -/

namespace Sys2Proof.Machine

/-! ## Fuses and the firmware store (R707, Table 20-4) -/

/-- The fused SVN. -/
def State.svn (s : State) : Nat := s.nv.svn.getD (Config.fusedSvn % 64)

/-- The lifecycle state (Table 20-5): 1 MANUF, 2 PROD, 3 RMA, 4 END. -/
def State.life (s : State) : Nat := s.nv.life.getD (Config.fusedLife % 4 + 1)

/-- The active slot: 0 A, 1 B. -/
def State.fwSlot (s : State) : Nat := s.nv.act.getD (Config.fwAct % 2)

/-- A slot's image. -/
def State.fwImg (s : State) (slot : Nat) : FwImage :=
  (SMap.get s.nv.images slot none).getD
    ⟨(Config.fwImage slot).1, (Config.fwImage slot).2.1 % 64, (Config.fwImage slot).2.2 % 2 ^ 24⟩

/-- A slot's image is replaced, or its VALID changes. -/
def setFwImg (slot : Nat) (x : FwImage) (s : State) : State :=
  { s with nv := { s.nv with images := SMap.put s.nv.images slot (some x) none } }

/-- FW_STS and FW_VER read what the fuses and the store hold. -/
def fwShow (s : State) : State :=
  let a := s.fwImg 0
  let b := s.fwImg 1
  let s := ((s.setF pFW F.FW_STS_SVN s.svn).setF pFW F.FW_STS_LIFE s.life).setF pFW F.FW_STS_ACT s.fwSlot
  let s := (s.setF pFW F.FW_STS_VALID_A (b2n a.valid)).setF pFW F.FW_STS_VALID_B (b2n b.valid)
  let s := (s.setF pFW F.FW_VER_A_SVN (if a.valid then a.svn else 0)).setF pFW F.FW_VER_A_BUILD a.build
  (s.setF pFW F.FW_VER_B_SVN (if b.valid then b.svn else 0)).setF pFW F.FW_VER_B_BUILD b.build

/-- The identity a part carries: GLB_UID, and its stepping. -/
def readFuses (s : State) : State :=
  let s := s.setW64 pGLB R.GLB_UID_LO R.GLB_UID_HI Config.uid.toNat
  fwShow (s.setF pGLB F.GLB_PART_STEP (s.f pGLB F.PG_VER_STEP))

/-- R16: a die's marked slots, at most eight. -/
def marks (die : Nat) : List Nat := (markedOn die Config.coreDefect).take 8

/-- Is the slot marked? -/
def marked (c : Nat) : Bool := (marks (c / 256)).contains (c % 256)

/-- R15: the core routers of the manufacturing defect map. -/
def bootRouter (r : Router) : Router :=
  [0, 1].foldl (fun r die =>
    let r := (marks die).foldl (fun r k => { r with
      role := SMap.put r.role (256 * die + k) .failed (roleDefault (256 * die + k))
      coreOf := SMap.put r.coreOf (256 * die + k) none (coreOfDefault (256 * die + k)) }) r
    (coldSpares die marked).foldl (fun r x => { r with
      slotOf := SMap.put r.slotOf (192 * die + x.1) (some (256 * die + x.2)) (slotOfDefault (192 * die + x.1))
      coreOf := SMap.put r.coreOf (256 * die + x.2) (some (192 * die + x.1)) (coreOfDefault (256 * die + x.2))
      role := SMap.put r.role (256 * die + x.2) .substitute (roleDefault (256 * die + x.2)) }) r) r

/-! ## Cold reset (R703, R706) -/

/-- What a controller keeps through a reset: Tormal's row repairs, applied again at boot. -/
def Ctl.kept (c : Ctl) : Ctl := { remap := c.remap, spareUsed := c.spareUsed }

/-- The controllers after a cold or warm reset. -/
def keptCtls (m : SMap Ctl) : SMap Ctl := m.foldl (fun a e => SMap.put a e.1 e.2.kept {}) []

/-- Cold reset is applied and held: every item of Table 20-3 that it clears, and what no reset touches.
Tier bytes stay where they are, but no key opens them any longer (R153). -/
def coldReset (s : State) : State :=
  { State.reset with
    pending := s.pending
    mem := { s.mem with sram := [] }
    ctls := keptCtls s.ctls
    prt := { State.reset.prt with
      keys := [(8, { st := .active, owner := oTormal, gen := 1, key := s.prt.nextKey })], nextKey := s.prt.nextKey + 1 }
    ckp := { images := s.ckp.images }
    nv := s.nv
    pins := { s.pins with held := true, upReleased := false }
    out := s.out
    fresh := s.fresh }

/-- A source of cold reset acts; `pin` says how the pins stand. -/
def coldBy (pin : Pins → Pins) (s : State) : State :=
  let s := { s with pins := pin s.pins }
  if s.pins.held then s else coldReset s

/-- PWROK falls (R681, R701): THERMTRIP_N is released. -/
def pwrokFall (s : State) : State :=
  let s := if s.pins.tripped then s.emit (.pin pinTrip true) else s
  coldBy (fun p => { p with pwrok := false, tripped := false }) s

/-! ## The boot sequence (Table 20-6) -/

/-- MGT_STS.STAGE. -/
abbrev State.stage (s : State) : Nat := s.f pMGT F.MGT_STS_STAGE

def setStage (n : Nat) (s : State) : State := s.setF pMGT F.MGT_STS_STAGE n

/-- RST_N_RELEASE: cold reset ends, and step 1 reads the fuses; in END the boot ROM halts there. -/
def rstRelease (s : State) : State :=
  if s.pins.held = true then
    let s := { s with pins := { s.pins with pwrok := true, rstN := true, held := s.pins.tripped } }
    if s.pins.tripped then s
    else
      let s := readFuses { s with router := bootRouter s.router, mgt := { s.mgt with warm := false } }
      if s.life = 4 then s else setStage 2 s
  else s

/-- Tormal starts (step 3). -/
def tormalStarts (s : State) : State :=
  let s := { s with mgt := { s.mgt with kickAt := s.now, spdm := 0, sessions := [] } }
  stepThree (setStage 3 (s.setF pMGT F.MGT_STS_RUN 1))

/-- Step 2 for one slot: its signature holds, and its SVN is at or above the fused SVN. -/
def State.imageOk (s : State) (slot : Nat) (sig : Bool) : Bool := sig && decide (s.svn ≤ (s.fwImg slot).svn)

/-- VALID of a slot after its image has been verified. -/
def setValid (slot : Nat) (v : Bool) (s : State) : State := fwShow (setFwImg slot { s.fwImg slot with valid := v } s)

/-- BOOT_IMAGE_VERIFY (step 2): `sigAct` and `sigOther` say whether the signatures of the active and of the
other slot's image hold.  With neither, recovery (Table 20-6a). -/
def imageVerify (sigAct sigOther : Bool) (s : State) : State :=
  if s.stage = 2 ∧ s.f pFW F.FW_STS_RECOVERY = 0 then
    let a := s.fwSlot
    if s.imageOk a sigAct then tormalStarts (setValid a true s)
    else
      let s := setValid a false s
      if s.imageOk (1 - a) sigOther then
        tormalStarts (setValid (1 - a) true { s with nv := { s.nv with act := some (1 - a) } })
      else
        let s := setValid (1 - a) false s
        let s := logErr pFW 0x1C (s.defSubj pFW) 0 0 (s.setF pFW F.FW_STS_RECOVERY 1)
        s.emit (.pin pinAlert false)
  else s

/-- SEC_SELFTEST_DONE (steps 4 to 6): the security unit is ready and slot 8 gets its key, or R154 holds; then
the voltage loops start and the bridge trains. -/
def selftestDone (ok : Bool) (s : State) : State :=
  if s.stage = 4 then
    let s :=
      if ok then
        let s := s.setF pSEC F.SEC_STS_READY 1
        if s.mgt.warm then s else keyMade (s.setKeySlot 8 { s.keySlot 8 with key := s.prt.nextKey })
      else rngFails s
    bridgeBooted (setStage 6 { s with pwr := { s.pwr with started := true } })
  else s

/-- MEMORY_TRAINED (step 7): a near channel has calibrated, or a stack has trained at `rate` (92, 80 or 64); or
it has failed, and Tormal fences its page.  The spec states no code for the failure: it is free. -/
def memTrained (pg rate : Nat) (ok : Bool) (s : State) : State :=
  if s.stage = 7 ∧ memPages.contains pg = true ∧ s.memOk pg = false ∧ s.fenced pg = false ∧
      (pg < pgOf .msc 0 ∨ ok = false ∨ rate = 92 ∨ rate = 80 ∨ rate = 64) then
    let s :=
      if !ok then fence pg (logErr pg (s.free 8) (s.defSubj pg) 0 0 s.drawn)
      else if pg < pgOf .msc 0 then (s.setF pg F.NSC_STS_CAL_OK 1).setF pg F.PG_CTL_EN 1
      else ((s.setF pg F.MSC_STS_TRAINED 1).setF pg F.MSC_STS_RATE rate).setF pg F.PG_CTL_EN 1
    memBooted s
  else s

/-- The upstream link as it trains: generation, width, CXL version, and whether CXL.mem is used. -/
abbrev UpLink := Nat × Nat × Nat × Bool

/-- UPSTREAM_RELEASE (step 11): the upstream port is released `us` µs after RST_N. -/
def upRelease (us : Nat) (link : UpLink) (s : State) : State :=
  if s.stage = 11 then
    let s := { setStage 0xFF s with pins := { s.pins with upReleased := true } }
    linkTrained link.1 link.2.1 link.2.2.1 link.2.2.2 (s.setF pFW F.FW_BOOT_TIME_US (sat (2 ^ 32 - 1) us))
  else s

/-! ## Warm reset (R704 to R706) -/

/-- The bits of a register that a warm reset keeps: Table 20-3, what goes on being reported of parts that
are not reset, and counts since cold reset. -/
def keptWarm : PageType → Nat → Nat
  | .tbs, o => if o = R.TBS_EVR_CTL then 0 else if o < 0x100 then 0 else allBits
  | .glb, o => if o = R.GLB_PART ∨ o = R.GLB_UID_LO ∨ o = R.GLB_UID_HI ∨ o = R.GLB_STATE then allBits else 0
  | .prt, o => if R.PRT_P_SEED_LO ≤ o ∧ o < R.PRT_P_SEED_LO + 64 then allBits else 0
  | .sec, o => if o = R.SEC_STS then 2 else 0
  | .nsc, o => if o = R.NSC_STS then allBits else 0
  | .msc, o => if o = R.MSC_STS then allBits else 0
  | .fsc, o => if o = R.FSC_STS then 2 else 0
  | .hif, o => if o = R.HIF_LINK_STS then allBits else 0
  | .ras, o => if R.RAS_CNT_CE ≤ o ∧ o ≤ R.RAS_CNT_SRAM_UE ∨ o = R.RAS_FENCE_VAL ∨ o = R.RAS_LOG_STS then allBits else 0
  | .brg, o => if o = R.BRG_REPAIR then allBits else 0
  | .mig, o => if o = R.MIG_ROWS_LO ∨ o = R.MIG_ROWS_HI then allBits else 0
  | .ckp, o => if o = R.CKP_ENG_BYTES_LO ∨ o = R.CKP_ENG_BYTES_HI then allBits else 0
  | .lnk, o => if o = R.LNK_LANE_STS then 31 * 2 ^ 10 else 0
  | .dbg, o => if o = R.DBG_CNT then allBits else 0
  | .mgt, o => if o = R.MGT_STS then 0xFF * 2 ^ 16 else 0
  | .fw, o => if o = R.FW_STS ∨ o = R.FW_VER_A ∨ o = R.FW_VER_B then allBits - 2 ^ 30 else 0
  | _, _ => 0

/-- The registers after a warm reset. -/
def warmRegs (m : SMap Word) : SMap Word :=
  m.filterMap fun e =>
    match pageInfo (e.1 / 4096) with
    | none => none
    | some (t, _) =>
      let k := keptWarm t (e.1 % 4096)
      let w := BitVec.ofNat 32 (Nat.land e.2.toNat k + Nat.land (resetWord e.1).toNat (Nat.xor k allBits))
      if w = resetWord e.1 then none else some (e.1, w)

/-- Step 2: a partition is disabled, or the reset it is in ends; its key is gone. -/
def warmPart (p : Nat) (s : State) : State :=
  let s := retireKey p s
  match s.drainSlot p with
  | some n => s.setKeySlot n {}
  | none => s

/-- Step 3: every block is in its cold-reset state, but for what Table 20-3 keeps. -/
def warmBlocks (s : State) : State :=
  { State.reset with
    pending := s.pending
    regs := warmRegs s.regs
    tb := s.tb
    ev := { seq := s.ev.seq }
    prt := { keys := s.prt.keys, gens := s.prt.gens, nextKey := s.prt.nextKey, ikeys := s.prt.ikeys }
    mem := s.mem
    ctls := keptCtls s.ctls
    ras := { log := s.ras.log, fenced := s.ras.fenced, sramUe := s.ras.sramUe }
    router := { s.router with busy := none, held := false }
    ckp := { images := s.ckp.images }
    nv := s.nv
    mgt := { warm := true }
    pins := { s.pins with upReleased := false }
    out := s.out
    fresh := s.fresh }

/-- Step 4, and no fresh key can be made under RNG_FAULT (R154). -/
def warmKey (s : State) : State := if s.rngFault then s else bindKey oTormal (retireKey oTormal s)

/-- A warm reset.  Only a cold reset leaves FAILED (R122). -/
def warmReset (s : State) : State :=
  let s := if s.failed then s else s.setF pGLB F.GLB_STATE_STATE 0
  let s := forUp warmPart 8 0 s
  let s := readFuses (warmKey (warmBlocks s))
  let s := forUp slotPower 4 0 s
  tormalStarts s

/-! ## FW_CTL (R705, R717) -/

/-- R717: would raising the fused SVN shut out the other slot's image? -/
def State.svnLocksOut (s : State) : Bool :=
  (s.fwImg (1 - s.fwSlot)).valid && decide ((s.fwImg (1 - s.fwSlot)).svn < (s.fwImg s.fwSlot).svn)

/-- R717: the fused SVN becomes the active image's. -/
def svnCommit (s : State) : State :=
  fwShow { s with nv := { s.nv with svn := some (max s.svn (s.fwImg s.fwSlot).svn) } }

/-- A write to FW_CTL. -/
def wrFwCtl (m v : Nat) (s : State) : State :=
  checkedWrite m pFW R.FW_CTL v (fun _ => true)
    (fun s => !((bit v 31 || bit v 30) && s.f pFW F.FW_STS_ACTIVATING == 1) && !(bit v 30 && s.svnLocksOut))
    (fun s =>
      let s := if bit v 30 then svnCommit s else s
      if bit v 31 then warmReset s else s) s

/-! ## Meanings -/

/-- BROWN_OUT (R682). -/
def execBrownOut (s : State) : Host.Outcome State Fault Refusal := .next (coldBy id s)
/-- PWROK_FALL. -/
def execPwrokFall (s : State) : Host.Outcome State Fault Refusal := .next (pwrokFall s)
/-- RST_N_ASSERT: RST_N goes low. -/
def execRstNAssert (s : State) : Host.Outcome State Fault Refusal := .next (coldBy (fun p => { p with rstN := false }) s)
/-- RST_N_RELEASE. -/
def execRstNRelease (s : State) : Host.Outcome State Fault Refusal := .next (rstRelease s)
/-- BOOT_IMAGE_VERIFY. -/
def execBootImageVerify (sigAct sigOther : Bool) (s : State) : Host.Outcome State Fault Refusal :=
  run [] s (imageVerify sigAct sigOther)
/-- SEC_SELFTEST_DONE. -/
def execSecSelftestDone (ok : Bool) (s : State) : Host.Outcome State Fault Refusal := run [] s (selftestDone ok)
/-- MEMORY_TRAINED. -/
def execMemoryTrained (pg rate : Nat) (ok : Bool) (s : State) : Host.Outcome State Fault Refusal :=
  whenOk (okPage pg) s <|
  run [] s (memTrained pg rate ok)
/-- UPSTREAM_RELEASE. -/
def execUpstreamRelease (us : Nat) (link : UpLink) (s : State) : Host.Outcome State Fault Refusal :=
  run [pHIF] s (upRelease us link)
/-- WARM_RESET: a write of FW_CTL with WARM 1. -/
def execWarmReset (m : Nat) (s : State) : Host.Outcome State Fault Refusal :=
  whenOk (okMaster m) s <| run [] s (wrFwCtl m (2 ^ 31))
/-- SVN_COMMIT: a write of FW_CTL with SVN_COMMIT 1. -/
def execSvnCommit (m : Nat) (s : State) : Host.Outcome State Fault Refusal :=
  whenOk (okMaster m) s <| run [] s (wrFwCtl m (2 ^ 30))

end Sys2Proof.Machine
end

