-- ==== Sys2Proof/Machine/Mgmt.lean ====
section
/-! DEFINITION.  The management core and its endpoint: firmware update, watchdog, MCTP, PLDM and SPDM
(R708, R713 to R721). -/

namespace Sys2Proof.Machine

/-! ## The endpoint (R713, R714) -/

/-- MCTP message types. -/
abbrev mtControl : Nat := 0x00
abbrev mtPldm : Nat := 0x01
abbrev mtSpdm : Nat := 0x05
abbrev mtVendor : Nat := 0x7E

/-- Recovery (Table 20-6a). -/
def State.recovery (s : State) : Bool := s.f pFW F.FW_STS_RECOVERY == 1

/-- GLB_STATE is UPDATE (R714). -/
def State.updating (s : State) : Bool := s.glbState == 4

/-- Does the endpoint serve on a path: I3C and SMBus from step 3, PCIe from step 11 (R713), and in
recovery the former only; Tormal answers, or the endpoint while it restarts for an activation? -/
def State.serves (s : State) (pcie : Bool) : Bool :=
  if s.recovery then !pcie
  else (s.f pMGT F.MGT_STS_RUN == 1 || s.updating) &&
    (if pcie then s.stage == 0xFF && s.f pHIF F.HIF_LINK_STS_UP == 1 else decide (3 ≤ s.stage))

/-- A response whose body the spec leaves to other documents. -/
def answerFree (proto code : Nat) (s : State) : State := (s.emit (.mgmt proto code (Config.mgmtBody s.fresh))).drawn

/-- A PLDM response that carries a completion code: 0 success, 4 ERROR_NOT_READY, from 0x80 on the command's own
(PRESUMED from DSP0240, DSP0248 and DSP0267, log entry 87). -/
def answerPldm (cmd cc : Nat) (body : List Byte) (s : State) : State :=
  s.emit (.mgmt mtPldm cmd (BitVec.ofNat 8 cc :: body))

/-- `n` bytes of a response that neither the spec nor the standard's layout settles. -/
def State.openBytes (s : State) (n : Nat) : List Byte := padTo n (Config.mgmtBody s.fresh)

/-! ## Management restarts (R716) -/

/-- The management core restarts: its sessions are gone, and nothing else changes. -/
def mgtRestart (s : State) : State :=
  { s.setF pMGT F.MGT_STS_RUN 0 with mgt := { s.mgt with kickAt := s.now, spdm := 0, sessions := [] } }

/-- GLB_STATE as Tormal writes it around an activation; only cold reset leaves FAILED (R122). -/
def setGlb (v : Nat) (s : State) : State := if s.failed then s else s.setF pGLB F.GLB_STATE_STATE v

/-! ## Firmware update (Table 20-9) -/

/-- REQUEST_UPDATE (step 1): RequestUpdate for the Tormal image.  An update in progress answers
ALREADY_IN_UPDATE_MODE, another component UNABLE_TO_INITIATE_UPDATE. -/
def requestUpdate (pcie : Bool) (comp : Nat) (s : State) : State :=
  if !s.serves pcie then s
  else if s.mgt.updating = true ∨ s.mgt.act.isSome = true then answerPldm 0x10 0x81 [] s
  else if comp ≠ 1 then answerPldm 0x10 0x8A [] s
  else
    let s := setValid (1 - s.fwSlot) false { s with mgt := { s.mgt with updating := true } }
    answerPldm 0x10 0 [0, 0, 0] s

/-- TRANSFER_COMPLETE_PLDM (step 2): the image is verified: `sig` says whether its signature holds. -/
def transferDone (sig : Bool) (svn build : Nat) (s : State) : State :=
  if s.mgt.updating = true then
    let n := 1 - s.fwSlot
    let s := setFwImg n { valid := false, svn := svn % 64, build := build % 2 ^ 24 } { s with mgt := { s.mgt with updating := false } }
    if s.imageOk n sig then (setValid n true s).emit (.mgmt mtPldm 0x17 [0])
    else (logErr pFW 0x1C (s.defSubj pFW) 0 0 (fwShow s)).emit (.mgmt mtPldm 0x17 [1])
  else s

/-- ACTIVATE_FIRMWARE (step 3): an update still in transfer answers INCOMPLETE_UPDATE, an activation in progress
INVALID_STATE_FOR_COMMAND, and with no image to activate NOT_IN_UPDATE_MODE. -/
def activate (pcie : Bool) (s : State) : State :=
  if !s.serves pcie then s
  else if s.mgt.updating = true then answerPldm 0x1A 0x85 [] s
  else if s.mgt.act.isSome = true then answerPldm 0x1A 0x84 [] s
  else if (s.fwImg (1 - s.fwSlot)).valid = false then answerPldm 0x1A 0x80 [] s
  else
    let prev := s.glbState
    let s := (answerPldm 0x1A 0 (s.openBytes 2) s).drawn
    let s := mgtRestart ((setGlb 4 s).setF pFW F.FW_STS_ACTIVATING 1)
    { s with mgt := { s.mgt with act := some { since := s.now, prev := prev } } }

/-- FW_ACT_TMO in ns. -/
def State.actTmo (s : State) : Nat := s.f pFW F.FW_ACT_TMO_MS * 1000000

/-- TORMAL_READY: Tormal reports ready after a restart; step 4 of an activation follows.  In recovery the
boot goes on from step 3. -/
def tormalReady (s : State) : State :=
  match s.mgt.act with
  | some a =>
    if s.now ≤ a.since + s.actTmo ∨ a.back then
      let s := if a.back then s else fwShow { s with nv := { s.nv with act := some (1 - s.fwSlot) } }
      let s := (setGlb a.prev s).setF pFW F.FW_STS_ACTIVATING 0
      let s := { s.setF pMGT F.MGT_STS_RUN 1 with mgt := { s.mgt with act := none, kickAt := s.now } }
      if s.recovery then tormalStarts (s.setF pFW F.FW_STS_RECOVERY 0) else s
    else s
  | none =>
    if s.f pMGT F.MGT_STS_RUN = 0 ∧ 3 ≤ s.stage then { s.setF pMGT F.MGT_STS_RUN 1 with mgt := { s.mgt with kickAt := s.now } } else s

/-- FW_ACT_TMO_EXPIRY (step 5). -/
def actExpiry (s : State) : State :=
  match s.mgt.act with
  | some a =>
    if a.back = false ∧ a.since + s.actTmo ≤ s.now then
      let s := logErr pFW 0x1C (s.defSubj pFW) 0 0 (mgtRestart s)
      let s := setValid (1 - s.fwSlot) false s
      { s with mgt := { s.mgt with act := some { a with back := true } } }
    else s
  | none => s

/-! ## The watchdog (R718) -/

/-- A write to MGT_WDT. -/
def wrWdt (m v : Nat) (s : State) : State :=
  checkedWrite m pMGT R.MGT_WDT v (fun _ => decide (10 ≤ bits v 15 0) && decide (bits v 15 0 ≤ 60000)) (fun _ => true)
    (fun s =>
      let again := bit v 30 || (bit v 31 && s.f pMGT F.MGT_WDT_EN == 0)
      let s := (s.setF pMGT F.MGT_WDT_EN (bits v 31 31)).setF pMGT F.MGT_WDT_MS (bits v 15 0)
      if again then { s with mgt := { s.mgt with kickAt := s.now } } else s) s

/-- WDT_EXPIRY. -/
def wdtExpiry (s : State) : State :=
  if s.f pMGT F.MGT_WDT_EN = 1 ∧ 3 ≤ s.stage ∧ s.mgt.kickAt + s.f pMGT F.MGT_WDT_MS * 1000000 ≤ s.now then
    logErr pMGT 0x03 (s.defSubj pMGT) 0 0 ((mgtRestart s).addF pMGT F.MGT_STS_WDT_CNT 1)
  else s

/-! ## The management bus and MCTP (R713) -/

/-- A write to MGT_BUS: the static address, from the next bus reset on. -/
def wrBus (m v : Nat) (s : State) : State :=
  plainWrite m pMGT R.MGT_BUS v (fun _ => decide (8 ≤ bits v 6 0) && decide (bits v 6 0 ≤ 0x77)) (fun _ => true) s

/-- DYNAMIC_ADDRESS_ASSIGN. -/
def dynAddr (addr : Nat) (s : State) : State :=
  if (3 ≤ s.stage ∨ s.recovery = true) ∧ s.f pMGT F.MGT_BUS_SMBUS = 0 then
    (s.setF pMGT F.MGT_BUS_DYN 1).setF pMGT F.MGT_BUS_DA addr
  else s

/-- I3C_BUS_RESET: MGT_BUS.SA applies, the dynamic address is gone, and the bus runs as I3C or SMBus. -/
def busReset (smbus : Bool) (s : State) : State :=
  let s := ((s.setF pMGT F.MGT_BUS_DYN 0).setF pMGT F.MGT_BUS_DA 0).setF pMGT F.MGT_BUS_SMBUS (b2n smbus)
  { s with mgt := { s.mgt with sa := s.f pMGT F.MGT_BUS_SA } }

/-- MCTP_CONTROL: answered as usual, in UPDATE too (R714). -/
def mctpControl (pcie : Bool) (cmd : Nat) (s : State) : State :=
  if s.serves pcie then answerFree mtControl cmd s else s

/-- SET_ENDPOINT_ID: the null and broadcast IDs are no endpoint's. -/
def setEid (pcie : Bool) (eid : Nat) (s : State) : State :=
  if s.serves pcie then
    answerFree mtControl 1 (if eid % 256 = 0 ∨ eid % 256 = 0xFF then s else s.setF pMGT F.MGT_EID_EID eid)
  else s

/-! ## PLDM monitoring and requests to Tormal -/

/-- The sensors of Table 20-8: 0 and 1 Tj, 2 the hottest stack, 3 P_PKG, 4 and 5 VCORE, 6 and 7 its current,
8 GLB_STATE.  What DSP0248 calls its sensorDataSize (0 uint8, 1 sint8, 2 uint16), and its reading. -/
def State.sensor (s : State) (n : Nat) : Option (Nat × Nat) :=
  match n with
  | 0 => some (1, s.f pPWR F.PWR_TEMP_TJ0)
  | 1 => some (1, s.f pPWR F.PWR_TEMP_TJ1)
  | 2 => some (1, s.f pPWR F.PWR_TEMP_HBM)
  | 3 => some (2, s.f pPWR F.PWR_PKG_W)
  | 4 => some (2, s.f pPWR F.PWR_V0_SENSE)
  | 5 => some (2, s.f pPWR F.PWR_V1_SENSE)
  | 6 => some (2, s.f pPWR F.PWR_I_I0)
  | 7 => some (2, s.f pPWR F.PWR_I_I1)
  | 8 => some (0, s.glbState)
  | _ => none

/-- sensorOperationalState: 4 failed where every sensor of the die has failed (Table 19-12), else 0 enabled. -/
def State.sensorOp (s : State) (n : Nat) : Nat := if n < 2 && bit s.pwr.sensorFail n then 4 else 0

/-- DSP0248's GetSensorReading response: the size, the operational state, no event generation, three states that
the spec's sensors do not define, and the reading. -/
def State.sensorBody (s : State) (n size v : Nat) : List Byte :=
  leBytes 1 size ++ leBytes 1 (s.sensorOp n) ++ leBytes 1 0 ++ s.openBytes 3 ++ leBytes (if size = 2 then 2 else 1) v

/-- PLDM_SENSOR_READ (R714): another sensor's number answers INVALID_SENSOR_ID. -/
def sensorRead (pcie : Bool) (n : Nat) (s : State) : State :=
  if !s.serves pcie || s.recovery then s
  else if s.updating then answerPldm 0x11 4 [] s
  else match s.sensor n with
    | some (size, v) => (answerPldm 0x11 0 (s.sensorBody n size v) s).drawn
    | none => answerPldm 0x11 0x80 [] s

/-- R708: may the lifecycle state change so? -/
def lifeStep (a b : Nat) : Bool := (a == 1 && b == 2) || (a == 2 && b == 3) || (a == 3 && b == 4) || (a == 2 && b == 4)

/-- VENDOR_REQUEST: a request to Tormal, which acts once it runs (R716). -/
def vendorRequest (pcie : Bool) (q : TormalReq) (s : State) : State :=
  if !s.serves pcie || s.recovery || s.f pMGT F.MGT_STS_RUN == 0 then s
  else
    let s := answerFree mtVendor 0 s
    match q with
    | .other => s
    | .share pg v => wrShare oTormal pg (v % 2 ^ 32) s
    | .warm => wrFwCtl oTormal (2 ^ 31) s
    | .life st auth =>
      if lifeStep s.life st && (st == 2 || auth) then fwShow { s with nv := { s.nv with life := some st } } else s

/-! ## SPDM (R719 to R721) -/

/-- An SPDM error response: its code. -/
def spdmError (c : Nat) (s : State) : State := s.emit (.mgmt mtSpdm 0x7F [BitVec.ofNat 8 c])

/-- An SPDM request: Busy in UPDATE (R714); refused as unexpected before its stage of the negotiation. -/
def spdm (pcie : Bool) (stage : Nat) (k : State → State) (s : State) : State :=
  if !s.serves pcie || s.recovery then s
  else if s.updating then spdmError 3 s
  else if s.mgt.spdm < stage then spdmError 4 s
  else k s

/-- An SPDM response whose body is its own matter. -/
def spdmAnswer (code : Nat) (s : State) : State := answerFree mtSpdm code s

/-- The stage of the negotiation reached. -/
def spdmStage (n : Nat) (s : State) : State := { s with mgt := { s.mgt with spdm := n } }

/-- Has the device key been derived: the self-tests have passed, and the seed is usable (Table 20-5)? -/
def State.deviceKey (s : State) : Bool := s.f pSEC F.SEC_STS_READY == 1 && s.life != 3

/-- Certificate slot 0 holds the only chain (R720). -/
def withCert (slot : Nat) (k : State → State) (s : State) : State :=
  if slot ≠ 0 then spdmError 1 s else if !s.deviceKey then spdmError 5 s else k s

/-- Table 20-10: what a measurement block measures. -/
def State.measured (s : State) (i : Nat) : List Nat :=
  match i with
  | 2 => [(s.fwImg s.fwSlot).build, (s.fwImg s.fwSlot).svn]
  | 3 => [s.life, s.svn]
  | 4 => (List.range 384).map (fun n => (s.slotOfCore n).getD 0xFFFF) ++ (s.ras.fenced.filter (·.2)).map (·.1)
  | 5 => [s.f pDBG F.DBG_STS_ACTIVE]
  | 6 => [s.glbState]
  | _ => []

/-- The digest of a block. -/
def State.digest (s : State) (i : Nat) : List Byte := Config.digest i (s.measured i)

/-- DSP0274's measurement block (PRESUMED, log entry 87): the index, the DMTF specification, the size, the type (0
immutable ROM, 1 mutable firmware, 2 hardware configuration), and a digest of 48 bytes. -/
def State.measBlock (s : State) (i : Nat) : List Byte :=
  leBytes 1 i ++ leBytes 1 1 ++ leBytes 2 51 ++ leBytes 1 (min (i - 1) 2) ++ leBytes 2 48 ++ padTo 48 (s.digest i)

/-- DSP0274's MEASUREMENTS response: how many blocks there are where that was asked, the slot, the blocks, and the
nonce with what follows it. -/
def measAnswer (total : Nat) (idx : List Nat) (s : State) : State :=
  let rec_ := idx.flatMap s.measBlock
  (s.emit (.mgmt mtSpdm 0x60 (leBytes 1 total ++ leBytes 1 0 ++ leBytes 1 idx.length ++ leBytes 3 rec_.length ++ rec_ ++ Config.mgmtBody s.fresh))).drawn

/-- GET_MEASUREMENTS: operation 0 asks how many blocks there are, 0xFF for all, and i for block i. -/
def getMeasurements (op : Nat) (s : State) : State :=
  if op = 0 then measAnswer 6 [] s
  else if op = 0xFF then measAnswer 0 [1, 2, 3, 4, 5, 6] s
  else if op ≤ 6 then measAnswer 0 [op] s
  else spdmError 1 s

/-- KEY_EXCHANGE: a session begins its handshake. -/
def keyExchange (s : State) : State :=
  spdmAnswer 0x64 { s with mgt := { s.mgt with
    sessions := s.mgt.sessions ++ [{ id := s.mgt.nextSession }], nextSession := s.mgt.nextSession + 1 } }

/-- A session's record is replaced, or (`none`) the session ends. -/
def setSession (id : Nat) (x : Option SpdmSession) (s : State) : State :=
  { s with mgt := { s.mgt with sessions := s.mgt.sessions.flatMap (fun y => if y.id = id then x.toList else [y]) } }

/-- A request in a session that has reached `op` of its handshake; another session identity is an error. -/
def inSession (id : Nat) (op : Bool) (k : SpdmSession → State → State) (s : State) : State :=
  match s.mgt.sessions.find? (fun x => x.id == id && x.open_ == op) with
  | some x => k x s
  | none => spdmError 2 s

/-! ## Meanings -/

/-- REQUEST_UPDATE. -/
def execRequestUpdate (pcie : Bool) (comp : Nat) (s : State) : Host.Outcome State Fault Refusal :=
  run [] s (requestUpdate pcie comp)
/-- TRANSFER_COMPLETE_PLDM. -/
def execTransferCompletePldm (sig : Bool) (svn build : Nat) (s : State) : Host.Outcome State Fault Refusal :=
  run [] s (transferDone sig svn build)
/-- ACTIVATE_FIRMWARE. -/
def execActivateFirmware (pcie : Bool) (s : State) : Host.Outcome State Fault Refusal := run [] s (activate pcie)
/-- TORMAL_READY. -/
def execTormalReady (s : State) : Host.Outcome State Fault Refusal := run [] s tormalReady
/-- FW_ACT_TMO_EXPIRY. -/
def execFwActTmoExpiry (s : State) : Host.Outcome State Fault Refusal := run [] s actExpiry
/-- WDT_KICK: a write of MGT_WDT with KICK 1 and its other fields as they are. -/
def execWdtKick (m : Nat) (s : State) : Host.Outcome State Fault Refusal :=
  whenOk (okMaster m) s <|
  run [] s fun s => wrWdt m (2 ^ 30 + s.f pMGT F.MGT_WDT_EN * 2 ^ 31 + s.f pMGT F.MGT_WDT_MS) s
/-- WDT_EXPIRY. -/
def execWdtExpiry (s : State) : Host.Outcome State Fault Refusal := run [] s wdtExpiry
/-- MCTP_CONTROL. -/
def execMctpControl (pcie : Bool) (cmd : Nat) (s : State) : Host.Outcome State Fault Refusal :=
  whenOk (below 256 cmd) s <| run [] s (mctpControl pcie cmd)
/-- SET_ENDPOINT_ID. -/
def execSetEndpointId (pcie : Bool) (eid : Nat) (s : State) : Host.Outcome State Fault Refusal :=
  whenOk (below 256 eid) s <| run [] s (setEid pcie eid)
/-- DYNAMIC_ADDRESS_ASSIGN. -/
def execDynamicAddressAssign (addr : Nat) (s : State) : Host.Outcome State Fault Refusal :=
  whenOk (below 128 addr) s <| run [] s (dynAddr addr)
/-- I3C_BUS_RESET. -/
def execI3cBusReset (smbus : Bool) (s : State) : Host.Outcome State Fault Refusal := run [] s (busReset smbus)
/-- PLDM_SENSOR_READ. -/
def execPldmSensorRead (pcie : Bool) (n : Nat) (s : State) : Host.Outcome State Fault Refusal := run [] s (sensorRead pcie n)
/-- VENDOR_REQUEST. -/
def execVendorRequest (pcie : Bool) (q : TormalReq) (s : State) : Host.Outcome State Fault Refusal :=
  run [] s (vendorRequest pcie q)
/-- GET_VERSION: the negotiation starts again, and no session is left. -/
def execGetVersion (pcie : Bool) (s : State) : Host.Outcome State Fault Refusal :=
  run [] s (spdm pcie 0 fun s => spdmAnswer 0x04 { s with mgt := { s.mgt with spdm := 1, sessions := [] } })
/-- GET_CAPABILITIES. -/
def execGetCapabilities (pcie : Bool) (s : State) : Host.Outcome State Fault Refusal :=
  run [] s (spdm pcie 1 fun s => spdmAnswer 0x61 (spdmStage 2 s))
/-- NEGOTIATE_ALGORITHMS: `ok` where the requester offers R719's algorithms. -/
def execNegotiateAlgorithms (pcie ok : Bool) (s : State) : Host.Outcome State Fault Refusal :=
  run [] s (spdm pcie 2 fun s => if ok then spdmAnswer 0x63 (spdmStage 3 s) else spdmError 1 s)
/-- GET_DIGESTS. -/
def execGetDigests (pcie : Bool) (s : State) : Host.Outcome State Fault Refusal :=
  run [] s (spdm pcie 3 (withCert 0 (spdmAnswer 0x01)))
/-- GET_CERTIFICATE. -/
def execGetCertificate (pcie : Bool) (slot : Nat) (s : State) : Host.Outcome State Fault Refusal :=
  run [] s (spdm pcie 3 (withCert slot (spdmAnswer 0x02)))
/-- CHALLENGE. -/
def execChallenge (pcie : Bool) (slot : Nat) (s : State) : Host.Outcome State Fault Refusal :=
  run [] s (spdm pcie 3 (withCert slot (spdmAnswer 0x03)))
/-- GET_MEASUREMENTS. -/
def execGetMeasurements (pcie : Bool) (op : Nat) (s : State) : Host.Outcome State Fault Refusal :=
  run [] s (spdm pcie 3 (getMeasurements op))
/-- KEY_EXCHANGE. -/
def execKeyExchange (pcie : Bool) (slot : Nat) (s : State) : Host.Outcome State Fault Refusal :=
  run [] s (spdm pcie 3 (withCert slot keyExchange))
/-- FINISH: `ok` where the requester's verify data is right; otherwise the session ends. -/
def execFinish (pcie : Bool) (id : Nat) (ok : Bool) (s : State) : Host.Outcome State Fault Refusal :=
  run [] s (spdm pcie 3 (inSession id false fun x s =>
    if ok then spdmAnswer 0x65 (setSession id (some { x with open_ := true }) s) else spdmError 6 (setSession id none s)))
/-- END_SESSION. -/
def execEndSession (pcie : Bool) (id : Nat) (s : State) : Host.Outcome State Fault Refusal :=
  run [] s (spdm pcie 3 (inSession id true fun _ s => spdmAnswer 0x6C (setSession id none s)))
/-- HEARTBEAT. -/
def execHeartbeat (pcie : Bool) (id : Nat) (s : State) : Host.Outcome State Fault Refusal :=
  run [] s (spdm pcie 3 (inSession id true fun _ s => spdmAnswer 0x68 s))
/-- KEY_UPDATE. -/
def execKeyUpdate (pcie : Bool) (id : Nat) (s : State) : Host.Outcome State Fault Refusal :=
  run [] s (spdm pcie 3 (inSession id true fun x s => spdmAnswer 0x69 (setSession id (some { x with updates := x.updates + 1 }) s)))

end Sys2Proof.Machine
end

