-- ==== Sys2Proof/Machine/Dbg.lean ====
section
/-! DEFINITION.  Debug mode, debug reads and tracing control (R343, R344, R728 to R737). -/

namespace Sys2Proof.Machine

/-! ## Debug mode (R732, R733) -/

/-- Is the partition in debug mode? -/
def State.inDebug (s : State) (p : Nat) : Bool := decide (p < 8) && bit (s.w pDBG R.DBG_STS) p

/-- The partition's debug consent. -/
def State.debugConsent (s : State) (p : Nat) : Bool :=
  let cl := s.unitsOf resClu p
  !cl.isEmpty && cl.all (fun k => s.f (pCLU k) F.CLU_DBG_DEBUG == 1)

/-- Debug mode of a partition begins. -/
def debugBegin (p : Nat) (s : State) : State :=
  if s.inDebug p then s else (s.setW pDBG R.DBG_STS (setBits (s.w pDBG R.DBG_STS) p p 1)).addF pDBG F.DBG_CNT_ENTRIES 1

/-- A write to DBG_CMD. -/
def wrDbgCmd (m v : Nat) (s : State) : State :=
  let p := bits v 10 8
  let op := bits v 3 0
  checkedWrite m pDBG R.DBG_CMD v (fun _ => op == 1 || op == 2)
    (fun s => !(bit v 31 && op == 1) || (s.enabled p && (s.debugConsent p || s.f pFW F.FW_STS_LIFE == 1)))
    (fun s => if !bit v 31 then s else if op = 1 then debugBegin p s else debugEnd p s) s

/-- A write to CLU_DBG: consent, and the end of debug mode where DEBUG is set to 0 (R733). -/
def wrCluDbg (m k v : Nat) (s : State) : State :=
  checkedWrite m (pCLU k) R.CLU_DBG v (fun _ => true) (fun _ => true)
    (fun s =>
      let s := (s.setF (pCLU k) F.CLU_DBG_TRACE (bits v 1 1)).setF (pCLU k) F.CLU_DBG_DEBUG (bits v 0 0)
      match s.holderOf resClu k with
      | some p => if p < 8 ∧ bit v 0 = false then debugEnd p s else s
      | none => s) s

/-! ## Debug reads (R735, R736, Table 21-3) -/

/-- Table 21-3: how many units a resource has, and its size. -/
def dbgUnits : Nat → Nat
  | 5 => 48 | 6 => 1024 | _ => 384
def dbgSize : Nat → Nat
  | 0 => 512 * 1024 | 1 => 4096 | 2 => 4096 | 3 => 64 * 1024 | 4 => 1536 * 1024 | 5 => 8 * 1024 * 1024 | _ => 4096

/-- The holder of a unit. -/
def State.dbgHolder (s : State) (res unit eng : Nat) : Option Nat :=
  if res ≤ 4 then s.holderOf resClu (unit / 8)
  else if res = 5 then s.holderOf resClu unit
  else some (SMap.get (s.eng eng).streams unit {}).owner

/-- Two 4 B elements as 8 B. -/
def pair32 (f : Nat → Nat) (i : Nat) : Nat := f i % 2 ^ 32 + f (i + 1) % 2 ^ 32 * 2 ^ 32

/-- The 8 B at an offset of a core's resource. -/
def Core.dbg (k : Core) (res ofs : Nat) : Nat :=
  match res with
  | 0 => pair32 (SMap.get (SMap.get k.tally (ofs / 4096) {}).elems · 0) (ofs % 4096 / 4)
  | 1 => pair32 (SMap.get k.shadowA · 0) (ofs / 4)
  | 2 => pair32 (SMap.get k.shadowB · 0) (ofs / 4)
  | 3 => (SMap.get k.prog (ofs / 8) none).getD 0
  | _ => leNat ((List.range 8).map (fun i => SMap.get k.work (ofs + i) 0))

/-- The 8 B of a resource.  The spec does not lay the stream area out: what it reads is free. -/
def State.dbgData (s : State) (res unit ofs : Nat) : Nat :=
  if res = 5 then leNat ((List.range 8).map (fun i => SMap.get (s.clu unit).store (ofs + i) 0))
  else if res = 6 then s.free 64
  else match s.slotOfCore unit with
    | some c => (s.core c).dbg res ofs
    | none => 0

/-- DBG_RD_STS and DBG_RD_DATA after a read. -/
def dbgResult (code data : Nat) (s : State) : State :=
  ((s.setF pDBG F.DBG_RD_STS_BUSY 0).setF pDBG F.DBG_RD_STS_CODE code).setW64 pDBG R.DBG_RD_DATA_LO R.DBG_RD_DATA_HI data

/-- An accepted GO. -/
def dbgRead (s : State) : State :=
  let res := s.f pDBG F.DBG_RD_SEL_RES
  let unit := s.f pDBG F.DBG_RD_SEL_UNIT
  let ofs := s.f pDBG F.DBG_RD_ADDR_OFS
  let h := s.dbgHolder res unit (s.f pDBG F.DBG_RD_SEL_ENGINE)
  if !h.any s.inDebug then dbgResult 0x02 0 (logErr pDBG 0x02 (h.getD oTormal) 0 0 s)
  else if res ≤ 4 ∧ s.slotOfCore unit = none then dbgResult 0x05 0 s
  else
    let t := dbgResult 0 (s.dbgData res unit ofs) s
    (if res = 6 then t.drawn else t).addF pDBG F.DBG_CNT_READS 1

/-- A write to DBG_RD_GO. -/
def wrDbgGo (m v : Nat) (s : State) : State :=
  checkedWrite m pDBG R.DBG_RD_GO v
    (fun s =>
      let res := s.f pDBG F.DBG_RD_SEL_RES
      let ofs := s.f pDBG F.DBG_RD_ADDR_OFS
      !bit v 31 || (decide (s.f pDBG F.DBG_RD_SEL_UNIT < dbgUnits res) && ofs % 8 == 0 && decide (ofs + 8 ≤ dbgSize res)))
    (fun s => !bit v 31 || s.f pDBG F.DBG_RD_STS_BUSY == 0)
    (fun s => if bit v 31 then dbgRead s else s) s

/-! ## Tracing (R737) -/

/-- Writes to DBG_TRC_LO and DBG_TRC_HI: while EN is 1, refused where they would change it (R737, R739). -/
def wrTrcBase (m ofs v : Nat) (s : State) : State :=
  plainWrite m pDBG ofs v (fun _ => ofs != R.DBG_TRC_LO || bits v 1 0 != 0) (fun s => s.f pDBG F.DBG_TRC_CTL_EN == 0 || v == s.w pDBG ofs) s

/-- R737: does the trace ring lie wholly in units held by Tormal? -/
def State.trcOwned (s : State) (log2n : Nat) : Bool :=
  s.holds oTormal (s.f pDBG F.DBG_TRC_LO_TIER) (s.f pDBG F.DBG_TRC_LO_ADDR * 2 ^ 12 + s.f pDBG F.DBG_TRC_HI_ADDR * 2 ^ 32)
    (32 * 2 ^ log2n)

/-- A write to DBG_TRC_CTL: while EN is 1, refused where it would change anything but EN. -/
def wrTrcCtl (m v : Nat) (s : State) : State :=
  let ofs := R.DBG_TRC_CTL
  checkedWrite m pDBG ofs v (fun _ => decide (8 ≤ bits v 20 16) && decide (bits v 20 16 ≤ 24))
    (fun s => s.f pDBG F.DBG_TRC_CTL_EN == 0 || v == s.w pDBG ofs || v + 2 ^ 31 == s.w pDBG ofs)
    (fun s =>
      if v == s.w pDBG ofs then s
      else if bit v 31 && !s.trcOwned (bits v 20 16) then refuse m pDBG ofs 0x02 s
      else
        let s := if bit v 31 then (s.setW pDBG R.DBG_TRC_PROD 0).setW pDBG R.DBG_TRC_LOST 0 else s
        s.setW pDBG ofs (merged pDBG ofs v s)) s

/-! ## Meanings -/

/-- DBG_ENTER: a write of DBG_CMD with GO 1 and OP ENTER. -/
def execDbgEnter (m p : Nat) (s : State) : Host.Outcome State Fault Refusal :=
  whenOk (okMaster m && okPart p) s <| run [] s (wrDbgCmd m (2 ^ 31 + p % 8 * 2 ^ 8 + 1))
/-- DBG_EXIT: a write of DBG_CMD with GO 1 and OP EXIT. -/
def execDbgExit (m p : Nat) (s : State) : Host.Outcome State Fault Refusal :=
  whenOk (okMaster m && okPart p) s <| run [] s (wrDbgCmd m (2 ^ 31 + p % 8 * 2 ^ 8 + 2))
/-- CLU_DBG_WRITE. -/
def execCluDbgWrite (m k v : Nat) (s : State) : Host.Outcome State Fault Refusal :=
  whenOk (okMaster m && okCluster k && okWord v) s <| run [] s (wrCluDbg m (k % 48) (v % 2 ^ 32))
/-- DBG_RD_GO: a write of DBG_RD_GO with GO 1. -/
def execDbgRdGo (m : Nat) (s : State) : Host.Outcome State Fault Refusal :=
  whenOk (okMaster m) s <| run [] s (wrDbgGo m (2 ^ 31))
/-- DBG_TRC_CTL_WRITE. -/
def execDbgTrcCtlWrite (m v : Nat) (s : State) : Host.Outcome State Fault Refusal :=
  whenOk (okMaster m && okWord v) s <| run [] s (wrTrcCtl m (v % 2 ^ 32))

end Sys2Proof.Machine
end

