-- ==== Sys2Proof/Machine/RegRead.lean ====
section
/-! DEFINITION.  What each register reads: the stored word, or the word a block shows live, and the rules
of a control-space read (R72 to R91). -/

namespace Sys2Proof.Machine

/-! ## Phase and stall cause (R256, R257) -/

/-- Is the byte part of the surplus of the layer that the core's cluster serves (R195, R196)? -/
def State.surplus (s : State) (c tier addr : Nat) : Bool :=
  match s.cluOf c with
  | none => false
  | some k => (s.clu k).cur.any (fun l => l.rest.any (fun r => r.1 == tier && decide (r.2.1 ≤ addr) && decide (addr < r.2.1 + r.2.2)))

/-- Table 06-4: the cause of a wait for a transfer: FABRIC for a remote one, TIER_SPILL, or MEM. -/
def State.memCause (s : State) (c tier addr : Nat) : Nat :=
  if tier = 4 then 3 else if s.spilled tier addr || s.surplus c tier addr then 2 else 1

/-- What the sequencer waits for when it waits for the queues `qs`: each outstanding request, with the time it went
out and the cause it gives. -/
def State.queueWaits (s : State) (c : Nat) (qs : Nat → Bool) : List (Nat × Nat) :=
  let k := s.core c
  let lists (l : List ListReq) : List (Nat × Nat) := l.map (fun r => (r.iss.since, s.memCause c r.tier r.addr))
  let gath := if k.gth.active.any (fun g => qs g.q) then
      k.gth.reqs.map (fun r => (r.iss.since, s.memCause c r.tier r.addr)) ++ lists k.gth.metas
    else []
  k.tqs.flatMap (fun t => if qs t.1 then t.2.reqs.map (fun r => (r.iss.since, s.memCause c r.tier r.addr)) ++ lists t.2.lists
    else []) ++ gath

/-- The wait for a shard, with the time it began: RING while the ring serves CUR, LPF while it cannot (R246, R247). -/
def State.shardWait (s : State) (c : Nat) : List (Nat × Nat) :=
  match (s.core c).shard with
  | none => []
  | some r => [(r.since, if (s.cluOf c).any s.ringWaits then 7 else 6)]

/-- The cause that the oldest of several waits gives. -/
def oldestCause (l : List (Nat × Nat)) : Option Nat :=
  (l.foldl (fun b x => match b with
    | none => some x
    | some y => if x.1 < y.1 then some x else some y) none).map (·.2)

/-- The cause of a MOVE or RESHARD with no request outstanding: the buffer its plan waits for, or the local transfer
of the entry at hand. -/
def State.planCause (s : State) (c : Nat) (h : HeldOp) : Nat :=
  let e := planEnt h.ent
  if h.bwait.isSome then 4
  else if h.ent.isEmpty then 1
  else if e.dkind = 0 ∧ s.memCause c e.dtier (e.dst + h.ofs) = 2 then 2
  else s.memCause c e.stier (e.src + h.ofs)

/-- CORE_PHASE.CAUSE: 0 outside FETCH (R256, R257).  STAGE waits for the queues whose windows it releases, WLOAD for
the shard asked for before it, and every other instruction for all of the core's transfers. -/
def State.stallCause (s : State) (c : Nat) : Nat :=
  let k := s.core c
  let w := (s.instr c).getD 0
  let op := bits w 63 58
  if s.phase c ≠ 1 then 0
  else if !s.hasFetch c then 5
  else if s.handWait c && decide (0x10 ≤ op) then 4
  else
    let waits :=
      if !s.seqRuns c then s.queueWaits c (fun _ => true) ++ s.shardWait c
      else if op = 0x06 then s.queueWaits c (fun q => decide (q < 3) && !bit w q)
      else if op = 0x11 then s.shardWait c
      else s.queueWaits c (fun _ => true) ++ s.shardWait c
    match oldestCause waits with
    | some x => x
    | none =>
      match k.op with
      | some h => if h.cls == cMOVE || h.cls == cRESHARD then s.planCause c h else if k.bufWait.isEmpty then 1 else 4
      | none => if k.bufWait.isEmpty then 1 else 4

/-! ## Words shown live -/

/-- The word of a slot of the common header. -/
def State.headLive (s : State) (pg ofs : Nat) : Option Nat :=
  let err := s.f pg F.PG_ERR_FIRST_VALID
  let wrej := s.f pg F.PG_STS_WREJ
  if ofs = R.PG_STS then
    some (err * 16 + s.f pg F.PG_STS_RST_BUSY * 8 + b2n (s.held pg) * 4 + b2n (s.idle pg) * 2 + wrej)
  else if ofs = R.PG_EVT_RAW then some (s.rawBlk pg + b2n (!s.rstBusy pg) * 4 + wrej * 2 + err)
  else none

/-- Has any page of a type its ERR_FIRST.VALID set (GLB_ERRSUM)? -/
def State.anyErr (s : State) (code : Nat) : Bool :=
  s.regs.any fun e => e.1 % 4096 == R.PG_ERR_FIRST && bit e.2.toNat 31 &&
    (match pageInfo (e.1 / 4096) with | some (t, _) => t.code == code | none => false)

/-- Bits `first` onward, one for each type code from `code`. -/
def State.errBits (s : State) (code n first : Nat) : Nat :=
  (List.range n).foldl (fun a i => a + b2n (s.anyErr (code + i)) * 2 ^ (first + i)) 0

/-- Spares of a die with ROLE SPARE. -/
def State.freeSpares (s : State) (die : Nat) : Nat :=
  ((List.range 8).filter (fun i => s.role (256 * die + 192 + i) == .spare)).length

/-- The GLB page. -/
def State.glbLive (s : State) (ofs : Nat) : Option Nat :=
  if ofs = R.GLB_SEQ_LO then some (s.ev.seq % 2 ^ 32)
  else if ofs = R.GLB_SEQ_HI then some (s.ev.seq / 2 ^ 32 % 2 ^ 32)
  else if ofs = R.GLB_ERRSUM_LO then some (s.errBits 0x01 11 1 + s.errBits 0x10 4 16)
  else if ofs = R.GLB_ERRSUM_HI then some (s.errBits 0x20 4 0 + s.errBits 0x30 2 16)
  else if ofs = R.GLB_CSUB_STS then
    some (b2n s.router.busy.isSome * 2 ^ 31 + s.freeSpares 1 * 16 + s.freeSpares 0)
  else if ofs = R.GLB_CMAP_VAL then
    some (match s.slotOfCore (s.f pGLB F.GLB_CMAP_SEL_LCORE) with
      | some c => 2 ^ 31 + c / 256 * 256 + c % 256
      | none => 0)
  else if ofs = R.FAB_RT_LO then some (SMap.get s.fab.rt (s.f pGLB F.FAB_RT_SEL_PHYS) 0 % 2 ^ 32)
  else if ofs = R.FAB_RT_HI then some (SMap.get s.fab.rt (s.f pGLB F.FAB_RT_SEL_PHYS) 0 / 2 ^ 32)
  else if ofs = R.FAB_TAGS then
    some ((s.fab.quar.filter (fun e => e.2.isSome)).length * 2 ^ 16 + (s.fab.tags.filter (fun e => e.2.isSome)).length)
  else none

/-- The TBS page: die 0's copy of the timebase (R38). -/
def State.tbsLive (s : State) (ofs : Nat) : Option Nat :=
  if ofs = R.TBS_NOW_LO then some (s.now % 2 ^ 32)
  else if ofs = R.TBS_NOW_HI then some (s.now / 2 ^ 32 % 2 ^ 32)
  else none

/-- PRT_P_MEM and PRT_T_MEM: units an owner holds. -/
def State.memWord (s : State) (o : Nat) : Nat :=
  (s.unitsOf resFar o).length * 2 ^ 17 + (s.unitsOf resMid o).length * 2 ^ 8 + (s.unitsOf resNear o).length

/-- PRT_P_STS. -/
def State.partWord (s : State) (p : Nat) : Nat :=
  let v := s.part p
  let eng := match v.rst with | some r => r.eng % 256 | none => 0
  let key := match s.activeSlot p with
    | some n => 2 ^ 21 + n * 16
    | none => if v.st = .resetting then (s.drainSlot p).getD 0 * 16 else 0
  let st := match v.st with | .free => 0 | .enabled => 1 | .resetting => 2
  eng * 2 ^ 24 + (s.unitsOf resLnk p).length * 2 ^ 14 + (s.unitsOf resClu p).length * 2 ^ 8 + key + st

/-- The PRT page. -/
def State.prtLive (s : State) (ofs : Nat) : Option Nat :=
  if ofs = R.PRT_QVAL then
    some (match s.holderOf (s.f pPRT F.PRT_QSEL_RES) (s.f pPRT F.PRT_QSEL_INDEX) with
      | some o => 2 ^ 31 + o
      | none => 0)
  else if ofs = R.PRT_T_MEM then some (s.memWord oTormal)
  else if R.PRT_P_STS ≤ ofs ∧ ofs < R.PRT_P_STS + 64 then
    let p := (ofs - R.PRT_P_STS) / 8
    some (if ofs % 8 = 0 then s.partWord p else s.memWord p)
  else none

/-- SEC_SLOT. -/
def KeySlot.word (k : KeySlot) : Nat :=
  match k.st with
  | .free => 0
  | .active => k.gen * 2 ^ 16 + k.owner * 16 + 1
  | .draining => k.gen * 2 ^ 16 + k.owner * 16 + 2

/-- The SEC page. -/
def State.secLive (s : State) (ofs : Nat) : Option Nat :=
  if ofs = R.SEC_STS then
    some (s.slotsIn .draining % 16 * 2 ^ 12 + s.slotsIn .free % 16 * 2 ^ 8 + s.f pSEC F.SEC_STS_RNG_FAULT * 2 + s.f pSEC F.SEC_STS_READY)
  else if R.SEC_SLOT ≤ ofs ∧ ofs < R.SEC_SLOT + 64 then some (s.keySlot ((ofs - R.SEC_SLOT) / 4)).word
  else if ofs = R.SEC_IKEY_STS then
    some ((List.range 8).foldl (fun a p => a + b2n (SMap.get s.prt.ikeys p none).isSome * 2 ^ p) 0)
  else if ofs = R.SEC_IKEY_IDR_LO ∨ ofs = R.SEC_IKEY_IDR_HI then
    let id := match SMap.get s.prt.ikeys (s.f pSEC F.SEC_IKEY_SEL_PART) none with | some k => k.id | none => 0
    some (if ofs = R.SEC_IKEY_IDR_LO then id % 2 ^ 32 else id / 2 ^ 32 % 2 ^ 32)
  else none

/-- SCH instance 0: the whole scheduler's counts. -/
def State.schgLive (s : State) (ofs : Nat) : Option Nat :=
  if ofs = R.SCH_G_DISP then
    some ((List.range 8).foldl (fun a p => a +
      b2n (s.enabled p && s.f (pSCH p) F.PG_CTL_EN == 1 && s.f (pSCH p) F.PG_CTL_HOLD == 0) * 2 ^ p) 0)
  else if R.SCH_G_RES ≤ ofs ∧ ofs < R.SCH_G_RES + 32 then
    some (s.countSlots ((ofs - R.SCH_G_RES) / 4) (fun o => o.st != .empty))
  else if R.SCH_G_READY ≤ ofs ∧ ofs < R.SCH_G_READY + 32 then
    some (s.countSlots ((ofs - R.SCH_G_READY) / 4) (fun o => o.st == .ready))
  else none

/-- Earliest deadline of the delay list; all ones while it is empty. -/
def State.nextDelay (s : State) (p : Nat) : Nat :=
  match (s.sc p).delay with
  | [] => 2 ^ 64 - 1
  | e :: _ => if (s.sc p).frozen then s.now + e.1 else e.1

/-- SCH_SLOTSTS. -/
def OpSlot.stsWord (o : OpSlot) : Nat :=
  let cnt := match o.st with
    | .waiting => o.count
    | .ready | .running => if o.persist then o.bank else 0
    | _ => 0
  let st := match o.st with
    | .empty => 0 | .loading => 1 | .waiting => 2 | .ready => 3 | .running => 4 | .faulted => 5
  cnt % 2 ^ 16 * 2 ^ 16 + b2n (o.heldRel && !o.drain) * 8 + st

/-- Marked allocations. -/
def State.revokedOf (s : State) (p : Nat) : Nat :=
  ((s.al p).live.filter (fun e => match e.2 with | some a => a.revoked | none => false)).length

/-- A partition's SCH page: scheduler and allocator. -/
def State.schLive (s : State) (p ofs : Nat) : Option Nat :=
  let q := s.sc p
  let fl := s.f (pSCH p) F.SCH_FLOWSEL_FLOW
  let f := s.flow p fl
  if ofs = R.SCH_CMD_STS then
    some (s.f (pSCH p) F.SCH_CMD_STS_BUSY * 2 ^ 31 + s.qfree p * 2 ^ 24 + s.f (pSCH p) F.SCH_CMD_STS_RESULT * 2 ^ 16 +
      s.f (pSCH p) F.SCH_CMD_STS_TAG)
  else if ofs = R.SCH_DLY_STS then some q.delay.length
  else if ofs = R.SCH_DLY_NEXT_LO then some (s.nextDelay p % 2 ^ 32)
  else if ofs = R.SCH_DLY_NEXT_HI then some (s.nextDelay p / 2 ^ 32 % 2 ^ 32)
  else if ofs = R.SCH_CNT_RUN then some (s.countSlots p (fun o => o.st == .running))
  else if ofs = R.SCH_CNT_FAULT then some (s.countSlots p (fun o => o.st == .faulted))
  else if ofs = R.SCH_LINKS then some q.links.length
  else if ofs = R.SCH_RELBUF then some q.rel.length
  else if ofs = R.SCH_FLOWCFG then some (b2n f.en * 2 ^ 31 + b2n f.ordered * 2 ^ 30 + b2n f.hold * 2 ^ 29 + f.win)
  else if ofs = R.SCH_FLOWMASK_LO then some (f.mask % 2 ^ 32)
  else if ofs = R.SCH_FLOWMASK_HI then some (f.mask / 2 ^ 32)
  else if ofs = R.SCH_FLOWSTS then some (s.inSvc p fl * 2 ^ 18 + s.flowRes p fl)
  else if ofs = R.SCH_SLOTSTS then some (s.slot p (s.f (pSCH p) F.SCH_SLOTSEL_SLOT)).stsWord
  else if ofs = R.ALC_STS then
    some (s.f (pSCH p) F.ALC_STS_BUSY * 2 ^ 31 + s.f (pSCH p) F.ALC_STS_RESULT * 2 ^ 16 + s.revokedOf p)
  else if ofs = R.ALC_CNT then some ((s.al p).live.filter (fun e => e.2.isSome)).length
  else if ofs = R.ALC_FREE_NEAR then some (s.freeGran p 1 2)
  else if ofs = R.ALC_FREE_MID then some (s.freeGran p 2 2)
  else if ofs = R.ALC_FREE_FAR then some (s.freeGran p 3 2)
  else none

/-- CORE_ID. -/
def State.coreIdWord (s : State) (c : Nat) : Nat :=
  let role := match s.role c with | .active => 0 | .substitute => 1 | .spare => 2 | .failed => 3
  let ids := match s.lcore c with
    | some n => n / 8 * 2 ^ 9 + n
    | none => 0x3F * 2 ^ 9 + 0x1FF
  role * 2 ^ 24 + c % 256 * 2 ^ 16 + c / 256 * 2 ^ 15 + ids

/-- A CORE page. -/
def State.coreLive (s : State) (c ofs : Nat) : Option Nat :=
  let k := s.core c
  if ofs = R.CORE_ID then some (s.coreIdWord c)
  else if ofs = R.CORE_STS then
    some ((match k.op with | some h => h.stage % 4 | none => 0) * 2 ^ 19 + b2n k.stopped * 2 ^ 18 + b2n k.op.isSome * 2 ^ 17 +
      b2n k.running * 2 ^ 16 + k.pc)
  else if ofs = R.CORE_OPID_LO then some ((match k.op with | some h => h.opid | none => 0) % 2 ^ 32)
  else if ofs = R.CORE_OPID_HI then some ((match k.op with | some h => h.opid | none => 0) / 2 ^ 32 % 2 ^ 32)
  else if R.TQ_STS ≤ ofs ∧ ofs < R.TQ_STS + 16 then
    let t := s.tq c ((ofs - R.TQ_STS) / 4)
    some (t.reqs.length * 2 ^ 16 + b2n (!t.items.isEmpty))
  else if ofs = R.CORE_PHASE then some (s.stallCause c * 16 + s.phase c)
  else if ofs = R.GTH_STS then
    some (b2n (!k.gth.active.isEmpty) * 2 ^ 31 + k.gth.reqs.length * 2 ^ 16 + k.gth.metas.length * 2 ^ 8 + k.gth.waiting.length)
  else none

/-- A CLU page. -/
def State.cluLive (s : State) (k ofs : Nat) : Option Nat :=
  let cs := s.slotsOfClu k
  if ofs = R.CLU_PHASE_STS then
    some ((cs.filter (fun c => s.phase c == 1 && !s.hasFetch c)).length * 2 ^ 8 +
      (cs.filter (fun c => s.phase c == 2)).length * 16 + (s.clu k).fetch.length)
  else if ofs = R.CLU_RING_STS then
    let n := if s.ringWaits k then 0 else (cs.filter (fun c => (s.core c).shard.isSome)).length
    some (n * 2 ^ 16 + b2n (n != 0) * 2 ^ 8 + (s.clu k).shard % 64)
  else none

/-- The partitions with an operation in a list, as PMASK. -/
def pmaskHeld (l : List (Nat × Nat)) : Nat :=
  (List.range 8).foldl (fun a p => a + b2n (l.any (fun x => x.1 == p)) * 2 ^ p) 0

/-- A MIG page. -/
def State.migLive (s : State) (d ofs : Nat) : Option Nat :=
  if ofs = R.MIG_STS then
    let l := s.migHeld d
    some (b2n (!l.isEmpty) * 2 ^ 31 + l.length * 2 ^ 16 + pmaskHeld l * 2 ^ 8)
  else none

/-- A TOK page: the selected slot, stream and stop block. -/
def State.tokLive (s : State) (e ofs : Nat) : Option Nat :=
  let v := s.vslot e (s.vsel e)
  let st := s.strm e (s.ssel e)
  let b := s.stopBlk e (s.f (pTOK e) F.TOK_SLD_CTL_BLK)
  if ofs = R.TOK_VSLOT then some (v.owner * 2 ^ 28 + v.size * 2 ^ 16 + v.base)
  else if ofs = R.TOK_VSTS then
    some (b2n v.busy * 2 ^ 31 + b2n v.valid * 2 ^ 30 + b2n v.err * 2 ^ 29 + v.code * 2 ^ 16 + v.kind * 2 ^ 8)
  else if ofs = R.TOK_VINFO then some (if v.valid then imgNtok v.img else 0)
  else if ofs = R.TOK_STRM_CTL then some (b2n st.en * 2 ^ 31 + st.owner * 2 ^ 16 + st.vslot)
  else if ofs = R.TOK_STRM_STS then some (b2n (s.strmHeld e (s.ssel e)) * 2 ^ 31 + st.carry.length)
  else if ofs = R.TOK_STRM_TOK_LO then some (st.tok % 2 ^ 32)
  else if ofs = R.TOK_STRM_TOK_HI then some (st.tok / 2 ^ 32 % 2 ^ 32)
  else if ofs = R.TOK_STRM_INV then some st.inv
  else if ofs = R.TOK_ENG_STS then
    let l := s.tokHeld e
    some (l.length * 2 ^ 16 + pmaskHeld l * 2 ^ 8)
  else if ofs = R.TOK_DTAB_LO then some (bits st.dtab 31 0)
  else if ofs = R.TOK_DTAB_HI then some (bits st.dtab 63 32)
  else if ofs = R.TOK_DCTL then some st.dctl
  else if ofs = R.TOK_DSTS then some (b2n st.stopped * 2 ^ 31 + st.hold.length)
  else if ofs = R.TOK_DPOS_LO then some (st.pos % 2 ^ 32)
  else if ofs = R.TOK_DPOS_HI then some (st.pos / 2 ^ 32 % 2 ^ 32)
  else if ofs = R.TOK_CAUT_LO then some (bits st.caut 31 0)
  else if ofs = R.TOK_CAUT_HI then some (bits st.caut 63 32)
  else if ofs = R.TOK_CSTATE then some (b2n st.cstarted * 2 ^ 31 + st.cstate)
  else if ofs = R.TOK_SLD_STS then
    some (b2n b.busy * 2 ^ 31 + b2n b.valid * 2 ^ 30 + b2n b.err * 2 ^ 29 + b.code * 2 ^ 16 + b.owner * 2 ^ 12 +
      (if b.valid then b.strs.length else 0))
  else none

/-- A CKP page: CKP_DOM_STS, of instance 0. -/
def State.ckpLive (s : State) (d ofs : Nat) : Option Nat :=
  if ofs = R.CKP_DOM_STS ∧ d = 0 then
    some (match s.ckp.run with
      | some r => if r.dom && r.op == 2 then 2 ^ 31 + r.done.length else 0
      | none => 0)
  else none

/-- An LNK page. -/
def State.lnkLive (s : State) (l ofs : Nat) : Option Nat :=
  if ofs = R.LNK_LMAP_VAL then
    some (match s.holderOf resLnk l with
      | some p =>
        let x := SMap.get s.fab.lmap (p * 4096 + s.f (pLNK l) F.LNK_LMAP_SEL_LID) (false, 0)
        b2n x.1 * 2 ^ 31 + x.2
      | none => 0)
  else if ofs = R.LNK_OUT then some (s.linkReqs l)
  else none

/-- The RAS page. -/
def State.rasLive (s : State) (ofs : Nat) : Option Nat :=
  let sel := s.f pRAS F.RAS_SPARE_SEL_CTRL
  let c := s.ctl (if sel < 128 then pgOf .nsc sel else pgOf .msc (sel - 128))
  if ofs = R.RAS_LOG_STS then some (s.f pRAS F.RAS_LOG_STS_OVF * 2 ^ 31 + s.ras.log.length)
  else if ofs = R.RAS_SPARE_VAL then some (c.repairQ.length * 2 ^ 11 + (spareRows (if sel < 128 then pgOf .nsc sel else pgOf .msc (sel - 128)) - c.spareUsed))
  else if ofs = R.RAS_FENCE_VAL then
    some (b2n (s.fenced (s.f pRAS F.RAS_FENCE_SEL_PAGE)) * 2 ^ 31 + s.f pRAS F.RAS_FENCE_VAL_CNT)
  else none

/-- The word a block shows live at an offset of its page, where it does not read its stored word. -/
def State.liveWord (s : State) (pg ofs : Nat) : Option Nat :=
  if ofs < 0x100 then s.headLive pg ofs
  else match pageInfo pg with
    | some (.glb, _) => s.glbLive ofs
    | some (.tbs, _) => s.tbsLive ofs
    | some (.prt, _) => s.prtLive ofs
    | some (.sec, _) => s.secLive ofs
    | some (.sch, i) => if i = 0 then s.schgLive ofs else s.schLive (i - 1) ofs
    | some (.core, c) => s.coreLive c ofs
    | some (.clu, k) => s.cluLive k ofs
    | some (.mig, d) => s.migLive d ofs
    | some (.tok, e) => s.tokLive e ofs
    | some (.ckp, d) => s.ckpLive d ofs
    | some (.lnk, l) => s.lnkLive l ofs
    | some (.hif, _) => if ofs = R.HIF_ATS_STS then some s.hif.atc.length else none
    | some (.ras, _) => s.rasLive ofs
    | _ => none

/-! ## A control-space read -/

/-- The fields of a register that read: write-only and Res0 fields read 0 (R12). -/
def defReads (d : RegDef) (w : Nat) : Nat :=
  d.fields.foldl (fun a f => if f.acc = .wo ∨ f.acc = .res0 then a else a + bits w f.hi f.lo * 2 ^ f.lo) 0

/-- What the register at an offset of a page reads to a master that may read it; an offset that holds no
register reads 0 (R75). -/
def State.readWord (s : State) (pg ofs : Nat) : Nat :=
  match regDefAt pg ofs with
  | none => 0
  | some d => defReads d ((s.liveWord pg ofs).getD (s.w pg ofs))

/-- R90: the registers that every master which reaches the page may read. -/
def openReg (ofs : Nat) : Bool := [R.PG_ID, R.PG_VER, R.PG_CAP, R.PG_OWNER, R.PG_STS].contains ofs

/-- R90, R100: may the master read the word at an offset of a page it reaches? -/
def State.readOk (s : State) (m pg ofs : Nat) : Bool := openReg ofs || s.mayRead m pg || (regDefAt pg ofs).isNone

/-- R76: does the control space accept a read of this size at this offset? -/
def readSizeOk (pg ofs size : Nat) : Bool :=
  (size == 4 && ofs % 4 == 0) ||
  (size == 8 && (ofs % 8 == 0 || ofs == R.PG_PERF_VAL_LO ||
    (match pageInfo pg with
     | some (.core, _) => ofs == R.GTH_FLT_VAL_LO
     | some (.sch, i) => i != 0 && (ofs == R.SCH_DLY_NEXT_LO || ofs == R.SCH_GRANTS_LO)
     | _ => false)))

/-- The value of a word of a read: 0 in a page under soft reset (R100) and where R90 forbids it. -/
def State.seenWord (s : State) (m pg ofs : Nat) : Nat :=
  if s.rstBusy pg && decide (0x100 ≤ ofs) || !s.readOk m pg ofs then 0 else s.readWord pg ofs

/-- R100: a read at 0x100 or above of a page under soft reset, which returns 0 and logs nothing. -/
def State.quietRead (s : State) (pg ofs : Nat) : Bool := s.rstBusy pg && decide (0x100 ≤ ofs)

/-- R91: a read of the word at an offset that is denied and logged. -/
def State.readBad (s : State) (m pg ofs : Nat) : Bool := !s.readOk m pg ofs && !s.quietRead pg ofs

/-- A control-space read of a master: the value it returns, and what it logs (R79, R80, R91, R100).  Where the spec
does not say, the model chooses (DESIGN CHOICE, log entry 79): the subject of a 0x01 is the reader, DETAIL is the
offset in the page, and a 64-bit read of which only one word is allowed returns that word and logs 0x02 once. -/
def pageRead (m ofs size : Nat) (s : State) : Nat × State :=
  let pg := ofs / 4096
  let o := ofs % 4096
  if !s.reaches m pg then (0, unbacked m ofs s)
  else if !readSizeOk pg o size then (0, if s.quietRead pg o then s else logErr pg 0x01 m o 0 s)
  else
    let lo := s.seenWord m pg o
    let hi := if size = 8 then s.seenWord m pg (o + 4) else 0
    (lo + hi * 2 ^ 32, if s.readBad m pg o || (size == 8 && s.readBad m pg (o + 4)) then logErr pg 0x02 m o 0 s else s)

/-- A read of VF p + 1's queue page (R616): sizes and alignment as R76. -/
def queueRead (p ofs size : Nat) (s : State) : Nat × State :=
  if size = 4 ∧ ofs % 4 = 0 then (s.readQueue p ofs, s)
  else if size = 8 ∧ ofs % 8 = 0 then (s.readQueue p ofs + s.readQueue p (ofs + 4) * 2 ^ 32, s)
  else (0, logErr pHIF 0x01 p 0 0 s)

/-! ## Meaning -/

/-- READ_DENIED: a control-space read of a master, allowed or not; offsets from 2^26 of a virtual function
are those of its queue page. -/
def execReadDenied (m ofs size : Nat) (s : State) : Host.Outcome State Fault Refusal :=
  whenOk (okMaster m && okOffset m ofs) s <|
  run [] s fun s =>
    let r := if m < 8 ∧ 2 ^ 26 ≤ ofs then queueRead m (ofs - 2 ^ 26) size s else pageRead m (ofs % 2 ^ 26) size s
    r.2.emit (.readData m (leBytes size r.1) false 0)

end Sys2Proof.Machine
end

