-- ==== Sys2Proof/Machine/RegWrite.lean ====
section
/-! DEFINITION.  A write to any register of the control space (R76, R77, R92 to R94), page type by page
type, and to a virtual function's queue page (R616). -/

namespace Sys2Proof.Machine

/-- No rule of the register's own. -/
abbrev anyOk : State → Bool := fun _ => true

/-- Is a number within bounds? -/
def numIn (lo hi x : Nat) : Bool := decide (lo ≤ x) && decide (x ≤ hi)

/-- A write whose only rule is a range of the written word. -/
def rangeWrite (m pg ofs v : Nat) (r : Bool) (s : State) : State := plainWrite m pg ofs v (fun _ => r) anyOk s

/-- R739: the word as it stands, or a state in which it may change. -/
def sameOr (pg ofs v : Nat) (free : State → Bool) (s : State) : Bool := v == s.w pg ofs || free s

/-- A tier code field in bits [1:0]: 0b00 is refused. -/
abbrev tierOk (v : Nat) : Bool := v % 4 != 0

/-! ## GLB, PRT and SEC -/

/-- FAB_RT_LO and FAB_RT_HI: the route entry that FAB_RT_SEL names. -/
def wrRoute (m : Nat) (hi : Bool) (v : Nat) (s : State) : State :=
  checkedWrite m pGLB (if hi then R.FAB_RT_HI else R.FAB_RT_LO) v anyOk anyOk
    (fun s =>
      let k := s.f pGLB F.FAB_RT_SEL_PHYS
      let w := SMap.get s.fab.rt k 0
      { s with fab := { s.fab with rt := SMap.put s.fab.rt k (if hi then setBits w 63 32 v else setBits w 31 0 v) 0 } }) s

/-- A register of the GLB page. -/
def wrGlb (m ofs v : Nat) (s : State) : State :=
  if ofs = R.GLB_STATE then wrGlbState m v s
  else if ofs = R.GLB_CSUB then wrCsub m v s
  else if ofs = R.GLB_CMAP_SEL then rangeWrite m pGLB ofs v (decide (v < 384)) s
  else if ofs = R.FAB_DEVID then
    plainWrite m pGLB ofs v anyOk (sameOr pGLB ofs v (fun s => (List.range 64).all (fun l => !s.linkUp l))) s
  else if ofs = R.FAB_RT_LO then wrRoute m false v s
  else if ofs = R.FAB_RT_HI then wrRoute m true v s
  else if ofs = R.FAB_TAG_QNS then rangeWrite m pGLB ofs v (numIn 1 60000 v) s
  else rangeWrite m pGLB ofs v true s

/-- A register of the PRT page. -/
def wrPrt (m ofs v : Nat) (s : State) : State :=
  if ofs = R.PRT_CMD_LO then wrPrtCmdLo m v s
  else if ofs = R.PRT_CMD_HI then wrPrtCmdHi m v s
  else if ofs = R.PRT_RST_TMO then rangeWrite m pPRT ofs v (numIn 1000 80000 v) s
  else if ofs = R.PRT_QSEL then
    rangeWrite m pPRT ofs v (decide (bits v 15 0 < resCount (bits v 18 16))) s
  else if R.PRT_P_SEED_LO ≤ ofs ∧ ofs < R.PRT_P_SEED_LO + 64 then
    plainWrite m pPRT ofs v anyOk
      (sameOr pPRT ofs v (fun s => (s.part ((ofs - R.PRT_P_SEED_LO) / 8)).st == .free)) s
  else rangeWrite m pPRT ofs v true s

/-- A register of the SEC page. -/
def wrSec (m ofs v : Nat) (s : State) : State :=
  if ofs = R.SEC_CMD then wrSecCmd m v s
  else if ofs = R.SEC_IKEY_CTL then wrIkeyCtl m v s
  else if R.SEC_IKEY_W ≤ ofs ∧ ofs < R.SEC_IKEY_W + 32 then
    checkedWrite m pSEC ofs v anyOk anyOk (fun s => s.setW pSEC ofs v) s
  else rangeWrite m pSEC ofs v true s

/-! ## TBS, PWR, RAS, DBG, MGT, FW, BRG -/

/-- A register of the RAS page. -/
def wrRas (m ofs v : Nat) (s : State) : State :=
  if ofs = R.RAS_FENCE then wrFence m v s
  else if ofs = R.RAS_LOG_POP then wrLogPop m v s
  else if ofs = R.RAS_SCRUB_NEAR ∨ ofs = R.RAS_SCRUB_MID ∨ ofs = R.RAS_SCRUB_FAR then
    rangeWrite m pRAS ofs v (numIn 1 720 (bits v 9 0)) s
  else if ofs = R.RAS_CE_THR then rangeWrite m pRAS ofs v (numIn 1 255 v) s
  else if ofs = R.RAS_ESC_CFG then
    rangeWrite m pRAS ofs v (bits v 31 24 != 0 && bits v 23 16 != 0 && bits v 15 0 != 0) s
  else if ofs = R.RAS_SPARE_SEL then rangeWrite m pRAS ofs v (decide (v ≤ 135)) s
  else rangeWrite m pRAS ofs v true s

/-- A register of the DBG page. -/
def wrDbg (m ofs v : Nat) (s : State) : State :=
  if ofs = R.DBG_CMD then wrDbgCmd m v s
  else if ofs = R.DBG_RD_GO then wrDbgGo m v s
  else if ofs = R.DBG_RD_SEL then rangeWrite m pDBG ofs v (bits v 26 24 != 7) s
  else if ofs = R.DBG_TRC_LO ∨ ofs = R.DBG_TRC_HI then wrTrcBase m ofs v s
  else if ofs = R.DBG_TRC_CTL then wrTrcCtl m v s
  else rangeWrite m pDBG ofs v true s

/-- A register of a page's event ring set. -/
def wrEvq (m pg ofs v : Nat) (s : State) : State :=
  if ofs = R.EVQ_BASE_LO then wrEvqLo m pg v s
  else if ofs = R.EVQ_BASE_HI then wrEvqHi m pg v s
  else if ofs = R.EVQ_CTL then wrEvqCtl m pg v s
  else if ofs = R.EVQ_CONS then wrEvqCons m pg v s
  else rangeWrite m pg ofs v true s

/-- A register of the MGT page. -/
def wrMgt (m ofs v : Nat) (s : State) : State :=
  if ofs < 0x118 then wrEvq m pMGT ofs v s
  else if ofs = R.MGT_WDT then wrWdt m v s
  else if ofs = R.MGT_BUS then wrBus m v s
  else rangeWrite m pMGT ofs v true s

/-- A register of the FW page. -/
def wrFw (m ofs v : Nat) (s : State) : State :=
  if ofs = R.FW_CTL then wrFwCtl m v s
  else if ofs = R.FW_ACT_TMO then rangeWrite m pFW ofs v (numIn 50 5000 v) s
  else rangeWrite m pFW ofs v true s

/-- A register of a BRG page. -/
def wrBrg (m d ofs v : Nat) (s : State) : State :=
  if ofs = R.BRG_CTL then wrBrgCtl m d v s
  else if ofs = R.BRG_MOD_EN_LO then wrBrgModEn m d false v s
  else if ofs = R.BRG_MOD_EN_HI then wrBrgModEn m d true v s
  else rangeWrite m (pBRG d) ofs v true s

/-! ## HIF and the memory controllers -/

/-- A register of the HIF page. -/
def wrHif (m ofs v : Nat) (s : State) : State :=
  if ofs < 0x118 then wrEvq m pHIF ofs v s
  else if R.HIF_WIN_BASE_LO ≤ ofs ∧ ofs < R.HIF_WIN_BASE_LO + 256 then
    wrWin m ((ofs - R.HIF_WIN_BASE_LO) / 16) (ofs % 16 / 4) v s
  else rangeWrite m pHIF ofs v true s

/-- A register of an NSC, MSC or FSC page.  The capacity of the expander on a far-store port is the
expander's own: a free value. -/
def wrCtlPage (m pg ofs v : Nat) (s : State) : State :=
  if ofs = R.MC_SHARE then wrShare m pg v s
  else match pageInfo pg with
    | some (.fsc, i) =>
      if ofs = R.FSC_HP then wrFscHp m i v none s else rangeWrite m pg ofs v true s
    | _ => rangeWrite m pg ofs v true s

/-! ## SCH -/

/-- An allocator or FX64 register of a partition's SCH page (from 0xE00). -/
def wrSchMem (m p ofs v : Nat) (s : State) : State :=
  let pg := pSCH p
  if ofs < 0xF00 then
    let r := (ofs - R.FXR_BASE_LO) / 16
    let k := ofs % 16 / 4
    if k = 3 then wrFxrCtl m p r v s else wrFxrBase m p r k v s
  else if ofs = R.ALC_SIZE then rangeWrite m pg ofs v (numIn 1 4194304 v) s
  else if ofs = R.ALC_REC_LO then rangeWrite m pg ofs v (tierOk v) s
  else if ofs = R.ALC_CMD then wrAlcCmd m p v s
  else rangeWrite m pg ofs v true s

/-- A register of a partition's SCH page. -/
def wrSch (m p ofs v : Nat) (s : State) : State :=
  let pg := pSCH p
  if ofs < 0x118 then wrEvq m pg ofs v s
  else if 0xE00 ≤ ofs then wrSchMem m p ofs v s
  else if ofs = R.SCH_CMD_GO then wrCmdGo m p v s
  else if ofs = R.SCH_DCFG then rangeWrite m pg ofs v (decide (bits v 19 0 ≤ 1000000)) s
  else if ofs = R.SCH_TICK then wrTick m p v s
  else if ofs = R.SCH_FLOWCFG then wrFlowCfg m p v s
  else if ofs = R.SCH_FLOWMASK_LO then wrFlowMask m p false v s
  else if ofs = R.SCH_FLOWMASK_HI then wrFlowMask m p true v s
  else rangeWrite m pg ofs v true s

/-! ## CLU and CORE -/

/-- A register of a CLU page. -/
def wrClu (m k ofs v : Nat) (s : State) : State :=
  let pg := pCLU k
  if ofs = R.CLU_WCFG then wrWcfg m k v s
  else if ofs = R.CLU_PHASE then rangeWrite m pg ofs v (numIn 1 8 v) s
  else if ofs = R.CLU_LPF_LIST_LO then rangeWrite m pg ofs v (tierOk v) s
  else if ofs = R.CLU_LPF_CTL then wrLpfCtl m k v s
  else if ofs = R.CLU_DBG then wrCluDbg m k v s
  else rangeWrite m pg ofs v true s

/-- R259: the state in which the core's pool may be resized. -/
def State.poolFree (s : State) (c : Nat) : Bool :=
  s.phase c == 0 && (match s.cluOf c with
    | some k => !s.lpfBusy k && s.f (pCLU k) F.CLU_LPF_STS_SWAP_PEND == 0
    | none => true)

/-- WS_POOL (R233, R259): every buffer of the resized pool is free. -/
def wrPool (m c v : Nat) (s : State) : State :=
  let pg := pCORE c
  checkedWrite m pg R.WS_POOL v
    (fun _ => numIn 16 384 (bits v 8 0) && decide (1 ≤ bits v 24 16) && decide (bits v 24 16 < bits v 8 0))
    (sameOr pg R.WS_POOL v (fun s => s.poolFree c))
    (fun s => if v = s.w pg R.WS_POOL then s else poolReset c (s.setW pg R.WS_POOL v)) s

/-- R304: registers that stand still while the page has EN 1. -/
def wrStill (m c ofs v : Nat) (r : State → Bool) (s : State) : State :=
  plainWrite m (pCORE c) ofs v r (sameOr (pCORE c) ofs v (fun s => s.f (pCORE c) F.PG_CTL_EN == 0)) s

/-- A register of a CORE page. -/
def wrCore (m c ofs v : Nat) (s : State) : State :=
  let pg := pCORE c
  if ofs = R.CORE_BOOT then wrStill m c ofs v anyOk s
  else if ofs = R.CORE_PLD_SRC_LO then wrStill m c ofs v (fun _ => tierOk v) s
  else if ofs = R.CORE_PLD_SRC_HI then wrStill m c ofs v anyOk s
  else if ofs = R.CORE_RWIN then
    wrStill m c ofs v (fun s => decide (bits v 8 0 + bits v 24 16 ≤ 384 - s.poolSize c)) s
  else if ofs = R.CORE_PLD_CTL then wrPldCtl m c v s
  else if ofs = R.CORE_FLT then wrCoreFlt m c v s
  else if R.TQ_CFG ≤ ofs ∧ ofs < R.TQ_CFG + 16 then rangeWrite m pg ofs v (numIn 1 256 v) s
  else if ofs = R.WS_POOL then wrPool m c v s
  else if ofs = R.WS_BUF_WAIT then rangeWrite m pg ofs v (numIn 1 1000000 v) s
  else if ofs = R.GTH_CFG then rangeWrite m pg ofs v (numIn 1 128 v) s
  else rangeWrite m pg ofs v true s

/-! ## MIG, TOK, CKP -/

/-- A register of a MIG page. -/
def wrMig (m d ofs v : Nat) (s : State) : State :=
  let pg := pMIG d
  if ofs = R.MIG_CFG then rangeWrite m pg ofs v (numIn 1 256 (bits v 24 16) && numIn 1 16 (bits v 4 0)) s
  else rangeWrite m pg ofs v true s

/-- A register of a TOK page. -/
def wrTok (m e ofs v : Nat) (s : State) : State :=
  let pg := pTOK e
  if ofs = R.TOK_VSLOT then wrVslot m e v s
  else if ofs = R.TOK_VLD_SRC_LO ∨ ofs = R.TOK_SLD_SRC_LO then rangeWrite m pg ofs v (tierOk v) s
  else if ofs = R.TOK_VLD_CTL then wrVldCtl m e v s
  else if ofs = R.TOK_STRM_CTL then wrStrmCtl m e v s
  else if ofs = R.TOK_DTAB_LO then wrDtab m e false v s
  else if ofs = R.TOK_DTAB_HI then wrDtab m e true v s
  else if ofs = R.TOK_DCTL then wrDctl m e v s
  else if ofs = R.TOK_CAUT_LO then wrCaut m e false v s
  else if ofs = R.TOK_CAUT_HI then wrCaut m e true v s
  else if ofs = R.TOK_SLD_CTL then wrSldCtl m e v s
  else rangeWrite m pg ofs v true s

/-- The range rules of a CKP page's registers. -/
def ckpRange (d ofs v : Nat) (s : State) : Bool :=
  let pg := pCKP d
  if ofs = R.CKP_IMG_LO then tierOk v
  else if ofs = R.CKP_IMG_CAP then v != 0
  else if ofs = R.CKP_EXCL_LO then tierOk v || s.f pg F.CKP_EXCL_HI_NEXCL == 0
  else if ofs = R.CKP_EXCL_HI then bits v 27 16 == 0 || s.f pg F.CKP_EXCL_LO_TIER != 0
  else if ofs = R.CKP_QTMO then numIn 100 1000000 v
  else if ofs = R.CKP_DOM then numIn 1 4096 (bits v 28 16) && decide (bits v 11 0 < bits v 28 16)
  else if ofs = R.CKP_DTMO then numIn 1 60000 v
  else true

/-- The registers a command in progress uses: they change only while CKP_STS.BUSY is 0. -/
def ckpStill (ofs : Nat) : Bool :=
  [R.CKP_IMG_LO, R.CKP_IMG_HI, R.CKP_IMG_CAP, R.CKP_EXCL_LO, R.CKP_EXCL_HI, R.CKP_TAG_LO, R.CKP_TAG_HI,
   R.CKP_DOM, R.CKP_CUT_LO, R.CKP_CUT_HI].contains ofs

/-- A register of a CKP page. -/
def wrCkp (m d ofs v : Nat) (s : State) : State :=
  let pg := pCKP d
  if ofs = R.CKP_CMD then wrCkpCmd m d v s
  else plainWrite m pg ofs v (ckpRange d ofs v)
    (sameOr pg ofs v (fun s => !ckpStill ofs || s.f (pCKP 0) F.CKP_STS_BUSY == 0)) s

/-! ## LNK -/

/-- LNK_LMAP_VAL: the entry of the holder's logical map that LNK_LMAP_SEL names. -/
def wrLmap (m l v : Nat) (s : State) : State :=
  let pg := pLNK l
  checkedWrite m pg R.LNK_LMAP_VAL v anyOk
    (fun s => match s.holderOf resLnk l with | some p => decide (p < 8) | none => false)
    (fun s => match s.holderOf resLnk l with
      | some p =>
        let k := p * 4096 + s.f pg F.LNK_LMAP_SEL_LID
        { s with fab := { s.fab with lmap := SMap.put s.fab.lmap k (bit v 31, bits v 11 0) (false, 0) } }
      | none => s) s

/-- LNK_MRING_CTL: an enabled ring starts empty, and lies wholly in memory of the page's holder. -/
def wrMring (m l v : Nat) (s : State) : State :=
  let pg := pLNK l
  let ofs := R.LNK_MRING_CTL
  checkedWrite m pg ofs v (fun _ => numIn 4 16 (bits v 12 8))
    (fun s => s.f pg F.LNK_MRING_CTL_EN == 0 || !changes pg F.LNK_MRING_CTL_LOG2N v s)
    (fun s =>
      if bit v 0 && s.f pg F.LNK_MRING_CTL_EN == 0 then
        let b := s.mring l
        let held := match s.assignee pg with | some o => s.holds o b.1 b.2 (64 * 2 ^ bits v 12 8) | none => false
        if held then ((s.setW pg ofs v).setW pg R.LNK_MRING_PROD 0).setW pg R.LNK_MRING_CONS 0
        else refuse m pg ofs 0x02 s
      else s.setW pg ofs v) s

/-- A register of a LNK page. -/
def wrLnk (m l ofs v : Nat) (s : State) : State :=
  let pg := pLNK l
  let idle (s : State) : Bool := s.f pg F.LNK_MRING_CTL_EN == 0
  if ofs = R.LNK_CTL then wrLnkCtl m l v s
  else if ofs = R.LNK_TRN_TMO then rangeWrite m pg ofs v (numIn 1 10000 v) s
  else if ofs = R.LNK_RTMO then rangeWrite m pg ofs v (numIn 100 4000000 v) s
  else if ofs = R.LNK_RPLY then rangeWrite m pg ofs v (decide (200 ≤ bits v 31 16) && decide (1 ≤ bits v 7 0)) s
  else if ofs = R.LNK_LMAP_VAL then wrLmap m l v s
  else if ofs = R.LNK_MRING_LO then
    plainWrite m pg ofs v (fun _ => tierOk v) (fun s => !changes pg F.LNK_MRING_LO_ADDR v s || idle s) s
  else if ofs = R.LNK_MRING_HI then plainWrite m pg ofs v anyOk (sameOr pg ofs v idle) s
  else if ofs = R.LNK_MRING_CTL then wrMring m l v s
  else if ofs = R.LNK_MRING_CONS then
    plainWrite m pg ofs v
      (fun s => decide ((v + 2 ^ 32 - s.w pg R.LNK_MRING_CONS) % 2 ^ 32 ≤
        (s.w pg R.LNK_MRING_PROD + 2 ^ 32 - s.w pg R.LNK_MRING_CONS) % 2 ^ 32)) anyOk s
  else if ofs = R.LNK_XDATA_LO ∨ ofs = R.LNK_XRSP_LO then rangeWrite m pg ofs v (tierOk v) s
  else if ofs = R.LNK_XCTL then wrXctl m l v s
  else rangeWrite m pg ofs v true s

/-! ## Any register -/

/-- A block-specific register (offsets from 0x100). -/
def wrBlk (m pg ofs v : Nat) (s : State) : State :=
  match pageInfo pg with
  | none => unbacked m (pg * 4096 + ofs) s
  | some (t, i) =>
    match t with
    | .glb => wrGlb m ofs v s
    | .tbs => if ofs = R.TBS_EVR_CTL then wrEvrCtl m v s else rangeWrite m pg ofs v true s
    | .sec => wrSec m ofs v s
    | .prt => wrPrt m ofs v s
    | .pwr => plainWrite m pg ofs v (pwrRange ofs v) anyOk s
    | .ras => wrRas m ofs v s
    | .dbg => wrDbg m ofs v s
    | .mgt => wrMgt m ofs v s
    | .fw => wrFw m ofs v s
    | .hif => wrHif m ofs v s
    | .brg => wrBrg m i ofs v s
    | .sch => if i = 0 then rangeWrite m pg ofs v true s else wrSch m (i - 1) ofs v s
    | .tok => wrTok m i ofs v s
    | .ckp => wrCkp m i ofs v s
    | .mig => wrMig m i ofs v s
    | .lnk => wrLnk m i ofs v s
    | .nsc | .msc | .fsc => wrCtlPage m pg ofs v s
    | .clu => wrClu m i ofs v s
    | .core => wrCore m i ofs v s

/-- A 32-bit write command to a page. -/
def wrWord (m pg ofs v : Nat) (s : State) : State :=
  if ofs < 0x100 then wrHead m pg ofs v s else wrBlk m pg ofs v s

/-- A control-space write of a master (R76, R77, R79, R80): a 64-bit write is two commands, the low word
first. -/
def pageWrite (m ofs size v : Nat) (s : State) : State :=
  let pg := ofs / 4096
  let o := ofs % 4096
  if !s.reaches m pg then unbacked m ofs s
  else if size = 4 ∧ o % 4 = 0 then wrWord m pg o (v % 2 ^ 32) s
  else if size = 8 ∧ o % 8 = 0 then wrWord m pg (o + 4) (v / 2 ^ 32 % 2 ^ 32) (wrWord m pg o (v % 2 ^ 32) s)
  else if !s.mayWrite m pg then refuse m pg o 0x02 s
  else refuse m pg o 0x01 s

/-- A write of VF p + 1's queue page, of any size (R616). -/
def queueWrite (p ofs size v : Nat) (s : State) : State :=
  if size = 4 ∧ ofs % 4 = 0 then wrQueue p ofs (v % 2 ^ 32) s
  else if size = 8 ∧ ofs % 8 = 0 then wrQueue p (ofs + 4) (v / 2 ^ 32 % 2 ^ 32) (wrQueue p ofs (v % 2 ^ 32) s)
  else refuseQ p (if ofs < 0x100 then some (ofs / 0x40) else none) (if s.enabled p || decide (0x100 ≤ ofs) then 0x01 else 0x02) s

/-- The pages whose event conditions a write of a page may change. -/
def State.writePages (s : State) (ofs v : Nat) : List Nat :=
  let pg := ofs / 4096
  pg :: (match pageInfo pg with
    | some (.core, c) => s.corePages c
    | some (.lnk, l) => s.linkPages l
    | some (.ckp, _) => [pSCH (bits v 11 8 % 8)]
    | some (.glb, _) => [pCORE (bits v 24 24 * 256 + bits v 7 0)]
    | some (.ras, _) => [bits v 13 0]
    | some (.prt, _) => [pSEC]
    | _ => [])

/-! ## Meanings -/

/-- REGISTER_WRITE: a write of a master at an offset of its window; offsets from 2^26 of a virtual function
are those of its queue page. -/
def execRegisterWrite (m ofs size v : Nat) (s : State) : Host.Outcome State Fault Refusal :=
  whenOk (okMaster m && okOffset m ofs && below (2 ^ 64) v) s <|
  if m < 8 ∧ 2 ^ 26 ≤ ofs then run [pHIF] s (queueWrite m (ofs - 2 ^ 26) size v)
  else run (s.writePages (ofs % 2 ^ 26) v) s (pageWrite m (ofs % 2 ^ 26) size v)

end Sys2Proof.Machine
end

