-- ==== Sys2Proof/Machine/FabRw.lean ====
section
/-! DEFINITION.  READ and WRITE arriving over the fabric: tier memory, or the control space through the
arrival partition's VF window (R589, R590). -/

namespace Sys2Proof.Machine

/-- The status of a control-space access: NO_ACCESS without access to the page, else OK (Table 16-9);
what the access logs stands in the page (R93). -/
def ctlStatus (ok : Bool) : Nat := if ok then 0 else 0x02

/-- A READ of the control space. -/
def readCtl (l p : Nat) (h : PktHdr) (s : State) : State :=
  let pg := h.addr / 4096
  let ok := s.reaches p pg && s.readOk p pg (h.addr % 4096)
  let r := pageRead p h.addr (h.rlen + 1) s
  sendCpl l h (ctlStatus ok) (if ok then leBytes (h.rlen + 1) r.1 else []) 0 r.2

/-- A WRITE of the control space. -/
def writeCtl (l p : Nat) (h : PktHdr) (data : List Byte) (s : State) : State :=
  let pg := h.addr / 4096
  let ok := s.reaches p pg && s.mayWrite p pg
  sendCpl l h (ctlStatus ok) [] 0 (pageWrite p h.addr h.len (leNat data) s)

/-- READ (R589, R590). -/
def readIn (l p since : Nat) (h : PktHdr) (s : State) : State :=
  if h.space = 0 then readCtl l p h s else readTier l p since h s

/-- WRITE (R589, R590). -/
def writeIn (l p since : Nat) (h : PktHdr) (data : List Byte) (s : State) : State :=
  if h.space = 0 then writeCtl l p h data s else writeTier l p since h data s

/-- What a request that waits in a receive buffer does (Table 16-8). -/
def rxAct (l : Nat) (data : List Byte) (p since : Nat) (h : PktHdr) (s : State) : State :=
  match h.opc with
  | 0x01 => readIn l p since h s
  | 0x02 => writeIn l p since h data s
  | 0x03 => atomicIn l p since h data s
  | 0x04 => messageIn l p h data s
  | 0x05 => eventIn l p h.word h s
  | _ => tstreamIn l p since h data s

/-- The requests that wait in a link's receive buffers are tried again, and what LNK_XCTL waits for. -/
def linkRetry (l : Nat) (s : State) : State :=
  let n := (s.link l).rxq.length
  xctlRetry l (forUp (fun v s => rxServe l v (rxAct l) n s) 3 2 s)

/-- READ. -/
def execRead (l hdr : Nat) (data : List Byte) (errs : Errs) (s : State) : Host.Outcome State Fault Refusal :=
  whenOk (okLink l && okHeader hdr) s <|
  runArrivalErr errs [pLNK l] s (arrive l 0x01 hdr data (fun p at_ h => readIn l p at_ h))

/-- WRITE. -/
def execWrite (l hdr : Nat) (data : List Byte) (s : State) : Host.Outcome State Fault Refusal :=
  whenOk (okLink l && okHeader hdr) s <|
  runArrival (pLNK l :: s.writePages (hdr / 2 ^ 80 % 2 ^ 26) (leNat data)) s
    (arrive l 0x02 hdr data (fun p at_ h => writeIn l p at_ h data))

end Sys2Proof.Machine
end

