-- ==== Sys2Proof/Machine/Dispatch.lean ====
section
/-! DEFINITION.  What each command does: one direct call of its meaning per row of the table. -/

namespace Sys2Proof.Machine

/-- The effect of a command on everything but the queue. -/
def exec (i : Instr) (s : State) : Host.Outcome State Fault Refusal :=
  match i with
  | .brgRetrain m die rate => Sys2Proof.Machine.execBrgRetrain m die rate s
  | .brgModEnWrite m die hi v => Sys2Proof.Machine.execBrgModEnWrite m die hi v s
  | .brgMaxRateWrite m die rate => Sys2Proof.Machine.execBrgMaxRateWrite m die rate s
  | .bridgeTransfer die cls src dst mod dep ack => Sys2Proof.Machine.execBridgeTransfer die cls src dst mod dep ack s
  | .bridgeReplay die mod => Sys2Proof.Machine.execBridgeReplay die mod s
  | .bridgeModuleDown mod => Sys2Proof.Machine.execBridgeModuleDown mod s
  | .tbsLock late => Sys2Proof.Machine.execTbsLock late s
  | .skewMeasure => Sys2Proof.Machine.execSkewMeasure s
  | .evrWindowEnd rate0 rate1 => Sys2Proof.Machine.execEvrWindowEnd rate0 rate1 s
  | .clrMin m win => Sys2Proof.Machine.execClrMin m win s
  | .referenceLost => Sys2Proof.Machine.execReferenceLost s
  | .referenceReturn => Sys2Proof.Machine.execReferenceReturn s
  | .handshakeTimeout hs resp => Sys2Proof.Machine.execHandshakeTimeout hs resp s
  | .lateAck hs => Sys2Proof.Machine.execLateAck hs s
  | .nearRecalibrate ch start => Sys2Proof.Machine.execNearRecalibrate ch start s
  | .registerWrite m ofs size v => Sys2Proof.Machine.execRegisterWrite m ofs size v s
  | .readDenied m ofs size => Sys2Proof.Machine.execReadDenied m ofs size s
  | .unbackedAccess m ofs => Sys2Proof.Machine.execUnbackedAccess m ofs s
  | .pageClaim m pg owner => Sys2Proof.Machine.execPageClaim m pg owner s
  | .pageRelease m pg => Sys2Proof.Machine.execPageRelease m pg s
  | .pageEnable m pg en => Sys2Proof.Machine.execPageEnable m pg en s
  | .pageHold m pg hold => Sys2Proof.Machine.execPageHold m pg hold s
  | .pageHeld pg => Sys2Proof.Machine.execPageHeld pg s
  | .softReset m pg => Sys2Proof.Machine.execSoftReset m pg s
  | .softResetDone pg => Sys2Proof.Machine.execSoftResetDone pg s
  | .softResetTimeout pg => Sys2Proof.Machine.execSoftResetTimeout pg s
  | .errFirstClear m pg => Sys2Proof.Machine.execErrFirstClear m pg s
  | .evtEnWrite m pg v => Sys2Proof.Machine.execEvtEnWrite m pg v s
  | .evtSet m pg v => Sys2Proof.Machine.execEvtSet m pg v s
  | .eventRecordWrite n => Sys2Proof.Machine.execEventRecordWrite n s
  | .ringLost o => Sys2Proof.Machine.execRingLost o s
  | .evqEnable m pg v => Sys2Proof.Machine.execEvqEnable m pg v s
  | .evqConsWrite m pg v => Sys2Proof.Machine.execEvqConsWrite m pg v s
  | .glbStateWrite m st => Sys2Proof.Machine.execGlbStateWrite m st s
  | .assign m part res first count => Sys2Proof.Machine.execAssign m part res first count s
  | .unassign m part res first count => Sys2Proof.Machine.execUnassign m part res first count s
  | .unassignApplied ok => Sys2Proof.Machine.execUnassignApplied ok s
  | .enable m part => Sys2Proof.Machine.execEnable m part s
  | .reset m part => Sys2Proof.Machine.execReset m part s
  | .disable m part => Sys2Proof.Machine.execDisable m part s
  | .resetEngineClear part cls => Sys2Proof.Machine.execResetEngineClear part cls s
  | .prtRstTmoExpiry part => Sys2Proof.Machine.execPrtRstTmoExpiry part s
  | .resetFinish part => Sys2Proof.Machine.execResetFinish part s
  | .keySlotFree slot => Sys2Proof.Machine.execKeySlotFree slot s
  | .vfFlr part => Sys2Proof.Machine.execVfFlr part s
  | .vfEnableClear en => Sys2Proof.Machine.execVfEnableClear en s
  | .rotateMgt m => Sys2Proof.Machine.execRotateMgt m s
  | .rngFault => Sys2Proof.Machine.execRngFault s
  | .memRead own iss tier addr len rmt errs => Sys2Proof.Machine.execMemRead own iss tier addr len rmt errs s
  | .memWrite own iss tier addr data pois rmt => Sys2Proof.Machine.execMemWrite own iss tier addr data pois rmt s
  | .memAtomic own iss tier addr code lanes rmt ret errs => Sys2Proof.Machine.execMemAtomic own iss tier addr code lanes rmt ret errs s
  | .shareWindow pg => Sys2Proof.Machine.execShareWindow pg s
  | .alloc m p cls die => Sys2Proof.Machine.execAlloc m p cls die s
  | .free m p => Sys2Proof.Machine.execFree m p s
  | .query m p => Sys2Proof.Machine.execQuery m p s
  | .fxrEnable m p r v => Sys2Proof.Machine.execFxrEnable m p r v s
  | .fxrEnApplied p r => Sys2Proof.Machine.execFxrEnApplied p r s
  | .blockEntryRead c q errs => Sys2Proof.Machine.execBlockEntryRead c q errs s
  | .tqRequestIssue c q => Sys2Proof.Machine.execTqRequestIssue c q s
  | .transferComplete c q id errs => Sys2Proof.Machine.execTransferComplete c q id errs s
  | .bufferRequest c r n => Sys2Proof.Machine.execBufferRequest c r n s
  | .bufferRelease c r n => Sys2Proof.Machine.execBufferRelease c r n s
  | .bufWaitExpiry c => Sys2Proof.Machine.execBufWaitExpiry c s
  | .fetchSlotGrant k c => Sys2Proof.Machine.execFetchSlotGrant k c s
  | .lpfGo m k outMax => Sys2Proof.Machine.execLpfGo m k outMax s
  | .lpfLoadBegin k => Sys2Proof.Machine.execLpfLoadBegin k s
  | .lpfDone k errs => Sys2Proof.Machine.execLpfDone k errs s
  | .weightSwap k => Sys2Proof.Machine.execWeightSwap k s
  | .cluWcfgWrite m k v => Sys2Proof.Machine.execCluWcfgWrite m k v s
  | .ringShardPass k => Sys2Proof.Machine.execRingShardPass k s
  | .lateDataDiscard hs => Sys2Proof.Machine.execLateDataDiscard hs s
  | .coreSubstitute m die failed spare => Sys2Proof.Machine.execCoreSubstitute m die failed spare s
  | .coreRetire m die failed => Sys2Proof.Machine.execCoreRetire m die failed s
  | .csubHeldStart => Sys2Proof.Machine.execCsubHeldStart s
  | .programLoad m c dest count => Sys2Proof.Machine.execProgramLoad m c dest count s
  | .programLoadDone c errs => Sys2Proof.Machine.execProgramLoadDone c errs s
  | .nop c => Sys2Proof.Machine.execNop c s
  | .get c => Sys2Proof.Machine.execGet c s
  | .put c errs => Sys2Proof.Machine.execPut c errs s
  | .jmp c => Sys2Proof.Machine.execJmp c s
  | .loop c => Sys2Proof.Machine.execLoop c s
  | .br c => Sys2Proof.Machine.execBr c s
  | .stage c => Sys2Proof.Machine.execStage c s
  | .trap c => Sys2Proof.Machine.execTrap c s
  | .seti c => Sys2Proof.Machine.execSeti c s
  | .addi c => Sys2Proof.Machine.execAddi c s
  | .add c => Sys2Proof.Machine.execAdd c s
  | .muli c => Sys2Proof.Machine.execMuli c s
  | .ld c ecc => Sys2Proof.Machine.execLd c ecc s
  | .st c => Sys2Proof.Machine.execSt c s
  | .strm c => Sys2Proof.Machine.execStrm c s
  | .wload c => Sys2Proof.Machine.execWload c s
  | .gath c => Sys2Proof.Machine.execGath c s
  | .mact c ecc => Sys2Proof.Machine.execMact c ecc s
  | .vacc c ecc => Sys2Proof.Machine.execVacc c ecc s
  | .fuse c => Sys2Proof.Machine.execFuse c s
  | .drain c ecc => Sys2Proof.Machine.execDrain c ecc s
  | .coreFltClear m c => Sys2Proof.Machine.execCoreFltClear m c s
  | .coreRunlimExpiry c => Sys2Proof.Machine.execCoreRunlimExpiry c s
  | .gatherCommandStart c errs => Sys2Proof.Machine.execGatherCommandStart c errs s
  | .gatherRowFetch c errs => Sys2Proof.Machine.execGatherRowFetch c errs s
  | .gatherRowArrive c id errs => Sys2Proof.Machine.execGatherRowArrive c id errs s
  | .embedUpdate p slot errs => Sys2Proof.Machine.execEmbedUpdate p slot errs s
  | .requant p slot errs => Sys2Proof.Machine.execRequant p slot errs s
  | .migrateRows p slot errs => Sys2Proof.Machine.execMigrateRows p slot errs s
  | .rowMoveRedirect p slot row errs => Sys2Proof.Machine.execRowMoveRedirect p slot row errs s
  | .rowMoveFinish p slot row errs => Sys2Proof.Machine.execRowMoveFinish p slot row errs s
  | .load p => Sys2Proof.Machine.execLoad p s
  | .loadCommit p errs => Sys2Proof.Machine.execLoadCommit p errs s
  | .signal p => Sys2Proof.Machine.execSignal p s
  | .link p => Sys2Proof.Machine.execLink p s
  | .unload p => Sys2Proof.Machine.execUnload p s
  | .retry p => Sys2Proof.Machine.execRetry p s
  | .schCmdGo m p v => Sys2Proof.Machine.execSchCmdGo m p v s
  | .flowcfgWrite m p v => Sys2Proof.Machine.execFlowcfgWrite m p v s
  | .grant p errs => Sys2Proof.Machine.execGrant p errs s
  | .epochApply p errs => Sys2Proof.Machine.execEpochApply p errs s
  | .delayExpiry p errs => Sys2Proof.Machine.execDelayExpiry p errs s
  | .move c errs => Sys2Proof.Machine.execMove c errs s
  | .reshard c errs => Sys2Proof.Machine.execReshard c errs s
  | .completion p slot errs => Sys2Proof.Machine.execCompletion p slot errs s
  | .operationFault p slot code site errs => Sys2Proof.Machine.execOperationFault p slot code site errs s
  | .tokenize p slot errs => Sys2Proof.Machine.execTokenize p slot errs s
  | .vocabLoad m e => Sys2Proof.Machine.execVocabLoad m e s
  | .vocabLoadDone e n errs => Sys2Proof.Machine.execVocabLoadDone e n errs s
  | .tokVslotWrite m e v => Sys2Proof.Machine.execTokVslotWrite m e v s
  | .tokStrmCtlWrite m e v => Sys2Proof.Machine.execTokStrmCtlWrite m e v s
  | .detokenize p slot errs => Sys2Proof.Machine.execDetokenize p slot errs s
  | .constrainMask p slot errs => Sys2Proof.Machine.execConstrainMask p slot errs s
  | .constrainAdvance p slot errs => Sys2Proof.Machine.execConstrainAdvance p slot errs s
  | .stopSetLoad m e owner blk => Sys2Proof.Machine.execStopSetLoad m e owner blk s
  | .stopSetLoadDone e blk errs => Sys2Proof.Machine.execStopSetLoadDone e blk errs s
  | .pause m p => Sys2Proof.Machine.execPause m p s
  | .pauseQuiesced p => Sys2Proof.Machine.execPauseQuiesced p s
  | .ckpQtmoExpiry p => Sys2Proof.Machine.execCkpQtmoExpiry p s
  | .capture m p dom resume => Sys2Proof.Machine.execCapture m p dom resume s
  | .captureCommit errs => Sys2Proof.Machine.execCaptureCommit errs s
  | .captureFail tmo => Sys2Proof.Machine.execCaptureFail tmo s
  | .checkpoint p errs => Sys2Proof.Machine.execCheckpoint p errs s
  | .checkpointCaptureStart p errs => Sys2Proof.Machine.execCheckpointCaptureStart p errs s
  | .resume m p dom => Sys2Proof.Machine.execResume m p dom s
  | .restore m p errs => Sys2Proof.Machine.execRestore m p errs s
  | .restoreDone errs => Sys2Proof.Machine.execRestoreDone errs s
  | .restoreFail tmo => Sys2Proof.Machine.execRestoreFail tmo s
  | .abort m p => Sys2Proof.Machine.execAbort m p s
  | .hold l hdr data => Sys2Proof.Machine.execHold l hdr data s
  | .holdDone l hdr data => Sys2Proof.Machine.execHoldDone l hdr data s
  | .cut l hdr data => Sys2Proof.Machine.execCut l hdr data s
  | .cutDone l hdr data => Sys2Proof.Machine.execCutDone l hdr data s
  | .releaseCut l hdr data => Sys2Proof.Machine.execReleaseCut l hdr data s
  | .abortCut l hdr data => Sys2Proof.Machine.execAbortCut l hdr data s
  | .ckpDtmoExpiry p => Sys2Proof.Machine.execCkpDtmoExpiry p s
  | .ikeyLoad m p => Sys2Proof.Machine.execIkeyLoad m p s
  | .ikeyClear m p => Sys2Proof.Machine.execIkeyClear m p s
  | .linkTrainStart m l v => Sys2Proof.Machine.execLinkTrainStart m l v s
  | .linkStop m l v => Sys2Proof.Machine.execLinkStop m l v s
  | .ts1 l b => Sys2Proof.Machine.execTs1 l b s
  | .ts2 l b => Sys2Proof.Machine.execTs2 l b s
  | .eqreq l b => Sys2Proof.Machine.execEqreq l b s
  | .eqack l b => Sys2Proof.Machine.execEqack l b s
  | .trainStepDone l => Sys2Proof.Machine.execTrainStepDone l s
  | .linkUp l => Sys2Proof.Machine.execLinkUp l s
  | .trainFail l => Sys2Proof.Machine.execTrainFail l s
  | .laneFault l lane => Sys2Proof.Machine.execLaneFault l lane s
  | .recoveryEnd l => Sys2Proof.Machine.execRecoveryEnd l s
  | .dataFlit l b fecc fecu => Sys2Proof.Machine.execDataFlit l b fecc fecu s
  | .nopFlit l b fecc fecu => Sys2Proof.Machine.execNopFlit l b fecc fecu s
  | .creditInit l b => Sys2Proof.Machine.execCreditInit l b s
  | .recover l b => Sys2Proof.Machine.execRecover l b s
  | .nopInsert l => Sys2Proof.Machine.execNopInsert l s
  | .replayTimerExpiry l => Sys2Proof.Machine.execReplayTimerExpiry l s
  | .read l hdr data errs => Sys2Proof.Machine.execRead l hdr data errs s
  | .write l hdr data => Sys2Proof.Machine.execWrite l hdr data s
  | .atomic l hdr data errs => Sys2Proof.Machine.execAtomic l hdr data errs s
  | .message l hdr data => Sys2Proof.Machine.execMessage l hdr data s
  | .event l hdr data => Sys2Proof.Machine.execEvent l hdr data s
  | .tstream l hdr data errs => Sys2Proof.Machine.execTstream l hdr data errs s
  | .cpl l hdr data => Sys2Proof.Machine.execCpl l hdr data s
  | .lnkRtmoExpiry t => Sys2Proof.Machine.execLnkRtmoExpiry t s
  | .tagQuarantineEnd t => Sys2Proof.Machine.execTagQuarantineEnd t s
  | .lnkXctlGo m l v => Sys2Proof.Machine.execLnkXctlGo m l v s
  | .sqTailWrite p q v => Sys2Proof.Machine.execSqTailWrite p q v s
  | .sqFetch p entry res => Sys2Proof.Machine.execSqFetch p entry res s
  | .cqWrite p q => Sys2Proof.Machine.execCqWrite p q s
  | .completionInterrupt p q => Sys2Proof.Machine.execCompletionInterrupt p q s
  | .qCfgWrite p q v => Sys2Proof.Machine.execQCfgWrite p q v s
  | .hostWindowRead win ofs len bar4 tmo errs => Sys2Proof.Machine.execHostWindowRead win ofs len bar4 tmo errs s
  | .hostWindowWrite win ofs data bar4 pois tmo => Sys2Proof.Machine.execHostWindowWrite win ofs data bar4 pois tmo s
  | .atsInvalidate fn page n => Sys2Proof.Machine.execAtsInvalidate fn page n s
  | .pfFlr => Sys2Proof.Machine.execPfFlr s
  | .upstreamReset perst => Sys2Proof.Machine.execUpstreamReset perst s
  | .fscPresent port => Sys2Proof.Machine.execFscPresent port s
  | .fscPerstRelease port => Sys2Proof.Machine.execFscPerstRelease port s
  | .fscTrainCheck port link => Sys2Proof.Machine.execFscTrainCheck port link s
  | .portLost port gone => Sys2Proof.Machine.execPortLost port gone s
  | .fscAccept m port cap => Sys2Proof.Machine.execFscAccept m port cap s
  | .fscDrain m port => Sys2Proof.Machine.execFscDrain m port s
  | .fscDrained port => Sys2Proof.Machine.execFscDrained port s
  | .fscPowerWrite m port on => Sys2Proof.Machine.execFscPowerWrite m port on s
  | .scrubLine pg ofs ecc again => Sys2Proof.Machine.execScrubLine pg ofs ecc again s
  | .rowRepair pg uncorr spareBad => Sys2Proof.Machine.execRowRepair pg uncorr spareBad s
  | .rasFence m pg => Sys2Proof.Machine.execRasFence m pg s
  | .rasLogPop m => Sys2Proof.Machine.execRasLogPop m s
  | .loopInterval die tj hbm pkg sense cur ok => Sys2Proof.Machine.execLoopInterval die tj hbm pkg sense cur ok s
  | .hotNInput low => Sys2Proof.Machine.execHotNInput low s
  | .thermalTrip => Sys2Proof.Machine.execThermalTrip s
  | .brownOut => Sys2Proof.Machine.execBrownOut s
  | .pwrokFall => Sys2Proof.Machine.execPwrokFall s
  | .rstNRelease => Sys2Proof.Machine.execRstNRelease s
  | .bootImageVerify sigAct sigOther => Sys2Proof.Machine.execBootImageVerify sigAct sigOther s
  | .secSelftestDone ok => Sys2Proof.Machine.execSecSelftestDone ok s
  | .memoryTrained pg rate ok => Sys2Proof.Machine.execMemoryTrained pg rate ok s
  | .upstreamRelease us link => Sys2Proof.Machine.execUpstreamRelease us link s
  | .warmReset m => Sys2Proof.Machine.execWarmReset m s
  | .requestUpdate pcie comp => Sys2Proof.Machine.execRequestUpdate pcie comp s
  | .transferCompletePldm sig svn build => Sys2Proof.Machine.execTransferCompletePldm sig svn build s
  | .activateFirmware pcie => Sys2Proof.Machine.execActivateFirmware pcie s
  | .tormalReady => Sys2Proof.Machine.execTormalReady s
  | .fwActTmoExpiry => Sys2Proof.Machine.execFwActTmoExpiry s
  | .svnCommit m => Sys2Proof.Machine.execSvnCommit m s
  | .wdtKick m => Sys2Proof.Machine.execWdtKick m s
  | .wdtExpiry => Sys2Proof.Machine.execWdtExpiry s
  | .mctpControl pcie cmd => Sys2Proof.Machine.execMctpControl pcie cmd s
  | .setEndpointId pcie eid => Sys2Proof.Machine.execSetEndpointId pcie eid s
  | .pldmSensorRead pcie n => Sys2Proof.Machine.execPldmSensorRead pcie n s
  | .vendorRequest pcie q => Sys2Proof.Machine.execVendorRequest pcie q s
  | .getVersion pcie => Sys2Proof.Machine.execGetVersion pcie s
  | .getCapabilities pcie => Sys2Proof.Machine.execGetCapabilities pcie s
  | .negotiateAlgorithms pcie ok => Sys2Proof.Machine.execNegotiateAlgorithms pcie ok s
  | .getDigests pcie => Sys2Proof.Machine.execGetDigests pcie s
  | .getCertificate pcie slot => Sys2Proof.Machine.execGetCertificate pcie slot s
  | .challenge pcie slot => Sys2Proof.Machine.execChallenge pcie slot s
  | .getMeasurements pcie op => Sys2Proof.Machine.execGetMeasurements pcie op s
  | .keyExchange pcie slot => Sys2Proof.Machine.execKeyExchange pcie slot s
  | .finish pcie id ok => Sys2Proof.Machine.execFinish pcie id ok s
  | .endSession pcie id => Sys2Proof.Machine.execEndSession pcie id s
  | .heartbeat pcie id => Sys2Proof.Machine.execHeartbeat pcie id s
  | .keyUpdate pcie id => Sys2Proof.Machine.execKeyUpdate pcie id s
  | .perfSelWrite m pg v => Sys2Proof.Machine.execPerfSelWrite m pg v s
  | .dbgEnter m p => Sys2Proof.Machine.execDbgEnter m p s
  | .dbgExit m p => Sys2Proof.Machine.execDbgExit m p s
  | .cluDbgWrite m k v => Sys2Proof.Machine.execCluDbgWrite m k v s
  | .dbgRdGo m => Sys2Proof.Machine.execDbgRdGo m s
  | .dbgTrcCtlWrite m v => Sys2Proof.Machine.execDbgTrcCtlWrite m v s
  | .rstNAssert => Sys2Proof.Machine.execRstNAssert s
  | .perstNRelease gen width cxl mem => Sys2Proof.Machine.execPerstNRelease gen width cxl mem s
  | .bridgeModuleTrained mod rate => Sys2Proof.Machine.execBridgeModuleTrained mod rate s
  | .bridgeLaneRepair die mod => Sys2Proof.Machine.execBridgeLaneRepair die mod s
  | .fscPrsntNRise port gone => Sys2Proof.Machine.execFscPrsntNRise port gone s
  | .dynamicAddressAssign addr => Sys2Proof.Machine.execDynamicAddressAssign addr s
  | .i3cBusReset smbus => Sys2Proof.Machine.execI3cBusReset smbus s
  | .doeCdatRead => Sys2Proof.Machine.execDoeCdatRead s
  | .cxlSnoop addr => Sys2Proof.Machine.execCxlSnoop addr s
  | .msixUnmask fn x => Sys2Proof.Machine.execMsixUnmask fn x s

end Sys2Proof.Machine
end

