-- ==== Sys2Proof/Machine/Tick.lean ====
section
/-! DEFINITION.  What passes in one nanosecond of the timebase while no command waits: both copies of
TBS_NOW, the time in holdover and the nanosecond counters (R37 to R45, R723, Table 21-1). -/

namespace Sys2Proof.Machine

/-- Table 21-1: how much a nanosecond adds to the counter `code` of a page. -/
def State.nsCount (s : State) (pg code : Nat) : Nat :=
  if code = 0x01 then 1
  else match pageInfo pg with
    | some (.core, c) =>
      let ph := if (s.core c).stopped then 0 else s.phase c
      if code = 0x10 then b2n (ph == 2)
      else if code = 0x11 then b2n (ph == 0)
      else if code = 0x12 then b2n (ph == 1)
      else if 0x21 ≤ code ∧ code ≤ 0x27 then b2n (ph == 1 && s.stallCause c == code - 0x20)
      else 0
    | some (.clu, k) =>
      if code = 0x42 then ((s.slotsOfClu k).filter (fun c => s.phase c == 1 && !s.hasFetch c)).length else 0
    | some (.sch, i) => if code = 0x53 ∧ i ≠ 0 then b2n (s.epochGate (i - 1)) else 0
    | some (.lnk, l) => if code = 0x83 then b2n (s.linkUp l && !(s.link l).txq.isEmpty) else 0
    | _ => 0

/-- The pages whose counter runs. -/
def State.counting (s : State) : List Nat :=
  (s.regs.filter (fun e => e.1 % 4096 == R.PG_PERF_SEL && bit e.2.toNat 12)).map (fun e => e.1 / 4096)

/-- A page's counter after a nanosecond, if its die's copy of TBS_NOW counted it. -/
def tickPerf (old : Timebase) (pg : Nat) (s : State) : State :=
  let code := s.f pg F.PG_PERF_SEL_SEL % 256
  let on := if dieOfPage pg = 0 then s.tb.now0 != old.now0 else s.tb.now1 != old.now1
  if on then s.add64 pg R.PG_PERF_VAL_LO R.PG_PERF_VAL_HI (s.nsCount pg code) else s

/-- Links with something that waits for its target. -/
def State.linksWaiting (s : State) : List Nat :=
  s.links.filterMap (fun e => if !e.2.rxq.isEmpty || e.2.xpend || e.2.xrsp.isSome then some e.1 else none)

/-- Partitions with successors, remote decrements or an allocation record that wait for their targets. -/
def State.partsWaiting (s : State) : List Nat :=
  (List.range 8).filter (fun p => !(s.sc p).succs.isEmpty || !(s.sc p).inQ.isEmpty || (s.al p).record.isSome)

/-- What a partition's scheduler and allocator wait for is tried again. -/
def partRetry (p : Nat) (s : State) : State := recRetry p (inServe p 256 (retrySuccs p s))

/-- Do the checkpoint engines' checks wait for a controller? -/
def State.ckpWaits (s : State) : Bool := s.ckp.run.any (fun r => r.ph == .held || (r.ph == .granted && r.op == 4))

/-- Accesses that waited for a controller or a page (R95, R584) are tried again. -/
def retryAll (s : State) : State :=
  let ls := s.linksWaiting
  let ps := s.partsWaiting
  if ls.isEmpty && ps.isEmpty && !s.ckpWaits then s
  else happen (ls.map pLNK ++ (List.range 8).map pSCH ++ [pCKP 0]) (fun s => ckpRetry (forEach linkRetry ls (forEach partRetry ps s))) s

/-- One nanosecond. -/
def tick (s : State) : State :=
  if s.dead then s
  else if s.f pTBS F.TBS_STS_LOCK == 0 then retryAll s
  else
    let t := { s with tb := tickCopies s.tb }
    let t := if t.f pTBS F.TBS_STS_HOLDOVER = 1 then t.addF pTBS F.TBS_HOLD_NS_HOLD_NS 1 else t
    retryAll (forEach (tickPerf s.tb) s.counting t)

end Sys2Proof.Machine
end

