-- ==== Sys2Proof/Machine/Step.lean ====
section
/-! DEFINITION.  One step of the block: the command at the front of the queue, or one nanosecond. -/

namespace Sys2Proof.Machine

/-- One step.  With a command waiting, the one at the front takes effect on the state with the rest of the
queue; with none waiting, a nanosecond of the timebase passes (DESIGN CHOICE, log entry 2). -/
def step (s : State) : Host.Outcome State Fault Refusal :=
  match s.pending with
  | [] => .next (tick s)
  | c :: rest => exec c { s with pending := rest }

/-- The command that a word spells, put at the front of the queue.  The table gives its rows no bits, so no
word spells one. -/
def State.withFetchWord (s : State) (nbits w : Nat) : State :=
  match decodeTableWord nbits w with
  | some c => { s with pending := c :: s.pending }
  | none => s

end Sys2Proof.Machine
end

