-- ==== Sys2Proof/Safety.lean ====
section
/-! DEFINITION.  What holds of every state the device can be in, what a safe step is, and the words the
statements say what a command leaves unchanged in. -/

namespace Sys2Proof.Machine

/-- The state is in canonical form: no register is listed at its reset word, registers and stores are listed
in strictly rising order, so that equal machines are equal data. -/
def State.wf (s : State) : Bool := SMap.wf resetWord s.regs && s.mem.wf

/-- A step answers a next state and keeps the canonical form. -/
def SafeStep (s : State) : Prop := ∃ t, step s = .next t ∧ t.wf = true

/-- The command's outcome is a next state for which `P` holds. -/
def Goes (c : Instr) (s : State) (P : State → Prop) : Prop := ∃ t, exec c s = .next t ∧ P t

/-- `t` is `s` but for the registers at the offsets `ks` of the control space: memory, cores, queues,
engines and every other register are as they were. -/
def OnlyRegs (ks : List Nat) (s t : State) : Prop :=
  { t with regs := s.regs } = s ∧ ∀ k, k ∉ ks → t.reg k = s.reg k

/-- `t` is `s` but for the registers at the offsets `ks` and the records waiting at the event arbiter. -/
def OnlyRegsEv (ks : List Nat) (s t : State) : Prop :=
  { t with regs := s.regs, ev := s.ev } = s ∧ ∀ k, k ∉ ks → t.reg k = s.reg k

/-- The header registers of a page that an error or an event changes (R105, R110, R724). -/
def noted (pg : Nat) : List Nat :=
  [pg * 4096 + R.PG_EVT_PEND, pg * 4096 + R.PG_ERR_FIRST, pg * 4096 + R.PG_ERR_CNT, pg * 4096 + R.PG_PERF_VAL_LO,
   pg * 4096 + R.PG_PERF_VAL_HI]

/-- The header registers of a page that a refused write changes (R93). -/
def refusedRegs (pg : Nat) : List Nat :=
  (pg * 4096 + R.PG_WREJ_OFS) :: (pg * 4096 + R.PG_STS) :: noted pg

/-- `t` is `s` but for core slot `c`, and the event bits that its change raises. -/
def OnlyCore (c : Nat) (s t : State) : Prop :=
  { t with regs := s.regs, ev := s.ev, cores := s.cores } = s ∧ (∀ d, d ≠ c → t.core d = s.core d) ∧
    ∀ k, k % 4096 ≠ R.PG_EVT_PEND → t.reg k = s.reg k

/-- Every store of memory is as it was: what is left out is the model's own note of the command in progress. -/
def SameMem (s t : State) : Prop := { t.mem with errs := s.mem.errs, wait := s.mem.wait } = s.mem

/-- `t` is `s`, but for the model's own note of the command in progress: nothing has happened. -/
def Waits (s t : State) : Prop := SameMem s t ∧ { t with mem := s.mem } = s

/-- The state in which the effect of a command runs whose reads find `errs` (log entry 3). -/
def State.finds (s : State) (errs : Errs) : State := { s with mem := { s.mem with errs := errs, wait := false } }

/-- A request of core slot `c`'s block is granted now: its issuer has not found it timed out (R49), its turn has come
(R173, R174), and its controller takes it from its owner (R95, R135). -/
def State.grantsNow (s : State) (c tier addr len cls : Nat) (iss : Issued) : Prop :=
  s.overdue (pCORE c) iss = false ∧ s.turnAt tier addr len cls iss.since = true ∧
    (tier = 0 ∨ s.accessCode (s.corePart c) tier addr len = 0)

/-- The bytes, with their marks, that a granted read of core slot `c` delivers: of its cluster's store, or of a tier
as the access's key slot decrypts them. -/
def State.delivers (s : State) (c slot tier addr len : Nat) : Marked :=
  if tier = 0 then s.cluRead ((s.cluOf c).getD 0) addr len else withSrc tier addr (s.readBytes slot tier addr len)

/-- The core has dropped its operation and its transfers (R299). -/
def State.dropped (t : State) (c : Nat) : Prop := (t.core c).op = none ∧ (t.core c).tqs = [] ∧ (t.core c).tally = []

/-- A token engine has finished the operation of a slot: its completion, which is to come, gives the stream state `st`
(R472, R498); no stream has changed yet. -/
def Finishes (p n e : Nat) (st : Stream) (s t : State) : Prop :=
  t.slot p n = { s.slot p n with fin := true } ∧ (∀ j, j ≠ n → t.slot p j = s.slot p j) ∧
    ((t.eng e).after.find? (fun x => x.part == p && x.slot == n)).map (·.strm) = some st ∧
    (t.eng e).streams = (s.eng e).streams

/-- The sequencer of core slot `c` executes, and `w` is the instruction at its program counter. -/
def State.runs (s : State) (c w : Nat) : Prop :=
  s.dead = false ∧ okCore c = true ∧ s.seqRuns c = true ∧ s.instr c = some w

/-- The control blocks and flits sent on a link, the latest first. -/
def State.sentOn (s : State) (l : Nat) : List (List Byte) :=
  s.out.filterMap fun o => match o with
    | .block k d => if k = l then some d else none
    | _ => none

/-- A NOP flit of a link whose next SEQ to receive is `ack` (R580). -/
def nopBytes (ack : Nat) (nak : Bool) : List Byte := flitBytes { ftype := 0, ack := ack, ackv := true, nak := nak, cvc := 0, crd := 0 } []

/-- A DATA flit as a link whose next SEQ to receive is `ack` sends or resends it (R580). -/
def dataBytes (ack : Nat) (f : Flit) : List Byte := flitBytes { ftype := 1, seq := f.seq, ack := ack, ackv := true } f.body

/-- The packet of an arriving request. -/
def rxPkt (w : Nat) (data : List Byte) : Packet := { vc := vcOf (hdrOf w).opc, hdr := w, data := data }

/-- A request arrives on link `l`, which is up, within the credits of its channel, and none of its channel waits
before it (R583, R604). -/
def State.comes (s : State) (l w : Nat) (data : List Byte) : Prop :=
  s.pins.held = false ∧ l < 64 ∧ w < 2 ^ 128 ∧ s.linkUp l = true ∧ (rxPkt w data).units ≤ s.crdRx l (rxPkt w data).vc ∧
    (s.link l).rxq.any (fun q => q.pkt.vc == (rxPkt w data).vc) = false

/-- An arriving request passes the checks of R598, and its page takes work: partition `p` holds the link. -/
def State.admits (s : State) (l w : Nat) (data : List Byte) (p : Nat) : Prop :=
  s.failed = false ∧ s.pins.tripped = false ∧ s.holderOf resLnk l = some p ∧ p < 8 ∧ (s.part p).st ≠ .free ∧
    (hdrOf w).dst = s.f pGLB F.FAB_DEVID_ID ∧ (s.part p).st ≠ .resetting ∧ s.pauseSt p < 3 ∧
    reqOk w (hdrOf w) data = true ∧ s.f (pLNK l) F.PG_CTL_EN = 1

/-- In going from `x` to `t`, a completion of an arrived request has joined link `l`'s queue, the request's buffer
is free again with its credits, and what the link may send has gone out (R583 to R585, R597). -/
def Answered (l w : Nat) (data : List Byte) (status : Nat) (ans : List Byte) (pmask : Nat) (x t : State) : Prop :=
  let y := rxFree l true (rxPkt w data) (sendCpl l (hdrOf w) status ans pmask x)
  t.links = y.links ∧ t.out = y.out ∧ ∀ v, v < 5 → t.crdRx l v = y.crdRx l v

/-- An arrived request waits in link `l`'s receive buffer, and nothing else has happened to memory (R584). -/
def Buffered (l w : Nat) (data : List Byte) (s t : State) : Prop :=
  (t.link l).rxq = (s.link l).rxq ++ [{ pkt := rxPkt w data, at_ := s.nowOn (l / 32) }] ∧
    t.crdRx l (rxPkt w data).vc = s.crdRx l (rxPkt w data).vc - (rxPkt w data).units ∧ t.out = s.out ∧ SameMem s t

/-- The commands that still change something in a device held in cold reset or stopped by a thermal trip: the
pins themselves, and requests arriving over the fabric, which are answered (R681, R701). -/
def wakes : Instr → Bool
  | .hotNInput _ | .upstreamReset _ | .perstNRelease _ _ _ _ | .brownOut | .pwrokFall | .rstNAssert | .rstNRelease => true
  | .read _ _ _ _ | .write _ _ _ | .atomic _ _ _ _ | .message _ _ _ | .event _ _ _ | .tstream _ _ _ _ => true
  | _ => false

end Sys2Proof.Machine
end

