-- ==== Sys2Proof/Certificates/Slice0/Obligations.lean ====
section
/-! DEFINITION.  The statements about the AQ-N4, one definition each: what the commands of every family do,
what they leave alone, and what holds of every step. -/

open Sys2Proof Sys2Proof.Machine

/-- A step takes the command at the front of the queue and answers what that command does to the state with the rest
of the queue; on an empty queue a nanosecond of the timebase passes, and the queue stays empty; where no access
waits for its target, nothing else happens in it. Where the spec leaves a choice it follows the model's: log entries
2, 3. -/
def Obligations.AStepRunsTheFrontCommand : Prop :=
  (∀ (c : Instr) (rest : List Instr) (s : State), s.pending = c :: rest → step s = exec c { s with pending := rest }) ∧
  (∀ s : State, s.pending = [] → ∃ t, step s = .next t ∧ t.pending = [] ∧ (s.dead = true → t = s)) ∧
  (∀ s : State, s.pending = [] → s.linksWaiting = [] → s.partsWaiting = [] → s.ckpWaits = false →
    ∃ t, step s = .next t ∧ t.mem = s.mem ∧
    (s.dead = false → s.f pTBS F.TBS_STS_LOCK = 1 → t.tb.now0 + t.tb.now1 ≤ s.tb.now0 + s.tb.now1 + 2 ∧
      s.tb.now0 ≤ t.tb.now0 ∧ s.tb.now1 ≤ t.tb.now1) ∧
    (s.f pTBS F.TBS_STS_LOCK = 0 → t = s))

/-- Right after reset every register reads its reset word, no store lists anything, no command waits, the key slot
of Tormal is slot 8, and the device is held until RST_N is released. Where the spec leaves a choice it follows the
model's: log entries 4, 6. -/
def Obligations.ResetLeavesTheResetState : Prop :=
  State.reset.wf = true ∧ State.reset.pending = [] ∧ (∀ k, State.reset.reg k = resetWord k) ∧
  State.reset.mem.bytes = [] ∧ State.reset.cores = [] ∧ State.reset.sch = [] ∧ State.reset.links = [] ∧
  State.reset.dead = true ∧ State.reset.ckp.run = none ∧
  (∀ n, (State.reset.keySlot n).st = (if n = 8 then .active else .free)) ∧ (State.reset.keySlot 8).owner = oTormal ∧
  State.reset.f (pCKP 0) F.CKP_STS_BUSY = 0 ∧ ∀ p, p < 8 → State.reset.pauseSt p = 0

/-- From every state in canonical form a step answers a next state (never a fault, never a refusal) that is in
canonical form: no register is listed at its reset word, and registers and stores stay in strictly rising order.
Where the spec leaves a choice it follows the model's: log entries 2, 3, 11. -/
def Obligations.EveryStepKeepsTheCanonicalForm : Prop :=
  ∀ s : State, s.wf = true →
    SafeStep s ∧ ∀ t, step s = .next t → t.wf = true

/-- Every command answers a next state and leaves the waiting commands as they are; one whose operands name nothing
the part has does nothing; and in a device held in cold reset, or stopped by a thermal trip, nothing happens but
what its pins and arriving requests do. Where the spec leaves a choice it follows the model's: log entries 1, 3, 64.
-/
def Obligations.CommandsLeaveTheQueueAndADeadDeviceAlone : Prop :=
  (∀ (c : Instr) (s : State), ∃ t, exec c s = .next t ∧ t.pending = s.pending) ∧
  (∀ (c : Instr) (s : State), wellFormed c = false → exec c s = .next s) ∧
  (∀ (c : Instr) (s : State), s.dead = true → wakes c = false → exec c s = .next s)

/-- The timebase's commands (R34, R37, R38, R40, R44, R45, R746): lock, the skew measurement, the end of a rate
window, the monitor's clearing, the reference's loss and return, and a channel's recalibration. Where the spec
leaves a choice it follows the model's: log entries 2, 77. -/
def Obligations.TimebaseCommandsActOnTheirRegisters : Prop :=
  (∀ (s : State) (late : Nat), s.dead = false → late ≤ 4 → s.f pTBS F.TBS_STS_LOCK = 0 →
    Goes (.tbsLock late) s fun t => t.f pTBS F.TBS_STS_LOCK = 1 ∧ t.f pTBS F.TBS_STS_REF_OK = 1 ∧
      t.f pTBS F.TBS_STS_ALIGNED = 1 ∧ t.f pTBS F.TBS_STS_HOLDOVER = s.f pTBS F.TBS_STS_HOLDOVER ∧
      t.f pTBS F.TBS_STS_SKEW_NS = s.f pTBS F.TBS_STS_SKEW_NS ∧ t.tb = { s.tb with late := late } ∧
      (s.f pMGT F.MGT_STS_STAGE = 3 →
        t.f pMGT F.MGT_STS_STAGE = 4 ∧ ∀ pg ∈ tormalPages, t.ownerOf pg = some oTormal) ∧
      (s.f pMGT F.MGT_STS_STAGE ≠ 3 → OnlyRegs [pTBS * 4096 + R.TBS_STS] s { t with tb := s.tb })) ∧
  (∀ (s : State) (late : Nat), s.dead = false → late ≤ 4 → s.f pTBS F.TBS_STS_LOCK = 1 →
    Goes (.tbsLock late) s fun t => t = s) ∧
  (∀ s : State, s.dead = false → s.f pTBS F.TBS_STS_LOCK = 1 → s.tb.measAt + 1000000 ≤ s.now →
    Goes .skewMeasure s fun t =>
      t.f pTBS F.TBS_STS_SKEW_NS = min 255 (max s.tb.now0 s.tb.now1 - min s.tb.now0 s.tb.now1) ∧
      t.f pTBS F.TBS_STS_ALIGNED = (if max s.tb.now0 s.tb.now1 - min s.tb.now0 s.tb.now1 ≤ 4 then 1 else 0) ∧
      t.tb.now0 = s.tb.now0 ∧ t.tb.now1 = s.tb.now1 ∧
      t.tb.skips = max s.tb.now0 s.tb.now1 - min s.tb.now0 s.tb.now1 - 1 ∧
      t.tb.lead1 = decide (s.tb.now0 < s.tb.now1) ∧ t.tb.measAt = s.now ∧ t.tb.gap = s.tb.gap ∧
      t.f pTBS F.TBS_STS_LOCK = 1 ∧ OnlyRegs [pTBS * 4096 + R.TBS_STS] s { t with tb := s.tb }) ∧
  (∀ s : State, s.dead = false → s.now < s.tb.measAt + 1000000 → Goes .skewMeasure s fun t => t = s) ∧
  (∀ (s : State) (rate0 rate1 : Nat), s.dead = false → rate0 < 65536 → rate1 < 65536 → s.f pTBS F.TBS_STS_LOCK = 1 →
    s.tb.evrAt + 2 ^ s.tb.evrWin * 1000 ≤ s.now →
    Goes (.evrWindowEnd rate0 rate1) s fun t =>
      t.f pTBS F.TBS_EVR0_RATE = rate0 ∧ t.f pTBS F.TBS_EVR1_RATE = rate1 ∧
      t.f pTBS F.TBS_EVR0_MIN = min (s.f pTBS F.TBS_EVR0_MIN) rate0 ∧
      t.f pTBS F.TBS_EVR1_MIN = min (s.f pTBS F.TBS_EVR1_MIN) rate1 ∧
      t.tb = { s.tb with evrAt := s.now, evrWin := s.f pTBS F.TBS_EVR_CTL_WIN } ∧
      OnlyRegs [pTBS * 4096 + R.TBS_EVR0, pTBS * 4096 + R.TBS_EVR1] s { t with tb := s.tb }) ∧
  (∀ (s : State) (m win : Nat), s.dead = false → okMaster m = true → s.reaches m pTBS = true → s.mayWrite m pTBS = true →
    s.rstBusy pTBS = false → win ≤ 10 →
    Goes (.clrMin m win) s fun t =>
      t.f pTBS F.TBS_EVR_CTL_WIN = win ∧ t.f pTBS F.TBS_EVR0_MIN = 0xFFFF ∧ t.f pTBS F.TBS_EVR1_MIN = 0xFFFF ∧
      t.f pTBS F.TBS_EVR0_RATE = s.f pTBS F.TBS_EVR0_RATE ∧ t.f pTBS F.TBS_EVR1_RATE = s.f pTBS F.TBS_EVR1_RATE ∧
      OnlyRegs [pTBS * 4096 + R.TBS_EVR_CTL, pTBS * 4096 + R.TBS_EVR0, pTBS * 4096 + R.TBS_EVR1] s t) ∧
  (∀ s : State, s.dead = false → s.f pTBS F.TBS_STS_HOLDOVER = 0 →
    Goes .referenceLost s fun t =>
      t.f pTBS F.TBS_STS_HOLDOVER = 1 ∧ t.f pTBS F.TBS_STS_REF_OK = 0 ∧ t.f pTBS F.TBS_STS_LOCK = s.f pTBS F.TBS_STS_LOCK ∧
      t.f pTBS F.TBS_REF_LOSS_CNT_CNT = min 65535 (s.f pTBS F.TBS_REF_LOSS_CNT_CNT + 1) ∧
      t.f pTBS F.PG_ERR_CNT_LAST = 0x15 ∧ t.f pTBS F.PG_EVT_PEND_ERR = 1 ∧
      OnlyRegsEv ([pTBS * 4096 + R.TBS_STS, pTBS * 4096 + R.TBS_REF_LOSS_CNT] ++ noted pTBS) s t) ∧
  (∀ s : State, s.dead = false → s.f pTBS F.TBS_STS_HOLDOVER = 1 →
    Goes .referenceReturn s fun t =>
      t.f pTBS F.TBS_STS_HOLDOVER = 0 ∧ t.f pTBS F.TBS_STS_REF_OK = 1 ∧ t.f pTBS F.TBS_STS_LOCK = s.f pTBS F.TBS_STS_LOCK ∧
      OnlyRegs [pTBS * 4096 + R.TBS_STS] s t) ∧
  (∀ (s : State) (ch : Nat) (start : Bool), s.dead = false → ch < 128 →
    Goes (.nearRecalibrate ch start) s fun t =>
      t.f (pgOf .nsc ch) F.NSC_STS_CAL_BUSY = (if start then 1 else 0) ∧
      OnlyRegs [pgOf .nsc ch * 4096 + R.NSC_STS] s t)

/-- R29 to R31: for every master that may write the page, BRG_CTL.RETRAIN and a changed MAX_RATE retrain the enabled
modules one at a time (the module in training carries nothing unless it is the only one up), BRG_MOD_EN_LO and
BRG_MOD_EN_HI enable and drain modules, at least one stays enabled, and traffic goes on throughout. Where the spec
leaves a choice it follows the model's: log entries 1, 76. -/
def Obligations.BridgeControlKeepsTrafficMoving : Prop :=
  (∀ (s : State) (m die rate : Nat), s.dead = false → okMaster m = true → die < 2 → rate < 3 →
    s.reaches m (pBRG die) = true → s.mayWrite m (pBRG die) = true → s.rstBusy (pBRG die) = false →
    Goes (.brgRetrain m die rate) s fun t =>
      t.f (pBRG die) F.BRG_CTL_MAX_RATE = rate ∧
      (∀ n ∈ s.enMods, n ∈ t.bridge.retrain) ∧
      (s.bridge.retrain = [] → t.bridge.retrain = s.enMods) ∧
      (∀ n, t.bridge.retrain.head? = some n → t.modUp n = decide (s.upMods = [n])) ∧
      (s.upMods ≠ [] → t.upMods ≠ []) ∧
      t.bridge.inFlight.map (·.id) = s.bridge.inFlight.map (·.id) ∧ t.mem = s.mem) ∧
  (∀ (s : State) (m die rate : Nat), s.dead = false → okMaster m = true → die < 2 → rate < 3 →
    s.reaches m (pBRG die) = true → s.mayWrite m (pBRG die) = true → s.rstBusy (pBRG die) = false →
    Goes (.brgMaxRateWrite m die rate) s fun t =>
      t.f (pBRG die) F.BRG_CTL_MAX_RATE = rate ∧
      (rate = s.f (pBRG die) F.BRG_CTL_MAX_RATE → OnlyRegs [pBRG die * 4096 + R.BRG_CTL] s t) ∧
      (rate ≠ s.f (pBRG die) F.BRG_CTL_MAX_RATE → (∀ n ∈ s.enMods, n ∈ t.bridge.retrain) ∧
        ∀ n, t.bridge.retrain.head? = some n → t.modUp n = decide (s.upMods = [n])) ∧
      (s.upMods ≠ [] → t.upMods ≠ []) ∧
      t.bridge.inFlight.map (·.id) = s.bridge.inFlight.map (·.id) ∧ t.mem = s.mem) ∧
  (∀ (s : State) (m die : Nat) (hi : Bool) (v : Nat), s.dead = false → okMaster m = true → die < 2 →
    v < (if hi then 256 else 2 ^ 32) → s.reaches m (pBRG die) = true → s.mayWrite m (pBRG die) = true →
    s.rstBusy (pBRG die) = false →
    (v ≠ 0 ∨ s.w (pBRG die) (if hi then R.BRG_MOD_EN_LO else R.BRG_MOD_EN_HI) ≠ 0) →
    Goes (.brgModEnWrite m die hi v) s fun t =>
      t.w (pBRG die) (if hi then R.BRG_MOD_EN_HI else R.BRG_MOD_EN_LO) = v ∧
      t.w (pBRG die) (if hi then R.BRG_MOD_EN_LO else R.BRG_MOD_EN_HI) =
        s.w (pBRG die) (if hi then R.BRG_MOD_EN_LO else R.BRG_MOD_EN_HI) ∧
      (∀ n ∈ t.bridge.retrain, n ∈ t.enMods) ∧
      (s.bridge.retrain = [] → t.bridge.trained = s.bridge.trained ∧
        (t.upMods ≠ [] → ∀ x ∈ t.bridge.inFlight, s.modUp x.mod = true → t.modUp x.mod = true)) ∧
      (s.upMods ≠ [] → t.upMods = [] → t.failed = true) ∧
      t.bridge.inFlight.map (·.id) = s.bridge.inFlight.map (·.id) ∧ t.mem = s.mem) ∧
  (∀ (s : State) (m die : Nat) (hi : Bool), s.dead = false → okMaster m = true → die < 2 →
    s.reaches m (pBRG die) = true → s.mayWrite m (pBRG die) = true →
    s.w (pBRG die) (if hi then R.BRG_MOD_EN_LO else R.BRG_MOD_EN_HI) = 0 →
    Goes (.brgModEnWrite m die hi 0) s fun t =>
      t.f (pBRG die) F.PG_WREJ_OFS_CODE = 0x01 ∧ OnlyRegsEv (refusedRegs (pBRG die)) s t)

/-- R20, R21, R24, R25: transfers take and return credits of their own class and direction, a request reserves
response credit for its completion, a page that is disabled or held lets none cross, a module that is taken down
loses no transfer, and the last one's loss fails the device. Where the spec leaves a choice it follows the model's:
log entries 10, 76. -/
def Obligations.BridgeTransfersAreNeitherLostNorDuplicated : Prop :=
  (∀ (s : State) (die cls src dst mod : Nat) (dep : Option (Nat × Nat)), s.dead = false → die < 2 → cls < 3 →
    src < 16384 → dst < 16384 → mod < 40 → okDep dep = true → s.modUp mod = true → s.takesWork (pBRG die) = true →
    s.bridgeCredit die cls src dst = true →
    Goes (.bridgeTransfer die cls src dst mod dep false) s fun t =>
      (∃ x, t.bridge.inFlight = s.bridge.inFlight ++ [x] ∧ x.cls = cls ∧ x.src = src ∧ x.dst = dst ∧ x.die = die ∧
        x.mod = mod ∧ x.dep = dep ∧ x.iss = s.issue (pBRG die)) ∧
      t.bridge.used.get (die * 3 + cls) 0 = s.bridge.used.get (die * 3 + cls) 0 + 1 ∧
      (∀ k, k ≠ die * 3 + cls → t.bridge.used.get k 0 = s.bridge.used.get k 0) ∧
      (cls = 0 → t.bridge.owed = s.bridge.owed.erase (die, src, dst)) ∧
      (cls = 1 → t.bridge.owed = s.bridge.owed) ∧
      (cls = 2 → t.bridge.owed = s.bridge.owed ++ [(1 - die, dst, src)]) ∧
      { t with bridge := s.bridge } = s) ∧
  (∀ (s : State) (die cls src dst mod : Nat) (dep : Option (Nat × Nat)), s.dead = false → die < 2 → cls < 3 →
    src < 16384 → dst < 16384 → mod < 40 → okDep dep = true →
    (s.bridgeCredit die cls src dst = false ∨ s.takesWork (pBRG die) = false) →
    Goes (.bridgeTransfer die cls src dst mod dep false) s fun t => t = s) ∧
  (∀ (s : State) (die cls src dst mod : Nat) (dep : Option (Nat × Nat)) (pre post : List BridgeXfer) (x : BridgeXfer),
    s.dead = false → die < 2 → cls < 3 → src < 16384 → dst < 16384 → mod < 40 → okDep dep = true →
    s.bridge.inFlight = pre ++ x :: post → (x.die = die ∧ x.cls = cls ∧ x.src = src ∧ x.dst = dst) →
    (∀ y ∈ pre, ¬(y.die = die ∧ y.cls = cls ∧ y.src = src ∧ y.dst = dst)) →
    (∀ y ∈ pre ++ post, y.id ≠ x.id) →
    Goes (.bridgeTransfer die cls src dst mod dep true) s fun t =>
      t.bridge.inFlight = pre ++ post ∧
      t.bridge.used.get (die * 3 + cls) 0 = s.bridge.used.get (die * 3 + cls) 0 - 1 ∧
      t.bridge.owed = s.bridge.owed ∧ { t with bridge := s.bridge } = s) ∧
  (∀ (s : State) (die mod : Nat), s.dead = false → die < 2 → mod < 40 → s.modUp mod = true →
    Goes (.bridgeReplay die mod) s fun t =>
      t.f (pBRG die) F.BRG_REPLAY_CNT_CNT =
        min (2 ^ (F.BRG_REPLAY_CNT_CNT.hi + 1 - F.BRG_REPLAY_CNT_CNT.lo) - 1) (s.f (pBRG die) F.BRG_REPLAY_CNT_CNT + 1) ∧
      OnlyRegs [pBRG die * 4096 + R.BRG_REPLAY_CNT] s t) ∧
  (∀ (s : State) (mod : Nat), s.dead = false → mod < 40 → s.modUp mod = true →
    Goes (.bridgeModuleDown mod) s fun t =>
      t.modUp mod = false ∧ t.bridge.inFlight.map (·.id) = s.bridge.inFlight.map (·.id) ∧
      (s.upMods ≠ [mod] → ∀ x ∈ t.bridge.inFlight, x.mod ≠ mod) ∧
      t.f (pBRG 0) F.PG_ERR_CNT_LAST = 0x0C ∧ t.f (pBRG 1) F.PG_ERR_CNT_LAST = 0x0C ∧
      (s.upMods = [mod] → t.failed = true)) ∧
  (∀ (s : State) (mod rate : Nat), s.dead = false → mod < 40 → rate ≤ 2 → bit s.bridge.trained mod = false →
    s.f (pBRG 0) F.BRG_CTL_MAX_RATE ≤ rate → s.f (pBRG 1) F.BRG_CTL_MAX_RATE ≤ rate →
    Goes (.bridgeModuleTrained mod (some rate)) s fun t =>
      bit t.bridge.trained mod = true ∧ t.bridge.rates.get mod 0 = rate ∧
      t.modUp mod = (bit (s.modEn 0) mod && bit (s.modEn 1) mod)) ∧
  (∀ (s : State) (mod : Nat), s.dead = false → mod < 40 → bit s.bridge.trained mod = false →
    Goes (.bridgeModuleTrained mod none) s fun t =>
      bit t.bridge.failed mod = true ∧ bit t.bridge.trained mod = false ∧ t.modUp mod = false ∧
      (6 < s.f pMGT F.MGT_STS_STAGE → s.upMods = [] → t.failed = true)) ∧
  (∀ (s : State) (die mod : Nat), s.dead = false → die < 2 → mod < 40 →
    Goes (.bridgeLaneRepair die mod) s fun t =>
      t.f (pBRG die) F.BRG_REPAIR_LANE_CNT =
        min (2 ^ (F.BRG_REPAIR_LANE_CNT.hi + 1 - F.BRG_REPAIR_LANE_CNT.lo) - 1) (s.f (pBRG die) F.BRG_REPAIR_LANE_CNT + 1) ∧
      OnlyRegs [pBRG die * 4096 + R.BRG_REPAIR] s t)

/-- R83 to R89: a claim by a master that may make it is taken, a claim of a page another owner holds is refused
whole with 0x02, a claim in another owner's name with 0x01, and the owner or Tormal releases. Where the spec leaves
a choice it follows the model's: log entry 14. -/
def Obligations.PageClaimsFollowOwnership : Prop :=
  (∀ (s : State) (m pg : Nat), s.dead = false → okMaster m = true → pg < 16384 → s.mayClaim m pg = true →
    (s.ownerOf pg = none ∨ s.ownerOf pg = some m) →
    Goes (.pageClaim m pg m) s fun t =>
      t.ownerOf pg = some m ∧ OnlyRegs [pg * 4096 + R.PG_OWNER] s t) ∧
  (∀ (s : State) (m pg owner : Nat), s.dead = false → okMaster m = true → pg < 16384 → owner < 16 →
    s.reaches m pg = true → (s.mayClaim m pg = false ∨ ∃ o, s.ownerOf pg = some o ∧ o ≠ m) →
    Goes (.pageClaim m pg owner) s fun t =>
      t.f pg F.PG_STS_WREJ = 1 ∧ t.f pg F.PG_WREJ_OFS_OFS = R.PG_OWNER ∧ t.f pg F.PG_WREJ_OFS_OWNER = m ∧
      t.f pg F.PG_WREJ_OFS_CODE = 0x02 ∧ t.f pg F.PG_ERR_CNT_LAST = 0x02 ∧ OnlyRegsEv (refusedRegs pg) s t) ∧
  (∀ (s : State) (m pg owner : Nat), s.dead = false → okMaster m = true → pg < 16384 → owner < 16 → owner ≠ m →
    s.mayClaim m pg = true → (s.ownerOf pg = none ∨ s.ownerOf pg = some m) →
    Goes (.pageClaim m pg owner) s fun t =>
      t.f pg F.PG_STS_WREJ = 1 ∧ t.f pg F.PG_WREJ_OFS_CODE = 0x01 ∧ OnlyRegsEv (refusedRegs pg) s t) ∧
  (∀ (s : State) (m pg : Nat), s.dead = false → okMaster m = true → pg < 16384 → s.reaches m pg = true →
    (s.ownerOf pg = some m ∨ m = oTormal) →
    Goes (.pageRelease m pg) s fun t =>
      t.ownerOf pg = none ∧ OnlyRegs [pg * 4096 + R.PG_OWNER] s t)

/-- R95 to R98: PG_CTL starts and holds a block, HELD follows HOLD once no started work is left, and a block that
still works is not disabled (refused whole with 0x11). LNK pages have their own statement. Where the spec leaves a
choice it follows the model's: log entry 46. -/
def Obligations.PageControlStartsAndHoldsBlocks : Prop :=
  (∀ (s : State) (m pg : Nat), s.dead = false → okMaster m = true → pg < 16384 → s.reaches m pg = true →
    s.mayWrite m pg = true → s.rstBusy pg = false → s.f pg F.PG_CTL_EN = 0 →
    (∀ l, pageInfo pg ≠ some (.lnk, l)) → (∀ c, pageInfo pg ≠ some (.core, c)) →
    Goes (.pageEnable m pg true) s fun t =>
      t.f pg F.PG_CTL_EN = 1 ∧ t.f pg F.PG_CTL_HOLD = s.f pg F.PG_CTL_HOLD ∧
      OnlyRegsEv ([pg * 4096 + R.PG_CTL, pg * 4096 + R.PG_STS] ++ noted pg) s t) ∧
  (∀ (s : State) (m c : Nat), s.dead = false → okMaster m = true → pageInfo (pCORE c) = some (.core, c) →
    s.reaches m (pCORE c) = true → s.mayWrite m (pCORE c) = true → s.rstBusy (pCORE c) = false →
    s.f (pCORE c) F.PG_CTL_EN = 0 → s.f (pCORE c) F.CORE_PLD_STS_VALID = 1 →
    Goes (.pageEnable m (pCORE c) true) s fun t =>
      t.f (pCORE c) F.PG_CTL_EN = 1 ∧ (t.core c).running = !(s.core c).stopped ∧ (t.core c).stopped = (s.core c).stopped ∧
      (t.core c).pc = s.f (pCORE c) F.CORE_BOOT_PC ∧ (t.core c).prog = (s.core c).prog ∧
      (t.core c).work = (s.core c).work ∧ t.mem = s.mem ∧ ∀ j, j ≠ c → t.core j = s.core j) ∧
  (∀ (s : State) (m c : Nat), s.dead = false → okMaster m = true → pageInfo (pCORE c) = some (.core, c) →
    s.reaches m (pCORE c) = true → s.mayWrite m (pCORE c) = true → s.f (pCORE c) F.PG_CTL_EN = 0 →
    s.f (pCORE c) F.CORE_PLD_STS_VALID = 0 →
    Goes (.pageEnable m (pCORE c) true) s fun t =>
      t.f (pCORE c) F.PG_WREJ_OFS_CODE = 0x11 ∧ t.f (pCORE c) F.PG_CTL_EN = 0 ∧ t.cores = s.cores) ∧
  (∀ (s : State) (m pg : Nat), s.dead = false → okMaster m = true → pg < 16384 → s.reaches m pg = true →
    s.mayWrite m pg = true → s.rstBusy pg = false → s.f pg F.PG_CTL_EN = 1 → s.idle pg = true →
    (∀ l, pageInfo pg ≠ some (.lnk, l)) → (∀ c, pageInfo pg ≠ some (.core, c)) →
    Goes (.pageEnable m pg false) s fun t =>
      t.f pg F.PG_CTL_EN = 0 ∧ t.f pg F.PG_CTL_HOLD = s.f pg F.PG_CTL_HOLD ∧
      OnlyRegsEv ([pg * 4096 + R.PG_CTL, pg * 4096 + R.PG_STS] ++ noted pg) s t) ∧
  (∀ (s : State) (m pg : Nat), s.dead = false → okMaster m = true → pg < 16384 → s.reaches m pg = true →
    s.mayWrite m pg = true → s.f pg F.PG_CTL_EN = 1 → s.idle pg = false →
    Goes (.pageEnable m pg false) s fun t =>
      t.f pg F.PG_STS_WREJ = 1 ∧ t.f pg F.PG_WREJ_OFS_CODE = 0x11 ∧ t.f pg F.PG_CTL_EN = 1 ∧
      OnlyRegsEv (refusedRegs pg) s t) ∧
  (∀ (s : State) (m pg : Nat) (hold : Bool), s.dead = false → okMaster m = true → pg < 16384 → s.reaches m pg = true →
    (s.mayWrite m pg = true ∨ m = oTormal) → s.rstBusy pg = false → (∀ l, pageInfo pg ≠ some (.lnk, l)) →
    Goes (.pageHold m pg hold) s fun t =>
      t.f pg F.PG_CTL_HOLD = (if hold then 1 else 0) ∧ t.f pg F.PG_CTL_EN = s.f pg F.PG_CTL_EN ∧
      (hold = false → t.f pg F.PG_STS_HELD = 0) ∧
      OnlyRegsEv ([pg * 4096 + R.PG_CTL, pg * 4096 + R.PG_STS] ++ noted pg) s t) ∧
  (∀ (s : State) (pg : Nat), s.dead = false → pg < 16384 → s.f pg F.PG_CTL_HOLD = 1 → s.idle pg = true →
    Goes (.pageHeld pg) s fun t => t.f pg F.PG_STS_HELD = 1 ∧ OnlyRegs [pg * 4096 + R.PG_STS] s t)

/-- R98 to R101: a soft reset makes the page busy and returns PG_CTL to its reset value; its end clears the busy bit
and sets the RST_DONE event; past PG_TMO_NS it logs 0x03 and stays busy. Where the spec leaves a choice it follows
the model's: log entry 22. -/
def Obligations.SoftResetRunsToItsEnd : Prop :=
  (∀ (s : State) (m pg : Nat), s.dead = false → okMaster m = true → pg < 16384 → s.reaches m pg = true →
    (s.mayWrite m pg = true ∨ m = oTormal) → s.rstBusy pg = false →
    Goes (.softReset m pg) s fun t =>
      t.f pg F.PG_STS_RST_BUSY = 1 ∧ t.f pg F.PG_CTL_EN = 0 ∧ t.f pg F.PG_CTL_HOLD = 0 ∧ (t.rstAt.get pg none).isSome) ∧
  (∀ (s : State) (m pg : Nat), s.dead = false → okMaster m = true → pg < 16384 → s.reaches m pg = true →
    (s.mayWrite m pg = true ∨ m = oTormal) → s.rstBusy pg = true →
    Goes (.softReset m pg) s fun t =>
      t.f pg F.PG_WREJ_OFS_CODE = 0x11 ∧ OnlyRegsEv (refusedRegs pg) s t) ∧
  (∀ (s : State) (pg : Nat) (i : Issued), s.dead = false → pg < 16384 → s.rstAt.get pg none = some i →
    s.nowOn (dieOfPage pg) ≤ i.since + i.tmo + 512 →
    Goes (.softResetDone pg) s fun t =>
      t.f pg F.PG_STS_RST_BUSY = 0 ∧ bit (t.w pg R.PG_EVT_PEND) 2 = true ∧ t.rstAt.get pg none = none ∧
      OnlyRegsEv ([pg * 4096 + R.PG_STS] ++ noted pg) s { t with rstAt := s.rstAt }) ∧
  (∀ (s : State) (pg : Nat) (i : Issued), s.dead = false → pg < 16384 → s.rstAt.get pg none = some i →
    i.since + i.tmo + 512 < s.nowOn (dieOfPage pg) →
    Goes (.softResetDone pg) s fun t =>
      t.f pg F.PG_ERR_CNT_LAST = 0x03 ∧ t.f pg F.PG_STS_RST_BUSY = s.f pg F.PG_STS_RST_BUSY) ∧
  (∀ (s : State) (pg : Nat) (i : Issued), s.dead = false → pg < 16384 → s.rstAt.get pg none = some i →
    s.nowOn (dieOfPage pg) < i.since + i.tmo → Goes (.softResetTimeout pg) s fun t => t = s) ∧
  (∀ (s : State) (pg : Nat) (i : Issued), s.dead = false → pg < 16384 → s.rstAt.get pg none = some i →
    i.since + i.tmo ≤ s.nowOn (dieOfPage pg) →
    Goes (.softResetTimeout pg) s fun t =>
      t.f pg F.PG_ERR_CNT_LAST = 0x03 ∧ t.f pg F.PG_STS_RST_BUSY = s.f pg F.PG_STS_RST_BUSY ∧
      OnlyRegsEv (noted pg) s { t with rstAt := s.rstAt })

/-- R107, R110, R111, R722 to R724: the header's error, event and counter registers take what is written. R122,
R664, R711: the device state is READY, DEGRADED or UPDATE as written, until the device has failed. Where the spec
leaves a choice it follows the model's: log entry 17. -/
def Obligations.PageHeaderWritesTakeEffect : Prop :=
  ((∀ (s : State) (m pg : Nat), s.dead = false → okMaster m = true → pg < 16384 → s.reaches m pg = true →
    s.mayWrite m pg = true →
    Goes (.errFirstClear m pg) s fun t =>
      t.w pg R.PG_ERR_FIRST = 0 ∧ t.w pg R.PG_ERR_CNT = 0 ∧ t.f pg F.PG_STS_WREJ = 0 ∧
      t.f pg F.PG_STS_RST_BUSY = s.f pg F.PG_STS_RST_BUSY ∧ t.f pg F.PG_STS_HELD = s.f pg F.PG_STS_HELD ∧
      OnlyRegs [pg * 4096 + R.PG_ERR_FIRST, pg * 4096 + R.PG_ERR_CNT, pg * 4096 + R.PG_STS] s t) ∧
  (∀ (s : State) (m pg v : Nat), s.dead = false → okMaster m = true → pg < 16384 → v < 2 ^ 32 → s.reaches m pg = true →
    s.mayWrite m pg = true → bits v 15 3 = 0 →
    Goes (.evtEnWrite m pg v) s fun t =>
      t.w pg R.PG_EVT_EN = v ∧
      (∀ b, b < 32 → bit v b = true → bit (s.w pg R.PG_EVT_EN) b = false → bit (s.w pg R.PG_EVT_PEND) b = true →
        ∃ r ∈ t.ev.waiting, r.kind = .block ∧ r.page = pg ∧ r.bit = b) ∧
      OnlyRegsEv [pg * 4096 + R.PG_EVT_EN] s t) ∧
  (∀ (s : State) (m pg v : Nat), s.dead = false → okMaster m = true → pg < 16384 → v < 2 ^ 32 → s.reaches m pg = true →
    s.mayWrite m pg = true → bits v 15 3 = 0 →
    Goes (.evtSet m pg v) s fun t =>
      (∀ b, b < 32 → bit (t.w pg R.PG_EVT_PEND) b = (bit (s.w pg R.PG_EVT_PEND) b || bit v b)) ∧
      (∀ b, b < 32 → bit v b = true → bit (s.w pg R.PG_EVT_EN) b = true →
        ∃ r ∈ t.ev.waiting, r.kind = .soft ∧ r.page = pg ∧ r.bit = b) ∧
      (∀ b, 1 ≤ b → b < 32 → bit v b = true → bit (s.w pg R.PG_EVT_EN) b = true → bit (s.w pg R.PG_EVT_PEND) b = false →
        ∃ r ∈ t.ev.waiting, r.kind = .block ∧ r.page = pg ∧ r.bit = b) ∧
      OnlyRegsEv [pg * 4096 + R.PG_EVT_PEND] s t) ∧
  (∀ (s : State) (m pg v : Nat), s.dead = false → okMaster m = true → pg < 16384 → v < 2 ^ 14 → s.reaches m pg = true →
    s.mayWrite m pg = true → perfSelOk pg v = true →
    Goes (.perfSelWrite m pg v) s fun t =>
      t.f pg F.PG_PERF_SEL_SEL = bits v 11 0 ∧ t.f pg F.PG_PERF_SEL_RUN = bits v 12 12 ∧
      (bits v 11 0 ≠ s.f pg F.PG_PERF_SEL_SEL ∨ bit v 13 = true →
        t.w pg R.PG_PERF_VAL_LO = 0 ∧ t.w pg R.PG_PERF_VAL_HI = 0) ∧
      OnlyRegs [pg * 4096 + R.PG_PERF_SEL, pg * 4096 + R.PG_PERF_VAL_LO, pg * 4096 + R.PG_PERF_VAL_HI] s t)) ∧
  ((∀ (s : State) (v : Nat), s.dead = false → s.mayWrite oTormal pGLB = true → s.rstBusy pGLB = false → s.failed = false →
    (v = 1 ∨ v = 2 ∨ v = 4) →
    Goes (.glbStateWrite oTormal v) s fun t =>
      t.glbState = v ∧
      t.f pMGT F.MGT_STS_STAGE = (if v ≠ 4 ∧ 8 ≤ s.f pMGT F.MGT_STS_STAGE ∧ s.f pMGT F.MGT_STS_STAGE ≤ 10 then 11
        else s.f pMGT F.MGT_STS_STAGE) ∧
      OnlyRegs [pGLB * 4096 + R.GLB_STATE, pMGT * 4096 + R.MGT_STS] s t) ∧
  (∀ (s : State) (m v : Nat), s.dead = false → okMaster m = true → s.reaches m pGLB = true → s.mayWrite m pGLB = true →
    s.failed = true → (v = 1 ∨ v = 2 ∨ v = 4) →
    Goes (.glbStateWrite m v) s fun t =>
      t.glbState = 3 ∧ t.f pGLB F.PG_WREJ_OFS_CODE = 0x11 ∧ OnlyRegsEv (refusedRegs pGLB) s t))

/-- R63 step 1, R88, R92, R93: a register write by a master that may not write the page changes no register at 0x100
or above of any page, nor any memory, core or engine; it is recorded and logged with 0x02. Where the spec leaves a
choice it follows the model's: log entries 14, 15. -/
def Obligations.WritesWithoutOwnershipAreRefusedWhole : Prop :=
  ∀ (s : State) (m pg o v : Nat), s.dead = false → okMaster m = true → pg < 16384 → 0x100 ≤ o → o < 4096 → o % 4 = 0 →
    v < 2 ^ 32 → s.reaches m pg = true → s.mayWrite m pg = false →
    Goes (.registerWrite m (pg * 4096 + o) 4 v) s fun t =>
      t.f pg F.PG_STS_WREJ = 1 ∧ t.f pg F.PG_WREJ_OFS_OFS = o ∧ t.f pg F.PG_WREJ_OFS_OWNER = m ∧
      t.f pg F.PG_WREJ_OFS_CODE = 0x02 ∧ t.f pg F.PG_ERR_CNT_LAST = 0x02 ∧ t.f pg F.PG_EVT_PEND_ERR = 1 ∧
      { t with regs := s.regs, ev := s.ev } = s ∧ ∀ k, 0x100 ≤ k % 4096 → t.reg k = s.reg k

/-- R48: PG_TMO_NS of every page accepts 1,000 to 4,000,000,000 and refuses any other value with 0x01. -/
def Obligations.TimeoutRegisterAcceptsItsRange : Prop :=
  ∀ (s : State) (m pg v : Nat), s.dead = false → okMaster m = true → pg < 16384 → v < 2 ^ 32 → s.reaches m pg = true →
    s.mayWrite m pg = true →
    Goes (.registerWrite m (pg * 4096 + R.PG_TMO_NS) 4 v) s fun t =>
      { t with regs := s.regs, ev := s.ev } = s ∧
      if 1000 ≤ v ∧ v ≤ 4000000000 then
        t.w pg R.PG_TMO_NS = v ∧
          ∀ k, k ≠ pg * 4096 + R.PG_TMO_NS → k % 4096 ≠ R.PG_EVT_PEND → t.reg k = s.reg k
      else
        t.w pg R.PG_TMO_NS = s.w pg R.PG_TMO_NS ∧ t.f pg F.PG_WREJ_OFS_CODE = 0x01 ∧ t.f pg F.PG_STS_WREJ = 1 ∧
          ∀ k, 0x100 ≤ k % 4096 → t.reg k = s.reg k

/-- R76, R80, R90, R91, R100, R102: a read answers the register's word to a master that may read it, zero with 0x02
logged to one that may not, and an access no page backs is recorded and logged in GLB. Where the spec leaves a
choice it follows the model's: log entries 15, 79. -/
def Obligations.ReadsFollowTheReadRights : Prop :=
  (∀ (s : State) (m pg o : Nat), s.dead = false → okMaster m = true → pg < 16384 → o < 4096 → o % 4 = 0 →
    s.reaches m pg = true → s.readOk m pg o = true →
    Goes (.readDenied m (pg * 4096 + o) 4) s fun t =>
      t = s.emit (.readData m (leBytes 4 (if s.rstBusy pg = true ∧ 0x100 ≤ o then 0 else s.readWord pg o)) false 0)) ∧
  (∀ (s : State) (m pg o : Nat), s.dead = false → okMaster m = true → pg < 16384 → o < 4096 → o % 4 = 0 →
    s.reaches m pg = true → s.readOk m pg o = false →
    Goes (.readDenied m (pg * 4096 + o) 4) s fun t =>
      t.out = .readData m [0, 0, 0, 0] false 0 :: s.out ∧ t.f pg F.PG_ERR_CNT_LAST = 0x02 ∧
      t.f pg F.PG_STS_WREJ = s.f pg F.PG_STS_WREJ ∧ OnlyRegsEv (noted pg) s { t with out := s.out }) ∧
  (∀ (s : State) (m ofs : Nat), s.dead = false → okMaster m = true → ofs < 2 ^ 26 → s.reaches m (ofs / 4096) = false →
    Goes (.unbackedAccess m ofs) s fun t =>
      t.f pGLB F.GLB_UNMAP_OWNER = m ∧ t.f pGLB F.GLB_UNMAP_OFS = ofs ∧ t.f pGLB F.PG_ERR_CNT_LAST = 0x05 ∧
      OnlyRegsEv ([pGLB * 4096 + R.GLB_UNMAP] ++ noted pGLB) s t)

/-- R58, R108, R109, R114 to R116: the arbiter grants the first waiting record of a page whose turn it is: it takes
the next sequence number and goes to the recipient's ring (host memory, the management core's SRAM or a tier, whose
controller it waits for), is lost when the ring is full, and is discarded while the ring is off. Where the spec
leaves a choice it follows the model's: log entries 18, 19, 78. -/
def Obligations.GrantedRecordsReachTheirRing : Prop :=
  ∀ (s : State) (n : Nat) (r : EvRec) (o pg : Nat), s.dead = false → s.ev.waiting[n]? = some r → r.sig = none →
    (∀ x ∈ s.ev.waiting.take n, x.page ≠ r.page) → mayGrant s.ev.turns s.evPages r.page = true →
    s.recipients r = [o] → ringPage o = some pg → s.ev.owed.get o 0 = 0 →
    let ofs := s.evqBase pg + 32 * (s.w pg R.EVQ_PROD % 2 ^ s.f pg F.EVQ_CTL_LOG2N)
    let sp := s.f pg F.EVQ_BASE_LO_SPACE
    ((s.evqOn pg = false ∨ s.evqRoom pg = false ∨ sp = 0 ∨ sp = 3) →
      Goes (.eventRecordWrite n) s fun t =>
        t.ev.waiting = dropAt s.ev.waiting n ∧ t.ev.seq = (s.ev.seq + 1) % 2 ^ 64 ∧
        (s.evqOn pg = true → s.evqRoom pg = true →
          t.w pg R.EVQ_PROD = (s.w pg R.EVQ_PROD + 1) % 2 ^ 32 ∧ t.w pg R.EVQ_LOST = s.w pg R.EVQ_LOST ∧
          (sp = 0 → ∃ os, t.out = os ++ .hostWrite ofs (r.bytes s.ev.seq s.now) :: s.out)) ∧
        (s.evqOn pg = true → s.evqRoom pg = false →
          t.w pg R.EVQ_PROD = s.w pg R.EVQ_PROD ∧ t.w pg R.EVQ_LOST = min (2 ^ 32 - 1) (s.w pg R.EVQ_LOST + 1) ∧
          t.f pg F.EVQ_CTL_OVF = 1 ∧ t.ev.owed.get o 0 = 1 ∧ t.out = s.out) ∧
        (s.evqOn pg = false → t.regs = s.regs ∧ t.out = s.out ∧ t.ev.owed = s.ev.owed) ∧
        (s.evqOn pg = false ∨ s.evqRoom pg = false ∨ sp = 0 → SameMem s t) ∧
        t.mem.bytes = s.mem.bytes ∧ t.mem.lines = s.mem.lines ∧ t.cores = s.cores ∧ t.sch = s.sch) ∧
    (s.evqOn pg = true → s.evqRoom pg = true → sp = 1 ∨ sp = 2 → s.accessCode o (spaceTier sp) ofs 32 = 0 →
      s.slotDraining (s.slotFor o) = false → (∀ i, i < 32 → (s.line (memKey (spaceTier sp) (ofs + i))).poison = false) →
      Goes (.eventRecordWrite n) s fun t =>
        t.ev.waiting = dropAt s.ev.waiting n ∧ t.ev.seq = (s.ev.seq + 1) % 2 ^ 64 ∧
        t.w pg R.EVQ_PROD = (s.w pg R.EVQ_PROD + 1) % 2 ^ 32 ∧ t.w pg R.EVQ_LOST = s.w pg R.EVQ_LOST ∧
        (∀ i b, (r.bytes s.ev.seq s.now)[i]? = some b →
          t.readByte (s.slotFor o) (memKey (spaceTier sp) (ofs + i)) = (b, false)) ∧
        t.cores = s.cores ∧ t.sch = s.sch) ∧
    (s.evqOn pg = true → s.evqRoom pg = true → sp = 1 ∨ sp = 2 → s.accessCode o (spaceTier sp) ofs 32 = 0x12 →
      Goes (.eventRecordWrite n) s fun t => t = s)

/-- R116, R117, R120, R121, R631: a ring that has room again reports what it lost; EVQ_CTL, EVQ_CONS, a vector's
mask and a function's MSI-X Enable and Function Mask act as written. Where the spec leaves a choice it follows the
model's: log entries 18, 20, 78. -/
def Obligations.EventRingsAreRunByTheirRegisters : Prop :=
  (∀ (s : State) (o pg : Nat), s.dead = false → ringPage o = some pg → s.ev.owed.get o 0 ≠ 0 → s.evqOn pg = true →
    s.evqRoom pg = true → s.f pg F.EVQ_BASE_LO_SPACE = 0 →
    Goes (.ringLost o) s fun t =>
      t.ev.owed.get o 0 = 0 ∧ t.ev.seq = (s.ev.seq + 1) % 2 ^ 64 ∧ t.w pg R.EVQ_PROD = (s.w pg R.EVQ_PROD + 1) % 2 ^ 32 ∧
      ∃ os, t.out = os ++ .hostWrite (s.evqBase pg + 32 * (s.w pg R.EVQ_PROD % 2 ^ s.f pg F.EVQ_CTL_LOG2N))
        (EvRec.bytes { kind := .ringLost, page := pg, subj := o, aux := min 0xFFFF (s.ev.owed.get o 0) } s.ev.seq s.now)
        :: s.out) ∧
  (∀ (s : State) (m pg v : Nat), s.dead = false → okMaster m = true → hasEvq pg = true → v < 2 ^ 32 →
    s.reaches m pg = true → s.mayWrite m pg = true → s.rstBusy pg = false → s.evqOn pg = false → bit v 0 = true →
    6 ≤ bits v 12 8 → bits v 12 8 ≤ 16 → (regDefAt pg R.EVQ_CTL).any (fun d => defRes0Ok d v) = true →
    s.ringHeld pg (bits v 12 8) = true →
    Goes (.evqEnable m pg v) s fun t =>
      t.evqOn pg = true ∧ t.f pg F.EVQ_CTL_LOG2N = bits v 12 8 ∧ t.w pg R.EVQ_PROD = 0 ∧ t.w pg R.EVQ_CONS = 0 ∧
      t.w pg R.EVQ_LOST = 0 ∧ t.ev.owed.get (ringOwner pg) 0 = 0 ∧
      OnlyRegsEv [pg * 4096 + R.EVQ_CTL, pg * 4096 + R.EVQ_PROD, pg * 4096 + R.EVQ_CONS, pg * 4096 + R.EVQ_LOST] s t) ∧
  (∀ (s : State) (m pg v : Nat), s.dead = false → okMaster m = true → hasEvq pg = true → v < 2 ^ 32 →
    s.reaches m pg = true → s.mayWrite m pg = true → s.rstBusy pg = false → s.evqOn pg = true →
    (v + 2 ^ 32 - s.w pg R.EVQ_CONS) % 2 ^ 32 ≤ s.evqUsed pg →
    Goes (.evqConsWrite m pg v) s fun t =>
      t.w pg R.EVQ_CONS = v ∧ OnlyRegs [pg * 4096 + R.EVQ_CONS] s t) ∧
  (∀ (s : State) (m pg v : Nat), s.dead = false → okMaster m = true → hasEvq pg = true → v < 2 ^ 32 →
    s.reaches m pg = true → s.mayWrite m pg = true → s.evqUsed pg < (v + 2 ^ 32 - s.w pg R.EVQ_CONS) % 2 ^ 32 →
    Goes (.evqConsWrite m pg v) s fun t =>
      t.f pg F.PG_WREJ_OFS_CODE = 0x01 ∧ OnlyRegsEv (refusedRegs pg) s t) ∧
  (∀ (s : State) (fn vec : Nat) (mask : Bool), s.dead = false → fn < 9 → vec < 64 →
    Goes (.msixUnmask fn (.vec vec mask)) s fun t =>
      (t.msix fn).unmasked.get vec false = !mask ∧ (t.msix fn).en = (s.msix fn).en ∧ (t.msix fn).mask = (s.msix fn).mask ∧
      (mask = true → (t.msix fn).pend.get vec false = (s.msix fn).pend.get vec false ∧ t.out = s.out) ∧
      (mask = false → (s.msix fn).pend.get vec false = true → s.f pHIF F.HIF_LINK_STS_UP = 1 →
        (fn = 0 ∨ s.hif.vfEn = true) → (s.msix fn).en = true → (s.msix fn).mask = false →
        (t.msix fn).pend.get vec false = false ∧ t.out = .msix fn vec :: s.out) ∧
      t.regs = s.regs ∧ t.mem = s.mem ∧ t.ev = s.ev) ∧
  (∀ (s : State) (fn : Nat) (en mask : Bool), s.dead = false → fn < 9 →
    Goes (.msixUnmask fn (.ctl en mask)) s fun t =>
      (t.msix fn).en = en ∧ (t.msix fn).mask = mask ∧ (t.msix fn).unmasked = (s.msix fn).unmasked ∧
      (en = false ∨ mask = true → t.out = s.out ∧ (t.msix fn).pend = (s.msix fn).pend) ∧
      t.regs = s.regs ∧ t.mem = s.mem ∧ t.ev = s.ev)

/-- R128, R134, R137, Table 04-3: ASSIGN and UNASSIGN of units, one command at a time. Where the spec leaves a
choice it follows the model's: log entry 25. -/
def Obligations.UnitsAreAssignedAndTakenBack : Prop :=
  (∀ (s : State) (m part res first count : Nat), s.dead = false → okMaster m = true → part < 16 → first < 2 ^ 16 →
    count < 2 ^ 16 → s.reaches m pPRT = true → s.mayWrite m pPRT = true → s.rstBusy pPRT = false →
    prtArgsOk 1 part res first count = true → s.f pPRT F.PRT_STS_BUSY = 0 →
    s.assignPre part res (rangeUnits first count) = true →
    Goes (.assign m part res first count) s fun t =>
      (∀ u, first ≤ u → u < first + count → t.holderOf res u = some part) ∧
      (∀ r u, ¬(∃ w, first ≤ w ∧ w < first + count ∧ r * 4096 + u = res * 4096 + w) → t.holderOf r u = s.holderOf r u) ∧
      t.f pPRT F.PRT_STS_BUSY = 0 ∧ bit (t.w pPRT R.PG_EVT_PEND) 24 = true ∧
      t.prt.keys = s.prt.keys ∧ t.prt.parts = s.prt.parts ∧
      { t with regs := s.regs, ev := s.ev, prt := s.prt } = s ∧
      ∀ k, k ∉ [pPRT * 4096 + R.PRT_CMD_LO, pPRT * 4096 + R.PRT_STS] ++ noted pPRT → t.reg k = s.reg k) ∧
  (∀ (s : State) (m part res first count : Nat), s.dead = false → okMaster m = true → part < 16 → first < 2 ^ 16 →
    count < 2 ^ 16 → s.reaches m pPRT = true → s.mayWrite m pPRT = true → s.rstBusy pPRT = false →
    prtArgsOk 1 part res first count = true →
    (s.f pPRT F.PRT_STS_BUSY ≠ 0 ∨ s.assignPre part res (rangeUnits first count) = false) →
    Goes (.assign m part res first count) s fun t =>
      t.f pPRT F.PG_WREJ_OFS_CODE = 0x11 ∧ t.prt = s.prt) ∧
  (∀ (s : State) (m part res first count : Nat), s.dead = false → okMaster m = true → part < 16 → first < 2 ^ 16 →
    count < 2 ^ 16 → s.reaches m pPRT = true → s.mayWrite m pPRT = true → s.rstBusy pPRT = false →
    prtArgsOk 2 part res first count = true → s.f pPRT F.PRT_STS_BUSY = 0 →
    s.unassignPre part res (rangeUnits first count) = true →
    Goes (.unassign m part res first count) s fun t =>
      (res = resClu ∨ res = resLnk → ∀ u, first ≤ u → u < first + count → t.holderOf res u = none) ∧
      (res ≠ resClu → res ≠ resLnk → t.f pPRT F.PRT_STS_BUSY = 1 ∧ t.prt.holder = s.prt.holder ∧
        t.prt.unassign = some { owner := part, res := res, first := first, count := count, iss := s.issue pPRT })) ∧
  (∀ (s : State) (c : UnassignCmd), s.dead = false → s.prt.unassign = some c →
    s.now ≤ c.iss.since + c.iss.tmo + 512 →
    Goes (.unassignApplied true) s fun t =>
      t.prt.unassign = none ∧ t.f pPRT F.PRT_STS_BUSY = 0 ∧ bit (t.w pPRT R.PG_EVT_PEND) 24 = true ∧
      (∀ u, c.first ≤ u → u < c.first + c.count → t.holderOf c.res u = none) ∧
      (∀ r u, ¬(∃ w, c.first ≤ w ∧ w < c.first + c.count ∧ r * 4096 + u = c.res * 4096 + w) →
        t.holderOf r u = s.holderOf r u) ∧ t.mem = s.mem) ∧
  (∀ (s : State) (c : UnassignCmd), s.dead = false → s.prt.unassign = some c →
    c.iss.since + c.iss.tmo ≤ s.now →
    Goes (.unassignApplied false) s fun t =>
      t.prt.unassign = none ∧ t.f pPRT F.PRT_STS_BUSY = 0 ∧ t.prt.holder = s.prt.holder ∧
      t.f pPRT F.PG_ERR_CNT_LAST = 0x03)

/-- R147, R149, R151, R154, Table 04-3: an owner's key is bound at ENABLE, retired and freed, and Tormal's is
rotated. R539, R540: an image key is loaded with its identifier, its words then reading 0, and cleared; both are
refused while the checkpoint engines are busy. Where the spec leaves a choice it follows the model's: log entries 8,
52. -/
def Obligations.KeysAreBoundRetiredAndFreed : Prop :=
  ((∀ (s : State) (m part n : Nat), s.dead = false → okMaster m = true → part < 8 → s.reaches m pPRT = true →
    s.mayWrite m pPRT = true → s.rstBusy pPRT = false → s.f pPRT F.PRT_STS_BUSY = 0 → s.enablePre part = true →
    s.freeSlot = some n →
    Goes (.enable m part) s fun t =>
      t.part part = { st := .enabled } ∧ (∀ p, p ≠ part → t.part p = s.part p) ∧
      t.keySlot n =
        { st := .active, owner := part, gen := (s.prt.gens.get part 0 + 1) % 2 ^ 16, key := s.prt.nextKey } ∧
      (∀ j, j ≠ n → t.keySlot j = s.keySlot j) ∧ t.prt.nextKey = s.prt.nextKey + 1 ∧ t.prt.holder = s.prt.holder ∧
      { t with regs := s.regs, ev := s.ev, prt := s.prt } = s) ∧
  (∀ (s : State) (m k n : Nat), s.dead = false → okMaster m = true → s.reaches m pSEC = true → s.mayWrite m pSEC = true →
    s.rstBusy pSEC = false → s.rngFault = false → s.freeSlot = some n → s.activeSlot oTormal = some k →
    Goes (.rotateMgt m) s fun t =>
      t.keySlot k = { s.keySlot k with st := .draining, key := s.prt.nextKey } ∧
      t.keySlot n =
        { st := .active, owner := oTormal, gen := (s.prt.gens.get oTormal 0 + 1) % 2 ^ 16, key := s.prt.nextKey + 1 } ∧
      (∀ j, j ≠ n → j ≠ k → t.keySlot j = s.keySlot j) ∧ t.prt.parts = s.prt.parts ∧ t.mem = s.mem) ∧
  (∀ (s : State) (slot : Nat), s.dead = false → slot < 16 → (s.keySlot slot).st = .draining →
    ¬((s.keySlot slot).owner < 8 ∧ (s.part (s.keySlot slot).owner).st = .resetting) →
    s.cores.any (fun e => e.2.carries slot) = false →
    Goes (.keySlotFree slot) s fun t =>
      t.keySlot slot = {} ∧ (∀ j, j ≠ slot → t.keySlot j = s.keySlot j) ∧ OnlyRegsEv (noted pSEC) s { t with prt := s.prt }) ∧
  (∀ s : State, s.dead = false → s.rngFault = false →
    Goes .rngFault s fun t =>
      t.rngFault = true ∧ t.f pSEC F.PG_ERR_CNT_LAST = 0x07 ∧
      OnlyRegsEv ([pSEC * 4096 + R.SEC_STS] ++ noted pSEC) s t)) ∧
  ((∀ (s : State) (m p : Nat), s.dead = false → okMaster m = true → p < 8 → s.reaches m pSEC = true →
    s.mayWrite m pSEC = true → s.rstBusy pSEC = false → s.f (pCKP 0) F.CKP_STS_BUSY = 0 →
    (s.w64 pSEC R.SEC_IKEY_ID_LO R.SEC_IKEY_ID_HI ≠ 0 →
      Goes (.ikeyLoad m p) s fun t =>
        SMap.get t.prt.ikeys p none = some (ImageKey.mk (s.w64 pSEC R.SEC_IKEY_ID_LO R.SEC_IKEY_ID_HI)
          ((List.range 8).foldl (fun a w => a + s.w pSEC (R.SEC_IKEY_W + 4 * w) * 2 ^ (32 * w)) 0)) ∧
        (∀ q, q ≠ p → SMap.get t.prt.ikeys q none = SMap.get s.prt.ikeys q none) ∧
        (∀ w, w < 8 → t.w pSEC (R.SEC_IKEY_W + 4 * w) = 0) ∧ { t with regs := s.regs, ev := s.ev, prt := s.prt } = s) ∧
    Goes (.ikeyClear m p) s fun t =>
      SMap.get t.prt.ikeys p none = none ∧
      (∀ q, q ≠ p → SMap.get t.prt.ikeys q none = SMap.get s.prt.ikeys q none) ∧
      { t with prt := s.prt } = s) ∧
  (∀ (s : State) (m p : Nat), s.dead = false → okMaster m = true → p < 8 → s.reaches m pSEC = true →
    s.mayWrite m pSEC = true →
    (s.f (pCKP 0) F.CKP_STS_BUSY ≠ 0 ∨ s.w64 pSEC R.SEC_IKEY_ID_LO R.SEC_IKEY_ID_HI = 0 →
      Goes (.ikeyLoad m p) s fun t => t.f pSEC F.PG_WREJ_OFS_CODE = 0x11 ∧ t.prt.ikeys = s.prt.ikeys) ∧
    (s.f (pCKP 0) F.CKP_STS_BUSY ≠ 0 →
      Goes (.ikeyClear m p) s fun t => t.f pSEC F.PG_WREJ_OFS_CODE = 0x11 ∧ t.prt.ikeys = s.prt.ikeys)))

/-- R156, R158 to R160, Table 04-4: a partition's reset and its disabling start, its engine classes clear or are
forced, and it ends FREE or ENABLED. Where the spec leaves a choice it follows the model's: log entries 23, 42. -/
def Obligations.PartitionResetRunsItsSequence : Prop :=
  (∀ (s : State) (m part n : Nat), s.dead = false → okMaster m = true → part < 8 → s.reaches m pPRT = true →
    s.mayWrite m pPRT = true → s.rstBusy pPRT = false → s.f pPRT F.PRT_STS_BUSY = 0 → s.enabled part = true →
    s.rngFault = false → s.activeSlot part = some n →
    Goes (.reset m part) s fun t =>
      (t.part part).st = .resetting ∧ (t.part part).rst.any (fun r => r.toFree == false && r.eng == 0xFF) = true ∧
      t.keySlot n = { s.keySlot n with st := .draining, key := s.prt.nextKey } ∧
      ∀ p, p ≠ part → t.part p = s.part p) ∧
  (∀ (s : State) (m part : Nat), s.dead = false → okMaster m = true → part < 8 → s.reaches m pPRT = true →
    s.mayWrite m pPRT = true → s.rstBusy pPRT = false → s.f pPRT F.PRT_STS_BUSY = 0 → s.enabled part = true →
    s.rngFault = false →
    Goes (.disable m part) s fun t =>
      (t.part part).st = .resetting ∧ (t.part part).rst.any (fun r => r.toFree == true && r.eng == 0xFF) = true ∧
      ∀ i, i < 16 → s.f pHIF (F.HIF_WIN_CTL_OWNER.at 16 i) = part → t.f pHIF (F.HIF_WIN_CTL_EN.at 16 i) = 0) ∧
  (∀ (s : State) (part cls : Nat) (r : ResetSeq), s.dead = false → part < 8 → cls < 8 → (s.part part).rst = some r →
    bit r.eng cls = true →
    Goes (.resetEngineClear part cls) s fun t =>
      t.part part = { s.part part with rst := some { r with eng := r.eng - 2 ^ cls } }) ∧
  (∀ (s : State) (part : Nat) (r : ResetSeq), s.dead = false → part < 8 → (s.part part).rst = some r → r.eng ≠ 0 →
    r.since + r.tmo * 1000 ≤ s.now →
    Goes (.prtRstTmoExpiry part) s fun t =>
      (t.part part).rst = some { r with eng := 0 }) ∧
  (∀ (s : State) (part : Nat) (r : ResetSeq), s.dead = false → part < 8 → (s.part part).rst = some r → r.eng ≠ 0 →
    s.now < r.since + r.tmo * 1000 →
    Goes (.prtRstTmoExpiry part) s fun t => t = s) ∧
  (∀ (s : State) (part : Nat) (r : ResetSeq), s.dead = false → part < 8 → (s.part part).rst = some r → r.eng = 0 →
    s.csubOf part = false →
    Goes (.resetFinish part) s fun t =>
      (r.toFree = true → t.part part = { st := .free }) ∧
      (r.toFree = false → t.part part = { st := .free } ∨ t.part part = { st := .enabled }) ∧
      (r.toFree = false → s.unitsOf resClu part = [] → s.unitsOf resLnk part = [] → s.rngFault = false →
        t.part part = { st := .enabled }) ∧
      (s.unitsOf resClu part = [] → s.unitsOf resLnk part = [] → s.rngFault = true →
        t.part part = { st := .free } ∧ t.f pPRT F.PG_ERR_CNT_LAST = 0x07) ∧
      bit (t.w pPRT R.PG_EVT_PEND) (16 + part) = true) ∧
  (∀ (s : State) (part : Nat) (r : ResetSeq), s.dead = false → part < 8 → (s.part part).rst = some r →
    (r.eng ≠ 0 ∨ s.csubOf part = true) →
    Goes (.resetFinish part) s fun t => t = s)

/-- R138 to R140, R636: a function-level reset of a virtual function resets its queue pairs and its messages and
starts its partition's reset; VF Enable going to 0 disables every partition. Where the spec leaves a choice it
follows the model's: log entry 24. -/
def Obligations.VirtualFunctionsResetTheirPartitions : Prop :=
  (∀ (s : State) (p : Nat), s.dead = false → p < 8 → s.enabled p = false →
    Goes (.vfFlr p) s fun t =>
      (∀ q, q < 4 → t.qp p q = {}) ∧ t.msix (p + 1) = {} ∧ (∀ j q, q < 4 → j ≠ p → t.qp j q = s.qp j q) ∧
      (∀ fn, fn ≠ p + 1 → t.msix fn = s.msix fn) ∧ { t with hif := s.hif } = s) ∧
  (∀ (s : State) (p : Nat), s.dead = false → p < 8 → s.enabled p = true →
    Goes (.vfFlr p) s fun t =>
      (t.part p).st = .resetting ∧ (t.part p).rst.any (fun r => r.toFree == false && r.eng == 0xFF) = true ∧
      t.msix (p + 1) = {}) ∧
  (∀ s : State, s.dead = false →
    Goes (.vfEnableClear true) s fun t => t = { s with hif := { s.hif with vfEn := true } }) ∧
  (∀ s : State, s.dead = false → s.hif.vfEn = true →
    Goes (.vfEnableClear false) s fun t =>
      t.hif.vfEn = false ∧ (∀ fn, fn ≠ 0 → t.msix fn = {}) ∧ t.msix 0 = s.msix 0 ∧
      ∀ p, p < 8 → s.enabled p = true →
        (t.part p).st = .resetting ∧ (t.part p).rst.any (fun r => r.toFree == true && r.eng == 0xFF) = true)

/-- R135, R141, R145, R152, R215: an accepted write stores its bytes under the key its owner's access carries; every
other byte reads under that key as it did, and every byte of an untouched line reads under every key as it did.
Where the spec leaves a choice it follows the model's: log entries 7, 8, 88. -/
def Obligations.WritesStoreTheirBytesAndNoOthers : Prop :=
  (∀ (s : State) (own iss tier addr : Nat) (data : List Byte) (rmt : Bool), s.dead = false → okOwner own = true →
    iss < 16384 → tier < 4 → addr < 2 ^ 48 → data ≠ [] → s.accessCode own tier addr data.length = 0 →
    s.shareOk tier addr data.length (reqClass true rmt) = true → s.slotDraining (s.slotFor own) = false →
    (∀ i, i < data.length → (s.line (memKey tier (addr + i))).poison = false) →
    Goes (.memWrite own iss tier addr data false rmt) s fun t =>
      (∀ i b, data[i]? = some b → t.readByte (s.slotFor own) (memKey tier (addr + i)) = (b, false)) ∧
      (∀ k, ¬(memKey tier addr ≤ k ∧ k < memKey tier addr + data.length) →
        t.readByte (s.slotFor own) k = s.readByte (s.slotFor own) k) ∧
      (∀ k slot, (∀ i, i < data.length → k / 64 ≠ memKey tier (addr + i) / 64) →
        t.readByte slot k = s.readByte slot k) ∧
      { t with regs := s.regs, mem := s.mem, ctls := s.ctls } = s ∧
      (∀ k, k ∉ [tierCtl tier addr * 4096 + R.PG_PERF_VAL_LO, tierCtl tier addr * 4096 + R.PG_PERF_VAL_HI] →
        t.reg k = s.reg k)) ∧
  (∀ (s : State) (own iss tier addr : Nat) (data : List Byte) (pois rmt : Bool), s.dead = false → okOwner own = true →
    iss < 16384 → tier < 4 → addr < 2 ^ 48 → data ≠ [] → s.accessCode own tier addr data.length = 0x02 →
    Goes (.memWrite own iss tier addr data pois rmt) s fun t =>
      t.f (tierCtl tier addr) F.PG_ERR_CNT_LAST = 0x02 ∧ OnlyRegsEv (noted (tierCtl tier addr)) s t)

/-- R90, R135, R150, R213, R216: a granted read delivers the bytes as its owner's key decrypts them, with their
poison marks, and changes no byte of memory; an uncorrectable error poisons its line; a read of another owner's unit
delivers none and is logged with 0x02; one whose controller does not take it has no effect yet. Where the spec
leaves a choice it follows the model's: log entries 3, 7, 8, 75, 88. -/
def Obligations.ReadsDeliverTheOwnersBytes : Prop :=
  (∀ (s : State) (own iss tier addr len : Nat) (rmt : Bool), s.dead = false → okOwner own = true → iss < 16384 →
    tier < 4 → addr < 2 ^ 48 → s.accessCode own tier addr len = 0 →
    s.shareOk tier addr len (reqClass false rmt) = true →
    Goes (.memRead own iss tier addr len rmt []) s fun t =>
      t.out = .readData own (dataOf (s.readBytes (s.slotFor own) tier addr len))
        (anyMark (s.readBytes (s.slotFor own) tier addr len)) 0 :: s.out ∧
      (s.slotDraining (s.slotFor own) = true → t.f (tierCtl tier addr) F.PG_ERR_CNT_LAST = 0x10) ∧
      SameMem s t ∧
      OnlyRegsEv (noted (tierCtl tier addr)) s { t with out := s.out, ctls := s.ctls, mem := s.mem }) ∧
  (∀ (s : State) (own iss tier addr len : Nat) (rmt : Bool) (errs : Errs), s.dead = false → okOwner own = true →
    iss < 16384 → tier < 4 → addr < 2 ^ 48 → s.accessCode own tier addr len = 0x02 →
    Goes (.memRead own iss tier addr len rmt errs) s fun t =>
      t.out = .readData own [] false 0x02 :: s.out ∧ t.f (tierCtl tier addr) F.PG_ERR_CNT_LAST = 0x02 ∧
      SameMem s t ∧ OnlyRegsEv (noted (tierCtl tier addr)) s { t with out := s.out, mem := s.mem }) ∧
  (∀ (s : State) (own iss tier addr len : Nat) (rmt : Bool), s.dead = false → okOwner own = true → iss < 16384 →
    tier < 4 → addr < 2 ^ 48 → 0 < len → s.accessCode own tier addr len = 0 →
    s.shareOk tier addr len (reqClass false rmt) = true → s.slotDraining (s.slotFor own) = false →
    (s.line (memKey tier addr)).poison = false →
    Goes (.memRead own iss tier addr len rmt [(memKey tier (64 * (addr / 64)), .ue)]) s fun t =>
      (∃ d, t.out = .readData own d true 0 :: s.out) ∧ (t.line (memKey tier addr)).poison = true ∧
      t.f (tierCtl tier addr) F.PG_ERR_CNT_LAST = 0x07 ∧
      t.f pRAS F.RAS_CNT_UE_CNT = min (2 ^ 32 - 1) (s.f pRAS F.RAS_CNT_UE_CNT + 1)) ∧
  (∀ (s : State) (own iss tier addr len : Nat) (rmt : Bool) (errs : Errs), s.dead = false → okOwner own = true →
    iss < 16384 → tier < 4 → addr < 2 ^ 48 →
    (s.accessCode own tier addr len = 0x12 ∨
      s.accessCode own tier addr len = 0 ∧ s.shareOk tier addr len (reqClass false rmt) = false) →
    Goes (.memRead own iss tier addr len rmt errs) s fun t => SameMem s t ∧ { t with mem := s.mem } = s)

/-- R198 to R202: the atomics on one element: integer ADD wraps, MAX and MIN compare signed, CAS compares and swaps;
the prior value goes back where asked for, and no other byte changes under the owner's key. Where the spec leaves a
choice it follows the model's: log entries 7, 8. -/
def Obligations.AtomicsUpdateOneElement : Prop :=
  ∀ (s : State) (own iss tier addr code o v : Nat) (rmt ret : Bool), s.dead = false → okOwner own = true → iss < 16384 →
    tier < 4 → addr < 2 ^ 48 → code ∈ [0x01, 0x02, 0x08, 0x09, 0x10, 0x11, 0x18] → atomicOk addr code [(o, v)] = true →
    s.accessCode own tier addr 64 = 0 → s.shareOk tier addr 64 (reqClass true rmt) 2 = true →
    s.slotDraining (s.slotFor own) = false → (s.line (memKey tier addr)).poison = false →
    let old := leNat ((List.range (atomicSize code)).map fun i => (s.readByte (s.slotFor own) (memKey tier (addr + o + i))).1)
    Goes (.memAtomic own iss tier addr code [(o, v)] rmt ret []) s fun t =>
      let new := leNat ((List.range (atomicSize code)).map fun i => (t.readByte (s.slotFor own) (memKey tier (addr + o + i))).1)
      (code = 0x01 → new = (old + v) % 2 ^ 32) ∧ (code = 0x02 → new = (old + v) % 2 ^ 64) ∧
      (code = 0x08 → sgn 8 new = max (sgn 8 old) (sgn 8 v)) ∧ (code = 0x09 → sgn 32 new = max (sgn 32 old) (sgn 32 v)) ∧
      (code = 0x10 → sgn 8 new = min (sgn 8 old) (sgn 8 v)) ∧ (code = 0x11 → sgn 32 new = min (sgn 32 old) (sgn 32 v)) ∧
      (code = 0x18 → new = if old = v % 2 ^ 64 then v / 2 ^ 64 % 2 ^ 64 else old) ∧
      (ret = true ∨ code = 0x18 → t.out = .readData own (leBytes (atomicSize code) old) false 0 :: s.out) ∧
      (ret = false → code ≠ 0x18 → t.out = s.out) ∧
      (∀ k, ¬(memKey tier (addr + o) ≤ k ∧ k < memKey tier (addr + o) + atomicSize code) →
        t.readByte (s.slotFor own) k = s.readByte (s.slotFor own) k)

/-- R179, R184, R186 to R188, R193: ALLOC places an allocation that fits its class's first tier and gives its
handle, reports an exhausted class, FREE takes the allocation back, QUERY changes nothing, a record that its
controller does not take keeps BUSY 1, and a stale handle or a command while BUSY is 1 is refused. Where the spec
leaves a choice it follows the model's: log entry 27. -/
def Obligations.AllocatorCommandsKeepTheirRecords : Prop :=
  (∀ (s : State) (m p cls die k : Nat), s.dead = false → okMaster m = true → p < 8 → cls ≤ 4 → die ≤ 2 →
    s.reaches m (pSCH p) = true → s.mayWrite m (pSCH p) = true → s.rstBusy (pSCH p) = false →
    s.f (pSCH p) F.ALC_STS_BUSY = 0 → s.holds p (s.alcRec p).1 (s.alcRec p).2 4160 = true →
    (List.range 4096).find? (fun k => ((s.al p).live.get k none).isNone) = some k →
    s.f (pSCH p) F.ALC_SIZE_GRAN ≤ s.freeGran p (classTiers cls).1 die →
    let xs := s.placeIn p (classTiers cls).1 die (s.f (pSCH p) F.ALC_SIZE_GRAN) []
    xs.length ≤ 256 →
    Goes (.alloc m p cls die) s fun t =>
      (s.spanCode p (s.alcRec p).1 (s.alcRec p).2 (64 + 16 * xs.length) ≠ 0x12 →
        t.f (pSCH p) F.ALC_STS_RESULT = 0 ∧ t.f (pSCH p) F.ALC_STS_BUSY = 0 ∧ (t.al p).record = none) ∧
      (s.spanCode p (s.alcRec p).1 (s.alcRec p).2 (64 + 16 * xs.length) = 0x12 →
        t.f (pSCH p) F.ALC_STS_BUSY = 1 ∧ (t.al p).record.isSome = true) ∧
      (∃ a, (t.al p).live.get k none = some a ∧ a.seq = (s.al p).seq ∧ a.cls = cls ∧
        a.size = s.f (pSCH p) F.ALC_SIZE_GRAN ∧ a.first = a.size ∧ a.spill = 0 ∧ a.exts = withStarts 0 xs) ∧
      (∀ j, j ≠ k → (t.al p).live.get j none = (s.al p).live.get j none) ∧
      (∀ q, q ≠ p → t.al q = s.al q) ∧ t.prt = s.prt) ∧
  (∀ (s : State) (m p cls die k : Nat), s.dead = false → okMaster m = true → p < 8 → cls ≤ 4 → die ≤ 2 →
    s.reaches m (pSCH p) = true → s.mayWrite m (pSCH p) = true → s.rstBusy (pSCH p) = false →
    s.f (pSCH p) F.ALC_STS_BUSY = 0 → s.holds p (s.alcRec p).1 (s.alcRec p).2 4160 = true →
    (List.range 4096).find? (fun k => ((s.al p).live.get k none).isNone) = some k →
    s.freeGran p (classTiers cls).1 die +
        (if (classTiers cls).2 = 0 then 0 else s.freeGran p (classTiers cls).2 die) < s.f (pSCH p) F.ALC_SIZE_GRAN →
    s.spanCode p (s.alcRec p).1 (s.alcRec p).2 64 ≠ 0x12 →
    Goes (.alloc m p cls die) s fun t =>
      t.f (pSCH p) F.ALC_STS_RESULT = 0x0D ∧ (t.al p).live = (s.al p).live ∧ (∀ q, q ≠ p → t.al q = s.al q) ∧
      t.prt = s.prt) ∧
  (∀ (s : State) (m p : Nat) (a : Alloc), s.dead = false → okMaster m = true → p < 8 →
    s.reaches m (pSCH p) = true → s.mayWrite m (pSCH p) = true → s.rstBusy (pSCH p) = false →
    s.f (pSCH p) F.ALC_STS_BUSY = 0 → s.alcNamed p = some a →
    Goes (.free m p) s fun t =>
      t.f (pSCH p) F.ALC_STS_RESULT = 0 ∧ (t.al p).live.get (s.f (pSCH p) F.ALC_HANDLE_SLOT) none = none ∧
      (∀ j, j ≠ s.f (pSCH p) F.ALC_HANDLE_SLOT → (t.al p).live.get j none = (s.al p).live.get j none) ∧
      (∀ q, q ≠ p → t.al q = s.al q) ∧ OnlyRegs [pSCH p * 4096 + R.ALC_STS] s { t with alloc := s.alloc }) ∧
  (∀ (s : State) (m p : Nat) (a : Alloc), s.dead = false → okMaster m = true → p < 8 →
    s.reaches m (pSCH p) = true → s.mayWrite m (pSCH p) = true → s.rstBusy (pSCH p) = false →
    s.f (pSCH p) F.ALC_STS_BUSY = 0 → s.alcNamed p = some a →
    s.holds p (s.alcRec p).1 (s.alcRec p).2 4160 = true →
    Goes (.query m p) s fun t =>
      (s.spanCode p (s.alcRec p).1 (s.alcRec p).2 (64 + 16 * a.exts.length) ≠ 0x12 →
        t.f (pSCH p) F.ALC_STS_RESULT = 0 ∧ t.f (pSCH p) F.ALC_STS_BUSY = 0) ∧
      (t.al p).live = (s.al p).live ∧ (∀ q, q ≠ p → t.al q = s.al q) ∧ t.prt = s.prt) ∧
  (∀ (s : State) (m p : Nat), s.dead = false → okMaster m = true → p < 8 → s.reaches m (pSCH p) = true →
    s.mayWrite m (pSCH p) = true → (s.alcNamed p = none ∨ s.f (pSCH p) F.ALC_STS_BUSY ≠ 0) →
    Goes (.free m p) s fun t =>
      t.f (pSCH p) F.PG_WREJ_OFS_CODE = 0x11 ∧ OnlyRegsEv (refusedRegs (pSCH p)) s t)

/-- R174, R176, R208 to R210: 1 µs after the present share window began a new one begins with the written shares; an
FX64 region is enabled, and applied with its place and EXP as they then are. Where the spec leaves a choice it
follows the model's: log entries 26, 28. -/
def Obligations.ShareWindowsAndFixedPointRegions : Prop :=
  (∀ (s : State) (pg : Nat), s.dead = false → pg < 16384 → ctlTier pg ≠ 0 →
    (s.ctl pg).winAt + 1000 ≤ s.nowOn (dieOfPage pg) →
    Goes (.shareWindow pg) s fun t =>
      (t.ctl pg).share = s.w pg R.MC_SHARE ∧ (t.ctl pg).winAt = s.nowOn (dieOfPage pg) ∧
      (bit (s.ctl pg).share 31 = false → ∀ c, c < 3 → (t.ctl pg).used.get c 0 = 0 ∧ (t.ctl pg).debt.get c 0 = 0) ∧
      (∀ j, j ≠ pg → t.ctl j = s.ctl j) ∧ { t with ctls := s.ctls } = s) ∧
  (∀ (s : State) (pg : Nat), s.dead = false → pg < 16384 → s.nowOn (dieOfPage pg) < (s.ctl pg).winAt + 1000 →
    Goes (.shareWindow pg) s fun t => t = s) ∧
  (∀ (s : State) (m p r v : Nat), s.dead = false → okMaster m = true → p < 8 → r < 16 → v < 2 ^ 32 →
    s.reaches m (pSCH p) = true → s.mayWrite m (pSCH p) = true → s.rstBusy (pSCH p) = false →
    (regDefAt (pSCH p) (R.FXR_CTL + 16 * r)).any (fun d => defRes0Ok d v) = true → bit v 31 = true →
    bits v 7 0 ≠ 0x80 → bits v 7 0 ≠ 0x81 → s.fxrEn p r = false →
    (∀ q, q < 16 → q ≠ r → s.fxrEn p q = true → s.fxrMeet p r q = false) →
    s.holds p (s.fxr p r).1 (s.fxr p r).2.1 (s.fxr p r).2.2 = true →
    Goes (.fxrEnable m p r v) s fun t =>
      t.fxrEn p r = true ∧ t.f (pSCH p) (F.FXR_CTL_EXP.at 16 r) = bits v 7 0 ∧
      OnlyRegs [pSCH p * 4096 + R.FXR_CTL + 16 * r] s t) ∧
  (∀ (s : State) (p r : Nat), s.dead = false → p < 8 → r < 16 →
    Goes (.fxrEnApplied p r) s fun t =>
      (s.fxrEn p r = true → (t.al p).fxrOn.get r none = some
        { tier := (s.fxr p r).1, base := (s.fxr p r).2.1, len := (s.fxr p r).2.2
          exp := s.f (pSCH p) (F.FXR_CTL_EXP.at 16 r) }) ∧
      (s.fxrEn p r = false → (t.al p).fxrOn.get r none = none) ∧
      (∀ q, q ≠ r → (t.al p).fxrOn.get q none = (s.al p).fxrOn.get q none) ∧
      (t.al p).live = (s.al p).live ∧ (∀ q, q ≠ p → t.al q = s.al q) ∧ { t with alloc := s.alloc } = s)

/-- R49, R173, R218 to R227, R747, Table 06-1: a queue asks for the blocks of its list, at most 4 at a time, takes
and checks its next entry, and faults on a bad one once the entries before it are done; its next request goes out
once OUT_MAX, a fence and its buffers allow; a granted request's bytes land at their place in the packing, or leave
it; one that is not granted waits, until it times out. Where the spec leaves a choice it follows the model's: log
entries 7, 29, 74, 81. -/
def Obligations.StreamsAreReadAndTransferred : Prop :=
  (∀ (s : State) (c q : Nat) (it : TqItem) (rest : List TqItem) (bs : Marked) (errs : Errs), s.dead = false →
    okCore c = true → q < 4 → (s.tq c q).items = it :: rest → (∀ wsa pc, it ≠ .gath wsa pc) → (s.tq c q).ended = false →
    s.hasFetch c = true → s.entryAt16 c (s.tq c q) = some (.ok bs) → firstMark bs = 0 →
    let a := s.tq c q
    let e := entryOf (bs.map (·.1))
    let bad := e.bad true (a.count + 1) (a.segLeft == some 16)
    let code := if bad = true then 0x04 else s.entryCode ((s.cluOf c).getD 0) e
    (code ≠ 0 → a.quiet = true → Goes (.blockEntryRead c q errs) s fun t => t.dropped c) ∧
    (code ≠ 0 → a.quiet = false → a.fail = none →
      Goes (.blockEntryRead c q errs) s fun t =>
        (t.tq c q).fail.map (·.code) = some code ∧ (t.tq c q).fail.bind (·.tag) = some e.tag ∧ (t.tq c q).ended = true ∧
        (t.tq c q).reqs = a.reqs ∧ (t.tq c q).ents = a.ents ∧ SameMem s t ∧ OnlyCore c s { t with mem := s.mem }) ∧
    (code = 0 → e.link = true →
      Goes (.blockEntryRead c q errs) s fun t =>
        (t.tq c q).curWs = false ∧ (t.tq c q).curTier = e.tier ∧ (t.tq c q).curAddr = e.addr ∧
        (t.tq c q).segLeft = some e.len ∧ (t.tq c q).count = a.count + 1 ∧ (t.tq c q).ents = a.ents ∧
        (t.tq c q).ended = false ∧ (t.tq c q).lists.length ≤ 4 ∧ SameMem s t ∧ OnlyCore c s { t with mem := s.mem }) ∧
    (code = 0 → e.link = false →
      Goes (.blockEntryRead c q errs) s fun t =>
        (t.tq c q).curAddr = a.curAddr + 16 ∧ (t.tq c q).segLeft = a.segLeft.map (· - 16) ∧
        (t.tq c q).count = a.count + 1 ∧ (t.tq c q).ended = e.end_ ∧
        (t.tq c q).ents = a.ents ++
          [{ addr := e.addr, len := e.len, tier := e.tier, fence := e.fence, tag := e.tag, last := e.end_ }] ∧
        (t.tq c q).reqs = a.reqs ∧ SameMem s t ∧ OnlyCore c s { t with mem := s.mem })) ∧
  (∀ (s : State) (c q tier addr pc : Nat) (rest : List TqItem) (errs : Errs), s.dead = false → okCore c = true → q < 4 →
    (s.tq c q).items = .stream false tier addr pc :: rest → (s.tq c q).curWs = false → (s.tq c q).ended = false →
    s.hasFetch c = true → (s.tq c q).lists = [] → s.entryAt16 c (s.tq c q) = none →
    Goes (.blockEntryRead c q errs) s fun t =>
      let m := tierM (s.tq c q).curTier
      (t.tq c q).lists.map (·.addr) = (((s.tq c q).listAhead.filter (fun a => !(s.tq c q).hasBlock a &&
        !s.writeOverlap c (s.tq c q).curTier a m)).take 4) ∧
      (∀ r ∈ (t.tq c q).lists, r.tier = (s.tq c q).curTier ∧ r.addr % m = 0 ∧ r.iss = s.issue (pCORE c)) ∧
      (t.tq c q).ents = (s.tq c q).ents ∧ SameMem s t ∧ OnlyCore c s { t with mem := s.mem }) ∧
  (∀ (s : State) (c q tier addr pc : Nat) (rest : List TqItem) (e : BlockEnt), s.dead = false → okCore c = true → q < 4 →
    (s.tq c q).items = .stream false tier addr pc :: rest → nextEnt (s.tq c q).ents = some e → e.issued < e.len →
    let a := s.tq c q
    let n := min (e.len - e.issued) (tierM e.tier - (e.addr + e.issued) % tierM e.tier)
    let full := s.f (pCORE c) (F.TQ_CFG_OUT_MAX.at 4 q) ≤ a.reqs.length
    let fenced := e.tier ≠ 0 ∧ s.fenced (tierCtl e.tier (e.addr + e.issued)) = true
    let req : TqReq := { id := (s.core c).nextReq, tier := e.tier, addr := e.addr + e.issued, len := n, pos := a.issuePos
                         slot := s.slotFor (s.corePart c), iss := s.issue (pCORE c), tag := e.tag }
    (fenced → a.reqs = [] → Goes (.tqRequestIssue c q) s fun t => t.dropped c) ∧
    (¬fenced → (full ∨ s.hasFetch c = false ∨ (e.fence = true ∧ e.issued = 0 ∧ a.reqs ≠ [])) →
      Goes (.tqRequestIssue c q) s fun t => t = s) ∧
    (¬fenced → ¬full → s.hasFetch c = true → (e.fence = true → e.issued = 0 → a.reqs = []) → q < 3 →
      2 ^ 20 < a.issuePos + n →
      Goes (.tqRequestIssue c q) s fun t => t.dropped c ∧ t.f (pCORE c) F.CORE_FLT_SUB = 0x0B ∧
        t.f (pCORE c) F.CORE_FLT_PC = pc % 2 ^ 13) ∧
    (¬fenced → ¬full → s.hasFetch c = true → (e.fence = true → e.issued = 0 → a.reqs = []) → q < 3 →
      a.issuePos + n ≤ 2 ^ 20 → (a.bufs * 4096 ≤ a.issuePos ∨ s.writeOverlap c e.tier (e.addr + e.issued) n = true) →
      Goes (.tqRequestIssue c q) s fun t => t = s) ∧
    (¬fenced → ¬full → s.hasFetch c = true → (e.fence = true → e.issued = 0 → a.reqs = []) →
      (q < 3 → a.issuePos + n ≤ 2 ^ 20 ∧ a.issuePos < a.bufs * 4096 ∧
        s.writeOverlap c e.tier (e.addr + e.issued) n = false) →
      (q = 3 → coveredBy a.written a.issuePos n = true) →
      Goes (.tqRequestIssue c q) s fun t =>
        (t.tq c q).reqs = a.reqs ++ [req] ∧ (t.tq c q).issuePos = a.issuePos + n ∧
        (t.core c).nextReq = (s.core c).nextReq + 1 ∧ (∀ j, j ≠ q → t.tq c j = s.tq c j) ∧ OnlyCore c s t)) ∧
  (∀ (s : State) (c q : Nat) (r : TqReq), s.dead = false → okCore c = true → q < 3 → r.tier < 4 →
    (s.tq c q).reqs.find? (fun x => x.id == r.id) = some r → (s.tq c q).fail = none →
    s.grantsNow c r.tier r.addr r.len (reqClass false (s.isRmtDie (c / 256) r.tier r.addr)) r.iss →
    Goes (.transferComplete c q r.id []) s fun t =>
      let d := s.delivers c r.slot r.tier r.addr r.len
      (t.tq c q).win = putDieBytes (s.tq c q).win r.pos (d.map (·.1)) ∧
      (t.tq c q).pois = putDieMarks (s.tq c q).pois r.pos d ∧
      (t.tq c q).reqs = (s.tq c q).reqs.filter (fun x => x.id != r.id) ∧ SameMem s t ∧
      (∀ j, j ≠ q → t.tq c j = s.tq c j) ∧ (∀ k, (t.clu k).store = (s.clu k).store) ∧ ∀ d, d ≠ c → t.core d = s.core d) ∧
  (∀ (s : State) (c : Nat) (r : TqReq), s.dead = false → okCore c = true → r.tier < 4 →
    (s.tq c 3).reqs.find? (fun x => x.id == r.id) = some r → (s.tq c 3).fail = none →
    s.grantsNow c r.tier r.addr r.len (reqClass true (s.isRmtDie (c / 256) r.tier r.addr)) r.iss →
    let k := (s.cluOf c).getD 0
    let d := getDie (s.tq c 3).win (s.tq c 3).pois r.pos r.len
    (r.tier = 0 →
      Goes (.transferComplete c 3 r.id []) s fun t =>
        (t.clu k).store = putDieBytes (s.clu k).store r.addr (d.map (·.1)) ∧
        (t.clu k).pois = putDieMarks (s.clu k).pois r.addr d ∧ (∀ j, j ≠ k → t.clu j = s.clu j) ∧
        (t.tq c 3).reqs = (s.tq c 3).reqs.filter (fun x => x.id != r.id) ∧ SameMem s t) ∧
    (r.tier ≠ 0 → r.addr + r.len ≤ 2 ^ 48 → s.slotDraining r.slot = false → (∀ x ∈ d, x.2 = 0) →
      (∀ i, i < r.len → (s.line (memKey r.tier (r.addr + i))).poison = false) →
      Goes (.transferComplete c 3 r.id []) s fun t =>
        (∀ i b, d[i]? = some (b, 0) → t.readByte r.slot (memKey r.tier (r.addr + i)) = (b, false)) ∧
        (∀ a, ¬(memKey r.tier r.addr ≤ a ∧ a < memKey r.tier r.addr + r.len) → t.readByte r.slot a = s.readByte r.slot a) ∧
        (t.tq c 3).reqs = (s.tq c 3).reqs.filter (fun x => x.id != r.id) ∧ ∀ j, (t.clu j).store = (s.clu j).store)) ∧
  (∀ (s : State) (c q : Nat) (r : TqReq) (errs : Errs), s.dead = false → okCore c = true → q < 4 → r.tier < 4 →
    (s.tq c q).reqs.find? (fun x => x.id == r.id) = some r →
    (s.overdue (pCORE c) r.iss = true → Goes (.transferComplete c q r.id errs) s fun t => t.dropped c) ∧
    (s.overdue (pCORE c) r.iss = false →
      s.turnAt r.tier r.addr r.len (reqClass (q == 3) (s.isRmtDie (c / 256) r.tier r.addr)) r.iss.since = false →
      Goes (.transferComplete c q r.id errs) s fun t => Waits s t))

/-- R58, R231, R237 to R240: buffers are granted whole or refused and counted, return to the floor first, and a
request that has waited too long faults; a refused one retries in its turn once buffers are released; a fetch slot
goes to a core with transfers waiting, in its turn. Where the spec leaves a choice it follows the model's: log
entries 30, 31. -/
def Obligations.BuffersAreGrantedWhole : Prop :=
  (∀ (s : State) (c n j : Nat) (r : Requester) (drain : Bool), s.dead = false → okCore c = true →
    s.wants c r n = some (drain, j) →
    let fl := s.f (pCORE c) F.WS_POOL_STS_FREE_FLOOR
    let co := s.f (pCORE c) F.WS_POOL_STS_FREE_COMMON
    let size := s.poolSize c
    let most := if drain then size else size - s.poolFloor c
    let old := ((s.core c).bufWait.find? (fun w => w.who == whoOf r)).map (·.since)
    (drain = true → j ≤ most → s.poolTurn c (whoOf r) = true → j ≤ fl + co →
      Goes (.bufferRequest c r n) s fun t =>
        t.f (pCORE c) F.WS_POOL_STS_FREE_FLOOR = fl - j ∧ t.f (pCORE c) F.WS_POOL_STS_FREE_COMMON = co - (j - fl) ∧
        (∀ w ∈ (t.core c).bufWait, w.who ≠ whoOf r) ∧ (t.tq c 3).bufs = (s.tq c 3).bufs + j) ∧
    (drain = false → j ≤ most → s.poolTurn c (whoOf r) = true → j ≤ co →
      Goes (.bufferRequest c r n) s fun t =>
        t.f (pCORE c) F.WS_POOL_STS_FREE_FLOOR = fl ∧ t.f (pCORE c) F.WS_POOL_STS_FREE_COMMON = co - j ∧
        (∀ w ∈ (t.core c).bufWait, w.who ≠ whoOf r) ∧ (∀ q, r = .queue q → (t.tq c q).bufs = (s.tq c q).bufs + j) ∧
        (r = .gather → (t.core c).staged = (s.core c).staged + j) ∧
        (r = .inbound → (t.core c).inbound = (s.core c).inbound + j) ∧
        (∀ h, r = .handOver → (s.core c).op = some h → (t.core c).op = some { h with handOk := true })) ∧
    (j ≤ most → s.poolTurn c (whoOf r) = true → (if drain then fl + co else co) < j →
      Goes (.bufferRequest c r n) s fun t =>
        t.f (pCORE c) F.WS_POOL_STS_FREE_FLOOR = fl ∧ t.f (pCORE c) F.WS_POOL_STS_FREE_COMMON = co ∧
        t.f (pCORE c) F.WS_REFUSE_CNT_CNT = min (2 ^ 32 - 1) (s.f (pCORE c) F.WS_REFUSE_CNT_CNT + 1) ∧
        (t.core c).bufWait.getLast? = some { who := whoOf r, since := old.getD (s.coreNow c) } ∧
        (t.core c).tqs = (s.core c).tqs) ∧
    (j ≤ most → s.poolTurn c (whoOf r) = false → Goes (.bufferRequest c r n) s fun t => t = s) ∧
    (most < j → Goes (.bufferRequest c r n) s fun t => t.dropped c)) ∧
  (∀ (s : State) (c q n : Nat), s.dead = false → okCore c = true → q < 3 → (s.tq c q).items = [] →
    n ≤ (s.tq c q).bufs →
    let fl := s.f (pCORE c) F.WS_POOL_STS_FREE_FLOOR
    let co := s.f (pCORE c) F.WS_POOL_STS_FREE_COMMON
    fl ≤ s.poolFloor c → fl + co + n ≤ s.poolSize c →
    Goes (.bufferRelease c (.queue q) n) s fun t =>
      t.f (pCORE c) F.WS_POOL_STS_FREE_FLOOR = min (s.poolFloor c) (fl + n) ∧
      t.f (pCORE c) F.WS_POOL_STS_FREE_FLOOR + t.f (pCORE c) F.WS_POOL_STS_FREE_COMMON = fl + co + n ∧
      (t.tq c q).bufs = (s.tq c q).bufs - n ∧ (∀ j, j ≠ q → t.tq c j = s.tq c j) ∧
      (n ≠ 0 → ∀ w ∈ (t.core c).bufWait, w.retry = true)) ∧
  (∀ (s : State) (c : Nat), s.dead = false → okCore c = true →
    (∀ w ∈ (s.core c).bufWait, w.who ≠ whoOf .inbound →
      s.coreNow c < w.since + s.f (pCORE c) F.WS_BUF_WAIT_US * 1000) →
    Goes (.bufWaitExpiry c) s fun t => t = s) ∧
  (∀ (s : State) (c : Nat) (w : BufWait), s.dead = false → okCore c = true → w ∈ (s.core c).bufWait →
    w.who ≠ whoOf .inbound → w.since + s.f (pCORE c) F.WS_BUF_WAIT_US * 1000 ≤ s.coreNow c →
    Goes (.bufWaitExpiry c) s fun t => t.dropped c ∧ (t.core c).bufWait = []) ∧
  (∀ (s : State) (k c : Nat), s.dead = false → okCluster k = true → okCore c = true →
    (c ∈ s.slotWaiters k → mayGrant (s.clu k).fetchTurns (s.slotWaiters k) c = true →
      (s.clu k).fetch.length < s.f (pCLU k) F.CLU_PHASE_FETCH_MAX →
      Goes (.fetchSlotGrant k c) s fun t =>
        (t.clu k).fetch = (s.clu k).fetch ++ [c] ∧
        (t.clu k).fetchTurns = granted (s.clu k).fetchTurns (s.slotWaiters k) c ∧ (∀ j, j ≠ k → t.clu j = s.clu j) ∧
        (∀ q, (t.tq c q).reqs = (s.tq c q).reqs ∧ (t.tq c q).ents = (s.tq c q).ents) ∧
        OnlyCore c s { t with clus := s.clus }) ∧
    ((c ∉ s.slotWaiters k ∨ mayGrant (s.clu k).fetchTurns (s.slotWaiters k) c = false ∨
      s.f (pCLU k) F.CLU_PHASE_FETCH_MAX ≤ (s.clu k).fetch.length) →
      Goes (.fetchSlotGrant k c) s fun t => t = s))

/-- R241 to R250, R259, R276, R750, Table 06-5: GO starts a prefetch, which loads its stream, stops on a fault, or
goes on later where a controller does not take its next request; the layers swap once an epoch has completed;
CLU_WCFG drops both layers; a shard passes to every core that waits for it. Where the spec leaves a choice it
follows the model's: log entries 41, 74, 81. -/
def Obligations.LayersArePrefetchedSwappedAndPassed : Prop :=
  (∀ (s : State) (m k n p : Nat), s.dead = false → okMaster m = true → k < 48 → 1 ≤ n → n ≤ 256 →
    s.reaches m (pCLU k) = true → s.mayWrite m (pCLU k) = true → s.rstBusy (pCLU k) = false →
    s.holderOf resClu k = some p → s.lpfBusy k = false →
    (s.holds p (s.lpfList k).1 (s.lpfList k).2 16 = true →
      Goes (.lpfGo m k n) s fun t =>
        let cur := if s.swapDue k then (s.clu k).next else (s.clu k).cur
        t.f (pCLU k) F.CLU_LPF_STS_BUSY = 1 ∧ t.f (pCLU k) F.CLU_LPF_STS_DONE = 0 ∧ t.f (pCLU k) F.CLU_LPF_STS_ERR = 0 ∧
        t.f (pCLU k) F.CLU_LPF_STS_SWAP_PEND = 0 ∧ t.f (pCLU k) F.CLU_LPF_BYTES_BYTES = 0 ∧
        t.f (pCLU k) F.CLU_LPF_CTL_OUT_MAX = n ∧ (t.clu k).next = none ∧ (t.clu k).epochSeen = false ∧
        (s.dbl k = true → (t.clu k).cur = cur ∧ (t.clu k).lpf = some (s.lpfRun k)) ∧
        (s.dbl k = false → cur.map (·.code) = some 0 → (t.clu k).cur = cur ∧ (t.clu k).lpfWait = true ∧
          (t.clu k).lpf = none) ∧
        (s.dbl k = false → cur.map (·.code) ≠ some 0 → (t.clu k).cur = none ∧ (t.clu k).lpfWait = false ∧
          (t.clu k).lpf = some (s.lpfRun k)) ∧
        (∀ j, j ≠ k → t.clu j = s.clu j) ∧ { t with regs := s.regs, clus := s.clus } = s) ∧
    (s.holds p (s.lpfList k).1 (s.lpfList k).2 16 = false →
      Goes (.lpfGo m k n) s fun t =>
        t.f (pCLU k) F.PG_WREJ_OFS_CODE = 0x02 ∧ OnlyRegsEv (refusedRegs (pCLU k)) s t)) ∧
  (∀ (s : State) (m k n p : Nat), s.dead = false → okMaster m = true → k < 48 → 1 ≤ n → n ≤ 256 →
    s.reaches m (pCLU k) = true → s.mayWrite m (pCLU k) = true → s.rstBusy (pCLU k) = false →
    s.holderOf resClu k = some p → s.lpfBusy k = true →
    Goes (.lpfGo m k n) s fun t =>
      t.f (pCLU k) F.PG_WREJ_OFS_CODE = 0x11 ∧ OnlyRegsEv (refusedRegs (pCLU k)) s t) ∧
  (∀ (s : State) (k : Nat), s.dead = false → k < 48 → (s.clu k).lpfWait = true →
    (Goes (.lpfLoadBegin k) s fun t =>
      t = if (s.clu k).epochSeen then
          s.setClu k { s.clu k with lpfWait := false, lpf := some (s.lpfRun k), cur := none } else s)) ∧
  (∀ (s u : State) (k p : Nat) (r r' : LpfRun) (errs : Errs) (o : LpfOut), s.dead = false → k < 48 →
    s.holderOf resClu k = some p → (s.clu k).lpf = some r → s.lpfBusy k = true → u.mem.wait = false →
    lpfLoop k p (s.wregBytes k) (s.loadBase k) (2 ^ 26) r (s.finds errs) = (o, r', u) →
    (o = .end_ →
      Goes (.lpfDone k errs) s fun t =>
        t.f (pCLU k) F.CLU_LPF_STS_BUSY = 0 ∧ t.f (pCLU k) F.CLU_LPF_STS_DONE = 1 ∧
        t.f (pCLU k) F.CLU_LPF_BYTES_BYTES = r'.pos % 2 ^ 32 ∧ (t.clu k).lpf = none ∧
        (u.dbl k = true → (t.clu k).next = some { bytes := r'.pos, rest := r'.rest } ∧ (t.clu k).cur = (u.clu k).cur ∧
          t.f (pCLU k) F.CLU_LPF_STS_SWAP_PEND = 1) ∧
        (u.dbl k = false → (t.clu k).cur = some { bytes := r'.pos, rest := r'.rest }) ∧
        (t.clu k).store = (u.clu k).store) ∧
    (∀ code d, o = .fail code d → code < 256 →
      Goes (.lpfDone k errs) s fun t =>
        t.f (pCLU k) F.CLU_LPF_STS_BUSY = 0 ∧ t.f (pCLU k) F.CLU_LPF_STS_ERR = 1 ∧ t.f (pCLU k) F.CLU_LPF_STS_CODE = code ∧
        t.f (pCLU k) F.CLU_LPF_BYTES_BYTES = r'.pos % 2 ^ 32 ∧ (t.clu k).lpf = none ∧
        (u.dbl k = true → (t.clu k).cur = (u.clu k).cur ∧ (t.clu k).next = some { bytes := r'.pos, code := code }) ∧
        (u.dbl k = false → (t.clu k).cur = some { bytes := r'.pos, code := code })) ∧
    (o = .wait →
      Goes (.lpfDone k errs) s fun t =>
        t.f (pCLU k) F.CLU_LPF_STS_BUSY = u.f (pCLU k) F.CLU_LPF_STS_BUSY ∧
        (t.clu k).lpf = some { r' with iss := u.issue (pCLU k) } ∧ (t.clu k).store = (u.clu k).store)) ∧
  (∀ (s : State) (k : Nat), s.dead = false → k < 48 →
    Goes (.weightSwap k) s fun t =>
      if s.swapDue k then
        t.f (pCLU k) F.CLU_LPF_STS_SWAP_PEND = 0 ∧
        t.clu k = { s.clu k with cur := (s.clu k).next, next := none, nextHigh := !(s.clu k).nextHigh, epochSeen := false } ∧
        (∀ j, j ≠ k → t.clu j = s.clu j) ∧ OnlyRegs [pCLU k * 4096 + R.CLU_LPF_STS] s { t with clus := s.clus }
      else t = s) ∧
  (∀ (s : State) (m k v : Nat), s.dead = false → okMaster m = true → k < 48 → v < 2 ^ 32 →
    s.reaches m (pCLU k) = true → s.mayWrite m (pCLU k) = true → s.rstBusy (pCLU k) = false →
    (regDefAt (pCLU k) R.CLU_WCFG).any (fun d => defRes0Ok d v) = true → 1 ≤ bits v 22 16 → bits v 22 16 ≤ 64 →
    bits v 7 0 ≤ (if bit v 31 then 128 else 64) →
    ((∀ c, c ∈ s.slotsOfClu k → s.phase c = 0) → s.lpfBusy k = false → s.f (pCLU k) F.CLU_LPF_STS_SWAP_PEND = 0 →
      Goes (.cluWcfgWrite m k v) s fun t =>
        t.f (pCLU k) F.CLU_WCFG_WREG = bits v 7 0 ∧ t.f (pCLU k) F.CLU_WCFG_NSHARD = bits v 22 16 ∧
        t.f (pCLU k) F.CLU_WCFG_MODE = bits v 31 31 ∧
        (s.f (pCLU k) F.CLU_WCFG_MODE ≠ bits v 31 31 ∨ s.f (pCLU k) F.CLU_WCFG_WREG ≠ bits v 7 0 →
          (t.clu k).cur = none ∧ (t.clu k).next = none ∧ t.f (pCLU k) F.CLU_LPF_STS_DONE = 0 ∧
          t.f (pCLU k) F.CLU_LPF_BYTES_BYTES = 0) ∧
        (s.f (pCLU k) F.CLU_WCFG_MODE = bits v 31 31 → s.f (pCLU k) F.CLU_WCFG_WREG = bits v 7 0 → t.clus = s.clus) ∧
        { t with regs := s.regs, clus := s.clus } = s) ∧
    (v ≠ s.w (pCLU k) R.CLU_WCFG → s.lpfBusy k = true →
      Goes (.cluWcfgWrite m k v) s fun t =>
        t.f (pCLU k) F.PG_WREJ_OFS_CODE = 0x11 ∧ OnlyRegsEv (refusedRegs (pCLU k)) s t)) ∧
  (∀ (s : State) (k : Nat) (ly : Layer), s.dead = false → k < 48 → (s.slotsOfClu k).Nodup →
    (s.clu k).cur = some ly → s.takesWork (pCLU k) = true → s.fenced (pCLU k) = false → s.ringCode k = 0 →
    s.ringWaits k = false → (∃ c, c ∈ s.slotsOfClu k ∧ (s.core c).shard ≠ none ∧ s.hasFetch c = true) →
    let n := max 1 (s.f (pCLU k) F.CLU_WCFG_NSHARD)
    let sh := (s.clu k).shard % n
    let full := shardBytes ly.bytes n
    let len := min full (ly.bytes - sh * full)
    let d := s.cluRead k (s.curBase k + sh * full) len
    let gets (c : Nat) : Prop := c ∈ s.slotsOfClu k ∧ (s.core c).shard.map (·.shard) = some sh ∧ s.hasFetch c = true
    (∀ c, gets c → len ≤ (s.ringWin c).2) →
    Goes (.ringShardPass k) s fun t =>
      (∀ c, gets c → (t.core c).work = putDieBytes (s.core c).work (s.ringWin c).1 (d.map (·.1)) ∧
        (t.core c).workPois = putDieMarks (s.core c).workPois (s.ringWin c).1 d ∧ (t.core c).shard = none) ∧
      (∀ c, ¬gets c → t.core c = s.core c) ∧
      (t.clu k).shard = (sh + 1) % n ∧ (t.clu k).store = (s.clu k).store ∧ t.mem = s.mem) ∧
  (∀ (s : State) (k : Nat), s.dead = false → k < 48 →
    (∀ c, c ∈ s.slotsOfClu k → (s.core c).shard = none ∨ s.hasFetch c = false) →
    Goes (.ringShardPass k) s fun t => t = s)

/-- R261 to R266, R525, Table 07-3: a write of GLB_CSUB gives a failed slot's logical core to a zeroed spare, or to
none; it waits while its partition is neither RUNNING nor PAUSED. Where the spec leaves a choice it follows the
model's: log entry 5. -/
def Obligations.CoresAreSubstitutedAndRetired : Prop :=
  (∀ (s : State) (m d f t' n : Nat), s.dead = false → okMaster m = true → d < 2 → f < 200 → 192 ≤ t' → t' < 200 →
    s.reaches m pGLB = true → s.mayWrite m pGLB = true → s.rstBusy pGLB = false → s.router.busy = none →
    s.role (256 * d + f) = .active → s.role (256 * d + t') = .spare → s.csubResetting (256 * d + f) = false →
    s.lcore (256 * d + f) = some n →
    (s.csubWaits (256 * d + f) = false → (s.core (256 * d + f)).op = none →
      Goes (.coreSubstitute m d f t') s fun t =>
        t.slotOfCore n = some (256 * d + t') ∧ t.lcore (256 * d + t') = some n ∧ t.lcore (256 * d + f) = none ∧
        t.role (256 * d + f) = .failed ∧ t.role (256 * d + t') = .substitute ∧
        (∀ j, j ≠ n → t.slotOfCore j = s.slotOfCore j) ∧
        (∀ c, c ≠ 256 * d + f → c ≠ 256 * d + t' → t.role c = s.role c ∧ t.lcore c = s.lcore c) ∧
        (t.core (256 * d + t')).work = [] ∧ (t.core (256 * d + t')).prog = [] ∧
        (t.core (256 * d + f)).running = false ∧ t.mem = s.mem) ∧
    (s.csubWaits (256 * d + f) = true →
      Goes (.coreSubstitute m d f t') s fun t =>
        t = { s with router := { s.router with busy := some (d, f, t'), held := true } })) ∧
  (∀ (s : State) (m d f t' : Nat), s.dead = false → okMaster m = true → d < 2 → f < 200 → 192 ≤ t' → t' < 200 →
    s.reaches m pGLB = true → s.mayWrite m pGLB = true →
    s.router.busy ≠ none ∨ s.role (256 * d + t') ≠ .spare →
    Goes (.coreSubstitute m d f t') s fun t =>
      t.f pGLB F.PG_WREJ_OFS_CODE = 0x11 ∧ OnlyRegsEv (refusedRegs pGLB) s t) ∧
  (∀ (s : State) (m d f n : Nat), s.dead = false → okMaster m = true → d < 2 → f < 200 →
    s.reaches m pGLB = true → s.mayWrite m pGLB = true → s.rstBusy pGLB = false → s.router.busy = none →
    s.role (256 * d + f) = .active → s.csubResetting (256 * d + f) = false → s.csubWaits (256 * d + f) = false →
    s.lcore (256 * d + f) = some n → (s.core (256 * d + f)).op = none →
    Goes (.coreRetire m d f) s fun t =>
      t.slotOfCore n = none ∧ t.lcore (256 * d + f) = none ∧ t.role (256 * d + f) = .failed ∧
      (∀ j, j ≠ n → t.slotOfCore j = s.slotOfCore j) ∧ (∀ c, c ≠ 256 * d + f → t.role c = s.role c) ∧ t.mem = s.mem) ∧
  (∀ (s : State) (d f t' n : Nat), s.dead = false → d < 2 → f < 200 → 192 ≤ t' → t' < 200 → s.router.busy = some (d, f, t') →
    s.lcore (256 * d + f) = some n → f ≠ t' →
    (s.csubWaits (256 * d + f) = true → Goes .csubHeldStart s fun t => t = s) ∧
    (s.csubWaits (256 * d + f) = false → (s.core (256 * d + f)).op = none →
      Goes .csubHeldStart s fun t =>
        t.router.busy = none ∧ t.slotOfCore n = some (256 * d + t') ∧ t.lcore (256 * d + f) = none ∧
        t.role (256 * d + f) = .failed ∧ t.role (256 * d + t') = .substitute))

/-- R284, R285, Table 07-7: NOP, JMP, LOOP, BR, SETI, ADDI, ADD and MULI: the index register and the program counter
they write, and nothing else; a set reserved bit faults. Where the spec leaves a choice it follows the model's: log
entries 33, 34. -/
def Obligations.IndexAndControlInstructions : Prop :=
  ∀ (s : State) (c w : Nat), s.runs c w → (s.core c).fuse = none →
    let k := s.core c
    let next := { k with pc := (k.pc + 1) % 8192, drains := false }
    let jump := { k with pc := bits w 12 0, drains := false }
    let a := bits w 57 54
    let ra := s.ireg c a
    let rb := s.ireg c (bits w 53 50)
    (bits w 63 58 = 0x00 → bits w 57 0 = 0 → Goes (.nop c) s fun t => t.core c = next ∧ OnlyCore c s t) ∧
    (bits w 63 58 = 0x03 → bits w 57 13 = 0 → Goes (.jmp c) s fun t => t.core c = jump ∧ OnlyCore c s t) ∧
    (bits w 63 58 = 0x04 → bits w 53 13 = 0 →
      Goes (.loop c) s fun t =>
        t.ireg c a = (ra + 2 ^ 64 - 1) % 2 ^ 64 ∧ (∀ j, j ≠ a → t.ireg c j = s.ireg c j) ∧
        { t.core c with idx := k.idx } = (if ra % 2 ^ 64 = 1 then next else jump) ∧ OnlyCore c s t) ∧
    (bits w 63 58 = 0x05 → bits w 47 13 = 0 →
      Goes (.br c) s fun t =>
        (bits w 49 48 = 0 → t.core c = if ra = rb then jump else next) ∧
        (bits w 49 48 = 1 → t.core c = if ra = rb then next else jump) ∧
        (bits w 49 48 = 2 → t.core c = if ra < rb then jump else next) ∧
        (bits w 49 48 = 3 → t.core c = if ra < rb then next else jump) ∧ OnlyCore c s t) ∧
    (bits w 63 58 = 0x08 → bits w 53 48 = 0 →
      Goes (.seti c) s fun t =>
        t.ireg c a = bits w 47 0 ∧ (∀ j, j ≠ a → t.ireg c j = s.ireg c j) ∧
        { t.core c with idx := k.idx } = next ∧ OnlyCore c s t) ∧
    (bits w 63 58 = 0x09 → bits w 49 32 = 0 →
      Goes (.addi c) s fun t =>
        t.ireg c a = (rb + bits w 31 0 + (if bit w 31 then 2 ^ 64 - 2 ^ 32 else 0)) % 2 ^ 64 ∧
        (∀ j, j ≠ a → t.ireg c j = s.ireg c j) ∧ { t.core c with idx := k.idx } = next ∧ OnlyCore c s t) ∧
    (bits w 63 58 = 0x0A → bits w 45 0 = 0 →
      Goes (.add c) s fun t =>
        t.ireg c a = (rb + s.ireg c (bits w 49 46)) % 2 ^ 64 ∧ (∀ j, j ≠ a → t.ireg c j = s.ireg c j) ∧
        { t.core c with idx := k.idx } = next ∧ OnlyCore c s t) ∧
    (bits w 63 58 = 0x0B → bits w 49 32 = 0 →
      Goes (.muli c) s fun t =>
        t.ireg c a = rb * bits w 31 0 % 2 ^ 64 ∧ (∀ j, j ≠ a → t.ireg c j = s.ireg c j) ∧
        { t.core c with idx := k.idx } = next ∧ OnlyCore c s t) ∧
    (bits w 63 58 = 0x00 → bits w 57 0 ≠ 0 → k.op = none → s.f (pCORE c) F.CORE_CFG_STOP_ON_FLT = 1 →
      Goes (.nop c) s fun t =>
        (t.core c).stopped = true ∧ (t.core c).running = false ∧ (t.core c).pc = k.pc ∧
        t.f (pCORE c) F.CORE_FLT_VALID = 1 ∧ t.f (pCORE c) F.CORE_FLT_SUB = 0x02 ∧
        t.f (pCORE c) F.CORE_FLT_AUX_AUX = bits w 63 32 ∧ t.f (pCORE c) F.PG_ERR_CNT_LAST = 0x18)

/-- R225, R253, R287 to R289, R298 to R300, R302: GET, PUT, STAGE and TRAP, the clearing of CORE_FLT, and the run
limit. Where the spec leaves a choice it follows the model's: log entries 32, 33, 34. -/
def Obligations.OperationsRunFromGetToPut : Prop :=
  (∀ (s : State) (c w : Nat), s.runs c w → (s.core c).fuse = none →
    let k := s.core c
    (bits w 63 58 = 0x01 → bits w 57 0 = 0 → k.op = none → k.busy = false →
      Goes (.get c) s fun t => t.core c = { k with inGet := true, drains := false } ∧ OnlyCore c s t) ∧
    (bits w 63 58 = 0x01 → bits w 57 0 = 0 → k.op = none → k.busy = true →
      Goes (.get c) s fun t => t.core c = { k with drains := false } ∧ OnlyCore c s t) ∧
    (∀ h errs, k.op = some h → bits w 63 58 = 0x02 → bits w 57 13 = 0 → k.busy = false →
      let u := completed h.part h.slot ((s.finds errs).setCore c { k with drains := false })
      u.mem.wait = false →
        Goes (.put c errs) s fun t =>
          (t.core c).op = none ∧ (t.core c).pc = bits w 12 0 ∧ (t.core c).tqs = [] ∧ (t.core c).idx = k.idx ∧
          (t.core c).work = k.work ∧ t.sch = u.sch ∧ SameMem u t ∧ ∀ d, d ≠ c → t.core d = u.core d) ∧
    (∀ h errs, k.op = some h → bits w 63 58 = 0x02 → bits w 57 13 = 0 → k.busy = true →
      Goes (.put c errs) s fun t =>
        t.core c = { k with drains := false } ∧ SameMem s t ∧ OnlyCore c s { t with mem := s.mem }) ∧
    (∀ h, k.op = some h → bits w 63 58 = 0x06 → bits w 57 3 = 0 → h.chain = true → h.stage < 3 →
      (∀ q, q < 3 → bit w q = false → (k.tq q).items = []) →
      Goes (.stage c) s fun t =>
        (t.core c).op = some { h with stage := h.stage + 1 } ∧ (t.core c).pc = (k.pc + 1) % 8192 ∧
        (∀ q, q < 3 → bit w q = true → t.tq c q = s.tq c q) ∧ t.tq c 3 = s.tq c 3 ∧
        (∀ q, q < 3 → bit w q = false → (t.tq c q).bufs = 0 ∧ (t.tq c q).packed = 0 ∧ (t.tq c q).win = []) ∧
        (t.core c).idx = k.idx ∧ (t.core c).work = k.work ∧ (t.core c).hand = k.hand ∧ t.mem = s.mem) ∧
    (bits w 63 58 = 0x07 → bits w 57 16 = 0 → (∀ h, k.op = some h → h.part < 8) →
      Goes (.trap c) s fun t =>
        t.f (pCORE c) F.CORE_FLT_VALID = 1 ∧ t.f (pCORE c) F.CORE_FLT_SUB = 0x10 ∧
        t.f (pCORE c) F.CORE_FLT_AUX_AUX = bits w 15 0 ∧ t.f (pCORE c) F.CORE_FLT_PC = k.pc % 8192 ∧
        (t.core c).op = none ∧ (t.core c).tally = [] ∧ (t.core c).tqs = [])) ∧
  (∀ (s : State) (m c : Nat), s.dead = false → okMaster m = true → okCore c = true → s.reaches m (pCORE c) = true →
    s.mayWrite m (pCORE c) = true → s.rstBusy (pCORE c) = false → (s.core c).stopped = true →
    Goes (.coreFltClear m c) s fun t =>
      t.f (pCORE c) F.CORE_FLT_VALID = 0 ∧
      t.core c = { s.core c with stopped := false, running := s.f (pCORE c) F.PG_CTL_EN == 1,
                                 pc := s.f (pCORE c) F.CORE_BOOT_PC } ∧
      t.f (pCORE c) F.CORE_FLT_SUB = s.f (pCORE c) F.CORE_FLT_SUB ∧ t.mem = s.mem ∧ t.sch = s.sch) ∧
  (∀ (s : State) (c : Nat) (h : HeldOp), s.dead = false → okCore c = true → (s.core c).op = some h →
    h.part < 8 → s.f (pCORE c) F.CORE_RUNLIM_US ≠ 0 → h.since + s.f (pCORE c) F.CORE_RUNLIM_US * 1000 ≤ s.coreNow c →
    Goes (.coreRunlimExpiry c) s fun t =>
      (t.core c).op = none ∧ t.f (pCORE c) F.CORE_FLT_SUB = 0x0F ∧
      t.f (pCORE c) F.CORE_FLT_AUX_AUX = s.f (pCORE c) F.CORE_RUNLIM_US) ∧
  (∀ (s : State) (c : Nat), s.dead = false → okCore c = true →
    (s.f (pCORE c) F.CORE_RUNLIM_US = 0 ∨
      ∀ h, (s.core c).op = some h → s.coreNow c < h.since + s.f (pCORE c) F.CORE_RUNLIM_US * 1000) →
    Goes (.coreRunlimExpiry c) s fun t => t = s)

/-- R252, R272, R276, R280, R281, R286, R291, R292: LD and ST move eight bytes of the work store; STRM, WLOAD and
GATH queue their work; a program load fills the program store. Where the spec leaves a choice it follows the
model's: log entries 32, 34. -/
def Obligations.LoadsStoresAndTransfersAreIssued : Prop :=
  (∀ (s : State) (c w : Nat), s.runs c w → (s.core c).fuse = none → bits w 63 58 = 0x0C → bits w 49 24 = 0 →
    (s.core c).busy = false →
    let a := (s.ireg c (bits w 53 50) + bits w 23 0) % 2 ^ 24
    (∀ d, a % 8 = 0 → s.wsRead c a 8 = .ok d → firstMark d = 0 →
      Goes (.ld c .clean) s fun t =>
        t.ireg c (bits w 57 54) = leNat (d.map (·.1)) ∧ (∀ j, j ≠ bits w 57 54 → t.ireg c j = s.ireg c j) ∧
        { t.core c with idx := (s.core c).idx } = { s.core c with pc := ((s.core c).pc + 1) % 8192, drains := false } ∧
        OnlyCore c s t) ∧
    (∀ d, a % 8 = 0 → s.wsRead c a 8 = .ok d →
      Goes (.ld c .ue) s fun t => (t.core c).op = none ∧ (t.core c).idx = (s.core c).idx) ∧
    (a % 8 ≠ 0 → (s.core c).op = none →
      Goes (.ld c .clean) s fun t =>
        t.f (pCORE c) F.CORE_FLT_SUB = 0x07 ∧ t.f (pCORE c) F.CORE_FLT_AUX_AUX = a ∧ (t.core c).idx = (s.core c).idx)) ∧
  (∀ (s : State) (c w : Nat), s.runs c w → (s.core c).fuse = none → bits w 63 58 = 0x0D → bits w 49 24 = 0 →
    (s.core c).busy = false →
    let a := (s.ireg c (bits w 53 50) + bits w 23 0) % 2 ^ 24
    let v := s.ireg c (bits w 57 54)
    (a % 8 = 0 → a + 8 ≤ s.staticBytes c →
      Goes (.st c) s fun t =>
        (t.core c).work = putDieBytes (s.core c).work a (leBytes 8 v) ∧ (t.core c).hand = (s.core c).hand ∧
        (t.core c).pc = ((s.core c).pc + 1) % 8192 ∧ (t.core c).idx = (s.core c).idx ∧ OnlyCore c s t) ∧
    (∀ o, a % 8 = 0 → s.regionOf c a = .hand o → o + 8 ≤ 4096 * s.handBufs c →
      Goes (.st c) s fun t =>
        (t.core c).hand = putDieBytes (s.core c).hand o (leBytes 8 v) ∧ (t.core c).work = (s.core c).work ∧
        (t.core c).pc = ((s.core c).pc + 1) % 8192 ∧ OnlyCore c s t)) ∧
  (∀ (s : State) (c w : Nat), s.runs c w → (s.core c).fuse = none → bits w 63 58 = 0x10 → bits w 51 0 = 0 →
    s.handWait c = false →
    let q := bits w 57 56
    let p := s.ireg c (bits w 55 52)
    let ws := bits p 49 48 == 0
    let ptr := if bits p 49 48 = 0 then bits p 23 0 else bits p 47 0
    (bits p 63 50 = 0 → p % 16 = 0 →
      Goes (.strm c) s fun t =>
        (t.tq c q).items = (s.tq c q).items ++ [.stream ws (bits p 49 48) ptr (s.core c).pc] ∧
        ((s.tq c q).items = [] → (t.tq c q).curWs = ws ∧ (t.tq c q).curTier = bits p 49 48 ∧ (t.tq c q).curAddr = ptr ∧
          (t.tq c q).count = 0 ∧ (t.tq c q).ended = false ∧ (t.tq c q).ents = []) ∧
        (q < 3 → (s.tq c q).relPend = true → (t.tq c q).bufs = 0 ∧ (t.tq c q).packed = 0 ∧ (t.tq c q).issuePos = 0) ∧
        (q < 3 → (s.tq c q).relPend = false → (t.tq c q).bufs = (s.tq c q).bufs ∧ (t.tq c q).win = (s.tq c q).win) ∧
        (∀ j, j ≠ q → t.tq c j = s.tq c j) ∧ (t.core c).pc = ((s.core c).pc + 1) % 8192 ∧ t.mem = s.mem) ∧
    ((bits p 63 50 ≠ 0 ∨ p % 16 ≠ 0) → (s.core c).op = none →
      Goes (.strm c) s fun t =>
        t.f (pCORE c) F.CORE_FLT_SUB = 0x0D ∧ t.f (pCORE c) F.CORE_FLT_AUX_AUX = bits p 63 32)) ∧
  (∀ (s : State) (c w : Nat), s.runs c w → (s.core c).fuse = none → bits w 63 58 = 0x11 → bits w 53 0 = 0 →
    s.handWait c = false → (s.core c).shard = none →
    let k := (s.cluOf c).getD 0
    let sh := s.ireg c (bits w 57 54) % 64
    (sh < s.f (pCLU k) F.CLU_WCFG_NSHARD → s.ringCode k = 0 →
      Goes (.wload c) s fun t =>
        t.core c = { s.core c with
          shard := some { shard := sh, pc := (s.core c).pc, since := s.coreNow c }
          pc := ((s.core c).pc + 1) % 8192, drains := false } ∧
        OnlyCore c s t) ∧
    (s.f (pCLU k) F.CLU_WCFG_NSHARD ≤ sh → (s.core c).op = none →
      Goes (.wload c) s fun t => t.f (pCORE c) F.CORE_FLT_SUB = 0x06 ∧ (t.core c).shard = none)) ∧
  (∀ (s : State) (c w : Nat), s.runs c w → (s.core c).fuse = none → bits w 63 58 = 0x12 → bits w 51 0 = 0 →
    s.handWait c = false → (s.core c).gth.waiting.length < 4 → bits w 57 56 < 3 →
    let q := bits w 57 56
    let a := s.ireg c (bits w 55 52) % 2 ^ 24
    Goes (.gath c) s fun t =>
      (t.core c).gth.waiting = (s.core c).gth.waiting ++ [(q, a)] ∧ (t.tq c q).items = (s.tq c q).items ++ [.gath a (s.core c).pc] ∧
      (t.core c).gth.active = (s.core c).gth.active ∧ (∀ j, j ≠ q → t.tq c j = s.tq c j) ∧
      (t.core c).pc = ((s.core c).pc + 1) % 8192 ∧ t.mem = s.mem) ∧
  (∀ (s : State) (m c d n : Nat), s.dead = false → okMaster m = true → okCore c = true → 1 ≤ n → d + n ≤ 8192 →
    s.reaches m (pCORE c) = true → s.mayWrite m (pCORE c) = true → s.rstBusy (pCORE c) = false →
    (s.f (pCORE c) F.PG_CTL_EN = 0 → s.f (pCORE c) F.CORE_PLD_STS_BUSY = 0 →
      s.holds ((s.assignee (pCORE c)).getD oTormal) (s.pldSrc c).1 (s.pldSrc c).2 (8 * n) = true →
      Goes (.programLoad m c d n) s fun t =>
        t.f (pCORE c) F.CORE_PLD_STS_BUSY = 1 ∧ t.f (pCORE c) F.CORE_PLD_STS_VALID = 0 ∧
        t.f (pCORE c) F.CORE_PLD_CTL_COUNT = n ∧ t.f (pCORE c) F.CORE_PLD_CTL_DEST = d ∧
        (t.core c).pld = some
          { iss := s.issue (pCORE c), slot := s.slotFor ((s.assignee (pCORE c)).getD oTormal)
            own := (s.assignee (pCORE c)).getD oTormal, tier := (s.pldSrc c).1, addr := (s.pldSrc c).2, count := n
            dest := d } ∧
        (t.core c).prog = (s.core c).prog ∧ t.mem = s.mem) ∧
    (s.f (pCORE c) F.PG_CTL_EN = 1 ∨ s.f (pCORE c) F.CORE_PLD_STS_BUSY = 1 →
      Goes (.programLoad m c d n) s fun t =>
        t.f (pCORE c) F.PG_WREJ_OFS_CODE = 0x11 ∧ OnlyRegsEv (refusedRegs (pCORE c)) s t)) ∧
  (∀ (s u : State) (c code : Nat) (x : Pld) (errs : Errs) (d : List (Byte × Bool)), s.dead = false → okCore c = true →
    (s.core c).pld = some x →
    bulkRead (pCORE c) (c / 256) ⟨x.own, x.slot⟩ x.tier x.addr (8 * x.count) (s.finds errs) = (code, d, u) →
    (code = 0 → u.mem.wait = false → anyMark d = false →
      Goes (.programLoadDone c errs) s fun t =>
        t.f (pCORE c) F.CORE_PLD_STS_BUSY = 0 ∧ t.f (pCORE c) F.CORE_PLD_STS_VALID = 1 ∧ (t.core c).pld = none ∧
        (∀ i, i < x.count → (t.core c).prog.get (x.dest + i) none = some (fieldOf (dataOf d) (8 * i) 8)) ∧
        (∀ j, (j < x.dest ∨ x.dest + x.count ≤ j) → (t.core c).prog.get j none = (u.core c).prog.get j none) ∧
        ∀ e, e ≠ c → t.core e = u.core e) ∧
    (code = 0 → u.mem.wait = false → anyMark d = true →
      Goes (.programLoadDone c errs) s fun t =>
        t.f (pCORE c) F.CORE_PLD_STS_BUSY = 0 ∧ t.f (pCORE c) F.CORE_PLD_STS_VALID = 0 ∧
        t.f (pCORE c) F.CORE_PLD_STS_ERR = 1 ∧ t.f (pCORE c) F.CORE_PLD_STS_CODE = 0x06 ∧
        (t.core c).prog = (u.core c).prog) ∧
    (code ≠ 0 → code < 256 → u.mem.wait = false →
      Goes (.programLoadDone c errs) s fun t =>
        t.f (pCORE c) F.CORE_PLD_STS_BUSY = 0 ∧ t.f (pCORE c) F.CORE_PLD_STS_ERR = 1 ∧
        t.f (pCORE c) F.CORE_PLD_STS_CODE = code ∧ (t.core c).prog = (u.core c).prog) ∧
    (u.mem.wait = true → Goes (.programLoadDone c errs) s fun t => t = s))

/-- R293, R294, R305 to R342, Tables 07-8 to 07-11: MACT, VACC, FUSE and DRAIN: the tally slot they write, element
by element, what it records, and the bytes a DRAIN stores. Where the spec leaves a choice it follows the model's:
log entries 35, 43. -/
def Obligations.TensorInstructionsWriteTheirSlots : Prop :=
  (∀ (s : State) (c w : Nat) (da db : Marked), s.runs c w → (s.core c).fuse = none → bits w 63 58 = 0x20 →
    bits w 24 0 = 0 → bits w 55 53 < 6 → (s.core c).busy = false → s.handWait c = false →
    let shape := bits w 57 56
    let fmt := bits w 55 53
    let n := bits w 47 41
    let kb := s.ireg c (bits w 32 29)
    let tile := s.ireg c (bits w 28 25) % 2 ^ 32
    let acc := bit w 50
    let v := s.tslot c n
    mactBad fmt kb (bit w 51) (bit w 48) = false →
    (acc = true → v.cls ≠ none → v.cls = some (fmtInt fmt) ∧ v.shape = shape) →
    s.wsRead c (s.ireg c (bits w 40 37) % 2 ^ 24) (elemBytes fmt (kb * shapeG shape * shapeR shape * lanesOf fmt)) = .ok da →
    s.wsRead c (s.ireg c (bits w 36 33) % 2 ^ 24)
      (elemBytes fmt (kb * (if bit w 49 then 1 else shapeG shape) * shapeC shape * lanesOf fmt)) = .ok db →
    firstMark (da ++ db) = 0 →
    let a := da.map (·.1)
    let b := db.map (·.1)
    Goes (.mact c .clean) s fun t =>
      let z := t.tslot c n
      z.cls = some (fmtInt fmt) ∧ z.shape = shape ∧ z.tile = tile ∧ z.fmt = fmt ∧
      z.k = (if acc then v.k else 0) + (if fmtInt fmt then 0 else kb * lanesOf fmt) ∧
      (∀ j, j ≠ n → t.tslot c j = s.tslot c j) ∧ (t.core c).nextB = !(s.core c).nextB ∧
      (t.core c).pc = ((s.core c).pc + 1) % 8192 ∧ (t.core c).idx = (s.core c).idx ∧ t.mem = s.mem ∧
      (2 ≤ fmt → z.e = 0 ∧ z.sat = (acc && v.sat) ∧
        ∀ i, i < 1024 →
          z.el i = cellFloat w kb (v.el i) a b
            (srSeed (s.w64 pPRT (R.PRT_P_SEED_LO + 8 * s.corePart c) (R.PRT_P_SEED_HI + 8 * s.corePart c))
              ((s.core c).op.elim 0 (·.opid)) tile) i) ∧
      (fmt = 1 → kb = 1 → acc = false → z.e = 0 ∧ z.sat = false ∧
        ∀ i, i < 1024 → z.el i = uns 32 (cellEvent w a b i 0 0))) ∧
  (∀ (s : State) (c w : Nat) (d : Marked), s.runs c w → (s.core c).fuse = none → bits w 63 58 = 0x21 →
    bits w 21 0 = 0 → bits w 57 55 ∈ [1, 4, 5] → bits w 54 53 ≠ 3 → (s.core c).busy = false → s.handWait c = false →
    let fmt := bits w 57 55
    let acc := bit w 52
    let sl := bits w 51 45
    let n := s.ireg c (bits w 40 37)
    let o := s.ireg c (bits w 36 33)
    let wd := bits w 32 22
    let v := s.tslot c sl
    1 ≤ wd → o + wd ≤ 1024 → 1 ≤ n → n ≤ 2 ^ 20 →
    (acc = true → v.cls ≠ none → v.cls = some (fmt == 1) ∧ v.e = 0) →
    s.wsRead c (s.ireg c (bits w 44 41) % 2 ^ 24) (elemBytes fmt (n * wd)) = .ok d → firstMark d = 0 →
    Goes (.vacc c .clean) s fun t =>
      let z := t.tslot c sl
      z.cls = some (fmt == 1) ∧ z.k = (if acc then v.k else 0) + (if fmt = 1 then 0 else n) ∧
      (∀ j, ¬(o ≤ j ∧ j < o + wd) → z.el j = v.el j) ∧
      (fmt = 1 → n = 1 → ∀ i, i < wd →
        let x := sgn 8 ((d.map Prod.fst).getD i 0).toNat
        let m := if acc then sgn 32 (v.el (o + i)) else 0
        (bits w 54 53 = 0 → z.el (o + i) = uns 32 (m + x)) ∧
        (bits w 54 53 = 1 → z.el (o + i) = uns 32 (if acc then max m x else x)) ∧
        (bits w 54 53 = 2 → z.el (o + i) = uns 32 (if acc then min m x else x))) ∧
      (∀ j, j ≠ sl → t.tslot c j = s.tslot c j) ∧ (t.core c).pc = ((s.core c).pc + 1) % 8192 ∧
      (t.core c).idx = (s.core c).idx ∧ t.mem = s.mem) ∧
  (∀ (s : State) (c w : Nat), s.runs c w → (s.core c).fuse = none → bits w 63 58 = 0x22 → bits w 50 0 = 0 →
    bits w 56 55 ≠ 3 → (s.core c).busy = false → s.handWait c = false →
    Goes (.fuse c) s fun t =>
      (t.core c).fuse = some ⟨bits w 57 57, bits w 56 55, s.ireg c (bits w 54 51) % 2 ^ 24⟩ ∧
      (t.core c).tally = (s.core c).tally ∧ (t.core c).pc = ((s.core c).pc + 1) % 8192 ∧ OnlyCore c s t) ∧
  (∀ (s : State) (c w : Nat) (a b : Marked), s.runs c w → bits w 63 58 = 0x23 → bits w 35 0 = 0 → bits w 47 46 ≠ 3 →
    (s.core c).busy = false → s.handWait c = false →
    let k := s.core c
    let sl := bits w 57 51
    let v := s.tslot c sl
    let wsa := s.ireg c (bits w 43 40) % 2 ^ 24
    s.optRead c (bit w 44) (s.ireg c (bits w 39 36) % 2 ^ 24) (4 * shapeG v.shape * shapeC v.shape) = .ok a →
    s.optRead c k.fuse.isSome (k.fuse.elim 0 (·.wsa)) (k.fuse.elim 0 (fun f => elemBytes (ffmtCode f.fmt) 1024)) = .ok b →
    firstMark (a ++ b) = 0 →
    let outs := drainElems v (bits w 50 48) (bits w 47 46) (if bit w 44 then some (a.map Prod.fst) else none)
      (k.fuse.map (fun f => (f, b.map Prod.fst)))
    let bytes := (if bit w 45 then tileHeader v (k.op.elim 0 (·.opid)) sl w k.fuse outs else []) ++
      packOut (bits w 50 48) (outs.map Prod.fst)
    wsa + bytes.length ≤ s.staticBytes c →
    Goes (.drain c .clean) s fun t =>
      (t.core c).work = putDieBytes k.work wsa bytes ∧ (t.core c).fuse = none ∧ (t.core c).drains = !k.drains ∧
      (t.core c).tally = k.tally ∧ (t.core c).pc = (k.pc + 1) % 8192 ∧ (t.core c).idx = k.idx ∧ t.mem = s.mem ∧
      ∀ d, d ≠ c → t.core d = s.core d)

/-- R49, R345, R346, R350 to R359, R370, R371, Table 09-1: the gather engine takes a well-formed command, asks for
the blocks of its lists and for its rows one block at a time, and lands each row, or the reduction of a vertex's
rows, in the window. Where the spec leaves a choice it follows the model's: log entries 36, 82. -/
def Obligations.GatherCommandsFetchAndLandRows : Prop :=
  (∀ (s : State) (c q wsa pc : Nat) (rest : List (Nat × Nat)) (errs : Errs), s.dead = false → okCore c = true →
    (s.core c).gth.waiting = (q, wsa) :: rest → (s.core c).gth.active.all (·.allOut) = true → s.hasFetch c = true →
    let n := ((s.core c).gth.active.filter (fun g => g.q == q)).length
    ((s.tq c q).items.take n).all isGath = true → (s.tq c q).items[n]? = some (.gath wsa pc) →
    wsa + 64 ≤ s.staticBytes c → wsa % 64 = 0 →
    let d := getDie (s.core c).work (s.core c).workPois wsa 64
    let g : GthCmd := { no := (s.core c).gth.nextId, q := q, wsa := wsa, pc := pc, block := d.map Prod.fst }
    firstMark d = 0 →
    (g.bad = none → (∀ h, (s.core c).op = some h → h.cls ≠ 4) →
      Goes (.gatherCommandStart c errs) s fun t =>
        (t.core c).gth.waiting = rest ∧ (t.core c).gth.active = (s.core c).gth.active ++ [g] ∧
        (t.core c).gth.nextId = (s.core c).gth.nextId + 1 ∧ (t.core c).tqs = (s.core c).tqs ∧ SameMem s t ∧
        OnlyCore c s { t with mem := s.mem }) ∧
    (∀ w, g.bad = some w → (s.core c).op = none →
      Goes (.gatherCommandStart c errs) s fun t =>
        t.f (pCORE c) F.GTH_FLT_VALID = 1 ∧ t.f (pCORE c) F.GTH_FLT_CODE = 0x04 ∧ t.f (pCORE c) F.GTH_FLT_CAUSE = 5 ∧
        t.w64 (pCORE c) R.GTH_FLT_VAL_LO R.GTH_FLT_VAL_HI = w ∧ (t.core c).gth.active = [] ∧ (t.core c).tqs = [])) ∧
  (∀ (s : State) (c : Nat) (g : GthCmd) (row : GthRow) (errs : Errs), s.dead = false → okCore c = true →
    (s.core c).gth.metas = [] → (s.core c).gth.active = [g] → g.allOut = false →
    g.rows.find? (fun r => decide (r.issued < r.len)) = some row →
    let a := row.addr + row.issued
    let n := min (row.len - row.issued) (tierM row.tier - a % tierM row.tier)
    s.fenced (tierCtl row.tier a) = false →
    (s.hasFetch c = true → (s.core c).gth.reqs.length < s.f (pCORE c) F.GTH_CFG_OUT_MAX →
      s.writeOverlap c row.tier a n = false →
      Goes (.gatherRowFetch c errs) s fun t =>
        (t.core c).gth.reqs = (s.core c).gth.reqs ++ [{
          id := (s.core c).nextReq, cmd := g.no, seq := row.seq, tier := row.tier, addr := a, len := n
          ofs := row.issued, slot := s.slotFor (s.corePart c), iss := s.issue (pCORE c) }] ∧
        (t.core c).nextReq = (s.core c).nextReq + 1 ∧ (t.core c).tqs = (s.core c).tqs ∧ SameMem s t ∧
        OnlyCore c s { t with mem := s.mem }) ∧
    ((s.hasFetch c = false ∨ s.f (pCORE c) F.GTH_CFG_OUT_MAX ≤ (s.core c).gth.reqs.length ∨
        s.writeOverlap c row.tier a n = true) →
      Goes (.gatherRowFetch c errs) s fun t => Waits s t)) ∧
  (∀ (s : State) (c : Nat) (r : ListReq) (rest : List ListReq), s.dead = false → okCore c = true →
    (s.core c).gth.metas = r :: rest → (s.core c).gth.active.all (·.allOut) = true → r.tier < 4 →
    s.grantsNow c r.tier r.addr (tierM r.tier) (reqClass false (s.isRmtDie (c / 256) r.tier r.addr)) r.iss →
    Goes (.gatherRowFetch c []) s fun t =>
      (t.core c).gth.metas = rest ∧
      (t.core c).gth.blks.head? = some
        { tier := r.tier, addr := r.addr, data := s.delivers c r.slot r.tier r.addr (tierM r.tier) } ∧
      (t.core c).gth.active = (s.core c).gth.active ∧ (t.core c).tqs = (s.core c).tqs ∧ SameMem s t) ∧
  (∀ (s : State) (c : Nat) (g : GthCmd) (errs : Errs), s.dead = false → okCore c = true →
    (s.core c).gth.metas = [] → (s.core c).gth.active = [g] → g.allOut = false →
    g.rows.find? (fun r => decide (r.issued < r.len)) = none → g.edge < g.edgeEnd → g.agg ≠ 0 →
    let ahead := if g.mode = 3 then min (g.count + 1 - g.item) (2 ^ 32 - g.edge) else g.edgeEnd - g.edge
    let tier := ptrTier (g.w 2)
    let addr := ptrAddr (g.w 2) + 4 * g.edge
    let x := gthRead c tier addr 4 (4 * ahead) s
    (∀ b, x.1 = .ok b → g.nv ≤ leNat b →
      Goes (.gatherRowFetch c errs) s fun t => t.dropped c ∧ (t.core c).gth.active = []) ∧
    (x.1 = .error (0x12, 0) →
      Goes (.gatherRowFetch c errs) s fun t =>
        (t.core c).gth.metas = (x.2.core c).gth.metas ∧ (t.core c).gth.metas.length ≤ 16 ∧
        (t.core c).gth.active = [g] ∧ (t.core c).gth.reqs = (s.core c).gth.reqs ∧ SameMem s t ∧
        OnlyCore c s { t with mem := s.mem })) ∧
  (∀ (s : State) (c : Nat) (g : GthCmd) (rq : GthReq) (row : GthRow) (rest : List GthRow), s.dead = false →
    okCore c = true → (s.core c).gth.active = [g] → g.no = rq.cmd →
    g.allOut = false → g.rows = row :: rest → row.seq = rq.seq → (∀ x, x ∈ rest → x.seq ≠ row.seq) →
    (s.core c).gth.reqs.find? (fun r => r.id == rq.id) = some rq →
    let cls := reqClass false (s.isRmtDie (c / 256) rq.tier rq.addr)
    let d := s.readBytes rq.slot rq.tier rq.addr rq.len
    s.overdue (pCORE c) rq.iss = false → s.turnAt rq.tier rq.addr rq.len cls rq.iss.since = true →
    s.accessCode (s.corePart c) rq.tier rq.addr rq.len = 0 →
    anyMark d = false → row.mark = 0 → row.got + rq.len = row.len → g.seg = false →
    let data := putDieBytes row.data rq.ofs (dataOf d)
    let xs := g.decode ((List.range row.len).map (fun i => data.get i 0))
    (g.agg = 0 →
      Goes (.gatherRowArrive c rq.id []) s fun t =>
        (t.tq c g.q).win = putDieBytes (s.tq c g.q).win row.dst (g.outBytes xs) ∧
        (t.core c).gth.reqs = (s.core c).gth.reqs.filter (fun x => x.id != rq.id) ∧
        (t.core c).gth.active = [{ g with rows := rest }] ∧ SameMem s t) ∧
    (g.agg ≠ 0 → rest = [] → row.last = true → g.acc ≠ [] →
      Goes (.gatherRowArrive c rq.id []) s fun t =>
        (t.tq c g.q).win = putDieBytes (s.tq c g.q).win row.dst
          (g.outBytes (g.reduced_ row.deg ((g.acc.zip xs).map (fun p => gthStep g.rfmt g.agg p.1 p.2)))) ∧
        (t.core c).gth.active = [{ g with rows := [], reduced := g.reduced + 1, acc := [] }] ∧ SameMem s t)) ∧
  (∀ (s : State) (c : Nat) (rq : GthReq) (g : GthCmd) (errs : Errs), s.dead = false → okCore c = true →
    (s.core c).gth.reqs.find? (fun r => r.id == rq.id) = some rq →
    (s.core c).gth.active.find? (fun x => x.no == rq.cmd) = some g → g.rows.any (fun r => r.seq == rq.seq) = true →
    let cls := reqClass false (s.isRmtDie (c / 256) rq.tier rq.addr)
    (s.overdue (pCORE c) rq.iss = true → Goes (.gatherRowArrive c rq.id errs) s fun t => t.dropped c) ∧
    (s.overdue (pCORE c) rq.iss = false → s.turnAt rq.tier rq.addr rq.len cls rq.iss.since = false →
      Goes (.gatherRowArrive c rq.id errs) s fun t => Waits s t))

/-- R388 to R397, R400, Tables 10-1 to 10-5, 10-9: the migration engines work through an operation's list: gradients
are added, rows are quantised and written, moves are copied, redirected and finished, and the result record ends it;
a failed entry faults the operation once the moves begun before it are done. Where the spec leaves a choice it
follows the model's: log entry 37. -/
def Obligations.MigrationEnginesWorkThroughTheirLists : Prop :=
  ∀ (s : State) (p n d : Nat) (errs : Errs), s.dead = false → p < 8 → n < 65536 →
    let o := s.slot p n
    let m := s.mop p n
    let tt := o.copy
    let s0 := s.finds errs
    let runs (t : State) : Prop := t.slot p n = { o with iss := s.issue (pMIG d) } ∧ ∀ j, j ≠ n → t.slot p j = s.slot p j
    (∀ (s1 s2 s3 u : State) (rb g : List Byte) (a : RowAt) (x : Nat), s.migOf p n 5 = some d → s.tdWrong p tt 2 = false →
      m.next ≤ bits (o.arg 1) 63 50 →
      migRead d p (ptrTier (o.arg 1)) (ptrAddr (o.arg 1) + 4 * m.next) 4 s0 = (.ok rb, s1) →
      migRead d p (ptrTier (o.arg 2)) (ptrAddr (o.arg 2) + m.next * (bits (o.arg 2) 55 50 + 1) * 64)
        ((if bit (o.arg 2) 56 then 2 else 4) * tdW tt) s1 = (.ok g, s2) →
      leNat rb < tdNrows tt →
      rowAddr (pMIG d) (s2.access p) d tt (rdTable (pMIG d) (s2.access p) d tt) (leNat rb) s2 = (.ok a, s3) →
      (List.range (ceilDiv (recBytes (tdRfmt tt) (tdW tt)) 64)).any
        (fun i => s3.accessCode p a.tier (a.addr + 64 * i) 64 == 0x12) = false →
      updLines d p a.tier a.addr (if tdRfmt tt == 6 then (if bit (o.arg 2) 56 then 0x06 else 0x05) else 0x03)
        (gradLanes (tdRfmt tt == 6) (bit (o.arg 2) 56) (tdW tt) g) (ceilDiv (recBytes (tdRfmt tt) (tdW tt)) 64) 0 s3 = (0, x, u) →
      u.mem.wait = false →
      Goes (.embedUpdate p n errs) s fun t =>
        t.mop p n = { m with next := m.next + 1, done := m.done + 1 } ∧ SameMem u t ∧ runs t) ∧
    (∀ u : State, s.migOf p n 5 = some d → s.tdWrong p tt 2 = false → bits (o.arg 1) 63 50 < m.next →
      migWrite d p (ptrTier (o.arg 3)) (ptrAddr (o.arg 3))
        (leBytes 4 m.done ++ leBytes 4 m.same ++ leBytes 4 m.full ++ leBytes 4 m.nonfin) s0 = (0, u) → u.mem.wait = false →
      Goes (.embedUpdate p n errs) s fun t =>
        t.slot p n = { o with fin := true, iss := s.issue (pMIG d) } ∧ t.mop p n = {} ∧ SameMem u t ∧
        ∀ j, j ≠ n → t.slot p j = s.slot p j) ∧
    (s.migOf p n 5 = some d → s.tdWrong p tt 2 = true →
      Goes (.embedUpdate p n errs) s fun t => t.mop p n = {} ∧
        (o.frel = false → (s.flow p o.flow).ordered = false → (t.slot p n).st = .faulted)) ∧
    (∀ (s1 : State) (v : List Byte), s.migOf p n 0x11 = some d → m.started = false →
      migRead d p (ptrTier (o.arg 1)) (ptrAddr (o.arg 1)) 64 s0 = (.ok v, s1) → s1.tdWrong p tt 2 = false →
      s1.tdWrong p v 1 = false → requantPair tt v = true → s1.mem.wait = false →
      Goes (.requant p n errs) s fun t =>
        t.mop p n = { m with started := true, serve := v } ∧ SameMem s1 t ∧ runs t) ∧
    (∀ (s1 s2 s3 u : State) (a w : RowAt) (b : List Byte), s.migOf p n 0x11 = some d → m.started = true →
      m.next < bits (o.arg 2) 63 32 → bits (o.arg 2) 31 0 + m.next < tdNrows tt →
      bits (o.arg 2) 31 0 + m.next < tdNrows m.serve →
      rowAddr (pMIG d) (s.access p) d tt (rdTable (pMIG d) (s.access p) d tt) (bits (o.arg 2) 31 0 + m.next) s0 = (.ok a, s1) →
      migRead d p a.tier a.addr (recBytes (tdRfmt tt) (tdW tt)) s1 = (.ok b, s2) →
      rowAddr (pMIG d) (s2.access p) d m.serve (rdTable (pMIG d) (s2.access p) d m.serve) (bits (o.arg 2) 31 0 + m.next) s2
        = (.ok w, s3) →
      let q := requantRow (tdRfmt m.serve == 1) (decodeRec (tdRfmt tt) (tdFxexp tt) (tdW tt) b)
      migWrite d p w.tier w.addr (padTo (64 * tdRst m.serve)
        (leBytes 2 q.1 ++ leBytes 2 q.2.1 ++ packCodes (tdRfmt m.serve == 1) q.2.2.1)) s3 = (0, u) → u.mem.wait = false →
      Goes (.requant p n errs) s fun t =>
        t.mop p n = { m with next := m.next + 1, done := m.done + 1, nonfin := m.nonfin + b2n q.2.2.2 } ∧
        SameMem u t ∧ runs t) ∧
    (∀ (s1 : State), s.migOf p n 0x10 = some d → m.started = false → tdBad tt (s.sharedOf p) = false → tdRedir tt = true →
      listOk d p (ptrTier (o.arg 1)) (ptrAddr (o.arg 1)) (bits (o.arg 1) 63 50 + 1) 0 s0 = (.ok true, s1) →
      s1.mem.wait = false →
      Goes (.migrateRows p n errs) s fun t => t.mop p n = { m with started := true } ∧ SameMem s1 t ∧ runs t) ∧
    (∀ (s1 s2 : State) (eb : List Byte) (a : RowAt), s.migOf p n 0x10 = some d → m.started = true → m.fail = none →
      m.next ≤ bits (o.arg 1) 63 50 →
      migRead d p (ptrTier (o.arg 1)) (ptrAddr (o.arg 1) + 8 * m.next) 8 s0 = (.ok eb, s1) →
      m.moves.any (fun x => x.row == bits (leNat eb) 31 0) = false →
      s.movesOf d < s.f (pMIG d) F.MIG_CFG_MOVES → bits (leNat eb) 31 0 < tdNrows tt →
      rowAddr (pMIG d) (s1.access p) d tt (rdTable (pMIG d) (s1.access p) d tt) (bits (leNat eb) 31 0) s1 = (.ok a, s2) →
      bits (leNat eb) 37 32 < tdNshard tt → bits (leNat eb) 37 32 = a.shard → s2.mem.wait = false →
      Goes (.migrateRows p n errs) s fun t =>
        t.mop p n = { m with next := m.next + 1, same := m.same + 1 } ∧ SameMem s2 t ∧ runs t) ∧
    (∀ (u : State) (r : Nat) (v : RowMove), s.migOf p n 0x10 = some d →
      m.moves.find? (fun v => v.row == r && !v.redirected) = some v →
      tdRdofs tt + 8 * v.bucket + 8 ≤ s.sharedOf p →
      migWrite d p (ptrTier (tdw tt 3)) (ptrAddr (tdw tt 3) + 8 * v.bucket) (leBytes 8 v.entry) s0 = (0, u) →
      u.mem.wait = false →
      Goes (.rowMoveRedirect p n r errs) s fun t =>
        t.mop p n = { m with moves := m.moves.map (fun y => if y.row = r then { y with redirected := true } else y) } ∧
        SameMem u t ∧ runs t ∧
        (∀ k, k ∈ s.unitsOf resClu p →
          (t.clu k).store = putDieBytes (s.clu k).store (tdRdofs tt + 8 * v.bucket) (leBytes 8 v.entry)) ∧
        (∀ k, k ∉ s.unitsOf resClu p → t.clu k = s.clu k)) ∧
    (∀ (r : Nat) (v : RowMove), s.migOf p n 0x10 = some d → m.fail = none →
      m.moves.find? (fun v => v.row == r && v.redirected) = some v → v.oldSlot < tdRps tt →
      Goes (.rowMoveFinish p n r errs) s fun t =>
        t.mop p n = { m with done := m.done + 1, moves := m.moves.filter (fun y => y.row != r) } ∧
        SameMem s t ∧ runs t ∧ { t with regs := s.regs, mig := s.mig, sch := s.sch, mem := s.mem } = s) ∧
    (∀ (s1 u : State) (r x : Nat) (v : RowMove) (h : Shard), s.migOf p n 0x10 = some d → m.fail = none →
      m.moves.find? (fun v => v.row == r && v.redirected) = some v → tdRps tt ≤ v.oldSlot →
      shardOf (pMIG d) (s.access p) d tt v.oldShard s0 = (.ok h, s1) →
      setSpare d p h (v.oldSlot - tdRps tt) false s1 = (0, x, u) → u.mem.wait = false →
      Goes (.rowMoveFinish p n r errs) s fun t =>
        t.mop p n = { m with done := m.done + 1, moves := m.moves.filter (fun y => y.row != r) } ∧ SameMem u t ∧ runs t) ∧
    (∀ (r code : Nat) (v : RowMove), s.migOf p n 0x10 = some d → m.fail = some (code, r) →
      m.moves = [v] → v.redirected = true → v.oldSlot < tdRps tt →
      Goes (.rowMoveFinish p n v.row errs) s fun t => t.mop p n = {} ∧
        (o.frel = false → (s.flow p o.flow).ordered = false → (t.slot p n).st = .faulted))

/-- R424, R429 to R434, R456, R457, Tables 11-6 to 11-8: the graph commands at the head of a partition's command
queue: LOAD, its commit, SIGNAL, LINK, UNLOAD and RETRY, and how a command enters the queue. Where the spec leaves a
choice it follows the model's: log entries 40, 83. -/
def Obligations.GraphCommandsActOnTheirSlots : Prop :=
  (∀ (s : State) (p : Nat) (c : GraphCmd) (rest : List GraphCmd), s.dead = false → p < 8 → (s.sc p).cmdQ = c :: rest →
    c.ok = true →
    (c.op = 1 → s.rangeCode c.tier c.addr (64 * c.count) = 0 → s.holds p c.tier c.addr (64 * c.count) = true →
      s.rangeAll p c.first c.count (fun o => o.st == .empty) = true →
      Goes (.load p) s fun t =>
        (t.sc p).cmdQ = rest ∧ (t.sc p).loads = (s.sc p).loads ++ [c] ∧
        (∀ n, c.first ≤ n → n < c.first + c.count → t.slot p n = { st := .loading }) ∧
        (∀ n, ¬(c.first ≤ n ∧ n < c.first + c.count) → t.slot p n = s.slot p n) ∧ t.mem = s.mem) ∧
    (∀ tag, c.op = 1 → s.rangeCode c.tier c.addr (64 * c.count) = 0 → s.holds p c.tier c.addr (64 * c.count) = true →
      c.src = .reg tag → tag < 65536 →
      s.rangeAll p c.first c.count (fun o => o.st == .empty) = false →
      Goes (.load p) s fun t =>
        t.f (pSCH p) F.SCH_CMD_STS_BUSY = 0 ∧ t.f (pSCH p) F.SCH_CMD_STS_RESULT = 0x11 ∧
        t.f (pSCH p) F.SCH_CMD_STS_TAG = tag ∧ (t.sc p).cmdQ = rest ∧ (t.sc p).loads = (s.sc p).loads ∧
        ∀ n, t.slot p n = s.slot p n) ∧
    (c.op = 2 → (s.slot p c.first).st = .waiting →
      Goes (.signal p) s fun t =>
        (t.sc p).cmdQ = rest ∧ (∀ n, n ≠ c.first → t.slot p n = s.slot p n) ∧
        (c.ndec < (s.slot p c.first).count →
          t.slot p c.first = { s.slot p c.first with count := (s.slot p c.first).count - c.ndec }) ∧
        (c.ndec = (s.slot p c.first).count → (t.slot p c.first).st = .ready)) ∧
    (c.op = 2 → (s.slot p c.first).st = .empty →
      Goes (.signal p) s fun t =>
        (∀ n, t.slot p n = s.slot p n) ∧ t.f (pSCH p) F.PG_ERR_CNT_LAST = 0x11) ∧
    (c.op = 3 → (s.slot p c.first).st = .waiting ∨ (s.slot p c.first).st = .ready ∨ (s.slot p c.first).st = .running →
      (s.slot p c.slot2).st = .waiting → (s.sc p).links.length < 16384 →
      Goes (.link p) s fun t =>
        (t.sc p).links = (s.sc p).links ++ [(c.first, c.slot2)] ∧
        t.slot p c.slot2 = { s.slot p c.slot2 with count := (s.slot p c.slot2).count + 1 } ∧
        ∀ n, n ≠ c.slot2 → t.slot p n = s.slot p n) ∧
    (c.op = 4 → s.rangeAll p c.first c.count
        (fun o => o.st == .empty || o.st == .waiting || o.st == .ready || o.st == .faulted) = true →
      Goes (.unload p) s fun t =>
        (∀ n, c.first ≤ n → n < c.first + c.count → t.slot p n = {}) ∧
        (∀ n, ¬(c.first ≤ n ∧ n < c.first + c.count) → t.slot p n = s.slot p n) ∧
        ∀ e, e ∈ (t.sc p).links → e ∈ (s.sc p).links ∧ ¬(c.first ≤ e.1 ∧ e.1 < c.first + c.count) ∧
          ¬(c.first ≤ e.2 ∧ e.2 < c.first + c.count)) ∧
    (c.op = 5 → (s.slot p c.first).st = .faulted →
      Goes (.retry p) s fun t =>
        (t.slot p c.first).st = .ready ∧ (t.slot p c.first).desc = (s.slot p c.first).desc ∧
        (t.slot p c.first).readyAt = s.now ∧ ∀ n, n ≠ c.first → t.slot p n = s.slot p n)) ∧
  (∀ (s : State) (p : Nat) (c : GraphCmd) (rest : List GraphCmd) (errs : Errs), s.dead = false → p < 8 →
    (s.sc p).loads = c :: rest →
    let x := readDescs p c.tier c.addr c.first c.count 0 ((s.finds errs).setSc p { s.sc p with loads := rest })
    (∀ ds, x.1 = .ok ds → x.2.mem.wait = false → ds.length = c.count →
      (∀ i, i < c.count → (s.slot p (c.first + i)).held = 0) →
      Goes (.loadCommit p errs) s fun t =>
        (t.sc p).loads = rest ∧
        ∀ i, i < c.count →
          let o := t.slot p (c.first + i)
          o.desc = ds.getD i [] ∧ o.run = bits ((ds.getD i []).getD 1 0) 63 48 ∧ o.count = o.dep ∧ o.bank = 0 ∧
          o.st = (if o.dep = 0 then .ready else .waiting)) ∧
    (x.2.mem.wait = true → Goes (.loadCommit p errs) s fun t => t = s)) ∧
  (∀ (s : State) (m p v : Nat), s.dead = false → okMaster m = true → p < 8 → v < 2 ^ 32 → bit v 31 = true →
    (regDefAt (pSCH p) R.SCH_CMD_GO).any (fun d => defRes0Ok d v) = true →
    s.reaches m (pSCH p) = true → s.mayWrite m (pSCH p) = true → s.rstBusy (pSCH p) = false →
    (s.f (pSCH p) F.SCH_CMD_STS_BUSY = 0 → s.takesCmds p = true → s.qfree p ≠ 0 →
      Goes (.schCmdGo m p v) s fun t =>
        t.f (pSCH p) F.SCH_CMD_STS_BUSY = 1 ∧
        (t.sc p).cmdQ = (s.sc p).cmdQ ++ [{
          bytes := (List.range 8).flatMap (fun w => leBytes 4 (s.w (pSCH p) (R.SCH_CMD_W + 4 * w))), src := .reg (v % 65536) }] ∧
        (t.sc p).slots = (s.sc p).slots ∧ t.mem = s.mem) ∧
    (s.f (pSCH p) F.SCH_CMD_STS_BUSY = 0 → (s.takesCmds p = false ∨ s.qfree p = 0) →
      Goes (.schCmdGo m p v) s fun t => t.f (pSCH p) F.PG_WREJ_OFS_CODE = 0x12 ∧ t.sch = s.sch) ∧
    (s.f (pSCH p) F.SCH_CMD_STS_BUSY = 1 →
      Goes (.schCmdGo m p v) s fun t => t.f (pSCH p) F.PG_WREJ_OFS_CODE = 0x11 ∧ t.sch = s.sch)) ∧
  (∀ (s : State) (m p v : Nat), s.dead = false → okMaster m = true → p < 8 → v < 2 ^ 32 →
    (regDefAt (pSCH p) R.SCH_FLOWCFG).any (fun d => defRes0Ok d v) = true → 1 ≤ bits v 8 0 → bits v 8 0 ≤ 256 →
    s.reaches m (pSCH p) = true → s.mayWrite m (pSCH p) = true → s.rstBusy (pSCH p) = false →
    let n := s.f (pSCH p) F.SCH_FLOWSEL_FLOW
    (s.flowRes p n = 0 → s.inSvc p n = 0 →
      Goes (.flowcfgWrite m p v) s fun t =>
        t.flow p n = { s.flow p n with en := bit v 31, ordered := bit v 30, hold := bit v 29, win := bits v 8 0 } ∧
        (∀ j, j ≠ n → t.flow p j = s.flow p j) ∧ { t with sch := s.sch } = s) ∧
    (s.flowRes p n ≠ 0 → (s.flow p n).ordered ≠ bit v 30 →
      Goes (.flowcfgWrite m p v) s fun t =>
        t.f (pSCH p) F.PG_WREJ_OFS_CODE = 0x11 ∧ OnlyRegsEv (refusedRegs (pSCH p)) s t))

/-- R409 to R417, R419 to R427, R435 to R453, R458 to R461: an eligible operation of the least priority is granted
and delivered; its completion releases it to its successors; DELAY, EPOCH, MOVE and RESHARD run, and complete once
their writes have been acknowledged. Where the spec leaves a choice it follows the model's: log entries 38, 39, 40.
-/
def Obligations.OperationsAreGrantedCompletedAndReleased : Prop :=
  (∀ (s : State) (p : Nat) (errs : Errs), s.dead = false → p < 8 → s.pickOp p = none →
    Goes (.grant p errs) s fun t => Waits s t) ∧
  (∀ (s : State) (p n : Nat) (o : OpSlot), s.pickOp p = some (n, o) →
    o.st = .ready ∧ s.grants p = true ∧ s.flowOpen p o.flow = true ∧
    ∀ x, x ∈ s.eligible p → s.effPrio p o ≤ s.effPrio p x.2) ∧
  (∀ (s : State) (p n : Nat) (o : OpSlot) (e : Exec) (errs : Errs), s.dead = false → p < 8 → s.pickOp p = some (n, o) →
    s.pickExec p o = some e →
    let desc := s.readBytes (s.slotFor p) (ptrTier (o.arg 0)) (ptrAddr (o.arg 0)) 64
    let code := s.accessCode p (ptrTier (o.arg 0)) (ptrAddr (o.arg 0)) 64
    (∀ c, e = .core c → o.cls ≠ 3 →
      Goes (.grant p errs) s fun t =>
        t.slot p n = { o with
          st := .running, exec := some e, fin := false, heldRel := false, drain := false
          tag := s.f (pCORE c) F.CORE_PIMG_TAG, iss := s.issue (pCORE c) } ∧
        (∃ h, (t.core c).op = some h ∧ h.part = p ∧ h.slot = n ∧ h.opid = o.opid ∧ h.cls = o.cls) ∧
        (t.core c).inGet = false ∧ (t.core c).tally = [] ∧
        (clsTile o.cls = true → (t.core c).pc = o.entry ∧
          ∀ i, i < 4 → (t.core c).idx.get (12 + i) 0 = o.arg i % 2 ^ 64) ∧
        ∀ d, d ≠ c → t.core d = s.core d) ∧
    (e = .sched → o.cls = cDELAY →
      Goes (.grant p errs) s fun t =>
        (t.slot p n).st = .running ∧
        (t.sc p).delay = insertDelay (ceilDiv s.now (1000 * 2 ^ s.f (pSCH p) F.SCH_TICK_N) * (1000 * 2 ^ s.f (pSCH p) F.SCH_TICK_N)
          + bits (o.arg 0) 31 0 * (1000 * 2 ^ s.f (pSCH p) F.SCH_TICK_N)) n (s.sc p).delay) ∧
    (∀ i, e = .token i →
      Goes (.grant p errs) s fun t => (t.slot p n).st = .running ∧ (t.eng i).held = (s.eng i).held.filter (· != (p, n)) ++ [(p, n)]) ∧
    (∀ d, e = .mig d → code = 0 → anyMark desc = false →
      Goes (.grant p []) s fun t =>
        (t.slot p n).st = .running ∧ (t.slot p n).exec = some e ∧ (t.slot p n).copy = dataOf desc ∧ t.mop p n = {}) ∧
    (∀ d, e = .mig d → code = 0x12 → Goes (.grant p errs) s fun t => Waits s t) ∧
    (∀ d, e = .ckp d →
      Goes (.grant p errs) s fun t =>
        (t.slot p n).st = .running ∧ t.f (pCKP 0) F.CKP_STS_BUSY = 1 ∧
        t.ckp.run.map (fun r => (r.part, r.who, r.tag)) = some (p, .op n, o.arg 3 % 2 ^ 64)) ∧
    (e = .sched → (s.flow p o.flow).ordered = true →
      Goes (.grant p errs) s fun t =>
        (t.flow p o.flow).nextSeq = (s.flow p o.flow).nextSeq + 1 ∧
        (t.sc p).rel = (s.sc p).rel ++ [{ flow := o.flow, seq := (s.flow p o.flow).nextSeq, slot := n }])) ∧
  (∀ (s : State) (p n : Nat) (errs : Errs), s.dead = false → p < 8 → n < 65536 →
    let o := s.slot p n
    let q := s.sc p
    ((s.slot p n).fin = false → Goes (.completion p n errs) s fun t => Waits s t) ∧
    (o.fin = true → o.st = .running → o.heldRel = false → (s.flow p o.flow).ordered = false →
      (o.persist = false → Goes (.completion p n errs) s fun t => t.slot p n = {}) ∧
      (bits (o.dw 2) 49 48 = 0 → bits (o.dw 3) 63 52 = 0 → (∀ e, e ∈ q.links → e.1 ≠ n) →
        Goes (.completion p n errs) s fun t =>
          (∀ j, j ≠ n → t.slot p j = s.slot p j) ∧
          (o.persist = true → (t.slot p n).run = (o.run + 1) % 65536 ∧ (t.slot p n).count = o.dep - o.bank ∧
            (t.slot p n).bank = 0 ∧ (t.slot p n).desc = o.desc ∧
            (t.slot p n).st = (if o.dep - o.bank = 0 then .ready else .waiting))) ∧
      (bits (o.dw 2) 49 48 = 1 → bits (o.dw 3) 63 52 = 0 → (∀ e, e ∈ q.links → e.1 ≠ n) → bits (o.dw 2) 15 0 ≠ n →
        (s.slot p (bits (o.dw 2) 15 0)).st = .waiting →
        Goes (.completion p n errs) s fun t =>
          (1 < (s.slot p (bits (o.dw 2) 15 0)).count →
            t.slot p (bits (o.dw 2) 15 0) =
              { s.slot p (bits (o.dw 2) 15 0) with count := (s.slot p (bits (o.dw 2) 15 0)).count - 1 }) ∧
          ((s.slot p (bits (o.dw 2) 15 0)).count = 1 → (t.slot p (bits (o.dw 2) 15 0)).st = .ready))) ∧
    (o.fin = true → o.st = .running → o.heldRel = false → (s.flow p o.flow).ordered = true →
      (∀ r, r ∈ q.rel → r.flow = o.flow → r.seq = (s.flow p o.flow).nextRel → r.st = .running ∧ r.slot ≠ n) →
      Goes (.completion p n errs) s fun t => t.slot p n = { o with heldRel := true, drain := false } ∧ ∀ j, j ≠ n → t.slot p j = s.slot p j)) ∧
  (∀ (s : State) (p n code : Nat) (errs : Errs), s.dead = false → p < 8 → n < 65536 → code < 256 →
    (s.slot p n).st = .running → (s.slot p n).heldRel = false → (s.slot p n).frel = false →
    (s.flow p (s.slot p n).flow).ordered = false →
    ((s.slot p n).exec = some .sched →
      Goes (.operationFault p n code none errs) s fun t =>
        (t.slot p n).st = .faulted ∧ (t.sc p).delay = (s.sc p).delay.filter (fun e => e.2 != n) ∧
        ∀ j, j ≠ n → t.slot p j = s.slot p j) ∧
    (∀ c h, (s.slot p n).exec = some (.core c) → (s.core c).op = some h → h.part = p → h.slot = n →
      Goes (.operationFault p n code none errs) s fun t =>
        (t.slot p n).st = .faulted ∧ t.dropped c ∧
        ∀ d, d ≠ c → h.bwait.map (·.1) ≠ some d → t.core d = s.core d)) ∧
  (∀ (s : State) (p d n : Nat) (rest : List (Nat × Nat)) (errs : Errs), s.dead = false → p < 8 →
    (s.sc p).delay = (d, n) :: rest →
    ((s.sc p).frozen = true ∨ s.now < d → Goes (.delayExpiry p errs) s fun t => Waits s t) ∧
    ((s.sc p).frozen = false → d ≤ s.now →
      let u := completed p n ((s.finds errs).setSc p { s.sc p with delay := rest })
      u.mem.wait = false → Goes (.delayExpiry p errs) s fun t => t.sch = u.sch ∧ SameMem u t)) ∧
  (∀ (s : State) (p n : Nat) (o : OpSlot) (errs : Errs), s.dead = false → p < 8 →
    (s.sc p).slots.find? (fun e => e.2.cls == cEPOCH && e.2.st == .running && !e.2.heldRel) = some (n, o) →
    (s.drained p n = false → Goes (.epochApply p errs) s fun t => Waits s t) ∧
    (s.drained p n = true → ptrTier (o.arg 0) = 0 → (∀ k, k < 48 → bit (o.arg 1) k = false) →
      let u := completed p n (epochDone p (s.finds errs))
      u.mem.wait = false →
      Goes (.epochApply p errs) s fun t =>
        t.sch = u.sch ∧ SameMem u t ∧
        ∀ k, k ∈ s.unitsOf resClu p → (s.lpfBusy k = true ∨ s.f (pCLU k) F.CLU_LPF_STS_SWAP_PEND = 1) →
          (t.clu k).epochSeen = true)) ∧
  (∀ (s s1 u : State) (c : Nat) (h h1 : HeldOp) (errs : Errs) (res : PlanRes), s.dead = false → okCore c = true →
    (s.core c).op = some h → s.hasFetch c = true → s.fenced (pCORE c) = false → h.ent = [] →
    let o := s.slot h.part h.slot
    let e := planEnt h1.ent
    let y := u.setCore c { u.core c with op := some { h1 with ofs := e.len, bwait := none } }
    let x := y.setCore c { y.core c with op := some { h1 with next := h.next + 1, ent := [], ofs := 0, bwait := none } }
    let v := completed h.part h.slot x
    o.nent = h.next + 1 → planFetch c o h (s.finds errs) = (.done, s1) → (s1.core c).op = some h1 →
    planLen e 0 = e.len → e.len ≠ 0 → planPiece c h.part h.slot e 0 e.len s1 = (res, u) → (u.tq c 3).reqs = [] →
    let ends (t : State) : Prop := (t.core c).op = none ∧ (t.core c).inGet = true ∧ SameMem v t ∧ t.sch = v.sch ∧
      (o.st = .running → o.heldRel = false → o.persist = false → (s.flow h.part o.flow).ordered = false →
        t.slot h.part h.slot = {})
    let stays (t : State) : Prop := (t.core c).op = some h1 ∧ SameMem s1 t ∧ t.sch = s1.sch
    (res = .done → v.mem.wait = false →
      (h.cls = cMOVE → Goes (.move c errs) s ends) ∧ (h.cls = cRESHARD → Goes (.reshard c errs) s ends)) ∧
    (res = .wait → s1.mem.wait = false →
      (h.cls = cMOVE → Goes (.move c errs) s stays) ∧ (h.cls = cRESHARD → Goes (.reshard c errs) s stays))) ∧
  (∀ (s : State) (c : Nat) (h : HeldOp) (errs : Errs), s.dead = false → okCore c = true → (s.core c).op = some h →
    (s.slot h.part h.slot).nent ≤ h.next → (s.tq c 3).reqs ≠ [] →
    (h.cls = cMOVE → Goes (.move c errs) s fun t => Waits s t) ∧
    (h.cls = cRESHARD → Goes (.reshard c errs) s fun t => Waits s t))

/-- R465 to R478, R482, R492 to R495, R517: TOKENIZE writes its tokens and carries an incomplete character over,
which its completion gives the stream; a vocabulary is loaded and checked; slots and streams change only while
nothing uses them. Where the spec leaves a choice it follows the model's: log entries 44, 45. -/
def Obligations.TokenizingFollowsItsVocabulary : Prop :=
  (∀ (s s1 s2 u : State) (p n e : Nat) (d : List Byte) (a : TokAcc) (errs : Errs), s.dead = false → p < 8 → n < 65536 →
    s.tokOf p n 8 = some e → s.tokStartCode e p n = 0 →
    let o := s.slot p n
    let st := s.strm e o.strm
    let cin := if o.start then [] else st.carry
    tokRead e p (ptrTier (o.arg 1)) (ptrAddr (o.arg 1)) o.inLen (s.finds errs) = (.ok d, s1) →
    tokLoop e p (s.vslot e st.vslot) o.end_ ((cin ++ d).length + 1) 0 [] (cin ++ d) {} s1 = (.ok a, s2) →
    a.toks.length ≤ o.cap →
    tokWrite e p n (tokHeader o cin.length a 0 ++ a.toks.flatMap (leBytes 4)) s2 = (0, u) → u.mem.wait = false →
    Goes (.tokenize p n errs) s fun t =>
      Finishes p n e { st with carry := a.carry, tok := min (2 ^ 64 - 1) (st.tok + a.toks.length),
                               inv := min (2 ^ 32 - 1) (st.inv + a.ninv) } s t ∧
      SameMem u t ∧ (t.eng e).slots = (s.eng e).slots ∧ (t.eng e).held = (s.eng e).held) ∧
  (∀ (s : State) (p n e : Nat) (errs : Errs), s.dead = false → p < 8 → n < 65536 → s.tokOf p n 8 = some e →
    s.tokStartCode e p n ≠ 0 → (s.slot p n).frel = false → (s.flow p (s.slot p n).flow).ordered = false →
    Goes (.tokenize p n errs) s fun t => (t.slot p n).st = .faulted ∧ (t.eng e).streams = (s.eng e).streams ∧
      (t.eng e).slots = (s.eng e).slots ∧ (t.eng e).held = (s.eng e).held.filter (· != (p, n))) ∧
  (∀ (s : State) (p n e : Nat) (x : TokAfter) (errs : Errs), s.dead = false → p < 8 → n < 65536 →
    let o := s.slot p n
    o.st = .running → o.heldRel = false → o.fin = true → o.exec = some (.token e) →
    (s.eng e).after.find? (fun x => x.part == p && x.slot == n) = some x →
    Goes (.completion p n errs) s fun t =>
      t.strm e o.strm = x.strm ∧ (∀ j, j ≠ o.strm → t.strm e j = s.strm e j) ∧
      (t.eng e).held = (s.eng e).held.filter (· != (p, n)) ∧ (t.eng e).slots = (s.eng e).slots) ∧
  (∀ (s : State) (m e : Nat), s.dead = false → okMaster m = true → e < 4 → s.reaches m (pTOK e) = true →
    s.mayWrite m (pTOK e) = true → s.rstBusy (pTOK e) = false →
    let n := s.vsel e
    ((s.vslot e n).busy = false → (s.vslot e n).size ≠ 0 → s.heldBound e n = false →
      Goes (.vocabLoad m e) s fun t =>
        (t.vslot e n).busy = true ∧ (t.vslot e n).valid = false ∧ (t.vslot e n).err = false ∧
        (t.vslot e n).owner = (s.vslot e n).owner ∧ (t.vslot e n).iss = s.issue (pTOK e) ∧ (t.vslot e n).tier = s.f (pTOK e) F.TOK_VLD_SRC_LO_TIER ∧
        (t.vslot e n).addr = s.f (pTOK e) F.TOK_VLD_SRC_LO_ADDR * 64 + s.f (pTOK e) F.TOK_VLD_SRC_HI_ADDR * 2 ^ 32 ∧
        (∀ j, j ≠ n → t.vslot e j = s.vslot e j) ∧ t.mem = s.mem) ∧
    ((s.vslot e n).busy = true ∨ (s.vslot e n).size = 0 ∨ s.heldBound e n = true →
      Goes (.vocabLoad m e) s fun t =>
        t.f (pTOK e) F.PG_WREJ_OFS_CODE = 0x11 ∧ OnlyRegsEv (refusedRegs (pTOK e)) s t)) ∧
  (∀ (s s1 s2 : State) (e n : Nat) (h body : List Byte) (errs : Errs), s.dead = false → e < 4 → n < 4 →
    let v := s.vslot e n
    v.busy = true → s.holds v.owner v.tier v.addr 64 = true →
    tokRead e v.owner v.tier v.addr 64 (s.finds errs) = (.ok h, s1) → s1.mem.wait = false →
    (fieldOf h 4 1 ≠ 2 → hashHdrOk h (v.size * 65536) = true → s.holds v.owner v.tier v.addr (hashSize h) = true →
      tokRead e v.owner v.tier (v.addr + 64) (hashSize h - 64) s1 = (.ok body, s2) → s2.mem.wait = false →
      Goes (.vocabLoadDone e n errs) s fun t =>
        t.vslot e n = (if hashBodyOk (h ++ body) then
            { v with busy := false, valid := true, err := false, code := 0, kind := 1, img := h ++ body }
          else { v with busy := false, valid := false, err := true, code := 0x04, kind := 0, img := [] })) ∧
    (fieldOf h 4 1 = 2 → trieHdrOk h = true → v.tier = 1 → s.holds v.owner 1 v.addr (imgSize h) = true →
      Goes (.vocabLoadDone e n errs) s fun t =>
        t.vslot e n = { v with busy := false, valid := true, err := false, code := 0, kind := 2, img := h }) ∧
    (fieldOf h 4 1 = 2 → trieHdrOk h = false ∨ v.tier ≠ 1 →
      Goes (.vocabLoadDone e n errs) s fun t =>
        t.vslot e n = { v with busy := false, valid := false, err := true, code := 0x04, kind := 0, img := [] } ∧
        t.f (pTOK e) F.PG_ERR_CNT_LAST = 0x04)) ∧
  (∀ (s : State) (m e v : Nat), s.dead = false → okMaster m = true → e < 4 → v < 2 ^ 32 → s.reaches m (pTOK e) = true →
    s.mayWrite m (pTOK e) = true → s.rstBusy (pTOK e) = false →
    (regDefAt (pTOK e) R.TOK_VSLOT).any (fun d => defRes0Ok d v) = true → bits v 31 28 < 8 →
    bits v 8 0 < 320 → bits v 8 0 + bits v 24 16 ≤ 320 →
    let n := s.vsel e
    (∀ k, k < 4 → k ≠ n → (s.vslot e k).size = 0) →
    ((s.vslot e n).busy = false → s.enBound e n = false → (s.eng e).stops = [] →
      Goes (.tokVslotWrite m e v) s fun t =>
        (t.vslot e n).owner = bits v 31 28 ∧ (t.vslot e n).size = bits v 24 16 ∧ (t.vslot e n).base = bits v 8 0 ∧
        (t.vslot e n).valid = false ∧ (∀ j, j ≠ n → t.vslot e j = s.vslot e j) ∧
        (∀ j, t.strm e j = s.strm e j) ∧ t.mem = s.mem) ∧
    (s.enBound e n = true → (s.vslot e n).owner ≠ bits v 31 28 →
      Goes (.tokVslotWrite m e v) s fun t =>
        t.f (pTOK e) F.PG_WREJ_OFS_CODE = 0x11 ∧ OnlyRegsEv (refusedRegs (pTOK e)) s t)) ∧
  (∀ (s : State) (m e v : Nat), s.dead = false → okMaster m = true → e < 4 → v < 2 ^ 32 → s.reaches m (pTOK e) = true →
    s.mayWrite m (pTOK e) = true → s.rstBusy (pTOK e) = false →
    (regDefAt (pTOK e) R.TOK_STRM_CTL).any (fun d => defRes0Ok d v) = true → bits v 19 16 < 8 →
    let n := s.ssel e
    let st := s.strm e n
    (s.strmHeld e n = false → (bit v 31 = true → (s.vslot e (bits v 1 0)).owner = bits v 19 16) →
      Goes (.tokStrmCtlWrite m e v) s fun t =>
        t.strm e n = { st with
          en := bit v 31, owner := bits v 19 16, vslot := bits v 1 0
          carry := if bit v 31 = st.en then st.carry else []
          tok := if bit v 31 && !st.en then 0 else st.tok, inv := if bit v 31 && !st.en then 0 else st.inv } ∧
        ∀ j, j ≠ n → t.strm e j = s.strm e j) ∧
    (s.strmHeld e n = true → st.en ≠ bit v 31 →
      Goes (.tokStrmCtlWrite m e v) s fun t =>
        t.f (pTOK e) F.PG_WREJ_OFS_CODE = 0x11 ∧ OnlyRegsEv (refusedRegs (pTOK e)) s t))

/-- R496 to R512, R516, R517: DETOKENIZE releases bytes up to a stop string and holds what may begin one; CONSTRAIN
masks what the automaton does not permit, or advances it; a stop set is loaded and checked. Where the spec leaves a
choice it follows the model's: log entry 44. -/
def Obligations.DetokenizingStopsAndConstrains : Prop :=
  (∀ (s : State) (p n e : Nat) (errs : Errs), s.dead = false → p < 8 → n < 65536 → s.tokOf p n 9 = some e →
    s.tokStartCode e p n = 0 →
    let o := s.slot p n
    let st := s.strm e o.strm
    let sb := s.stopBlk e (bits st.dctl 8 0)
    (bit st.dctl 31 = true → sb.valid = true ∧ sb.owner = p) →
    (∀ (s1 u : State) (a : DetAcc), o.start = false → st.stopped = false → o.end_ = false →
      detLoop e p o st (s.vslot e st.vslot) (if bit st.dctl 31 then sb.strs else []) o.inLen 0 { hold := st.hold }
        (s.finds errs) = (.ok a, s1) →
      a.out.length ≤ o.cap →
      tokWrite e p n (detHeader o a (st.stopped || a.stop.isSome) false 0 ++ a.out) s1 = (0, u) → u.mem.wait = false →
      Goes (.detokenize p n errs) s fun t => SameMem u t ∧
        Finishes p n e
          { st with hold := a.hold, stopped := a.stop.isSome, pos := (st.pos + a.out.length) % 2 ^ 64 } s t) ∧
    (∀ u : State, o.start = false → st.stopped = true →
      tokWrite e p n (detHeader o { hold := st.hold } true false 0) (s.finds errs) = (0, u) → u.mem.wait = false →
      Goes (.detokenize p n errs) s fun t =>
        SameMem u t ∧ Finishes p n e { st with pos := st.pos % 2 ^ 64 } s t)) ∧
  (∀ (strs : List (List Byte)) (b : List Byte) (at_ x : Nat), firstStop strs b = some (at_, x) →
    (strs.getD x []) ≠ [] ∧ occursAt b (strs.getD x []) at_ = true ∧
    ∀ y st, y < strs.length → (strs.getD y []) ≠ [] → occursAt b (strs.getD y []) st = true →
      at_ + (strs.getD x []).length ≤ st + (strs.getD y []).length) ∧
  (∀ (strs : List (List Byte)) (b : List Byte), firstStop strs b = none →
    ∀ y st, y < strs.length → (strs.getD y []) ≠ [] → occursAt b (strs.getD y []) st = false) ∧
  (∀ (s s1 s2 u : State) (p n e : Nat) (h : List Byte) (acc : Bool) (rs : List AutRange) (errs : Errs), s.dead = false → p < 8 →
    n < 65536 → s.conOf p n false = some e → s.tokStartCode e p n = 0 →
    let o := s.slot p n
    let st0 := s.strm e o.strm
    let ntok := imgNtok (s.vslot e st0.vslot).img
    bit st0.caut 63 = true → bits (o.arg 0) 15 14 = 0 → o.inLen = 0 → autHeader e p st0 ntok (s.finds errs) = (.ok h, s1) →
    (o.start = true ∨ st0.cstarted = true) →
    let st := if o.start then { st0 with cstate := fieldOf h 16 4, cstarted := true } else st0
    autFull e p st h st.cstate s1 = (.ok (acc, rs), s2) →
    (rs ≠ [] → (maskBits rs ntok).length ≤ o.cap →
      tokWrite e p n (conHeader o ((List.range ntok).filter (fun t => (rangeFor rs t).isSome)).length st.cstate acc 0
        ++ maskBits rs ntok) s2 = (0, u) → u.mem.wait = false →
      Goes (.constrainMask p n errs) s fun t => SameMem u t ∧ Finishes p n e st s t) ∧
    (rs = [] → o.frel = false → (s.flow p o.flow).ordered = false → s2.mem.wait = false →
      Goes (.constrainMask p n errs) s fun t =>
        (t.slot p n).st = .faulted ∧ (t.eng e).streams = (s.eng e).streams)) ∧
  (∀ (s s1 s2 s3 u : State) (p n e q ofs nr : Nat) (h : List Byte) (acc : Bool) (errs : Errs), s.dead = false → p < 8 →
    n < 65536 → s.conOf p n true = some e → s.tokStartCode e p n = 0 →
    let o := s.slot p n
    let st0 := s.strm e o.strm
    bit st0.caut 63 = true → autHeader e p st0 (imgNtok (s.vslot e st0.vslot).img) (s.finds errs) = (.ok h, s1) →
    (o.start = true ∨ st0.cstarted = true) →
    let st := if o.start then { st0 with cstate := fieldOf h 16 4, cstarted := true } else st0
    advLoop e p o st h o.inLen 0 st.cstate s1 = (.ok q, s2) → autState e p st h q s2 = (.ok (acc, ofs, nr), s3) →
    tokWrite e p n (conHeader o o.inLen q acc 0) s3 = (0, u) → u.mem.wait = false →
    Goes (.constrainAdvance p n errs) s fun t => SameMem u t ∧ Finishes p n e { st with cstate := q } s t) ∧
  (∀ (s : State) (m e own blk : Nat), s.dead = false → okMaster m = true → e < 4 → own < 8 → blk < 320 →
    s.reaches m (pTOK e) = true → s.mayWrite m (pTOK e) = true → s.rstBusy (pTOK e) = false →
    (s.stopBusy e = false → (∀ k, k < 4 → (s.vslot e k).size = 0) → (∀ x, x ∈ (s.eng e).streams → x.2.en = false) →
      Goes (.stopSetLoad m e own blk) s fun t =>
        t.stopBlk e blk = {
          owner := own, busy := true, iss := s.issue (pTOK e), tier := s.f (pTOK e) F.TOK_SLD_SRC_LO_TIER
          addr := s.f (pTOK e) F.TOK_SLD_SRC_LO_ADDR * 64 + s.f (pTOK e) F.TOK_SLD_SRC_HI_ADDR * 2 ^ 32 } ∧
        (∀ j, j ≠ blk → t.stopBlk e j = s.stopBlk e j) ∧ t.mem = s.mem) ∧
    (s.stopBusy e = true →
      Goes (.stopSetLoad m e own blk) s fun t =>
        t.f (pTOK e) F.PG_WREJ_OFS_CODE = 0x11 ∧ OnlyRegsEv (refusedRegs (pTOK e)) s t)) ∧
  (∀ (s s1 : State) (e blk : Nat) (b : List Byte) (errs : Errs), s.dead = false → e < 4 → blk < 320 →
    let v := s.stopBlk e blk
    v.busy = true → s.holds v.owner v.tier v.addr 16704 = true → tokRead e v.owner v.tier v.addr 16704 (s.finds errs) = (.ok b, s1) →
    s1.mem.wait = false →
    Goes (.stopSetLoadDone e blk errs) s fun t =>
      t.stopBlk e blk = (match stopImage b with
        | some strs => { v with busy := false, valid := true, err := false, code := 0, strs := strs }
        | none => { v with busy := false, valid := false, err := true, code := 0x04, strs := [] }) ∧
      ∀ j, j ≠ blk → t.stopBlk e j = s.stopBlk e j)

/-- R49, R52, R54, R55, R255, R644, R662, Table 18-1: a handshake that times out, not before its time, is abandoned
and logged, and what depended on it faults; what arrives late is discarded, and a responder that collects too many
timeouts is held; an SRAM error in a scheduler's state holds its page. Where the spec leaves a choice it follows the
model's: log entries 74, 82, 90. -/
def Obligations.HandshakeTimeoutsAreLoggedAndCounted : Prop :=
  (∀ (s : State) (c resp : Nat) (x : Pld), s.dead = false → okCore c = true → resp < 16384 → (s.core c).pld = some x →
    let old := (s.ras.tmos.get resp []).filter (fun u => decide (s.now < u + s.f pRAS F.RAS_ESC_CFG_WIN_US * 1000))
    (s.expired (pCORE c) x.iss = false → Goes (.handshakeTimeout (.load c) resp) s fun t => Waits s t) ∧
    (s.expired (pCORE c) x.iss = true →
      Goes (.handshakeTimeout (.load c) resp) s fun t =>
        t.ras.abandoned = s.ras.abandoned ++ [.load c] ∧ (t.core c).pld = none ∧
        t.f (pCORE c) F.CORE_PLD_STS_BUSY = 0 ∧ t.f (pCORE c) F.CORE_PLD_STS_ERR = 1 ∧
        t.f (pCORE c) F.CORE_PLD_STS_CODE = 0x03 ∧ t.f (pCORE c) F.PG_ERR_CNT_LAST = 0x03 ∧
        (∀ d, d ≠ c → t.core d = s.core d) ∧ SameMem s t ∧
        (old.length + 1 < s.f pRAS F.RAS_ESC_CFG_TMO_THR → t.ras.tmos.get resp [] = s.now :: old ∧ t.ras.log = s.ras.log) ∧
        (s.f pRAS F.RAS_ESC_CFG_TMO_THR ≤ old.length + 1 → s.ras.log.length < 256 →
          t.f resp F.PG_CTL_HOLD = 1 ∧ t.f pRAS F.PG_ERR_CNT_LAST = 0x03 ∧ t.ras.tmos.get resp [] = [] ∧
          ∃ e, t.ras.log = s.ras.log ++ [e] ∧ e.kind = 8 ∧ e.page = resp))) ∧
  (∀ (s : State) (c q resp : Nat) (r : TqReq), s.dead = false → okCore c = true → resp < 16384 → r.tier < 4 →
    (s.tq c q).reqs.find? (fun x => x.id == r.id) = some r →
    (s.expired (pCORE c) r.iss = false → Goes (.handshakeTimeout (.tq c q r.id) resp) s fun t => Waits s t) ∧
    (s.expired (pCORE c) r.iss = true → Goes (.handshakeTimeout (.tq c q r.id) resp) s fun t => t.dropped c)) ∧
  (∀ (s : State) (p n resp : Nat), s.dead = false → p < 8 → n < 65536 → resp < 16384 →
    let o := s.slot p n
    o.bulk = true → o.frel = false → (s.flow p o.flow).ordered = false →
    (s.expired (execPage p o.exec) o.iss = false → Goes (.handshakeTimeout (.op p n) resp) s fun t => Waits s t) ∧
    (s.expired (execPage p o.exec) o.iss = true → (∀ c, o.exec ≠ some (.core c)) →
      Goes (.handshakeTimeout (.op p n) resp) s fun t => (t.slot p n).st = .faulted)) ∧
  (∀ (s : State) (id resp : Nat) (x : BridgeXfer), s.dead = false → resp < 16384 →
    s.bridge.inFlight.find? (fun y => y.id == id) = some x → x.die < 2 →
    (s.expired (pBRG x.die) x.iss = false → Goes (.handshakeTimeout (.bridge id) resp) s fun t => Waits s t) ∧
    (s.expired (pBRG x.die) x.iss = true → x.dep = none →
      Goes (.handshakeTimeout (.bridge id) resp) s fun t =>
        (∀ y ∈ t.bridge.inFlight, y.id ≠ id) ∧ t.f (pBRG x.die) F.PG_ERR_CNT_LAST = 0x03 ∧
        t.bridge.used.get (x.die * 3 + x.cls) 0 = s.bridge.used.get (x.die * 3 + x.cls) 0 - 1)) ∧
  (∀ (s : State) (hs : Hs), s.dead = false →
    (Goes (.lateAck hs) s fun t => t = { s with ras := { s.ras with abandoned := s.ras.abandoned.erase hs } }) ∧
    (Goes (.lateDataDiscard hs) s fun t => t = { s with ras := { s.ras with abandoned := s.ras.abandoned.erase hs } })) ∧
  (∀ (s : State) (p n code : Nat) (errs : Errs), s.dead = false → p < 8 → n < 65536 → code < 256 →
    Goes (.operationFault p n code (some .sched) errs) s fun t =>
      t.f (pSCH p) F.PG_CTL_HOLD = 1 ∧ t.f (pSCH p) F.PG_ERR_CNT_LAST = 0x07 ∧
      t.f pRAS F.RAS_CNT_SRAM_UE_CNT =
        min (2 ^ (F.RAS_CNT_SRAM_UE_CNT.hi + 1 - F.RAS_CNT_SRAM_UE_CNT.lo) - 1) (s.f pRAS F.RAS_CNT_SRAM_UE_CNT + 1) ∧
      (t.sc p).slots = (s.sc p).slots ∧ SameMem s t)

/-- R648 to R652: the scrubber visits its next line; a clean line is left as it is, a corrected error is counted and
recorded, and an uncorrectable one poisons the line of its holder. R656 to R658: the row at the head of a
controller's queue moves to the next spare row, or waits again behind a bad spare, or is left with EXHAUST set when
none is left. Where the spec leaves a choice it follows the model's: log entries 63, 80. -/
def Obligations.ScrubbingFindsAndRecords : Prop :=
  (∀ (s : State) (pg ofs : Nat) (ecc : Ecc), s.dead = false → pg < 16384 → ctlTier pg ≠ 0 → s.fenced pg = false →
    s.takesWork pg = true → s.scrubEn (ctlTier pg) = true → ofs < s.scrubBytes pg → ofs = (s.ctl pg).scrubNext →
    (ctlTier pg = 3 → s.f pg F.FSC_HP_STS_READY ≠ 0) →
    (s.line (memKey (ctlTier pg) (ctlBase pg + ofs))).poison = false →
    (∀ o, s.lineHolder (ctlTier pg) (ctlBase pg + ofs) = some o → o < 8 → (s.part o).st ≠ .resetting) →
    s.ras.log.length < 256 →
    Goes (.scrubLine pg ofs ecc false) s fun t =>
      (ecc = .clean → (t.ctl pg).scrubNext = (if ofs + 64 < s.scrubBytes pg then ofs + 64 else 0) ∧ t.mem = s.mem ∧
        t.ras = s.ras) ∧
      (ecc = .ce → t.mem = s.mem ∧
        t.f pRAS F.RAS_CNT_CE_CNT =
          min (2 ^ (F.RAS_CNT_CE_CNT.hi + 1 - F.RAS_CNT_CE_CNT.lo) - 1) (s.f pRAS F.RAS_CNT_CE_CNT + 1) ∧
        ∃ e ∈ t.ras.log, e.kind = 1 ∧ e.tier = ctlTier pg ∧ e.addr = ctlBase pg + ofs ∧ e.page = pg) ∧
      (ecc = .ue → ∀ o, s.lineHolder (ctlTier pg) (ctlBase pg + ofs) = some o →
        (t.line (memKey (ctlTier pg) (ctlBase pg + ofs))).poison = true ∧
        t.f pg F.PG_ERR_CNT_LAST = 0x07 ∧
        ∃ e ∈ t.ras.log, e.kind = 2 ∧ e.owner = o ∧ e.addr = ctlBase pg + ofs ∧ e.page = pg)) ∧
  (∀ (s : State) (pg row : Nat) (rest uncorr : List Nat) (bad : Bool), s.dead = false → pg < 16384 →
    (ctlTier pg = 1 ∨ ctlTier pg = 2) → s.fenced pg = false → s.takesWork pg = true → (s.ctl pg).repairQ = row :: rest →
    Goes (.rowRepair pg uncorr bad) s fun t =>
      ((s.ctl pg).spareUsed < spareRows pg → bad = false → uncorr = [] →
        (t.ctl pg).repairQ = rest ∧ (t.ctl pg).spareUsed = (s.ctl pg).spareUsed + 1 ∧
        (row, (s.ctl pg).spareUsed) ∈ (t.ctl pg).remap ∧
        t.f pRAS F.RAS_REPAIR_STS_QUEUED = s.f pRAS F.RAS_REPAIR_STS_QUEUED - 1 ∧ t.mem = s.mem ∧
        ∀ p, p ≠ pg → t.ctl p = s.ctl p) ∧
      ((s.ctl pg).spareUsed < spareRows pg → bad = true →
        (t.ctl pg).repairQ = rest ++ [row] ∧ (t.ctl pg).spareUsed = (s.ctl pg).spareUsed + 1 ∧
        { t with ctls := s.ctls, regs := s.regs, ev := s.ev } = s) ∧
      (spareRows pg ≤ (s.ctl pg).spareUsed →
        t.f pRAS F.RAS_REPAIR_STS_EXHAUST = 1 ∧ (t.ctl pg).repairQ = rest ∧ t.mem = s.mem))

/-- R661, R665: a memory controller, migration or checkpoint engine without started work that is fenced stays so,
and the history log gives its oldest entry. Where the spec leaves a choice it follows the model's: log entry 72. -/
def Obligations.FencingAndTheHistoryLog : Prop :=
  (∀ (s : State) (pg : Nat), s.dead = false → pg < 16384 → s.mayWrite oTormal pRAS = true → s.rstBusy pRAS = false →
    s.fenced pg = false → s.idle pg = true → s.ras.log.length < 256 →
    (∃ i, pageInfo pg = some (.nsc, i) ∨ pageInfo pg = some (.msc, i) ∨ pageInfo pg = some (.fsc, i) ∨
      pageInfo pg = some (.mig, i) ∨ pageInfo pg = some (.ckp, i)) →
    Goes (.rasFence oTormal pg) s fun t =>
      t.fenced pg = true ∧ (∀ j, j ≠ pg → t.fenced j = s.fenced j) ∧
      (∃ e, t.ras.log = s.ras.log ++ [e] ∧ e.kind = 9 ∧ e.page = pg) ∧
      OnlyRegsEv ([pRAS * 4096 + R.RAS_FENCE_VAL] ++ noted pRAS ++ noted pg) s { t with ras := s.ras }) ∧
  (∀ (s : State) (m pg : Nat), s.dead = false → okMaster m = true → pg < 16384 → s.reaches m pRAS = true →
    s.mayWrite m pRAS = true → fenceable pg = false →
    Goes (.rasFence m pg) s fun t =>
      t.f pRAS F.PG_WREJ_OFS_CODE = 0x01 ∧ t.ras.fenced = s.ras.fenced) ∧
  (∀ (s : State) (e : HistEntry) (es : List HistEntry), s.dead = false → s.mayWrite oTormal pRAS = true →
    s.rstBusy pRAS = false → s.ras.log = e :: es →
    Goes (.rasLogPop oTormal) s fun t =>
      t.ras.log = es ∧ (∀ w, w < 4 → t.w pRAS (R.RAS_LOG_W + 4 * w) = fieldOf e.bytes (4 * w) 4) ∧
      { t with regs := s.regs, ev := s.ev, ras := s.ras } = s) ∧
  (∀ s : State, s.dead = false → s.mayWrite oTormal pRAS = true → s.rstBusy pRAS = false → s.ras.log = [] →
    Goes (.rasLogPop oTormal) s fun t =>
      t.ras = s.ras ∧ ∀ w, w < 4 → t.w pRAS (R.RAS_LOG_W + 4 * w) = 0)

/-- R518 to R524, R558, R565, Tables 15-1, 15-2, 15-11: PAUSE makes a RUNNING partition PAUSING while the engines
are idle; it is PAUSED, its delay deadlines held as remaining times, once nothing of it is in flight; CKP_QTMO
abandons a pause; RESUME lets it run with the deadlines set again. Where the spec leaves a choice it follows the
model's: log entry 49. -/
def Obligations.PausesStartEndAndResume : Prop :=
  (∀ (s : State) (m p : Nat), s.dead = false → okMaster m = true → p < 8 → s.reaches m (pCKP 0) = true →
    s.mayWrite m (pCKP 0) = true → s.rstBusy (pCKP 0) = false →
    (s.ckp.run = none → s.enabled p = true → s.pauseSt p = 0 →
      Goes (.pause m p) s fun t =>
        t.pauseSt p = 1 ∧ t.ckp.run = some { op := 1, part := p } ∧ t.f (pCKP 0) F.CKP_STS_BUSY = 1 ∧
        SMap.get t.ckp.pauseAt p 0 = s.now ∧ { t with regs := s.regs, ev := s.ev, ckp := s.ckp } = s) ∧
    (s.ckp.run ≠ none ∨ s.enabled p = false ∨ s.pauseSt p ≠ 0 →
      Goes (.pause m p) s fun t =>
        t.f (pCKP 0) F.PG_WREJ_OFS_CODE = 0x11 ∧ t.f (pCKP 0) F.PG_STS_WREJ = 1 ∧ t.ckp = s.ckp ∧ t.mem = s.mem)) ∧
  (∀ (s : State) (p : Nat) (r : CkpRun), s.dead = false → p < 8 → s.enabled p = true → s.pauseSt p = 1 →
    s.quiet p none = true → s.ckp.run = some r → r.part = p → r.who = .cmd → r.op = 1 → r.ph = .pausing →
    s.member p = none →
    Goes (.pauseQuiesced p) s fun t =>
      t.pauseSt p = 2 ∧ t.ckp.run = none ∧ t.f (pCKP 0) F.CKP_STS_BUSY = 0 ∧
      t.f (pCKP 0) F.CKP_STS_CODE = 0 ∧ (t.sc p).frozen = true ∧
      (t.sc p).delay = (s.sc p).delay.map (fun e => (e.1 - s.now, e.2)) ∧ (t.sc p).slots = (s.sc p).slots ∧
      (∀ q, q ≠ p → t.sc q = s.sc q) ∧ t.mem = s.mem ∧ t.cores = s.cores) ∧
  (∀ (s : State) (p : Nat), s.dead = false → p < 8 →
    s.pauseSt p ≠ 1 ∨ s.enabled p = false ∨ s.quiet p (s.ckpSelf p) = false →
    Goes (.pauseQuiesced p) s fun t => t = s) ∧
  (∀ (s : State) (p : Nat) (r : CkpRun), s.dead = false → p < 8 → s.pauseSt p = 1 →
    SMap.get s.ckp.pauseAt p 0 + s.f (pCKP 0) F.CKP_QTMO_US * 1000 ≤ s.now →
    s.ckp.run = some r → r.part = p → r.who = .cmd → r.dom = false →
    Goes (.ckpQtmoExpiry p) s fun t =>
      t.pauseSt p = 0 ∧ t.ckp.run = none ∧ t.f (pCKP 0) F.CKP_STS_BUSY = 0 ∧ t.f (pCKP 0) F.CKP_STS_CODE = 0x11 ∧
      t.f (pCKP 0) F.PG_ERR_CNT_LAST = 0x11 ∧ t.sch = s.sch ∧ t.mem = s.mem ∧ t.cores = s.cores) ∧
  (∀ (s : State) (p : Nat), s.dead = false → p < 8 →
    s.pauseSt p ≠ 1 ∨ s.now < SMap.get s.ckp.pauseAt p 0 + s.f (pCKP 0) F.CKP_QTMO_US * 1000 →
    Goes (.ckpQtmoExpiry p) s fun t => t = s) ∧
  (∀ (s : State) (m p : Nat), s.dead = false → okMaster m = true → p < 8 → s.reaches m (pCKP 0) = true →
    s.mayWrite m (pCKP 0) = true → s.rstBusy (pCKP 0) = false →
    (s.pauseSt p = 2 → s.ckp.run = none →
      Goes (.resume m p false) s fun t =>
        t.pauseSt p = 0 ∧ t.f (pCKP 0) F.CKP_STS_CODE = 0 ∧ t.f (pCKP 0) F.CKP_STS_OP = 3 ∧
        t.member p = none ∧ (t.sc p).frozen = false ∧
        ((s.sc p).frozen = true → (t.sc p).delay = (s.sc p).delay.map (fun e => (s.now + e.1, e.2))) ∧
        (t.sc p).slots = (s.sc p).slots ∧ (∀ q, q ≠ p → t.sc q = s.sc q) ∧ t.mem = s.mem) ∧
    ∀ dom, s.pauseSt p ≠ 2 →
      Goes (.resume m p dom) s fun t => t.f (pCKP 0) F.PG_WREJ_OFS_CODE = 0x11 ∧ t.ckp = s.ckp ∧ t.sch = s.sch ∧ t.mem = s.mem)

/-- R527 to R543, R565, Tables 15-3 to 15-6: a CAPTURE of a RUNNING partition pauses it first, and one of a PAUSED
partition makes its checks and writes its header; at its commit the partition's whole state is sealed as one image
under its image key, the committed header written last; without a key, where a read is refused, after an
uncorrectable error or a timeout, or at an ABORT, nothing is committed. Where the spec leaves a choice it follows
the model's: log entries 3, 9, 47, 50, 51, 85, 86. -/
def Obligations.CapturesCommitWholeOrNotAtAll : Prop :=
  (∀ (s : State) (m p : Nat) (again : Bool), s.dead = false → okMaster m = true → p < 8 → s.reaches m (pCKP 0) = true →
    s.mayWrite m (pCKP 0) = true → s.rstBusy (pCKP 0) = false →
    (let r := s.ckpArea { op := 2, part := p, resume := again, since := s.now }
     s.ckp.run = none → s.enabled p = true → (SMap.get s.prt.ikeys p none).isSome = true →
     s.holds p r.tier r.addr (r.mib * 2 ^ 20) = true →
     (r.nexcl = 0 ∨ s.holds p r.exTier r.exAddr (4 * r.nexcl) = true) →
     (s.pauseSt p = 0 →
       Goes (.capture m p false again) s fun t =>
         t.pauseSt p = 1 ∧ t.f (pCKP 0) F.CKP_STS_BUSY = 1 ∧ t.ckp.run = some r ∧ SMap.get t.ckp.pauseAt p 0 = s.now ∧
         { t with regs := s.regs, ev := s.ev, ckp := s.ckp } = s) ∧
     (s.pauseSt p = 2 →
       let x := capCheck r ((s.setF (pCKP 0) F.CKP_STS_BUSY 1).setRun (some r))
       let y := capHeader (x.2.1.begun x.2.2) x.2.2
       (x.1 = 0 → y.1 = 0 → y.2.mem.wait = false →
         Goes (.capture m p false again) s fun t =>
           t.pauseSt p = 3 ∧ t.ckp.run = some (x.2.1.begun x.2.2) ∧ t.mem = y.2.mem ∧ t.sch = s.sch ∧ t.cores = s.cores) ∧
       (x.1 ≠ 0 → x.2.2.mem.wait = false →
         Goes (.capture m p false again) s fun t =>
           t.pauseSt p = 2 ∧ t.ckp.run = none ∧ t.f (pCKP 0) F.CKP_STS_BUSY = 0 ∧ t.f (pCKP 0) F.CKP_STS_CODE = x.1 % 256 ∧
           t.f (pCKP 0) F.PG_ERR_CNT_LAST = x.1 % 256 ∧ t.ckp.images = s.ckp.images ∧ t.mem = x.2.2.mem))) ∧
    (s.ckp.run ≠ none ∨ s.enabled p = false ∨ SMap.get s.prt.ikeys p none = none ∨ (s.pauseSt p ≠ 0 ∧ s.pauseSt p ≠ 2) →
      Goes (.capture m p false again) s fun t =>
        t.f (pCKP 0) F.PG_WREJ_OFS_CODE = 0x11 ∧ t.ckp = s.ckp ∧ t.mem = s.mem)) ∧
  (∀ (s : State) (r : CkpRun) (k : ImageKey) (errs : Errs), s.dead = false → s.ckp.run = some r → r.ph = .capturing →
    r.who ≠ .cut → r.dom = false → r.op = 2 → r.part < 8 → s.enabled r.part = true →
    SMap.get s.prt.ikeys r.part none = some k →
    (let v := s.snap r.part r.excl
     let m := readRanges r.part v.ranges (s.finds errs)
     let g := m.2.2.seal r k v m.2.1
     let n := g.2.2.length
     let x := bulkWrite (pCKP 0) 0 (m.2.2.access r.part) r.tier r.addr
       (plain (withState g.1 (stateLine false []) ++ padTo (payloadAt n - 4096) g.2.1 ++ g.2.2)) m.2.2
     let y := bulkWrite (pCKP 0) 0 (x.2.access r.part) r.tier (r.addr + 192)
       (plain (stateLine true (masterTag k.key r.nonce g.1 g.2.1))) x.2
     (m.1 = 0 → imgBytes n ≤ r.mib * 2 ^ 20 → x.1 = 0 → y.1 = 0 → y.2.mem.wait = false →
       Goes (.captureCommit errs) s fun t =>
         (t.ckp.images.head?.map (·.snap)) = some v ∧ t.ckp.images.tail = s.ckp.images ∧ SameMem y.2 t ∧
         t.pauseSt r.part = (if r.resume = true ∨ r.who ≠ .cmd then 0 else 2) ∧ t.ckp.run = none ∧
         t.f (pCKP 0) F.CKP_STS_BUSY = 0 ∧ t.f (pCKP 0) (F.CKP_PSTS_LAST.at 4 r.part) = 0) ∧
     (m.1 ≠ 0 → m.2.2.mem.wait = false → r.who = .cmd →
       Goes (.captureCommit errs) s fun t =>
         t.pauseSt r.part = 2 ∧ t.ckp.run = none ∧ t.f (pCKP 0) F.CKP_STS_CODE = m.1 % 256 ∧
         t.ckp.images = s.ckp.images ∧ SameMem m.2.2 t))) ∧
  (∀ (s : State) (r : CkpRun) (errs : Errs), s.dead = false → s.ckp.run = some r → r.ph = .capturing → r.who = .cmd →
    r.op = 2 → r.dom = false → r.part < 8 →
    (s.enabled r.part = true → SMap.get s.prt.ikeys r.part none = none →
      Goes (.captureCommit errs) s fun t =>
        t.pauseSt r.part = 2 ∧ t.ckp.run = none ∧ t.f (pCKP 0) F.CKP_STS_CODE = 0x11 ∧
        t.ckp.images = s.ckp.images ∧ SameMem s t) ∧
    (∀ tmo, (tmo = true → s.expired (pCKP 0) r.iss = true) →
      Goes (.captureFail tmo) s fun t =>
        t.pauseSt r.part = 2 ∧ t.ckp.run = none ∧ t.f (pCKP 0) F.CKP_STS_CODE = (if tmo then 0x03 else 0x07) ∧
        t.f (pCKP 0) F.PG_ERR_CNT_LAST = (if tmo then 0x03 else 0x07) ∧
        t.ckp.images = s.ckp.images ∧ t.mem = s.mem ∧ t.sch = s.sch ∧ t.cores = s.cores) ∧
    (s.expired (pCKP 0) r.iss = false → Goes (.captureFail true) s fun t => t = s)) ∧
  (∀ (s : State) (m p : Nat) (r : CkpRun), s.dead = false → okMaster m = true → p < 8 → s.reaches m (pCKP 0) = true →
    s.mayWrite m (pCKP 0) = true → s.rstBusy (pCKP 0) = false → s.ckp.run = some r → r.part = p → r.op = 2 →
    r.dom = false → r.who = .cmd → r.ph = .capturing →
    Goes (.abort m p) s fun t =>
      t.pauseSt p = 2 ∧ t.ckp.run = none ∧ t.f (pCKP 0) F.CKP_STS_BUSY = 0 ∧ t.f (pCKP 0) F.CKP_STS_OP = 5 ∧
      t.ckp.images = s.ckp.images ∧ t.mem = s.mem ∧ t.sch = s.sch)

/-- R544 to R548: a granted CHECKPOINT pauses its own partition, where everything but the CHECKPOINT itself has
ended; at PAUSED it makes its checks, and faults with the code of the first that fails, after which the partition
resumes, or completes; the capture starts only when every remote decrement has completed. Where the spec leaves a
choice it follows the model's: log entries 3, 50. -/
def Obligations.CheckpointsPauseTheirPartition : Prop :=
  (∀ (s : State) (p n d : Nat) (r : CkpRun) (errs : Errs), s.dead = false → p < 8 → s.enabled p = true →
    s.ckp.run = some r → r.who = .op n → r.part = p →
    (r.ph = .granted →
      Goes (.checkpoint p errs) s fun t =>
        t.pauseSt p = 1 ∧ t.ckp.run = some { r with ph := .pausing } ∧ SMap.get t.ckp.pauseAt p 0 = s.now ∧
        { t with regs := s.regs, ev := s.ev, ckp := s.ckp, mem := s.mem } = s ∧ SameMem s t) ∧
    (r.ph = .pausing → s.pauseSt p = 1 → s.quiet p (some n) = true → s.member p = none →
      Goes (.pauseQuiesced p) s fun t =>
        t.pauseSt p = 2 ∧ t.ckp.run = some { r with ph := .held } ∧ (t.sc p).frozen = true ∧
        (t.sc p).slots = (s.sc p).slots ∧ t.mem = s.mem ∧ t.cores = s.cores) ∧
    (r.ph = .held →
      let u := s.finds errs
      let x := if (SMap.get s.prt.ikeys p none).isNone then (0x11, r, u) else capCheck r u
      let v := completed p n (x.2.2.setRun (some { x.2.1 with ph := .draining }))
      (x.1 ≠ 0 → x.2.2.mem.wait = false → (s.slot p n).st = .running → (s.slot p n).heldRel = false →
        (s.slot p n).frel = false → (s.flow p (s.slot p n).flow).ordered = false → (s.slot p n).exec = some (.ckp d) →
        Goes (.checkpoint p errs) s fun t =>
          t.pauseSt p = 0 ∧ t.ckp.run = none ∧ t.f (pCKP 0) F.CKP_STS_BUSY = 0 ∧ (t.slot p n).st = .faulted ∧
          t.f (pCKP d) F.PG_ERR_CNT_LAST = x.1 % 256 ∧ (t.sc p).frozen = false) ∧
      (x.1 = 0 → v.mem.wait = false →
        Goes (.checkpoint p errs) s fun t =>
          t.ckp.run = some { x.2.1 with ph := .draining } ∧ t.sch = v.sch ∧ t.pauseSt p = s.pauseSt p ∧ SameMem v t))) ∧
  (∀ (s : State) (p : Nat) (errs : Errs), s.dead = false → p < 8 →
    s.enabled p = false ∨ (∀ r, s.ckp.run = some r → r.part ≠ p) → Goes (.checkpoint p errs) s fun t => Waits s t) ∧
  (∀ (s : State) (p n : Nat) (r : CkpRun) (errs : Errs), s.dead = false → p < 8 → s.ckp.run = some r → r.part = p →
    r.who = .op n → r.ph = .draining →
    (let y := capHeader (r.begun s) (s.finds errs)
     s.enabled p = true → (s.sc p).succs = [] → (s.tagsWhere (fun t => t.who == .succ p)).isEmpty = true →
     s.fab.wait.any (fun o => o.who == .succ p) = false → y.2.mem.wait = false →
     (y.1 = 0 →
       Goes (.checkpointCaptureStart p errs) s fun t =>
         t.pauseSt p = 3 ∧ t.ckp.run = some (r.begun s) ∧ SameMem y.2 t ∧ t.sch = s.sch ∧ t.cores = s.cores) ∧
     (y.1 ≠ 0 → r.op = 2 →
       Goes (.checkpointCaptureStart p errs) s fun t =>
         t.pauseSt p = 0 ∧ t.ckp.run = none ∧ t.f (pCKP 0) (F.CKP_PSTS_LAST.at 4 p) = y.1 % 256 ∧ SameMem y.2 t)) ∧
    ((s.sc p).succs ≠ [] ∨ (s.tagsWhere (fun t => t.who == .succ p)).isEmpty = false ∨
       s.fab.wait.any (fun o => o.who == .succ p) = true →
      Goes (.checkpointCaptureStart p errs) s fun t => Waits s t))

/-- R552 to R559, Table 15-8: a RESTORE whose area is not the partition's is refused, and one whose image fails a
check ends with the code of that check and changes nothing of the partition (0x0E where the header does not verify);
one that verifies makes it RESTORING; at its end the image's state and memory stand in the partition, PAUSED; a
failure on the way empties the partition's scheduler and its allocations. Where the spec leaves a choice it follows
the model's: log entries 3, 9, 48, 85, 86. -/
def Obligations.RestoresPutTheImageBack : Prop :=
  (∀ (s : State) (m p : Nat) (errs : Errs), s.dead = false → okMaster m = true → p < 8 → s.reaches m (pCKP 0) = true →
    s.mayWrite m (pCKP 0) = true → s.rstBusy (pCKP 0) = false →
    (let r := s.ckpArea { op := 4, part := p }
     let u := ((s.finds errs).setF (pCKP 0) F.CKP_STS_BUSY 1).setRun (some r)
     s.ckp.run = none → s.restorePre p = true →
     (s.holds p r.tier r.addr (r.mib * 2 ^ 20) = false →
       Goes (.restore m p errs) s fun t => t.f (pCKP 0) F.PG_WREJ_OFS_CODE = 0x02 ∧ t.ckp = s.ckp ∧ SameMem s t) ∧
     (s.holds p r.tier r.addr (r.mib * 2 ^ 20) = true →
       (∀ h v k, readImg r 0 4096 u = (0, h, v) → SMap.get s.prt.ikeys p none = some k → v.headOk r k h = false →
         v.mem.wait = false →
         Goes (.restore m p errs) s fun t =>
           t.ckp.run = none ∧ t.f (pCKP 0) F.CKP_STS_CODE = 0x0E ∧ t.f (pCKP 0) F.CKP_STS_BUSY = 0 ∧
           t.f (pCKP 0) F.PG_ERR_CNT_LAST = 0x0E ∧ t.pauseSt p = s.pauseSt p ∧ SameMem v t ∧ t.sch = s.sch) ∧
       (∀ code v, readHead r u = (.error code, v) → v.mem.wait = false →
         Goes (.restore m p errs) s fun t =>
           t.ckp.run = none ∧ t.f (pCKP 0) F.CKP_STS_CODE = code % 256 ∧ t.f (pCKP 0) F.CKP_STS_BUSY = 0 ∧
           t.f (pCKP 0) F.PG_ERR_CNT_LAST = code % 256 ∧ t.pauseSt p = s.pauseSt p ∧ SameMem v t ∧ t.sch = s.sch) ∧
       (∀ h tags i v, readHead r u = (.ok (h, tags, i), v) → v.mem.wait = false →
         Goes (.restore m p errs) s fun t =>
           t.pauseSt p = 4 ∧ SameMem v t ∧ t.sch = s.sch ∧ t.cores = s.cores ∧
           t.ckp.run = some { r with ph := .restoring, hdr := h, tags := tags, img := some i, iss := s.issue (pCKP 0) } ∧
           ∃ k, SMap.get s.prt.ikeys p none = some k ∧ v.headOk r k h = true ∧ tagsOk k h tags = true ∧
             v.unitsMatch p i.snap = true ∧ v.tokFree p i.snap = true))) ∧
    (s.ckp.run ≠ none ∨ s.restorePre p = false →
      Goes (.restore m p errs) s fun t => t.f (pCKP 0) F.PG_WREJ_OFS_CODE = 0x11 ∧ t.ckp = s.ckp ∧ SameMem s t)) ∧
  (∀ (s : State) (r : CkpRun) (i : SealedImg) (errs : Errs), s.dead = false → s.ckp.run = some r → r.ph = .restoring →
    r.part < 8 → r.op = 4 → r.img = some i →
    (let x := readPayload r i (s.finds errs)
     let y := putRanges r.part i.snap.ranges 0 (payloadMem r.hdr x.2.1) (0, putSnap r.part i.snap x.2.2)
     let failed (code : Nat) (t : State) : Prop :=
       t.pauseSt r.part = 2 ∧ t.ckp.run = none ∧ t.f (pCKP 0) (F.CKP_PSTS_LAST.at 4 r.part) = code % 256 ∧
       (t.sc r.part).slots = [] ∧ (t.sc r.part).frozen = true ∧ (t.al r.part).live = []
     s.enabled r.part = true →
     (x.1 = 0 → y.1 = 0 → y.2.mem.wait = false →
       Goes (.restoreDone errs) s fun t =>
         t.pauseSt r.part = 2 ∧ t.ckp.run = none ∧ t.f (pCKP 0) F.CKP_STS_BUSY = 0 ∧
         t.f (pCKP 0) (F.CKP_PSTS_LAST.at 4 r.part) = 0 ∧ t.pcut r.part = fieldOf r.hdr 40 8 ∧ SameMem y.2 t ∧
         t.sch = y.2.sch ∧ t.cores = y.2.cores ∧ t.clus = y.2.clus ∧ t.tok = y.2.tok) ∧
     (x.1 ≠ 0 → x.2.2.mem.wait = false → Goes (.restoreDone errs) s (failed x.1)) ∧
     (x.1 = 0 → y.1 ≠ 0 → y.2.mem.wait = false → Goes (.restoreDone errs) s (failed y.1))) ∧
    (s.enabled r.part = false → Goes (.restoreDone errs) s fun t => Waits s t)) ∧
  (∀ (s : State) (r : CkpRun) (i : SealedImg), s.dead = false → s.ckp.run = some r → r.ph = .restoring →
    r.part < 8 → r.op = 4 → r.img = some i →
    (let x := readPayload r i (s.finds [])
     let failed (code : Nat) (t : State) : Prop :=
       t.pauseSt r.part = 2 ∧ t.ckp.run = none ∧ t.f (pCKP 0) (F.CKP_PSTS_LAST.at 4 r.part) = code % 256 ∧
       (t.sc r.part).slots = [] ∧ (t.sc r.part).frozen = true ∧ (t.al r.part).live = []
     (s.expired (pCKP 0) r.iss = true → Goes (.restoreFail true) s (failed 0x03)) ∧
     (s.expired (pCKP 0) r.iss = false → Goes (.restoreFail true) s fun t => Waits s t) ∧
     (x.1 ≠ 0 → x.2.2.mem.wait = false → Goes (.restoreFail false) s (failed x.1)) ∧
     (x.1 = 0 → Goes (.restoreFail false) s fun t => Waits s t)))

/-- R549 to R552, R594, R598, Table 15-7: the coordinator of a domain capture sends HOLD to every member and pauses,
counts every member's HOLD_DONE and CUT_DONE once, sends CUT and captures once all hold, and ends once all are done;
a member it cannot reach, a CUT_DONE with a code, or CKP_DTMO aborts the cut. A member pauses at HOLD under the
message's CUT_ID, captures at CUT (without an image key it answers a failure), runs again at a RELEASE or an ABORT
that names it, and leaves the cut by itself at CKP_DTMO. Where the spec leaves a choice it follows the model's: log
entries 3, 47, 49. -/
def Obligations.DomainCapturesCutTogether : Prop :=
  (∀ (s : State) (m p : Nat) (again : Bool), s.dead = false → okMaster m = true → p < 8 → s.reaches m (pCKP 0) = true →
    s.mayWrite m (pCKP 0) = true → s.rstBusy (pCKP 0) = false →
    (let r := s.ckpArea { op := 2, part := p, dom := true, resume := again, since := s.now, cutId := s.ckpCut }
     let u := startPause p false ((s.setF (pCKP 0) F.CKP_STS_BUSY 1).setRun (some r))
     let x := cutAll p 1 r.cutId u.peers u
     s.ckp.run = none → s.enabled p = true → (SMap.get s.prt.ikeys p none).isSome = true → s.pauseSt p = 0 →
     s.ckpCut ≠ 0 → s.holds p r.tier r.addr (r.mib * 2 ^ 20) = true →
     (r.nexcl = 0 ∨ s.holds p r.exTier r.exAddr (4 * r.nexcl) = true) →
     (x.1 = true →
       Goes (.capture m p true again) s fun t =>
         t.pauseSt p = 1 ∧ t.ckp.run = some r ∧ t.links = x.2.links ∧ t.out = x.2.out ∧ t.mem = s.mem ∧ t.sch = s.sch) ∧
     (x.1 = false →
       Goes (.capture m p true again) s fun t =>
         t.pauseSt p = 0 ∧ t.ckp.run = none ∧ t.f (pCKP 0) F.CKP_STS_CODE = 0x08 ∧ t.mem = s.mem ∧ t.sch = s.sch)) ∧
    (s.ckpCut = 0 ∨ s.pauseSt p ≠ 0 →
      Goes (.capture m p true again) s fun t => t.f (pCKP 0) F.PG_WREJ_OFS_CODE = 0x11 ∧ t.ckp = s.ckp ∧ t.mem = s.mem)) ∧
  (∀ (s : State) (l w p id d : Nat) (r : CkpRun) (data : List Byte), s.dead = false → okLink l = true →
    okHeader w = true → s.coordOf p id (hdrOf w).src = some (r, d) → r.done.length + 1 = s.peers.length → p < 8 →
    r.who = .cmd →
    (let r2 := { r with cutSent := true, done := [] }
     let x := cutAll p 3 r.cutId s.peers (s.setRun (some { r with done := r.done ++ [d] }))
     let c := capCheck r2 (x.2.setRun (some r2))
     let y := capHeader (c.2.1.begun c.2.2) c.2.2
     s.cutIn l w 2 data = some (p, id) → r.cutSent = false → s.pauseSt p = 2 →
     (x.1 = true → c.1 = 0 → y.1 = 0 → y.2.mem.wait = false →
       Goes (.holdDone l w data) s fun t =>
         t.pauseSt p = 3 ∧ t.ckp.run = some (c.2.1.begun c.2.2) ∧ t.links = x.2.links ∧ t.mem = y.2.mem ∧ t.sch = s.sch) ∧
     (x.1 = false →
       Goes (.holdDone l w data) s fun t =>
         t.pauseSt p = 2 ∧ t.ckp.run = none ∧ t.f (pCKP 0) F.CKP_STS_CODE = 0x08 ∧ t.mem = s.mem ∧ t.sch = s.sch)) ∧
    (s.cutIn l w 4 data = some (p, id) → r.cutSent = true → fieldOf data 8 1 = 0 → r.ph = .domain →
      Goes (.cutDone l w data) s fun t =>
        t.ckp.run = none ∧ t.f (pCKP 0) F.CKP_STS_BUSY = 0 ∧ t.f (pCKP 0) F.CKP_STS_CODE = 0 ∧
        t.pauseSt p = (if r.resume then 0 else s.pauseSt p) ∧ t.mem = s.mem)) ∧
  (∀ (s : State) (l w p id d : Nat) (r : CkpRun) (data : List Byte), s.dead = false → okLink l = true →
    okHeader w = true → s.coordOf p id (hdrOf w).src = some (r, d) → p < 8 → r.who = .cmd →
    s.cutIn l w 4 data = some (p, id) → r.cutSent = true → fieldOf data 8 1 ≠ 0 →
    Goes (.cutDone l w data) s fun t =>
      t.ckp.run = none ∧ t.f (pCKP 0) F.CKP_STS_BUSY = 0 ∧ t.f (pCKP 0) F.CKP_STS_CODE = fieldOf data 8 1 ∧
      t.pauseSt p = (if s.pauseSt p = 1 then 0 else 2) ∧ t.ckp.images = s.ckp.images ∧ t.mem = s.mem) ∧
  (∀ (s : State) (p : Nat) (r : CkpRun), s.dead = false → p < 8 → s.ckp.run = some r → r.part = p → r.dom = true →
    r.who = .cmd →
    (r.since + s.f (pCKP 0) F.CKP_DTMO_MS * 1000000 ≤ s.now →
      Goes (.ckpDtmoExpiry p) s fun t =>
        t.ckp.run = none ∧ t.f (pCKP 0) F.CKP_STS_CODE = 0x17 ∧ t.pauseSt p = (if s.pauseSt p = 1 then 0 else 2) ∧
        t.ckp.images = s.ckp.images ∧ t.mem = s.mem) ∧
    (s.now < r.since + s.f (pCKP 0) F.CKP_DTMO_MS * 1000000 → Goes (.ckpDtmoExpiry p) s fun t => t = s)) ∧
  (∀ (s : State) (l w p id : Nat) (m : CutMember) (data : List Byte), s.dead = false → okLink l = true →
    okHeader w = true → p < 8 → s.cutIn l w 3 data = some (p, id) → s.member p = some m → s.pauseSt p = 2 →
    m.held = true → m.done = false → s.pcut p = id → s.ckp.run = none → (SMap.get s.prt.ikeys p none).isSome = true →
    let r := s.ckpArea { op := 2, part := p, who := .cut, cutId := id }
    let c := capCheck r ((s.setRun (some r)).setF (pCKP 0) F.CKP_STS_BUSY 1)
    let y := capHeader (c.2.1.begun c.2.2) c.2.2
    (c.1 = 0 → y.1 = 0 → y.2.mem.wait = false →
      Goes (.cut l w data) s fun t =>
        t.pauseSt p = 3 ∧ t.ckp.run = some (c.2.1.begun c.2.2) ∧ t.member p = some m ∧ t.mem = y.2.mem ∧ t.sch = s.sch) ∧
    (c.1 ≠ 0 → c.2.2.mem.wait = false →
      Goes (.cut l w data) s fun t =>
        t.pauseSt p = 2 ∧ t.ckp.run = none ∧ t.member p = some { m with done := true } ∧
        t.f (pCKP 0) F.PG_ERR_CNT_LAST = c.1 % 256 ∧ t.ckp.images = s.ckp.images ∧ t.mem = c.2.2.mem)) ∧
  (∀ (s : State) (l w p id : Nat) (data : List Byte), s.dead = false → okLink l = true → okHeader w = true →
    s.cutIn l w 1 data = some (p, id) → s.pauseSt p = 0 → p < 8 → id < 2 ^ 64 →
    Goes (.hold l w data) s fun t =>
      t.pauseSt p = 1 ∧ t.pcut p = id ∧ t.member p = some { link := l, src := (hdrOf w).src, since := s.now } ∧
      t.f (pCKP 0) (F.CKP_PSTS_DOM.at 4 p) = 1 ∧ { t with regs := s.regs, ev := s.ev, ckp := s.ckp } = s) ∧
  (∀ (s : State) (l w : Nat) (data : List Byte), s.dead = false → okLink l = true → okHeader w = true →
    (s.cutIn l w 1 data = none → Goes (.hold l w data) s fun t => t = s) ∧
    (s.cutIn l w 2 data = none → Goes (.holdDone l w data) s fun t => t = s) ∧
    (s.cutIn l w 3 data = none → Goes (.cut l w data) s fun t => t = s) ∧
    (s.cutIn l w 4 data = none → Goes (.cutDone l w data) s fun t => t = s) ∧
    (s.cutIn l w 5 data = none → Goes (.releaseCut l w data) s fun t => t = s) ∧
    (s.cutIn l w 6 data = none → Goes (.abortCut l w data) s fun t => t = s)) ∧
  (∀ (s : State) (l w p id d : Nat) (r : CkpRun) (data : List Byte), s.dead = false → okLink l = true →
    okHeader w = true → s.coordOf p id (hdrOf w).src = some (r, d) → r.done.length + 1 < s.peers.length →
    (s.cutIn l w 2 data = some (p, id) → r.cutSent = false →
      Goes (.holdDone l w data) s fun t => t = s.setRun (some { r with done := r.done ++ [d] })) ∧
    (s.cutIn l w 4 data = some (p, id) → r.cutSent = true → fieldOf data 8 1 = 0 →
      Goes (.cutDone l w data) s fun t => t = s.setRun (some { r with done := r.done ++ [d] }))) ∧
  (∀ (s : State) (l w p id : Nat) (m : CutMember) (data : List Byte), s.dead = false → okLink l = true →
    okHeader w = true → s.cutIn l w 3 data = some (p, id) → s.member p = some m → s.pauseSt p = 2 → m.held = true →
    m.done = false → s.pcut p = id → SMap.get s.prt.ikeys p none = none →
    Goes (.cut l w data) s fun t =>
      t.member p = some { m with done := true } ∧ t.ckp.run = s.ckp.run ∧ t.ckp.images = s.ckp.images ∧
      t.mem = s.mem ∧ t.sch = s.sch) ∧
  (∀ (s : State) (l w p id : Nat) (data : List Byte), s.dead = false → okLink l = true → okHeader w = true → p < 8 →
    s.pauseSt p = 2 → s.pcut p = id →
    (s.cutIn l w 5 data = some (p, id) →
      Goes (.releaseCut l w data) s fun t =>
        t.pauseSt p = 0 ∧ t.member p = none ∧ (t.sc p).frozen = false ∧ t.mem = s.mem) ∧
    (s.cutIn l w 6 data = some (p, id) → s.ckp.run = none → (s.member p).isSome = true →
      Goes (.abortCut l w data) s fun t =>
        t.pauseSt p = 0 ∧ t.member p = none ∧ (t.sc p).frozen = false ∧ t.mem = s.mem)) ∧
  (∀ (s : State) (p : Nat) (m : CutMember), s.dead = false → p < 8 → s.ckp.run = none → s.member p = some m →
    m.done = false →
    (m.since + s.f (pCKP 0) F.CKP_DTMO_MS * 1000000 ≤ s.now →
      Goes (.ckpDtmoExpiry p) s fun t =>
        t.member p = none ∧ t.pauseSt p = 0 ∧ t.f (pCKP 0) F.PG_ERR_CNT_LAST = 0x17 ∧ t.mem = s.mem) ∧
    (s.now < m.since + s.f (pCKP 0) F.CKP_DTMO_MS * 1000000 → Goes (.ckpDtmoExpiry p) s fun t => t = s))

/-- R568 to R571, R577, R578, Tables 16-3 and 16-4: a link trains from step 1 at generation 1 when LNK_CTL asks for
it, counts the control blocks that come, moves on when its step's condition is met, carries traffic only from its UP
state on, and lowers its generation when an attempt fails. Where the spec leaves a choice it follows the model's:
log entries 53, 54, 75, 84. -/
def Obligations.LinksTrainByTheirSteps : Prop :=
  (∀ (s : State) (m l v : Nat), s.dead = false → okMaster m = true → l < 64 → v < 128 → s.reaches m (pLNK l) = true →
    s.mayWrite m (pLNK l) = true → s.rstBusy (pLNK l) = false →
    (bits v 3 2 ≠ 0 → bit v 0 = true → s.f (pLNK l) F.PG_CTL_EN = 1 → s.fenced (pLNK l) = false → s.linkUp l = false →
      s.f (pLNK l) F.LNK_STS_STATE = 0 →
      Goes (.linkTrainStart m l v) s fun t =>
        t.f (pLNK l) F.LNK_STS_STATE = 1 ∧ t.f (pLNK l) F.LNK_STS_GEN = 1 ∧ t.f (pLNK l) F.LNK_CTL_LINK = 1 ∧
        t.f (pLNK l) F.LNK_CTL_MAX_GEN = bits v 3 2 ∧ t.f (pLNK l) F.LNK_LANE_STS_GOOD = 0 ∧
        (t.link l).attempt = bits v 3 2 ∧ (∀ j, j ≠ l → t.link j = s.link j) ∧
        t.sentOn l = ((List.range 5).map (fun i => padTo 32 [0x1E, BitVec.ofNat 8 i, 0])).reverse ++ s.sentOn l ∧
        { t with regs := s.regs, ev := s.ev, links := s.links, out := s.out } = s) ∧
    (bits v 3 2 = 0 →
      Goes (.linkTrainStart m l v) s fun t =>
        t.f (pLNK l) F.PG_WREJ_OFS_CODE = 0x01 ∧ t.links = s.links ∧ OnlyRegsEv (refusedRegs (pLNK l)) s t) ∧
    (bits v 3 2 ≠ 0 → s.linkUp l = true → s.flitsOn l = true → s.tagsWhere (fun r => r.link == l) = [] → s.fab.wait = [] →
      Goes (.linkStop m l v) s fun t =>
        t.linkUp l = false ∧ t.f (pLNK l) F.LNK_STS_STATE = 0 ∧ t.f (pLNK l) F.LNK_CTL_LINK = 0 ∧
        (t.link l).txq = [] ∧ (t.link l).unacked = [] ∧ (∀ v, v < 5 → t.crdTx l v = 0) ∧
        (t.link l).rxq.all (fun e => !e.live) = true ∧
        (∀ p, p < 8 → (t.sc p).inQ.all (fun d => d.link != l || !d.live) = true ∧ (t.sc p).slots = (s.sc p).slots) ∧
        (∀ j, j ≠ l → t.link j = s.link j) ∧
        { t with regs := s.regs, ev := s.ev, links := s.links, sch := s.sch } = s)) ∧
  (∀ (s : State) (l : Nat) (b : List Byte), s.dead = false → l < 64 →
    (blockOk 0x1E 3 b = true → cb b 2 < 32 → s.f (pLNK l) F.LNK_STS_STATE = 1 →
      Goes (.ts1 l b) s fun t =>
        SMap.get (t.link l).ts1 (cb b 1) 0 = min 8 (SMap.get (s.link l).ts1 (cb b 1) 0 + 1) ∧
        (t.link l).peerMask = cb b 2 ∧
        (7 ≤ SMap.get (s.link l).ts1 (cb b 1) 0 → bit (t.f (pLNK l) F.LNK_LANE_STS_GOOD) (cb b 1) = true) ∧
        (SMap.get (s.link l).ts1 (cb b 1) 0 < 7 →
          t.f (pLNK l) F.LNK_LANE_STS_GOOD = s.f (pLNK l) F.LNK_LANE_STS_GOOD) ∧
        { t with regs := s.regs, ev := s.ev, links := s.links } = s) ∧
    (blockOk 0x2D 9 b = true → s.f (pLNK l) F.LNK_STS_STATE = 3 → cb b 3 < 32 → cb b 7 < 16 →
      Goes (.ts2 l b) s fun t =>
        (t.link l).ts2 = b.drop 2 ∧
        (t.link l).ts2n = (if (s.link l).ts2 = b.drop 2 then (s.link l).ts2n + 1 else 1) ∧
        { t with links := s.links } = s) ∧
    (blockOk 0x33 4 b = true → s.f (pLNK l) F.LNK_STS_STATE = 5 →
      (cb b 2 = 0 → cb b 3 ≤ 10 →
        Goes (.eqreq l b) s fun t =>
          SMap.get (t.link l).taps (cb b 1) (0, 0, 0) = (0, (preset (cb b 3)).1, (preset (cb b 3)).2) ∧
          { t with links := s.links, out := s.out } = s ∧
          t.sentOn l = padTo 32 [0x55, BitVec.ofNat 8 (cb b 1), 0, BitVec.ofNat 8 (cb b 3)] :: s.sentOn l) ∧
      (cb b 2 = 1 → cb b 3 < 8 → bits (cb b 3) 1 0 ≠ 3 →
        let d : Int := if bit (cb b 3) 2 then 1 else -1
        let x := SMap.get (s.link l).taps (cb b 1) (0, 0, 0)
        let y := if bits (cb b 3) 1 0 = 0 then (x.1 + d, x.2.1, x.2.2)
          else if bits (cb b 3) 1 0 = 1 then (x.1, x.2.1 + d, x.2.2) else (x.1, x.2.1, x.2.2 + d)
        Goes (.eqreq l b) s fun t =>
          SMap.get (t.link l).taps (cb b 1) (0, 0, 0) = (if tapsOk y then y else x) ∧
          { t with links := s.links, out := s.out } = s ∧
          t.sentOn l = padTo 32 [0x55, BitVec.ofNat 8 (cb b 1), if tapsOk y then 0 else 1, BitVec.ofNat 8 (cb b 3)] :: s.sentOn l) ∧
      (cb b 2 = 2 →
        Goes (.eqreq l b) s fun t =>
          bit (t.link l).ready (cb b 1) = true ∧ (t.link l).taps = (s.link l).taps ∧
          { t with links := s.links, out := s.out } = s) ∧
      (2 < cb b 2 → Goes (.eqreq l b) s fun t => t = s)) ∧
    (blockOk 0x55 4 b = true → s.f (pLNK l) F.LNK_STS_STATE = 5 → cb b 2 = 1 →
      Goes (.eqack l b) s fun t =>
        SMap.get (t.link l).eqRef (cb b 1) 0 = SMap.get (s.link l).eqRef (cb b 1) 0 + 1 ∧
        { t with links := s.links } = s) ∧
    (b.length ≠ 32 →
      Goes (.ts1 l b) s (fun t => t = s) ∧ Goes (.ts2 l b) s (fun t => t = s) ∧ Goes (.eqreq l b) s (fun t => t = s) ∧
      Goes (.eqack l b) s (fun t => t = s))) ∧
  (∀ (s : State) (l : Nat), s.dead = false → l < 64 →
    (s.f (pLNK l) F.LNK_STS_STATE = 1 →
      s.f (pLNK l) F.LNK_LANE_STS_GOOD = 31 ∨ (s.link l).stepAt + 1000000 ≤ s.nowOn (l / 32) →
      Goes (.trainStepDone l) s fun t =>
        t.f (pLNK l) F.LNK_STS_STATE = 2 ∧ t.f (pLNK l) F.LNK_LANE_STS_FAULT = 31 - s.f (pLNK l) F.LNK_LANE_STS_GOOD) ∧
    (s.f (pLNK l) F.LNK_STS_STATE = 1 → s.f (pLNK l) F.LNK_LANE_STS_GOOD ≠ 31 →
      s.nowOn (l / 32) < (s.link l).stepAt + 1000000 → Goes (.trainStepDone l) s fun t => t = s) ∧
    (∀ ls, s.f (pLNK l) F.LNK_STS_STATE = 2 →
      activeSet (Nat.land (s.f (pLNK l) F.LNK_LANE_STS_GOOD) (s.link l).peerMask) (s.f (pLNK l) F.LNK_CTL_SPARE_EN)
        (s.f (pLNK l) F.LNK_CTL_WIDTH2_EN) = some ls →
      Goes (.trainStepDone l) s fun t =>
        t.f (pLNK l) F.LNK_STS_STATE = 3 ∧ t.f (pLNK l) F.LNK_STS_ACTIVE = laneMask ls ∧
        t.f (pLNK l) F.LNK_STS_WIDTH = ls.length) ∧
    (let gen := min (s.link l).attempt (bits (fieldOf (s.link l).ts2 1 1) 1 0)
     s.f (pLNK l) F.LNK_STS_STATE = 3 → 8 ≤ (s.link l).ts2n → 1 ≤ gen →
      Goes (.trainStepDone l) s fun t =>
        t.f (pLNK l) F.LNK_STS_GEN = gen ∧ t.f (pLNK l) F.LNK_STS_STATE = (if gen = 1 then 5 else 4) ∧
        (2 ≤ gen → t.f (pLNK l) F.LNK_STS_FEC = 1) ∧ t.f (pLNK l) F.LNK_PEER_FVER = min 3 (fieldOf (s.link l).ts2 2 1) ∧
        OnlyRegsEv ((pLNK l * 4096 + R.LNK_STS) :: (pLNK l * 4096 + R.LNK_PEER) :: noted (pLNK l)) s { t with links := s.links }) ∧
    (s.f (pLNK l) F.LNK_STS_STATE = 3 → (s.link l).ts2n < 8 → Goes (.trainStepDone l) s fun t => t = s) ∧
    (s.f (pLNK l) F.LNK_STS_STATE = 4 →
      Goes (.trainStepDone l) s fun t =>
        t.f (pLNK l) F.LNK_STS_STATE = 5 ∧ t.f (pLNK l) F.LNK_LANE_STS_PRESET ≤ 10 ∧ t.mem = s.mem) ∧
    (s.f (pLNK l) F.LNK_STS_STATE = 5 →
      (Nat.land (s.link l).ready (s.f (pLNK l) F.LNK_STS_ACTIVE) = s.f (pLNK l) F.LNK_STS_ACTIVE →
        Goes (.trainStepDone l) s fun t => t.f (pLNK l) F.LNK_STS_STATE = 6 ∧ t.out = s.out ∧ t.mem = s.mem) ∧
      (Nat.land (s.link l).ready (s.f (pLNK l) F.LNK_STS_ACTIVE) ≠ s.f (pLNK l) F.LNK_STS_ACTIVE →
        Goes (.trainStepDone l) s fun t => t = s)) ∧
    (s.f (pLNK l) F.LNK_STS_STATE = 6 →
      Goes (.trainStepDone l) s fun t =>
        t.f (pLNK l) F.LNK_STS_STATE = 7 ∧ (∀ v, v < 5 → t.f (pLNK l) (F.LNK_CRD_RX.at 4 v) = rxBuf v) ∧
        t.sentOn l = ((List.range 5).map (fun v =>
          flitBytes { ftype := 2 } ([1, BitVec.ofNat 8 v] ++ leBytes 2 (rxBuf v)))).reverse ++ s.sentOn l) ∧
    (s.f (pLNK l) F.LNK_STS_STATE = 7 → (s.link l).credIn = 31 → (s.link l).txq = [] →
      Goes (.linkUp l) s fun t =>
        t.f (pLNK l) F.LNK_STS_STATE = 8 ∧ t.linkUp l = true ∧ t.f (pLNK l) F.LNK_STS_TFAIL = 0 ∧
        (t.link l).txSeq = 0 ∧ (t.link l).rxSeq = 0 ∧ (t.link l).unacked = []) ∧
    (s.f (pLNK l) F.LNK_STS_STATE ≠ 7 ∨ (s.link l).credIn ≠ 31 → Goes (.linkUp l) s fun t => t = s) ∧
    (1 ≤ s.f (pLNK l) F.LNK_STS_STATE → s.f (pLNK l) F.LNK_STS_STATE ≤ 7 →
      (2 ≤ (s.link l).attempt →
        Goes (.trainFail l) s fun t =>
          t.f (pLNK l) F.LNK_STS_STATE = 1 ∧ (t.link l).attempt = (s.link l).attempt - 1 ∧ (t.link l).ts1 = []) ∧
      ((s.link l).attempt < 2 →
        Goes (.trainFail l) s fun t =>
          t.f (pLNK l) F.LNK_STS_STATE = 0 ∧ t.f (pLNK l) F.LNK_STS_TFAIL = 1 ∧ t.mem = s.mem)) ∧
    (s.f (pLNK l) F.LNK_STS_STATE = 0 → s.f (pLNK l) F.LNK_STS_TFAIL = 1 → s.wantsUp l = true →
      ((s.link l).stepAt + s.f (pLNK l) F.LNK_TRN_TMO_MS * 1000000 ≤ s.nowOn (l / 32) →
        Goes (.trainFail l) s fun t =>
          t.f (pLNK l) F.LNK_STS_STATE = 1 ∧ (t.link l).attempt = s.f (pLNK l) F.LNK_CTL_MAX_GEN ∧ t.mem = s.mem) ∧
      (s.nowOn (l / 32) < (s.link l).stepAt + s.f (pLNK l) F.LNK_TRN_TMO_MS * 1000000 →
        Goes (.trainFail l) s fun t => t = s)) ∧
    (8 ≤ s.f (pLNK l) F.LNK_STS_STATE → Goes (.trainFail l) s fun t => t = s))

/-- R573 to R576: a fault of an active lane of an up link moves its traffic to the spare, then to two lanes; R575:
the link resumes; R579 to R584, R587: a flit in order is accepted once, one that is not, or is bad, is NAKed once;
acknowledged flits are freed and the rest resent after LNK_RPLY_TMR. Where the spec leaves a choice it follows the
model's: log entries 53, 54, 84. -/
def Obligations.FlitsArriveInOrderOrAreReplayed : Prop :=
  (∀ (s : State) (l lane : Nat), s.dead = false → l < 64 → lane < 5 → s.f (pLNK l) F.LNK_STS_STATE = 8 →
    bit (s.f (pLNK l) F.LNK_STS_ACTIVE) lane = true → bit (s.f (pLNK l) F.LNK_LANE_STS_FAULT) lane = false →
    (∀ sp, sp < 5 → sp ≠ lane → bit (s.f (pLNK l) F.LNK_STS_ACTIVE) sp = false →
      bit (s.f (pLNK l) F.LNK_LANE_STS_FAULT) sp = false → bit (s.f (pLNK l) F.LNK_LANE_STS_GOOD) sp = true →
      s.f (pLNK l) F.LNK_CTL_SPARE_EN = 1 → s.f (pLNK l) F.LNK_STS_WIDTH = 4 →
      Goes (.laneFault l lane) s fun t =>
        t.f (pLNK l) F.LNK_STS_STATE = 9 ∧ t.f (pLNK l) F.LNK_STS_UP = s.f (pLNK l) F.LNK_STS_UP ∧
        bit (t.f (pLNK l) F.LNK_STS_ACTIVE) lane = false ∧ bit (t.f (pLNK l) F.LNK_LANE_STS_FAULT) lane = true ∧
        t.f (pLNK l) F.LNK_STS_WIDTH = 4 ∧ (t.link l).unacked = (s.link l).unacked ∧ t.fab = s.fab ∧ t.mem = s.mem) ∧
    (s.f (pLNK l) F.LNK_CTL_SPARE_EN = 0 → s.f (pLNK l) F.LNK_CTL_WIDTH2_EN = 1 →
      2 ≤ (lowLanes (s.f (pLNK l) F.LNK_STS_ACTIVE - 2 ^ lane) 5).length →
      Goes (.laneFault l lane) s fun t =>
        t.f (pLNK l) F.LNK_STS_STATE = 9 ∧ t.f (pLNK l) F.LNK_STS_WIDTH = 2 ∧
        t.f (pLNK l) F.LNK_STS_ACTIVE = laneMask ((lowLanes (s.f (pLNK l) F.LNK_STS_ACTIVE - 2 ^ lane) 5).take 2) ∧
        (t.link l).unacked = (s.link l).unacked ∧ t.fab = s.fab)) ∧
  (∀ (s : State) (l lane : Nat), s.dead = false → l < 64 → lane < 5 → bit (s.f (pLNK l) F.LNK_LANE_STS_FAULT) lane = false →
    bit (s.f (pLNK l) F.LNK_STS_ACTIVE) lane = false →
    Goes (.laneFault l lane) s fun t =>
      t.f (pLNK l) F.LNK_LANE_STS_FAULT = s.f (pLNK l) F.LNK_LANE_STS_FAULT + 2 ^ lane ∧
      OnlyRegsEv ((pLNK l * 4096 + R.LNK_LANE_STS) :: noted (pLNK l)) s t) ∧
  (∀ (s : State) (l : Nat), s.dead = false → l < 64 →
    (s.f (pLNK l) F.LNK_STS_STATE = 9 → (s.link l).txq = [] →
      Goes (.recoveryEnd l) s fun t =>
        t.f (pLNK l) F.LNK_STS_STATE = 8 ∧ t.fab = s.fab ∧ t.mem = s.mem ∧ (t.link l).unacked = (s.link l).unacked ∧
        (∀ f ∈ (s.link l).unacked, dataBytes (s.link l).rxSeq f ∈ t.sentOn l) ∧
        ((s.link l).unacked = [] → t.out = s.out)) ∧
    (s.f (pLNK l) F.LNK_STS_STATE ≠ 9 → Goes (.recoveryEnd l) s fun t => t = s)) ∧
  (∀ (s : State) (l fc fu : Nat) (h : FlitHdr) (body : List Byte) (b : List Byte), s.dead = false → l < 64 →
    parseFlit b = some (h, body) → (s.link l).txq = [] →
    (h.ftype = 1 → s.flitsOn l = true → h.ackv = false → h.nak = false → 5 ≤ h.cvc →
      Goes (.dataFlit l b fc fu) s fun t =>
        (h.seq = (s.link l).rxSeq →
          (t.link l).rxSeq = ((s.link l).rxSeq + 1) % 4096 ∧ (t.link l).nakSent = false ∧
          t.sentOn l = nopBytes (((s.link l).rxSeq + 1) % 4096) false :: s.sentOn l) ∧
        (h.seq ≠ (s.link l).rxSeq → (t.link l).rxSeq = (s.link l).rxSeq ∧ (t.link l).nakSent = true ∧
          t.sentOn l = (if (s.link l).nakSent then [] else [nopBytes (s.link l).rxSeq true]) ++ s.sentOn l) ∧
        t.f (pLNK l) F.LNK_CNT_FECC_CNT = (if s.f (pLNK l) F.LNK_STS_FEC = 1 then
          min (2 ^ (F.LNK_CNT_FECC_CNT.hi + 1 - F.LNK_CNT_FECC_CNT.lo) - 1) (s.f (pLNK l) F.LNK_CNT_FECC_CNT + fc)
          else s.f (pLNK l) F.LNK_CNT_FECC_CNT) ∧
        t.f (pLNK l) F.LNK_CNT_FECU_CNT = (if s.f (pLNK l) F.LNK_STS_FEC = 1 then
          min (2 ^ (F.LNK_CNT_FECU_CNT.hi + 1 - F.LNK_CNT_FECU_CNT.lo) - 1) (s.f (pLNK l) F.LNK_CNT_FECU_CNT + fu)
          else s.f (pLNK l) F.LNK_CNT_FECU_CNT) ∧
        (t.link l).unacked = (s.link l).unacked ∧ t.mem = s.mem ∧ t.fab = s.fab) ∧
    (h.ftype = 0 → s.flitsOn l = true → h.ackv = false → h.nak = false → h.cvc < 5 →
      Goes (.nopFlit l b fc fu) s fun t =>
        t.crdTx l h.cvc = min 8191 (s.crdTx l h.cvc + h.crd) ∧ t.links = s.links ∧ t.mem = s.mem ∧ t.fab = s.fab) ∧
    (h.ftype = 0 → s.flitsOn l = true → h.ackv = true → h.nak = false → 5 ≤ h.cvc →
      Goes (.nopFlit l b fc fu) s fun t =>
        (∀ f fs k, (s.link l).unacked = f :: fs → (h.ack + 4096 - f.seq) % 4096 = k → k ≤ fs.length + 1 →
          (t.link l).unacked = (f :: fs).drop k) ∧ t.mem = s.mem ∧ t.fab = s.fab) ∧
    (h.ftype = 2 → fieldOf body 0 1 = 1 → fieldOf body 1 1 < 5 → s.f (pLNK l) F.LNK_STS_STATE = 7 →
      Goes (.creditInit l b) s fun t =>
        t.crdTx l (fieldOf body 1 1) = min 8191 (fieldOf body 2 2) ∧
        bit (t.link l).credIn (fieldOf body 1 1) = true ∧ t.mem = s.mem ∧ t.fab = s.fab) ∧
    (h.ftype = 2 → fieldOf body 0 1 = 2 → s.f (pLNK l) F.LNK_STS_STATE = 8 → h.ackv = false → h.nak = false →
      5 ≤ h.cvc →
      Goes (.recover l b) s fun t => t.f (pLNK l) F.LNK_STS_STATE = 9 ∧ t.mem = s.mem ∧ t.fab = s.fab)) ∧
  (∀ (s : State) (l fc fu : Nat) (b : List Byte), s.dead = false → l < 64 → s.flitsOn l = true → parseFlit b = none →
    (Goes (.dataFlit l b fc fu) s fun t =>
      (t.link l).nakSent = true ∧ (t.link l).rxSeq = (s.link l).rxSeq ∧
      t.f (pLNK l) F.LNK_CNT_CRC_CNT =
        min (2 ^ (F.LNK_CNT_CRC_CNT.hi + 1 - F.LNK_CNT_CRC_CNT.lo) - 1) (s.f (pLNK l) F.LNK_CNT_CRC_CNT + 1))) ∧
  (∀ (s : State) (l : Nat), s.dead = false → l < 64 →
    (s.flitsOn l = true → 4095 ≤ (s.link l).nonNop → (s.link l).txq = [] →
      Goes (.nopInsert l) s fun t =>
        (t.link l).nonNop = 0 ∧ t.sentOn l = nopBytes (s.link l).rxSeq false :: s.sentOn l ∧ t.regs = s.regs) ∧
    ((s.link l).nonNop < 4095 → Goes (.nopInsert l) s fun t => t = s) ∧
    (s.flitsOn l = true → (s.link l).unacked ≠ [] →
      (s.link l).progAt + s.f (pLNK l) F.LNK_RPLY_TMR_NS ≤ s.nowOn (l / 32) →
      (s.link l).noProg < s.f (pLNK l) F.LNK_RPLY_MAX →
      Goes (.replayTimerExpiry l) s fun t =>
        (t.link l).unacked = (s.link l).unacked ∧ (t.link l).noProg = (s.link l).noProg + 1 ∧
        t.f (pLNK l) F.LNK_CNT_RPLY_CNT =
          min (2 ^ (F.LNK_CNT_RPLY_CNT.hi + 1 - F.LNK_CNT_RPLY_CNT.lo) - 1) (s.f (pLNK l) F.LNK_CNT_RPLY_CNT + 1) ∧
        (∀ f ∈ (s.link l).unacked, dataBytes (s.link l).rxSeq f ∈ t.sentOn l) ∧ t.fab = s.fab ∧ t.mem = s.mem) ∧
    (s.flitsOn l = true → (s.link l).unacked ≠ [] →
      (s.link l).progAt + s.f (pLNK l) F.LNK_RPLY_TMR_NS ≤ s.nowOn (l / 32) →
      s.f (pLNK l) F.LNK_RPLY_MAX ≤ (s.link l).noProg → s.tagsWhere (fun r => r.link == l) = [] → s.fab.wait = [] →
      Goes (.replayTimerExpiry l) s fun t =>
        t.f (pLNK l) F.PG_ERR_CNT_LAST = 0x0C ∧ t.flitsOn l = false ∧ t.fab = s.fab ∧ t.mem = s.mem ∧
        (s.wantsUp l = true → t.f (pLNK l) F.LNK_STS_STATE = 1)) ∧
    (s.nowOn (l / 32) < (s.link l).progAt + s.f (pLNK l) F.LNK_RPLY_TMR_NS →
      Goes (.replayTimerExpiry l) s fun t => t = s) ∧
    ((s.link l).unacked = [] → Goes (.replayTimerExpiry l) s fun t => t = s))

/-- R583, R584, R589, R590, R592, R593, R597, R598, R420, Table 16-9: an arriving request on an up link, within the
credits of its channel, is checked in order and answered on its own link; an accepted one acts with its arrival
partition's rights on tier memory, on the control space, on a message ring, on a dependency count or on a token
stream, and is completed with its status; it waits in its receive buffer while its page is held or its target does
not take it. Where the spec leaves a choice it follows the model's: log entries 3, 55, 56, 57, 84. -/
def Obligations.ArrivingRequestsActAndAreAnswered : Prop :=
  (∀ (s : State) (l w : Nat) (data : List Byte) (errs : Errs),
    ∀ c ∈ [(1, Instr.read l w data errs, s.finds errs), (2, .write l w data, s), (3, .atomic l w data errs, s.finds errs),
      (4, .message l w data, s), (5, .event l w data, s), (6, .tstream l w data errs, s.finds errs)],
    let u := rxTake l (rxPkt w data) c.2.2
    (s.pins.held = false → l < 64 → w < 2 ^ 128 →
      s.linkUp l = false ∨ (hdrOf w).opc ≠ c.1 ∨ s.crdRx l (rxPkt w data).vc < (rxPkt w data).units →
      Goes c.2.1 s fun t => Waits s t) ∧
    (s.comes l w data → (hdrOf w).opc = c.1 →
      (s.failed = true ∨ s.pins.tripped = true → Goes c.2.1 s fun t => Answered l w data 0x03 [] 0 u t ∧ SameMem s t) ∧
      (s.failed = false → s.pins.tripped = false →
        (s.holderOf resLnk l = none →
          Goes c.2.1 s fun t =>
            t.f (pLNK l) F.PG_ERR_CNT_LAST = 0x02 ∧ SameMem s t ∧ t.sch = s.sch ∧
            Answered l w data 0x02 [] 0 (logErr (pLNK l) 0x02 oTormal 0 0 u) t) ∧
        (∀ p, s.holderOf resLnk l = some p → p < 8 → (s.part p).st ≠ .free →
          ((hdrOf w).dst ≠ s.f pGLB F.FAB_DEVID_ID →
            Goes c.2.1 s fun t => Answered l w data 0x03 [] 0 u t ∧ SameMem s t) ∧
          ((hdrOf w).dst = s.f pGLB F.FAB_DEVID_ID → (s.part p).st = .resetting →
            Goes c.2.1 s fun t => Answered l w data 0x01 [] 0 u t ∧ SameMem s t) ∧
          ((hdrOf w).dst = s.f pGLB F.FAB_DEVID_ID → (s.part p).st ≠ .resetting → 3 ≤ s.pauseSt p →
            Goes c.2.1 s fun t =>
              t.f (pCKP 0) F.PG_ERR_CNT_LAST = 0x11 ∧ SameMem s t ∧
              Answered l w data 0x01 [] 0 (logErr (pCKP 0) 0x11 p 0 0 u) t) ∧
          ((hdrOf w).dst = s.f pGLB F.FAB_DEVID_ID → (s.part p).st ≠ .resetting → s.pauseSt p < 3 →
            (reqOk w (hdrOf w) data = false →
              Goes c.2.1 s fun t => Answered l w data 0x05 [] 0 u t ∧ SameMem s t) ∧
            (reqOk w (hdrOf w) data = true → s.f (pLNK l) F.PG_CTL_EN = 0 →
              Goes c.2.1 s fun t => Answered l w data 0x01 [] 0 u t ∧ SameMem s t) ∧
            (reqOk w (hdrOf w) data = true → s.f (pLNK l) F.PG_CTL_EN = 1 → s.f (pLNK l) F.PG_CTL_HOLD = 1 →
              Goes c.2.1 s fun t => Buffered l w data s t)))))) ∧
  (∀ (s : State) (l w p : Nat) (data : List Byte) (errs : Errs), s.comes l w data → s.admits l w data p →
    s.f (pLNK l) F.PG_CTL_HOLD = 0 →
    let h := hdrOf w
    let u := rxTake l (rxPkt w data) s
    let v := rxTake l (rxPkt w data) (s.finds errs)
    let marked := maskBytes h.addr (if h.poison then h.pmask else 0) data
    let at_ := s.nowOn (l / 32)
    (h.opc = 0x01 → h.space ≠ 0 →
      let r := memRead (pLNK l) (v.access p) h.space h.addr (h.rlen + 1) true v
      let turn := v.turnAt h.space h.addr (h.rlen + 1) (reqClass false true) at_
      (turn = true → r.1 ≠ 0x12 → r.2.2.mem.wait = false →
        Goes (.read l w data errs) s fun t =>
          (if r.1 = 0 then
             Answered l w data 0 (r.2.1.map (fun x => if x.2 then 0 else x.1)) (pmaskOf h.addr r.2.1) r.2.2 t
           else Answered l w data (statusOf r.1) [] 0 r.2.2 t) ∧ SameMem r.2.2 t) ∧
      (turn = false ∨ r.1 = 0x12 → Goes (.read l w data errs) s fun t => Buffered l w data s t)) ∧
    (h.opc = 0x01 → h.space = 0 →
      let x := pageRead p h.addr (h.rlen + 1) v
      x.2.mem.wait = false →
      Goes (.read l w data errs) s fun t =>
        (if (v.reaches p (h.addr / 4096) && v.readOk p (h.addr / 4096) (h.addr % 4096)) = true then
           Answered l w data 0 (leBytes (h.rlen + 1) x.1) 0 x.2 t
         else Answered l w data 0x02 [] 0 x.2 t) ∧ SameMem s t) ∧
    (h.opc = 0x02 → h.space ≠ 0 →
      let r := memWrite (pLNK l) (u.access p) h.space h.addr marked true u
      let turn := u.turnAt h.space h.addr data.length (reqClass true true) at_
      (turn = true → r.1 ≠ 0x12 → r.2.mem.wait = false →
        Goes (.write l w data) s fun t => Answered l w data (statusOf r.1) [] 0 r.2 t ∧ t.mem = r.2.mem) ∧
      (turn = false ∨ r.1 = 0x12 → Goes (.write l w data) s fun t => Buffered l w data s t)) ∧
    (h.opc = 0x02 → h.space = 0 →
      let x := pageWrite p h.addr h.len (leNat data) u
      x.mem.wait = false →
      Goes (.write l w data) s fun t =>
        Answered l w data (if u.reaches p (h.addr / 4096) && u.mayWrite p (h.addr / 4096) then 0 else 0x02) [] 0 x t ∧
        t.mem = x.mem) ∧
    (h.opc = 0x03 →
      let sz := atomicSize h.sub
      let lanes := if h.sub = 0x18 then [(h.addr % 64, fieldOf data 0 16)]
        else (List.range (h.len / max 1 sz)).map (fun i => (h.addr % 64 + i * sz, fieldOf data (i * sz) sz))
      let r := memAtomic (pLNK l) (v.access p) h.space (h.addr / 64 * 64) h.sub lanes true v
      let turn := v.turnAt h.space (h.addr / 64 * 64) 64 2 at_ 2
      (turn = true → r.1 ≠ 0x12 → r.2.2.mem.wait = false →
        Goes (.atomic l w data errs) s fun t =>
          Answered l w data (statusOf r.1) (if h.ret && r.1 == 0 then r.2.1.foldl (fun a v => a ++ leBytes sz v) [] else [])
            0 r.2.2 t ∧ SameMem r.2.2 t) ∧
      (turn = false ∨ r.1 = 0x12 → Goes (.atomic l w data errs) s fun t => Buffered l w data s t)) ∧
    (h.opc = 0x05 → s.mem.wait = false →
      (h.addr < 65536 → (s.sc p).inQ = [] → s.takesWork (pSCH p) = true →
        let x := decrement p h.addr (u.setSc p { u.sc p with inQ := [] })
        Goes (.event l w data) s fun t => t.sch = x.sch ∧ Answered l w data 0 [] 0 x t) ∧
      (h.addr < 65536 → (s.sc p).inQ.length < 256 → s.takesWork (pSCH p) = false →
        Goes (.event l w data) s fun t =>
          (t.sc p).inQ = (s.sc p).inQ ++ [{ link := l, hdr := w }] ∧ (t.sc p).slots = (s.sc p).slots ∧ t.mem = s.mem) ∧
      (h.addr < 65536 → 256 ≤ (s.sc p).inQ.length → Goes (.event l w data) s fun t => Buffered l w data s t) ∧
      (65536 ≤ h.addr → Goes (.event l w data) s fun t => Answered l w data 0x03 [] 0 u t ∧ t.sch = s.sch)) ∧
    (h.opc = 0x04 → s.mem.wait = false →
      let prod := s.f (pLNK l) F.LNK_MRING_PROD_CNT
      let size := 2 ^ s.f (pLNK l) F.LNK_MRING_CTL_LOG2N
      let full := (prod + 2 ^ 32 - s.f (pLNK l) F.LNK_MRING_CONS_CNT) % 2 ^ 32 = size
      (s.f (pLNK l) F.LNK_MRING_CTL_EN = 0 →
        Goes (.message l w data) s fun t => Answered l w data 0x03 [] 0 u t ∧ t.mem = s.mem) ∧
      (s.f (pLNK l) F.LNK_MRING_CTL_EN ≠ 0 → full →
        Goes (.message l w data) s fun t => Answered l w data 0x06 [] 0 u t ∧ t.mem = s.mem) ∧
      (s.f (pLNK l) F.LNK_MRING_CTL_EN ≠ 0 → ¬ full →
        let r := memWrite (pLNK l) (u.access p) (s.mring l).1 ((s.mring l).2 + 64 * (prod % size))
          (plain (leBytes 2 h.src ++ leBytes 1 h.len ++ List.replicate 5 0 ++ leBytes 8 at_ ++ padTo 48 data)) false u
        (r.1 = 0 → r.2.mem.wait = false →
          Goes (.message l w data) s fun t =>
            t.mem = r.2.mem ∧ t.f (pLNK l) F.LNK_MRING_PROD_CNT = (prod + 1) % 2 ^ 32 ∧
            Answered l w data 0 [] 0 (r.2.setF (pLNK l) F.LNK_MRING_PROD_CNT (prod + 1)) t) ∧
        (r.1 = 0x12 → Goes (.message l w data) s fun t => Buffered l w data s t))) ∧
    (h.opc = 0x06 →
      let r := readPlain (pLNK l) (v.access p) h.space h.addr 64 v true
      let d := r.2.1
      let size := 2 ^ fieldOf d 7 1
      let tail := fieldOf d 16 8
      let y := ringAppend (pLNK l) (r.2.2.access p) (fieldOf d 6 1) (fieldOf d 0 6) size tail h.len marked r.2.2
      let z := memWrite (pLNK l) (y.2.access p) h.space (h.addr + 16) (plain (leBytes 8 (tail + h.len))) true y.2
      let turn := v.turnAt h.space h.addr 64 (reqClass true true) at_
      (turn = false ∨ r.1 = 0x12 → Goes (.tstream l w data errs) s fun t => Buffered l w data s t) ∧
      (turn = true → r.1 = 0 → 1 ≤ fieldOf d 6 1 → fieldOf d 6 1 < 4 → 12 ≤ fieldOf d 7 1 → fieldOf d 7 1 ≤ 40 →
        (d.drop 24).all (· == 0) = true →
        (fieldOf d 8 8 + size < tail + h.len → r.2.2.mem.wait = false →
          Goes (.tstream l w data errs) s fun t => Answered l w data 0x06 [] 0 r.2.2 t ∧ SameMem r.2.2 t) ∧
        (tail + h.len ≤ fieldOf d 8 8 + size → y.1 = 0 → z.1 = 0 → z.2.mem.wait = false →
          Goes (.tstream l w data errs) s fun t =>
            SameMem z.2 t ∧ Answered l w data 0 (leBytes 8 tail) 0 z.2 t))))

/-- R583, R584, R588, R591, R599 to R603: a completion frees its request's tag and returns its credits, or is
counted as stray; it finishes or faults what asked for it, and one of a partition in reset is dropped; a request
without one is released after LNK_RTMO with 0x17, its tag unusable until FAB_TAG_QNS has passed; LNK_XCTL sends the
header and data software wrote, and is refused while one is outstanding. Where the spec leaves a choice it follows
the model's: log entries 3, 54. -/
def Obligations.RequestsEndWithTheirCompletions : Prop :=
  (∀ (s : State) (l w : Nat) (data : List Byte), s.dead = false → l < 64 → w < 2 ^ 128 →
    let g := (hdrOf w).tag
    let y := rxFree l true (rxPkt w data) (rxTake l (rxPkt w data) s)
    (s.linkUp l = false ∨ (hdrOf w).opc ≠ 0x10 ∨ s.crdRx l 1 < (rxPkt w data).units → Goes (.cpl l w data) s fun t => t = s) ∧
    (s.linkUp l = true → (hdrOf w).opc = 0x10 → (rxPkt w data).units ≤ s.crdRx l 1 →
      (s.tagReq g = none →
        Goes (.cpl l w data) s fun t =>
          t.f (pLNK l) F.LNK_CNT_STRAY_CNT =
            min (2 ^ (F.LNK_CNT_STRAY_CNT.hi + 1 - F.LNK_CNT_STRAY_CNT.lo) - 1) (s.f (pLNK l) F.LNK_CNT_STRAY_CNT + 1) ∧
          t.sentOn l = flitBytes { ftype := 0, ack := (s.link l).rxSeq, ackv := true, cvc := 1, crd := (rxPkt w data).units } [] ::
            s.sentOn l ∧
          t.crdRx l 1 = min 4096 (s.crdRx l 1) ∧ t.fab = s.fab ∧ t.mem = s.mem ∧ t.sch = s.sch ∧ t.cores = s.cores) ∧
      (∀ r, s.tagReq g = some r → r.part < 8 → (s.part r.part).st = .resetting → r.late (s.nowOn (r.link / 32)) = false →
        s.fab.wait = [] →
        Goes (.cpl l w data) s fun t =>
          t.tagReq g = none ∧ t.tagQuar g = some (s.now + s.f pGLB F.FAB_TAG_QNS_MS * 1000000) ∧ t.mem = s.mem ∧
          t.sch = s.sch ∧ t.cores = s.cores) ∧
      (∀ r p, s.tagReq g = some r → s.fab.wait = [] → r.late (s.nowOn (r.link / 32)) = true → r.who = .succ p →
        p < 8 → r.link < 64 →
        Goes (.cpl l w data) s fun t =>
          t.tagReq g = none ∧ t.f (pLNK r.link) F.PG_ERR_CNT_LAST = 0x17 ∧ t.f (pSCH p) F.PG_ERR_CNT_LAST = 0x17 ∧
          t.mem = s.mem ∧ t.sch = s.sch) ∧
      (∀ r, s.tagReq g = some r → s.fab.wait = [] → r.late (s.nowOn (r.link / 32)) = false →
        (r.part < 8 → (s.part r.part).st ≠ .resetting) → r.link < 64 → (hdrOf w).sub < 10 →
        (∀ p n c, r.who = .op p n → s.planCoreOf p n r.id = some c → (s.slot p n).drain = false →
          ((hdrOf w).sub = 0 →
            Goes (.cpl l w data) s fun t =>
              t.tagReq g = none ∧ (∀ j, j ≠ g → t.tagReq j = s.tagReq j) ∧
              (t.tq c 3).reqs = (s.tq c 3).reqs.filter (fun x => x.id != r.id) ∧ t.sch = s.sch ∧ t.mem = s.mem ∧
              ∀ d, d ≠ c → t.core d = s.core d) ∧
          (∀ h, (hdrOf w).sub ≠ 0 → (s.slot p n).st = .running → (s.slot p n).heldRel = false →
            (s.slot p n).frel = false → (s.flow p (s.slot p n).flow).ordered = false → (s.core c).op = some h →
            h.part = p → h.slot = n →
            Goes (.cpl l w data) s fun t =>
              t.tagReq g = none ∧ t.f (pLNK r.link) F.PG_ERR_CNT_LAST = codeOf (hdrOf w).sub ∧
              (t.slot p n).st = .faulted ∧ t.dropped c)) ∧
        (∀ p, r.who = .succ p → (hdrOf w).sub = 0 →
          Goes (.cpl l w data) s fun t =>
            t.tagReq g = none ∧ (∀ j, j ≠ g → t.tagReq j = s.tagReq j) ∧ t.sch = s.sch ∧ t.cores = s.cores ∧ t.mem = s.mem) ∧
        (∀ k, r.who = .xctl k → k < 64 →
          (data = [] →
            Goes (.cpl l w data) s fun t =>
              t.tagReq g = none ∧ t.f (pLNK k) F.LNK_XSTS_BUSY = 0 ∧
              t.f (pLNK k) F.LNK_XSTS_STATUS = (hdrOf w).sub ∧ t.f (pLNK k) F.LNK_XSTS_CODE = codeOf (hdrOf w).sub ∧
              t.mem = s.mem) ∧
          (let z := freeReq g y
           let u := z.setLink k { z.link k with xrsp := none }
           let own := (s.assignee (pLNK k)).getD (s.defSubj (pLNK k))
           let a := s.f (pLNK k) F.LNK_XRSP_LO_ADDR * 4 + s.f (pLNK k) F.LNK_XRSP_HI_ADDR * 2 ^ 32
           let x := memWrite (pLNK k) (u.access own) (s.f (pLNK k) F.LNK_XRSP_LO_TIER) a
             (maskBytes 0 (if (hdrOf w).poison then (hdrOf w).pmask else 0) data) false u
           data ≠ [] → (hdrOf w).sub = 0 → z.accessCode own (s.f (pLNK k) F.LNK_XRSP_LO_TIER) a data.length ≠ 0x12 →
           Goes (.cpl l w data) s fun t =>
             t.tagReq g = none ∧ t.f (pLNK k) F.LNK_XSTS_BUSY = 0 ∧ t.f (pLNK k) F.LNK_XSTS_STATUS = 0 ∧
             t.f (pLNK k) F.LNK_XSTS_CODE = x.1 % 256 ∧ t.mem = x.2.mem))))) ∧
  (∀ (s : State) (g : Nat) (r : FabReq), s.dead = false → g < 16384 → s.tagReq g = some r →
    (s.nowOn (r.link / 32) < r.since + r.rtmo → Goes (.lnkRtmoExpiry g) s fun t => t = s) ∧
    (∀ k, r.since + r.rtmo ≤ s.nowOn (r.link / 32) → r.who = .xctl k → k < 64 → r.link < 64 → s.fab.wait = [] →
      Goes (.lnkRtmoExpiry g) s fun t =>
        t.tagReq g = none ∧ t.tagQuar g = some (s.now + s.f pGLB F.FAB_TAG_QNS_MS * 1000000) ∧
        t.f (pLNK k) F.LNK_XSTS_BUSY = 0 ∧ t.f (pLNK k) F.LNK_XSTS_CODE = 0x17 ∧
        t.f (pLNK r.link) F.PG_ERR_CNT_LAST = 0x17 ∧ t.mem = s.mem) ∧
    (∀ p n c h, r.since + r.rtmo ≤ s.nowOn (r.link / 32) → r.who = .op p n → s.planCoreOf p n r.id = some c → r.link < 64 →
      s.fab.wait = [] → (s.slot p n).drain = false → (s.slot p n).st = .running → (s.slot p n).heldRel = false →
      (s.slot p n).frel = false → (s.flow p (s.slot p n).flow).ordered = false → (s.core c).op = some h → h.part = p →
      h.slot = n →
      Goes (.lnkRtmoExpiry g) s fun t =>
        t.tagReq g = none ∧ t.tagQuar g = some (s.now + s.f pGLB F.FAB_TAG_QNS_MS * 1000000) ∧
        t.f (pLNK r.link) F.PG_ERR_CNT_LAST = 0x17 ∧ (t.slot p n).st = .faulted ∧ t.dropped c)) ∧
  (∀ (s : State) (g e : Nat), s.dead = false → g < 16384 → s.tagQuar g = some e →
    (s.now < e → Goes (.tagQuarantineEnd g) s fun t => t = s) ∧
    (e ≤ s.now → s.fab.wait = [] →
      Goes (.tagQuarantineEnd g) s fun t =>
        t.tagQuar g = none ∧ (∀ j, j ≠ g → t.tagQuar j = s.tagQuar j) ∧ { t with fab := s.fab } = s)) ∧
  (∀ (s : State) (m l : Nat), s.dead = false → okMaster m = true → l < 64 → s.reaches m (pLNK l) = true →
    s.mayWrite m (pLNK l) = true →
    (∀ g, s.rstBusy (pLNK l) = false → s.linkUp l = true → s.f (pLNK l) F.LNK_XSTS_BUSY = 0 →
      1 ≤ (hdrOf (s.xhdr l)).opc → (hdrOf (s.xhdr l)).opc ≤ 6 → hdrReserved (s.xhdr l) = false →
      3 ≤ s.f (pLNK l) F.LNK_PEER_FVER → s.freeTag = some g →
      let sent (t : State) : Prop :=
        t.f (pLNK l) F.LNK_XSTS_BUSY = 1 ∧ t.f (pLNK l) F.LNK_XSTS_CODE = 0 ∧
        ∃ r, t.tagReq g = some r ∧ r.who = .xctl l ∧ r.link = l ∧ r.opc = (hdrOf (s.xhdr l)).opc ∧ r.since = s.nowOn (l / 32)
      ((hdrOf (s.xhdr l)).len = 0 → Goes (.lnkXctlGo m l (2 ^ 31)) s fun t => sent t ∧ t.mem = s.mem) ∧
      ((hdrOf (s.xhdr l)).len ≠ 0 →
        let own := (s.assignee (pLNK l)).getD (s.defSubj (pLNK l))
        let a := s.f (pLNK l) F.LNK_XDATA_LO_ADDR * 4 + s.f (pLNK l) F.LNK_XDATA_HI_ADDR * 2 ^ 32
        let u := ((s.setF (pLNK l) F.LNK_XSTS_BUSY 1).setF (pLNK l) F.LNK_XSTS_CODE 0).setF (pLNK l) F.LNK_XSTS_STATUS 0
        let v := u.setLink l { u.link l with xpend := false }
        let x := readPlain (pLNK l) (v.access own) (s.f (pLNK l) F.LNK_XDATA_LO_TIER) a (hdrOf (s.xhdr l)).len v
        u.spanCode own (s.f (pLNK l) F.LNK_XDATA_LO_TIER) a (hdrOf (s.xhdr l)).len ≠ 0x12 →
        (x.1 = 0 → Goes (.lnkXctlGo m l (2 ^ 31)) s fun t => sent t ∧ t.mem = x.2.2.mem) ∧
        (x.1 ≠ 0 →
          Goes (.lnkXctlGo m l (2 ^ 31)) s fun t =>
            t.f (pLNK l) F.LNK_XSTS_BUSY = 0 ∧ t.f (pLNK l) F.LNK_XSTS_CODE = x.1 % 256 ∧ t.fab = s.fab ∧ t.mem = x.2.2.mem))) ∧
    (1 ≤ (hdrOf (s.xhdr l)).opc → (hdrOf (s.xhdr l)).opc ≤ 6 → hdrReserved (s.xhdr l) = false →
      s.f (pLNK l) F.LNK_XSTS_BUSY = 1 ∨ s.linkUp l = false →
      Goes (.lnkXctlGo m l (2 ^ 31)) s fun t =>
        t.f (pLNK l) F.PG_WREJ_OFS_CODE = 0x11 ∧ OnlyRegsEv (refusedRegs (pLNK l)) s t) ∧
    ((hdrOf (s.xhdr l)).opc = 0 ∨ 6 < (hdrOf (s.xhdr l)).opc →
      Goes (.lnkXctlGo m l (2 ^ 31)) s fun t =>
        t.f (pLNK l) F.PG_WREJ_OFS_CODE = 0x01 ∧ OnlyRegsEv (refusedRegs (pLNK l)) s t))

/-- R615, R616, R626 to R630, R634, R635: an enabled queue pair takes a new tail, fetches its entries in order into
the command queue of its partition, stops at an entry it cannot fetch, writes its completions in order, and sends at
most one interrupt each µs for them; its page refuses what R616 refuses. Where the spec leaves a choice it follows
the model's: log entries 20, 58, 60. -/
def Obligations.QueuePairsFetchAndComplete : Prop :=
  (∀ (s : State) (p q v : Nat), s.dead = false → p < 8 → q < 4 → v < 2 ^ 32 →
    (s.enabled p = true → (s.qp p q).en = true → v < 2 ^ (s.qp p q).log2n → (s.qp p q).log2n ≤ 12 →
      Goes (.sqTailWrite p q v) s fun t => t = s.setQp p q { s.qp p q with sqTail := v }) ∧
    (s.enabled p = true → (s.qp p q).log2n ≤ 12 → 2 ^ (s.qp p q).log2n ≤ v →
      Goes (.sqTailWrite p q v) s fun t =>
        t.qp p q = { s.qp p q with wrej := true } ∧ t.f pHIF F.PG_ERR_CNT_LAST = 0x01 ∧
        OnlyRegsEv (noted pHIF) s { t with hif := s.hif }) ∧
    (s.enabled p = false →
      Goes (.sqTailWrite p q v) s fun t =>
        t.qp p q = { s.qp p q with wrej := true } ∧ t.f pHIF F.PG_ERR_CNT_LAST = 0x02 ∧
        OnlyRegsEv (noted pHIF) s { t with hif := s.hif }) ∧
    (s.enabled p = true → qRes0 0x10 v = true → 4 ≤ bits v 11 8 → bits v 11 8 ≤ 12 → bit v 31 = true →
      (s.qp p q).en = false → (s.qp p q).busy = false →
      Goes (.qCfgWrite p q v) s fun t =>
        (t.qp p q).en = true ∧ (t.qp p q).ien = bit v 30 ∧ (t.qp p q).vec = bits v 21 16 ∧
        (t.qp p q).log2n = bits v 11 8 ∧ (t.qp p q).sqTail = 0 ∧ (t.qp p q).sqHead = 0 ∧ (t.qp p q).cqHead = 0 ∧
        (t.qp p q).err = false ∧ (t.qp p q).sqBase = (s.qp p q).sqBase ∧
        (∀ j, j ≠ q → j < 4 → t.qp p j = s.qp p j) ∧ { t with hif := s.hif } = s) ∧
    (s.enabled p = true → qRes0 0x10 v = true → 4 ≤ bits v 11 8 → bits v 11 8 ≤ 12 → bit v 31 = true →
      (s.qp p q).en = false → (s.qp p q).busy = true →
      Goes (.qCfgWrite p q v) s fun t =>
        t.qp p q = { s.qp p q with wrej := true } ∧ t.f pHIF F.PG_ERR_CNT_LAST = 0x11) ∧
    (s.enabled p = true → qRes0 0x10 v = true → 4 ≤ bits v 11 8 → bits v 11 8 ≤ 12 → (s.qp p q).en = true →
      v + 2 ^ 31 = (s.qp p q).cfgWord → bit v 31 = false →
      Goes (.qCfgWrite p q v) s fun t =>
        (t.qp p q).en = false ∧ (t.qp p q).waiting = (s.qp p q).waiting ∧ (t.qp p q).open_ = (s.qp p q).open_ ∧
        { t with hif := s.hif } = s)) ∧
  (∀ (s : State) (p q : Nat) (entry : List Byte), s.dead = false → p < 8 →
    s.enabled p = true → s.f pHIF F.HIF_LINK_STS_UP = 1 → s.nextQ p = some q →
    s.overdue pHIF ((s.qp p q).fetch.getD (s.issue pHIF)) = false →
    (entry.length = 64 → (entry.drop 34).all (· == 0) = true → s.takesCmds p = true → s.qfree p ≠ 0 →
      Goes (.sqFetch p entry 0) s fun t =>
        (t.qp p q).sqHead = ((s.qp p q).sqHead + 1) % 2 ^ (s.qp p q).log2n ∧
        (t.qp p q).fetched = (s.qp p q).fetched + 1 ∧ (t.qp p q).open_ = (s.qp p q).open_ + 1 ∧
        (∃ c, (t.sc p).cmdQ = (s.sc p).cmdQ ++ [c] ∧ c.bytes = entry.take 32 ∧
          c.src = .queue q (((s.qp p q).sqHead + 1) % 2 ^ (s.qp p q).log2n) (fieldOf entry 32 2)) ∧
        (t.qp p q).fetch = none ∧ t.mem = s.mem) ∧
    (entry.length = 64 → (entry.drop 34).any (· != 0) = true → (s.qp p q).waiting.length ≤ (s.qp p q).open_ →
      Goes (.sqFetch p entry 0) s fun t =>
        (∃ e, (t.qp p q).waiting = (s.qp p q).waiting ++ [e] ∧ e.status = 0x04 ∧ e.cid = fieldOf entry 32 2) ∧
        t.sch = s.sch ∧ t.mem = s.mem) ∧
    (entry.length = 64 → (entry.drop 34).all (· == 0) = true → s.takesCmds p = false ∨ s.qfree p = 0 →
      (s.qp p q).waiting.length ≤ (s.qp p q).open_ →
      Goes (.sqFetch p entry 0) s fun t =>
        (∃ e, (t.qp p q).waiting = (s.qp p q).waiting ++ [e] ∧ e.status = 0x12 ∧ e.cid = fieldOf entry 32 2) ∧
        t.f (pSCH p) F.PG_ERR_CNT_LAST = 0x12 ∧ t.sch = s.sch ∧ t.mem = s.mem) ∧
    (∀ res, res ≠ 0 → res ≠ 0x03 →
      Goes (.sqFetch p entry res) s fun t =>
        (t.qp p q).err = true ∧ (t.qp p q).code = 0x07 ∧
        (t.qp p q).sqHead = (s.qp p q).sqHead ∧ t.sch = s.sch ∧ t.mem = s.mem) ∧
    ((s.qp p q).fetch = none →
      Goes (.sqFetch p entry 0x03) s fun t => t.qp p q = { s.qp p q with fetch := some (s.issue pHIF) } ∧ { t with hif := s.hif } = s) ∧
    (∀ i, (s.qp p q).fetch = some i → s.expired pHIF i = true →
      Goes (.sqFetch p entry 0x03) s fun t =>
        (t.qp p q).err = true ∧ (t.qp p q).code = 0x03 ∧ (t.qp p q).sqHead = (s.qp p q).sqHead ∧
        t.f pHIF F.PG_ERR_CNT_LAST = 0x03 ∧ t.sch = s.sch ∧ t.mem = s.mem)) ∧
  (∀ (s : State) (p q : Nat), s.dead = false → p < 8 → q < 4 →
    (∀ e es, (s.qp p q).waiting = e :: es → (s.part p).st = .resetting →
      Goes (.cqWrite p q) s fun t => t = s.setQp p q { s.qp p q with waiting := es, open_ := (s.qp p q).open_ - 1 }) ∧
    (∀ e es, (s.qp p q).waiting = e :: es → (s.part p).st ≠ .resetting →
      Goes (.cqWrite p q) s fun t =>
        t.out = .hostWrite ((s.qp p q).cqBase + 16 * ((s.qp p q).written % 2 ^ (s.qp p q).log2n))
          (e.bytes q ((s.qp p q).written / 2 ^ (s.qp p q).log2n % 2 == 0)) :: s.out ∧
        (t.qp p q).waiting = es ∧ (t.qp p q).written = (s.qp p q).written + 1 ∧
        (t.qp p q).open_ = (s.qp p q).open_ - 1 ∧
        ((s.qp p q).ien = true → (t.qp p q).intAt.isSome = true) ∧ { t with hif := s.hif, out := s.out } = s) ∧
    ((s.qp p q).waiting = [] → Goes (.cqWrite p q) s fun t => t = s) ∧
    ((s.qp p q).intAt.isSome = true → (∀ u, (s.qp p q).msgAt = some u → u + 1000 ≤ s.now) →
      s.f pHIF F.HIF_LINK_STS_UP = 1 → s.hif.vfEn = true → (s.msix (p + 1)).en = true →
      Goes (.completionInterrupt p q) s fun t =>
        (let x := s.msix (p + 1)
         if (x.mask || !SMap.get x.unmasked (s.qp p q).vec false) = true then
           SMap.get (t.msix (p + 1)).pend (s.qp p q).vec false = true ∧ t.out = s.out
         else t.out = .msix (p + 1) (s.qp p q).vec :: s.out) ∧ (t.qp p q).intAt = none ∧ (t.qp p q).msgAt = some s.now ∧
        { t with hif := s.hif, out := s.out } = s) ∧
    ((s.qp p q).intAt = none ∨ (∃ u, (s.qp p q).msgAt = some u ∧ s.now < u + 1000) →
      Goes (.completionInterrupt p q) s fun t => t = s))

/-- R612 to R614, R617 to R621, R633, R636, R637: a window access that Table 17-3 refuses reads zeros marked
poisoned, or writes nothing; one that it allows reaches the owner's memory; one that its controller does not take
stays outstanding, and fails with 0x03 once it has timed out; invalidated translations are gone; PF_FLR and the loss
of the link reset the functions and their partitions. Where the spec leaves a choice it follows the model's: log
entries 3, 24, 59, 60. -/
def Obligations.HostWindowsAndFunctionsAnswer : Prop :=
  (∀ (s : State) (i ofs len : Nat) (bar4 : Bool) (data : List Byte) (pois tmo : Bool) (errs : Errs), s.dead = false → i < 16 →
    data.length = len →
    (s.winReach i ofs len bar4 = false →
      (Goes (.hostWindowRead i ofs len bar4 tmo errs) s fun t => Waits s t) ∧
      Goes (.hostWindowWrite i ofs data bar4 pois tmo) s fun t => Waits s t) ∧
    (s.winReach i ofs len bar4 = true →
      (s.winCode i ofs len ≠ 0 → s.winCode i ofs len ≠ 0x12 →
        (Goes (.hostWindowRead i ofs len bar4 tmo errs) s fun t =>
          t.out = .readData oPF (List.replicate len 0) true (s.winCode i ofs len) :: s.out ∧ SameMem s t ∧
          t.f pHIF F.PG_ERR_CNT_LAST = s.winCode i ofs len % 256) ∧
        Goes (.hostWindowWrite i ofs data bar4 pois tmo) s fun t =>
          SameMem s t ∧ t.f pHIF F.PG_ERR_CNT_LAST = s.winCode i ofs len % 256 ∧ t.out = s.out) ∧
      (s.winCode i ofs len = 0 ∨ s.winCode i ofs len = 0x12 →
        (s.accLate i ofs len false tmo = true →
          Goes (.hostWindowRead i ofs len bar4 tmo errs) s fun t =>
            t.out = .readData oPF (List.replicate len 0) true 0x03 :: s.out ∧ SameMem s t ∧ t.f pHIF F.PG_ERR_CNT_LAST = 0x03) ∧
        (s.accLate i ofs len true tmo = true →
          Goes (.hostWindowWrite i ofs data bar4 pois tmo) s fun t =>
            t.out = s.out ∧ SameMem s t ∧ t.f pHIF F.PG_ERR_CNT_LAST = 0x03) ∧
        (s.winCode i ofs len = 0x12 ∨ tmo = true ∨ s.shareOk (s.winTier i) (s.winAddr i ofs) len 2 = false →
          (s.accLate i ofs len false tmo = false →
            Goes (.hostWindowRead i ofs len bar4 tmo errs) s fun t =>
              (t.hostAcc i ofs len false).isSome = true ∧ SameMem s t ∧ { t with hif := s.hif, mem := s.mem } = s) ∧
          (s.accLate i ofs len true tmo = false →
            Goes (.hostWindowWrite i ofs data bar4 pois tmo) s fun t =>
              (t.hostAcc i ofs len true).isSome = true ∧ SameMem s t ∧ { t with hif := s.hif, mem := s.mem } = s))) ∧
      (s.winCode i ofs len = 0 → tmo = false → s.shareOk (s.winTier i) (s.winAddr i ofs) len 2 = true →
        (let u := accDone i ofs len false (s.finds errs)
         let r := readBlocks pHIF (u.access (s.winOwner i)) (s.winTier i) (fun _ => true)
           (mBlocks (s.winTier i) (len + 1) (s.winAddr i ofs) len) u
         s.accLate i ofs len false false = false → r.2.2.mem.wait = false →
         Goes (.hostWindowRead i ofs len bar4 false errs) s fun t =>
           t.out = .readData oPF (dataOf r.2.1) (anyMark r.2.1) 0 :: s.out ∧ SameMem r.2.2 t ∧ t.hif = u.hif) ∧
        (let u := accDone i ofs len true (s.finds [])
         let r := writeBlocks pHIF (u.access (s.winOwner i)) (s.winTier i) (fun _ => true)
           (mBlocks (s.winTier i) (len + 1) (s.winAddr i ofs) len) (data.map (·, pois)) u
         s.accLate i ofs len true false = false → r.2.mem.wait = false →
         Goes (.hostWindowWrite i ofs data bar4 pois false) s fun t =>
           SameMem r.2 t ∧ t.out = s.out ∧ t.hif = u.hif)))) ∧
  (∀ (s : State) (fn page n : Nat), s.dead = false → fn < 9 →
    Goes (.atsInvalidate fn page n) s fun t =>
      (∀ e ∈ t.hif.atc, ¬(e.1 = fn ∧ page ≤ e.2 ∧ e.2 < page + n)) ∧
      (∀ e ∈ s.hif.atc, ¬(e.1 = fn ∧ page ≤ e.2 ∧ e.2 < page + n) → e ∈ t.hif.atc) ∧ { t with hif := s.hif } = s) ∧
  (∀ s : State, s.dead = false → s.f pHIF F.HIF_LINK_STS_UP = 1 →
    (Goes .doeCdatRead s fun t => t = s.emit (.doe Config.cdat)) ∧
    (∀ a, a < 2 ^ 64 →
      Goes (.cxlSnoop a) s fun t => t = if s.f pHIF F.HIF_LINK_STS_CXL = 0 then s else s.emit (.snoopMiss a))) ∧
  (∀ s : State, s.dead = false →
    Goes .pfFlr s fun t =>
      t.hif.vfEn = false ∧ t.msix 0 = {} ∧ t.f pHIF F.EVQ_CTL_EN = 0 ∧
      (∀ i, i < 16 → t.f pHIF (F.HIF_WIN_CTL_EN.at 16 i) = 0) ∧
      (s.hif.vfEn = true → ∀ p, p < 8 → s.enabled p = true → (t.part p).st = .resetting) ∧
      (s.hif.vfEn = false → t.mem = s.mem ∧ t.prt = s.prt ∧ t.sch = s.sch)) ∧
  (∀ (s : State) (perst : Bool), s.dead = false →
    (s.f pHIF F.HIF_LINK_STS_UP = 1 →
      Goes (.upstreamReset perst) s fun t =>
        t.w pHIF R.HIF_LINK_STS = 0 ∧ t.hif.atc = [] ∧ t.hif.accs = [] ∧ t.hif.vfEn = false ∧
        (perst = true → t.pins.perstN = false) ∧
        (∀ p, p < 8 → s.enabled p = true → (t.part p).st = .resetting) ∧
        ((∀ p, p < 8 → s.enabled p = false) →
          (∀ i, i < 16 → t.f pHIF (F.HIF_WIN_CTL_EN.at 16 i) = 0) ∧ t.mem = s.mem)) ∧
    (s.f pHIF F.HIF_LINK_STS_UP = 0 →
      Goes (.upstreamReset perst) s fun t =>
        t = { s with pins := { s.pins with perstN := if perst then false else s.pins.perstN } })) ∧
  (∀ (s : State) (gen width cxl : Nat) (mem : Bool), s.dead = false → s.f pHIF F.HIF_LINK_STS_UP = 0 →
    s.pins.upReleased = true → 4 ≤ gen → gen ≤ 6 → (width = 4 ∨ width = 8 ∨ width = 16) → cxl ≤ 3 →
    Goes (.perstNRelease gen width cxl mem) s fun t =>
      t.f pHIF F.HIF_LINK_STS_UP = 1 ∧ t.f pHIF F.HIF_LINK_STS_GEN = gen ∧ t.f pHIF F.HIF_LINK_STS_WIDTH = width ∧
      t.f pHIF F.HIF_LINK_STS_CXL = cxl ∧ t.pins.perstN = true ∧ t.mem = s.mem) ∧
  (∀ (s : State) (gen width cxl : Nat) (mem : Bool), s.dead = false → s.pins.upReleased = false →
    Goes (.perstNRelease gen width cxl mem) s fun t => t = { s with pins := { s.pins with perstN := true } })

/-- R638 to R643, R743, R744, Table 17-4a: a far-store port is powered when an expander is present, trains after its
waits, takes its capacity and forgets its contents at ACCEPT, becomes DRAINED when nothing is outstanding, and a
lost port is no longer READY. Where the spec leaves a choice it follows the model's: log entries 61, 62. -/
def Obligations.FarPortsAreBroughtUpAndLost : Prop :=
  (∀ (s : State) (i : Nat), s.dead = false → i < 4 →
    (s.f (pFSC i) F.FSC_HP_POWER = 1 → (s.fscSlot i).step = .off →
      Goes (.fscPresent i) s fun t =>
        t.f (pFSC i) F.FSC_STS_PRESENT = 1 ∧ (t.fscSlot i).step = .perst ∧ (t.fscSlot i).since = s.nowOn (dieOfPage (pFSC i)) ∧
        (t.fscSlot i).wait = 100000000 ∧ t.out = .pin (40 + i) true :: .pin (50 + i) false :: s.out ∧ t.mem = s.mem) ∧
    (s.f (pFSC i) F.FSC_HP_POWER = 0 →
      Goes (.fscPresent i) s fun t => t.f (pFSC i) F.FSC_STS_PRESENT = 1 ∧ (t.fscSlot i).step = .off ∧ t.mem = s.mem) ∧
    ((s.fscSlot i).step = .perst → (s.fscSlot i).since + (s.fscSlot i).wait ≤ s.nowOn (dieOfPage (pFSC i)) →
      Goes (.fscPerstRelease i) s fun t =>
        (t.fscSlot i).step = .train ∧ (t.fscSlot i).since = s.nowOn (dieOfPage (pFSC i)) ∧ t.out = .pin (50 + i) true :: s.out ∧
        { t with fsc := s.fsc, out := s.out } = s) ∧
    (s.nowOn (dieOfPage (pFSC i)) < (s.fscSlot i).since + (s.fscSlot i).wait →
      Goes (.fscPerstRelease i) s (fun t => t = s) ∧ Goes (.fscTrainCheck i none) s (fun t => t = s)) ∧
    (∀ gen width cxl, (s.fscSlot i).step = .train → gen ≤ 2 → (width = 1 ∨ width = 2 ∨ width = 4 ∨ width = 8) → cxl ≤ 3 →
      s.nowOn (dieOfPage (pFSC i)) ≤ (s.fscSlot i).since + (s.fscSlot i).wait →
      Goes (.fscTrainCheck i (some (gen, width, cxl))) s fun t =>
        t.f (pFSC i) F.FSC_STS_LINK_UP = 1 ∧ t.f (pFSC i) F.FSC_STS_GEN = gen ∧ t.f (pFSC i) F.FSC_STS_WIDTH = width ∧
        t.f (pFSC i) F.FSC_STS_CXL = cxl ∧ (t.fscSlot i).step = .up ∧ t.mem = s.mem) ∧
    ((s.fscSlot i).step = .train → (s.fscSlot i).since + (s.fscSlot i).wait ≤ s.nowOn (dieOfPage (pFSC i)) →
      Goes (.fscTrainCheck i none) s fun t =>
        (t.fscSlot i).step = .perst ∧ (t.fscSlot i).wait = 1000000000 ∧ t.out = .pin (50 + i) false :: s.out ∧
        { t with fsc := s.fsc, out := s.out } = s)) ∧
  (∀ (s : State) (m i cap : Nat), s.dead = false → okMaster m = true → i < 4 → s.reaches m (pFSC i) = true →
    s.mayWrite m (pFSC i) = true → s.rstBusy (pFSC i) = false →
    (s.f (pFSC i) F.FSC_HP_POWER = 1 → s.f (pFSC i) F.FSC_STS_LINK_UP = 1 → s.f (pFSC i) F.FSC_STS_CXL ≠ 0 →
      s.farWithin i (min cap 512) = true →
      Goes (.fscAccept m i cap) s fun t =>
        t.f (pFSC i) F.FSC_CAP_CAP4G = min cap 512 ∧ t.f (pFSC i) F.FSC_HP_STS_READY = 1 ∧
        t.f (pFSC i) F.FSC_HP_STS_LOST = 0 ∧ t.f (pFSC i) F.FSC_HP_STS_DRAINED = 0 ∧
        (t.fscSlot i).draining = false ∧ SMap.get t.mem.epoch i 0 = SMap.get s.mem.epoch i 0 + 1 ∧
        (∀ k, ¬(k / 2 ^ 48 = 3 ∧ k / 2 ^ 41 % 4 = i) → SMap.get t.mem.bytes k 0 = SMap.get s.mem.bytes k 0) ∧
        t.sch = s.sch ∧ t.prt = s.prt) ∧
    (s.f (pFSC i) F.FSC_STS_LINK_UP = 0 ∨ s.f (pFSC i) F.FSC_STS_CXL = 0 ∨ s.farWithin i (min cap 512) = false →
      Goes (.fscAccept m i cap) s fun t => t.f (pFSC i) F.PG_WREJ_OFS_CODE = 0x11 ∧ OnlyRegsEv (refusedRegs (pFSC i)) s t) ∧
    (s.f (pFSC i) F.FSC_HP_POWER = 1 →
      Goes (.fscDrain m i) s fun t => (t.fscSlot i).draining = true ∧ { t with fsc := s.fsc } = s) ∧
    (s.f (pFSC i) F.FSC_HP_POWER = 1 → s.f (pFSC i) F.FSC_HP_STS_DRAINED = 0 → s.f (pFSC i) F.FSC_HP_STS_LOST = 0 →
      Goes (.fscPowerWrite m i false) s fun t =>
        t.f (pFSC i) F.PG_WREJ_OFS_CODE = 0x11 ∧ OnlyRegsEv (refusedRegs (pFSC i)) s t) ∧
    (s.f (pFSC i) F.FSC_HP_POWER = 1 → s.f (pFSC i) F.FSC_HP_STS_DRAINED = 1 ∨ s.f (pFSC i) F.FSC_HP_STS_LOST = 1 →
      Goes (.fscPowerWrite m i false) s fun t =>
        t.f (pFSC i) F.FSC_HP_POWER = 0 ∧ t.f (pFSC i) F.FSC_STS_LINK_UP = 0 ∧ (t.fscSlot i).step = .off ∧
        t.mem = s.mem) ∧
    (s.f (pFSC i) F.FSC_HP_POWER = 0 → s.f (pFSC i) F.FSC_STS_PRESENT = 1 → (s.fscSlot i).step = .off →
      Goes (.fscPowerWrite m i true) s fun t =>
        t.f (pFSC i) F.FSC_HP_POWER = 1 ∧ (t.fscSlot i).step = .perst ∧ t.mem = s.mem)) ∧
  (∀ (s : State) (i : Nat), s.dead = false → i < 4 →
    ((s.fscSlot i).draining = true → s.askers (pFSC i) = [] →
      Goes (.fscDrained i) s fun t =>
        t.f (pFSC i) F.FSC_HP_STS_DRAINED = 1 ∧ t.f (pFSC i) F.FSC_HP_STS_READY = 0 ∧ (t.fscSlot i).draining = false ∧
        t.mem = s.mem) ∧
    ((s.fscSlot i).draining = false ∨ s.askers (pFSC i) ≠ [] → Goes (.fscDrained i) s fun t => t = s) ∧
    (∀ gone, s.f (pFSC i) F.FSC_HP_STS_READY = 1 → s.askers (pFSC i) = [] →
      Goes (.portLost i gone) s fun t =>
        t.f (pFSC i) F.FSC_HP_STS_READY = 0 ∧ t.f (pFSC i) F.FSC_HP_STS_LOST = 1 ∧
        t.f (pFSC i) F.FSC_STS_LINK_UP = 0 ∧ t.f (pFSC i) F.PG_ERR_CNT_LAST = 0x1B ∧
        (gone = true → t.f (pFSC i) F.FSC_STS_PRESENT = 0 ∧ (t.fscSlot i).step = .off) ∧ t.mem = s.mem ∧ t.sch = s.sch) ∧
    (∀ gone c h, s.f (pFSC i) F.FSC_HP_STS_READY = 1 → s.askers (pFSC i) = [c] → (s.core c).op = some h →
      (s.slot h.part h.slot).st = .running → (s.slot h.part h.slot).heldRel = false → (s.slot h.part h.slot).frel = false →
      (s.flow h.part (s.slot h.part h.slot).flow).ordered = false → (s.slot h.part h.slot).exec = some (.core c) →
      Goes (.portLost i gone) s fun t =>
        t.f (pFSC i) F.FSC_HP_STS_READY = 0 ∧ (t.slot h.part h.slot).st = .faulted ∧ t.dropped c) ∧
    (∀ gone, s.f (pFSC i) F.FSC_HP_STS_READY = 0 →
      Goes (.portLost i gone) s (fun t => t = s) ∧
      Goes (.fscPrsntNRise i gone) s fun t =>
        t.f (pFSC i) F.FSC_STS_LINK_UP = 0 ∧
        (gone = true → t.f (pFSC i) F.FSC_STS_PRESENT = 0 ∧ (t.fscSlot i).step = .off) ∧ t.mem = s.mem) ∧
    (∀ gone, s.f (pFSC i) F.FSC_HP_STS_READY ≠ 0 → Goes (.fscPrsntNRise i gone) s fun t => t = s))

/-- R672, R675 to R682, R699, R701: a voltage loop lowers its target when its die is hot or the package is at its
cap, and otherwise follows its mode within the limits; HOT_N acts as an input; a thermal trip stops everything until
PWROK falls; a loss of power or RST_N applies cold reset and keeps what cold reset keeps. Where the spec leaves a
choice it follows the model's: log entries 64, 67. -/
def Obligations.PowerFollowsItsLoops : Prop :=
  (∀ (s : State) (die pkg sense cur : Nat) (tj : Option Int) (c hbm : Int), s.dead = false → die < 2 → s.pwr.started = true →
    SMap.get s.pwr.next die 0 ≤ s.nowOn die →
    (bit s.pwr.avsErr die = false → s.f pPWR F.PWR_VLIM_VMIN ≤ s.f pPWR F.PWR_VLIM_VMAX →
      ((∀ x, tj = some x → (s.f pPWR F.PWR_TLIM_THROT : Int) < x) ∨ 95 < hbm ∨ s.pins.hotIn = true ∨
        (s.f pPWR F.PWR_CAP_EN = 1 ∧ s.f pPWR F.PWR_CAP_W ≤ pkg)) →
      Goes (.loopInterval die tj hbm pkg sense cur true) s fun t =>
        t.f pPWR (fldTgt die) = min (max (s.f pPWR (fldTgt die) - s.f pPWR F.PWR_LOOP_STEP) (s.f pPWR F.PWR_VLIM_VMIN))
          (s.f pPWR F.PWR_VLIM_VMAX) ∧
        t.f pPWR (fldTgt (1 - die)) = s.f pPWR (fldTgt (1 - die)) ∧
        SMap.get t.pwr.next die 0 = s.nowOn die + s.f pPWR F.PWR_LOOP_US * 1000 ∧ t.mem = s.mem) ∧
    (bit s.pwr.avsErr die = false → c ≤ (s.f pPWR F.PWR_TLIM_THROT : Int) → hbm ≤ 95 → s.pins.hotIn = false →
      s.f pPWR F.PWR_CAP_EN = 0 → s.f pPWR F.PWR_MODE_MODE = 0 →
      Goes (.loopInterval die (some c) hbm pkg sense cur true) s fun t =>
        t.f pPWR (fldTgt die) =
          min (max (s.f pPWR F.PWR_VSET_MV) (s.f pPWR F.PWR_VLIM_VMIN)) (s.f pPWR F.PWR_VLIM_VMAX) ∧
        t.f pPWR (fldTgt (1 - die)) = s.f pPWR (fldTgt (1 - die)) ∧ t.mem = s.mem) ∧
    (bit s.pwr.avsErr die = false → c ≤ (s.f pPWR F.PWR_TLIM_THROT : Int) → hbm ≤ 95 → s.pins.hotIn = false →
      s.f pPWR F.PWR_CAP_EN = 0 → s.f pPWR F.PWR_MODE_MODE ≠ 0 →
      Goes (.loopInterval die (some c) hbm pkg sense cur true) s fun t =>
        t.f pPWR (fldTgt die) =
          (let v := s.f pPWR (fldTgt die)
           let rate := s.f pTBS (fldRate die)
           let x := if rate < s.f pPWR F.PWR_FLOOR_RATE ∨ s.f pPWR F.PWR_MODE_MODE = 1 then v + s.f pPWR F.PWR_LOOP_STEP
             else if s.f pPWR F.PWR_FLOOR_RATE + s.f pPWR F.PWR_FLOOR_MARGIN < rate then v - s.f pPWR F.PWR_LOOP_STEP else v
           min (max x (s.f pPWR F.PWR_VLIM_VMIN)) (s.f pPWR F.PWR_VLIM_VMAX)) ∧ t.mem = s.mem) ∧
    (tripsAt tj hbm = true → ∀ ok,
      Goes (.loopInterval die tj hbm pkg sense cur ok) s fun t =>
        t.pins.tripped = true ∧ t.dead = true ∧ t.out.head? = some (.pin pinTrip false) ∧ t.mem = s.mem) ∧
    Goes (.loopInterval die (some c) hbm pkg sense cur false) s fun t =>
      t.f pPWR (fldTgt die) = s.f pPWR (fldTgt die) ∧ t.f pPWR F.PG_ERR_CNT_LAST = 0x03 ∧
      t.f pPWR F.PWR_STS_AVS_ERR = 1 ∧ t.mem = s.mem) ∧
  (∀ (s : State) (die pkg sense cur : Nat) (tj : Option Int) (hbm : Int) (ok : Bool), s.dead = false → die < 2 →
    s.pwr.started = false ∨ s.nowOn die < SMap.get s.pwr.next die 0 →
    Goes (.loopInterval die tj hbm pkg sense cur ok) s fun t => t = s) ∧
  (∀ (s : State) (low : Bool), s.dead = false →
    Goes (.hotNInput low) s fun t =>
      t.pins.hotIn = low ∧ t.f pPWR F.PWR_STS_HOT_IN = (if low then 1 else 0) ∧
      OnlyRegsEv ([pPWR * 4096 + R.PWR_STS] ++ noted pPWR) s { t with pins := s.pins }) ∧
  (∀ s : State, s.dead = false →
    Goes .thermalTrip s fun t =>
      t.pins.tripped = true ∧ t.dead = true ∧ t.out = .pin pinTrip false :: s.out ∧
      { t with pins := s.pins, out := s.out } = s) ∧
  (∀ s : State,
    (s.pins.held = false →
      Goes .brownOut s (fun t => t = coldReset s) ∧
      Goes .rstNAssert s (fun t => t = coldReset { s with pins := { s.pins with rstN := false } }) ∧
      (s.pins.tripped = false →
        Goes .pwrokFall s fun t => t = coldReset { s with pins := { s.pins with pwrok := false, tripped := false } })) ∧
    Goes .pwrokFall s (fun t => t.pins.tripped = false ∧ t.pins.held = true ∧ t.pins.pwrok = false) ∧
    ((coldReset s).regs = [] ∧ (coldReset s).dead = true ∧ (coldReset s).nv = s.nv ∧ (coldReset s).out = s.out ∧
      (coldReset s).pending = s.pending ∧ (coldReset s).mem.bytes = s.mem.bytes ∧ (coldReset s).cores = [] ∧
      (coldReset s).sch = [] ∧ (coldReset s).links = [] ∧ (coldReset s).ras = {}))

/-- R146, R154, R700 to R712, Tables 20-3 and 20-6: releasing RST_N starts the boot, which verifies the firmware
images and falls back to the other slot or to recovery, tests the security unit, brings the memories up and releases
the upstream port; a warm reset clears what Table 20-3 clears and keeps the rest; SVN_COMMIT only raises the fused
SVN. Where the spec leaves a choice it follows the model's: log entries 5, 65, 66. -/
def Obligations.BootAndResetRunTheirSteps : Prop :=
  (∀ s : State, s.pins.held = true → s.pins.tripped = false →
    (s.life ≠ 4 → Goes .rstNRelease s fun t =>
      t.dead = false ∧ t.stage = 2 ∧ t.pins.rstN = true ∧ t.router = bootRouter s.router ∧ t.mem = s.mem ∧ t.nv = s.nv) ∧
    (s.life = 4 → Goes .rstNRelease s fun t => t.dead = false ∧ t.stage = s.stage)) ∧
  (∀ s : State, s.pins.held = false → Goes .rstNRelease s fun t => t = s) ∧
  (∀ (s : State) (other : Bool), s.dead = false → s.stage = 2 → s.f pFW F.FW_STS_RECOVERY = 0 → s.fwSlot ≤ 1 →
    (s.svn ≤ (s.fwImg s.fwSlot).svn →
      Goes (.bootImageVerify true other) s fun t =>
        t.f pMGT F.MGT_STS_RUN = 1 ∧ t.stage = (if s.f pTBS F.TBS_STS_LOCK = 1 then 4 else 3) ∧
        t.fwSlot = s.fwSlot ∧ (t.fwImg s.fwSlot).valid = true ∧ t.mem = s.mem) ∧
    (s.svn ≤ (s.fwImg (1 - s.fwSlot)).svn →
      Goes (.bootImageVerify false true) s fun t =>
        t.f pMGT F.MGT_STS_RUN = 1 ∧ t.stage = (if s.f pTBS F.TBS_STS_LOCK = 1 then 4 else 3) ∧
        t.fwSlot = 1 - s.fwSlot ∧ (t.fwImg s.fwSlot).valid = false ∧ (t.fwImg (1 - s.fwSlot)).valid = true) ∧
    Goes (.bootImageVerify false false) s fun t =>
      t.f pFW F.FW_STS_RECOVERY = 1 ∧ t.stage = 2 ∧ t.f pFW F.PG_ERR_CNT_LAST = 0x1C ∧
      t.f pMGT F.MGT_STS_RUN = s.f pMGT F.MGT_STS_RUN ∧ (t.fwImg 0).valid = false ∧ (t.fwImg 1).valid = false) ∧
  (∀ s : State, s.dead = false → s.stage ≠ 2 → ∀ a b, Goes (.bootImageVerify a b) s fun t => t = s) ∧
  (∀ s : State, s.dead = false → s.stage = 4 → s.upMods = [] →
    (s.mgt.warm = false → Goes (.secSelftestDone true) s fun t =>
      t.f pSEC F.SEC_STS_READY = 1 ∧ (t.keySlot 8).key = s.prt.nextKey ∧ t.prt.nextKey = s.prt.nextKey + 1 ∧
      t.pwr.started = true ∧ t.stage = 6) ∧
    Goes (.secSelftestDone false) s fun t =>
      t.f pSEC F.SEC_STS_RNG_FAULT = 1 ∧ t.f pSEC F.SEC_STS_READY = s.f pSEC F.SEC_STS_READY ∧ t.prt = s.prt ∧
      t.pwr.started = true ∧ t.stage = 6) ∧
  (∀ s : State, s.dead = false → s.stage ≠ 4 → ∀ ok, Goes (.secSelftestDone ok) s fun t => t = s) ∧
  (∀ (s : State) (pg rate : Nat), s.dead = false → pg < 16384 → s.stage = 7 → pg ∈ memPages → s.memOk pg = false →
    s.fenced pg = false → (∀ j ∈ memPages, j ≠ pg → (s.memOk j || s.fenced j) = true) →
    (pg < pgOf .msc 0 → Goes (.memoryTrained pg rate true) s fun t =>
      t.f pg F.NSC_STS_CAL_OK = 1 ∧ t.f pg F.PG_CTL_EN = 1 ∧ t.stage = 8 ∧ t.mem = s.mem) ∧
    (pgOf .msc 0 ≤ pg → (rate = 92 ∨ rate = 80 ∨ rate = 64) → Goes (.memoryTrained pg rate true) s fun t =>
      t.f pg F.MSC_STS_TRAINED = 1 ∧ t.f pg F.MSC_STS_RATE = rate ∧ t.f pg F.PG_CTL_EN = 1 ∧ t.stage = 8 ∧
      t.mem = s.mem) ∧
    (s.askers pg = [] → Goes (.memoryTrained pg rate false) s fun t => t.fenced pg = true ∧ t.stage = 8 ∧ t.mem = s.mem)) ∧
  (∀ s : State, s.dead = false → s.stage ≠ 7 → ∀ pg rate ok, Goes (.memoryTrained pg rate ok) s fun t => t = s) ∧
  (∀ (s : State) (us gen width cxl : Nat) (mem : Bool), s.dead = false → s.stage = 11 → s.pins.perstN = true →
    s.f pHIF F.HIF_LINK_STS_UP = 0 → 4 ≤ gen → gen ≤ 6 → (width = 4 ∨ width = 8 ∨ width = 16) → cxl ≤ 3 →
    Goes (.upstreamRelease us (gen, width, cxl, mem)) s fun t =>
      t.stage = 0xFF ∧ t.pins.upReleased = true ∧ t.f pHIF F.HIF_LINK_STS_UP = 1 ∧
      t.f pFW F.FW_BOOT_TIME_US = min (2 ^ 32 - 1) us ∧ t.mem = s.mem) ∧
  (∀ s : State, s.dead = false → s.stage ≠ 11 → ∀ us link, Goes (.upstreamRelease us link) s fun t => t = s) ∧
  (∀ (s : State) (m : Nat), s.dead = false → okMaster m = true → s.reaches m pFW = true → s.mayWrite m pFW = true →
    s.rstBusy pFW = false →
    (s.f pFW F.FW_STS_ACTIVATING = 0 → Goes (.warmReset m) s fun t =>
      t.cores = [] ∧ t.sch = [] ∧ t.links = [] ∧ t.alloc = [] ∧ t.ckp.run = none ∧ t.ckp.images = s.ckp.images ∧
      t.mem.bytes = s.mem.bytes ∧ t.nv = s.nv ∧ t.tb = s.tb ∧ t.ras.log = s.ras.log ∧ t.pending = s.pending ∧
      t.prt.holder = [] ∧ t.pins.upReleased = false) ∧
    (s.f pFW F.FW_STS_ACTIVATING = 1 →
      Goes (.warmReset m) s (fun t => t.f pFW F.PG_WREJ_OFS_CODE = 0x11 ∧ OnlyRegsEv (refusedRegs pFW) s t) ∧
      Goes (.svnCommit m) s (fun t => t.f pFW F.PG_WREJ_OFS_CODE = 0x11 ∧ OnlyRegsEv (refusedRegs pFW) s t)) ∧
    (s.f pFW F.FW_STS_ACTIVATING = 0 → s.svnLocksOut = false → Goes (.svnCommit m) s fun t =>
      t.nv = { s.nv with svn := some (max s.svn (s.fwImg s.fwSlot).svn) } ∧ t.mem = s.mem) ∧
    (s.svnLocksOut = true → Goes (.svnCommit m) s fun t =>
      t.f pFW F.PG_WREJ_OFS_CODE = 0x11 ∧ OnlyRegsEv (refusedRegs pFW) s t))

/-- R713 to R718, Tables 20-8 and 20-9: an update writes only the inactive slot, whose image is valid only when its
signature and SVN hold; an activation makes it the active one when Tormal is ready in time, and is abandoned
otherwise; the watchdog restarts a Tormal that does not kick it; the buses keep their addresses as R713 says. Where
the spec leaves a choice it follows the model's: log entries 69, 87. -/
def Obligations.ManagementUpdatesAndWatches : Prop :=
  (∀ (s : State) (pcie : Bool), s.dead = false → s.serves pcie = true → s.fwSlot ≤ 1 →
    (s.mgt.updating = false → s.mgt.act = none →
      (∀ comp, comp ≠ 1 → Goes (.requestUpdate pcie comp) s fun t => t = s.emit (.mgmt mtPldm 0x10 [0x8A])) ∧
      Goes (.requestUpdate pcie 1) s fun t =>
        t.mgt.updating = true ∧ (t.fwImg (1 - s.fwSlot)).valid = false ∧ t.fwImg s.fwSlot = s.fwImg s.fwSlot ∧
        t.out = .mgmt mtPldm 0x10 [0, 0, 0, 0] :: s.out ∧ t.mem = s.mem ∧ t.cores = s.cores) ∧
    (s.mgt.updating = true →
      Goes (.requestUpdate pcie 1) s (fun t => t = s.emit (.mgmt mtPldm 0x10 [0x81])) ∧
      Goes (.activateFirmware pcie) s (fun t => t = s.emit (.mgmt mtPldm 0x1A [0x85]))) ∧
    (s.mgt.updating = false →
      (s.mgt.act.isSome = true → Goes (.activateFirmware pcie) s fun t => t = s.emit (.mgmt mtPldm 0x1A [0x84])) ∧
      (s.mgt.act = none → (s.fwImg (1 - s.fwSlot)).valid = false →
        Goes (.activateFirmware pcie) s fun t => t = s.emit (.mgmt mtPldm 0x1A [0x80]))) ∧
    (s.mgt.updating = false → s.mgt.act = none → (s.fwImg (1 - s.fwSlot)).valid = true → s.failed = false →
      Goes (.activateFirmware pcie) s fun t =>
        t.mgt.act = some { since := s.now, prev := s.glbState } ∧ t.glbState = 4 ∧ t.f pFW F.FW_STS_ACTIVATING = 1 ∧
        t.f pMGT F.MGT_STS_RUN = 0 ∧ t.mgt.sessions = [] ∧ t.out = .mgmt mtPldm 0x1A (0 :: s.openBytes 2) :: s.out ∧
        t.cores = s.cores ∧ t.mem = s.mem)) ∧
  (∀ (s : State) (sig : Bool) (svn build : Nat), s.dead = false → s.fwSlot ≤ 1 → svn < 64 → build < 2 ^ 24 →
    (s.mgt.updating = true →
      Goes (.transferCompletePldm sig svn build) s fun t =>
        t.mgt.updating = false ∧
        t.fwImg (1 - s.fwSlot) = ⟨sig && decide (s.svn ≤ svn), svn, build⟩ ∧ t.fwImg s.fwSlot = s.fwImg s.fwSlot ∧
        ((sig && decide (s.svn ≤ svn)) = false → t.f pFW F.PG_ERR_CNT_LAST = 0x1C)) ∧
    (s.mgt.updating = false → Goes (.transferCompletePldm sig svn build) s fun t => t = s)) ∧
  (∀ (s : State) (a : FwAct), s.dead = false → s.mgt.act = some a → a.back = false → s.recovery = false →
    (s.now ≤ a.since + s.actTmo → a.prev < 16 → s.failed = false →
      Goes .tormalReady s fun t =>
        t.fwSlot = 1 - s.fwSlot ∧ t.f pFW F.FW_STS_ACTIVATING = 0 ∧ t.mgt.act = none ∧ t.f pMGT F.MGT_STS_RUN = 1 ∧
        t.cores = s.cores ∧ t.mem = s.mem) ∧
    (a.since + s.actTmo ≤ s.now → s.fwSlot ≤ 1 →
      Goes .fwActTmoExpiry s fun t =>
        t.mgt.act = some { a with back := true } ∧ (t.fwImg (1 - s.fwSlot)).valid = false ∧ t.fwSlot = s.fwSlot ∧
        t.f pFW F.PG_ERR_CNT_LAST = 0x1C) ∧
    (s.now < a.since + s.actTmo → Goes .fwActTmoExpiry s fun t => t = s)) ∧
  (∀ s : State, s.dead = false → s.mgt.act = none →
    (s.f pMGT F.MGT_STS_RUN = 0 → 3 ≤ s.stage →
      Goes .tormalReady s fun t => t.f pMGT F.MGT_STS_RUN = 1 ∧ t.mgt = { s.mgt with kickAt := s.now } ∧
        OnlyRegs [pMGT * 4096 + R.MGT_STS] s { t with mgt := s.mgt }) ∧
    Goes .fwActTmoExpiry s fun t => t = s) ∧
  (∀ (s : State) (m : Nat), s.dead = false → okMaster m = true → s.reaches m pMGT = true → s.mayWrite m pMGT = true →
    s.rstBusy pMGT = false → 10 ≤ s.f pMGT F.MGT_WDT_MS → s.f pMGT F.MGT_WDT_MS ≤ 60000 →
    Goes (.wdtKick m) s fun t =>
      t.mgt = { s.mgt with kickAt := s.now } ∧ t.f pMGT F.MGT_WDT_MS = s.f pMGT F.MGT_WDT_MS ∧
      t.f pMGT F.MGT_WDT_EN = s.f pMGT F.MGT_WDT_EN ∧ OnlyRegs [pMGT * 4096 + R.MGT_WDT] s { t with mgt := s.mgt }) ∧
  (∀ s : State, s.dead = false →
    (s.f pMGT F.MGT_WDT_EN = 1 → 3 ≤ s.stage → s.mgt.kickAt + s.f pMGT F.MGT_WDT_MS * 1000000 ≤ s.now →
      Goes .wdtExpiry s fun t =>
        t.f pMGT F.MGT_STS_RUN = 0 ∧ t.f pMGT F.PG_ERR_CNT_LAST = 0x03 ∧ t.mgt.sessions = [] ∧ t.mgt.kickAt = s.now ∧
        t.f pMGT F.MGT_STS_WDT_CNT =
          min (2 ^ (F.MGT_STS_WDT_CNT.hi + 1 - F.MGT_STS_WDT_CNT.lo) - 1) (s.f pMGT F.MGT_STS_WDT_CNT + 1) ∧
        t.cores = s.cores ∧ t.sch = s.sch ∧ t.mem = s.mem) ∧
    (s.f pMGT F.MGT_WDT_EN = 0 ∨ s.now < s.mgt.kickAt + s.f pMGT F.MGT_WDT_MS * 1000000 →
      Goes .wdtExpiry s fun t => t = s)) ∧
  (∀ (s : State) (addr : Nat), s.dead = false → addr < 128 → 3 ≤ s.stage → s.f pMGT F.MGT_BUS_SMBUS = 0 →
    Goes (.dynamicAddressAssign addr) s fun t =>
      t.f pMGT F.MGT_BUS_DYN = 1 ∧ t.f pMGT F.MGT_BUS_DA = addr ∧ OnlyRegs [pMGT * 4096 + R.MGT_BUS] s t) ∧
  (∀ (s : State) (smbus : Bool), s.dead = false →
    Goes (.i3cBusReset smbus) s fun t =>
      t.f pMGT F.MGT_BUS_DYN = 0 ∧ t.f pMGT F.MGT_BUS_DA = 0 ∧ t.f pMGT F.MGT_BUS_SMBUS = (if smbus then 1 else 0) ∧
      t.mgt.sa = s.f pMGT F.MGT_BUS_SA ∧ OnlyRegs [pMGT * 4096 + R.MGT_BUS] s { t with mgt := s.mgt })

/-- R713, R714, R708, R716: the endpoint answers MCTP control while it serves; sensors read as they stand, with
ERROR_NOT_READY during an update; requests to Tormal act through its own registers once it runs; nothing is answered
on a path that is not served. The bodies are free values (log entry 68). Where the spec leaves a choice it follows
the model's: log entries 68, 69, 87. -/
def Obligations.TheEndpointAnswersRequests : Prop :=
  (∀ (s : State) (pcie : Bool), s.dead = false → s.serves pcie = true →
    (∀ cmd, cmd < 256 → Goes (.mctpControl pcie cmd) s fun t =>
      t.out = .mgmt mtControl cmd (Config.mgmtBody s.fresh) :: s.out ∧ { t with out := s.out, fresh := s.fresh } = s) ∧
    (∀ eid, eid ≠ 0 → eid < 0xFF → Goes (.setEndpointId pcie eid) s fun t =>
      t.f pMGT F.MGT_EID_EID = eid ∧ OnlyRegs [pMGT * 4096 + R.MGT_EID] s { t with out := s.out, fresh := s.fresh }) ∧
    (Goes (.setEndpointId pcie 0xFF) s fun t => { t with out := s.out, fresh := s.fresh } = s) ∧
    (s.recovery = false → s.updating = false → ∀ n,
      (∀ size v, s.sensor n = some (size, v) →
        Goes (.pldmSensorRead pcie n) s fun t =>
          t.out = .mgmt mtPldm 0x11 (0 :: s.sensorBody n size v) :: s.out ∧ { t with out := s.out, fresh := s.fresh } = s) ∧
      (s.sensor n = none → Goes (.pldmSensorRead pcie n) s fun t => t = s.emit (.mgmt mtPldm 0x11 [0x80]))) ∧
    (s.recovery = false → s.updating = true → ∀ n,
      Goes (.pldmSensorRead pcie n) s fun t => t = s.emit (.mgmt mtPldm 0x11 [4])) ∧
    (s.recovery = false → s.f pMGT F.MGT_STS_RUN = 1 →
      (Goes (.vendorRequest pcie .other) s fun t => { t with out := s.out, fresh := s.fresh } = s) ∧
      (∀ lf auth, lifeStep s.life lf = true → (lf = 2 ∨ auth = true) →
        Goes (.vendorRequest pcie (.life lf auth)) s fun t =>
          t.nv = { s.nv with life := some lf } ∧ t.mem = s.mem ∧ t.cores = s.cores) ∧
      (∀ lf auth, lifeStep s.life lf = false ∨ (lf ≠ 2 ∧ auth = false) →
        Goes (.vendorRequest pcie (.life lf auth)) s fun t => { t with out := s.out, fresh := s.fresh } = s))) ∧
  (∀ (s : State) (pcie : Bool), s.dead = false → s.serves pcie = false →
    (∀ cmd, Goes (.mctpControl pcie cmd) s fun t => t = s) ∧ (∀ eid, Goes (.setEndpointId pcie eid) s fun t => t = s) ∧
    (∀ n, Goes (.pldmSensorRead pcie n) s fun t => t = s) ∧ (∀ q, Goes (.vendorRequest pcie q) s fun t => t = s) ∧
    (∀ c, Goes (.requestUpdate pcie c) s fun t => t = s) ∧ Goes (.activateFirmware pcie) s fun t => t = s)

/-- R714, R719 to R721: SPDM negotiates in its order, answers with the device's certificate chain in slot 0 and with
measurements of Table 20-10, opens a session at FINISH, and lists no session that END_SESSION has ended; out of
order it answers with an error, and Busy during an update. Where the spec leaves a choice it follows the model's:
log entries 68, 69, 87. -/
def Obligations.SpdmNegotiatesMeasuresAndKeepsSessions : Prop :=
  (∀ (s : State) (pcie : Bool), s.dead = false → s.serves pcie = true → s.recovery = false → s.updating = false →
    (Goes (.getVersion pcie) s fun t =>
      t.mgt = { s.mgt with spdm := 1, sessions := [] } ∧ t.out = .mgmt mtSpdm 0x04 (Config.mgmtBody s.fresh) :: s.out ∧
      { t with mgt := s.mgt, out := s.out, fresh := s.fresh } = s) ∧
    (1 ≤ s.mgt.spdm → Goes (.getCapabilities pcie) s fun t =>
      t.mgt = { s.mgt with spdm := 2 } ∧ t.out = .mgmt mtSpdm 0x61 (Config.mgmtBody s.fresh) :: s.out ∧
      { t with mgt := s.mgt, out := s.out, fresh := s.fresh } = s) ∧
    (2 ≤ s.mgt.spdm →
      (Goes (.negotiateAlgorithms pcie true) s fun t =>
        t.mgt = { s.mgt with spdm := 3 } ∧ t.out = .mgmt mtSpdm 0x63 (Config.mgmtBody s.fresh) :: s.out ∧
        { t with mgt := s.mgt, out := s.out, fresh := s.fresh } = s) ∧
      Goes (.negotiateAlgorithms pcie false) s fun t => t = s.emit (.mgmt mtSpdm 0x7F [1])) ∧
    (s.mgt.spdm < 1 → Goes (.getCapabilities pcie) s fun t => t = s.emit (.mgmt mtSpdm 0x7F [4])) ∧
    (s.mgt.spdm < 3 →
      Goes (.getDigests pcie) s (fun t => t = s.emit (.mgmt mtSpdm 0x7F [4])) ∧
      ∀ op, Goes (.getMeasurements pcie op) s fun t => t = s.emit (.mgmt mtSpdm 0x7F [4])) ∧
    (3 ≤ s.mgt.spdm → s.deviceKey = true →
      (Goes (.getDigests pcie) s fun t =>
        t.out = .mgmt mtSpdm 0x01 (Config.mgmtBody s.fresh) :: s.out ∧ { t with out := s.out, fresh := s.fresh } = s) ∧
      (Goes (.getCertificate pcie 0) s fun t =>
        t.out = .mgmt mtSpdm 0x02 (Config.mgmtBody s.fresh) :: s.out ∧ { t with out := s.out, fresh := s.fresh } = s) ∧
      (Goes (.challenge pcie 0) s fun t =>
        t.out = .mgmt mtSpdm 0x03 (Config.mgmtBody s.fresh) :: s.out ∧ { t with out := s.out, fresh := s.fresh } = s) ∧
      (Goes (.keyExchange pcie 0) s fun t =>
        t.mgt.sessions = s.mgt.sessions ++ [{ id := s.mgt.nextSession }] ∧ t.mgt.nextSession = s.mgt.nextSession + 1 ∧
        { t with mgt := s.mgt, out := s.out, fresh := s.fresh } = s) ∧
      (∀ slot, slot ≠ 0 →
        Goes (.getCertificate pcie slot) s (fun t => t = s.emit (.mgmt mtSpdm 0x7F [1])) ∧
        Goes (.challenge pcie slot) s (fun t => t = s.emit (.mgmt mtSpdm 0x7F [1])) ∧
        Goes (.keyExchange pcie slot) s (fun t => t = s.emit (.mgmt mtSpdm 0x7F [1])))) ∧
    (3 ≤ s.mgt.spdm →
      (let answer (total : Nat) (idx : List Nat) (t : State) : Prop :=
         t.out = .mgmt mtSpdm 0x60 (leBytes 1 total ++ leBytes 1 0 ++ leBytes 1 idx.length ++
           leBytes 3 (idx.flatMap s.measBlock).length ++ idx.flatMap s.measBlock ++ Config.mgmtBody s.fresh) :: s.out ∧
         { t with out := s.out, fresh := s.fresh } = s
       Goes (.getMeasurements pcie 0) s (answer 6 []) ∧
       Goes (.getMeasurements pcie 0xFF) s (answer 0 [1, 2, 3, 4, 5, 6]) ∧
       ∀ op, (1 ≤ op → op ≤ 6 → Goes (.getMeasurements pcie op) s (answer 0 [op])) ∧
         (6 < op → op ≠ 0xFF → Goes (.getMeasurements pcie op) s fun t => t = s.emit (.mgmt mtSpdm 0x7F [1]))) ∧
      (∀ id x op, s.mgt.sessions.find? (fun y => y.id == id && y.open_ == op) = some x →
        let now (xs : List SpdmSession) : List SpdmSession :=
          s.mgt.sessions.flatMap (fun y => if y.id = id then xs else [y])
        (op = false →
          (Goes (.finish pcie id true) s fun t => t.mgt.sessions = now [{ x with open_ := true }] ∧ t.mem = s.mem) ∧
          Goes (.finish pcie id false) s fun t => t.mgt.sessions = now [] ∧ t.mem = s.mem) ∧
        (op = true →
          (Goes (.heartbeat pcie id) s fun t => t.mgt = s.mgt ∧ { t with out := s.out, fresh := s.fresh } = s) ∧
          (Goes (.keyUpdate pcie id) s fun t =>
            t.mgt.sessions = now [{ x with updates := x.updates + 1 }] ∧ t.mem = s.mem) ∧
          Goes (.endSession pcie id) s fun t => t.mgt.sessions = now [] ∧ t.mem = s.mem)) ∧
      (∀ id op, s.mgt.sessions.find? (fun y => y.id == id && y.open_ == op) = none →
        let refused (t : State) : Prop := t = s.emit (.mgmt mtSpdm 0x7F [2])
        (op = false → ∀ ok, Goes (.finish pcie id ok) s refused) ∧
        (op = true → Goes (.heartbeat pcie id) s refused ∧ Goes (.keyUpdate pcie id) s refused ∧
          Goes (.endSession pcie id) s refused)))) ∧
  (∀ (s : State) (pcie : Bool), s.dead = false → s.serves pcie = true → s.recovery = false → s.updating = true →
    Goes (.getVersion pcie) s (fun t => t = s.emit (.mgmt mtSpdm 0x7F [3])) ∧
    ∀ op, Goes (.getMeasurements pcie op) s fun t => t = s.emit (.mgmt mtSpdm 0x7F [3]))

/-- R343, R344, R728 to R737, Table 21-3: debug mode begins only with the consent of every cluster of the partition,
ends when asked or when consent is withdrawn, and a debug read of a partition outside it is refused with 0x02; a
trace ring starts empty and is frozen while it records. Where the spec leaves a choice it follows the model's: log
entry 70. -/
def Obligations.DebugNeedsConsent : Prop :=
  (∀ (s : State) (m p : Nat), s.dead = false → okMaster m = true → p < 8 → s.reaches m pDBG = true →
    s.mayWrite m pDBG = true → s.rstBusy pDBG = false →
    (s.enabled p = true → s.debugConsent p = true → s.inDebug p = false →
      Goes (.dbgEnter m p) s fun t =>
        t.inDebug p = true ∧ (∀ q, q ≠ p → t.inDebug q = s.inDebug q) ∧
        t.f pDBG F.DBG_CNT_ENTRIES =
          min (2 ^ (F.DBG_CNT_ENTRIES.hi + 1 - F.DBG_CNT_ENTRIES.lo) - 1) (s.f pDBG F.DBG_CNT_ENTRIES + 1) ∧
        OnlyRegs [pDBG * 4096 + R.DBG_STS, pDBG * 4096 + R.DBG_CNT] s t) ∧
    (s.debugConsent p = false → s.f pFW F.FW_STS_LIFE ≠ 1 →
      Goes (.dbgEnter m p) s fun t =>
        t.f pDBG F.PG_WREJ_OFS_CODE = 0x11 ∧ OnlyRegsEv (refusedRegs pDBG) s t) ∧
    Goes (.dbgExit m p) s fun t =>
      t.inDebug p = false ∧ (∀ q, q ≠ p → t.inDebug q = s.inDebug q) ∧ OnlyRegs [pDBG * 4096 + R.DBG_STS] s t) ∧
  (∀ (s : State) (m k p v : Nat), s.dead = false → okMaster m = true → k < 48 → v < 4 → s.reaches m (pCLU k) = true →
    s.mayWrite m (pCLU k) = true → s.rstBusy (pCLU k) = false → s.holderOf resClu k = some p → p < 8 →
    Goes (.cluDbgWrite m k v) s fun t =>
      t.f (pCLU k) F.CLU_DBG_DEBUG = v % 2 ∧ t.f (pCLU k) F.CLU_DBG_TRACE = v / 2 ∧
      (v % 2 = 0 → t.inDebug p = false) ∧ (v % 2 = 1 → t.inDebug p = s.inDebug p) ∧
      (∀ q, q ≠ p → t.inDebug q = s.inDebug q) ∧ OnlyRegs [pCLU k * 4096 + R.CLU_DBG, pDBG * 4096 + R.DBG_STS] s t) ∧
  (∀ (s : State) (m p : Nat), s.dead = false → okMaster m = true → s.reaches m pDBG = true → s.mayWrite m pDBG = true →
    s.rstBusy pDBG = false → s.f pDBG F.DBG_RD_STS_BUSY = 0 → s.f pDBG F.DBG_RD_ADDR_OFS % 8 = 0 →
    s.f pDBG F.DBG_RD_ADDR_OFS + 8 ≤ dbgSize (s.f pDBG F.DBG_RD_SEL_RES) →
    s.f pDBG F.DBG_RD_SEL_UNIT < dbgUnits (s.f pDBG F.DBG_RD_SEL_RES) →
    s.dbgHolder (s.f pDBG F.DBG_RD_SEL_RES) (s.f pDBG F.DBG_RD_SEL_UNIT) (s.f pDBG F.DBG_RD_SEL_ENGINE) = some p →
    (s.inDebug p = false → Goes (.dbgRdGo m) s fun t =>
      t.f pDBG F.DBG_RD_STS_CODE = 0x02 ∧ t.w pDBG R.DBG_RD_DATA_LO = 0 ∧ t.w pDBG R.DBG_RD_DATA_HI = 0 ∧
      t.f pDBG F.PG_ERR_CNT_LAST = 0x02 ∧ t.cores = s.cores ∧ t.mem = s.mem) ∧
    (s.inDebug p = true → s.f pDBG F.DBG_RD_SEL_RES = 5 → Goes (.dbgRdGo m) s fun t =>
      t.f pDBG F.DBG_RD_STS_CODE = 0 ∧ t.f pDBG F.DBG_RD_STS_BUSY = 0 ∧
      t.w64 pDBG R.DBG_RD_DATA_LO R.DBG_RD_DATA_HI =
        s.dbgData 5 (s.f pDBG F.DBG_RD_SEL_UNIT) (s.f pDBG F.DBG_RD_ADDR_OFS) ∧
      OnlyRegs [pDBG * 4096 + R.DBG_RD_STS, pDBG * 4096 + R.DBG_RD_DATA_LO, pDBG * 4096 + R.DBG_RD_DATA_HI,
        pDBG * 4096 + R.DBG_CNT] s t)) ∧
  (∀ (s : State) (m v n : Nat), s.dead = false → okMaster m = true → s.reaches m pDBG = true → s.mayWrite m pDBG = true →
    s.rstBusy pDBG = false → v = 2 ^ 31 + n * 2 ^ 16 → 8 ≤ n → n ≤ 24 →
    (s.f pDBG F.DBG_TRC_CTL_EN = 0 → s.trcOwned n = true → Goes (.dbgTrcCtlWrite m v) s fun t =>
      t.f pDBG F.DBG_TRC_CTL_EN = 1 ∧ t.f pDBG F.DBG_TRC_CTL_LOG2N = n ∧ t.w pDBG R.DBG_TRC_PROD = 0 ∧
      t.w pDBG R.DBG_TRC_LOST = 0 ∧ t.mem = s.mem) ∧
    (s.f pDBG F.DBG_TRC_CTL_EN = 0 → s.trcOwned n = false → Goes (.dbgTrcCtlWrite m v) s fun t =>
      t.f pDBG F.PG_WREJ_OFS_CODE = 0x02 ∧ t.f pDBG F.DBG_TRC_CTL_EN = 0) ∧
    (s.f pDBG F.DBG_TRC_CTL_EN = 1 → s.w pDBG R.DBG_TRC_CTL ≠ v → s.w pDBG R.DBG_TRC_CTL ≠ v + 2 ^ 31 →
      Goes (.dbgTrcCtlWrite m v) s fun t =>
        t.f pDBG F.PG_WREJ_OFS_CODE = 0x11 ∧ t.f pDBG F.DBG_TRC_CTL_EN = 1 ∧ OnlyRegsEv (refusedRegs pDBG) s t) ∧
    (s.w pDBG R.DBG_TRC_CTL = v → exec (.dbgTrcCtlWrite m v) s = .next s))
end

