-- ==== Sys2Proof/Laws/Bits.lean ====
section
/-! SUPPORT.  The laws of bit fields: what a field reads after it, or another one, was set. -/

namespace Sys2Proof

theorem testBit_bits (w hi lo i : Nat) :
    (bits w hi lo).testBit i = (decide (i < hi + 1 - lo) && w.testBit (lo + i)) := by
  simp [bits, Nat.testBit_mod_two_pow, Nat.testBit_div_two_pow, Nat.add_comm]

theorem testBit_setBits (w hi lo v i : Nat) (h : lo ≤ hi) :
    (setBits w hi lo v).testBit i =
      if i < lo then w.testBit i else if i ≤ hi then v.testBit (i - lo) else w.testBit i := by
  have e : setBits w hi lo v
      = 2 ^ lo * (2 ^ (hi + 1 - lo) * (w / 2 ^ (hi + 1)) + v % 2 ^ (hi + 1 - lo)) + w % 2 ^ lo := by
    unfold setBits
    have : 2 ^ (hi + 1) = 2 ^ lo * 2 ^ (hi + 1 - lo) := by rw [← Nat.pow_add]; congr 1; omega
    rw [this, Nat.mul_add]
    ac_rfl
  rw [e, Nat.testBit_two_pow_mul_add _ (Nat.mod_lt _ (Nat.two_pow_pos lo))]
  split
  · simp [Nat.testBit_mod_two_pow, *]
  · rw [Nat.testBit_two_pow_mul_add _ (Nat.mod_lt _ (Nat.two_pow_pos _))]
    by_cases h1 : i ≤ hi
    · have : i - lo < hi + 1 - lo := by omega
      simp [this, h1, Nat.testBit_mod_two_pow]
    · have : ¬ i - lo < hi + 1 - lo := by omega
      simp only [this, h1, if_false, Nat.testBit_div_two_pow]
      congr 1; omega

theorem bits_setBits_same (w hi lo v : Nat) (h : lo ≤ hi) :
    bits (setBits w hi lo v) hi lo = v % 2 ^ (hi + 1 - lo) := by
  apply Nat.eq_of_testBit_eq; intro i
  rw [testBit_bits, testBit_setBits _ _ _ _ _ h, Nat.testBit_mod_two_pow]
  by_cases hi' : i < hi + 1 - lo
  · have h1 : ¬ lo + i < lo := by omega
    have h2 : lo + i ≤ hi := by omega
    have h3 : lo + i - lo = i := by omega
    simp [hi', h1, h2, h3]
  · simp [hi']

theorem bits_setBits_other (w hi lo v hi' lo' : Nat) (h : lo ≤ hi) (d : hi < lo' ∨ hi' < lo) :
    bits (setBits w hi lo v) hi' lo' = bits w hi' lo' := by
  apply Nat.eq_of_testBit_eq; intro i
  rw [testBit_bits, testBit_bits, testBit_setBits _ _ _ _ _ h]
  by_cases hi2 : i < hi' + 1 - lo'
  · by_cases h1 : lo' + i < lo
    · simp [h1]
    · have h2 : ¬ lo' + i ≤ hi := by omega
      simp [h1, h2]
  · simp [hi2]

theorem setBits_lt (w hi lo v : Nat) (h : lo ≤ hi) (hh : hi < 32) (hw : w < 2 ^ 32) :
    setBits w hi lo v < 2 ^ 32 := by
  apply Nat.lt_pow_two_of_testBit
  intro i hi'
  rw [testBit_setBits _ _ _ _ _ h]
  have h1 : ¬ i < lo := by omega
  have h2 : ¬ i ≤ hi := by omega
  simp only [h1, h2, if_false]
  exact Nat.testBit_lt_two_pow (Nat.lt_of_lt_of_le hw (Nat.pow_le_pow_right (by omega) hi'))

theorem bits_lt (w hi lo : Nat) : bits w hi lo < 2 ^ (hi + 1 - lo) := Nat.mod_lt _ (Nat.two_pow_pos _)

end Sys2Proof
end

