-- ==== Sys2Proof/Laws/SMap.lean ====
section
/-! SUPPORT.  The laws of sparse maps: read after write holds of every list, and the canonical form is kept. -/

namespace Sys2Proof

theorem SMap.get_ins_same {α : Type} (m : SMap α) (k : Nat) (v d : α) :
    SMap.get (SMap.ins m k v) k d = v := by
  induction m with
  | nil => simp [SMap.ins, SMap.get]
  | cons e m ih =>
    obtain ⟨j, w⟩ := e
    simp only [SMap.ins]
    split
    · simp [SMap.get]
    · split
      · simp [SMap.get]
      · rename_i h1 _
        simp [SMap.get, h1, ih]

theorem SMap.get_ins_ne {α : Type} (m : SMap α) (k i : Nat) (v d : α) (h : i ≠ k) :
    SMap.get (SMap.ins m k v) i d = SMap.get m i d := by
  induction m with
  | nil => simp [SMap.ins, SMap.get, Ne.symm h]
  | cons e m ih =>
    obtain ⟨j, w⟩ := e
    simp only [SMap.ins]
    split
    · rename_i hj; subst hj; simp [SMap.get, Ne.symm h]
    · split
      · simp [SMap.get, Ne.symm h]
      · simp [SMap.get, ih]

theorem SMap.get_del_same {α : Type} (m : SMap α) (k : Nat) (d : α) : SMap.get (SMap.del m k) k d = d := by
  induction m with
  | nil => rfl
  | cons e m ih =>
    obtain ⟨j, w⟩ := e
    simp only [SMap.del]
    split
    · exact ih
    · rename_i h; simp [SMap.get, h, ih]

theorem SMap.get_del_ne {α : Type} (m : SMap α) (k i : Nat) (d : α) (h : i ≠ k) :
    SMap.get (SMap.del m k) i d = SMap.get m i d := by
  induction m with
  | nil => rfl
  | cons e m ih =>
    obtain ⟨j, w⟩ := e
    simp only [SMap.del]
    split
    · rename_i hj; subst hj; simp [SMap.get, Ne.symm h, ih]
    · simp [SMap.get, ih]

/-- A key reads back what was put there (R12: RW returns the last accepted value). -/
@[simp] theorem SMap.get_put_same {α : Type} [DecidableEq α] (m : SMap α) (k : Nat) (v d : α) :
    SMap.get (SMap.put m k v d) k d = v := by
  unfold SMap.put
  split
  · rename_i h; rw [SMap.get_del_same, h]
  · exact SMap.get_ins_same m k v d

/-- Every other key reads as before. -/
theorem SMap.get_put_ne {α : Type} [DecidableEq α] (m : SMap α) (k i : Nat) (v d e : α) (h : i ≠ k) :
    SMap.get (SMap.put m k v d) i e = SMap.get m i e := by
  unfold SMap.put
  split
  · exact SMap.get_del_ne m k i e h
  · exact SMap.get_ins_ne m k i v e h

theorem SMap.wfFrom_mono {α : Type} [DecidableEq α] (dflt : Nat → α) (m : SMap α) (lo lo' : Nat)
    (hl : lo' ≤ lo) (h : SMap.wfFrom dflt lo m = true) : SMap.wfFrom dflt lo' m = true := by
  cases m with
  | nil => rfl
  | cons e m =>
    obtain ⟨j, w⟩ := e
    simp [SMap.wfFrom] at h ⊢
    exact ⟨⟨by omega, h.1.2⟩, h.2⟩

theorem SMap.del_wf {α : Type} [DecidableEq α] (dflt : Nat → α) (m : SMap α) (lo k : Nat)
    (h : SMap.wfFrom dflt lo m = true) : SMap.wfFrom dflt lo (SMap.del m k) = true := by
  induction m generalizing lo with
  | nil => rfl
  | cons e m ih =>
    obtain ⟨j, w⟩ := e
    simp [SMap.wfFrom] at h
    simp only [SMap.del]
    split
    · exact SMap.wfFrom_mono dflt _ (j + 1) lo (by omega) (ih _ h.2)
    · simp [SMap.wfFrom, h.1, ih _ h.2]

theorem SMap.ins_wf {α : Type} [DecidableEq α] (dflt : Nat → α) (m : SMap α) (lo k : Nat) (v : α)
    (hv : v ≠ dflt k) (hk : lo ≤ k) (h : SMap.wfFrom dflt lo m = true) :
    SMap.wfFrom dflt lo (SMap.ins m k v) = true := by
  induction m generalizing lo with
  | nil => simp [SMap.ins, SMap.wfFrom, hv, hk]
  | cons e m ih =>
    obtain ⟨j, w⟩ := e
    simp [SMap.wfFrom] at h
    simp only [SMap.ins]
    split
    · rename_i hj; subst hj; simp [SMap.wfFrom, hv, hk, h.2]
    · split
      · rename_i h1 h2
        simp [SMap.wfFrom, hv, hk, h.1.2, h.2]
        omega
      · rename_i h1 h2
        simp [SMap.wfFrom, h.1, ih (j + 1) (by omega) h.2]

/-- A write keeps the canonical form. -/
theorem SMap.put_wf {α : Type} [DecidableEq α] (dflt : Nat → α) (m : SMap α) (k : Nat) (v : α)
    (h : SMap.wf dflt m = true) : SMap.wf dflt (SMap.put m k v (dflt k)) = true := by
  unfold SMap.put
  split
  · exact SMap.del_wf dflt m 0 k h
  · rename_i hv; exact SMap.ins_wf dflt m 0 k v hv (Nat.zero_le k) h

/-- Keeping only some entries keeps the canonical form. -/
theorem SMap.filter_wf {α : Type} [DecidableEq α] (dflt : Nat → α) (m : SMap α) (p : Nat × α → Bool) (lo : Nat)
    (h : SMap.wfFrom dflt lo m = true) : SMap.wfFrom dflt lo (m.filter p) = true := by
  induction m generalizing lo with
  | nil => rfl
  | cons e m ih =>
    obtain ⟨j, w⟩ := e
    simp [SMap.wfFrom] at h
    simp only [List.filter_cons]
    split
    · simp [SMap.wfFrom, h.1]
      exact ih _ h.2
    · exact SMap.wfFrom_mono dflt _ (j + 1) lo (by omega) (ih _ h.2)

/-- Changing or removing entries, each at its own key, keeps the canonical form. -/
theorem SMap.filterMap_wf {α : Type} [DecidableEq α] (dflt : Nat → α) (f : Nat × α → Option (Nat × α))
    (hf : ∀ e x, f e = some x → x.1 = e.1 ∧ (e.2 ≠ dflt e.1 → x.2 ≠ dflt x.1)) (m : SMap α) (lo : Nat)
    (h : SMap.wfFrom dflt lo m = true) : SMap.wfFrom dflt lo (m.filterMap f) = true := by
  induction m generalizing lo with
  | nil => rfl
  | cons e m ih =>
    obtain ⟨j, w⟩ := e
    simp [SMap.wfFrom] at h
    rw [List.filterMap_cons]
    cases he : f (j, w) with
    | none => exact SMap.wfFrom_mono dflt _ (j + 1) lo (by omega) (ih _ h.2)
    | some x =>
      obtain ⟨i, v⟩ := x
      have hx := hf _ _ he
      simp at hx
      obtain ⟨rfl, hv⟩ := hx
      simp [SMap.wfFrom, h.1.1, hv h.1.2, ih _ h.2]

/-- Removed keys read as unlisted, and the others as before. -/
theorem SMap.get_drop {α : Type} (m : SMap α) (p : Nat → Bool) (k : Nat) (d : α) :
    SMap.get (SMap.drop m p) k d = if p k then d else SMap.get m k d := by
  induction m with
  | nil => simp [SMap.drop, SMap.get]
  | cons e m ih =>
    obtain ⟨j, v⟩ := e
    simp only [SMap.drop] at ih ⊢
    rw [List.filter_cons]
    by_cases hj : p j
    · simp only [hj, Bool.not_true, Bool.false_eq_true, if_false, ih, SMap.get]
      by_cases e : j = k
      · subst e; simp [hj]
      · simp [e]
    · simp only [hj, Bool.not_false, if_true, SMap.get, ih]
      by_cases e : j = k
      · subst e; simp [hj]
      · simp [e]

/-- Removing keys keeps the canonical form. -/
theorem SMap.drop_wf {α : Type} [DecidableEq α] (dflt : Nat → α) (m : SMap α) (p : Nat → Bool)
    (h : SMap.wf dflt m = true) : SMap.wf dflt (SMap.drop m p) = true :=
  SMap.filter_wf dflt m _ 0 h

end Sys2Proof
end

