-- ==== Sys2Proof/Laws/Regs.lean ====
section
/-! SUPPORT.  The laws of the control registers: read after write, and that a write leaves every other
register and every other field alone. -/

namespace Sys2Proof.Machine

theorem State.reg_congr {s t : State} (h : t.regs = s.regs) (k : Nat) : t.reg k = s.reg k := by
  simp only [State.reg, h]

theorem State.f_congr {s t : State} (h : t.regs = s.regs) (pg : Nat) (y : Fld) : t.f pg y = s.f pg y := by
  simp only [State.f, State.reg_congr h]

theorem State.w_congr {s t : State} (h : t.regs = s.regs) (pg o : Nat) : t.w pg o = s.w pg o := by
  simp only [State.w, State.reg_congr h]

@[simp] theorem State.reg_setReg_same (s : State) (k : Nat) (v : Word) : (s.setReg k v).reg k = v := by
  simp [State.reg, State.setReg]

theorem State.reg_setReg_ne (s : State) (k j : Nat) (v : Word) (h : j ≠ k) : (s.setReg k v).reg j = s.reg j := by
  simp [State.reg, State.setReg, SMap.get_put_ne _ _ _ _ _ _ h]

theorem State.reg_setReg (s : State) (k j : Nat) (v : Word) :
    (s.setReg k v).reg j = if j = k then v else s.reg j := by
  split
  · rename_i h; subst h; simp
  · rename_i h; exact State.reg_setReg_ne s k j v h

theorem State.reg_setF (s : State) (pg : Nat) (x : Fld) (v j : Nat) (h : j ≠ pg * 4096 + x.ofs) :
    (s.setF pg x v).reg j = s.reg j := State.reg_setReg_ne _ _ _ _ h

theorem State.reg_setW (s : State) (pg ofs v j : Nat) (h : j ≠ pg * 4096 + ofs) :
    (s.setW pg ofs v).reg j = s.reg j := State.reg_setReg_ne _ _ _ _ h

theorem State.reg_addF (s : State) (pg : Nat) (x : Fld) (v j : Nat) (h : j ≠ pg * 4096 + x.ofs) :
    (s.addF pg x v).reg j = s.reg j := State.reg_setReg_ne _ _ _ _ h

theorem State.reg_setW64 (s : State) (pg lo hi v j : Nat) (h : j ≠ pg * 4096 + lo) (h' : j ≠ pg * 4096 + hi) :
    (s.setW64 pg lo hi v).reg j = s.reg j := by
  simp [State.setW64, State.reg_setW, h, h']

theorem State.reg_add64 (s : State) (pg lo hi v j : Nat) (h : j ≠ pg * 4096 + lo) (h' : j ≠ pg * 4096 + hi) :
    (s.add64 pg lo hi v).reg j = s.reg j := State.reg_setW64 _ _ _ _ _ _ h h'

/-- A field reads back what was written to it. -/
theorem State.f_setF_same (s : State) (pg : Nat) (x : Fld) (v : Nat) (h : x.lo ≤ x.hi) (hh : x.hi < 32) :
    (s.setF pg x v).f pg x = v % 2 ^ (x.hi + 1 - x.lo) := by
  have := setBits_lt (s.reg (pg * 4096 + x.ofs)).toNat x.hi x.lo v h hh (s.reg _).isLt
  have lit : setBits (s.reg (pg * 4096 + x.ofs)).toNat x.hi x.lo v < 4294967296 := this
  simp [State.f, State.setF, Nat.mod_eq_of_lt this, Nat.mod_eq_of_lt lit, bits_setBits_same _ _ _ _ h]

/-- Setting a field leaves the other fields of its register alone. -/
theorem State.f_setF_other (s : State) (pg : Nat) (x y : Fld) (v : Nat) (h : x.lo ≤ x.hi) (hh : x.hi < 32)
    (d : x.ofs ≠ y.ofs ∨ x.hi < y.lo ∨ y.hi < x.lo) : (s.setF pg x v).f pg y = s.f pg y := by
  by_cases e : x.ofs = y.ofs
  · have d' : x.hi < y.lo ∨ y.hi < x.lo := by
      cases d with
      | inl n => exact absurd e n
      | inr n => exact n
    have := setBits_lt (s.reg (pg * 4096 + x.ofs)).toNat x.hi x.lo v h hh (s.reg _).isLt
    have lit : setBits (s.reg (pg * 4096 + x.ofs)).toNat x.hi x.lo v < 4294967296 := this
    simp [State.f, State.setF, ← e, Nat.mod_eq_of_lt this, Nat.mod_eq_of_lt lit, bits_setBits_other _ _ _ _ _ _ h d']
  · simp only [State.f]
    rw [State.reg_setF]
    omega

/-- Setting a field leaves every other page alone. -/
theorem State.f_setF_page (s : State) (pg pg' : Nat) (x y : Fld) (v : Nat) (d : pg ≠ pg') (h : x.ofs < 4096)
    (h' : y.ofs < 4096) : (s.setF pg x v).f pg' y = s.f pg' y := by
  simp only [State.f]
  rw [State.reg_setF]
  omega

theorem State.f_setW_other (s : State) (pg ofs v : Nat) (y : Fld) (d : ofs ≠ y.ofs) :
    (s.setW pg ofs v).f pg y = s.f pg y := by
  simp only [State.f]
  rw [State.reg_setW]
  omega

theorem State.f_setW_page (s : State) (pg pg' ofs v : Nat) (y : Fld) (d : pg ≠ pg') (h : ofs < 4096)
    (h' : y.ofs < 4096) : (s.setW pg ofs v).f pg' y = s.f pg' y := by
  simp only [State.f]
  rw [State.reg_setW]
  omega

theorem State.f_setW_same (s : State) (pg v : Nat) (y : Fld) (h : v < 2 ^ 32) :
    (s.setW pg y.ofs v).f pg y = bits v y.hi y.lo := by
  have lit : v < 4294967296 := h
  simp [State.f, State.setW, Nat.mod_eq_of_lt h, Nat.mod_eq_of_lt lit]

theorem State.w_setW_same (s : State) (pg ofs v : Nat) (h : v < 2 ^ 32) : (s.setW pg ofs v).w pg ofs = v := by
  have lit : v < 4294967296 := h
  simp [State.w, State.setW, Nat.mod_eq_of_lt h, lit]

theorem State.w_setW_other (s : State) (pg ofs ofs' v : Nat) (d : ofs ≠ ofs') :
    (s.setW pg ofs v).w pg ofs' = s.w pg ofs' := by
  simp only [State.w]
  rw [State.reg_setW]
  omega

theorem State.w_setF_other (s : State) (pg ofs v : Nat) (x : Fld) (d : x.ofs ≠ ofs) :
    (s.setF pg x v).w pg ofs = s.w pg ofs := by
  simp only [State.w]
  rw [State.reg_setF]
  omega

theorem State.f_addF_same (s : State) (pg : Nat) (x : Fld) (n : Nat) (h : x.lo ≤ x.hi) (hh : x.hi < 32) :
    (s.addF pg x n).f pg x = min (2 ^ (x.hi + 1 - x.lo) - 1) (s.f pg x + n) := by
  rw [State.addF, State.f_setF_same _ _ _ _ h hh, sat, Nat.mod_eq_of_lt]
  have := Nat.two_pow_pos (x.hi + 1 - x.lo)
  omega

theorem State.f_addF_other (s : State) (pg : Nat) (x y : Fld) (n : Nat) (h : x.lo ≤ x.hi) (hh : x.hi < 32)
    (d : x.ofs ≠ y.ofs ∨ x.hi < y.lo ∨ y.hi < x.lo) : (s.addF pg x n).f pg y = s.f pg y :=
  State.f_setF_other s pg x y _ h hh d

theorem State.f_addF_page (s : State) (pg pg' : Nat) (x y : Fld) (n : Nat) (d : pg ≠ pg') (h : x.ofs < 4096)
    (h' : y.ofs < 4096) : (s.addF pg x n).f pg' y = s.f pg' y :=
  State.f_setF_page s pg pg' x y _ d h h'

end Sys2Proof.Machine
end

