-- ==== Sys2Proof/Laws/State.lean ====
section
/-! SUPPORT.  One lemma for each field of the state and each operation that sets a part of it: what an update
leaves alone, and what a part set reads back as. -/

set_option linter.all false

namespace Sys2Proof.Machine

variable (s : State)

@[simp] theorem State.setReg_pending (k : Nat) (v : Word) : (s.setReg k v).pending = s.pending := by simp only [State.setReg]
@[simp] theorem State.setReg_tb (k : Nat) (v : Word) : (s.setReg k v).tb = s.tb := by simp only [State.setReg]
@[simp] theorem State.setReg_ev (k : Nat) (v : Word) : (s.setReg k v).ev = s.ev := by simp only [State.setReg]
@[simp] theorem State.setReg_prt (k : Nat) (v : Word) : (s.setReg k v).prt = s.prt := by simp only [State.setReg]
@[simp] theorem State.setReg_mem (k : Nat) (v : Word) : (s.setReg k v).mem = s.mem := by simp only [State.setReg]
@[simp] theorem State.setReg_ctls (k : Nat) (v : Word) : (s.setReg k v).ctls = s.ctls := by simp only [State.setReg]
@[simp] theorem State.setReg_alloc (k : Nat) (v : Word) : (s.setReg k v).alloc = s.alloc := by simp only [State.setReg]
@[simp] theorem State.setReg_ras (k : Nat) (v : Word) : (s.setReg k v).ras = s.ras := by simp only [State.setReg]
@[simp] theorem State.setReg_bridge (k : Nat) (v : Word) : (s.setReg k v).bridge = s.bridge := by simp only [State.setReg]
@[simp] theorem State.setReg_router (k : Nat) (v : Word) : (s.setReg k v).router = s.router := by simp only [State.setReg]
@[simp] theorem State.setReg_cores (k : Nat) (v : Word) : (s.setReg k v).cores = s.cores := by simp only [State.setReg]
@[simp] theorem State.setReg_clus (k : Nat) (v : Word) : (s.setReg k v).clus = s.clus := by simp only [State.setReg]
@[simp] theorem State.setReg_pins (k : Nat) (v : Word) : (s.setReg k v).pins = s.pins := by simp only [State.setReg]
@[simp] theorem State.setReg_sch (k : Nat) (v : Word) : (s.setReg k v).sch = s.sch := by simp only [State.setReg]
@[simp] theorem State.setReg_fab (k : Nat) (v : Word) : (s.setReg k v).fab = s.fab := by simp only [State.setReg]
@[simp] theorem State.setReg_links (k : Nat) (v : Word) : (s.setReg k v).links = s.links := by simp only [State.setReg]
@[simp] theorem State.setReg_hif (k : Nat) (v : Word) : (s.setReg k v).hif = s.hif := by simp only [State.setReg]
@[simp] theorem State.setReg_mig (k : Nat) (v : Word) : (s.setReg k v).mig = s.mig := by simp only [State.setReg]
@[simp] theorem State.setReg_tok (k : Nat) (v : Word) : (s.setReg k v).tok = s.tok := by simp only [State.setReg]
@[simp] theorem State.setReg_ckp (k : Nat) (v : Word) : (s.setReg k v).ckp = s.ckp := by simp only [State.setReg]
@[simp] theorem State.setReg_rstAt (k : Nat) (v : Word) : (s.setReg k v).rstAt = s.rstAt := by simp only [State.setReg]
@[simp] theorem State.setReg_fsc (k : Nat) (v : Word) : (s.setReg k v).fsc = s.fsc := by simp only [State.setReg]
@[simp] theorem State.setReg_pwr (k : Nat) (v : Word) : (s.setReg k v).pwr = s.pwr := by simp only [State.setReg]
@[simp] theorem State.setReg_nv (k : Nat) (v : Word) : (s.setReg k v).nv = s.nv := by simp only [State.setReg]
@[simp] theorem State.setReg_mgt (k : Nat) (v : Word) : (s.setReg k v).mgt = s.mgt := by simp only [State.setReg]
@[simp] theorem State.setReg_out (k : Nat) (v : Word) : (s.setReg k v).out = s.out := by simp only [State.setReg]
@[simp] theorem State.setReg_fresh (k : Nat) (v : Word) : (s.setReg k v).fresh = s.fresh := by simp only [State.setReg]
@[simp] theorem State.setReg_core (k : Nat) (v : Word) (i : Nat) : (s.setReg k v).core i = s.core i := by simp only [State.core, State.setReg_cores]
@[simp] theorem State.setReg_clu (k : Nat) (v : Word) (i : Nat) : (s.setReg k v).clu i = s.clu i := by simp only [State.clu, State.setReg_clus]
@[simp] theorem State.setReg_part (k : Nat) (v : Word) (i : Nat) : (s.setReg k v).part i = s.part i := by simp only [State.part, State.setReg_prt]
@[simp] theorem State.setReg_keySlot (k : Nat) (v : Word) (i : Nat) : (s.setReg k v).keySlot i = s.keySlot i := by simp only [State.keySlot, State.setReg_prt]
@[simp] theorem State.setReg_holderOf (k : Nat) (v : Word) (r i : Nat) : (s.setReg k v).holderOf r i = s.holderOf r i := by simp only [State.holderOf, State.setReg_prt]
@[simp] theorem State.setReg_sc (k : Nat) (v : Word) (i : Nat) : (s.setReg k v).sc i = s.sc i := by simp only [State.sc, State.setReg_sch]
@[simp] theorem State.setReg_slot (k : Nat) (v : Word) (i j : Nat) : (s.setReg k v).slot i j = s.slot i j := by simp only [State.slot, State.setReg_sc]
@[simp] theorem State.setReg_flow (k : Nat) (v : Word) (i j : Nat) : (s.setReg k v).flow i j = s.flow i j := by simp only [State.flow, State.setReg_sc]
@[simp] theorem State.setReg_qp (k : Nat) (v : Word) (i j : Nat) : (s.setReg k v).qp i j = s.qp i j := by simp only [State.qp, State.setReg_hif]
@[simp] theorem State.setReg_link (k : Nat) (v : Word) (i : Nat) : (s.setReg k v).link i = s.link i := by simp only [State.link, State.setReg_links]
@[simp] theorem State.setReg_eng (k : Nat) (v : Word) (i : Nat) : (s.setReg k v).eng i = s.eng i := by simp only [State.eng, State.setReg_tok]
@[simp] theorem State.setReg_mop (k : Nat) (v : Word) (i j : Nat) : (s.setReg k v).mop i j = s.mop i j := by simp only [State.mop, State.setReg_mig]
@[simp] theorem State.setReg_dead (k : Nat) (v : Word) : (s.setReg k v).dead = s.dead := by simp only [State.dead, State.setReg_pins]
@[simp] theorem State.setReg_fscSlot (k : Nat) (v : Word) (i : Nat) : (s.setReg k v).fscSlot i = s.fscSlot i := by simp only [State.fscSlot, State.setReg_fsc]
@[simp] theorem State.setReg_al (k : Nat) (v : Word) (i : Nat) : (s.setReg k v).al i = s.al i := by simp only [State.al, State.setReg_alloc]
@[simp] theorem State.setReg_ctl (k : Nat) (v : Word) (i : Nat) : (s.setReg k v).ctl i = s.ctl i := by simp only [State.ctl, State.setReg_ctls]
@[simp] theorem State.setF_pending (pg : Nat) (x : Fld) (v : Nat) : (s.setF pg x v).pending = s.pending := by simp only [State.setF, State.setReg_pending]
@[simp] theorem State.setF_tb (pg : Nat) (x : Fld) (v : Nat) : (s.setF pg x v).tb = s.tb := by simp only [State.setF, State.setReg_tb]
@[simp] theorem State.setF_ev (pg : Nat) (x : Fld) (v : Nat) : (s.setF pg x v).ev = s.ev := by simp only [State.setF, State.setReg_ev]
@[simp] theorem State.setF_prt (pg : Nat) (x : Fld) (v : Nat) : (s.setF pg x v).prt = s.prt := by simp only [State.setF, State.setReg_prt]
@[simp] theorem State.setF_mem (pg : Nat) (x : Fld) (v : Nat) : (s.setF pg x v).mem = s.mem := by simp only [State.setF, State.setReg_mem]
@[simp] theorem State.setF_ctls (pg : Nat) (x : Fld) (v : Nat) : (s.setF pg x v).ctls = s.ctls := by simp only [State.setF, State.setReg_ctls]
@[simp] theorem State.setF_alloc (pg : Nat) (x : Fld) (v : Nat) : (s.setF pg x v).alloc = s.alloc := by simp only [State.setF, State.setReg_alloc]
@[simp] theorem State.setF_ras (pg : Nat) (x : Fld) (v : Nat) : (s.setF pg x v).ras = s.ras := by simp only [State.setF, State.setReg_ras]
@[simp] theorem State.setF_bridge (pg : Nat) (x : Fld) (v : Nat) : (s.setF pg x v).bridge = s.bridge := by simp only [State.setF, State.setReg_bridge]
@[simp] theorem State.setF_router (pg : Nat) (x : Fld) (v : Nat) : (s.setF pg x v).router = s.router := by simp only [State.setF, State.setReg_router]
@[simp] theorem State.setF_cores (pg : Nat) (x : Fld) (v : Nat) : (s.setF pg x v).cores = s.cores := by simp only [State.setF, State.setReg_cores]
@[simp] theorem State.setF_clus (pg : Nat) (x : Fld) (v : Nat) : (s.setF pg x v).clus = s.clus := by simp only [State.setF, State.setReg_clus]
@[simp] theorem State.setF_pins (pg : Nat) (x : Fld) (v : Nat) : (s.setF pg x v).pins = s.pins := by simp only [State.setF, State.setReg_pins]
@[simp] theorem State.setF_sch (pg : Nat) (x : Fld) (v : Nat) : (s.setF pg x v).sch = s.sch := by simp only [State.setF, State.setReg_sch]
@[simp] theorem State.setF_fab (pg : Nat) (x : Fld) (v : Nat) : (s.setF pg x v).fab = s.fab := by simp only [State.setF, State.setReg_fab]
@[simp] theorem State.setF_links (pg : Nat) (x : Fld) (v : Nat) : (s.setF pg x v).links = s.links := by simp only [State.setF, State.setReg_links]
@[simp] theorem State.setF_hif (pg : Nat) (x : Fld) (v : Nat) : (s.setF pg x v).hif = s.hif := by simp only [State.setF, State.setReg_hif]
@[simp] theorem State.setF_mig (pg : Nat) (x : Fld) (v : Nat) : (s.setF pg x v).mig = s.mig := by simp only [State.setF, State.setReg_mig]
@[simp] theorem State.setF_tok (pg : Nat) (x : Fld) (v : Nat) : (s.setF pg x v).tok = s.tok := by simp only [State.setF, State.setReg_tok]
@[simp] theorem State.setF_ckp (pg : Nat) (x : Fld) (v : Nat) : (s.setF pg x v).ckp = s.ckp := by simp only [State.setF, State.setReg_ckp]
@[simp] theorem State.setF_rstAt (pg : Nat) (x : Fld) (v : Nat) : (s.setF pg x v).rstAt = s.rstAt := by simp only [State.setF, State.setReg_rstAt]
@[simp] theorem State.setF_fsc (pg : Nat) (x : Fld) (v : Nat) : (s.setF pg x v).fsc = s.fsc := by simp only [State.setF, State.setReg_fsc]
@[simp] theorem State.setF_pwr (pg : Nat) (x : Fld) (v : Nat) : (s.setF pg x v).pwr = s.pwr := by simp only [State.setF, State.setReg_pwr]
@[simp] theorem State.setF_nv (pg : Nat) (x : Fld) (v : Nat) : (s.setF pg x v).nv = s.nv := by simp only [State.setF, State.setReg_nv]
@[simp] theorem State.setF_mgt (pg : Nat) (x : Fld) (v : Nat) : (s.setF pg x v).mgt = s.mgt := by simp only [State.setF, State.setReg_mgt]
@[simp] theorem State.setF_out (pg : Nat) (x : Fld) (v : Nat) : (s.setF pg x v).out = s.out := by simp only [State.setF, State.setReg_out]
@[simp] theorem State.setF_fresh (pg : Nat) (x : Fld) (v : Nat) : (s.setF pg x v).fresh = s.fresh := by simp only [State.setF, State.setReg_fresh]
@[simp] theorem State.setF_core (pg : Nat) (x : Fld) (v : Nat) (i : Nat) : (s.setF pg x v).core i = s.core i := by simp only [State.core, State.setF_cores]
@[simp] theorem State.setF_clu (pg : Nat) (x : Fld) (v : Nat) (i : Nat) : (s.setF pg x v).clu i = s.clu i := by simp only [State.clu, State.setF_clus]
@[simp] theorem State.setF_part (pg : Nat) (x : Fld) (v : Nat) (i : Nat) : (s.setF pg x v).part i = s.part i := by simp only [State.part, State.setF_prt]
@[simp] theorem State.setF_keySlot (pg : Nat) (x : Fld) (v : Nat) (i : Nat) : (s.setF pg x v).keySlot i = s.keySlot i := by simp only [State.keySlot, State.setF_prt]
@[simp] theorem State.setF_holderOf (pg : Nat) (x : Fld) (v : Nat) (r i : Nat) : (s.setF pg x v).holderOf r i = s.holderOf r i := by simp only [State.holderOf, State.setF_prt]
@[simp] theorem State.setF_sc (pg : Nat) (x : Fld) (v : Nat) (i : Nat) : (s.setF pg x v).sc i = s.sc i := by simp only [State.sc, State.setF_sch]
@[simp] theorem State.setF_slot (pg : Nat) (x : Fld) (v : Nat) (i j : Nat) : (s.setF pg x v).slot i j = s.slot i j := by simp only [State.slot, State.setF_sc]
@[simp] theorem State.setF_flow (pg : Nat) (x : Fld) (v : Nat) (i j : Nat) : (s.setF pg x v).flow i j = s.flow i j := by simp only [State.flow, State.setF_sc]
@[simp] theorem State.setF_qp (pg : Nat) (x : Fld) (v : Nat) (i j : Nat) : (s.setF pg x v).qp i j = s.qp i j := by simp only [State.qp, State.setF_hif]
@[simp] theorem State.setF_link (pg : Nat) (x : Fld) (v : Nat) (i : Nat) : (s.setF pg x v).link i = s.link i := by simp only [State.link, State.setF_links]
@[simp] theorem State.setF_eng (pg : Nat) (x : Fld) (v : Nat) (i : Nat) : (s.setF pg x v).eng i = s.eng i := by simp only [State.eng, State.setF_tok]
@[simp] theorem State.setF_mop (pg : Nat) (x : Fld) (v : Nat) (i j : Nat) : (s.setF pg x v).mop i j = s.mop i j := by simp only [State.mop, State.setF_mig]
@[simp] theorem State.setF_dead (pg : Nat) (x : Fld) (v : Nat) : (s.setF pg x v).dead = s.dead := by simp only [State.dead, State.setF_pins]
@[simp] theorem State.setF_fscSlot (pg : Nat) (x : Fld) (v : Nat) (i : Nat) : (s.setF pg x v).fscSlot i = s.fscSlot i := by simp only [State.fscSlot, State.setF_fsc]
@[simp] theorem State.setF_al (pg : Nat) (x : Fld) (v : Nat) (i : Nat) : (s.setF pg x v).al i = s.al i := by simp only [State.al, State.setF_alloc]
@[simp] theorem State.setF_ctl (pg : Nat) (x : Fld) (v : Nat) (i : Nat) : (s.setF pg x v).ctl i = s.ctl i := by simp only [State.ctl, State.setF_ctls]
@[simp] theorem State.setW_pending (pg ofs v : Nat) : (s.setW pg ofs v).pending = s.pending := by simp only [State.setW, State.setReg_pending]
@[simp] theorem State.setW_tb (pg ofs v : Nat) : (s.setW pg ofs v).tb = s.tb := by simp only [State.setW, State.setReg_tb]
@[simp] theorem State.setW_ev (pg ofs v : Nat) : (s.setW pg ofs v).ev = s.ev := by simp only [State.setW, State.setReg_ev]
@[simp] theorem State.setW_prt (pg ofs v : Nat) : (s.setW pg ofs v).prt = s.prt := by simp only [State.setW, State.setReg_prt]
@[simp] theorem State.setW_mem (pg ofs v : Nat) : (s.setW pg ofs v).mem = s.mem := by simp only [State.setW, State.setReg_mem]
@[simp] theorem State.setW_ctls (pg ofs v : Nat) : (s.setW pg ofs v).ctls = s.ctls := by simp only [State.setW, State.setReg_ctls]
@[simp] theorem State.setW_alloc (pg ofs v : Nat) : (s.setW pg ofs v).alloc = s.alloc := by simp only [State.setW, State.setReg_alloc]
@[simp] theorem State.setW_ras (pg ofs v : Nat) : (s.setW pg ofs v).ras = s.ras := by simp only [State.setW, State.setReg_ras]
@[simp] theorem State.setW_bridge (pg ofs v : Nat) : (s.setW pg ofs v).bridge = s.bridge := by simp only [State.setW, State.setReg_bridge]
@[simp] theorem State.setW_router (pg ofs v : Nat) : (s.setW pg ofs v).router = s.router := by simp only [State.setW, State.setReg_router]
@[simp] theorem State.setW_cores (pg ofs v : Nat) : (s.setW pg ofs v).cores = s.cores := by simp only [State.setW, State.setReg_cores]
@[simp] theorem State.setW_clus (pg ofs v : Nat) : (s.setW pg ofs v).clus = s.clus := by simp only [State.setW, State.setReg_clus]
@[simp] theorem State.setW_pins (pg ofs v : Nat) : (s.setW pg ofs v).pins = s.pins := by simp only [State.setW, State.setReg_pins]
@[simp] theorem State.setW_sch (pg ofs v : Nat) : (s.setW pg ofs v).sch = s.sch := by simp only [State.setW, State.setReg_sch]
@[simp] theorem State.setW_fab (pg ofs v : Nat) : (s.setW pg ofs v).fab = s.fab := by simp only [State.setW, State.setReg_fab]
@[simp] theorem State.setW_links (pg ofs v : Nat) : (s.setW pg ofs v).links = s.links := by simp only [State.setW, State.setReg_links]
@[simp] theorem State.setW_hif (pg ofs v : Nat) : (s.setW pg ofs v).hif = s.hif := by simp only [State.setW, State.setReg_hif]
@[simp] theorem State.setW_mig (pg ofs v : Nat) : (s.setW pg ofs v).mig = s.mig := by simp only [State.setW, State.setReg_mig]
@[simp] theorem State.setW_tok (pg ofs v : Nat) : (s.setW pg ofs v).tok = s.tok := by simp only [State.setW, State.setReg_tok]
@[simp] theorem State.setW_ckp (pg ofs v : Nat) : (s.setW pg ofs v).ckp = s.ckp := by simp only [State.setW, State.setReg_ckp]
@[simp] theorem State.setW_rstAt (pg ofs v : Nat) : (s.setW pg ofs v).rstAt = s.rstAt := by simp only [State.setW, State.setReg_rstAt]
@[simp] theorem State.setW_fsc (pg ofs v : Nat) : (s.setW pg ofs v).fsc = s.fsc := by simp only [State.setW, State.setReg_fsc]
@[simp] theorem State.setW_pwr (pg ofs v : Nat) : (s.setW pg ofs v).pwr = s.pwr := by simp only [State.setW, State.setReg_pwr]
@[simp] theorem State.setW_nv (pg ofs v : Nat) : (s.setW pg ofs v).nv = s.nv := by simp only [State.setW, State.setReg_nv]
@[simp] theorem State.setW_mgt (pg ofs v : Nat) : (s.setW pg ofs v).mgt = s.mgt := by simp only [State.setW, State.setReg_mgt]
@[simp] theorem State.setW_out (pg ofs v : Nat) : (s.setW pg ofs v).out = s.out := by simp only [State.setW, State.setReg_out]
@[simp] theorem State.setW_fresh (pg ofs v : Nat) : (s.setW pg ofs v).fresh = s.fresh := by simp only [State.setW, State.setReg_fresh]
@[simp] theorem State.setW_core (pg ofs v : Nat) (i : Nat) : (s.setW pg ofs v).core i = s.core i := by simp only [State.core, State.setW_cores]
@[simp] theorem State.setW_clu (pg ofs v : Nat) (i : Nat) : (s.setW pg ofs v).clu i = s.clu i := by simp only [State.clu, State.setW_clus]
@[simp] theorem State.setW_part (pg ofs v : Nat) (i : Nat) : (s.setW pg ofs v).part i = s.part i := by simp only [State.part, State.setW_prt]
@[simp] theorem State.setW_keySlot (pg ofs v : Nat) (i : Nat) : (s.setW pg ofs v).keySlot i = s.keySlot i := by simp only [State.keySlot, State.setW_prt]
@[simp] theorem State.setW_holderOf (pg ofs v : Nat) (r i : Nat) : (s.setW pg ofs v).holderOf r i = s.holderOf r i := by simp only [State.holderOf, State.setW_prt]
@[simp] theorem State.setW_sc (pg ofs v : Nat) (i : Nat) : (s.setW pg ofs v).sc i = s.sc i := by simp only [State.sc, State.setW_sch]
@[simp] theorem State.setW_slot (pg ofs v : Nat) (i j : Nat) : (s.setW pg ofs v).slot i j = s.slot i j := by simp only [State.slot, State.setW_sc]
@[simp] theorem State.setW_flow (pg ofs v : Nat) (i j : Nat) : (s.setW pg ofs v).flow i j = s.flow i j := by simp only [State.flow, State.setW_sc]
@[simp] theorem State.setW_qp (pg ofs v : Nat) (i j : Nat) : (s.setW pg ofs v).qp i j = s.qp i j := by simp only [State.qp, State.setW_hif]
@[simp] theorem State.setW_link (pg ofs v : Nat) (i : Nat) : (s.setW pg ofs v).link i = s.link i := by simp only [State.link, State.setW_links]
@[simp] theorem State.setW_eng (pg ofs v : Nat) (i : Nat) : (s.setW pg ofs v).eng i = s.eng i := by simp only [State.eng, State.setW_tok]
@[simp] theorem State.setW_mop (pg ofs v : Nat) (i j : Nat) : (s.setW pg ofs v).mop i j = s.mop i j := by simp only [State.mop, State.setW_mig]
@[simp] theorem State.setW_dead (pg ofs v : Nat) : (s.setW pg ofs v).dead = s.dead := by simp only [State.dead, State.setW_pins]
@[simp] theorem State.setW_fscSlot (pg ofs v : Nat) (i : Nat) : (s.setW pg ofs v).fscSlot i = s.fscSlot i := by simp only [State.fscSlot, State.setW_fsc]
@[simp] theorem State.setW_al (pg ofs v : Nat) (i : Nat) : (s.setW pg ofs v).al i = s.al i := by simp only [State.al, State.setW_alloc]
@[simp] theorem State.setW_ctl (pg ofs v : Nat) (i : Nat) : (s.setW pg ofs v).ctl i = s.ctl i := by simp only [State.ctl, State.setW_ctls]
@[simp] theorem State.addF_pending (pg : Nat) (x : Fld) (n : Nat) : (s.addF pg x n).pending = s.pending := by simp only [State.addF, State.setF_pending]
@[simp] theorem State.addF_tb (pg : Nat) (x : Fld) (n : Nat) : (s.addF pg x n).tb = s.tb := by simp only [State.addF, State.setF_tb]
@[simp] theorem State.addF_ev (pg : Nat) (x : Fld) (n : Nat) : (s.addF pg x n).ev = s.ev := by simp only [State.addF, State.setF_ev]
@[simp] theorem State.addF_prt (pg : Nat) (x : Fld) (n : Nat) : (s.addF pg x n).prt = s.prt := by simp only [State.addF, State.setF_prt]
@[simp] theorem State.addF_mem (pg : Nat) (x : Fld) (n : Nat) : (s.addF pg x n).mem = s.mem := by simp only [State.addF, State.setF_mem]
@[simp] theorem State.addF_ctls (pg : Nat) (x : Fld) (n : Nat) : (s.addF pg x n).ctls = s.ctls := by simp only [State.addF, State.setF_ctls]
@[simp] theorem State.addF_alloc (pg : Nat) (x : Fld) (n : Nat) : (s.addF pg x n).alloc = s.alloc := by simp only [State.addF, State.setF_alloc]
@[simp] theorem State.addF_ras (pg : Nat) (x : Fld) (n : Nat) : (s.addF pg x n).ras = s.ras := by simp only [State.addF, State.setF_ras]
@[simp] theorem State.addF_bridge (pg : Nat) (x : Fld) (n : Nat) : (s.addF pg x n).bridge = s.bridge := by simp only [State.addF, State.setF_bridge]
@[simp] theorem State.addF_router (pg : Nat) (x : Fld) (n : Nat) : (s.addF pg x n).router = s.router := by simp only [State.addF, State.setF_router]
@[simp] theorem State.addF_cores (pg : Nat) (x : Fld) (n : Nat) : (s.addF pg x n).cores = s.cores := by simp only [State.addF, State.setF_cores]
@[simp] theorem State.addF_clus (pg : Nat) (x : Fld) (n : Nat) : (s.addF pg x n).clus = s.clus := by simp only [State.addF, State.setF_clus]
@[simp] theorem State.addF_pins (pg : Nat) (x : Fld) (n : Nat) : (s.addF pg x n).pins = s.pins := by simp only [State.addF, State.setF_pins]
@[simp] theorem State.addF_sch (pg : Nat) (x : Fld) (n : Nat) : (s.addF pg x n).sch = s.sch := by simp only [State.addF, State.setF_sch]
@[simp] theorem State.addF_fab (pg : Nat) (x : Fld) (n : Nat) : (s.addF pg x n).fab = s.fab := by simp only [State.addF, State.setF_fab]
@[simp] theorem State.addF_links (pg : Nat) (x : Fld) (n : Nat) : (s.addF pg x n).links = s.links := by simp only [State.addF, State.setF_links]
@[simp] theorem State.addF_hif (pg : Nat) (x : Fld) (n : Nat) : (s.addF pg x n).hif = s.hif := by simp only [State.addF, State.setF_hif]
@[simp] theorem State.addF_mig (pg : Nat) (x : Fld) (n : Nat) : (s.addF pg x n).mig = s.mig := by simp only [State.addF, State.setF_mig]
@[simp] theorem State.addF_tok (pg : Nat) (x : Fld) (n : Nat) : (s.addF pg x n).tok = s.tok := by simp only [State.addF, State.setF_tok]
@[simp] theorem State.addF_ckp (pg : Nat) (x : Fld) (n : Nat) : (s.addF pg x n).ckp = s.ckp := by simp only [State.addF, State.setF_ckp]
@[simp] theorem State.addF_rstAt (pg : Nat) (x : Fld) (n : Nat) : (s.addF pg x n).rstAt = s.rstAt := by simp only [State.addF, State.setF_rstAt]
@[simp] theorem State.addF_fsc (pg : Nat) (x : Fld) (n : Nat) : (s.addF pg x n).fsc = s.fsc := by simp only [State.addF, State.setF_fsc]
@[simp] theorem State.addF_pwr (pg : Nat) (x : Fld) (n : Nat) : (s.addF pg x n).pwr = s.pwr := by simp only [State.addF, State.setF_pwr]
@[simp] theorem State.addF_nv (pg : Nat) (x : Fld) (n : Nat) : (s.addF pg x n).nv = s.nv := by simp only [State.addF, State.setF_nv]
@[simp] theorem State.addF_mgt (pg : Nat) (x : Fld) (n : Nat) : (s.addF pg x n).mgt = s.mgt := by simp only [State.addF, State.setF_mgt]
@[simp] theorem State.addF_out (pg : Nat) (x : Fld) (n : Nat) : (s.addF pg x n).out = s.out := by simp only [State.addF, State.setF_out]
@[simp] theorem State.addF_fresh (pg : Nat) (x : Fld) (n : Nat) : (s.addF pg x n).fresh = s.fresh := by simp only [State.addF, State.setF_fresh]
@[simp] theorem State.addF_core (pg : Nat) (x : Fld) (n : Nat) (i : Nat) : (s.addF pg x n).core i = s.core i := by simp only [State.core, State.addF_cores]
@[simp] theorem State.addF_clu (pg : Nat) (x : Fld) (n : Nat) (i : Nat) : (s.addF pg x n).clu i = s.clu i := by simp only [State.clu, State.addF_clus]
@[simp] theorem State.addF_part (pg : Nat) (x : Fld) (n : Nat) (i : Nat) : (s.addF pg x n).part i = s.part i := by simp only [State.part, State.addF_prt]
@[simp] theorem State.addF_keySlot (pg : Nat) (x : Fld) (n : Nat) (i : Nat) : (s.addF pg x n).keySlot i = s.keySlot i := by simp only [State.keySlot, State.addF_prt]
@[simp] theorem State.addF_holderOf (pg : Nat) (x : Fld) (n : Nat) (r i : Nat) : (s.addF pg x n).holderOf r i = s.holderOf r i := by simp only [State.holderOf, State.addF_prt]
@[simp] theorem State.addF_sc (pg : Nat) (x : Fld) (n : Nat) (i : Nat) : (s.addF pg x n).sc i = s.sc i := by simp only [State.sc, State.addF_sch]
@[simp] theorem State.addF_slot (pg : Nat) (x : Fld) (n : Nat) (i j : Nat) : (s.addF pg x n).slot i j = s.slot i j := by simp only [State.slot, State.addF_sc]
@[simp] theorem State.addF_flow (pg : Nat) (x : Fld) (n : Nat) (i j : Nat) : (s.addF pg x n).flow i j = s.flow i j := by simp only [State.flow, State.addF_sc]
@[simp] theorem State.addF_qp (pg : Nat) (x : Fld) (n : Nat) (i j : Nat) : (s.addF pg x n).qp i j = s.qp i j := by simp only [State.qp, State.addF_hif]
@[simp] theorem State.addF_link (pg : Nat) (x : Fld) (n : Nat) (i : Nat) : (s.addF pg x n).link i = s.link i := by simp only [State.link, State.addF_links]
@[simp] theorem State.addF_eng (pg : Nat) (x : Fld) (n : Nat) (i : Nat) : (s.addF pg x n).eng i = s.eng i := by simp only [State.eng, State.addF_tok]
@[simp] theorem State.addF_mop (pg : Nat) (x : Fld) (n : Nat) (i j : Nat) : (s.addF pg x n).mop i j = s.mop i j := by simp only [State.mop, State.addF_mig]
@[simp] theorem State.addF_dead (pg : Nat) (x : Fld) (n : Nat) : (s.addF pg x n).dead = s.dead := by simp only [State.dead, State.addF_pins]
@[simp] theorem State.addF_fscSlot (pg : Nat) (x : Fld) (n : Nat) (i : Nat) : (s.addF pg x n).fscSlot i = s.fscSlot i := by simp only [State.fscSlot, State.addF_fsc]
@[simp] theorem State.addF_al (pg : Nat) (x : Fld) (n : Nat) (i : Nat) : (s.addF pg x n).al i = s.al i := by simp only [State.al, State.addF_alloc]
@[simp] theorem State.addF_ctl (pg : Nat) (x : Fld) (n : Nat) (i : Nat) : (s.addF pg x n).ctl i = s.ctl i := by simp only [State.ctl, State.addF_ctls]
@[simp] theorem State.setW64_pending (pg lo hi v : Nat) : (s.setW64 pg lo hi v).pending = s.pending := by simp only [State.setW64, State.setW_pending]
@[simp] theorem State.setW64_tb (pg lo hi v : Nat) : (s.setW64 pg lo hi v).tb = s.tb := by simp only [State.setW64, State.setW_tb]
@[simp] theorem State.setW64_ev (pg lo hi v : Nat) : (s.setW64 pg lo hi v).ev = s.ev := by simp only [State.setW64, State.setW_ev]
@[simp] theorem State.setW64_prt (pg lo hi v : Nat) : (s.setW64 pg lo hi v).prt = s.prt := by simp only [State.setW64, State.setW_prt]
@[simp] theorem State.setW64_mem (pg lo hi v : Nat) : (s.setW64 pg lo hi v).mem = s.mem := by simp only [State.setW64, State.setW_mem]
@[simp] theorem State.setW64_ctls (pg lo hi v : Nat) : (s.setW64 pg lo hi v).ctls = s.ctls := by simp only [State.setW64, State.setW_ctls]
@[simp] theorem State.setW64_alloc (pg lo hi v : Nat) : (s.setW64 pg lo hi v).alloc = s.alloc := by simp only [State.setW64, State.setW_alloc]
@[simp] theorem State.setW64_ras (pg lo hi v : Nat) : (s.setW64 pg lo hi v).ras = s.ras := by simp only [State.setW64, State.setW_ras]
@[simp] theorem State.setW64_bridge (pg lo hi v : Nat) : (s.setW64 pg lo hi v).bridge = s.bridge := by simp only [State.setW64, State.setW_bridge]
@[simp] theorem State.setW64_router (pg lo hi v : Nat) : (s.setW64 pg lo hi v).router = s.router := by simp only [State.setW64, State.setW_router]
@[simp] theorem State.setW64_cores (pg lo hi v : Nat) : (s.setW64 pg lo hi v).cores = s.cores := by simp only [State.setW64, State.setW_cores]
@[simp] theorem State.setW64_clus (pg lo hi v : Nat) : (s.setW64 pg lo hi v).clus = s.clus := by simp only [State.setW64, State.setW_clus]
@[simp] theorem State.setW64_pins (pg lo hi v : Nat) : (s.setW64 pg lo hi v).pins = s.pins := by simp only [State.setW64, State.setW_pins]
@[simp] theorem State.setW64_sch (pg lo hi v : Nat) : (s.setW64 pg lo hi v).sch = s.sch := by simp only [State.setW64, State.setW_sch]
@[simp] theorem State.setW64_fab (pg lo hi v : Nat) : (s.setW64 pg lo hi v).fab = s.fab := by simp only [State.setW64, State.setW_fab]
@[simp] theorem State.setW64_links (pg lo hi v : Nat) : (s.setW64 pg lo hi v).links = s.links := by simp only [State.setW64, State.setW_links]
@[simp] theorem State.setW64_hif (pg lo hi v : Nat) : (s.setW64 pg lo hi v).hif = s.hif := by simp only [State.setW64, State.setW_hif]
@[simp] theorem State.setW64_mig (pg lo hi v : Nat) : (s.setW64 pg lo hi v).mig = s.mig := by simp only [State.setW64, State.setW_mig]
@[simp] theorem State.setW64_tok (pg lo hi v : Nat) : (s.setW64 pg lo hi v).tok = s.tok := by simp only [State.setW64, State.setW_tok]
@[simp] theorem State.setW64_ckp (pg lo hi v : Nat) : (s.setW64 pg lo hi v).ckp = s.ckp := by simp only [State.setW64, State.setW_ckp]
@[simp] theorem State.setW64_rstAt (pg lo hi v : Nat) : (s.setW64 pg lo hi v).rstAt = s.rstAt := by simp only [State.setW64, State.setW_rstAt]
@[simp] theorem State.setW64_fsc (pg lo hi v : Nat) : (s.setW64 pg lo hi v).fsc = s.fsc := by simp only [State.setW64, State.setW_fsc]
@[simp] theorem State.setW64_pwr (pg lo hi v : Nat) : (s.setW64 pg lo hi v).pwr = s.pwr := by simp only [State.setW64, State.setW_pwr]
@[simp] theorem State.setW64_nv (pg lo hi v : Nat) : (s.setW64 pg lo hi v).nv = s.nv := by simp only [State.setW64, State.setW_nv]
@[simp] theorem State.setW64_mgt (pg lo hi v : Nat) : (s.setW64 pg lo hi v).mgt = s.mgt := by simp only [State.setW64, State.setW_mgt]
@[simp] theorem State.setW64_out (pg lo hi v : Nat) : (s.setW64 pg lo hi v).out = s.out := by simp only [State.setW64, State.setW_out]
@[simp] theorem State.setW64_fresh (pg lo hi v : Nat) : (s.setW64 pg lo hi v).fresh = s.fresh := by simp only [State.setW64, State.setW_fresh]
@[simp] theorem State.setW64_core (pg lo hi v : Nat) (i : Nat) : (s.setW64 pg lo hi v).core i = s.core i := by simp only [State.core, State.setW64_cores]
@[simp] theorem State.setW64_clu (pg lo hi v : Nat) (i : Nat) : (s.setW64 pg lo hi v).clu i = s.clu i := by simp only [State.clu, State.setW64_clus]
@[simp] theorem State.setW64_part (pg lo hi v : Nat) (i : Nat) : (s.setW64 pg lo hi v).part i = s.part i := by simp only [State.part, State.setW64_prt]
@[simp] theorem State.setW64_keySlot (pg lo hi v : Nat) (i : Nat) : (s.setW64 pg lo hi v).keySlot i = s.keySlot i := by simp only [State.keySlot, State.setW64_prt]
@[simp] theorem State.setW64_holderOf (pg lo hi v : Nat) (r i : Nat) : (s.setW64 pg lo hi v).holderOf r i = s.holderOf r i := by simp only [State.holderOf, State.setW64_prt]
@[simp] theorem State.setW64_sc (pg lo hi v : Nat) (i : Nat) : (s.setW64 pg lo hi v).sc i = s.sc i := by simp only [State.sc, State.setW64_sch]
@[simp] theorem State.setW64_slot (pg lo hi v : Nat) (i j : Nat) : (s.setW64 pg lo hi v).slot i j = s.slot i j := by simp only [State.slot, State.setW64_sc]
@[simp] theorem State.setW64_flow (pg lo hi v : Nat) (i j : Nat) : (s.setW64 pg lo hi v).flow i j = s.flow i j := by simp only [State.flow, State.setW64_sc]
@[simp] theorem State.setW64_qp (pg lo hi v : Nat) (i j : Nat) : (s.setW64 pg lo hi v).qp i j = s.qp i j := by simp only [State.qp, State.setW64_hif]
@[simp] theorem State.setW64_link (pg lo hi v : Nat) (i : Nat) : (s.setW64 pg lo hi v).link i = s.link i := by simp only [State.link, State.setW64_links]
@[simp] theorem State.setW64_eng (pg lo hi v : Nat) (i : Nat) : (s.setW64 pg lo hi v).eng i = s.eng i := by simp only [State.eng, State.setW64_tok]
@[simp] theorem State.setW64_mop (pg lo hi v : Nat) (i j : Nat) : (s.setW64 pg lo hi v).mop i j = s.mop i j := by simp only [State.mop, State.setW64_mig]
@[simp] theorem State.setW64_dead (pg lo hi v : Nat) : (s.setW64 pg lo hi v).dead = s.dead := by simp only [State.dead, State.setW64_pins]
@[simp] theorem State.setW64_fscSlot (pg lo hi v : Nat) (i : Nat) : (s.setW64 pg lo hi v).fscSlot i = s.fscSlot i := by simp only [State.fscSlot, State.setW64_fsc]
@[simp] theorem State.setW64_al (pg lo hi v : Nat) (i : Nat) : (s.setW64 pg lo hi v).al i = s.al i := by simp only [State.al, State.setW64_alloc]
@[simp] theorem State.setW64_ctl (pg lo hi v : Nat) (i : Nat) : (s.setW64 pg lo hi v).ctl i = s.ctl i := by simp only [State.ctl, State.setW64_ctls]
@[simp] theorem State.add64_pending (pg lo hi n : Nat) : (s.add64 pg lo hi n).pending = s.pending := by simp only [State.add64, State.setW64_pending]
@[simp] theorem State.add64_tb (pg lo hi n : Nat) : (s.add64 pg lo hi n).tb = s.tb := by simp only [State.add64, State.setW64_tb]
@[simp] theorem State.add64_ev (pg lo hi n : Nat) : (s.add64 pg lo hi n).ev = s.ev := by simp only [State.add64, State.setW64_ev]
@[simp] theorem State.add64_prt (pg lo hi n : Nat) : (s.add64 pg lo hi n).prt = s.prt := by simp only [State.add64, State.setW64_prt]
@[simp] theorem State.add64_mem (pg lo hi n : Nat) : (s.add64 pg lo hi n).mem = s.mem := by simp only [State.add64, State.setW64_mem]
@[simp] theorem State.add64_ctls (pg lo hi n : Nat) : (s.add64 pg lo hi n).ctls = s.ctls := by simp only [State.add64, State.setW64_ctls]
@[simp] theorem State.add64_alloc (pg lo hi n : Nat) : (s.add64 pg lo hi n).alloc = s.alloc := by simp only [State.add64, State.setW64_alloc]
@[simp] theorem State.add64_ras (pg lo hi n : Nat) : (s.add64 pg lo hi n).ras = s.ras := by simp only [State.add64, State.setW64_ras]
@[simp] theorem State.add64_bridge (pg lo hi n : Nat) : (s.add64 pg lo hi n).bridge = s.bridge := by simp only [State.add64, State.setW64_bridge]
@[simp] theorem State.add64_router (pg lo hi n : Nat) : (s.add64 pg lo hi n).router = s.router := by simp only [State.add64, State.setW64_router]
@[simp] theorem State.add64_cores (pg lo hi n : Nat) : (s.add64 pg lo hi n).cores = s.cores := by simp only [State.add64, State.setW64_cores]
@[simp] theorem State.add64_clus (pg lo hi n : Nat) : (s.add64 pg lo hi n).clus = s.clus := by simp only [State.add64, State.setW64_clus]
@[simp] theorem State.add64_pins (pg lo hi n : Nat) : (s.add64 pg lo hi n).pins = s.pins := by simp only [State.add64, State.setW64_pins]
@[simp] theorem State.add64_sch (pg lo hi n : Nat) : (s.add64 pg lo hi n).sch = s.sch := by simp only [State.add64, State.setW64_sch]
@[simp] theorem State.add64_fab (pg lo hi n : Nat) : (s.add64 pg lo hi n).fab = s.fab := by simp only [State.add64, State.setW64_fab]
@[simp] theorem State.add64_links (pg lo hi n : Nat) : (s.add64 pg lo hi n).links = s.links := by simp only [State.add64, State.setW64_links]
@[simp] theorem State.add64_hif (pg lo hi n : Nat) : (s.add64 pg lo hi n).hif = s.hif := by simp only [State.add64, State.setW64_hif]
@[simp] theorem State.add64_mig (pg lo hi n : Nat) : (s.add64 pg lo hi n).mig = s.mig := by simp only [State.add64, State.setW64_mig]
@[simp] theorem State.add64_tok (pg lo hi n : Nat) : (s.add64 pg lo hi n).tok = s.tok := by simp only [State.add64, State.setW64_tok]
@[simp] theorem State.add64_ckp (pg lo hi n : Nat) : (s.add64 pg lo hi n).ckp = s.ckp := by simp only [State.add64, State.setW64_ckp]
@[simp] theorem State.add64_rstAt (pg lo hi n : Nat) : (s.add64 pg lo hi n).rstAt = s.rstAt := by simp only [State.add64, State.setW64_rstAt]
@[simp] theorem State.add64_fsc (pg lo hi n : Nat) : (s.add64 pg lo hi n).fsc = s.fsc := by simp only [State.add64, State.setW64_fsc]
@[simp] theorem State.add64_pwr (pg lo hi n : Nat) : (s.add64 pg lo hi n).pwr = s.pwr := by simp only [State.add64, State.setW64_pwr]
@[simp] theorem State.add64_nv (pg lo hi n : Nat) : (s.add64 pg lo hi n).nv = s.nv := by simp only [State.add64, State.setW64_nv]
@[simp] theorem State.add64_mgt (pg lo hi n : Nat) : (s.add64 pg lo hi n).mgt = s.mgt := by simp only [State.add64, State.setW64_mgt]
@[simp] theorem State.add64_out (pg lo hi n : Nat) : (s.add64 pg lo hi n).out = s.out := by simp only [State.add64, State.setW64_out]
@[simp] theorem State.add64_fresh (pg lo hi n : Nat) : (s.add64 pg lo hi n).fresh = s.fresh := by simp only [State.add64, State.setW64_fresh]
@[simp] theorem State.add64_core (pg lo hi n : Nat) (i : Nat) : (s.add64 pg lo hi n).core i = s.core i := by simp only [State.core, State.add64_cores]
@[simp] theorem State.add64_clu (pg lo hi n : Nat) (i : Nat) : (s.add64 pg lo hi n).clu i = s.clu i := by simp only [State.clu, State.add64_clus]
@[simp] theorem State.add64_part (pg lo hi n : Nat) (i : Nat) : (s.add64 pg lo hi n).part i = s.part i := by simp only [State.part, State.add64_prt]
@[simp] theorem State.add64_keySlot (pg lo hi n : Nat) (i : Nat) : (s.add64 pg lo hi n).keySlot i = s.keySlot i := by simp only [State.keySlot, State.add64_prt]
@[simp] theorem State.add64_holderOf (pg lo hi n : Nat) (r i : Nat) : (s.add64 pg lo hi n).holderOf r i = s.holderOf r i := by simp only [State.holderOf, State.add64_prt]
@[simp] theorem State.add64_sc (pg lo hi n : Nat) (i : Nat) : (s.add64 pg lo hi n).sc i = s.sc i := by simp only [State.sc, State.add64_sch]
@[simp] theorem State.add64_slot (pg lo hi n : Nat) (i j : Nat) : (s.add64 pg lo hi n).slot i j = s.slot i j := by simp only [State.slot, State.add64_sc]
@[simp] theorem State.add64_flow (pg lo hi n : Nat) (i j : Nat) : (s.add64 pg lo hi n).flow i j = s.flow i j := by simp only [State.flow, State.add64_sc]
@[simp] theorem State.add64_qp (pg lo hi n : Nat) (i j : Nat) : (s.add64 pg lo hi n).qp i j = s.qp i j := by simp only [State.qp, State.add64_hif]
@[simp] theorem State.add64_link (pg lo hi n : Nat) (i : Nat) : (s.add64 pg lo hi n).link i = s.link i := by simp only [State.link, State.add64_links]
@[simp] theorem State.add64_eng (pg lo hi n : Nat) (i : Nat) : (s.add64 pg lo hi n).eng i = s.eng i := by simp only [State.eng, State.add64_tok]
@[simp] theorem State.add64_mop (pg lo hi n : Nat) (i j : Nat) : (s.add64 pg lo hi n).mop i j = s.mop i j := by simp only [State.mop, State.add64_mig]
@[simp] theorem State.add64_dead (pg lo hi n : Nat) : (s.add64 pg lo hi n).dead = s.dead := by simp only [State.dead, State.add64_pins]
@[simp] theorem State.add64_fscSlot (pg lo hi n : Nat) (i : Nat) : (s.add64 pg lo hi n).fscSlot i = s.fscSlot i := by simp only [State.fscSlot, State.add64_fsc]
@[simp] theorem State.add64_al (pg lo hi n : Nat) (i : Nat) : (s.add64 pg lo hi n).al i = s.al i := by simp only [State.al, State.add64_alloc]
@[simp] theorem State.add64_ctl (pg lo hi n : Nat) (i : Nat) : (s.add64 pg lo hi n).ctl i = s.ctl i := by simp only [State.ctl, State.add64_ctls]
@[simp] theorem State.setPart_pending (p : Nat) (v : Part) : (s.setPart p v).pending = s.pending := by simp only [State.setPart]
@[simp] theorem State.setPart_regs (p : Nat) (v : Part) : (s.setPart p v).regs = s.regs := by simp only [State.setPart]
@[simp] theorem State.setPart_tb (p : Nat) (v : Part) : (s.setPart p v).tb = s.tb := by simp only [State.setPart]
@[simp] theorem State.setPart_ev (p : Nat) (v : Part) : (s.setPart p v).ev = s.ev := by simp only [State.setPart]
@[simp] theorem State.setPart_mem (p : Nat) (v : Part) : (s.setPart p v).mem = s.mem := by simp only [State.setPart]
@[simp] theorem State.setPart_ctls (p : Nat) (v : Part) : (s.setPart p v).ctls = s.ctls := by simp only [State.setPart]
@[simp] theorem State.setPart_alloc (p : Nat) (v : Part) : (s.setPart p v).alloc = s.alloc := by simp only [State.setPart]
@[simp] theorem State.setPart_ras (p : Nat) (v : Part) : (s.setPart p v).ras = s.ras := by simp only [State.setPart]
@[simp] theorem State.setPart_bridge (p : Nat) (v : Part) : (s.setPart p v).bridge = s.bridge := by simp only [State.setPart]
@[simp] theorem State.setPart_router (p : Nat) (v : Part) : (s.setPart p v).router = s.router := by simp only [State.setPart]
@[simp] theorem State.setPart_cores (p : Nat) (v : Part) : (s.setPart p v).cores = s.cores := by simp only [State.setPart]
@[simp] theorem State.setPart_clus (p : Nat) (v : Part) : (s.setPart p v).clus = s.clus := by simp only [State.setPart]
@[simp] theorem State.setPart_pins (p : Nat) (v : Part) : (s.setPart p v).pins = s.pins := by simp only [State.setPart]
@[simp] theorem State.setPart_sch (p : Nat) (v : Part) : (s.setPart p v).sch = s.sch := by simp only [State.setPart]
@[simp] theorem State.setPart_fab (p : Nat) (v : Part) : (s.setPart p v).fab = s.fab := by simp only [State.setPart]
@[simp] theorem State.setPart_links (p : Nat) (v : Part) : (s.setPart p v).links = s.links := by simp only [State.setPart]
@[simp] theorem State.setPart_hif (p : Nat) (v : Part) : (s.setPart p v).hif = s.hif := by simp only [State.setPart]
@[simp] theorem State.setPart_mig (p : Nat) (v : Part) : (s.setPart p v).mig = s.mig := by simp only [State.setPart]
@[simp] theorem State.setPart_tok (p : Nat) (v : Part) : (s.setPart p v).tok = s.tok := by simp only [State.setPart]
@[simp] theorem State.setPart_ckp (p : Nat) (v : Part) : (s.setPart p v).ckp = s.ckp := by simp only [State.setPart]
@[simp] theorem State.setPart_rstAt (p : Nat) (v : Part) : (s.setPart p v).rstAt = s.rstAt := by simp only [State.setPart]
@[simp] theorem State.setPart_fsc (p : Nat) (v : Part) : (s.setPart p v).fsc = s.fsc := by simp only [State.setPart]
@[simp] theorem State.setPart_pwr (p : Nat) (v : Part) : (s.setPart p v).pwr = s.pwr := by simp only [State.setPart]
@[simp] theorem State.setPart_nv (p : Nat) (v : Part) : (s.setPart p v).nv = s.nv := by simp only [State.setPart]
@[simp] theorem State.setPart_mgt (p : Nat) (v : Part) : (s.setPart p v).mgt = s.mgt := by simp only [State.setPart]
@[simp] theorem State.setPart_out (p : Nat) (v : Part) : (s.setPart p v).out = s.out := by simp only [State.setPart]
@[simp] theorem State.setPart_fresh (p : Nat) (v : Part) : (s.setPart p v).fresh = s.fresh := by simp only [State.setPart]
@[simp] theorem State.setPart_reg (p : Nat) (v : Part) (i : Nat) : (s.setPart p v).reg i = s.reg i := by simp only [State.reg, State.setPart_regs]
@[simp] theorem State.setPart_f (p : Nat) (v : Part) (pg' : Nat) (y : Fld) : (s.setPart p v).f pg' y = s.f pg' y := by simp only [State.f, State.setPart_reg]
@[simp] theorem State.setPart_w (p : Nat) (v : Part) (pg' o : Nat) : (s.setPart p v).w pg' o = s.w pg' o := by simp only [State.w, State.setPart_reg]
@[simp] theorem State.setPart_core (p : Nat) (v : Part) (i : Nat) : (s.setPart p v).core i = s.core i := by simp only [State.core, State.setPart_cores]
@[simp] theorem State.setPart_clu (p : Nat) (v : Part) (i : Nat) : (s.setPart p v).clu i = s.clu i := by simp only [State.clu, State.setPart_clus]
@[simp] theorem State.setPart_sc (p : Nat) (v : Part) (i : Nat) : (s.setPart p v).sc i = s.sc i := by simp only [State.sc, State.setPart_sch]
@[simp] theorem State.setPart_slot (p : Nat) (v : Part) (i j : Nat) : (s.setPart p v).slot i j = s.slot i j := by simp only [State.slot, State.setPart_sc]
@[simp] theorem State.setPart_flow (p : Nat) (v : Part) (i j : Nat) : (s.setPart p v).flow i j = s.flow i j := by simp only [State.flow, State.setPart_sc]
@[simp] theorem State.setPart_qp (p : Nat) (v : Part) (i j : Nat) : (s.setPart p v).qp i j = s.qp i j := by simp only [State.qp, State.setPart_hif]
@[simp] theorem State.setPart_link (p : Nat) (v : Part) (i : Nat) : (s.setPart p v).link i = s.link i := by simp only [State.link, State.setPart_links]
@[simp] theorem State.setPart_eng (p : Nat) (v : Part) (i : Nat) : (s.setPart p v).eng i = s.eng i := by simp only [State.eng, State.setPart_tok]
@[simp] theorem State.setPart_mop (p : Nat) (v : Part) (i j : Nat) : (s.setPart p v).mop i j = s.mop i j := by simp only [State.mop, State.setPart_mig]
@[simp] theorem State.setPart_dead (p : Nat) (v : Part) : (s.setPart p v).dead = s.dead := by simp only [State.dead, State.setPart_pins]
@[simp] theorem State.setPart_fscSlot (p : Nat) (v : Part) (i : Nat) : (s.setPart p v).fscSlot i = s.fscSlot i := by simp only [State.fscSlot, State.setPart_fsc]
@[simp] theorem State.setPart_al (p : Nat) (v : Part) (i : Nat) : (s.setPart p v).al i = s.al i := by simp only [State.al, State.setPart_alloc]
@[simp] theorem State.setPart_ctl (p : Nat) (v : Part) (i : Nat) : (s.setPart p v).ctl i = s.ctl i := by simp only [State.ctl, State.setPart_ctls]
@[simp] theorem State.setKeySlot_pending (n : Nat) (v : KeySlot) : (s.setKeySlot n v).pending = s.pending := by simp only [State.setKeySlot]
@[simp] theorem State.setKeySlot_regs (n : Nat) (v : KeySlot) : (s.setKeySlot n v).regs = s.regs := by simp only [State.setKeySlot]
@[simp] theorem State.setKeySlot_tb (n : Nat) (v : KeySlot) : (s.setKeySlot n v).tb = s.tb := by simp only [State.setKeySlot]
@[simp] theorem State.setKeySlot_ev (n : Nat) (v : KeySlot) : (s.setKeySlot n v).ev = s.ev := by simp only [State.setKeySlot]
@[simp] theorem State.setKeySlot_mem (n : Nat) (v : KeySlot) : (s.setKeySlot n v).mem = s.mem := by simp only [State.setKeySlot]
@[simp] theorem State.setKeySlot_ctls (n : Nat) (v : KeySlot) : (s.setKeySlot n v).ctls = s.ctls := by simp only [State.setKeySlot]
@[simp] theorem State.setKeySlot_alloc (n : Nat) (v : KeySlot) : (s.setKeySlot n v).alloc = s.alloc := by simp only [State.setKeySlot]
@[simp] theorem State.setKeySlot_ras (n : Nat) (v : KeySlot) : (s.setKeySlot n v).ras = s.ras := by simp only [State.setKeySlot]
@[simp] theorem State.setKeySlot_bridge (n : Nat) (v : KeySlot) : (s.setKeySlot n v).bridge = s.bridge := by simp only [State.setKeySlot]
@[simp] theorem State.setKeySlot_router (n : Nat) (v : KeySlot) : (s.setKeySlot n v).router = s.router := by simp only [State.setKeySlot]
@[simp] theorem State.setKeySlot_cores (n : Nat) (v : KeySlot) : (s.setKeySlot n v).cores = s.cores := by simp only [State.setKeySlot]
@[simp] theorem State.setKeySlot_clus (n : Nat) (v : KeySlot) : (s.setKeySlot n v).clus = s.clus := by simp only [State.setKeySlot]
@[simp] theorem State.setKeySlot_pins (n : Nat) (v : KeySlot) : (s.setKeySlot n v).pins = s.pins := by simp only [State.setKeySlot]
@[simp] theorem State.setKeySlot_sch (n : Nat) (v : KeySlot) : (s.setKeySlot n v).sch = s.sch := by simp only [State.setKeySlot]
@[simp] theorem State.setKeySlot_fab (n : Nat) (v : KeySlot) : (s.setKeySlot n v).fab = s.fab := by simp only [State.setKeySlot]
@[simp] theorem State.setKeySlot_links (n : Nat) (v : KeySlot) : (s.setKeySlot n v).links = s.links := by simp only [State.setKeySlot]
@[simp] theorem State.setKeySlot_hif (n : Nat) (v : KeySlot) : (s.setKeySlot n v).hif = s.hif := by simp only [State.setKeySlot]
@[simp] theorem State.setKeySlot_mig (n : Nat) (v : KeySlot) : (s.setKeySlot n v).mig = s.mig := by simp only [State.setKeySlot]
@[simp] theorem State.setKeySlot_tok (n : Nat) (v : KeySlot) : (s.setKeySlot n v).tok = s.tok := by simp only [State.setKeySlot]
@[simp] theorem State.setKeySlot_ckp (n : Nat) (v : KeySlot) : (s.setKeySlot n v).ckp = s.ckp := by simp only [State.setKeySlot]
@[simp] theorem State.setKeySlot_rstAt (n : Nat) (v : KeySlot) : (s.setKeySlot n v).rstAt = s.rstAt := by simp only [State.setKeySlot]
@[simp] theorem State.setKeySlot_fsc (n : Nat) (v : KeySlot) : (s.setKeySlot n v).fsc = s.fsc := by simp only [State.setKeySlot]
@[simp] theorem State.setKeySlot_pwr (n : Nat) (v : KeySlot) : (s.setKeySlot n v).pwr = s.pwr := by simp only [State.setKeySlot]
@[simp] theorem State.setKeySlot_nv (n : Nat) (v : KeySlot) : (s.setKeySlot n v).nv = s.nv := by simp only [State.setKeySlot]
@[simp] theorem State.setKeySlot_mgt (n : Nat) (v : KeySlot) : (s.setKeySlot n v).mgt = s.mgt := by simp only [State.setKeySlot]
@[simp] theorem State.setKeySlot_out (n : Nat) (v : KeySlot) : (s.setKeySlot n v).out = s.out := by simp only [State.setKeySlot]
@[simp] theorem State.setKeySlot_fresh (n : Nat) (v : KeySlot) : (s.setKeySlot n v).fresh = s.fresh := by simp only [State.setKeySlot]
@[simp] theorem State.setKeySlot_reg (n : Nat) (v : KeySlot) (i : Nat) : (s.setKeySlot n v).reg i = s.reg i := by simp only [State.reg, State.setKeySlot_regs]
@[simp] theorem State.setKeySlot_f (n : Nat) (v : KeySlot) (pg' : Nat) (y : Fld) : (s.setKeySlot n v).f pg' y = s.f pg' y := by simp only [State.f, State.setKeySlot_reg]
@[simp] theorem State.setKeySlot_w (n : Nat) (v : KeySlot) (pg' o : Nat) : (s.setKeySlot n v).w pg' o = s.w pg' o := by simp only [State.w, State.setKeySlot_reg]
@[simp] theorem State.setKeySlot_core (n : Nat) (v : KeySlot) (i : Nat) : (s.setKeySlot n v).core i = s.core i := by simp only [State.core, State.setKeySlot_cores]
@[simp] theorem State.setKeySlot_clu (n : Nat) (v : KeySlot) (i : Nat) : (s.setKeySlot n v).clu i = s.clu i := by simp only [State.clu, State.setKeySlot_clus]
@[simp] theorem State.setKeySlot_sc (n : Nat) (v : KeySlot) (i : Nat) : (s.setKeySlot n v).sc i = s.sc i := by simp only [State.sc, State.setKeySlot_sch]
@[simp] theorem State.setKeySlot_slot (n : Nat) (v : KeySlot) (i j : Nat) : (s.setKeySlot n v).slot i j = s.slot i j := by simp only [State.slot, State.setKeySlot_sc]
@[simp] theorem State.setKeySlot_flow (n : Nat) (v : KeySlot) (i j : Nat) : (s.setKeySlot n v).flow i j = s.flow i j := by simp only [State.flow, State.setKeySlot_sc]
@[simp] theorem State.setKeySlot_qp (n : Nat) (v : KeySlot) (i j : Nat) : (s.setKeySlot n v).qp i j = s.qp i j := by simp only [State.qp, State.setKeySlot_hif]
@[simp] theorem State.setKeySlot_link (n : Nat) (v : KeySlot) (i : Nat) : (s.setKeySlot n v).link i = s.link i := by simp only [State.link, State.setKeySlot_links]
@[simp] theorem State.setKeySlot_eng (n : Nat) (v : KeySlot) (i : Nat) : (s.setKeySlot n v).eng i = s.eng i := by simp only [State.eng, State.setKeySlot_tok]
@[simp] theorem State.setKeySlot_mop (n : Nat) (v : KeySlot) (i j : Nat) : (s.setKeySlot n v).mop i j = s.mop i j := by simp only [State.mop, State.setKeySlot_mig]
@[simp] theorem State.setKeySlot_dead (n : Nat) (v : KeySlot) : (s.setKeySlot n v).dead = s.dead := by simp only [State.dead, State.setKeySlot_pins]
@[simp] theorem State.setKeySlot_fscSlot (n : Nat) (v : KeySlot) (i : Nat) : (s.setKeySlot n v).fscSlot i = s.fscSlot i := by simp only [State.fscSlot, State.setKeySlot_fsc]
@[simp] theorem State.setKeySlot_al (n : Nat) (v : KeySlot) (i : Nat) : (s.setKeySlot n v).al i = s.al i := by simp only [State.al, State.setKeySlot_alloc]
@[simp] theorem State.setKeySlot_ctl (n : Nat) (v : KeySlot) (i : Nat) : (s.setKeySlot n v).ctl i = s.ctl i := by simp only [State.ctl, State.setKeySlot_ctls]
@[simp] theorem State.setCtl_pending (pg : Nat) (v : Ctl) : (s.setCtl pg v).pending = s.pending := by simp only [State.setCtl]
@[simp] theorem State.setCtl_regs (pg : Nat) (v : Ctl) : (s.setCtl pg v).regs = s.regs := by simp only [State.setCtl]
@[simp] theorem State.setCtl_tb (pg : Nat) (v : Ctl) : (s.setCtl pg v).tb = s.tb := by simp only [State.setCtl]
@[simp] theorem State.setCtl_ev (pg : Nat) (v : Ctl) : (s.setCtl pg v).ev = s.ev := by simp only [State.setCtl]
@[simp] theorem State.setCtl_prt (pg : Nat) (v : Ctl) : (s.setCtl pg v).prt = s.prt := by simp only [State.setCtl]
@[simp] theorem State.setCtl_mem (pg : Nat) (v : Ctl) : (s.setCtl pg v).mem = s.mem := by simp only [State.setCtl]
@[simp] theorem State.setCtl_alloc (pg : Nat) (v : Ctl) : (s.setCtl pg v).alloc = s.alloc := by simp only [State.setCtl]
@[simp] theorem State.setCtl_ras (pg : Nat) (v : Ctl) : (s.setCtl pg v).ras = s.ras := by simp only [State.setCtl]
@[simp] theorem State.setCtl_bridge (pg : Nat) (v : Ctl) : (s.setCtl pg v).bridge = s.bridge := by simp only [State.setCtl]
@[simp] theorem State.setCtl_router (pg : Nat) (v : Ctl) : (s.setCtl pg v).router = s.router := by simp only [State.setCtl]
@[simp] theorem State.setCtl_cores (pg : Nat) (v : Ctl) : (s.setCtl pg v).cores = s.cores := by simp only [State.setCtl]
@[simp] theorem State.setCtl_clus (pg : Nat) (v : Ctl) : (s.setCtl pg v).clus = s.clus := by simp only [State.setCtl]
@[simp] theorem State.setCtl_pins (pg : Nat) (v : Ctl) : (s.setCtl pg v).pins = s.pins := by simp only [State.setCtl]
@[simp] theorem State.setCtl_sch (pg : Nat) (v : Ctl) : (s.setCtl pg v).sch = s.sch := by simp only [State.setCtl]
@[simp] theorem State.setCtl_fab (pg : Nat) (v : Ctl) : (s.setCtl pg v).fab = s.fab := by simp only [State.setCtl]
@[simp] theorem State.setCtl_links (pg : Nat) (v : Ctl) : (s.setCtl pg v).links = s.links := by simp only [State.setCtl]
@[simp] theorem State.setCtl_hif (pg : Nat) (v : Ctl) : (s.setCtl pg v).hif = s.hif := by simp only [State.setCtl]
@[simp] theorem State.setCtl_mig (pg : Nat) (v : Ctl) : (s.setCtl pg v).mig = s.mig := by simp only [State.setCtl]
@[simp] theorem State.setCtl_tok (pg : Nat) (v : Ctl) : (s.setCtl pg v).tok = s.tok := by simp only [State.setCtl]
@[simp] theorem State.setCtl_ckp (pg : Nat) (v : Ctl) : (s.setCtl pg v).ckp = s.ckp := by simp only [State.setCtl]
@[simp] theorem State.setCtl_rstAt (pg : Nat) (v : Ctl) : (s.setCtl pg v).rstAt = s.rstAt := by simp only [State.setCtl]
@[simp] theorem State.setCtl_fsc (pg : Nat) (v : Ctl) : (s.setCtl pg v).fsc = s.fsc := by simp only [State.setCtl]
@[simp] theorem State.setCtl_pwr (pg : Nat) (v : Ctl) : (s.setCtl pg v).pwr = s.pwr := by simp only [State.setCtl]
@[simp] theorem State.setCtl_nv (pg : Nat) (v : Ctl) : (s.setCtl pg v).nv = s.nv := by simp only [State.setCtl]
@[simp] theorem State.setCtl_mgt (pg : Nat) (v : Ctl) : (s.setCtl pg v).mgt = s.mgt := by simp only [State.setCtl]
@[simp] theorem State.setCtl_out (pg : Nat) (v : Ctl) : (s.setCtl pg v).out = s.out := by simp only [State.setCtl]
@[simp] theorem State.setCtl_fresh (pg : Nat) (v : Ctl) : (s.setCtl pg v).fresh = s.fresh := by simp only [State.setCtl]
@[simp] theorem State.setCtl_reg (pg : Nat) (v : Ctl) (i : Nat) : (s.setCtl pg v).reg i = s.reg i := by simp only [State.reg, State.setCtl_regs]
@[simp] theorem State.setCtl_f (pg : Nat) (v : Ctl) (pg' : Nat) (y : Fld) : (s.setCtl pg v).f pg' y = s.f pg' y := by simp only [State.f, State.setCtl_reg]
@[simp] theorem State.setCtl_w (pg : Nat) (v : Ctl) (pg' o : Nat) : (s.setCtl pg v).w pg' o = s.w pg' o := by simp only [State.w, State.setCtl_reg]
@[simp] theorem State.setCtl_core (pg : Nat) (v : Ctl) (i : Nat) : (s.setCtl pg v).core i = s.core i := by simp only [State.core, State.setCtl_cores]
@[simp] theorem State.setCtl_clu (pg : Nat) (v : Ctl) (i : Nat) : (s.setCtl pg v).clu i = s.clu i := by simp only [State.clu, State.setCtl_clus]
@[simp] theorem State.setCtl_part (pg : Nat) (v : Ctl) (i : Nat) : (s.setCtl pg v).part i = s.part i := by simp only [State.part, State.setCtl_prt]
@[simp] theorem State.setCtl_keySlot (pg : Nat) (v : Ctl) (i : Nat) : (s.setCtl pg v).keySlot i = s.keySlot i := by simp only [State.keySlot, State.setCtl_prt]
@[simp] theorem State.setCtl_holderOf (pg : Nat) (v : Ctl) (r i : Nat) : (s.setCtl pg v).holderOf r i = s.holderOf r i := by simp only [State.holderOf, State.setCtl_prt]
@[simp] theorem State.setCtl_sc (pg : Nat) (v : Ctl) (i : Nat) : (s.setCtl pg v).sc i = s.sc i := by simp only [State.sc, State.setCtl_sch]
@[simp] theorem State.setCtl_slot (pg : Nat) (v : Ctl) (i j : Nat) : (s.setCtl pg v).slot i j = s.slot i j := by simp only [State.slot, State.setCtl_sc]
@[simp] theorem State.setCtl_flow (pg : Nat) (v : Ctl) (i j : Nat) : (s.setCtl pg v).flow i j = s.flow i j := by simp only [State.flow, State.setCtl_sc]
@[simp] theorem State.setCtl_qp (pg : Nat) (v : Ctl) (i j : Nat) : (s.setCtl pg v).qp i j = s.qp i j := by simp only [State.qp, State.setCtl_hif]
@[simp] theorem State.setCtl_link (pg : Nat) (v : Ctl) (i : Nat) : (s.setCtl pg v).link i = s.link i := by simp only [State.link, State.setCtl_links]
@[simp] theorem State.setCtl_eng (pg : Nat) (v : Ctl) (i : Nat) : (s.setCtl pg v).eng i = s.eng i := by simp only [State.eng, State.setCtl_tok]
@[simp] theorem State.setCtl_mop (pg : Nat) (v : Ctl) (i j : Nat) : (s.setCtl pg v).mop i j = s.mop i j := by simp only [State.mop, State.setCtl_mig]
@[simp] theorem State.setCtl_dead (pg : Nat) (v : Ctl) : (s.setCtl pg v).dead = s.dead := by simp only [State.dead, State.setCtl_pins]
@[simp] theorem State.setCtl_fscSlot (pg : Nat) (v : Ctl) (i : Nat) : (s.setCtl pg v).fscSlot i = s.fscSlot i := by simp only [State.fscSlot, State.setCtl_fsc]
@[simp] theorem State.setCtl_al (pg : Nat) (v : Ctl) (i : Nat) : (s.setCtl pg v).al i = s.al i := by simp only [State.al, State.setCtl_alloc]
@[simp] theorem State.setAl_pending (p : Nat) (v : AllocSt) : (s.setAl p v).pending = s.pending := by simp only [State.setAl]
@[simp] theorem State.setAl_regs (p : Nat) (v : AllocSt) : (s.setAl p v).regs = s.regs := by simp only [State.setAl]
@[simp] theorem State.setAl_tb (p : Nat) (v : AllocSt) : (s.setAl p v).tb = s.tb := by simp only [State.setAl]
@[simp] theorem State.setAl_ev (p : Nat) (v : AllocSt) : (s.setAl p v).ev = s.ev := by simp only [State.setAl]
@[simp] theorem State.setAl_prt (p : Nat) (v : AllocSt) : (s.setAl p v).prt = s.prt := by simp only [State.setAl]
@[simp] theorem State.setAl_mem (p : Nat) (v : AllocSt) : (s.setAl p v).mem = s.mem := by simp only [State.setAl]
@[simp] theorem State.setAl_ctls (p : Nat) (v : AllocSt) : (s.setAl p v).ctls = s.ctls := by simp only [State.setAl]
@[simp] theorem State.setAl_ras (p : Nat) (v : AllocSt) : (s.setAl p v).ras = s.ras := by simp only [State.setAl]
@[simp] theorem State.setAl_bridge (p : Nat) (v : AllocSt) : (s.setAl p v).bridge = s.bridge := by simp only [State.setAl]
@[simp] theorem State.setAl_router (p : Nat) (v : AllocSt) : (s.setAl p v).router = s.router := by simp only [State.setAl]
@[simp] theorem State.setAl_cores (p : Nat) (v : AllocSt) : (s.setAl p v).cores = s.cores := by simp only [State.setAl]
@[simp] theorem State.setAl_clus (p : Nat) (v : AllocSt) : (s.setAl p v).clus = s.clus := by simp only [State.setAl]
@[simp] theorem State.setAl_pins (p : Nat) (v : AllocSt) : (s.setAl p v).pins = s.pins := by simp only [State.setAl]
@[simp] theorem State.setAl_sch (p : Nat) (v : AllocSt) : (s.setAl p v).sch = s.sch := by simp only [State.setAl]
@[simp] theorem State.setAl_fab (p : Nat) (v : AllocSt) : (s.setAl p v).fab = s.fab := by simp only [State.setAl]
@[simp] theorem State.setAl_links (p : Nat) (v : AllocSt) : (s.setAl p v).links = s.links := by simp only [State.setAl]
@[simp] theorem State.setAl_hif (p : Nat) (v : AllocSt) : (s.setAl p v).hif = s.hif := by simp only [State.setAl]
@[simp] theorem State.setAl_mig (p : Nat) (v : AllocSt) : (s.setAl p v).mig = s.mig := by simp only [State.setAl]
@[simp] theorem State.setAl_tok (p : Nat) (v : AllocSt) : (s.setAl p v).tok = s.tok := by simp only [State.setAl]
@[simp] theorem State.setAl_ckp (p : Nat) (v : AllocSt) : (s.setAl p v).ckp = s.ckp := by simp only [State.setAl]
@[simp] theorem State.setAl_rstAt (p : Nat) (v : AllocSt) : (s.setAl p v).rstAt = s.rstAt := by simp only [State.setAl]
@[simp] theorem State.setAl_fsc (p : Nat) (v : AllocSt) : (s.setAl p v).fsc = s.fsc := by simp only [State.setAl]
@[simp] theorem State.setAl_pwr (p : Nat) (v : AllocSt) : (s.setAl p v).pwr = s.pwr := by simp only [State.setAl]
@[simp] theorem State.setAl_nv (p : Nat) (v : AllocSt) : (s.setAl p v).nv = s.nv := by simp only [State.setAl]
@[simp] theorem State.setAl_mgt (p : Nat) (v : AllocSt) : (s.setAl p v).mgt = s.mgt := by simp only [State.setAl]
@[simp] theorem State.setAl_out (p : Nat) (v : AllocSt) : (s.setAl p v).out = s.out := by simp only [State.setAl]
@[simp] theorem State.setAl_fresh (p : Nat) (v : AllocSt) : (s.setAl p v).fresh = s.fresh := by simp only [State.setAl]
@[simp] theorem State.setAl_reg (p : Nat) (v : AllocSt) (i : Nat) : (s.setAl p v).reg i = s.reg i := by simp only [State.reg, State.setAl_regs]
@[simp] theorem State.setAl_f (p : Nat) (v : AllocSt) (pg' : Nat) (y : Fld) : (s.setAl p v).f pg' y = s.f pg' y := by simp only [State.f, State.setAl_reg]
@[simp] theorem State.setAl_w (p : Nat) (v : AllocSt) (pg' o : Nat) : (s.setAl p v).w pg' o = s.w pg' o := by simp only [State.w, State.setAl_reg]
@[simp] theorem State.setAl_core (p : Nat) (v : AllocSt) (i : Nat) : (s.setAl p v).core i = s.core i := by simp only [State.core, State.setAl_cores]
@[simp] theorem State.setAl_clu (p : Nat) (v : AllocSt) (i : Nat) : (s.setAl p v).clu i = s.clu i := by simp only [State.clu, State.setAl_clus]
@[simp] theorem State.setAl_part (p : Nat) (v : AllocSt) (i : Nat) : (s.setAl p v).part i = s.part i := by simp only [State.part, State.setAl_prt]
@[simp] theorem State.setAl_keySlot (p : Nat) (v : AllocSt) (i : Nat) : (s.setAl p v).keySlot i = s.keySlot i := by simp only [State.keySlot, State.setAl_prt]
@[simp] theorem State.setAl_holderOf (p : Nat) (v : AllocSt) (r i : Nat) : (s.setAl p v).holderOf r i = s.holderOf r i := by simp only [State.holderOf, State.setAl_prt]
@[simp] theorem State.setAl_sc (p : Nat) (v : AllocSt) (i : Nat) : (s.setAl p v).sc i = s.sc i := by simp only [State.sc, State.setAl_sch]
@[simp] theorem State.setAl_slot (p : Nat) (v : AllocSt) (i j : Nat) : (s.setAl p v).slot i j = s.slot i j := by simp only [State.slot, State.setAl_sc]
@[simp] theorem State.setAl_flow (p : Nat) (v : AllocSt) (i j : Nat) : (s.setAl p v).flow i j = s.flow i j := by simp only [State.flow, State.setAl_sc]
@[simp] theorem State.setAl_qp (p : Nat) (v : AllocSt) (i j : Nat) : (s.setAl p v).qp i j = s.qp i j := by simp only [State.qp, State.setAl_hif]
@[simp] theorem State.setAl_link (p : Nat) (v : AllocSt) (i : Nat) : (s.setAl p v).link i = s.link i := by simp only [State.link, State.setAl_links]
@[simp] theorem State.setAl_eng (p : Nat) (v : AllocSt) (i : Nat) : (s.setAl p v).eng i = s.eng i := by simp only [State.eng, State.setAl_tok]
@[simp] theorem State.setAl_mop (p : Nat) (v : AllocSt) (i j : Nat) : (s.setAl p v).mop i j = s.mop i j := by simp only [State.mop, State.setAl_mig]
@[simp] theorem State.setAl_dead (p : Nat) (v : AllocSt) : (s.setAl p v).dead = s.dead := by simp only [State.dead, State.setAl_pins]
@[simp] theorem State.setAl_fscSlot (p : Nat) (v : AllocSt) (i : Nat) : (s.setAl p v).fscSlot i = s.fscSlot i := by simp only [State.fscSlot, State.setAl_fsc]
@[simp] theorem State.setAl_ctl (p : Nat) (v : AllocSt) (i : Nat) : (s.setAl p v).ctl i = s.ctl i := by simp only [State.ctl, State.setAl_ctls]
@[simp] theorem State.setCore_pending (c : Nat) (v : Core) : (s.setCore c v).pending = s.pending := by simp only [State.setCore]
@[simp] theorem State.setCore_regs (c : Nat) (v : Core) : (s.setCore c v).regs = s.regs := by simp only [State.setCore]
@[simp] theorem State.setCore_tb (c : Nat) (v : Core) : (s.setCore c v).tb = s.tb := by simp only [State.setCore]
@[simp] theorem State.setCore_ev (c : Nat) (v : Core) : (s.setCore c v).ev = s.ev := by simp only [State.setCore]
@[simp] theorem State.setCore_prt (c : Nat) (v : Core) : (s.setCore c v).prt = s.prt := by simp only [State.setCore]
@[simp] theorem State.setCore_mem (c : Nat) (v : Core) : (s.setCore c v).mem = s.mem := by simp only [State.setCore]
@[simp] theorem State.setCore_ctls (c : Nat) (v : Core) : (s.setCore c v).ctls = s.ctls := by simp only [State.setCore]
@[simp] theorem State.setCore_alloc (c : Nat) (v : Core) : (s.setCore c v).alloc = s.alloc := by simp only [State.setCore]
@[simp] theorem State.setCore_ras (c : Nat) (v : Core) : (s.setCore c v).ras = s.ras := by simp only [State.setCore]
@[simp] theorem State.setCore_bridge (c : Nat) (v : Core) : (s.setCore c v).bridge = s.bridge := by simp only [State.setCore]
@[simp] theorem State.setCore_router (c : Nat) (v : Core) : (s.setCore c v).router = s.router := by simp only [State.setCore]
@[simp] theorem State.setCore_clus (c : Nat) (v : Core) : (s.setCore c v).clus = s.clus := by simp only [State.setCore]
@[simp] theorem State.setCore_pins (c : Nat) (v : Core) : (s.setCore c v).pins = s.pins := by simp only [State.setCore]
@[simp] theorem State.setCore_sch (c : Nat) (v : Core) : (s.setCore c v).sch = s.sch := by simp only [State.setCore]
@[simp] theorem State.setCore_fab (c : Nat) (v : Core) : (s.setCore c v).fab = s.fab := by simp only [State.setCore]
@[simp] theorem State.setCore_links (c : Nat) (v : Core) : (s.setCore c v).links = s.links := by simp only [State.setCore]
@[simp] theorem State.setCore_hif (c : Nat) (v : Core) : (s.setCore c v).hif = s.hif := by simp only [State.setCore]
@[simp] theorem State.setCore_mig (c : Nat) (v : Core) : (s.setCore c v).mig = s.mig := by simp only [State.setCore]
@[simp] theorem State.setCore_tok (c : Nat) (v : Core) : (s.setCore c v).tok = s.tok := by simp only [State.setCore]
@[simp] theorem State.setCore_ckp (c : Nat) (v : Core) : (s.setCore c v).ckp = s.ckp := by simp only [State.setCore]
@[simp] theorem State.setCore_rstAt (c : Nat) (v : Core) : (s.setCore c v).rstAt = s.rstAt := by simp only [State.setCore]
@[simp] theorem State.setCore_fsc (c : Nat) (v : Core) : (s.setCore c v).fsc = s.fsc := by simp only [State.setCore]
@[simp] theorem State.setCore_pwr (c : Nat) (v : Core) : (s.setCore c v).pwr = s.pwr := by simp only [State.setCore]
@[simp] theorem State.setCore_nv (c : Nat) (v : Core) : (s.setCore c v).nv = s.nv := by simp only [State.setCore]
@[simp] theorem State.setCore_mgt (c : Nat) (v : Core) : (s.setCore c v).mgt = s.mgt := by simp only [State.setCore]
@[simp] theorem State.setCore_out (c : Nat) (v : Core) : (s.setCore c v).out = s.out := by simp only [State.setCore]
@[simp] theorem State.setCore_fresh (c : Nat) (v : Core) : (s.setCore c v).fresh = s.fresh := by simp only [State.setCore]
@[simp] theorem State.setCore_reg (c : Nat) (v : Core) (i : Nat) : (s.setCore c v).reg i = s.reg i := by simp only [State.reg, State.setCore_regs]
@[simp] theorem State.setCore_f (c : Nat) (v : Core) (pg' : Nat) (y : Fld) : (s.setCore c v).f pg' y = s.f pg' y := by simp only [State.f, State.setCore_reg]
@[simp] theorem State.setCore_w (c : Nat) (v : Core) (pg' o : Nat) : (s.setCore c v).w pg' o = s.w pg' o := by simp only [State.w, State.setCore_reg]
@[simp] theorem State.setCore_clu (c : Nat) (v : Core) (i : Nat) : (s.setCore c v).clu i = s.clu i := by simp only [State.clu, State.setCore_clus]
@[simp] theorem State.setCore_part (c : Nat) (v : Core) (i : Nat) : (s.setCore c v).part i = s.part i := by simp only [State.part, State.setCore_prt]
@[simp] theorem State.setCore_keySlot (c : Nat) (v : Core) (i : Nat) : (s.setCore c v).keySlot i = s.keySlot i := by simp only [State.keySlot, State.setCore_prt]
@[simp] theorem State.setCore_holderOf (c : Nat) (v : Core) (r i : Nat) : (s.setCore c v).holderOf r i = s.holderOf r i := by simp only [State.holderOf, State.setCore_prt]
@[simp] theorem State.setCore_sc (c : Nat) (v : Core) (i : Nat) : (s.setCore c v).sc i = s.sc i := by simp only [State.sc, State.setCore_sch]
@[simp] theorem State.setCore_slot (c : Nat) (v : Core) (i j : Nat) : (s.setCore c v).slot i j = s.slot i j := by simp only [State.slot, State.setCore_sc]
@[simp] theorem State.setCore_flow (c : Nat) (v : Core) (i j : Nat) : (s.setCore c v).flow i j = s.flow i j := by simp only [State.flow, State.setCore_sc]
@[simp] theorem State.setCore_qp (c : Nat) (v : Core) (i j : Nat) : (s.setCore c v).qp i j = s.qp i j := by simp only [State.qp, State.setCore_hif]
@[simp] theorem State.setCore_link (c : Nat) (v : Core) (i : Nat) : (s.setCore c v).link i = s.link i := by simp only [State.link, State.setCore_links]
@[simp] theorem State.setCore_eng (c : Nat) (v : Core) (i : Nat) : (s.setCore c v).eng i = s.eng i := by simp only [State.eng, State.setCore_tok]
@[simp] theorem State.setCore_mop (c : Nat) (v : Core) (i j : Nat) : (s.setCore c v).mop i j = s.mop i j := by simp only [State.mop, State.setCore_mig]
@[simp] theorem State.setCore_dead (c : Nat) (v : Core) : (s.setCore c v).dead = s.dead := by simp only [State.dead, State.setCore_pins]
@[simp] theorem State.setCore_fscSlot (c : Nat) (v : Core) (i : Nat) : (s.setCore c v).fscSlot i = s.fscSlot i := by simp only [State.fscSlot, State.setCore_fsc]
@[simp] theorem State.setCore_al (c : Nat) (v : Core) (i : Nat) : (s.setCore c v).al i = s.al i := by simp only [State.al, State.setCore_alloc]
@[simp] theorem State.setCore_ctl (c : Nat) (v : Core) (i : Nat) : (s.setCore c v).ctl i = s.ctl i := by simp only [State.ctl, State.setCore_ctls]
@[simp] theorem State.setTq_pending (c q : Nat) (v : Tq) : (s.setTq c q v).pending = s.pending := by simp only [State.setTq, State.setCore_pending]
@[simp] theorem State.setTq_regs (c q : Nat) (v : Tq) : (s.setTq c q v).regs = s.regs := by simp only [State.setTq, State.setCore_regs]
@[simp] theorem State.setTq_tb (c q : Nat) (v : Tq) : (s.setTq c q v).tb = s.tb := by simp only [State.setTq, State.setCore_tb]
@[simp] theorem State.setTq_ev (c q : Nat) (v : Tq) : (s.setTq c q v).ev = s.ev := by simp only [State.setTq, State.setCore_ev]
@[simp] theorem State.setTq_prt (c q : Nat) (v : Tq) : (s.setTq c q v).prt = s.prt := by simp only [State.setTq, State.setCore_prt]
@[simp] theorem State.setTq_mem (c q : Nat) (v : Tq) : (s.setTq c q v).mem = s.mem := by simp only [State.setTq, State.setCore_mem]
@[simp] theorem State.setTq_ctls (c q : Nat) (v : Tq) : (s.setTq c q v).ctls = s.ctls := by simp only [State.setTq, State.setCore_ctls]
@[simp] theorem State.setTq_alloc (c q : Nat) (v : Tq) : (s.setTq c q v).alloc = s.alloc := by simp only [State.setTq, State.setCore_alloc]
@[simp] theorem State.setTq_ras (c q : Nat) (v : Tq) : (s.setTq c q v).ras = s.ras := by simp only [State.setTq, State.setCore_ras]
@[simp] theorem State.setTq_bridge (c q : Nat) (v : Tq) : (s.setTq c q v).bridge = s.bridge := by simp only [State.setTq, State.setCore_bridge]
@[simp] theorem State.setTq_router (c q : Nat) (v : Tq) : (s.setTq c q v).router = s.router := by simp only [State.setTq, State.setCore_router]
@[simp] theorem State.setTq_clus (c q : Nat) (v : Tq) : (s.setTq c q v).clus = s.clus := by simp only [State.setTq, State.setCore_clus]
@[simp] theorem State.setTq_pins (c q : Nat) (v : Tq) : (s.setTq c q v).pins = s.pins := by simp only [State.setTq, State.setCore_pins]
@[simp] theorem State.setTq_sch (c q : Nat) (v : Tq) : (s.setTq c q v).sch = s.sch := by simp only [State.setTq, State.setCore_sch]
@[simp] theorem State.setTq_fab (c q : Nat) (v : Tq) : (s.setTq c q v).fab = s.fab := by simp only [State.setTq, State.setCore_fab]
@[simp] theorem State.setTq_links (c q : Nat) (v : Tq) : (s.setTq c q v).links = s.links := by simp only [State.setTq, State.setCore_links]
@[simp] theorem State.setTq_hif (c q : Nat) (v : Tq) : (s.setTq c q v).hif = s.hif := by simp only [State.setTq, State.setCore_hif]
@[simp] theorem State.setTq_mig (c q : Nat) (v : Tq) : (s.setTq c q v).mig = s.mig := by simp only [State.setTq, State.setCore_mig]
@[simp] theorem State.setTq_tok (c q : Nat) (v : Tq) : (s.setTq c q v).tok = s.tok := by simp only [State.setTq, State.setCore_tok]
@[simp] theorem State.setTq_ckp (c q : Nat) (v : Tq) : (s.setTq c q v).ckp = s.ckp := by simp only [State.setTq, State.setCore_ckp]
@[simp] theorem State.setTq_rstAt (c q : Nat) (v : Tq) : (s.setTq c q v).rstAt = s.rstAt := by simp only [State.setTq, State.setCore_rstAt]
@[simp] theorem State.setTq_fsc (c q : Nat) (v : Tq) : (s.setTq c q v).fsc = s.fsc := by simp only [State.setTq, State.setCore_fsc]
@[simp] theorem State.setTq_pwr (c q : Nat) (v : Tq) : (s.setTq c q v).pwr = s.pwr := by simp only [State.setTq, State.setCore_pwr]
@[simp] theorem State.setTq_nv (c q : Nat) (v : Tq) : (s.setTq c q v).nv = s.nv := by simp only [State.setTq, State.setCore_nv]
@[simp] theorem State.setTq_mgt (c q : Nat) (v : Tq) : (s.setTq c q v).mgt = s.mgt := by simp only [State.setTq, State.setCore_mgt]
@[simp] theorem State.setTq_out (c q : Nat) (v : Tq) : (s.setTq c q v).out = s.out := by simp only [State.setTq, State.setCore_out]
@[simp] theorem State.setTq_fresh (c q : Nat) (v : Tq) : (s.setTq c q v).fresh = s.fresh := by simp only [State.setTq, State.setCore_fresh]
@[simp] theorem State.setTq_reg (c q : Nat) (v : Tq) (i : Nat) : (s.setTq c q v).reg i = s.reg i := by simp only [State.reg, State.setTq_regs]
@[simp] theorem State.setTq_f (c q : Nat) (v : Tq) (pg' : Nat) (y : Fld) : (s.setTq c q v).f pg' y = s.f pg' y := by simp only [State.f, State.setTq_reg]
@[simp] theorem State.setTq_w (c q : Nat) (v : Tq) (pg' o : Nat) : (s.setTq c q v).w pg' o = s.w pg' o := by simp only [State.w, State.setTq_reg]
@[simp] theorem State.setTq_clu (c q : Nat) (v : Tq) (i : Nat) : (s.setTq c q v).clu i = s.clu i := by simp only [State.clu, State.setTq_clus]
@[simp] theorem State.setTq_part (c q : Nat) (v : Tq) (i : Nat) : (s.setTq c q v).part i = s.part i := by simp only [State.part, State.setTq_prt]
@[simp] theorem State.setTq_keySlot (c q : Nat) (v : Tq) (i : Nat) : (s.setTq c q v).keySlot i = s.keySlot i := by simp only [State.keySlot, State.setTq_prt]
@[simp] theorem State.setTq_holderOf (c q : Nat) (v : Tq) (r i : Nat) : (s.setTq c q v).holderOf r i = s.holderOf r i := by simp only [State.holderOf, State.setTq_prt]
@[simp] theorem State.setTq_sc (c q : Nat) (v : Tq) (i : Nat) : (s.setTq c q v).sc i = s.sc i := by simp only [State.sc, State.setTq_sch]
@[simp] theorem State.setTq_slot (c q : Nat) (v : Tq) (i j : Nat) : (s.setTq c q v).slot i j = s.slot i j := by simp only [State.slot, State.setTq_sc]
@[simp] theorem State.setTq_flow (c q : Nat) (v : Tq) (i j : Nat) : (s.setTq c q v).flow i j = s.flow i j := by simp only [State.flow, State.setTq_sc]
@[simp] theorem State.setTq_qp (c q : Nat) (v : Tq) (i j : Nat) : (s.setTq c q v).qp i j = s.qp i j := by simp only [State.qp, State.setTq_hif]
@[simp] theorem State.setTq_link (c q : Nat) (v : Tq) (i : Nat) : (s.setTq c q v).link i = s.link i := by simp only [State.link, State.setTq_links]
@[simp] theorem State.setTq_eng (c q : Nat) (v : Tq) (i : Nat) : (s.setTq c q v).eng i = s.eng i := by simp only [State.eng, State.setTq_tok]
@[simp] theorem State.setTq_mop (c q : Nat) (v : Tq) (i j : Nat) : (s.setTq c q v).mop i j = s.mop i j := by simp only [State.mop, State.setTq_mig]
@[simp] theorem State.setTq_dead (c q : Nat) (v : Tq) : (s.setTq c q v).dead = s.dead := by simp only [State.dead, State.setTq_pins]
@[simp] theorem State.setTq_fscSlot (c q : Nat) (v : Tq) (i : Nat) : (s.setTq c q v).fscSlot i = s.fscSlot i := by simp only [State.fscSlot, State.setTq_fsc]
@[simp] theorem State.setTq_al (c q : Nat) (v : Tq) (i : Nat) : (s.setTq c q v).al i = s.al i := by simp only [State.al, State.setTq_alloc]
@[simp] theorem State.setTq_ctl (c q : Nat) (v : Tq) (i : Nat) : (s.setTq c q v).ctl i = s.ctl i := by simp only [State.ctl, State.setTq_ctls]
@[simp] theorem State.setClu_pending (k : Nat) (v : Cluster) : (s.setClu k v).pending = s.pending := by simp only [State.setClu]
@[simp] theorem State.setClu_regs (k : Nat) (v : Cluster) : (s.setClu k v).regs = s.regs := by simp only [State.setClu]
@[simp] theorem State.setClu_tb (k : Nat) (v : Cluster) : (s.setClu k v).tb = s.tb := by simp only [State.setClu]
@[simp] theorem State.setClu_ev (k : Nat) (v : Cluster) : (s.setClu k v).ev = s.ev := by simp only [State.setClu]
@[simp] theorem State.setClu_prt (k : Nat) (v : Cluster) : (s.setClu k v).prt = s.prt := by simp only [State.setClu]
@[simp] theorem State.setClu_mem (k : Nat) (v : Cluster) : (s.setClu k v).mem = s.mem := by simp only [State.setClu]
@[simp] theorem State.setClu_ctls (k : Nat) (v : Cluster) : (s.setClu k v).ctls = s.ctls := by simp only [State.setClu]
@[simp] theorem State.setClu_alloc (k : Nat) (v : Cluster) : (s.setClu k v).alloc = s.alloc := by simp only [State.setClu]
@[simp] theorem State.setClu_ras (k : Nat) (v : Cluster) : (s.setClu k v).ras = s.ras := by simp only [State.setClu]
@[simp] theorem State.setClu_bridge (k : Nat) (v : Cluster) : (s.setClu k v).bridge = s.bridge := by simp only [State.setClu]
@[simp] theorem State.setClu_router (k : Nat) (v : Cluster) : (s.setClu k v).router = s.router := by simp only [State.setClu]
@[simp] theorem State.setClu_cores (k : Nat) (v : Cluster) : (s.setClu k v).cores = s.cores := by simp only [State.setClu]
@[simp] theorem State.setClu_pins (k : Nat) (v : Cluster) : (s.setClu k v).pins = s.pins := by simp only [State.setClu]
@[simp] theorem State.setClu_sch (k : Nat) (v : Cluster) : (s.setClu k v).sch = s.sch := by simp only [State.setClu]
@[simp] theorem State.setClu_fab (k : Nat) (v : Cluster) : (s.setClu k v).fab = s.fab := by simp only [State.setClu]
@[simp] theorem State.setClu_links (k : Nat) (v : Cluster) : (s.setClu k v).links = s.links := by simp only [State.setClu]
@[simp] theorem State.setClu_hif (k : Nat) (v : Cluster) : (s.setClu k v).hif = s.hif := by simp only [State.setClu]
@[simp] theorem State.setClu_mig (k : Nat) (v : Cluster) : (s.setClu k v).mig = s.mig := by simp only [State.setClu]
@[simp] theorem State.setClu_tok (k : Nat) (v : Cluster) : (s.setClu k v).tok = s.tok := by simp only [State.setClu]
@[simp] theorem State.setClu_ckp (k : Nat) (v : Cluster) : (s.setClu k v).ckp = s.ckp := by simp only [State.setClu]
@[simp] theorem State.setClu_rstAt (k : Nat) (v : Cluster) : (s.setClu k v).rstAt = s.rstAt := by simp only [State.setClu]
@[simp] theorem State.setClu_fsc (k : Nat) (v : Cluster) : (s.setClu k v).fsc = s.fsc := by simp only [State.setClu]
@[simp] theorem State.setClu_pwr (k : Nat) (v : Cluster) : (s.setClu k v).pwr = s.pwr := by simp only [State.setClu]
@[simp] theorem State.setClu_nv (k : Nat) (v : Cluster) : (s.setClu k v).nv = s.nv := by simp only [State.setClu]
@[simp] theorem State.setClu_mgt (k : Nat) (v : Cluster) : (s.setClu k v).mgt = s.mgt := by simp only [State.setClu]
@[simp] theorem State.setClu_out (k : Nat) (v : Cluster) : (s.setClu k v).out = s.out := by simp only [State.setClu]
@[simp] theorem State.setClu_fresh (k : Nat) (v : Cluster) : (s.setClu k v).fresh = s.fresh := by simp only [State.setClu]
@[simp] theorem State.setClu_reg (k : Nat) (v : Cluster) (i : Nat) : (s.setClu k v).reg i = s.reg i := by simp only [State.reg, State.setClu_regs]
@[simp] theorem State.setClu_f (k : Nat) (v : Cluster) (pg' : Nat) (y : Fld) : (s.setClu k v).f pg' y = s.f pg' y := by simp only [State.f, State.setClu_reg]
@[simp] theorem State.setClu_w (k : Nat) (v : Cluster) (pg' o : Nat) : (s.setClu k v).w pg' o = s.w pg' o := by simp only [State.w, State.setClu_reg]
@[simp] theorem State.setClu_core (k : Nat) (v : Cluster) (i : Nat) : (s.setClu k v).core i = s.core i := by simp only [State.core, State.setClu_cores]
@[simp] theorem State.setClu_part (k : Nat) (v : Cluster) (i : Nat) : (s.setClu k v).part i = s.part i := by simp only [State.part, State.setClu_prt]
@[simp] theorem State.setClu_keySlot (k : Nat) (v : Cluster) (i : Nat) : (s.setClu k v).keySlot i = s.keySlot i := by simp only [State.keySlot, State.setClu_prt]
@[simp] theorem State.setClu_holderOf (k : Nat) (v : Cluster) (r i : Nat) : (s.setClu k v).holderOf r i = s.holderOf r i := by simp only [State.holderOf, State.setClu_prt]
@[simp] theorem State.setClu_sc (k : Nat) (v : Cluster) (i : Nat) : (s.setClu k v).sc i = s.sc i := by simp only [State.sc, State.setClu_sch]
@[simp] theorem State.setClu_slot (k : Nat) (v : Cluster) (i j : Nat) : (s.setClu k v).slot i j = s.slot i j := by simp only [State.slot, State.setClu_sc]
@[simp] theorem State.setClu_flow (k : Nat) (v : Cluster) (i j : Nat) : (s.setClu k v).flow i j = s.flow i j := by simp only [State.flow, State.setClu_sc]
@[simp] theorem State.setClu_qp (k : Nat) (v : Cluster) (i j : Nat) : (s.setClu k v).qp i j = s.qp i j := by simp only [State.qp, State.setClu_hif]
@[simp] theorem State.setClu_link (k : Nat) (v : Cluster) (i : Nat) : (s.setClu k v).link i = s.link i := by simp only [State.link, State.setClu_links]
@[simp] theorem State.setClu_eng (k : Nat) (v : Cluster) (i : Nat) : (s.setClu k v).eng i = s.eng i := by simp only [State.eng, State.setClu_tok]
@[simp] theorem State.setClu_mop (k : Nat) (v : Cluster) (i j : Nat) : (s.setClu k v).mop i j = s.mop i j := by simp only [State.mop, State.setClu_mig]
@[simp] theorem State.setClu_dead (k : Nat) (v : Cluster) : (s.setClu k v).dead = s.dead := by simp only [State.dead, State.setClu_pins]
@[simp] theorem State.setClu_fscSlot (k : Nat) (v : Cluster) (i : Nat) : (s.setClu k v).fscSlot i = s.fscSlot i := by simp only [State.fscSlot, State.setClu_fsc]
@[simp] theorem State.setClu_al (k : Nat) (v : Cluster) (i : Nat) : (s.setClu k v).al i = s.al i := by simp only [State.al, State.setClu_alloc]
@[simp] theorem State.setClu_ctl (k : Nat) (v : Cluster) (i : Nat) : (s.setClu k v).ctl i = s.ctl i := by simp only [State.ctl, State.setClu_ctls]
@[simp] theorem State.emit_pending (x : Output) : (s.emit x).pending = s.pending := by simp only [State.emit]
@[simp] theorem State.emit_regs (x : Output) : (s.emit x).regs = s.regs := by simp only [State.emit]
@[simp] theorem State.emit_tb (x : Output) : (s.emit x).tb = s.tb := by simp only [State.emit]
@[simp] theorem State.emit_ev (x : Output) : (s.emit x).ev = s.ev := by simp only [State.emit]
@[simp] theorem State.emit_prt (x : Output) : (s.emit x).prt = s.prt := by simp only [State.emit]
@[simp] theorem State.emit_mem (x : Output) : (s.emit x).mem = s.mem := by simp only [State.emit]
@[simp] theorem State.emit_ctls (x : Output) : (s.emit x).ctls = s.ctls := by simp only [State.emit]
@[simp] theorem State.emit_alloc (x : Output) : (s.emit x).alloc = s.alloc := by simp only [State.emit]
@[simp] theorem State.emit_ras (x : Output) : (s.emit x).ras = s.ras := by simp only [State.emit]
@[simp] theorem State.emit_bridge (x : Output) : (s.emit x).bridge = s.bridge := by simp only [State.emit]
@[simp] theorem State.emit_router (x : Output) : (s.emit x).router = s.router := by simp only [State.emit]
@[simp] theorem State.emit_cores (x : Output) : (s.emit x).cores = s.cores := by simp only [State.emit]
@[simp] theorem State.emit_clus (x : Output) : (s.emit x).clus = s.clus := by simp only [State.emit]
@[simp] theorem State.emit_pins (x : Output) : (s.emit x).pins = s.pins := by simp only [State.emit]
@[simp] theorem State.emit_sch (x : Output) : (s.emit x).sch = s.sch := by simp only [State.emit]
@[simp] theorem State.emit_fab (x : Output) : (s.emit x).fab = s.fab := by simp only [State.emit]
@[simp] theorem State.emit_links (x : Output) : (s.emit x).links = s.links := by simp only [State.emit]
@[simp] theorem State.emit_hif (x : Output) : (s.emit x).hif = s.hif := by simp only [State.emit]
@[simp] theorem State.emit_mig (x : Output) : (s.emit x).mig = s.mig := by simp only [State.emit]
@[simp] theorem State.emit_tok (x : Output) : (s.emit x).tok = s.tok := by simp only [State.emit]
@[simp] theorem State.emit_ckp (x : Output) : (s.emit x).ckp = s.ckp := by simp only [State.emit]
@[simp] theorem State.emit_rstAt (x : Output) : (s.emit x).rstAt = s.rstAt := by simp only [State.emit]
@[simp] theorem State.emit_fsc (x : Output) : (s.emit x).fsc = s.fsc := by simp only [State.emit]
@[simp] theorem State.emit_pwr (x : Output) : (s.emit x).pwr = s.pwr := by simp only [State.emit]
@[simp] theorem State.emit_nv (x : Output) : (s.emit x).nv = s.nv := by simp only [State.emit]
@[simp] theorem State.emit_mgt (x : Output) : (s.emit x).mgt = s.mgt := by simp only [State.emit]
@[simp] theorem State.emit_fresh (x : Output) : (s.emit x).fresh = s.fresh := by simp only [State.emit]
@[simp] theorem State.emit_reg (x : Output) (i : Nat) : (s.emit x).reg i = s.reg i := by simp only [State.reg, State.emit_regs]
@[simp] theorem State.emit_f (x : Output) (pg' : Nat) (y : Fld) : (s.emit x).f pg' y = s.f pg' y := by simp only [State.f, State.emit_reg]
@[simp] theorem State.emit_w (x : Output) (pg' o : Nat) : (s.emit x).w pg' o = s.w pg' o := by simp only [State.w, State.emit_reg]
@[simp] theorem State.emit_core (x : Output) (i : Nat) : (s.emit x).core i = s.core i := by simp only [State.core, State.emit_cores]
@[simp] theorem State.emit_clu (x : Output) (i : Nat) : (s.emit x).clu i = s.clu i := by simp only [State.clu, State.emit_clus]
@[simp] theorem State.emit_part (x : Output) (i : Nat) : (s.emit x).part i = s.part i := by simp only [State.part, State.emit_prt]
@[simp] theorem State.emit_keySlot (x : Output) (i : Nat) : (s.emit x).keySlot i = s.keySlot i := by simp only [State.keySlot, State.emit_prt]
@[simp] theorem State.emit_holderOf (x : Output) (r i : Nat) : (s.emit x).holderOf r i = s.holderOf r i := by simp only [State.holderOf, State.emit_prt]
@[simp] theorem State.emit_sc (x : Output) (i : Nat) : (s.emit x).sc i = s.sc i := by simp only [State.sc, State.emit_sch]
@[simp] theorem State.emit_slot (x : Output) (i j : Nat) : (s.emit x).slot i j = s.slot i j := by simp only [State.slot, State.emit_sc]
@[simp] theorem State.emit_flow (x : Output) (i j : Nat) : (s.emit x).flow i j = s.flow i j := by simp only [State.flow, State.emit_sc]
@[simp] theorem State.emit_qp (x : Output) (i j : Nat) : (s.emit x).qp i j = s.qp i j := by simp only [State.qp, State.emit_hif]
@[simp] theorem State.emit_link (x : Output) (i : Nat) : (s.emit x).link i = s.link i := by simp only [State.link, State.emit_links]
@[simp] theorem State.emit_eng (x : Output) (i : Nat) : (s.emit x).eng i = s.eng i := by simp only [State.eng, State.emit_tok]
@[simp] theorem State.emit_mop (x : Output) (i j : Nat) : (s.emit x).mop i j = s.mop i j := by simp only [State.mop, State.emit_mig]
@[simp] theorem State.emit_dead (x : Output) : (s.emit x).dead = s.dead := by simp only [State.dead, State.emit_pins]
@[simp] theorem State.emit_fscSlot (x : Output) (i : Nat) : (s.emit x).fscSlot i = s.fscSlot i := by simp only [State.fscSlot, State.emit_fsc]
@[simp] theorem State.emit_al (x : Output) (i : Nat) : (s.emit x).al i = s.al i := by simp only [State.al, State.emit_alloc]
@[simp] theorem State.emit_ctl (x : Output) (i : Nat) : (s.emit x).ctl i = s.ctl i := by simp only [State.ctl, State.emit_ctls]
@[simp] theorem State.drawn_pending : (s.drawn).pending = s.pending := by simp only [State.drawn]
@[simp] theorem State.drawn_regs : (s.drawn).regs = s.regs := by simp only [State.drawn]
@[simp] theorem State.drawn_tb : (s.drawn).tb = s.tb := by simp only [State.drawn]
@[simp] theorem State.drawn_ev : (s.drawn).ev = s.ev := by simp only [State.drawn]
@[simp] theorem State.drawn_prt : (s.drawn).prt = s.prt := by simp only [State.drawn]
@[simp] theorem State.drawn_mem : (s.drawn).mem = s.mem := by simp only [State.drawn]
@[simp] theorem State.drawn_ctls : (s.drawn).ctls = s.ctls := by simp only [State.drawn]
@[simp] theorem State.drawn_alloc : (s.drawn).alloc = s.alloc := by simp only [State.drawn]
@[simp] theorem State.drawn_ras : (s.drawn).ras = s.ras := by simp only [State.drawn]
@[simp] theorem State.drawn_bridge : (s.drawn).bridge = s.bridge := by simp only [State.drawn]
@[simp] theorem State.drawn_router : (s.drawn).router = s.router := by simp only [State.drawn]
@[simp] theorem State.drawn_cores : (s.drawn).cores = s.cores := by simp only [State.drawn]
@[simp] theorem State.drawn_clus : (s.drawn).clus = s.clus := by simp only [State.drawn]
@[simp] theorem State.drawn_pins : (s.drawn).pins = s.pins := by simp only [State.drawn]
@[simp] theorem State.drawn_sch : (s.drawn).sch = s.sch := by simp only [State.drawn]
@[simp] theorem State.drawn_fab : (s.drawn).fab = s.fab := by simp only [State.drawn]
@[simp] theorem State.drawn_links : (s.drawn).links = s.links := by simp only [State.drawn]
@[simp] theorem State.drawn_hif : (s.drawn).hif = s.hif := by simp only [State.drawn]
@[simp] theorem State.drawn_mig : (s.drawn).mig = s.mig := by simp only [State.drawn]
@[simp] theorem State.drawn_tok : (s.drawn).tok = s.tok := by simp only [State.drawn]
@[simp] theorem State.drawn_ckp : (s.drawn).ckp = s.ckp := by simp only [State.drawn]
@[simp] theorem State.drawn_rstAt : (s.drawn).rstAt = s.rstAt := by simp only [State.drawn]
@[simp] theorem State.drawn_fsc : (s.drawn).fsc = s.fsc := by simp only [State.drawn]
@[simp] theorem State.drawn_pwr : (s.drawn).pwr = s.pwr := by simp only [State.drawn]
@[simp] theorem State.drawn_nv : (s.drawn).nv = s.nv := by simp only [State.drawn]
@[simp] theorem State.drawn_mgt : (s.drawn).mgt = s.mgt := by simp only [State.drawn]
@[simp] theorem State.drawn_out : (s.drawn).out = s.out := by simp only [State.drawn]
@[simp] theorem State.drawn_reg (i : Nat) : (s.drawn).reg i = s.reg i := by simp only [State.reg, State.drawn_regs]
@[simp] theorem State.drawn_f (pg' : Nat) (y : Fld) : (s.drawn).f pg' y = s.f pg' y := by simp only [State.f, State.drawn_reg]
@[simp] theorem State.drawn_w (pg' o : Nat) : (s.drawn).w pg' o = s.w pg' o := by simp only [State.w, State.drawn_reg]
@[simp] theorem State.drawn_core (i : Nat) : (s.drawn).core i = s.core i := by simp only [State.core, State.drawn_cores]
@[simp] theorem State.drawn_clu (i : Nat) : (s.drawn).clu i = s.clu i := by simp only [State.clu, State.drawn_clus]
@[simp] theorem State.drawn_part (i : Nat) : (s.drawn).part i = s.part i := by simp only [State.part, State.drawn_prt]
@[simp] theorem State.drawn_keySlot (i : Nat) : (s.drawn).keySlot i = s.keySlot i := by simp only [State.keySlot, State.drawn_prt]
@[simp] theorem State.drawn_holderOf (r i : Nat) : (s.drawn).holderOf r i = s.holderOf r i := by simp only [State.holderOf, State.drawn_prt]
@[simp] theorem State.drawn_sc (i : Nat) : (s.drawn).sc i = s.sc i := by simp only [State.sc, State.drawn_sch]
@[simp] theorem State.drawn_slot (i j : Nat) : (s.drawn).slot i j = s.slot i j := by simp only [State.slot, State.drawn_sc]
@[simp] theorem State.drawn_flow (i j : Nat) : (s.drawn).flow i j = s.flow i j := by simp only [State.flow, State.drawn_sc]
@[simp] theorem State.drawn_qp (i j : Nat) : (s.drawn).qp i j = s.qp i j := by simp only [State.qp, State.drawn_hif]
@[simp] theorem State.drawn_link (i : Nat) : (s.drawn).link i = s.link i := by simp only [State.link, State.drawn_links]
@[simp] theorem State.drawn_eng (i : Nat) : (s.drawn).eng i = s.eng i := by simp only [State.eng, State.drawn_tok]
@[simp] theorem State.drawn_mop (i j : Nat) : (s.drawn).mop i j = s.mop i j := by simp only [State.mop, State.drawn_mig]
@[simp] theorem State.drawn_dead  : (s.drawn).dead = s.dead := by simp only [State.dead, State.drawn_pins]
@[simp] theorem State.drawn_fscSlot (i : Nat) : (s.drawn).fscSlot i = s.fscSlot i := by simp only [State.fscSlot, State.drawn_fsc]
@[simp] theorem State.drawn_al (i : Nat) : (s.drawn).al i = s.al i := by simp only [State.al, State.drawn_alloc]
@[simp] theorem State.drawn_ctl (i : Nat) : (s.drawn).ctl i = s.ctl i := by simp only [State.ctl, State.drawn_ctls]
@[simp] theorem State.setSc_pending (p : Nat) (v : Sched) : (s.setSc p v).pending = s.pending := by simp only [State.setSc]
@[simp] theorem State.setSc_regs (p : Nat) (v : Sched) : (s.setSc p v).regs = s.regs := by simp only [State.setSc]
@[simp] theorem State.setSc_tb (p : Nat) (v : Sched) : (s.setSc p v).tb = s.tb := by simp only [State.setSc]
@[simp] theorem State.setSc_ev (p : Nat) (v : Sched) : (s.setSc p v).ev = s.ev := by simp only [State.setSc]
@[simp] theorem State.setSc_prt (p : Nat) (v : Sched) : (s.setSc p v).prt = s.prt := by simp only [State.setSc]
@[simp] theorem State.setSc_mem (p : Nat) (v : Sched) : (s.setSc p v).mem = s.mem := by simp only [State.setSc]
@[simp] theorem State.setSc_ctls (p : Nat) (v : Sched) : (s.setSc p v).ctls = s.ctls := by simp only [State.setSc]
@[simp] theorem State.setSc_alloc (p : Nat) (v : Sched) : (s.setSc p v).alloc = s.alloc := by simp only [State.setSc]
@[simp] theorem State.setSc_ras (p : Nat) (v : Sched) : (s.setSc p v).ras = s.ras := by simp only [State.setSc]
@[simp] theorem State.setSc_bridge (p : Nat) (v : Sched) : (s.setSc p v).bridge = s.bridge := by simp only [State.setSc]
@[simp] theorem State.setSc_router (p : Nat) (v : Sched) : (s.setSc p v).router = s.router := by simp only [State.setSc]
@[simp] theorem State.setSc_cores (p : Nat) (v : Sched) : (s.setSc p v).cores = s.cores := by simp only [State.setSc]
@[simp] theorem State.setSc_clus (p : Nat) (v : Sched) : (s.setSc p v).clus = s.clus := by simp only [State.setSc]
@[simp] theorem State.setSc_pins (p : Nat) (v : Sched) : (s.setSc p v).pins = s.pins := by simp only [State.setSc]
@[simp] theorem State.setSc_fab (p : Nat) (v : Sched) : (s.setSc p v).fab = s.fab := by simp only [State.setSc]
@[simp] theorem State.setSc_links (p : Nat) (v : Sched) : (s.setSc p v).links = s.links := by simp only [State.setSc]
@[simp] theorem State.setSc_hif (p : Nat) (v : Sched) : (s.setSc p v).hif = s.hif := by simp only [State.setSc]
@[simp] theorem State.setSc_mig (p : Nat) (v : Sched) : (s.setSc p v).mig = s.mig := by simp only [State.setSc]
@[simp] theorem State.setSc_tok (p : Nat) (v : Sched) : (s.setSc p v).tok = s.tok := by simp only [State.setSc]
@[simp] theorem State.setSc_ckp (p : Nat) (v : Sched) : (s.setSc p v).ckp = s.ckp := by simp only [State.setSc]
@[simp] theorem State.setSc_rstAt (p : Nat) (v : Sched) : (s.setSc p v).rstAt = s.rstAt := by simp only [State.setSc]
@[simp] theorem State.setSc_fsc (p : Nat) (v : Sched) : (s.setSc p v).fsc = s.fsc := by simp only [State.setSc]
@[simp] theorem State.setSc_pwr (p : Nat) (v : Sched) : (s.setSc p v).pwr = s.pwr := by simp only [State.setSc]
@[simp] theorem State.setSc_nv (p : Nat) (v : Sched) : (s.setSc p v).nv = s.nv := by simp only [State.setSc]
@[simp] theorem State.setSc_mgt (p : Nat) (v : Sched) : (s.setSc p v).mgt = s.mgt := by simp only [State.setSc]
@[simp] theorem State.setSc_out (p : Nat) (v : Sched) : (s.setSc p v).out = s.out := by simp only [State.setSc]
@[simp] theorem State.setSc_fresh (p : Nat) (v : Sched) : (s.setSc p v).fresh = s.fresh := by simp only [State.setSc]
@[simp] theorem State.setSc_reg (p : Nat) (v : Sched) (i : Nat) : (s.setSc p v).reg i = s.reg i := by simp only [State.reg, State.setSc_regs]
@[simp] theorem State.setSc_f (p : Nat) (v : Sched) (pg' : Nat) (y : Fld) : (s.setSc p v).f pg' y = s.f pg' y := by simp only [State.f, State.setSc_reg]
@[simp] theorem State.setSc_w (p : Nat) (v : Sched) (pg' o : Nat) : (s.setSc p v).w pg' o = s.w pg' o := by simp only [State.w, State.setSc_reg]
@[simp] theorem State.setSc_core (p : Nat) (v : Sched) (i : Nat) : (s.setSc p v).core i = s.core i := by simp only [State.core, State.setSc_cores]
@[simp] theorem State.setSc_clu (p : Nat) (v : Sched) (i : Nat) : (s.setSc p v).clu i = s.clu i := by simp only [State.clu, State.setSc_clus]
@[simp] theorem State.setSc_part (p : Nat) (v : Sched) (i : Nat) : (s.setSc p v).part i = s.part i := by simp only [State.part, State.setSc_prt]
@[simp] theorem State.setSc_keySlot (p : Nat) (v : Sched) (i : Nat) : (s.setSc p v).keySlot i = s.keySlot i := by simp only [State.keySlot, State.setSc_prt]
@[simp] theorem State.setSc_holderOf (p : Nat) (v : Sched) (r i : Nat) : (s.setSc p v).holderOf r i = s.holderOf r i := by simp only [State.holderOf, State.setSc_prt]
@[simp] theorem State.setSc_qp (p : Nat) (v : Sched) (i j : Nat) : (s.setSc p v).qp i j = s.qp i j := by simp only [State.qp, State.setSc_hif]
@[simp] theorem State.setSc_link (p : Nat) (v : Sched) (i : Nat) : (s.setSc p v).link i = s.link i := by simp only [State.link, State.setSc_links]
@[simp] theorem State.setSc_eng (p : Nat) (v : Sched) (i : Nat) : (s.setSc p v).eng i = s.eng i := by simp only [State.eng, State.setSc_tok]
@[simp] theorem State.setSc_mop (p : Nat) (v : Sched) (i j : Nat) : (s.setSc p v).mop i j = s.mop i j := by simp only [State.mop, State.setSc_mig]
@[simp] theorem State.setSc_dead (p : Nat) (v : Sched) : (s.setSc p v).dead = s.dead := by simp only [State.dead, State.setSc_pins]
@[simp] theorem State.setSc_fscSlot (p : Nat) (v : Sched) (i : Nat) : (s.setSc p v).fscSlot i = s.fscSlot i := by simp only [State.fscSlot, State.setSc_fsc]
@[simp] theorem State.setSc_al (p : Nat) (v : Sched) (i : Nat) : (s.setSc p v).al i = s.al i := by simp only [State.al, State.setSc_alloc]
@[simp] theorem State.setSc_ctl (p : Nat) (v : Sched) (i : Nat) : (s.setSc p v).ctl i = s.ctl i := by simp only [State.ctl, State.setSc_ctls]
@[simp] theorem State.setSlot_pending (p n : Nat) (v : OpSlot) : (s.setSlot p n v).pending = s.pending := by simp only [State.setSlot, State.setSc_pending]
@[simp] theorem State.setSlot_regs (p n : Nat) (v : OpSlot) : (s.setSlot p n v).regs = s.regs := by simp only [State.setSlot, State.setSc_regs]
@[simp] theorem State.setSlot_tb (p n : Nat) (v : OpSlot) : (s.setSlot p n v).tb = s.tb := by simp only [State.setSlot, State.setSc_tb]
@[simp] theorem State.setSlot_ev (p n : Nat) (v : OpSlot) : (s.setSlot p n v).ev = s.ev := by simp only [State.setSlot, State.setSc_ev]
@[simp] theorem State.setSlot_prt (p n : Nat) (v : OpSlot) : (s.setSlot p n v).prt = s.prt := by simp only [State.setSlot, State.setSc_prt]
@[simp] theorem State.setSlot_mem (p n : Nat) (v : OpSlot) : (s.setSlot p n v).mem = s.mem := by simp only [State.setSlot, State.setSc_mem]
@[simp] theorem State.setSlot_ctls (p n : Nat) (v : OpSlot) : (s.setSlot p n v).ctls = s.ctls := by simp only [State.setSlot, State.setSc_ctls]
@[simp] theorem State.setSlot_alloc (p n : Nat) (v : OpSlot) : (s.setSlot p n v).alloc = s.alloc := by simp only [State.setSlot, State.setSc_alloc]
@[simp] theorem State.setSlot_ras (p n : Nat) (v : OpSlot) : (s.setSlot p n v).ras = s.ras := by simp only [State.setSlot, State.setSc_ras]
@[simp] theorem State.setSlot_bridge (p n : Nat) (v : OpSlot) : (s.setSlot p n v).bridge = s.bridge := by simp only [State.setSlot, State.setSc_bridge]
@[simp] theorem State.setSlot_router (p n : Nat) (v : OpSlot) : (s.setSlot p n v).router = s.router := by simp only [State.setSlot, State.setSc_router]
@[simp] theorem State.setSlot_cores (p n : Nat) (v : OpSlot) : (s.setSlot p n v).cores = s.cores := by simp only [State.setSlot, State.setSc_cores]
@[simp] theorem State.setSlot_clus (p n : Nat) (v : OpSlot) : (s.setSlot p n v).clus = s.clus := by simp only [State.setSlot, State.setSc_clus]
@[simp] theorem State.setSlot_pins (p n : Nat) (v : OpSlot) : (s.setSlot p n v).pins = s.pins := by simp only [State.setSlot, State.setSc_pins]
@[simp] theorem State.setSlot_fab (p n : Nat) (v : OpSlot) : (s.setSlot p n v).fab = s.fab := by simp only [State.setSlot, State.setSc_fab]
@[simp] theorem State.setSlot_links (p n : Nat) (v : OpSlot) : (s.setSlot p n v).links = s.links := by simp only [State.setSlot, State.setSc_links]
@[simp] theorem State.setSlot_hif (p n : Nat) (v : OpSlot) : (s.setSlot p n v).hif = s.hif := by simp only [State.setSlot, State.setSc_hif]
@[simp] theorem State.setSlot_mig (p n : Nat) (v : OpSlot) : (s.setSlot p n v).mig = s.mig := by simp only [State.setSlot, State.setSc_mig]
@[simp] theorem State.setSlot_tok (p n : Nat) (v : OpSlot) : (s.setSlot p n v).tok = s.tok := by simp only [State.setSlot, State.setSc_tok]
@[simp] theorem State.setSlot_ckp (p n : Nat) (v : OpSlot) : (s.setSlot p n v).ckp = s.ckp := by simp only [State.setSlot, State.setSc_ckp]
@[simp] theorem State.setSlot_rstAt (p n : Nat) (v : OpSlot) : (s.setSlot p n v).rstAt = s.rstAt := by simp only [State.setSlot, State.setSc_rstAt]
@[simp] theorem State.setSlot_fsc (p n : Nat) (v : OpSlot) : (s.setSlot p n v).fsc = s.fsc := by simp only [State.setSlot, State.setSc_fsc]
@[simp] theorem State.setSlot_pwr (p n : Nat) (v : OpSlot) : (s.setSlot p n v).pwr = s.pwr := by simp only [State.setSlot, State.setSc_pwr]
@[simp] theorem State.setSlot_nv (p n : Nat) (v : OpSlot) : (s.setSlot p n v).nv = s.nv := by simp only [State.setSlot, State.setSc_nv]
@[simp] theorem State.setSlot_mgt (p n : Nat) (v : OpSlot) : (s.setSlot p n v).mgt = s.mgt := by simp only [State.setSlot, State.setSc_mgt]
@[simp] theorem State.setSlot_out (p n : Nat) (v : OpSlot) : (s.setSlot p n v).out = s.out := by simp only [State.setSlot, State.setSc_out]
@[simp] theorem State.setSlot_fresh (p n : Nat) (v : OpSlot) : (s.setSlot p n v).fresh = s.fresh := by simp only [State.setSlot, State.setSc_fresh]
@[simp] theorem State.setSlot_reg (p n : Nat) (v : OpSlot) (i : Nat) : (s.setSlot p n v).reg i = s.reg i := by simp only [State.reg, State.setSlot_regs]
@[simp] theorem State.setSlot_f (p n : Nat) (v : OpSlot) (pg' : Nat) (y : Fld) : (s.setSlot p n v).f pg' y = s.f pg' y := by simp only [State.f, State.setSlot_reg]
@[simp] theorem State.setSlot_w (p n : Nat) (v : OpSlot) (pg' o : Nat) : (s.setSlot p n v).w pg' o = s.w pg' o := by simp only [State.w, State.setSlot_reg]
@[simp] theorem State.setSlot_core (p n : Nat) (v : OpSlot) (i : Nat) : (s.setSlot p n v).core i = s.core i := by simp only [State.core, State.setSlot_cores]
@[simp] theorem State.setSlot_clu (p n : Nat) (v : OpSlot) (i : Nat) : (s.setSlot p n v).clu i = s.clu i := by simp only [State.clu, State.setSlot_clus]
@[simp] theorem State.setSlot_part (p n : Nat) (v : OpSlot) (i : Nat) : (s.setSlot p n v).part i = s.part i := by simp only [State.part, State.setSlot_prt]
@[simp] theorem State.setSlot_keySlot (p n : Nat) (v : OpSlot) (i : Nat) : (s.setSlot p n v).keySlot i = s.keySlot i := by simp only [State.keySlot, State.setSlot_prt]
@[simp] theorem State.setSlot_holderOf (p n : Nat) (v : OpSlot) (r i : Nat) : (s.setSlot p n v).holderOf r i = s.holderOf r i := by simp only [State.holderOf, State.setSlot_prt]
@[simp] theorem State.setSlot_qp (p n : Nat) (v : OpSlot) (i j : Nat) : (s.setSlot p n v).qp i j = s.qp i j := by simp only [State.qp, State.setSlot_hif]
@[simp] theorem State.setSlot_link (p n : Nat) (v : OpSlot) (i : Nat) : (s.setSlot p n v).link i = s.link i := by simp only [State.link, State.setSlot_links]
@[simp] theorem State.setSlot_eng (p n : Nat) (v : OpSlot) (i : Nat) : (s.setSlot p n v).eng i = s.eng i := by simp only [State.eng, State.setSlot_tok]
@[simp] theorem State.setSlot_mop (p n : Nat) (v : OpSlot) (i j : Nat) : (s.setSlot p n v).mop i j = s.mop i j := by simp only [State.mop, State.setSlot_mig]
@[simp] theorem State.setSlot_dead (p n : Nat) (v : OpSlot) : (s.setSlot p n v).dead = s.dead := by simp only [State.dead, State.setSlot_pins]
@[simp] theorem State.setSlot_fscSlot (p n : Nat) (v : OpSlot) (i : Nat) : (s.setSlot p n v).fscSlot i = s.fscSlot i := by simp only [State.fscSlot, State.setSlot_fsc]
@[simp] theorem State.setSlot_al (p n : Nat) (v : OpSlot) (i : Nat) : (s.setSlot p n v).al i = s.al i := by simp only [State.al, State.setSlot_alloc]
@[simp] theorem State.setSlot_ctl (p n : Nat) (v : OpSlot) (i : Nat) : (s.setSlot p n v).ctl i = s.ctl i := by simp only [State.ctl, State.setSlot_ctls]
@[simp] theorem State.setFlow_pending (p n : Nat) (v : Flow) : (s.setFlow p n v).pending = s.pending := by simp only [State.setFlow, State.setSc_pending]
@[simp] theorem State.setFlow_regs (p n : Nat) (v : Flow) : (s.setFlow p n v).regs = s.regs := by simp only [State.setFlow, State.setSc_regs]
@[simp] theorem State.setFlow_tb (p n : Nat) (v : Flow) : (s.setFlow p n v).tb = s.tb := by simp only [State.setFlow, State.setSc_tb]
@[simp] theorem State.setFlow_ev (p n : Nat) (v : Flow) : (s.setFlow p n v).ev = s.ev := by simp only [State.setFlow, State.setSc_ev]
@[simp] theorem State.setFlow_prt (p n : Nat) (v : Flow) : (s.setFlow p n v).prt = s.prt := by simp only [State.setFlow, State.setSc_prt]
@[simp] theorem State.setFlow_mem (p n : Nat) (v : Flow) : (s.setFlow p n v).mem = s.mem := by simp only [State.setFlow, State.setSc_mem]
@[simp] theorem State.setFlow_ctls (p n : Nat) (v : Flow) : (s.setFlow p n v).ctls = s.ctls := by simp only [State.setFlow, State.setSc_ctls]
@[simp] theorem State.setFlow_alloc (p n : Nat) (v : Flow) : (s.setFlow p n v).alloc = s.alloc := by simp only [State.setFlow, State.setSc_alloc]
@[simp] theorem State.setFlow_ras (p n : Nat) (v : Flow) : (s.setFlow p n v).ras = s.ras := by simp only [State.setFlow, State.setSc_ras]
@[simp] theorem State.setFlow_bridge (p n : Nat) (v : Flow) : (s.setFlow p n v).bridge = s.bridge := by simp only [State.setFlow, State.setSc_bridge]
@[simp] theorem State.setFlow_router (p n : Nat) (v : Flow) : (s.setFlow p n v).router = s.router := by simp only [State.setFlow, State.setSc_router]
@[simp] theorem State.setFlow_cores (p n : Nat) (v : Flow) : (s.setFlow p n v).cores = s.cores := by simp only [State.setFlow, State.setSc_cores]
@[simp] theorem State.setFlow_clus (p n : Nat) (v : Flow) : (s.setFlow p n v).clus = s.clus := by simp only [State.setFlow, State.setSc_clus]
@[simp] theorem State.setFlow_pins (p n : Nat) (v : Flow) : (s.setFlow p n v).pins = s.pins := by simp only [State.setFlow, State.setSc_pins]
@[simp] theorem State.setFlow_fab (p n : Nat) (v : Flow) : (s.setFlow p n v).fab = s.fab := by simp only [State.setFlow, State.setSc_fab]
@[simp] theorem State.setFlow_links (p n : Nat) (v : Flow) : (s.setFlow p n v).links = s.links := by simp only [State.setFlow, State.setSc_links]
@[simp] theorem State.setFlow_hif (p n : Nat) (v : Flow) : (s.setFlow p n v).hif = s.hif := by simp only [State.setFlow, State.setSc_hif]
@[simp] theorem State.setFlow_mig (p n : Nat) (v : Flow) : (s.setFlow p n v).mig = s.mig := by simp only [State.setFlow, State.setSc_mig]
@[simp] theorem State.setFlow_tok (p n : Nat) (v : Flow) : (s.setFlow p n v).tok = s.tok := by simp only [State.setFlow, State.setSc_tok]
@[simp] theorem State.setFlow_ckp (p n : Nat) (v : Flow) : (s.setFlow p n v).ckp = s.ckp := by simp only [State.setFlow, State.setSc_ckp]
@[simp] theorem State.setFlow_rstAt (p n : Nat) (v : Flow) : (s.setFlow p n v).rstAt = s.rstAt := by simp only [State.setFlow, State.setSc_rstAt]
@[simp] theorem State.setFlow_fsc (p n : Nat) (v : Flow) : (s.setFlow p n v).fsc = s.fsc := by simp only [State.setFlow, State.setSc_fsc]
@[simp] theorem State.setFlow_pwr (p n : Nat) (v : Flow) : (s.setFlow p n v).pwr = s.pwr := by simp only [State.setFlow, State.setSc_pwr]
@[simp] theorem State.setFlow_nv (p n : Nat) (v : Flow) : (s.setFlow p n v).nv = s.nv := by simp only [State.setFlow, State.setSc_nv]
@[simp] theorem State.setFlow_mgt (p n : Nat) (v : Flow) : (s.setFlow p n v).mgt = s.mgt := by simp only [State.setFlow, State.setSc_mgt]
@[simp] theorem State.setFlow_out (p n : Nat) (v : Flow) : (s.setFlow p n v).out = s.out := by simp only [State.setFlow, State.setSc_out]
@[simp] theorem State.setFlow_fresh (p n : Nat) (v : Flow) : (s.setFlow p n v).fresh = s.fresh := by simp only [State.setFlow, State.setSc_fresh]
@[simp] theorem State.setFlow_reg (p n : Nat) (v : Flow) (i : Nat) : (s.setFlow p n v).reg i = s.reg i := by simp only [State.reg, State.setFlow_regs]
@[simp] theorem State.setFlow_f (p n : Nat) (v : Flow) (pg' : Nat) (y : Fld) : (s.setFlow p n v).f pg' y = s.f pg' y := by simp only [State.f, State.setFlow_reg]
@[simp] theorem State.setFlow_w (p n : Nat) (v : Flow) (pg' o : Nat) : (s.setFlow p n v).w pg' o = s.w pg' o := by simp only [State.w, State.setFlow_reg]
@[simp] theorem State.setFlow_core (p n : Nat) (v : Flow) (i : Nat) : (s.setFlow p n v).core i = s.core i := by simp only [State.core, State.setFlow_cores]
@[simp] theorem State.setFlow_clu (p n : Nat) (v : Flow) (i : Nat) : (s.setFlow p n v).clu i = s.clu i := by simp only [State.clu, State.setFlow_clus]
@[simp] theorem State.setFlow_part (p n : Nat) (v : Flow) (i : Nat) : (s.setFlow p n v).part i = s.part i := by simp only [State.part, State.setFlow_prt]
@[simp] theorem State.setFlow_keySlot (p n : Nat) (v : Flow) (i : Nat) : (s.setFlow p n v).keySlot i = s.keySlot i := by simp only [State.keySlot, State.setFlow_prt]
@[simp] theorem State.setFlow_holderOf (p n : Nat) (v : Flow) (r i : Nat) : (s.setFlow p n v).holderOf r i = s.holderOf r i := by simp only [State.holderOf, State.setFlow_prt]
@[simp] theorem State.setFlow_qp (p n : Nat) (v : Flow) (i j : Nat) : (s.setFlow p n v).qp i j = s.qp i j := by simp only [State.qp, State.setFlow_hif]
@[simp] theorem State.setFlow_link (p n : Nat) (v : Flow) (i : Nat) : (s.setFlow p n v).link i = s.link i := by simp only [State.link, State.setFlow_links]
@[simp] theorem State.setFlow_eng (p n : Nat) (v : Flow) (i : Nat) : (s.setFlow p n v).eng i = s.eng i := by simp only [State.eng, State.setFlow_tok]
@[simp] theorem State.setFlow_mop (p n : Nat) (v : Flow) (i j : Nat) : (s.setFlow p n v).mop i j = s.mop i j := by simp only [State.mop, State.setFlow_mig]
@[simp] theorem State.setFlow_dead (p n : Nat) (v : Flow) : (s.setFlow p n v).dead = s.dead := by simp only [State.dead, State.setFlow_pins]
@[simp] theorem State.setFlow_fscSlot (p n : Nat) (v : Flow) (i : Nat) : (s.setFlow p n v).fscSlot i = s.fscSlot i := by simp only [State.fscSlot, State.setFlow_fsc]
@[simp] theorem State.setFlow_al (p n : Nat) (v : Flow) (i : Nat) : (s.setFlow p n v).al i = s.al i := by simp only [State.al, State.setFlow_alloc]
@[simp] theorem State.setFlow_ctl (p n : Nat) (v : Flow) (i : Nat) : (s.setFlow p n v).ctl i = s.ctl i := by simp only [State.ctl, State.setFlow_ctls]
@[simp] theorem State.setQp_pending (p q : Nat) (v : Qp) : (s.setQp p q v).pending = s.pending := by simp only [State.setQp]
@[simp] theorem State.setQp_regs (p q : Nat) (v : Qp) : (s.setQp p q v).regs = s.regs := by simp only [State.setQp]
@[simp] theorem State.setQp_tb (p q : Nat) (v : Qp) : (s.setQp p q v).tb = s.tb := by simp only [State.setQp]
@[simp] theorem State.setQp_ev (p q : Nat) (v : Qp) : (s.setQp p q v).ev = s.ev := by simp only [State.setQp]
@[simp] theorem State.setQp_prt (p q : Nat) (v : Qp) : (s.setQp p q v).prt = s.prt := by simp only [State.setQp]
@[simp] theorem State.setQp_mem (p q : Nat) (v : Qp) : (s.setQp p q v).mem = s.mem := by simp only [State.setQp]
@[simp] theorem State.setQp_ctls (p q : Nat) (v : Qp) : (s.setQp p q v).ctls = s.ctls := by simp only [State.setQp]
@[simp] theorem State.setQp_alloc (p q : Nat) (v : Qp) : (s.setQp p q v).alloc = s.alloc := by simp only [State.setQp]
@[simp] theorem State.setQp_ras (p q : Nat) (v : Qp) : (s.setQp p q v).ras = s.ras := by simp only [State.setQp]
@[simp] theorem State.setQp_bridge (p q : Nat) (v : Qp) : (s.setQp p q v).bridge = s.bridge := by simp only [State.setQp]
@[simp] theorem State.setQp_router (p q : Nat) (v : Qp) : (s.setQp p q v).router = s.router := by simp only [State.setQp]
@[simp] theorem State.setQp_cores (p q : Nat) (v : Qp) : (s.setQp p q v).cores = s.cores := by simp only [State.setQp]
@[simp] theorem State.setQp_clus (p q : Nat) (v : Qp) : (s.setQp p q v).clus = s.clus := by simp only [State.setQp]
@[simp] theorem State.setQp_pins (p q : Nat) (v : Qp) : (s.setQp p q v).pins = s.pins := by simp only [State.setQp]
@[simp] theorem State.setQp_sch (p q : Nat) (v : Qp) : (s.setQp p q v).sch = s.sch := by simp only [State.setQp]
@[simp] theorem State.setQp_fab (p q : Nat) (v : Qp) : (s.setQp p q v).fab = s.fab := by simp only [State.setQp]
@[simp] theorem State.setQp_links (p q : Nat) (v : Qp) : (s.setQp p q v).links = s.links := by simp only [State.setQp]
@[simp] theorem State.setQp_mig (p q : Nat) (v : Qp) : (s.setQp p q v).mig = s.mig := by simp only [State.setQp]
@[simp] theorem State.setQp_tok (p q : Nat) (v : Qp) : (s.setQp p q v).tok = s.tok := by simp only [State.setQp]
@[simp] theorem State.setQp_ckp (p q : Nat) (v : Qp) : (s.setQp p q v).ckp = s.ckp := by simp only [State.setQp]
@[simp] theorem State.setQp_rstAt (p q : Nat) (v : Qp) : (s.setQp p q v).rstAt = s.rstAt := by simp only [State.setQp]
@[simp] theorem State.setQp_fsc (p q : Nat) (v : Qp) : (s.setQp p q v).fsc = s.fsc := by simp only [State.setQp]
@[simp] theorem State.setQp_pwr (p q : Nat) (v : Qp) : (s.setQp p q v).pwr = s.pwr := by simp only [State.setQp]
@[simp] theorem State.setQp_nv (p q : Nat) (v : Qp) : (s.setQp p q v).nv = s.nv := by simp only [State.setQp]
@[simp] theorem State.setQp_mgt (p q : Nat) (v : Qp) : (s.setQp p q v).mgt = s.mgt := by simp only [State.setQp]
@[simp] theorem State.setQp_out (p q : Nat) (v : Qp) : (s.setQp p q v).out = s.out := by simp only [State.setQp]
@[simp] theorem State.setQp_fresh (p q : Nat) (v : Qp) : (s.setQp p q v).fresh = s.fresh := by simp only [State.setQp]
@[simp] theorem State.setQp_reg (p q : Nat) (v : Qp) (i : Nat) : (s.setQp p q v).reg i = s.reg i := by simp only [State.reg, State.setQp_regs]
@[simp] theorem State.setQp_f (p q : Nat) (v : Qp) (pg' : Nat) (y : Fld) : (s.setQp p q v).f pg' y = s.f pg' y := by simp only [State.f, State.setQp_reg]
@[simp] theorem State.setQp_w (p q : Nat) (v : Qp) (pg' o : Nat) : (s.setQp p q v).w pg' o = s.w pg' o := by simp only [State.w, State.setQp_reg]
@[simp] theorem State.setQp_core (p q : Nat) (v : Qp) (i : Nat) : (s.setQp p q v).core i = s.core i := by simp only [State.core, State.setQp_cores]
@[simp] theorem State.setQp_clu (p q : Nat) (v : Qp) (i : Nat) : (s.setQp p q v).clu i = s.clu i := by simp only [State.clu, State.setQp_clus]
@[simp] theorem State.setQp_part (p q : Nat) (v : Qp) (i : Nat) : (s.setQp p q v).part i = s.part i := by simp only [State.part, State.setQp_prt]
@[simp] theorem State.setQp_keySlot (p q : Nat) (v : Qp) (i : Nat) : (s.setQp p q v).keySlot i = s.keySlot i := by simp only [State.keySlot, State.setQp_prt]
@[simp] theorem State.setQp_holderOf (p q : Nat) (v : Qp) (r i : Nat) : (s.setQp p q v).holderOf r i = s.holderOf r i := by simp only [State.holderOf, State.setQp_prt]
@[simp] theorem State.setQp_sc (p q : Nat) (v : Qp) (i : Nat) : (s.setQp p q v).sc i = s.sc i := by simp only [State.sc, State.setQp_sch]
@[simp] theorem State.setQp_slot (p q : Nat) (v : Qp) (i j : Nat) : (s.setQp p q v).slot i j = s.slot i j := by simp only [State.slot, State.setQp_sc]
@[simp] theorem State.setQp_flow (p q : Nat) (v : Qp) (i j : Nat) : (s.setQp p q v).flow i j = s.flow i j := by simp only [State.flow, State.setQp_sc]
@[simp] theorem State.setQp_link (p q : Nat) (v : Qp) (i : Nat) : (s.setQp p q v).link i = s.link i := by simp only [State.link, State.setQp_links]
@[simp] theorem State.setQp_eng (p q : Nat) (v : Qp) (i : Nat) : (s.setQp p q v).eng i = s.eng i := by simp only [State.eng, State.setQp_tok]
@[simp] theorem State.setQp_mop (p q : Nat) (v : Qp) (i j : Nat) : (s.setQp p q v).mop i j = s.mop i j := by simp only [State.mop, State.setQp_mig]
@[simp] theorem State.setQp_dead (p q : Nat) (v : Qp) : (s.setQp p q v).dead = s.dead := by simp only [State.dead, State.setQp_pins]
@[simp] theorem State.setQp_fscSlot (p q : Nat) (v : Qp) (i : Nat) : (s.setQp p q v).fscSlot i = s.fscSlot i := by simp only [State.fscSlot, State.setQp_fsc]
@[simp] theorem State.setQp_al (p q : Nat) (v : Qp) (i : Nat) : (s.setQp p q v).al i = s.al i := by simp only [State.al, State.setQp_alloc]
@[simp] theorem State.setQp_ctl (p q : Nat) (v : Qp) (i : Nat) : (s.setQp p q v).ctl i = s.ctl i := by simp only [State.ctl, State.setQp_ctls]
@[simp] theorem State.setMsix_pending (fn : Nat) (v : Msix) : (s.setMsix fn v).pending = s.pending := by simp only [State.setMsix]
@[simp] theorem State.setMsix_regs (fn : Nat) (v : Msix) : (s.setMsix fn v).regs = s.regs := by simp only [State.setMsix]
@[simp] theorem State.setMsix_tb (fn : Nat) (v : Msix) : (s.setMsix fn v).tb = s.tb := by simp only [State.setMsix]
@[simp] theorem State.setMsix_ev (fn : Nat) (v : Msix) : (s.setMsix fn v).ev = s.ev := by simp only [State.setMsix]
@[simp] theorem State.setMsix_prt (fn : Nat) (v : Msix) : (s.setMsix fn v).prt = s.prt := by simp only [State.setMsix]
@[simp] theorem State.setMsix_mem (fn : Nat) (v : Msix) : (s.setMsix fn v).mem = s.mem := by simp only [State.setMsix]
@[simp] theorem State.setMsix_ctls (fn : Nat) (v : Msix) : (s.setMsix fn v).ctls = s.ctls := by simp only [State.setMsix]
@[simp] theorem State.setMsix_alloc (fn : Nat) (v : Msix) : (s.setMsix fn v).alloc = s.alloc := by simp only [State.setMsix]
@[simp] theorem State.setMsix_ras (fn : Nat) (v : Msix) : (s.setMsix fn v).ras = s.ras := by simp only [State.setMsix]
@[simp] theorem State.setMsix_bridge (fn : Nat) (v : Msix) : (s.setMsix fn v).bridge = s.bridge := by simp only [State.setMsix]
@[simp] theorem State.setMsix_router (fn : Nat) (v : Msix) : (s.setMsix fn v).router = s.router := by simp only [State.setMsix]
@[simp] theorem State.setMsix_cores (fn : Nat) (v : Msix) : (s.setMsix fn v).cores = s.cores := by simp only [State.setMsix]
@[simp] theorem State.setMsix_clus (fn : Nat) (v : Msix) : (s.setMsix fn v).clus = s.clus := by simp only [State.setMsix]
@[simp] theorem State.setMsix_pins (fn : Nat) (v : Msix) : (s.setMsix fn v).pins = s.pins := by simp only [State.setMsix]
@[simp] theorem State.setMsix_sch (fn : Nat) (v : Msix) : (s.setMsix fn v).sch = s.sch := by simp only [State.setMsix]
@[simp] theorem State.setMsix_fab (fn : Nat) (v : Msix) : (s.setMsix fn v).fab = s.fab := by simp only [State.setMsix]
@[simp] theorem State.setMsix_links (fn : Nat) (v : Msix) : (s.setMsix fn v).links = s.links := by simp only [State.setMsix]
@[simp] theorem State.setMsix_mig (fn : Nat) (v : Msix) : (s.setMsix fn v).mig = s.mig := by simp only [State.setMsix]
@[simp] theorem State.setMsix_tok (fn : Nat) (v : Msix) : (s.setMsix fn v).tok = s.tok := by simp only [State.setMsix]
@[simp] theorem State.setMsix_ckp (fn : Nat) (v : Msix) : (s.setMsix fn v).ckp = s.ckp := by simp only [State.setMsix]
@[simp] theorem State.setMsix_rstAt (fn : Nat) (v : Msix) : (s.setMsix fn v).rstAt = s.rstAt := by simp only [State.setMsix]
@[simp] theorem State.setMsix_fsc (fn : Nat) (v : Msix) : (s.setMsix fn v).fsc = s.fsc := by simp only [State.setMsix]
@[simp] theorem State.setMsix_pwr (fn : Nat) (v : Msix) : (s.setMsix fn v).pwr = s.pwr := by simp only [State.setMsix]
@[simp] theorem State.setMsix_nv (fn : Nat) (v : Msix) : (s.setMsix fn v).nv = s.nv := by simp only [State.setMsix]
@[simp] theorem State.setMsix_mgt (fn : Nat) (v : Msix) : (s.setMsix fn v).mgt = s.mgt := by simp only [State.setMsix]
@[simp] theorem State.setMsix_out (fn : Nat) (v : Msix) : (s.setMsix fn v).out = s.out := by simp only [State.setMsix]
@[simp] theorem State.setMsix_fresh (fn : Nat) (v : Msix) : (s.setMsix fn v).fresh = s.fresh := by simp only [State.setMsix]
@[simp] theorem State.setMsix_reg (fn : Nat) (v : Msix) (i : Nat) : (s.setMsix fn v).reg i = s.reg i := by simp only [State.reg, State.setMsix_regs]
@[simp] theorem State.setMsix_f (fn : Nat) (v : Msix) (pg' : Nat) (y : Fld) : (s.setMsix fn v).f pg' y = s.f pg' y := by simp only [State.f, State.setMsix_reg]
@[simp] theorem State.setMsix_w (fn : Nat) (v : Msix) (pg' o : Nat) : (s.setMsix fn v).w pg' o = s.w pg' o := by simp only [State.w, State.setMsix_reg]
@[simp] theorem State.setMsix_core (fn : Nat) (v : Msix) (i : Nat) : (s.setMsix fn v).core i = s.core i := by simp only [State.core, State.setMsix_cores]
@[simp] theorem State.setMsix_clu (fn : Nat) (v : Msix) (i : Nat) : (s.setMsix fn v).clu i = s.clu i := by simp only [State.clu, State.setMsix_clus]
@[simp] theorem State.setMsix_part (fn : Nat) (v : Msix) (i : Nat) : (s.setMsix fn v).part i = s.part i := by simp only [State.part, State.setMsix_prt]
@[simp] theorem State.setMsix_keySlot (fn : Nat) (v : Msix) (i : Nat) : (s.setMsix fn v).keySlot i = s.keySlot i := by simp only [State.keySlot, State.setMsix_prt]
@[simp] theorem State.setMsix_holderOf (fn : Nat) (v : Msix) (r i : Nat) : (s.setMsix fn v).holderOf r i = s.holderOf r i := by simp only [State.holderOf, State.setMsix_prt]
@[simp] theorem State.setMsix_sc (fn : Nat) (v : Msix) (i : Nat) : (s.setMsix fn v).sc i = s.sc i := by simp only [State.sc, State.setMsix_sch]
@[simp] theorem State.setMsix_slot (fn : Nat) (v : Msix) (i j : Nat) : (s.setMsix fn v).slot i j = s.slot i j := by simp only [State.slot, State.setMsix_sc]
@[simp] theorem State.setMsix_flow (fn : Nat) (v : Msix) (i j : Nat) : (s.setMsix fn v).flow i j = s.flow i j := by simp only [State.flow, State.setMsix_sc]
@[simp] theorem State.setMsix_link (fn : Nat) (v : Msix) (i : Nat) : (s.setMsix fn v).link i = s.link i := by simp only [State.link, State.setMsix_links]
@[simp] theorem State.setMsix_eng (fn : Nat) (v : Msix) (i : Nat) : (s.setMsix fn v).eng i = s.eng i := by simp only [State.eng, State.setMsix_tok]
@[simp] theorem State.setMsix_mop (fn : Nat) (v : Msix) (i j : Nat) : (s.setMsix fn v).mop i j = s.mop i j := by simp only [State.mop, State.setMsix_mig]
@[simp] theorem State.setMsix_dead (fn : Nat) (v : Msix) : (s.setMsix fn v).dead = s.dead := by simp only [State.dead, State.setMsix_pins]
@[simp] theorem State.setMsix_fscSlot (fn : Nat) (v : Msix) (i : Nat) : (s.setMsix fn v).fscSlot i = s.fscSlot i := by simp only [State.fscSlot, State.setMsix_fsc]
@[simp] theorem State.setMsix_al (fn : Nat) (v : Msix) (i : Nat) : (s.setMsix fn v).al i = s.al i := by simp only [State.al, State.setMsix_alloc]
@[simp] theorem State.setMsix_ctl (fn : Nat) (v : Msix) (i : Nat) : (s.setMsix fn v).ctl i = s.ctl i := by simp only [State.ctl, State.setMsix_ctls]
@[simp] theorem State.setLink_pending (l : Nat) (v : LinkSt) : (s.setLink l v).pending = s.pending := by simp only [State.setLink]
@[simp] theorem State.setLink_regs (l : Nat) (v : LinkSt) : (s.setLink l v).regs = s.regs := by simp only [State.setLink]
@[simp] theorem State.setLink_tb (l : Nat) (v : LinkSt) : (s.setLink l v).tb = s.tb := by simp only [State.setLink]
@[simp] theorem State.setLink_ev (l : Nat) (v : LinkSt) : (s.setLink l v).ev = s.ev := by simp only [State.setLink]
@[simp] theorem State.setLink_prt (l : Nat) (v : LinkSt) : (s.setLink l v).prt = s.prt := by simp only [State.setLink]
@[simp] theorem State.setLink_mem (l : Nat) (v : LinkSt) : (s.setLink l v).mem = s.mem := by simp only [State.setLink]
@[simp] theorem State.setLink_ctls (l : Nat) (v : LinkSt) : (s.setLink l v).ctls = s.ctls := by simp only [State.setLink]
@[simp] theorem State.setLink_alloc (l : Nat) (v : LinkSt) : (s.setLink l v).alloc = s.alloc := by simp only [State.setLink]
@[simp] theorem State.setLink_ras (l : Nat) (v : LinkSt) : (s.setLink l v).ras = s.ras := by simp only [State.setLink]
@[simp] theorem State.setLink_bridge (l : Nat) (v : LinkSt) : (s.setLink l v).bridge = s.bridge := by simp only [State.setLink]
@[simp] theorem State.setLink_router (l : Nat) (v : LinkSt) : (s.setLink l v).router = s.router := by simp only [State.setLink]
@[simp] theorem State.setLink_cores (l : Nat) (v : LinkSt) : (s.setLink l v).cores = s.cores := by simp only [State.setLink]
@[simp] theorem State.setLink_clus (l : Nat) (v : LinkSt) : (s.setLink l v).clus = s.clus := by simp only [State.setLink]
@[simp] theorem State.setLink_pins (l : Nat) (v : LinkSt) : (s.setLink l v).pins = s.pins := by simp only [State.setLink]
@[simp] theorem State.setLink_sch (l : Nat) (v : LinkSt) : (s.setLink l v).sch = s.sch := by simp only [State.setLink]
@[simp] theorem State.setLink_fab (l : Nat) (v : LinkSt) : (s.setLink l v).fab = s.fab := by simp only [State.setLink]
@[simp] theorem State.setLink_hif (l : Nat) (v : LinkSt) : (s.setLink l v).hif = s.hif := by simp only [State.setLink]
@[simp] theorem State.setLink_mig (l : Nat) (v : LinkSt) : (s.setLink l v).mig = s.mig := by simp only [State.setLink]
@[simp] theorem State.setLink_tok (l : Nat) (v : LinkSt) : (s.setLink l v).tok = s.tok := by simp only [State.setLink]
@[simp] theorem State.setLink_ckp (l : Nat) (v : LinkSt) : (s.setLink l v).ckp = s.ckp := by simp only [State.setLink]
@[simp] theorem State.setLink_rstAt (l : Nat) (v : LinkSt) : (s.setLink l v).rstAt = s.rstAt := by simp only [State.setLink]
@[simp] theorem State.setLink_fsc (l : Nat) (v : LinkSt) : (s.setLink l v).fsc = s.fsc := by simp only [State.setLink]
@[simp] theorem State.setLink_pwr (l : Nat) (v : LinkSt) : (s.setLink l v).pwr = s.pwr := by simp only [State.setLink]
@[simp] theorem State.setLink_nv (l : Nat) (v : LinkSt) : (s.setLink l v).nv = s.nv := by simp only [State.setLink]
@[simp] theorem State.setLink_mgt (l : Nat) (v : LinkSt) : (s.setLink l v).mgt = s.mgt := by simp only [State.setLink]
@[simp] theorem State.setLink_out (l : Nat) (v : LinkSt) : (s.setLink l v).out = s.out := by simp only [State.setLink]
@[simp] theorem State.setLink_fresh (l : Nat) (v : LinkSt) : (s.setLink l v).fresh = s.fresh := by simp only [State.setLink]
@[simp] theorem State.setLink_reg (l : Nat) (v : LinkSt) (i : Nat) : (s.setLink l v).reg i = s.reg i := by simp only [State.reg, State.setLink_regs]
@[simp] theorem State.setLink_f (l : Nat) (v : LinkSt) (pg' : Nat) (y : Fld) : (s.setLink l v).f pg' y = s.f pg' y := by simp only [State.f, State.setLink_reg]
@[simp] theorem State.setLink_w (l : Nat) (v : LinkSt) (pg' o : Nat) : (s.setLink l v).w pg' o = s.w pg' o := by simp only [State.w, State.setLink_reg]
@[simp] theorem State.setLink_core (l : Nat) (v : LinkSt) (i : Nat) : (s.setLink l v).core i = s.core i := by simp only [State.core, State.setLink_cores]
@[simp] theorem State.setLink_clu (l : Nat) (v : LinkSt) (i : Nat) : (s.setLink l v).clu i = s.clu i := by simp only [State.clu, State.setLink_clus]
@[simp] theorem State.setLink_part (l : Nat) (v : LinkSt) (i : Nat) : (s.setLink l v).part i = s.part i := by simp only [State.part, State.setLink_prt]
@[simp] theorem State.setLink_keySlot (l : Nat) (v : LinkSt) (i : Nat) : (s.setLink l v).keySlot i = s.keySlot i := by simp only [State.keySlot, State.setLink_prt]
@[simp] theorem State.setLink_holderOf (l : Nat) (v : LinkSt) (r i : Nat) : (s.setLink l v).holderOf r i = s.holderOf r i := by simp only [State.holderOf, State.setLink_prt]
@[simp] theorem State.setLink_sc (l : Nat) (v : LinkSt) (i : Nat) : (s.setLink l v).sc i = s.sc i := by simp only [State.sc, State.setLink_sch]
@[simp] theorem State.setLink_slot (l : Nat) (v : LinkSt) (i j : Nat) : (s.setLink l v).slot i j = s.slot i j := by simp only [State.slot, State.setLink_sc]
@[simp] theorem State.setLink_flow (l : Nat) (v : LinkSt) (i j : Nat) : (s.setLink l v).flow i j = s.flow i j := by simp only [State.flow, State.setLink_sc]
@[simp] theorem State.setLink_qp (l : Nat) (v : LinkSt) (i j : Nat) : (s.setLink l v).qp i j = s.qp i j := by simp only [State.qp, State.setLink_hif]
@[simp] theorem State.setLink_eng (l : Nat) (v : LinkSt) (i : Nat) : (s.setLink l v).eng i = s.eng i := by simp only [State.eng, State.setLink_tok]
@[simp] theorem State.setLink_mop (l : Nat) (v : LinkSt) (i j : Nat) : (s.setLink l v).mop i j = s.mop i j := by simp only [State.mop, State.setLink_mig]
@[simp] theorem State.setLink_dead (l : Nat) (v : LinkSt) : (s.setLink l v).dead = s.dead := by simp only [State.dead, State.setLink_pins]
@[simp] theorem State.setLink_fscSlot (l : Nat) (v : LinkSt) (i : Nat) : (s.setLink l v).fscSlot i = s.fscSlot i := by simp only [State.fscSlot, State.setLink_fsc]
@[simp] theorem State.setLink_al (l : Nat) (v : LinkSt) (i : Nat) : (s.setLink l v).al i = s.al i := by simp only [State.al, State.setLink_alloc]
@[simp] theorem State.setLink_ctl (l : Nat) (v : LinkSt) (i : Nat) : (s.setLink l v).ctl i = s.ctl i := by simp only [State.ctl, State.setLink_ctls]
@[simp] theorem State.setFsc_pending (port : Nat) (v : FscSlot) : (s.setFsc port v).pending = s.pending := by simp only [State.setFsc]
@[simp] theorem State.setFsc_regs (port : Nat) (v : FscSlot) : (s.setFsc port v).regs = s.regs := by simp only [State.setFsc]
@[simp] theorem State.setFsc_tb (port : Nat) (v : FscSlot) : (s.setFsc port v).tb = s.tb := by simp only [State.setFsc]
@[simp] theorem State.setFsc_ev (port : Nat) (v : FscSlot) : (s.setFsc port v).ev = s.ev := by simp only [State.setFsc]
@[simp] theorem State.setFsc_prt (port : Nat) (v : FscSlot) : (s.setFsc port v).prt = s.prt := by simp only [State.setFsc]
@[simp] theorem State.setFsc_mem (port : Nat) (v : FscSlot) : (s.setFsc port v).mem = s.mem := by simp only [State.setFsc]
@[simp] theorem State.setFsc_ctls (port : Nat) (v : FscSlot) : (s.setFsc port v).ctls = s.ctls := by simp only [State.setFsc]
@[simp] theorem State.setFsc_alloc (port : Nat) (v : FscSlot) : (s.setFsc port v).alloc = s.alloc := by simp only [State.setFsc]
@[simp] theorem State.setFsc_ras (port : Nat) (v : FscSlot) : (s.setFsc port v).ras = s.ras := by simp only [State.setFsc]
@[simp] theorem State.setFsc_bridge (port : Nat) (v : FscSlot) : (s.setFsc port v).bridge = s.bridge := by simp only [State.setFsc]
@[simp] theorem State.setFsc_router (port : Nat) (v : FscSlot) : (s.setFsc port v).router = s.router := by simp only [State.setFsc]
@[simp] theorem State.setFsc_cores (port : Nat) (v : FscSlot) : (s.setFsc port v).cores = s.cores := by simp only [State.setFsc]
@[simp] theorem State.setFsc_clus (port : Nat) (v : FscSlot) : (s.setFsc port v).clus = s.clus := by simp only [State.setFsc]
@[simp] theorem State.setFsc_pins (port : Nat) (v : FscSlot) : (s.setFsc port v).pins = s.pins := by simp only [State.setFsc]
@[simp] theorem State.setFsc_sch (port : Nat) (v : FscSlot) : (s.setFsc port v).sch = s.sch := by simp only [State.setFsc]
@[simp] theorem State.setFsc_fab (port : Nat) (v : FscSlot) : (s.setFsc port v).fab = s.fab := by simp only [State.setFsc]
@[simp] theorem State.setFsc_links (port : Nat) (v : FscSlot) : (s.setFsc port v).links = s.links := by simp only [State.setFsc]
@[simp] theorem State.setFsc_hif (port : Nat) (v : FscSlot) : (s.setFsc port v).hif = s.hif := by simp only [State.setFsc]
@[simp] theorem State.setFsc_mig (port : Nat) (v : FscSlot) : (s.setFsc port v).mig = s.mig := by simp only [State.setFsc]
@[simp] theorem State.setFsc_tok (port : Nat) (v : FscSlot) : (s.setFsc port v).tok = s.tok := by simp only [State.setFsc]
@[simp] theorem State.setFsc_ckp (port : Nat) (v : FscSlot) : (s.setFsc port v).ckp = s.ckp := by simp only [State.setFsc]
@[simp] theorem State.setFsc_rstAt (port : Nat) (v : FscSlot) : (s.setFsc port v).rstAt = s.rstAt := by simp only [State.setFsc]
@[simp] theorem State.setFsc_pwr (port : Nat) (v : FscSlot) : (s.setFsc port v).pwr = s.pwr := by simp only [State.setFsc]
@[simp] theorem State.setFsc_nv (port : Nat) (v : FscSlot) : (s.setFsc port v).nv = s.nv := by simp only [State.setFsc]
@[simp] theorem State.setFsc_mgt (port : Nat) (v : FscSlot) : (s.setFsc port v).mgt = s.mgt := by simp only [State.setFsc]
@[simp] theorem State.setFsc_out (port : Nat) (v : FscSlot) : (s.setFsc port v).out = s.out := by simp only [State.setFsc]
@[simp] theorem State.setFsc_fresh (port : Nat) (v : FscSlot) : (s.setFsc port v).fresh = s.fresh := by simp only [State.setFsc]
@[simp] theorem State.setFsc_reg (port : Nat) (v : FscSlot) (i : Nat) : (s.setFsc port v).reg i = s.reg i := by simp only [State.reg, State.setFsc_regs]
@[simp] theorem State.setFsc_f (port : Nat) (v : FscSlot) (pg' : Nat) (y : Fld) : (s.setFsc port v).f pg' y = s.f pg' y := by simp only [State.f, State.setFsc_reg]
@[simp] theorem State.setFsc_w (port : Nat) (v : FscSlot) (pg' o : Nat) : (s.setFsc port v).w pg' o = s.w pg' o := by simp only [State.w, State.setFsc_reg]
@[simp] theorem State.setFsc_core (port : Nat) (v : FscSlot) (i : Nat) : (s.setFsc port v).core i = s.core i := by simp only [State.core, State.setFsc_cores]
@[simp] theorem State.setFsc_clu (port : Nat) (v : FscSlot) (i : Nat) : (s.setFsc port v).clu i = s.clu i := by simp only [State.clu, State.setFsc_clus]
@[simp] theorem State.setFsc_part (port : Nat) (v : FscSlot) (i : Nat) : (s.setFsc port v).part i = s.part i := by simp only [State.part, State.setFsc_prt]
@[simp] theorem State.setFsc_keySlot (port : Nat) (v : FscSlot) (i : Nat) : (s.setFsc port v).keySlot i = s.keySlot i := by simp only [State.keySlot, State.setFsc_prt]
@[simp] theorem State.setFsc_holderOf (port : Nat) (v : FscSlot) (r i : Nat) : (s.setFsc port v).holderOf r i = s.holderOf r i := by simp only [State.holderOf, State.setFsc_prt]
@[simp] theorem State.setFsc_sc (port : Nat) (v : FscSlot) (i : Nat) : (s.setFsc port v).sc i = s.sc i := by simp only [State.sc, State.setFsc_sch]
@[simp] theorem State.setFsc_slot (port : Nat) (v : FscSlot) (i j : Nat) : (s.setFsc port v).slot i j = s.slot i j := by simp only [State.slot, State.setFsc_sc]
@[simp] theorem State.setFsc_flow (port : Nat) (v : FscSlot) (i j : Nat) : (s.setFsc port v).flow i j = s.flow i j := by simp only [State.flow, State.setFsc_sc]
@[simp] theorem State.setFsc_qp (port : Nat) (v : FscSlot) (i j : Nat) : (s.setFsc port v).qp i j = s.qp i j := by simp only [State.qp, State.setFsc_hif]
@[simp] theorem State.setFsc_link (port : Nat) (v : FscSlot) (i : Nat) : (s.setFsc port v).link i = s.link i := by simp only [State.link, State.setFsc_links]
@[simp] theorem State.setFsc_eng (port : Nat) (v : FscSlot) (i : Nat) : (s.setFsc port v).eng i = s.eng i := by simp only [State.eng, State.setFsc_tok]
@[simp] theorem State.setFsc_mop (port : Nat) (v : FscSlot) (i j : Nat) : (s.setFsc port v).mop i j = s.mop i j := by simp only [State.mop, State.setFsc_mig]
@[simp] theorem State.setFsc_dead (port : Nat) (v : FscSlot) : (s.setFsc port v).dead = s.dead := by simp only [State.dead, State.setFsc_pins]
@[simp] theorem State.setFsc_al (port : Nat) (v : FscSlot) (i : Nat) : (s.setFsc port v).al i = s.al i := by simp only [State.al, State.setFsc_alloc]
@[simp] theorem State.setFsc_ctl (port : Nat) (v : FscSlot) (i : Nat) : (s.setFsc port v).ctl i = s.ctl i := by simp only [State.ctl, State.setFsc_ctls]
@[simp] theorem State.setLine_pending (k : Nat) (v : Line) : (s.setLine k v).pending = s.pending := by simp only [State.setLine]
@[simp] theorem State.setLine_regs (k : Nat) (v : Line) : (s.setLine k v).regs = s.regs := by simp only [State.setLine]
@[simp] theorem State.setLine_tb (k : Nat) (v : Line) : (s.setLine k v).tb = s.tb := by simp only [State.setLine]
@[simp] theorem State.setLine_ev (k : Nat) (v : Line) : (s.setLine k v).ev = s.ev := by simp only [State.setLine]
@[simp] theorem State.setLine_prt (k : Nat) (v : Line) : (s.setLine k v).prt = s.prt := by simp only [State.setLine]
@[simp] theorem State.setLine_ctls (k : Nat) (v : Line) : (s.setLine k v).ctls = s.ctls := by simp only [State.setLine]
@[simp] theorem State.setLine_alloc (k : Nat) (v : Line) : (s.setLine k v).alloc = s.alloc := by simp only [State.setLine]
@[simp] theorem State.setLine_ras (k : Nat) (v : Line) : (s.setLine k v).ras = s.ras := by simp only [State.setLine]
@[simp] theorem State.setLine_bridge (k : Nat) (v : Line) : (s.setLine k v).bridge = s.bridge := by simp only [State.setLine]
@[simp] theorem State.setLine_router (k : Nat) (v : Line) : (s.setLine k v).router = s.router := by simp only [State.setLine]
@[simp] theorem State.setLine_cores (k : Nat) (v : Line) : (s.setLine k v).cores = s.cores := by simp only [State.setLine]
@[simp] theorem State.setLine_clus (k : Nat) (v : Line) : (s.setLine k v).clus = s.clus := by simp only [State.setLine]
@[simp] theorem State.setLine_pins (k : Nat) (v : Line) : (s.setLine k v).pins = s.pins := by simp only [State.setLine]
@[simp] theorem State.setLine_sch (k : Nat) (v : Line) : (s.setLine k v).sch = s.sch := by simp only [State.setLine]
@[simp] theorem State.setLine_fab (k : Nat) (v : Line) : (s.setLine k v).fab = s.fab := by simp only [State.setLine]
@[simp] theorem State.setLine_links (k : Nat) (v : Line) : (s.setLine k v).links = s.links := by simp only [State.setLine]
@[simp] theorem State.setLine_hif (k : Nat) (v : Line) : (s.setLine k v).hif = s.hif := by simp only [State.setLine]
@[simp] theorem State.setLine_mig (k : Nat) (v : Line) : (s.setLine k v).mig = s.mig := by simp only [State.setLine]
@[simp] theorem State.setLine_tok (k : Nat) (v : Line) : (s.setLine k v).tok = s.tok := by simp only [State.setLine]
@[simp] theorem State.setLine_ckp (k : Nat) (v : Line) : (s.setLine k v).ckp = s.ckp := by simp only [State.setLine]
@[simp] theorem State.setLine_rstAt (k : Nat) (v : Line) : (s.setLine k v).rstAt = s.rstAt := by simp only [State.setLine]
@[simp] theorem State.setLine_fsc (k : Nat) (v : Line) : (s.setLine k v).fsc = s.fsc := by simp only [State.setLine]
@[simp] theorem State.setLine_pwr (k : Nat) (v : Line) : (s.setLine k v).pwr = s.pwr := by simp only [State.setLine]
@[simp] theorem State.setLine_nv (k : Nat) (v : Line) : (s.setLine k v).nv = s.nv := by simp only [State.setLine]
@[simp] theorem State.setLine_mgt (k : Nat) (v : Line) : (s.setLine k v).mgt = s.mgt := by simp only [State.setLine]
@[simp] theorem State.setLine_out (k : Nat) (v : Line) : (s.setLine k v).out = s.out := by simp only [State.setLine]
@[simp] theorem State.setLine_fresh (k : Nat) (v : Line) : (s.setLine k v).fresh = s.fresh := by simp only [State.setLine]
@[simp] theorem State.setLine_reg (k : Nat) (v : Line) (i : Nat) : (s.setLine k v).reg i = s.reg i := by simp only [State.reg, State.setLine_regs]
@[simp] theorem State.setLine_f (k : Nat) (v : Line) (pg' : Nat) (y : Fld) : (s.setLine k v).f pg' y = s.f pg' y := by simp only [State.f, State.setLine_reg]
@[simp] theorem State.setLine_w (k : Nat) (v : Line) (pg' o : Nat) : (s.setLine k v).w pg' o = s.w pg' o := by simp only [State.w, State.setLine_reg]
@[simp] theorem State.setLine_core (k : Nat) (v : Line) (i : Nat) : (s.setLine k v).core i = s.core i := by simp only [State.core, State.setLine_cores]
@[simp] theorem State.setLine_clu (k : Nat) (v : Line) (i : Nat) : (s.setLine k v).clu i = s.clu i := by simp only [State.clu, State.setLine_clus]
@[simp] theorem State.setLine_part (k : Nat) (v : Line) (i : Nat) : (s.setLine k v).part i = s.part i := by simp only [State.part, State.setLine_prt]
@[simp] theorem State.setLine_keySlot (k : Nat) (v : Line) (i : Nat) : (s.setLine k v).keySlot i = s.keySlot i := by simp only [State.keySlot, State.setLine_prt]
@[simp] theorem State.setLine_holderOf (k : Nat) (v : Line) (r i : Nat) : (s.setLine k v).holderOf r i = s.holderOf r i := by simp only [State.holderOf, State.setLine_prt]
@[simp] theorem State.setLine_sc (k : Nat) (v : Line) (i : Nat) : (s.setLine k v).sc i = s.sc i := by simp only [State.sc, State.setLine_sch]
@[simp] theorem State.setLine_slot (k : Nat) (v : Line) (i j : Nat) : (s.setLine k v).slot i j = s.slot i j := by simp only [State.slot, State.setLine_sc]
@[simp] theorem State.setLine_flow (k : Nat) (v : Line) (i j : Nat) : (s.setLine k v).flow i j = s.flow i j := by simp only [State.flow, State.setLine_sc]
@[simp] theorem State.setLine_qp (k : Nat) (v : Line) (i j : Nat) : (s.setLine k v).qp i j = s.qp i j := by simp only [State.qp, State.setLine_hif]
@[simp] theorem State.setLine_link (k : Nat) (v : Line) (i : Nat) : (s.setLine k v).link i = s.link i := by simp only [State.link, State.setLine_links]
@[simp] theorem State.setLine_eng (k : Nat) (v : Line) (i : Nat) : (s.setLine k v).eng i = s.eng i := by simp only [State.eng, State.setLine_tok]
@[simp] theorem State.setLine_mop (k : Nat) (v : Line) (i j : Nat) : (s.setLine k v).mop i j = s.mop i j := by simp only [State.mop, State.setLine_mig]
@[simp] theorem State.setLine_dead (k : Nat) (v : Line) : (s.setLine k v).dead = s.dead := by simp only [State.dead, State.setLine_pins]
@[simp] theorem State.setLine_fscSlot (k : Nat) (v : Line) (i : Nat) : (s.setLine k v).fscSlot i = s.fscSlot i := by simp only [State.fscSlot, State.setLine_fsc]
@[simp] theorem State.setLine_al (k : Nat) (v : Line) (i : Nat) : (s.setLine k v).al i = s.al i := by simp only [State.al, State.setLine_alloc]
@[simp] theorem State.setLine_ctl (k : Nat) (v : Line) (i : Nat) : (s.setLine k v).ctl i = s.ctl i := by simp only [State.ctl, State.setLine_ctls]
@[simp] theorem State.setMop_pending (p n : Nat) (v : MigOp) : (s.setMop p n v).pending = s.pending := by simp only [State.setMop]
@[simp] theorem State.setMop_regs (p n : Nat) (v : MigOp) : (s.setMop p n v).regs = s.regs := by simp only [State.setMop]
@[simp] theorem State.setMop_tb (p n : Nat) (v : MigOp) : (s.setMop p n v).tb = s.tb := by simp only [State.setMop]
@[simp] theorem State.setMop_ev (p n : Nat) (v : MigOp) : (s.setMop p n v).ev = s.ev := by simp only [State.setMop]
@[simp] theorem State.setMop_prt (p n : Nat) (v : MigOp) : (s.setMop p n v).prt = s.prt := by simp only [State.setMop]
@[simp] theorem State.setMop_mem (p n : Nat) (v : MigOp) : (s.setMop p n v).mem = s.mem := by simp only [State.setMop]
@[simp] theorem State.setMop_ctls (p n : Nat) (v : MigOp) : (s.setMop p n v).ctls = s.ctls := by simp only [State.setMop]
@[simp] theorem State.setMop_alloc (p n : Nat) (v : MigOp) : (s.setMop p n v).alloc = s.alloc := by simp only [State.setMop]
@[simp] theorem State.setMop_ras (p n : Nat) (v : MigOp) : (s.setMop p n v).ras = s.ras := by simp only [State.setMop]
@[simp] theorem State.setMop_bridge (p n : Nat) (v : MigOp) : (s.setMop p n v).bridge = s.bridge := by simp only [State.setMop]
@[simp] theorem State.setMop_router (p n : Nat) (v : MigOp) : (s.setMop p n v).router = s.router := by simp only [State.setMop]
@[simp] theorem State.setMop_cores (p n : Nat) (v : MigOp) : (s.setMop p n v).cores = s.cores := by simp only [State.setMop]
@[simp] theorem State.setMop_clus (p n : Nat) (v : MigOp) : (s.setMop p n v).clus = s.clus := by simp only [State.setMop]
@[simp] theorem State.setMop_pins (p n : Nat) (v : MigOp) : (s.setMop p n v).pins = s.pins := by simp only [State.setMop]
@[simp] theorem State.setMop_sch (p n : Nat) (v : MigOp) : (s.setMop p n v).sch = s.sch := by simp only [State.setMop]
@[simp] theorem State.setMop_fab (p n : Nat) (v : MigOp) : (s.setMop p n v).fab = s.fab := by simp only [State.setMop]
@[simp] theorem State.setMop_links (p n : Nat) (v : MigOp) : (s.setMop p n v).links = s.links := by simp only [State.setMop]
@[simp] theorem State.setMop_hif (p n : Nat) (v : MigOp) : (s.setMop p n v).hif = s.hif := by simp only [State.setMop]
@[simp] theorem State.setMop_tok (p n : Nat) (v : MigOp) : (s.setMop p n v).tok = s.tok := by simp only [State.setMop]
@[simp] theorem State.setMop_ckp (p n : Nat) (v : MigOp) : (s.setMop p n v).ckp = s.ckp := by simp only [State.setMop]
@[simp] theorem State.setMop_rstAt (p n : Nat) (v : MigOp) : (s.setMop p n v).rstAt = s.rstAt := by simp only [State.setMop]
@[simp] theorem State.setMop_fsc (p n : Nat) (v : MigOp) : (s.setMop p n v).fsc = s.fsc := by simp only [State.setMop]
@[simp] theorem State.setMop_pwr (p n : Nat) (v : MigOp) : (s.setMop p n v).pwr = s.pwr := by simp only [State.setMop]
@[simp] theorem State.setMop_nv (p n : Nat) (v : MigOp) : (s.setMop p n v).nv = s.nv := by simp only [State.setMop]
@[simp] theorem State.setMop_mgt (p n : Nat) (v : MigOp) : (s.setMop p n v).mgt = s.mgt := by simp only [State.setMop]
@[simp] theorem State.setMop_out (p n : Nat) (v : MigOp) : (s.setMop p n v).out = s.out := by simp only [State.setMop]
@[simp] theorem State.setMop_fresh (p n : Nat) (v : MigOp) : (s.setMop p n v).fresh = s.fresh := by simp only [State.setMop]
@[simp] theorem State.setMop_reg (p n : Nat) (v : MigOp) (i : Nat) : (s.setMop p n v).reg i = s.reg i := by simp only [State.reg, State.setMop_regs]
@[simp] theorem State.setMop_f (p n : Nat) (v : MigOp) (pg' : Nat) (y : Fld) : (s.setMop p n v).f pg' y = s.f pg' y := by simp only [State.f, State.setMop_reg]
@[simp] theorem State.setMop_w (p n : Nat) (v : MigOp) (pg' o : Nat) : (s.setMop p n v).w pg' o = s.w pg' o := by simp only [State.w, State.setMop_reg]
@[simp] theorem State.setMop_core (p n : Nat) (v : MigOp) (i : Nat) : (s.setMop p n v).core i = s.core i := by simp only [State.core, State.setMop_cores]
@[simp] theorem State.setMop_clu (p n : Nat) (v : MigOp) (i : Nat) : (s.setMop p n v).clu i = s.clu i := by simp only [State.clu, State.setMop_clus]
@[simp] theorem State.setMop_part (p n : Nat) (v : MigOp) (i : Nat) : (s.setMop p n v).part i = s.part i := by simp only [State.part, State.setMop_prt]
@[simp] theorem State.setMop_keySlot (p n : Nat) (v : MigOp) (i : Nat) : (s.setMop p n v).keySlot i = s.keySlot i := by simp only [State.keySlot, State.setMop_prt]
@[simp] theorem State.setMop_holderOf (p n : Nat) (v : MigOp) (r i : Nat) : (s.setMop p n v).holderOf r i = s.holderOf r i := by simp only [State.holderOf, State.setMop_prt]
@[simp] theorem State.setMop_sc (p n : Nat) (v : MigOp) (i : Nat) : (s.setMop p n v).sc i = s.sc i := by simp only [State.sc, State.setMop_sch]
@[simp] theorem State.setMop_slot (p n : Nat) (v : MigOp) (i j : Nat) : (s.setMop p n v).slot i j = s.slot i j := by simp only [State.slot, State.setMop_sc]
@[simp] theorem State.setMop_flow (p n : Nat) (v : MigOp) (i j : Nat) : (s.setMop p n v).flow i j = s.flow i j := by simp only [State.flow, State.setMop_sc]
@[simp] theorem State.setMop_qp (p n : Nat) (v : MigOp) (i j : Nat) : (s.setMop p n v).qp i j = s.qp i j := by simp only [State.qp, State.setMop_hif]
@[simp] theorem State.setMop_link (p n : Nat) (v : MigOp) (i : Nat) : (s.setMop p n v).link i = s.link i := by simp only [State.link, State.setMop_links]
@[simp] theorem State.setMop_eng (p n : Nat) (v : MigOp) (i : Nat) : (s.setMop p n v).eng i = s.eng i := by simp only [State.eng, State.setMop_tok]
@[simp] theorem State.setMop_dead (p n : Nat) (v : MigOp) : (s.setMop p n v).dead = s.dead := by simp only [State.dead, State.setMop_pins]
@[simp] theorem State.setMop_fscSlot (p n : Nat) (v : MigOp) (i : Nat) : (s.setMop p n v).fscSlot i = s.fscSlot i := by simp only [State.fscSlot, State.setMop_fsc]
@[simp] theorem State.setMop_al (p n : Nat) (v : MigOp) (i : Nat) : (s.setMop p n v).al i = s.al i := by simp only [State.al, State.setMop_alloc]
@[simp] theorem State.setMop_ctl (p n : Nat) (v : MigOp) (i : Nat) : (s.setMop p n v).ctl i = s.ctl i := by simp only [State.ctl, State.setMop_ctls]
@[simp] theorem State.setEng_pending (e : Nat) (v : TokEng) : (s.setEng e v).pending = s.pending := by simp only [State.setEng]
@[simp] theorem State.setEng_regs (e : Nat) (v : TokEng) : (s.setEng e v).regs = s.regs := by simp only [State.setEng]
@[simp] theorem State.setEng_tb (e : Nat) (v : TokEng) : (s.setEng e v).tb = s.tb := by simp only [State.setEng]
@[simp] theorem State.setEng_ev (e : Nat) (v : TokEng) : (s.setEng e v).ev = s.ev := by simp only [State.setEng]
@[simp] theorem State.setEng_prt (e : Nat) (v : TokEng) : (s.setEng e v).prt = s.prt := by simp only [State.setEng]
@[simp] theorem State.setEng_mem (e : Nat) (v : TokEng) : (s.setEng e v).mem = s.mem := by simp only [State.setEng]
@[simp] theorem State.setEng_ctls (e : Nat) (v : TokEng) : (s.setEng e v).ctls = s.ctls := by simp only [State.setEng]
@[simp] theorem State.setEng_alloc (e : Nat) (v : TokEng) : (s.setEng e v).alloc = s.alloc := by simp only [State.setEng]
@[simp] theorem State.setEng_ras (e : Nat) (v : TokEng) : (s.setEng e v).ras = s.ras := by simp only [State.setEng]
@[simp] theorem State.setEng_bridge (e : Nat) (v : TokEng) : (s.setEng e v).bridge = s.bridge := by simp only [State.setEng]
@[simp] theorem State.setEng_router (e : Nat) (v : TokEng) : (s.setEng e v).router = s.router := by simp only [State.setEng]
@[simp] theorem State.setEng_cores (e : Nat) (v : TokEng) : (s.setEng e v).cores = s.cores := by simp only [State.setEng]
@[simp] theorem State.setEng_clus (e : Nat) (v : TokEng) : (s.setEng e v).clus = s.clus := by simp only [State.setEng]
@[simp] theorem State.setEng_pins (e : Nat) (v : TokEng) : (s.setEng e v).pins = s.pins := by simp only [State.setEng]
@[simp] theorem State.setEng_sch (e : Nat) (v : TokEng) : (s.setEng e v).sch = s.sch := by simp only [State.setEng]
@[simp] theorem State.setEng_fab (e : Nat) (v : TokEng) : (s.setEng e v).fab = s.fab := by simp only [State.setEng]
@[simp] theorem State.setEng_links (e : Nat) (v : TokEng) : (s.setEng e v).links = s.links := by simp only [State.setEng]
@[simp] theorem State.setEng_hif (e : Nat) (v : TokEng) : (s.setEng e v).hif = s.hif := by simp only [State.setEng]
@[simp] theorem State.setEng_mig (e : Nat) (v : TokEng) : (s.setEng e v).mig = s.mig := by simp only [State.setEng]
@[simp] theorem State.setEng_ckp (e : Nat) (v : TokEng) : (s.setEng e v).ckp = s.ckp := by simp only [State.setEng]
@[simp] theorem State.setEng_rstAt (e : Nat) (v : TokEng) : (s.setEng e v).rstAt = s.rstAt := by simp only [State.setEng]
@[simp] theorem State.setEng_fsc (e : Nat) (v : TokEng) : (s.setEng e v).fsc = s.fsc := by simp only [State.setEng]
@[simp] theorem State.setEng_pwr (e : Nat) (v : TokEng) : (s.setEng e v).pwr = s.pwr := by simp only [State.setEng]
@[simp] theorem State.setEng_nv (e : Nat) (v : TokEng) : (s.setEng e v).nv = s.nv := by simp only [State.setEng]
@[simp] theorem State.setEng_mgt (e : Nat) (v : TokEng) : (s.setEng e v).mgt = s.mgt := by simp only [State.setEng]
@[simp] theorem State.setEng_out (e : Nat) (v : TokEng) : (s.setEng e v).out = s.out := by simp only [State.setEng]
@[simp] theorem State.setEng_fresh (e : Nat) (v : TokEng) : (s.setEng e v).fresh = s.fresh := by simp only [State.setEng]
@[simp] theorem State.setEng_reg (e : Nat) (v : TokEng) (i : Nat) : (s.setEng e v).reg i = s.reg i := by simp only [State.reg, State.setEng_regs]
@[simp] theorem State.setEng_f (e : Nat) (v : TokEng) (pg' : Nat) (y : Fld) : (s.setEng e v).f pg' y = s.f pg' y := by simp only [State.f, State.setEng_reg]
@[simp] theorem State.setEng_w (e : Nat) (v : TokEng) (pg' o : Nat) : (s.setEng e v).w pg' o = s.w pg' o := by simp only [State.w, State.setEng_reg]
@[simp] theorem State.setEng_core (e : Nat) (v : TokEng) (i : Nat) : (s.setEng e v).core i = s.core i := by simp only [State.core, State.setEng_cores]
@[simp] theorem State.setEng_clu (e : Nat) (v : TokEng) (i : Nat) : (s.setEng e v).clu i = s.clu i := by simp only [State.clu, State.setEng_clus]
@[simp] theorem State.setEng_part (e : Nat) (v : TokEng) (i : Nat) : (s.setEng e v).part i = s.part i := by simp only [State.part, State.setEng_prt]
@[simp] theorem State.setEng_keySlot (e : Nat) (v : TokEng) (i : Nat) : (s.setEng e v).keySlot i = s.keySlot i := by simp only [State.keySlot, State.setEng_prt]
@[simp] theorem State.setEng_holderOf (e : Nat) (v : TokEng) (r i : Nat) : (s.setEng e v).holderOf r i = s.holderOf r i := by simp only [State.holderOf, State.setEng_prt]
@[simp] theorem State.setEng_sc (e : Nat) (v : TokEng) (i : Nat) : (s.setEng e v).sc i = s.sc i := by simp only [State.sc, State.setEng_sch]
@[simp] theorem State.setEng_slot (e : Nat) (v : TokEng) (i j : Nat) : (s.setEng e v).slot i j = s.slot i j := by simp only [State.slot, State.setEng_sc]
@[simp] theorem State.setEng_flow (e : Nat) (v : TokEng) (i j : Nat) : (s.setEng e v).flow i j = s.flow i j := by simp only [State.flow, State.setEng_sc]
@[simp] theorem State.setEng_qp (e : Nat) (v : TokEng) (i j : Nat) : (s.setEng e v).qp i j = s.qp i j := by simp only [State.qp, State.setEng_hif]
@[simp] theorem State.setEng_link (e : Nat) (v : TokEng) (i : Nat) : (s.setEng e v).link i = s.link i := by simp only [State.link, State.setEng_links]
@[simp] theorem State.setEng_mop (e : Nat) (v : TokEng) (i j : Nat) : (s.setEng e v).mop i j = s.mop i j := by simp only [State.mop, State.setEng_mig]
@[simp] theorem State.setEng_dead (e : Nat) (v : TokEng) : (s.setEng e v).dead = s.dead := by simp only [State.dead, State.setEng_pins]
@[simp] theorem State.setEng_fscSlot (e : Nat) (v : TokEng) (i : Nat) : (s.setEng e v).fscSlot i = s.fscSlot i := by simp only [State.fscSlot, State.setEng_fsc]
@[simp] theorem State.setEng_al (e : Nat) (v : TokEng) (i : Nat) : (s.setEng e v).al i = s.al i := by simp only [State.al, State.setEng_alloc]
@[simp] theorem State.setEng_ctl (e : Nat) (v : TokEng) (i : Nat) : (s.setEng e v).ctl i = s.ctl i := by simp only [State.ctl, State.setEng_ctls]
@[simp] theorem State.setVslot_pending (e n : Nat) (v : VSlot) : (s.setVslot e n v).pending = s.pending := by simp only [State.setVslot, State.setEng_pending]
@[simp] theorem State.setVslot_regs (e n : Nat) (v : VSlot) : (s.setVslot e n v).regs = s.regs := by simp only [State.setVslot, State.setEng_regs]
@[simp] theorem State.setVslot_tb (e n : Nat) (v : VSlot) : (s.setVslot e n v).tb = s.tb := by simp only [State.setVslot, State.setEng_tb]
@[simp] theorem State.setVslot_ev (e n : Nat) (v : VSlot) : (s.setVslot e n v).ev = s.ev := by simp only [State.setVslot, State.setEng_ev]
@[simp] theorem State.setVslot_prt (e n : Nat) (v : VSlot) : (s.setVslot e n v).prt = s.prt := by simp only [State.setVslot, State.setEng_prt]
@[simp] theorem State.setVslot_mem (e n : Nat) (v : VSlot) : (s.setVslot e n v).mem = s.mem := by simp only [State.setVslot, State.setEng_mem]
@[simp] theorem State.setVslot_ctls (e n : Nat) (v : VSlot) : (s.setVslot e n v).ctls = s.ctls := by simp only [State.setVslot, State.setEng_ctls]
@[simp] theorem State.setVslot_alloc (e n : Nat) (v : VSlot) : (s.setVslot e n v).alloc = s.alloc := by simp only [State.setVslot, State.setEng_alloc]
@[simp] theorem State.setVslot_ras (e n : Nat) (v : VSlot) : (s.setVslot e n v).ras = s.ras := by simp only [State.setVslot, State.setEng_ras]
@[simp] theorem State.setVslot_bridge (e n : Nat) (v : VSlot) : (s.setVslot e n v).bridge = s.bridge := by simp only [State.setVslot, State.setEng_bridge]
@[simp] theorem State.setVslot_router (e n : Nat) (v : VSlot) : (s.setVslot e n v).router = s.router := by simp only [State.setVslot, State.setEng_router]
@[simp] theorem State.setVslot_cores (e n : Nat) (v : VSlot) : (s.setVslot e n v).cores = s.cores := by simp only [State.setVslot, State.setEng_cores]
@[simp] theorem State.setVslot_clus (e n : Nat) (v : VSlot) : (s.setVslot e n v).clus = s.clus := by simp only [State.setVslot, State.setEng_clus]
@[simp] theorem State.setVslot_pins (e n : Nat) (v : VSlot) : (s.setVslot e n v).pins = s.pins := by simp only [State.setVslot, State.setEng_pins]
@[simp] theorem State.setVslot_sch (e n : Nat) (v : VSlot) : (s.setVslot e n v).sch = s.sch := by simp only [State.setVslot, State.setEng_sch]
@[simp] theorem State.setVslot_fab (e n : Nat) (v : VSlot) : (s.setVslot e n v).fab = s.fab := by simp only [State.setVslot, State.setEng_fab]
@[simp] theorem State.setVslot_links (e n : Nat) (v : VSlot) : (s.setVslot e n v).links = s.links := by simp only [State.setVslot, State.setEng_links]
@[simp] theorem State.setVslot_hif (e n : Nat) (v : VSlot) : (s.setVslot e n v).hif = s.hif := by simp only [State.setVslot, State.setEng_hif]
@[simp] theorem State.setVslot_mig (e n : Nat) (v : VSlot) : (s.setVslot e n v).mig = s.mig := by simp only [State.setVslot, State.setEng_mig]
@[simp] theorem State.setVslot_ckp (e n : Nat) (v : VSlot) : (s.setVslot e n v).ckp = s.ckp := by simp only [State.setVslot, State.setEng_ckp]
@[simp] theorem State.setVslot_rstAt (e n : Nat) (v : VSlot) : (s.setVslot e n v).rstAt = s.rstAt := by simp only [State.setVslot, State.setEng_rstAt]
@[simp] theorem State.setVslot_fsc (e n : Nat) (v : VSlot) : (s.setVslot e n v).fsc = s.fsc := by simp only [State.setVslot, State.setEng_fsc]
@[simp] theorem State.setVslot_pwr (e n : Nat) (v : VSlot) : (s.setVslot e n v).pwr = s.pwr := by simp only [State.setVslot, State.setEng_pwr]
@[simp] theorem State.setVslot_nv (e n : Nat) (v : VSlot) : (s.setVslot e n v).nv = s.nv := by simp only [State.setVslot, State.setEng_nv]
@[simp] theorem State.setVslot_mgt (e n : Nat) (v : VSlot) : (s.setVslot e n v).mgt = s.mgt := by simp only [State.setVslot, State.setEng_mgt]
@[simp] theorem State.setVslot_out (e n : Nat) (v : VSlot) : (s.setVslot e n v).out = s.out := by simp only [State.setVslot, State.setEng_out]
@[simp] theorem State.setVslot_fresh (e n : Nat) (v : VSlot) : (s.setVslot e n v).fresh = s.fresh := by simp only [State.setVslot, State.setEng_fresh]
@[simp] theorem State.setVslot_reg (e n : Nat) (v : VSlot) (i : Nat) : (s.setVslot e n v).reg i = s.reg i := by simp only [State.reg, State.setVslot_regs]
@[simp] theorem State.setVslot_f (e n : Nat) (v : VSlot) (pg' : Nat) (y : Fld) : (s.setVslot e n v).f pg' y = s.f pg' y := by simp only [State.f, State.setVslot_reg]
@[simp] theorem State.setVslot_w (e n : Nat) (v : VSlot) (pg' o : Nat) : (s.setVslot e n v).w pg' o = s.w pg' o := by simp only [State.w, State.setVslot_reg]
@[simp] theorem State.setVslot_core (e n : Nat) (v : VSlot) (i : Nat) : (s.setVslot e n v).core i = s.core i := by simp only [State.core, State.setVslot_cores]
@[simp] theorem State.setVslot_clu (e n : Nat) (v : VSlot) (i : Nat) : (s.setVslot e n v).clu i = s.clu i := by simp only [State.clu, State.setVslot_clus]
@[simp] theorem State.setVslot_part (e n : Nat) (v : VSlot) (i : Nat) : (s.setVslot e n v).part i = s.part i := by simp only [State.part, State.setVslot_prt]
@[simp] theorem State.setVslot_keySlot (e n : Nat) (v : VSlot) (i : Nat) : (s.setVslot e n v).keySlot i = s.keySlot i := by simp only [State.keySlot, State.setVslot_prt]
@[simp] theorem State.setVslot_holderOf (e n : Nat) (v : VSlot) (r i : Nat) : (s.setVslot e n v).holderOf r i = s.holderOf r i := by simp only [State.holderOf, State.setVslot_prt]
@[simp] theorem State.setVslot_sc (e n : Nat) (v : VSlot) (i : Nat) : (s.setVslot e n v).sc i = s.sc i := by simp only [State.sc, State.setVslot_sch]
@[simp] theorem State.setVslot_slot (e n : Nat) (v : VSlot) (i j : Nat) : (s.setVslot e n v).slot i j = s.slot i j := by simp only [State.slot, State.setVslot_sc]
@[simp] theorem State.setVslot_flow (e n : Nat) (v : VSlot) (i j : Nat) : (s.setVslot e n v).flow i j = s.flow i j := by simp only [State.flow, State.setVslot_sc]
@[simp] theorem State.setVslot_qp (e n : Nat) (v : VSlot) (i j : Nat) : (s.setVslot e n v).qp i j = s.qp i j := by simp only [State.qp, State.setVslot_hif]
@[simp] theorem State.setVslot_link (e n : Nat) (v : VSlot) (i : Nat) : (s.setVslot e n v).link i = s.link i := by simp only [State.link, State.setVslot_links]
@[simp] theorem State.setVslot_mop (e n : Nat) (v : VSlot) (i j : Nat) : (s.setVslot e n v).mop i j = s.mop i j := by simp only [State.mop, State.setVslot_mig]
@[simp] theorem State.setVslot_dead (e n : Nat) (v : VSlot) : (s.setVslot e n v).dead = s.dead := by simp only [State.dead, State.setVslot_pins]
@[simp] theorem State.setVslot_fscSlot (e n : Nat) (v : VSlot) (i : Nat) : (s.setVslot e n v).fscSlot i = s.fscSlot i := by simp only [State.fscSlot, State.setVslot_fsc]
@[simp] theorem State.setVslot_al (e n : Nat) (v : VSlot) (i : Nat) : (s.setVslot e n v).al i = s.al i := by simp only [State.al, State.setVslot_alloc]
@[simp] theorem State.setVslot_ctl (e n : Nat) (v : VSlot) (i : Nat) : (s.setVslot e n v).ctl i = s.ctl i := by simp only [State.ctl, State.setVslot_ctls]
@[simp] theorem State.setStrm_pending (e n : Nat) (v : Stream) : (s.setStrm e n v).pending = s.pending := by simp only [State.setStrm, State.setEng_pending]
@[simp] theorem State.setStrm_regs (e n : Nat) (v : Stream) : (s.setStrm e n v).regs = s.regs := by simp only [State.setStrm, State.setEng_regs]
@[simp] theorem State.setStrm_tb (e n : Nat) (v : Stream) : (s.setStrm e n v).tb = s.tb := by simp only [State.setStrm, State.setEng_tb]
@[simp] theorem State.setStrm_ev (e n : Nat) (v : Stream) : (s.setStrm e n v).ev = s.ev := by simp only [State.setStrm, State.setEng_ev]
@[simp] theorem State.setStrm_prt (e n : Nat) (v : Stream) : (s.setStrm e n v).prt = s.prt := by simp only [State.setStrm, State.setEng_prt]
@[simp] theorem State.setStrm_mem (e n : Nat) (v : Stream) : (s.setStrm e n v).mem = s.mem := by simp only [State.setStrm, State.setEng_mem]
@[simp] theorem State.setStrm_ctls (e n : Nat) (v : Stream) : (s.setStrm e n v).ctls = s.ctls := by simp only [State.setStrm, State.setEng_ctls]
@[simp] theorem State.setStrm_alloc (e n : Nat) (v : Stream) : (s.setStrm e n v).alloc = s.alloc := by simp only [State.setStrm, State.setEng_alloc]
@[simp] theorem State.setStrm_ras (e n : Nat) (v : Stream) : (s.setStrm e n v).ras = s.ras := by simp only [State.setStrm, State.setEng_ras]
@[simp] theorem State.setStrm_bridge (e n : Nat) (v : Stream) : (s.setStrm e n v).bridge = s.bridge := by simp only [State.setStrm, State.setEng_bridge]
@[simp] theorem State.setStrm_router (e n : Nat) (v : Stream) : (s.setStrm e n v).router = s.router := by simp only [State.setStrm, State.setEng_router]
@[simp] theorem State.setStrm_cores (e n : Nat) (v : Stream) : (s.setStrm e n v).cores = s.cores := by simp only [State.setStrm, State.setEng_cores]
@[simp] theorem State.setStrm_clus (e n : Nat) (v : Stream) : (s.setStrm e n v).clus = s.clus := by simp only [State.setStrm, State.setEng_clus]
@[simp] theorem State.setStrm_pins (e n : Nat) (v : Stream) : (s.setStrm e n v).pins = s.pins := by simp only [State.setStrm, State.setEng_pins]
@[simp] theorem State.setStrm_sch (e n : Nat) (v : Stream) : (s.setStrm e n v).sch = s.sch := by simp only [State.setStrm, State.setEng_sch]
@[simp] theorem State.setStrm_fab (e n : Nat) (v : Stream) : (s.setStrm e n v).fab = s.fab := by simp only [State.setStrm, State.setEng_fab]
@[simp] theorem State.setStrm_links (e n : Nat) (v : Stream) : (s.setStrm e n v).links = s.links := by simp only [State.setStrm, State.setEng_links]
@[simp] theorem State.setStrm_hif (e n : Nat) (v : Stream) : (s.setStrm e n v).hif = s.hif := by simp only [State.setStrm, State.setEng_hif]
@[simp] theorem State.setStrm_mig (e n : Nat) (v : Stream) : (s.setStrm e n v).mig = s.mig := by simp only [State.setStrm, State.setEng_mig]
@[simp] theorem State.setStrm_ckp (e n : Nat) (v : Stream) : (s.setStrm e n v).ckp = s.ckp := by simp only [State.setStrm, State.setEng_ckp]
@[simp] theorem State.setStrm_rstAt (e n : Nat) (v : Stream) : (s.setStrm e n v).rstAt = s.rstAt := by simp only [State.setStrm, State.setEng_rstAt]
@[simp] theorem State.setStrm_fsc (e n : Nat) (v : Stream) : (s.setStrm e n v).fsc = s.fsc := by simp only [State.setStrm, State.setEng_fsc]
@[simp] theorem State.setStrm_pwr (e n : Nat) (v : Stream) : (s.setStrm e n v).pwr = s.pwr := by simp only [State.setStrm, State.setEng_pwr]
@[simp] theorem State.setStrm_nv (e n : Nat) (v : Stream) : (s.setStrm e n v).nv = s.nv := by simp only [State.setStrm, State.setEng_nv]
@[simp] theorem State.setStrm_mgt (e n : Nat) (v : Stream) : (s.setStrm e n v).mgt = s.mgt := by simp only [State.setStrm, State.setEng_mgt]
@[simp] theorem State.setStrm_out (e n : Nat) (v : Stream) : (s.setStrm e n v).out = s.out := by simp only [State.setStrm, State.setEng_out]
@[simp] theorem State.setStrm_fresh (e n : Nat) (v : Stream) : (s.setStrm e n v).fresh = s.fresh := by simp only [State.setStrm, State.setEng_fresh]
@[simp] theorem State.setStrm_reg (e n : Nat) (v : Stream) (i : Nat) : (s.setStrm e n v).reg i = s.reg i := by simp only [State.reg, State.setStrm_regs]
@[simp] theorem State.setStrm_f (e n : Nat) (v : Stream) (pg' : Nat) (y : Fld) : (s.setStrm e n v).f pg' y = s.f pg' y := by simp only [State.f, State.setStrm_reg]
@[simp] theorem State.setStrm_w (e n : Nat) (v : Stream) (pg' o : Nat) : (s.setStrm e n v).w pg' o = s.w pg' o := by simp only [State.w, State.setStrm_reg]
@[simp] theorem State.setStrm_core (e n : Nat) (v : Stream) (i : Nat) : (s.setStrm e n v).core i = s.core i := by simp only [State.core, State.setStrm_cores]
@[simp] theorem State.setStrm_clu (e n : Nat) (v : Stream) (i : Nat) : (s.setStrm e n v).clu i = s.clu i := by simp only [State.clu, State.setStrm_clus]
@[simp] theorem State.setStrm_part (e n : Nat) (v : Stream) (i : Nat) : (s.setStrm e n v).part i = s.part i := by simp only [State.part, State.setStrm_prt]
@[simp] theorem State.setStrm_keySlot (e n : Nat) (v : Stream) (i : Nat) : (s.setStrm e n v).keySlot i = s.keySlot i := by simp only [State.keySlot, State.setStrm_prt]
@[simp] theorem State.setStrm_holderOf (e n : Nat) (v : Stream) (r i : Nat) : (s.setStrm e n v).holderOf r i = s.holderOf r i := by simp only [State.holderOf, State.setStrm_prt]
@[simp] theorem State.setStrm_sc (e n : Nat) (v : Stream) (i : Nat) : (s.setStrm e n v).sc i = s.sc i := by simp only [State.sc, State.setStrm_sch]
@[simp] theorem State.setStrm_slot (e n : Nat) (v : Stream) (i j : Nat) : (s.setStrm e n v).slot i j = s.slot i j := by simp only [State.slot, State.setStrm_sc]
@[simp] theorem State.setStrm_flow (e n : Nat) (v : Stream) (i j : Nat) : (s.setStrm e n v).flow i j = s.flow i j := by simp only [State.flow, State.setStrm_sc]
@[simp] theorem State.setStrm_qp (e n : Nat) (v : Stream) (i j : Nat) : (s.setStrm e n v).qp i j = s.qp i j := by simp only [State.qp, State.setStrm_hif]
@[simp] theorem State.setStrm_link (e n : Nat) (v : Stream) (i : Nat) : (s.setStrm e n v).link i = s.link i := by simp only [State.link, State.setStrm_links]
@[simp] theorem State.setStrm_mop (e n : Nat) (v : Stream) (i j : Nat) : (s.setStrm e n v).mop i j = s.mop i j := by simp only [State.mop, State.setStrm_mig]
@[simp] theorem State.setStrm_dead (e n : Nat) (v : Stream) : (s.setStrm e n v).dead = s.dead := by simp only [State.dead, State.setStrm_pins]
@[simp] theorem State.setStrm_fscSlot (e n : Nat) (v : Stream) (i : Nat) : (s.setStrm e n v).fscSlot i = s.fscSlot i := by simp only [State.fscSlot, State.setStrm_fsc]
@[simp] theorem State.setStrm_al (e n : Nat) (v : Stream) (i : Nat) : (s.setStrm e n v).al i = s.al i := by simp only [State.al, State.setStrm_alloc]
@[simp] theorem State.setStrm_ctl (e n : Nat) (v : Stream) (i : Nat) : (s.setStrm e n v).ctl i = s.ctl i := by simp only [State.ctl, State.setStrm_ctls]
@[simp] theorem State.setStopBlk_pending (e n : Nat) (v : StopBlk) : (s.setStopBlk e n v).pending = s.pending := by simp only [State.setStopBlk, State.setEng_pending]
@[simp] theorem State.setStopBlk_regs (e n : Nat) (v : StopBlk) : (s.setStopBlk e n v).regs = s.regs := by simp only [State.setStopBlk, State.setEng_regs]
@[simp] theorem State.setStopBlk_tb (e n : Nat) (v : StopBlk) : (s.setStopBlk e n v).tb = s.tb := by simp only [State.setStopBlk, State.setEng_tb]
@[simp] theorem State.setStopBlk_ev (e n : Nat) (v : StopBlk) : (s.setStopBlk e n v).ev = s.ev := by simp only [State.setStopBlk, State.setEng_ev]
@[simp] theorem State.setStopBlk_prt (e n : Nat) (v : StopBlk) : (s.setStopBlk e n v).prt = s.prt := by simp only [State.setStopBlk, State.setEng_prt]
@[simp] theorem State.setStopBlk_mem (e n : Nat) (v : StopBlk) : (s.setStopBlk e n v).mem = s.mem := by simp only [State.setStopBlk, State.setEng_mem]
@[simp] theorem State.setStopBlk_ctls (e n : Nat) (v : StopBlk) : (s.setStopBlk e n v).ctls = s.ctls := by simp only [State.setStopBlk, State.setEng_ctls]
@[simp] theorem State.setStopBlk_alloc (e n : Nat) (v : StopBlk) : (s.setStopBlk e n v).alloc = s.alloc := by simp only [State.setStopBlk, State.setEng_alloc]
@[simp] theorem State.setStopBlk_ras (e n : Nat) (v : StopBlk) : (s.setStopBlk e n v).ras = s.ras := by simp only [State.setStopBlk, State.setEng_ras]
@[simp] theorem State.setStopBlk_bridge (e n : Nat) (v : StopBlk) : (s.setStopBlk e n v).bridge = s.bridge := by simp only [State.setStopBlk, State.setEng_bridge]
@[simp] theorem State.setStopBlk_router (e n : Nat) (v : StopBlk) : (s.setStopBlk e n v).router = s.router := by simp only [State.setStopBlk, State.setEng_router]
@[simp] theorem State.setStopBlk_cores (e n : Nat) (v : StopBlk) : (s.setStopBlk e n v).cores = s.cores := by simp only [State.setStopBlk, State.setEng_cores]
@[simp] theorem State.setStopBlk_clus (e n : Nat) (v : StopBlk) : (s.setStopBlk e n v).clus = s.clus := by simp only [State.setStopBlk, State.setEng_clus]
@[simp] theorem State.setStopBlk_pins (e n : Nat) (v : StopBlk) : (s.setStopBlk e n v).pins = s.pins := by simp only [State.setStopBlk, State.setEng_pins]
@[simp] theorem State.setStopBlk_sch (e n : Nat) (v : StopBlk) : (s.setStopBlk e n v).sch = s.sch := by simp only [State.setStopBlk, State.setEng_sch]
@[simp] theorem State.setStopBlk_fab (e n : Nat) (v : StopBlk) : (s.setStopBlk e n v).fab = s.fab := by simp only [State.setStopBlk, State.setEng_fab]
@[simp] theorem State.setStopBlk_links (e n : Nat) (v : StopBlk) : (s.setStopBlk e n v).links = s.links := by simp only [State.setStopBlk, State.setEng_links]
@[simp] theorem State.setStopBlk_hif (e n : Nat) (v : StopBlk) : (s.setStopBlk e n v).hif = s.hif := by simp only [State.setStopBlk, State.setEng_hif]
@[simp] theorem State.setStopBlk_mig (e n : Nat) (v : StopBlk) : (s.setStopBlk e n v).mig = s.mig := by simp only [State.setStopBlk, State.setEng_mig]
@[simp] theorem State.setStopBlk_ckp (e n : Nat) (v : StopBlk) : (s.setStopBlk e n v).ckp = s.ckp := by simp only [State.setStopBlk, State.setEng_ckp]
@[simp] theorem State.setStopBlk_rstAt (e n : Nat) (v : StopBlk) : (s.setStopBlk e n v).rstAt = s.rstAt := by simp only [State.setStopBlk, State.setEng_rstAt]
@[simp] theorem State.setStopBlk_fsc (e n : Nat) (v : StopBlk) : (s.setStopBlk e n v).fsc = s.fsc := by simp only [State.setStopBlk, State.setEng_fsc]
@[simp] theorem State.setStopBlk_pwr (e n : Nat) (v : StopBlk) : (s.setStopBlk e n v).pwr = s.pwr := by simp only [State.setStopBlk, State.setEng_pwr]
@[simp] theorem State.setStopBlk_nv (e n : Nat) (v : StopBlk) : (s.setStopBlk e n v).nv = s.nv := by simp only [State.setStopBlk, State.setEng_nv]
@[simp] theorem State.setStopBlk_mgt (e n : Nat) (v : StopBlk) : (s.setStopBlk e n v).mgt = s.mgt := by simp only [State.setStopBlk, State.setEng_mgt]
@[simp] theorem State.setStopBlk_out (e n : Nat) (v : StopBlk) : (s.setStopBlk e n v).out = s.out := by simp only [State.setStopBlk, State.setEng_out]
@[simp] theorem State.setStopBlk_fresh (e n : Nat) (v : StopBlk) : (s.setStopBlk e n v).fresh = s.fresh := by simp only [State.setStopBlk, State.setEng_fresh]
@[simp] theorem State.setStopBlk_reg (e n : Nat) (v : StopBlk) (i : Nat) : (s.setStopBlk e n v).reg i = s.reg i := by simp only [State.reg, State.setStopBlk_regs]
@[simp] theorem State.setStopBlk_f (e n : Nat) (v : StopBlk) (pg' : Nat) (y : Fld) : (s.setStopBlk e n v).f pg' y = s.f pg' y := by simp only [State.f, State.setStopBlk_reg]
@[simp] theorem State.setStopBlk_w (e n : Nat) (v : StopBlk) (pg' o : Nat) : (s.setStopBlk e n v).w pg' o = s.w pg' o := by simp only [State.w, State.setStopBlk_reg]
@[simp] theorem State.setStopBlk_core (e n : Nat) (v : StopBlk) (i : Nat) : (s.setStopBlk e n v).core i = s.core i := by simp only [State.core, State.setStopBlk_cores]
@[simp] theorem State.setStopBlk_clu (e n : Nat) (v : StopBlk) (i : Nat) : (s.setStopBlk e n v).clu i = s.clu i := by simp only [State.clu, State.setStopBlk_clus]
@[simp] theorem State.setStopBlk_part (e n : Nat) (v : StopBlk) (i : Nat) : (s.setStopBlk e n v).part i = s.part i := by simp only [State.part, State.setStopBlk_prt]
@[simp] theorem State.setStopBlk_keySlot (e n : Nat) (v : StopBlk) (i : Nat) : (s.setStopBlk e n v).keySlot i = s.keySlot i := by simp only [State.keySlot, State.setStopBlk_prt]
@[simp] theorem State.setStopBlk_holderOf (e n : Nat) (v : StopBlk) (r i : Nat) : (s.setStopBlk e n v).holderOf r i = s.holderOf r i := by simp only [State.holderOf, State.setStopBlk_prt]
@[simp] theorem State.setStopBlk_sc (e n : Nat) (v : StopBlk) (i : Nat) : (s.setStopBlk e n v).sc i = s.sc i := by simp only [State.sc, State.setStopBlk_sch]
@[simp] theorem State.setStopBlk_slot (e n : Nat) (v : StopBlk) (i j : Nat) : (s.setStopBlk e n v).slot i j = s.slot i j := by simp only [State.slot, State.setStopBlk_sc]
@[simp] theorem State.setStopBlk_flow (e n : Nat) (v : StopBlk) (i j : Nat) : (s.setStopBlk e n v).flow i j = s.flow i j := by simp only [State.flow, State.setStopBlk_sc]
@[simp] theorem State.setStopBlk_qp (e n : Nat) (v : StopBlk) (i j : Nat) : (s.setStopBlk e n v).qp i j = s.qp i j := by simp only [State.qp, State.setStopBlk_hif]
@[simp] theorem State.setStopBlk_link (e n : Nat) (v : StopBlk) (i : Nat) : (s.setStopBlk e n v).link i = s.link i := by simp only [State.link, State.setStopBlk_links]
@[simp] theorem State.setStopBlk_mop (e n : Nat) (v : StopBlk) (i j : Nat) : (s.setStopBlk e n v).mop i j = s.mop i j := by simp only [State.mop, State.setStopBlk_mig]
@[simp] theorem State.setStopBlk_dead (e n : Nat) (v : StopBlk) : (s.setStopBlk e n v).dead = s.dead := by simp only [State.dead, State.setStopBlk_pins]
@[simp] theorem State.setStopBlk_fscSlot (e n : Nat) (v : StopBlk) (i : Nat) : (s.setStopBlk e n v).fscSlot i = s.fscSlot i := by simp only [State.fscSlot, State.setStopBlk_fsc]
@[simp] theorem State.setStopBlk_al (e n : Nat) (v : StopBlk) (i : Nat) : (s.setStopBlk e n v).al i = s.al i := by simp only [State.al, State.setStopBlk_alloc]
@[simp] theorem State.setStopBlk_ctl (e n : Nat) (v : StopBlk) (i : Nat) : (s.setStopBlk e n v).ctl i = s.ctl i := by simp only [State.ctl, State.setStopBlk_ctls]
@[simp] theorem State.setRun_pending (v : Option CkpRun) : (s.setRun v).pending = s.pending := by simp only [State.setRun]
@[simp] theorem State.setRun_regs (v : Option CkpRun) : (s.setRun v).regs = s.regs := by simp only [State.setRun]
@[simp] theorem State.setRun_tb (v : Option CkpRun) : (s.setRun v).tb = s.tb := by simp only [State.setRun]
@[simp] theorem State.setRun_ev (v : Option CkpRun) : (s.setRun v).ev = s.ev := by simp only [State.setRun]
@[simp] theorem State.setRun_prt (v : Option CkpRun) : (s.setRun v).prt = s.prt := by simp only [State.setRun]
@[simp] theorem State.setRun_mem (v : Option CkpRun) : (s.setRun v).mem = s.mem := by simp only [State.setRun]
@[simp] theorem State.setRun_ctls (v : Option CkpRun) : (s.setRun v).ctls = s.ctls := by simp only [State.setRun]
@[simp] theorem State.setRun_alloc (v : Option CkpRun) : (s.setRun v).alloc = s.alloc := by simp only [State.setRun]
@[simp] theorem State.setRun_ras (v : Option CkpRun) : (s.setRun v).ras = s.ras := by simp only [State.setRun]
@[simp] theorem State.setRun_bridge (v : Option CkpRun) : (s.setRun v).bridge = s.bridge := by simp only [State.setRun]
@[simp] theorem State.setRun_router (v : Option CkpRun) : (s.setRun v).router = s.router := by simp only [State.setRun]
@[simp] theorem State.setRun_cores (v : Option CkpRun) : (s.setRun v).cores = s.cores := by simp only [State.setRun]
@[simp] theorem State.setRun_clus (v : Option CkpRun) : (s.setRun v).clus = s.clus := by simp only [State.setRun]
@[simp] theorem State.setRun_pins (v : Option CkpRun) : (s.setRun v).pins = s.pins := by simp only [State.setRun]
@[simp] theorem State.setRun_sch (v : Option CkpRun) : (s.setRun v).sch = s.sch := by simp only [State.setRun]
@[simp] theorem State.setRun_fab (v : Option CkpRun) : (s.setRun v).fab = s.fab := by simp only [State.setRun]
@[simp] theorem State.setRun_links (v : Option CkpRun) : (s.setRun v).links = s.links := by simp only [State.setRun]
@[simp] theorem State.setRun_hif (v : Option CkpRun) : (s.setRun v).hif = s.hif := by simp only [State.setRun]
@[simp] theorem State.setRun_mig (v : Option CkpRun) : (s.setRun v).mig = s.mig := by simp only [State.setRun]
@[simp] theorem State.setRun_tok (v : Option CkpRun) : (s.setRun v).tok = s.tok := by simp only [State.setRun]
@[simp] theorem State.setRun_rstAt (v : Option CkpRun) : (s.setRun v).rstAt = s.rstAt := by simp only [State.setRun]
@[simp] theorem State.setRun_fsc (v : Option CkpRun) : (s.setRun v).fsc = s.fsc := by simp only [State.setRun]
@[simp] theorem State.setRun_pwr (v : Option CkpRun) : (s.setRun v).pwr = s.pwr := by simp only [State.setRun]
@[simp] theorem State.setRun_nv (v : Option CkpRun) : (s.setRun v).nv = s.nv := by simp only [State.setRun]
@[simp] theorem State.setRun_mgt (v : Option CkpRun) : (s.setRun v).mgt = s.mgt := by simp only [State.setRun]
@[simp] theorem State.setRun_out (v : Option CkpRun) : (s.setRun v).out = s.out := by simp only [State.setRun]
@[simp] theorem State.setRun_fresh (v : Option CkpRun) : (s.setRun v).fresh = s.fresh := by simp only [State.setRun]
@[simp] theorem State.setRun_reg (v : Option CkpRun) (i : Nat) : (s.setRun v).reg i = s.reg i := by simp only [State.reg, State.setRun_regs]
@[simp] theorem State.setRun_f (v : Option CkpRun) (pg' : Nat) (y : Fld) : (s.setRun v).f pg' y = s.f pg' y := by simp only [State.f, State.setRun_reg]
@[simp] theorem State.setRun_w (v : Option CkpRun) (pg' o : Nat) : (s.setRun v).w pg' o = s.w pg' o := by simp only [State.w, State.setRun_reg]
@[simp] theorem State.setRun_core (v : Option CkpRun) (i : Nat) : (s.setRun v).core i = s.core i := by simp only [State.core, State.setRun_cores]
@[simp] theorem State.setRun_clu (v : Option CkpRun) (i : Nat) : (s.setRun v).clu i = s.clu i := by simp only [State.clu, State.setRun_clus]
@[simp] theorem State.setRun_part (v : Option CkpRun) (i : Nat) : (s.setRun v).part i = s.part i := by simp only [State.part, State.setRun_prt]
@[simp] theorem State.setRun_keySlot (v : Option CkpRun) (i : Nat) : (s.setRun v).keySlot i = s.keySlot i := by simp only [State.keySlot, State.setRun_prt]
@[simp] theorem State.setRun_holderOf (v : Option CkpRun) (r i : Nat) : (s.setRun v).holderOf r i = s.holderOf r i := by simp only [State.holderOf, State.setRun_prt]
@[simp] theorem State.setRun_sc (v : Option CkpRun) (i : Nat) : (s.setRun v).sc i = s.sc i := by simp only [State.sc, State.setRun_sch]
@[simp] theorem State.setRun_slot (v : Option CkpRun) (i j : Nat) : (s.setRun v).slot i j = s.slot i j := by simp only [State.slot, State.setRun_sc]
@[simp] theorem State.setRun_flow (v : Option CkpRun) (i j : Nat) : (s.setRun v).flow i j = s.flow i j := by simp only [State.flow, State.setRun_sc]
@[simp] theorem State.setRun_qp (v : Option CkpRun) (i j : Nat) : (s.setRun v).qp i j = s.qp i j := by simp only [State.qp, State.setRun_hif]
@[simp] theorem State.setRun_link (v : Option CkpRun) (i : Nat) : (s.setRun v).link i = s.link i := by simp only [State.link, State.setRun_links]
@[simp] theorem State.setRun_eng (v : Option CkpRun) (i : Nat) : (s.setRun v).eng i = s.eng i := by simp only [State.eng, State.setRun_tok]
@[simp] theorem State.setRun_mop (v : Option CkpRun) (i j : Nat) : (s.setRun v).mop i j = s.mop i j := by simp only [State.mop, State.setRun_mig]
@[simp] theorem State.setRun_dead (v : Option CkpRun) : (s.setRun v).dead = s.dead := by simp only [State.dead, State.setRun_pins]
@[simp] theorem State.setRun_fscSlot (v : Option CkpRun) (i : Nat) : (s.setRun v).fscSlot i = s.fscSlot i := by simp only [State.fscSlot, State.setRun_fsc]
@[simp] theorem State.setRun_al (v : Option CkpRun) (i : Nat) : (s.setRun v).al i = s.al i := by simp only [State.al, State.setRun_alloc]
@[simp] theorem State.setRun_ctl (v : Option CkpRun) (i : Nat) : (s.setRun v).ctl i = s.ctl i := by simp only [State.ctl, State.setRun_ctls]
@[simp] theorem State.setMember_pending (p : Nat) (v : Option CutMember) : (s.setMember p v).pending = s.pending := by simp only [State.setMember]
@[simp] theorem State.setMember_regs (p : Nat) (v : Option CutMember) : (s.setMember p v).regs = s.regs := by simp only [State.setMember]
@[simp] theorem State.setMember_tb (p : Nat) (v : Option CutMember) : (s.setMember p v).tb = s.tb := by simp only [State.setMember]
@[simp] theorem State.setMember_ev (p : Nat) (v : Option CutMember) : (s.setMember p v).ev = s.ev := by simp only [State.setMember]
@[simp] theorem State.setMember_prt (p : Nat) (v : Option CutMember) : (s.setMember p v).prt = s.prt := by simp only [State.setMember]
@[simp] theorem State.setMember_mem (p : Nat) (v : Option CutMember) : (s.setMember p v).mem = s.mem := by simp only [State.setMember]
@[simp] theorem State.setMember_ctls (p : Nat) (v : Option CutMember) : (s.setMember p v).ctls = s.ctls := by simp only [State.setMember]
@[simp] theorem State.setMember_alloc (p : Nat) (v : Option CutMember) : (s.setMember p v).alloc = s.alloc := by simp only [State.setMember]
@[simp] theorem State.setMember_ras (p : Nat) (v : Option CutMember) : (s.setMember p v).ras = s.ras := by simp only [State.setMember]
@[simp] theorem State.setMember_bridge (p : Nat) (v : Option CutMember) : (s.setMember p v).bridge = s.bridge := by simp only [State.setMember]
@[simp] theorem State.setMember_router (p : Nat) (v : Option CutMember) : (s.setMember p v).router = s.router := by simp only [State.setMember]
@[simp] theorem State.setMember_cores (p : Nat) (v : Option CutMember) : (s.setMember p v).cores = s.cores := by simp only [State.setMember]
@[simp] theorem State.setMember_clus (p : Nat) (v : Option CutMember) : (s.setMember p v).clus = s.clus := by simp only [State.setMember]
@[simp] theorem State.setMember_pins (p : Nat) (v : Option CutMember) : (s.setMember p v).pins = s.pins := by simp only [State.setMember]
@[simp] theorem State.setMember_sch (p : Nat) (v : Option CutMember) : (s.setMember p v).sch = s.sch := by simp only [State.setMember]
@[simp] theorem State.setMember_fab (p : Nat) (v : Option CutMember) : (s.setMember p v).fab = s.fab := by simp only [State.setMember]
@[simp] theorem State.setMember_links (p : Nat) (v : Option CutMember) : (s.setMember p v).links = s.links := by simp only [State.setMember]
@[simp] theorem State.setMember_hif (p : Nat) (v : Option CutMember) : (s.setMember p v).hif = s.hif := by simp only [State.setMember]
@[simp] theorem State.setMember_mig (p : Nat) (v : Option CutMember) : (s.setMember p v).mig = s.mig := by simp only [State.setMember]
@[simp] theorem State.setMember_tok (p : Nat) (v : Option CutMember) : (s.setMember p v).tok = s.tok := by simp only [State.setMember]
@[simp] theorem State.setMember_rstAt (p : Nat) (v : Option CutMember) : (s.setMember p v).rstAt = s.rstAt := by simp only [State.setMember]
@[simp] theorem State.setMember_fsc (p : Nat) (v : Option CutMember) : (s.setMember p v).fsc = s.fsc := by simp only [State.setMember]
@[simp] theorem State.setMember_pwr (p : Nat) (v : Option CutMember) : (s.setMember p v).pwr = s.pwr := by simp only [State.setMember]
@[simp] theorem State.setMember_nv (p : Nat) (v : Option CutMember) : (s.setMember p v).nv = s.nv := by simp only [State.setMember]
@[simp] theorem State.setMember_mgt (p : Nat) (v : Option CutMember) : (s.setMember p v).mgt = s.mgt := by simp only [State.setMember]
@[simp] theorem State.setMember_out (p : Nat) (v : Option CutMember) : (s.setMember p v).out = s.out := by simp only [State.setMember]
@[simp] theorem State.setMember_fresh (p : Nat) (v : Option CutMember) : (s.setMember p v).fresh = s.fresh := by simp only [State.setMember]
@[simp] theorem State.setMember_reg (p : Nat) (v : Option CutMember) (i : Nat) : (s.setMember p v).reg i = s.reg i := by simp only [State.reg, State.setMember_regs]
@[simp] theorem State.setMember_f (p : Nat) (v : Option CutMember) (pg' : Nat) (y : Fld) : (s.setMember p v).f pg' y = s.f pg' y := by simp only [State.f, State.setMember_reg]
@[simp] theorem State.setMember_w (p : Nat) (v : Option CutMember) (pg' o : Nat) : (s.setMember p v).w pg' o = s.w pg' o := by simp only [State.w, State.setMember_reg]
@[simp] theorem State.setMember_core (p : Nat) (v : Option CutMember) (i : Nat) : (s.setMember p v).core i = s.core i := by simp only [State.core, State.setMember_cores]
@[simp] theorem State.setMember_clu (p : Nat) (v : Option CutMember) (i : Nat) : (s.setMember p v).clu i = s.clu i := by simp only [State.clu, State.setMember_clus]
@[simp] theorem State.setMember_part (p : Nat) (v : Option CutMember) (i : Nat) : (s.setMember p v).part i = s.part i := by simp only [State.part, State.setMember_prt]
@[simp] theorem State.setMember_keySlot (p : Nat) (v : Option CutMember) (i : Nat) : (s.setMember p v).keySlot i = s.keySlot i := by simp only [State.keySlot, State.setMember_prt]
@[simp] theorem State.setMember_holderOf (p : Nat) (v : Option CutMember) (r i : Nat) : (s.setMember p v).holderOf r i = s.holderOf r i := by simp only [State.holderOf, State.setMember_prt]
@[simp] theorem State.setMember_sc (p : Nat) (v : Option CutMember) (i : Nat) : (s.setMember p v).sc i = s.sc i := by simp only [State.sc, State.setMember_sch]
@[simp] theorem State.setMember_slot (p : Nat) (v : Option CutMember) (i j : Nat) : (s.setMember p v).slot i j = s.slot i j := by simp only [State.slot, State.setMember_sc]
@[simp] theorem State.setMember_flow (p : Nat) (v : Option CutMember) (i j : Nat) : (s.setMember p v).flow i j = s.flow i j := by simp only [State.flow, State.setMember_sc]
@[simp] theorem State.setMember_qp (p : Nat) (v : Option CutMember) (i j : Nat) : (s.setMember p v).qp i j = s.qp i j := by simp only [State.qp, State.setMember_hif]
@[simp] theorem State.setMember_link (p : Nat) (v : Option CutMember) (i : Nat) : (s.setMember p v).link i = s.link i := by simp only [State.link, State.setMember_links]
@[simp] theorem State.setMember_eng (p : Nat) (v : Option CutMember) (i : Nat) : (s.setMember p v).eng i = s.eng i := by simp only [State.eng, State.setMember_tok]
@[simp] theorem State.setMember_mop (p : Nat) (v : Option CutMember) (i j : Nat) : (s.setMember p v).mop i j = s.mop i j := by simp only [State.mop, State.setMember_mig]
@[simp] theorem State.setMember_dead (p : Nat) (v : Option CutMember) : (s.setMember p v).dead = s.dead := by simp only [State.dead, State.setMember_pins]
@[simp] theorem State.setMember_fscSlot (p : Nat) (v : Option CutMember) (i : Nat) : (s.setMember p v).fscSlot i = s.fscSlot i := by simp only [State.fscSlot, State.setMember_fsc]
@[simp] theorem State.setMember_al (p : Nat) (v : Option CutMember) (i : Nat) : (s.setMember p v).al i = s.al i := by simp only [State.al, State.setMember_alloc]
@[simp] theorem State.setMember_ctl (p : Nat) (v : Option CutMember) (i : Nat) : (s.setMember p v).ctl i = s.ctl i := by simp only [State.ctl, State.setMember_ctls]
@[simp] theorem State.part_setPart_same (p : Nat) (v : Part) : (s.setPart p v).part p = v := by
  simp [State.part, State.setPart]
theorem State.part_setPart_ne (p : Nat) (v : Part) (j : Nat) (h : j ≠ p) : (s.setPart p v).part j = s.part j := by
  simp [State.part, State.setPart, SMap.get_put_ne _ _ _ _ _ _ h]
@[simp] theorem State.keySlot_setKeySlot_same (n : Nat) (v : KeySlot) : (s.setKeySlot n v).keySlot n = v := by
  simp [State.keySlot, State.setKeySlot]
theorem State.keySlot_setKeySlot_ne (n : Nat) (v : KeySlot) (j : Nat) (h : j ≠ n) : (s.setKeySlot n v).keySlot j = s.keySlot j := by
  simp [State.keySlot, State.setKeySlot, SMap.get_put_ne _ _ _ _ _ _ h]
@[simp] theorem State.ctl_setCtl_same (pg : Nat) (v : Ctl) : (s.setCtl pg v).ctl pg = v := by
  simp [State.ctl, State.setCtl]
theorem State.ctl_setCtl_ne (pg : Nat) (v : Ctl) (j : Nat) (h : j ≠ pg) : (s.setCtl pg v).ctl j = s.ctl j := by
  simp [State.ctl, State.setCtl, SMap.get_put_ne _ _ _ _ _ _ h]
@[simp] theorem State.al_setAl_same (p : Nat) (v : AllocSt) : (s.setAl p v).al p = v := by
  simp [State.al, State.setAl]
theorem State.al_setAl_ne (p : Nat) (v : AllocSt) (j : Nat) (h : j ≠ p) : (s.setAl p v).al j = s.al j := by
  simp [State.al, State.setAl, SMap.get_put_ne _ _ _ _ _ _ h]
@[simp] theorem State.core_setCore_same (c : Nat) (v : Core) : (s.setCore c v).core c = v := by
  simp [State.core, State.setCore]
theorem State.core_setCore_ne (c : Nat) (v : Core) (j : Nat) (h : j ≠ c) : (s.setCore c v).core j = s.core j := by
  simp [State.core, State.setCore, SMap.get_put_ne _ _ _ _ _ _ h]
@[simp] theorem State.clu_setClu_same (k : Nat) (v : Cluster) : (s.setClu k v).clu k = v := by
  simp [State.clu, State.setClu]
theorem State.clu_setClu_ne (k : Nat) (v : Cluster) (j : Nat) (h : j ≠ k) : (s.setClu k v).clu j = s.clu j := by
  simp [State.clu, State.setClu, SMap.get_put_ne _ _ _ _ _ _ h]
@[simp] theorem State.sc_setSc_same (p : Nat) (v : Sched) : (s.setSc p v).sc p = v := by
  simp [State.sc, State.setSc]
theorem State.sc_setSc_ne (p : Nat) (v : Sched) (j : Nat) (h : j ≠ p) : (s.setSc p v).sc j = s.sc j := by
  simp [State.sc, State.setSc, SMap.get_put_ne _ _ _ _ _ _ h]
@[simp] theorem State.link_setLink_same (l : Nat) (v : LinkSt) : (s.setLink l v).link l = v := by
  simp [State.link, State.setLink]
theorem State.link_setLink_ne (l : Nat) (v : LinkSt) (j : Nat) (h : j ≠ l) : (s.setLink l v).link j = s.link j := by
  simp [State.link, State.setLink, SMap.get_put_ne _ _ _ _ _ _ h]
@[simp] theorem State.fscSlot_setFsc_same (i : Nat) (v : FscSlot) : (s.setFsc i v).fscSlot i = v := by
  simp [State.fscSlot, State.setFsc]
theorem State.fscSlot_setFsc_ne (i : Nat) (v : FscSlot) (j : Nat) (h : j ≠ i) : (s.setFsc i v).fscSlot j = s.fscSlot j := by
  simp [State.fscSlot, State.setFsc, SMap.get_put_ne _ _ _ _ _ _ h]
@[simp] theorem State.eng_setEng_same (e : Nat) (v : TokEng) : (s.setEng e v).eng e = v := by
  simp [State.eng, State.setEng]
theorem State.eng_setEng_ne (e : Nat) (v : TokEng) (j : Nat) (h : j ≠ e) : (s.setEng e v).eng j = s.eng j := by
  simp [State.eng, State.setEng, SMap.get_put_ne _ _ _ _ _ _ h]
@[simp] theorem State.msix_setMsix_same (fn : Nat) (v : Msix) : (s.setMsix fn v).msix fn = v := by
  simp [State.msix, State.setMsix]
theorem State.msix_setMsix_ne (fn : Nat) (v : Msix) (j : Nat) (h : j ≠ fn) : (s.setMsix fn v).msix j = s.msix j := by
  simp [State.msix, State.setMsix, SMap.get_put_ne _ _ _ _ _ _ h]
@[simp] theorem State.mop_setMop_same (p n : Nat) (v : MigOp) : (s.setMop p n v).mop p n = v := by
  simp [State.mop, State.setMop]
theorem State.mop_setMop_ne (p n : Nat) (v : MigOp) (j i : Nat) (h : j * 65536 + i ≠ p * 65536 + n) : (s.setMop p n v).mop j i = s.mop j i := by
  simp [State.mop, State.setMop, SMap.get_put_ne _ _ _ _ _ _ h]
@[simp] theorem State.qp_setQp_same (p q : Nat) (v : Qp) : (s.setQp p q v).qp p q = v := by
  simp [State.qp, State.setQp]
theorem State.qp_setQp_ne (p q : Nat) (v : Qp) (j i : Nat) (h : j * 4 + i ≠ p * 4 + q) : (s.setQp p q v).qp j i = s.qp j i := by
  simp [State.qp, State.setQp, SMap.get_put_ne _ _ _ _ _ _ h]
@[simp] theorem State.slot_setSlot_same (p n : Nat) (v : OpSlot) : (s.setSlot p n v).slot p n = v := by
  simp [State.slot, State.setSlot]
theorem State.slot_setSlot_ne (p n j i : Nat) (v : OpSlot) (h : j ≠ p ∨ i ≠ n) :
    (s.setSlot p n v).slot j i = s.slot j i := by
  by_cases hj : j = p
  · subst hj
    have hi : i ≠ n := by
      cases h with
      | inl h => exact absurd rfl h
      | inr h => exact h
    simp [State.slot, State.setSlot, SMap.get_put_ne _ _ _ _ _ _ hi]
  · simp [State.slot, State.setSlot, State.sc_setSc_ne _ _ _ _ hj]
@[simp] theorem State.flow_setFlow_same (p n : Nat) (v : Flow) : (s.setFlow p n v).flow p n = v := by
  simp [State.flow, State.setFlow]
@[simp] theorem State.tq_setTq_same (c q : Nat) (v : Tq) : (s.setTq c q v).tq c q = v := by
  simp [State.tq, State.setTq, Core.tq, Core.setTq]
@[simp] theorem State.flow_setSlot (p n j i : Nat) (v : OpSlot) : (s.setSlot p n v).flow j i = s.flow j i := by
  by_cases hj : j = p
  · subst hj; simp [State.flow, State.setSlot]
  · simp [State.flow, State.setSlot, State.sc_setSc_ne _ _ _ _ hj]
@[simp] theorem State.mk_reg (u : State) {x0 x2 x3 x4 x5 x6 x7 x8 x9 x10 x11 x12 x13 x14 x15 x16 x17 x18 x19 x20 x21 x22 x23 x24 x25 x26 x27} (i : Nat) :
    (State.mk x0 u.regs x2 x3 x4 x5 x6 x7 x8 x9 x10 x11 x12 x13 x14 x15 x16 x17 x18 x19 x20 x21 x22 x23 x24 x25 x26 x27).reg i = u.reg i := by
  simp only [State.reg]
@[simp] theorem State.mk_f (u : State) {x0 x2 x3 x4 x5 x6 x7 x8 x9 x10 x11 x12 x13 x14 x15 x16 x17 x18 x19 x20 x21 x22 x23 x24 x25 x26 x27} (pg' : Nat) (y : Fld) :
    (State.mk x0 u.regs x2 x3 x4 x5 x6 x7 x8 x9 x10 x11 x12 x13 x14 x15 x16 x17 x18 x19 x20 x21 x22 x23 x24 x25 x26 x27).f pg' y = u.f pg' y := by
  simp only [State.f, State.reg]
@[simp] theorem State.mk_w (u : State) {x0 x2 x3 x4 x5 x6 x7 x8 x9 x10 x11 x12 x13 x14 x15 x16 x17 x18 x19 x20 x21 x22 x23 x24 x25 x26 x27} (pg' o : Nat) :
    (State.mk x0 u.regs x2 x3 x4 x5 x6 x7 x8 x9 x10 x11 x12 x13 x14 x15 x16 x17 x18 x19 x20 x21 x22 x23 x24 x25 x26 x27).w pg' o = u.w pg' o := by
  simp only [State.w, State.reg]
@[simp] theorem State.mk_core (u : State) {x0 x1 x2 x3 x4 x5 x6 x7 x8 x9 x10 x12 x13 x14 x15 x16 x17 x18 x19 x20 x21 x22 x23 x24 x25 x26 x27} (i : Nat) :
    (State.mk x0 x1 x2 x3 x4 x5 x6 x7 x8 x9 x10 u.cores x12 x13 x14 x15 x16 x17 x18 x19 x20 x21 x22 x23 x24 x25 x26 x27).core i = u.core i := by
  simp only [State.core]
@[simp] theorem State.mk_clu (u : State) {x0 x1 x2 x3 x4 x5 x6 x7 x8 x9 x10 x11 x13 x14 x15 x16 x17 x18 x19 x20 x21 x22 x23 x24 x25 x26 x27} (i : Nat) :
    (State.mk x0 x1 x2 x3 x4 x5 x6 x7 x8 x9 x10 x11 u.clus x13 x14 x15 x16 x17 x18 x19 x20 x21 x22 x23 x24 x25 x26 x27).clu i = u.clu i := by
  simp only [State.clu]
@[simp] theorem State.mk_part (u : State) {x0 x1 x2 x3 x5 x6 x7 x8 x9 x10 x11 x12 x13 x14 x15 x16 x17 x18 x19 x20 x21 x22 x23 x24 x25 x26 x27} (i : Nat) :
    (State.mk x0 x1 x2 x3 u.prt x5 x6 x7 x8 x9 x10 x11 x12 x13 x14 x15 x16 x17 x18 x19 x20 x21 x22 x23 x24 x25 x26 x27).part i = u.part i := by
  simp only [State.part]
@[simp] theorem State.mk_keySlot (u : State) {x0 x1 x2 x3 x5 x6 x7 x8 x9 x10 x11 x12 x13 x14 x15 x16 x17 x18 x19 x20 x21 x22 x23 x24 x25 x26 x27} (i : Nat) :
    (State.mk x0 x1 x2 x3 u.prt x5 x6 x7 x8 x9 x10 x11 x12 x13 x14 x15 x16 x17 x18 x19 x20 x21 x22 x23 x24 x25 x26 x27).keySlot i = u.keySlot i := by
  simp only [State.keySlot]
@[simp] theorem State.mk_holderOf (u : State) {x0 x1 x2 x3 x5 x6 x7 x8 x9 x10 x11 x12 x13 x14 x15 x16 x17 x18 x19 x20 x21 x22 x23 x24 x25 x26 x27} (r i : Nat) :
    (State.mk x0 x1 x2 x3 u.prt x5 x6 x7 x8 x9 x10 x11 x12 x13 x14 x15 x16 x17 x18 x19 x20 x21 x22 x23 x24 x25 x26 x27).holderOf r i = u.holderOf r i := by
  simp only [State.holderOf]
@[simp] theorem State.mk_sc (u : State) {x0 x1 x2 x3 x4 x5 x6 x7 x8 x9 x10 x11 x12 x13 x15 x16 x17 x18 x19 x20 x21 x22 x23 x24 x25 x26 x27} (i : Nat) :
    (State.mk x0 x1 x2 x3 x4 x5 x6 x7 x8 x9 x10 x11 x12 x13 u.sch x15 x16 x17 x18 x19 x20 x21 x22 x23 x24 x25 x26 x27).sc i = u.sc i := by
  simp only [State.sc]
@[simp] theorem State.mk_slot (u : State) {x0 x1 x2 x3 x4 x5 x6 x7 x8 x9 x10 x11 x12 x13 x15 x16 x17 x18 x19 x20 x21 x22 x23 x24 x25 x26 x27} (i j : Nat) :
    (State.mk x0 x1 x2 x3 x4 x5 x6 x7 x8 x9 x10 x11 x12 x13 u.sch x15 x16 x17 x18 x19 x20 x21 x22 x23 x24 x25 x26 x27).slot i j = u.slot i j := by
  simp only [State.slot, State.sc]
@[simp] theorem State.mk_flow (u : State) {x0 x1 x2 x3 x4 x5 x6 x7 x8 x9 x10 x11 x12 x13 x15 x16 x17 x18 x19 x20 x21 x22 x23 x24 x25 x26 x27} (i j : Nat) :
    (State.mk x0 x1 x2 x3 x4 x5 x6 x7 x8 x9 x10 x11 x12 x13 u.sch x15 x16 x17 x18 x19 x20 x21 x22 x23 x24 x25 x26 x27).flow i j = u.flow i j := by
  simp only [State.flow, State.sc]
@[simp] theorem State.mk_qp (u : State) {x0 x1 x2 x3 x4 x5 x6 x7 x8 x9 x10 x11 x12 x13 x14 x15 x16 x18 x19 x20 x21 x22 x23 x24 x25 x26 x27} (i j : Nat) :
    (State.mk x0 x1 x2 x3 x4 x5 x6 x7 x8 x9 x10 x11 x12 x13 x14 x15 x16 u.hif x18 x19 x20 x21 x22 x23 x24 x25 x26 x27).qp i j = u.qp i j := by
  simp only [State.qp]
@[simp] theorem State.mk_link (u : State) {x0 x1 x2 x3 x4 x5 x6 x7 x8 x9 x10 x11 x12 x13 x14 x15 x17 x18 x19 x20 x21 x22 x23 x24 x25 x26 x27} (i : Nat) :
    (State.mk x0 x1 x2 x3 x4 x5 x6 x7 x8 x9 x10 x11 x12 x13 x14 x15 u.links x17 x18 x19 x20 x21 x22 x23 x24 x25 x26 x27).link i = u.link i := by
  simp only [State.link]
@[simp] theorem State.mk_eng (u : State) {x0 x1 x2 x3 x4 x5 x6 x7 x8 x9 x10 x11 x12 x13 x14 x15 x16 x17 x18 x20 x21 x22 x23 x24 x25 x26 x27} (i : Nat) :
    (State.mk x0 x1 x2 x3 x4 x5 x6 x7 x8 x9 x10 x11 x12 x13 x14 x15 x16 x17 x18 u.tok x20 x21 x22 x23 x24 x25 x26 x27).eng i = u.eng i := by
  simp only [State.eng]
@[simp] theorem State.mk_mop (u : State) {x0 x1 x2 x3 x4 x5 x6 x7 x8 x9 x10 x11 x12 x13 x14 x15 x16 x17 x19 x20 x21 x22 x23 x24 x25 x26 x27} (i j : Nat) :
    (State.mk x0 x1 x2 x3 x4 x5 x6 x7 x8 x9 x10 x11 x12 x13 x14 x15 x16 x17 u.mig x19 x20 x21 x22 x23 x24 x25 x26 x27).mop i j = u.mop i j := by
  simp only [State.mop]
@[simp] theorem State.mk_dead (u : State) {x0 x1 x2 x3 x4 x5 x6 x7 x8 x9 x10 x11 x12 x14 x15 x16 x17 x18 x19 x20 x21 x22 x23 x24 x25 x26 x27} :
    (State.mk x0 x1 x2 x3 x4 x5 x6 x7 x8 x9 x10 x11 x12 u.pins x14 x15 x16 x17 x18 x19 x20 x21 x22 x23 x24 x25 x26 x27).dead = u.dead := by
  simp only [State.dead]
@[simp] theorem State.mk_fscSlot (u : State) {x0 x1 x2 x3 x4 x5 x6 x7 x8 x9 x10 x11 x12 x13 x14 x15 x16 x17 x18 x19 x20 x21 x23 x24 x25 x26 x27} (i : Nat) :
    (State.mk x0 x1 x2 x3 x4 x5 x6 x7 x8 x9 x10 x11 x12 x13 x14 x15 x16 x17 x18 x19 x20 x21 u.fsc x23 x24 x25 x26 x27).fscSlot i = u.fscSlot i := by
  simp only [State.fscSlot]
@[simp] theorem State.mk_al (u : State) {x0 x1 x2 x3 x4 x5 x6 x8 x9 x10 x11 x12 x13 x14 x15 x16 x17 x18 x19 x20 x21 x22 x23 x24 x25 x26 x27} (i : Nat) :
    (State.mk x0 x1 x2 x3 x4 x5 x6 u.alloc x8 x9 x10 x11 x12 x13 x14 x15 x16 x17 x18 x19 x20 x21 x22 x23 x24 x25 x26 x27).al i = u.al i := by
  simp only [State.al]
@[simp] theorem State.mk_ctl (u : State) {x0 x1 x2 x3 x4 x5 x7 x8 x9 x10 x11 x12 x13 x14 x15 x16 x17 x18 x19 x20 x21 x22 x23 x24 x25 x26 x27} (i : Nat) :
    (State.mk x0 x1 x2 x3 x4 x5 u.ctls x7 x8 x9 x10 x11 x12 x13 x14 x15 x16 x17 x18 x19 x20 x21 x22 x23 x24 x25 x26 x27).ctl i = u.ctl i := by
  simp only [State.ctl]

end Sys2Proof.Machine
end

