-- ==== Sys2Proof/Laws/Frame.lean ====
section
/-! SUPPORT.  What the shared operations over registers, errors and events leave alone: only the registers
named, and the records waiting at the event arbiter. -/

namespace Sys2Proof.Machine

variable {ks js : List Nat} {s t u : State}

theorem OnlyRegs.refl (ks : List Nat) (s : State) : OnlyRegs ks s s := ⟨rfl, fun _ _ => rfl⟩

theorem OnlyRegs.reg_eq (h : OnlyRegs ks s t) {k : Nat} (hk : k ∉ ks) : t.reg k = s.reg k := h.2 k hk

theorem OnlyRegs.f_eq (h : OnlyRegs ks s t) {pg : Nat} {y : Fld} (hk : pg * 4096 + y.ofs ∉ ks) : t.f pg y = s.f pg y := by
  simp only [State.f, h.2 _ hk]

theorem OnlyRegs.mono (h : OnlyRegs ks s t) (hs : ∀ k, k ∈ ks → k ∈ js) : OnlyRegs js s t :=
  ⟨h.1, fun k hk => h.2 k (fun hm => hk (hs k hm))⟩

theorem OnlyRegs.ev (h : OnlyRegs ks s t) : OnlyRegsEv ks s t := by
  refine ⟨?_, h.2⟩
  obtain ⟨h1, _⟩ := h
  cases s; cases t
  simp only [State.mk.injEq] at h1 ⊢
  simp_all

theorem OnlyRegs.setReg (h : OnlyRegs ks s t) (k : Nat) (v : Word) (hk : k ∈ ks) : OnlyRegs ks s (t.setReg k v) := by
  refine ⟨?_, fun j hj => ?_⟩
  · have := h.1
    simp only [State.setReg]
    exact this
  · rw [State.reg_setReg_ne _ _ _ _ (fun e => hj (by rw [e]; exact hk))]
    exact h.2 j hj

theorem OnlyRegs.setF (h : OnlyRegs ks s t) (pg : Nat) (x : Fld) (v : Nat) (hk : pg * 4096 + x.ofs ∈ ks) :
    OnlyRegs ks s (t.setF pg x v) := h.setReg _ _ hk

theorem OnlyRegs.setW (h : OnlyRegs ks s t) (pg ofs v : Nat) (hk : pg * 4096 + ofs ∈ ks) :
    OnlyRegs ks s (t.setW pg ofs v) := h.setReg _ _ hk

theorem OnlyRegs.addF (h : OnlyRegs ks s t) (pg : Nat) (x : Fld) (v : Nat) (hk : pg * 4096 + x.ofs ∈ ks) :
    OnlyRegs ks s (t.addF pg x v) := h.setReg _ _ hk

theorem OnlyRegs.setW64 (h : OnlyRegs ks s t) (pg lo hi v : Nat) (hk : pg * 4096 + lo ∈ ks)
    (hk' : pg * 4096 + hi ∈ ks) : OnlyRegs ks s (t.setW64 pg lo hi v) := (h.setW _ _ _ hk).setW _ _ _ hk'

theorem OnlyRegs.add64 (h : OnlyRegs ks s t) (pg lo hi v : Nat) (hk : pg * 4096 + lo ∈ ks)
    (hk' : pg * 4096 + hi ∈ ks) : OnlyRegs ks s (t.add64 pg lo hi v) := h.setW64 _ _ _ _ hk hk'

theorem OnlyRegsEv.refl (ks : List Nat) (s : State) : OnlyRegsEv ks s s := ⟨rfl, fun _ _ => rfl⟩

theorem OnlyRegsEv.f_eq (h : OnlyRegsEv ks s t) {pg : Nat} {y : Fld} (hk : pg * 4096 + y.ofs ∉ ks) :
    t.f pg y = s.f pg y := by
  simp only [State.f, h.2 _ hk]

theorem OnlyRegsEv.mono (h : OnlyRegsEv ks s t) (hs : ∀ k, k ∈ ks → k ∈ js) : OnlyRegsEv js s t :=
  ⟨h.1, fun k hk => h.2 k (fun hm => hk (hs k hm))⟩

theorem OnlyRegsEv.setReg (h : OnlyRegsEv ks s t) (k : Nat) (v : Word) (hk : k ∈ ks) :
    OnlyRegsEv ks s (t.setReg k v) := by
  refine ⟨?_, fun j hj => ?_⟩
  · have := h.1
    simp only [State.setReg]
    exact this
  · rw [State.reg_setReg_ne _ _ _ _ (fun e => hj (by rw [e]; exact hk))]
    exact h.2 j hj

theorem OnlyRegsEv.setF (h : OnlyRegsEv ks s t) (pg : Nat) (x : Fld) (v : Nat) (hk : pg * 4096 + x.ofs ∈ ks) :
    OnlyRegsEv ks s (t.setF pg x v) := h.setReg _ _ hk

theorem OnlyRegsEv.setW (h : OnlyRegsEv ks s t) (pg ofs v : Nat) (hk : pg * 4096 + ofs ∈ ks) :
    OnlyRegsEv ks s (t.setW pg ofs v) := h.setReg _ _ hk

theorem OnlyRegsEv.addF (h : OnlyRegsEv ks s t) (pg : Nat) (x : Fld) (v : Nat) (hk : pg * 4096 + x.ofs ∈ ks) :
    OnlyRegsEv ks s (t.addF pg x v) := h.setReg _ _ hk

theorem OnlyRegsEv.setW64 (h : OnlyRegsEv ks s t) (pg lo hi v : Nat) (hk : pg * 4096 + lo ∈ ks)
    (hk' : pg * 4096 + hi ∈ ks) : OnlyRegsEv ks s (t.setW64 pg lo hi v) := (h.setW _ _ _ hk).setW _ _ _ hk'

theorem OnlyRegsEv.add64 (h : OnlyRegsEv ks s t) (pg lo hi v : Nat) (hk : pg * 4096 + lo ∈ ks)
    (hk' : pg * 4096 + hi ∈ ks) : OnlyRegsEv ks s (t.add64 pg lo hi v) := h.setW64 _ _ _ _ hk hk'

/-- A record that joins the arbiter's changes nothing else. -/
theorem OnlyRegsEv.emitRec (h : OnlyRegsEv ks s t) (r : EvRec) : OnlyRegsEv ks s (emitRec r t) := ⟨h.1, h.2⟩

theorem OnlyRegsEv.perfOwn (h : OnlyRegsEv ks s t) (pg code n own : Nat) (hk : ∀ k, k ∈ noted pg → k ∈ ks) :
    OnlyRegsEv ks s (perfOwn pg code n own t) := by
  unfold Machine.perfOwn
  dsimp only
  split
  · exact h.add64 _ _ _ _ (hk _ (by simp [noted])) (hk _ (by simp [noted]))
  · exact h

theorem OnlyRegsEv.perf (h : OnlyRegsEv ks s t) (pg code n : Nat) (hk : ∀ k, k ∈ noted pg → k ∈ ks) :
    OnlyRegsEv ks s (perf pg code n t) := h.perfOwn _ _ _ _ hk

/-- An error that is logged changes five header registers of its page, and may send a record. -/
theorem OnlyRegsEv.logErr (h : OnlyRegsEv ks s t) (pg code subj detail aux : Nat) (hk : ∀ k, k ∈ noted pg → k ∈ ks) :
    OnlyRegsEv ks s (logErr pg code subj detail aux t) := by
  have hm : ∀ x, pg * 4096 + x ∈ noted pg → pg * 4096 + x ∈ ks := fun x hx => hk _ hx
  have e1 : pg * 4096 + F.PG_ERR_CNT_CNT.ofs ∈ ks := hm _ (by simp [noted])
  have e2 : pg * 4096 + F.PG_ERR_CNT_LAST.ofs ∈ ks := hm _ (by simp [noted])
  have e3 : pg * 4096 + F.PG_EVT_PEND_ERR.ofs ∈ ks := hm _ (by simp [noted])
  have e4 : pg * 4096 + F.PG_ERR_FIRST_CODE.ofs ∈ ks := hm _ (by simp [noted])
  have e5 : pg * 4096 + F.PG_ERR_FIRST_SUBJ.ofs ∈ ks := hm _ (by simp [noted])
  have e6 : pg * 4096 + F.PG_ERR_FIRST_VALID.ofs ∈ ks := hm _ (by simp [noted])
  unfold Machine.logErr
  dsimp only
  have base := h.perf pg 0x02 1 hk
  repeat' (first | with_reducible assumption | with_reducible apply OnlyRegsEv.emitRec | with_reducible apply OnlyRegsEv.setF | with_reducible apply OnlyRegsEv.addF | split)

theorem OnlyRegsEv.logInfo (h : OnlyRegsEv ks s t) (pg code subj detail aux : Nat) :
    OnlyRegsEv ks s (logInfo pg code subj detail aux t) := h.emitRec _

theorem OnlyRegsEv.pendSet (h : OnlyRegsEv ks s t) (pg b : Nat) (hk : ∀ k, k ∈ noted pg → k ∈ ks) :
    OnlyRegsEv ks s (pendSet pg b t) := by
  unfold Machine.pendSet
  dsimp only
  have e : pg * 4096 + R.PG_EVT_PEND ∈ ks := hk _ (by simp [noted])
  split
  · exact h
  · split
    · exact (h.setW _ _ _ e).emitRec _
    · exact h.setW _ _ _ e

theorem OnlyRegsEv.forUp (f : Nat → State → State) (hf : ∀ n t, OnlyRegsEv ks s t → OnlyRegsEv ks s (f n t))
    (n i : Nat) (t : State) (h : OnlyRegsEv ks s t) : OnlyRegsEv ks s (forUp f n i t) := by
  induction n generalizing i t with
  | zero => exact h
  | succ n ih => exact ih _ _ (hf _ _ h)

theorem OnlyRegsEv.forEach {α : Type} (f : α → State → State)
    (hf : ∀ a t, OnlyRegsEv ks s t → OnlyRegsEv ks s (f a t)) (l : List α) (t : State) (h : OnlyRegsEv ks s t) :
    OnlyRegsEv ks s (forEach f l t) := by
  induction l generalizing t with
  | nil => exact h
  | cons a l ih => exact ih _ (hf _ _ h)

/-- The event edges of a page change PG_EVT_PEND and may send records. -/
theorem OnlyRegsEv.edges (h : OnlyRegsEv ks s t) (pg old : Nat) (hk : ∀ k, k ∈ noted pg → k ∈ ks) :
    OnlyRegsEv ks s (edges pg old t) := by
  refine OnlyRegsEv.forUp _ (fun b u hu => ?_) _ _ _ h
  split
  · exact hu.pendSet _ _ hk
  · exact hu

/-- What happens with the event edges of its pages changes what it changes, and what edges change. -/
theorem OnlyRegsEv.happen (pgs : List Nat) (k : State → State) (u : State) (h : OnlyRegsEv ks s (k u))
    (hk : ∀ p ∈ pgs, ∀ j, j ∈ noted p → j ∈ ks) : OnlyRegsEv ks s (happen pgs k u) := by
  unfold Machine.happen
  generalize k u = v at h
  induction pgs generalizing v with
  | nil => exact h
  | cons p ps ih =>
    exact ih (fun q hq => hk q (List.mem_cons_of_mem _ hq)) _ (h.edges _ _ (hk p List.mem_cons_self))

/-- A refused write changes the page's WREJ registers and logs. -/
theorem OnlyRegsEv.refuse (h : OnlyRegsEv ks s t) (m pg ofs code : Nat) (hk : ∀ k, k ∈ refusedRegs pg → k ∈ ks) :
    OnlyRegsEv ks s (refuse m pg ofs code t) := by
  have hn : ∀ k, k ∈ noted pg → k ∈ ks := fun k hm => hk k (by simp [refusedRegs, hm])
  have e1 : pg * 4096 + F.PG_WREJ_OFS_OFS.ofs ∈ ks := hk _ (by simp [refusedRegs])
  have e2 : pg * 4096 + F.PG_WREJ_OFS_OWNER.ofs ∈ ks := hk _ (by simp [refusedRegs])
  have e3 : pg * 4096 + F.PG_WREJ_OFS_CODE.ofs ∈ ks := hk _ (by simp [refusedRegs])
  have e4 : pg * 4096 + F.PG_STS_WREJ.ofs ∈ ks := hk _ (by simp [refusedRegs])
  unfold Machine.refuse
  dsimp only
  have base := h.perf pg 0x03 1 hn
  repeat' (first | with_reducible assumption | with_reducible apply OnlyRegsEv.logErr | with_reducible apply OnlyRegsEv.pendSet | with_reducible apply OnlyRegsEv.setF | split)

/-! ## What an error logged reads as -/

@[simp] theorem emitRec_reg (r : EvRec) (s : State) (k : Nat) : (emitRec r s).reg k = s.reg k := by
  simp only [State.reg, Machine.emitRec]

@[simp] theorem emitRec_f (r : EvRec) (s : State) (pg : Nat) (y : Fld) : (emitRec r s).f pg y = s.f pg y := by
  simp only [State.f, emitRec_reg]

theorem logErr_f (pg code subj detail aux : Nat) (s : State) (pg' : Nat) (y : Fld)
    (h : pg' * 4096 + y.ofs ∉ noted pg) : (logErr pg code subj detail aux s).f pg' y = s.f pg' y :=
  ((OnlyRegsEv.refl (noted pg) s).logErr pg code subj detail aux (fun _ h => h)).f_eq h

theorem logErr_f_page (pg code subj detail aux : Nat) (s : State) (pg' : Nat) (y : Fld) (d : pg' ≠ pg)
    (hy : y.ofs < 4096) : (logErr pg code subj detail aux s).f pg' y = s.f pg' y := by
  apply logErr_f
  simp only [noted, List.mem_cons, List.not_mem_nil, or_false, R.PG_EVT_PEND, R.PG_ERR_FIRST, R.PG_ERR_CNT,
    R.PG_PERF_VAL_LO, R.PG_PERF_VAL_HI]
  omega

theorem logErr_f_high (pg code subj detail aux : Nat) (s : State) (y : Fld) (hy : 0x44 ≤ y.ofs) :
    (logErr pg code subj detail aux s).f pg y = s.f pg y := by
  apply logErr_f
  simp only [noted, List.mem_cons, List.not_mem_nil, or_false, R.PG_EVT_PEND, R.PG_ERR_FIRST, R.PG_ERR_CNT,
    R.PG_PERF_VAL_LO, R.PG_PERF_VAL_HI]
  omega

/-- An error logged is the page's last code, and its PEND bit is set. -/
theorem logErr_fields (pg code subj detail aux : Nat) (s : State) :
    (logErr pg code subj detail aux s).f pg F.PG_ERR_CNT_LAST = code % 256 ∧
      (logErr pg code subj detail aux s).f pg F.PG_EVT_PEND_ERR = 1 := by
  unfold Machine.logErr
  dsimp only
  constructor
  · repeat' split
    all_goals
      try simp only [emitRec_f]
      repeat rw [State.f_setF_other _ _ _ _ _ (by decide) (by decide) (by decide)]
      rw [State.f_setF_same _ _ _ _ (by decide) (by decide)]
      rfl
  · repeat' split
    all_goals
      try simp only [emitRec_f]
      repeat rw [State.f_setF_other _ _ _ _ _ (by decide) (by decide) (by decide)]
      rw [State.f_setF_same _ _ _ _ (by decide) (by decide)]
      rfl

/-! ## Outcomes -/

theorem run_live {pgs : List Nat} {k : State → State} (h : s.dead = false) :
    run pgs s k = .next (happen pgs k s) := by simp [run, h]

@[simp] theorem happen_nil (k : State → State) (s : State) : happen [] k s = k s := rfl

theorem goes_run {c : Instr} {P : State → Prop} {pgs : List Nat} {k : State → State}
    (h : exec c s = run pgs s k) (hd : s.dead = false) (hp : P (happen pgs k s)) : Goes c s P :=
  ⟨_, h.trans (run_live hd), hp⟩

end Sys2Proof.Machine
end

