-- ==== Sys2Proof/Laws/All.lean ====
section
/-! SUPPORT.  All of the laws under one name. -/
end

