-- ==== Sys2Proof/Laws/Bulk.lean ====
section
/-! SUPPORT.  What a bulk read or write does where every request of it is granted, no line is poisoned and nothing finds
an error: it succeeds; a read delivers the bytes that stand there and changes its controllers' windows alone, and a
write of unmarked bytes changes memory and the windows and nothing else (R135, R174, R213). -/

namespace Sys2Proof.Machine

/-- No line of memory is poisoned. -/
def State.clean (s : State) : Prop := ∀ k, (s.line k).poison = false

/-- From `s` to `t` only memory and the controllers have changed, no line is poisoned, and no access waits that did
not. -/
def Stored (s t : State) : Prop := t = { s with mem := t.mem, ctls := t.ctls } ∧ t.clean ∧ t.mem.wait = s.mem.wait

theorem Stored.refl {s : State} (h : s.clean) : Stored s s := ⟨rfl, h, rfl⟩

theorem Stored.trans {s t u : State} (h : Stored s t) (k : Stored t u) : Stored s u := by
  refine ⟨?_, k.2.1, k.2.2.trans h.2.2⟩
  rw [k.1, h.1]

theorem line_put (s : State) (k j : Nat) (l : Line) (h : l.poison = false) (c : s.clean) :
    (SMap.get (SMap.put s.mem.lines (k / 64 * 64) l {}) (j / 64 * 64) {} : Line).poison = false := by
  by_cases e : j / 64 * 64 = k / 64 * 64
  · rw [e, SMap.get_put_same]; exact h
  · rw [SMap.get_put_ne _ _ _ _ _ _ e]; exact c j

theorem storeByte_stored (slot k : Nat) (b : Byte) (s : State) (c : s.clean) : Stored s (storeByte slot k b s) := by
  refine ⟨rfl, fun j => ?_, rfl⟩
  refine line_put s k j _ ?_ c
  dsimp only
  split
  · exact c k
  · exact c k

theorem storeBytes_stored (slot : Nat) : ∀ (bs : List Byte) (k : Nat) (s : State), s.clean → Stored s (storeBytes slot k bs s)
  | [], _, _, c => .refl c
  | b :: bs, k, s, c =>
    have h := storeByte_stored slot k b s c
    h.trans (storeBytes_stored slot bs (k + 1) _ h.2.1)

theorem setPoison_stored (k : Nat) (s : State) (c : s.clean) : Stored s (setPoison k false s) :=
  ⟨rfl, fun j => line_put s k j _ rfl c, rfl⟩

theorem writeChunk_stored (slot tier addr : Nat) (data : List (Byte × Bool)) (s : State) (c : s.clean)
    (h : data.any (·.2) = false) : (writeChunk slot tier addr data s).1 = 0 ∧ Stored s (writeChunk slot tier addr data s).2 := by
  unfold writeChunk
  rw [h]
  dsimp only
  rw [if_neg (by decide)]
  split
  · have k := storeBytes_stored slot (data.map (·.1)) (memKey tier addr) s c
    exact ⟨rfl, k.trans (setPoison_stored _ _ k.2.1)⟩
  · rw [c (memKey tier addr), if_neg (by decide)]
    exact ⟨rfl, storeBytes_stored slot _ _ s c⟩

theorem any_take_drop {d : List (Byte × Bool)} (h : d.any (·.2) = false) (n : Nat) :
    (d.take n).any (·.2) = false ∧ (d.drop n).any (·.2) = false := by
  rw [← List.take_append_drop n d, List.any_append, Bool.or_eq_false_iff] at h
  exact h

theorem lineChunks_unmarked : ∀ (fuel addr : Nat) (d : List (Byte × Bool)), d.any (·.2) = false →
    ∀ c ∈ lineChunks addr d fuel, c.2.any (·.2) = false
  | 0, _, _, _, _, hc => nomatch hc
  | fuel + 1, addr, d, h, c, hc => by
    unfold lineChunks at hc
    split at hc
    · exact nomatch hc
    · dsimp only at hc
      rcases List.mem_cons.1 hc with rfl | hc
      · exact (any_take_drop h _).1
      · exact lineChunks_unmarked fuel _ _ (any_take_drop h _).2 c hc

theorem writeChunks_stored (slot tier : Nat) : ∀ (cs : List (Nat × List (Byte × Bool))) (s : State), s.clean →
    (∀ c ∈ cs, c.2.any (·.2) = false) →
    (writeChunks slot tier cs (0, s)).1 = 0 ∧ Stored s (writeChunks slot tier cs (0, s)).2
  | [], _, c, _ => ⟨rfl, .refl c⟩
  | x :: xs, s, c, h => by
    have k := writeChunk_stored slot tier x.1 x.2 s c (h x (.head _))
    have n := writeChunks_stored slot tier xs _ k.2.2.1 (fun y hy => h y (.tail _ hy))
    have e : writeChunks slot tier (x :: xs) (0, s) = writeChunks slot tier xs (0, (writeChunk slot tier x.1 x.2 s).2) := by
      show writeChunks slot tier xs (if (0 : Nat) = 0 then (writeChunk slot tier x.1 x.2 s).1 else 0, _) = _
      rw [if_pos rfl, k.1]
    rw [e]
    exact ⟨n.1, k.2.trans n.2⟩

theorem perfOwn_off (pg code n own : Nat) (s : State) (h : s.f pg F.PG_PERF_SEL_RUN = 0) : perfOwn pg code n own s = s := by
  unfold perfOwn
  rw [h]
  exact if_neg (fun x => nomatch x.1)

theorem account_stored (own tier addr len cls : Nat) (s : State) (c : s.clean)
    (h : s.f (tierCtl tier addr) F.PG_PERF_SEL_RUN = 0) : Stored s (account own tier addr len cls s) := by
  have k (t : Ctl) : Stored s (s.setCtl (tierCtl tier addr) t) := ⟨rfl, c, rfl⟩
  unfold account
  dsimp only
  generalize hu : s.setCtl (tierCtl tier addr) _ = u
  have hu' : Stored s u := hu ▸ k _
  have hf : u.f (tierCtl tier addr) F.PG_PERF_SEL_RUN = 0 := by rw [hu'.1]; exact h
  rw [perfOwn_off _ _ _ _ _ hf, perfOwn_off _ _ _ _ _ hf, perfOwn_off _ _ _ _ _ hf]
  split <;> exact hu'

/-- A write whose request is granted, and whose controller counts nothing. -/
theorem memWrite_stored (iss tier addr : Nat) (a : Access) (d : List (Byte × Bool)) (rmt : Bool) (s : State) (c : s.clean)
    (hd : d.any (·.2) = false) (hs : s.slotDraining a.slot = false) (hf : s.f (tierCtl tier addr) F.PG_PERF_SEL_RUN = 0)
    (ha : s.accessCode a.own tier addr d.length = 0) :
    (memWrite iss a tier addr d rmt s).1 = 0 ∧ Stored s (memWrite iss a tier addr d rmt s).2 := by
  unfold memWrite
  dsimp only
  rw [ha, if_neg (by decide)]
  have k := account_stored a.own tier addr d.length (reqClass true rmt) s c hf
  have e : drainLog a.slot tier addr (account a.own tier addr d.length (reqClass true rmt) s) =
      account a.own tier addr d.length (reqClass true rmt) s := by
    unfold drainLog
    refine if_neg ?_
    rw [show (account a.own tier addr d.length (reqClass true rmt) s).slotDraining a.slot = s.slotDraining a.slot by
      rw [k.1]; rfl, hs]
    decide
  rw [e]
  have n := writeChunks_stored a.slot tier (lineChunks addr d (d.length / 64 + 2)) _ k.2.1 (lineChunks_unmarked _ _ _ hd)
  exact ⟨n.1, k.trans n.2⟩

theorem mBlocks_within (tier : Nat) : ∀ (fuel addr len : Nat), ∀ b ∈ mBlocks tier fuel addr len,
    addr ≤ b.1 ∧ b.1 + b.2 ≤ addr + len ∧ 0 < b.2
  | 0, _, _, _, hb => nomatch hb
  | fuel + 1, addr, len, b, hb => by
    unfold mBlocks at hb
    split at hb
    · exact nomatch hb
    · rename_i hl
      dsimp only at hb
      have hm : 0 < tierM tier - addr % tierM tier := by
        have : 0 < tierM tier := by unfold tierM; split <;> decide
        exact Nat.sub_pos_of_lt (Nat.mod_lt _ this)
      rcases List.mem_cons.1 hb with rfl | hb
      · refine ⟨Nat.le_refl _, ?_, ?_⟩ <;> dsimp only <;> omega
      · have := mBlocks_within tier fuel _ _ b hb
        omega

/-- May `own` reach every byte of [lo, hi) in a tier, of controllers that count nothing? -/
def State.open_ (s : State) (own tier lo hi : Nat) : Prop :=
  ∀ a n, lo ≤ a → a + max n 1 ≤ hi → s.accessCode own tier a n = 0 ∧ s.f (tierCtl tier a) F.PG_PERF_SEL_RUN = 0

theorem Stored.open_ {s t : State} (h : Stored s t) {own tier lo hi : Nat} (k : s.open_ own tier lo hi) :
    t.open_ own tier lo hi := by
  rw [h.1]; exact k

theorem Stored.draining {s t : State} (h : Stored s t) (p : Nat) :
    t.slotDraining (t.access p).slot = s.slotDraining (s.access p).slot := by
  rw [h.1]; rfl

theorem writeBlocks_stored (iss tier : Nat) (a : Access) (rmt : Nat → Bool) (lo hi : Nat) :
    ∀ (bs : List (Nat × Nat)) (d : List (Byte × Bool)) (s : State), s.clean → s.slotDraining a.slot = false →
      s.open_ a.own tier lo hi → d.any (·.2) = false → (∀ b ∈ bs, lo ≤ b.1 ∧ b.1 + b.2 ≤ hi ∧ 0 < b.2) →
      (writeBlocks iss a tier rmt bs d s).1 = 0 ∧ Stored s (writeBlocks iss a tier rmt bs d s).2
  | [], _, _, c, _, _, _, _ => ⟨rfl, .refl c⟩
  | b :: bs, d, s, c, hs, ho, hd, hb => by
    have h := hb b (.head _)
    have hl : (d.take b.2).length ≤ b.2 := by rw [List.length_take]; exact Nat.min_le_left _ _
    have o := ho b.1 (d.take b.2).length h.1 (by omega)
    have k := memWrite_stored iss tier b.1 a (d.take b.2) (rmt b.1) s c (any_take_drop hd _).1 hs o.2 o.1
    have n := writeBlocks_stored iss tier a rmt lo hi bs (d.drop b.2) _ k.2.2.1
      (by rw [k.2.1]; exact hs) (k.2.open_ ho) (any_take_drop hd _).2 (fun x hx => hb x (.tail _ hx))
    unfold writeBlocks
    dsimp only
    rw [k.1, if_neg (by decide)]
    exact ⟨n.1, k.2.trans n.2⟩

/-- A bulk write of unmarked bytes into memory that is open to its owner, under a key slot that is not draining. -/
theorem bulkWrite_stored (iss die tier addr lo hi : Nat) (a : Access) (d : List (Byte × Bool)) (s : State) (c : s.clean)
    (hs : s.slotDraining a.slot = false) (ho : s.open_ a.own tier lo hi) (hd : d.any (·.2) = false) (h1 : lo ≤ addr)
    (h2 : addr + d.length ≤ hi) :
    (bulkWrite iss die a tier addr d s).1 = 0 ∧ Stored s (bulkWrite iss die a tier addr d s).2 := by
  unfold bulkWrite
  refine writeBlocks_stored iss tier a _ lo hi _ d s c hs ho hd (fun b hb => ?_)
  have := mBlocks_within tier _ _ _ b hb
  omega

theorem plain_unmarked (bs : List Byte) : (plain bs).any (·.2) = false := by
  unfold plain
  rw [List.any_map]
  induction bs with
  | nil => rfl
  | cons b bs ih => exact ih

/-! ## Reads -/

/-- From `s` to `t` only controllers have changed. -/
def Counted (s t : State) : Prop := t = { s with ctls := t.ctls }

theorem Counted.trans {s t u : State} (h : Counted s t) (k : Counted t u) : Counted s u := by
  unfold Counted; rw [k, h]

theorem Counted.open_ {s t : State} (h : Counted s t) {own tier lo hi : Nat} (k : s.open_ own tier lo hi) :
    t.open_ own tier lo hi := by
  rw [h]; exact k

theorem Counted.readBytes {s t : State} (h : Counted s t) (slot tier addr n : Nat) :
    t.readBytes slot tier addr n = s.readBytes slot tier addr n := by
  rw [h]; rfl

theorem account_counted (own tier addr len cls : Nat) (s : State) (h : s.f (tierCtl tier addr) F.PG_PERF_SEL_RUN = 0) :
    Counted s (account own tier addr len cls s) := by
  unfold account
  dsimp only
  generalize hu : s.setCtl (tierCtl tier addr) _ = u
  have hu' : Counted s u := hu ▸ rfl
  have hf : u.f (tierCtl tier addr) F.PG_PERF_SEL_RUN = 0 := by rw [hu']; exact h
  rw [perfOwn_off _ _ _ _ _ hf, perfOwn_off _ _ _ _ _ hf, perfOwn_off _ _ _ _ _ hf]
  split <;> exact hu'

/-- A read whose request is granted, whose controller counts nothing and which meets no error. -/
theorem memRead_counted (iss tier addr len : Nat) (a : Access) (rmt : Bool) (s : State) (he : s.mem.errs = [])
    (hs : s.slotDraining a.slot = false) (hf : s.f (tierCtl tier addr) F.PG_PERF_SEL_RUN = 0)
    (ha : s.accessCode a.own tier addr len = 0) :
    ∃ t, memRead iss a tier addr len rmt s = (0, s.readBytes a.slot tier addr len, t) ∧ Counted s t := by
  unfold memRead
  dsimp only
  rw [ha, if_neg (by decide)]
  have k := account_counted a.own tier addr len (reqClass false rmt) s hf
  generalize account a.own tier addr len (reqClass false rmt) s = t at k
  have e : demandEcc tier addr len t = t := if_pos (by rw [k]; show s.mem.errs.isEmpty = true; rw [he]; rfl)
  have d : drainLog a.slot tier addr t = t := if_neg (by rw [k]; show ¬ s.slotDraining a.slot = true; rw [hs]; decide)
  rw [e, d, k.readBytes]
  exact ⟨t, rfl, k⟩

theorem readBytes_append (s : State) (slot tier addr m n : Nat) :
    s.readBytes slot tier addr m ++ s.readBytes slot tier (addr + m) n = s.readBytes slot tier addr (m + n) := by
  unfold State.readBytes
  rw [List.range_add, List.map_append, List.map_map]
  congr 1
  refine List.map_congr_left (fun i _ => ?_)
  show _ = s.readByte slot (memKey tier (addr + (m + i)))
  rw [Nat.add_assoc]

theorem readBlocks_counted (iss tier : Nat) (a : Access) (rmt : Nat → Bool) (lo hi : Nat) :
    ∀ (fuel addr len : Nat) (s : State), len < fuel → s.mem.errs = [] → s.slotDraining a.slot = false → s.open_ a.own tier lo hi →
      lo ≤ addr → addr + len ≤ hi →
      ∃ t, readBlocks iss a tier rmt (mBlocks tier fuel addr len) s = (0, s.readBytes a.slot tier addr len, t) ∧ Counted s t
  | 0, _, _, _, hl, _, _, _, _, _ => absurd hl (Nat.not_lt_zero _)
  | fuel + 1, addr, len, s, hl, he, hs, ho, h1, h2 => by
    unfold mBlocks
    by_cases hz : len = 0
    · rw [if_pos hz, hz]; exact ⟨s, rfl, rfl⟩
    · rw [if_neg hz]
      dsimp only
      have hm : 0 < tierM tier - addr % tierM tier := by
        have : 0 < tierM tier := by unfold tierM; split <;> decide
        exact Nat.sub_pos_of_lt (Nat.mod_lt _ this)
      generalize hn : min len (tierM tier - addr % tierM tier) = n
      have hn0 : 0 < n ∧ n ≤ len := by omega
      have o := ho addr n h1 (by omega)
      obtain ⟨u, hu, ku⟩ := memRead_counted iss tier addr n a (rmt addr) s he hs o.2 o.1
      obtain ⟨t, ht, kt⟩ := readBlocks_counted iss tier a rmt lo hi fuel (addr + n) (len - n) u (by omega)
        (by rw [ku]; exact he) (by rw [ku]; exact hs) (ku.open_ ho) (by omega) (by omega)
      unfold readBlocks
      dsimp only
      rw [hu]
      dsimp only
      rw [if_neg (by decide), ht]
      refine ⟨t, ?_, ku.trans kt⟩
      dsimp only
      rw [ku.readBytes, readBytes_append, Nat.add_sub_cancel' hn0.2]

/-- A bulk read of memory that is open to its owner, under a key slot that is not draining, where nothing finds an
error. -/
theorem bulkRead_counted (iss die tier addr len lo hi : Nat) (a : Access) (s : State) (he : s.mem.errs = [])
    (hs : s.slotDraining a.slot = false) (ho : s.open_ a.own tier lo hi) (h1 : lo ≤ addr) (h2 : addr + len ≤ hi) :
    ∃ t, bulkRead iss die a tier addr len s = (0, s.readBytes a.slot tier addr len, t) ∧ Counted s t :=
  readBlocks_counted iss tier a _ lo hi _ addr len s (Nat.lt_succ_self _) he hs ho h1 h2

end Sys2Proof.Machine
end

