-- ==== Sys2Proof/Laws/KeptOps.lean ====
section
/-! SUPPORT.  What the operations of registers, memory and the fabric plumbing keep: the queue of waiting
commands, and the canonical form of the registers and the stores.  One lemma per operation. -/

set_option linter.all false

namespace Sys2Proof.Machine

/-- What is kept: the waiting commands `pending`, and, where `canon` holds, the canonical form. -/
structure Keep where
  pending : List Instr
  canon : Prop

/-- The stores of the memory are in canonical form, where `c` holds. -/
def memWf (c : Prop) (m : Memory) : Prop :=
  (c → SMap.wf (fun _ => 0) m.bytes = true) ∧ (c → SMap.wf (fun _ => {}) m.lines = true) ∧
  (c → SMap.wf (fun _ => 0) m.epoch = true) ∧ (c → SMap.wf (fun _ => 0) m.sram = true)

/-- `Kept` of a state whose queue, registers and memory are these. -/
def keptIn (cs : Keep) (p : List Instr) (r : SMap Word) (m : Memory) : Prop :=
  p = cs.pending ∧ (cs.canon → SMap.wf resetWord r = true) ∧ memWf cs.canon m

/-- The state keeps what `cs` says. -/
def Kept (cs : Keep) (s : State) : Prop := keptIn cs s.pending s.regs s.mem

theorem keptIn_fold {cs : Keep} {s : State} (h : Kept cs s) : keptIn cs s.pending s.regs s.mem := h

theorem keptIn_flags {cs : Keep} {s : State} {e : List (Nat × Ecc)} {w : Bool} (h : Kept cs s) :
    keptIn cs s.pending s.regs { s.mem with errs := e, wait := w } := h

theorem kept_mk_iff {cs : Keep} {p : List Instr} {r m x1 x2 x3 x4 x5 x6 x7 x8 x9 x10 x11 x12 x13 x14 x15 x16 x17 x18 x19 x20 x21 x22 x23 x24 x25} : Kept cs (State.mk p r x1 x2 x3 m x4 x5 x6 x7 x8 x9 x10 x11 x12 x13 x14 x15 x16 x17 x18 x19 x20 x21 x22 x23 x24 x25) ↔ keptIn cs p r m := Iff.rfl

structure KeptOut (cs : Keep) (o : Host.Outcome State Fault Refusal) : Prop where
  h : ∀ t, o = .next t → Kept cs t

theorem kept_of_snd {cs : Keep} {α : Type} {e : α × State} {a : α} {s : State} (h : e = (a, s)) (k : Kept cs e.2) : Kept cs s := by subst h; exact k

theorem kept_of_snd2 {cs : Keep} {α β : Type} {e : α × β × State} {a : α} {b : β} {s : State} (h : e = (a, b, s)) (k : Kept cs e.2.2) : Kept cs s := by subst h; exact k

theorem kept_of_fst {cs : Keep} {α : Type} {e : State × α} {a : α} {s : State} (h : e = (s, a)) (k : Kept cs e.1) : Kept cs s := by subst h; exact k

theorem keptOut_next {cs : Keep} {t : State} (h : Kept cs t) : KeptOut cs (.next t) := ⟨fun u e => by cases e; exact h⟩

theorem forEach_kept {cs : Keep} {α : Type} (f : α → State → State) (xs : List α) (s : State) (hf : ∀ a s, Kept cs s → Kept cs (f a s)) (h : Kept cs s) : Kept cs (forEach f xs s) := by
  induction xs generalizing s with
  | nil => exact h
  | cons x xs ih => exact ih _ (hf _ _ h)

theorem forUp_kept {cs : Keep} (f : Nat → State → State) (n i : Nat) (s : State) (hf : ∀ a s, Kept cs s → Kept cs (f a s)) (h : Kept cs s) : Kept cs (forUp f n i s) := by
  induction n generalizing s i with
  | zero => exact h
  | succ n ih => exact ih _ _ (hf _ _ h)

theorem id_kept {cs : Keep} (s : State) (h : Kept cs s) : Kept cs (id s) := h

theorem forUp_kept2 {cs : Keep} {α : Type} (f : Nat → α × State → α × State) (n i : Nat) (s : α × State) (hf : ∀ a s, Kept cs s.2 → Kept cs (f a s).2) (h : Kept cs s.2) : Kept cs (forUp f n i s).2 := by
  induction n generalizing s i with
  | zero => exact h
  | succ n ih => exact ih _ _ (hf _ _ h)

theorem foldl_kept {cs : Keep} {α : Type} (f : State → α → State) (xs : List α) (s : State) (hf : ∀ s a, Kept cs s → Kept cs (f s a)) (h : Kept cs s) : Kept cs (List.foldl f s xs) := by
  induction xs generalizing s with
  | nil => exact h
  | cons x xs ih => exact ih _ (hf _ _ h)

theorem foldl_kept2 {cs : Keep} {α β : Type} (f : β × State → α → β × State) (xs : List α) (s : β × State) (hf : ∀ s a, Kept cs s.2 → Kept cs (f s a).2) (h : Kept cs s.2) : Kept cs (List.foldl f s xs).2 := by
  induction xs generalizing s with
  | nil => exact h
  | cons x xs ih => exact ih _ (hf _ _ h)

/-- From any state, its own waiting commands are kept. -/
theorem kept_pending (s : State) : Kept ⟨s.pending, False⟩ s :=
  ⟨rfl, False.elim, False.elim, False.elim, False.elim, False.elim⟩

/-- A state in canonical form keeps its canonical form. -/
theorem kept_of_wf {s : State} (h : s.wf = true) : Kept ⟨s.pending, True⟩ s := by
  simp only [State.wf, Memory.wf, Bool.and_eq_true] at h
  simp only [Kept, keptIn, memWf]
  simp_all

/-- A state that keeps the canonical form is in it. -/
theorem Kept.wf {cs : Keep} {s : State} (h : Kept cs s) (c : cs.canon) : s.wf = true := by
  obtain ⟨-, h1, h2, h3, h4, h5⟩ := h
  simp only [State.wf, Memory.wf, h1 c, h2 c, h3 c, h4 c, h5 c, Bool.and_self]

theorem State.setReg_kept {cs : Keep} (s : State) (k : Nat) (v : Word) (h : Kept cs s) : Kept cs (s.setReg k v) := 
  ⟨h.1, fun c => SMap.put_wf resetWord _ k v (h.2.1 c), h.2.2⟩

theorem State.setF_kept {cs : Keep} (s : State) (pg : Nat) (x : Fld) (v : Nat) (Hs : Kept cs s) : Kept cs (State.setF s pg x v) := by
  unfold State.setF
  try dsimp only
  with_reducible repeat' (first | assumption | apply State.setReg_kept | dsimp only | refine kept_of_snd (by assumption) ?_ | refine kept_of_snd2 (by assumption) ?_ | refine kept_of_fst (by assumption) ?_ | (simp only [kept_mk_iff]; (first | apply keptIn_fold | apply keptIn_flags)) | split | intro _)

theorem State.setW_kept {cs : Keep} (s : State) (pg : Nat) (ofs : Nat) (v : Nat) (Hs : Kept cs s) : Kept cs (State.setW s pg ofs v) := by
  unfold State.setW
  try dsimp only
  with_reducible repeat' (first | assumption | apply State.setReg_kept | dsimp only | refine kept_of_snd (by assumption) ?_ | refine kept_of_snd2 (by assumption) ?_ | refine kept_of_fst (by assumption) ?_ | (simp only [kept_mk_iff]; (first | apply keptIn_fold | apply keptIn_flags)) | split | intro _)

theorem State.addF_kept {cs : Keep} (s : State) (pg : Nat) (x : Fld) (n : Nat) (Hs : Kept cs s) : Kept cs (State.addF s pg x n) := by
  unfold State.addF
  try dsimp only
  with_reducible repeat' (first | assumption | apply State.setF_kept | dsimp only | refine kept_of_snd (by assumption) ?_ | refine kept_of_snd2 (by assumption) ?_ | refine kept_of_fst (by assumption) ?_ | (simp only [kept_mk_iff]; (first | apply keptIn_fold | apply keptIn_flags)) | split | intro _)

theorem State.setW64_kept {cs : Keep} (s : State) (pg : Nat) (lo : Nat) (hi : Nat) (v : Nat) (Hs : Kept cs s) : Kept cs (State.setW64 s pg lo hi v) := by
  unfold State.setW64
  try dsimp only
  with_reducible repeat' (first | assumption | apply State.setW_kept | dsimp only | refine kept_of_snd (by assumption) ?_ | refine kept_of_snd2 (by assumption) ?_ | refine kept_of_fst (by assumption) ?_ | (simp only [kept_mk_iff]; (first | apply keptIn_fold | apply keptIn_flags)) | split | intro _)

theorem State.add64_kept {cs : Keep} (s : State) (pg : Nat) (lo : Nat) (hi : Nat) (n : Nat) (Hs : Kept cs s) : Kept cs (State.add64 s pg lo hi n) := by
  unfold State.add64
  try dsimp only
  with_reducible repeat' (first | assumption | apply State.setW64_kept | dsimp only | refine kept_of_snd (by assumption) ?_ | refine kept_of_snd2 (by assumption) ?_ | refine kept_of_fst (by assumption) ?_ | (simp only [kept_mk_iff]; (first | apply keptIn_fold | apply keptIn_flags)) | split | intro _)

theorem State.setPart_kept {cs : Keep} (s : State) (p : Nat) (v : Part) (Hs : Kept cs s) : Kept cs (State.setPart s p v) := by
  unfold State.setPart
  try dsimp only
  with_reducible repeat' (first | assumption | dsimp only | refine kept_of_snd (by assumption) ?_ | refine kept_of_snd2 (by assumption) ?_ | refine kept_of_fst (by assumption) ?_ | (simp only [kept_mk_iff]; (first | apply keptIn_fold | apply keptIn_flags)) | split | intro _)

theorem State.setKeySlot_kept {cs : Keep} (s : State) (n : Nat) (v : KeySlot) (Hs : Kept cs s) : Kept cs (State.setKeySlot s n v) := by
  unfold State.setKeySlot
  try dsimp only
  with_reducible repeat' (first | assumption | dsimp only | refine kept_of_snd (by assumption) ?_ | refine kept_of_snd2 (by assumption) ?_ | refine kept_of_fst (by assumption) ?_ | (simp only [kept_mk_iff]; (first | apply keptIn_fold | apply keptIn_flags)) | split | intro _)

theorem State.setCtl_kept {cs : Keep} (s : State) (pg : Nat) (v : Ctl) (Hs : Kept cs s) : Kept cs (State.setCtl s pg v) := by
  unfold State.setCtl
  try dsimp only
  with_reducible repeat' (first | assumption | dsimp only | refine kept_of_snd (by assumption) ?_ | refine kept_of_snd2 (by assumption) ?_ | refine kept_of_fst (by assumption) ?_ | (simp only [kept_mk_iff]; (first | apply keptIn_fold | apply keptIn_flags)) | split | intro _)

theorem State.setAl_kept {cs : Keep} (s : State) (p : Nat) (v : AllocSt) (Hs : Kept cs s) : Kept cs (State.setAl s p v) := by
  unfold State.setAl
  try dsimp only
  with_reducible repeat' (first | assumption | dsimp only | refine kept_of_snd (by assumption) ?_ | refine kept_of_snd2 (by assumption) ?_ | refine kept_of_fst (by assumption) ?_ | (simp only [kept_mk_iff]; (first | apply keptIn_fold | apply keptIn_flags)) | split | intro _)

theorem State.setCore_kept {cs : Keep} (s : State) (c : Nat) (v : Core) (Hs : Kept cs s) : Kept cs (State.setCore s c v) := by
  unfold State.setCore
  try dsimp only
  with_reducible repeat' (first | assumption | dsimp only | refine kept_of_snd (by assumption) ?_ | refine kept_of_snd2 (by assumption) ?_ | refine kept_of_fst (by assumption) ?_ | (simp only [kept_mk_iff]; (first | apply keptIn_fold | apply keptIn_flags)) | split | intro _)

theorem State.setClu_kept {cs : Keep} (s : State) (k : Nat) (v : Cluster) (Hs : Kept cs s) : Kept cs (State.setClu s k v) := by
  unfold State.setClu
  try dsimp only
  with_reducible repeat' (first | assumption | dsimp only | refine kept_of_snd (by assumption) ?_ | refine kept_of_snd2 (by assumption) ?_ | refine kept_of_fst (by assumption) ?_ | (simp only [kept_mk_iff]; (first | apply keptIn_fold | apply keptIn_flags)) | split | intro _)

theorem State.emit_kept {cs : Keep} (s : State) (o : Output) (Hs : Kept cs s) : Kept cs (State.emit s o) := by
  unfold State.emit
  try dsimp only
  with_reducible repeat' (first | assumption | dsimp only | refine kept_of_snd (by assumption) ?_ | refine kept_of_snd2 (by assumption) ?_ | refine kept_of_fst (by assumption) ?_ | (simp only [kept_mk_iff]; (first | apply keptIn_fold | apply keptIn_flags)) | split | intro _)

theorem perfOwn_kept {cs : Keep} (pg : Nat) (code : Nat) (n : Nat) (own : Nat) (s : State) (Hs : Kept cs s) : Kept cs (perfOwn pg code n own s) := by
  unfold perfOwn
  try dsimp only
  with_reducible repeat' (first | assumption | apply State.add64_kept | dsimp only | refine kept_of_snd (by assumption) ?_ | refine kept_of_snd2 (by assumption) ?_ | refine kept_of_fst (by assumption) ?_ | (simp only [kept_mk_iff]; (first | apply keptIn_fold | apply keptIn_flags)) | split | intro _)

theorem perf_kept {cs : Keep} (pg : Nat) (code : Nat) (n : Nat) (s : State) (Hs : Kept cs s) : Kept cs (perf pg code n s) := by
  unfold perf
  try dsimp only
  with_reducible repeat' (first | assumption | apply perfOwn_kept | dsimp only | refine kept_of_snd (by assumption) ?_ | refine kept_of_snd2 (by assumption) ?_ | refine kept_of_fst (by assumption) ?_ | (simp only [kept_mk_iff]; (first | apply keptIn_fold | apply keptIn_flags)) | split | intro _)

theorem emitRec_kept {cs : Keep} (r : EvRec) (s : State) (Hs : Kept cs s) : Kept cs (emitRec r s) := by
  unfold emitRec
  try dsimp only
  with_reducible repeat' (first | assumption | dsimp only | refine kept_of_snd (by assumption) ?_ | refine kept_of_snd2 (by assumption) ?_ | refine kept_of_fst (by assumption) ?_ | (simp only [kept_mk_iff]; (first | apply keptIn_fold | apply keptIn_flags)) | split | intro _)

theorem logErr_kept {cs : Keep} (pg : Nat) (code : Nat) (subj : Nat) (detail : optParam Nat 0) (aux : optParam Nat 0) (s : State) (Hs : Kept cs s) : Kept cs (logErr pg code subj detail aux s) := by
  unfold logErr
  try dsimp only
  with_reducible repeat' (first | assumption | apply emitRec_kept | apply perf_kept | apply State.addF_kept | apply State.setF_kept | dsimp only | refine kept_of_snd (by assumption) ?_ | refine kept_of_snd2 (by assumption) ?_ | refine kept_of_fst (by assumption) ?_ | (simp only [kept_mk_iff]; (first | apply keptIn_fold | apply keptIn_flags)) | split | intro _)

theorem logInfo_kept {cs : Keep} (pg : Nat) (code : Nat) (subj : Nat) (detail : optParam Nat 0) (aux : optParam Nat 0) (s : State) (Hs : Kept cs s) : Kept cs (logInfo pg code subj detail aux s) := by
  unfold logInfo
  try dsimp only
  with_reducible repeat' (first | assumption | apply emitRec_kept | dsimp only | refine kept_of_snd (by assumption) ?_ | refine kept_of_snd2 (by assumption) ?_ | refine kept_of_fst (by assumption) ?_ | (simp only [kept_mk_iff]; (first | apply keptIn_fold | apply keptIn_flags)) | split | intro _)

theorem pendSet_kept {cs : Keep} (pg : Nat) (b : Nat) (s : State) (Hs : Kept cs s) : Kept cs (pendSet pg b s) := by
  unfold pendSet
  try dsimp only
  with_reducible repeat' (first | assumption | apply emitRec_kept | apply State.setW_kept | dsimp only | refine kept_of_snd (by assumption) ?_ | refine kept_of_snd2 (by assumption) ?_ | refine kept_of_fst (by assumption) ?_ | (simp only [kept_mk_iff]; (first | apply keptIn_fold | apply keptIn_flags)) | split | intro _)

theorem refuse_kept {cs : Keep} (m : Nat) (pg : Nat) (ofs : Nat) (code : Nat) (s : State) (Hs : Kept cs s) : Kept cs (refuse m pg ofs code s) := by
  unfold refuse
  try dsimp only
  with_reducible repeat' (first | assumption | apply pendSet_kept | apply logErr_kept | apply perf_kept | apply State.setF_kept | dsimp only | refine kept_of_snd (by assumption) ?_ | refine kept_of_snd2 (by assumption) ?_ | refine kept_of_fst (by assumption) ?_ | (simp only [kept_mk_iff]; (first | apply keptIn_fold | apply keptIn_flags)) | split | intro _)

theorem unbacked_kept {cs : Keep} (m : Nat) (ofs : Nat) (s : State) (Hs : Kept cs s) : Kept cs (unbacked m ofs s) := by
  unfold unbacked
  try dsimp only
  with_reducible repeat' (first | assumption | apply logErr_kept | apply State.setF_kept | dsimp only | refine kept_of_snd (by assumption) ?_ | refine kept_of_snd2 (by assumption) ?_ | refine kept_of_fst (by assumption) ?_ | (simp only [kept_mk_iff]; (first | apply keptIn_fold | apply keptIn_flags)) | split | intro _)

theorem checkedWrite_kept {cs : Keep} (m : Nat) (pg : Nat) (ofs : Nat) (v : Nat) (range : State → Bool) (pre : State → Bool) (eff : State → State) (s : State) (Heff : ∀ s, Kept cs s → Kept cs (eff s)) (Hs : Kept cs s) : Kept cs (checkedWrite m pg ofs v range pre eff s) := by
  unfold checkedWrite
  try dsimp only
  with_reducible repeat' (first | assumption | apply Heff | apply unbacked_kept | apply refuse_kept | dsimp only | refine kept_of_snd (by assumption) ?_ | refine kept_of_snd2 (by assumption) ?_ | refine kept_of_fst (by assumption) ?_ | (simp only [kept_mk_iff]; (first | apply keptIn_fold | apply keptIn_flags)) | split | intro _)

theorem plainWrite_kept {cs : Keep} (m : Nat) (pg : Nat) (ofs : Nat) (v : Nat) (range : State → Bool) (pre : State → Bool) (s : State) (Hs : Kept cs s) : Kept cs (plainWrite m pg ofs v range pre s) := by
  unfold plainWrite
  try dsimp only
  with_reducible repeat' (first | assumption | apply checkedWrite_kept | apply State.setW_kept | dsimp only | refine kept_of_snd (by assumption) ?_ | refine kept_of_snd2 (by assumption) ?_ | refine kept_of_fst (by assumption) ?_ | (simp only [kept_mk_iff]; (first | apply keptIn_fold | apply keptIn_flags)) | split | intro _)

theorem declareFailed_kept {cs : Keep} (s : State) (Hs : Kept cs s) : Kept cs (declareFailed s) := by
  unfold declareFailed
  try dsimp only
  with_reducible repeat' (first | assumption | apply State.setF_kept | dsimp only | refine kept_of_snd (by assumption) ?_ | refine kept_of_snd2 (by assumption) ?_ | refine kept_of_fst (by assumption) ?_ | (simp only [kept_mk_iff]; (first | apply keptIn_fold | apply keptIn_flags)) | split | intro _)

theorem hist_kept {cs : Keep} (kind : Nat) (tier : Nat) (addr : Nat) (page : Nat) (owner : Nat) (s : State) (Hs : Kept cs s) : Kept cs (hist kind tier addr page owner s) := by
  unfold hist
  try dsimp only
  with_reducible repeat' (first | assumption | apply State.setF_kept | dsimp only | refine kept_of_snd (by assumption) ?_ | refine kept_of_snd2 (by assumption) ?_ | refine kept_of_fst (by assumption) ?_ | (simp only [kept_mk_iff]; (first | apply keptIn_fold | apply keptIn_flags)) | split | intro _)

theorem escalate_kept {cs : Keep} (resp : Nat) (s : State) (Hs : Kept cs s) : Kept cs (escalate resp s) := by
  unfold escalate
  try dsimp only
  with_reducible repeat' (first | assumption | apply hist_kept | apply logErr_kept | apply State.setF_kept | dsimp only | refine kept_of_snd (by assumption) ?_ | refine kept_of_snd2 (by assumption) ?_ | refine kept_of_fst (by assumption) ?_ | (simp only [kept_mk_iff]; (first | apply keptIn_fold | apply keptIn_flags)) | split | intro _)

theorem abandon_kept {cs : Keep} (hs : Hs) (resp : Nat) (s : State) (Hs : Kept cs s) : Kept cs (abandon hs resp s) := by
  unfold abandon
  try dsimp only
  with_reducible repeat' (first | assumption | apply escalate_kept | dsimp only | refine kept_of_snd (by assumption) ?_ | refine kept_of_snd2 (by assumption) ?_ | refine kept_of_fst (by assumption) ?_ | (simp only [kept_mk_iff]; (first | apply keptIn_fold | apply keptIn_flags)) | split | intro _)

theorem State.drawn_kept {cs : Keep} (s : State) (Hs : Kept cs s) : Kept cs (State.drawn s) := by
  unfold State.drawn
  try dsimp only
  with_reducible repeat' (first | assumption | dsimp only | refine kept_of_snd (by assumption) ?_ | refine kept_of_snd2 (by assumption) ?_ | refine kept_of_fst (by assumption) ?_ | (simp only [kept_mk_iff]; (first | apply keptIn_fold | apply keptIn_flags)) | split | intro _)

theorem edges_kept {cs : Keep} (pg : Nat) (old : Nat) (s : State) (Hs : Kept cs s) : Kept cs (edges pg old s) := by
  unfold edges
  try dsimp only
  with_reducible repeat' (first | assumption | apply pendSet_kept | apply forUp_kept | apply forUp_kept2 | dsimp only | refine kept_of_snd (by assumption) ?_ | refine kept_of_snd2 (by assumption) ?_ | refine kept_of_fst (by assumption) ?_ | (simp only [kept_mk_iff]; (first | apply keptIn_fold | apply keptIn_flags)) | split | intro _)

theorem happen_kept {cs : Keep} (pgs : List Nat) (k : State → State) (s : State) (Hk : ∀ s, Kept cs s → Kept cs (k s)) (Hs : Kept cs s) : Kept cs (happen pgs k s) := by
  unfold happen
  try dsimp only
  with_reducible repeat' (first | assumption | apply Hk | apply edges_kept | apply forEach_kept | dsimp only | refine kept_of_snd (by assumption) ?_ | refine kept_of_snd2 (by assumption) ?_ | refine kept_of_fst (by assumption) ?_ | (simp only [kept_mk_iff]; (first | apply keptIn_fold | apply keptIn_flags)) | split | intro _)

theorem whenOk_kept {cs : Keep} (ok : Bool) (s : State) (o : Host.Outcome State Fault Refusal) (Hs : Kept cs s) (Ho : KeptOut cs o) : KeptOut cs (whenOk ok s o) := by
  unfold whenOk
  try dsimp only
  with_reducible repeat' (first | assumption | apply keptOut_next | dsimp only | refine kept_of_snd (by assumption) ?_ | refine kept_of_snd2 (by assumption) ?_ | refine kept_of_fst (by assumption) ?_ | (simp only [kept_mk_iff]; (first | apply keptIn_fold | apply keptIn_flags)) | split | intro _)

theorem run_kept {cs : Keep} (pgs : List Nat) (s : State) (k : State → State) (Hs : Kept cs s) (Hk : ∀ s, Kept cs s → Kept cs (k s)) : KeptOut cs (run pgs s k) := by
  unfold run
  try dsimp only
  with_reducible repeat' (first | assumption | apply keptOut_next | apply Hk | apply happen_kept | dsimp only | refine kept_of_snd (by assumption) ?_ | refine kept_of_snd2 (by assumption) ?_ | refine kept_of_fst (by assumption) ?_ | (simp only [kept_mk_iff]; (first | apply keptIn_fold | apply keptIn_flags)) | split | intro _)

theorem settle_kept {cs : Keep} (errs : Errs) (k : State → State) (s : State) (Hk : ∀ s, Kept cs s → Kept cs (k s)) (Hs : Kept cs s) : Kept cs (settle errs k s) := by
  unfold settle
  try dsimp only
  with_reducible repeat' (first | assumption | apply Hk | dsimp only | refine kept_of_snd (by assumption) ?_ | refine kept_of_snd2 (by assumption) ?_ | refine kept_of_fst (by assumption) ?_ | (simp only [kept_mk_iff]; (first | apply keptIn_fold | apply keptIn_flags)) | split | intro _)

theorem orWait_kept {cs : Keep} (k : State → State) (w : State → State) (s : State) (Hk : ∀ s, Kept cs s → Kept cs (k s)) (Hw : ∀ s, Kept cs s → Kept cs (w s)) (Hs : Kept cs s) : Kept cs (orWait k w s) := by
  unfold orWait
  try dsimp only
  with_reducible repeat' (first | assumption | apply Hk | apply Hw | dsimp only | refine kept_of_snd (by assumption) ?_ | refine kept_of_snd2 (by assumption) ?_ | refine kept_of_fst (by assumption) ?_ | (simp only [kept_mk_iff]; (first | apply keptIn_fold | apply keptIn_flags)) | split | intro _)

theorem runErr_kept {cs : Keep} (errs : Errs) (pgs : List Nat) (s : State) (k : State → State) (Hs : Kept cs s) (Hk : ∀ s, Kept cs s → Kept cs (k s)) : KeptOut cs (runErr errs pgs s k) := by
  unfold runErr
  try dsimp only
  with_reducible repeat' (first | assumption | apply keptOut_next | apply Hk | apply settle_kept | apply run_kept | dsimp only | refine kept_of_snd (by assumption) ?_ | refine kept_of_snd2 (by assumption) ?_ | refine kept_of_fst (by assumption) ?_ | (simp only [kept_mk_iff]; (first | apply keptIn_fold | apply keptIn_flags)) | split | intro _)

theorem runArrival_kept {cs : Keep} (pgs : List Nat) (s : State) (k : State → State) (Hs : Kept cs s) (Hk : ∀ s, Kept cs s → Kept cs (k s)) : KeptOut cs (runArrival pgs s k) := by
  unfold runArrival
  try dsimp only
  with_reducible repeat' (first | assumption | apply keptOut_next | apply Hk | apply happen_kept | dsimp only | refine kept_of_snd (by assumption) ?_ | refine kept_of_snd2 (by assumption) ?_ | refine kept_of_fst (by assumption) ?_ | (simp only [kept_mk_iff]; (first | apply keptIn_fold | apply keptIn_flags)) | split | intro _)

theorem runArrivalErr_kept {cs : Keep} (errs : Errs) (pgs : List Nat) (s : State) (k : State → State) (Hs : Kept cs s) (Hk : ∀ s, Kept cs s → Kept cs (k s)) : KeptOut cs (runArrivalErr errs pgs s k) := by
  unfold runArrivalErr
  try dsimp only
  with_reducible repeat' (first | assumption | apply keptOut_next | apply Hk | apply runArrival_kept | apply settle_kept | dsimp only | refine kept_of_snd (by assumption) ?_ | refine kept_of_snd2 (by assumption) ?_ | refine kept_of_fst (by assumption) ?_ | (simp only [kept_mk_iff]; (first | apply keptIn_fold | apply keptIn_flags)) | split | intro _)

theorem runPin_kept {cs : Keep} (pgs : List Nat) (s : State) (pin : State → State) (k : State → State) (Hs : Kept cs s) (Hpin : ∀ s, Kept cs s → Kept cs (pin s)) (Hk : ∀ s, Kept cs s → Kept cs (k s)) : KeptOut cs (runPin pgs s pin k) := by
  unfold runPin
  try dsimp only
  with_reducible repeat' (first | assumption | apply keptOut_next | apply Hpin | apply Hk | apply happen_kept | dsimp only | refine kept_of_snd (by assumption) ?_ | refine kept_of_snd2 (by assumption) ?_ | refine kept_of_fst (by assumption) ?_ | (simp only [kept_mk_iff]; (first | apply keptIn_fold | apply keptIn_flags)) | split | intro _)

theorem accessFail_kept {cs : Keep} (iss : Nat) (o : Nat) (tier : Nat) (addr : Nat) (code : Nat) (s : State) (Hs : Kept cs s) : Kept cs (accessFail iss o tier addr code s) := by
  unfold accessFail
  try dsimp only
  with_reducible repeat' (first | assumption | apply logErr_kept | dsimp only | refine kept_of_snd (by assumption) ?_ | refine kept_of_snd2 (by assumption) ?_ | refine kept_of_fst (by assumption) ?_ | (simp only [kept_mk_iff]; (first | apply keptIn_fold | apply keptIn_flags)) | split | intro _)

theorem State.setLine_kept {cs : Keep} (s : State) (k : Nat) (l : Line) (h : Kept cs s) : Kept cs (s.setLine k l) :=
  ⟨h.1, h.2.1, h.2.2.1, fun c => SMap.put_wf (fun _ => {}) _ _ l (h.2.2.2.1 c), h.2.2.2.2⟩

theorem storeByte_kept {cs : Keep} (slot k : Nat) (b : Byte) (s : State) (h : Kept cs s) : Kept cs (storeByte slot k b s) :=
  ⟨h.1, h.2.1, fun c => SMap.put_wf (fun _ => 0) s.mem.bytes k b (h.2.2.1 c), fun c => SMap.put_wf (fun _ => ({} : Line)) s.mem.lines _ _ (h.2.2.2.1 c), h.2.2.2.2⟩

theorem storeBytes_kept {cs : Keep} (slot k : Nat) (bs : List Byte) (s : State) (h : Kept cs s) : Kept cs (storeBytes slot k bs s) := by
  induction bs generalizing k s with
  | nil => exact h
  | cons b bs ih => exact ih _ _ (storeByte_kept _ _ _ _ h)

theorem setPoison_kept {cs : Keep} (k : Nat) (p : Bool) (s : State) (Hs : Kept cs s) : Kept cs (setPoison k p s) := by
  unfold setPoison
  try dsimp only
  with_reducible repeat' (first | assumption | apply State.setLine_kept | dsimp only | refine kept_of_snd (by assumption) ?_ | refine kept_of_snd2 (by assumption) ?_ | refine kept_of_fst (by assumption) ?_ | (simp only [kept_mk_iff]; (first | apply keptIn_fold | apply keptIn_flags)) | split | intro _)

theorem writeChunk_kept {cs : Keep} (slot : Nat) (tier : Nat) (addr : Nat) (data : List (Byte × Bool)) (s : State) (Hs : Kept cs s) : Kept cs (writeChunk slot tier addr data s).2 := by
  unfold writeChunk
  try dsimp only
  with_reducible repeat' (first | assumption | apply setPoison_kept | apply storeBytes_kept | dsimp only | refine kept_of_snd (by assumption) ?_ | refine kept_of_snd2 (by assumption) ?_ | refine kept_of_fst (by assumption) ?_ | (simp only [kept_mk_iff]; (first | apply keptIn_fold | apply keptIn_flags)) | split | intro _)

theorem writeChunks_kept {cs : Keep} (slot : Nat) (tier : Nat) (a0 : List (Nat × List (Byte × Bool))) (a1 : Nat × State) (Ha1 : Kept cs a1.2) : Kept cs (writeChunks slot tier a0 a1).2 := by
  revert Ha1
  induction a0 generalizing a1 with
  | nil => obtain ⟨a10, a11⟩ := a1; intro Ha1; unfold writeChunks; (try dsimp only at *); (with_reducible repeat' (first | assumption | apply writeChunk_kept | apply ih | dsimp only | refine kept_of_snd (by assumption) ?_ | refine kept_of_snd2 (by assumption) ?_ | refine kept_of_fst (by assumption) ?_ | (simp only [kept_mk_iff]; (first | apply keptIn_fold | apply keptIn_flags)) | split | intro _))
  | cons x xs ih => obtain ⟨a10, a11⟩ := a1; intro Ha1; unfold writeChunks; (try dsimp only at *); (with_reducible repeat' (first | assumption | apply writeChunk_kept | apply ih | dsimp only | refine kept_of_snd (by assumption) ?_ | refine kept_of_snd2 (by assumption) ?_ | refine kept_of_fst (by assumption) ?_ | (simp only [kept_mk_iff]; (first | apply keptIn_fold | apply keptIn_flags)) | split | intro _))

theorem account_kept {cs : Keep} (own : Nat) (tier : Nat) (addr : Nat) (len : Nat) (cls : Nat) (s : State) (Hs : Kept cs s) : Kept cs (account own tier addr len cls s) := by
  unfold account
  try dsimp only
  with_reducible repeat' (first | assumption | apply perfOwn_kept | apply State.setCtl_kept | dsimp only | refine kept_of_snd (by assumption) ?_ | refine kept_of_snd2 (by assumption) ?_ | refine kept_of_fst (by assumption) ?_ | (simp only [kept_mk_iff]; (first | apply keptIn_fold | apply keptIn_flags)) | split | intro _)

theorem queueRow_kept {cs : Keep} (tier : Nat) (addr : Nat) (s : State) (Hs : Kept cs s) : Kept cs (queueRow tier addr s) := by
  unfold queueRow
  try dsimp only
  with_reducible repeat' (first | assumption | apply State.setCtl_kept | apply State.addF_kept | dsimp only | refine kept_of_snd (by assumption) ?_ | refine kept_of_snd2 (by assumption) ?_ | refine kept_of_fst (by assumption) ?_ | (simp only [kept_mk_iff]; (first | apply keptIn_fold | apply keptIn_flags)) | split | intro _)

theorem trackCe_kept {cs : Keep} (tier : Nat) (addr : Nat) (s : State) (Hs : Kept cs s) : Kept cs (trackCe tier addr s) := by
  unfold trackCe
  try dsimp only
  with_reducible repeat' (first | assumption | apply queueRow_kept | apply State.setCtl_kept | dsimp only | refine kept_of_snd (by assumption) ?_ | refine kept_of_snd2 (by assumption) ?_ | refine kept_of_fst (by assumption) ?_ | (simp only [kept_mk_iff]; (first | apply keptIn_fold | apply keptIn_flags)) | split | intro _)

theorem lineEcc_kept {cs : Keep} (tier : Nat) (addr : Nat) (ecc : Ecc) (s : State) (Hs : Kept cs s) : Kept cs (lineEcc tier addr ecc s) := by
  unfold lineEcc
  try dsimp only
  with_reducible repeat' (first | assumption | apply trackCe_kept | apply queueRow_kept | apply setPoison_kept | apply logErr_kept | apply State.addF_kept | dsimp only | refine kept_of_snd (by assumption) ?_ | refine kept_of_snd2 (by assumption) ?_ | refine kept_of_fst (by assumption) ?_ | (simp only [kept_mk_iff]; (first | apply keptIn_fold | apply keptIn_flags)) | split | intro _)

theorem demandEcc_kept {cs : Keep} (tier : Nat) (addr : Nat) (len : Nat) (s : State) (Hs : Kept cs s) : Kept cs (demandEcc tier addr len s) := by
  unfold demandEcc
  try dsimp only
  with_reducible repeat' (first | assumption | apply lineEcc_kept | apply forUp_kept | apply forUp_kept2 | dsimp only | refine kept_of_snd (by assumption) ?_ | refine kept_of_snd2 (by assumption) ?_ | refine kept_of_fst (by assumption) ?_ | (simp only [kept_mk_iff]; (first | apply keptIn_fold | apply keptIn_flags)) | split | intro _)

theorem drainLog_kept {cs : Keep} (slot : Nat) (tier : Nat) (addr : Nat) (s : State) (Hs : Kept cs s) : Kept cs (drainLog slot tier addr s) := by
  unfold drainLog
  try dsimp only
  with_reducible repeat' (first | assumption | apply logErr_kept | dsimp only | refine kept_of_snd (by assumption) ?_ | refine kept_of_snd2 (by assumption) ?_ | refine kept_of_fst (by assumption) ?_ | (simp only [kept_mk_iff]; (first | apply keptIn_fold | apply keptIn_flags)) | split | intro _)

theorem memRead_kept {cs : Keep} (iss : Nat) (a : Access) (tier : Nat) (addr : Nat) (len : Nat) (rmt : Bool) (s : State) (Hs : Kept cs s) : Kept cs (memRead iss a tier addr len rmt s).2.2 := by
  unfold memRead
  try dsimp only
  with_reducible repeat' (first | assumption | apply drainLog_kept | apply demandEcc_kept | apply account_kept | apply accessFail_kept | dsimp only | refine kept_of_snd (by assumption) ?_ | refine kept_of_snd2 (by assumption) ?_ | refine kept_of_fst (by assumption) ?_ | (simp only [kept_mk_iff]; (first | apply keptIn_fold | apply keptIn_flags)) | split | intro _)

theorem memWrite_kept {cs : Keep} (iss : Nat) (a : Access) (tier : Nat) (addr : Nat) (data : List (Byte × Bool)) (rmt : Bool) (s : State) (Hs : Kept cs s) : Kept cs (memWrite iss a tier addr data rmt s).2 := by
  unfold memWrite
  try dsimp only
  with_reducible repeat' (first | assumption | apply drainLog_kept | apply account_kept | apply writeChunks_kept | apply accessFail_kept | dsimp only | refine kept_of_snd (by assumption) ?_ | refine kept_of_snd2 (by assumption) ?_ | refine kept_of_fst (by assumption) ?_ | (simp only [kept_mk_iff]; (first | apply keptIn_fold | apply keptIn_flags)) | split | intro _)

theorem awaitIf_kept {cs : Keep} (code : Nat) (s : State) (Hs : Kept cs s) : Kept cs (awaitIf code s) := by
  unfold awaitIf
  try dsimp only
  with_reducible repeat' (first | assumption | dsimp only | refine kept_of_snd (by assumption) ?_ | refine kept_of_snd2 (by assumption) ?_ | refine kept_of_fst (by assumption) ?_ | (simp only [kept_mk_iff]; (first | apply keptIn_fold | apply keptIn_flags)) | split | intro _)

theorem readBlocks_kept {cs : Keep} (iss : Nat) (a : Access) (tier : Nat) (rmt : Nat → Bool) (a0 : List (Nat × Nat)) (a1 : State) (Ha1 : Kept cs a1) : Kept cs (readBlocks iss a tier rmt a0 a1).2.2 := by
  revert Ha1
  induction a0 generalizing a1 with
  | nil => intro Ha1; unfold readBlocks; (try dsimp only at *); (with_reducible repeat' (first | assumption | apply awaitIf_kept | apply memRead_kept | apply ih | dsimp only | refine kept_of_snd (by assumption) ?_ | refine kept_of_snd2 (by assumption) ?_ | refine kept_of_fst (by assumption) ?_ | (simp only [kept_mk_iff]; (first | apply keptIn_fold | apply keptIn_flags)) | split | intro _))
  | cons x xs ih => intro Ha1; unfold readBlocks; (try dsimp only at *); (with_reducible repeat' (first | assumption | apply awaitIf_kept | apply memRead_kept | apply ih | dsimp only | refine kept_of_snd (by assumption) ?_ | refine kept_of_snd2 (by assumption) ?_ | refine kept_of_fst (by assumption) ?_ | (simp only [kept_mk_iff]; (first | apply keptIn_fold | apply keptIn_flags)) | split | intro _))

theorem writeBlocks_kept {cs : Keep} (iss : Nat) (a : Access) (tier : Nat) (rmt : Nat → Bool) (a0 : List (Nat × Nat)) (a1 : List (Byte × Bool)) (a2 : State) (Ha2 : Kept cs a2) : Kept cs (writeBlocks iss a tier rmt a0 a1 a2).2 := by
  revert Ha2
  induction a0 generalizing a1 a2 with
  | nil => intro Ha2; unfold writeBlocks; (try dsimp only at *); (with_reducible repeat' (first | assumption | apply awaitIf_kept | apply memWrite_kept | apply ih | dsimp only | refine kept_of_snd (by assumption) ?_ | refine kept_of_snd2 (by assumption) ?_ | refine kept_of_fst (by assumption) ?_ | (simp only [kept_mk_iff]; (first | apply keptIn_fold | apply keptIn_flags)) | split | intro _))
  | cons x xs ih => intro Ha2; unfold writeBlocks; (try dsimp only at *); (with_reducible repeat' (first | assumption | apply awaitIf_kept | apply memWrite_kept | apply ih | dsimp only | refine kept_of_snd (by assumption) ?_ | refine kept_of_snd2 (by assumption) ?_ | refine kept_of_fst (by assumption) ?_ | (simp only [kept_mk_iff]; (first | apply keptIn_fold | apply keptIn_flags)) | split | intro _))

theorem bulkRead_kept {cs : Keep} (iss : Nat) (die : Nat) (a : Access) (tier : Nat) (addr : Nat) (len : Nat) (s : State) (Hs : Kept cs s) : Kept cs (bulkRead iss die a tier addr len s).2.2 := by
  unfold bulkRead
  try dsimp only
  with_reducible repeat' (first | assumption | apply readBlocks_kept | dsimp only | refine kept_of_snd (by assumption) ?_ | refine kept_of_snd2 (by assumption) ?_ | refine kept_of_fst (by assumption) ?_ | (simp only [kept_mk_iff]; (first | apply keptIn_fold | apply keptIn_flags)) | split | intro _)

theorem bulkWrite_kept {cs : Keep} (iss : Nat) (die : Nat) (a : Access) (tier : Nat) (addr : Nat) (d : List (Byte × Bool)) (s : State) (Hs : Kept cs s) : Kept cs (bulkWrite iss die a tier addr d s).2 := by
  unfold bulkWrite
  try dsimp only
  with_reducible repeat' (first | assumption | apply writeBlocks_kept | dsimp only | refine kept_of_snd (by assumption) ?_ | refine kept_of_snd2 (by assumption) ?_ | refine kept_of_fst (by assumption) ?_ | (simp only [kept_mk_iff]; (first | apply keptIn_fold | apply keptIn_flags)) | split | intro _)

theorem readPlain_kept {cs : Keep} (iss : Nat) (a : Access) (tier : Nat) (addr : Nat) (len : Nat) (s : State) (rmt : optParam Bool (dieOfPage iss != dieOfPage (tierCtl tier addr))) (Hs : Kept cs s) : Kept cs (readPlain iss a tier addr len s rmt).2.2 := by
  unfold readPlain
  try dsimp only
  with_reducible repeat' (first | assumption | apply awaitIf_kept | apply memRead_kept | dsimp only | refine kept_of_snd (by assumption) ?_ | refine kept_of_snd2 (by assumption) ?_ | refine kept_of_fst (by assumption) ?_ | (simp only [kept_mk_iff]; (first | apply keptIn_fold | apply keptIn_flags)) | split | intro _)

theorem atomicLane_kept {cs : Keep} (own : Nat) (slot : Nat) (tier : Nat) (addr : Nat) (code : Nat) (lane : Nat × Nat) (r : Bool × State) (Hr : Kept cs r.2) : Kept cs (atomicLane own slot tier addr code lane r).2 := by
  unfold atomicLane
  try dsimp only
  with_reducible repeat' (first | assumption | apply storeBytes_kept | apply State.setF_kept | dsimp only | refine kept_of_snd (by assumption) ?_ | refine kept_of_snd2 (by assumption) ?_ | refine kept_of_fst (by assumption) ?_ | (simp only [kept_mk_iff]; (first | apply keptIn_fold | apply keptIn_flags)) | split | intro _)

theorem atomicLanes_kept {cs : Keep} (own : Nat) (slot : Nat) (tier : Nat) (addr : Nat) (code : Nat) (a0 : List (Nat × Nat)) (a1 : Bool × State) (Ha1 : Kept cs a1.2) : Kept cs (atomicLanes own slot tier addr code a0 a1).2 := by
  revert Ha1
  induction a0 generalizing a1 with
  | nil => obtain ⟨a10, a11⟩ := a1; intro Ha1; unfold atomicLanes; (try dsimp only at *); (with_reducible repeat' (first | assumption | apply atomicLane_kept | apply ih | dsimp only | refine kept_of_snd (by assumption) ?_ | refine kept_of_snd2 (by assumption) ?_ | refine kept_of_fst (by assumption) ?_ | (simp only [kept_mk_iff]; (first | apply keptIn_fold | apply keptIn_flags)) | split | intro _))
  | cons x xs ih => obtain ⟨a10, a11⟩ := a1; intro Ha1; unfold atomicLanes; (try dsimp only at *); (with_reducible repeat' (first | assumption | apply atomicLane_kept | apply ih | dsimp only | refine kept_of_snd (by assumption) ?_ | refine kept_of_snd2 (by assumption) ?_ | refine kept_of_fst (by assumption) ?_ | (simp only [kept_mk_iff]; (first | apply keptIn_fold | apply keptIn_flags)) | split | intro _))

theorem memAtomic_kept {cs : Keep} (iss : Nat) (a : Access) (tier : Nat) (addr : Nat) (code : Nat) (lanes : List (Nat × Nat)) (rmt : Bool) (s : State) (Hs : Kept cs s) : Kept cs (memAtomic iss a tier addr code lanes rmt s).2.2 := by
  unfold memAtomic
  try dsimp only
  with_reducible repeat' (first | assumption | apply atomicLanes_kept | apply drainLog_kept | apply demandEcc_kept | apply account_kept | apply accessFail_kept | apply logErr_kept | apply perfOwn_kept | dsimp only | refine kept_of_snd (by assumption) ?_ | refine kept_of_snd2 (by assumption) ?_ | refine kept_of_fst (by assumption) ?_ | (simp only [kept_mk_iff]; (first | apply keptIn_fold | apply keptIn_flags)) | split | intro _)

theorem State.setLink_kept {cs : Keep} (s : State) (l : Nat) (v : LinkSt) (Hs : Kept cs s) : Kept cs (State.setLink s l v) := by
  unfold State.setLink
  try dsimp only
  with_reducible repeat' (first | assumption | dsimp only | refine kept_of_snd (by assumption) ?_ | refine kept_of_snd2 (by assumption) ?_ | refine kept_of_fst (by assumption) ?_ | (simp only [kept_mk_iff]; (first | apply keptIn_fold | apply keptIn_flags)) | split | intro _)

theorem sendBits_kept {cs : Keep} (l : Nat) (lane : Nat) (n : Nat) (v : Nat) (s : State) (Hs : Kept cs s) : Kept cs (sendBits l lane n v s) := by
  unfold sendBits
  try dsimp only
  with_reducible repeat' (first | assumption | apply State.setLink_kept | apply State.emit_kept | dsimp only | refine kept_of_snd (by assumption) ?_ | refine kept_of_snd2 (by assumption) ?_ | refine kept_of_fst (by assumption) ?_ | (simp only [kept_mk_iff]; (first | apply keptIn_fold | apply keptIn_flags)) | split | intro _)

theorem sendBlock_kept {cs : Keep} (l : Nat) (lane : Nat) (hdr : Nat) (v : Nat) (s : State) (Hs : Kept cs s) : Kept cs (sendBlock l lane hdr v s) := by
  unfold sendBlock
  try dsimp only
  with_reducible repeat' (first | assumption | apply sendBits_kept | apply State.setLink_kept | dsimp only | refine kept_of_snd (by assumption) ?_ | refine kept_of_snd2 (by assumption) ?_ | refine kept_of_fst (by assumption) ?_ | (simp only [kept_mk_iff]; (first | apply keptIn_fold | apply keptIn_flags)) | split | intro _)

theorem sendRaw_kept {cs : Keep} (l : Nat) (bs : List Byte) (s : State) (Hs : Kept cs s) : Kept cs (sendRaw l bs s) := by
  unfold sendRaw
  try dsimp only
  with_reducible repeat' (first | assumption | apply sendBlock_kept | apply State.emit_kept | apply forUp_kept | apply forUp_kept2 | dsimp only | refine kept_of_snd (by assumption) ?_ | refine kept_of_snd2 (by assumption) ?_ | refine kept_of_fst (by assumption) ?_ | (simp only [kept_mk_iff]; (first | apply keptIn_fold | apply keptIn_flags)) | split | intro _)

theorem sendControl_kept {cs : Keep} (l : Nat) (lane : Nat) (bs : List Byte) (s : State) (Hs : Kept cs s) : Kept cs (sendControl l lane bs s) := by
  unfold sendControl
  try dsimp only
  with_reducible repeat' (first | assumption | apply sendBlock_kept | apply State.emit_kept | dsimp only | refine kept_of_snd (by assumption) ?_ | refine kept_of_snd2 (by assumption) ?_ | refine kept_of_fst (by assumption) ?_ | (simp only [kept_mk_iff]; (first | apply keptIn_fold | apply keptIn_flags)) | split | intro _)

theorem sendNop_kept {cs : Keep} (l : Nat) (nak : Bool) (cvc : Nat) (crd : Nat) (s : State) (Hs : Kept cs s) : Kept cs (sendNop l nak cvc crd s) := by
  unfold sendNop
  try dsimp only
  with_reducible repeat' (first | assumption | apply sendRaw_kept | apply State.setLink_kept | dsimp only | refine kept_of_snd (by assumption) ?_ | refine kept_of_snd2 (by assumption) ?_ | refine kept_of_fst (by assumption) ?_ | (simp only [kept_mk_iff]; (first | apply keptIn_fold | apply keptIn_flags)) | split | intro _)

theorem sendFlit_kept {cs : Keep} (l : Nat) (f : Flit) (s : State) (Hs : Kept cs s) : Kept cs (sendFlit l f s) := by
  unfold sendFlit
  try dsimp only
  with_reducible repeat' (first | assumption | apply sendNop_kept | apply sendRaw_kept | apply State.setLink_kept | apply perf_kept | dsimp only | refine kept_of_snd (by assumption) ?_ | refine kept_of_snd2 (by assumption) ?_ | refine kept_of_fst (by assumption) ?_ | (simp only [kept_mk_iff]; (first | apply keptIn_fold | apply keptIn_flags)) | split | intro _)

theorem sendBodies_kept {cs : Keep} (l : Nat) (a0 : List (List Byte)) (a1 : State) (Ha1 : Kept cs a1) : Kept cs (sendBodies l a0 a1) := by
  revert Ha1
  induction a0 generalizing a1 with
  | nil => intro Ha1; unfold sendBodies; (try dsimp only at *); (with_reducible repeat' (first | assumption | apply sendFlit_kept | apply State.setLink_kept | apply ih | dsimp only | refine kept_of_snd (by assumption) ?_ | refine kept_of_snd2 (by assumption) ?_ | refine kept_of_fst (by assumption) ?_ | (simp only [kept_mk_iff]; (first | apply keptIn_fold | apply keptIn_flags)) | split | intro _))
  | cons x xs ih => intro Ha1; unfold sendBodies; (try dsimp only at *); (with_reducible repeat' (first | assumption | apply sendFlit_kept | apply State.setLink_kept | apply ih | dsimp only | refine kept_of_snd (by assumption) ?_ | refine kept_of_snd2 (by assumption) ?_ | refine kept_of_fst (by assumption) ?_ | (simp only [kept_mk_iff]; (first | apply keptIn_fold | apply keptIn_flags)) | split | intro _))

theorem flush_kept {cs : Keep} (l : Nat) (a0 : Nat) (a1 : State) (Ha1 : Kept cs a1) : Kept cs (flush l a0 a1) := by
  revert Ha1
  induction a0 generalizing a1 with
  | zero => intro Ha1; unfold flush; (try dsimp only at *); (with_reducible repeat' (first | assumption | apply sendBodies_kept | apply State.setLink_kept | apply perf_kept | apply State.setF_kept | apply ih | dsimp only | refine kept_of_snd (by assumption) ?_ | refine kept_of_snd2 (by assumption) ?_ | refine kept_of_fst (by assumption) ?_ | (simp only [kept_mk_iff]; (first | apply keptIn_fold | apply keptIn_flags)) | split | intro _))
  | succ n ih => intro Ha1; unfold flush; (try dsimp only at *); (with_reducible repeat' (first | assumption | apply sendBodies_kept | apply State.setLink_kept | apply perf_kept | apply State.setF_kept | apply ih | dsimp only | refine kept_of_snd (by assumption) ?_ | refine kept_of_snd2 (by assumption) ?_ | refine kept_of_fst (by assumption) ?_ | (simp only [kept_mk_iff]; (first | apply keptIn_fold | apply keptIn_flags)) | split | intro _))

theorem flushAll_kept {cs : Keep} (l : Nat) (s : State) (Hs : Kept cs s) : Kept cs (flushAll l s) := by
  unfold flushAll
  try dsimp only
  with_reducible repeat' (first | assumption | apply flush_kept | dsimp only | refine kept_of_snd (by assumption) ?_ | refine kept_of_snd2 (by assumption) ?_ | refine kept_of_fst (by assumption) ?_ | (simp only [kept_mk_iff]; (first | apply keptIn_fold | apply keptIn_flags)) | split | intro _)

theorem enqueuePkt_kept {cs : Keep} (l : Nat) (p : Packet) (s : State) (Hs : Kept cs s) : Kept cs (enqueuePkt l p s) := by
  unfold enqueuePkt
  try dsimp only
  with_reducible repeat' (first | assumption | apply flushAll_kept | apply State.setLink_kept | dsimp only | refine kept_of_snd (by assumption) ?_ | refine kept_of_snd2 (by assumption) ?_ | refine kept_of_fst (by assumption) ?_ | (simp only [kept_mk_iff]; (first | apply keptIn_fold | apply keptIn_flags)) | split | intro _)

theorem issueReq_kept {cs : Keep} (o : FabOut) (s : State) (Hs : Kept cs s) : Kept cs (issueReq o s).2 := by
  unfold issueReq
  try dsimp only
  with_reducible repeat' (first | assumption | apply enqueuePkt_kept | dsimp only | refine kept_of_snd (by assumption) ?_ | refine kept_of_snd2 (by assumption) ?_ | refine kept_of_fst (by assumption) ?_ | (simp only [kept_mk_iff]; (first | apply keptIn_fold | apply keptIn_flags)) | split | intro _)

theorem freeReq_kept {cs : Keep} (t : Nat) (s : State) (Hs : Kept cs s) : Kept cs (freeReq t s) := by
  unfold freeReq
  try dsimp only
  with_reducible repeat' (first | assumption | dsimp only | refine kept_of_snd (by assumption) ?_ | refine kept_of_snd2 (by assumption) ?_ | refine kept_of_fst (by assumption) ?_ | (simp only [kept_mk_iff]; (first | apply keptIn_fold | apply keptIn_flags)) | split | intro _)

theorem quarantine_kept {cs : Keep} (t : Nat) (s : State) (Hs : Kept cs s) : Kept cs (quarantine t s) := by
  unfold quarantine
  try dsimp only
  with_reducible repeat' (first | assumption | dsimp only | refine kept_of_snd (by assumption) ?_ | refine kept_of_snd2 (by assumption) ?_ | refine kept_of_fst (by assumption) ?_ | (simp only [kept_mk_iff]; (first | apply keptIn_fold | apply keptIn_flags)) | split | intro _)

theorem sendEvent_kept {cs : Keep} (p : Nat) (lid : Nat) (slot : Nat) (s : State) (Hs : Kept cs s) : Kept cs (sendEvent p lid slot s) := by
  unfold sendEvent
  try dsimp only
  with_reducible repeat' (first | assumption | apply issueReq_kept | apply logErr_kept | dsimp only | refine kept_of_snd (by assumption) ?_ | refine kept_of_snd2 (by assumption) ?_ | refine kept_of_fst (by assumption) ?_ | (simp only [kept_mk_iff]; (first | apply keptIn_fold | apply keptIn_flags)) | split | intro _)

end Sys2Proof.Machine
end

