-- ==== Sys2Proof/Laws/KeptCore.lean ====
section
/-! SUPPORT.  What the operations of the scheduler, the cores, streams, loads, the sequencer and the accumulators keep: the queue of waiting
commands, and the canonical form of the registers and the stores.  One lemma per operation. -/

set_option linter.all false

namespace Sys2Proof.Machine

theorem State.setSc_kept {cs : Keep} (s : State) (p : Nat) (v : Sched) (Hs : Kept cs s) : Kept cs (State.setSc s p v) := by
  unfold State.setSc
  try dsimp only
  with_reducible repeat' (first | assumption | dsimp only | refine kept_of_snd (by assumption) ?_ | refine kept_of_snd2 (by assumption) ?_ | refine kept_of_fst (by assumption) ?_ | (simp only [kept_mk_iff]; (first | apply keptIn_fold | apply keptIn_flags)) | split | intro _)

theorem State.setSlot_kept {cs : Keep} (s : State) (p : Nat) (n : Nat) (v : OpSlot) (Hs : Kept cs s) : Kept cs (State.setSlot s p n v) := by
  unfold State.setSlot
  try dsimp only
  with_reducible repeat' (first | assumption | apply State.setSc_kept | dsimp only | refine kept_of_snd (by assumption) ?_ | refine kept_of_snd2 (by assumption) ?_ | refine kept_of_fst (by assumption) ?_ | (simp only [kept_mk_iff]; (first | apply keptIn_fold | apply keptIn_flags)) | split | intro _)

theorem State.setFlow_kept {cs : Keep} (s : State) (p : Nat) (n : Nat) (v : Flow) (Hs : Kept cs s) : Kept cs (State.setFlow s p n v) := by
  unfold State.setFlow
  try dsimp only
  with_reducible repeat' (first | assumption | apply State.setSc_kept | dsimp only | refine kept_of_snd (by assumption) ?_ | refine kept_of_snd2 (by assumption) ?_ | refine kept_of_fst (by assumption) ?_ | (simp only [kept_mk_iff]; (first | apply keptIn_fold | apply keptIn_flags)) | split | intro _)

theorem trace_kept {cs : Keep} (p : Nat) (n : Nat) (kind : Nat) (code : Nat) (tag : Option Nat) (s : State) (Hs : Kept cs s) : Kept cs (trace p n kind code tag s) := by
  unfold trace
  try dsimp only
  with_reducible repeat' (first | assumption | apply memWrite_kept | apply State.addF_kept | apply State.setF_kept | dsimp only | refine kept_of_snd (by assumption) ?_ | refine kept_of_snd2 (by assumption) ?_ | refine kept_of_fst (by assumption) ?_ | (simp only [kept_mk_iff]; (first | apply keptIn_fold | apply keptIn_flags)) | split | intro _)

theorem becomeReady_kept {cs : Keep} (p : Nat) (n : Nat) (s : State) (Hs : Kept cs s) : Kept cs (becomeReady p n s) := by
  unfold becomeReady
  try dsimp only
  with_reducible repeat' (first | assumption | apply State.setSlot_kept | apply State.setSc_kept | dsimp only | refine kept_of_snd (by assumption) ?_ | refine kept_of_snd2 (by assumption) ?_ | refine kept_of_fst (by assumption) ?_ | (simp only [kept_mk_iff]; (first | apply keptIn_fold | apply keptIn_flags)) | split | intro _)

theorem orphan_kept {cs : Keep} (p : Nat) (n : Nat) (s : State) (Hs : Kept cs s) : Kept cs (orphan p n s) := by
  unfold orphan
  try dsimp only
  with_reducible repeat' (first | assumption | apply logErr_kept | apply State.addF_kept | dsimp only | refine kept_of_snd (by assumption) ?_ | refine kept_of_snd2 (by assumption) ?_ | refine kept_of_fst (by assumption) ?_ | (simp only [kept_mk_iff]; (first | apply keptIn_fold | apply keptIn_flags)) | split | intro _)

theorem decrement_kept {cs : Keep} (p : Nat) (n : Nat) (s : State) (Hs : Kept cs s) : Kept cs (decrement p n s) := by
  unfold decrement
  try dsimp only
  with_reducible repeat' (first | assumption | apply orphan_kept | apply becomeReady_kept | apply State.setSlot_kept | apply perf_kept | dsimp only | refine kept_of_snd (by assumption) ?_ | refine kept_of_snd2 (by assumption) ?_ | refine kept_of_fst (by assumption) ?_ | (simp only [kept_mk_iff]; (first | apply keptIn_fold | apply keptIn_flags)) | split | intro _)

theorem decrements_kept {cs : Keep} (p : Nat) (n : Nat) (a0 : Nat) (a1 : State) (Ha1 : Kept cs a1) : Kept cs (decrements p n a0 a1) := by
  revert Ha1
  induction a0 generalizing a1 with
  | zero => intro Ha1; unfold decrements; (try dsimp only at *); (with_reducible repeat' (first | assumption | apply decrement_kept | apply ih | dsimp only | refine kept_of_snd (by assumption) ?_ | refine kept_of_snd2 (by assumption) ?_ | refine kept_of_fst (by assumption) ?_ | (simp only [kept_mk_iff]; (first | apply keptIn_fold | apply keptIn_flags)) | split | intro _))
  | succ n ih => intro Ha1; unfold decrements; (try dsimp only at *); (with_reducible repeat' (first | assumption | apply decrement_kept | apply ih | dsimp only | refine kept_of_snd (by assumption) ?_ | refine kept_of_snd2 (by assumption) ?_ | refine kept_of_fst (by assumption) ?_ | (simp only [kept_mk_iff]; (first | apply keptIn_fold | apply keptIn_flags)) | split | intro _))

theorem succWord_kept {cs : Keep} (p : Nat) (w : Nat) (s : State) (Hs : Kept cs s) : Kept cs (succWord p w s) := by
  unfold succWord
  try dsimp only
  with_reducible repeat' (first | assumption | apply decrement_kept | apply sendEvent_kept | apply logErr_kept | dsimp only | refine kept_of_snd (by assumption) ?_ | refine kept_of_snd2 (by assumption) ?_ | refine kept_of_fst (by assumption) ?_ | (simp only [kept_mk_iff]; (first | apply keptIn_fold | apply keptIn_flags)) | split | intro _)

theorem succFrom_kept {cs : Keep} (p : Nat) (tier : Nat) (edges : List Nat) (a0 : Nat) (a1 : Nat) (a2 : State) (Ha2 : Kept cs a2) : Kept cs (succFrom p tier edges a0 a1 a2) := by
  revert Ha2
  induction a0 generalizing a1 a2 with
  | zero => intro Ha2; unfold succFrom; (try dsimp only at *); (with_reducible repeat' (first | assumption | apply succWord_kept | apply decrement_kept | apply State.setSc_kept | apply readPlain_kept | apply logErr_kept | apply forEach_kept | apply ih | dsimp only | refine kept_of_snd (by assumption) ?_ | refine kept_of_snd2 (by assumption) ?_ | refine kept_of_fst (by assumption) ?_ | (simp only [kept_mk_iff]; (first | apply keptIn_fold | apply keptIn_flags)) | split | intro _))
  | succ n ih => intro Ha2; unfold succFrom; (try dsimp only at *); (with_reducible repeat' (first | assumption | apply succWord_kept | apply decrement_kept | apply State.setSc_kept | apply readPlain_kept | apply logErr_kept | apply forEach_kept | apply ih | dsimp only | refine kept_of_snd (by assumption) ?_ | refine kept_of_snd2 (by assumption) ?_ | refine kept_of_fst (by assumption) ?_ | (simp only [kept_mk_iff]; (first | apply keptIn_fold | apply keptIn_flags)) | split | intro _))

theorem signalSuccs_kept {cs : Keep} (p : Nat) (n : Nat) (s : State) (Hs : Kept cs s) : Kept cs (signalSuccs p n s) := by
  unfold signalSuccs
  try dsimp only
  with_reducible repeat' (first | assumption | apply succFrom_kept | apply decrement_kept | apply forEach_kept | dsimp only | refine kept_of_snd (by assumption) ?_ | refine kept_of_snd2 (by assumption) ?_ | refine kept_of_fst (by assumption) ?_ | (simp only [kept_mk_iff]; (first | apply keptIn_fold | apply keptIn_flags)) | split | intro _)

theorem retrySuccs_kept {cs : Keep} (p : Nat) (s : State) (Hs : Kept cs s) : Kept cs (retrySuccs p s) := by
  unfold retrySuccs
  try dsimp only
  with_reducible repeat' (first | assumption | apply succFrom_kept | apply State.setSc_kept | apply forEach_kept | dsimp only | refine kept_of_snd (by assumption) ?_ | refine kept_of_snd2 (by assumption) ?_ | refine kept_of_fst (by assumption) ?_ | (simp only [kept_mk_iff]; (first | apply keptIn_fold | apply keptIn_flags)) | split | intro _)

theorem rearm_kept {cs : Keep} (p : Nat) (n : Nat) (s : State) (Hs : Kept cs s) : Kept cs (rearm p n s) := by
  unfold rearm
  try dsimp only
  with_reducible repeat' (first | assumption | apply becomeReady_kept | apply State.setSlot_kept | apply State.setSc_kept | dsimp only | refine kept_of_snd (by assumption) ?_ | refine kept_of_snd2 (by assumption) ?_ | refine kept_of_fst (by assumption) ?_ | (simp only [kept_mk_iff]; (first | apply keptIn_fold | apply keptIn_flags)) | split | intro _)

theorem release_kept {cs : Keep} (p : Nat) (n : Nat) (s : State) (Hs : Kept cs s) : Kept cs (release p n s) := by
  unfold release
  try dsimp only
  with_reducible repeat' (first | assumption | apply rearm_kept | apply signalSuccs_kept | apply trace_kept | dsimp only | refine kept_of_snd (by assumption) ?_ | refine kept_of_snd2 (by assumption) ?_ | refine kept_of_fst (by assumption) ?_ | (simp only [kept_mk_iff]; (first | apply keptIn_fold | apply keptIn_flags)) | split | intro _)

theorem advance_kept {cs : Keep} (p : Nat) (fl : Nat) (a0 : Nat) (a1 : State) (Ha1 : Kept cs a1) : Kept cs (advance p fl a0 a1) := by
  revert Ha1
  induction a0 generalizing a1 with
  | zero => intro Ha1; unfold advance; (try dsimp only at *); (with_reducible repeat' (first | assumption | apply release_kept | apply State.setFlow_kept | apply State.setSc_kept | apply ih | dsimp only | refine kept_of_snd (by assumption) ?_ | refine kept_of_snd2 (by assumption) ?_ | refine kept_of_fst (by assumption) ?_ | (simp only [kept_mk_iff]; (first | apply keptIn_fold | apply keptIn_flags)) | split | intro _))
  | succ n ih => intro Ha1; unfold advance; (try dsimp only at *); (with_reducible repeat' (first | assumption | apply release_kept | apply State.setFlow_kept | apply State.setSc_kept | apply ih | dsimp only | refine kept_of_snd (by assumption) ?_ | refine kept_of_snd2 (by assumption) ?_ | refine kept_of_fst (by assumption) ?_ | (simp only [kept_mk_iff]; (first | apply keptIn_fold | apply keptIn_flags)) | split | intro _))

theorem markRel_kept {cs : Keep} (p : Nat) (n : Nat) (st : RelSt) (s : State) (Hs : Kept cs s) : Kept cs (markRel p n st s) := by
  unfold markRel
  try dsimp only
  with_reducible repeat' (first | assumption | apply State.setSc_kept | dsimp only | refine kept_of_snd (by assumption) ?_ | refine kept_of_snd2 (by assumption) ?_ | refine kept_of_fst (by assumption) ?_ | (simp only [kept_mk_iff]; (first | apply keptIn_fold | apply keptIn_flags)) | split | intro _)

theorem releaseNow_kept {cs : Keep} (p : Nat) (n : Nat) (s : State) (Hs : Kept cs s) : Kept cs (releaseNow p n s) := by
  unfold releaseNow
  try dsimp only
  with_reducible repeat' (first | assumption | apply markRel_kept | apply advance_kept | apply release_kept | apply State.setSlot_kept | dsimp only | refine kept_of_snd (by assumption) ?_ | refine kept_of_snd2 (by assumption) ?_ | refine kept_of_fst (by assumption) ?_ | (simp only [kept_mk_iff]; (first | apply keptIn_fold | apply keptIn_flags)) | split | intro _)

theorem completed_kept {cs : Keep} (p : Nat) (n : Nat) (s : State) (Hs : Kept cs s) : Kept cs (completed p n s) := by
  unfold completed
  try dsimp only
  with_reducible repeat' (first | assumption | apply releaseNow_kept | apply trace_kept | dsimp only | refine kept_of_snd (by assumption) ?_ | refine kept_of_snd2 (by assumption) ?_ | refine kept_of_fst (by assumption) ?_ | (simp only [kept_mk_iff]; (first | apply keptIn_fold | apply keptIn_flags)) | split | intro _)

theorem dropUnsent_kept {cs : Keep} (p : Nat) (n : Nat) (s : State) (Hs : Kept cs s) : Kept cs (dropUnsent p n s) := by
  unfold dropUnsent
  try dsimp only
  with_reducible repeat' (first | assumption | dsimp only | refine kept_of_snd (by assumption) ?_ | refine kept_of_snd2 (by assumption) ?_ | refine kept_of_fst (by assumption) ?_ | (simp only [kept_mk_iff]; (first | apply keptIn_fold | apply keptIn_flags)) | split | intro _)

theorem opFault_kept {cs : Keep} (p : Nat) (n : Nat) (code : Nat) (tag : Option Nat) (s : State) (Hs : Kept cs s) : Kept cs (opFault p n code tag s) := by
  unfold opFault
  try dsimp only
  with_reducible repeat' (first | assumption | apply dropUnsent_kept | apply releaseNow_kept | apply markRel_kept | apply advance_kept | apply trace_kept | apply State.setSlot_kept | dsimp only | refine kept_of_snd (by assumption) ?_ | refine kept_of_snd2 (by assumption) ?_ | refine kept_of_fst (by assumption) ?_ | (simp only [kept_mk_iff]; (first | apply keptIn_fold | apply keptIn_flags)) | split | intro _)

theorem drainEnd_kept {cs : Keep} (p : Nat) (n : Nat) (s : State) (Hs : Kept cs s) : Kept cs (drainEnd p n s) := by
  unfold drainEnd
  try dsimp only
  with_reducible repeat' (first | assumption | apply releaseNow_kept | dsimp only | refine kept_of_snd (by assumption) ?_ | refine kept_of_snd2 (by assumption) ?_ | refine kept_of_fst (by assumption) ?_ | (simp only [kept_mk_iff]; (first | apply keptIn_fold | apply keptIn_flags)) | split | intro _)

theorem State.setQp_kept {cs : Keep} (s : State) (p : Nat) (q : Nat) (v : Qp) (Hs : Kept cs s) : Kept cs (State.setQp s p q v) := by
  unfold State.setQp
  try dsimp only
  with_reducible repeat' (first | assumption | dsimp only | refine kept_of_snd (by assumption) ?_ | refine kept_of_snd2 (by assumption) ?_ | refine kept_of_fst (by assumption) ?_ | (simp only [kept_mk_iff]; (first | apply keptIn_fold | apply keptIn_flags)) | split | intro _)

theorem respond_kept {cs : Keep} (p : Nat) (src : CmdSrc) (code : Nat) (check : Nat) (slot : Nat) (s : State) (Hs : Kept cs s) : Kept cs (respond p src code check slot s) := by
  unfold respond
  try dsimp only
  with_reducible repeat' (first | assumption | apply State.setQp_kept | apply State.setF_kept | dsimp only | refine kept_of_snd (by assumption) ?_ | refine kept_of_snd2 (by assumption) ?_ | refine kept_of_fst (by assumption) ?_ | (simp only [kept_mk_iff]; (first | apply keptIn_fold | apply keptIn_flags)) | split | intro _)

theorem refuseCmd_kept {cs : Keep} (p : Nat) (src : CmdSrc) (code : Nat) (check : Nat) (slot : Nat) (s : State) (Hs : Kept cs s) : Kept cs (refuseCmd p src code check slot s) := by
  unfold refuseCmd
  try dsimp only
  with_reducible repeat' (first | assumption | apply respond_kept | apply logErr_kept | apply perf_kept | dsimp only | refine kept_of_snd (by assumption) ?_ | refine kept_of_snd2 (by assumption) ?_ | refine kept_of_fst (by assumption) ?_ | (simp only [kept_mk_iff]; (first | apply keptIn_fold | apply keptIn_flags)) | split | intro _)

theorem popCmd_kept {cs : Keep} (p : Nat) (s : State) (Hs : Kept cs s) : Kept cs (popCmd p s) := by
  unfold popCmd
  try dsimp only
  with_reducible repeat' (first | assumption | apply State.setSc_kept | dsimp only | refine kept_of_snd (by assumption) ?_ | refine kept_of_snd2 (by assumption) ?_ | refine kept_of_fst (by assumption) ?_ | (simp only [kept_mk_iff]; (first | apply keptIn_fold | apply keptIn_flags)) | split | intro _)

theorem evalHead_kept {cs : Keep} (p : Nat) (op : Nat) (k : GraphCmd → State → State) (s : State) (Hk : ∀ x0 s, Kept cs s → Kept cs (k x0 s)) (Hs : Kept cs s) : Kept cs (evalHead p op k s) := by
  unfold evalHead
  try dsimp only
  with_reducible repeat' (first | assumption | apply Hk | apply popCmd_kept | apply refuseCmd_kept | dsimp only | refine kept_of_snd (by assumption) ?_ | refine kept_of_snd2 (by assumption) ?_ | refine kept_of_fst (by assumption) ?_ | (simp only [kept_mk_iff]; (first | apply keptIn_fold | apply keptIn_flags)) | split | intro _)

theorem cmdSignal_kept {cs : Keep} (p : Nat) (s : State) (Hs : Kept cs s) : Kept cs (cmdSignal p s) := by
  unfold cmdSignal
  try dsimp only
  with_reducible repeat' (first | assumption | apply evalHead_kept | apply respond_kept | apply decrements_kept | dsimp only | refine kept_of_snd (by assumption) ?_ | refine kept_of_snd2 (by assumption) ?_ | refine kept_of_fst (by assumption) ?_ | (simp only [kept_mk_iff]; (first | apply keptIn_fold | apply keptIn_flags)) | split | intro _)

theorem cmdLink_kept {cs : Keep} (p : Nat) (s : State) (Hs : Kept cs s) : Kept cs (cmdLink p s) := by
  unfold cmdLink
  try dsimp only
  with_reducible repeat' (first | assumption | apply evalHead_kept | apply refuseCmd_kept | apply respond_kept | apply State.setSlot_kept | apply State.setSc_kept | dsimp only | refine kept_of_snd (by assumption) ?_ | refine kept_of_snd2 (by assumption) ?_ | refine kept_of_fst (by assumption) ?_ | (simp only [kept_mk_iff]; (first | apply keptIn_fold | apply keptIn_flags)) | split | intro _)

theorem emptyRange_kept {cs : Keep} (p : Nat) (first : Nat) (count : Nat) (s : State) (Hs : Kept cs s) : Kept cs (emptyRange p first count s) := by
  unfold emptyRange
  try dsimp only
  with_reducible repeat' (first | assumption | apply State.setSc_kept | dsimp only | refine kept_of_snd (by assumption) ?_ | refine kept_of_snd2 (by assumption) ?_ | refine kept_of_fst (by assumption) ?_ | (simp only [kept_mk_iff]; (first | apply keptIn_fold | apply keptIn_flags)) | split | intro _)

theorem cmdUnload_kept {cs : Keep} (p : Nat) (s : State) (Hs : Kept cs s) : Kept cs (cmdUnload p s) := by
  unfold cmdUnload
  try dsimp only
  with_reducible repeat' (first | assumption | apply emptyRange_kept | apply evalHead_kept | apply refuseCmd_kept | apply respond_kept | dsimp only | refine kept_of_snd (by assumption) ?_ | refine kept_of_snd2 (by assumption) ?_ | refine kept_of_fst (by assumption) ?_ | (simp only [kept_mk_iff]; (first | apply keptIn_fold | apply keptIn_flags)) | split | intro _)

theorem cmdRetry_kept {cs : Keep} (p : Nat) (s : State) (Hs : Kept cs s) : Kept cs (cmdRetry p s) := by
  unfold cmdRetry
  try dsimp only
  with_reducible repeat' (first | assumption | apply evalHead_kept | apply refuseCmd_kept | apply respond_kept | apply becomeReady_kept | dsimp only | refine kept_of_snd (by assumption) ?_ | refine kept_of_snd2 (by assumption) ?_ | refine kept_of_fst (by assumption) ?_ | (simp only [kept_mk_iff]; (first | apply keptIn_fold | apply keptIn_flags)) | split | intro _)

theorem cmdLoad_kept {cs : Keep} (p : Nat) (s : State) (Hs : Kept cs s) : Kept cs (cmdLoad p s) := by
  unfold cmdLoad
  try dsimp only
  with_reducible repeat' (first | assumption | apply evalHead_kept | apply refuseCmd_kept | apply State.setSlot_kept | apply State.setSc_kept | apply forUp_kept | apply forUp_kept2 | dsimp only | refine kept_of_snd (by assumption) ?_ | refine kept_of_snd2 (by assumption) ?_ | refine kept_of_fst (by assumption) ?_ | (simp only [kept_mk_iff]; (first | apply keptIn_fold | apply keptIn_flags)) | split | intro _)

theorem tableRead_kept {cs : Keep} (p : Nat) (o : OpSlot) (s : State) (Hs : Kept cs s) : Kept cs (tableRead p o s).2.2 := by
  unfold tableRead
  try dsimp only
  with_reducible repeat' (first | assumption | apply bulkRead_kept | dsimp only | refine kept_of_snd (by assumption) ?_ | refine kept_of_snd2 (by assumption) ?_ | refine kept_of_fst (by assumption) ?_ | (simp only [kept_mk_iff]; (first | apply keptIn_fold | apply keptIn_flags)) | split | intro _)

theorem readDesc_kept {cs : Keep} (p : Nat) (n : Nat) (tier : Nat) (addr : Nat) (s : State) (Hs : Kept cs s) : Kept cs (readDesc p n tier addr s).2 := by
  unfold readDesc
  try dsimp only
  with_reducible repeat' (first | assumption | apply tableRead_kept | apply readPlain_kept | dsimp only | refine kept_of_snd (by assumption) ?_ | refine kept_of_snd2 (by assumption) ?_ | refine kept_of_fst (by assumption) ?_ | (simp only [kept_mk_iff]; (first | apply keptIn_fold | apply keptIn_flags)) | split | intro _)

theorem readDescs_kept {cs : Keep} (p : Nat) (tier : Nat) (addr : Nat) (first : Nat) (a0 : Nat) (a1 : Nat) (a2 : State) (Ha2 : Kept cs a2) : Kept cs (readDescs p tier addr first a0 a1 a2).2 := by
  revert Ha2
  induction a0 generalizing a1 a2 with
  | zero => intro Ha2; unfold readDescs; (try dsimp only at *); (with_reducible repeat' (first | assumption | apply readDesc_kept | apply ih | dsimp only | refine kept_of_snd (by assumption) ?_ | refine kept_of_snd2 (by assumption) ?_ | refine kept_of_fst (by assumption) ?_ | (simp only [kept_mk_iff]; (first | apply keptIn_fold | apply keptIn_flags)) | split | intro _))
  | succ n ih => intro Ha2; unfold readDescs; (try dsimp only at *); (with_reducible repeat' (first | assumption | apply readDesc_kept | apply ih | dsimp only | refine kept_of_snd (by assumption) ?_ | refine kept_of_snd2 (by assumption) ?_ | refine kept_of_fst (by assumption) ?_ | (simp only [kept_mk_iff]; (first | apply keptIn_fold | apply keptIn_flags)) | split | intro _))

theorem commitSlot_kept {cs : Keep} (p : Nat) (n : Nat) (d : List Nat) (s : State) (Hs : Kept cs s) : Kept cs (commitSlot p n d s) := by
  unfold commitSlot
  try dsimp only
  with_reducible repeat' (first | assumption | apply decrements_kept | apply becomeReady_kept | apply State.setSlot_kept | dsimp only | refine kept_of_snd (by assumption) ?_ | refine kept_of_snd2 (by assumption) ?_ | refine kept_of_fst (by assumption) ?_ | (simp only [kept_mk_iff]; (first | apply keptIn_fold | apply keptIn_flags)) | split | intro _)

theorem commitAll_kept {cs : Keep} (p : Nat) (a0 : Nat) (a1 : List (List Nat)) (a2 : State) (Ha2 : Kept cs a2) : Kept cs (commitAll p a0 a1 a2) := by
  revert Ha2
  induction a1 generalizing a0 a2 with
  | nil => intro Ha2; unfold commitAll; (try dsimp only at *); (with_reducible repeat' (first | assumption | apply commitSlot_kept | apply ih | dsimp only | refine kept_of_snd (by assumption) ?_ | refine kept_of_snd2 (by assumption) ?_ | refine kept_of_fst (by assumption) ?_ | (simp only [kept_mk_iff]; (first | apply keptIn_fold | apply keptIn_flags)) | split | intro _))
  | cons x xs ih => intro Ha2; unfold commitAll; (try dsimp only at *); (with_reducible repeat' (first | assumption | apply commitSlot_kept | apply ih | dsimp only | refine kept_of_snd (by assumption) ?_ | refine kept_of_snd2 (by assumption) ?_ | refine kept_of_fst (by assumption) ?_ | (simp only [kept_mk_iff]; (first | apply keptIn_fold | apply keptIn_flags)) | split | intro _))

theorem abandonSlot_kept {cs : Keep} (p : Nat) (n : Nat) (s : State) (Hs : Kept cs s) : Kept cs (abandonSlot p n s) := by
  unfold abandonSlot
  try dsimp only
  with_reducible repeat' (first | assumption | apply decrements_kept | apply State.setSlot_kept | dsimp only | refine kept_of_snd (by assumption) ?_ | refine kept_of_snd2 (by assumption) ?_ | refine kept_of_fst (by assumption) ?_ | (simp only [kept_mk_iff]; (first | apply keptIn_fold | apply keptIn_flags)) | split | intro _)

theorem loadCommit_kept {cs : Keep} (p : Nat) (s : State) (Hs : Kept cs s) : Kept cs (loadCommit p s) := by
  unfold loadCommit
  try dsimp only
  with_reducible repeat' (first | assumption | apply abandonSlot_kept | apply commitAll_kept | apply readDescs_kept | apply refuseCmd_kept | apply respond_kept | apply State.setSc_kept | apply forUp_kept | apply forUp_kept2 | dsimp only | refine kept_of_snd (by assumption) ?_ | refine kept_of_snd2 (by assumption) ?_ | refine kept_of_fst (by assumption) ?_ | (simp only [kept_mk_iff]; (first | apply keptIn_fold | apply keptIn_flags)) | split | intro _)

theorem enqueueCmd_kept {cs : Keep} (p : Nat) (c : GraphCmd) (s : State) (Hs : Kept cs s) : Kept cs (enqueueCmd p c s) := by
  unfold enqueueCmd
  try dsimp only
  with_reducible repeat' (first | assumption | apply State.setSc_kept | dsimp only | refine kept_of_snd (by assumption) ?_ | refine kept_of_snd2 (by assumption) ?_ | refine kept_of_fst (by assumption) ?_ | (simp only [kept_mk_iff]; (first | apply keptIn_fold | apply keptIn_flags)) | split | intro _)

theorem wrCmdGo_kept {cs : Keep} (m : Nat) (p : Nat) (v : Nat) (s : State) (Hs : Kept cs s) : Kept cs (wrCmdGo m p v s) := by
  unfold wrCmdGo
  try dsimp only
  with_reducible repeat' (first | assumption | apply enqueueCmd_kept | apply checkedWrite_kept | apply refuse_kept | apply perf_kept | apply State.setF_kept | apply foldl_kept2 | apply foldl_kept | dsimp only | refine kept_of_snd (by assumption) ?_ | refine kept_of_snd2 (by assumption) ?_ | refine kept_of_fst (by assumption) ?_ | (simp only [kept_mk_iff]; (first | apply keptIn_fold | apply keptIn_flags)) | split | intro _)

theorem wrFlowCfg_kept {cs : Keep} (m : Nat) (p : Nat) (v : Nat) (s : State) (Hs : Kept cs s) : Kept cs (wrFlowCfg m p v s) := by
  unfold wrFlowCfg
  try dsimp only
  with_reducible repeat' (first | assumption | apply State.setFlow_kept | apply checkedWrite_kept | dsimp only | refine kept_of_snd (by assumption) ?_ | refine kept_of_snd2 (by assumption) ?_ | refine kept_of_fst (by assumption) ?_ | (simp only [kept_mk_iff]; (first | apply keptIn_fold | apply keptIn_flags)) | split | intro _)

theorem wrFlowMask_kept {cs : Keep} (m : Nat) (p : Nat) (hi : Bool) (v : Nat) (s : State) (Hs : Kept cs s) : Kept cs (wrFlowMask m p hi v s) := by
  unfold wrFlowMask
  try dsimp only
  with_reducible repeat' (first | assumption | apply State.setFlow_kept | apply checkedWrite_kept | dsimp only | refine kept_of_snd (by assumption) ?_ | refine kept_of_snd2 (by assumption) ?_ | refine kept_of_fst (by assumption) ?_ | (simp only [kept_mk_iff]; (first | apply keptIn_fold | apply keptIn_flags)) | split | intro _)

theorem wrTick_kept {cs : Keep} (m : Nat) (p : Nat) (v : Nat) (s : State) (Hs : Kept cs s) : Kept cs (wrTick m p v s) := by
  unfold wrTick
  try dsimp only
  with_reducible repeat' (first | assumption | apply plainWrite_kept | dsimp only | refine kept_of_snd (by assumption) ?_ | refine kept_of_snd2 (by assumption) ?_ | refine kept_of_fst (by assumption) ?_ | (simp only [kept_mk_iff]; (first | apply keptIn_fold | apply keptIn_flags)) | split | intro _)

theorem startDelay_kept {cs : Keep} (p : Nat) (n : Nat) (s : State) (Hs : Kept cs s) : Kept cs (startDelay p n s) := by
  unfold startDelay
  try dsimp only
  with_reducible repeat' (first | assumption | apply State.setSc_kept | dsimp only | refine kept_of_snd (by assumption) ?_ | refine kept_of_snd2 (by assumption) ?_ | refine kept_of_fst (by assumption) ?_ | (simp only [kept_mk_iff]; (first | apply keptIn_fold | apply keptIn_flags)) | split | intro _)

theorem delayExpiry_kept {cs : Keep} (p : Nat) (s : State) (Hs : Kept cs s) : Kept cs (delayExpiry p s) := by
  unfold delayExpiry
  try dsimp only
  with_reducible repeat' (first | assumption | apply completed_kept | apply State.setSc_kept | dsimp only | refine kept_of_snd (by assumption) ?_ | refine kept_of_snd2 (by assumption) ?_ | refine kept_of_fst (by assumption) ?_ | (simp only [kept_mk_iff]; (first | apply keptIn_fold | apply keptIn_flags)) | split | intro _)

theorem execLoad_kept {cs : Keep} (p : Nat) (s : State) (Hs : Kept cs s) : KeptOut cs (execLoad p s) := by
  unfold execLoad
  try dsimp only
  with_reducible repeat' (first | assumption | apply keptOut_next | apply cmdLoad_kept | apply run_kept | apply whenOk_kept | dsimp only | refine kept_of_snd (by assumption) ?_ | refine kept_of_snd2 (by assumption) ?_ | refine kept_of_fst (by assumption) ?_ | (simp only [kept_mk_iff]; (first | apply keptIn_fold | apply keptIn_flags)) | split | intro _)

theorem execLoadCommit_kept {cs : Keep} (p : Nat) (errs : Errs) (s : State) (Hs : Kept cs s) : KeptOut cs (execLoadCommit p errs s) := by
  unfold execLoadCommit
  try dsimp only
  with_reducible repeat' (first | assumption | apply keptOut_next | apply loadCommit_kept | apply runErr_kept | apply whenOk_kept | dsimp only | refine kept_of_snd (by assumption) ?_ | refine kept_of_snd2 (by assumption) ?_ | refine kept_of_fst (by assumption) ?_ | (simp only [kept_mk_iff]; (first | apply keptIn_fold | apply keptIn_flags)) | split | intro _)

theorem execSignal_kept {cs : Keep} (p : Nat) (s : State) (Hs : Kept cs s) : KeptOut cs (execSignal p s) := by
  unfold execSignal
  try dsimp only
  with_reducible repeat' (first | assumption | apply keptOut_next | apply cmdSignal_kept | apply run_kept | apply whenOk_kept | dsimp only | refine kept_of_snd (by assumption) ?_ | refine kept_of_snd2 (by assumption) ?_ | refine kept_of_fst (by assumption) ?_ | (simp only [kept_mk_iff]; (first | apply keptIn_fold | apply keptIn_flags)) | split | intro _)

theorem execLink_kept {cs : Keep} (p : Nat) (s : State) (Hs : Kept cs s) : KeptOut cs (execLink p s) := by
  unfold execLink
  try dsimp only
  with_reducible repeat' (first | assumption | apply keptOut_next | apply cmdLink_kept | apply run_kept | apply whenOk_kept | dsimp only | refine kept_of_snd (by assumption) ?_ | refine kept_of_snd2 (by assumption) ?_ | refine kept_of_fst (by assumption) ?_ | (simp only [kept_mk_iff]; (first | apply keptIn_fold | apply keptIn_flags)) | split | intro _)

theorem execUnload_kept {cs : Keep} (p : Nat) (s : State) (Hs : Kept cs s) : KeptOut cs (execUnload p s) := by
  unfold execUnload
  try dsimp only
  with_reducible repeat' (first | assumption | apply keptOut_next | apply cmdUnload_kept | apply run_kept | apply whenOk_kept | dsimp only | refine kept_of_snd (by assumption) ?_ | refine kept_of_snd2 (by assumption) ?_ | refine kept_of_fst (by assumption) ?_ | (simp only [kept_mk_iff]; (first | apply keptIn_fold | apply keptIn_flags)) | split | intro _)

theorem execRetry_kept {cs : Keep} (p : Nat) (s : State) (Hs : Kept cs s) : KeptOut cs (execRetry p s) := by
  unfold execRetry
  try dsimp only
  with_reducible repeat' (first | assumption | apply keptOut_next | apply cmdRetry_kept | apply run_kept | apply whenOk_kept | dsimp only | refine kept_of_snd (by assumption) ?_ | refine kept_of_snd2 (by assumption) ?_ | refine kept_of_fst (by assumption) ?_ | (simp only [kept_mk_iff]; (first | apply keptIn_fold | apply keptIn_flags)) | split | intro _)

theorem execSchCmdGo_kept {cs : Keep} (m : Nat) (p : Nat) (v : Nat) (s : State) (Hs : Kept cs s) : KeptOut cs (execSchCmdGo m p v s) := by
  unfold execSchCmdGo
  try dsimp only
  with_reducible repeat' (first | assumption | apply keptOut_next | apply wrCmdGo_kept | apply run_kept | apply whenOk_kept | dsimp only | refine kept_of_snd (by assumption) ?_ | refine kept_of_snd2 (by assumption) ?_ | refine kept_of_fst (by assumption) ?_ | (simp only [kept_mk_iff]; (first | apply keptIn_fold | apply keptIn_flags)) | split | intro _)

theorem execFlowcfgWrite_kept {cs : Keep} (m : Nat) (p : Nat) (v : Nat) (s : State) (Hs : Kept cs s) : KeptOut cs (execFlowcfgWrite m p v s) := by
  unfold execFlowcfgWrite
  try dsimp only
  with_reducible repeat' (first | assumption | apply keptOut_next | apply wrFlowCfg_kept | apply run_kept | apply whenOk_kept | dsimp only | refine kept_of_snd (by assumption) ?_ | refine kept_of_snd2 (by assumption) ?_ | refine kept_of_fst (by assumption) ?_ | (simp only [kept_mk_iff]; (first | apply keptIn_fold | apply keptIn_flags)) | split | intro _)

theorem execDelayExpiry_kept {cs : Keep} (p : Nat) (errs : Errs) (s : State) (Hs : Kept cs s) : KeptOut cs (execDelayExpiry p errs s) := by
  unfold execDelayExpiry
  try dsimp only
  with_reducible repeat' (first | assumption | apply keptOut_next | apply delayExpiry_kept | apply runErr_kept | apply whenOk_kept | dsimp only | refine kept_of_snd (by assumption) ?_ | refine kept_of_snd2 (by assumption) ?_ | refine kept_of_fst (by assumption) ?_ | (simp only [kept_mk_iff]; (first | apply keptIn_fold | apply keptIn_flags)) | split | intro _)

theorem commitTok_kept {cs : Keep} (p : Nat) (n : Nat) (s : State) (Hs : Kept cs s) : Kept cs (commitTok p n s) := by
  unfold commitTok
  try dsimp only
  with_reducible repeat' (first | assumption | apply logInfo_kept | dsimp only | refine kept_of_snd (by assumption) ?_ | refine kept_of_snd2 (by assumption) ?_ | refine kept_of_fst (by assumption) ?_ | (simp only [kept_mk_iff]; (first | apply keptIn_fold | apply keptIn_flags)) | split | intro _)

theorem execCompletion_kept {cs : Keep} (p : Nat) (slot : Nat) (errs : Errs) (s : State) (Hs : Kept cs s) : KeptOut cs (execCompletion p slot errs s) := by
  unfold execCompletion
  try dsimp only
  with_reducible repeat' (first | assumption | apply keptOut_next | apply commitTok_kept | apply completed_kept | apply runErr_kept | apply whenOk_kept | dsimp only | refine kept_of_snd (by assumption) ?_ | refine kept_of_snd2 (by assumption) ?_ | refine kept_of_fst (by assumption) ?_ | (simp only [kept_mk_iff]; (first | apply keptIn_fold | apply keptIn_flags)) | split | intro _)

theorem setPool_kept {cs : Keep} (c : Nat) (fl : Nat) (co : Nat) (s : State) (Hs : Kept cs s) : Kept cs (setPool c fl co s) := by
  unfold setPool
  try dsimp only
  with_reducible repeat' (first | assumption | apply State.setF_kept | dsimp only | refine kept_of_snd (by assumption) ?_ | refine kept_of_snd2 (by assumption) ?_ | refine kept_of_fst (by assumption) ?_ | (simp only [kept_mk_iff]; (first | apply keptIn_fold | apply keptIn_flags)) | split | intro _)

theorem poolReset_kept {cs : Keep} (c : Nat) (s : State) (Hs : Kept cs s) : Kept cs (poolReset c s) := by
  unfold poolReset
  try dsimp only
  with_reducible repeat' (first | assumption | apply setPool_kept | dsimp only | refine kept_of_snd (by assumption) ?_ | refine kept_of_snd2 (by assumption) ?_ | refine kept_of_fst (by assumption) ?_ | (simp only [kept_mk_iff]; (first | apply keptIn_fold | apply keptIn_flags)) | split | intro _)

theorem poolRefused_kept {cs : Keep} (c : Nat) (who : Nat) (s : State) (Hs : Kept cs s) : Kept cs (poolRefused c who s) := by
  unfold poolRefused
  try dsimp only
  with_reducible repeat' (first | assumption | apply State.setCore_kept | dsimp only | refine kept_of_snd (by assumption) ?_ | refine kept_of_snd2 (by assumption) ?_ | refine kept_of_fst (by assumption) ?_ | (simp only [kept_mk_iff]; (first | apply keptIn_fold | apply keptIn_flags)) | split | intro _)

theorem poolAsk_kept {cs : Keep} (c : Nat) (who : Nat) (drain : Bool) (n : Nat) (s : State) (Hs : Kept cs s) : Kept cs (poolAsk c who drain n s).2 := by
  unfold poolAsk
  try dsimp only
  with_reducible repeat' (first | assumption | apply poolRefused_kept | apply setPool_kept | apply State.setCore_kept | apply State.addF_kept | dsimp only | refine kept_of_snd (by assumption) ?_ | refine kept_of_snd2 (by assumption) ?_ | refine kept_of_fst (by assumption) ?_ | (simp only [kept_mk_iff]; (first | apply keptIn_fold | apply keptIn_flags)) | split | intro _)

theorem poolGive_kept {cs : Keep} (c : Nat) (n : Nat) (s : State) (Hs : Kept cs s) : Kept cs (poolGive c n s) := by
  unfold poolGive
  try dsimp only
  with_reducible repeat' (first | assumption | apply setPool_kept | apply State.setCore_kept | dsimp only | refine kept_of_snd (by assumption) ?_ | refine kept_of_snd2 (by assumption) ?_ | refine kept_of_fst (by assumption) ?_ | (simp only [kept_mk_iff]; (first | apply keptIn_fold | apply keptIn_flags)) | split | intro _)

theorem State.setTq_kept {cs : Keep} (s : State) (c : Nat) (q : Nat) (v : Tq) (Hs : Kept cs s) : Kept cs (State.setTq s c q v) := by
  unfold State.setTq
  try dsimp only
  with_reducible repeat' (first | assumption | apply State.setCore_kept | dsimp only | refine kept_of_snd (by assumption) ?_ | refine kept_of_snd2 (by assumption) ?_ | refine kept_of_fst (by assumption) ?_ | (simp only [kept_mk_iff]; (first | apply keptIn_fold | apply keptIn_flags)) | split | intro _)

theorem leaveFetch_kept {cs : Keep} (c : Nat) (s : State) (Hs : Kept cs s) : Kept cs (leaveFetch c s) := by
  unfold leaveFetch
  try dsimp only
  with_reducible repeat' (first | assumption | apply State.setClu_kept | dsimp only | refine kept_of_snd (by assumption) ?_ | refine kept_of_snd2 (by assumption) ?_ | refine kept_of_fst (by assumption) ?_ | (simp only [kept_mk_iff]; (first | apply keptIn_fold | apply keptIn_flags)) | split | intro _)

theorem releaseWin_kept {cs : Keep} (c : Nat) (q : Nat) (s : State) (Hs : Kept cs s) : Kept cs (releaseWin c q s) := by
  unfold releaseWin
  try dsimp only
  with_reducible repeat' (first | assumption | apply State.setTq_kept | apply poolGive_kept | dsimp only | refine kept_of_snd (by assumption) ?_ | refine kept_of_snd2 (by assumption) ?_ | refine kept_of_fst (by assumption) ?_ | (simp only [kept_mk_iff]; (first | apply keptIn_fold | apply keptIn_flags)) | split | intro _)

theorem compMark_kept {cs : Keep} (c : Nat) (s : State) (Hs : Kept cs s) : Kept cs (compMark c s) := by
  unfold compMark
  try dsimp only
  with_reducible repeat' (first | assumption | apply State.setTq_kept | apply forUp_kept | apply forUp_kept2 | dsimp only | refine kept_of_snd (by assumption) ?_ | refine kept_of_snd2 (by assumption) ?_ | refine kept_of_fst (by assumption) ?_ | (simp only [kept_mk_iff]; (first | apply keptIn_fold | apply keptIn_flags)) | split | intro _)

theorem gthFltSet_kept {cs : Keep} (c : Nat) (code : Nat) (cause : Nat) (pos : Nat) (val : Nat) (s : State) (Hs : Kept cs s) : Kept cs (gthFltSet c code cause pos val s) := by
  unfold gthFltSet
  try dsimp only
  with_reducible repeat' (first | assumption | apply State.setW64_kept | apply State.setF_kept | dsimp only | refine kept_of_snd (by assumption) ?_ | refine kept_of_snd2 (by assumption) ?_ | refine kept_of_fst (by assumption) ?_ | (simp only [kept_mk_iff]; (first | apply keptIn_fold | apply keptIn_flags)) | split | intro _)

theorem gthWaitFlt_kept {cs : Keep} (c : Nat) (s : State) (Hs : Kept cs s) : Kept cs (gthWaitFlt c s) := by
  unfold gthWaitFlt
  try dsimp only
  with_reducible repeat' (first | assumption | apply gthFltSet_kept | dsimp only | refine kept_of_snd (by assumption) ?_ | refine kept_of_snd2 (by assumption) ?_ | refine kept_of_fst (by assumption) ?_ | (simp only [kept_mk_iff]; (first | apply keptIn_fold | apply keptIn_flags)) | split | intro _)

theorem unwaitInbound_kept {cs : Keep} (t : Nat) (s : State) (Hs : Kept cs s) : Kept cs (unwaitInbound t s) := by
  unfold unwaitInbound
  try dsimp only
  with_reducible repeat' (first | assumption | apply State.setCore_kept | dsimp only | refine kept_of_snd (by assumption) ?_ | refine kept_of_snd2 (by assumption) ?_ | refine kept_of_fst (by assumption) ?_ | (simp only [kept_mk_iff]; (first | apply keptIn_fold | apply keptIn_flags)) | split | intro _)

theorem coreDrop_kept {cs : Keep} (c : Nat) (flt : Bool) (s : State) (Hs : Kept cs s) : Kept cs (coreDrop c flt s) := by
  unfold coreDrop
  try dsimp only
  with_reducible repeat' (first | assumption | apply unwaitInbound_kept | apply leaveFetch_kept | apply poolReset_kept | apply State.setCore_kept | dsimp only | refine kept_of_snd (by assumption) ?_ | refine kept_of_snd2 (by assumption) ?_ | refine kept_of_fst (by assumption) ?_ | (simp only [kept_mk_iff]; (first | apply keptIn_fold | apply keptIn_flags)) | split | intro _)

theorem coreFltSet_kept {cs : Keep} (c : Nat) (pc : Nat) (code : Nat) (sub : Nat) (aux : Nat) (s : State) (Hs : Kept cs s) : Kept cs (coreFltSet c pc code sub aux s) := by
  unfold coreFltSet
  try dsimp only
  with_reducible repeat' (first | assumption | apply State.setF_kept | dsimp only | refine kept_of_snd (by assumption) ?_ | refine kept_of_snd2 (by assumption) ?_ | refine kept_of_fst (by assumption) ?_ | (simp only [kept_mk_iff]; (first | apply keptIn_fold | apply keptIn_flags)) | split | intro _)

theorem coreFaultAt_kept {cs : Keep} (c : Nat) (pc : Nat) (code : Nat) (sub : Nat) (aux : Nat) (tag : Option Nat) (s : State) (Hs : Kept cs s) : Kept cs (coreFaultAt c pc code sub aux tag s) := by
  unfold coreFaultAt
  try dsimp only
  with_reducible repeat' (first | assumption | apply coreFltSet_kept | apply coreDrop_kept | apply opFault_kept | apply perf_kept | dsimp only | refine kept_of_snd (by assumption) ?_ | refine kept_of_snd2 (by assumption) ?_ | refine kept_of_fst (by assumption) ?_ | (simp only [kept_mk_iff]; (first | apply keptIn_fold | apply keptIn_flags)) | split | intro _)

theorem coreFault_kept {cs : Keep} (c : Nat) (code : Nat) (sub : Nat) (aux : Nat) (tag : Option Nat) (s : State) (Hs : Kept cs s) : Kept cs (coreFault c code sub aux tag s) := by
  unfold coreFault
  try dsimp only
  with_reducible repeat' (first | assumption | apply coreFaultAt_kept | dsimp only | refine kept_of_snd (by assumption) ?_ | refine kept_of_snd2 (by assumption) ?_ | refine kept_of_fst (by assumption) ?_ | (simp only [kept_mk_iff]; (first | apply keptIn_fold | apply keptIn_flags)) | split | intro _)

theorem seqFaultAt_kept {cs : Keep} (c : Nat) (pc : Nat) (sub : Nat) (aux : Nat) (s : State) (Hs : Kept cs s) : Kept cs (seqFaultAt c pc sub aux s) := by
  unfold seqFaultAt
  try dsimp only
  with_reducible repeat' (first | assumption | apply coreFaultAt_kept | apply logErr_kept | dsimp only | refine kept_of_snd (by assumption) ?_ | refine kept_of_snd2 (by assumption) ?_ | refine kept_of_fst (by assumption) ?_ | (simp only [kept_mk_iff]; (first | apply keptIn_fold | apply keptIn_flags)) | split | intro _)

theorem seqFault_kept {cs : Keep} (c : Nat) (sub : Nat) (aux : Nat) (s : State) (Hs : Kept cs s) : Kept cs (seqFault c sub aux s) := by
  unfold seqFault
  try dsimp only
  with_reducible repeat' (first | assumption | apply seqFaultAt_kept | dsimp only | refine kept_of_snd (by assumption) ?_ | refine kept_of_snd2 (by assumption) ?_ | refine kept_of_fst (by assumption) ?_ | (simp only [kept_mk_iff]; (first | apply keptIn_fold | apply keptIn_flags)) | split | intro _)

theorem coreFaultLogAt_kept {cs : Keep} (c : Nat) (pc : Nat) (code : Nat) (detail : Nat) (tag : Option Nat) (s : State) (Hs : Kept cs s) : Kept cs (coreFaultLogAt c pc code detail tag s) := by
  unfold coreFaultLogAt
  try dsimp only
  with_reducible repeat' (first | assumption | apply coreFaultAt_kept | apply logErr_kept | dsimp only | refine kept_of_snd (by assumption) ?_ | refine kept_of_snd2 (by assumption) ?_ | refine kept_of_fst (by assumption) ?_ | (simp only [kept_mk_iff]; (first | apply keptIn_fold | apply keptIn_flags)) | split | intro _)

theorem coreFaultLog_kept {cs : Keep} (c : Nat) (code : Nat) (detail : Nat) (tag : Option Nat) (s : State) (Hs : Kept cs s) : Kept cs (coreFaultLog c code detail tag s) := by
  unfold coreFaultLog
  try dsimp only
  with_reducible repeat' (first | assumption | apply coreFaultLogAt_kept | dsimp only | refine kept_of_snd (by assumption) ?_ | refine kept_of_snd2 (by assumption) ?_ | refine kept_of_fst (by assumption) ?_ | (simp only [kept_mk_iff]; (first | apply keptIn_fold | apply keptIn_flags)) | split | intro _)

theorem poisonFault_kept {cs : Keep} (c : Nat) (mark : Nat) (s : State) (Hs : Kept cs s) : Kept cs (poisonFault c mark s) := by
  unfold poisonFault
  try dsimp only
  with_reducible repeat' (first | assumption | apply coreFaultLog_kept | dsimp only | refine kept_of_snd (by assumption) ?_ | refine kept_of_snd2 (by assumption) ?_ | refine kept_of_fst (by assumption) ?_ | (simp only [kept_mk_iff]; (first | apply keptIn_fold | apply keptIn_flags)) | split | intro _)

theorem tokFltSet_kept {cs : Keep} (e : Nat) (code : Nat) (o : OpSlot) (p : Nat) (addr : Nat) (s : State) (Hs : Kept cs s) : Kept cs (tokFltSet e code o p addr s) := by
  unfold tokFltSet
  try dsimp only
  with_reducible repeat' (first | assumption | apply State.setW64_kept | apply State.setF_kept | dsimp only | refine kept_of_snd (by assumption) ?_ | refine kept_of_snd2 (by assumption) ?_ | refine kept_of_fst (by assumption) ?_ | (simp only [kept_mk_iff]; (first | apply keptIn_fold | apply keptIn_flags)) | split | intro _)

theorem tokHdrFault_kept {cs : Keep} (e : Nat) (p : Nat) (n : Nat) (code : Nat) (s : State) (Hs : Kept cs s) : Kept cs (tokHdrFault e p n code s) := by
  unfold tokHdrFault
  try dsimp only
  with_reducible repeat' (first | assumption | apply memWrite_kept | dsimp only | refine kept_of_snd (by assumption) ?_ | refine kept_of_snd2 (by assumption) ?_ | refine kept_of_fst (by assumption) ?_ | (simp only [kept_mk_iff]; (first | apply keptIn_fold | apply keptIn_flags)) | split | intro _)

theorem tokForget_kept {cs : Keep} (e : Nat) (p : Nat) (n : Nat) (s : State) (Hs : Kept cs s) : Kept cs (tokForget e p n s) := by
  unfold tokForget
  try dsimp only
  with_reducible repeat' (first | assumption | dsimp only | refine kept_of_snd (by assumption) ?_ | refine kept_of_snd2 (by assumption) ?_ | refine kept_of_fst (by assumption) ?_ | (simp only [kept_mk_iff]; (first | apply keptIn_fold | apply keptIn_flags)) | split | intro _)

theorem tokFault_kept {cs : Keep} (e : Nat) (p : Nat) (n : Nat) (code : Nat) (addr : Nat) (log : Bool) (hdr : Bool) (s : State) (Hs : Kept cs s) : Kept cs (tokFault e p n code addr log hdr s) := by
  unfold tokFault
  try dsimp only
  with_reducible repeat' (first | assumption | apply tokForget_kept | apply tokHdrFault_kept | apply tokFltSet_kept | apply opFault_kept | apply logErr_kept | dsimp only | refine kept_of_snd (by assumption) ?_ | refine kept_of_snd2 (by assumption) ?_ | refine kept_of_fst (by assumption) ?_ | (simp only [kept_mk_iff]; (first | apply keptIn_fold | apply keptIn_flags)) | split | intro _)

theorem State.setMop_kept {cs : Keep} (s : State) (p : Nat) (n : Nat) (v : MigOp) (Hs : Kept cs s) : Kept cs (State.setMop s p n v) := by
  unfold State.setMop
  try dsimp only
  with_reducible repeat' (first | assumption | dsimp only | refine kept_of_snd (by assumption) ?_ | refine kept_of_snd2 (by assumption) ?_ | refine kept_of_fst (by assumption) ?_ | (simp only [kept_mk_iff]; (first | apply keptIn_fold | apply keptIn_flags)) | split | intro _)

theorem migFltEnd_kept {cs : Keep} (d : Nat) (p : Nat) (n : Nat) (code : Nat) (addr : Nat) (s : State) (Hs : Kept cs s) : Kept cs (migFltEnd d p n code addr s) := by
  unfold migFltEnd
  try dsimp only
  with_reducible repeat' (first | assumption | apply State.setMop_kept | apply opFault_kept | apply State.setW64_kept | apply State.setF_kept | dsimp only | refine kept_of_snd (by assumption) ?_ | refine kept_of_snd2 (by assumption) ?_ | refine kept_of_fst (by assumption) ?_ | (simp only [kept_mk_iff]; (first | apply keptIn_fold | apply keptIn_flags)) | split | intro _)

theorem stamp_kept {cs : Keep} (p : Nat) (n : Nat) (s : State) (Hs : Kept cs s) : Kept cs (stamp p n s) := by
  unfold stamp
  try dsimp only
  with_reducible repeat' (first | assumption | apply State.setSlot_kept | dsimp only | refine kept_of_snd (by assumption) ?_ | refine kept_of_snd2 (by assumption) ?_ | refine kept_of_fst (by assumption) ?_ | (simp only [kept_mk_iff]; (first | apply keptIn_fold | apply keptIn_flags)) | split | intro _)

theorem execFault_kept {cs : Keep} (p : Nat) (n : Nat) (code : Nat) (s : State) (Hs : Kept cs s) : Kept cs (execFault p n code s) := by
  unfold execFault
  try dsimp only
  with_reducible repeat' (first | assumption | apply migFltEnd_kept | apply tokFault_kept | apply coreFaultLog_kept | apply opFault_kept | apply State.setSc_kept | apply logErr_kept | dsimp only | refine kept_of_snd (by assumption) ?_ | refine kept_of_snd2 (by assumption) ?_ | refine kept_of_fst (by assumption) ?_ | (simp only [kept_mk_iff]; (first | apply keptIn_fold | apply keptIn_flags)) | split | intro _)

theorem staticPut_kept {cs : Keep} (c : Nat) (wsa : Nat) (d : Marked) (s : State) (Hs : Kept cs s) : Kept cs (staticPut c wsa d s) := by
  unfold staticPut
  try dsimp only
  with_reducible repeat' (first | assumption | apply State.setCore_kept | dsimp only | refine kept_of_snd (by assumption) ?_ | refine kept_of_snd2 (by assumption) ?_ | refine kept_of_fst (by assumption) ?_ | (simp only [kept_mk_iff]; (first | apply keptIn_fold | apply keptIn_flags)) | split | intro _)

theorem wsWrite_kept {cs : Keep} {c wsa : Nat} {d : Marked} {s s' : State} (e : wsWrite c wsa d s = .ok s') (h : Kept cs s) : Kept cs s' := by
  unfold wsWrite at e
  split at e
  · split at e
    · cases e
    · cases e; exact staticPut_kept _ _ _ _ h
  · split at e
    · cases e
    · cases e; exact State.setCore_kept _ _ _ h
  · cases e

theorem addItem_kept {cs : Keep} (c : Nat) (q : Nat) (it : TqItem) (s : State) (Hs : Kept cs s) : Kept cs (addItem c q it s) := by
  unfold addItem
  try dsimp only
  with_reducible repeat' (first | assumption | apply State.setTq_kept | dsimp only | refine kept_of_snd (by assumption) ?_ | refine kept_of_snd2 (by assumption) ?_ | refine kept_of_fst (by assumption) ?_ | (simp only [kept_mk_iff]; (first | apply keptIn_fold | apply keptIn_flags)) | split | intro _)

theorem raiseFail_kept {cs : Keep} (c : Nat) (q : Nat) (f : EntFail) (s : State) (Hs : Kept cs s) : Kept cs (raiseFail c q f s) := by
  unfold raiseFail
  try dsimp only
  with_reducible repeat' (first | assumption | apply coreFaultLogAt_kept | apply seqFaultAt_kept | apply coreFaultAt_kept | dsimp only | refine kept_of_snd (by assumption) ?_ | refine kept_of_snd2 (by assumption) ?_ | refine kept_of_fst (by assumption) ?_ | (simp only [kept_mk_iff]; (first | apply keptIn_fold | apply keptIn_flags)) | split | intro _)

theorem finishItem_kept {cs : Keep} (c : Nat) (q : Nat) (s : State) (Hs : Kept cs s) : Kept cs (finishItem c q s) := by
  unfold finishItem
  try dsimp only
  with_reducible repeat' (first | assumption | apply raiseFail_kept | apply leaveFetch_kept | apply State.setTq_kept | dsimp only | refine kept_of_snd (by assumption) ?_ | refine kept_of_snd2 (by assumption) ?_ | refine kept_of_fst (by assumption) ?_ | (simp only [kept_mk_iff]; (first | apply keptIn_fold | apply keptIn_flags)) | split | intro _)

theorem entFail_kept {cs : Keep} (c : Nat) (q : Nat) (f : EntFail) (s : State) (Hs : Kept cs s) : Kept cs (entFail c q f s) := by
  unfold entFail
  try dsimp only
  with_reducible repeat' (first | assumption | apply finishItem_kept | apply State.setTq_kept | dsimp only | refine kept_of_snd (by assumption) ?_ | refine kept_of_snd2 (by assumption) ?_ | refine kept_of_fst (by assumption) ?_ | (simp only [kept_mk_iff]; (first | apply keptIn_fold | apply keptIn_flags)) | split | intro _)

theorem reqFail_kept {cs : Keep} (c : Nat) (q : Nat) (f : EntFail) (s : State) (Hs : Kept cs s) : Kept cs (reqFail c q f s) := by
  unfold reqFail
  try dsimp only
  with_reducible repeat' (first | assumption | apply entFail_kept | apply State.setTq_kept | dsimp only | refine kept_of_snd (by assumption) ?_ | refine kept_of_snd2 (by assumption) ?_ | refine kept_of_fst (by assumption) ?_ | (simp only [kept_mk_iff]; (first | apply keptIn_fold | apply keptIn_flags)) | split | intro _)

theorem cluWrite_kept {cs : Keep} (k : Nat) (ofs : Nat) (d : Marked) (s : State) (Hs : Kept cs s) : Kept cs (cluWrite k ofs d s) := by
  unfold cluWrite
  try dsimp only
  with_reducible repeat' (first | assumption | apply State.setClu_kept | dsimp only | refine kept_of_snd (by assumption) ?_ | refine kept_of_snd2 (by assumption) ?_ | refine kept_of_fst (by assumption) ?_ | (simp only [kept_mk_iff]; (first | apply keptIn_fold | apply keptIn_flags)) | split | intro _)

theorem coreRead_kept {cs : Keep} (c : Nat) (slot : Nat) (tier : Nat) (addr : Nat) (len : Nat) (s : State) (Hs : Kept cs s) : Kept cs (coreRead c slot tier addr len s).2.2 := by
  unfold coreRead
  try dsimp only
  with_reducible repeat' (first | assumption | apply memRead_kept | dsimp only | refine kept_of_snd (by assumption) ?_ | refine kept_of_snd2 (by assumption) ?_ | refine kept_of_fst (by assumption) ?_ | (simp only [kept_mk_iff]; (first | apply keptIn_fold | apply keptIn_flags)) | split | intro _)

theorem coreTimeout_kept {cs : Keep} (c : Nat) (pc : Nat) (hs : Hs) (tier : Nat) (addr : Nat) (tag : Option Nat) (s : State) (Hs : Kept cs s) : Kept cs (coreTimeout c pc hs tier addr tag s) := by
  unfold coreTimeout
  try dsimp only
  with_reducible repeat' (first | assumption | apply coreFaultLogAt_kept | apply abandon_kept | dsimp only | refine kept_of_snd (by assumption) ?_ | refine kept_of_snd2 (by assumption) ?_ | refine kept_of_fst (by assumption) ?_ | (simp only [kept_mk_iff]; (first | apply keptIn_fold | apply keptIn_flags)) | split | intro _)

theorem listIssue_kept {cs : Keep} (c : Nat) (q : Nat) (s : State) (Hs : Kept cs s) : Kept cs (listIssue c q s) := by
  unfold listIssue
  try dsimp only
  with_reducible repeat' (first | assumption | apply State.setTq_kept | dsimp only | refine kept_of_snd (by assumption) ?_ | refine kept_of_snd2 (by assumption) ?_ | refine kept_of_fst (by assumption) ?_ | (simp only [kept_mk_iff]; (first | apply keptIn_fold | apply keptIn_flags)) | split | intro _)

theorem listArrive_kept {cs : Keep} (c : Nat) (q : Nat) (s : State) (Hs : Kept cs s) : Kept cs (listArrive c q s) := by
  unfold listArrive
  try dsimp only
  with_reducible repeat' (first | assumption | apply coreTimeout_kept | apply coreRead_kept | apply entFail_kept | apply State.setTq_kept | dsimp only | refine kept_of_snd (by assumption) ?_ | refine kept_of_snd2 (by assumption) ?_ | refine kept_of_fst (by assumption) ?_ | (simp only [kept_mk_iff]; (first | apply keptIn_fold | apply keptIn_flags)) | split | intro _)

theorem takeEntry_kept {cs : Keep} (c : Nat) (q : Nat) (bs : Marked) (s : State) (Hs : Kept cs s) : Kept cs (takeEntry c q bs s) := by
  unfold takeEntry
  try dsimp only
  with_reducible repeat' (first | assumption | apply listIssue_kept | apply entFail_kept | apply State.setTq_kept | dsimp only | refine kept_of_snd (by assumption) ?_ | refine kept_of_snd2 (by assumption) ?_ | refine kept_of_fst (by assumption) ?_ | (simp only [kept_mk_iff]; (first | apply keptIn_fold | apply keptIn_flags)) | split | intro _)

theorem blockEntryRead_kept {cs : Keep} (c : Nat) (q : Nat) (s : State) (Hs : Kept cs s) : Kept cs (blockEntryRead c q s) := by
  unfold blockEntryRead
  try dsimp only
  with_reducible repeat' (first | assumption | apply takeEntry_kept | apply listArrive_kept | apply listIssue_kept | apply entFail_kept | dsimp only | refine kept_of_snd (by assumption) ?_ | refine kept_of_snd2 (by assumption) ?_ | refine kept_of_fst (by assumption) ?_ | (simp only [kept_mk_iff]; (first | apply keptIn_fold | apply keptIn_flags)) | split | intro _)

theorem tqIssue_kept {cs : Keep} (c : Nat) (q : Nat) (s : State) (Hs : Kept cs s) : Kept cs (tqIssue c q s) := by
  unfold tqIssue
  try dsimp only
  with_reducible repeat' (first | assumption | apply reqFail_kept | apply seqFaultAt_kept | apply State.setCore_kept | dsimp only | refine kept_of_snd (by assumption) ?_ | refine kept_of_snd2 (by assumption) ?_ | refine kept_of_fst (by assumption) ?_ | (simp only [kept_mk_iff]; (first | apply keptIn_fold | apply keptIn_flags)) | split | intro _)

theorem settleTq_kept {cs : Keep} (c : Nat) (q : Nat) (s : State) (Hs : Kept cs s) : Kept cs (settleTq c q s) := by
  unfold settleTq
  try dsimp only
  with_reducible repeat' (first | assumption | apply finishItem_kept | apply State.setTq_kept | dsimp only | refine kept_of_snd (by assumption) ?_ | refine kept_of_snd2 (by assumption) ?_ | refine kept_of_fst (by assumption) ?_ | (simp only [kept_mk_iff]; (first | apply keptIn_fold | apply keptIn_flags)) | split | intro _)

theorem dropReq_kept {cs : Keep} (c : Nat) (q : Nat) (id : Nat) (s : State) (Hs : Kept cs s) : Kept cs (dropReq c q id s) := by
  unfold dropReq
  try dsimp only
  with_reducible repeat' (first | assumption | apply State.setTq_kept | dsimp only | refine kept_of_snd (by assumption) ?_ | refine kept_of_snd2 (by assumption) ?_ | refine kept_of_fst (by assumption) ?_ | (simp only [kept_mk_iff]; (first | apply keptIn_fold | apply keptIn_flags)) | split | intro _)

theorem completeRead_kept {cs : Keep} (c : Nat) (q : Nat) (r : TqReq) (s : State) (Hs : Kept cs s) : Kept cs (completeRead c q r s) := by
  unfold completeRead
  try dsimp only
  with_reducible repeat' (first | assumption | apply dropReq_kept | apply settleTq_kept | apply coreRead_kept | apply reqFail_kept | apply State.setTq_kept | apply perf_kept | dsimp only | refine kept_of_snd (by assumption) ?_ | refine kept_of_snd2 (by assumption) ?_ | refine kept_of_fst (by assumption) ?_ | (simp only [kept_mk_iff]; (first | apply keptIn_fold | apply keptIn_flags)) | split | intro _)

theorem completeWrite_kept {cs : Keep} (c : Nat) (r : TqReq) (s : State) (Hs : Kept cs s) : Kept cs (completeWrite c r s) := by
  unfold completeWrite
  try dsimp only
  with_reducible repeat' (first | assumption | apply dropReq_kept | apply settleTq_kept | apply cluWrite_kept | apply reqFail_kept | apply memWrite_kept | apply perf_kept | dsimp only | refine kept_of_snd (by assumption) ?_ | refine kept_of_snd2 (by assumption) ?_ | refine kept_of_fst (by assumption) ?_ | (simp only [kept_mk_iff]; (first | apply keptIn_fold | apply keptIn_flags)) | split | intro _)

theorem transferComplete_kept {cs : Keep} (c : Nat) (q : Nat) (id : Nat) (s : State) (Hs : Kept cs s) : Kept cs (transferComplete c q id s) := by
  unfold transferComplete
  try dsimp only
  with_reducible repeat' (first | assumption | apply completeWrite_kept | apply completeRead_kept | apply coreTimeout_kept | dsimp only | refine kept_of_snd (by assumption) ?_ | refine kept_of_snd2 (by assumption) ?_ | refine kept_of_fst (by assumption) ?_ | (simp only [kept_mk_iff]; (first | apply keptIn_fold | apply keptIn_flags)) | split | intro _)

theorem giveBufs_kept {cs : Keep} (c : Nat) (r : Requester) (n : Nat) (s : State) (Hs : Kept cs s) : Kept cs (giveBufs c r n s) := by
  unfold giveBufs
  try dsimp only
  with_reducible repeat' (first | assumption | apply State.setTq_kept | apply State.setCore_kept | dsimp only | refine kept_of_snd (by assumption) ?_ | refine kept_of_snd2 (by assumption) ?_ | refine kept_of_fst (by assumption) ?_ | (simp only [kept_mk_iff]; (first | apply keptIn_fold | apply keptIn_flags)) | split | intro _)

theorem bufferRequest_kept {cs : Keep} (c : Nat) (r : Requester) (n : Nat) (s : State) (Hs : Kept cs s) : Kept cs (bufferRequest c r n s) := by
  unfold bufferRequest
  try dsimp only
  with_reducible repeat' (first | assumption | apply giveBufs_kept | apply coreFaultLog_kept | apply poolAsk_kept | apply State.setCore_kept | dsimp only | refine kept_of_snd (by assumption) ?_ | refine kept_of_snd2 (by assumption) ?_ | refine kept_of_fst (by assumption) ?_ | (simp only [kept_mk_iff]; (first | apply keptIn_fold | apply keptIn_flags)) | split | intro _)

theorem bufferRelease_kept {cs : Keep} (c : Nat) (r : Requester) (n : Nat) (s : State) (Hs : Kept cs s) : Kept cs (bufferRelease c r n s) := by
  unfold bufferRelease
  try dsimp only
  with_reducible repeat' (first | assumption | apply State.setTq_kept | apply poolGive_kept | apply State.setCore_kept | dsimp only | refine kept_of_snd (by assumption) ?_ | refine kept_of_snd2 (by assumption) ?_ | refine kept_of_fst (by assumption) ?_ | (simp only [kept_mk_iff]; (first | apply keptIn_fold | apply keptIn_flags)) | split | intro _)

theorem bufWaitExpiry_kept {cs : Keep} (c : Nat) (s : State) (Hs : Kept cs s) : Kept cs (bufWaitExpiry c s) := by
  unfold bufWaitExpiry
  try dsimp only
  with_reducible repeat' (first | assumption | apply coreFaultLog_kept | apply gthWaitFlt_kept | dsimp only | refine kept_of_snd (by assumption) ?_ | refine kept_of_snd2 (by assumption) ?_ | refine kept_of_fst (by assumption) ?_ | (simp only [kept_mk_iff]; (first | apply keptIn_fold | apply keptIn_flags)) | split | intro _)

theorem fetchSlotGrant_kept {cs : Keep} (k : Nat) (c : Nat) (s : State) (Hs : Kept cs s) : Kept cs (fetchSlotGrant k c s) := by
  unfold fetchSlotGrant
  try dsimp only
  with_reducible repeat' (first | assumption | apply listIssue_kept | apply State.setClu_kept | apply forUp_kept | apply forUp_kept2 | dsimp only | refine kept_of_snd (by assumption) ?_ | refine kept_of_snd2 (by assumption) ?_ | refine kept_of_fst (by assumption) ?_ | (simp only [kept_mk_iff]; (first | apply keptIn_fold | apply keptIn_flags)) | split | intro _)

theorem execBlockEntryRead_kept {cs : Keep} (c : Nat) (q : Nat) (errs : Errs) (s : State) (Hs : Kept cs s) : KeptOut cs (execBlockEntryRead c q errs s) := by
  unfold execBlockEntryRead
  try dsimp only
  with_reducible repeat' (first | assumption | apply keptOut_next | apply blockEntryRead_kept | apply runErr_kept | apply whenOk_kept | dsimp only | refine kept_of_snd (by assumption) ?_ | refine kept_of_snd2 (by assumption) ?_ | refine kept_of_fst (by assumption) ?_ | (simp only [kept_mk_iff]; (first | apply keptIn_fold | apply keptIn_flags)) | split | intro _)

theorem execTqRequestIssue_kept {cs : Keep} (c : Nat) (q : Nat) (s : State) (Hs : Kept cs s) : KeptOut cs (execTqRequestIssue c q s) := by
  unfold execTqRequestIssue
  try dsimp only
  with_reducible repeat' (first | assumption | apply keptOut_next | apply tqIssue_kept | apply run_kept | apply whenOk_kept | dsimp only | refine kept_of_snd (by assumption) ?_ | refine kept_of_snd2 (by assumption) ?_ | refine kept_of_fst (by assumption) ?_ | (simp only [kept_mk_iff]; (first | apply keptIn_fold | apply keptIn_flags)) | split | intro _)

theorem execTransferComplete_kept {cs : Keep} (c : Nat) (q : Nat) (id : Nat) (errs : Errs) (s : State) (Hs : Kept cs s) : KeptOut cs (execTransferComplete c q id errs s) := by
  unfold execTransferComplete
  try dsimp only
  with_reducible repeat' (first | assumption | apply keptOut_next | apply transferComplete_kept | apply runErr_kept | apply whenOk_kept | dsimp only | refine kept_of_snd (by assumption) ?_ | refine kept_of_snd2 (by assumption) ?_ | refine kept_of_fst (by assumption) ?_ | (simp only [kept_mk_iff]; (first | apply keptIn_fold | apply keptIn_flags)) | split | intro _)

theorem execBufferRequest_kept {cs : Keep} (c : Nat) (r : Requester) (n : Nat) (s : State) (Hs : Kept cs s) : KeptOut cs (execBufferRequest c r n s) := by
  unfold execBufferRequest
  try dsimp only
  with_reducible repeat' (first | assumption | apply keptOut_next | apply bufferRequest_kept | apply run_kept | apply whenOk_kept | dsimp only | refine kept_of_snd (by assumption) ?_ | refine kept_of_snd2 (by assumption) ?_ | refine kept_of_fst (by assumption) ?_ | (simp only [kept_mk_iff]; (first | apply keptIn_fold | apply keptIn_flags)) | split | intro _)

theorem execBufferRelease_kept {cs : Keep} (c : Nat) (r : Requester) (n : Nat) (s : State) (Hs : Kept cs s) : KeptOut cs (execBufferRelease c r n s) := by
  unfold execBufferRelease
  try dsimp only
  with_reducible repeat' (first | assumption | apply keptOut_next | apply bufferRelease_kept | apply run_kept | apply whenOk_kept | dsimp only | refine kept_of_snd (by assumption) ?_ | refine kept_of_snd2 (by assumption) ?_ | refine kept_of_fst (by assumption) ?_ | (simp only [kept_mk_iff]; (first | apply keptIn_fold | apply keptIn_flags)) | split | intro _)

theorem execBufWaitExpiry_kept {cs : Keep} (c : Nat) (s : State) (Hs : Kept cs s) : KeptOut cs (execBufWaitExpiry c s) := by
  unfold execBufWaitExpiry
  try dsimp only
  with_reducible repeat' (first | assumption | apply keptOut_next | apply bufWaitExpiry_kept | apply run_kept | apply whenOk_kept | dsimp only | refine kept_of_snd (by assumption) ?_ | refine kept_of_snd2 (by assumption) ?_ | refine kept_of_fst (by assumption) ?_ | (simp only [kept_mk_iff]; (first | apply keptIn_fold | apply keptIn_flags)) | split | intro _)

theorem execFetchSlotGrant_kept {cs : Keep} (k : Nat) (c : Nat) (s : State) (Hs : Kept cs s) : KeptOut cs (execFetchSlotGrant k c s) := by
  unfold execFetchSlotGrant
  try dsimp only
  with_reducible repeat' (first | assumption | apply keptOut_next | apply fetchSlotGrant_kept | apply run_kept | apply whenOk_kept | dsimp only | refine kept_of_snd (by assumption) ?_ | refine kept_of_snd2 (by assumption) ?_ | refine kept_of_fst (by assumption) ?_ | (simp only [kept_mk_iff]; (first | apply keptIn_fold | apply keptIn_flags)) | split | intro _)

theorem wrWcfg_kept {cs : Keep} (m : Nat) (k : Nat) (v : Nat) (s : State) (Hs : Kept cs s) : Kept cs (wrWcfg m k v s) := by
  unfold wrWcfg
  try dsimp only
  with_reducible repeat' (first | assumption | apply checkedWrite_kept | apply State.setClu_kept | apply State.setW64_kept | apply State.setW_kept | apply State.setF_kept | dsimp only | refine kept_of_snd (by assumption) ?_ | refine kept_of_snd2 (by assumption) ?_ | refine kept_of_fst (by assumption) ?_ | (simp only [kept_mk_iff]; (first | apply keptIn_fold | apply keptIn_flags)) | split | intro _)

theorem weightSwap_kept {cs : Keep} (k : Nat) (s : State) (Hs : Kept cs s) : Kept cs (weightSwap k s) := by
  unfold weightSwap
  try dsimp only
  with_reducible repeat' (first | assumption | apply State.setClu_kept | apply State.setF_kept | dsimp only | refine kept_of_snd (by assumption) ?_ | refine kept_of_snd2 (by assumption) ?_ | refine kept_of_fst (by assumption) ?_ | (simp only [kept_mk_iff]; (first | apply keptIn_fold | apply keptIn_flags)) | split | intro _)

theorem lpfStart_kept {cs : Keep} (k : Nat) (s : State) (Hs : Kept cs s) : Kept cs (lpfStart k s) := by
  unfold lpfStart
  try dsimp only
  with_reducible repeat' (first | assumption | apply weightSwap_kept | apply State.setClu_kept | apply State.setW64_kept | apply State.setF_kept | dsimp only | refine kept_of_snd (by assumption) ?_ | refine kept_of_snd2 (by assumption) ?_ | refine kept_of_fst (by assumption) ?_ | (simp only [kept_mk_iff]; (first | apply keptIn_fold | apply keptIn_flags)) | split | intro _)

theorem wrLpfCtl_kept {cs : Keep} (m : Nat) (k : Nat) (v : Nat) (s : State) (Hs : Kept cs s) : Kept cs (wrLpfCtl m k v s) := by
  unfold wrLpfCtl
  try dsimp only
  with_reducible repeat' (first | assumption | apply lpfStart_kept | apply checkedWrite_kept | apply refuse_kept | apply State.setF_kept | dsimp only | refine kept_of_snd (by assumption) ?_ | refine kept_of_snd2 (by assumption) ?_ | refine kept_of_fst (by assumption) ?_ | (simp only [kept_mk_iff]; (first | apply keptIn_fold | apply keptIn_flags)) | split | intro _)

theorem lpfLoadBegin_kept {cs : Keep} (k : Nat) (s : State) (Hs : Kept cs s) : Kept cs (lpfLoadBegin k s) := by
  unfold lpfLoadBegin
  try dsimp only
  with_reducible repeat' (first | assumption | apply State.setClu_kept | dsimp only | refine kept_of_snd (by assumption) ?_ | refine kept_of_snd2 (by assumption) ?_ | refine kept_of_fst (by assumption) ?_ | (simp only [kept_mk_iff]; (first | apply keptIn_fold | apply keptIn_flags)) | split | intro _)

theorem lpfRead_kept {cs : Keep} (k : Nat) (p : Nat) (tier : Nat) (addr : Nat) (len : Nat) (since : Nat) (s : State) (Hs : Kept cs s) : Kept cs (lpfRead k p tier addr len since s).2 := by
  unfold lpfRead
  try dsimp only
  with_reducible repeat' (first | assumption | apply memRead_kept | dsimp only | refine kept_of_snd (by assumption) ?_ | refine kept_of_snd2 (by assumption) ?_ | refine kept_of_fst (by assumption) ?_ | (simp only [kept_mk_iff]; (first | apply keptIn_fold | apply keptIn_flags)) | split | intro _)

theorem lpfEntry_kept {cs : Keep} (k : Nat) (p : Nat) (r : LpfRun) (s : State) (Hs : Kept cs s) : Kept cs (lpfEntry k p r s).2.2 := by
  unfold lpfEntry
  try dsimp only
  with_reducible repeat' (first | assumption | apply lpfRead_kept | dsimp only | refine kept_of_snd (by assumption) ?_ | refine kept_of_snd2 (by assumption) ?_ | refine kept_of_fst (by assumption) ?_ | (simp only [kept_mk_iff]; (first | apply keptIn_fold | apply keptIn_flags)) | split | intro _)

theorem lpfBlock_kept {cs : Keep} (k : Nat) (p : Nat) (cap : Nat) (base : Nat) (e : LpfEnt) (r : LpfRun) (s : State) (Hs : Kept cs s) : Kept cs (lpfBlock k p cap base e r s).2.2 := by
  unfold lpfBlock
  try dsimp only
  with_reducible repeat' (first | assumption | apply lpfRead_kept | apply cluWrite_kept | apply accessFail_kept | apply perf_kept | dsimp only | refine kept_of_snd (by assumption) ?_ | refine kept_of_snd2 (by assumption) ?_ | refine kept_of_fst (by assumption) ?_ | (simp only [kept_mk_iff]; (first | apply keptIn_fold | apply keptIn_flags)) | split | intro _)

theorem lpfLoop_kept {cs : Keep} (k : Nat) (p : Nat) (cap : Nat) (base : Nat) (a0 : Nat) (a1 : LpfRun) (a2 : State) (Ha2 : Kept cs a2) : Kept cs (lpfLoop k p cap base a0 a1 a2).2.2 := by
  revert Ha2
  induction a0 generalizing a1 a2 with
  | zero => intro Ha2; unfold lpfLoop; (try dsimp only at *); (with_reducible repeat' (first | assumption | apply lpfBlock_kept | apply lpfEntry_kept | apply ih | dsimp only | refine kept_of_snd (by assumption) ?_ | refine kept_of_snd2 (by assumption) ?_ | refine kept_of_fst (by assumption) ?_ | (simp only [kept_mk_iff]; (first | apply keptIn_fold | apply keptIn_flags)) | split | intro _))
  | succ n ih => intro Ha2; unfold lpfLoop; (try dsimp only at *); (with_reducible repeat' (first | assumption | apply lpfBlock_kept | apply lpfEntry_kept | apply ih | dsimp only | refine kept_of_snd (by assumption) ?_ | refine kept_of_snd2 (by assumption) ?_ | refine kept_of_fst (by assumption) ?_ | (simp only [kept_mk_iff]; (first | apply keptIn_fold | apply keptIn_flags)) | split | intro _))

theorem lpfFail_kept {cs : Keep} (k : Nat) (code : Nat) (s : State) (Hs : Kept cs s) : Kept cs (lpfFail k code s) := by
  unfold lpfFail
  try dsimp only
  with_reducible repeat' (first | assumption | apply State.setClu_kept | apply State.setF_kept | dsimp only | refine kept_of_snd (by assumption) ?_ | refine kept_of_snd2 (by assumption) ?_ | refine kept_of_fst (by assumption) ?_ | (simp only [kept_mk_iff]; (first | apply keptIn_fold | apply keptIn_flags)) | split | intro _)

theorem lpfEnd_kept {cs : Keep} (k : Nat) (r : LpfRun) (s : State) (Hs : Kept cs s) : Kept cs (lpfEnd k r s) := by
  unfold lpfEnd
  try dsimp only
  with_reducible repeat' (first | assumption | apply State.setClu_kept | apply State.setW64_kept | apply State.setF_kept | dsimp only | refine kept_of_snd (by assumption) ?_ | refine kept_of_snd2 (by assumption) ?_ | refine kept_of_fst (by assumption) ?_ | (simp only [kept_mk_iff]; (first | apply keptIn_fold | apply keptIn_flags)) | split | intro _)

theorem lpfDone_kept {cs : Keep} (k : Nat) (s : State) (Hs : Kept cs s) : Kept cs (lpfDone k s) := by
  unfold lpfDone
  try dsimp only
  with_reducible repeat' (first | assumption | apply lpfEnd_kept | apply lpfFail_kept | apply lpfLoop_kept | apply logErr_kept | apply State.setClu_kept | dsimp only | refine kept_of_snd (by assumption) ?_ | refine kept_of_snd2 (by assumption) ?_ | refine kept_of_fst (by assumption) ?_ | (simp only [kept_mk_iff]; (first | apply keptIn_fold | apply keptIn_flags)) | split | intro _)

theorem ringDeliver_kept {cs : Keep} (d : Marked) (c : Nat) (s : State) (Hs : Kept cs s) : Kept cs (ringDeliver d c s) := by
  unfold ringDeliver
  try dsimp only
  with_reducible repeat' (first | assumption | apply staticPut_kept | apply seqFaultAt_kept | apply leaveFetch_kept | apply State.setCore_kept | dsimp only | refine kept_of_snd (by assumption) ?_ | refine kept_of_snd2 (by assumption) ?_ | refine kept_of_fst (by assumption) ?_ | (simp only [kept_mk_iff]; (first | apply keptIn_fold | apply keptIn_flags)) | split | intro _)

theorem ringPass_kept {cs : Keep} (k : Nat) (s : State) (Hs : Kept cs s) : Kept cs (ringPass k s) := by
  unfold ringPass
  try dsimp only
  with_reducible repeat' (first | assumption | apply ringDeliver_kept | apply coreFaultAt_kept | apply perf_kept | apply State.setClu_kept | apply forEach_kept | dsimp only | refine kept_of_snd (by assumption) ?_ | refine kept_of_snd2 (by assumption) ?_ | refine kept_of_fst (by assumption) ?_ | (simp only [kept_mk_iff]; (first | apply keptIn_fold | apply keptIn_flags)) | split | intro _)

theorem execLpfGo_kept {cs : Keep} (m : Nat) (k : Nat) (outMax : Nat) (s : State) (Hs : Kept cs s) : KeptOut cs (execLpfGo m k outMax s) := by
  unfold execLpfGo
  try dsimp only
  with_reducible repeat' (first | assumption | apply keptOut_next | apply wrLpfCtl_kept | apply run_kept | apply whenOk_kept | dsimp only | refine kept_of_snd (by assumption) ?_ | refine kept_of_snd2 (by assumption) ?_ | refine kept_of_fst (by assumption) ?_ | (simp only [kept_mk_iff]; (first | apply keptIn_fold | apply keptIn_flags)) | split | intro _)

theorem execLpfLoadBegin_kept {cs : Keep} (k : Nat) (s : State) (Hs : Kept cs s) : KeptOut cs (execLpfLoadBegin k s) := by
  unfold execLpfLoadBegin
  try dsimp only
  with_reducible repeat' (first | assumption | apply keptOut_next | apply lpfLoadBegin_kept | apply run_kept | apply whenOk_kept | dsimp only | refine kept_of_snd (by assumption) ?_ | refine kept_of_snd2 (by assumption) ?_ | refine kept_of_fst (by assumption) ?_ | (simp only [kept_mk_iff]; (first | apply keptIn_fold | apply keptIn_flags)) | split | intro _)

theorem execLpfDone_kept {cs : Keep} (k : Nat) (errs : Errs) (s : State) (Hs : Kept cs s) : KeptOut cs (execLpfDone k errs s) := by
  unfold execLpfDone
  try dsimp only
  with_reducible repeat' (first | assumption | apply keptOut_next | apply lpfDone_kept | apply runErr_kept | apply whenOk_kept | dsimp only | refine kept_of_snd (by assumption) ?_ | refine kept_of_snd2 (by assumption) ?_ | refine kept_of_fst (by assumption) ?_ | (simp only [kept_mk_iff]; (first | apply keptIn_fold | apply keptIn_flags)) | split | intro _)

theorem execWeightSwap_kept {cs : Keep} (k : Nat) (s : State) (Hs : Kept cs s) : KeptOut cs (execWeightSwap k s) := by
  unfold execWeightSwap
  try dsimp only
  with_reducible repeat' (first | assumption | apply keptOut_next | apply weightSwap_kept | apply run_kept | apply whenOk_kept | dsimp only | refine kept_of_snd (by assumption) ?_ | refine kept_of_snd2 (by assumption) ?_ | refine kept_of_fst (by assumption) ?_ | (simp only [kept_mk_iff]; (first | apply keptIn_fold | apply keptIn_flags)) | split | intro _)

theorem execCluWcfgWrite_kept {cs : Keep} (m : Nat) (k : Nat) (v : Nat) (s : State) (Hs : Kept cs s) : KeptOut cs (execCluWcfgWrite m k v s) := by
  unfold execCluWcfgWrite
  try dsimp only
  with_reducible repeat' (first | assumption | apply keptOut_next | apply wrWcfg_kept | apply run_kept | apply whenOk_kept | dsimp only | refine kept_of_snd (by assumption) ?_ | refine kept_of_snd2 (by assumption) ?_ | refine kept_of_fst (by assumption) ?_ | (simp only [kept_mk_iff]; (first | apply keptIn_fold | apply keptIn_flags)) | split | intro _)

theorem execRingShardPass_kept {cs : Keep} (k : Nat) (s : State) (Hs : Kept cs s) : KeptOut cs (execRingShardPass k s) := by
  unfold execRingShardPass
  try dsimp only
  with_reducible repeat' (first | assumption | apply keptOut_next | apply ringPass_kept | apply run_kept | apply whenOk_kept | dsimp only | refine kept_of_snd (by assumption) ?_ | refine kept_of_snd2 (by assumption) ?_ | refine kept_of_fst (by assumption) ?_ | (simp only [kept_mk_iff]; (first | apply keptIn_fold | apply keptIn_flags)) | split | intro _)

theorem setPc_kept {cs : Keep} (c : Nat) (pc : Nat) (s : State) (Hs : Kept cs s) : Kept cs (setPc c pc s) := by
  unfold setPc
  try dsimp only
  with_reducible repeat' (first | assumption | apply State.setCore_kept | dsimp only | refine kept_of_snd (by assumption) ?_ | refine kept_of_snd2 (by assumption) ?_ | refine kept_of_fst (by assumption) ?_ | (simp only [kept_mk_iff]; (first | apply keptIn_fold | apply keptIn_flags)) | split | intro _)

theorem nextPc_kept {cs : Keep} (c : Nat) (s : State) (Hs : Kept cs s) : Kept cs (nextPc c s) := by
  unfold nextPc
  try dsimp only
  with_reducible repeat' (first | assumption | apply setPc_kept | dsimp only | refine kept_of_snd (by assumption) ?_ | refine kept_of_snd2 (by assumption) ?_ | refine kept_of_fst (by assumption) ?_ | (simp only [kept_mk_iff]; (first | apply keptIn_fold | apply keptIn_flags)) | split | intro _)

theorem setIreg_kept {cs : Keep} (c : Nat) (i : Nat) (v : Nat) (s : State) (Hs : Kept cs s) : Kept cs (setIreg c i v s) := by
  unfold setIreg
  try dsimp only
  with_reducible repeat' (first | assumption | apply State.setCore_kept | dsimp only | refine kept_of_snd (by assumption) ?_ | refine kept_of_snd2 (by assumption) ?_ | refine kept_of_fst (by assumption) ?_ | (simp only [kept_mk_iff]; (first | apply keptIn_fold | apply keptIn_flags)) | split | intro _)

theorem instr_kept {cs : Keep} (c : Nat) (op : Nat) (res : Nat) (k : Nat → State → State) (s : State) (Hk : ∀ x0 s, Kept cs s → Kept cs (k x0 s)) (Hs : Kept cs s) : Kept cs (instr c op res k s) := by
  unfold instr
  try dsimp only
  with_reducible repeat' (first | assumption | apply Hk | apply seqFault_kept | apply State.setCore_kept | dsimp only | refine kept_of_snd (by assumption) ?_ | refine kept_of_snd2 (by assumption) ?_ | refine kept_of_fst (by assumption) ?_ | (simp only [kept_mk_iff]; (first | apply keptIn_fold | apply keptIn_flags)) | split | intro _)

theorem seqNop_kept {cs : Keep} (c : Nat) (s : State) (Hs : Kept cs s) : Kept cs (seqNop c s) := by
  unfold seqNop
  try dsimp only
  with_reducible repeat' (first | assumption | apply instr_kept | apply nextPc_kept | dsimp only | refine kept_of_snd (by assumption) ?_ | refine kept_of_snd2 (by assumption) ?_ | refine kept_of_fst (by assumption) ?_ | (simp only [kept_mk_iff]; (first | apply keptIn_fold | apply keptIn_flags)) | split | intro _)

theorem seqGet_kept {cs : Keep} (c : Nat) (s : State) (Hs : Kept cs s) : Kept cs (seqGet c s) := by
  unfold seqGet
  try dsimp only
  with_reducible repeat' (first | assumption | apply instr_kept | apply seqFault_kept | apply State.setCore_kept | dsimp only | refine kept_of_snd (by assumption) ?_ | refine kept_of_snd2 (by assumption) ?_ | refine kept_of_fst (by assumption) ?_ | (simp only [kept_mk_iff]; (first | apply keptIn_fold | apply keptIn_flags)) | split | intro _)

theorem endOp_kept {cs : Keep} (c : Nat) (s : State) (Hs : Kept cs s) : Kept cs (endOp c s) := by
  unfold endOp
  try dsimp only
  with_reducible repeat' (first | assumption | apply leaveFetch_kept | apply poolReset_kept | apply State.setCore_kept | dsimp only | refine kept_of_snd (by assumption) ?_ | refine kept_of_snd2 (by assumption) ?_ | refine kept_of_fst (by assumption) ?_ | (simp only [kept_mk_iff]; (first | apply keptIn_fold | apply keptIn_flags)) | split | intro _)

theorem seqPut_kept {cs : Keep} (c : Nat) (s : State) (Hs : Kept cs s) : Kept cs (seqPut c s) := by
  unfold seqPut
  try dsimp only
  with_reducible repeat' (first | assumption | apply endOp_kept | apply instr_kept | apply setPc_kept | apply seqFault_kept | apply completed_kept | dsimp only | refine kept_of_snd (by assumption) ?_ | refine kept_of_snd2 (by assumption) ?_ | refine kept_of_fst (by assumption) ?_ | (simp only [kept_mk_iff]; (first | apply keptIn_fold | apply keptIn_flags)) | split | intro _)

theorem seqJmp_kept {cs : Keep} (c : Nat) (s : State) (Hs : Kept cs s) : Kept cs (seqJmp c s) := by
  unfold seqJmp
  try dsimp only
  with_reducible repeat' (first | assumption | apply instr_kept | apply setPc_kept | dsimp only | refine kept_of_snd (by assumption) ?_ | refine kept_of_snd2 (by assumption) ?_ | refine kept_of_fst (by assumption) ?_ | (simp only [kept_mk_iff]; (first | apply keptIn_fold | apply keptIn_flags)) | split | intro _)

theorem seqLoop_kept {cs : Keep} (c : Nat) (s : State) (Hs : Kept cs s) : Kept cs (seqLoop c s) := by
  unfold seqLoop
  try dsimp only
  with_reducible repeat' (first | assumption | apply instr_kept | apply setIreg_kept | apply nextPc_kept | apply setPc_kept | dsimp only | refine kept_of_snd (by assumption) ?_ | refine kept_of_snd2 (by assumption) ?_ | refine kept_of_fst (by assumption) ?_ | (simp only [kept_mk_iff]; (first | apply keptIn_fold | apply keptIn_flags)) | split | intro _)

theorem seqBr_kept {cs : Keep} (c : Nat) (s : State) (Hs : Kept cs s) : Kept cs (seqBr c s) := by
  unfold seqBr
  try dsimp only
  with_reducible repeat' (first | assumption | apply instr_kept | apply nextPc_kept | apply setPc_kept | dsimp only | refine kept_of_snd (by assumption) ?_ | refine kept_of_snd2 (by assumption) ?_ | refine kept_of_fst (by assumption) ?_ | (simp only [kept_mk_iff]; (first | apply keptIn_fold | apply keptIn_flags)) | split | intro _)

theorem seqStage_kept {cs : Keep} (c : Nat) (s : State) (Hs : Kept cs s) : Kept cs (seqStage c s) := by
  unfold seqStage
  try dsimp only
  with_reducible repeat' (first | assumption | apply instr_kept | apply nextPc_kept | apply seqFault_kept | apply releaseWin_kept | apply State.setCore_kept | apply forUp_kept | apply forUp_kept2 | dsimp only | refine kept_of_snd (by assumption) ?_ | refine kept_of_snd2 (by assumption) ?_ | refine kept_of_fst (by assumption) ?_ | (simp only [kept_mk_iff]; (first | apply keptIn_fold | apply keptIn_flags)) | split | intro _)

theorem seqTrap_kept {cs : Keep} (c : Nat) (s : State) (Hs : Kept cs s) : Kept cs (seqTrap c s) := by
  unfold seqTrap
  try dsimp only
  with_reducible repeat' (first | assumption | apply instr_kept | apply seqFault_kept | dsimp only | refine kept_of_snd (by assumption) ?_ | refine kept_of_snd2 (by assumption) ?_ | refine kept_of_fst (by assumption) ?_ | (simp only [kept_mk_iff]; (first | apply keptIn_fold | apply keptIn_flags)) | split | intro _)

theorem seqSeti_kept {cs : Keep} (c : Nat) (s : State) (Hs : Kept cs s) : Kept cs (seqSeti c s) := by
  unfold seqSeti
  try dsimp only
  with_reducible repeat' (first | assumption | apply instr_kept | apply setIreg_kept | apply nextPc_kept | dsimp only | refine kept_of_snd (by assumption) ?_ | refine kept_of_snd2 (by assumption) ?_ | refine kept_of_fst (by assumption) ?_ | (simp only [kept_mk_iff]; (first | apply keptIn_fold | apply keptIn_flags)) | split | intro _)

theorem seqAddi_kept {cs : Keep} (c : Nat) (s : State) (Hs : Kept cs s) : Kept cs (seqAddi c s) := by
  unfold seqAddi
  try dsimp only
  with_reducible repeat' (first | assumption | apply instr_kept | apply setIreg_kept | apply nextPc_kept | dsimp only | refine kept_of_snd (by assumption) ?_ | refine kept_of_snd2 (by assumption) ?_ | refine kept_of_fst (by assumption) ?_ | (simp only [kept_mk_iff]; (first | apply keptIn_fold | apply keptIn_flags)) | split | intro _)

theorem seqAdd_kept {cs : Keep} (c : Nat) (s : State) (Hs : Kept cs s) : Kept cs (seqAdd c s) := by
  unfold seqAdd
  try dsimp only
  with_reducible repeat' (first | assumption | apply instr_kept | apply setIreg_kept | apply nextPc_kept | dsimp only | refine kept_of_snd (by assumption) ?_ | refine kept_of_snd2 (by assumption) ?_ | refine kept_of_fst (by assumption) ?_ | (simp only [kept_mk_iff]; (first | apply keptIn_fold | apply keptIn_flags)) | split | intro _)

theorem seqMuli_kept {cs : Keep} (c : Nat) (s : State) (Hs : Kept cs s) : Kept cs (seqMuli c s) := by
  unfold seqMuli
  try dsimp only
  with_reducible repeat' (first | assumption | apply instr_kept | apply setIreg_kept | apply nextPc_kept | dsimp only | refine kept_of_snd (by assumption) ?_ | refine kept_of_snd2 (by assumption) ?_ | refine kept_of_fst (by assumption) ?_ | (simp only [kept_mk_iff]; (first | apply keptIn_fold | apply keptIn_flags)) | split | intro _)

theorem sramUe_kept {cs : Keep} (pg : Nat) (own : Nat) (s : State) (Hs : Kept cs s) : Kept cs (sramUe pg own s) := by
  unfold sramUe
  try dsimp only
  with_reducible repeat' (first | assumption | apply hist_kept | apply State.addF_kept | dsimp only | refine kept_of_snd (by assumption) ?_ | refine kept_of_snd2 (by assumption) ?_ | refine kept_of_fst (by assumption) ?_ | (simp only [kept_mk_iff]; (first | apply keptIn_fold | apply keptIn_flags)) | split | intro _)

theorem sramEcc_kept {cs : Keep} (c : Nat) (ecc : Ecc) (s : State) (Hs : Kept cs s) : Kept cs (sramEcc c ecc s).1 := by
  unfold sramEcc
  try dsimp only
  with_reducible repeat' (first | assumption | apply sramUe_kept | apply coreFaultLog_kept | apply hist_kept | apply State.addF_kept | dsimp only | refine kept_of_snd (by assumption) ?_ | refine kept_of_snd2 (by assumption) ?_ | refine kept_of_fst (by assumption) ?_ | (simp only [kept_mk_iff]; (first | apply keptIn_fold | apply keptIn_flags)) | split | intro _)

theorem seqLd_kept {cs : Keep} (c : Nat) (ecc : Ecc) (s : State) (Hs : Kept cs s) : Kept cs (seqLd c ecc s) := by
  unfold seqLd
  try dsimp only
  with_reducible repeat' (first | assumption | apply sramEcc_kept | apply instr_kept | apply setIreg_kept | apply nextPc_kept | apply poisonFault_kept | apply seqFault_kept | dsimp only | refine kept_of_snd (by assumption) ?_ | refine kept_of_snd2 (by assumption) ?_ | refine kept_of_fst (by assumption) ?_ | (simp only [kept_mk_iff]; (first | apply keptIn_fold | apply keptIn_flags)) | split | intro _)

theorem seqSt_kept {cs : Keep} (c : Nat) (s : State) (Hs : Kept cs s) : Kept cs (seqSt c s) := by
  unfold seqSt
  try dsimp only
  with_reducible repeat' (first | assumption | apply instr_kept | apply nextPc_kept | apply seqFault_kept | refine wsWrite_kept (by assumption) ?_ | dsimp only | refine kept_of_snd (by assumption) ?_ | refine kept_of_snd2 (by assumption) ?_ | refine kept_of_fst (by assumption) ?_ | (simp only [kept_mk_iff]; (first | apply keptIn_fold | apply keptIn_flags)) | split | intro _)

theorem freshWin_kept {cs : Keep} (c : Nat) (q : Nat) (s : State) (Hs : Kept cs s) : Kept cs (freshWin c q s) := by
  unfold freshWin
  try dsimp only
  with_reducible repeat' (first | assumption | apply releaseWin_kept | dsimp only | refine kept_of_snd (by assumption) ?_ | refine kept_of_snd2 (by assumption) ?_ | refine kept_of_fst (by assumption) ?_ | (simp only [kept_mk_iff]; (first | apply keptIn_fold | apply keptIn_flags)) | split | intro _)

theorem seqStrm_kept {cs : Keep} (c : Nat) (s : State) (Hs : Kept cs s) : Kept cs (seqStrm c s) := by
  unfold seqStrm
  try dsimp only
  with_reducible repeat' (first | assumption | apply freshWin_kept | apply instr_kept | apply nextPc_kept | apply addItem_kept | apply seqFault_kept | dsimp only | refine kept_of_snd (by assumption) ?_ | refine kept_of_snd2 (by assumption) ?_ | refine kept_of_fst (by assumption) ?_ | (simp only [kept_mk_iff]; (first | apply keptIn_fold | apply keptIn_flags)) | split | intro _)

theorem seqWload_kept {cs : Keep} (c : Nat) (s : State) (Hs : Kept cs s) : Kept cs (seqWload c s) := by
  unfold seqWload
  try dsimp only
  with_reducible repeat' (first | assumption | apply instr_kept | apply nextPc_kept | apply seqFault_kept | apply coreFault_kept | apply State.setCore_kept | dsimp only | refine kept_of_snd (by assumption) ?_ | refine kept_of_snd2 (by assumption) ?_ | refine kept_of_fst (by assumption) ?_ | (simp only [kept_mk_iff]; (first | apply keptIn_fold | apply keptIn_flags)) | split | intro _)

theorem seqGath_kept {cs : Keep} (c : Nat) (s : State) (Hs : Kept cs s) : Kept cs (seqGath c s) := by
  unfold seqGath
  try dsimp only
  with_reducible repeat' (first | assumption | apply freshWin_kept | apply instr_kept | apply nextPc_kept | apply addItem_kept | apply seqFault_kept | apply State.setCore_kept | dsimp only | refine kept_of_snd (by assumption) ?_ | refine kept_of_snd2 (by assumption) ?_ | refine kept_of_fst (by assumption) ?_ | (simp only [kept_mk_iff]; (first | apply keptIn_fold | apply keptIn_flags)) | split | intro _)

theorem wrPldCtl_kept {cs : Keep} (m : Nat) (c : Nat) (v : Nat) (s : State) (Hs : Kept cs s) : Kept cs (wrPldCtl m c v s) := by
  unfold wrPldCtl
  try dsimp only
  with_reducible repeat' (first | assumption | apply checkedWrite_kept | apply refuse_kept | apply State.setCore_kept | apply State.setW_kept | apply State.setF_kept | dsimp only | refine kept_of_snd (by assumption) ?_ | refine kept_of_snd2 (by assumption) ?_ | refine kept_of_fst (by assumption) ?_ | (simp only [kept_mk_iff]; (first | apply keptIn_fold | apply keptIn_flags)) | split | intro _)

theorem pldFail_kept {cs : Keep} (c : Nat) (code : Nat) (s : State) (Hs : Kept cs s) : Kept cs (pldFail c code s) := by
  unfold pldFail
  try dsimp only
  with_reducible repeat' (first | assumption | apply State.setCore_kept | apply State.setW_kept | dsimp only | refine kept_of_snd (by assumption) ?_ | refine kept_of_snd2 (by assumption) ?_ | refine kept_of_fst (by assumption) ?_ | (simp only [kept_mk_iff]; (first | apply keptIn_fold | apply keptIn_flags)) | split | intro _)

theorem pldDone_kept {cs : Keep} (c : Nat) (s : State) (Hs : Kept cs s) : Kept cs (pldDone c s) := by
  unfold pldDone
  try dsimp only
  with_reducible repeat' (first | assumption | apply pldFail_kept | apply bulkRead_kept | apply logErr_kept | apply State.setCore_kept | apply State.setW_kept | apply foldl_kept2 | apply foldl_kept | dsimp only | refine kept_of_snd (by assumption) ?_ | refine kept_of_snd2 (by assumption) ?_ | refine kept_of_fst (by assumption) ?_ | (simp only [kept_mk_iff]; (first | apply keptIn_fold | apply keptIn_flags)) | split | intro _)

theorem wrCoreFlt_kept {cs : Keep} (m : Nat) (c : Nat) (v : Nat) (s : State) (Hs : Kept cs s) : Kept cs (wrCoreFlt m c v s) := by
  unfold wrCoreFlt
  try dsimp only
  with_reducible repeat' (first | assumption | apply checkedWrite_kept | apply State.setCore_kept | apply State.setF_kept | dsimp only | refine kept_of_snd (by assumption) ?_ | refine kept_of_snd2 (by assumption) ?_ | refine kept_of_fst (by assumption) ?_ | (simp only [kept_mk_iff]; (first | apply keptIn_fold | apply keptIn_flags)) | split | intro _)

theorem runlimExpiry_kept {cs : Keep} (c : Nat) (s : State) (Hs : Kept cs s) : Kept cs (runlimExpiry c s) := by
  unfold runlimExpiry
  try dsimp only
  with_reducible repeat' (first | assumption | apply seqFault_kept | dsimp only | refine kept_of_snd (by assumption) ?_ | refine kept_of_snd2 (by assumption) ?_ | refine kept_of_fst (by assumption) ?_ | (simp only [kept_mk_iff]; (first | apply keptIn_fold | apply keptIn_flags)) | split | intro _)

theorem execNop_kept {cs : Keep} (c : Nat) (s : State) (Hs : Kept cs s) : KeptOut cs (execNop c s) := by
  unfold execNop
  try dsimp only
  with_reducible repeat' (first | assumption | apply keptOut_next | apply seqNop_kept | apply run_kept | apply whenOk_kept | dsimp only | refine kept_of_snd (by assumption) ?_ | refine kept_of_snd2 (by assumption) ?_ | refine kept_of_fst (by assumption) ?_ | (simp only [kept_mk_iff]; (first | apply keptIn_fold | apply keptIn_flags)) | split | intro _)

theorem execGet_kept {cs : Keep} (c : Nat) (s : State) (Hs : Kept cs s) : KeptOut cs (execGet c s) := by
  unfold execGet
  try dsimp only
  with_reducible repeat' (first | assumption | apply keptOut_next | apply seqGet_kept | apply run_kept | apply whenOk_kept | dsimp only | refine kept_of_snd (by assumption) ?_ | refine kept_of_snd2 (by assumption) ?_ | refine kept_of_fst (by assumption) ?_ | (simp only [kept_mk_iff]; (first | apply keptIn_fold | apply keptIn_flags)) | split | intro _)

theorem execPut_kept {cs : Keep} (c : Nat) (errs : Errs) (s : State) (Hs : Kept cs s) : KeptOut cs (execPut c errs s) := by
  unfold execPut
  try dsimp only
  with_reducible repeat' (first | assumption | apply keptOut_next | apply seqPut_kept | apply runErr_kept | apply whenOk_kept | dsimp only | refine kept_of_snd (by assumption) ?_ | refine kept_of_snd2 (by assumption) ?_ | refine kept_of_fst (by assumption) ?_ | (simp only [kept_mk_iff]; (first | apply keptIn_fold | apply keptIn_flags)) | split | intro _)

theorem execJmp_kept {cs : Keep} (c : Nat) (s : State) (Hs : Kept cs s) : KeptOut cs (execJmp c s) := by
  unfold execJmp
  try dsimp only
  with_reducible repeat' (first | assumption | apply keptOut_next | apply seqJmp_kept | apply run_kept | apply whenOk_kept | dsimp only | refine kept_of_snd (by assumption) ?_ | refine kept_of_snd2 (by assumption) ?_ | refine kept_of_fst (by assumption) ?_ | (simp only [kept_mk_iff]; (first | apply keptIn_fold | apply keptIn_flags)) | split | intro _)

theorem execLoop_kept {cs : Keep} (c : Nat) (s : State) (Hs : Kept cs s) : KeptOut cs (execLoop c s) := by
  unfold execLoop
  try dsimp only
  with_reducible repeat' (first | assumption | apply keptOut_next | apply seqLoop_kept | apply run_kept | apply whenOk_kept | dsimp only | refine kept_of_snd (by assumption) ?_ | refine kept_of_snd2 (by assumption) ?_ | refine kept_of_fst (by assumption) ?_ | (simp only [kept_mk_iff]; (first | apply keptIn_fold | apply keptIn_flags)) | split | intro _)

theorem execBr_kept {cs : Keep} (c : Nat) (s : State) (Hs : Kept cs s) : KeptOut cs (execBr c s) := by
  unfold execBr
  try dsimp only
  with_reducible repeat' (first | assumption | apply keptOut_next | apply seqBr_kept | apply run_kept | apply whenOk_kept | dsimp only | refine kept_of_snd (by assumption) ?_ | refine kept_of_snd2 (by assumption) ?_ | refine kept_of_fst (by assumption) ?_ | (simp only [kept_mk_iff]; (first | apply keptIn_fold | apply keptIn_flags)) | split | intro _)

theorem execStage_kept {cs : Keep} (c : Nat) (s : State) (Hs : Kept cs s) : KeptOut cs (execStage c s) := by
  unfold execStage
  try dsimp only
  with_reducible repeat' (first | assumption | apply keptOut_next | apply seqStage_kept | apply run_kept | apply whenOk_kept | dsimp only | refine kept_of_snd (by assumption) ?_ | refine kept_of_snd2 (by assumption) ?_ | refine kept_of_fst (by assumption) ?_ | (simp only [kept_mk_iff]; (first | apply keptIn_fold | apply keptIn_flags)) | split | intro _)

theorem execTrap_kept {cs : Keep} (c : Nat) (s : State) (Hs : Kept cs s) : KeptOut cs (execTrap c s) := by
  unfold execTrap
  try dsimp only
  with_reducible repeat' (first | assumption | apply keptOut_next | apply seqTrap_kept | apply run_kept | apply whenOk_kept | dsimp only | refine kept_of_snd (by assumption) ?_ | refine kept_of_snd2 (by assumption) ?_ | refine kept_of_fst (by assumption) ?_ | (simp only [kept_mk_iff]; (first | apply keptIn_fold | apply keptIn_flags)) | split | intro _)

theorem execSeti_kept {cs : Keep} (c : Nat) (s : State) (Hs : Kept cs s) : KeptOut cs (execSeti c s) := by
  unfold execSeti
  try dsimp only
  with_reducible repeat' (first | assumption | apply keptOut_next | apply seqSeti_kept | apply run_kept | apply whenOk_kept | dsimp only | refine kept_of_snd (by assumption) ?_ | refine kept_of_snd2 (by assumption) ?_ | refine kept_of_fst (by assumption) ?_ | (simp only [kept_mk_iff]; (first | apply keptIn_fold | apply keptIn_flags)) | split | intro _)

theorem execAddi_kept {cs : Keep} (c : Nat) (s : State) (Hs : Kept cs s) : KeptOut cs (execAddi c s) := by
  unfold execAddi
  try dsimp only
  with_reducible repeat' (first | assumption | apply keptOut_next | apply seqAddi_kept | apply run_kept | apply whenOk_kept | dsimp only | refine kept_of_snd (by assumption) ?_ | refine kept_of_snd2 (by assumption) ?_ | refine kept_of_fst (by assumption) ?_ | (simp only [kept_mk_iff]; (first | apply keptIn_fold | apply keptIn_flags)) | split | intro _)

theorem execAdd_kept {cs : Keep} (c : Nat) (s : State) (Hs : Kept cs s) : KeptOut cs (execAdd c s) := by
  unfold execAdd
  try dsimp only
  with_reducible repeat' (first | assumption | apply keptOut_next | apply seqAdd_kept | apply run_kept | apply whenOk_kept | dsimp only | refine kept_of_snd (by assumption) ?_ | refine kept_of_snd2 (by assumption) ?_ | refine kept_of_fst (by assumption) ?_ | (simp only [kept_mk_iff]; (first | apply keptIn_fold | apply keptIn_flags)) | split | intro _)

theorem execMuli_kept {cs : Keep} (c : Nat) (s : State) (Hs : Kept cs s) : KeptOut cs (execMuli c s) := by
  unfold execMuli
  try dsimp only
  with_reducible repeat' (first | assumption | apply keptOut_next | apply seqMuli_kept | apply run_kept | apply whenOk_kept | dsimp only | refine kept_of_snd (by assumption) ?_ | refine kept_of_snd2 (by assumption) ?_ | refine kept_of_fst (by assumption) ?_ | (simp only [kept_mk_iff]; (first | apply keptIn_fold | apply keptIn_flags)) | split | intro _)

theorem execLd_kept {cs : Keep} (c : Nat) (ecc : Ecc) (s : State) (Hs : Kept cs s) : KeptOut cs (execLd c ecc s) := by
  unfold execLd
  try dsimp only
  with_reducible repeat' (first | assumption | apply keptOut_next | apply seqLd_kept | apply run_kept | apply whenOk_kept | dsimp only | refine kept_of_snd (by assumption) ?_ | refine kept_of_snd2 (by assumption) ?_ | refine kept_of_fst (by assumption) ?_ | (simp only [kept_mk_iff]; (first | apply keptIn_fold | apply keptIn_flags)) | split | intro _)

theorem execSt_kept {cs : Keep} (c : Nat) (s : State) (Hs : Kept cs s) : KeptOut cs (execSt c s) := by
  unfold execSt
  try dsimp only
  with_reducible repeat' (first | assumption | apply keptOut_next | apply seqSt_kept | apply run_kept | apply whenOk_kept | dsimp only | refine kept_of_snd (by assumption) ?_ | refine kept_of_snd2 (by assumption) ?_ | refine kept_of_fst (by assumption) ?_ | (simp only [kept_mk_iff]; (first | apply keptIn_fold | apply keptIn_flags)) | split | intro _)

theorem execStrm_kept {cs : Keep} (c : Nat) (s : State) (Hs : Kept cs s) : KeptOut cs (execStrm c s) := by
  unfold execStrm
  try dsimp only
  with_reducible repeat' (first | assumption | apply keptOut_next | apply seqStrm_kept | apply run_kept | apply whenOk_kept | dsimp only | refine kept_of_snd (by assumption) ?_ | refine kept_of_snd2 (by assumption) ?_ | refine kept_of_fst (by assumption) ?_ | (simp only [kept_mk_iff]; (first | apply keptIn_fold | apply keptIn_flags)) | split | intro _)

theorem execWload_kept {cs : Keep} (c : Nat) (s : State) (Hs : Kept cs s) : KeptOut cs (execWload c s) := by
  unfold execWload
  try dsimp only
  with_reducible repeat' (first | assumption | apply keptOut_next | apply seqWload_kept | apply run_kept | apply whenOk_kept | dsimp only | refine kept_of_snd (by assumption) ?_ | refine kept_of_snd2 (by assumption) ?_ | refine kept_of_fst (by assumption) ?_ | (simp only [kept_mk_iff]; (first | apply keptIn_fold | apply keptIn_flags)) | split | intro _)

theorem execGath_kept {cs : Keep} (c : Nat) (s : State) (Hs : Kept cs s) : KeptOut cs (execGath c s) := by
  unfold execGath
  try dsimp only
  with_reducible repeat' (first | assumption | apply keptOut_next | apply seqGath_kept | apply run_kept | apply whenOk_kept | dsimp only | refine kept_of_snd (by assumption) ?_ | refine kept_of_snd2 (by assumption) ?_ | refine kept_of_fst (by assumption) ?_ | (simp only [kept_mk_iff]; (first | apply keptIn_fold | apply keptIn_flags)) | split | intro _)

theorem execProgramLoad_kept {cs : Keep} (m : Nat) (c : Nat) (dest : Nat) (count : Nat) (s : State) (Hs : Kept cs s) : KeptOut cs (execProgramLoad m c dest count s) := by
  unfold execProgramLoad
  try dsimp only
  with_reducible repeat' (first | assumption | apply keptOut_next | apply wrPldCtl_kept | apply run_kept | apply whenOk_kept | dsimp only | refine kept_of_snd (by assumption) ?_ | refine kept_of_snd2 (by assumption) ?_ | refine kept_of_fst (by assumption) ?_ | (simp only [kept_mk_iff]; (first | apply keptIn_fold | apply keptIn_flags)) | split | intro _)

theorem execProgramLoadDone_kept {cs : Keep} (c : Nat) (errs : Errs) (s : State) (Hs : Kept cs s) : KeptOut cs (execProgramLoadDone c errs s) := by
  unfold execProgramLoadDone
  try dsimp only
  with_reducible repeat' (first | assumption | apply keptOut_next | apply pldDone_kept | apply runErr_kept | apply whenOk_kept | dsimp only | refine kept_of_snd (by assumption) ?_ | refine kept_of_snd2 (by assumption) ?_ | refine kept_of_fst (by assumption) ?_ | (simp only [kept_mk_iff]; (first | apply keptIn_fold | apply keptIn_flags)) | split | intro _)

theorem execCoreFltClear_kept {cs : Keep} (m : Nat) (c : Nat) (s : State) (Hs : Kept cs s) : KeptOut cs (execCoreFltClear m c s) := by
  unfold execCoreFltClear
  try dsimp only
  with_reducible repeat' (first | assumption | apply keptOut_next | apply wrCoreFlt_kept | apply run_kept | apply whenOk_kept | dsimp only | refine kept_of_snd (by assumption) ?_ | refine kept_of_snd2 (by assumption) ?_ | refine kept_of_fst (by assumption) ?_ | (simp only [kept_mk_iff]; (first | apply keptIn_fold | apply keptIn_flags)) | split | intro _)

theorem execCoreRunlimExpiry_kept {cs : Keep} (c : Nat) (s : State) (Hs : Kept cs s) : KeptOut cs (execCoreRunlimExpiry c s) := by
  unfold execCoreRunlimExpiry
  try dsimp only
  with_reducible repeat' (first | assumption | apply keptOut_next | apply runlimExpiry_kept | apply run_kept | apply whenOk_kept | dsimp only | refine kept_of_snd (by assumption) ?_ | refine kept_of_snd2 (by assumption) ?_ | refine kept_of_fst (by assumption) ?_ | (simp only [kept_mk_iff]; (first | apply keptIn_fold | apply keptIn_flags)) | split | intro _)

theorem State.setTslot_kept {cs : Keep} (s : State) (c : Nat) (n : Nat) (v : Slot) (Hs : Kept cs s) : Kept cs (State.setTslot s c n v) := by
  unfold State.setTslot
  try dsimp only
  with_reducible repeat' (first | assumption | apply State.setCore_kept | dsimp only | refine kept_of_snd (by assumption) ?_ | refine kept_of_snd2 (by assumption) ?_ | refine kept_of_fst (by assumption) ?_ | (simp only [kept_mk_iff]; (first | apply keptIn_fold | apply keptIn_flags)) | split | intro _)

theorem klimCheck_kept {cs : Keep} (c : Nat) (n : Nat) (s : State) (Hs : Kept cs s) : Kept cs (klimCheck c n s) := by
  unfold klimCheck
  try dsimp only
  with_reducible repeat' (first | assumption | apply State.setTslot_kept | apply logInfo_kept | apply perf_kept | apply State.setCore_kept | dsimp only | refine kept_of_snd (by assumption) ?_ | refine kept_of_snd2 (by assumption) ?_ | refine kept_of_fst (by assumption) ?_ | (simp only [kept_mk_iff]; (first | apply keptIn_fold | apply keptIn_flags)) | split | intro _)

theorem compute_kept {cs : Keep} (c : Nat) (k : State → State) (s : State) (Hk : ∀ s, Kept cs s → Kept cs (k s)) (Hs : Kept cs s) : Kept cs (compute c k s) := by
  unfold compute
  try dsimp only
  with_reducible repeat' (first | assumption | apply Hk | apply compMark_kept | dsimp only | refine kept_of_snd (by assumption) ?_ | refine kept_of_snd2 (by assumption) ?_ | refine kept_of_fst (by assumption) ?_ | (simp only [kept_mk_iff]; (first | apply keptIn_fold | apply keptIn_flags)) | split | intro _)

theorem writeTile_kept {cs : Keep} (c : Nat) (w : Nat) (kb : Nat) (tile : Nat) (vals : List Nat) (e : Nat) (sat : Bool) (s : State) (Hs : Kept cs s) : Kept cs (writeTile c w kb tile vals e sat s) := by
  unfold writeTile
  try dsimp only
  with_reducible repeat' (first | assumption | apply klimCheck_kept | apply State.setTslot_kept | apply State.setCore_kept | dsimp only | refine kept_of_snd (by assumption) ?_ | refine kept_of_snd2 (by assumption) ?_ | refine kept_of_fst (by assumption) ?_ | (simp only [kept_mk_iff]; (first | apply keptIn_fold | apply keptIn_flags)) | split | intro _)

theorem mactRun_kept {cs : Keep} (c : Nat) (w : Nat) (kb : Nat) (tile : Nat) (a : List Byte) (b : List Byte) (s : State) (Hs : Kept cs s) : Kept cs (mactRun c w kb tile a b s) := by
  unfold mactRun
  try dsimp only
  with_reducible repeat' (first | assumption | apply writeTile_kept | apply logErr_kept | apply perf_kept | dsimp only | refine kept_of_snd (by assumption) ?_ | refine kept_of_snd2 (by assumption) ?_ | refine kept_of_fst (by assumption) ?_ | (simp only [kept_mk_iff]; (first | apply keptIn_fold | apply keptIn_flags)) | split | intro _)

theorem seqMact_kept {cs : Keep} (c : Nat) (ecc : Ecc) (s : State) (Hs : Kept cs s) : Kept cs (seqMact c ecc s) := by
  unfold seqMact
  try dsimp only
  with_reducible repeat' (first | assumption | apply mactRun_kept | apply compute_kept | apply sramEcc_kept | apply instr_kept | apply nextPc_kept | apply poisonFault_kept | apply seqFault_kept | dsimp only | refine kept_of_snd (by assumption) ?_ | refine kept_of_snd2 (by assumption) ?_ | refine kept_of_fst (by assumption) ?_ | (simp only [kept_mk_iff]; (first | apply keptIn_fold | apply keptIn_flags)) | split | intro _)

theorem seqVacc_kept {cs : Keep} (c : Nat) (ecc : Ecc) (s : State) (Hs : Kept cs s) : Kept cs (seqVacc c ecc s) := by
  unfold seqVacc
  try dsimp only
  with_reducible repeat' (first | assumption | apply compute_kept | apply klimCheck_kept | apply State.setTslot_kept | apply sramEcc_kept | apply instr_kept | apply nextPc_kept | apply poisonFault_kept | apply seqFault_kept | apply perf_kept | dsimp only | refine kept_of_snd (by assumption) ?_ | refine kept_of_snd2 (by assumption) ?_ | refine kept_of_fst (by assumption) ?_ | (simp only [kept_mk_iff]; (first | apply keptIn_fold | apply keptIn_flags)) | split | intro _)

theorem seqFuse_kept {cs : Keep} (c : Nat) (s : State) (Hs : Kept cs s) : Kept cs (seqFuse c s) := by
  unfold seqFuse
  try dsimp only
  with_reducible repeat' (first | assumption | apply compute_kept | apply instr_kept | apply nextPc_kept | apply seqFault_kept | apply State.setCore_kept | dsimp only | refine kept_of_snd (by assumption) ?_ | refine kept_of_snd2 (by assumption) ?_ | refine kept_of_fst (by assumption) ?_ | (simp only [kept_mk_iff]; (first | apply keptIn_fold | apply keptIn_flags)) | split | intro _)

theorem freshWriteWin_kept {cs : Keep} (c : Nat) (s : State) (Hs : Kept cs s) : Kept cs (freshWriteWin c s) := by
  unfold freshWriteWin
  try dsimp only
  with_reducible repeat' (first | assumption | apply State.setTq_kept | apply poolGive_kept | dsimp only | refine kept_of_snd (by assumption) ?_ | refine kept_of_snd2 (by assumption) ?_ | refine kept_of_fst (by assumption) ?_ | (simp only [kept_mk_iff]; (first | apply keptIn_fold | apply keptIn_flags)) | split | intro _)

theorem drainRoom_kept {cs : Keep} (c : Nat) (wsa : Nat) (n : Nat) (s : State) (Hs : Kept cs s) : Kept cs (drainRoom c wsa n s).2 := by
  unfold drainRoom
  try dsimp only
  with_reducible repeat' (first | assumption | apply freshWriteWin_kept | apply State.setTq_kept | dsimp only | refine kept_of_snd (by assumption) ?_ | refine kept_of_snd2 (by assumption) ?_ | refine kept_of_fst (by assumption) ?_ | (simp only [kept_mk_iff]; (first | apply keptIn_fold | apply keptIn_flags)) | split | intro _)

theorem drainStore_kept {cs : Keep} (c : Nat) (wsa : Nat) (d : List Byte) (k : State → State) (s : State) (Hk : ∀ s, Kept cs s → Kept cs (k s)) (Hs : Kept cs s) : Kept cs (drainStore c wsa d k s) := by
  unfold drainStore
  try dsimp only
  with_reducible repeat' (first | assumption | apply Hk | apply seqFault_kept | apply State.setTq_kept | refine wsWrite_kept (by assumption) ?_ | dsimp only | refine kept_of_snd (by assumption) ?_ | refine kept_of_snd2 (by assumption) ?_ | refine kept_of_fst (by assumption) ?_ | (simp only [kept_mk_iff]; (first | apply keptIn_fold | apply keptIn_flags)) | split | intro _)

theorem seqDrain_kept {cs : Keep} (c : Nat) (ecc : Ecc) (s : State) (Hs : Kept cs s) : Kept cs (seqDrain c ecc s) := by
  unfold seqDrain
  try dsimp only
  with_reducible repeat' (first | assumption | apply drainStore_kept | apply drainRoom_kept | apply compute_kept | apply sramEcc_kept | apply instr_kept | apply nextPc_kept | apply poisonFault_kept | apply seqFault_kept | apply perf_kept | apply State.setCore_kept | dsimp only | refine kept_of_snd (by assumption) ?_ | refine kept_of_snd2 (by assumption) ?_ | refine kept_of_fst (by assumption) ?_ | (simp only [kept_mk_iff]; (first | apply keptIn_fold | apply keptIn_flags)) | split | intro _)

theorem execMact_kept {cs : Keep} (c : Nat) (ecc : Ecc) (s : State) (Hs : Kept cs s) : KeptOut cs (execMact c ecc s) := by
  unfold execMact
  try dsimp only
  with_reducible repeat' (first | assumption | apply keptOut_next | apply seqMact_kept | apply run_kept | apply whenOk_kept | dsimp only | refine kept_of_snd (by assumption) ?_ | refine kept_of_snd2 (by assumption) ?_ | refine kept_of_fst (by assumption) ?_ | (simp only [kept_mk_iff]; (first | apply keptIn_fold | apply keptIn_flags)) | split | intro _)

theorem execVacc_kept {cs : Keep} (c : Nat) (ecc : Ecc) (s : State) (Hs : Kept cs s) : KeptOut cs (execVacc c ecc s) := by
  unfold execVacc
  try dsimp only
  with_reducible repeat' (first | assumption | apply keptOut_next | apply seqVacc_kept | apply run_kept | apply whenOk_kept | dsimp only | refine kept_of_snd (by assumption) ?_ | refine kept_of_snd2 (by assumption) ?_ | refine kept_of_fst (by assumption) ?_ | (simp only [kept_mk_iff]; (first | apply keptIn_fold | apply keptIn_flags)) | split | intro _)

theorem execFuse_kept {cs : Keep} (c : Nat) (s : State) (Hs : Kept cs s) : KeptOut cs (execFuse c s) := by
  unfold execFuse
  try dsimp only
  with_reducible repeat' (first | assumption | apply keptOut_next | apply seqFuse_kept | apply run_kept | apply whenOk_kept | dsimp only | refine kept_of_snd (by assumption) ?_ | refine kept_of_snd2 (by assumption) ?_ | refine kept_of_fst (by assumption) ?_ | (simp only [kept_mk_iff]; (first | apply keptIn_fold | apply keptIn_flags)) | split | intro _)

theorem execDrain_kept {cs : Keep} (c : Nat) (ecc : Ecc) (s : State) (Hs : Kept cs s) : KeptOut cs (execDrain c ecc s) := by
  unfold execDrain
  try dsimp only
  with_reducible repeat' (first | assumption | apply keptOut_next | apply seqDrain_kept | apply run_kept | apply whenOk_kept | dsimp only | refine kept_of_snd (by assumption) ?_ | refine kept_of_snd2 (by assumption) ?_ | refine kept_of_fst (by assumption) ?_ | (simp only [kept_mk_iff]; (first | apply keptIn_fold | apply keptIn_flags)) | split | intro _)

end Sys2Proof.Machine
end

