-- ==== Sys2Proof/Laws/KeptEngine.lean ====
section
/-! SUPPORT.  What the operations of embedding, gather, migration, tokenizers and detokenizers keep: the queue of waiting
commands, and the canonical form of the registers and the stores.  One lemma per operation. -/

set_option linter.all false

namespace Sys2Proof.Machine

theorem engRead_kept {cs : Keep} (iss : Nat) (a : Access) (rmt : Bool) (tier : Nat) (addr : Nat) (n : Nat) (s : State) (Hs : Kept cs s) : Kept cs (engRead iss a rmt tier addr n s).2 := by
  unfold engRead
  try dsimp only
  with_reducible repeat' (first | assumption | apply awaitIf_kept | apply memRead_kept | dsimp only | refine kept_of_snd (by assumption) ?_ | refine kept_of_snd2 (by assumption) ?_ | refine kept_of_fst (by assumption) ?_ | (simp only [kept_mk_iff]; (first | apply keptIn_fold | apply keptIn_flags)) | split | intro _)

theorem probe_kept {cs : Keep} (t : Tdesc) (rd : BucketRd) (r : Nat) (a0 : Nat) (a1 : Nat) (a2 : State) (Hrd : ∀ b x s, Kept cs s → Kept cs (rd b x s).2) (Ha2 : Kept cs a2) : Kept cs (probe t rd r a0 a1 a2).2 := by
  revert Ha2
  induction a0 generalizing a1 a2 with
  | zero => intro Ha2; unfold probe; (try dsimp only at *); (with_reducible repeat' (first | assumption | apply Hrd | apply ih | dsimp only | refine kept_of_snd (by assumption) ?_ | refine kept_of_snd2 (by assumption) ?_ | refine kept_of_fst (by assumption) ?_ | (simp only [kept_mk_iff]; (first | apply keptIn_fold | apply keptIn_flags)) | split | intro _))
  | succ n ih => intro Ha2; unfold probe; (try dsimp only at *); (with_reducible repeat' (first | assumption | apply Hrd | apply ih | dsimp only | refine kept_of_snd (by assumption) ?_ | refine kept_of_snd2 (by assumption) ?_ | refine kept_of_fst (by assumption) ?_ | (simp only [kept_mk_iff]; (first | apply keptIn_fold | apply keptIn_flags)) | split | intro _))

theorem shardOf_kept {cs : Keep} (iss : Nat) (a : Access) (die : Nat) (t : Tdesc) (h : Nat) (s : State) (Hs : Kept cs s) : Kept cs (shardOf iss a die t h s).2 := by
  unfold shardOf
  try dsimp only
  with_reducible repeat' (first | assumption | apply engRead_kept | dsimp only | refine kept_of_snd (by assumption) ?_ | refine kept_of_snd2 (by assumption) ?_ | refine kept_of_fst (by assumption) ?_ | (simp only [kept_mk_iff]; (first | apply keptIn_fold | apply keptIn_flags)) | split | intro _)

theorem rowAddr_kept {cs : Keep} (iss : Nat) (a : Access) (die : Nat) (t : Tdesc) (rd : BucketRd) (r : Nat) (s : State) (Hrd : ∀ b x s, Kept cs s → Kept cs (rd b x s).2) (Hs : Kept cs s) : Kept cs (rowAddr iss a die t rd r s).2 := by
  unfold rowAddr
  try dsimp only
  with_reducible repeat' (first | assumption | apply Hrd | apply shardOf_kept | apply probe_kept | dsimp only | refine kept_of_snd (by assumption) ?_ | refine kept_of_snd2 (by assumption) ?_ | refine kept_of_fst (by assumption) ?_ | (simp only [kept_mk_iff]; (first | apply keptIn_fold | apply keptIn_flags)) | split | intro _)

theorem rdCopy_kept {cs : Keep} (c : Nat) (t : Tdesc) (a0 : Bool) (a1 : Nat) (a2 : State) (Ha2 : Kept cs a2) : Kept cs (rdCopy c t a0 a1 a2).2 := by
  unfold rdCopy
  try dsimp only
  with_reducible repeat' (first | assumption | apply perf_kept | dsimp only | refine kept_of_snd (by assumption) ?_ | refine kept_of_snd2 (by assumption) ?_ | refine kept_of_fst (by assumption) ?_ | (simp only [kept_mk_iff]; (first | apply keptIn_fold | apply keptIn_flags)) | split | intro _)

theorem rdTable_kept {cs : Keep} (iss : Nat) (a : Access) (die : Nat) (t : Tdesc) (a0 : Bool) (a1 : Nat) (a2 : State) (Ha2 : Kept cs a2) : Kept cs (rdTable iss a die t a0 a1 a2).2 := by
  unfold rdTable
  try dsimp only
  with_reducible repeat' (first | assumption | apply engRead_kept | dsimp only | refine kept_of_snd (by assumption) ?_ | refine kept_of_snd2 (by assumption) ?_ | refine kept_of_fst (by assumption) ?_ | (simp only [kept_mk_iff]; (first | apply keptIn_fold | apply keptIn_flags)) | split | intro _)

theorem gthFault_kept {cs : Keep} (c : Nat) (code : Nat) (cause : Nat) (pos : Nat) (val : Nat) (log : Bool) (s : State) (Hs : Kept cs s) : Kept cs (gthFault c code cause pos val log s) := by
  unfold gthFault
  try dsimp only
  with_reducible repeat' (first | assumption | apply coreFaultAt_kept | apply gthFltSet_kept | apply logErr_kept | dsimp only | refine kept_of_snd (by assumption) ?_ | refine kept_of_snd2 (by assumption) ?_ | refine kept_of_fst (by assumption) ?_ | (simp only [kept_mk_iff]; (first | apply keptIn_fold | apply keptIn_flags)) | split | intro _)

theorem gthRdFault_kept {cs : Keep} (c : Nat) (pos : Nat) (e : Nat × Nat) (s : State) (Hs : Kept cs s) : Kept cs (gthRdFault c pos e s) := by
  unfold gthRdFault
  try dsimp only
  with_reducible repeat' (first | assumption | apply gthFault_kept | dsimp only | refine kept_of_snd (by assumption) ?_ | refine kept_of_snd2 (by assumption) ?_ | refine kept_of_fst (by assumption) ?_ | (simp only [kept_mk_iff]; (first | apply keptIn_fold | apply keptIn_flags)) | split | intro _)

theorem gthTimeout_kept {cs : Keep} (c : Nat) (pos : Nat) (hs : Hs) (tier : Nat) (addr : Nat) (s : State) (Hs : Kept cs s) : Kept cs (gthTimeout c pos hs tier addr s) := by
  unfold gthTimeout
  try dsimp only
  with_reducible repeat' (first | assumption | apply gthFault_kept | apply abandon_kept | dsimp only | refine kept_of_snd (by assumption) ?_ | refine kept_of_snd2 (by assumption) ?_ | refine kept_of_fst (by assumption) ?_ | (simp only [kept_mk_iff]; (first | apply keptIn_fold | apply keptIn_flags)) | split | intro _)

theorem metaAsk_kept {cs : Keep} (c : Nat) (tier : Nat) (addr : Nat) (len : Nat) (s : State) (Hs : Kept cs s) : Kept cs (metaAsk c tier addr len s) := by
  unfold metaAsk
  try dsimp only
  with_reducible repeat' (first | assumption | apply State.setCore_kept | dsimp only | refine kept_of_snd (by assumption) ?_ | refine kept_of_snd2 (by assumption) ?_ | refine kept_of_fst (by assumption) ?_ | (simp only [kept_mk_iff]; (first | apply keptIn_fold | apply keptIn_flags)) | split | intro _)

theorem metaArrive_kept {cs : Keep} (c : Nat) (s : State) (Hs : Kept cs s) : Kept cs (metaArrive c s) := by
  unfold metaArrive
  try dsimp only
  with_reducible repeat' (first | assumption | apply gthTimeout_kept | apply coreRead_kept | apply perf_kept | apply State.setCore_kept | dsimp only | refine kept_of_snd (by assumption) ?_ | refine kept_of_snd2 (by assumption) ?_ | refine kept_of_fst (by assumption) ?_ | (simp only [kept_mk_iff]; (first | apply keptIn_fold | apply keptIn_flags)) | split | intro _)

theorem gthRead_kept {cs : Keep} (c : Nat) (tier : Nat) (addr : Nat) (n : Nat) (ahead : Nat) (s : State) (Hs : Kept cs s) : Kept cs (gthRead c tier addr n ahead s).2 := by
  unfold gthRead
  try dsimp only
  with_reducible repeat' (first | assumption | apply metaAsk_kept | apply id_kept | dsimp only | refine kept_of_snd (by assumption) ?_ | refine kept_of_snd2 (by assumption) ?_ | refine kept_of_fst (by assumption) ?_ | (simp only [kept_mk_iff]; (first | apply keptIn_fold | apply keptIn_flags)) | split | intro _)

theorem setCmd_kept {cs : Keep} (c : Nat) (g : GthCmd) (s : State) (Hs : Kept cs s) : Kept cs (setCmd c g s) := by
  unfold setCmd
  try dsimp only
  with_reducible repeat' (first | assumption | apply State.setCore_kept | dsimp only | refine kept_of_snd (by assumption) ?_ | refine kept_of_snd2 (by assumption) ?_ | refine kept_of_fst (by assumption) ?_ | (simp only [kept_mk_iff]; (first | apply keptIn_fold | apply keptIn_flags)) | split | intro _)

theorem reserve_kept {cs : Keep} (c : Nat) (q : Nat) (n : Nat) (s : State) (Hs : Kept cs s) : Kept cs (reserve c q n s).2 := by
  unfold reserve
  try dsimp only
  with_reducible repeat' (first | assumption | apply State.setTq_kept | dsimp only | refine kept_of_snd (by assumption) ?_ | refine kept_of_snd2 (by assumption) ?_ | refine kept_of_fst (by assumption) ?_ | (simp only [kept_mk_iff]; (first | apply keptIn_fold | apply keptIn_flags)) | split | intro _)

theorem land_kept {cs : Keep} (c : Nat) (q : Nat) (dst : Nat) (d : Marked) (s : State) (Hs : Kept cs s) : Kept cs (land c q dst d s) := by
  unfold land
  try dsimp only
  with_reducible repeat' (first | assumption | apply State.setTq_kept | dsimp only | refine kept_of_snd (by assumption) ?_ | refine kept_of_snd2 (by assumption) ?_ | refine kept_of_fst (by assumption) ?_ | (simp only [kept_mk_iff]; (first | apply keptIn_fold | apply keptIn_flags)) | split | intro _)

theorem landZero_kept {cs : Keep} (c : Nat) (g : GthCmd) (dst : Nat) (s : State) (Hs : Kept cs s) : Kept cs (landZero c g dst s) := by
  unfold landZero
  try dsimp only
  with_reducible repeat' (first | assumption | apply land_kept | dsimp only | refine kept_of_snd (by assumption) ?_ | refine kept_of_snd2 (by assumption) ?_ | refine kept_of_fst (by assumption) ?_ | (simp only [kept_mk_iff]; (first | apply keptIn_fold | apply keptIn_flags)) | split | intro _)

theorem unstage_kept {cs : Keep} (c : Nat) (n : Nat) (s : State) (Hs : Kept cs s) : Kept cs (unstage c n s) := by
  unfold unstage
  try dsimp only
  with_reducible repeat' (first | assumption | apply poolGive_kept | apply State.setCore_kept | dsimp only | refine kept_of_snd (by assumption) ?_ | refine kept_of_snd2 (by assumption) ?_ | refine kept_of_fst (by assumption) ?_ | (simp only [kept_mk_iff]; (first | apply keptIn_fold | apply keptIn_flags)) | split | intro _)

theorem combLines_kept {cs : Keep} (c : Nat) (tier : Nat) (addr : Nat) (code : Nat) (esz : Nat) (vals : List Nat) (a0 : Nat) (a1 : Nat) (a2 : Nat × Nat × State) (Ha2 : Kept cs a2.2.2) : Kept cs (combLines c tier addr code esz vals a0 a1 a2).2.2 := by
  revert Ha2
  induction a0 generalizing a1 a2 with
  | zero => obtain ⟨a20, a21, a22⟩ := a2; intro Ha2; unfold combLines; (try dsimp only at *); (with_reducible repeat' (first | assumption | apply memAtomic_kept | apply ih | dsimp only | refine kept_of_snd (by assumption) ?_ | refine kept_of_snd2 (by assumption) ?_ | refine kept_of_fst (by assumption) ?_ | (simp only [kept_mk_iff]; (first | apply keptIn_fold | apply keptIn_flags)) | split | intro _))
  | succ n ih => obtain ⟨a20, a21, a22⟩ := a2; intro Ha2; unfold combLines; (try dsimp only at *); (with_reducible repeat' (first | assumption | apply memAtomic_kept | apply ih | dsimp only | refine kept_of_snd (by assumption) ?_ | refine kept_of_snd2 (by assumption) ?_ | refine kept_of_fst (by assumption) ?_ | (simp only [kept_mk_iff]; (first | apply keptIn_fold | apply keptIn_flags)) | split | intro _))

theorem combineRow_kept {cs : Keep} (c : Nat) (g : GthCmd) (row : GthRow) (vals : List Nat) (s : State) (Hs : Kept cs s) : Kept cs (combineRow c g row vals s) := by
  unfold combineRow
  try dsimp only
  with_reducible repeat' (first | assumption | apply combLines_kept | apply gthRdFault_kept | apply gthFault_kept | apply perf_kept | dsimp only | refine kept_of_snd (by assumption) ?_ | refine kept_of_snd2 (by assumption) ?_ | refine kept_of_fst (by assumption) ?_ | (simp only [kept_mk_iff]; (first | apply keptIn_fold | apply keptIn_flags)) | split | intro _)

theorem gthFinish_kept {cs : Keep} (c : Nat) (a0 : Nat) (a1 : State) (Ha1 : Kept cs a1) : Kept cs (gthFinish c a0 a1) := by
  revert Ha1
  induction a0 generalizing a1 with
  | zero => intro Ha1; unfold gthFinish; (try dsimp only at *); (with_reducible repeat' (first | assumption | apply unstage_kept | apply land_kept | apply leaveFetch_kept | apply State.setCore_kept | apply ih | dsimp only | refine kept_of_snd (by assumption) ?_ | refine kept_of_snd2 (by assumption) ?_ | refine kept_of_fst (by assumption) ?_ | (simp only [kept_mk_iff]; (first | apply keptIn_fold | apply keptIn_flags)) | split | intro _))
  | succ n ih => intro Ha1; unfold gthFinish; (try dsimp only at *); (with_reducible repeat' (first | assumption | apply unstage_kept | apply land_kept | apply leaveFetch_kept | apply State.setCore_kept | apply ih | dsimp only | refine kept_of_snd (by assumption) ?_ | refine kept_of_snd2 (by assumption) ?_ | refine kept_of_fst (by assumption) ?_ | (simp only [kept_mk_iff]; (first | apply keptIn_fold | apply keptIn_flags)) | split | intro _))

theorem gthStart_kept {cs : Keep} (c : Nat) (s : State) (Hs : Kept cs s) : Kept cs (gthStart c s) := by
  unfold gthStart
  try dsimp only
  with_reducible repeat' (first | assumption | apply gthRdFault_kept | apply gthFault_kept | apply engRead_kept | apply poisonFault_kept | apply seqFaultAt_kept | apply State.setCore_kept | dsimp only | refine kept_of_snd (by assumption) ?_ | refine kept_of_snd2 (by assumption) ?_ | refine kept_of_fst (by assumption) ?_ | (simp only [kept_mk_iff]; (first | apply keptIn_fold | apply keptIn_flags)) | split | intro _)

theorem issueBlock_kept {cs : Keep} (c : Nat) (g : GthCmd) (row : GthRow) (s : State) (Hs : Kept cs s) : Kept cs (issueBlock c g row s) := by
  unfold issueBlock
  try dsimp only
  with_reducible repeat' (first | assumption | apply setCmd_kept | apply gthFault_kept | apply State.setCore_kept | dsimp only | refine kept_of_snd (by assumption) ?_ | refine kept_of_snd2 (by assumption) ?_ | refine kept_of_fst (by assumption) ?_ | (simp only [kept_mk_iff]; (first | apply keptIn_fold | apply keptIn_flags)) | split | intro _)

theorem rowRoom_kept {cs : Keep} (c : Nat) (g : GthCmd) (s : State) (Hs : Kept cs s) : Kept cs (rowRoom c g s).2 := by
  unfold rowRoom
  try dsimp only
  with_reducible repeat' (first | assumption | apply reserve_kept | dsimp only | refine kept_of_snd (by assumption) ?_ | refine kept_of_snd2 (by assumption) ?_ | refine kept_of_fst (by assumption) ?_ | (simp only [kept_mk_iff]; (first | apply keptIn_fold | apply keptIn_flags)) | split | intro _)

theorem beginRow_kept {cs : Keep} (c : Nat) (g : GthCmd) (r : Nat) (dst : Nat) (s : State) (Hs : Kept cs s) : Kept cs (beginRow c g r dst s) := by
  unfold beginRow
  try dsimp only
  with_reducible repeat' (first | assumption | apply issueBlock_kept | apply setCmd_kept | apply gthRdFault_kept | apply gthFault_kept | apply rdCopy_kept | apply rowAddr_kept | apply State.add64_kept | dsimp only | refine kept_of_snd (by assumption) ?_ | refine kept_of_snd2 (by assumption) ?_ | refine kept_of_fst (by assumption) ?_ | (simp only [kept_mk_iff]; (first | apply keptIn_fold | apply keptIn_flags)) | split | intro _)

theorem nextEdge_kept {cs : Keep} (c : Nat) (g : GthCmd) (s : State) (Hs : Kept cs s) : Kept cs (nextEdge c g s) := by
  unfold nextEdge
  try dsimp only
  with_reducible repeat' (first | assumption | apply beginRow_kept | apply rowRoom_kept | apply gthRead_kept | apply gthRdFault_kept | apply gthFault_kept | apply seqFaultAt_kept | dsimp only | refine kept_of_snd (by assumption) ?_ | refine kept_of_snd2 (by assumption) ?_ | refine kept_of_fst (by assumption) ?_ | (simp only [kept_mk_iff]; (first | apply keptIn_fold | apply keptIn_flags)) | split | intro _)

theorem offsets_kept {cs : Keep} (c : Nat) (g : GthCmd) (v : Nat) (n : Nat) (s : State) (Hs : Kept cs s) : Kept cs (offsets c g v n s).2 := by
  unfold offsets
  try dsimp only
  with_reducible repeat' (first | assumption | apply gthRead_kept | dsimp only | refine kept_of_snd (by assumption) ?_ | refine kept_of_snd2 (by assumption) ?_ | refine kept_of_fst (by assumption) ?_ | (simp only [kept_mk_iff]; (first | apply keptIn_fold | apply keptIn_flags)) | split | intro _)

theorem beginVertex_kept {cs : Keep} (c : Nat) (g0 : GthCmd) (v : Nat) (s : State) (Hs : Kept cs s) : Kept cs (beginVertex c g0 v s).1 := by
  unfold beginVertex
  try dsimp only
  with_reducible repeat' (first | assumption | apply offsets_kept | apply landZero_kept | apply reserve_kept | apply setCmd_kept | apply gthRdFault_kept | apply gthFault_kept | apply State.addF_kept | dsimp only | refine kept_of_snd (by assumption) ?_ | refine kept_of_snd2 (by assumption) ?_ | refine kept_of_fst (by assumption) ?_ | (simp only [kept_mk_iff]; (first | apply keptIn_fold | apply keptIn_flags)) | split | intro _)

theorem beginSegment_kept {cs : Keep} (c : Nat) (g : GthCmd) (s : State) (Hs : Kept cs s) : Kept cs (beginSegment c g s).1 := by
  unfold beginSegment
  try dsimp only
  with_reducible repeat' (first | assumption | apply offsets_kept | apply setCmd_kept | apply gthRdFault_kept | apply gthFault_kept | dsimp only | refine kept_of_snd (by assumption) ?_ | refine kept_of_snd2 (by assumption) ?_ | refine kept_of_fst (by assumption) ?_ | (simp only [kept_mk_iff]; (first | apply keptIn_fold | apply keptIn_flags)) | split | intro _)

theorem beginItem_kept {cs : Keep} (c : Nat) (g : GthCmd) (s : State) (Hs : Kept cs s) : Kept cs (beginItem c g s).1 := by
  unfold beginItem
  try dsimp only
  with_reducible repeat' (first | assumption | apply beginSegment_kept | apply beginVertex_kept | apply reserve_kept | apply setCmd_kept | apply gthRead_kept | apply gthRdFault_kept | apply seqFaultAt_kept | dsimp only | refine kept_of_snd (by assumption) ?_ | refine kept_of_snd2 (by assumption) ?_ | refine kept_of_fst (by assumption) ?_ | (simp only [kept_mk_iff]; (first | apply keptIn_fold | apply keptIn_flags)) | split | intro _)

theorem addLoads_kept {cs : Keep} (c : Nat) (g : GthCmd) (a0 : Nat) (a1 : Nat) (a2 : Nat × Nat × State) (Ha2 : Kept cs a2.2.2) : Kept cs (addLoads c g a0 a1 a2).2.2 := by
  revert Ha2
  induction a0 generalizing a1 a2 with
  | zero => obtain ⟨a20, a21, a22⟩ := a2; intro Ha2; unfold addLoads; (try dsimp only at *); (with_reducible repeat' (first | assumption | apply memAtomic_kept | apply ih | dsimp only | refine kept_of_snd (by assumption) ?_ | refine kept_of_snd2 (by assumption) ?_ | refine kept_of_fst (by assumption) ?_ | (simp only [kept_mk_iff]; (first | apply keptIn_fold | apply keptIn_flags)) | split | intro _))
  | succ n ih => obtain ⟨a20, a21, a22⟩ := a2; intro Ha2; unfold addLoads; (try dsimp only at *); (with_reducible repeat' (first | assumption | apply memAtomic_kept | apply ih | dsimp only | refine kept_of_snd (by assumption) ?_ | refine kept_of_snd2 (by assumption) ?_ | refine kept_of_fst (by assumption) ?_ | (simp only [kept_mk_iff]; (first | apply keptIn_fold | apply keptIn_flags)) | split | intro _))

theorem endFetch_kept {cs : Keep} (c : Nat) (g : GthCmd) (s : State) (Hs : Kept cs s) : Kept cs (endFetch c g s) := by
  unfold endFetch
  try dsimp only
  with_reducible repeat' (first | assumption | apply addLoads_kept | apply gthFinish_kept | apply reserve_kept | apply setCmd_kept | apply gthRdFault_kept | apply seqFaultAt_kept | dsimp only | refine kept_of_snd (by assumption) ?_ | refine kept_of_snd2 (by assumption) ?_ | refine kept_of_fst (by assumption) ?_ | (simp only [kept_mk_iff]; (first | apply keptIn_fold | apply keptIn_flags)) | split | intro _)

theorem gthFetch_kept {cs : Keep} (c : Nat) (a0 : Nat) (a1 : State) (Ha1 : Kept cs a1) : Kept cs (gthFetch c a0 a1) := by
  revert Ha1
  induction a0 generalizing a1 with
  | zero => intro Ha1; unfold gthFetch; (try dsimp only at *); (with_reducible repeat' (first | assumption | apply endFetch_kept | apply beginItem_kept | apply nextEdge_kept | apply issueBlock_kept | apply ih | dsimp only | refine kept_of_snd (by assumption) ?_ | refine kept_of_snd2 (by assumption) ?_ | refine kept_of_fst (by assumption) ?_ | (simp only [kept_mk_iff]; (first | apply keptIn_fold | apply keptIn_flags)) | split | intro _))
  | succ n ih => intro Ha1; unfold gthFetch; (try dsimp only at *); (with_reducible repeat' (first | assumption | apply endFetch_kept | apply beginItem_kept | apply nextEdge_kept | apply issueBlock_kept | apply ih | dsimp only | refine kept_of_snd (by assumption) ?_ | refine kept_of_snd2 (by assumption) ?_ | refine kept_of_fst (by assumption) ?_ | (simp only [kept_mk_iff]; (first | apply keptIn_fold | apply keptIn_flags)) | split | intro _))

theorem gatherFetch_kept {cs : Keep} (c : Nat) (s : State) (Hs : Kept cs s) : Kept cs (gatherFetch c s) := by
  unfold gatherFetch
  try dsimp only
  with_reducible repeat' (first | assumption | apply gthFetch_kept | apply metaArrive_kept | dsimp only | refine kept_of_snd (by assumption) ?_ | refine kept_of_snd2 (by assumption) ?_ | refine kept_of_fst (by assumption) ?_ | (simp only [kept_mk_iff]; (first | apply keptIn_fold | apply keptIn_flags)) | split | intro _)

theorem reduceRows_kept {cs : Keep} (c : Nat) (no : Nat) (a0 : Nat) (a1 : State) (Ha1 : Kept cs a1) : Kept cs (reduceRows c no a0 a1) := by
  revert Ha1
  induction a0 generalizing a1 with
  | zero => intro Ha1; unfold reduceRows; (try dsimp only at *); (with_reducible repeat' (first | assumption | apply combineRow_kept | apply unstage_kept | apply land_kept | apply setCmd_kept | apply gthFault_kept | apply ih | dsimp only | refine kept_of_snd (by assumption) ?_ | refine kept_of_snd2 (by assumption) ?_ | refine kept_of_fst (by assumption) ?_ | (simp only [kept_mk_iff]; (first | apply keptIn_fold | apply keptIn_flags)) | split | intro _))
  | succ n ih => intro Ha1; unfold reduceRows; (try dsimp only at *); (with_reducible repeat' (first | assumption | apply combineRow_kept | apply unstage_kept | apply land_kept | apply setCmd_kept | apply gthFault_kept | apply ih | dsimp only | refine kept_of_snd (by assumption) ?_ | refine kept_of_snd2 (by assumption) ?_ | refine kept_of_fst (by assumption) ?_ | (simp only [kept_mk_iff]; (first | apply keptIn_fold | apply keptIn_flags)) | split | intro _))

theorem landRow_kept {cs : Keep} (c : Nat) (g : GthCmd) (row : GthRow) (s : State) (Hs : Kept cs s) : Kept cs (landRow c g row s) := by
  unfold landRow
  try dsimp only
  with_reducible repeat' (first | assumption | apply land_kept | apply setCmd_kept | dsimp only | refine kept_of_snd (by assumption) ?_ | refine kept_of_snd2 (by assumption) ?_ | refine kept_of_fst (by assumption) ?_ | (simp only [kept_mk_iff]; (first | apply keptIn_fold | apply keptIn_flags)) | split | intro _)

theorem gthArrive_kept {cs : Keep} (c : Nat) (id : Nat) (s : State) (Hs : Kept cs s) : Kept cs (gthArrive c id s) := by
  unfold gthArrive
  try dsimp only
  with_reducible repeat' (first | assumption | apply landRow_kept | apply reduceRows_kept | apply gthFinish_kept | apply setCmd_kept | apply gthTimeout_kept | apply gthRdFault_kept | apply memRead_kept | apply perf_kept | apply State.setCore_kept | dsimp only | refine kept_of_snd (by assumption) ?_ | refine kept_of_snd2 (by assumption) ?_ | refine kept_of_fst (by assumption) ?_ | (simp only [kept_mk_iff]; (first | apply keptIn_fold | apply keptIn_flags)) | split | intro _)

theorem execGatherCommandStart_kept {cs : Keep} (c : Nat) (errs : Errs) (s : State) (Hs : Kept cs s) : KeptOut cs (execGatherCommandStart c errs s) := by
  unfold execGatherCommandStart
  try dsimp only
  with_reducible repeat' (first | assumption | apply keptOut_next | apply gthStart_kept | apply runErr_kept | apply whenOk_kept | dsimp only | refine kept_of_snd (by assumption) ?_ | refine kept_of_snd2 (by assumption) ?_ | refine kept_of_fst (by assumption) ?_ | (simp only [kept_mk_iff]; (first | apply keptIn_fold | apply keptIn_flags)) | split | intro _)

theorem execGatherRowFetch_kept {cs : Keep} (c : Nat) (errs : Errs) (s : State) (Hs : Kept cs s) : KeptOut cs (execGatherRowFetch c errs s) := by
  unfold execGatherRowFetch
  try dsimp only
  with_reducible repeat' (first | assumption | apply keptOut_next | apply gatherFetch_kept | apply runErr_kept | apply whenOk_kept | dsimp only | refine kept_of_snd (by assumption) ?_ | refine kept_of_snd2 (by assumption) ?_ | refine kept_of_fst (by assumption) ?_ | (simp only [kept_mk_iff]; (first | apply keptIn_fold | apply keptIn_flags)) | split | intro _)

theorem execGatherRowArrive_kept {cs : Keep} (c : Nat) (id : Nat) (errs : Errs) (s : State) (Hs : Kept cs s) : KeptOut cs (execGatherRowArrive c id errs s) := by
  unfold execGatherRowArrive
  try dsimp only
  with_reducible repeat' (first | assumption | apply keptOut_next | apply gthArrive_kept | apply runErr_kept | apply whenOk_kept | dsimp only | refine kept_of_snd (by assumption) ?_ | refine kept_of_snd2 (by assumption) ?_ | refine kept_of_fst (by assumption) ?_ | (simp only [kept_mk_iff]; (first | apply keptIn_fold | apply keptIn_flags)) | split | intro _)

theorem migFault_kept {cs : Keep} (d : Nat) (p : Nat) (n : Nat) (code : Nat) (addr : Nat) (log : Bool) (s : State) (Hs : Kept cs s) : Kept cs (migFault d p n code addr log s) := by
  unfold migFault
  try dsimp only
  with_reducible repeat' (first | assumption | apply migFltEnd_kept | apply logErr_kept | dsimp only | refine kept_of_snd (by assumption) ?_ | refine kept_of_snd2 (by assumption) ?_ | refine kept_of_fst (by assumption) ?_ | (simp only [kept_mk_iff]; (first | apply keptIn_fold | apply keptIn_flags)) | split | intro _)

theorem migStop_kept {cs : Keep} (d : Nat) (p : Nat) (n : Nat) (drop : Option Nat) (code : Nat) (addr : Nat) (log : Bool) (s : State) (Hs : Kept cs s) : Kept cs (migStop d p n drop code addr log s) := by
  unfold migStop
  try dsimp only
  with_reducible repeat' (first | assumption | apply migFltEnd_kept | apply State.setMop_kept | apply logErr_kept | dsimp only | refine kept_of_snd (by assumption) ?_ | refine kept_of_snd2 (by assumption) ?_ | refine kept_of_fst (by assumption) ?_ | (simp only [kept_mk_iff]; (first | apply keptIn_fold | apply keptIn_flags)) | split | intro _)

theorem migRdFault_kept {cs : Keep} (d : Nat) (p : Nat) (n : Nat) (e : Nat × Nat) (s0 : State) (s : State) (Hs0 : Kept cs s0) (Hs : Kept cs s) : Kept cs (migRdFault d p n e s0 s) := by
  unfold migRdFault
  try dsimp only
  with_reducible repeat' (first | assumption | apply migStop_kept | apply awaitIf_kept | dsimp only | refine kept_of_snd (by assumption) ?_ | refine kept_of_snd2 (by assumption) ?_ | refine kept_of_fst (by assumption) ?_ | (simp only [kept_mk_iff]; (first | apply keptIn_fold | apply keptIn_flags)) | split | intro _)

theorem migRead_kept {cs : Keep} (d : Nat) (p : Nat) (tier : Nat) (addr : Nat) (n : Nat) (s : State) (Hs : Kept cs s) : Kept cs (migRead d p tier addr n s).2 := by
  unfold migRead
  try dsimp only
  with_reducible repeat' (first | assumption | apply engRead_kept | dsimp only | refine kept_of_snd (by assumption) ?_ | refine kept_of_snd2 (by assumption) ?_ | refine kept_of_fst (by assumption) ?_ | (simp only [kept_mk_iff]; (first | apply keptIn_fold | apply keptIn_flags)) | split | intro _)

theorem migWrite_kept {cs : Keep} (d : Nat) (p : Nat) (tier : Nat) (addr : Nat) (bs : List Byte) (s : State) (Hs : Kept cs s) : Kept cs (migWrite d p tier addr bs s).2 := by
  unfold migWrite
  try dsimp only
  with_reducible repeat' (first | assumption | apply memWrite_kept | dsimp only | refine kept_of_snd (by assumption) ?_ | refine kept_of_snd2 (by assumption) ?_ | refine kept_of_fst (by assumption) ?_ | (simp only [kept_mk_iff]; (first | apply keptIn_fold | apply keptIn_flags)) | split | intro _)

theorem migEnd_kept {cs : Keep} (d : Nat) (p : Nat) (n : Nat) (s : State) (Hs : Kept cs s) : Kept cs (migEnd d p n s) := by
  unfold migEnd
  try dsimp only
  with_reducible repeat' (first | assumption | apply migWrite_kept | apply migRdFault_kept | apply State.setMop_kept | apply State.setSlot_kept | apply perfOwn_kept | dsimp only | refine kept_of_snd (by assumption) ?_ | refine kept_of_snd2 (by assumption) ?_ | refine kept_of_fst (by assumption) ?_ | (simp only [kept_mk_iff]; (first | apply keptIn_fold | apply keptIn_flags)) | split | intro _)

theorem migRow_kept {cs : Keep} (d : Nat) (p : Nat) (n : Nat) (t : Tdesc) (r : Nat) (s0 : State) (s : State) (k : RowAt → State → State) (Hs0 : Kept cs s0) (Hs : Kept cs s) (Hk : ∀ x0 s, Kept cs s → Kept cs (k x0 s)) : Kept cs (migRow d p n t r s0 s k) := by
  unfold migRow
  try dsimp only
  with_reducible repeat' (first | assumption | apply Hk | apply migRdFault_kept | apply migStop_kept | apply rdTable_kept | apply rowAddr_kept | dsimp only | refine kept_of_snd (by assumption) ?_ | refine kept_of_snd2 (by assumption) ?_ | refine kept_of_fst (by assumption) ?_ | (simp only [kept_mk_iff]; (first | apply keptIn_fold | apply keptIn_flags)) | split | intro _)

theorem updLines_kept {cs : Keep} (d : Nat) (p : Nat) (tier : Nat) (addr : Nat) (code : Nat) (lanes : Nat → List (Nat × Nat)) (a0 : Nat) (a1 : Nat) (a2 : State) (Ha2 : Kept cs a2) : Kept cs (updLines d p tier addr code lanes a0 a1 a2).2.2 := by
  revert Ha2
  induction a0 generalizing a1 a2 with
  | zero => intro Ha2; unfold updLines; (try dsimp only at *); (with_reducible repeat' (first | assumption | apply memAtomic_kept | apply State.add64_kept | apply ih | dsimp only | refine kept_of_snd (by assumption) ?_ | refine kept_of_snd2 (by assumption) ?_ | refine kept_of_fst (by assumption) ?_ | (simp only [kept_mk_iff]; (first | apply keptIn_fold | apply keptIn_flags)) | split | intro _))
  | succ n ih => intro Ha2; unfold updLines; (try dsimp only at *); (with_reducible repeat' (first | assumption | apply memAtomic_kept | apply State.add64_kept | apply ih | dsimp only | refine kept_of_snd (by assumption) ?_ | refine kept_of_snd2 (by assumption) ?_ | refine kept_of_fst (by assumption) ?_ | (simp only [kept_mk_iff]; (first | apply keptIn_fold | apply keptIn_flags)) | split | intro _))

theorem updEntry_kept {cs : Keep} (d : Nat) (p : Nat) (n : Nat) (s : State) (Hs : Kept cs s) : Kept cs (updEntry d p n s) := by
  unfold updEntry
  try dsimp only
  with_reducible repeat' (first | assumption | apply updLines_kept | apply migRow_kept | apply migRead_kept | apply migRdFault_kept | apply State.setMop_kept | apply awaitIf_kept | apply perfOwn_kept | dsimp only | refine kept_of_snd (by assumption) ?_ | refine kept_of_snd2 (by assumption) ?_ | refine kept_of_fst (by assumption) ?_ | (simp only [kept_mk_iff]; (first | apply keptIn_fold | apply keptIn_flags)) | split | intro _)

theorem embedUpdate_kept {cs : Keep} (p : Nat) (n : Nat) (s : State) (Hs : Kept cs s) : Kept cs (embedUpdate p n s) := by
  unfold embedUpdate
  try dsimp only
  with_reducible repeat' (first | assumption | apply updEntry_kept | apply migEnd_kept | apply migFault_kept | dsimp only | refine kept_of_snd (by assumption) ?_ | refine kept_of_snd2 (by assumption) ?_ | refine kept_of_fst (by assumption) ?_ | (simp only [kept_mk_iff]; (first | apply keptIn_fold | apply keptIn_flags)) | split | intro _)

theorem requantOne_kept {cs : Keep} (d : Nat) (p : Nat) (n : Nat) (s : State) (Hs : Kept cs s) : Kept cs (requantOne d p n s) := by
  unfold requantOne
  try dsimp only
  with_reducible repeat' (first | assumption | apply migRow_kept | apply migWrite_kept | apply migRead_kept | apply migRdFault_kept | apply State.setMop_kept | apply perfOwn_kept | apply State.add64_kept | dsimp only | refine kept_of_snd (by assumption) ?_ | refine kept_of_snd2 (by assumption) ?_ | refine kept_of_fst (by assumption) ?_ | (simp only [kept_mk_iff]; (first | apply keptIn_fold | apply keptIn_flags)) | split | intro _)

theorem requant_kept {cs : Keep} (p : Nat) (n : Nat) (s : State) (Hs : Kept cs s) : Kept cs (requant p n s) := by
  unfold requant
  try dsimp only
  with_reducible repeat' (first | assumption | apply requantOne_kept | apply migEnd_kept | apply migRead_kept | apply migRdFault_kept | apply migFault_kept | apply State.setMop_kept | dsimp only | refine kept_of_snd (by assumption) ?_ | refine kept_of_snd2 (by assumption) ?_ | refine kept_of_fst (by assumption) ?_ | (simp only [kept_mk_iff]; (first | apply keptIn_fold | apply keptIn_flags)) | split | intro _)

theorem listOk_kept {cs : Keep} (d : Nat) (p : Nat) (tier : Nat) (addr : Nat) (a0 : Nat) (a1 : Nat) (a2 : State) (Ha2 : Kept cs a2) : Kept cs (listOk d p tier addr a0 a1 a2).2 := by
  revert Ha2
  induction a0 generalizing a1 a2 with
  | zero => intro Ha2; unfold listOk; (try dsimp only at *); (with_reducible repeat' (first | assumption | apply migRead_kept | apply ih | dsimp only | refine kept_of_snd (by assumption) ?_ | refine kept_of_snd2 (by assumption) ?_ | refine kept_of_fst (by assumption) ?_ | (simp only [kept_mk_iff]; (first | apply keptIn_fold | apply keptIn_flags)) | split | intro _))
  | succ n ih => intro Ha2; unfold listOk; (try dsimp only at *); (with_reducible repeat' (first | assumption | apply migRead_kept | apply ih | dsimp only | refine kept_of_snd (by assumption) ?_ | refine kept_of_snd2 (by assumption) ?_ | refine kept_of_fst (by assumption) ?_ | (simp only [kept_mk_iff]; (first | apply keptIn_fold | apply keptIn_flags)) | split | intro _))

theorem findBucket_kept {cs : Keep} (t : Tdesc) (rd : BucketRd) (r : Nat) (taken : List Nat) (a0 : Nat) (a1 : Nat) (a2 : Option Nat) (a3 : State) (Hrd : ∀ b x s, Kept cs s → Kept cs (rd b x s).2) (Ha3 : Kept cs a3) : Kept cs (findBucket t rd r taken a0 a1 a2 a3).2 := by
  revert Ha3
  induction a0 generalizing a1 a2 a3 with
  | zero => intro Ha3; unfold findBucket; (try dsimp only at *); (with_reducible repeat' (first | assumption | apply Hrd | apply ih | dsimp only | refine kept_of_snd (by assumption) ?_ | refine kept_of_snd2 (by assumption) ?_ | refine kept_of_fst (by assumption) ?_ | (simp only [kept_mk_iff]; (first | apply keptIn_fold | apply keptIn_flags)) | split | intro _))
  | succ n ih => intro Ha3; unfold findBucket; (try dsimp only at *); (with_reducible repeat' (first | assumption | apply Hrd | apply ih | dsimp only | refine kept_of_snd (by assumption) ?_ | refine kept_of_snd2 (by assumption) ?_ | refine kept_of_fst (by assumption) ?_ | (simp only [kept_mk_iff]; (first | apply keptIn_fold | apply keptIn_flags)) | split | intro _))

theorem findSpare_kept {cs : Keep} (d : Nat) (p : Nat) (tier : Nat) (addr : Nat) (n : Nat) (a0 : Nat) (a1 : Nat) (a2 : State) (Ha2 : Kept cs a2) : Kept cs (findSpare d p tier addr n a0 a1 a2).2 := by
  revert Ha2
  induction a0 generalizing a1 a2 with
  | zero => intro Ha2; unfold findSpare; (try dsimp only at *); (with_reducible repeat' (first | assumption | apply migRead_kept | apply ih | dsimp only | refine kept_of_snd (by assumption) ?_ | refine kept_of_snd2 (by assumption) ?_ | refine kept_of_fst (by assumption) ?_ | (simp only [kept_mk_iff]; (first | apply keptIn_fold | apply keptIn_flags)) | split | intro _))
  | succ n ih => intro Ha2; unfold findSpare; (try dsimp only at *); (with_reducible repeat' (first | assumption | apply migRead_kept | apply ih | dsimp only | refine kept_of_snd (by assumption) ?_ | refine kept_of_snd2 (by assumption) ?_ | refine kept_of_fst (by assumption) ?_ | (simp only [kept_mk_iff]; (first | apply keptIn_fold | apply keptIn_flags)) | split | intro _))

theorem setSpare_kept {cs : Keep} (d : Nat) (p : Nat) (m : Shard) (j : Nat) (v : Bool) (s : State) (Hs : Kept cs s) : Kept cs (setSpare d p m j v s).2.2 := by
  unfold setSpare
  try dsimp only
  with_reducible repeat' (first | assumption | apply migWrite_kept | apply migRead_kept | dsimp only | refine kept_of_snd (by assumption) ?_ | refine kept_of_snd2 (by assumption) ?_ | refine kept_of_fst (by assumption) ?_ | (simp only [kept_mk_iff]; (first | apply keptIn_fold | apply keptIn_flags)) | split | intro _)

theorem moveCopy_kept {cs : Keep} (d : Nat) (p : Nat) (n : Nat) (t : Tdesc) (a : RowAt) (ntier : Nat) (naddr : Nat) (mv : RowMove) (s0 : State) (s : State) (Hs0 : Kept cs s0) (Hs : Kept cs s) : Kept cs (moveCopy d p n t a ntier naddr mv s0 s) := by
  unfold moveCopy
  try dsimp only
  with_reducible repeat' (first | assumption | apply migWrite_kept | apply migRead_kept | apply migRdFault_kept | apply State.setMop_kept | apply perfOwn_kept | dsimp only | refine kept_of_snd (by assumption) ?_ | refine kept_of_snd2 (by assumption) ?_ | refine kept_of_fst (by assumption) ?_ | (simp only [kept_mk_iff]; (first | apply keptIn_fold | apply keptIn_flags)) | split | intro _)

theorem moveNone_kept {cs : Keep} (p : Nat) (n : Nat) (full : Bool) (s : State) (Hs : Kept cs s) : Kept cs (moveNone p n full s) := by
  unfold moveNone
  try dsimp only
  with_reducible repeat' (first | assumption | apply State.setMop_kept | dsimp only | refine kept_of_snd (by assumption) ?_ | refine kept_of_snd2 (by assumption) ?_ | refine kept_of_fst (by assumption) ?_ | (simp only [kept_mk_iff]; (first | apply keptIn_fold | apply keptIn_flags)) | split | intro _)

theorem moveSpare_kept {cs : Keep} (d : Nat) (p : Nat) (n : Nat) (t : Tdesc) (a : RowAt) (r : Nat) (target : Nat) (bucket : Nat) (s0 : State) (s : State) (Hs0 : Kept cs s0) (Hs : Kept cs s) : Kept cs (moveSpare d p n t a r target bucket s0 s) := by
  unfold moveSpare
  try dsimp only
  with_reducible repeat' (first | assumption | apply moveNone_kept | apply moveCopy_kept | apply setSpare_kept | apply findSpare_kept | apply migRdFault_kept | apply shardOf_kept | dsimp only | refine kept_of_snd (by assumption) ?_ | refine kept_of_snd2 (by assumption) ?_ | refine kept_of_fst (by assumption) ?_ | (simp only [kept_mk_iff]; (first | apply keptIn_fold | apply keptIn_flags)) | split | intro _)

theorem moveStart_kept {cs : Keep} (d : Nat) (p : Nat) (n : Nat) (s : State) (Hs : Kept cs s) : Kept cs (moveStart d p n s) := by
  unfold moveStart
  try dsimp only
  with_reducible repeat' (first | assumption | apply moveSpare_kept | apply moveNone_kept | apply moveCopy_kept | apply findBucket_kept | apply migRow_kept | apply migRead_kept | apply migRdFault_kept | apply migStop_kept | apply rdTable_kept | apply shardOf_kept | dsimp only | refine kept_of_snd (by assumption) ?_ | refine kept_of_snd2 (by assumption) ?_ | refine kept_of_fst (by assumption) ?_ | (simp only [kept_mk_iff]; (first | apply keptIn_fold | apply keptIn_flags)) | split | intro _)

theorem migrateRows_kept {cs : Keep} (p : Nat) (n : Nat) (s : State) (Hs : Kept cs s) : Kept cs (migrateRows p n s) := by
  unfold migrateRows
  try dsimp only
  with_reducible repeat' (first | assumption | apply moveStart_kept | apply listOk_kept | apply migEnd_kept | apply migRdFault_kept | apply migFault_kept | apply State.setMop_kept | dsimp only | refine kept_of_snd (by assumption) ?_ | refine kept_of_snd2 (by assumption) ?_ | refine kept_of_fst (by assumption) ?_ | (simp only [kept_mk_iff]; (first | apply keptIn_fold | apply keptIn_flags)) | split | intro _)

theorem moveRedirect_kept {cs : Keep} (p : Nat) (n : Nat) (r : Nat) (s : State) (Hs : Kept cs s) : Kept cs (moveRedirect p n r s) := by
  unfold moveRedirect
  try dsimp only
  with_reducible repeat' (first | assumption | apply migWrite_kept | apply migStop_kept | apply cluWrite_kept | apply State.setMop_kept | apply awaitIf_kept | apply forEach_kept | dsimp only | refine kept_of_snd (by assumption) ?_ | refine kept_of_snd2 (by assumption) ?_ | refine kept_of_fst (by assumption) ?_ | (simp only [kept_mk_iff]; (first | apply keptIn_fold | apply keptIn_flags)) | split | intro _)

theorem moveDone_kept {cs : Keep} (d : Nat) (p : Nat) (n : Nat) (r : Nat) (s : State) (Hs : Kept cs s) : Kept cs (moveDone d p n r s) := by
  unfold moveDone
  try dsimp only
  with_reducible repeat' (first | assumption | apply migStop_kept | apply State.setMop_kept | apply State.add64_kept | dsimp only | refine kept_of_snd (by assumption) ?_ | refine kept_of_snd2 (by assumption) ?_ | refine kept_of_fst (by assumption) ?_ | (simp only [kept_mk_iff]; (first | apply keptIn_fold | apply keptIn_flags)) | split | intro _)

theorem moveFinish_kept {cs : Keep} (p : Nat) (n : Nat) (r : Nat) (s : State) (Hs : Kept cs s) : Kept cs (moveFinish p n r s) := by
  unfold moveFinish
  try dsimp only
  with_reducible repeat' (first | assumption | apply moveDone_kept | apply setSpare_kept | apply migStop_kept | apply shardOf_kept | apply awaitIf_kept | dsimp only | refine kept_of_snd (by assumption) ?_ | refine kept_of_snd2 (by assumption) ?_ | refine kept_of_fst (by assumption) ?_ | (simp only [kept_mk_iff]; (first | apply keptIn_fold | apply keptIn_flags)) | split | intro _)

theorem execEmbedUpdate_kept {cs : Keep} (p : Nat) (slot : Nat) (errs : Errs) (s : State) (Hs : Kept cs s) : KeptOut cs (execEmbedUpdate p slot errs s) := by
  unfold execEmbedUpdate
  try dsimp only
  with_reducible repeat' (first | assumption | apply keptOut_next | apply embedUpdate_kept | apply stamp_kept | apply runErr_kept | apply whenOk_kept | dsimp only | refine kept_of_snd (by assumption) ?_ | refine kept_of_snd2 (by assumption) ?_ | refine kept_of_fst (by assumption) ?_ | (simp only [kept_mk_iff]; (first | apply keptIn_fold | apply keptIn_flags)) | split | intro _)

theorem execRequant_kept {cs : Keep} (p : Nat) (slot : Nat) (errs : Errs) (s : State) (Hs : Kept cs s) : KeptOut cs (execRequant p slot errs s) := by
  unfold execRequant
  try dsimp only
  with_reducible repeat' (first | assumption | apply keptOut_next | apply requant_kept | apply stamp_kept | apply runErr_kept | apply whenOk_kept | dsimp only | refine kept_of_snd (by assumption) ?_ | refine kept_of_snd2 (by assumption) ?_ | refine kept_of_fst (by assumption) ?_ | (simp only [kept_mk_iff]; (first | apply keptIn_fold | apply keptIn_flags)) | split | intro _)

theorem execMigrateRows_kept {cs : Keep} (p : Nat) (slot : Nat) (errs : Errs) (s : State) (Hs : Kept cs s) : KeptOut cs (execMigrateRows p slot errs s) := by
  unfold execMigrateRows
  try dsimp only
  with_reducible repeat' (first | assumption | apply keptOut_next | apply migrateRows_kept | apply stamp_kept | apply runErr_kept | apply whenOk_kept | dsimp only | refine kept_of_snd (by assumption) ?_ | refine kept_of_snd2 (by assumption) ?_ | refine kept_of_fst (by assumption) ?_ | (simp only [kept_mk_iff]; (first | apply keptIn_fold | apply keptIn_flags)) | split | intro _)

theorem execRowMoveRedirect_kept {cs : Keep} (p : Nat) (slot : Nat) (row : Nat) (errs : Errs) (s : State) (Hs : Kept cs s) : KeptOut cs (execRowMoveRedirect p slot row errs s) := by
  unfold execRowMoveRedirect
  try dsimp only
  with_reducible repeat' (first | assumption | apply keptOut_next | apply moveRedirect_kept | apply stamp_kept | apply runErr_kept | apply whenOk_kept | dsimp only | refine kept_of_snd (by assumption) ?_ | refine kept_of_snd2 (by assumption) ?_ | refine kept_of_fst (by assumption) ?_ | (simp only [kept_mk_iff]; (first | apply keptIn_fold | apply keptIn_flags)) | split | intro _)

theorem execRowMoveFinish_kept {cs : Keep} (p : Nat) (slot : Nat) (row : Nat) (errs : Errs) (s : State) (Hs : Kept cs s) : KeptOut cs (execRowMoveFinish p slot row errs s) := by
  unfold execRowMoveFinish
  try dsimp only
  with_reducible repeat' (first | assumption | apply keptOut_next | apply moveFinish_kept | apply stamp_kept | apply runErr_kept | apply whenOk_kept | dsimp only | refine kept_of_snd (by assumption) ?_ | refine kept_of_snd2 (by assumption) ?_ | refine kept_of_fst (by assumption) ?_ | (simp only [kept_mk_iff]; (first | apply keptIn_fold | apply keptIn_flags)) | split | intro _)

theorem State.setEng_kept {cs : Keep} (s : State) (e : Nat) (v : TokEng) (Hs : Kept cs s) : Kept cs (State.setEng s e v) := by
  unfold State.setEng
  try dsimp only
  with_reducible repeat' (first | assumption | dsimp only | refine kept_of_snd (by assumption) ?_ | refine kept_of_snd2 (by assumption) ?_ | refine kept_of_fst (by assumption) ?_ | (simp only [kept_mk_iff]; (first | apply keptIn_fold | apply keptIn_flags)) | split | intro _)

theorem State.setVslot_kept {cs : Keep} (s : State) (e : Nat) (n : Nat) (v : VSlot) (Hs : Kept cs s) : Kept cs (State.setVslot s e n v) := by
  unfold State.setVslot
  try dsimp only
  with_reducible repeat' (first | assumption | apply State.setEng_kept | dsimp only | refine kept_of_snd (by assumption) ?_ | refine kept_of_snd2 (by assumption) ?_ | refine kept_of_fst (by assumption) ?_ | (simp only [kept_mk_iff]; (first | apply keptIn_fold | apply keptIn_flags)) | split | intro _)

theorem State.setStrm_kept {cs : Keep} (s : State) (e : Nat) (n : Nat) (v : Stream) (Hs : Kept cs s) : Kept cs (State.setStrm s e n v) := by
  unfold State.setStrm
  try dsimp only
  with_reducible repeat' (first | assumption | apply State.setEng_kept | dsimp only | refine kept_of_snd (by assumption) ?_ | refine kept_of_snd2 (by assumption) ?_ | refine kept_of_fst (by assumption) ?_ | (simp only [kept_mk_iff]; (first | apply keptIn_fold | apply keptIn_flags)) | split | intro _)

theorem State.setStopBlk_kept {cs : Keep} (s : State) (e : Nat) (n : Nat) (v : StopBlk) (Hs : Kept cs s) : Kept cs (State.setStopBlk s e n v) := by
  unfold State.setStopBlk
  try dsimp only
  with_reducible repeat' (first | assumption | apply State.setEng_kept | dsimp only | refine kept_of_snd (by assumption) ?_ | refine kept_of_snd2 (by assumption) ?_ | refine kept_of_fst (by assumption) ?_ | (simp only [kept_mk_iff]; (first | apply keptIn_fold | apply keptIn_flags)) | split | intro _)

theorem tokRead_kept {cs : Keep} (e : Nat) (p : Nat) (tier : Nat) (addr : Nat) (n : Nat) (s : State) (Hs : Kept cs s) : Kept cs (tokRead e p tier addr n s).2 := by
  unfold tokRead
  try dsimp only
  with_reducible repeat' (first | assumption | apply engRead_kept | dsimp only | refine kept_of_snd (by assumption) ?_ | refine kept_of_snd2 (by assumption) ?_ | refine kept_of_fst (by assumption) ?_ | (simp only [kept_mk_iff]; (first | apply keptIn_fold | apply keptIn_flags)) | split | intro _)

theorem tokErr_kept {cs : Keep} (e : Nat) (p : Nat) (n : Nat) (x : Nat × Nat) (s0 : State) (s : State) (Hs0 : Kept cs s0) (Hs : Kept cs s) : Kept cs (tokErr e p n x s0 s) := by
  unfold tokErr
  try dsimp only
  with_reducible repeat' (first | assumption | apply tokFault_kept | dsimp only | refine kept_of_snd (by assumption) ?_ | refine kept_of_snd2 (by assumption) ?_ | refine kept_of_fst (by assumption) ?_ | (simp only [kept_mk_iff]; (first | apply keptIn_fold | apply keptIn_flags)) | split | intro _)

theorem freeBytes_kept {cs : Keep} (n : Nat) (s : State) (Hs : Kept cs s) : Kept cs (freeBytes n s).2 := by
  unfold freeBytes
  try dsimp only
  with_reducible repeat' (first | assumption | dsimp only | refine kept_of_snd (by assumption) ?_ | refine kept_of_snd2 (by assumption) ?_ | refine kept_of_fst (by assumption) ?_ | (simp only [kept_mk_iff]; (first | apply keptIn_fold | apply keptIn_flags)) | split | intro _)

theorem tokWrite_kept {cs : Keep} (e : Nat) (p : Nat) (n : Nat) (bs : List Byte) (s : State) (Hs : Kept cs s) : Kept cs (tokWrite e p n bs s).2 := by
  unfold tokWrite
  try dsimp only
  with_reducible repeat' (first | assumption | apply memWrite_kept | dsimp only | refine kept_of_snd (by assumption) ?_ | refine kept_of_snd2 (by assumption) ?_ | refine kept_of_fst (by assumption) ?_ | (simp only [kept_mk_iff]; (first | apply keptIn_fold | apply keptIn_flags)) | split | intro _)

theorem tokDone_kept {cs : Keep} (e : Nat) (p : Nat) (n : Nat) (st : Stream) (info : Option (Nat × Nat × Nat)) (s : State) (Hs : Kept cs s) : Kept cs (tokDone e p n st info s) := by
  unfold tokDone
  try dsimp only
  with_reducible repeat' (first | assumption | apply State.setEng_kept | apply State.setSlot_kept | dsimp only | refine kept_of_snd (by assumption) ?_ | refine kept_of_snd2 (by assumption) ?_ | refine kept_of_fst (by assumption) ?_ | (simp only [kept_mk_iff]; (first | apply keptIn_fold | apply keptIn_flags)) | split | intro _)

theorem capFault_kept {cs : Keep} (e : Nat) (p : Nat) (n : Nat) (need : Nat) (hdr : List Byte) (s : State) (Hs : Kept cs s) : Kept cs (capFault e p n need hdr s) := by
  unfold capFault
  try dsimp only
  with_reducible repeat' (first | assumption | apply tokWrite_kept | apply freeBytes_kept | apply tokFault_kept | dsimp only | refine kept_of_snd (by assumption) ?_ | refine kept_of_snd2 (by assumption) ?_ | refine kept_of_fst (by assumption) ?_ | (simp only [kept_mk_iff]; (first | apply keptIn_fold | apply keptIn_flags)) | split | intro _)

theorem trieNode_kept {cs : Keep} (e : Nat) (p : Nat) (v : VSlot) (ofs : Nat) (s : State) (Hs : Kept cs s) : Kept cs (trieNode e p v ofs s).2 := by
  unfold trieNode
  try dsimp only
  with_reducible repeat' (first | assumption | apply tokRead_kept | dsimp only | refine kept_of_snd (by assumption) ?_ | refine kept_of_snd2 (by assumption) ?_ | refine kept_of_fst (by assumption) ?_ | (simp only [kept_mk_iff]; (first | apply keptIn_fold | apply keptIn_flags)) | split | intro _)

theorem trieMatch_kept {cs : Keep} (e : Nat) (p : Nat) (v : VSlot) (a0 : Nat) (a1 : Nat) (a2 : List Byte) (a3 : Nat × Nat) (a4 : Nat) (a5 : State) (Ha5 : Kept cs a5) : Kept cs (trieMatch e p v a0 a1 a2 a3 a4 a5).2 := by
  revert Ha5
  induction a0 generalizing a1 a2 a3 a4 a5 with
  | zero => intro Ha5; unfold trieMatch; (try dsimp only at *); (with_reducible repeat' (first | assumption | apply trieNode_kept | apply ih | dsimp only | refine kept_of_snd (by assumption) ?_ | refine kept_of_snd2 (by assumption) ?_ | refine kept_of_fst (by assumption) ?_ | (simp only [kept_mk_iff]; (first | apply keptIn_fold | apply keptIn_flags)) | split | intro _))
  | succ n ih => intro Ha5; unfold trieMatch; (try dsimp only at *); (with_reducible repeat' (first | assumption | apply trieNode_kept | apply ih | dsimp only | refine kept_of_snd (by assumption) ?_ | refine kept_of_snd2 (by assumption) ?_ | refine kept_of_fst (by assumption) ?_ | (simp only [kept_mk_iff]; (first | apply keptIn_fold | apply keptIn_flags)) | split | intro _))

theorem triePiece_kept {cs : Keep} (e : Nat) (p : Nat) (v : VSlot) (a0 : Nat) (a1 : List Byte) (a2 : State) (Ha2 : Kept cs a2) : Kept cs (triePiece e p v a0 a1 a2).2 := by
  revert Ha2
  induction a0 generalizing a1 a2 with
  | zero => intro Ha2; unfold triePiece; (try dsimp only at *); (with_reducible repeat' (first | assumption | apply trieMatch_kept | apply ih | dsimp only | refine kept_of_snd (by assumption) ?_ | refine kept_of_snd2 (by assumption) ?_ | refine kept_of_fst (by assumption) ?_ | (simp only [kept_mk_iff]; (first | apply keptIn_fold | apply keptIn_flags)) | split | intro _))
  | succ n ih => intro Ha2; unfold triePiece; (try dsimp only at *); (with_reducible repeat' (first | assumption | apply trieMatch_kept | apply ih | dsimp only | refine kept_of_snd (by assumption) ?_ | refine kept_of_snd2 (by assumption) ?_ | refine kept_of_fst (by assumption) ?_ | (simp only [kept_mk_iff]; (first | apply keptIn_fold | apply keptIn_flags)) | split | intro _))

theorem piece_kept {cs : Keep} (e : Nat) (p : Nat) (v : VSlot) (bs : List Byte) (s : State) (Hs : Kept cs s) : Kept cs (piece e p v bs s).2 := by
  unfold piece
  try dsimp only
  with_reducible repeat' (first | assumption | apply triePiece_kept | dsimp only | refine kept_of_snd (by assumption) ?_ | refine kept_of_snd2 (by assumption) ?_ | refine kept_of_fst (by assumption) ?_ | (simp only [kept_mk_iff]; (first | apply keptIn_fold | apply keptIn_flags)) | split | intro _)

theorem closePiece_kept {cs : Keep} (e : Nat) (p : Nat) (v : VSlot) (ps : List Byte) (a : TokAcc) (s : State) (Hs : Kept cs s) : Kept cs (closePiece e p v ps a s).2 := by
  unfold closePiece
  try dsimp only
  with_reducible repeat' (first | assumption | apply piece_kept | dsimp only | refine kept_of_snd (by assumption) ?_ | refine kept_of_snd2 (by assumption) ?_ | refine kept_of_fst (by assumption) ?_ | (simp only [kept_mk_iff]; (first | apply keptIn_fold | apply keptIn_flags)) | split | intro _)

theorem tokLoop_kept {cs : Keep} (e : Nat) (p : Nat) (v : VSlot) (end_ : Bool) (a0 : Nat) (a1 : Nat) (a2 : List Byte) (a3 : List Byte) (a4 : TokAcc) (a5 : State) (Ha5 : Kept cs a5) : Kept cs (tokLoop e p v end_ a0 a1 a2 a3 a4 a5).2 := by
  revert Ha5
  induction a0 generalizing a1 a2 a3 a4 a5 with
  | zero => intro Ha5; unfold tokLoop; (try dsimp only at *); (with_reducible repeat' (first | assumption | apply closePiece_kept | apply ih | dsimp only | refine kept_of_snd (by assumption) ?_ | refine kept_of_snd2 (by assumption) ?_ | refine kept_of_fst (by assumption) ?_ | (simp only [kept_mk_iff]; (first | apply keptIn_fold | apply keptIn_flags)) | split | intro _))
  | succ n ih => intro Ha5; unfold tokLoop; (try dsimp only at *); (with_reducible repeat' (first | assumption | apply closePiece_kept | apply ih | dsimp only | refine kept_of_snd (by assumption) ?_ | refine kept_of_snd2 (by assumption) ?_ | refine kept_of_fst (by assumption) ?_ | (simp only [kept_mk_iff]; (first | apply keptIn_fold | apply keptIn_flags)) | split | intro _))

theorem tokenize_kept {cs : Keep} (p : Nat) (n : Nat) (s : State) (Hs : Kept cs s) : Kept cs (tokenize p n s) := by
  unfold tokenize
  try dsimp only
  with_reducible repeat' (first | assumption | apply tokLoop_kept | apply capFault_kept | apply tokDone_kept | apply tokWrite_kept | apply tokErr_kept | apply tokRead_kept | apply perfOwn_kept | dsimp only | refine kept_of_snd (by assumption) ?_ | refine kept_of_snd2 (by assumption) ?_ | refine kept_of_fst (by assumption) ?_ | (simp only [kept_mk_iff]; (first | apply keptIn_fold | apply keptIn_flags)) | split | intro _)

theorem wrVslot_kept {cs : Keep} (m : Nat) (e : Nat) (v : Nat) (s : State) (Hs : Kept cs s) : Kept cs (wrVslot m e v s) := by
  unfold wrVslot
  try dsimp only
  with_reducible repeat' (first | assumption | apply State.setVslot_kept | apply checkedWrite_kept | dsimp only | refine kept_of_snd (by assumption) ?_ | refine kept_of_snd2 (by assumption) ?_ | refine kept_of_fst (by assumption) ?_ | (simp only [kept_mk_iff]; (first | apply keptIn_fold | apply keptIn_flags)) | split | intro _)

theorem wrVldCtl_kept {cs : Keep} (m : Nat) (e : Nat) (v : Nat) (s : State) (Hs : Kept cs s) : Kept cs (wrVldCtl m e v s) := by
  unfold wrVldCtl
  try dsimp only
  with_reducible repeat' (first | assumption | apply State.setVslot_kept | apply checkedWrite_kept | dsimp only | refine kept_of_snd (by assumption) ?_ | refine kept_of_snd2 (by assumption) ?_ | refine kept_of_fst (by assumption) ?_ | (simp only [kept_mk_iff]; (first | apply keptIn_fold | apply keptIn_flags)) | split | intro _)

theorem vldFail_kept {cs : Keep} (e : Nat) (n : Nat) (code : Nat) (log : Bool) (s : State) (Hs : Kept cs s) : Kept cs (vldFail e n code log s) := by
  unfold vldFail
  try dsimp only
  with_reducible repeat' (first | assumption | apply State.setVslot_kept | apply logErr_kept | dsimp only | refine kept_of_snd (by assumption) ?_ | refine kept_of_snd2 (by assumption) ?_ | refine kept_of_fst (by assumption) ?_ | (simp only [kept_mk_iff]; (first | apply keptIn_fold | apply keptIn_flags)) | split | intro _)

theorem vldDone_kept {cs : Keep} (e : Nat) (n : Nat) (s : State) (Hs : Kept cs s) : Kept cs (vldDone e n s) := by
  unfold vldDone
  try dsimp only
  with_reducible repeat' (first | assumption | apply vldFail_kept | apply tokRead_kept | apply State.setVslot_kept | dsimp only | refine kept_of_snd (by assumption) ?_ | refine kept_of_snd2 (by assumption) ?_ | refine kept_of_fst (by assumption) ?_ | (simp only [kept_mk_iff]; (first | apply keptIn_fold | apply keptIn_flags)) | split | intro _)

theorem wrStrmCtl_kept {cs : Keep} (m : Nat) (e : Nat) (v : Nat) (s : State) (Hs : Kept cs s) : Kept cs (wrStrmCtl m e v s) := by
  unfold wrStrmCtl
  try dsimp only
  with_reducible repeat' (first | assumption | apply State.setStrm_kept | apply checkedWrite_kept | dsimp only | refine kept_of_snd (by assumption) ?_ | refine kept_of_snd2 (by assumption) ?_ | refine kept_of_fst (by assumption) ?_ | (simp only [kept_mk_iff]; (first | apply keptIn_fold | apply keptIn_flags)) | split | intro _)

theorem execTokenize_kept {cs : Keep} (p : Nat) (slot : Nat) (errs : Errs) (s : State) (Hs : Kept cs s) : KeptOut cs (execTokenize p slot errs s) := by
  unfold execTokenize
  try dsimp only
  with_reducible repeat' (first | assumption | apply keptOut_next | apply tokenize_kept | apply runErr_kept | apply whenOk_kept | dsimp only | refine kept_of_snd (by assumption) ?_ | refine kept_of_snd2 (by assumption) ?_ | refine kept_of_fst (by assumption) ?_ | (simp only [kept_mk_iff]; (first | apply keptIn_fold | apply keptIn_flags)) | split | intro _)

theorem execVocabLoad_kept {cs : Keep} (m : Nat) (e : Nat) (s : State) (Hs : Kept cs s) : KeptOut cs (execVocabLoad m e s) := by
  unfold execVocabLoad
  try dsimp only
  with_reducible repeat' (first | assumption | apply keptOut_next | apply wrVldCtl_kept | apply run_kept | apply whenOk_kept | dsimp only | refine kept_of_snd (by assumption) ?_ | refine kept_of_snd2 (by assumption) ?_ | refine kept_of_fst (by assumption) ?_ | (simp only [kept_mk_iff]; (first | apply keptIn_fold | apply keptIn_flags)) | split | intro _)

theorem execVocabLoadDone_kept {cs : Keep} (e : Nat) (n : Nat) (errs : Errs) (s : State) (Hs : Kept cs s) : KeptOut cs (execVocabLoadDone e n errs s) := by
  unfold execVocabLoadDone
  try dsimp only
  with_reducible repeat' (first | assumption | apply keptOut_next | apply vldDone_kept | apply runErr_kept | apply whenOk_kept | dsimp only | refine kept_of_snd (by assumption) ?_ | refine kept_of_snd2 (by assumption) ?_ | refine kept_of_fst (by assumption) ?_ | (simp only [kept_mk_iff]; (first | apply keptIn_fold | apply keptIn_flags)) | split | intro _)

theorem execTokVslotWrite_kept {cs : Keep} (m : Nat) (e : Nat) (v : Nat) (s : State) (Hs : Kept cs s) : KeptOut cs (execTokVslotWrite m e v s) := by
  unfold execTokVslotWrite
  try dsimp only
  with_reducible repeat' (first | assumption | apply keptOut_next | apply wrVslot_kept | apply run_kept | apply whenOk_kept | dsimp only | refine kept_of_snd (by assumption) ?_ | refine kept_of_snd2 (by assumption) ?_ | refine kept_of_fst (by assumption) ?_ | (simp only [kept_mk_iff]; (first | apply keptIn_fold | apply keptIn_flags)) | split | intro _)

theorem execTokStrmCtlWrite_kept {cs : Keep} (m : Nat) (e : Nat) (v : Nat) (s : State) (Hs : Kept cs s) : KeptOut cs (execTokStrmCtlWrite m e v s) := by
  unfold execTokStrmCtlWrite
  try dsimp only
  with_reducible repeat' (first | assumption | apply keptOut_next | apply wrStrmCtl_kept | apply run_kept | apply whenOk_kept | dsimp only | refine kept_of_snd (by assumption) ?_ | refine kept_of_snd2 (by assumption) ?_ | refine kept_of_fst (by assumption) ?_ | (simp only [kept_mk_iff]; (first | apply keptIn_fold | apply keptIn_flags)) | split | intro _)

theorem tokenBytes_kept {cs : Keep} (e : Nat) (p : Nat) (st : Stream) (v : VSlot) (t : Nat) (s : State) (Hs : Kept cs s) : Kept cs (tokenBytes e p st v t s).2 := by
  unfold tokenBytes
  try dsimp only
  with_reducible repeat' (first | assumption | apply tokRead_kept | dsimp only | refine kept_of_snd (by assumption) ?_ | refine kept_of_snd2 (by assumption) ?_ | refine kept_of_fst (by assumption) ?_ | (simp only [kept_mk_iff]; (first | apply keptIn_fold | apply keptIn_flags)) | split | intro _)

theorem detLoop_kept {cs : Keep} (e : Nat) (p : Nat) (o : OpSlot) (st : Stream) (v : VSlot) (strs : List (List Byte)) (a0 : Nat) (a1 : Nat) (a2 : DetAcc) (a3 : State) (Ha3 : Kept cs a3) : Kept cs (detLoop e p o st v strs a0 a1 a2 a3).2 := by
  revert Ha3
  induction a0 generalizing a1 a2 a3 with
  | zero => intro Ha3; unfold detLoop; (try dsimp only at *); (with_reducible repeat' (first | assumption | apply tokenBytes_kept | apply tokRead_kept | apply ih | dsimp only | refine kept_of_snd (by assumption) ?_ | refine kept_of_snd2 (by assumption) ?_ | refine kept_of_fst (by assumption) ?_ | (simp only [kept_mk_iff]; (first | apply keptIn_fold | apply keptIn_flags)) | split | intro _))
  | succ n ih => intro Ha3; unfold detLoop; (try dsimp only at *); (with_reducible repeat' (first | assumption | apply tokenBytes_kept | apply tokRead_kept | apply ih | dsimp only | refine kept_of_snd (by assumption) ?_ | refine kept_of_snd2 (by assumption) ?_ | refine kept_of_fst (by assumption) ?_ | (simp only [kept_mk_iff]; (first | apply keptIn_fold | apply keptIn_flags)) | split | intro _))

theorem detFinish_kept {cs : Keep} (e : Nat) (p : Nat) (n : Nat) (st : Stream) (a : DetAcc) (incomplete : Bool) (s0 : State) (s : State) (Hs0 : Kept cs s0) (Hs : Kept cs s) : Kept cs (detFinish e p n st a incomplete s0 s) := by
  unfold detFinish
  try dsimp only
  with_reducible repeat' (first | assumption | apply capFault_kept | apply tokDone_kept | apply tokWrite_kept | apply tokErr_kept | apply perfOwn_kept | dsimp only | refine kept_of_snd (by assumption) ?_ | refine kept_of_snd2 (by assumption) ?_ | refine kept_of_fst (by assumption) ?_ | (simp only [kept_mk_iff]; (first | apply keptIn_fold | apply keptIn_flags)) | split | intro _)

theorem detokenize_kept {cs : Keep} (p : Nat) (n : Nat) (s : State) (Hs : Kept cs s) : Kept cs (detokenize p n s) := by
  unfold detokenize
  try dsimp only
  with_reducible repeat' (first | assumption | apply detFinish_kept | apply detLoop_kept | apply tokErr_kept | dsimp only | refine kept_of_snd (by assumption) ?_ | refine kept_of_snd2 (by assumption) ?_ | refine kept_of_fst (by assumption) ?_ | (simp only [kept_mk_iff]; (first | apply keptIn_fold | apply keptIn_flags)) | split | intro _)

theorem autRead_kept {cs : Keep} (e : Nat) (p : Nat) (st : Stream) (ofs : Nat) (n : Nat) (s : State) (Hs : Kept cs s) : Kept cs (autRead e p st ofs n s).2 := by
  unfold autRead
  try dsimp only
  with_reducible repeat' (first | assumption | apply tokRead_kept | dsimp only | refine kept_of_snd (by assumption) ?_ | refine kept_of_snd2 (by assumption) ?_ | refine kept_of_fst (by assumption) ?_ | (simp only [kept_mk_iff]; (first | apply keptIn_fold | apply keptIn_flags)) | split | intro _)

theorem autHeader_kept {cs : Keep} (e : Nat) (p : Nat) (st : Stream) (ntok : Nat) (s : State) (Hs : Kept cs s) : Kept cs (autHeader e p st ntok s).2 := by
  unfold autHeader
  try dsimp only
  with_reducible repeat' (first | assumption | apply autRead_kept | dsimp only | refine kept_of_snd (by assumption) ?_ | refine kept_of_snd2 (by assumption) ?_ | refine kept_of_fst (by assumption) ?_ | (simp only [kept_mk_iff]; (first | apply keptIn_fold | apply keptIn_flags)) | split | intro _)

theorem autRanges_kept {cs : Keep} (e : Nat) (p : Nat) (st : Stream) (h : List Byte) (ofs : Nat) (a0 : Nat) (a1 : Nat) (a2 : Option Nat) (a3 : State) (Ha3 : Kept cs a3) : Kept cs (autRanges e p st h ofs a0 a1 a2 a3).2 := by
  revert Ha3
  induction a0 generalizing a1 a2 a3 with
  | zero => intro Ha3; unfold autRanges; (try dsimp only at *); (with_reducible repeat' (first | assumption | apply autRead_kept | apply ih | dsimp only | refine kept_of_snd (by assumption) ?_ | refine kept_of_snd2 (by assumption) ?_ | refine kept_of_fst (by assumption) ?_ | (simp only [kept_mk_iff]; (first | apply keptIn_fold | apply keptIn_flags)) | split | intro _))
  | succ n ih => intro Ha3; unfold autRanges; (try dsimp only at *); (with_reducible repeat' (first | assumption | apply autRead_kept | apply ih | dsimp only | refine kept_of_snd (by assumption) ?_ | refine kept_of_snd2 (by assumption) ?_ | refine kept_of_fst (by assumption) ?_ | (simp only [kept_mk_iff]; (first | apply keptIn_fold | apply keptIn_flags)) | split | intro _))

theorem autState_kept {cs : Keep} (e : Nat) (p : Nat) (st : Stream) (h : List Byte) (q : Nat) (s : State) (Hs : Kept cs s) : Kept cs (autState e p st h q s).2 := by
  unfold autState
  try dsimp only
  with_reducible repeat' (first | assumption | apply autRead_kept | dsimp only | refine kept_of_snd (by assumption) ?_ | refine kept_of_snd2 (by assumption) ?_ | refine kept_of_fst (by assumption) ?_ | (simp only [kept_mk_iff]; (first | apply keptIn_fold | apply keptIn_flags)) | split | intro _)

theorem autFull_kept {cs : Keep} (e : Nat) (p : Nat) (st : Stream) (h : List Byte) (q : Nat) (s : State) (Hs : Kept cs s) : Kept cs (autFull e p st h q s).2 := by
  unfold autFull
  try dsimp only
  with_reducible repeat' (first | assumption | apply autState_kept | apply autRanges_kept | dsimp only | refine kept_of_snd (by assumption) ?_ | refine kept_of_snd2 (by assumption) ?_ | refine kept_of_fst (by assumption) ?_ | (simp only [kept_mk_iff]; (first | apply keptIn_fold | apply keptIn_flags)) | split | intro _)

theorem advLoop_kept {cs : Keep} (e : Nat) (p : Nat) (o : OpSlot) (st : Stream) (h : List Byte) (a0 : Nat) (a1 : Nat) (a2 : Nat) (a3 : State) (Ha3 : Kept cs a3) : Kept cs (advLoop e p o st h a0 a1 a2 a3).2 := by
  revert Ha3
  induction a0 generalizing a1 a2 a3 with
  | zero => intro Ha3; unfold advLoop; (try dsimp only at *); (with_reducible repeat' (first | assumption | apply autFull_kept | apply tokRead_kept | apply ih | dsimp only | refine kept_of_snd (by assumption) ?_ | refine kept_of_snd2 (by assumption) ?_ | refine kept_of_fst (by assumption) ?_ | (simp only [kept_mk_iff]; (first | apply keptIn_fold | apply keptIn_flags)) | split | intro _))
  | succ n ih => intro Ha3; unfold advLoop; (try dsimp only at *); (with_reducible repeat' (first | assumption | apply autFull_kept | apply tokRead_kept | apply ih | dsimp only | refine kept_of_snd (by assumption) ?_ | refine kept_of_snd2 (by assumption) ?_ | refine kept_of_fst (by assumption) ?_ | (simp only [kept_mk_iff]; (first | apply keptIn_fold | apply keptIn_flags)) | split | intro _))

theorem conFinish_kept {cs : Keep} (e : Nat) (p : Nat) (n : Nat) (st : Stream) (nperm : Nat) (acc : Bool) (data : List Byte) (s0 : State) (s : State) (Hs0 : Kept cs s0) (Hs : Kept cs s) : Kept cs (conFinish e p n st nperm acc data s0 s) := by
  unfold conFinish
  try dsimp only
  with_reducible repeat' (first | assumption | apply capFault_kept | apply tokDone_kept | apply tokWrite_kept | apply tokErr_kept | apply State.drawn_kept | dsimp only | refine kept_of_snd (by assumption) ?_ | refine kept_of_snd2 (by assumption) ?_ | refine kept_of_fst (by assumption) ?_ | (simp only [kept_mk_iff]; (first | apply keptIn_fold | apply keptIn_flags)) | split | intro _)

theorem conStart_kept {cs : Keep} (p : Nat) (n : Nat) (adv : Bool) (k : Nat → List Byte → Stream → Nat → State → State) (s : State) (Hk : ∀ x0 x1 x2 x3 s, Kept cs s → Kept cs (k x0 x1 x2 x3 s)) (Hs : Kept cs s) : Kept cs (conStart p n adv k s) := by
  unfold conStart
  try dsimp only
  with_reducible repeat' (first | assumption | apply Hk | apply autHeader_kept | apply tokErr_kept | dsimp only | refine kept_of_snd (by assumption) ?_ | refine kept_of_snd2 (by assumption) ?_ | refine kept_of_fst (by assumption) ?_ | (simp only [kept_mk_iff]; (first | apply keptIn_fold | apply keptIn_flags)) | split | intro _)

theorem conMask_kept {cs : Keep} (p : Nat) (n : Nat) (s : State) (Hs : Kept cs s) : Kept cs (conMask p n s) := by
  unfold conMask
  try dsimp only
  with_reducible repeat' (first | assumption | apply conStart_kept | apply conFinish_kept | apply autFull_kept | apply tokErr_kept | apply tokRead_kept | dsimp only | refine kept_of_snd (by assumption) ?_ | refine kept_of_snd2 (by assumption) ?_ | refine kept_of_fst (by assumption) ?_ | (simp only [kept_mk_iff]; (first | apply keptIn_fold | apply keptIn_flags)) | split | intro _)

theorem conAdvance_kept {cs : Keep} (p : Nat) (n : Nat) (s : State) (Hs : Kept cs s) : Kept cs (conAdvance p n s) := by
  unfold conAdvance
  try dsimp only
  with_reducible repeat' (first | assumption | apply conStart_kept | apply conFinish_kept | apply advLoop_kept | apply autState_kept | apply tokErr_kept | dsimp only | refine kept_of_snd (by assumption) ?_ | refine kept_of_snd2 (by assumption) ?_ | refine kept_of_fst (by assumption) ?_ | (simp only [kept_mk_iff]; (first | apply keptIn_fold | apply keptIn_flags)) | split | intro _)

theorem wrSldCtl_kept {cs : Keep} (m : Nat) (e : Nat) (v : Nat) (s : State) (Hs : Kept cs s) : Kept cs (wrSldCtl m e v s) := by
  unfold wrSldCtl
  try dsimp only
  with_reducible repeat' (first | assumption | apply State.setStopBlk_kept | apply checkedWrite_kept | apply State.setF_kept | dsimp only | refine kept_of_snd (by assumption) ?_ | refine kept_of_snd2 (by assumption) ?_ | refine kept_of_fst (by assumption) ?_ | (simp only [kept_mk_iff]; (first | apply keptIn_fold | apply keptIn_flags)) | split | intro _)

theorem sldFail_kept {cs : Keep} (e : Nat) (blk : Nat) (code : Nat) (log : Bool) (s : State) (Hs : Kept cs s) : Kept cs (sldFail e blk code log s) := by
  unfold sldFail
  try dsimp only
  with_reducible repeat' (first | assumption | apply State.setStopBlk_kept | apply logErr_kept | dsimp only | refine kept_of_snd (by assumption) ?_ | refine kept_of_snd2 (by assumption) ?_ | refine kept_of_fst (by assumption) ?_ | (simp only [kept_mk_iff]; (first | apply keptIn_fold | apply keptIn_flags)) | split | intro _)

theorem sldDone_kept {cs : Keep} (e : Nat) (blk : Nat) (s : State) (Hs : Kept cs s) : Kept cs (sldDone e blk s) := by
  unfold sldDone
  try dsimp only
  with_reducible repeat' (first | assumption | apply sldFail_kept | apply tokRead_kept | apply State.setStopBlk_kept | dsimp only | refine kept_of_snd (by assumption) ?_ | refine kept_of_snd2 (by assumption) ?_ | refine kept_of_fst (by assumption) ?_ | (simp only [kept_mk_iff]; (first | apply keptIn_fold | apply keptIn_flags)) | split | intro _)

theorem wrDtab_kept {cs : Keep} (m : Nat) (e : Nat) (hi : Bool) (v : Nat) (s : State) (Hs : Kept cs s) : Kept cs (wrDtab m e hi v s) := by
  unfold wrDtab
  try dsimp only
  with_reducible repeat' (first | assumption | apply State.setStrm_kept | apply checkedWrite_kept | dsimp only | refine kept_of_snd (by assumption) ?_ | refine kept_of_snd2 (by assumption) ?_ | refine kept_of_fst (by assumption) ?_ | (simp only [kept_mk_iff]; (first | apply keptIn_fold | apply keptIn_flags)) | split | intro _)

theorem wrDctl_kept {cs : Keep} (m : Nat) (e : Nat) (v : Nat) (s : State) (Hs : Kept cs s) : Kept cs (wrDctl m e v s) := by
  unfold wrDctl
  try dsimp only
  with_reducible repeat' (first | assumption | apply State.setStrm_kept | apply checkedWrite_kept | dsimp only | refine kept_of_snd (by assumption) ?_ | refine kept_of_snd2 (by assumption) ?_ | refine kept_of_fst (by assumption) ?_ | (simp only [kept_mk_iff]; (first | apply keptIn_fold | apply keptIn_flags)) | split | intro _)

theorem wrCaut_kept {cs : Keep} (m : Nat) (e : Nat) (hi : Bool) (v : Nat) (s : State) (Hs : Kept cs s) : Kept cs (wrCaut m e hi v s) := by
  unfold wrCaut
  try dsimp only
  with_reducible repeat' (first | assumption | apply State.setStrm_kept | apply checkedWrite_kept | dsimp only | refine kept_of_snd (by assumption) ?_ | refine kept_of_snd2 (by assumption) ?_ | refine kept_of_fst (by assumption) ?_ | (simp only [kept_mk_iff]; (first | apply keptIn_fold | apply keptIn_flags)) | split | intro _)

theorem execDetokenize_kept {cs : Keep} (p : Nat) (slot : Nat) (errs : Errs) (s : State) (Hs : Kept cs s) : KeptOut cs (execDetokenize p slot errs s) := by
  unfold execDetokenize
  try dsimp only
  with_reducible repeat' (first | assumption | apply keptOut_next | apply detokenize_kept | apply runErr_kept | apply whenOk_kept | dsimp only | refine kept_of_snd (by assumption) ?_ | refine kept_of_snd2 (by assumption) ?_ | refine kept_of_fst (by assumption) ?_ | (simp only [kept_mk_iff]; (first | apply keptIn_fold | apply keptIn_flags)) | split | intro _)

theorem execConstrainMask_kept {cs : Keep} (p : Nat) (slot : Nat) (errs : Errs) (s : State) (Hs : Kept cs s) : KeptOut cs (execConstrainMask p slot errs s) := by
  unfold execConstrainMask
  try dsimp only
  with_reducible repeat' (first | assumption | apply keptOut_next | apply conMask_kept | apply runErr_kept | apply whenOk_kept | dsimp only | refine kept_of_snd (by assumption) ?_ | refine kept_of_snd2 (by assumption) ?_ | refine kept_of_fst (by assumption) ?_ | (simp only [kept_mk_iff]; (first | apply keptIn_fold | apply keptIn_flags)) | split | intro _)

theorem execConstrainAdvance_kept {cs : Keep} (p : Nat) (slot : Nat) (errs : Errs) (s : State) (Hs : Kept cs s) : KeptOut cs (execConstrainAdvance p slot errs s) := by
  unfold execConstrainAdvance
  try dsimp only
  with_reducible repeat' (first | assumption | apply keptOut_next | apply conAdvance_kept | apply runErr_kept | apply whenOk_kept | dsimp only | refine kept_of_snd (by assumption) ?_ | refine kept_of_snd2 (by assumption) ?_ | refine kept_of_fst (by assumption) ?_ | (simp only [kept_mk_iff]; (first | apply keptIn_fold | apply keptIn_flags)) | split | intro _)

theorem execStopSetLoad_kept {cs : Keep} (m : Nat) (e : Nat) (owner : Nat) (blk : Nat) (s : State) (Hs : Kept cs s) : KeptOut cs (execStopSetLoad m e owner blk s) := by
  unfold execStopSetLoad
  try dsimp only
  with_reducible repeat' (first | assumption | apply keptOut_next | apply wrSldCtl_kept | apply run_kept | apply whenOk_kept | dsimp only | refine kept_of_snd (by assumption) ?_ | refine kept_of_snd2 (by assumption) ?_ | refine kept_of_fst (by assumption) ?_ | (simp only [kept_mk_iff]; (first | apply keptIn_fold | apply keptIn_flags)) | split | intro _)

theorem execStopSetLoadDone_kept {cs : Keep} (e : Nat) (blk : Nat) (errs : Errs) (s : State) (Hs : Kept cs s) : KeptOut cs (execStopSetLoadDone e blk errs s) := by
  unfold execStopSetLoadDone
  try dsimp only
  with_reducible repeat' (first | assumption | apply keptOut_next | apply sldDone_kept | apply runErr_kept | apply whenOk_kept | dsimp only | refine kept_of_snd (by assumption) ?_ | refine kept_of_snd2 (by assumption) ?_ | refine kept_of_fst (by assumption) ?_ | (simp only [kept_mk_iff]; (first | apply keptIn_fold | apply keptIn_flags)) | split | intro _)

end Sys2Proof.Machine
end

