-- ==== Sys2Proof/Laws/KeptLink.lean ====
section
/-! SUPPORT.  What the operations of links, fabric requests and grants keep: the queue of waiting
commands, and the canonical form of the registers and the stores.  One lemma per operation. -/

set_option linter.all false

namespace Sys2Proof.Machine

theorem planAck_kept {cs : Keep} (p : Nat) (n : Nat) (id : Nat) (s : State) (Hs : Kept cs s) : Kept cs (planAck p n id s) := by
  unfold planAck
  try dsimp only
  with_reducible repeat' (first | assumption | apply dropReq_kept | apply drainEnd_kept | apply perf_kept | dsimp only | refine kept_of_snd (by assumption) ?_ | refine kept_of_snd2 (by assumption) ?_ | refine kept_of_fst (by assumption) ?_ | (simp only [kept_mk_iff]; (first | apply keptIn_fold | apply keptIn_flags)) | split | intro _)

theorem failWho_kept {cs : Keep} (who : FabWho) (id : Nat) (etag : Nat) (code : Nat) (status : Nat) (s : State) (Hs : Kept cs s) : Kept cs (failWho who id etag code status s) := by
  unfold failWho
  try dsimp only
  with_reducible repeat' (first | assumption | apply coreFaultLog_kept | apply drainEnd_kept | apply logErr_kept | apply State.setF_kept | dsimp only | refine kept_of_snd (by assumption) ?_ | refine kept_of_snd2 (by assumption) ?_ | refine kept_of_fst (by assumption) ?_ | (simp only [kept_mk_iff]; (first | apply keptIn_fold | apply keptIn_flags)) | split | intro _)

theorem failReq_kept {cs : Keep} (t : Nat) (code : Nat) (s : State) (Hs : Kept cs s) : Kept cs (failReq t code s) := by
  unfold failReq
  try dsimp only
  with_reducible repeat' (first | assumption | apply failWho_kept | apply quarantine_kept | dsimp only | refine kept_of_snd (by assumption) ?_ | refine kept_of_snd2 (by assumption) ?_ | refine kept_of_fst (by assumption) ?_ | (simp only [kept_mk_iff]; (first | apply keptIn_fold | apply keptIn_flags)) | split | intro _)

theorem offer_kept {cs : Keep} (o : FabOut) (s : State) (Hs : Kept cs s) : Kept cs (offer o s) := by
  unfold offer
  try dsimp only
  with_reducible repeat' (first | assumption | apply failWho_kept | apply issueReq_kept | dsimp only | refine kept_of_snd (by assumption) ?_ | refine kept_of_snd2 (by assumption) ?_ | refine kept_of_fst (by assumption) ?_ | (simp only [kept_mk_iff]; (first | apply keptIn_fold | apply keptIn_flags)) | split | intro _)

theorem pump_kept {cs : Keep} (s : State) (Hs : Kept cs s) : Kept cs (pump s) := by
  unfold pump
  try dsimp only
  with_reducible repeat' (first | assumption | apply offer_kept | apply forEach_kept | dsimp only | refine kept_of_snd (by assumption) ?_ | refine kept_of_snd2 (by assumption) ?_ | refine kept_of_fst (by assumption) ?_ | (simp only [kept_mk_iff]; (first | apply keptIn_fold | apply keptIn_flags)) | split | intro _)

theorem setStep_kept {cs : Keep} (l : Nat) (st : Nat) (s : State) (Hs : Kept cs s) : Kept cs (setStep l st s) := by
  unfold setStep
  try dsimp only
  with_reducible repeat' (first | assumption | apply State.setLink_kept | apply State.setF_kept | dsimp only | refine kept_of_snd (by assumption) ?_ | refine kept_of_snd2 (by assumption) ?_ | refine kept_of_fst (by assumption) ?_ | (simp only [kept_mk_iff]; (first | apply keptIn_fold | apply keptIn_flags)) | split | intro _)

theorem muteDecs_kept {cs : Keep} (l : Nat) (p : Nat) (s : State) (Hs : Kept cs s) : Kept cs (muteDecs l p s) := by
  unfold muteDecs
  try dsimp only
  with_reducible repeat' (first | assumption | apply State.setSc_kept | dsimp only | refine kept_of_snd (by assumption) ?_ | refine kept_of_snd2 (by assumption) ?_ | refine kept_of_fst (by assumption) ?_ | (simp only [kept_mk_iff]; (first | apply keptIn_fold | apply keptIn_flags)) | split | intro _)

theorem sendTs1_kept {cs : Keep} (l : Nat) (s : State) (Hs : Kept cs s) : Kept cs (sendTs1 l s) := by
  unfold sendTs1
  try dsimp only
  with_reducible repeat' (first | assumption | apply sendControl_kept | apply forUp_kept | apply forUp_kept2 | dsimp only | refine kept_of_snd (by assumption) ?_ | refine kept_of_snd2 (by assumption) ?_ | refine kept_of_fst (by assumption) ?_ | (simp only [kept_mk_iff]; (first | apply keptIn_fold | apply keptIn_flags)) | split | intro _)

theorem sendTs2_kept {cs : Keep} (l : Nat) (s : State) (Hs : Kept cs s) : Kept cs (sendTs2 l s) := by
  unfold sendTs2
  try dsimp only
  with_reducible repeat' (first | assumption | apply sendControl_kept | apply forEach_kept | dsimp only | refine kept_of_snd (by assumption) ?_ | refine kept_of_snd2 (by assumption) ?_ | refine kept_of_fst (by assumption) ?_ | (simp only [kept_mk_iff]; (first | apply keptIn_fold | apply keptIn_flags)) | split | intro _)

theorem linkDown_kept {cs : Keep} (l : Nat) (s : State) (Hs : Kept cs s) : Kept cs (linkDown l s) := by
  unfold linkDown
  try dsimp only
  with_reducible repeat' (first | assumption | apply muteDecs_kept | apply setStep_kept | apply pump_kept | apply failReq_kept | apply State.setLink_kept | apply State.addF_kept | apply State.setF_kept | apply forEach_kept | apply forUp_kept | apply forUp_kept2 | dsimp only | refine kept_of_snd (by assumption) ?_ | refine kept_of_snd2 (by assumption) ?_ | refine kept_of_fst (by assumption) ?_ | (simp only [kept_mk_iff]; (first | apply keptIn_fold | apply keptIn_flags)) | split | intro _)

theorem startTraining_kept {cs : Keep} (l : Nat) (gen : Nat) (s : State) (Hs : Kept cs s) : Kept cs (startTraining l gen s) := by
  unfold startTraining
  try dsimp only
  with_reducible repeat' (first | assumption | apply sendTs1_kept | apply setStep_kept | apply State.setLink_kept | apply State.setF_kept | dsimp only | refine kept_of_snd (by assumption) ?_ | refine kept_of_snd2 (by assumption) ?_ | refine kept_of_fst (by assumption) ?_ | (simp only [kept_mk_iff]; (first | apply keptIn_fold | apply keptIn_flags)) | split | intro _)

theorem linkStop_kept {cs : Keep} (l : Nat) (s : State) (Hs : Kept cs s) : Kept cs (linkStop l s) := by
  unfold linkStop
  try dsimp only
  with_reducible repeat' (first | assumption | apply linkDown_kept | apply State.setF_kept | dsimp only | refine kept_of_snd (by assumption) ?_ | refine kept_of_snd2 (by assumption) ?_ | refine kept_of_fst (by assumption) ?_ | (simp only [kept_mk_iff]; (first | apply keptIn_fold | apply keptIn_flags)) | split | intro _)

theorem linkFollow_kept {cs : Keep} (l : Nat) (retrain : Bool) (s : State) (Hs : Kept cs s) : Kept cs (linkFollow l retrain s) := by
  unfold linkFollow
  try dsimp only
  with_reducible repeat' (first | assumption | apply linkStop_kept | apply startTraining_kept | apply linkDown_kept | dsimp only | refine kept_of_snd (by assumption) ?_ | refine kept_of_snd2 (by assumption) ?_ | refine kept_of_fst (by assumption) ?_ | (simp only [kept_mk_iff]; (first | apply keptIn_fold | apply keptIn_flags)) | split | intro _)

theorem wrLnkCtl_kept {cs : Keep} (m : Nat) (l : Nat) (v : Nat) (s : State) (Hs : Kept cs s) : Kept cs (wrLnkCtl m l v s) := by
  unfold wrLnkCtl
  try dsimp only
  with_reducible repeat' (first | assumption | apply linkFollow_kept | apply checkedWrite_kept | apply State.setW_kept | dsimp only | refine kept_of_snd (by assumption) ?_ | refine kept_of_snd2 (by assumption) ?_ | refine kept_of_fst (by assumption) ?_ | (simp only [kept_mk_iff]; (first | apply keptIn_fold | apply keptIn_flags)) | split | intro _)

theorem ts1In_kept {cs : Keep} (l : Nat) (b : List Byte) (s : State) (Hs : Kept cs s) : Kept cs (ts1In l b s) := by
  unfold ts1In
  try dsimp only
  with_reducible repeat' (first | assumption | apply State.setLink_kept | apply State.setF_kept | dsimp only | refine kept_of_snd (by assumption) ?_ | refine kept_of_snd2 (by assumption) ?_ | refine kept_of_fst (by assumption) ?_ | (simp only [kept_mk_iff]; (first | apply keptIn_fold | apply keptIn_flags)) | split | intro _)

theorem ts2In_kept {cs : Keep} (l : Nat) (b : List Byte) (s : State) (Hs : Kept cs s) : Kept cs (ts2In l b s) := by
  unfold ts2In
  try dsimp only
  with_reducible repeat' (first | assumption | apply State.setLink_kept | dsimp only | refine kept_of_snd (by assumption) ?_ | refine kept_of_snd2 (by assumption) ?_ | refine kept_of_fst (by assumption) ?_ | (simp only [kept_mk_iff]; (first | apply keptIn_fold | apply keptIn_flags)) | split | intro _)

theorem sendEqAck_kept {cs : Keep} (l : Nat) (lane : Nat) (code : Nat) (arg : Nat) (s : State) (Hs : Kept cs s) : Kept cs (sendEqAck l lane code arg s) := by
  unfold sendEqAck
  try dsimp only
  with_reducible repeat' (first | assumption | apply sendControl_kept | dsimp only | refine kept_of_snd (by assumption) ?_ | refine kept_of_snd2 (by assumption) ?_ | refine kept_of_fst (by assumption) ?_ | (simp only [kept_mk_iff]; (first | apply keptIn_fold | apply keptIn_flags)) | split | intro _)

theorem startEq_kept {cs : Keep} (l : Nat) (s : State) (Hs : Kept cs s) : Kept cs (startEq l s) := by
  unfold startEq
  try dsimp only
  with_reducible repeat' (first | assumption | apply setStep_kept | apply sendControl_kept | apply State.drawn_kept | apply State.setF_kept | apply forEach_kept | dsimp only | refine kept_of_snd (by assumption) ?_ | refine kept_of_snd2 (by assumption) ?_ | refine kept_of_fst (by assumption) ?_ | (simp only [kept_mk_iff]; (first | apply keptIn_fold | apply keptIn_flags)) | split | intro _)

theorem eqReqIn_kept {cs : Keep} (l : Nat) (b : List Byte) (s : State) (Hs : Kept cs s) : Kept cs (eqReqIn l b s) := by
  unfold eqReqIn
  try dsimp only
  with_reducible repeat' (first | assumption | apply sendEqAck_kept | apply State.setLink_kept | dsimp only | refine kept_of_snd (by assumption) ?_ | refine kept_of_snd2 (by assumption) ?_ | refine kept_of_fst (by assumption) ?_ | (simp only [kept_mk_iff]; (first | apply keptIn_fold | apply keptIn_flags)) | split | intro _)

theorem eqAckIn_kept {cs : Keep} (l : Nat) (b : List Byte) (s : State) (Hs : Kept cs s) : Kept cs (eqAckIn l b s) := by
  unfold eqAckIn
  try dsimp only
  with_reducible repeat' (first | assumption | apply State.setLink_kept | dsimp only | refine kept_of_snd (by assumption) ?_ | refine kept_of_snd2 (by assumption) ?_ | refine kept_of_fst (by assumption) ?_ | (simp only [kept_mk_iff]; (first | apply keptIn_fold | apply keptIn_flags)) | split | intro _)

theorem exchanged_kept {cs : Keep} (l : Nat) (s : State) (Hs : Kept cs s) : Kept cs (exchanged l s) := by
  unfold exchanged
  try dsimp only
  with_reducible repeat' (first | assumption | apply setStep_kept | apply State.setF_kept | dsimp only | refine kept_of_snd (by assumption) ?_ | refine kept_of_snd2 (by assumption) ?_ | refine kept_of_fst (by assumption) ?_ | (simp only [kept_mk_iff]; (first | apply keptIn_fold | apply keptIn_flags)) | split | intro _)

theorem trainStep_kept {cs : Keep} (l : Nat) (s : State) (Hs : Kept cs s) : Kept cs (trainStep l s) := by
  unfold trainStep
  try dsimp only
  with_reducible repeat' (first | assumption | apply exchanged_kept | apply startEq_kept | apply sendTs2_kept | apply sendTs1_kept | apply setStep_kept | apply sendRaw_kept | apply State.setF_kept | apply forUp_kept | apply forUp_kept2 | dsimp only | refine kept_of_snd (by assumption) ?_ | refine kept_of_snd2 (by assumption) ?_ | refine kept_of_fst (by assumption) ?_ | (simp only [kept_mk_iff]; (first | apply keptIn_fold | apply keptIn_flags)) | split | intro _)

theorem linkUpDone_kept {cs : Keep} (l : Nat) (s : State) (Hs : Kept cs s) : Kept cs (linkUpDone l s) := by
  unfold linkUpDone
  try dsimp only
  with_reducible repeat' (first | assumption | apply setStep_kept | apply flushAll_kept | apply State.setLink_kept | apply State.setF_kept | dsimp only | refine kept_of_snd (by assumption) ?_ | refine kept_of_snd2 (by assumption) ?_ | refine kept_of_fst (by assumption) ?_ | (simp only [kept_mk_iff]; (first | apply keptIn_fold | apply keptIn_flags)) | split | intro _)

theorem trainFail_kept {cs : Keep} (l : Nat) (s : State) (Hs : Kept cs s) : Kept cs (trainFail l s) := by
  unfold trainFail
  try dsimp only
  with_reducible repeat' (first | assumption | apply startTraining_kept | apply setStep_kept | apply State.setF_kept | dsimp only | refine kept_of_snd (by assumption) ?_ | refine kept_of_snd2 (by assumption) ?_ | refine kept_of_fst (by assumption) ?_ | (simp only [kept_mk_iff]; (first | apply keptIn_fold | apply keptIn_flags)) | split | intro _)

theorem laneFault_kept {cs : Keep} (l : Nat) (lane : Nat) (s : State) (Hs : Kept cs s) : Kept cs (laneFault l lane s) := by
  unfold laneFault
  try dsimp only
  with_reducible repeat' (first | assumption | apply linkFollow_kept | apply linkDown_kept | apply setStep_kept | apply State.setLink_kept | apply State.setF_kept | dsimp only | refine kept_of_snd (by assumption) ?_ | refine kept_of_snd2 (by assumption) ?_ | refine kept_of_fst (by assumption) ?_ | (simp only [kept_mk_iff]; (first | apply keptIn_fold | apply keptIn_flags)) | split | intro _)

theorem recoveryEnd_kept {cs : Keep} (l : Nat) (s : State) (Hs : Kept cs s) : Kept cs (recoveryEnd l s) := by
  unfold recoveryEnd
  try dsimp only
  with_reducible repeat' (first | assumption | apply setStep_kept | apply flushAll_kept | apply sendFlit_kept | apply forEach_kept | dsimp only | refine kept_of_snd (by assumption) ?_ | refine kept_of_snd2 (by assumption) ?_ | refine kept_of_fst (by assumption) ?_ | (simp only [kept_mk_iff]; (first | apply keptIn_fold | apply keptIn_flags)) | split | intro _)

theorem replay_kept {cs : Keep} (l : Nat) (s : State) (Hs : Kept cs s) : Kept cs (replay l s) := by
  unfold replay
  try dsimp only
  with_reducible repeat' (first | assumption | apply linkFollow_kept | apply linkDown_kept | apply sendFlit_kept | apply State.setLink_kept | apply logErr_kept | apply State.addF_kept | apply forEach_kept | dsimp only | refine kept_of_snd (by assumption) ?_ | refine kept_of_snd2 (by assumption) ?_ | refine kept_of_fst (by assumption) ?_ | (simp only [kept_mk_iff]; (first | apply keptIn_fold | apply keptIn_flags)) | split | intro _)

theorem ackFlits_kept {cs : Keep} (l : Nat) (ack : Nat) (s : State) (Hs : Kept cs s) : Kept cs (ackFlits l ack s) := by
  unfold ackFlits
  try dsimp only
  with_reducible repeat' (first | assumption | apply State.setLink_kept | dsimp only | refine kept_of_snd (by assumption) ?_ | refine kept_of_snd2 (by assumption) ?_ | refine kept_of_fst (by assumption) ?_ | (simp only [kept_mk_iff]; (first | apply keptIn_fold | apply keptIn_flags)) | split | intro _)

theorem useFields_kept {cs : Keep} (l : Nat) (h : FlitHdr) (s : State) (Hs : Kept cs s) : Kept cs (useFields l h s) := by
  unfold useFields
  try dsimp only
  with_reducible repeat' (first | assumption | apply ackFlits_kept | apply replay_kept | apply flushAll_kept | apply State.setF_kept | dsimp only | refine kept_of_snd (by assumption) ?_ | refine kept_of_snd2 (by assumption) ?_ | refine kept_of_fst (by assumption) ?_ | (simp only [kept_mk_iff]; (first | apply keptIn_fold | apply keptIn_flags)) | split | intro _)

theorem nakOnce_kept {cs : Keep} (l : Nat) (s : State) (Hs : Kept cs s) : Kept cs (nakOnce l s) := by
  unfold nakOnce
  try dsimp only
  with_reducible repeat' (first | assumption | apply sendNop_kept | apply State.setLink_kept | dsimp only | refine kept_of_snd (by assumption) ?_ | refine kept_of_snd2 (by assumption) ?_ | refine kept_of_fst (by assumption) ?_ | (simp only [kept_mk_iff]; (first | apply keptIn_fold | apply keptIn_flags)) | split | intro _)

theorem badFlit_kept {cs : Keep} (l : Nat) (s : State) (Hs : Kept cs s) : Kept cs (badFlit l s) := by
  unfold badFlit
  try dsimp only
  with_reducible repeat' (first | assumption | apply nakOnce_kept | apply State.addF_kept | dsimp only | refine kept_of_snd (by assumption) ?_ | refine kept_of_snd2 (by assumption) ?_ | refine kept_of_fst (by assumption) ?_ | (simp only [kept_mk_iff]; (first | apply keptIn_fold | apply keptIn_flags)) | split | intro _)

theorem fecIn_kept {cs : Keep} (l : Nat) (corr : Nat) (uncorr : Nat) (s : State) (Hs : Kept cs s) : Kept cs (fecIn l corr uncorr s) := by
  unfold fecIn
  try dsimp only
  with_reducible repeat' (first | assumption | apply State.addF_kept | dsimp only | refine kept_of_snd (by assumption) ?_ | refine kept_of_snd2 (by assumption) ?_ | refine kept_of_fst (by assumption) ?_ | (simp only [kept_mk_iff]; (first | apply keptIn_fold | apply keptIn_flags)) | split | intro _)

theorem dataFlit_kept {cs : Keep} (l : Nat) (b : List Byte) (s : State) (Hs : Kept cs s) : Kept cs (dataFlit l b s) := by
  unfold dataFlit
  try dsimp only
  with_reducible repeat' (first | assumption | apply badFlit_kept | apply nakOnce_kept | apply useFields_kept | apply sendNop_kept | apply State.setLink_kept | apply perf_kept | dsimp only | refine kept_of_snd (by assumption) ?_ | refine kept_of_snd2 (by assumption) ?_ | refine kept_of_fst (by assumption) ?_ | (simp only [kept_mk_iff]; (first | apply keptIn_fold | apply keptIn_flags)) | split | intro _)

theorem nopFlit_kept {cs : Keep} (l : Nat) (b : List Byte) (s : State) (Hs : Kept cs s) : Kept cs (nopFlit l b s) := by
  unfold nopFlit
  try dsimp only
  with_reducible repeat' (first | assumption | apply badFlit_kept | apply useFields_kept | dsimp only | refine kept_of_snd (by assumption) ?_ | refine kept_of_snd2 (by assumption) ?_ | refine kept_of_fst (by assumption) ?_ | (simp only [kept_mk_iff]; (first | apply keptIn_fold | apply keptIn_flags)) | split | intro _)

theorem creditInit_kept {cs : Keep} (l : Nat) (b : List Byte) (s : State) (Hs : Kept cs s) : Kept cs (creditInit l b s) := by
  unfold creditInit
  try dsimp only
  with_reducible repeat' (first | assumption | apply State.setLink_kept | apply State.addF_kept | apply State.setF_kept | dsimp only | refine kept_of_snd (by assumption) ?_ | refine kept_of_snd2 (by assumption) ?_ | refine kept_of_fst (by assumption) ?_ | (simp only [kept_mk_iff]; (first | apply keptIn_fold | apply keptIn_flags)) | split | intro _)

theorem recoverIn_kept {cs : Keep} (l : Nat) (b : List Byte) (s : State) (Hs : Kept cs s) : Kept cs (recoverIn l b s) := by
  unfold recoverIn
  try dsimp only
  with_reducible repeat' (first | assumption | apply badFlit_kept | apply useFields_kept | apply setStep_kept | dsimp only | refine kept_of_snd (by assumption) ?_ | refine kept_of_snd2 (by assumption) ?_ | refine kept_of_fst (by assumption) ?_ | (simp only [kept_mk_iff]; (first | apply keptIn_fold | apply keptIn_flags)) | split | intro _)

theorem nopInsert_kept {cs : Keep} (l : Nat) (s : State) (Hs : Kept cs s) : Kept cs (nopInsert l s) := by
  unfold nopInsert
  try dsimp only
  with_reducible repeat' (first | assumption | apply flushAll_kept | apply sendNop_kept | dsimp only | refine kept_of_snd (by assumption) ?_ | refine kept_of_snd2 (by assumption) ?_ | refine kept_of_fst (by assumption) ?_ | (simp only [kept_mk_iff]; (first | apply keptIn_fold | apply keptIn_flags)) | split | intro _)

theorem replayTimer_kept {cs : Keep} (l : Nat) (s : State) (Hs : Kept cs s) : Kept cs (replayTimer l s) := by
  unfold replayTimer
  try dsimp only
  with_reducible repeat' (first | assumption | apply replay_kept | dsimp only | refine kept_of_snd (by assumption) ?_ | refine kept_of_snd2 (by assumption) ?_ | refine kept_of_fst (by assumption) ?_ | (simp only [kept_mk_iff]; (first | apply keptIn_fold | apply keptIn_flags)) | split | intro _)

theorem execLinkTrainStart_kept {cs : Keep} (m : Nat) (l : Nat) (v : Nat) (s : State) (Hs : Kept cs s) : KeptOut cs (execLinkTrainStart m l v s) := by
  unfold execLinkTrainStart
  try dsimp only
  with_reducible repeat' (first | assumption | apply keptOut_next | apply wrLnkCtl_kept | apply run_kept | apply whenOk_kept | dsimp only | refine kept_of_snd (by assumption) ?_ | refine kept_of_snd2 (by assumption) ?_ | refine kept_of_fst (by assumption) ?_ | (simp only [kept_mk_iff]; (first | apply keptIn_fold | apply keptIn_flags)) | split | intro _)

theorem execLinkStop_kept {cs : Keep} (m : Nat) (l : Nat) (v : Nat) (s : State) (Hs : Kept cs s) : KeptOut cs (execLinkStop m l v s) := by
  unfold execLinkStop
  try dsimp only
  with_reducible repeat' (first | assumption | apply keptOut_next | apply wrLnkCtl_kept | apply run_kept | apply whenOk_kept | dsimp only | refine kept_of_snd (by assumption) ?_ | refine kept_of_snd2 (by assumption) ?_ | refine kept_of_fst (by assumption) ?_ | (simp only [kept_mk_iff]; (first | apply keptIn_fold | apply keptIn_flags)) | split | intro _)

theorem execTs1_kept {cs : Keep} (l : Nat) (b : List Byte) (s : State) (Hs : Kept cs s) : KeptOut cs (execTs1 l b s) := by
  unfold execTs1
  try dsimp only
  with_reducible repeat' (first | assumption | apply keptOut_next | apply ts1In_kept | apply run_kept | apply whenOk_kept | dsimp only | refine kept_of_snd (by assumption) ?_ | refine kept_of_snd2 (by assumption) ?_ | refine kept_of_fst (by assumption) ?_ | (simp only [kept_mk_iff]; (first | apply keptIn_fold | apply keptIn_flags)) | split | intro _)

theorem execTs2_kept {cs : Keep} (l : Nat) (b : List Byte) (s : State) (Hs : Kept cs s) : KeptOut cs (execTs2 l b s) := by
  unfold execTs2
  try dsimp only
  with_reducible repeat' (first | assumption | apply keptOut_next | apply ts2In_kept | apply run_kept | apply whenOk_kept | dsimp only | refine kept_of_snd (by assumption) ?_ | refine kept_of_snd2 (by assumption) ?_ | refine kept_of_fst (by assumption) ?_ | (simp only [kept_mk_iff]; (first | apply keptIn_fold | apply keptIn_flags)) | split | intro _)

theorem execEqreq_kept {cs : Keep} (l : Nat) (b : List Byte) (s : State) (Hs : Kept cs s) : KeptOut cs (execEqreq l b s) := by
  unfold execEqreq
  try dsimp only
  with_reducible repeat' (first | assumption | apply keptOut_next | apply eqReqIn_kept | apply run_kept | apply whenOk_kept | dsimp only | refine kept_of_snd (by assumption) ?_ | refine kept_of_snd2 (by assumption) ?_ | refine kept_of_fst (by assumption) ?_ | (simp only [kept_mk_iff]; (first | apply keptIn_fold | apply keptIn_flags)) | split | intro _)

theorem execEqack_kept {cs : Keep} (l : Nat) (b : List Byte) (s : State) (Hs : Kept cs s) : KeptOut cs (execEqack l b s) := by
  unfold execEqack
  try dsimp only
  with_reducible repeat' (first | assumption | apply keptOut_next | apply eqAckIn_kept | apply run_kept | apply whenOk_kept | dsimp only | refine kept_of_snd (by assumption) ?_ | refine kept_of_snd2 (by assumption) ?_ | refine kept_of_fst (by assumption) ?_ | (simp only [kept_mk_iff]; (first | apply keptIn_fold | apply keptIn_flags)) | split | intro _)

theorem execTrainStepDone_kept {cs : Keep} (l : Nat) (s : State) (Hs : Kept cs s) : KeptOut cs (execTrainStepDone l s) := by
  unfold execTrainStepDone
  try dsimp only
  with_reducible repeat' (first | assumption | apply keptOut_next | apply trainStep_kept | apply run_kept | apply whenOk_kept | dsimp only | refine kept_of_snd (by assumption) ?_ | refine kept_of_snd2 (by assumption) ?_ | refine kept_of_fst (by assumption) ?_ | (simp only [kept_mk_iff]; (first | apply keptIn_fold | apply keptIn_flags)) | split | intro _)

theorem execLinkUp_kept {cs : Keep} (l : Nat) (s : State) (Hs : Kept cs s) : KeptOut cs (execLinkUp l s) := by
  unfold execLinkUp
  try dsimp only
  with_reducible repeat' (first | assumption | apply keptOut_next | apply linkUpDone_kept | apply run_kept | apply whenOk_kept | dsimp only | refine kept_of_snd (by assumption) ?_ | refine kept_of_snd2 (by assumption) ?_ | refine kept_of_fst (by assumption) ?_ | (simp only [kept_mk_iff]; (first | apply keptIn_fold | apply keptIn_flags)) | split | intro _)

theorem execTrainFail_kept {cs : Keep} (l : Nat) (s : State) (Hs : Kept cs s) : KeptOut cs (execTrainFail l s) := by
  unfold execTrainFail
  try dsimp only
  with_reducible repeat' (first | assumption | apply keptOut_next | apply trainFail_kept | apply run_kept | apply whenOk_kept | dsimp only | refine kept_of_snd (by assumption) ?_ | refine kept_of_snd2 (by assumption) ?_ | refine kept_of_fst (by assumption) ?_ | (simp only [kept_mk_iff]; (first | apply keptIn_fold | apply keptIn_flags)) | split | intro _)

theorem execLaneFault_kept {cs : Keep} (l : Nat) (lane : Nat) (s : State) (Hs : Kept cs s) : KeptOut cs (execLaneFault l lane s) := by
  unfold execLaneFault
  try dsimp only
  with_reducible repeat' (first | assumption | apply keptOut_next | apply laneFault_kept | apply run_kept | apply whenOk_kept | dsimp only | refine kept_of_snd (by assumption) ?_ | refine kept_of_snd2 (by assumption) ?_ | refine kept_of_fst (by assumption) ?_ | (simp only [kept_mk_iff]; (first | apply keptIn_fold | apply keptIn_flags)) | split | intro _)

theorem execRecoveryEnd_kept {cs : Keep} (l : Nat) (s : State) (Hs : Kept cs s) : KeptOut cs (execRecoveryEnd l s) := by
  unfold execRecoveryEnd
  try dsimp only
  with_reducible repeat' (first | assumption | apply keptOut_next | apply recoveryEnd_kept | apply run_kept | apply whenOk_kept | dsimp only | refine kept_of_snd (by assumption) ?_ | refine kept_of_snd2 (by assumption) ?_ | refine kept_of_fst (by assumption) ?_ | (simp only [kept_mk_iff]; (first | apply keptIn_fold | apply keptIn_flags)) | split | intro _)

theorem execDataFlit_kept {cs : Keep} (l : Nat) (b : List Byte) (fecc : Nat) (fecu : Nat) (s : State) (Hs : Kept cs s) : KeptOut cs (execDataFlit l b fecc fecu s) := by
  unfold execDataFlit
  try dsimp only
  with_reducible repeat' (first | assumption | apply keptOut_next | apply dataFlit_kept | apply fecIn_kept | apply run_kept | apply whenOk_kept | dsimp only | refine kept_of_snd (by assumption) ?_ | refine kept_of_snd2 (by assumption) ?_ | refine kept_of_fst (by assumption) ?_ | (simp only [kept_mk_iff]; (first | apply keptIn_fold | apply keptIn_flags)) | split | intro _)

theorem execNopFlit_kept {cs : Keep} (l : Nat) (b : List Byte) (fecc : Nat) (fecu : Nat) (s : State) (Hs : Kept cs s) : KeptOut cs (execNopFlit l b fecc fecu s) := by
  unfold execNopFlit
  try dsimp only
  with_reducible repeat' (first | assumption | apply keptOut_next | apply nopFlit_kept | apply fecIn_kept | apply run_kept | apply whenOk_kept | dsimp only | refine kept_of_snd (by assumption) ?_ | refine kept_of_snd2 (by assumption) ?_ | refine kept_of_fst (by assumption) ?_ | (simp only [kept_mk_iff]; (first | apply keptIn_fold | apply keptIn_flags)) | split | intro _)

theorem execCreditInit_kept {cs : Keep} (l : Nat) (b : List Byte) (s : State) (Hs : Kept cs s) : KeptOut cs (execCreditInit l b s) := by
  unfold execCreditInit
  try dsimp only
  with_reducible repeat' (first | assumption | apply keptOut_next | apply creditInit_kept | apply run_kept | apply whenOk_kept | dsimp only | refine kept_of_snd (by assumption) ?_ | refine kept_of_snd2 (by assumption) ?_ | refine kept_of_fst (by assumption) ?_ | (simp only [kept_mk_iff]; (first | apply keptIn_fold | apply keptIn_flags)) | split | intro _)

theorem execRecover_kept {cs : Keep} (l : Nat) (b : List Byte) (s : State) (Hs : Kept cs s) : KeptOut cs (execRecover l b s) := by
  unfold execRecover
  try dsimp only
  with_reducible repeat' (first | assumption | apply keptOut_next | apply recoverIn_kept | apply run_kept | apply whenOk_kept | dsimp only | refine kept_of_snd (by assumption) ?_ | refine kept_of_snd2 (by assumption) ?_ | refine kept_of_fst (by assumption) ?_ | (simp only [kept_mk_iff]; (first | apply keptIn_fold | apply keptIn_flags)) | split | intro _)

theorem execNopInsert_kept {cs : Keep} (l : Nat) (s : State) (Hs : Kept cs s) : KeptOut cs (execNopInsert l s) := by
  unfold execNopInsert
  try dsimp only
  with_reducible repeat' (first | assumption | apply keptOut_next | apply nopInsert_kept | apply run_kept | apply whenOk_kept | dsimp only | refine kept_of_snd (by assumption) ?_ | refine kept_of_snd2 (by assumption) ?_ | refine kept_of_fst (by assumption) ?_ | (simp only [kept_mk_iff]; (first | apply keptIn_fold | apply keptIn_flags)) | split | intro _)

theorem execReplayTimerExpiry_kept {cs : Keep} (l : Nat) (s : State) (Hs : Kept cs s) : KeptOut cs (execReplayTimerExpiry l s) := by
  unfold execReplayTimerExpiry
  try dsimp only
  with_reducible repeat' (first | assumption | apply keptOut_next | apply replayTimer_kept | apply run_kept | apply whenOk_kept | dsimp only | refine kept_of_snd (by assumption) ?_ | refine kept_of_snd2 (by assumption) ?_ | refine kept_of_fst (by assumption) ?_ | (simp only [kept_mk_iff]; (first | apply keptIn_fold | apply keptIn_flags)) | split | intro _)

theorem rxTake_kept {cs : Keep} (l : Nat) (p : Packet) (s : State) (Hs : Kept cs s) : Kept cs (rxTake l p s) := by
  unfold rxTake
  try dsimp only
  with_reducible repeat' (first | assumption | apply State.setF_kept | dsimp only | refine kept_of_snd (by assumption) ?_ | refine kept_of_snd2 (by assumption) ?_ | refine kept_of_fst (by assumption) ?_ | (simp only [kept_mk_iff]; (first | apply keptIn_fold | apply keptIn_flags)) | split | intro _)

theorem rxFree_kept {cs : Keep} (l : Nat) (live : Bool) (p : Packet) (s : State) (Hs : Kept cs s) : Kept cs (rxFree l live p s) := by
  unfold rxFree
  try dsimp only
  with_reducible repeat' (first | assumption | apply sendNop_kept | apply State.setF_kept | dsimp only | refine kept_of_snd (by assumption) ?_ | refine kept_of_snd2 (by assumption) ?_ | refine kept_of_fst (by assumption) ?_ | (simp only [kept_mk_iff]; (first | apply keptIn_fold | apply keptIn_flags)) | split | intro _)

theorem sendCpl_kept {cs : Keep} (l : Nat) (h : PktHdr) (status : Nat) (data : List Byte) (pmask : Nat) (s : State) (Hs : Kept cs s) : Kept cs (sendCpl l h status data pmask s) := by
  unfold sendCpl
  try dsimp only
  with_reducible repeat' (first | assumption | apply enqueuePkt_kept | dsimp only | refine kept_of_snd (by assumption) ?_ | refine kept_of_snd2 (by assumption) ?_ | refine kept_of_fst (by assumption) ?_ | (simp only [kept_mk_iff]; (first | apply keptIn_fold | apply keptIn_flags)) | split | intro _)

theorem arrival_kept {cs : Keep} {l w : Nat} {data : List Byte} {s s' : State} {st : Nat} (e : arrival l w data s = .error (st, s')) (hs : Kept cs s) : Kept cs s' := by
  unfold arrival at e
  dsimp only at e
  repeat' (split at e)
  all_goals (try cases e)
  all_goals (repeat' (first | with_reducible assumption | with_reducible apply logErr_kept))

theorem await_kept {cs : Keep} (s : State) (Hs : Kept cs s) : Kept cs (await s) := by
  unfold await
  try dsimp only
  with_reducible repeat' (first | assumption | apply awaitIf_kept | dsimp only | refine kept_of_snd (by assumption) ?_ | refine kept_of_snd2 (by assumption) ?_ | refine kept_of_fst (by assumption) ?_ | (simp only [kept_mk_iff]; (first | apply keptIn_fold | apply keptIn_flags)) | split | intro _)

theorem rxTry_kept {cs : Keep} (l : Nat) (e : RxPkt) (k : Nat → Nat → PktHdr → State → State) (s : State) (Hk : ∀ x0 x1 x2 s, Kept cs s → Kept cs (k x0 x1 x2 s)) (Hs : Kept cs s) : Kept cs (rxTry l e k s).2 := by
  unfold rxTry
  try dsimp only
  with_reducible repeat' (first | assumption | apply Hk | apply sendCpl_kept | apply rxFree_kept | refine arrival_kept (by assumption) ?_ | dsimp only | refine kept_of_snd (by assumption) ?_ | refine kept_of_snd2 (by assumption) ?_ | refine kept_of_fst (by assumption) ?_ | (simp only [kept_mk_iff]; (first | apply keptIn_fold | apply keptIn_flags)) | split | intro _)

theorem arrive_kept {cs : Keep} (l : Nat) (opc : Nat) (w : Nat) (data : List Byte) (k : Nat → Nat → PktHdr → State → State) (s : State) (Hk : ∀ x0 x1 x2 s, Kept cs s → Kept cs (k x0 x1 x2 s)) (Hs : Kept cs s) : Kept cs (arrive l opc w data k s) := by
  unfold arrive
  try dsimp only
  with_reducible repeat' (first | assumption | apply Hk | apply rxTry_kept | apply rxTake_kept | apply State.setLink_kept | dsimp only | refine kept_of_snd (by assumption) ?_ | refine kept_of_snd2 (by assumption) ?_ | refine kept_of_fst (by assumption) ?_ | (simp only [kept_mk_iff]; (first | apply keptIn_fold | apply keptIn_flags)) | split | intro _)

theorem rxServe_kept {cs : Keep} (l : Nat) (v : Nat) (k : List Byte → Nat → Nat → PktHdr → State → State) (a0 : Nat) (a1 : State) (Hk : ∀ x0 x1 x2 x3 s, Kept cs s → Kept cs (k x0 x1 x2 x3 s)) (Ha1 : Kept cs a1) : Kept cs (rxServe l v k a0 a1) := by
  revert Ha1
  induction a0 generalizing a1 with
  | zero => intro Ha1; unfold rxServe; (try dsimp only at *); (with_reducible repeat' (first | assumption | apply Hk | apply rxTry_kept | apply State.setLink_kept | apply ih | dsimp only | refine kept_of_snd (by assumption) ?_ | refine kept_of_snd2 (by assumption) ?_ | refine kept_of_fst (by assumption) ?_ | (simp only [kept_mk_iff]; (first | apply keptIn_fold | apply keptIn_flags)) | split | intro _))
  | succ n ih => intro Ha1; unfold rxServe; (try dsimp only at *); (with_reducible repeat' (first | assumption | apply Hk | apply rxTry_kept | apply State.setLink_kept | apply ih | dsimp only | refine kept_of_snd (by assumption) ?_ | refine kept_of_snd2 (by assumption) ?_ | refine kept_of_fst (by assumption) ?_ | (simp only [kept_mk_iff]; (first | apply keptIn_fold | apply keptIn_flags)) | split | intro _))

theorem readTier_kept {cs : Keep} (l : Nat) (p : Nat) (since : Nat) (h : PktHdr) (s : State) (Hs : Kept cs s) : Kept cs (readTier l p since h s) := by
  unfold readTier
  try dsimp only
  with_reducible repeat' (first | assumption | apply await_kept | apply sendCpl_kept | apply memRead_kept | dsimp only | refine kept_of_snd (by assumption) ?_ | refine kept_of_snd2 (by assumption) ?_ | refine kept_of_fst (by assumption) ?_ | (simp only [kept_mk_iff]; (first | apply keptIn_fold | apply keptIn_flags)) | split | intro _)

theorem writeTier_kept {cs : Keep} (l : Nat) (p : Nat) (since : Nat) (h : PktHdr) (data : List Byte) (s : State) (Hs : Kept cs s) : Kept cs (writeTier l p since h data s) := by
  unfold writeTier
  try dsimp only
  with_reducible repeat' (first | assumption | apply await_kept | apply sendCpl_kept | apply memWrite_kept | dsimp only | refine kept_of_snd (by assumption) ?_ | refine kept_of_snd2 (by assumption) ?_ | refine kept_of_fst (by assumption) ?_ | (simp only [kept_mk_iff]; (first | apply keptIn_fold | apply keptIn_flags)) | split | intro _)

theorem atomicIn_kept {cs : Keep} (l : Nat) (p : Nat) (since : Nat) (h : PktHdr) (data : List Byte) (s : State) (Hs : Kept cs s) : Kept cs (atomicIn l p since h data s) := by
  unfold atomicIn
  try dsimp only
  with_reducible repeat' (first | assumption | apply await_kept | apply sendCpl_kept | apply memAtomic_kept | apply foldl_kept2 | apply foldl_kept | dsimp only | refine kept_of_snd (by assumption) ?_ | refine kept_of_snd2 (by assumption) ?_ | refine kept_of_fst (by assumption) ?_ | (simp only [kept_mk_iff]; (first | apply keptIn_fold | apply keptIn_flags)) | split | intro _)

theorem messageIn_kept {cs : Keep} (l : Nat) (p : Nat) (h : PktHdr) (data : List Byte) (s : State) (Hs : Kept cs s) : Kept cs (messageIn l p h data s) := by
  unfold messageIn
  try dsimp only
  with_reducible repeat' (first | assumption | apply await_kept | apply sendCpl_kept | apply memWrite_kept | apply State.setF_kept | dsimp only | refine kept_of_snd (by assumption) ?_ | refine kept_of_snd2 (by assumption) ?_ | refine kept_of_fst (by assumption) ?_ | (simp only [kept_mk_iff]; (first | apply keptIn_fold | apply keptIn_flags)) | split | intro _)

theorem inServe_kept {cs : Keep} (p : Nat) (a0 : Nat) (a1 : State) (Ha1 : Kept cs a1) : Kept cs (inServe p a0 a1) := by
  revert Ha1
  induction a0 generalizing a1 with
  | zero => intro Ha1; unfold inServe; (try dsimp only at *); (with_reducible repeat' (first | assumption | apply sendCpl_kept | apply decrement_kept | apply State.setSc_kept | apply ih | dsimp only | refine kept_of_snd (by assumption) ?_ | refine kept_of_snd2 (by assumption) ?_ | refine kept_of_fst (by assumption) ?_ | (simp only [kept_mk_iff]; (first | apply keptIn_fold | apply keptIn_flags)) | split | intro _))
  | succ n ih => intro Ha1; unfold inServe; (try dsimp only at *); (with_reducible repeat' (first | assumption | apply sendCpl_kept | apply decrement_kept | apply State.setSc_kept | apply ih | dsimp only | refine kept_of_snd (by assumption) ?_ | refine kept_of_snd2 (by assumption) ?_ | refine kept_of_fst (by assumption) ?_ | (simp only [kept_mk_iff]; (first | apply keptIn_fold | apply keptIn_flags)) | split | intro _))

theorem eventIn_kept {cs : Keep} (l : Nat) (p : Nat) (w : Nat) (h : PktHdr) (s : State) (Hs : Kept cs s) : Kept cs (eventIn l p w h s) := by
  unfold eventIn
  try dsimp only
  with_reducible repeat' (first | assumption | apply inServe_kept | apply await_kept | apply sendCpl_kept | apply State.setSc_kept | dsimp only | refine kept_of_snd (by assumption) ?_ | refine kept_of_snd2 (by assumption) ?_ | refine kept_of_fst (by assumption) ?_ | (simp only [kept_mk_iff]; (first | apply keptIn_fold | apply keptIn_flags)) | split | intro _)

theorem ringAppend_kept {cs : Keep} (pg : Nat) (a : Access) (tier : Nat) (base : Nat) (size : Nat) (tail : Nat) (len : Nat) (bs : List (Byte × Bool)) (s : State) (Hs : Kept cs s) : Kept cs (ringAppend pg a tier base size tail len bs s).2 := by
  unfold ringAppend
  try dsimp only
  with_reducible repeat' (first | assumption | apply memWrite_kept | dsimp only | refine kept_of_snd (by assumption) ?_ | refine kept_of_snd2 (by assumption) ?_ | refine kept_of_fst (by assumption) ?_ | (simp only [kept_mk_iff]; (first | apply keptIn_fold | apply keptIn_flags)) | split | intro _)

theorem tailMove_kept {cs : Keep} (l : Nat) (p : Nat) (tail : Nat) (h : PktHdr) (s : State) (Hs : Kept cs s) : Kept cs (tailMove l p tail h s) := by
  unfold tailMove
  try dsimp only
  with_reducible repeat' (first | assumption | apply sendCpl_kept | apply memWrite_kept | dsimp only | refine kept_of_snd (by assumption) ?_ | refine kept_of_snd2 (by assumption) ?_ | refine kept_of_fst (by assumption) ?_ | (simp only [kept_mk_iff]; (first | apply keptIn_fold | apply keptIn_flags)) | split | intro _)

theorem tstreamPut_kept {cs : Keep} (l : Nat) (p : Nat) (h : PktHdr) (data : List Byte) (d : List Byte) (s : State) (Hs : Kept cs s) : Kept cs (tstreamPut l p h data d s) := by
  unfold tstreamPut
  try dsimp only
  with_reducible repeat' (first | assumption | apply tailMove_kept | apply ringAppend_kept | apply await_kept | apply sendCpl_kept | dsimp only | refine kept_of_snd (by assumption) ?_ | refine kept_of_snd2 (by assumption) ?_ | refine kept_of_fst (by assumption) ?_ | (simp only [kept_mk_iff]; (first | apply keptIn_fold | apply keptIn_flags)) | split | intro _)

theorem tstreamIn_kept {cs : Keep} (l : Nat) (p : Nat) (since : Nat) (h : PktHdr) (data : List Byte) (s : State) (Hs : Kept cs s) : Kept cs (tstreamIn l p since h data s) := by
  unfold tstreamIn
  try dsimp only
  with_reducible repeat' (first | assumption | apply tstreamPut_kept | apply await_kept | apply sendCpl_kept | apply readPlain_kept | dsimp only | refine kept_of_snd (by assumption) ?_ | refine kept_of_snd2 (by assumption) ?_ | refine kept_of_fst (by assumption) ?_ | (simp only [kept_mk_iff]; (first | apply keptIn_fold | apply keptIn_flags)) | split | intro _)

theorem xctlDone_kept {cs : Keep} (l : Nat) (h : PktHdr) (data : List Byte) (s : State) (Hs : Kept cs s) : Kept cs (xctlDone l h data s) := by
  unfold xctlDone
  try dsimp only
  with_reducible repeat' (first | assumption | apply State.setLink_kept | apply memWrite_kept | apply State.setF_kept | dsimp only | refine kept_of_snd (by assumption) ?_ | refine kept_of_snd2 (by assumption) ?_ | refine kept_of_fst (by assumption) ?_ | (simp only [kept_mk_iff]; (first | apply keptIn_fold | apply keptIn_flags)) | split | intro _)

theorem rtmoExpiry_kept {cs : Keep} (t : Nat) (s : State) (Hs : Kept cs s) : Kept cs (rtmoExpiry t s) := by
  unfold rtmoExpiry
  try dsimp only
  with_reducible repeat' (first | assumption | apply pump_kept | apply failReq_kept | apply logErr_kept | dsimp only | refine kept_of_snd (by assumption) ?_ | refine kept_of_snd2 (by assumption) ?_ | refine kept_of_fst (by assumption) ?_ | (simp only [kept_mk_iff]; (first | apply keptIn_fold | apply keptIn_flags)) | split | intro _)

theorem cplDone_kept {cs : Keep} (r : FabReq) (h : PktHdr) (data : List Byte) (s : State) (Hs : Kept cs s) : Kept cs (cplDone r h data s) := by
  unfold cplDone
  try dsimp only
  with_reducible repeat' (first | assumption | apply xctlDone_kept | apply failWho_kept | apply planAck_kept | apply quarantine_kept | apply freeReq_kept | apply logErr_kept | dsimp only | refine kept_of_snd (by assumption) ?_ | refine kept_of_snd2 (by assumption) ?_ | refine kept_of_fst (by assumption) ?_ | (simp only [kept_mk_iff]; (first | apply keptIn_fold | apply keptIn_flags)) | split | intro _)

theorem cplStray_kept {cs : Keep} (l : Nat) (s : State) (Hs : Kept cs s) : Kept cs (cplStray l s) := by
  unfold cplStray
  try dsimp only
  with_reducible repeat' (first | assumption | apply State.addF_kept | dsimp only | refine kept_of_snd (by assumption) ?_ | refine kept_of_snd2 (by assumption) ?_ | refine kept_of_fst (by assumption) ?_ | (simp only [kept_mk_iff]; (first | apply keptIn_fold | apply keptIn_flags)) | split | intro _)

theorem cplTake_kept {cs : Keep} (l : Nat) (w : Nat) (data : List Byte) (s : State) (Hs : Kept cs s) : Kept cs (cplTake l w data s) := by
  unfold cplTake
  try dsimp only
  with_reducible repeat' (first | assumption | apply cplStray_kept | apply cplDone_kept | apply rtmoExpiry_kept | apply pump_kept | dsimp only | refine kept_of_snd (by assumption) ?_ | refine kept_of_snd2 (by assumption) ?_ | refine kept_of_fst (by assumption) ?_ | (simp only [kept_mk_iff]; (first | apply keptIn_fold | apply keptIn_flags)) | split | intro _)

theorem cplIn_kept {cs : Keep} (l : Nat) (w : Nat) (data : List Byte) (s : State) (Hs : Kept cs s) : Kept cs (cplIn l w data s) := by
  unfold cplIn
  try dsimp only
  with_reducible repeat' (first | assumption | apply cplTake_kept | apply rxFree_kept | apply rxTake_kept | dsimp only | refine kept_of_snd (by assumption) ?_ | refine kept_of_snd2 (by assumption) ?_ | refine kept_of_fst (by assumption) ?_ | (simp only [kept_mk_iff]; (first | apply keptIn_fold | apply keptIn_flags)) | split | intro _)

theorem quarEnd_kept {cs : Keep} (t : Nat) (s : State) (Hs : Kept cs s) : Kept cs (quarEnd t s) := by
  unfold quarEnd
  try dsimp only
  with_reducible repeat' (first | assumption | apply pump_kept | dsimp only | refine kept_of_snd (by assumption) ?_ | refine kept_of_snd2 (by assumption) ?_ | refine kept_of_fst (by assumption) ?_ | (simp only [kept_mk_iff]; (first | apply keptIn_fold | apply keptIn_flags)) | split | intro _)

theorem xctlSend_kept {cs : Keep} (l : Nat) (s : State) (Hs : Kept cs s) : Kept cs (xctlSend l s) := by
  unfold xctlSend
  try dsimp only
  with_reducible repeat' (first | assumption | apply offer_kept | apply State.setLink_kept | apply readPlain_kept | apply State.setF_kept | dsimp only | refine kept_of_snd (by assumption) ?_ | refine kept_of_snd2 (by assumption) ?_ | refine kept_of_fst (by assumption) ?_ | (simp only [kept_mk_iff]; (first | apply keptIn_fold | apply keptIn_flags)) | split | intro _)

theorem wrXctl_kept {cs : Keep} (m : Nat) (l : Nat) (v : Nat) (s : State) (Hs : Kept cs s) : Kept cs (wrXctl m l v s) := by
  unfold wrXctl
  try dsimp only
  with_reducible repeat' (first | assumption | apply xctlSend_kept | apply checkedWrite_kept | dsimp only | refine kept_of_snd (by assumption) ?_ | refine kept_of_snd2 (by assumption) ?_ | refine kept_of_fst (by assumption) ?_ | (simp only [kept_mk_iff]; (first | apply keptIn_fold | apply keptIn_flags)) | split | intro _)

theorem xctlRetry_kept {cs : Keep} (l : Nat) (s : State) (Hs : Kept cs s) : Kept cs (xctlRetry l s) := by
  unfold xctlRetry
  try dsimp only
  with_reducible repeat' (first | assumption | apply xctlSend_kept | apply xctlDone_kept | dsimp only | refine kept_of_snd (by assumption) ?_ | refine kept_of_snd2 (by assumption) ?_ | refine kept_of_fst (by assumption) ?_ | (simp only [kept_mk_iff]; (first | apply keptIn_fold | apply keptIn_flags)) | split | intro _)

theorem execAtomic_kept {cs : Keep} (l : Nat) (hdr : Nat) (data : List Byte) (errs : Errs) (s : State) (Hs : Kept cs s) : KeptOut cs (execAtomic l hdr data errs s) := by
  unfold execAtomic
  try dsimp only
  with_reducible repeat' (first | assumption | apply keptOut_next | apply atomicIn_kept | apply arrive_kept | apply runArrivalErr_kept | apply whenOk_kept | dsimp only | refine kept_of_snd (by assumption) ?_ | refine kept_of_snd2 (by assumption) ?_ | refine kept_of_fst (by assumption) ?_ | (simp only [kept_mk_iff]; (first | apply keptIn_fold | apply keptIn_flags)) | split | intro _)

theorem execMessage_kept {cs : Keep} (l : Nat) (hdr : Nat) (data : List Byte) (s : State) (Hs : Kept cs s) : KeptOut cs (execMessage l hdr data s) := by
  unfold execMessage
  try dsimp only
  with_reducible repeat' (first | assumption | apply keptOut_next | apply messageIn_kept | apply arrive_kept | apply runArrival_kept | apply whenOk_kept | dsimp only | refine kept_of_snd (by assumption) ?_ | refine kept_of_snd2 (by assumption) ?_ | refine kept_of_fst (by assumption) ?_ | (simp only [kept_mk_iff]; (first | apply keptIn_fold | apply keptIn_flags)) | split | intro _)

theorem execEvent_kept {cs : Keep} (l : Nat) (hdr : Nat) (data : List Byte) (s : State) (Hs : Kept cs s) : KeptOut cs (execEvent l hdr data s) := by
  unfold execEvent
  try dsimp only
  with_reducible repeat' (first | assumption | apply keptOut_next | apply eventIn_kept | apply arrive_kept | apply runArrival_kept | apply whenOk_kept | dsimp only | refine kept_of_snd (by assumption) ?_ | refine kept_of_snd2 (by assumption) ?_ | refine kept_of_fst (by assumption) ?_ | (simp only [kept_mk_iff]; (first | apply keptIn_fold | apply keptIn_flags)) | split | intro _)

theorem execTstream_kept {cs : Keep} (l : Nat) (hdr : Nat) (data : List Byte) (errs : Errs) (s : State) (Hs : Kept cs s) : KeptOut cs (execTstream l hdr data errs s) := by
  unfold execTstream
  try dsimp only
  with_reducible repeat' (first | assumption | apply keptOut_next | apply tstreamIn_kept | apply arrive_kept | apply runArrivalErr_kept | apply whenOk_kept | dsimp only | refine kept_of_snd (by assumption) ?_ | refine kept_of_snd2 (by assumption) ?_ | refine kept_of_fst (by assumption) ?_ | (simp only [kept_mk_iff]; (first | apply keptIn_fold | apply keptIn_flags)) | split | intro _)

theorem execCpl_kept {cs : Keep} (l : Nat) (hdr : Nat) (data : List Byte) (s : State) (Hs : Kept cs s) : KeptOut cs (execCpl l hdr data s) := by
  unfold execCpl
  try dsimp only
  with_reducible repeat' (first | assumption | apply keptOut_next | apply cplIn_kept | apply run_kept | apply whenOk_kept | dsimp only | refine kept_of_snd (by assumption) ?_ | refine kept_of_snd2 (by assumption) ?_ | refine kept_of_fst (by assumption) ?_ | (simp only [kept_mk_iff]; (first | apply keptIn_fold | apply keptIn_flags)) | split | intro _)

theorem execLnkRtmoExpiry_kept {cs : Keep} (t : Nat) (s : State) (Hs : Kept cs s) : KeptOut cs (execLnkRtmoExpiry t s) := by
  unfold execLnkRtmoExpiry
  try dsimp only
  with_reducible repeat' (first | assumption | apply keptOut_next | apply rtmoExpiry_kept | apply run_kept | apply whenOk_kept | dsimp only | refine kept_of_snd (by assumption) ?_ | refine kept_of_snd2 (by assumption) ?_ | refine kept_of_fst (by assumption) ?_ | (simp only [kept_mk_iff]; (first | apply keptIn_fold | apply keptIn_flags)) | split | intro _)

theorem execTagQuarantineEnd_kept {cs : Keep} (t : Nat) (s : State) (Hs : Kept cs s) : KeptOut cs (execTagQuarantineEnd t s) := by
  unfold execTagQuarantineEnd
  try dsimp only
  with_reducible repeat' (first | assumption | apply keptOut_next | apply quarEnd_kept | apply run_kept | apply whenOk_kept | dsimp only | refine kept_of_snd (by assumption) ?_ | refine kept_of_snd2 (by assumption) ?_ | refine kept_of_fst (by assumption) ?_ | (simp only [kept_mk_iff]; (first | apply keptIn_fold | apply keptIn_flags)) | split | intro _)

theorem execLnkXctlGo_kept {cs : Keep} (m : Nat) (l : Nat) (v : Nat) (s : State) (Hs : Kept cs s) : KeptOut cs (execLnkXctlGo m l v s) := by
  unfold execLnkXctlGo
  try dsimp only
  with_reducible repeat' (first | assumption | apply keptOut_next | apply wrXctl_kept | apply run_kept | apply whenOk_kept | dsimp only | refine kept_of_snd (by assumption) ?_ | refine kept_of_snd2 (by assumption) ?_ | refine kept_of_fst (by assumption) ?_ | (simp only [kept_mk_iff]; (first | apply keptIn_fold | apply keptIn_flags)) | split | intro _)

theorem askHand_kept {cs : Keep} (c : Nat) (h : HeldOp) (s : State) (Hs : Kept cs s) : Kept cs (askHand c h s) := by
  unfold askHand
  try dsimp only
  with_reducible repeat' (first | assumption | apply coreFaultLog_kept | apply poolAsk_kept | apply State.setCore_kept | dsimp only | refine kept_of_snd (by assumption) ?_ | refine kept_of_snd2 (by assumption) ?_ | refine kept_of_fst (by assumption) ?_ | (simp only [kept_mk_iff]; (first | apply keptIn_fold | apply keptIn_flags)) | split | intro _)

theorem coreTake_kept {cs : Keep} (p : Nat) (n : Nat) (c : Nat) (s : State) (Hs : Kept cs s) : Kept cs (coreTake p n c s) := by
  unfold coreTake
  try dsimp only
  with_reducible repeat' (first | assumption | apply askHand_kept | apply perf_kept | apply State.setCore_kept | dsimp only | refine kept_of_snd (by assumption) ?_ | refine kept_of_snd2 (by assumption) ?_ | refine kept_of_fst (by assumption) ?_ | (simp only [kept_mk_iff]; (first | apply keptIn_fold | apply keptIn_flags)) | split | intro _)

theorem migTake_kept {cs : Keep} (p : Nat) (n : Nat) (d : Nat) (s : State) (Hs : Kept cs s) : Kept cs (migTake p n d s) := by
  unfold migTake
  try dsimp only
  with_reducible repeat' (first | assumption | apply migFault_kept | apply State.setMop_kept | apply State.setSlot_kept | apply readPlain_kept | dsimp only | refine kept_of_snd (by assumption) ?_ | refine kept_of_snd2 (by assumption) ?_ | refine kept_of_fst (by assumption) ?_ | (simp only [kept_mk_iff]; (first | apply keptIn_fold | apply keptIn_flags)) | split | intro _)

theorem tokTake_kept {cs : Keep} (p : Nat) (n : Nat) (e : Nat) (s : State) (Hs : Kept cs s) : Kept cs (tokTake p n e s) := by
  unfold tokTake
  try dsimp only
  with_reducible repeat' (first | assumption | apply State.setEng_kept | dsimp only | refine kept_of_snd (by assumption) ?_ | refine kept_of_snd2 (by assumption) ?_ | refine kept_of_fst (by assumption) ?_ | (simp only [kept_mk_iff]; (first | apply keptIn_fold | apply keptIn_flags)) | split | intro _)

theorem hostSignal_kept {cs : Keep} (p : Nat) (n : Nat) (s : State) (Hs : Kept cs s) : Kept cs (hostSignal p n s) := by
  unfold hostSignal
  try dsimp only
  with_reducible repeat' (first | assumption | apply emitRec_kept | dsimp only | refine kept_of_snd (by assumption) ?_ | refine kept_of_snd2 (by assumption) ?_ | refine kept_of_fst (by assumption) ?_ | (simp only [kept_mk_iff]; (first | apply keptIn_fold | apply keptIn_flags)) | split | intro _)

theorem ckpTake_kept {cs : Keep} (p : Nat) (n : Nat) (s : State) (Hs : Kept cs s) : Kept cs (ckpTake p n s) := by
  unfold ckpTake
  try dsimp only
  with_reducible repeat' (first | assumption | apply State.setF_kept | dsimp only | refine kept_of_snd (by assumption) ?_ | refine kept_of_snd2 (by assumption) ?_ | refine kept_of_fst (by assumption) ?_ | (simp only [kept_mk_iff]; (first | apply keptIn_fold | apply keptIn_flags)) | split | intro _)

theorem deliver_kept {cs : Keep} (p : Nat) (n : Nat) (e : Exec) (s : State) (Hs : Kept cs s) : Kept cs (deliver p n e s) := by
  unfold deliver
  try dsimp only
  with_reducible repeat' (first | assumption | apply ckpTake_kept | apply hostSignal_kept | apply tokTake_kept | apply migTake_kept | apply coreTake_kept | apply startDelay_kept | dsimp only | refine kept_of_snd (by assumption) ?_ | refine kept_of_snd2 (by assumption) ?_ | refine kept_of_fst (by assumption) ?_ | (simp only [kept_mk_iff]; (first | apply keptIn_fold | apply keptIn_flags)) | split | intro _)

theorem grantMark_kept {cs : Keep} (p : Nat) (n : Nat) (o : OpSlot) (e : Exec) (s : State) (Hs : Kept cs s) : Kept cs (grantMark p n o e s) := by
  unfold grantMark
  try dsimp only
  with_reducible repeat' (first | assumption | apply State.setFlow_kept | apply State.setSlot_kept | apply State.setSc_kept | dsimp only | refine kept_of_snd (by assumption) ?_ | refine kept_of_snd2 (by assumption) ?_ | refine kept_of_fst (by assumption) ?_ | (simp only [kept_mk_iff]; (first | apply keptIn_fold | apply keptIn_flags)) | split | intro _)

theorem grant_kept {cs : Keep} (p : Nat) (s : State) (Hs : Kept cs s) : Kept cs (grant p s) := by
  unfold grant
  try dsimp only
  with_reducible repeat' (first | assumption | apply grantMark_kept | apply deliver_kept | apply trace_kept | apply perf_kept | apply State.add64_kept | dsimp only | refine kept_of_snd (by assumption) ?_ | refine kept_of_snd2 (by assumption) ?_ | refine kept_of_fst (by assumption) ?_ | (simp only [kept_mk_iff]; (first | apply keptIn_fold | apply keptIn_flags)) | split | intro _)

theorem applyMap_kept {cs : Keep} (p : Nat) (e : List Byte) (r : Nat × State) (Hr : Kept cs r.2) : Kept cs (applyMap p e r).2 := by
  unfold applyMap
  try dsimp only
  with_reducible repeat' (first | assumption | apply State.setFlow_kept | dsimp only | refine kept_of_snd (by assumption) ?_ | refine kept_of_snd2 (by assumption) ?_ | refine kept_of_fst (by assumption) ?_ | (simp only [kept_mk_iff]; (first | apply keptIn_fold | apply keptIn_flags)) | split | intro _)

theorem epochSeenBy_kept {cs : Keep} (k : Nat) (s : State) (Hs : Kept cs s) : Kept cs (epochSeenBy k s) := by
  unfold epochSeenBy
  try dsimp only
  with_reducible repeat' (first | assumption | apply State.setClu_kept | dsimp only | refine kept_of_snd (by assumption) ?_ | refine kept_of_snd2 (by assumption) ?_ | refine kept_of_fst (by assumption) ?_ | (simp only [kept_mk_iff]; (first | apply keptIn_fold | apply keptIn_flags)) | split | intro _)

theorem epochGo_kept {cs : Keep} (p : Nat) (k : Nat) (r : Nat × State) (Hr : Kept cs r.2) : Kept cs (epochGo p k r).2 := by
  unfold epochGo
  try dsimp only
  with_reducible repeat' (first | assumption | apply epochSeenBy_kept | apply lpfStart_kept | dsimp only | refine kept_of_snd (by assumption) ?_ | refine kept_of_snd2 (by assumption) ?_ | refine kept_of_fst (by assumption) ?_ | (simp only [kept_mk_iff]; (first | apply keptIn_fold | apply keptIn_flags)) | split | intro _)

theorem epochDone_kept {cs : Keep} (p : Nat) (s : State) (Hs : Kept cs s) : Kept cs (epochDone p s) := by
  unfold epochDone
  try dsimp only
  with_reducible repeat' (first | assumption | apply epochSeenBy_kept | apply forEach_kept | dsimp only | refine kept_of_snd (by assumption) ?_ | refine kept_of_snd2 (by assumption) ?_ | refine kept_of_fst (by assumption) ?_ | (simp only [kept_mk_iff]; (first | apply keptIn_fold | apply keptIn_flags)) | split | intro _)

theorem epochEnd_kept {cs : Keep} (p : Nat) (n : Nat) (code : Nat) (s : State) (Hs : Kept cs s) : Kept cs (epochEnd p n code s) := by
  unfold epochEnd
  try dsimp only
  with_reducible repeat' (first | assumption | apply epochDone_kept | apply execFault_kept | apply completed_kept | dsimp only | refine kept_of_snd (by assumption) ?_ | refine kept_of_snd2 (by assumption) ?_ | refine kept_of_fst (by assumption) ?_ | (simp only [kept_mk_iff]; (first | apply keptIn_fold | apply keptIn_flags)) | split | intro _)

theorem mapRead_kept {cs : Keep} (p : Nat) (o : OpSlot) (s : State) (Hs : Kept cs s) : Kept cs (mapRead p o s).2.2.2 := by
  unfold mapRead
  try dsimp only
  with_reducible repeat' (first | assumption | apply bulkRead_kept | dsimp only | refine kept_of_snd (by assumption) ?_ | refine kept_of_snd2 (by assumption) ?_ | refine kept_of_fst (by assumption) ?_ | (simp only [kept_mk_iff]; (first | apply keptIn_fold | apply keptIn_flags)) | split | intro _)

theorem epochApply_kept {cs : Keep} (p : Nat) (s : State) (Hs : Kept cs s) : Kept cs (epochApply p s) := by
  unfold epochApply
  try dsimp only
  with_reducible repeat' (first | assumption | apply mapRead_kept | apply epochEnd_kept | apply epochGo_kept | apply applyMap_kept | apply opFault_kept | apply logErr_kept | apply forUp_kept | apply forUp_kept2 | dsimp only | refine kept_of_snd (by assumption) ?_ | refine kept_of_snd2 (by assumption) ?_ | refine kept_of_fst (by assumption) ?_ | (simp only [kept_mk_iff]; (first | apply keptIn_fold | apply keptIn_flags)) | split | intro _)

theorem planBuf_kept {cs : Keep} (c : Nat) (s : State) (Hs : Kept cs s) : Kept cs (planBuf c s).2 := by
  unfold planBuf
  try dsimp only
  with_reducible repeat' (first | assumption | apply State.setTq_kept | apply poolAsk_kept | dsimp only | refine kept_of_snd (by assumption) ?_ | refine kept_of_snd2 (by assumption) ?_ | refine kept_of_fst (by assumption) ?_ | (simp only [kept_mk_iff]; (first | apply keptIn_fold | apply keptIn_flags)) | split | intro _)

theorem planRead_kept {cs : Keep} (c : Nat) (e : PlanEnt) (ofs : Nat) (m : Nat) (s : State) (Hs : Kept cs s) : Kept cs (planRead c e ofs m s).2.2 := by
  unfold planRead
  try dsimp only
  with_reducible repeat' (first | assumption | apply memRead_kept | dsimp only | refine kept_of_snd (by assumption) ?_ | refine kept_of_snd2 (by assumption) ?_ | refine kept_of_fst (by assumption) ?_ | (simp only [kept_mk_iff]; (first | apply keptIn_fold | apply keptIn_flags)) | split | intro _)

theorem planClus_kept {cs : Keep} (p : Nat) (e : PlanEnt) (ofs : Nat) (d : Marked) (a0 : List Nat) (a1 : State) (Ha1 : Kept cs a1) : Kept cs (planClus p e ofs d a0 a1).2 := by
  revert Ha1
  induction a0 generalizing a1 with
  | nil => intro Ha1; unfold planClus; (try dsimp only at *); (with_reducible repeat' (first | assumption | apply cluWrite_kept | apply ih | dsimp only | refine kept_of_snd (by assumption) ?_ | refine kept_of_snd2 (by assumption) ?_ | refine kept_of_fst (by assumption) ?_ | (simp only [kept_mk_iff]; (first | apply keptIn_fold | apply keptIn_flags)) | split | intro _))
  | cons x xs ih => intro Ha1; unfold planClus; (try dsimp only at *); (with_reducible repeat' (first | assumption | apply cluWrite_kept | apply ih | dsimp only | refine kept_of_snd (by assumption) ?_ | refine kept_of_snd2 (by assumption) ?_ | refine kept_of_fst (by assumption) ?_ | (simp only [kept_mk_iff]; (first | apply keptIn_fold | apply keptIn_flags)) | split | intro _))

theorem planCore_kept {cs : Keep} (p : Nat) (e : PlanEnt) (ofs : Nat) (d : Marked) (s : State) (Hs : Kept cs s) : Kept cs (planCore p e ofs d s).2 := by
  unfold planCore
  try dsimp only
  with_reducible repeat' (first | assumption | apply staticPut_kept | apply poolGive_kept | apply poolAsk_kept | apply State.setCore_kept | dsimp only | refine kept_of_snd (by assumption) ?_ | refine kept_of_snd2 (by assumption) ?_ | refine kept_of_fst (by assumption) ?_ | (simp only [kept_mk_iff]; (first | apply keptIn_fold | apply keptIn_flags)) | split | intro _)

theorem planRemote_kept {cs : Keep} (c : Nat) (p : Nat) (n : Nat) (e : PlanEnt) (ofs : Nat) (d : Marked) (s : State) (Hs : Kept cs s) : Kept cs (planRemote c p n e ofs d s).2 := by
  unfold planRemote
  try dsimp only
  with_reducible repeat' (first | assumption | apply issueReq_kept | apply State.setCore_kept | dsimp only | refine kept_of_snd (by assumption) ?_ | refine kept_of_snd2 (by assumption) ?_ | refine kept_of_fst (by assumption) ?_ | (simp only [kept_mk_iff]; (first | apply keptIn_fold | apply keptIn_flags)) | split | intro _)

theorem planPut_kept {cs : Keep} (c : Nat) (p : Nat) (n : Nat) (e : PlanEnt) (ofs : Nat) (d : Marked) (s : State) (Hs : Kept cs s) : Kept cs (planPut c p n e ofs d s).2 := by
  unfold planPut
  try dsimp only
  with_reducible repeat' (first | assumption | apply planRemote_kept | apply planCore_kept | apply planClus_kept | apply memWrite_kept | apply perf_kept | dsimp only | refine kept_of_snd (by assumption) ?_ | refine kept_of_snd2 (by assumption) ?_ | refine kept_of_fst (by assumption) ?_ | (simp only [kept_mk_iff]; (first | apply keptIn_fold | apply keptIn_flags)) | split | intro _)

theorem planPiece_kept {cs : Keep} (c : Nat) (p : Nat) (n : Nat) (e : PlanEnt) (ofs : Nat) (m : Nat) (s : State) (Hs : Kept cs s) : Kept cs (planPiece c p n e ofs m s).2 := by
  unfold planPiece
  try dsimp only
  with_reducible repeat' (first | assumption | apply planPut_kept | apply planRead_kept | apply planBuf_kept | apply perf_kept | dsimp only | refine kept_of_snd (by assumption) ?_ | refine kept_of_snd2 (by assumption) ?_ | refine kept_of_fst (by assumption) ?_ | (simp only [kept_mk_iff]; (first | apply keptIn_fold | apply keptIn_flags)) | split | intro _)

theorem planWait_kept {cs : Keep} (c : Nat) (t : Nat) (h : HeldOp) (tag : Nat) (s : State) (Hs : Kept cs s) : Kept cs (planWait c t h tag s) := by
  unfold planWait
  try dsimp only
  with_reducible repeat' (first | assumption | apply coreFaultLog_kept | apply State.setCore_kept | dsimp only | refine kept_of_snd (by assumption) ?_ | refine kept_of_snd2 (by assumption) ?_ | refine kept_of_fst (by assumption) ?_ | (simp only [kept_mk_iff]; (first | apply keptIn_fold | apply keptIn_flags)) | split | intro _)

theorem planEnd_kept {cs : Keep} (c : Nat) (h : HeldOp) (s : State) (Hs : Kept cs s) : Kept cs (planEnd c h s) := by
  unfold planEnd
  try dsimp only
  with_reducible repeat' (first | assumption | apply releaseWin_kept | apply leaveFetch_kept | apply completed_kept | apply State.setCore_kept | dsimp only | refine kept_of_snd (by assumption) ?_ | refine kept_of_snd2 (by assumption) ?_ | refine kept_of_fst (by assumption) ?_ | (simp only [kept_mk_iff]; (first | apply keptIn_fold | apply keptIn_flags)) | split | intro _)

theorem planFetch_kept {cs : Keep} (c : Nat) (o : OpSlot) (h : HeldOp) (s : State) (Hs : Kept cs s) : Kept cs (planFetch c o h s).2 := by
  unfold planFetch
  try dsimp only
  with_reducible repeat' (first | assumption | apply poisonFault_kept | apply coreFaultLog_kept | apply coreFault_kept | apply readPlain_kept | apply State.setCore_kept | dsimp only | refine kept_of_snd (by assumption) ?_ | refine kept_of_snd2 (by assumption) ?_ | refine kept_of_fst (by assumption) ?_ | (simp only [kept_mk_iff]; (first | apply keptIn_fold | apply keptIn_flags)) | split | intro _)

theorem planFrom_kept {cs : Keep} (c : Nat) (o : OpSlot) (a0 : Nat) (a1 : State) (Ha1 : Kept cs a1) : Kept cs (planFrom c o a0 a1) := by
  revert Ha1
  induction a0 generalizing a1 with
  | zero => intro Ha1; unfold planFrom; (try dsimp only at *); (with_reducible repeat' (first | assumption | apply planFetch_kept | apply planEnd_kept | apply planWait_kept | apply planPiece_kept | apply coreFaultLog_kept | apply coreFault_kept | apply State.setCore_kept | apply ih | dsimp only | refine kept_of_snd (by assumption) ?_ | refine kept_of_snd2 (by assumption) ?_ | refine kept_of_fst (by assumption) ?_ | (simp only [kept_mk_iff]; (first | apply keptIn_fold | apply keptIn_flags)) | split | intro _))
  | succ n ih => intro Ha1; unfold planFrom; (try dsimp only at *); (with_reducible repeat' (first | assumption | apply planFetch_kept | apply planEnd_kept | apply planWait_kept | apply planPiece_kept | apply coreFaultLog_kept | apply coreFault_kept | apply State.setCore_kept | apply ih | dsimp only | refine kept_of_snd (by assumption) ?_ | refine kept_of_snd2 (by assumption) ?_ | refine kept_of_fst (by assumption) ?_ | (simp only [kept_mk_iff]; (first | apply keptIn_fold | apply keptIn_flags)) | split | intro _))

theorem plan_kept {cs : Keep} (c : Nat) (cls : Nat) (s : State) (Hs : Kept cs s) : Kept cs (plan c cls s) := by
  unfold plan
  try dsimp only
  with_reducible repeat' (first | assumption | apply planFrom_kept | dsimp only | refine kept_of_snd (by assumption) ?_ | refine kept_of_snd2 (by assumption) ?_ | refine kept_of_fst (by assumption) ?_ | (simp only [kept_mk_iff]; (first | apply keptIn_fold | apply keptIn_flags)) | split | intro _)

theorem execGrant_kept {cs : Keep} (p : Nat) (errs : Errs) (s : State) (Hs : Kept cs s) : KeptOut cs (execGrant p errs s) := by
  unfold execGrant
  try dsimp only
  with_reducible repeat' (first | assumption | apply keptOut_next | apply grant_kept | apply runErr_kept | apply whenOk_kept | dsimp only | refine kept_of_snd (by assumption) ?_ | refine kept_of_snd2 (by assumption) ?_ | refine kept_of_fst (by assumption) ?_ | (simp only [kept_mk_iff]; (first | apply keptIn_fold | apply keptIn_flags)) | split | intro _)

theorem execEpochApply_kept {cs : Keep} (p : Nat) (errs : Errs) (s : State) (Hs : Kept cs s) : KeptOut cs (execEpochApply p errs s) := by
  unfold execEpochApply
  try dsimp only
  with_reducible repeat' (first | assumption | apply keptOut_next | apply epochApply_kept | apply runErr_kept | apply whenOk_kept | dsimp only | refine kept_of_snd (by assumption) ?_ | refine kept_of_snd2 (by assumption) ?_ | refine kept_of_fst (by assumption) ?_ | (simp only [kept_mk_iff]; (first | apply keptIn_fold | apply keptIn_flags)) | split | intro _)

theorem execMove_kept {cs : Keep} (c : Nat) (errs : Errs) (s : State) (Hs : Kept cs s) : KeptOut cs (execMove c errs s) := by
  unfold execMove
  try dsimp only
  with_reducible repeat' (first | assumption | apply keptOut_next | apply plan_kept | apply runErr_kept | apply whenOk_kept | dsimp only | refine kept_of_snd (by assumption) ?_ | refine kept_of_snd2 (by assumption) ?_ | refine kept_of_fst (by assumption) ?_ | (simp only [kept_mk_iff]; (first | apply keptIn_fold | apply keptIn_flags)) | split | intro _)

theorem execReshard_kept {cs : Keep} (c : Nat) (errs : Errs) (s : State) (Hs : Kept cs s) : KeptOut cs (execReshard c errs s) := by
  unfold execReshard
  try dsimp only
  with_reducible repeat' (first | assumption | apply keptOut_next | apply plan_kept | apply runErr_kept | apply whenOk_kept | dsimp only | refine kept_of_snd (by assumption) ?_ | refine kept_of_snd2 (by assumption) ?_ | refine kept_of_fst (by assumption) ?_ | (simp only [kept_mk_iff]; (first | apply keptIn_fold | apply keptIn_flags)) | split | intro _)

end Sys2Proof.Machine
end

