-- ==== Sys2Proof/Laws/KeptCkp.lean ====
section
/-! SUPPORT.  What the operations of the checkpoint engines keep: the queue of waiting
commands, and the canonical form of the registers and the stores.  One lemma per operation. -/

set_option linter.all false

namespace Sys2Proof.Machine

theorem State.setRun_kept {cs : Keep} (s : State) (r : Option CkpRun) (Hs : Kept cs s) : Kept cs (State.setRun s r) := by
  unfold State.setRun
  try dsimp only
  with_reducible repeat' (first | assumption | dsimp only | refine kept_of_snd (by assumption) ?_ | refine kept_of_snd2 (by assumption) ?_ | refine kept_of_fst (by assumption) ?_ | (simp only [kept_mk_iff]; (first | apply keptIn_fold | apply keptIn_flags)) | split | intro _)

theorem State.setMember_kept {cs : Keep} (s : State) (p : Nat) (v : Option CutMember) (Hs : Kept cs s) : Kept cs (State.setMember s p v) := by
  unfold State.setMember
  try dsimp only
  with_reducible repeat' (first | assumption | dsimp only | refine kept_of_snd (by assumption) ?_ | refine kept_of_snd2 (by assumption) ?_ | refine kept_of_fst (by assumption) ?_ | (simp only [kept_mk_iff]; (first | apply keptIn_fold | apply keptIn_flags)) | split | intro _)

theorem setPause_kept {cs : Keep} (p : Nat) (st : Nat) (s : State) (Hs : Kept cs s) : Kept cs (setPause p st s) := by
  unfold setPause
  try dsimp only
  with_reducible repeat' (first | assumption | apply State.setF_kept | dsimp only | refine kept_of_snd (by assumption) ?_ | refine kept_of_snd2 (by assumption) ?_ | refine kept_of_fst (by assumption) ?_ | (simp only [kept_mk_iff]; (first | apply keptIn_fold | apply keptIn_flags)) | split | intro _)

theorem ckpSts_kept {cs : Keep} (op : Nat) (p : Nat) (code : Nat) (s : State) (Hs : Kept cs s) : Kept cs (ckpSts op p code s) := by
  unfold ckpSts
  try dsimp only
  with_reducible repeat' (first | assumption | apply perfOwn_kept | apply State.setF_kept | dsimp only | refine kept_of_snd (by assumption) ?_ | refine kept_of_snd2 (by assumption) ?_ | refine kept_of_fst (by assumption) ?_ | (simp only [kept_mk_iff]; (first | apply keptIn_fold | apply keptIn_flags)) | split | intro _)

theorem ckpEnd_kept {cs : Keep} (r : CkpRun) (code : Nat) (s : State) (Hs : Kept cs s) : Kept cs (ckpEnd r code s) := by
  unfold ckpEnd
  try dsimp only
  with_reducible repeat' (first | assumption | apply ckpSts_kept | apply State.setRun_kept | apply State.setF_kept | dsimp only | refine kept_of_snd (by assumption) ?_ | refine kept_of_snd2 (by assumption) ?_ | refine kept_of_fst (by assumption) ?_ | (simp only [kept_mk_iff]; (first | apply keptIn_fold | apply keptIn_flags)) | split | intro _)

theorem setPcut_kept {cs : Keep} (p : Nat) (v : Nat) (s : State) (Hs : Kept cs s) : Kept cs (setPcut p v s) := by
  unfold setPcut
  try dsimp only
  with_reducible repeat' (first | assumption | apply State.setW64_kept | dsimp only | refine kept_of_snd (by assumption) ?_ | refine kept_of_snd2 (by assumption) ?_ | refine kept_of_fst (by assumption) ?_ | (simp only [kept_mk_iff]; (first | apply keptIn_fold | apply keptIn_flags)) | split | intro _)

theorem cutTo_kept {cs : Keep} (p : Nat) (lid : Nat) (kind : Nat) (cutId : Nat) (s : State) (Hs : Kept cs s) : Kept cs (cutTo p lid kind cutId s).2 := by
  unfold cutTo
  try dsimp only
  with_reducible repeat' (first | assumption | apply enqueuePkt_kept | dsimp only | refine kept_of_snd (by assumption) ?_ | refine kept_of_snd2 (by assumption) ?_ | refine kept_of_fst (by assumption) ?_ | (simp only [kept_mk_iff]; (first | apply keptIn_fold | apply keptIn_flags)) | split | intro _)

theorem cutAll_kept {cs : Keep} (p : Nat) (kind : Nat) (cutId : Nat) (a0 : List Nat) (a1 : State) (Ha1 : Kept cs a1) : Kept cs (cutAll p kind cutId a0 a1).2 := by
  revert Ha1
  induction a0 generalizing a1 with
  | nil => intro Ha1; unfold cutAll; (try dsimp only at *); (with_reducible repeat' (first | assumption | apply cutTo_kept | apply ih | dsimp only | refine kept_of_snd (by assumption) ?_ | refine kept_of_snd2 (by assumption) ?_ | refine kept_of_fst (by assumption) ?_ | (simp only [kept_mk_iff]; (first | apply keptIn_fold | apply keptIn_flags)) | split | intro _))
  | cons x xs ih => intro Ha1; unfold cutAll; (try dsimp only at *); (with_reducible repeat' (first | assumption | apply cutTo_kept | apply ih | dsimp only | refine kept_of_snd (by assumption) ?_ | refine kept_of_snd2 (by assumption) ?_ | refine kept_of_fst (by assumption) ?_ | (simp only [kept_mk_iff]; (first | apply keptIn_fold | apply keptIn_flags)) | split | intro _))

theorem cutReply_kept {cs : Keep} (m : CutMember) (kind : Nat) (cutId : Nat) (code : Nat) (s : State) (Hs : Kept cs s) : Kept cs (cutReply m kind cutId code s) := by
  unfold cutReply
  try dsimp only
  with_reducible repeat' (first | assumption | apply enqueuePkt_kept | dsimp only | refine kept_of_snd (by assumption) ?_ | refine kept_of_snd2 (by assumption) ?_ | refine kept_of_fst (by assumption) ?_ | (simp only [kept_mk_iff]; (first | apply keptIn_fold | apply keptIn_flags)) | split | intro _)

theorem resumePart_kept {cs : Keep} (p : Nat) (s : State) (Hs : Kept cs s) : Kept cs (resumePart p s) := by
  unfold resumePart
  try dsimp only
  with_reducible repeat' (first | assumption | apply setPause_kept | apply State.setMember_kept | apply State.setSc_kept | apply State.setF_kept | dsimp only | refine kept_of_snd (by assumption) ?_ | refine kept_of_snd2 (by assumption) ?_ | refine kept_of_fst (by assumption) ?_ | (simp only [kept_mk_iff]; (first | apply keptIn_fold | apply keptIn_flags)) | split | intro _)

theorem unpause_kept {cs : Keep} (p : Nat) (s : State) (Hs : Kept cs s) : Kept cs (unpause p s) := by
  unfold unpause
  try dsimp only
  with_reducible repeat' (first | assumption | apply setPause_kept | apply State.setMember_kept | apply State.setF_kept | dsimp only | refine kept_of_snd (by assumption) ?_ | refine kept_of_snd2 (by assumption) ?_ | refine kept_of_fst (by assumption) ?_ | (simp only [kept_mk_iff]; (first | apply keptIn_fold | apply keptIn_flags)) | split | intro _)

theorem startPause_kept {cs : Keep} (p : Nat) (dom : Bool) (s : State) (Hs : Kept cs s) : Kept cs (startPause p dom s) := by
  unfold startPause
  try dsimp only
  with_reducible repeat' (first | assumption | apply setPause_kept | apply State.setF_kept | dsimp only | refine kept_of_snd (by assumption) ?_ | refine kept_of_snd2 (by assumption) ?_ | refine kept_of_fst (by assumption) ?_ | (simp only [kept_mk_iff]; (first | apply keptIn_fold | apply keptIn_flags)) | split | intro _)

theorem putRegs_kept {cs : Keep} (pg : Nat) (rs : List RegSnap) (s : State) (Hs : Kept cs s) : Kept cs (putRegs pg rs s) := by
  unfold putRegs
  try dsimp only
  with_reducible repeat' (first | assumption | apply State.setF_kept | apply forEach_kept | dsimp only | refine kept_of_snd (by assumption) ?_ | refine kept_of_snd2 (by assumption) ?_ | refine kept_of_fst (by assumption) ?_ | (simp only [kept_mk_iff]; (first | apply keptIn_fold | apply keptIn_flags)) | split | intro _)

theorem zeroRegs_kept {cs : Keep} (pg : Nat) (rs : List RegSnap) (s : State) (Hs : Kept cs s) : Kept cs (zeroRegs pg rs s) := by
  unfold zeroRegs
  try dsimp only
  with_reducible repeat' (first | assumption | apply State.setF_kept | apply forEach_kept | dsimp only | refine kept_of_snd (by assumption) ?_ | refine kept_of_snd2 (by assumption) ?_ | refine kept_of_fst (by assumption) ?_ | (simp only [kept_mk_iff]; (first | apply keptIn_fold | apply keptIn_flags)) | split | intro _)

theorem readExcl_kept {cs : Keep} (r : CkpRun) (s : State) (Hs : Kept cs s) : Kept cs (readExcl r s).2.2 := by
  unfold readExcl
  try dsimp only
  with_reducible repeat' (first | assumption | apply bulkRead_kept | dsimp only | refine kept_of_snd (by assumption) ?_ | refine kept_of_snd2 (by assumption) ?_ | refine kept_of_fst (by assumption) ?_ | (simp only [kept_mk_iff]; (first | apply keptIn_fold | apply keptIn_flags)) | split | intro _)

theorem capCheck_kept {cs : Keep} (r : CkpRun) (s : State) (Hs : Kept cs s) : Kept cs (capCheck r s).2.2 := by
  unfold capCheck
  try dsimp only
  with_reducible repeat' (first | assumption | apply readExcl_kept | apply State.setW64_kept | dsimp only | refine kept_of_snd (by assumption) ?_ | refine kept_of_snd2 (by assumption) ?_ | refine kept_of_fst (by assumption) ?_ | (simp only [kept_mk_iff]; (first | apply keptIn_fold | apply keptIn_flags)) | split | intro _)

theorem domAbort_kept {cs : Keep} (r : CkpRun) (code : Nat) (s : State) (Hs : Kept cs s) : Kept cs (domAbort r code s) := by
  unfold domAbort
  try dsimp only
  with_reducible repeat' (first | assumption | apply unpause_kept | apply cutAll_kept | apply ckpEnd_kept | apply setPause_kept | apply logErr_kept | dsimp only | refine kept_of_snd (by assumption) ?_ | refine kept_of_snd2 (by assumption) ?_ | refine kept_of_fst (by assumption) ?_ | (simp only [kept_mk_iff]; (first | apply keptIn_fold | apply keptIn_flags)) | split | intro _)

theorem capFail_kept {cs : Keep} (r : CkpRun) (code : Nat) (s : State) (Hs : Kept cs s) : Kept cs (capFail r code s) := by
  unfold capFail
  try dsimp only
  with_reducible repeat' (first | assumption | apply domAbort_kept | apply resumePart_kept | apply cutReply_kept | apply ckpEnd_kept | apply setPause_kept | apply State.setMember_kept | apply logErr_kept | dsimp only | refine kept_of_snd (by assumption) ?_ | refine kept_of_snd2 (by assumption) ?_ | refine kept_of_fst (by assumption) ?_ | (simp only [kept_mk_iff]; (first | apply keptIn_fold | apply keptIn_flags)) | split | intro _)

theorem capHeader_kept {cs : Keep} (r : CkpRun) (s : State) (Hs : Kept cs s) : Kept cs (capHeader r s).2 := by
  unfold capHeader
  try dsimp only
  with_reducible repeat' (first | assumption | apply setPause_kept | apply State.setRun_kept | apply bulkWrite_kept | apply State.drawn_kept | dsimp only | refine kept_of_snd (by assumption) ?_ | refine kept_of_snd2 (by assumption) ?_ | refine kept_of_fst (by assumption) ?_ | (simp only [kept_mk_iff]; (first | apply keptIn_fold | apply keptIn_flags)) | split | intro _)

theorem capBegin_kept {cs : Keep} (r : CkpRun) (s : State) (Hs : Kept cs s) : Kept cs (capBegin r s) := by
  unfold capBegin
  try dsimp only
  with_reducible repeat' (first | assumption | apply capHeader_kept | apply capFail_kept | dsimp only | refine kept_of_snd (by assumption) ?_ | refine kept_of_snd2 (by assumption) ?_ | refine kept_of_fst (by assumption) ?_ | (simp only [kept_mk_iff]; (first | apply keptIn_fold | apply keptIn_flags)) | split | intro _)

theorem capStart_kept {cs : Keep} (r : CkpRun) (s : State) (Hs : Kept cs s) : Kept cs (capStart r s) := by
  unfold capStart
  try dsimp only
  with_reducible repeat' (first | assumption | apply capBegin_kept | apply capFail_kept | apply capCheck_kept | apply State.setRun_kept | apply orWait_kept | dsimp only | refine kept_of_snd (by assumption) ?_ | refine kept_of_snd2 (by assumption) ?_ | refine kept_of_fst (by assumption) ?_ | (simp only [kept_mk_iff]; (first | apply keptIn_fold | apply keptIn_flags)) | split | intro _)

theorem domDone_kept {cs : Keep} (r : CkpRun) (s : State) (Hs : Kept cs s) : Kept cs (domDone r s) := by
  unfold domDone
  try dsimp only
  with_reducible repeat' (first | assumption | apply resumePart_kept | apply cutAll_kept | apply ckpEnd_kept | dsimp only | refine kept_of_snd (by assumption) ?_ | refine kept_of_snd2 (by assumption) ?_ | refine kept_of_fst (by assumption) ?_ | (simp only [kept_mk_iff]; (first | apply keptIn_fold | apply keptIn_flags)) | split | intro _)

theorem domCut_kept {cs : Keep} (r : CkpRun) (s : State) (Hs : Kept cs s) : Kept cs (domCut r s) := by
  unfold domCut
  try dsimp only
  with_reducible repeat' (first | assumption | apply capStart_kept | apply domAbort_kept | apply cutAll_kept | apply State.setRun_kept | dsimp only | refine kept_of_snd (by assumption) ?_ | refine kept_of_snd2 (by assumption) ?_ | refine kept_of_fst (by assumption) ?_ | (simp only [kept_mk_iff]; (first | apply keptIn_fold | apply keptIn_flags)) | split | intro _)

theorem engBytes_kept {cs : Keep} (p : Nat) (n : Nat) (s : State) (Hs : Kept cs s) : Kept cs (engBytes p n s) := by
  unfold engBytes
  try dsimp only
  with_reducible repeat' (first | assumption | apply State.drawn_kept | apply perfOwn_kept | apply State.add64_kept | dsimp only | refine kept_of_snd (by assumption) ?_ | refine kept_of_snd2 (by assumption) ?_ | refine kept_of_fst (by assumption) ?_ | (simp only [kept_mk_iff]; (first | apply keptIn_fold | apply keptIn_flags)) | split | intro _)

theorem readRanges_kept {cs : Keep} (p : Nat) (a0 : List (Nat × Nat × Nat)) (a1 : State) (Ha1 : Kept cs a1) : Kept cs (readRanges p a0 a1).2.2 := by
  revert Ha1
  induction a0 generalizing a1 with
  | nil => intro Ha1; unfold readRanges; (try dsimp only at *); (with_reducible repeat' (first | assumption | apply bulkRead_kept | apply ih | dsimp only | refine kept_of_snd (by assumption) ?_ | refine kept_of_snd2 (by assumption) ?_ | refine kept_of_fst (by assumption) ?_ | (simp only [kept_mk_iff]; (first | apply keptIn_fold | apply keptIn_flags)) | split | intro _))
  | cons x xs ih => intro Ha1; unfold readRanges; (try dsimp only at *); (with_reducible repeat' (first | assumption | apply bulkRead_kept | apply ih | dsimp only | refine kept_of_snd (by assumption) ?_ | refine kept_of_snd2 (by assumption) ?_ | refine kept_of_fst (by assumption) ?_ | (simp only [kept_mk_iff]; (first | apply keptIn_fold | apply keptIn_flags)) | split | intro _))

theorem capDone_kept {cs : Keep} (r : CkpRun) (s : State) (Hs : Kept cs s) : Kept cs (capDone r s) := by
  unfold capDone
  try dsimp only
  with_reducible repeat' (first | assumption | apply domDone_kept | apply resumePart_kept | apply cutReply_kept | apply ckpEnd_kept | apply State.setMember_kept | apply State.setRun_kept | apply State.setF_kept | dsimp only | refine kept_of_snd (by assumption) ?_ | refine kept_of_snd2 (by assumption) ?_ | refine kept_of_fst (by assumption) ?_ | (simp only [kept_mk_iff]; (first | apply keptIn_fold | apply keptIn_flags)) | split | intro _)

theorem capCommit_kept {cs : Keep} (s : State) (Hs : Kept cs s) : Kept cs (capCommit s) := by
  unfold capCommit
  try dsimp only
  with_reducible repeat' (first | assumption | apply capDone_kept | apply readRanges_kept | apply engBytes_kept | apply capFail_kept | apply setPause_kept | apply bulkWrite_kept | dsimp only | refine kept_of_snd (by assumption) ?_ | refine kept_of_snd2 (by assumption) ?_ | refine kept_of_fst (by assumption) ?_ | (simp only [kept_mk_iff]; (first | apply keptIn_fold | apply keptIn_flags)) | split | intro _)

theorem capFailed_kept {cs : Keep} (tmo : Bool) (s : State) (Hs : Kept cs s) : Kept cs (capFailed tmo s) := by
  unfold capFailed
  try dsimp only
  with_reducible repeat' (first | assumption | apply capFail_kept | dsimp only | refine kept_of_snd (by assumption) ?_ | refine kept_of_snd2 (by assumption) ?_ | refine kept_of_fst (by assumption) ?_ | (simp only [kept_mk_iff]; (first | apply keptIn_fold | apply keptIn_flags)) | split | intro _)

theorem afterPaused_kept {cs : Keep} (p : Nat) (s : State) (Hs : Kept cs s) : Kept cs (afterPaused p s) := by
  unfold afterPaused
  try dsimp only
  with_reducible repeat' (first | assumption | apply domCut_kept | apply capStart_kept | apply cutReply_kept | apply ckpEnd_kept | apply State.setMember_kept | apply State.setRun_kept | dsimp only | refine kept_of_snd (by assumption) ?_ | refine kept_of_snd2 (by assumption) ?_ | refine kept_of_fst (by assumption) ?_ | (simp only [kept_mk_iff]; (first | apply keptIn_fold | apply keptIn_flags)) | split | intro _)

theorem pauseDone_kept {cs : Keep} (p : Nat) (s : State) (Hs : Kept cs s) : Kept cs (pauseDone p s) := by
  unfold pauseDone
  try dsimp only
  with_reducible repeat' (first | assumption | apply afterPaused_kept | apply setPause_kept | apply State.setSc_kept | apply State.setF_kept | dsimp only | refine kept_of_snd (by assumption) ?_ | refine kept_of_snd2 (by assumption) ?_ | refine kept_of_fst (by assumption) ?_ | (simp only [kept_mk_iff]; (first | apply keptIn_fold | apply keptIn_flags)) | split | intro _)

theorem blockMark_kept {cs : Keep} (p : Nat) (s : State) (Hs : Kept cs s) : Kept cs (blockMark p s) := by
  unfold blockMark
  try dsimp only
  with_reducible repeat' (first | assumption | apply State.setW_kept | dsimp only | refine kept_of_snd (by assumption) ?_ | refine kept_of_snd2 (by assumption) ?_ | refine kept_of_fst (by assumption) ?_ | (simp only [kept_mk_iff]; (first | apply keptIn_fold | apply keptIn_flags)) | split | intro _)

theorem qtmoEnd_kept {cs : Keep} (p : Nat) (s : State) (Hs : Kept cs s) : Kept cs (qtmoEnd p s) := by
  unfold qtmoEnd
  try dsimp only
  with_reducible repeat' (first | assumption | apply unpause_kept | apply cutAll_kept | apply ckpEnd_kept | apply execFault_kept | dsimp only | refine kept_of_snd (by assumption) ?_ | refine kept_of_snd2 (by assumption) ?_ | refine kept_of_fst (by assumption) ?_ | (simp only [kept_mk_iff]; (first | apply keptIn_fold | apply keptIn_flags)) | split | intro _)

theorem qtmo_kept {cs : Keep} (p : Nat) (s : State) (Hs : Kept cs s) : Kept cs (qtmo p s) := by
  unfold qtmo
  try dsimp only
  with_reducible repeat' (first | assumption | apply qtmoEnd_kept | apply blockMark_kept | apply logErr_kept | dsimp only | refine kept_of_snd (by assumption) ?_ | refine kept_of_snd2 (by assumption) ?_ | refine kept_of_fst (by assumption) ?_ | (simp only [kept_mk_iff]; (first | apply keptIn_fold | apply keptIn_flags)) | split | intro _)

theorem checkpoint_kept {cs : Keep} (p : Nat) (s : State) (Hs : Kept cs s) : Kept cs (checkpoint p s) := by
  unfold checkpoint
  try dsimp only
  with_reducible repeat' (first | assumption | apply capCheck_kept | apply startPause_kept | apply resumePart_kept | apply State.setRun_kept | apply execFault_kept | apply completed_kept | apply State.setF_kept | dsimp only | refine kept_of_snd (by assumption) ?_ | refine kept_of_snd2 (by assumption) ?_ | refine kept_of_fst (by assumption) ?_ | (simp only [kept_mk_iff]; (first | apply keptIn_fold | apply keptIn_flags)) | split | intro _)

theorem ckpCapStart_kept {cs : Keep} (p : Nat) (s : State) (Hs : Kept cs s) : Kept cs (ckpCapStart p s) := by
  unfold ckpCapStart
  try dsimp only
  with_reducible repeat' (first | assumption | apply capBegin_kept | dsimp only | refine kept_of_snd (by assumption) ?_ | refine kept_of_snd2 (by assumption) ?_ | refine kept_of_fst (by assumption) ?_ | (simp only [kept_mk_iff]; (first | apply keptIn_fold | apply keptIn_flags)) | split | intro _)

theorem readImg_kept {cs : Keep} (r : CkpRun) (ofs : Nat) (n : Nat) (s : State) (Hs : Kept cs s) : Kept cs (readImg r ofs n s).2.2 := by
  unfold readImg
  try dsimp only
  with_reducible repeat' (first | assumption | apply bulkRead_kept | dsimp only | refine kept_of_snd (by assumption) ?_ | refine kept_of_snd2 (by assumption) ?_ | refine kept_of_fst (by assumption) ?_ | (simp only [kept_mk_iff]; (first | apply keptIn_fold | apply keptIn_flags)) | split | intro _)

theorem readFirst_kept {cs : Keep} (r : CkpRun) (k : ImageKey) (h : List Byte) (tags : List Byte) (s : State) (Hs : Kept cs s) : Kept cs (readFirst r k h tags s).2 := by
  unfold readFirst
  try dsimp only
  with_reducible repeat' (first | assumption | apply readImg_kept | dsimp only | refine kept_of_snd (by assumption) ?_ | refine kept_of_snd2 (by assumption) ?_ | refine kept_of_fst (by assumption) ?_ | (simp only [kept_mk_iff]; (first | apply keptIn_fold | apply keptIn_flags)) | split | intro _)

theorem readTags_kept {cs : Keep} (r : CkpRun) (k : ImageKey) (h : List Byte) (s : State) (Hs : Kept cs s) : Kept cs (readTags r k h s).2 := by
  unfold readTags
  try dsimp only
  with_reducible repeat' (first | assumption | apply readFirst_kept | apply readImg_kept | dsimp only | refine kept_of_snd (by assumption) ?_ | refine kept_of_snd2 (by assumption) ?_ | refine kept_of_fst (by assumption) ?_ | (simp only [kept_mk_iff]; (first | apply keptIn_fold | apply keptIn_flags)) | split | intro _)

theorem readHead_kept {cs : Keep} (r : CkpRun) (s : State) (Hs : Kept cs s) : Kept cs (readHead r s).2 := by
  unfold readHead
  try dsimp only
  with_reducible repeat' (first | assumption | apply readTags_kept | apply readImg_kept | dsimp only | refine kept_of_snd (by assumption) ?_ | refine kept_of_snd2 (by assumption) ?_ | refine kept_of_fst (by assumption) ?_ | (simp only [kept_mk_iff]; (first | apply keptIn_fold | apply keptIn_flags)) | split | intro _)

theorem restoreStart_kept {cs : Keep} (r : CkpRun) (s : State) (Hs : Kept cs s) : Kept cs (restoreStart r s) := by
  unfold restoreStart
  try dsimp only
  with_reducible repeat' (first | assumption | apply readHead_kept | apply ckpEnd_kept | apply setPause_kept | apply State.setRun_kept | apply orWait_kept | apply logErr_kept | dsimp only | refine kept_of_snd (by assumption) ?_ | refine kept_of_snd2 (by assumption) ?_ | refine kept_of_fst (by assumption) ?_ | (simp only [kept_mk_iff]; (first | apply keptIn_fold | apply keptIn_flags)) | split | intro _)

theorem putCore_kept {cs : Keep} (c : Nat) (k : CoreSnap) (s : State) (Hs : Kept cs s) : Kept cs (putCore c k s) := by
  unfold putCore
  try dsimp only
  with_reducible repeat' (first | assumption | apply putRegs_kept | apply poolReset_kept | apply State.setCore_kept | dsimp only | refine kept_of_snd (by assumption) ?_ | refine kept_of_snd2 (by assumption) ?_ | refine kept_of_fst (by assumption) ?_ | (simp only [kept_mk_iff]; (first | apply keptIn_fold | apply keptIn_flags)) | split | intro _)

theorem putClu_kept {cs : Keep} (k : CluSnap) (s : State) (Hs : Kept cs s) : Kept cs (putClu k s) := by
  unfold putClu
  try dsimp only
  with_reducible repeat' (first | assumption | apply putRegs_kept | apply State.setClu_kept | dsimp only | refine kept_of_snd (by assumption) ?_ | refine kept_of_snd2 (by assumption) ?_ | refine kept_of_fst (by assumption) ?_ | (simp only [kept_mk_iff]; (first | apply keptIn_fold | apply keptIn_flags)) | split | intro _)

theorem putTok_kept {cs : Keep} (p : Nat) (t : TokSnap) (s : State) (Hs : Kept cs s) : Kept cs (putTok p t s) := by
  unfold putTok
  try dsimp only
  with_reducible repeat' (first | assumption | apply State.setStopBlk_kept | apply State.setStrm_kept | apply State.setVslot_kept | apply forEach_kept | dsimp only | refine kept_of_snd (by assumption) ?_ | refine kept_of_snd2 (by assumption) ?_ | refine kept_of_fst (by assumption) ?_ | (simp only [kept_mk_iff]; (first | apply keptIn_fold | apply keptIn_flags)) | split | intro _)

theorem putRanges_kept {cs : Keep} (p : Nat) (a0 : List (Nat × Nat × Nat)) (a1 : Nat) (a2 : List (Byte × Bool)) (a3 : Nat × State) (Ha3 : Kept cs a3.2) : Kept cs (putRanges p a0 a1 a2 a3).2 := by
  revert Ha3
  induction a0 generalizing a1 a2 a3 with
  | nil => obtain ⟨a30, a31⟩ := a3; intro Ha3; unfold putRanges; (try dsimp only at *); (with_reducible repeat' (first | assumption | apply bulkWrite_kept | apply ih | dsimp only | refine kept_of_snd (by assumption) ?_ | refine kept_of_snd2 (by assumption) ?_ | refine kept_of_fst (by assumption) ?_ | (simp only [kept_mk_iff]; (first | apply keptIn_fold | apply keptIn_flags)) | split | intro _))
  | cons x xs ih => obtain ⟨a30, a31⟩ := a3; intro Ha3; unfold putRanges; (try dsimp only at *); (with_reducible repeat' (first | assumption | apply bulkWrite_kept | apply ih | dsimp only | refine kept_of_snd (by assumption) ?_ | refine kept_of_snd2 (by assumption) ?_ | refine kept_of_fst (by assumption) ?_ | (simp only [kept_mk_iff]; (first | apply keptIn_fold | apply keptIn_flags)) | split | intro _))

theorem putSnap_kept {cs : Keep} (p : Nat) (v : Snap) (s : State) (Hs : Kept cs s) : Kept cs (putSnap p v s) := by
  unfold putSnap
  try dsimp only
  with_reducible repeat' (first | assumption | apply putTok_kept | apply putClu_kept | apply putCore_kept | apply putRegs_kept | apply State.setSc_kept | apply State.setAl_kept | apply State.setW_kept | apply forEach_kept | dsimp only | refine kept_of_snd (by assumption) ?_ | refine kept_of_snd2 (by assumption) ?_ | refine kept_of_fst (by assumption) ?_ | (simp only [kept_mk_iff]; (first | apply keptIn_fold | apply keptIn_flags)) | split | intro _)

theorem readChunk_kept {cs : Keep} (r : CkpRun) (key : Nat) (k : Nat) (s : State) (Hs : Kept cs s) : Kept cs (readChunk r key k s).2.2 := by
  unfold readChunk
  try dsimp only
  with_reducible repeat' (first | assumption | apply readImg_kept | dsimp only | refine kept_of_snd (by assumption) ?_ | refine kept_of_snd2 (by assumption) ?_ | refine kept_of_fst (by assumption) ?_ | (simp only [kept_mk_iff]; (first | apply keptIn_fold | apply keptIn_flags)) | split | intro _)

theorem readChunks_kept {cs : Keep} (r : CkpRun) (key : Nat) (a0 : Nat) (a1 : Nat) (a2 : State) (Ha2 : Kept cs a2) : Kept cs (readChunks r key a0 a1 a2).2.2 := by
  revert Ha2
  induction a0 generalizing a1 a2 with
  | zero => intro Ha2; unfold readChunks; (try dsimp only at *); (with_reducible repeat' (first | assumption | apply readChunk_kept | apply ih | dsimp only | refine kept_of_snd (by assumption) ?_ | refine kept_of_snd2 (by assumption) ?_ | refine kept_of_fst (by assumption) ?_ | (simp only [kept_mk_iff]; (first | apply keptIn_fold | apply keptIn_flags)) | split | intro _))
  | succ n ih => intro Ha2; unfold readChunks; (try dsimp only at *); (with_reducible repeat' (first | assumption | apply readChunk_kept | apply ih | dsimp only | refine kept_of_snd (by assumption) ?_ | refine kept_of_snd2 (by assumption) ?_ | refine kept_of_fst (by assumption) ?_ | (simp only [kept_mk_iff]; (first | apply keptIn_fold | apply keptIn_flags)) | split | intro _))

theorem readPayload_kept {cs : Keep} (r : CkpRun) (i : SealedImg) (s : State) (Hs : Kept cs s) : Kept cs (readPayload r i s).2.2 := by
  unfold readPayload
  try dsimp only
  with_reducible repeat' (first | assumption | apply readChunks_kept | dsimp only | refine kept_of_snd (by assumption) ?_ | refine kept_of_snd2 (by assumption) ?_ | refine kept_of_fst (by assumption) ?_ | (simp only [kept_mk_iff]; (first | apply keptIn_fold | apply keptIn_flags)) | split | intro _)

theorem undoChunk_kept {cs : Keep} (r : CkpRun) (v : Snap) (k : Nat) (s : State) (Hs : Kept cs s) : Kept cs (undoChunk r v k s) := by
  unfold undoChunk
  try dsimp only
  with_reducible repeat' (first | assumption | apply putRanges_kept | dsimp only | refine kept_of_snd (by assumption) ?_ | refine kept_of_snd2 (by assumption) ?_ | refine kept_of_fst (by assumption) ?_ | (simp only [kept_mk_iff]; (first | apply keptIn_fold | apply keptIn_flags)) | split | intro _)

theorem restoreUndo_kept {cs : Keep} (r : CkpRun) (i : SealedImg) (s : State) (Hs : Kept cs s) : Kept cs (restoreUndo r i s) := by
  unfold restoreUndo
  try dsimp only
  with_reducible repeat' (first | assumption | apply undoChunk_kept | apply putTok_kept | apply zeroRegs_kept | apply poolReset_kept | apply State.setSc_kept | apply State.setClu_kept | apply State.setCore_kept | apply State.setAl_kept | apply State.setW_kept | apply forEach_kept | apply forUp_kept | apply forUp_kept2 | dsimp only | refine kept_of_snd (by assumption) ?_ | refine kept_of_snd2 (by assumption) ?_ | refine kept_of_fst (by assumption) ?_ | (simp only [kept_mk_iff]; (first | apply keptIn_fold | apply keptIn_flags)) | split | intro _)

theorem restoreFail_kept {cs : Keep} (r : CkpRun) (i : SealedImg) (code : Nat) (s : State) (Hs : Kept cs s) : Kept cs (restoreFail r i code s) := by
  unfold restoreFail
  try dsimp only
  with_reducible repeat' (first | assumption | apply restoreUndo_kept | apply ckpEnd_kept | apply setPause_kept | apply State.setSc_kept | apply logErr_kept | dsimp only | refine kept_of_snd (by assumption) ?_ | refine kept_of_snd2 (by assumption) ?_ | refine kept_of_fst (by assumption) ?_ | (simp only [kept_mk_iff]; (first | apply keptIn_fold | apply keptIn_flags)) | split | intro _)

theorem restoreDone_kept {cs : Keep} (s : State) (Hs : Kept cs s) : Kept cs (restoreDone s) := by
  unfold restoreDone
  try dsimp only
  with_reducible repeat' (first | assumption | apply restoreFail_kept | apply readPayload_kept | apply putSnap_kept | apply putRanges_kept | apply engBytes_kept | apply setPcut_kept | apply ckpEnd_kept | apply setPause_kept | apply State.setF_kept | dsimp only | refine kept_of_snd (by assumption) ?_ | refine kept_of_snd2 (by assumption) ?_ | refine kept_of_fst (by assumption) ?_ | (simp only [kept_mk_iff]; (first | apply keptIn_fold | apply keptIn_flags)) | split | intro _)

theorem restoreFailed_kept {cs : Keep} (tmo : Bool) (s : State) (Hs : Kept cs s) : Kept cs (restoreFailed tmo s) := by
  unfold restoreFailed
  try dsimp only
  with_reducible repeat' (first | assumption | apply restoreFail_kept | apply readPayload_kept | dsimp only | refine kept_of_snd (by assumption) ?_ | refine kept_of_snd2 (by assumption) ?_ | refine kept_of_fst (by assumption) ?_ | (simp only [kept_mk_iff]; (first | apply keptIn_fold | apply keptIn_flags)) | split | intro _)

theorem ckpRetry_kept {cs : Keep} (s : State) (Hs : Kept cs s) : Kept cs (ckpRetry s) := by
  unfold ckpRetry
  try dsimp only
  with_reducible repeat' (first | assumption | apply restoreStart_kept | apply capStart_kept | dsimp only | refine kept_of_snd (by assumption) ?_ | refine kept_of_snd2 (by assumption) ?_ | refine kept_of_fst (by assumption) ?_ | (simp only [kept_mk_iff]; (first | apply keptIn_fold | apply keptIn_flags)) | split | intro _)

theorem capture_kept {cs : Keep} (p : Nat) (dom : Bool) (resume : Bool) (s : State) (Hs : Kept cs s) : Kept cs (capture p dom resume s) := by
  unfold capture
  try dsimp only
  with_reducible repeat' (first | assumption | apply capStart_kept | apply domAbort_kept | apply startPause_kept | apply cutAll_kept | apply State.setRun_kept | apply State.setF_kept | dsimp only | refine kept_of_snd (by assumption) ?_ | refine kept_of_snd2 (by assumption) ?_ | refine kept_of_fst (by assumption) ?_ | (simp only [kept_mk_iff]; (first | apply keptIn_fold | apply keptIn_flags)) | split | intro _)

theorem resume_kept {cs : Keep} (p : Nat) (dom : Bool) (s : State) (Hs : Kept cs s) : Kept cs (resume p dom s) := by
  unfold resume
  try dsimp only
  with_reducible repeat' (first | assumption | apply resumePart_kept | apply cutAll_kept | apply ckpSts_kept | apply State.setRun_kept | apply State.setF_kept | dsimp only | refine kept_of_snd (by assumption) ?_ | refine kept_of_snd2 (by assumption) ?_ | refine kept_of_fst (by assumption) ?_ | (simp only [kept_mk_iff]; (first | apply keptIn_fold | apply keptIn_flags)) | split | intro _)

theorem abort_kept {cs : Keep} (p : Nat) (s : State) (Hs : Kept cs s) : Kept cs (abort p s) := by
  unfold abort
  try dsimp only
  with_reducible repeat' (first | assumption | apply resumePart_kept | apply cutAll_kept | apply ckpSts_kept | apply setPause_kept | apply State.setRun_kept | apply execFault_kept | apply State.setF_kept | dsimp only | refine kept_of_snd (by assumption) ?_ | refine kept_of_snd2 (by assumption) ?_ | refine kept_of_fst (by assumption) ?_ | (simp only [kept_mk_iff]; (first | apply keptIn_fold | apply keptIn_flags)) | split | intro _)

theorem wrCkpCmd_kept {cs : Keep} (m : Nat) (d : Nat) (v : Nat) (s : State) (Hs : Kept cs s) : Kept cs (wrCkpCmd m d v s) := by
  unfold wrCkpCmd
  try dsimp only
  with_reducible repeat' (first | assumption | apply abort_kept | apply resume_kept | apply capture_kept | apply restoreStart_kept | apply startPause_kept | apply State.setRun_kept | apply checkedWrite_kept | apply refuse_kept | apply State.setF_kept | dsimp only | refine kept_of_snd (by assumption) ?_ | refine kept_of_snd2 (by assumption) ?_ | refine kept_of_fst (by assumption) ?_ | (simp only [kept_mk_iff]; (first | apply keptIn_fold | apply keptIn_flags)) | split | intro _)

theorem holdIn_kept {cs : Keep} (l : Nat) (w : Nat) (data : List Byte) (s : State) (Hs : Kept cs s) : Kept cs (holdIn l w data s) := by
  unfold holdIn
  try dsimp only
  with_reducible repeat' (first | assumption | apply startPause_kept | apply setPcut_kept | apply State.setMember_kept | dsimp only | refine kept_of_snd (by assumption) ?_ | refine kept_of_snd2 (by assumption) ?_ | refine kept_of_fst (by assumption) ?_ | (simp only [kept_mk_iff]; (first | apply keptIn_fold | apply keptIn_flags)) | split | intro _)

theorem holdDoneIn_kept {cs : Keep} (l : Nat) (w : Nat) (data : List Byte) (s : State) (Hs : Kept cs s) : Kept cs (holdDoneIn l w data s) := by
  unfold holdDoneIn
  try dsimp only
  with_reducible repeat' (first | assumption | apply domCut_kept | apply State.setRun_kept | dsimp only | refine kept_of_snd (by assumption) ?_ | refine kept_of_snd2 (by assumption) ?_ | refine kept_of_fst (by assumption) ?_ | (simp only [kept_mk_iff]; (first | apply keptIn_fold | apply keptIn_flags)) | split | intro _)

theorem cutArrive_kept {cs : Keep} (l : Nat) (w : Nat) (data : List Byte) (s : State) (Hs : Kept cs s) : Kept cs (cutArrive l w data s) := by
  unfold cutArrive
  try dsimp only
  with_reducible repeat' (first | assumption | apply capStart_kept | apply cutReply_kept | apply State.setMember_kept | apply State.setRun_kept | apply State.setF_kept | dsimp only | refine kept_of_snd (by assumption) ?_ | refine kept_of_snd2 (by assumption) ?_ | refine kept_of_fst (by assumption) ?_ | (simp only [kept_mk_iff]; (first | apply keptIn_fold | apply keptIn_flags)) | split | intro _)

theorem cutDoneIn_kept {cs : Keep} (l : Nat) (w : Nat) (data : List Byte) (s : State) (Hs : Kept cs s) : Kept cs (cutDoneIn l w data s) := by
  unfold cutDoneIn
  try dsimp only
  with_reducible repeat' (first | assumption | apply domDone_kept | apply domAbort_kept | apply State.setRun_kept | dsimp only | refine kept_of_snd (by assumption) ?_ | refine kept_of_snd2 (by assumption) ?_ | refine kept_of_fst (by assumption) ?_ | (simp only [kept_mk_iff]; (first | apply keptIn_fold | apply keptIn_flags)) | split | intro _)

theorem releaseIn_kept {cs : Keep} (l : Nat) (w : Nat) (data : List Byte) (s : State) (Hs : Kept cs s) : Kept cs (releaseIn l w data s) := by
  unfold releaseIn
  try dsimp only
  with_reducible repeat' (first | assumption | apply resumePart_kept | dsimp only | refine kept_of_snd (by assumption) ?_ | refine kept_of_snd2 (by assumption) ?_ | refine kept_of_fst (by assumption) ?_ | (simp only [kept_mk_iff]; (first | apply keptIn_fold | apply keptIn_flags)) | split | intro _)

theorem leaveCut_kept {cs : Keep} (p : Nat) (s : State) (Hs : Kept cs s) : Kept cs (leaveCut p s) := by
  unfold leaveCut
  try dsimp only
  with_reducible repeat' (first | assumption | apply unpause_kept | apply resumePart_kept | apply State.setRun_kept | apply State.setF_kept | dsimp only | refine kept_of_snd (by assumption) ?_ | refine kept_of_snd2 (by assumption) ?_ | refine kept_of_fst (by assumption) ?_ | (simp only [kept_mk_iff]; (first | apply keptIn_fold | apply keptIn_flags)) | split | intro _)

theorem abortIn_kept {cs : Keep} (l : Nat) (w : Nat) (data : List Byte) (s : State) (Hs : Kept cs s) : Kept cs (abortIn l w data s) := by
  unfold abortIn
  try dsimp only
  with_reducible repeat' (first | assumption | apply leaveCut_kept | dsimp only | refine kept_of_snd (by assumption) ?_ | refine kept_of_snd2 (by assumption) ?_ | refine kept_of_fst (by assumption) ?_ | (simp only [kept_mk_iff]; (first | apply keptIn_fold | apply keptIn_flags)) | split | intro _)

theorem dtmo_kept {cs : Keep} (p : Nat) (s : State) (Hs : Kept cs s) : Kept cs (dtmo p s) := by
  unfold dtmo
  try dsimp only
  with_reducible repeat' (first | assumption | apply leaveCut_kept | apply domAbort_kept | apply logErr_kept | dsimp only | refine kept_of_snd (by assumption) ?_ | refine kept_of_snd2 (by assumption) ?_ | refine kept_of_fst (by assumption) ?_ | (simp only [kept_mk_iff]; (first | apply keptIn_fold | apply keptIn_flags)) | split | intro _)

theorem wrIkeyCtl_kept {cs : Keep} (m : Nat) (v : Nat) (s : State) (Hs : Kept cs s) : Kept cs (wrIkeyCtl m v s) := by
  unfold wrIkeyCtl
  try dsimp only
  with_reducible repeat' (first | assumption | apply checkedWrite_kept | apply State.setW_kept | apply forUp_kept | apply forUp_kept2 | apply foldl_kept2 | apply foldl_kept | dsimp only | refine kept_of_snd (by assumption) ?_ | refine kept_of_snd2 (by assumption) ?_ | refine kept_of_fst (by assumption) ?_ | (simp only [kept_mk_iff]; (first | apply keptIn_fold | apply keptIn_flags)) | split | intro _)

theorem execPause_kept {cs : Keep} (m : Nat) (p : Nat) (s : State) (Hs : Kept cs s) : KeptOut cs (execPause m p s) := by
  unfold execPause
  try dsimp only
  with_reducible repeat' (first | assumption | apply keptOut_next | apply wrCkpCmd_kept | apply run_kept | apply whenOk_kept | dsimp only | refine kept_of_snd (by assumption) ?_ | refine kept_of_snd2 (by assumption) ?_ | refine kept_of_fst (by assumption) ?_ | (simp only [kept_mk_iff]; (first | apply keptIn_fold | apply keptIn_flags)) | split | intro _)

theorem execPauseQuiesced_kept {cs : Keep} (p : Nat) (s : State) (Hs : Kept cs s) : KeptOut cs (execPauseQuiesced p s) := by
  unfold execPauseQuiesced
  try dsimp only
  with_reducible repeat' (first | assumption | apply keptOut_next | apply pauseDone_kept | apply run_kept | apply whenOk_kept | dsimp only | refine kept_of_snd (by assumption) ?_ | refine kept_of_snd2 (by assumption) ?_ | refine kept_of_fst (by assumption) ?_ | (simp only [kept_mk_iff]; (first | apply keptIn_fold | apply keptIn_flags)) | split | intro _)

theorem execCkpQtmoExpiry_kept {cs : Keep} (p : Nat) (s : State) (Hs : Kept cs s) : KeptOut cs (execCkpQtmoExpiry p s) := by
  unfold execCkpQtmoExpiry
  try dsimp only
  with_reducible repeat' (first | assumption | apply keptOut_next | apply qtmo_kept | apply run_kept | apply whenOk_kept | dsimp only | refine kept_of_snd (by assumption) ?_ | refine kept_of_snd2 (by assumption) ?_ | refine kept_of_fst (by assumption) ?_ | (simp only [kept_mk_iff]; (first | apply keptIn_fold | apply keptIn_flags)) | split | intro _)

theorem execCapture_kept {cs : Keep} (m : Nat) (p : Nat) (dom : Bool) (resume : Bool) (s : State) (Hs : Kept cs s) : KeptOut cs (execCapture m p dom resume s) := by
  unfold execCapture
  try dsimp only
  with_reducible repeat' (first | assumption | apply keptOut_next | apply wrCkpCmd_kept | apply run_kept | apply whenOk_kept | dsimp only | refine kept_of_snd (by assumption) ?_ | refine kept_of_snd2 (by assumption) ?_ | refine kept_of_fst (by assumption) ?_ | (simp only [kept_mk_iff]; (first | apply keptIn_fold | apply keptIn_flags)) | split | intro _)

theorem execCaptureCommit_kept {cs : Keep} (errs : Errs) (s : State) (Hs : Kept cs s) : KeptOut cs (execCaptureCommit errs s) := by
  unfold execCaptureCommit
  try dsimp only
  with_reducible repeat' (first | assumption | apply keptOut_next | apply capCommit_kept | apply runErr_kept | dsimp only | refine kept_of_snd (by assumption) ?_ | refine kept_of_snd2 (by assumption) ?_ | refine kept_of_fst (by assumption) ?_ | (simp only [kept_mk_iff]; (first | apply keptIn_fold | apply keptIn_flags)) | split | intro _)

theorem execCaptureFail_kept {cs : Keep} (tmo : Bool) (s : State) (Hs : Kept cs s) : KeptOut cs (execCaptureFail tmo s) := by
  unfold execCaptureFail
  try dsimp only
  with_reducible repeat' (first | assumption | apply keptOut_next | apply capFailed_kept | apply run_kept | dsimp only | refine kept_of_snd (by assumption) ?_ | refine kept_of_snd2 (by assumption) ?_ | refine kept_of_fst (by assumption) ?_ | (simp only [kept_mk_iff]; (first | apply keptIn_fold | apply keptIn_flags)) | split | intro _)

theorem execCheckpoint_kept {cs : Keep} (p : Nat) (errs : Errs) (s : State) (Hs : Kept cs s) : KeptOut cs (execCheckpoint p errs s) := by
  unfold execCheckpoint
  try dsimp only
  with_reducible repeat' (first | assumption | apply keptOut_next | apply checkpoint_kept | apply runErr_kept | apply whenOk_kept | dsimp only | refine kept_of_snd (by assumption) ?_ | refine kept_of_snd2 (by assumption) ?_ | refine kept_of_fst (by assumption) ?_ | (simp only [kept_mk_iff]; (first | apply keptIn_fold | apply keptIn_flags)) | split | intro _)

theorem execCheckpointCaptureStart_kept {cs : Keep} (p : Nat) (errs : Errs) (s : State) (Hs : Kept cs s) : KeptOut cs (execCheckpointCaptureStart p errs s) := by
  unfold execCheckpointCaptureStart
  try dsimp only
  with_reducible repeat' (first | assumption | apply keptOut_next | apply ckpCapStart_kept | apply runErr_kept | apply whenOk_kept | dsimp only | refine kept_of_snd (by assumption) ?_ | refine kept_of_snd2 (by assumption) ?_ | refine kept_of_fst (by assumption) ?_ | (simp only [kept_mk_iff]; (first | apply keptIn_fold | apply keptIn_flags)) | split | intro _)

theorem execResume_kept {cs : Keep} (m : Nat) (p : Nat) (dom : Bool) (s : State) (Hs : Kept cs s) : KeptOut cs (execResume m p dom s) := by
  unfold execResume
  try dsimp only
  with_reducible repeat' (first | assumption | apply keptOut_next | apply wrCkpCmd_kept | apply run_kept | apply whenOk_kept | dsimp only | refine kept_of_snd (by assumption) ?_ | refine kept_of_snd2 (by assumption) ?_ | refine kept_of_fst (by assumption) ?_ | (simp only [kept_mk_iff]; (first | apply keptIn_fold | apply keptIn_flags)) | split | intro _)

theorem execRestore_kept {cs : Keep} (m : Nat) (p : Nat) (errs : Errs) (s : State) (Hs : Kept cs s) : KeptOut cs (execRestore m p errs s) := by
  unfold execRestore
  try dsimp only
  with_reducible repeat' (first | assumption | apply keptOut_next | apply wrCkpCmd_kept | apply runErr_kept | apply whenOk_kept | dsimp only | refine kept_of_snd (by assumption) ?_ | refine kept_of_snd2 (by assumption) ?_ | refine kept_of_fst (by assumption) ?_ | (simp only [kept_mk_iff]; (first | apply keptIn_fold | apply keptIn_flags)) | split | intro _)

theorem execRestoreDone_kept {cs : Keep} (errs : Errs) (s : State) (Hs : Kept cs s) : KeptOut cs (execRestoreDone errs s) := by
  unfold execRestoreDone
  try dsimp only
  with_reducible repeat' (first | assumption | apply keptOut_next | apply restoreDone_kept | apply runErr_kept | dsimp only | refine kept_of_snd (by assumption) ?_ | refine kept_of_snd2 (by assumption) ?_ | refine kept_of_fst (by assumption) ?_ | (simp only [kept_mk_iff]; (first | apply keptIn_fold | apply keptIn_flags)) | split | intro _)

theorem execRestoreFail_kept {cs : Keep} (tmo : Bool) (s : State) (Hs : Kept cs s) : KeptOut cs (execRestoreFail tmo s) := by
  unfold execRestoreFail
  try dsimp only
  with_reducible repeat' (first | assumption | apply keptOut_next | apply restoreFailed_kept | apply runErr_kept | dsimp only | refine kept_of_snd (by assumption) ?_ | refine kept_of_snd2 (by assumption) ?_ | refine kept_of_fst (by assumption) ?_ | (simp only [kept_mk_iff]; (first | apply keptIn_fold | apply keptIn_flags)) | split | intro _)

theorem execAbort_kept {cs : Keep} (m : Nat) (p : Nat) (s : State) (Hs : Kept cs s) : KeptOut cs (execAbort m p s) := by
  unfold execAbort
  try dsimp only
  with_reducible repeat' (first | assumption | apply keptOut_next | apply wrCkpCmd_kept | apply run_kept | apply whenOk_kept | dsimp only | refine kept_of_snd (by assumption) ?_ | refine kept_of_snd2 (by assumption) ?_ | refine kept_of_fst (by assumption) ?_ | (simp only [kept_mk_iff]; (first | apply keptIn_fold | apply keptIn_flags)) | split | intro _)

theorem execHold_kept {cs : Keep} (l : Nat) (hdr : Nat) (data : List Byte) (s : State) (Hs : Kept cs s) : KeptOut cs (execHold l hdr data s) := by
  unfold execHold
  try dsimp only
  with_reducible repeat' (first | assumption | apply keptOut_next | apply holdIn_kept | apply run_kept | apply whenOk_kept | dsimp only | refine kept_of_snd (by assumption) ?_ | refine kept_of_snd2 (by assumption) ?_ | refine kept_of_fst (by assumption) ?_ | (simp only [kept_mk_iff]; (first | apply keptIn_fold | apply keptIn_flags)) | split | intro _)

theorem execHoldDone_kept {cs : Keep} (l : Nat) (hdr : Nat) (data : List Byte) (s : State) (Hs : Kept cs s) : KeptOut cs (execHoldDone l hdr data s) := by
  unfold execHoldDone
  try dsimp only
  with_reducible repeat' (first | assumption | apply keptOut_next | apply holdDoneIn_kept | apply run_kept | apply whenOk_kept | dsimp only | refine kept_of_snd (by assumption) ?_ | refine kept_of_snd2 (by assumption) ?_ | refine kept_of_fst (by assumption) ?_ | (simp only [kept_mk_iff]; (first | apply keptIn_fold | apply keptIn_flags)) | split | intro _)

theorem execCut_kept {cs : Keep} (l : Nat) (hdr : Nat) (data : List Byte) (s : State) (Hs : Kept cs s) : KeptOut cs (execCut l hdr data s) := by
  unfold execCut
  try dsimp only
  with_reducible repeat' (first | assumption | apply keptOut_next | apply cutArrive_kept | apply run_kept | apply whenOk_kept | dsimp only | refine kept_of_snd (by assumption) ?_ | refine kept_of_snd2 (by assumption) ?_ | refine kept_of_fst (by assumption) ?_ | (simp only [kept_mk_iff]; (first | apply keptIn_fold | apply keptIn_flags)) | split | intro _)

theorem execCutDone_kept {cs : Keep} (l : Nat) (hdr : Nat) (data : List Byte) (s : State) (Hs : Kept cs s) : KeptOut cs (execCutDone l hdr data s) := by
  unfold execCutDone
  try dsimp only
  with_reducible repeat' (first | assumption | apply keptOut_next | apply cutDoneIn_kept | apply run_kept | apply whenOk_kept | dsimp only | refine kept_of_snd (by assumption) ?_ | refine kept_of_snd2 (by assumption) ?_ | refine kept_of_fst (by assumption) ?_ | (simp only [kept_mk_iff]; (first | apply keptIn_fold | apply keptIn_flags)) | split | intro _)

theorem execReleaseCut_kept {cs : Keep} (l : Nat) (hdr : Nat) (data : List Byte) (s : State) (Hs : Kept cs s) : KeptOut cs (execReleaseCut l hdr data s) := by
  unfold execReleaseCut
  try dsimp only
  with_reducible repeat' (first | assumption | apply keptOut_next | apply releaseIn_kept | apply run_kept | apply whenOk_kept | dsimp only | refine kept_of_snd (by assumption) ?_ | refine kept_of_snd2 (by assumption) ?_ | refine kept_of_fst (by assumption) ?_ | (simp only [kept_mk_iff]; (first | apply keptIn_fold | apply keptIn_flags)) | split | intro _)

theorem execAbortCut_kept {cs : Keep} (l : Nat) (hdr : Nat) (data : List Byte) (s : State) (Hs : Kept cs s) : KeptOut cs (execAbortCut l hdr data s) := by
  unfold execAbortCut
  try dsimp only
  with_reducible repeat' (first | assumption | apply keptOut_next | apply abortIn_kept | apply run_kept | apply whenOk_kept | dsimp only | refine kept_of_snd (by assumption) ?_ | refine kept_of_snd2 (by assumption) ?_ | refine kept_of_fst (by assumption) ?_ | (simp only [kept_mk_iff]; (first | apply keptIn_fold | apply keptIn_flags)) | split | intro _)

theorem execCkpDtmoExpiry_kept {cs : Keep} (p : Nat) (s : State) (Hs : Kept cs s) : KeptOut cs (execCkpDtmoExpiry p s) := by
  unfold execCkpDtmoExpiry
  try dsimp only
  with_reducible repeat' (first | assumption | apply keptOut_next | apply dtmo_kept | apply run_kept | apply whenOk_kept | dsimp only | refine kept_of_snd (by assumption) ?_ | refine kept_of_snd2 (by assumption) ?_ | refine kept_of_fst (by assumption) ?_ | (simp only [kept_mk_iff]; (first | apply keptIn_fold | apply keptIn_flags)) | split | intro _)

theorem execIkeyLoad_kept {cs : Keep} (m : Nat) (p : Nat) (s : State) (Hs : Kept cs s) : KeptOut cs (execIkeyLoad m p s) := by
  unfold execIkeyLoad
  try dsimp only
  with_reducible repeat' (first | assumption | apply keptOut_next | apply wrIkeyCtl_kept | apply run_kept | apply whenOk_kept | dsimp only | refine kept_of_snd (by assumption) ?_ | refine kept_of_snd2 (by assumption) ?_ | refine kept_of_fst (by assumption) ?_ | (simp only [kept_mk_iff]; (first | apply keptIn_fold | apply keptIn_flags)) | split | intro _)

theorem execIkeyClear_kept {cs : Keep} (m : Nat) (p : Nat) (s : State) (Hs : Kept cs s) : KeptOut cs (execIkeyClear m p s) := by
  unfold execIkeyClear
  try dsimp only
  with_reducible repeat' (first | assumption | apply keptOut_next | apply wrIkeyCtl_kept | apply run_kept | apply whenOk_kept | dsimp only | refine kept_of_snd (by assumption) ?_ | refine kept_of_snd2 (by assumption) ?_ | refine kept_of_fst (by assumption) ?_ | (simp only [kept_mk_iff]; (first | apply keptIn_fold | apply keptIn_flags)) | split | intro _)

end Sys2Proof.Machine
end

