-- ==== Sys2Proof/Laws/KeptPages.lean ====
section
/-! SUPPORT.  What the operations of the bridge, resets, the timebase and the pages keep: the queue of waiting
commands, and the canonical form of the registers and the stores.  One lemma per operation. -/

set_option linter.all false

namespace Sys2Proof.Machine

theorem bridgeStatusOn_kept {cs : Keep} (up : List Nat) (rate : Nat) (die : Nat) (s : State) (Hs : Kept cs s) : Kept cs (bridgeStatusOn up rate die s) := by
  unfold bridgeStatusOn
  try dsimp only
  with_reducible repeat' (first | assumption | apply State.setW_kept | apply State.setF_kept | apply foldl_kept2 | apply foldl_kept | dsimp only | refine kept_of_snd (by assumption) ?_ | refine kept_of_snd2 (by assumption) ?_ | refine kept_of_fst (by assumption) ?_ | (simp only [kept_mk_iff]; (first | apply keptIn_fold | apply keptIn_flags)) | split | intro _)

theorem bridgeStatus_kept {cs : Keep} (s : State) (Hs : Kept cs s) : Kept cs (bridgeStatus s) := by
  unfold bridgeStatus
  try dsimp only
  with_reducible repeat' (first | assumption | apply bridgeStatusOn_kept | apply foldl_kept2 | apply foldl_kept | dsimp only | refine kept_of_snd (by assumption) ?_ | refine kept_of_snd2 (by assumption) ?_ | refine kept_of_fst (by assumption) ?_ | (simp only [kept_mk_iff]; (first | apply keptIn_fold | apply keptIn_flags)) | split | intro _)

theorem moveTo_kept {cs : Keep} (m : Nat) (o : Option Nat) (s : State) (Hs : Kept cs s) : Kept cs (moveTo m o s) := by
  unfold moveTo
  try dsimp only
  with_reducible repeat' (first | assumption | dsimp only | refine kept_of_snd (by assumption) ?_ | refine kept_of_snd2 (by assumption) ?_ | refine kept_of_fst (by assumption) ?_ | (simp only [kept_mk_iff]; (first | apply keptIn_fold | apply keptIn_flags)) | split | intro _)

theorem moveTraffic_kept {cs : Keep} (m : Nat) (s : State) (Hs : Kept cs s) : Kept cs (moveTraffic m s) := by
  unfold moveTraffic
  try dsimp only
  with_reducible repeat' (first | assumption | apply moveTo_kept | dsimp only | refine kept_of_snd (by assumption) ?_ | refine kept_of_snd2 (by assumption) ?_ | refine kept_of_fst (by assumption) ?_ | (simp only [kept_mk_iff]; (first | apply keptIn_fold | apply keptIn_flags)) | split | intro _)

theorem failIfNone_kept {cs : Keep} (had : Bool) (s : State) (Hs : Kept cs s) : Kept cs (failIfNone had s) := by
  unfold failIfNone
  try dsimp only
  with_reducible repeat' (first | assumption | apply declareFailed_kept | dsimp only | refine kept_of_snd (by assumption) ?_ | refine kept_of_snd2 (by assumption) ?_ | refine kept_of_fst (by assumption) ?_ | (simp only [kept_mk_iff]; (first | apply keptIn_fold | apply keptIn_flags)) | split | intro _)

theorem startRetrain_kept {cs : Keep} (s : State) (Hs : Kept cs s) : Kept cs (startRetrain s) := by
  unfold startRetrain
  try dsimp only
  with_reducible repeat' (first | assumption | apply moveTraffic_kept | apply bridgeStatus_kept | dsimp only | refine kept_of_snd (by assumption) ?_ | refine kept_of_snd2 (by assumption) ?_ | refine kept_of_fst (by assumption) ?_ | (simp only [kept_mk_iff]; (first | apply keptIn_fold | apply keptIn_flags)) | split | intro _)

theorem retrainAll_kept {cs : Keep} (s : State) (Hs : Kept cs s) : Kept cs (retrainAll s) := by
  unfold retrainAll
  try dsimp only
  with_reducible repeat' (first | assumption | apply startRetrain_kept | dsimp only | refine kept_of_snd (by assumption) ?_ | refine kept_of_snd2 (by assumption) ?_ | refine kept_of_fst (by assumption) ?_ | (simp only [kept_mk_iff]; (first | apply keptIn_fold | apply keptIn_flags)) | split | intro _)

theorem wrBrgCtl_kept {cs : Keep} (m : Nat) (die : Nat) (v : Nat) (s : State) (Hs : Kept cs s) : Kept cs (wrBrgCtl m die v s) := by
  unfold wrBrgCtl
  try dsimp only
  with_reducible repeat' (first | assumption | apply retrainAll_kept | apply checkedWrite_kept | apply State.setF_kept | dsimp only | refine kept_of_snd (by assumption) ?_ | refine kept_of_snd2 (by assumption) ?_ | refine kept_of_fst (by assumption) ?_ | (simp only [kept_mk_iff]; (first | apply keptIn_fold | apply keptIn_flags)) | split | intro _)

theorem wrBrgModEn_kept {cs : Keep} (m : Nat) (die : Nat) (hi : Bool) (v : Nat) (s : State) (Hs : Kept cs s) : Kept cs (wrBrgModEn m die hi v s) := by
  unfold wrBrgModEn
  try dsimp only
  with_reducible repeat' (first | assumption | apply startRetrain_kept | apply failIfNone_kept | apply moveTraffic_kept | apply bridgeStatus_kept | apply checkedWrite_kept | apply State.setW_kept | apply forEach_kept | dsimp only | refine kept_of_snd (by assumption) ?_ | refine kept_of_snd2 (by assumption) ?_ | refine kept_of_fst (by assumption) ?_ | (simp only [kept_mk_iff]; (first | apply keptIn_fold | apply keptIn_flags)) | split | intro _)

theorem execBrgRetrain_kept {cs : Keep} (m : Nat) (die : Nat) (rate : Nat) (s : State) (Hs : Kept cs s) : KeptOut cs (execBrgRetrain m die rate s) := by
  unfold execBrgRetrain
  try dsimp only
  with_reducible repeat' (first | assumption | apply keptOut_next | apply wrBrgCtl_kept | apply run_kept | apply whenOk_kept | dsimp only | refine kept_of_snd (by assumption) ?_ | refine kept_of_snd2 (by assumption) ?_ | refine kept_of_fst (by assumption) ?_ | (simp only [kept_mk_iff]; (first | apply keptIn_fold | apply keptIn_flags)) | split | intro _)

theorem execBrgMaxRateWrite_kept {cs : Keep} (m : Nat) (die : Nat) (rate : Nat) (s : State) (Hs : Kept cs s) : KeptOut cs (execBrgMaxRateWrite m die rate s) := by
  unfold execBrgMaxRateWrite
  try dsimp only
  with_reducible repeat' (first | assumption | apply keptOut_next | apply wrBrgCtl_kept | apply run_kept | apply whenOk_kept | dsimp only | refine kept_of_snd (by assumption) ?_ | refine kept_of_snd2 (by assumption) ?_ | refine kept_of_fst (by assumption) ?_ | (simp only [kept_mk_iff]; (first | apply keptIn_fold | apply keptIn_flags)) | split | intro _)

theorem execBrgModEnWrite_kept {cs : Keep} (m : Nat) (die : Nat) (hi : Bool) (v : Nat) (s : State) (Hs : Kept cs s) : KeptOut cs (execBrgModEnWrite m die hi v s) := by
  unfold execBrgModEnWrite
  try dsimp only
  with_reducible repeat' (first | assumption | apply keptOut_next | apply wrBrgModEn_kept | apply run_kept | apply whenOk_kept | dsimp only | refine kept_of_snd (by assumption) ?_ | refine kept_of_snd2 (by assumption) ?_ | refine kept_of_fst (by assumption) ?_ | (simp only [kept_mk_iff]; (first | apply keptIn_fold | apply keptIn_flags)) | split | intro _)

theorem bridgeAccept_kept {cs : Keep} (die : Nat) (cls : Nat) (src : Nat) (dst : Nat) (mod : Nat) (dep : Option (Nat × Nat)) (s : State) (Hs : Kept cs s) : Kept cs (bridgeAccept die cls src dst mod dep s) := by
  unfold bridgeAccept
  try dsimp only
  with_reducible repeat' (first | assumption | dsimp only | refine kept_of_snd (by assumption) ?_ | refine kept_of_snd2 (by assumption) ?_ | refine kept_of_fst (by assumption) ?_ | (simp only [kept_mk_iff]; (first | apply keptIn_fold | apply keptIn_flags)) | split | intro _)

theorem bridgeLeave_kept {cs : Keep} (x : BridgeXfer) (s : State) (Hs : Kept cs s) : Kept cs (bridgeLeave x s) := by
  unfold bridgeLeave
  try dsimp only
  with_reducible repeat' (first | assumption | dsimp only | refine kept_of_snd (by assumption) ?_ | refine kept_of_snd2 (by assumption) ?_ | refine kept_of_fst (by assumption) ?_ | (simp only [kept_mk_iff]; (first | apply keptIn_fold | apply keptIn_flags)) | split | intro _)

theorem bridgeAck_kept {cs : Keep} (die : Nat) (cls : Nat) (src : Nat) (dst : Nat) (s : State) (Hs : Kept cs s) : Kept cs (bridgeAck die cls src dst s) := by
  unfold bridgeAck
  try dsimp only
  with_reducible repeat' (first | assumption | apply bridgeLeave_kept | dsimp only | refine kept_of_snd (by assumption) ?_ | refine kept_of_snd2 (by assumption) ?_ | refine kept_of_fst (by assumption) ?_ | (simp only [kept_mk_iff]; (first | apply keptIn_fold | apply keptIn_flags)) | split | intro _)

theorem bridgeTransfer_kept {cs : Keep} (die : Nat) (cls : Nat) (src : Nat) (dst : Nat) (mod : Nat) (dep : Option (Nat × Nat)) (ack : Bool) (s : State) (Hs : Kept cs s) : Kept cs (bridgeTransfer die cls src dst mod dep ack s) := by
  unfold bridgeTransfer
  try dsimp only
  with_reducible repeat' (first | assumption | apply bridgeAck_kept | apply bridgeAccept_kept | dsimp only | refine kept_of_snd (by assumption) ?_ | refine kept_of_snd2 (by assumption) ?_ | refine kept_of_fst (by assumption) ?_ | (simp only [kept_mk_iff]; (first | apply keptIn_fold | apply keptIn_flags)) | split | intro _)

theorem execBridgeTransfer_kept {cs : Keep} (die : Nat) (cls : Nat) (src : Nat) (dst : Nat) (mod : Nat) (dep : Option (Nat × Nat)) (ack : Bool) (s : State) (Hs : Kept cs s) : KeptOut cs (execBridgeTransfer die cls src dst mod dep ack s) := by
  unfold execBridgeTransfer
  try dsimp only
  with_reducible repeat' (first | assumption | apply keptOut_next | apply bridgeTransfer_kept | apply run_kept | apply whenOk_kept | dsimp only | refine kept_of_snd (by assumption) ?_ | refine kept_of_snd2 (by assumption) ?_ | refine kept_of_fst (by assumption) ?_ | (simp only [kept_mk_iff]; (first | apply keptIn_fold | apply keptIn_flags)) | split | intro _)

theorem execBridgeReplay_kept {cs : Keep} (die : Nat) (mod : Nat) (s : State) (Hs : Kept cs s) : KeptOut cs (execBridgeReplay die mod s) := by
  unfold execBridgeReplay
  try dsimp only
  with_reducible repeat' (first | assumption | apply keptOut_next | apply run_kept | apply whenOk_kept | apply State.addF_kept | dsimp only | refine kept_of_snd (by assumption) ?_ | refine kept_of_snd2 (by assumption) ?_ | refine kept_of_fst (by assumption) ?_ | (simp only [kept_mk_iff]; (first | apply keptIn_fold | apply keptIn_flags)) | split | intro _)

theorem bridgeLog_kept {cs : Keep} (s : State) (Hs : Kept cs s) : Kept cs (bridgeLog s) := by
  unfold bridgeLog
  try dsimp only
  with_reducible repeat' (first | assumption | apply logErr_kept | dsimp only | refine kept_of_snd (by assumption) ?_ | refine kept_of_snd2 (by assumption) ?_ | refine kept_of_fst (by assumption) ?_ | (simp only [kept_mk_iff]; (first | apply keptIn_fold | apply keptIn_flags)) | split | intro _)

theorem moduleDown_kept {cs : Keep} (mod : Nat) (s : State) (Hs : Kept cs s) : Kept cs (moduleDown mod s) := by
  unfold moduleDown
  try dsimp only
  with_reducible repeat' (first | assumption | apply bridgeLog_kept | apply startRetrain_kept | apply failIfNone_kept | apply moveTraffic_kept | apply bridgeStatus_kept | apply State.addF_kept | dsimp only | refine kept_of_snd (by assumption) ?_ | refine kept_of_snd2 (by assumption) ?_ | refine kept_of_fst (by assumption) ?_ | (simp only [kept_mk_iff]; (first | apply keptIn_fold | apply keptIn_flags)) | split | intro _)

theorem execBridgeModuleDown_kept {cs : Keep} (mod : Nat) (s : State) (Hs : Kept cs s) : KeptOut cs (execBridgeModuleDown mod s) := by
  unfold execBridgeModuleDown
  try dsimp only
  with_reducible repeat' (first | assumption | apply keptOut_next | apply moduleDown_kept | apply run_kept | apply whenOk_kept | dsimp only | refine kept_of_snd (by assumption) ?_ | refine kept_of_snd2 (by assumption) ?_ | refine kept_of_fst (by assumption) ?_ | (simp only [kept_mk_iff]; (first | apply keptIn_fold | apply keptIn_flags)) | split | intro _)

theorem memBooted_kept {cs : Keep} (s : State) (Hs : Kept cs s) : Kept cs (memBooted s) := by
  unfold memBooted
  try dsimp only
  with_reducible repeat' (first | assumption | apply State.setF_kept | dsimp only | refine kept_of_snd (by assumption) ?_ | refine kept_of_snd2 (by assumption) ?_ | refine kept_of_fst (by assumption) ?_ | (simp only [kept_mk_iff]; (first | apply keptIn_fold | apply keptIn_flags)) | split | intro _)

theorem bridgeBooted_kept {cs : Keep} (s : State) (Hs : Kept cs s) : Kept cs (bridgeBooted s) := by
  unfold bridgeBooted
  try dsimp only
  with_reducible repeat' (first | assumption | apply memBooted_kept | apply State.setF_kept | apply forEach_kept | dsimp only | refine kept_of_snd (by assumption) ?_ | refine kept_of_snd2 (by assumption) ?_ | refine kept_of_fst (by assumption) ?_ | (simp only [kept_mk_iff]; (first | apply keptIn_fold | apply keptIn_flags)) | split | intro _)

theorem moduleTrained_kept {cs : Keep} (mod : Nat) (rate : Nat) (s : State) (Hs : Kept cs s) : Kept cs (moduleTrained mod rate s) := by
  unfold moduleTrained
  try dsimp only
  with_reducible repeat' (first | assumption | apply bridgeBooted_kept | apply startRetrain_kept | apply bridgeStatus_kept | dsimp only | refine kept_of_snd (by assumption) ?_ | refine kept_of_snd2 (by assumption) ?_ | refine kept_of_fst (by assumption) ?_ | (simp only [kept_mk_iff]; (first | apply keptIn_fold | apply keptIn_flags)) | split | intro _)

theorem moduleUntrained_kept {cs : Keep} (mod : Nat) (s : State) (Hs : Kept cs s) : Kept cs (moduleUntrained mod s) := by
  unfold moduleUntrained
  try dsimp only
  with_reducible repeat' (first | assumption | apply bridgeLog_kept | apply startRetrain_kept | apply declareFailed_kept | dsimp only | refine kept_of_snd (by assumption) ?_ | refine kept_of_snd2 (by assumption) ?_ | refine kept_of_fst (by assumption) ?_ | (simp only [kept_mk_iff]; (first | apply keptIn_fold | apply keptIn_flags)) | split | intro _)

theorem execBridgeModuleTrained_kept {cs : Keep} (mod : Nat) (rate : Option Nat) (s : State) (Hs : Kept cs s) : KeptOut cs (execBridgeModuleTrained mod rate s) := by
  unfold execBridgeModuleTrained
  try dsimp only
  with_reducible repeat' (first | assumption | apply keptOut_next | apply moduleUntrained_kept | apply moduleTrained_kept | apply run_kept | apply whenOk_kept | dsimp only | refine kept_of_snd (by assumption) ?_ | refine kept_of_snd2 (by assumption) ?_ | refine kept_of_fst (by assumption) ?_ | (simp only [kept_mk_iff]; (first | apply keptIn_fold | apply keptIn_flags)) | split | intro _)

theorem execBridgeLaneRepair_kept {cs : Keep} (die : Nat) (mod : Nat) (s : State) (Hs : Kept cs s) : KeptOut cs (execBridgeLaneRepair die mod s) := by
  unfold execBridgeLaneRepair
  try dsimp only
  with_reducible repeat' (first | assumption | apply keptOut_next | apply run_kept | apply whenOk_kept | apply State.addF_kept | dsimp only | refine kept_of_snd (by assumption) ?_ | refine kept_of_snd2 (by assumption) ?_ | refine kept_of_fst (by assumption) ?_ | (simp only [kept_mk_iff]; (first | apply keptIn_fold | apply keptIn_flags)) | split | intro _)

theorem resetRegs_kept {cs : Keep} (pg : Nat) (s : State) (hs : Kept cs s) : Kept cs (resetRegs pg s) := by
  unfold resetRegs
  split
  · exact hs
  · refine ⟨hs.1, fun c => SMap.filterMap_wf resetWord _ ?_ _ 0 (hs.2.1 c), hs.2.2⟩
    intro e x h
    dsimp only at h
    split at h
    · cases h; exact ⟨rfl, id⟩
    · split at h
      · cases h
      · rename_i hne; cases h; exact ⟨rfl, fun _ => hne⟩

theorem dropQueued_kept {cs : Keep} (p : Nat) (s : State) (Hs : Kept cs s) : Kept cs (dropQueued p s) := by
  unfold dropQueued
  try dsimp only
  with_reducible repeat' (first | assumption | apply State.setQp_kept | apply foldl_kept2 | apply foldl_kept | dsimp only | refine kept_of_snd (by assumption) ?_ | refine kept_of_snd2 (by assumption) ?_ | refine kept_of_fst (by assumption) ?_ | (simp only [kept_mk_iff]; (first | apply keptIn_fold | apply keptIn_flags)) | split | intro _)

theorem heldFault_kept {cs : Keep} (p : Nat) (code : Nat) (n : Nat) (s : State) (Hs : Kept cs s) : Kept cs (heldFault p code n s) := by
  unfold heldFault
  try dsimp only
  with_reducible repeat' (first | assumption | apply trace_kept | apply State.setSlot_kept | apply State.setSc_kept | apply logErr_kept | dsimp only | refine kept_of_snd (by assumption) ?_ | refine kept_of_snd2 (by assumption) ?_ | refine kept_of_fst (by assumption) ?_ | (simp only [kept_mk_iff]; (first | apply keptIn_fold | apply keptIn_flags)) | split | intro _)

theorem runFault_kept {cs : Keep} (p : Nat) (code : Nat) (n : Nat) (s : State) (Hs : Kept cs s) : Kept cs (runFault p code n s) := by
  unfold runFault
  try dsimp only
  with_reducible repeat' (first | assumption | apply execFault_kept | apply opFault_kept | apply logErr_kept | dsimp only | refine kept_of_snd (by assumption) ?_ | refine kept_of_snd2 (by assumption) ?_ | refine kept_of_fst (by assumption) ?_ | (simp only [kept_mk_iff]; (first | apply keptIn_fold | apply keptIn_flags)) | split | intro _)

theorem inReset_kept {cs : Keep} (p : Nat) (s : State) (Hs : Kept cs s) : Kept cs (inReset p s) := by
  unfold inReset
  try dsimp only
  with_reducible repeat' (first | assumption | apply sendCpl_kept | apply State.setSc_kept | apply forEach_kept | dsimp only | refine kept_of_snd (by assumption) ?_ | refine kept_of_snd2 (by assumption) ?_ | refine kept_of_fst (by assumption) ?_ | (simp only [kept_mk_iff]; (first | apply keptIn_fold | apply keptIn_flags)) | split | intro _)

theorem schReset_kept {cs : Keep} (p : Nat) (code : Nat) (s : State) (Hs : Kept cs s) : Kept cs (schReset p code s) := by
  unfold schReset
  try dsimp only
  with_reducible repeat' (first | assumption | apply inReset_kept | apply runFault_kept | apply heldFault_kept | apply dropQueued_kept | apply State.setSc_kept | apply State.setAl_kept | apply forEach_kept | dsimp only | refine kept_of_snd (by assumption) ?_ | refine kept_of_snd2 (by assumption) ?_ | refine kept_of_fst (by assumption) ?_ | (simp only [kept_mk_iff]; (first | apply keptIn_fold | apply keptIn_flags)) | split | intro _)

theorem coreReset_kept {cs : Keep} (c : Nat) (code : Nat) (s : State) (Hs : Kept cs s) : Kept cs (coreReset c code s) := by
  unfold coreReset
  try dsimp only
  with_reducible repeat' (first | assumption | apply coreFaultLog_kept | apply coreDrop_kept | apply State.setCore_kept | dsimp only | refine kept_of_snd (by assumption) ?_ | refine kept_of_snd2 (by assumption) ?_ | refine kept_of_fst (by assumption) ?_ | (simp only [kept_mk_iff]; (first | apply keptIn_fold | apply keptIn_flags)) | split | intro _)

theorem debugEnd_kept {cs : Keep} (p : Nat) (s : State) (Hs : Kept cs s) : Kept cs (debugEnd p s) := by
  unfold debugEnd
  try dsimp only
  with_reducible repeat' (first | assumption | apply State.setW_kept | dsimp only | refine kept_of_snd (by assumption) ?_ | refine kept_of_snd2 (by assumption) ?_ | refine kept_of_fst (by assumption) ?_ | (simp only [kept_mk_iff]; (first | apply keptIn_fold | apply keptIn_flags)) | split | intro _)

theorem cluReset_kept {cs : Keep} (k : Nat) (code : Nat) (s : State) (Hs : Kept cs s) : Kept cs (cluReset k code s) := by
  unfold cluReset
  try dsimp only
  with_reducible repeat' (first | assumption | apply debugEnd_kept | apply coreFault_kept | apply logErr_kept | apply State.setClu_kept | apply forEach_kept | dsimp only | refine kept_of_snd (by assumption) ?_ | refine kept_of_snd2 (by assumption) ?_ | refine kept_of_fst (by assumption) ?_ | (simp only [kept_mk_iff]; (first | apply keptIn_fold | apply keptIn_flags)) | split | intro _)

theorem tokReset_kept {cs : Keep} (e : Nat) (code : Nat) (s : State) (Hs : Kept cs s) : Kept cs (tokReset e code s) := by
  unfold tokReset
  try dsimp only
  with_reducible repeat' (first | assumption | apply State.setEng_kept | apply execFault_kept | apply logErr_kept | apply forEach_kept | dsimp only | refine kept_of_snd (by assumption) ?_ | refine kept_of_snd2 (by assumption) ?_ | refine kept_of_fst (by assumption) ?_ | (simp only [kept_mk_iff]; (first | apply keptIn_fold | apply keptIn_flags)) | split | intro _)

theorem migReset_kept {cs : Keep} (d : Nat) (code : Nat) (s : State) (Hs : Kept cs s) : Kept cs (migReset d code s) := by
  unfold migReset
  try dsimp only
  with_reducible repeat' (first | assumption | apply execFault_kept | apply State.setMop_kept | apply forEach_kept | dsimp only | refine kept_of_snd (by assumption) ?_ | refine kept_of_snd2 (by assumption) ?_ | refine kept_of_fst (by assumption) ?_ | (simp only [kept_mk_iff]; (first | apply keptIn_fold | apply keptIn_flags)) | split | intro _)

theorem ckpReset_kept {cs : Keep} (code : Nat) (s : State) (Hs : Kept cs s) : Kept cs (ckpReset code s) := by
  unfold ckpReset
  try dsimp only
  with_reducible repeat' (first | assumption | apply restoreFail_kept | apply capFail_kept | apply unpause_kept | apply resumePart_kept | apply ckpEnd_kept | apply execFault_kept | dsimp only | refine kept_of_snd (by assumption) ?_ | refine kept_of_snd2 (by assumption) ?_ | refine kept_of_fst (by assumption) ?_ | (simp only [kept_mk_iff]; (first | apply keptIn_fold | apply keptIn_flags)) | split | intro _)

theorem lnkReset_kept {cs : Keep} (l : Nat) (code : Nat) (s : State) (Hs : Kept cs s) : Kept cs (lnkReset l code s) := by
  unfold lnkReset
  try dsimp only
  with_reducible repeat' (first | assumption | apply pump_kept | apply failReq_kept | apply failWho_kept | apply State.setLink_kept | apply forEach_kept | dsimp only | refine kept_of_snd (by assumption) ?_ | refine kept_of_snd2 (by assumption) ?_ | refine kept_of_fst (by assumption) ?_ | (simp only [kept_mk_iff]; (first | apply keptIn_fold | apply keptIn_flags)) | split | intro _)

theorem ctlReset_kept {cs : Keep} (pg : Nat) (code : Nat) (s : State) (Hs : Kept cs s) : Kept cs (ctlReset pg code s) := by
  unfold ctlReset
  try dsimp only
  with_reducible repeat' (first | assumption | apply coreFault_kept | apply logErr_kept | apply State.setCtl_kept | apply State.setF_kept | apply forEach_kept | dsimp only | refine kept_of_snd (by assumption) ?_ | refine kept_of_snd2 (by assumption) ?_ | refine kept_of_fst (by assumption) ?_ | (simp only [kept_mk_iff]; (first | apply keptIn_fold | apply keptIn_flags)) | split | intro _)

theorem fscLinkDown_kept {cs : Keep} (pg : Nat) (s : State) (Hs : Kept cs s) : Kept cs (fscLinkDown pg s) := by
  unfold fscLinkDown
  try dsimp only
  with_reducible repeat' (first | assumption | apply State.setF_kept | dsimp only | refine kept_of_snd (by assumption) ?_ | refine kept_of_snd2 (by assumption) ?_ | refine kept_of_fst (by assumption) ?_ | (simp only [kept_mk_iff]; (first | apply keptIn_fold | apply keptIn_flags)) | split | intro _)

theorem slotPower_kept {cs : Keep} (i : Nat) (s : State) (Hs : Kept cs s) : Kept cs (slotPower i s) := by
  unfold slotPower
  try dsimp only
  with_reducible repeat' (first | assumption | apply fscLinkDown_kept | apply State.emit_kept | dsimp only | refine kept_of_snd (by assumption) ?_ | refine kept_of_snd2 (by assumption) ?_ | refine kept_of_fst (by assumption) ?_ | (simp only [kept_mk_iff]; (first | apply keptIn_fold | apply keptIn_flags)) | split | intro _)

theorem dropXfer_kept {cs : Keep} (code : Nat) (x : BridgeXfer) (s : State) (Hs : Kept cs s) : Kept cs (dropXfer code x s) := by
  unfold dropXfer
  try dsimp only
  with_reducible repeat' (first | assumption | apply bridgeLeave_kept | apply execFault_kept | dsimp only | refine kept_of_snd (by assumption) ?_ | refine kept_of_snd2 (by assumption) ?_ | refine kept_of_fst (by assumption) ?_ | (simp only [kept_mk_iff]; (first | apply keptIn_fold | apply keptIn_flags)) | split | intro _)

theorem unassignDrop_kept {cs : Keep} (s : State) (Hs : Kept cs s) : Kept cs (unassignDrop s) := by
  unfold unassignDrop
  try dsimp only
  with_reducible repeat' (first | assumption | apply logErr_kept | apply State.setF_kept | dsimp only | refine kept_of_snd (by assumption) ?_ | refine kept_of_snd2 (by assumption) ?_ | refine kept_of_fst (by assumption) ?_ | (simp only [kept_mk_iff]; (first | apply keptIn_fold | apply keptIn_flags)) | split | intro _)

theorem hifReset_kept {cs : Keep} (code : Nat) (s : State) (Hs : Kept cs s) : Kept cs (hifReset code s) := by
  unfold hifReset
  try dsimp only
  with_reducible repeat' (first | assumption | apply State.setQp_kept | apply logErr_kept | apply forEach_kept | dsimp only | refine kept_of_snd (by assumption) ?_ | refine kept_of_snd2 (by assumption) ?_ | refine kept_of_fst (by assumption) ?_ | (simp only [kept_mk_iff]; (first | apply keptIn_fold | apply keptIn_flags)) | split | intro _)

theorem blockDrop_kept {cs : Keep} (pg : Nat) (code : Nat) (s : State) (Hs : Kept cs s) : Kept cs (blockDrop pg code s) := by
  unfold blockDrop
  try dsimp only
  with_reducible repeat' (first | assumption | apply hifReset_kept | apply unassignDrop_kept | apply dropXfer_kept | apply ctlReset_kept | apply lnkReset_kept | apply ckpReset_kept | apply migReset_kept | apply tokReset_kept | apply cluReset_kept | apply coreReset_kept | apply schReset_kept | apply forEach_kept | dsimp only | refine kept_of_snd (by assumption) ?_ | refine kept_of_snd2 (by assumption) ?_ | refine kept_of_fst (by assumption) ?_ | (simp only [kept_mk_iff]; (first | apply keptIn_fold | apply keptIn_flags)) | split | intro _)

theorem blockAfter_kept {cs : Keep} (pg : Nat) (s : State) (Hs : Kept cs s) : Kept cs (blockAfter pg s) := by
  unfold blockAfter
  try dsimp only
  with_reducible repeat' (first | assumption | apply slotPower_kept | apply bridgeStatus_kept | apply poolReset_kept | dsimp only | refine kept_of_snd (by assumption) ?_ | refine kept_of_snd2 (by assumption) ?_ | refine kept_of_fst (by assumption) ?_ | (simp only [kept_mk_iff]; (first | apply keptIn_fold | apply keptIn_flags)) | split | intro _)

theorem blockReset_kept {cs : Keep} (pg : Nat) (code : Nat) (s : State) (Hs : Kept cs s) : Kept cs (blockReset pg code s) := by
  unfold blockReset
  try dsimp only
  with_reducible repeat' (first | assumption | apply blockAfter_kept | apply blockDrop_kept | apply resetRegs_kept | dsimp only | refine kept_of_snd (by assumption) ?_ | refine kept_of_snd2 (by assumption) ?_ | refine kept_of_fst (by assumption) ?_ | (simp only [kept_mk_iff]; (first | apply keptIn_fold | apply keptIn_flags)) | split | intro _)

theorem startReset_kept {cs : Keep} (pg : Nat) (code : Nat) (s : State) (Hs : Kept cs s) : Kept cs (startReset pg code s) := by
  unfold startReset
  try dsimp only
  with_reducible repeat' (first | assumption | apply blockReset_kept | apply State.setF_kept | dsimp only | refine kept_of_snd (by assumption) ?_ | refine kept_of_snd2 (by assumption) ?_ | refine kept_of_fst (by assumption) ?_ | (simp only [kept_mk_iff]; (first | apply keptIn_fold | apply keptIn_flags)) | split | intro _)

theorem forceReset_kept {cs : Keep} (pg : Nat) (code : Nat) (s : State) (Hs : Kept cs s) : Kept cs (forceReset pg code s) := by
  unfold forceReset
  try dsimp only
  with_reducible repeat' (first | assumption | apply startReset_kept | apply blockReset_kept | apply State.setF_kept | dsimp only | refine kept_of_snd (by assumption) ?_ | refine kept_of_snd2 (by assumption) ?_ | refine kept_of_fst (by assumption) ?_ | (simp only [kept_mk_iff]; (first | apply keptIn_fold | apply keptIn_flags)) | split | intro _)

theorem resetTimeout_kept {cs : Keep} (pg : Nat) (s : State) (Hs : Kept cs s) : Kept cs (resetTimeout pg s) := by
  unfold resetTimeout
  try dsimp only
  with_reducible repeat' (first | assumption | apply logErr_kept | dsimp only | refine kept_of_snd (by assumption) ?_ | refine kept_of_snd2 (by assumption) ?_ | refine kept_of_fst (by assumption) ?_ | (simp only [kept_mk_iff]; (first | apply keptIn_fold | apply keptIn_flags)) | split | intro _)

theorem resetDone_kept {cs : Keep} (pg : Nat) (s : State) (Hs : Kept cs s) : Kept cs (resetDone pg s) := by
  unfold resetDone
  try dsimp only
  with_reducible repeat' (first | assumption | apply resetTimeout_kept | apply pendSet_kept | apply State.setF_kept | dsimp only | refine kept_of_snd (by assumption) ?_ | refine kept_of_snd2 (by assumption) ?_ | refine kept_of_fst (by assumption) ?_ | (simp only [kept_mk_iff]; (first | apply keptIn_fold | apply keptIn_flags)) | split | intro _)

theorem zeroCore_kept {cs : Keep} (c : Nat) (s : State) (Hs : Kept cs s) : Kept cs (zeroCore c s) := by
  unfold zeroCore
  try dsimp only
  with_reducible repeat' (first | assumption | apply State.setCore_kept | apply State.setF_kept | dsimp only | refine kept_of_snd (by assumption) ?_ | refine kept_of_snd2 (by assumption) ?_ | refine kept_of_fst (by assumption) ?_ | (simp only [kept_mk_iff]; (first | apply keptIn_fold | apply keptIn_flags)) | split | intro _)

theorem zeroClu_kept {cs : Keep} (k : Nat) (s : State) (Hs : Kept cs s) : Kept cs (zeroClu k s) := by
  unfold zeroClu
  try dsimp only
  with_reducible repeat' (first | assumption | apply zeroCore_kept | apply State.setClu_kept | apply forEach_kept | dsimp only | refine kept_of_snd (by assumption) ?_ | refine kept_of_snd2 (by assumption) ?_ | refine kept_of_fst (by assumption) ?_ | (simp only [kept_mk_iff]; (first | apply keptIn_fold | apply keptIn_flags)) | split | intro _)

theorem execSoftResetDone_kept {cs : Keep} (pg : Nat) (s : State) (Hs : Kept cs s) : KeptOut cs (execSoftResetDone pg s) := by
  unfold execSoftResetDone
  try dsimp only
  with_reducible repeat' (first | assumption | apply keptOut_next | apply resetDone_kept | apply run_kept | apply whenOk_kept | dsimp only | refine kept_of_snd (by assumption) ?_ | refine kept_of_snd2 (by assumption) ?_ | refine kept_of_fst (by assumption) ?_ | (simp only [kept_mk_iff]; (first | apply keptIn_fold | apply keptIn_flags)) | split | intro _)

theorem execSoftResetTimeout_kept {cs : Keep} (pg : Nat) (s : State) (Hs : Kept cs s) : KeptOut cs (execSoftResetTimeout pg s) := by
  unfold execSoftResetTimeout
  try dsimp only
  with_reducible repeat' (first | assumption | apply keptOut_next | apply resetTimeout_kept | apply run_kept | apply whenOk_kept | dsimp only | refine kept_of_snd (by assumption) ?_ | refine kept_of_snd2 (by assumption) ?_ | refine kept_of_fst (by assumption) ?_ | (simp only [kept_mk_iff]; (first | apply keptIn_fold | apply keptIn_flags)) | split | intro _)

theorem tormalClaims_kept {cs : Keep} (s : State) (Hs : Kept cs s) : Kept cs (tormalClaims s) := by
  unfold tormalClaims
  try dsimp only
  with_reducible repeat' (first | assumption | apply State.setW_kept | apply forEach_kept | dsimp only | refine kept_of_snd (by assumption) ?_ | refine kept_of_snd2 (by assumption) ?_ | refine kept_of_fst (by assumption) ?_ | (simp only [kept_mk_iff]; (first | apply keptIn_fold | apply keptIn_flags)) | split | intro _)

theorem stepThree_kept {cs : Keep} (s : State) (Hs : Kept cs s) : Kept cs (stepThree s) := by
  unfold stepThree
  try dsimp only
  with_reducible repeat' (first | assumption | apply tormalClaims_kept | apply State.setF_kept | dsimp only | refine kept_of_snd (by assumption) ?_ | refine kept_of_snd2 (by assumption) ?_ | refine kept_of_fst (by assumption) ?_ | (simp only [kept_mk_iff]; (first | apply keptIn_fold | apply keptIn_flags)) | split | intro _)

theorem tbsLock_kept {cs : Keep} (late : Nat) (s : State) (Hs : Kept cs s) : Kept cs (tbsLock late s) := by
  unfold tbsLock
  try dsimp only
  with_reducible repeat' (first | assumption | apply stepThree_kept | apply State.setF_kept | dsimp only | refine kept_of_snd (by assumption) ?_ | refine kept_of_snd2 (by assumption) ?_ | refine kept_of_fst (by assumption) ?_ | (simp only [kept_mk_iff]; (first | apply keptIn_fold | apply keptIn_flags)) | split | intro _)

theorem execTbsLock_kept {cs : Keep} (late : Nat) (s : State) (Hs : Kept cs s) : KeptOut cs (execTbsLock late s) := by
  unfold execTbsLock
  try dsimp only
  with_reducible repeat' (first | assumption | apply keptOut_next | apply tbsLock_kept | apply run_kept | apply whenOk_kept | dsimp only | refine kept_of_snd (by assumption) ?_ | refine kept_of_snd2 (by assumption) ?_ | refine kept_of_fst (by assumption) ?_ | (simp only [kept_mk_iff]; (first | apply keptIn_fold | apply keptIn_flags)) | split | intro _)

theorem skewMeasure_kept {cs : Keep} (s : State) (Hs : Kept cs s) : Kept cs (skewMeasure s) := by
  unfold skewMeasure
  try dsimp only
  with_reducible repeat' (first | assumption | apply State.setF_kept | dsimp only | refine kept_of_snd (by assumption) ?_ | refine kept_of_snd2 (by assumption) ?_ | refine kept_of_fst (by assumption) ?_ | (simp only [kept_mk_iff]; (first | apply keptIn_fold | apply keptIn_flags)) | split | intro _)

theorem execSkewMeasure_kept {cs : Keep} (s : State) (Hs : Kept cs s) : KeptOut cs (execSkewMeasure s) := by
  unfold execSkewMeasure
  try dsimp only
  with_reducible repeat' (first | assumption | apply keptOut_next | apply skewMeasure_kept | apply run_kept | dsimp only | refine kept_of_snd (by assumption) ?_ | refine kept_of_snd2 (by assumption) ?_ | refine kept_of_fst (by assumption) ?_ | (simp only [kept_mk_iff]; (first | apply keptIn_fold | apply keptIn_flags)) | split | intro _)

theorem evrRates_kept {cs : Keep} (rate0 : Nat) (rate1 : Nat) (s : State) (Hs : Kept cs s) : Kept cs (evrRates rate0 rate1 s) := by
  unfold evrRates
  try dsimp only
  with_reducible repeat' (first | assumption | apply State.setF_kept | dsimp only | refine kept_of_snd (by assumption) ?_ | refine kept_of_snd2 (by assumption) ?_ | refine kept_of_fst (by assumption) ?_ | (simp only [kept_mk_iff]; (first | apply keptIn_fold | apply keptIn_flags)) | split | intro _)

theorem evrEnd_kept {cs : Keep} (rate0 : Nat) (rate1 : Nat) (s : State) (Hs : Kept cs s) : Kept cs (evrEnd rate0 rate1 s) := by
  unfold evrEnd
  try dsimp only
  with_reducible repeat' (first | assumption | apply evrRates_kept | dsimp only | refine kept_of_snd (by assumption) ?_ | refine kept_of_snd2 (by assumption) ?_ | refine kept_of_fst (by assumption) ?_ | (simp only [kept_mk_iff]; (first | apply keptIn_fold | apply keptIn_flags)) | split | intro _)

theorem execEvrWindowEnd_kept {cs : Keep} (rate0 : Nat) (rate1 : Nat) (s : State) (Hs : Kept cs s) : KeptOut cs (execEvrWindowEnd rate0 rate1 s) := by
  unfold execEvrWindowEnd
  try dsimp only
  with_reducible repeat' (first | assumption | apply keptOut_next | apply evrEnd_kept | apply run_kept | dsimp only | refine kept_of_snd (by assumption) ?_ | refine kept_of_snd2 (by assumption) ?_ | refine kept_of_fst (by assumption) ?_ | (simp only [kept_mk_iff]; (first | apply keptIn_fold | apply keptIn_flags)) | split | intro _)

theorem wrEvrCtl_kept {cs : Keep} (m : Nat) (v : Nat) (s : State) (Hs : Kept cs s) : Kept cs (wrEvrCtl m v s) := by
  unfold wrEvrCtl
  try dsimp only
  with_reducible repeat' (first | assumption | apply checkedWrite_kept | apply State.setF_kept | dsimp only | refine kept_of_snd (by assumption) ?_ | refine kept_of_snd2 (by assumption) ?_ | refine kept_of_fst (by assumption) ?_ | (simp only [kept_mk_iff]; (first | apply keptIn_fold | apply keptIn_flags)) | split | intro _)

theorem execClrMin_kept {cs : Keep} (m : Nat) (win : Nat) (s : State) (Hs : Kept cs s) : KeptOut cs (execClrMin m win s) := by
  unfold execClrMin
  try dsimp only
  with_reducible repeat' (first | assumption | apply keptOut_next | apply wrEvrCtl_kept | apply run_kept | apply whenOk_kept | dsimp only | refine kept_of_snd (by assumption) ?_ | refine kept_of_snd2 (by assumption) ?_ | refine kept_of_fst (by assumption) ?_ | (simp only [kept_mk_iff]; (first | apply keptIn_fold | apply keptIn_flags)) | split | intro _)

theorem refLost_kept {cs : Keep} (s : State) (Hs : Kept cs s) : Kept cs (refLost s) := by
  unfold refLost
  try dsimp only
  with_reducible repeat' (first | assumption | apply logErr_kept | apply State.addF_kept | apply State.setF_kept | dsimp only | refine kept_of_snd (by assumption) ?_ | refine kept_of_snd2 (by assumption) ?_ | refine kept_of_fst (by assumption) ?_ | (simp only [kept_mk_iff]; (first | apply keptIn_fold | apply keptIn_flags)) | split | intro _)

theorem execReferenceLost_kept {cs : Keep} (s : State) (Hs : Kept cs s) : KeptOut cs (execReferenceLost s) := by
  unfold execReferenceLost
  try dsimp only
  with_reducible repeat' (first | assumption | apply keptOut_next | apply refLost_kept | apply run_kept | dsimp only | refine kept_of_snd (by assumption) ?_ | refine kept_of_snd2 (by assumption) ?_ | refine kept_of_fst (by assumption) ?_ | (simp only [kept_mk_iff]; (first | apply keptIn_fold | apply keptIn_flags)) | split | intro _)

theorem execReferenceReturn_kept {cs : Keep} (s : State) (Hs : Kept cs s) : KeptOut cs (execReferenceReturn s) := by
  unfold execReferenceReturn
  try dsimp only
  with_reducible repeat' (first | assumption | apply keptOut_next | apply run_kept | apply State.setF_kept | dsimp only | refine kept_of_snd (by assumption) ?_ | refine kept_of_snd2 (by assumption) ?_ | refine kept_of_fst (by assumption) ?_ | (simp only [kept_mk_iff]; (first | apply keptIn_fold | apply keptIn_flags)) | split | intro _)

theorem execNearRecalibrate_kept {cs : Keep} (ch : Nat) (start : Bool) (s : State) (Hs : Kept cs s) : KeptOut cs (execNearRecalibrate ch start s) := by
  unfold execNearRecalibrate
  try dsimp only
  with_reducible repeat' (first | assumption | apply keptOut_next | apply run_kept | apply whenOk_kept | apply State.setF_kept | dsimp only | refine kept_of_snd (by assumption) ?_ | refine kept_of_snd2 (by assumption) ?_ | refine kept_of_fst (by assumption) ?_ | (simp only [kept_mk_iff]; (first | apply keptIn_fold | apply keptIn_flags)) | split | intro _)

theorem wrPgOwner_kept {cs : Keep} (m : Nat) (pg : Nat) (v : Nat) (s : State) (Hs : Kept cs s) : Kept cs (wrPgOwner m pg v s) := by
  unfold wrPgOwner
  try dsimp only
  with_reducible repeat' (first | assumption | apply unbacked_kept | apply refuse_kept | apply State.setW_kept | dsimp only | refine kept_of_snd (by assumption) ?_ | refine kept_of_snd2 (by assumption) ?_ | refine kept_of_fst (by assumption) ?_ | (simp only [kept_mk_iff]; (first | apply keptIn_fold | apply keptIn_flags)) | split | intro _)

theorem releasePage_kept {cs : Keep} (pg : Nat) (s : State) (Hs : Kept cs s) : Kept cs (releasePage pg s) := by
  unfold releasePage
  try dsimp only
  with_reducible repeat' (first | assumption | apply State.setW_kept | dsimp only | refine kept_of_snd (by assumption) ?_ | refine kept_of_snd2 (by assumption) ?_ | refine kept_of_fst (by assumption) ?_ | (simp only [kept_mk_iff]; (first | apply keptIn_fold | apply keptIn_flags)) | split | intro _)

theorem enFollow_kept {cs : Keep} (pg : Nat) (was : Bool) (s : State) (Hs : Kept cs s) : Kept cs (enFollow pg was s) := by
  unfold enFollow
  try dsimp only
  with_reducible repeat' (first | assumption | apply linkFollow_kept | apply linkStop_kept | apply State.setCore_kept | dsimp only | refine kept_of_snd (by assumption) ?_ | refine kept_of_snd2 (by assumption) ?_ | refine kept_of_fst (by assumption) ?_ | (simp only [kept_mk_iff]; (first | apply keptIn_fold | apply keptIn_flags)) | split | intro _)

theorem wrPgCtl_kept {cs : Keep} (m : Nat) (pg : Nat) (v : Nat) (s : State) (Hs : Kept cs s) : Kept cs (wrPgCtl m pg v s) := by
  unfold wrPgCtl
  try dsimp only
  with_reducible repeat' (first | assumption | apply enFollow_kept | apply startReset_kept | apply unbacked_kept | apply refuse_kept | apply State.setF_kept | dsimp only | refine kept_of_snd (by assumption) ?_ | refine kept_of_snd2 (by assumption) ?_ | refine kept_of_fst (by assumption) ?_ | (simp only [kept_mk_iff]; (first | apply keptIn_fold | apply keptIn_flags)) | split | intro _)

theorem pageHeld_kept {cs : Keep} (pg : Nat) (s : State) (Hs : Kept cs s) : Kept cs (pageHeld pg s) := by
  unfold pageHeld
  try dsimp only
  with_reducible repeat' (first | assumption | apply State.setF_kept | dsimp only | refine kept_of_snd (by assumption) ?_ | refine kept_of_snd2 (by assumption) ?_ | refine kept_of_fst (by assumption) ?_ | (simp only [kept_mk_iff]; (first | apply keptIn_fold | apply keptIn_flags)) | split | intro _)

theorem headWrite_kept {cs : Keep} (m : Nat) (pg : Nat) (ofs : Nat) (v : Nat) (range : State → Bool) (eff : State → State) (s : State) (Heff : ∀ s, Kept cs s → Kept cs (eff s)) (Hs : Kept cs s) : Kept cs (headWrite m pg ofs v range eff s) := by
  unfold headWrite
  try dsimp only
  with_reducible repeat' (first | assumption | apply Heff | apply unbacked_kept | apply refuse_kept | dsimp only | refine kept_of_snd (by assumption) ?_ | refine kept_of_snd2 (by assumption) ?_ | refine kept_of_fst (by assumption) ?_ | (simp only [kept_mk_iff]; (first | apply keptIn_fold | apply keptIn_flags)) | split | intro _)

theorem wrErrFirst_kept {cs : Keep} (m : Nat) (pg : Nat) (v : Nat) (s : State) (Hs : Kept cs s) : Kept cs (wrErrFirst m pg v s) := by
  unfold wrErrFirst
  try dsimp only
  with_reducible repeat' (first | assumption | apply headWrite_kept | apply State.setW_kept | apply State.setF_kept | dsimp only | refine kept_of_snd (by assumption) ?_ | refine kept_of_snd2 (by assumption) ?_ | refine kept_of_fst (by assumption) ?_ | (simp only [kept_mk_iff]; (first | apply keptIn_fold | apply keptIn_flags)) | split | intro _)

theorem enRecord_kept {cs : Keep} (pg : Nat) (b : Nat) (s : State) (Hs : Kept cs s) : Kept cs (enRecord pg b s) := by
  unfold enRecord
  try dsimp only
  with_reducible repeat' (first | assumption | apply emitRec_kept | dsimp only | refine kept_of_snd (by assumption) ?_ | refine kept_of_snd2 (by assumption) ?_ | refine kept_of_fst (by assumption) ?_ | (simp only [kept_mk_iff]; (first | apply keptIn_fold | apply keptIn_flags)) | split | intro _)

theorem wrEvtEn_kept {cs : Keep} (m : Nat) (pg : Nat) (v : Nat) (s : State) (Hs : Kept cs s) : Kept cs (wrEvtEn m pg v s) := by
  unfold wrEvtEn
  try dsimp only
  with_reducible repeat' (first | assumption | apply enRecord_kept | apply headWrite_kept | apply State.setW_kept | apply forUp_kept | apply forUp_kept2 | dsimp only | refine kept_of_snd (by assumption) ?_ | refine kept_of_snd2 (by assumption) ?_ | refine kept_of_fst (by assumption) ?_ | (simp only [kept_mk_iff]; (first | apply keptIn_fold | apply keptIn_flags)) | split | intro _)

theorem softBit_kept {cs : Keep} (pg : Nat) (b : Nat) (s : State) (Hs : Kept cs s) : Kept cs (softBit pg b s) := by
  unfold softBit
  try dsimp only
  with_reducible repeat' (first | assumption | apply pendSet_kept | apply emitRec_kept | apply State.setF_kept | dsimp only | refine kept_of_snd (by assumption) ?_ | refine kept_of_snd2 (by assumption) ?_ | refine kept_of_fst (by assumption) ?_ | (simp only [kept_mk_iff]; (first | apply keptIn_fold | apply keptIn_flags)) | split | intro _)

theorem wrEvtSet_kept {cs : Keep} (m : Nat) (pg : Nat) (v : Nat) (s : State) (Hs : Kept cs s) : Kept cs (wrEvtSet m pg v s) := by
  unfold wrEvtSet
  try dsimp only
  with_reducible repeat' (first | assumption | apply softBit_kept | apply headWrite_kept | apply forUp_kept | apply forUp_kept2 | dsimp only | refine kept_of_snd (by assumption) ?_ | refine kept_of_snd2 (by assumption) ?_ | refine kept_of_fst (by assumption) ?_ | (simp only [kept_mk_iff]; (first | apply keptIn_fold | apply keptIn_flags)) | split | intro _)

theorem wrEvtPend_kept {cs : Keep} (m : Nat) (pg : Nat) (v : Nat) (s : State) (Hs : Kept cs s) : Kept cs (wrEvtPend m pg v s) := by
  unfold wrEvtPend
  try dsimp only
  with_reducible repeat' (first | assumption | apply headWrite_kept | apply State.setW_kept | dsimp only | refine kept_of_snd (by assumption) ?_ | refine kept_of_snd2 (by assumption) ?_ | refine kept_of_fst (by assumption) ?_ | (simp only [kept_mk_iff]; (first | apply keptIn_fold | apply keptIn_flags)) | split | intro _)

theorem wrTmo_kept {cs : Keep} (m : Nat) (pg : Nat) (v : Nat) (s : State) (Hs : Kept cs s) : Kept cs (wrTmo m pg v s) := by
  unfold wrTmo
  try dsimp only
  with_reducible repeat' (first | assumption | apply headWrite_kept | apply State.setW_kept | dsimp only | refine kept_of_snd (by assumption) ?_ | refine kept_of_snd2 (by assumption) ?_ | refine kept_of_fst (by assumption) ?_ | (simp only [kept_mk_iff]; (first | apply keptIn_fold | apply keptIn_flags)) | split | intro _)

theorem wrPerfSel_kept {cs : Keep} (m : Nat) (pg : Nat) (v : Nat) (s : State) (Hs : Kept cs s) : Kept cs (wrPerfSel m pg v s) := by
  unfold wrPerfSel
  try dsimp only
  with_reducible repeat' (first | assumption | apply headWrite_kept | apply State.setW64_kept | apply State.setF_kept | dsimp only | refine kept_of_snd (by assumption) ?_ | refine kept_of_snd2 (by assumption) ?_ | refine kept_of_fst (by assumption) ?_ | (simp only [kept_mk_iff]; (first | apply keptIn_fold | apply keptIn_flags)) | split | intro _)

theorem wrHead_kept {cs : Keep} (m : Nat) (pg : Nat) (ofs : Nat) (v : Nat) (s : State) (Hs : Kept cs s) : Kept cs (wrHead m pg ofs v s) := by
  unfold wrHead
  try dsimp only
  with_reducible repeat' (first | assumption | apply wrPerfSel_kept | apply wrTmo_kept | apply wrEvtPend_kept | apply wrEvtSet_kept | apply wrEvtEn_kept | apply wrErrFirst_kept | apply headWrite_kept | apply wrPgCtl_kept | apply wrPgOwner_kept | apply id_kept | dsimp only | refine kept_of_snd (by assumption) ?_ | refine kept_of_snd2 (by assumption) ?_ | refine kept_of_fst (by assumption) ?_ | (simp only [kept_mk_iff]; (first | apply keptIn_fold | apply keptIn_flags)) | split | intro _)

theorem wrGlbState_kept {cs : Keep} (m : Nat) (v : Nat) (s : State) (Hs : Kept cs s) : Kept cs (wrGlbState m v s) := by
  unfold wrGlbState
  try dsimp only
  with_reducible repeat' (first | assumption | apply checkedWrite_kept | apply State.setF_kept | dsimp only | refine kept_of_snd (by assumption) ?_ | refine kept_of_snd2 (by assumption) ?_ | refine kept_of_fst (by assumption) ?_ | (simp only [kept_mk_iff]; (first | apply keptIn_fold | apply keptIn_flags)) | split | intro _)

theorem execUnbackedAccess_kept {cs : Keep} (m : Nat) (ofs : Nat) (s : State) (Hs : Kept cs s) : KeptOut cs (execUnbackedAccess m ofs s) := by
  unfold execUnbackedAccess
  try dsimp only
  with_reducible repeat' (first | assumption | apply keptOut_next | apply run_kept | apply whenOk_kept | apply unbacked_kept | dsimp only | refine kept_of_snd (by assumption) ?_ | refine kept_of_snd2 (by assumption) ?_ | refine kept_of_fst (by assumption) ?_ | (simp only [kept_mk_iff]; (first | apply keptIn_fold | apply keptIn_flags)) | split | intro _)

theorem execPageClaim_kept {cs : Keep} (m : Nat) (pg : Nat) (owner : Nat) (s : State) (Hs : Kept cs s) : KeptOut cs (execPageClaim m pg owner s) := by
  unfold execPageClaim
  try dsimp only
  with_reducible repeat' (first | assumption | apply keptOut_next | apply wrPgOwner_kept | apply run_kept | apply whenOk_kept | dsimp only | refine kept_of_snd (by assumption) ?_ | refine kept_of_snd2 (by assumption) ?_ | refine kept_of_fst (by assumption) ?_ | (simp only [kept_mk_iff]; (first | apply keptIn_fold | apply keptIn_flags)) | split | intro _)

theorem execPageRelease_kept {cs : Keep} (m : Nat) (pg : Nat) (s : State) (Hs : Kept cs s) : KeptOut cs (execPageRelease m pg s) := by
  unfold execPageRelease
  try dsimp only
  with_reducible repeat' (first | assumption | apply keptOut_next | apply wrPgOwner_kept | apply run_kept | apply whenOk_kept | dsimp only | refine kept_of_snd (by assumption) ?_ | refine kept_of_snd2 (by assumption) ?_ | refine kept_of_fst (by assumption) ?_ | (simp only [kept_mk_iff]; (first | apply keptIn_fold | apply keptIn_flags)) | split | intro _)

theorem execPageEnable_kept {cs : Keep} (m : Nat) (pg : Nat) (en : Bool) (s : State) (Hs : Kept cs s) : KeptOut cs (execPageEnable m pg en s) := by
  unfold execPageEnable
  try dsimp only
  with_reducible repeat' (first | assumption | apply keptOut_next | apply wrPgCtl_kept | apply run_kept | apply whenOk_kept | dsimp only | refine kept_of_snd (by assumption) ?_ | refine kept_of_snd2 (by assumption) ?_ | refine kept_of_fst (by assumption) ?_ | (simp only [kept_mk_iff]; (first | apply keptIn_fold | apply keptIn_flags)) | split | intro _)

theorem execPageHold_kept {cs : Keep} (m : Nat) (pg : Nat) (hold : Bool) (s : State) (Hs : Kept cs s) : KeptOut cs (execPageHold m pg hold s) := by
  unfold execPageHold
  try dsimp only
  with_reducible repeat' (first | assumption | apply keptOut_next | apply wrPgCtl_kept | apply run_kept | apply whenOk_kept | dsimp only | refine kept_of_snd (by assumption) ?_ | refine kept_of_snd2 (by assumption) ?_ | refine kept_of_fst (by assumption) ?_ | (simp only [kept_mk_iff]; (first | apply keptIn_fold | apply keptIn_flags)) | split | intro _)

theorem execPageHeld_kept {cs : Keep} (pg : Nat) (s : State) (Hs : Kept cs s) : KeptOut cs (execPageHeld pg s) := by
  unfold execPageHeld
  try dsimp only
  with_reducible repeat' (first | assumption | apply keptOut_next | apply pageHeld_kept | apply run_kept | apply whenOk_kept | dsimp only | refine kept_of_snd (by assumption) ?_ | refine kept_of_snd2 (by assumption) ?_ | refine kept_of_fst (by assumption) ?_ | (simp only [kept_mk_iff]; (first | apply keptIn_fold | apply keptIn_flags)) | split | intro _)

theorem execSoftReset_kept {cs : Keep} (m : Nat) (pg : Nat) (s : State) (Hs : Kept cs s) : KeptOut cs (execSoftReset m pg s) := by
  unfold execSoftReset
  try dsimp only
  with_reducible repeat' (first | assumption | apply keptOut_next | apply wrPgCtl_kept | apply run_kept | apply whenOk_kept | dsimp only | refine kept_of_snd (by assumption) ?_ | refine kept_of_snd2 (by assumption) ?_ | refine kept_of_fst (by assumption) ?_ | (simp only [kept_mk_iff]; (first | apply keptIn_fold | apply keptIn_flags)) | split | intro _)

theorem execErrFirstClear_kept {cs : Keep} (m : Nat) (pg : Nat) (s : State) (Hs : Kept cs s) : KeptOut cs (execErrFirstClear m pg s) := by
  unfold execErrFirstClear
  try dsimp only
  with_reducible repeat' (first | assumption | apply keptOut_next | apply wrErrFirst_kept | apply run_kept | apply whenOk_kept | dsimp only | refine kept_of_snd (by assumption) ?_ | refine kept_of_snd2 (by assumption) ?_ | refine kept_of_fst (by assumption) ?_ | (simp only [kept_mk_iff]; (first | apply keptIn_fold | apply keptIn_flags)) | split | intro _)

theorem execEvtEnWrite_kept {cs : Keep} (m : Nat) (pg : Nat) (v : Nat) (s : State) (Hs : Kept cs s) : KeptOut cs (execEvtEnWrite m pg v s) := by
  unfold execEvtEnWrite
  try dsimp only
  with_reducible repeat' (first | assumption | apply keptOut_next | apply wrEvtEn_kept | apply run_kept | apply whenOk_kept | dsimp only | refine kept_of_snd (by assumption) ?_ | refine kept_of_snd2 (by assumption) ?_ | refine kept_of_fst (by assumption) ?_ | (simp only [kept_mk_iff]; (first | apply keptIn_fold | apply keptIn_flags)) | split | intro _)

theorem execEvtSet_kept {cs : Keep} (m : Nat) (pg : Nat) (v : Nat) (s : State) (Hs : Kept cs s) : KeptOut cs (execEvtSet m pg v s) := by
  unfold execEvtSet
  try dsimp only
  with_reducible repeat' (first | assumption | apply keptOut_next | apply wrEvtSet_kept | apply run_kept | apply whenOk_kept | dsimp only | refine kept_of_snd (by assumption) ?_ | refine kept_of_snd2 (by assumption) ?_ | refine kept_of_fst (by assumption) ?_ | (simp only [kept_mk_iff]; (first | apply keptIn_fold | apply keptIn_flags)) | split | intro _)

theorem execGlbStateWrite_kept {cs : Keep} (m : Nat) (st : Nat) (s : State) (Hs : Kept cs s) : KeptOut cs (execGlbStateWrite m st s) := by
  unfold execGlbStateWrite
  try dsimp only
  with_reducible repeat' (first | assumption | apply keptOut_next | apply wrGlbState_kept | apply run_kept | apply whenOk_kept | dsimp only | refine kept_of_snd (by assumption) ?_ | refine kept_of_snd2 (by assumption) ?_ | refine kept_of_fst (by assumption) ?_ | (simp only [kept_mk_iff]; (first | apply keptIn_fold | apply keptIn_flags)) | split | intro _)

theorem execPerfSelWrite_kept {cs : Keep} (m : Nat) (pg : Nat) (v : Nat) (s : State) (Hs : Kept cs s) : KeptOut cs (execPerfSelWrite m pg v s) := by
  unfold execPerfSelWrite
  try dsimp only
  with_reducible repeat' (first | assumption | apply keptOut_next | apply wrPerfSel_kept | apply run_kept | apply whenOk_kept | dsimp only | refine kept_of_snd (by assumption) ?_ | refine kept_of_snd2 (by assumption) ?_ | refine kept_of_fst (by assumption) ?_ | (simp only [kept_mk_iff]; (first | apply keptIn_fold | apply keptIn_flags)) | split | intro _)

end Sys2Proof.Machine
end

