-- ==== Sys2Proof/Laws/KeptPrt.lean ====
section
/-! SUPPORT.  What the operations of partitions, tiers, substitution, RAS, the far store and power keep: the queue of waiting
commands, and the canonical form of the registers and the stores.  One lemma per operation. -/

set_option linter.all false

namespace Sys2Proof.Machine

theorem keyMade_kept {cs : Keep} (s : State) (Hs : Kept cs s) : Kept cs (keyMade s) := by
  unfold keyMade
  try dsimp only
  with_reducible repeat' (first | assumption | dsimp only | refine kept_of_snd (by assumption) ?_ | refine kept_of_snd2 (by assumption) ?_ | refine kept_of_fst (by assumption) ?_ | (simp only [kept_mk_iff]; (first | apply keptIn_fold | apply keptIn_flags)) | split | intro _)

theorem bindKey_kept {cs : Keep} (o : Nat) (s : State) (Hs : Kept cs s) : Kept cs (bindKey o s) := by
  unfold bindKey
  try dsimp only
  with_reducible repeat' (first | assumption | apply keyMade_kept | apply State.setKeySlot_kept | dsimp only | refine kept_of_snd (by assumption) ?_ | refine kept_of_snd2 (by assumption) ?_ | refine kept_of_fst (by assumption) ?_ | (simp only [kept_mk_iff]; (first | apply keptIn_fold | apply keptIn_flags)) | split | intro _)

theorem retireKey_kept {cs : Keep} (o : Nat) (s : State) (Hs : Kept cs s) : Kept cs (retireKey o s) := by
  unfold retireKey
  try dsimp only
  with_reducible repeat' (first | assumption | apply keyMade_kept | apply State.setKeySlot_kept | dsimp only | refine kept_of_snd (by assumption) ?_ | refine kept_of_snd2 (by assumption) ?_ | refine kept_of_fst (by assumption) ?_ | (simp only [kept_mk_iff]; (first | apply keptIn_fold | apply keptIn_flags)) | split | intro _)

theorem keySlotFree_kept {cs : Keep} (n : Nat) (s : State) (Hs : Kept cs s) : Kept cs (keySlotFree n s) := by
  unfold keySlotFree
  try dsimp only
  with_reducible repeat' (first | assumption | apply State.setKeySlot_kept | dsimp only | refine kept_of_snd (by assumption) ?_ | refine kept_of_snd2 (by assumption) ?_ | refine kept_of_fst (by assumption) ?_ | (simp only [kept_mk_iff]; (first | apply keptIn_fold | apply keptIn_flags)) | split | intro _)

theorem wrSecCmd_kept {cs : Keep} (m : Nat) (v : Nat) (s : State) (Hs : Kept cs s) : Kept cs (wrSecCmd m v s) := by
  unfold wrSecCmd
  try dsimp only
  with_reducible repeat' (first | assumption | apply retireKey_kept | apply bindKey_kept | apply checkedWrite_kept | dsimp only | refine kept_of_snd (by assumption) ?_ | refine kept_of_snd2 (by assumption) ?_ | refine kept_of_fst (by assumption) ?_ | (simp only [kept_mk_iff]; (first | apply keptIn_fold | apply keptIn_flags)) | split | intro _)

theorem rngFails_kept {cs : Keep} (s : State) (Hs : Kept cs s) : Kept cs (rngFails s) := by
  unfold rngFails
  try dsimp only
  with_reducible repeat' (first | assumption | apply logErr_kept | apply State.setF_kept | dsimp only | refine kept_of_snd (by assumption) ?_ | refine kept_of_snd2 (by assumption) ?_ | refine kept_of_fst (by assumption) ?_ | (simp only [kept_mk_iff]; (first | apply keptIn_fold | apply keptIn_flags)) | split | intro _)

theorem setHolders_kept {cs : Keep} (res : Nat) (us : List Nat) (o : Option Nat) (s : State) (Hs : Kept cs s) : Kept cs (setHolders res us o s) := by
  unfold setHolders
  try dsimp only
  with_reducible repeat' (first | assumption | apply foldl_kept2 | apply foldl_kept | dsimp only | refine kept_of_snd (by assumption) ?_ | refine kept_of_snd2 (by assumption) ?_ | refine kept_of_fst (by assumption) ?_ | (simp only [kept_mk_iff]; (first | apply keptIn_fold | apply keptIn_flags)) | split | intro _)

theorem clearPage_kept {cs : Keep} (pg : Nat) (s : State) (Hs : Kept cs s) : Kept cs (clearPage pg s) := by
  unfold clearPage
  try dsimp only
  with_reducible repeat' (first | assumption | apply releasePage_kept | apply forceReset_kept | dsimp only | refine kept_of_snd (by assumption) ?_ | refine kept_of_snd2 (by assumption) ?_ | refine kept_of_fst (by assumption) ?_ | (simp only [kept_mk_iff]; (first | apply keptIn_fold | apply keptIn_flags)) | split | intro _)

theorem dropUnit_kept {cs : Keep} (res : Nat) (u : Nat) (s : State) (Hs : Kept cs s) : Kept cs (dropUnit res u s) := by
  unfold dropUnit
  try dsimp only
  with_reducible repeat' (first | assumption | apply clearPage_kept | apply zeroClu_kept | apply forEach_kept | dsimp only | refine kept_of_snd (by assumption) ?_ | refine kept_of_snd2 (by assumption) ?_ | refine kept_of_fst (by assumption) ?_ | (simp only [kept_mk_iff]; (first | apply keptIn_fold | apply keptIn_flags)) | split | intro _)

theorem revokeAll_kept {cs : Keep} (o : Nat) (us : List Nat) (s : State) (Hs : Kept cs s) : Kept cs (revokeAll o us s) := by
  unfold revokeAll
  try dsimp only
  with_reducible repeat' (first | assumption | apply State.setAl_kept | dsimp only | refine kept_of_snd (by assumption) ?_ | refine kept_of_snd2 (by assumption) ?_ | refine kept_of_fst (by assumption) ?_ | (simp only [kept_mk_iff]; (first | apply keptIn_fold | apply keptIn_flags)) | split | intro _)

theorem prtBusyEnd_kept {cs : Keep} (s : State) (Hs : Kept cs s) : Kept cs (prtBusyEnd s) := by
  unfold prtBusyEnd
  try dsimp only
  with_reducible repeat' (first | assumption | apply pendSet_kept | apply State.setF_kept | dsimp only | refine kept_of_snd (by assumption) ?_ | refine kept_of_snd2 (by assumption) ?_ | refine kept_of_fst (by assumption) ?_ | (simp only [kept_mk_iff]; (first | apply keptIn_fold | apply keptIn_flags)) | split | intro _)

theorem assign_kept {cs : Keep} (o : Nat) (res : Nat) (us : List Nat) (s : State) (Hs : Kept cs s) : Kept cs (assign o res us s) := by
  unfold assign
  try dsimp only
  with_reducible repeat' (first | assumption | apply prtBusyEnd_kept | apply setHolders_kept | dsimp only | refine kept_of_snd (by assumption) ?_ | refine kept_of_snd2 (by assumption) ?_ | refine kept_of_fst (by assumption) ?_ | (simp only [kept_mk_iff]; (first | apply keptIn_fold | apply keptIn_flags)) | split | intro _)

theorem unassign_kept {cs : Keep} (o : Nat) (res : Nat) (first : Nat) (count : Nat) (s : State) (Hs : Kept cs s) : Kept cs (unassign o res first count s) := by
  unfold unassign
  try dsimp only
  with_reducible repeat' (first | assumption | apply prtBusyEnd_kept | apply dropUnit_kept | apply setHolders_kept | apply State.setF_kept | apply forEach_kept | dsimp only | refine kept_of_snd (by assumption) ?_ | refine kept_of_snd2 (by assumption) ?_ | refine kept_of_fst (by assumption) ?_ | (simp only [kept_mk_iff]; (first | apply keptIn_fold | apply keptIn_flags)) | split | intro _)

theorem unassignApplied_kept {cs : Keep} (ok : Bool) (s : State) (Hs : Kept cs s) : Kept cs (unassignApplied ok s) := by
  unfold unassignApplied
  try dsimp only
  with_reducible repeat' (first | assumption | apply prtBusyEnd_kept | apply revokeAll_kept | apply setHolders_kept | apply logErr_kept | dsimp only | refine kept_of_snd (by assumption) ?_ | refine kept_of_snd2 (by assumption) ?_ | refine kept_of_fst (by assumption) ?_ | (simp only [kept_mk_iff]; (first | apply keptIn_fold | apply keptIn_flags)) | split | intro _)

theorem windowsOff_kept {cs : Keep} (p : Nat) (s : State) (Hs : Kept cs s) : Kept cs (windowsOff p s) := by
  unfold windowsOff
  try dsimp only
  with_reducible repeat' (first | assumption | apply State.setF_kept | apply forUp_kept | apply forUp_kept2 | dsimp only | refine kept_of_snd (by assumption) ?_ | refine kept_of_snd2 (by assumption) ?_ | refine kept_of_fst (by assumption) ?_ | (simp only [kept_mk_iff]; (first | apply keptIn_fold | apply keptIn_flags)) | split | intro _)

theorem leaveExec_kept {cs : Keep} (p : Nat) (n : Nat) (s : State) (Hs : Kept cs s) : Kept cs (leaveExec p n s) := by
  unfold leaveExec
  try dsimp only
  with_reducible repeat' (first | assumption | apply State.setSlot_kept | dsimp only | refine kept_of_snd (by assumption) ?_ | refine kept_of_snd2 (by assumption) ?_ | refine kept_of_fst (by assumption) ?_ | (simp only [kept_mk_iff]; (first | apply keptIn_fold | apply keptIn_flags)) | split | intro _)

theorem purgeTokOps_kept {cs : Keep} (p : Nat) (s : State) (Hs : Kept cs s) : Kept cs (purgeTokOps p s) := by
  unfold purgeTokOps
  try dsimp only
  with_reducible repeat' (first | assumption | apply leaveExec_kept | apply State.setEng_kept | apply forEach_kept | apply forUp_kept | apply forUp_kept2 | dsimp only | refine kept_of_snd (by assumption) ?_ | refine kept_of_snd2 (by assumption) ?_ | refine kept_of_fst (by assumption) ?_ | (simp only [kept_mk_iff]; (first | apply keptIn_fold | apply keptIn_flags)) | split | intro _)

theorem purgeMig_kept {cs : Keep} (p : Nat) (q : MigOp → Bool) (s : State) (Hs : Kept cs s) : Kept cs (purgeMig p q s) := by
  unfold purgeMig
  try dsimp only
  with_reducible repeat' (first | assumption | apply leaveExec_kept | apply State.setMop_kept | apply forEach_kept | dsimp only | refine kept_of_snd (by assumption) ?_ | refine kept_of_snd2 (by assumption) ?_ | refine kept_of_fst (by assumption) ?_ | (simp only [kept_mk_iff]; (first | apply keptIn_fold | apply keptIn_flags)) | split | intro _)

theorem purgeCkp_kept {cs : Keep} (p : Nat) (s : State) (Hs : Kept cs s) : Kept cs (purgeCkp p s) := by
  unfold purgeCkp
  try dsimp only
  with_reducible repeat' (first | assumption | apply unpause_kept | apply ckpEnd_kept | apply State.setSc_kept | apply State.drawn_kept | dsimp only | refine kept_of_snd (by assumption) ?_ | refine kept_of_snd2 (by assumption) ?_ | refine kept_of_fst (by assumption) ?_ | (simp only [kept_mk_iff]; (first | apply keptIn_fold | apply keptIn_flags)) | split | intro _)

theorem zeroTok_kept {cs : Keep} (p : Nat) (s : State) (Hs : Kept cs s) : Kept cs (zeroTok p s) := by
  unfold zeroTok
  try dsimp only
  with_reducible repeat' (first | assumption | apply State.setEng_kept | apply forUp_kept | apply forUp_kept2 | dsimp only | refine kept_of_snd (by assumption) ?_ | refine kept_of_snd2 (by assumption) ?_ | refine kept_of_fst (by assumption) ?_ | (simp only [kept_mk_iff]; (first | apply keptIn_fold | apply keptIn_flags)) | split | intro _)

theorem dropReqs_kept {cs : Keep} (c : Nat) (s : State) (Hs : Kept cs s) : Kept cs (dropReqs c s) := by
  unfold dropReqs
  try dsimp only
  with_reducible repeat' (first | assumption | apply State.setCore_kept | apply foldl_kept2 | apply foldl_kept | dsimp only | refine kept_of_snd (by assumption) ?_ | refine kept_of_snd2 (by assumption) ?_ | refine kept_of_fst (by assumption) ?_ | (simp only [kept_mk_iff]; (first | apply keptIn_fold | apply keptIn_flags)) | split | intro _)

theorem purge_kept {cs : Keep} (p : Nat) (cls : Nat) (s : State) (Hs : Kept cs s) : Kept cs (purge p cls s) := by
  unfold purge
  try dsimp only
  with_reducible repeat' (first | assumption | apply dropReqs_kept | apply zeroTok_kept | apply purgeCkp_kept | apply purgeMig_kept | apply purgeTokOps_kept | apply pump_kept | apply coreDrop_kept | apply State.setQp_kept | apply quarantine_kept | apply forEach_kept | apply forUp_kept | apply forUp_kept2 | dsimp only | refine kept_of_snd (by assumption) ?_ | refine kept_of_snd2 (by assumption) ?_ | refine kept_of_fst (by assumption) ?_ | (simp only [kept_mk_iff]; (first | apply keptIn_fold | apply keptIn_flags)) | split | intro _)

theorem dropUnstarted_kept {cs : Keep} (p : Nat) (s : State) (Hs : Kept cs s) : Kept cs (dropUnstarted p s) := by
  unfold dropUnstarted
  try dsimp only
  with_reducible repeat' (first | assumption | apply purgeCkp_kept | apply purgeMig_kept | apply purgeTokOps_kept | apply inReset_kept | apply dropQueued_kept | apply State.setQp_kept | apply State.setSc_kept | apply forUp_kept | apply forUp_kept2 | dsimp only | refine kept_of_snd (by assumption) ?_ | refine kept_of_snd2 (by assumption) ?_ | refine kept_of_fst (by assumption) ?_ | (simp only [kept_mk_iff]; (first | apply keptIn_fold | apply keptIn_flags)) | split | intro _)

theorem startPrtReset_kept {cs : Keep} (p : Nat) (toFree : Bool) (s : State) (Hs : Kept cs s) : Kept cs (startPrtReset p toFree s) := by
  unfold startPrtReset
  try dsimp only
  with_reducible repeat' (first | assumption | apply dropUnstarted_kept | apply windowsOff_kept | apply retireKey_kept | apply debugEnd_kept | apply State.setPart_kept | dsimp only | refine kept_of_snd (by assumption) ?_ | refine kept_of_snd2 (by assumption) ?_ | refine kept_of_fst (by assumption) ?_ | (simp only [kept_mk_iff]; (first | apply keptIn_fold | apply keptIn_flags)) | split | intro _)

theorem engineClear_kept {cs : Keep} (p : Nat) (cls : Nat) (s : State) (Hs : Kept cs s) : Kept cs (engineClear p cls s) := by
  unfold engineClear
  try dsimp only
  with_reducible repeat' (first | assumption | apply purge_kept | apply State.setPart_kept | dsimp only | refine kept_of_snd (by assumption) ?_ | refine kept_of_snd2 (by assumption) ?_ | refine kept_of_fst (by assumption) ?_ | (simp only [kept_mk_iff]; (first | apply keptIn_fold | apply keptIn_flags)) | split | intro _)

theorem rstTmo_kept {cs : Keep} (p : Nat) (s : State) (Hs : Kept cs s) : Kept cs (rstTmo p s) := by
  unfold rstTmo
  try dsimp only
  with_reducible repeat' (first | assumption | apply purge_kept | apply forceReset_kept | apply logErr_kept | apply State.setPart_kept | apply forEach_kept | dsimp only | refine kept_of_snd (by assumption) ?_ | refine kept_of_snd2 (by assumption) ?_ | refine kept_of_fst (by assumption) ?_ | (simp only [kept_mk_iff]; (first | apply keptIn_fold | apply keptIn_flags)) | split | intro _)

theorem releaseAll_kept {cs : Keep} (o : Nat) (s : State) (Hs : Kept cs s) : Kept cs (releaseAll o s) := by
  unfold releaseAll
  try dsimp only
  with_reducible repeat' (first | assumption | apply releasePage_kept | apply forEach_kept | dsimp only | refine kept_of_snd (by assumption) ?_ | refine kept_of_snd2 (by assumption) ?_ | refine kept_of_fst (by assumption) ?_ | (simp only [kept_mk_iff]; (first | apply keptIn_fold | apply keptIn_flags)) | split | intro _)

theorem resetEnd_kept {cs : Keep} (p : Nat) (toFree0 : Bool) (s : State) (Hs : Kept cs s) : Kept cs (resetEnd p toFree0 s) := by
  unfold resetEnd
  try dsimp only
  with_reducible repeat' (first | assumption | apply releaseAll_kept | apply windowsOff_kept | apply bindKey_kept | apply zeroClu_kept | apply forceReset_kept | apply unpause_kept | apply State.setSc_kept | apply pendSet_kept | apply logErr_kept | apply State.setAl_kept | apply State.setKeySlot_kept | apply State.setPart_kept | apply forEach_kept | dsimp only | refine kept_of_snd (by assumption) ?_ | refine kept_of_snd2 (by assumption) ?_ | refine kept_of_fst (by assumption) ?_ | (simp only [kept_mk_iff]; (first | apply keptIn_fold | apply keptIn_flags)) | split | intro _)

theorem resetFinish_kept {cs : Keep} (p : Nat) (s : State) (Hs : Kept cs s) : Kept cs (resetFinish p s) := by
  unfold resetFinish
  try dsimp only
  with_reducible repeat' (first | assumption | apply resetEnd_kept | dsimp only | refine kept_of_snd (by assumption) ?_ | refine kept_of_snd2 (by assumption) ?_ | refine kept_of_fst (by assumption) ?_ | (simp only [kept_mk_iff]; (first | apply keptIn_fold | apply keptIn_flags)) | split | intro _)

theorem wrPrtCmdLo_kept {cs : Keep} (m : Nat) (v : Nat) (s : State) (Hs : Kept cs s) : Kept cs (wrPrtCmdLo m v s) := by
  unfold wrPrtCmdLo
  try dsimp only
  with_reducible repeat' (first | assumption | apply plainWrite_kept | dsimp only | refine kept_of_snd (by assumption) ?_ | refine kept_of_snd2 (by assumption) ?_ | refine kept_of_fst (by assumption) ?_ | (simp only [kept_mk_iff]; (first | apply keptIn_fold | apply keptIn_flags)) | split | intro _)

theorem prtCommand_kept {cs : Keep} (op : Nat) (part : Nat) (res : Nat) (first : Nat) (count : Nat) (s : State) (Hs : Kept cs s) : Kept cs (prtCommand op part res first count s) := by
  unfold prtCommand
  try dsimp only
  with_reducible repeat' (first | assumption | apply startPrtReset_kept | apply unassign_kept | apply assign_kept | apply prtBusyEnd_kept | apply bindKey_kept | apply State.setPart_kept | dsimp only | refine kept_of_snd (by assumption) ?_ | refine kept_of_snd2 (by assumption) ?_ | refine kept_of_fst (by assumption) ?_ | (simp only [kept_mk_iff]; (first | apply keptIn_fold | apply keptIn_flags)) | split | intro _)

theorem wrPrtCmdHi_kept {cs : Keep} (m : Nat) (v : Nat) (s : State) (Hs : Kept cs s) : Kept cs (wrPrtCmdHi m v s) := by
  unfold wrPrtCmdHi
  try dsimp only
  with_reducible repeat' (first | assumption | apply prtCommand_kept | apply checkedWrite_kept | dsimp only | refine kept_of_snd (by assumption) ?_ | refine kept_of_snd2 (by assumption) ?_ | refine kept_of_fst (by assumption) ?_ | (simp only [kept_mk_iff]; (first | apply keptIn_fold | apply keptIn_flags)) | split | intro _)

theorem prtWrite_kept {cs : Keep} (m : Nat) (op : Nat) (part : Nat) (res : Nat) (first : Nat) (count : Nat) (s : State) (Hs : Kept cs s) : Kept cs (prtWrite m op part res first count s) := by
  unfold prtWrite
  try dsimp only
  with_reducible repeat' (first | assumption | apply wrPrtCmdHi_kept | apply wrPrtCmdLo_kept | dsimp only | refine kept_of_snd (by assumption) ?_ | refine kept_of_snd2 (by assumption) ?_ | refine kept_of_fst (by assumption) ?_ | (simp only [kept_mk_iff]; (first | apply keptIn_fold | apply keptIn_flags)) | split | intro _)

theorem vfFlr_kept {cs : Keep} (p : Nat) (s : State) (Hs : Kept cs s) : Kept cs (vfFlr p s) := by
  unfold vfFlr
  try dsimp only
  with_reducible repeat' (first | assumption | apply startPrtReset_kept | dsimp only | refine kept_of_snd (by assumption) ?_ | refine kept_of_snd2 (by assumption) ?_ | refine kept_of_fst (by assumption) ?_ | (simp only [kept_mk_iff]; (first | apply keptIn_fold | apply keptIn_flags)) | split | intro _)

theorem vfsGone_kept {cs : Keep} (s : State) (Hs : Kept cs s) : Kept cs (vfsGone s) := by
  unfold vfsGone
  try dsimp only
  with_reducible repeat' (first | assumption | dsimp only | refine kept_of_snd (by assumption) ?_ | refine kept_of_snd2 (by assumption) ?_ | refine kept_of_fst (by assumption) ?_ | (simp only [kept_mk_iff]; (first | apply keptIn_fold | apply keptIn_flags)) | split | intro _)

theorem vfOff_kept {cs : Keep} (s : State) (Hs : Kept cs s) : Kept cs (vfOff s) := by
  unfold vfOff
  try dsimp only
  with_reducible repeat' (first | assumption | apply vfsGone_kept | apply startPrtReset_kept | apply forUp_kept | apply forUp_kept2 | dsimp only | refine kept_of_snd (by assumption) ?_ | refine kept_of_snd2 (by assumption) ?_ | refine kept_of_fst (by assumption) ?_ | (simp only [kept_mk_iff]; (first | apply keptIn_fold | apply keptIn_flags)) | split | intro _)

theorem vfEnable_kept {cs : Keep} (en : Bool) (s : State) (Hs : Kept cs s) : Kept cs (vfEnable en s) := by
  unfold vfEnable
  try dsimp only
  with_reducible repeat' (first | assumption | apply vfOff_kept | dsimp only | refine kept_of_snd (by assumption) ?_ | refine kept_of_snd2 (by assumption) ?_ | refine kept_of_fst (by assumption) ?_ | (simp only [kept_mk_iff]; (first | apply keptIn_fold | apply keptIn_flags)) | split | intro _)

theorem execAssign_kept {cs : Keep} (m : Nat) (part : Nat) (res : Nat) (first : Nat) (count : Nat) (s : State) (Hs : Kept cs s) : KeptOut cs (execAssign m part res first count s) := by
  unfold execAssign
  try dsimp only
  with_reducible repeat' (first | assumption | apply keptOut_next | apply prtWrite_kept | apply run_kept | apply whenOk_kept | dsimp only | refine kept_of_snd (by assumption) ?_ | refine kept_of_snd2 (by assumption) ?_ | refine kept_of_fst (by assumption) ?_ | (simp only [kept_mk_iff]; (first | apply keptIn_fold | apply keptIn_flags)) | split | intro _)

theorem execUnassign_kept {cs : Keep} (m : Nat) (part : Nat) (res : Nat) (first : Nat) (count : Nat) (s : State) (Hs : Kept cs s) : KeptOut cs (execUnassign m part res first count s) := by
  unfold execUnassign
  try dsimp only
  with_reducible repeat' (first | assumption | apply keptOut_next | apply prtWrite_kept | apply run_kept | apply whenOk_kept | dsimp only | refine kept_of_snd (by assumption) ?_ | refine kept_of_snd2 (by assumption) ?_ | refine kept_of_fst (by assumption) ?_ | (simp only [kept_mk_iff]; (first | apply keptIn_fold | apply keptIn_flags)) | split | intro _)

theorem execUnassignApplied_kept {cs : Keep} (ok : Bool) (s : State) (Hs : Kept cs s) : KeptOut cs (execUnassignApplied ok s) := by
  unfold execUnassignApplied
  try dsimp only
  with_reducible repeat' (first | assumption | apply keptOut_next | apply unassignApplied_kept | apply run_kept | dsimp only | refine kept_of_snd (by assumption) ?_ | refine kept_of_snd2 (by assumption) ?_ | refine kept_of_fst (by assumption) ?_ | (simp only [kept_mk_iff]; (first | apply keptIn_fold | apply keptIn_flags)) | split | intro _)

theorem execEnable_kept {cs : Keep} (m : Nat) (part : Nat) (s : State) (Hs : Kept cs s) : KeptOut cs (execEnable m part s) := by
  unfold execEnable
  try dsimp only
  with_reducible repeat' (first | assumption | apply keptOut_next | apply prtWrite_kept | apply run_kept | apply whenOk_kept | dsimp only | refine kept_of_snd (by assumption) ?_ | refine kept_of_snd2 (by assumption) ?_ | refine kept_of_fst (by assumption) ?_ | (simp only [kept_mk_iff]; (first | apply keptIn_fold | apply keptIn_flags)) | split | intro _)

theorem execReset_kept {cs : Keep} (m : Nat) (part : Nat) (s : State) (Hs : Kept cs s) : KeptOut cs (execReset m part s) := by
  unfold execReset
  try dsimp only
  with_reducible repeat' (first | assumption | apply keptOut_next | apply prtWrite_kept | apply run_kept | apply whenOk_kept | dsimp only | refine kept_of_snd (by assumption) ?_ | refine kept_of_snd2 (by assumption) ?_ | refine kept_of_fst (by assumption) ?_ | (simp only [kept_mk_iff]; (first | apply keptIn_fold | apply keptIn_flags)) | split | intro _)

theorem execDisable_kept {cs : Keep} (m : Nat) (part : Nat) (s : State) (Hs : Kept cs s) : KeptOut cs (execDisable m part s) := by
  unfold execDisable
  try dsimp only
  with_reducible repeat' (first | assumption | apply keptOut_next | apply prtWrite_kept | apply run_kept | apply whenOk_kept | dsimp only | refine kept_of_snd (by assumption) ?_ | refine kept_of_snd2 (by assumption) ?_ | refine kept_of_fst (by assumption) ?_ | (simp only [kept_mk_iff]; (first | apply keptIn_fold | apply keptIn_flags)) | split | intro _)

theorem execResetEngineClear_kept {cs : Keep} (part : Nat) (cls : Nat) (s : State) (Hs : Kept cs s) : KeptOut cs (execResetEngineClear part cls s) := by
  unfold execResetEngineClear
  try dsimp only
  with_reducible repeat' (first | assumption | apply keptOut_next | apply engineClear_kept | apply run_kept | apply whenOk_kept | dsimp only | refine kept_of_snd (by assumption) ?_ | refine kept_of_snd2 (by assumption) ?_ | refine kept_of_fst (by assumption) ?_ | (simp only [kept_mk_iff]; (first | apply keptIn_fold | apply keptIn_flags)) | split | intro _)

theorem execPrtRstTmoExpiry_kept {cs : Keep} (part : Nat) (s : State) (Hs : Kept cs s) : KeptOut cs (execPrtRstTmoExpiry part s) := by
  unfold execPrtRstTmoExpiry
  try dsimp only
  with_reducible repeat' (first | assumption | apply keptOut_next | apply rstTmo_kept | apply run_kept | apply whenOk_kept | dsimp only | refine kept_of_snd (by assumption) ?_ | refine kept_of_snd2 (by assumption) ?_ | refine kept_of_fst (by assumption) ?_ | (simp only [kept_mk_iff]; (first | apply keptIn_fold | apply keptIn_flags)) | split | intro _)

theorem execResetFinish_kept {cs : Keep} (part : Nat) (s : State) (Hs : Kept cs s) : KeptOut cs (execResetFinish part s) := by
  unfold execResetFinish
  try dsimp only
  with_reducible repeat' (first | assumption | apply keptOut_next | apply resetFinish_kept | apply run_kept | apply whenOk_kept | dsimp only | refine kept_of_snd (by assumption) ?_ | refine kept_of_snd2 (by assumption) ?_ | refine kept_of_fst (by assumption) ?_ | (simp only [kept_mk_iff]; (first | apply keptIn_fold | apply keptIn_flags)) | split | intro _)

theorem execKeySlotFree_kept {cs : Keep} (slot : Nat) (s : State) (Hs : Kept cs s) : KeptOut cs (execKeySlotFree slot s) := by
  unfold execKeySlotFree
  try dsimp only
  with_reducible repeat' (first | assumption | apply keptOut_next | apply keySlotFree_kept | apply run_kept | apply whenOk_kept | dsimp only | refine kept_of_snd (by assumption) ?_ | refine kept_of_snd2 (by assumption) ?_ | refine kept_of_fst (by assumption) ?_ | (simp only [kept_mk_iff]; (first | apply keptIn_fold | apply keptIn_flags)) | split | intro _)

theorem execVfFlr_kept {cs : Keep} (part : Nat) (s : State) (Hs : Kept cs s) : KeptOut cs (execVfFlr part s) := by
  unfold execVfFlr
  try dsimp only
  with_reducible repeat' (first | assumption | apply keptOut_next | apply vfFlr_kept | apply run_kept | apply whenOk_kept | dsimp only | refine kept_of_snd (by assumption) ?_ | refine kept_of_snd2 (by assumption) ?_ | refine kept_of_fst (by assumption) ?_ | (simp only [kept_mk_iff]; (first | apply keptIn_fold | apply keptIn_flags)) | split | intro _)

theorem execVfEnableClear_kept {cs : Keep} (en : Bool) (s : State) (Hs : Kept cs s) : KeptOut cs (execVfEnableClear en s) := by
  unfold execVfEnableClear
  try dsimp only
  with_reducible repeat' (first | assumption | apply keptOut_next | apply vfEnable_kept | apply run_kept | dsimp only | refine kept_of_snd (by assumption) ?_ | refine kept_of_snd2 (by assumption) ?_ | refine kept_of_fst (by assumption) ?_ | (simp only [kept_mk_iff]; (first | apply keptIn_fold | apply keptIn_flags)) | split | intro _)

theorem execRotateMgt_kept {cs : Keep} (m : Nat) (s : State) (Hs : Kept cs s) : KeptOut cs (execRotateMgt m s) := by
  unfold execRotateMgt
  try dsimp only
  with_reducible repeat' (first | assumption | apply keptOut_next | apply wrSecCmd_kept | apply run_kept | apply whenOk_kept | dsimp only | refine kept_of_snd (by assumption) ?_ | refine kept_of_snd2 (by assumption) ?_ | refine kept_of_fst (by assumption) ?_ | (simp only [kept_mk_iff]; (first | apply keptIn_fold | apply keptIn_flags)) | split | intro _)

theorem execRngFault_kept {cs : Keep} (s : State) (Hs : Kept cs s) : KeptOut cs (execRngFault s) := by
  unfold execRngFault
  try dsimp only
  with_reducible repeat' (first | assumption | apply keptOut_next | apply rngFails_kept | apply run_kept | dsimp only | refine kept_of_snd (by assumption) ?_ | refine kept_of_snd2 (by assumption) ?_ | refine kept_of_fst (by assumption) ?_ | (simp only [kept_mk_iff]; (first | apply keptIn_fold | apply keptIn_flags)) | split | intro _)

theorem ctlRead_kept {cs : Keep} (own : Nat) (iss : Nat) (tier : Nat) (addr : Nat) (len : Nat) (rmt : Bool) (s : State) (Hs : Kept cs s) : Kept cs (ctlRead own iss tier addr len rmt s) := by
  unfold ctlRead
  try dsimp only
  with_reducible repeat' (first | assumption | apply memRead_kept | apply State.emit_kept | dsimp only | refine kept_of_snd (by assumption) ?_ | refine kept_of_snd2 (by assumption) ?_ | refine kept_of_fst (by assumption) ?_ | (simp only [kept_mk_iff]; (first | apply keptIn_fold | apply keptIn_flags)) | split | intro _)

theorem ctlWrite_kept {cs : Keep} (own : Nat) (iss : Nat) (tier : Nat) (addr : Nat) (data : List Byte) (pois : Bool) (rmt : Bool) (s : State) (Hs : Kept cs s) : Kept cs (ctlWrite own iss tier addr data pois rmt s) := by
  unfold ctlWrite
  try dsimp only
  with_reducible repeat' (first | assumption | apply memWrite_kept | apply logErr_kept | dsimp only | refine kept_of_snd (by assumption) ?_ | refine kept_of_snd2 (by assumption) ?_ | refine kept_of_fst (by assumption) ?_ | (simp only [kept_mk_iff]; (first | apply keptIn_fold | apply keptIn_flags)) | split | intro _)

theorem ctlAtomic_kept {cs : Keep} (own : Nat) (iss : Nat) (tier : Nat) (addr : Nat) (code : Nat) (lanes : List (Nat × Nat)) (rmt : Bool) (ret : Bool) (s : State) (Hs : Kept cs s) : Kept cs (ctlAtomic own iss tier addr code lanes rmt ret s) := by
  unfold ctlAtomic
  try dsimp only
  with_reducible repeat' (first | assumption | apply memAtomic_kept | apply logErr_kept | apply State.emit_kept | dsimp only | refine kept_of_snd (by assumption) ?_ | refine kept_of_snd2 (by assumption) ?_ | refine kept_of_fst (by assumption) ?_ | (simp only [kept_mk_iff]; (first | apply keptIn_fold | apply keptIn_flags)) | split | intro _)

theorem shareWindow_kept {cs : Keep} (pg : Nat) (s : State) (Hs : Kept cs s) : Kept cs (shareWindow pg s) := by
  unfold shareWindow
  try dsimp only
  with_reducible repeat' (first | assumption | apply State.setCtl_kept | apply forUp_kept | apply forUp_kept2 | dsimp only | refine kept_of_snd (by assumption) ?_ | refine kept_of_snd2 (by assumption) ?_ | refine kept_of_fst (by assumption) ?_ | (simp only [kept_mk_iff]; (first | apply keptIn_fold | apply keptIn_flags)) | split | intro _)

theorem wrShare_kept {cs : Keep} (m : Nat) (pg : Nat) (v : Nat) (s : State) (Hs : Kept cs s) : Kept cs (wrShare m pg v s) := by
  unfold wrShare
  try dsimp only
  with_reducible repeat' (first | assumption | apply plainWrite_kept | dsimp only | refine kept_of_snd (by assumption) ?_ | refine kept_of_snd2 (by assumption) ?_ | refine kept_of_fst (by assumption) ?_ | (simp only [kept_mk_iff]; (first | apply keptIn_fold | apply keptIn_flags)) | split | intro _)

theorem alcResult_kept {cs : Keep} (p : Nat) (code : Nat) (s : State) (Hs : Kept cs s) : Kept cs (alcResult p code s) := by
  unfold alcResult
  try dsimp only
  with_reducible repeat' (first | assumption | apply State.setF_kept | dsimp only | refine kept_of_snd (by assumption) ?_ | refine kept_of_snd2 (by assumption) ?_ | refine kept_of_fst (by assumption) ?_ | (simp only [kept_mk_iff]; (first | apply keptIn_fold | apply keptIn_flags)) | split | intro _)

theorem putRec_kept {cs : Keep} (p : Nat) (bs : List Byte) (code : Nat) (s : State) (Hs : Kept cs s) : Kept cs (putRec p bs code s) := by
  unfold putRec
  try dsimp only
  with_reducible repeat' (first | assumption | apply alcResult_kept | apply bulkWrite_kept | apply logErr_kept | apply State.setAl_kept | apply State.setF_kept | dsimp only | refine kept_of_snd (by assumption) ?_ | refine kept_of_snd2 (by assumption) ?_ | refine kept_of_fst (by assumption) ?_ | (simp only [kept_mk_iff]; (first | apply keptIn_fold | apply keptIn_flags)) | split | intro _)

theorem recRetry_kept {cs : Keep} (p : Nat) (s : State) (Hs : Kept cs s) : Kept cs (recRetry p s) := by
  unfold recRetry
  try dsimp only
  with_reducible repeat' (first | assumption | apply putRec_kept | dsimp only | refine kept_of_snd (by assumption) ?_ | refine kept_of_snd2 (by assumption) ?_ | refine kept_of_fst (by assumption) ?_ | (simp only [kept_mk_iff]; (first | apply keptIn_fold | apply keptIn_flags)) | split | intro _)

theorem alloc_kept {cs : Keep} (p : Nat) (cls : Nat) (die : Nat) (s : State) (Hs : Kept cs s) : Kept cs (alloc p cls die s) := by
  unfold alloc
  try dsimp only
  with_reducible repeat' (first | assumption | apply putRec_kept | apply alcResult_kept | apply logErr_kept | apply State.setAl_kept | apply State.setW_kept | dsimp only | refine kept_of_snd (by assumption) ?_ | refine kept_of_snd2 (by assumption) ?_ | refine kept_of_fst (by assumption) ?_ | (simp only [kept_mk_iff]; (first | apply keptIn_fold | apply keptIn_flags)) | split | intro _)

theorem free_kept {cs : Keep} (p : Nat) (s : State) (Hs : Kept cs s) : Kept cs (free p s) := by
  unfold free
  try dsimp only
  with_reducible repeat' (first | assumption | apply alcResult_kept | apply State.setAl_kept | dsimp only | refine kept_of_snd (by assumption) ?_ | refine kept_of_snd2 (by assumption) ?_ | refine kept_of_fst (by assumption) ?_ | (simp only [kept_mk_iff]; (first | apply keptIn_fold | apply keptIn_flags)) | split | intro _)

theorem query_kept {cs : Keep} (p : Nat) (s : State) (Hs : Kept cs s) : Kept cs (query p s) := by
  unfold query
  try dsimp only
  with_reducible repeat' (first | assumption | apply putRec_kept | dsimp only | refine kept_of_snd (by assumption) ?_ | refine kept_of_snd2 (by assumption) ?_ | refine kept_of_fst (by assumption) ?_ | (simp only [kept_mk_iff]; (first | apply keptIn_fold | apply keptIn_flags)) | split | intro _)

theorem wrAlcCmd_kept {cs : Keep} (m : Nat) (p : Nat) (v : Nat) (s : State) (Hs : Kept cs s) : Kept cs (wrAlcCmd m p v s) := by
  unfold wrAlcCmd
  try dsimp only
  with_reducible repeat' (first | assumption | apply query_kept | apply free_kept | apply alloc_kept | apply checkedWrite_kept | apply refuse_kept | dsimp only | refine kept_of_snd (by assumption) ?_ | refine kept_of_snd2 (by assumption) ?_ | refine kept_of_fst (by assumption) ?_ | (simp only [kept_mk_iff]; (first | apply keptIn_fold | apply keptIn_flags)) | split | intro _)

theorem wrFxrBase_kept {cs : Keep} (m : Nat) (p : Nat) (r : Nat) (k : Nat) (v : Nat) (s : State) (Hs : Kept cs s) : Kept cs (wrFxrBase m p r k v s) := by
  unfold wrFxrBase
  try dsimp only
  with_reducible repeat' (first | assumption | apply plainWrite_kept | dsimp only | refine kept_of_snd (by assumption) ?_ | refine kept_of_snd2 (by assumption) ?_ | refine kept_of_fst (by assumption) ?_ | (simp only [kept_mk_iff]; (first | apply keptIn_fold | apply keptIn_flags)) | split | intro _)

theorem wrFxrCtl_kept {cs : Keep} (m : Nat) (p : Nat) (r : Nat) (v : Nat) (s : State) (Hs : Kept cs s) : Kept cs (wrFxrCtl m p r v s) := by
  unfold wrFxrCtl
  try dsimp only
  with_reducible repeat' (first | assumption | apply checkedWrite_kept | apply refuse_kept | apply State.setW_kept | dsimp only | refine kept_of_snd (by assumption) ?_ | refine kept_of_snd2 (by assumption) ?_ | refine kept_of_fst (by assumption) ?_ | (simp only [kept_mk_iff]; (first | apply keptIn_fold | apply keptIn_flags)) | split | intro _)

theorem fxrApplied_kept {cs : Keep} (p : Nat) (r : Nat) (s : State) (Hs : Kept cs s) : Kept cs (fxrApplied p r s) := by
  unfold fxrApplied
  try dsimp only
  with_reducible repeat' (first | assumption | apply State.setAl_kept | dsimp only | refine kept_of_snd (by assumption) ?_ | refine kept_of_snd2 (by assumption) ?_ | refine kept_of_fst (by assumption) ?_ | (simp only [kept_mk_iff]; (first | apply keptIn_fold | apply keptIn_flags)) | split | intro _)

theorem execMemRead_kept {cs : Keep} (own : Nat) (iss : Nat) (tier : Nat) (addr : Nat) (len : Nat) (rmt : Bool) (errs : Errs) (s : State) (Hs : Kept cs s) : KeptOut cs (execMemRead own iss tier addr len rmt errs s) := by
  unfold execMemRead
  try dsimp only
  with_reducible repeat' (first | assumption | apply keptOut_next | apply ctlRead_kept | apply runErr_kept | apply whenOk_kept | dsimp only | refine kept_of_snd (by assumption) ?_ | refine kept_of_snd2 (by assumption) ?_ | refine kept_of_fst (by assumption) ?_ | (simp only [kept_mk_iff]; (first | apply keptIn_fold | apply keptIn_flags)) | split | intro _)

theorem execMemWrite_kept {cs : Keep} (own : Nat) (iss : Nat) (tier : Nat) (addr : Nat) (data : List Byte) (pois : Bool) (rmt : Bool) (s : State) (Hs : Kept cs s) : KeptOut cs (execMemWrite own iss tier addr data pois rmt s) := by
  unfold execMemWrite
  try dsimp only
  with_reducible repeat' (first | assumption | apply keptOut_next | apply ctlWrite_kept | apply run_kept | apply whenOk_kept | dsimp only | refine kept_of_snd (by assumption) ?_ | refine kept_of_snd2 (by assumption) ?_ | refine kept_of_fst (by assumption) ?_ | (simp only [kept_mk_iff]; (first | apply keptIn_fold | apply keptIn_flags)) | split | intro _)

theorem execMemAtomic_kept {cs : Keep} (own : Nat) (iss : Nat) (tier : Nat) (addr : Nat) (code : Nat) (lanes : List (Nat × Nat)) (rmt : Bool) (ret : Bool) (errs : Errs) (s : State) (Hs : Kept cs s) : KeptOut cs (execMemAtomic own iss tier addr code lanes rmt ret errs s) := by
  unfold execMemAtomic
  try dsimp only
  with_reducible repeat' (first | assumption | apply keptOut_next | apply ctlAtomic_kept | apply runErr_kept | apply whenOk_kept | dsimp only | refine kept_of_snd (by assumption) ?_ | refine kept_of_snd2 (by assumption) ?_ | refine kept_of_fst (by assumption) ?_ | (simp only [kept_mk_iff]; (first | apply keptIn_fold | apply keptIn_flags)) | split | intro _)

theorem execShareWindow_kept {cs : Keep} (pg : Nat) (s : State) (Hs : Kept cs s) : KeptOut cs (execShareWindow pg s) := by
  unfold execShareWindow
  try dsimp only
  with_reducible repeat' (first | assumption | apply keptOut_next | apply shareWindow_kept | apply run_kept | apply whenOk_kept | dsimp only | refine kept_of_snd (by assumption) ?_ | refine kept_of_snd2 (by assumption) ?_ | refine kept_of_fst (by assumption) ?_ | (simp only [kept_mk_iff]; (first | apply keptIn_fold | apply keptIn_flags)) | split | intro _)

theorem execAlloc_kept {cs : Keep} (m : Nat) (p : Nat) (cls : Nat) (die : Nat) (s : State) (Hs : Kept cs s) : KeptOut cs (execAlloc m p cls die s) := by
  unfold execAlloc
  try dsimp only
  with_reducible repeat' (first | assumption | apply keptOut_next | apply wrAlcCmd_kept | apply run_kept | apply whenOk_kept | dsimp only | refine kept_of_snd (by assumption) ?_ | refine kept_of_snd2 (by assumption) ?_ | refine kept_of_fst (by assumption) ?_ | (simp only [kept_mk_iff]; (first | apply keptIn_fold | apply keptIn_flags)) | split | intro _)

theorem execFree_kept {cs : Keep} (m : Nat) (p : Nat) (s : State) (Hs : Kept cs s) : KeptOut cs (execFree m p s) := by
  unfold execFree
  try dsimp only
  with_reducible repeat' (first | assumption | apply keptOut_next | apply wrAlcCmd_kept | apply run_kept | apply whenOk_kept | dsimp only | refine kept_of_snd (by assumption) ?_ | refine kept_of_snd2 (by assumption) ?_ | refine kept_of_fst (by assumption) ?_ | (simp only [kept_mk_iff]; (first | apply keptIn_fold | apply keptIn_flags)) | split | intro _)

theorem execQuery_kept {cs : Keep} (m : Nat) (p : Nat) (s : State) (Hs : Kept cs s) : KeptOut cs (execQuery m p s) := by
  unfold execQuery
  try dsimp only
  with_reducible repeat' (first | assumption | apply keptOut_next | apply wrAlcCmd_kept | apply run_kept | apply whenOk_kept | dsimp only | refine kept_of_snd (by assumption) ?_ | refine kept_of_snd2 (by assumption) ?_ | refine kept_of_fst (by assumption) ?_ | (simp only [kept_mk_iff]; (first | apply keptIn_fold | apply keptIn_flags)) | split | intro _)

theorem execFxrEnable_kept {cs : Keep} (m : Nat) (p : Nat) (r : Nat) (v : Nat) (s : State) (Hs : Kept cs s) : KeptOut cs (execFxrEnable m p r v s) := by
  unfold execFxrEnable
  try dsimp only
  with_reducible repeat' (first | assumption | apply keptOut_next | apply wrFxrCtl_kept | apply run_kept | apply whenOk_kept | dsimp only | refine kept_of_snd (by assumption) ?_ | refine kept_of_snd2 (by assumption) ?_ | refine kept_of_fst (by assumption) ?_ | (simp only [kept_mk_iff]; (first | apply keptIn_fold | apply keptIn_flags)) | split | intro _)

theorem execFxrEnApplied_kept {cs : Keep} (p : Nat) (r : Nat) (s : State) (Hs : Kept cs s) : KeptOut cs (execFxrEnApplied p r s) := by
  unfold execFxrEnApplied
  try dsimp only
  with_reducible repeat' (first | assumption | apply keptOut_next | apply fxrApplied_kept | apply run_kept | apply whenOk_kept | dsimp only | refine kept_of_snd (by assumption) ?_ | refine kept_of_snd2 (by assumption) ?_ | refine kept_of_fst (by assumption) ?_ | (simp only [kept_mk_iff]; (first | apply keptIn_fold | apply keptIn_flags)) | split | intro _)

theorem moveLogical_kept {cs : Keep} (frm : Nat) (dst : Option Nat) (s : State) (Hs : Kept cs s) : Kept cs (moveLogical frm dst s) := by
  unfold moveLogical
  try dsimp only
  with_reducible repeat' (first | assumption | dsimp only | refine kept_of_snd (by assumption) ?_ | refine kept_of_snd2 (by assumption) ?_ | refine kept_of_fst (by assumption) ?_ | (simp only [kept_mk_iff]; (first | apply keptIn_fold | apply keptIn_flags)) | split | intro _)

theorem setRole_kept {cs : Keep} (c : Nat) (v : Role) (s : State) (Hs : Kept cs s) : Kept cs (setRole c v s) := by
  unfold setRole
  try dsimp only
  with_reducible repeat' (first | assumption | dsimp only | refine kept_of_snd (by assumption) ?_ | refine kept_of_snd2 (by assumption) ?_ | refine kept_of_fst (by assumption) ?_ | (simp only [kept_mk_iff]; (first | apply keptIn_fold | apply keptIn_flags)) | split | intro _)

theorem copyRw_kept {cs : Keep} (frm : Nat) (dst : Nat) (s : State) (Hs : Kept cs s) : Kept cs (copyRw frm dst s) := by
  unfold copyRw
  try dsimp only
  with_reducible repeat' (first | assumption | apply State.setF_kept | apply forEach_kept | dsimp only | refine kept_of_snd (by assumption) ?_ | refine kept_of_snd2 (by assumption) ?_ | refine kept_of_fst (by assumption) ?_ | (simp only [kept_mk_iff]; (first | apply keptIn_fold | apply keptIn_flags)) | split | intro _)

theorem prepSpare_kept {cs : Keep} (f : Nat) (t : Nat) (s : State) (Hs : Kept cs s) : Kept cs (prepSpare f t s) := by
  unfold prepSpare
  try dsimp only
  with_reducible repeat' (first | assumption | apply copyRw_kept | apply zeroCore_kept | apply poolReset_kept | apply State.setW_kept | apply State.setF_kept | dsimp only | refine kept_of_snd (by assumption) ?_ | refine kept_of_snd2 (by assumption) ?_ | refine kept_of_fst (by assumption) ?_ | (simp only [kept_mk_iff]; (first | apply keptIn_fold | apply keptIn_flags)) | split | intro _)

theorem substitute_kept {cs : Keep} (f : Nat) (t : Option Nat) (s : State) (Hs : Kept cs s) : Kept cs (substitute f t s) := by
  unfold substitute
  try dsimp only
  with_reducible repeat' (first | assumption | apply prepSpare_kept | apply setRole_kept | apply moveLogical_kept | apply releasePage_kept | apply coreFaultLog_kept | apply coreDrop_kept | apply pendSet_kept | apply State.setCore_kept | dsimp only | refine kept_of_snd (by assumption) ?_ | refine kept_of_snd2 (by assumption) ?_ | refine kept_of_fst (by assumption) ?_ | (simp only [kept_mk_iff]; (first | apply keptIn_fold | apply keptIn_flags)) | split | intro _)

theorem wrCsub_kept {cs : Keep} (m : Nat) (v : Nat) (s : State) (Hs : Kept cs s) : Kept cs (wrCsub m v s) := by
  unfold wrCsub
  try dsimp only
  with_reducible repeat' (first | assumption | apply substitute_kept | apply checkedWrite_kept | dsimp only | refine kept_of_snd (by assumption) ?_ | refine kept_of_snd2 (by assumption) ?_ | refine kept_of_fst (by assumption) ?_ | (simp only [kept_mk_iff]; (first | apply keptIn_fold | apply keptIn_flags)) | split | intro _)

theorem csubStart_kept {cs : Keep} (s : State) (Hs : Kept cs s) : Kept cs (csubStart s) := by
  unfold csubStart
  try dsimp only
  with_reducible repeat' (first | assumption | apply substitute_kept | dsimp only | refine kept_of_snd (by assumption) ?_ | refine kept_of_snd2 (by assumption) ?_ | refine kept_of_fst (by assumption) ?_ | (simp only [kept_mk_iff]; (first | apply keptIn_fold | apply keptIn_flags)) | split | intro _)

theorem execCoreSubstitute_kept {cs : Keep} (m : Nat) (die : Nat) (failed : Nat) (spare : Nat) (s : State) (Hs : Kept cs s) : KeptOut cs (execCoreSubstitute m die failed spare s) := by
  unfold execCoreSubstitute
  try dsimp only
  with_reducible repeat' (first | assumption | apply keptOut_next | apply wrCsub_kept | apply run_kept | apply whenOk_kept | dsimp only | refine kept_of_snd (by assumption) ?_ | refine kept_of_snd2 (by assumption) ?_ | refine kept_of_fst (by assumption) ?_ | (simp only [kept_mk_iff]; (first | apply keptIn_fold | apply keptIn_flags)) | split | intro _)

theorem execCoreRetire_kept {cs : Keep} (m : Nat) (die : Nat) (failed : Nat) (s : State) (Hs : Kept cs s) : KeptOut cs (execCoreRetire m die failed s) := by
  unfold execCoreRetire
  try dsimp only
  with_reducible repeat' (first | assumption | apply keptOut_next | apply wrCsub_kept | apply run_kept | apply whenOk_kept | dsimp only | refine kept_of_snd (by assumption) ?_ | refine kept_of_snd2 (by assumption) ?_ | refine kept_of_fst (by assumption) ?_ | (simp only [kept_mk_iff]; (first | apply keptIn_fold | apply keptIn_flags)) | split | intro _)

theorem execCsubHeldStart_kept {cs : Keep} (s : State) (Hs : Kept cs s) : KeptOut cs (execCsubHeldStart s) := by
  unfold execCsubHeldStart
  try dsimp only
  with_reducible repeat' (first | assumption | apply keptOut_next | apply csubStart_kept | apply run_kept | dsimp only | refine kept_of_snd (by assumption) ?_ | refine kept_of_snd2 (by assumption) ?_ | refine kept_of_fst (by assumption) ?_ | (simp only [kept_mk_iff]; (first | apply keptIn_fold | apply keptIn_flags)) | split | intro _)

theorem bridgeTimeout_kept {cs : Keep} (x : BridgeXfer) (resp : Nat) (s : State) (Hs : Kept cs s) : Kept cs (bridgeTimeout x resp s) := by
  unfold bridgeTimeout
  try dsimp only
  with_reducible repeat' (first | assumption | apply dropXfer_kept | apply abandon_kept | apply logErr_kept | apply State.addF_kept | dsimp only | refine kept_of_snd (by assumption) ?_ | refine kept_of_snd2 (by assumption) ?_ | refine kept_of_fst (by assumption) ?_ | (simp only [kept_mk_iff]; (first | apply keptIn_fold | apply keptIn_flags)) | split | intro _)

theorem hsTimeout_kept {cs : Keep} (hs : Hs) (resp : Nat) (s : State) (Hs : Kept cs s) : Kept cs (hsTimeout hs resp s) := by
  unfold hsTimeout
  try dsimp only
  with_reducible repeat' (first | assumption | apply bridgeTimeout_kept | apply restoreFailed_kept | apply capFailed_kept | apply sldFail_kept | apply vldFail_kept | apply gthTimeout_kept | apply pldFail_kept | apply lpfFail_kept | apply coreTimeout_kept | apply execFault_kept | apply abandon_kept | apply logErr_kept | dsimp only | refine kept_of_snd (by assumption) ?_ | refine kept_of_snd2 (by assumption) ?_ | refine kept_of_fst (by assumption) ?_ | (simp only [kept_mk_iff]; (first | apply keptIn_fold | apply keptIn_flags)) | split | intro _)

theorem lateArrival_kept {cs : Keep} (hs : Hs) (s : State) (Hs : Kept cs s) : Kept cs (lateArrival hs s) := by
  unfold lateArrival
  try dsimp only
  with_reducible repeat' (first | assumption | dsimp only | refine kept_of_snd (by assumption) ?_ | refine kept_of_snd2 (by assumption) ?_ | refine kept_of_fst (by assumption) ?_ | (simp only [kept_mk_iff]; (first | apply keptIn_fold | apply keptIn_flags)) | split | intro _)

theorem cluUe_kept {cs : Keep} (p : Nat) (c : Nat) (s : State) (Hs : Kept cs s) : Kept cs (cluUe p c s) := by
  unfold cluUe
  try dsimp only
  with_reducible repeat' (first | assumption | apply sramUe_kept | apply coreFault_kept | apply logErr_kept | dsimp only | refine kept_of_snd (by assumption) ?_ | refine kept_of_snd2 (by assumption) ?_ | refine kept_of_fst (by assumption) ?_ | (simp only [kept_mk_iff]; (first | apply keptIn_fold | apply keptIn_flags)) | split | intro _)

theorem progUe_kept {cs : Keep} (p : Nat) (n : Nat) (c : Nat) (s : State) (Hs : Kept cs s) : Kept cs (progUe p n c s) := by
  unfold progUe
  try dsimp only
  with_reducible repeat' (first | assumption | apply sramUe_kept | apply execFault_kept | apply State.setF_kept | dsimp only | refine kept_of_snd (by assumption) ?_ | refine kept_of_snd2 (by assumption) ?_ | refine kept_of_fst (by assumption) ?_ | (simp only [kept_mk_iff]; (first | apply keptIn_fold | apply keptIn_flags)) | split | intro _)

theorem tokUe_kept {cs : Keep} (p : Nat) (n : Nat) (e : Nat) (area : TokArea) (s : State) (Hs : Kept cs s) : Kept cs (tokUe p n e area s) := by
  unfold tokUe
  try dsimp only
  with_reducible repeat' (first | assumption | apply State.setStopBlk_kept | apply State.setStrm_kept | apply State.setVslot_kept | apply sramUe_kept | apply execFault_kept | dsimp only | refine kept_of_snd (by assumption) ?_ | refine kept_of_snd2 (by assumption) ?_ | refine kept_of_fst (by assumption) ?_ | (simp only [kept_mk_iff]; (first | apply keptIn_fold | apply keptIn_flags)) | split | intro _)

theorem sramFault_kept {cs : Keep} (p : Nat) (n : Nat) (site : Sram) (s : State) (Hs : Kept cs s) : Kept cs (sramFault p n site s) := by
  unfold sramFault
  try dsimp only
  with_reducible repeat' (first | assumption | apply tokUe_kept | apply progUe_kept | apply cluUe_kept | apply sramUe_kept | apply execFault_kept | apply declareFailed_kept | apply logErr_kept | apply State.setF_kept | dsimp only | refine kept_of_snd (by assumption) ?_ | refine kept_of_snd2 (by assumption) ?_ | refine kept_of_fst (by assumption) ?_ | (simp only [kept_mk_iff]; (first | apply keptIn_fold | apply keptIn_flags)) | split | intro _)

theorem execOperationFault_kept {cs : Keep} (p : Nat) (slot : Nat) (code : Nat) (site : Option Sram) (errs : Errs) (s : State) (Hs : Kept cs s) : KeptOut cs (execOperationFault p slot code site errs s) := by
  unfold execOperationFault
  try dsimp only
  with_reducible repeat' (first | assumption | apply keptOut_next | apply sramFault_kept | apply execFault_kept | apply runErr_kept | apply whenOk_kept | dsimp only | refine kept_of_snd (by assumption) ?_ | refine kept_of_snd2 (by assumption) ?_ | refine kept_of_fst (by assumption) ?_ | (simp only [kept_mk_iff]; (first | apply keptIn_fold | apply keptIn_flags)) | split | intro _)

theorem rewriteLine_kept {cs : Keep} (tier addr : Nat) (s : State) (hs : Kept cs s) : Kept cs (rewriteLine tier addr s) := by
  have h : cs.canon → SMap.wf (fun _ => ({} : Line)) (SMap.put s.mem.lines (memKey tier addr / 64 * 64) { ghost := s.mem.ver + 1, ver := s.mem.ver + 1 } {}) = true :=
    fun c => SMap.put_wf (fun _ => ({} : Line)) _ _ _ (hs.2.2.2.1 c)
  exact ⟨hs.1, hs.2.1, hs.2.2.1, h, hs.2.2.2.2⟩

theorem foundUe_kept {cs : Keep} (pg : Nat) (tier : Nat) (addr : Nat) (s : State) (Hs : Kept cs s) : Kept cs (foundUe pg tier addr s) := by
  unfold foundUe
  try dsimp only
  with_reducible repeat' (first | assumption | apply rewriteLine_kept | apply setPoison_kept | apply hist_kept | apply logErr_kept | apply State.addF_kept | dsimp only | refine kept_of_snd (by assumption) ?_ | refine kept_of_snd2 (by assumption) ?_ | refine kept_of_fst (by assumption) ?_ | (simp only [kept_mk_iff]; (first | apply keptIn_fold | apply keptIn_flags)) | split | intro _)

theorem scrubFinding_kept {cs : Keep} (pg : Nat) (tier : Nat) (addr : Nat) (ecc : Ecc) (again : Bool) (s : State) (Hs : Kept cs s) : Kept cs (scrubFinding pg tier addr ecc again s) := by
  unfold scrubFinding
  try dsimp only
  with_reducible repeat' (first | assumption | apply foundUe_kept | apply trackCe_kept | apply queueRow_kept | apply hist_kept | apply State.addF_kept | dsimp only | refine kept_of_snd (by assumption) ?_ | refine kept_of_snd2 (by assumption) ?_ | refine kept_of_fst (by assumption) ?_ | (simp only [kept_mk_iff]; (first | apply keptIn_fold | apply keptIn_flags)) | split | intro _)

theorem behind_kept {cs : Keep} (tier : Nat) (s : State) (Hs : Kept cs s) : Kept cs (behind tier s) := by
  unfold behind
  try dsimp only
  with_reducible repeat' (first | assumption | apply State.setF_kept | dsimp only | refine kept_of_snd (by assumption) ?_ | refine kept_of_snd2 (by assumption) ?_ | refine kept_of_fst (by assumption) ?_ | (simp only [kept_mk_iff]; (first | apply keptIn_fold | apply keptIn_flags)) | split | intro _)

theorem scrubLine_kept {cs : Keep} (pg : Nat) (ofs : Nat) (ecc : Ecc) (again : Bool) (s : State) (Hs : Kept cs s) : Kept cs (scrubLine pg ofs ecc again s) := by
  unfold scrubLine
  try dsimp only
  with_reducible repeat' (first | assumption | apply behind_kept | apply scrubFinding_kept | apply State.setCtl_kept | dsimp only | refine kept_of_snd (by assumption) ?_ | refine kept_of_snd2 (by assumption) ?_ | refine kept_of_fst (by assumption) ?_ | (simp only [kept_mk_iff]; (first | apply keptIn_fold | apply keptIn_flags)) | split | intro _)

theorem repairLine_kept {cs : Keep} (pg : Nat) (tier : Nat) (row : Nat) (i : Nat) (s : State) (Hs : Kept cs s) : Kept cs (repairLine pg tier row i s) := by
  unfold repairLine
  try dsimp only
  with_reducible repeat' (first | assumption | apply foundUe_kept | dsimp only | refine kept_of_snd (by assumption) ?_ | refine kept_of_snd2 (by assumption) ?_ | refine kept_of_fst (by assumption) ?_ | (simp only [kept_mk_iff]; (first | apply keptIn_fold | apply keptIn_flags)) | split | intro _)

theorem rowRepair_kept {cs : Keep} (pg : Nat) (uncorr : List Nat) (spareBad : Bool) (s : State) (Hs : Kept cs s) : Kept cs (rowRepair pg uncorr spareBad s) := by
  unfold rowRepair
  try dsimp only
  with_reducible repeat' (first | assumption | apply repairLine_kept | apply hist_kept | apply State.setCtl_kept | apply State.addF_kept | apply State.setF_kept | apply forEach_kept | dsimp only | refine kept_of_snd (by assumption) ?_ | refine kept_of_snd2 (by assumption) ?_ | refine kept_of_fst (by assumption) ?_ | (simp only [kept_mk_iff]; (first | apply keptIn_fold | apply keptIn_flags)) | split | intro _)

theorem fenceDrop_kept {cs : Keep} (pg : Nat) (s : State) (Hs : Kept cs s) : Kept cs (fenceDrop pg s) := by
  unfold fenceDrop
  try dsimp only
  with_reducible repeat' (first | assumption | apply ckpReset_kept | apply migReset_kept | apply linkFollow_kept | apply State.setEng_kept | apply lpfFail_kept | apply execFault_kept | apply coreFaultLog_kept | apply forEach_kept | dsimp only | refine kept_of_snd (by assumption) ?_ | refine kept_of_snd2 (by assumption) ?_ | refine kept_of_fst (by assumption) ?_ | (simp only [kept_mk_iff]; (first | apply keptIn_fold | apply keptIn_flags)) | split | intro _)

theorem fence_kept {cs : Keep} (pg : Nat) (s : State) (Hs : Kept cs s) : Kept cs (fence pg s) := by
  unfold fence
  try dsimp only
  with_reducible repeat' (first | assumption | apply fenceDrop_kept | apply hist_kept | apply State.addF_kept | dsimp only | refine kept_of_snd (by assumption) ?_ | refine kept_of_snd2 (by assumption) ?_ | refine kept_of_fst (by assumption) ?_ | (simp only [kept_mk_iff]; (first | apply keptIn_fold | apply keptIn_flags)) | split | intro _)

theorem wrFence_kept {cs : Keep} (m : Nat) (v : Nat) (s : State) (Hs : Kept cs s) : Kept cs (wrFence m v s) := by
  unfold wrFence
  try dsimp only
  with_reducible repeat' (first | assumption | apply fence_kept | apply checkedWrite_kept | dsimp only | refine kept_of_snd (by assumption) ?_ | refine kept_of_snd2 (by assumption) ?_ | refine kept_of_fst (by assumption) ?_ | (simp only [kept_mk_iff]; (first | apply keptIn_fold | apply keptIn_flags)) | split | intro _)

theorem setLogW_kept {cs : Keep} (bs : List Byte) (s : State) (Hs : Kept cs s) : Kept cs (setLogW bs s) := by
  unfold setLogW
  try dsimp only
  with_reducible repeat' (first | assumption | apply State.setW_kept | apply forUp_kept | apply forUp_kept2 | dsimp only | refine kept_of_snd (by assumption) ?_ | refine kept_of_snd2 (by assumption) ?_ | refine kept_of_fst (by assumption) ?_ | (simp only [kept_mk_iff]; (first | apply keptIn_fold | apply keptIn_flags)) | split | intro _)

theorem wrLogPop_kept {cs : Keep} (m : Nat) (v : Nat) (s : State) (Hs : Kept cs s) : Kept cs (wrLogPop m v s) := by
  unfold wrLogPop
  try dsimp only
  with_reducible repeat' (first | assumption | apply setLogW_kept | apply checkedWrite_kept | dsimp only | refine kept_of_snd (by assumption) ?_ | refine kept_of_snd2 (by assumption) ?_ | refine kept_of_fst (by assumption) ?_ | (simp only [kept_mk_iff]; (first | apply keptIn_fold | apply keptIn_flags)) | split | intro _)

theorem execHandshakeTimeout_kept {cs : Keep} (hs : Hs) (resp : Nat) (s : State) (Hs : Kept cs s) : KeptOut cs (execHandshakeTimeout hs resp s) := by
  unfold execHandshakeTimeout
  try dsimp only
  with_reducible repeat' (first | assumption | apply keptOut_next | apply hsTimeout_kept | apply runErr_kept | apply whenOk_kept | dsimp only | refine kept_of_snd (by assumption) ?_ | refine kept_of_snd2 (by assumption) ?_ | refine kept_of_fst (by assumption) ?_ | (simp only [kept_mk_iff]; (first | apply keptIn_fold | apply keptIn_flags)) | split | intro _)

theorem execLateAck_kept {cs : Keep} (hs : Hs) (s : State) (Hs : Kept cs s) : KeptOut cs (execLateAck hs s) := by
  unfold execLateAck
  try dsimp only
  with_reducible repeat' (first | assumption | apply keptOut_next | apply lateArrival_kept | apply run_kept | dsimp only | refine kept_of_snd (by assumption) ?_ | refine kept_of_snd2 (by assumption) ?_ | refine kept_of_fst (by assumption) ?_ | (simp only [kept_mk_iff]; (first | apply keptIn_fold | apply keptIn_flags)) | split | intro _)

theorem execLateDataDiscard_kept {cs : Keep} (hs : Hs) (s : State) (Hs : Kept cs s) : KeptOut cs (execLateDataDiscard hs s) := by
  unfold execLateDataDiscard
  try dsimp only
  with_reducible repeat' (first | assumption | apply keptOut_next | apply lateArrival_kept | apply run_kept | dsimp only | refine kept_of_snd (by assumption) ?_ | refine kept_of_snd2 (by assumption) ?_ | refine kept_of_fst (by assumption) ?_ | (simp only [kept_mk_iff]; (first | apply keptIn_fold | apply keptIn_flags)) | split | intro _)

theorem execScrubLine_kept {cs : Keep} (pg : Nat) (ofs : Nat) (ecc : Ecc) (again : Bool) (s : State) (Hs : Kept cs s) : KeptOut cs (execScrubLine pg ofs ecc again s) := by
  unfold execScrubLine
  try dsimp only
  with_reducible repeat' (first | assumption | apply keptOut_next | apply scrubLine_kept | apply run_kept | apply whenOk_kept | dsimp only | refine kept_of_snd (by assumption) ?_ | refine kept_of_snd2 (by assumption) ?_ | refine kept_of_fst (by assumption) ?_ | (simp only [kept_mk_iff]; (first | apply keptIn_fold | apply keptIn_flags)) | split | intro _)

theorem execRowRepair_kept {cs : Keep} (pg : Nat) (uncorr : List Nat) (spareBad : Bool) (s : State) (Hs : Kept cs s) : KeptOut cs (execRowRepair pg uncorr spareBad s) := by
  unfold execRowRepair
  try dsimp only
  with_reducible repeat' (first | assumption | apply keptOut_next | apply rowRepair_kept | apply run_kept | apply whenOk_kept | dsimp only | refine kept_of_snd (by assumption) ?_ | refine kept_of_snd2 (by assumption) ?_ | refine kept_of_fst (by assumption) ?_ | (simp only [kept_mk_iff]; (first | apply keptIn_fold | apply keptIn_flags)) | split | intro _)

theorem execRasFence_kept {cs : Keep} (m : Nat) (pg : Nat) (s : State) (Hs : Kept cs s) : KeptOut cs (execRasFence m pg s) := by
  unfold execRasFence
  try dsimp only
  with_reducible repeat' (first | assumption | apply keptOut_next | apply wrFence_kept | apply run_kept | apply whenOk_kept | dsimp only | refine kept_of_snd (by assumption) ?_ | refine kept_of_snd2 (by assumption) ?_ | refine kept_of_fst (by assumption) ?_ | (simp only [kept_mk_iff]; (first | apply keptIn_fold | apply keptIn_flags)) | split | intro _)

theorem execRasLogPop_kept {cs : Keep} (m : Nat) (s : State) (Hs : Kept cs s) : KeptOut cs (execRasLogPop m s) := by
  unfold execRasLogPop
  try dsimp only
  with_reducible repeat' (first | assumption | apply keptOut_next | apply wrLogPop_kept | apply run_kept | apply whenOk_kept | dsimp only | refine kept_of_snd (by assumption) ?_ | refine kept_of_snd2 (by assumption) ?_ | refine kept_of_fst (by assumption) ?_ | (simp only [kept_mk_iff]; (first | apply keptIn_fold | apply keptIn_flags)) | split | intro _)

theorem State.setFsc_kept {cs : Keep} (s : State) (i : Nat) (v : FscSlot) (Hs : Kept cs s) : Kept cs (State.setFsc s i v) := by
  unfold State.setFsc
  try dsimp only
  with_reducible repeat' (first | assumption | dsimp only | refine kept_of_snd (by assumption) ?_ | refine kept_of_snd2 (by assumption) ?_ | refine kept_of_fst (by assumption) ?_ | (simp only [kept_mk_iff]; (first | apply keptIn_fold | apply keptIn_flags)) | split | intro _)

theorem present_kept {cs : Keep} (i : Nat) (s : State) (Hs : Kept cs s) : Kept cs (present i s) := by
  unfold present
  try dsimp only
  with_reducible repeat' (first | assumption | apply slotPower_kept | apply State.setF_kept | dsimp only | refine kept_of_snd (by assumption) ?_ | refine kept_of_snd2 (by assumption) ?_ | refine kept_of_fst (by assumption) ?_ | (simp only [kept_mk_iff]; (first | apply keptIn_fold | apply keptIn_flags)) | split | intro _)

theorem fscPerst_kept {cs : Keep} (i : Nat) (s : State) (Hs : Kept cs s) : Kept cs (fscPerst i s) := by
  unfold fscPerst
  try dsimp only
  with_reducible repeat' (first | assumption | apply State.setFsc_kept | apply State.emit_kept | dsimp only | refine kept_of_snd (by assumption) ?_ | refine kept_of_snd2 (by assumption) ?_ | refine kept_of_fst (by assumption) ?_ | (simp only [kept_mk_iff]; (first | apply keptIn_fold | apply keptIn_flags)) | split | intro _)

theorem fscUp_kept {cs : Keep} (i : Nat) (gen : Nat) (width : Nat) (cxl : Nat) (s : State) (Hs : Kept cs s) : Kept cs (fscUp i gen width cxl s) := by
  unfold fscUp
  try dsimp only
  with_reducible repeat' (first | assumption | apply State.setFsc_kept | apply State.setF_kept | dsimp only | refine kept_of_snd (by assumption) ?_ | refine kept_of_snd2 (by assumption) ?_ | refine kept_of_fst (by assumption) ?_ | (simp only [kept_mk_iff]; (first | apply keptIn_fold | apply keptIn_flags)) | split | intro _)

theorem trainCheck_kept {cs : Keep} (i : Nat) (link : Option (Nat × Nat × Nat)) (s : State) (Hs : Kept cs s) : Kept cs (trainCheck i link s) := by
  unfold trainCheck
  try dsimp only
  with_reducible repeat' (first | assumption | apply fscUp_kept | apply State.setFsc_kept | apply State.emit_kept | dsimp only | refine kept_of_snd (by assumption) ?_ | refine kept_of_snd2 (by assumption) ?_ | refine kept_of_fst (by assumption) ?_ | (simp only [kept_mk_iff]; (first | apply keptIn_fold | apply keptIn_flags)) | split | intro _)

theorem fscGone_kept {cs : Keep} (i : Nat) (gone : Bool) (s : State) (Hs : Kept cs s) : Kept cs (fscGone i gone s) := by
  unfold fscGone
  try dsimp only
  with_reducible repeat' (first | assumption | apply State.setFsc_kept | apply fscLinkDown_kept | apply State.emit_kept | apply State.setF_kept | dsimp only | refine kept_of_snd (by assumption) ?_ | refine kept_of_snd2 (by assumption) ?_ | refine kept_of_fst (by assumption) ?_ | (simp only [kept_mk_iff]; (first | apply keptIn_fold | apply keptIn_flags)) | split | intro _)

theorem prsntRise_kept {cs : Keep} (i : Nat) (gone : Bool) (s : State) (Hs : Kept cs s) : Kept cs (prsntRise i gone s) := by
  unfold prsntRise
  try dsimp only
  with_reducible repeat' (first | assumption | apply fscGone_kept | dsimp only | refine kept_of_snd (by assumption) ?_ | refine kept_of_snd2 (by assumption) ?_ | refine kept_of_fst (by assumption) ?_ | (simp only [kept_mk_iff]; (first | apply keptIn_fold | apply keptIn_flags)) | split | intro _)

theorem lostRec_kept {cs : Keep} (i : Nat) (p : Nat) (s : State) (Hs : Kept cs s) : Kept cs (lostRec i p s) := by
  unfold lostRec
  try dsimp only
  with_reducible repeat' (first | assumption | apply emitRec_kept | dsimp only | refine kept_of_snd (by assumption) ?_ | refine kept_of_snd2 (by assumption) ?_ | refine kept_of_fst (by assumption) ?_ | (simp only [kept_mk_iff]; (first | apply keptIn_fold | apply keptIn_flags)) | split | intro _)

theorem portLost_kept {cs : Keep} (i : Nat) (gone : Bool) (s : State) (Hs : Kept cs s) : Kept cs (portLost i gone s) := by
  unfold portLost
  try dsimp only
  with_reducible repeat' (first | assumption | apply lostRec_kept | apply fscGone_kept | apply coreFault_kept | apply logErr_kept | apply State.setF_kept | apply forEach_kept | dsimp only | refine kept_of_snd (by assumption) ?_ | refine kept_of_snd2 (by assumption) ?_ | refine kept_of_fst (by assumption) ?_ | (simp only [kept_mk_iff]; (first | apply keptIn_fold | apply keptIn_flags)) | split | intro _)

theorem freshFar_kept {cs : Keep} (i : Nat) (s : State) (hs : Kept cs s) : Kept cs (freshFar i s) := by
  unfold freshFar; dsimp only
  exact ⟨hs.1, hs.2.1, fun c => SMap.drop_wf (fun _ => 0) s.mem.bytes (fun k => k / 2 ^ 48 == 3 && k / 2 ^ 41 % 4 == i) (hs.2.2.1 c),
    fun c => SMap.drop_wf (fun _ => ({} : Line)) s.mem.lines (fun k => k / 2 ^ 48 == 3 && k / 2 ^ 41 % 4 == i) (hs.2.2.2.1 c),
    fun c => SMap.put_wf (fun _ => 0) s.mem.epoch i (SMap.get s.mem.epoch i 0 + 1) (hs.2.2.2.2.1 c), hs.2.2.2.2.2⟩

theorem accept_kept {cs : Keep} (i : Nat) (cap : Nat) (s : State) (Hs : Kept cs s) : Kept cs (accept i cap s) := by
  unfold accept
  try dsimp only
  with_reducible repeat' (first | assumption | apply freshFar_kept | apply State.setFsc_kept | apply State.setF_kept | dsimp only | refine kept_of_snd (by assumption) ?_ | refine kept_of_snd2 (by assumption) ?_ | refine kept_of_fst (by assumption) ?_ | (simp only [kept_mk_iff]; (first | apply keptIn_fold | apply keptIn_flags)) | split | intro _)

theorem wrFscHp_kept {cs : Keep} (m : Nat) (i : Nat) (v : Nat) (given : Option Nat) (s : State) (Hs : Kept cs s) : Kept cs (wrFscHp m i v given s) := by
  unfold wrFscHp
  try dsimp only
  with_reducible repeat' (first | assumption | apply accept_kept | apply State.setFsc_kept | apply slotPower_kept | apply State.drawn_kept | apply checkedWrite_kept | apply State.setF_kept | dsimp only | refine kept_of_snd (by assumption) ?_ | refine kept_of_snd2 (by assumption) ?_ | refine kept_of_fst (by assumption) ?_ | (simp only [kept_mk_iff]; (first | apply keptIn_fold | apply keptIn_flags)) | split | intro _)

theorem drained_kept {cs : Keep} (i : Nat) (s : State) (Hs : Kept cs s) : Kept cs (drained i s) := by
  unfold drained
  try dsimp only
  with_reducible repeat' (first | assumption | apply State.setFsc_kept | apply State.setF_kept | dsimp only | refine kept_of_snd (by assumption) ?_ | refine kept_of_snd2 (by assumption) ?_ | refine kept_of_fst (by assumption) ?_ | (simp only [kept_mk_iff]; (first | apply keptIn_fold | apply keptIn_flags)) | split | intro _)

theorem execFscPresent_kept {cs : Keep} (i : Nat) (s : State) (Hs : Kept cs s) : KeptOut cs (execFscPresent i s) := by
  unfold execFscPresent
  try dsimp only
  with_reducible repeat' (first | assumption | apply keptOut_next | apply present_kept | apply run_kept | apply whenOk_kept | dsimp only | refine kept_of_snd (by assumption) ?_ | refine kept_of_snd2 (by assumption) ?_ | refine kept_of_fst (by assumption) ?_ | (simp only [kept_mk_iff]; (first | apply keptIn_fold | apply keptIn_flags)) | split | intro _)

theorem execFscPerstRelease_kept {cs : Keep} (i : Nat) (s : State) (Hs : Kept cs s) : KeptOut cs (execFscPerstRelease i s) := by
  unfold execFscPerstRelease
  try dsimp only
  with_reducible repeat' (first | assumption | apply keptOut_next | apply fscPerst_kept | apply run_kept | apply whenOk_kept | dsimp only | refine kept_of_snd (by assumption) ?_ | refine kept_of_snd2 (by assumption) ?_ | refine kept_of_fst (by assumption) ?_ | (simp only [kept_mk_iff]; (first | apply keptIn_fold | apply keptIn_flags)) | split | intro _)

theorem execFscTrainCheck_kept {cs : Keep} (i : Nat) (link : Option (Nat × Nat × Nat)) (s : State) (Hs : Kept cs s) : KeptOut cs (execFscTrainCheck i link s) := by
  unfold execFscTrainCheck
  try dsimp only
  with_reducible repeat' (first | assumption | apply keptOut_next | apply trainCheck_kept | apply run_kept | apply whenOk_kept | dsimp only | refine kept_of_snd (by assumption) ?_ | refine kept_of_snd2 (by assumption) ?_ | refine kept_of_fst (by assumption) ?_ | (simp only [kept_mk_iff]; (first | apply keptIn_fold | apply keptIn_flags)) | split | intro _)

theorem execPortLost_kept {cs : Keep} (i : Nat) (gone : Bool) (s : State) (Hs : Kept cs s) : KeptOut cs (execPortLost i gone s) := by
  unfold execPortLost
  try dsimp only
  with_reducible repeat' (first | assumption | apply keptOut_next | apply portLost_kept | apply run_kept | apply whenOk_kept | dsimp only | refine kept_of_snd (by assumption) ?_ | refine kept_of_snd2 (by assumption) ?_ | refine kept_of_fst (by assumption) ?_ | (simp only [kept_mk_iff]; (first | apply keptIn_fold | apply keptIn_flags)) | split | intro _)

theorem execFscAccept_kept {cs : Keep} (m : Nat) (i : Nat) (cap : Nat) (s : State) (Hs : Kept cs s) : KeptOut cs (execFscAccept m i cap s) := by
  unfold execFscAccept
  try dsimp only
  with_reducible repeat' (first | assumption | apply keptOut_next | apply wrFscHp_kept | apply run_kept | apply whenOk_kept | dsimp only | refine kept_of_snd (by assumption) ?_ | refine kept_of_snd2 (by assumption) ?_ | refine kept_of_fst (by assumption) ?_ | (simp only [kept_mk_iff]; (first | apply keptIn_fold | apply keptIn_flags)) | split | intro _)

theorem execFscDrain_kept {cs : Keep} (m : Nat) (i : Nat) (s : State) (Hs : Kept cs s) : KeptOut cs (execFscDrain m i s) := by
  unfold execFscDrain
  try dsimp only
  with_reducible repeat' (first | assumption | apply keptOut_next | apply wrFscHp_kept | apply run_kept | apply whenOk_kept | dsimp only | refine kept_of_snd (by assumption) ?_ | refine kept_of_snd2 (by assumption) ?_ | refine kept_of_fst (by assumption) ?_ | (simp only [kept_mk_iff]; (first | apply keptIn_fold | apply keptIn_flags)) | split | intro _)

theorem execFscDrained_kept {cs : Keep} (i : Nat) (s : State) (Hs : Kept cs s) : KeptOut cs (execFscDrained i s) := by
  unfold execFscDrained
  try dsimp only
  with_reducible repeat' (first | assumption | apply keptOut_next | apply drained_kept | apply run_kept | apply whenOk_kept | dsimp only | refine kept_of_snd (by assumption) ?_ | refine kept_of_snd2 (by assumption) ?_ | refine kept_of_fst (by assumption) ?_ | (simp only [kept_mk_iff]; (first | apply keptIn_fold | apply keptIn_flags)) | split | intro _)

theorem execFscPowerWrite_kept {cs : Keep} (m : Nat) (i : Nat) (on : Bool) (s : State) (Hs : Kept cs s) : KeptOut cs (execFscPowerWrite m i on s) := by
  unfold execFscPowerWrite
  try dsimp only
  with_reducible repeat' (first | assumption | apply keptOut_next | apply wrFscHp_kept | apply run_kept | apply whenOk_kept | dsimp only | refine kept_of_snd (by assumption) ?_ | refine kept_of_snd2 (by assumption) ?_ | refine kept_of_fst (by assumption) ?_ | (simp only [kept_mk_iff]; (first | apply keptIn_fold | apply keptIn_flags)) | split | intro _)

theorem execFscPrsntNRise_kept {cs : Keep} (i : Nat) (gone : Bool) (s : State) (Hs : Kept cs s) : KeptOut cs (execFscPrsntNRise i gone s) := by
  unfold execFscPrsntNRise
  try dsimp only
  with_reducible repeat' (first | assumption | apply keptOut_next | apply prsntRise_kept | apply run_kept | apply whenOk_kept | dsimp only | refine kept_of_snd (by assumption) ?_ | refine kept_of_snd2 (by assumption) ?_ | refine kept_of_fst (by assumption) ?_ | (simp only [kept_mk_iff]; (first | apply keptIn_fold | apply keptIn_flags)) | split | intro _)

theorem pwrStatus_kept {cs : Keep} (s : State) (Hs : Kept cs s) : Kept cs (pwrStatus s) := by
  unfold pwrStatus
  try dsimp only
  with_reducible repeat' (first | assumption | apply State.emit_kept | apply State.setF_kept | dsimp only | refine kept_of_snd (by assumption) ?_ | refine kept_of_snd2 (by assumption) ?_ | refine kept_of_fst (by assumption) ?_ | (simp only [kept_mk_iff]; (first | apply keptIn_fold | apply keptIn_flags)) | split | intro _)

theorem pwrReadings_kept {cs : Keep} (die : Nat) (tj : Option Int) (hbm : Int) (pkg : Nat) (s : State) (Hs : Kept cs s) : Kept cs (pwrReadings die tj hbm pkg s) := by
  unfold pwrReadings
  try dsimp only
  with_reducible repeat' (first | assumption | apply State.drawn_kept | apply logErr_kept | apply State.setF_kept | dsimp only | refine kept_of_snd (by assumption) ?_ | refine kept_of_snd2 (by assumption) ?_ | refine kept_of_fst (by assumption) ?_ | (simp only [kept_mk_iff]; (first | apply keptIn_fold | apply keptIn_flags)) | split | intro _)

theorem limCount_kept {cs : Keep} (die : Nat) (us : Nat) (s : State) (Hs : Kept cs s) : Kept cs (limCount die us s) := by
  unfold limCount
  try dsimp only
  with_reducible repeat' (first | assumption | apply State.addF_kept | dsimp only | refine kept_of_snd (by assumption) ?_ | refine kept_of_snd2 (by assumption) ?_ | refine kept_of_fst (by assumption) ?_ | (simp only [kept_mk_iff]; (first | apply keptIn_fold | apply keptIn_flags)) | split | intro _)

theorem trip_kept {cs : Keep} (s : State) (Hs : Kept cs s) : Kept cs (trip s) := by
  unfold trip
  try dsimp only
  with_reducible repeat' (first | assumption | apply State.emit_kept | dsimp only | refine kept_of_snd (by assumption) ?_ | refine kept_of_snd2 (by assumption) ?_ | refine kept_of_fst (by assumption) ?_ | (simp only [kept_mk_iff]; (first | apply keptIn_fold | apply keptIn_flags)) | split | intro _)

theorem loopInterval_kept {cs : Keep} (die : Nat) (tj : Option Int) (hbm : Int) (pkg : Nat) (sense : Nat) (cur : Nat) (ok : Bool) (s : State) (Hs : Kept cs s) : Kept cs (loopInterval die tj hbm pkg sense cur ok s) := by
  unfold loopInterval
  try dsimp only
  with_reducible repeat' (first | assumption | apply trip_kept | apply limCount_kept | apply pwrReadings_kept | apply pwrStatus_kept | apply logErr_kept | apply State.emit_kept | apply State.setF_kept | dsimp only | refine kept_of_snd (by assumption) ?_ | refine kept_of_snd2 (by assumption) ?_ | refine kept_of_fst (by assumption) ?_ | (simp only [kept_mk_iff]; (first | apply keptIn_fold | apply keptIn_flags)) | split | intro _)

theorem setHotIn_kept {cs : Keep} (low : Bool) (s : State) (Hs : Kept cs s) : Kept cs (setHotIn low s) := by
  unfold setHotIn
  try dsimp only
  with_reducible repeat' (first | assumption | dsimp only | refine kept_of_snd (by assumption) ?_ | refine kept_of_snd2 (by assumption) ?_ | refine kept_of_fst (by assumption) ?_ | (simp only [kept_mk_iff]; (first | apply keptIn_fold | apply keptIn_flags)) | split | intro _)

theorem execLoopInterval_kept {cs : Keep} (die : Nat) (tj : Option Int) (hbm : Int) (pkg : Nat) (sense : Nat) (cur : Nat) (ok : Bool) (s : State) (Hs : Kept cs s) : KeptOut cs (execLoopInterval die tj hbm pkg sense cur ok s) := by
  unfold execLoopInterval
  try dsimp only
  with_reducible repeat' (first | assumption | apply keptOut_next | apply loopInterval_kept | apply run_kept | apply whenOk_kept | dsimp only | refine kept_of_snd (by assumption) ?_ | refine kept_of_snd2 (by assumption) ?_ | refine kept_of_fst (by assumption) ?_ | (simp only [kept_mk_iff]; (first | apply keptIn_fold | apply keptIn_flags)) | split | intro _)

theorem execHotNInput_kept {cs : Keep} (low : Bool) (s : State) (Hs : Kept cs s) : KeptOut cs (execHotNInput low s) := by
  unfold execHotNInput
  try dsimp only
  with_reducible repeat' (first | assumption | apply keptOut_next | apply setHotIn_kept | apply runPin_kept | apply State.setF_kept | dsimp only | refine kept_of_snd (by assumption) ?_ | refine kept_of_snd2 (by assumption) ?_ | refine kept_of_fst (by assumption) ?_ | (simp only [kept_mk_iff]; (first | apply keptIn_fold | apply keptIn_flags)) | split | intro _)

theorem execThermalTrip_kept {cs : Keep} (s : State) (Hs : Kept cs s) : KeptOut cs (execThermalTrip s) := by
  unfold execThermalTrip
  try dsimp only
  with_reducible repeat' (first | assumption | apply keptOut_next | apply trip_kept | apply run_kept | dsimp only | refine kept_of_snd (by assumption) ?_ | refine kept_of_snd2 (by assumption) ?_ | refine kept_of_fst (by assumption) ?_ | (simp only [kept_mk_iff]; (first | apply keptIn_fold | apply keptIn_flags)) | split | intro _)

end Sys2Proof.Machine
end

