-- ==== Sys2Proof/Laws/KeptHost.lean ====
section
/-! SUPPORT.  What the operations of events, the host interface, boot, management and debug keep: the queue of waiting
commands, and the canonical form of the registers and the stores.  One lemma per operation. -/

set_option linter.all false

namespace Sys2Proof.Machine

theorem State.setMsix_kept {cs : Keep} (s : State) (fn : Nat) (v : Msix) (Hs : Kept cs s) : Kept cs (State.setMsix s fn v) := by
  unfold State.setMsix
  try dsimp only
  with_reducible repeat' (first | assumption | dsimp only | refine kept_of_snd (by assumption) ?_ | refine kept_of_snd2 (by assumption) ?_ | refine kept_of_fst (by assumption) ?_ | (simp only [kept_mk_iff]; (first | apply keptIn_fold | apply keptIn_flags)) | split | intro _)

theorem sendMsix_kept {cs : Keep} (fn : Nat) (vec : Nat) (s : State) (Hs : Kept cs s) : Kept cs (sendMsix fn vec s) := by
  unfold sendMsix
  try dsimp only
  with_reducible repeat' (first | assumption | apply State.setMsix_kept | apply State.emit_kept | dsimp only | refine kept_of_snd (by assumption) ?_ | refine kept_of_snd2 (by assumption) ?_ | refine kept_of_fst (by assumption) ?_ | (simp only [kept_mk_iff]; (first | apply keptIn_fold | apply keptIn_flags)) | split | intro _)

theorem sendPending_kept {cs : Keep} (fn : Nat) (vec : Nat) (s : State) (Hs : Kept cs s) : Kept cs (sendPending fn vec s) := by
  unfold sendPending
  try dsimp only
  with_reducible repeat' (first | assumption | apply sendMsix_kept | apply State.setMsix_kept | dsimp only | refine kept_of_snd (by assumption) ?_ | refine kept_of_snd2 (by assumption) ?_ | refine kept_of_fst (by assumption) ?_ | (simp only [kept_mk_iff]; (first | apply keptIn_fold | apply keptIn_flags)) | split | intro _)

theorem unmask_kept {cs : Keep} (fn : Nat) (what : MsixSet) (s : State) (Hs : Kept cs s) : Kept cs (unmask fn what s) := by
  unfold unmask
  try dsimp only
  with_reducible repeat' (first | assumption | apply sendPending_kept | apply State.setMsix_kept | apply forUp_kept | apply forUp_kept2 | dsimp only | refine kept_of_snd (by assumption) ?_ | refine kept_of_snd2 (by assumption) ?_ | refine kept_of_fst (by assumption) ?_ | (simp only [kept_mk_iff]; (first | apply keptIn_fold | apply keptIn_flags)) | split | intro _)

theorem atsUse_kept {cs : Keep} (fn : Nat) (addr : Nat) (s : State) (Hs : Kept cs s) : Kept cs (atsUse fn addr s) := by
  unfold atsUse
  try dsimp only
  with_reducible repeat' (first | assumption | dsimp only | refine kept_of_snd (by assumption) ?_ | refine kept_of_snd2 (by assumption) ?_ | refine kept_of_fst (by assumption) ?_ | (simp only [kept_mk_iff]; (first | apply keptIn_fold | apply keptIn_flags)) | split | intro _)

theorem putDieBytes_wf (bs : List Byte) (b : SMap Byte) (ofs : Nat) (h : SMap.wf (fun _ => 0) b = true) :
    SMap.wf (fun _ => 0) (putDieBytes b ofs bs) = true := by
  induction bs generalizing b ofs with
  | nil => exact h
  | cons x xs ih => exact ih _ _ (SMap.put_wf (fun _ => 0) b ofs x h)

theorem ringStore_kept {cs : Keep} (o pg addr : Nat) (bs : List Byte) (s : State) (hs : Kept cs s) : Kept cs (ringStore o pg addr bs s).2 := by
  unfold ringStore
  split
  · exact State.emit_kept _ _ (atsUse_kept _ _ _ hs)
  · exact ⟨hs.1, hs.2.1, hs.2.2.1, hs.2.2.2.1, hs.2.2.2.2.1, fun c => putDieBytes_wf bs _ _ (hs.2.2.2.2.2 c)⟩
  · exact awaitIf_kept _ _ (memWrite_kept _ _ _ _ _ _ _ hs)

theorem recLost_kept {cs : Keep} (o : Nat) (pg : Nat) (s : State) (Hs : Kept cs s) : Kept cs (recLost o pg s) := by
  unfold recLost
  try dsimp only
  with_reducible repeat' (first | assumption | apply State.setW_kept | apply State.setF_kept | dsimp only | refine kept_of_snd (by assumption) ?_ | refine kept_of_snd2 (by assumption) ?_ | refine kept_of_fst (by assumption) ?_ | (simp only [kept_mk_iff]; (first | apply keptIn_fold | apply keptIn_flags)) | split | intro _)

theorem ringIrq_kept {cs : Keep} (o : Nat) (pg : Nat) (s : State) (Hs : Kept cs s) : Kept cs (ringIrq o pg s) := by
  unfold ringIrq
  try dsimp only
  with_reducible repeat' (first | assumption | apply sendMsix_kept | apply State.emit_kept | dsimp only | refine kept_of_snd (by assumption) ?_ | refine kept_of_snd2 (by assumption) ?_ | refine kept_of_fst (by assumption) ?_ | (simp only [kept_mk_iff]; (first | apply keptIn_fold | apply keptIn_flags)) | split | intro _)

theorem ringPut_kept {cs : Keep} (o : Nat) (seq : Nat) (r : EvRec) (s : State) (Hs : Kept cs s) : Kept cs (ringPut o seq r s) := by
  unfold ringPut
  try dsimp only
  with_reducible repeat' (first | assumption | apply ringIrq_kept | apply recLost_kept | apply ringStore_kept | apply State.setW_kept | dsimp only | refine kept_of_snd (by assumption) ?_ | refine kept_of_snd2 (by assumption) ?_ | refine kept_of_fst (by assumption) ?_ | (simp only [kept_mk_iff]; (first | apply keptIn_fold | apply keptIn_flags)) | split | intro _)

theorem takeSeq_kept {cs : Keep} (s : State) (Hs : Kept cs s) : Kept cs (takeSeq s).2 := by
  unfold takeSeq
  try dsimp only
  with_reducible repeat' (first | assumption | dsimp only | refine kept_of_snd (by assumption) ?_ | refine kept_of_snd2 (by assumption) ?_ | refine kept_of_fst (by assumption) ?_ | (simp only [kept_mk_iff]; (first | apply keptIn_fold | apply keptIn_flags)) | split | intro _)

theorem grantCopy_kept {cs : Keep} (r : EvRec) (o : Nat) (s : State) (Hs : Kept cs s) : Kept cs (grantCopy r o s) := by
  unfold grantCopy
  try dsimp only
  with_reducible repeat' (first | assumption | apply takeSeq_kept | apply ringPut_kept | dsimp only | refine kept_of_snd (by assumption) ?_ | refine kept_of_snd2 (by assumption) ?_ | refine kept_of_fst (by assumption) ?_ | (simp only [kept_mk_iff]; (first | apply keptIn_fold | apply keptIn_flags)) | split | intro _)

theorem ringLost_kept {cs : Keep} (o : Nat) (s : State) (Hs : Kept cs s) : Kept cs (ringLost o s) := by
  unfold ringLost
  try dsimp only
  with_reducible repeat' (first | assumption | apply grantCopy_kept | dsimp only | refine kept_of_snd (by assumption) ?_ | refine kept_of_snd2 (by assumption) ?_ | refine kept_of_fst (by assumption) ?_ | (simp only [kept_mk_iff]; (first | apply keptIn_fold | apply keptIn_flags)) | split | intro _)

theorem grantRec_kept {cs : Keep} (r : EvRec) (s : State) (Hs : Kept cs s) : Kept cs (grantRec r s) := by
  unfold grantRec
  try dsimp only
  with_reducible repeat' (first | assumption | apply ringLost_kept | apply grantCopy_kept | apply completed_kept | apply forEach_kept | dsimp only | refine kept_of_snd (by assumption) ?_ | refine kept_of_snd2 (by assumption) ?_ | refine kept_of_fst (by assumption) ?_ | (simp only [kept_mk_iff]; (first | apply keptIn_fold | apply keptIn_flags)) | split | intro _)

theorem eventWrite_kept {cs : Keep} (i : Nat) (s : State) (Hs : Kept cs s) : Kept cs (eventWrite i s) := by
  unfold eventWrite
  try dsimp only
  with_reducible repeat' (first | assumption | apply grantRec_kept | dsimp only | refine kept_of_snd (by assumption) ?_ | refine kept_of_snd2 (by assumption) ?_ | refine kept_of_fst (by assumption) ?_ | (simp only [kept_mk_iff]; (first | apply keptIn_fold | apply keptIn_flags)) | split | intro _)

theorem wrEvqLo_kept {cs : Keep} (m : Nat) (pg : Nat) (v : Nat) (s : State) (Hs : Kept cs s) : Kept cs (wrEvqLo m pg v s) := by
  unfold wrEvqLo
  try dsimp only
  with_reducible repeat' (first | assumption | apply checkedWrite_kept | apply State.setW_kept | dsimp only | refine kept_of_snd (by assumption) ?_ | refine kept_of_snd2 (by assumption) ?_ | refine kept_of_fst (by assumption) ?_ | (simp only [kept_mk_iff]; (first | apply keptIn_fold | apply keptIn_flags)) | split | intro _)

theorem wrEvqHi_kept {cs : Keep} (m : Nat) (pg : Nat) (v : Nat) (s : State) (Hs : Kept cs s) : Kept cs (wrEvqHi m pg v s) := by
  unfold wrEvqHi
  try dsimp only
  with_reducible repeat' (first | assumption | apply checkedWrite_kept | apply State.setW_kept | dsimp only | refine kept_of_snd (by assumption) ?_ | refine kept_of_snd2 (by assumption) ?_ | refine kept_of_fst (by assumption) ?_ | (simp only [kept_mk_iff]; (first | apply keptIn_fold | apply keptIn_flags)) | split | intro _)

theorem wrEvqCtl_kept {cs : Keep} (m : Nat) (pg : Nat) (v : Nat) (s : State) (Hs : Kept cs s) : Kept cs (wrEvqCtl m pg v s) := by
  unfold wrEvqCtl
  try dsimp only
  with_reducible repeat' (first | assumption | apply checkedWrite_kept | apply refuse_kept | apply State.setW_kept | dsimp only | refine kept_of_snd (by assumption) ?_ | refine kept_of_snd2 (by assumption) ?_ | refine kept_of_fst (by assumption) ?_ | (simp only [kept_mk_iff]; (first | apply keptIn_fold | apply keptIn_flags)) | split | intro _)

theorem wrEvqCons_kept {cs : Keep} (m : Nat) (pg : Nat) (v : Nat) (s : State) (Hs : Kept cs s) : Kept cs (wrEvqCons m pg v s) := by
  unfold wrEvqCons
  try dsimp only
  with_reducible repeat' (first | assumption | apply checkedWrite_kept | apply State.setW_kept | dsimp only | refine kept_of_snd (by assumption) ?_ | refine kept_of_snd2 (by assumption) ?_ | refine kept_of_fst (by assumption) ?_ | (simp only [kept_mk_iff]; (first | apply keptIn_fold | apply keptIn_flags)) | split | intro _)

theorem execEventRecordWrite_kept {cs : Keep} (i : Nat) (s : State) (Hs : Kept cs s) : KeptOut cs (execEventRecordWrite i s) := by
  unfold execEventRecordWrite
  try dsimp only
  with_reducible repeat' (first | assumption | apply keptOut_next | apply eventWrite_kept | apply settle_kept | apply run_kept | dsimp only | refine kept_of_snd (by assumption) ?_ | refine kept_of_snd2 (by assumption) ?_ | refine kept_of_fst (by assumption) ?_ | (simp only [kept_mk_iff]; (first | apply keptIn_fold | apply keptIn_flags)) | split | intro _)

theorem execRingLost_kept {cs : Keep} (o : Nat) (s : State) (Hs : Kept cs s) : KeptOut cs (execRingLost o s) := by
  unfold execRingLost
  try dsimp only
  with_reducible repeat' (first | assumption | apply keptOut_next | apply ringLost_kept | apply runErr_kept | apply whenOk_kept | dsimp only | refine kept_of_snd (by assumption) ?_ | refine kept_of_snd2 (by assumption) ?_ | refine kept_of_fst (by assumption) ?_ | (simp only [kept_mk_iff]; (first | apply keptIn_fold | apply keptIn_flags)) | split | intro _)

theorem execEvqEnable_kept {cs : Keep} (m : Nat) (pg : Nat) (v : Nat) (s : State) (Hs : Kept cs s) : KeptOut cs (execEvqEnable m pg v s) := by
  unfold execEvqEnable
  try dsimp only
  with_reducible repeat' (first | assumption | apply keptOut_next | apply wrEvqCtl_kept | apply run_kept | apply whenOk_kept | dsimp only | refine kept_of_snd (by assumption) ?_ | refine kept_of_snd2 (by assumption) ?_ | refine kept_of_fst (by assumption) ?_ | (simp only [kept_mk_iff]; (first | apply keptIn_fold | apply keptIn_flags)) | split | intro _)

theorem execEvqConsWrite_kept {cs : Keep} (m : Nat) (pg : Nat) (v : Nat) (s : State) (Hs : Kept cs s) : KeptOut cs (execEvqConsWrite m pg v s) := by
  unfold execEvqConsWrite
  try dsimp only
  with_reducible repeat' (first | assumption | apply keptOut_next | apply wrEvqCons_kept | apply run_kept | apply whenOk_kept | dsimp only | refine kept_of_snd (by assumption) ?_ | refine kept_of_snd2 (by assumption) ?_ | refine kept_of_fst (by assumption) ?_ | (simp only [kept_mk_iff]; (first | apply keptIn_fold | apply keptIn_flags)) | split | intro _)

theorem execMsixUnmask_kept {cs : Keep} (fn : Nat) (x : MsixSet) (s : State) (Hs : Kept cs s) : KeptOut cs (execMsixUnmask fn x s) := by
  unfold execMsixUnmask
  try dsimp only
  with_reducible repeat' (first | assumption | apply keptOut_next | apply unmask_kept | apply run_kept | apply whenOk_kept | dsimp only | refine kept_of_snd (by assumption) ?_ | refine kept_of_snd2 (by assumption) ?_ | refine kept_of_fst (by assumption) ?_ | (simp only [kept_mk_iff]; (first | apply keptIn_fold | apply keptIn_flags)) | split | intro _)

theorem refuseQ_kept {cs : Keep} (p : Nat) (q : Option Nat) (code : Nat) (s : State) (Hs : Kept cs s) : Kept cs (refuseQ p q code s) := by
  unfold refuseQ
  try dsimp only
  with_reducible repeat' (first | assumption | apply State.setQp_kept | apply logErr_kept | apply perfOwn_kept | dsimp only | refine kept_of_snd (by assumption) ?_ | refine kept_of_snd2 (by assumption) ?_ | refine kept_of_fst (by assumption) ?_ | (simp only [kept_mk_iff]; (first | apply keptIn_fold | apply keptIn_flags)) | split | intro _)

theorem wrQueue_kept {cs : Keep} (p : Nat) (ofs : Nat) (v : Nat) (s : State) (Hs : Kept cs s) : Kept cs (wrQueue p ofs v s) := by
  unfold wrQueue
  try dsimp only
  with_reducible repeat' (first | assumption | apply refuseQ_kept | apply State.setQp_kept | dsimp only | refine kept_of_snd (by assumption) ?_ | refine kept_of_snd2 (by assumption) ?_ | refine kept_of_fst (by assumption) ?_ | (simp only [kept_mk_iff]; (first | apply keptIn_fold | apply keptIn_flags)) | split | intro _)

theorem offerCmd_kept {cs : Keep} (p : Nat) (q : Nat) (idx : Nat) (e : List Byte) (s : State) (Hs : Kept cs s) : Kept cs (offerCmd p q idx e s) := by
  unfold offerCmd
  try dsimp only
  with_reducible repeat' (first | assumption | apply enqueueCmd_kept | apply refuseCmd_kept | apply respond_kept | dsimp only | refine kept_of_snd (by assumption) ?_ | refine kept_of_snd2 (by assumption) ?_ | refine kept_of_fst (by assumption) ?_ | (simp only [kept_mk_iff]; (first | apply keptIn_fold | apply keptIn_flags)) | split | intro _)

theorem queueStop_kept {cs : Keep} (p : Nat) (q : Nat) (code : Nat) (s : State) (Hs : Kept cs s) : Kept cs (queueStop p q code s) := by
  unfold queueStop
  try dsimp only
  with_reducible repeat' (first | assumption | apply State.setQp_kept | apply logErr_kept | dsimp only | refine kept_of_snd (by assumption) ?_ | refine kept_of_snd2 (by assumption) ?_ | refine kept_of_fst (by assumption) ?_ | (simp only [kept_mk_iff]; (first | apply keptIn_fold | apply keptIn_flags)) | split | intro _)

theorem sqFetch_kept {cs : Keep} (p : Nat) (entry : List Byte) (res : Nat) (s : State) (Hs : Kept cs s) : Kept cs (sqFetch p entry res s) := by
  unfold sqFetch
  try dsimp only
  with_reducible repeat' (first | assumption | apply queueStop_kept | apply offerCmd_kept | apply atsUse_kept | apply State.setQp_kept | apply perfOwn_kept | dsimp only | refine kept_of_snd (by assumption) ?_ | refine kept_of_snd2 (by assumption) ?_ | refine kept_of_fst (by assumption) ?_ | (simp only [kept_mk_iff]; (first | apply keptIn_fold | apply keptIn_flags)) | split | intro _)

theorem cqWrite_kept {cs : Keep} (p : Nat) (q : Nat) (s : State) (Hs : Kept cs s) : Kept cs (cqWrite p q s) := by
  unfold cqWrite
  try dsimp only
  with_reducible repeat' (first | assumption | apply atsUse_kept | apply State.setQp_kept | apply State.emit_kept | dsimp only | refine kept_of_snd (by assumption) ?_ | refine kept_of_snd2 (by assumption) ?_ | refine kept_of_fst (by assumption) ?_ | (simp only [kept_mk_iff]; (first | apply keptIn_fold | apply keptIn_flags)) | split | intro _)

theorem cplInt_kept {cs : Keep} (p : Nat) (q : Nat) (s : State) (Hs : Kept cs s) : Kept cs (cplInt p q s) := by
  unfold cplInt
  try dsimp only
  with_reducible repeat' (first | assumption | apply sendMsix_kept | apply State.setQp_kept | dsimp only | refine kept_of_snd (by assumption) ?_ | refine kept_of_snd2 (by assumption) ?_ | refine kept_of_fst (by assumption) ?_ | (simp only [kept_mk_iff]; (first | apply keptIn_fold | apply keptIn_flags)) | split | intro _)

theorem winDeny_kept {cs : Keep} (i : Nat) (ofs : Nat) (code : Nat) (s : State) (Hs : Kept cs s) : Kept cs (winDeny i ofs code s) := by
  unfold winDeny
  try dsimp only
  with_reducible repeat' (first | assumption | apply accessFail_kept | apply logErr_kept | apply State.addF_kept | dsimp only | refine kept_of_snd (by assumption) ?_ | refine kept_of_snd2 (by assumption) ?_ | refine kept_of_fst (by assumption) ?_ | (simp only [kept_mk_iff]; (first | apply keptIn_fold | apply keptIn_flags)) | split | intro _)

theorem accWait_kept {cs : Keep} (i : Nat) (ofs : Nat) (len : Nat) (write : Bool) (s : State) (Hs : Kept cs s) : Kept cs (accWait i ofs len write s) := by
  unfold accWait
  try dsimp only
  with_reducible repeat' (first | assumption | dsimp only | refine kept_of_snd (by assumption) ?_ | refine kept_of_snd2 (by assumption) ?_ | refine kept_of_fst (by assumption) ?_ | (simp only [kept_mk_iff]; (first | apply keptIn_fold | apply keptIn_flags)) | split | intro _)

theorem accDone_kept {cs : Keep} (i : Nat) (ofs : Nat) (len : Nat) (write : Bool) (s : State) (Hs : Kept cs s) : Kept cs (accDone i ofs len write s) := by
  unfold accDone
  try dsimp only
  with_reducible repeat' (first | assumption | dsimp only | refine kept_of_snd (by assumption) ?_ | refine kept_of_snd2 (by assumption) ?_ | refine kept_of_fst (by assumption) ?_ | (simp only [kept_mk_iff]; (first | apply keptIn_fold | apply keptIn_flags)) | split | intro _)

theorem winAccess_kept {cs : Keep} (i : Nat) (ofs : Nat) (len : Nat) (bar4 : Bool) (write : Bool) (tmo : Bool) (deny : Nat → State → State) (go : State → State) (s : State) (Hdeny : ∀ x0 s, Kept cs s → Kept cs (deny x0 s)) (Hgo : ∀ s, Kept cs s → Kept cs (go s)) (Hs : Kept cs s) : Kept cs (winAccess i ofs len bar4 write tmo deny go s) := by
  unfold winAccess
  try dsimp only
  with_reducible repeat' (first | assumption | apply Hdeny | apply Hgo | apply accDone_kept | apply accWait_kept | apply escalate_kept | dsimp only | refine kept_of_snd (by assumption) ?_ | refine kept_of_snd2 (by assumption) ?_ | refine kept_of_fst (by assumption) ?_ | (simp only [kept_mk_iff]; (first | apply keptIn_fold | apply keptIn_flags)) | split | intro _)

theorem winRead_kept {cs : Keep} (i : Nat) (ofs : Nat) (len : Nat) (bar4 : Bool) (tmo : Bool) (s : State) (Hs : Kept cs s) : Kept cs (winRead i ofs len bar4 tmo s) := by
  unfold winRead
  try dsimp only
  with_reducible repeat' (first | assumption | apply winAccess_kept | apply winDeny_kept | apply readBlocks_kept | apply perfOwn_kept | apply State.emit_kept | apply State.addF_kept | dsimp only | refine kept_of_snd (by assumption) ?_ | refine kept_of_snd2 (by assumption) ?_ | refine kept_of_fst (by assumption) ?_ | (simp only [kept_mk_iff]; (first | apply keptIn_fold | apply keptIn_flags)) | split | intro _)

theorem winWrite_kept {cs : Keep} (i : Nat) (ofs : Nat) (data : List Byte) (bar4 : Bool) (pois : Bool) (tmo : Bool) (s : State) (Hs : Kept cs s) : Kept cs (winWrite i ofs data bar4 pois tmo s) := by
  unfold winWrite
  try dsimp only
  with_reducible repeat' (first | assumption | apply winAccess_kept | apply winDeny_kept | apply writeBlocks_kept | apply logErr_kept | apply perfOwn_kept | dsimp only | refine kept_of_snd (by assumption) ?_ | refine kept_of_snd2 (by assumption) ?_ | refine kept_of_fst (by assumption) ?_ | (simp only [kept_mk_iff]; (first | apply keptIn_fold | apply keptIn_flags)) | split | intro _)

theorem wrWin_kept {cs : Keep} (m : Nat) (i : Nat) (k : Nat) (v : Nat) (s : State) (Hs : Kept cs s) : Kept cs (wrWin m i k v s) := by
  unfold wrWin
  try dsimp only
  with_reducible repeat' (first | assumption | apply plainWrite_kept | dsimp only | refine kept_of_snd (by assumption) ?_ | refine kept_of_snd2 (by assumption) ?_ | refine kept_of_fst (by assumption) ?_ | (simp only [kept_mk_iff]; (first | apply keptIn_fold | apply keptIn_flags)) | split | intro _)

theorem pfFlr_kept {cs : Keep} (s : State) (Hs : Kept cs s) : Kept cs (pfFlr s) := by
  unfold pfFlr
  try dsimp only
  with_reducible repeat' (first | assumption | apply State.setMsix_kept | apply vfOff_kept | apply State.setF_kept | apply forUp_kept | apply forUp_kept2 | dsimp only | refine kept_of_snd (by assumption) ?_ | refine kept_of_snd2 (by assumption) ?_ | refine kept_of_fst (by assumption) ?_ | (simp only [kept_mk_iff]; (first | apply keptIn_fold | apply keptIn_flags)) | split | intro _)

theorem linkGone_kept {cs : Keep} (s : State) (Hs : Kept cs s) : Kept cs (linkGone s) := by
  unfold linkGone
  try dsimp only
  with_reducible repeat' (first | assumption | apply pfFlr_kept | apply startPrtReset_kept | apply State.setW_kept | apply forUp_kept | apply forUp_kept2 | dsimp only | refine kept_of_snd (by assumption) ?_ | refine kept_of_snd2 (by assumption) ?_ | refine kept_of_fst (by assumption) ?_ | (simp only [kept_mk_iff]; (first | apply keptIn_fold | apply keptIn_flags)) | split | intro _)

theorem setPerst_kept {cs : Keep} (high : Bool) (s : State) (Hs : Kept cs s) : Kept cs (setPerst high s) := by
  unfold setPerst
  try dsimp only
  with_reducible repeat' (first | assumption | dsimp only | refine kept_of_snd (by assumption) ?_ | refine kept_of_snd2 (by assumption) ?_ | refine kept_of_fst (by assumption) ?_ | (simp only [kept_mk_iff]; (first | apply keptIn_fold | apply keptIn_flags)) | split | intro _)

theorem upstreamReset_kept {cs : Keep} (s : State) (Hs : Kept cs s) : Kept cs (upstreamReset s) := by
  unfold upstreamReset
  try dsimp only
  with_reducible repeat' (first | assumption | apply linkGone_kept | dsimp only | refine kept_of_snd (by assumption) ?_ | refine kept_of_snd2 (by assumption) ?_ | refine kept_of_fst (by assumption) ?_ | (simp only [kept_mk_iff]; (first | apply keptIn_fold | apply keptIn_flags)) | split | intro _)

theorem linkTrained_kept {cs : Keep} (gen : Nat) (width : Nat) (cxl : Nat) (mem : Bool) (s : State) (Hs : Kept cs s) : Kept cs (linkTrained gen width cxl mem s) := by
  unfold linkTrained
  try dsimp only
  with_reducible repeat' (first | assumption | apply State.setW_kept | dsimp only | refine kept_of_snd (by assumption) ?_ | refine kept_of_snd2 (by assumption) ?_ | refine kept_of_fst (by assumption) ?_ | (simp only [kept_mk_iff]; (first | apply keptIn_fold | apply keptIn_flags)) | split | intro _)

theorem atsInvalidate_kept {cs : Keep} (fn : Nat) (page : Nat) (n : Nat) (s : State) (Hs : Kept cs s) : Kept cs (atsInvalidate fn page n s) := by
  unfold atsInvalidate
  try dsimp only
  with_reducible repeat' (first | assumption | dsimp only | refine kept_of_snd (by assumption) ?_ | refine kept_of_snd2 (by assumption) ?_ | refine kept_of_fst (by assumption) ?_ | (simp only [kept_mk_iff]; (first | apply keptIn_fold | apply keptIn_flags)) | split | intro _)

theorem snoop_kept {cs : Keep} (addr : Nat) (s : State) (Hs : Kept cs s) : Kept cs (snoop addr s) := by
  unfold snoop
  try dsimp only
  with_reducible repeat' (first | assumption | apply State.emit_kept | dsimp only | refine kept_of_snd (by assumption) ?_ | refine kept_of_snd2 (by assumption) ?_ | refine kept_of_fst (by assumption) ?_ | (simp only [kept_mk_iff]; (first | apply keptIn_fold | apply keptIn_flags)) | split | intro _)

theorem cdatRead_kept {cs : Keep} (s : State) (Hs : Kept cs s) : Kept cs (cdatRead s) := by
  unfold cdatRead
  try dsimp only
  with_reducible repeat' (first | assumption | apply State.emit_kept | dsimp only | refine kept_of_snd (by assumption) ?_ | refine kept_of_snd2 (by assumption) ?_ | refine kept_of_fst (by assumption) ?_ | (simp only [kept_mk_iff]; (first | apply keptIn_fold | apply keptIn_flags)) | split | intro _)

theorem execSqTailWrite_kept {cs : Keep} (p : Nat) (q : Nat) (v : Nat) (s : State) (Hs : Kept cs s) : KeptOut cs (execSqTailWrite p q v s) := by
  unfold execSqTailWrite
  try dsimp only
  with_reducible repeat' (first | assumption | apply keptOut_next | apply wrQueue_kept | apply run_kept | apply whenOk_kept | dsimp only | refine kept_of_snd (by assumption) ?_ | refine kept_of_snd2 (by assumption) ?_ | refine kept_of_fst (by assumption) ?_ | (simp only [kept_mk_iff]; (first | apply keptIn_fold | apply keptIn_flags)) | split | intro _)

theorem execSqFetch_kept {cs : Keep} (p : Nat) (entry : List Byte) (res : Nat) (s : State) (Hs : Kept cs s) : KeptOut cs (execSqFetch p entry res s) := by
  unfold execSqFetch
  try dsimp only
  with_reducible repeat' (first | assumption | apply keptOut_next | apply sqFetch_kept | apply run_kept | apply whenOk_kept | dsimp only | refine kept_of_snd (by assumption) ?_ | refine kept_of_snd2 (by assumption) ?_ | refine kept_of_fst (by assumption) ?_ | (simp only [kept_mk_iff]; (first | apply keptIn_fold | apply keptIn_flags)) | split | intro _)

theorem execCqWrite_kept {cs : Keep} (p : Nat) (q : Nat) (s : State) (Hs : Kept cs s) : KeptOut cs (execCqWrite p q s) := by
  unfold execCqWrite
  try dsimp only
  with_reducible repeat' (first | assumption | apply keptOut_next | apply cqWrite_kept | apply run_kept | apply whenOk_kept | dsimp only | refine kept_of_snd (by assumption) ?_ | refine kept_of_snd2 (by assumption) ?_ | refine kept_of_fst (by assumption) ?_ | (simp only [kept_mk_iff]; (first | apply keptIn_fold | apply keptIn_flags)) | split | intro _)

theorem execCompletionInterrupt_kept {cs : Keep} (p : Nat) (q : Nat) (s : State) (Hs : Kept cs s) : KeptOut cs (execCompletionInterrupt p q s) := by
  unfold execCompletionInterrupt
  try dsimp only
  with_reducible repeat' (first | assumption | apply keptOut_next | apply cplInt_kept | apply run_kept | apply whenOk_kept | dsimp only | refine kept_of_snd (by assumption) ?_ | refine kept_of_snd2 (by assumption) ?_ | refine kept_of_fst (by assumption) ?_ | (simp only [kept_mk_iff]; (first | apply keptIn_fold | apply keptIn_flags)) | split | intro _)

theorem execQCfgWrite_kept {cs : Keep} (p : Nat) (q : Nat) (v : Nat) (s : State) (Hs : Kept cs s) : KeptOut cs (execQCfgWrite p q v s) := by
  unfold execQCfgWrite
  try dsimp only
  with_reducible repeat' (first | assumption | apply keptOut_next | apply wrQueue_kept | apply run_kept | apply whenOk_kept | dsimp only | refine kept_of_snd (by assumption) ?_ | refine kept_of_snd2 (by assumption) ?_ | refine kept_of_fst (by assumption) ?_ | (simp only [kept_mk_iff]; (first | apply keptIn_fold | apply keptIn_flags)) | split | intro _)

theorem execHostWindowRead_kept {cs : Keep} (i : Nat) (ofs : Nat) (len : Nat) (bar4 : Bool) (tmo : Bool) (errs : Errs) (s : State) (Hs : Kept cs s) : KeptOut cs (execHostWindowRead i ofs len bar4 tmo errs s) := by
  unfold execHostWindowRead
  try dsimp only
  with_reducible repeat' (first | assumption | apply keptOut_next | apply winRead_kept | apply runErr_kept | apply whenOk_kept | dsimp only | refine kept_of_snd (by assumption) ?_ | refine kept_of_snd2 (by assumption) ?_ | refine kept_of_fst (by assumption) ?_ | (simp only [kept_mk_iff]; (first | apply keptIn_fold | apply keptIn_flags)) | split | intro _)

theorem execHostWindowWrite_kept {cs : Keep} (i : Nat) (ofs : Nat) (data : List Byte) (bar4 : Bool) (pois : Bool) (tmo : Bool) (s : State) (Hs : Kept cs s) : KeptOut cs (execHostWindowWrite i ofs data bar4 pois tmo s) := by
  unfold execHostWindowWrite
  try dsimp only
  with_reducible repeat' (first | assumption | apply keptOut_next | apply winWrite_kept | apply runErr_kept | apply whenOk_kept | dsimp only | refine kept_of_snd (by assumption) ?_ | refine kept_of_snd2 (by assumption) ?_ | refine kept_of_fst (by assumption) ?_ | (simp only [kept_mk_iff]; (first | apply keptIn_fold | apply keptIn_flags)) | split | intro _)

theorem execAtsInvalidate_kept {cs : Keep} (fn : Nat) (page : Nat) (n : Nat) (s : State) (Hs : Kept cs s) : KeptOut cs (execAtsInvalidate fn page n s) := by
  unfold execAtsInvalidate
  try dsimp only
  with_reducible repeat' (first | assumption | apply keptOut_next | apply atsInvalidate_kept | apply run_kept | apply whenOk_kept | dsimp only | refine kept_of_snd (by assumption) ?_ | refine kept_of_snd2 (by assumption) ?_ | refine kept_of_fst (by assumption) ?_ | (simp only [kept_mk_iff]; (first | apply keptIn_fold | apply keptIn_flags)) | split | intro _)

theorem execPfFlr_kept {cs : Keep} (s : State) (Hs : Kept cs s) : KeptOut cs (execPfFlr s) := by
  unfold execPfFlr
  try dsimp only
  with_reducible repeat' (first | assumption | apply keptOut_next | apply pfFlr_kept | apply run_kept | dsimp only | refine kept_of_snd (by assumption) ?_ | refine kept_of_snd2 (by assumption) ?_ | refine kept_of_fst (by assumption) ?_ | (simp only [kept_mk_iff]; (first | apply keptIn_fold | apply keptIn_flags)) | split | intro _)

theorem execUpstreamReset_kept {cs : Keep} (perst : Bool) (s : State) (Hs : Kept cs s) : KeptOut cs (execUpstreamReset perst s) := by
  unfold execUpstreamReset
  try dsimp only
  with_reducible repeat' (first | assumption | apply keptOut_next | apply upstreamReset_kept | apply setPerst_kept | apply runPin_kept | dsimp only | refine kept_of_snd (by assumption) ?_ | refine kept_of_snd2 (by assumption) ?_ | refine kept_of_fst (by assumption) ?_ | (simp only [kept_mk_iff]; (first | apply keptIn_fold | apply keptIn_flags)) | split | intro _)

theorem execPerstNRelease_kept {cs : Keep} (gen : Nat) (width : Nat) (cxl : Nat) (mem : Bool) (s : State) (Hs : Kept cs s) : KeptOut cs (execPerstNRelease gen width cxl mem s) := by
  unfold execPerstNRelease
  try dsimp only
  with_reducible repeat' (first | assumption | apply keptOut_next | apply linkTrained_kept | apply setPerst_kept | apply runPin_kept | dsimp only | refine kept_of_snd (by assumption) ?_ | refine kept_of_snd2 (by assumption) ?_ | refine kept_of_fst (by assumption) ?_ | (simp only [kept_mk_iff]; (first | apply keptIn_fold | apply keptIn_flags)) | split | intro _)

theorem execCxlSnoop_kept {cs : Keep} (addr : Nat) (s : State) (Hs : Kept cs s) : KeptOut cs (execCxlSnoop addr s) := by
  unfold execCxlSnoop
  try dsimp only
  with_reducible repeat' (first | assumption | apply keptOut_next | apply snoop_kept | apply run_kept | apply whenOk_kept | dsimp only | refine kept_of_snd (by assumption) ?_ | refine kept_of_snd2 (by assumption) ?_ | refine kept_of_fst (by assumption) ?_ | (simp only [kept_mk_iff]; (first | apply keptIn_fold | apply keptIn_flags)) | split | intro _)

theorem execDoeCdatRead_kept {cs : Keep} (s : State) (Hs : Kept cs s) : KeptOut cs (execDoeCdatRead s) := by
  unfold execDoeCdatRead
  try dsimp only
  with_reducible repeat' (first | assumption | apply keptOut_next | apply cdatRead_kept | apply run_kept | dsimp only | refine kept_of_snd (by assumption) ?_ | refine kept_of_snd2 (by assumption) ?_ | refine kept_of_fst (by assumption) ?_ | (simp only [kept_mk_iff]; (first | apply keptIn_fold | apply keptIn_flags)) | split | intro _)

theorem setFwImg_kept {cs : Keep} (slot : Nat) (x : FwImage) (s : State) (Hs : Kept cs s) : Kept cs (setFwImg slot x s) := by
  unfold setFwImg
  try dsimp only
  with_reducible repeat' (first | assumption | dsimp only | refine kept_of_snd (by assumption) ?_ | refine kept_of_snd2 (by assumption) ?_ | refine kept_of_fst (by assumption) ?_ | (simp only [kept_mk_iff]; (first | apply keptIn_fold | apply keptIn_flags)) | split | intro _)

theorem fwShow_kept {cs : Keep} (s : State) (Hs : Kept cs s) : Kept cs (fwShow s) := by
  unfold fwShow
  try dsimp only
  with_reducible repeat' (first | assumption | apply State.setF_kept | dsimp only | refine kept_of_snd (by assumption) ?_ | refine kept_of_snd2 (by assumption) ?_ | refine kept_of_fst (by assumption) ?_ | (simp only [kept_mk_iff]; (first | apply keptIn_fold | apply keptIn_flags)) | split | intro _)

theorem readFuses_kept {cs : Keep} (s : State) (Hs : Kept cs s) : Kept cs (readFuses s) := by
  unfold readFuses
  try dsimp only
  with_reducible repeat' (first | assumption | apply fwShow_kept | apply State.setW64_kept | apply State.setF_kept | dsimp only | refine kept_of_snd (by assumption) ?_ | refine kept_of_snd2 (by assumption) ?_ | refine kept_of_fst (by assumption) ?_ | (simp only [kept_mk_iff]; (first | apply keptIn_fold | apply keptIn_flags)) | split | intro _)

theorem coldReset_kept {cs : Keep} (s : State) (hs : Kept cs s) : Kept cs (coldReset s) :=
  ⟨hs.1, fun _ => rfl, hs.2.2.1, hs.2.2.2.1, hs.2.2.2.2.1, fun _ => rfl⟩

theorem coldBy_kept {cs : Keep} (pin : Pins → Pins) (s : State) (Hs : Kept cs s) : Kept cs (coldBy pin s) := by
  unfold coldBy
  try dsimp only
  with_reducible repeat' (first | assumption | apply coldReset_kept | dsimp only | refine kept_of_snd (by assumption) ?_ | refine kept_of_snd2 (by assumption) ?_ | refine kept_of_fst (by assumption) ?_ | (simp only [kept_mk_iff]; (first | apply keptIn_fold | apply keptIn_flags)) | split | intro _)

theorem pwrokFall_kept {cs : Keep} (s : State) (Hs : Kept cs s) : Kept cs (pwrokFall s) := by
  unfold pwrokFall
  try dsimp only
  with_reducible repeat' (first | assumption | apply coldBy_kept | apply State.emit_kept | dsimp only | refine kept_of_snd (by assumption) ?_ | refine kept_of_snd2 (by assumption) ?_ | refine kept_of_fst (by assumption) ?_ | (simp only [kept_mk_iff]; (first | apply keptIn_fold | apply keptIn_flags)) | split | intro _)

theorem setStage_kept {cs : Keep} (n : Nat) (s : State) (Hs : Kept cs s) : Kept cs (setStage n s) := by
  unfold setStage
  try dsimp only
  with_reducible repeat' (first | assumption | apply State.setF_kept | dsimp only | refine kept_of_snd (by assumption) ?_ | refine kept_of_snd2 (by assumption) ?_ | refine kept_of_fst (by assumption) ?_ | (simp only [kept_mk_iff]; (first | apply keptIn_fold | apply keptIn_flags)) | split | intro _)

theorem rstRelease_kept {cs : Keep} (s : State) (Hs : Kept cs s) : Kept cs (rstRelease s) := by
  unfold rstRelease
  try dsimp only
  with_reducible repeat' (first | assumption | apply setStage_kept | apply readFuses_kept | dsimp only | refine kept_of_snd (by assumption) ?_ | refine kept_of_snd2 (by assumption) ?_ | refine kept_of_fst (by assumption) ?_ | (simp only [kept_mk_iff]; (first | apply keptIn_fold | apply keptIn_flags)) | split | intro _)

theorem tormalStarts_kept {cs : Keep} (s : State) (Hs : Kept cs s) : Kept cs (tormalStarts s) := by
  unfold tormalStarts
  try dsimp only
  with_reducible repeat' (first | assumption | apply setStage_kept | apply stepThree_kept | apply State.setF_kept | dsimp only | refine kept_of_snd (by assumption) ?_ | refine kept_of_snd2 (by assumption) ?_ | refine kept_of_fst (by assumption) ?_ | (simp only [kept_mk_iff]; (first | apply keptIn_fold | apply keptIn_flags)) | split | intro _)

theorem setValid_kept {cs : Keep} (slot : Nat) (v : Bool) (s : State) (Hs : Kept cs s) : Kept cs (setValid slot v s) := by
  unfold setValid
  try dsimp only
  with_reducible repeat' (first | assumption | apply fwShow_kept | apply setFwImg_kept | dsimp only | refine kept_of_snd (by assumption) ?_ | refine kept_of_snd2 (by assumption) ?_ | refine kept_of_fst (by assumption) ?_ | (simp only [kept_mk_iff]; (first | apply keptIn_fold | apply keptIn_flags)) | split | intro _)

theorem imageVerify_kept {cs : Keep} (sigAct : Bool) (sigOther : Bool) (s : State) (Hs : Kept cs s) : Kept cs (imageVerify sigAct sigOther s) := by
  unfold imageVerify
  try dsimp only
  with_reducible repeat' (first | assumption | apply setValid_kept | apply tormalStarts_kept | apply logErr_kept | apply State.emit_kept | apply State.setF_kept | dsimp only | refine kept_of_snd (by assumption) ?_ | refine kept_of_snd2 (by assumption) ?_ | refine kept_of_fst (by assumption) ?_ | (simp only [kept_mk_iff]; (first | apply keptIn_fold | apply keptIn_flags)) | split | intro _)

theorem selftestDone_kept {cs : Keep} (ok : Bool) (s : State) (Hs : Kept cs s) : Kept cs (selftestDone ok s) := by
  unfold selftestDone
  try dsimp only
  with_reducible repeat' (first | assumption | apply setStage_kept | apply rngFails_kept | apply keyMade_kept | apply bridgeBooted_kept | apply State.setKeySlot_kept | apply State.setF_kept | dsimp only | refine kept_of_snd (by assumption) ?_ | refine kept_of_snd2 (by assumption) ?_ | refine kept_of_fst (by assumption) ?_ | (simp only [kept_mk_iff]; (first | apply keptIn_fold | apply keptIn_flags)) | split | intro _)

theorem memTrained_kept {cs : Keep} (pg : Nat) (rate : Nat) (ok : Bool) (s : State) (Hs : Kept cs s) : Kept cs (memTrained pg rate ok s) := by
  unfold memTrained
  try dsimp only
  with_reducible repeat' (first | assumption | apply fence_kept | apply memBooted_kept | apply State.drawn_kept | apply logErr_kept | apply State.setF_kept | dsimp only | refine kept_of_snd (by assumption) ?_ | refine kept_of_snd2 (by assumption) ?_ | refine kept_of_fst (by assumption) ?_ | (simp only [kept_mk_iff]; (first | apply keptIn_fold | apply keptIn_flags)) | split | intro _)

theorem upRelease_kept {cs : Keep} (us : Nat) (link : UpLink) (s : State) (Hs : Kept cs s) : Kept cs (upRelease us link s) := by
  unfold upRelease
  try dsimp only
  with_reducible repeat' (first | assumption | apply setStage_kept | apply linkTrained_kept | apply State.setF_kept | dsimp only | refine kept_of_snd (by assumption) ?_ | refine kept_of_snd2 (by assumption) ?_ | refine kept_of_fst (by assumption) ?_ | (simp only [kept_mk_iff]; (first | apply keptIn_fold | apply keptIn_flags)) | split | intro _)

theorem warmPart_kept {cs : Keep} (p : Nat) (s : State) (Hs : Kept cs s) : Kept cs (warmPart p s) := by
  unfold warmPart
  try dsimp only
  with_reducible repeat' (first | assumption | apply retireKey_kept | apply State.setKeySlot_kept | dsimp only | refine kept_of_snd (by assumption) ?_ | refine kept_of_snd2 (by assumption) ?_ | refine kept_of_fst (by assumption) ?_ | (simp only [kept_mk_iff]; (first | apply keptIn_fold | apply keptIn_flags)) | split | intro _)

theorem warmRegs_wf (m : SMap Word) (h : SMap.wf resetWord m = true) : SMap.wf resetWord (warmRegs m) = true := by
  refine SMap.filterMap_wf resetWord _ ?_ m 0 h
  intro e x hx
  dsimp only at hx
  split at hx
  · cases hx
  · split at hx
    · cases hx
    · rename_i hne; cases hx; exact ⟨rfl, fun _ => hne⟩

theorem warmBlocks_kept {cs : Keep} (s : State) (hs : Kept cs s) : Kept cs (warmBlocks s) :=
  ⟨hs.1, fun c => warmRegs_wf _ (hs.2.1 c), hs.2.2⟩

theorem warmKey_kept {cs : Keep} (s : State) (Hs : Kept cs s) : Kept cs (warmKey s) := by
  unfold warmKey
  try dsimp only
  with_reducible repeat' (first | assumption | apply retireKey_kept | apply bindKey_kept | dsimp only | refine kept_of_snd (by assumption) ?_ | refine kept_of_snd2 (by assumption) ?_ | refine kept_of_fst (by assumption) ?_ | (simp only [kept_mk_iff]; (first | apply keptIn_fold | apply keptIn_flags)) | split | intro _)

theorem warmReset_kept {cs : Keep} (s : State) (Hs : Kept cs s) : Kept cs (warmReset s) := by
  unfold warmReset
  try dsimp only
  with_reducible repeat' (first | assumption | apply warmKey_kept | apply warmBlocks_kept | apply warmPart_kept | apply tormalStarts_kept | apply readFuses_kept | apply slotPower_kept | apply State.setF_kept | apply forUp_kept | apply forUp_kept2 | dsimp only | refine kept_of_snd (by assumption) ?_ | refine kept_of_snd2 (by assumption) ?_ | refine kept_of_fst (by assumption) ?_ | (simp only [kept_mk_iff]; (first | apply keptIn_fold | apply keptIn_flags)) | split | intro _)

theorem svnCommit_kept {cs : Keep} (s : State) (Hs : Kept cs s) : Kept cs (svnCommit s) := by
  unfold svnCommit
  try dsimp only
  with_reducible repeat' (first | assumption | apply fwShow_kept | dsimp only | refine kept_of_snd (by assumption) ?_ | refine kept_of_snd2 (by assumption) ?_ | refine kept_of_fst (by assumption) ?_ | (simp only [kept_mk_iff]; (first | apply keptIn_fold | apply keptIn_flags)) | split | intro _)

theorem wrFwCtl_kept {cs : Keep} (m : Nat) (v : Nat) (s : State) (Hs : Kept cs s) : Kept cs (wrFwCtl m v s) := by
  unfold wrFwCtl
  try dsimp only
  with_reducible repeat' (first | assumption | apply svnCommit_kept | apply warmReset_kept | apply checkedWrite_kept | dsimp only | refine kept_of_snd (by assumption) ?_ | refine kept_of_snd2 (by assumption) ?_ | refine kept_of_fst (by assumption) ?_ | (simp only [kept_mk_iff]; (first | apply keptIn_fold | apply keptIn_flags)) | split | intro _)

theorem execBrownOut_kept {cs : Keep} (s : State) (Hs : Kept cs s) : KeptOut cs (execBrownOut s) := by
  unfold execBrownOut
  try dsimp only
  with_reducible repeat' (first | assumption | apply keptOut_next | apply coldBy_kept | apply id_kept | dsimp only | refine kept_of_snd (by assumption) ?_ | refine kept_of_snd2 (by assumption) ?_ | refine kept_of_fst (by assumption) ?_ | (simp only [kept_mk_iff]; (first | apply keptIn_fold | apply keptIn_flags)) | split | intro _)

theorem execPwrokFall_kept {cs : Keep} (s : State) (Hs : Kept cs s) : KeptOut cs (execPwrokFall s) := by
  unfold execPwrokFall
  try dsimp only
  with_reducible repeat' (first | assumption | apply keptOut_next | apply pwrokFall_kept | dsimp only | refine kept_of_snd (by assumption) ?_ | refine kept_of_snd2 (by assumption) ?_ | refine kept_of_fst (by assumption) ?_ | (simp only [kept_mk_iff]; (first | apply keptIn_fold | apply keptIn_flags)) | split | intro _)

theorem execRstNAssert_kept {cs : Keep} (s : State) (Hs : Kept cs s) : KeptOut cs (execRstNAssert s) := by
  unfold execRstNAssert
  try dsimp only
  with_reducible repeat' (first | assumption | apply keptOut_next | apply coldBy_kept | dsimp only | refine kept_of_snd (by assumption) ?_ | refine kept_of_snd2 (by assumption) ?_ | refine kept_of_fst (by assumption) ?_ | (simp only [kept_mk_iff]; (first | apply keptIn_fold | apply keptIn_flags)) | split | intro _)

theorem execRstNRelease_kept {cs : Keep} (s : State) (Hs : Kept cs s) : KeptOut cs (execRstNRelease s) := by
  unfold execRstNRelease
  try dsimp only
  with_reducible repeat' (first | assumption | apply keptOut_next | apply rstRelease_kept | dsimp only | refine kept_of_snd (by assumption) ?_ | refine kept_of_snd2 (by assumption) ?_ | refine kept_of_fst (by assumption) ?_ | (simp only [kept_mk_iff]; (first | apply keptIn_fold | apply keptIn_flags)) | split | intro _)

theorem execBootImageVerify_kept {cs : Keep} (sigAct : Bool) (sigOther : Bool) (s : State) (Hs : Kept cs s) : KeptOut cs (execBootImageVerify sigAct sigOther s) := by
  unfold execBootImageVerify
  try dsimp only
  with_reducible repeat' (first | assumption | apply keptOut_next | apply imageVerify_kept | apply run_kept | dsimp only | refine kept_of_snd (by assumption) ?_ | refine kept_of_snd2 (by assumption) ?_ | refine kept_of_fst (by assumption) ?_ | (simp only [kept_mk_iff]; (first | apply keptIn_fold | apply keptIn_flags)) | split | intro _)

theorem execSecSelftestDone_kept {cs : Keep} (ok : Bool) (s : State) (Hs : Kept cs s) : KeptOut cs (execSecSelftestDone ok s) := by
  unfold execSecSelftestDone
  try dsimp only
  with_reducible repeat' (first | assumption | apply keptOut_next | apply selftestDone_kept | apply run_kept | dsimp only | refine kept_of_snd (by assumption) ?_ | refine kept_of_snd2 (by assumption) ?_ | refine kept_of_fst (by assumption) ?_ | (simp only [kept_mk_iff]; (first | apply keptIn_fold | apply keptIn_flags)) | split | intro _)

theorem execMemoryTrained_kept {cs : Keep} (pg : Nat) (rate : Nat) (ok : Bool) (s : State) (Hs : Kept cs s) : KeptOut cs (execMemoryTrained pg rate ok s) := by
  unfold execMemoryTrained
  try dsimp only
  with_reducible repeat' (first | assumption | apply keptOut_next | apply memTrained_kept | apply run_kept | apply whenOk_kept | dsimp only | refine kept_of_snd (by assumption) ?_ | refine kept_of_snd2 (by assumption) ?_ | refine kept_of_fst (by assumption) ?_ | (simp only [kept_mk_iff]; (first | apply keptIn_fold | apply keptIn_flags)) | split | intro _)

theorem execUpstreamRelease_kept {cs : Keep} (us : Nat) (link : UpLink) (s : State) (Hs : Kept cs s) : KeptOut cs (execUpstreamRelease us link s) := by
  unfold execUpstreamRelease
  try dsimp only
  with_reducible repeat' (first | assumption | apply keptOut_next | apply upRelease_kept | apply run_kept | dsimp only | refine kept_of_snd (by assumption) ?_ | refine kept_of_snd2 (by assumption) ?_ | refine kept_of_fst (by assumption) ?_ | (simp only [kept_mk_iff]; (first | apply keptIn_fold | apply keptIn_flags)) | split | intro _)

theorem execWarmReset_kept {cs : Keep} (m : Nat) (s : State) (Hs : Kept cs s) : KeptOut cs (execWarmReset m s) := by
  unfold execWarmReset
  try dsimp only
  with_reducible repeat' (first | assumption | apply keptOut_next | apply wrFwCtl_kept | apply run_kept | apply whenOk_kept | dsimp only | refine kept_of_snd (by assumption) ?_ | refine kept_of_snd2 (by assumption) ?_ | refine kept_of_fst (by assumption) ?_ | (simp only [kept_mk_iff]; (first | apply keptIn_fold | apply keptIn_flags)) | split | intro _)

theorem execSvnCommit_kept {cs : Keep} (m : Nat) (s : State) (Hs : Kept cs s) : KeptOut cs (execSvnCommit m s) := by
  unfold execSvnCommit
  try dsimp only
  with_reducible repeat' (first | assumption | apply keptOut_next | apply wrFwCtl_kept | apply run_kept | apply whenOk_kept | dsimp only | refine kept_of_snd (by assumption) ?_ | refine kept_of_snd2 (by assumption) ?_ | refine kept_of_fst (by assumption) ?_ | (simp only [kept_mk_iff]; (first | apply keptIn_fold | apply keptIn_flags)) | split | intro _)

theorem answerFree_kept {cs : Keep} (proto : Nat) (code : Nat) (s : State) (Hs : Kept cs s) : Kept cs (answerFree proto code s) := by
  unfold answerFree
  try dsimp only
  with_reducible repeat' (first | assumption | apply State.drawn_kept | apply State.emit_kept | dsimp only | refine kept_of_snd (by assumption) ?_ | refine kept_of_snd2 (by assumption) ?_ | refine kept_of_fst (by assumption) ?_ | (simp only [kept_mk_iff]; (first | apply keptIn_fold | apply keptIn_flags)) | split | intro _)

theorem answerPldm_kept {cs : Keep} (cmd : Nat) (cc : Nat) (body : List Byte) (s : State) (Hs : Kept cs s) : Kept cs (answerPldm cmd cc body s) := by
  unfold answerPldm
  try dsimp only
  with_reducible repeat' (first | assumption | apply State.emit_kept | dsimp only | refine kept_of_snd (by assumption) ?_ | refine kept_of_snd2 (by assumption) ?_ | refine kept_of_fst (by assumption) ?_ | (simp only [kept_mk_iff]; (first | apply keptIn_fold | apply keptIn_flags)) | split | intro _)

theorem mgtRestart_kept {cs : Keep} (s : State) (Hs : Kept cs s) : Kept cs (mgtRestart s) := by
  unfold mgtRestart
  try dsimp only
  with_reducible repeat' (first | assumption | apply State.setF_kept | dsimp only | refine kept_of_snd (by assumption) ?_ | refine kept_of_snd2 (by assumption) ?_ | refine kept_of_fst (by assumption) ?_ | (simp only [kept_mk_iff]; (first | apply keptIn_fold | apply keptIn_flags)) | split | intro _)

theorem setGlb_kept {cs : Keep} (v : Nat) (s : State) (Hs : Kept cs s) : Kept cs (setGlb v s) := by
  unfold setGlb
  try dsimp only
  with_reducible repeat' (first | assumption | apply State.setF_kept | dsimp only | refine kept_of_snd (by assumption) ?_ | refine kept_of_snd2 (by assumption) ?_ | refine kept_of_fst (by assumption) ?_ | (simp only [kept_mk_iff]; (first | apply keptIn_fold | apply keptIn_flags)) | split | intro _)

theorem requestUpdate_kept {cs : Keep} (pcie : Bool) (comp : Nat) (s : State) (Hs : Kept cs s) : Kept cs (requestUpdate pcie comp s) := by
  unfold requestUpdate
  try dsimp only
  with_reducible repeat' (first | assumption | apply answerPldm_kept | apply setValid_kept | dsimp only | refine kept_of_snd (by assumption) ?_ | refine kept_of_snd2 (by assumption) ?_ | refine kept_of_fst (by assumption) ?_ | (simp only [kept_mk_iff]; (first | apply keptIn_fold | apply keptIn_flags)) | split | intro _)

theorem transferDone_kept {cs : Keep} (sig : Bool) (svn : Nat) (build : Nat) (s : State) (Hs : Kept cs s) : Kept cs (transferDone sig svn build s) := by
  unfold transferDone
  try dsimp only
  with_reducible repeat' (first | assumption | apply setValid_kept | apply fwShow_kept | apply setFwImg_kept | apply logErr_kept | apply State.emit_kept | dsimp only | refine kept_of_snd (by assumption) ?_ | refine kept_of_snd2 (by assumption) ?_ | refine kept_of_fst (by assumption) ?_ | (simp only [kept_mk_iff]; (first | apply keptIn_fold | apply keptIn_flags)) | split | intro _)

theorem activate_kept {cs : Keep} (pcie : Bool) (s : State) (Hs : Kept cs s) : Kept cs (activate pcie s) := by
  unfold activate
  try dsimp only
  with_reducible repeat' (first | assumption | apply setGlb_kept | apply mgtRestart_kept | apply answerPldm_kept | apply State.drawn_kept | apply State.setF_kept | dsimp only | refine kept_of_snd (by assumption) ?_ | refine kept_of_snd2 (by assumption) ?_ | refine kept_of_fst (by assumption) ?_ | (simp only [kept_mk_iff]; (first | apply keptIn_fold | apply keptIn_flags)) | split | intro _)

theorem tormalReady_kept {cs : Keep} (s : State) (Hs : Kept cs s) : Kept cs (tormalReady s) := by
  unfold tormalReady
  try dsimp only
  with_reducible repeat' (first | assumption | apply setGlb_kept | apply tormalStarts_kept | apply fwShow_kept | apply State.setF_kept | dsimp only | refine kept_of_snd (by assumption) ?_ | refine kept_of_snd2 (by assumption) ?_ | refine kept_of_fst (by assumption) ?_ | (simp only [kept_mk_iff]; (first | apply keptIn_fold | apply keptIn_flags)) | split | intro _)

theorem actExpiry_kept {cs : Keep} (s : State) (Hs : Kept cs s) : Kept cs (actExpiry s) := by
  unfold actExpiry
  try dsimp only
  with_reducible repeat' (first | assumption | apply mgtRestart_kept | apply setValid_kept | apply logErr_kept | dsimp only | refine kept_of_snd (by assumption) ?_ | refine kept_of_snd2 (by assumption) ?_ | refine kept_of_fst (by assumption) ?_ | (simp only [kept_mk_iff]; (first | apply keptIn_fold | apply keptIn_flags)) | split | intro _)

theorem wrWdt_kept {cs : Keep} (m : Nat) (v : Nat) (s : State) (Hs : Kept cs s) : Kept cs (wrWdt m v s) := by
  unfold wrWdt
  try dsimp only
  with_reducible repeat' (first | assumption | apply checkedWrite_kept | apply State.setF_kept | dsimp only | refine kept_of_snd (by assumption) ?_ | refine kept_of_snd2 (by assumption) ?_ | refine kept_of_fst (by assumption) ?_ | (simp only [kept_mk_iff]; (first | apply keptIn_fold | apply keptIn_flags)) | split | intro _)

theorem wdtExpiry_kept {cs : Keep} (s : State) (Hs : Kept cs s) : Kept cs (wdtExpiry s) := by
  unfold wdtExpiry
  try dsimp only
  with_reducible repeat' (first | assumption | apply mgtRestart_kept | apply logErr_kept | apply State.addF_kept | dsimp only | refine kept_of_snd (by assumption) ?_ | refine kept_of_snd2 (by assumption) ?_ | refine kept_of_fst (by assumption) ?_ | (simp only [kept_mk_iff]; (first | apply keptIn_fold | apply keptIn_flags)) | split | intro _)

theorem wrBus_kept {cs : Keep} (m : Nat) (v : Nat) (s : State) (Hs : Kept cs s) : Kept cs (wrBus m v s) := by
  unfold wrBus
  try dsimp only
  with_reducible repeat' (first | assumption | apply plainWrite_kept | dsimp only | refine kept_of_snd (by assumption) ?_ | refine kept_of_snd2 (by assumption) ?_ | refine kept_of_fst (by assumption) ?_ | (simp only [kept_mk_iff]; (first | apply keptIn_fold | apply keptIn_flags)) | split | intro _)

theorem dynAddr_kept {cs : Keep} (addr : Nat) (s : State) (Hs : Kept cs s) : Kept cs (dynAddr addr s) := by
  unfold dynAddr
  try dsimp only
  with_reducible repeat' (first | assumption | apply State.setF_kept | dsimp only | refine kept_of_snd (by assumption) ?_ | refine kept_of_snd2 (by assumption) ?_ | refine kept_of_fst (by assumption) ?_ | (simp only [kept_mk_iff]; (first | apply keptIn_fold | apply keptIn_flags)) | split | intro _)

theorem busReset_kept {cs : Keep} (smbus : Bool) (s : State) (Hs : Kept cs s) : Kept cs (busReset smbus s) := by
  unfold busReset
  try dsimp only
  with_reducible repeat' (first | assumption | apply State.setF_kept | dsimp only | refine kept_of_snd (by assumption) ?_ | refine kept_of_snd2 (by assumption) ?_ | refine kept_of_fst (by assumption) ?_ | (simp only [kept_mk_iff]; (first | apply keptIn_fold | apply keptIn_flags)) | split | intro _)

theorem mctpControl_kept {cs : Keep} (pcie : Bool) (cmd : Nat) (s : State) (Hs : Kept cs s) : Kept cs (mctpControl pcie cmd s) := by
  unfold mctpControl
  try dsimp only
  with_reducible repeat' (first | assumption | apply answerFree_kept | dsimp only | refine kept_of_snd (by assumption) ?_ | refine kept_of_snd2 (by assumption) ?_ | refine kept_of_fst (by assumption) ?_ | (simp only [kept_mk_iff]; (first | apply keptIn_fold | apply keptIn_flags)) | split | intro _)

theorem setEid_kept {cs : Keep} (pcie : Bool) (eid : Nat) (s : State) (Hs : Kept cs s) : Kept cs (setEid pcie eid s) := by
  unfold setEid
  try dsimp only
  with_reducible repeat' (first | assumption | apply answerFree_kept | apply State.setF_kept | dsimp only | refine kept_of_snd (by assumption) ?_ | refine kept_of_snd2 (by assumption) ?_ | refine kept_of_fst (by assumption) ?_ | (simp only [kept_mk_iff]; (first | apply keptIn_fold | apply keptIn_flags)) | split | intro _)

theorem sensorRead_kept {cs : Keep} (pcie : Bool) (n : Nat) (s : State) (Hs : Kept cs s) : Kept cs (sensorRead pcie n s) := by
  unfold sensorRead
  try dsimp only
  with_reducible repeat' (first | assumption | apply answerPldm_kept | apply State.drawn_kept | dsimp only | refine kept_of_snd (by assumption) ?_ | refine kept_of_snd2 (by assumption) ?_ | refine kept_of_fst (by assumption) ?_ | (simp only [kept_mk_iff]; (first | apply keptIn_fold | apply keptIn_flags)) | split | intro _)

theorem vendorRequest_kept {cs : Keep} (pcie : Bool) (q : TormalReq) (s : State) (Hs : Kept cs s) : Kept cs (vendorRequest pcie q s) := by
  unfold vendorRequest
  try dsimp only
  with_reducible repeat' (first | assumption | apply answerFree_kept | apply wrFwCtl_kept | apply fwShow_kept | apply wrShare_kept | dsimp only | refine kept_of_snd (by assumption) ?_ | refine kept_of_snd2 (by assumption) ?_ | refine kept_of_fst (by assumption) ?_ | (simp only [kept_mk_iff]; (first | apply keptIn_fold | apply keptIn_flags)) | split | intro _)

theorem spdmError_kept {cs : Keep} (c : Nat) (s : State) (Hs : Kept cs s) : Kept cs (spdmError c s) := by
  unfold spdmError
  try dsimp only
  with_reducible repeat' (first | assumption | apply State.emit_kept | dsimp only | refine kept_of_snd (by assumption) ?_ | refine kept_of_snd2 (by assumption) ?_ | refine kept_of_fst (by assumption) ?_ | (simp only [kept_mk_iff]; (first | apply keptIn_fold | apply keptIn_flags)) | split | intro _)

theorem spdm_kept {cs : Keep} (pcie : Bool) (stage : Nat) (k : State → State) (s : State) (Hk : ∀ s, Kept cs s → Kept cs (k s)) (Hs : Kept cs s) : Kept cs (spdm pcie stage k s) := by
  unfold spdm
  try dsimp only
  with_reducible repeat' (first | assumption | apply Hk | apply spdmError_kept | dsimp only | refine kept_of_snd (by assumption) ?_ | refine kept_of_snd2 (by assumption) ?_ | refine kept_of_fst (by assumption) ?_ | (simp only [kept_mk_iff]; (first | apply keptIn_fold | apply keptIn_flags)) | split | intro _)

theorem spdmAnswer_kept {cs : Keep} (code : Nat) (s : State) (Hs : Kept cs s) : Kept cs (spdmAnswer code s) := by
  unfold spdmAnswer
  try dsimp only
  with_reducible repeat' (first | assumption | apply answerFree_kept | dsimp only | refine kept_of_snd (by assumption) ?_ | refine kept_of_snd2 (by assumption) ?_ | refine kept_of_fst (by assumption) ?_ | (simp only [kept_mk_iff]; (first | apply keptIn_fold | apply keptIn_flags)) | split | intro _)

theorem spdmStage_kept {cs : Keep} (n : Nat) (s : State) (Hs : Kept cs s) : Kept cs (spdmStage n s) := by
  unfold spdmStage
  try dsimp only
  with_reducible repeat' (first | assumption | dsimp only | refine kept_of_snd (by assumption) ?_ | refine kept_of_snd2 (by assumption) ?_ | refine kept_of_fst (by assumption) ?_ | (simp only [kept_mk_iff]; (first | apply keptIn_fold | apply keptIn_flags)) | split | intro _)

theorem withCert_kept {cs : Keep} (slot : Nat) (k : State → State) (s : State) (Hk : ∀ s, Kept cs s → Kept cs (k s)) (Hs : Kept cs s) : Kept cs (withCert slot k s) := by
  unfold withCert
  try dsimp only
  with_reducible repeat' (first | assumption | apply Hk | apply spdmError_kept | dsimp only | refine kept_of_snd (by assumption) ?_ | refine kept_of_snd2 (by assumption) ?_ | refine kept_of_fst (by assumption) ?_ | (simp only [kept_mk_iff]; (first | apply keptIn_fold | apply keptIn_flags)) | split | intro _)

theorem measAnswer_kept {cs : Keep} (total : Nat) (idx : List Nat) (s : State) (Hs : Kept cs s) : Kept cs (measAnswer total idx s) := by
  unfold measAnswer
  try dsimp only
  with_reducible repeat' (first | assumption | apply State.drawn_kept | apply State.emit_kept | dsimp only | refine kept_of_snd (by assumption) ?_ | refine kept_of_snd2 (by assumption) ?_ | refine kept_of_fst (by assumption) ?_ | (simp only [kept_mk_iff]; (first | apply keptIn_fold | apply keptIn_flags)) | split | intro _)

theorem getMeasurements_kept {cs : Keep} (op : Nat) (s : State) (Hs : Kept cs s) : Kept cs (getMeasurements op s) := by
  unfold getMeasurements
  try dsimp only
  with_reducible repeat' (first | assumption | apply measAnswer_kept | apply spdmError_kept | dsimp only | refine kept_of_snd (by assumption) ?_ | refine kept_of_snd2 (by assumption) ?_ | refine kept_of_fst (by assumption) ?_ | (simp only [kept_mk_iff]; (first | apply keptIn_fold | apply keptIn_flags)) | split | intro _)

theorem keyExchange_kept {cs : Keep} (s : State) (Hs : Kept cs s) : Kept cs (keyExchange s) := by
  unfold keyExchange
  try dsimp only
  with_reducible repeat' (first | assumption | apply spdmAnswer_kept | dsimp only | refine kept_of_snd (by assumption) ?_ | refine kept_of_snd2 (by assumption) ?_ | refine kept_of_fst (by assumption) ?_ | (simp only [kept_mk_iff]; (first | apply keptIn_fold | apply keptIn_flags)) | split | intro _)

theorem setSession_kept {cs : Keep} (id : Nat) (x : Option SpdmSession) (s : State) (Hs : Kept cs s) : Kept cs (setSession id x s) := by
  unfold setSession
  try dsimp only
  with_reducible repeat' (first | assumption | dsimp only | refine kept_of_snd (by assumption) ?_ | refine kept_of_snd2 (by assumption) ?_ | refine kept_of_fst (by assumption) ?_ | (simp only [kept_mk_iff]; (first | apply keptIn_fold | apply keptIn_flags)) | split | intro _)

theorem inSession_kept {cs : Keep} (id : Nat) (op : Bool) (k : SpdmSession → State → State) (s : State) (Hk : ∀ x0 s, Kept cs s → Kept cs (k x0 s)) (Hs : Kept cs s) : Kept cs (inSession id op k s) := by
  unfold inSession
  try dsimp only
  with_reducible repeat' (first | assumption | apply Hk | apply spdmError_kept | dsimp only | refine kept_of_snd (by assumption) ?_ | refine kept_of_snd2 (by assumption) ?_ | refine kept_of_fst (by assumption) ?_ | (simp only [kept_mk_iff]; (first | apply keptIn_fold | apply keptIn_flags)) | split | intro _)

theorem execRequestUpdate_kept {cs : Keep} (pcie : Bool) (comp : Nat) (s : State) (Hs : Kept cs s) : KeptOut cs (execRequestUpdate pcie comp s) := by
  unfold execRequestUpdate
  try dsimp only
  with_reducible repeat' (first | assumption | apply keptOut_next | apply requestUpdate_kept | apply run_kept | dsimp only | refine kept_of_snd (by assumption) ?_ | refine kept_of_snd2 (by assumption) ?_ | refine kept_of_fst (by assumption) ?_ | (simp only [kept_mk_iff]; (first | apply keptIn_fold | apply keptIn_flags)) | split | intro _)

theorem execTransferCompletePldm_kept {cs : Keep} (sig : Bool) (svn : Nat) (build : Nat) (s : State) (Hs : Kept cs s) : KeptOut cs (execTransferCompletePldm sig svn build s) := by
  unfold execTransferCompletePldm
  try dsimp only
  with_reducible repeat' (first | assumption | apply keptOut_next | apply transferDone_kept | apply run_kept | dsimp only | refine kept_of_snd (by assumption) ?_ | refine kept_of_snd2 (by assumption) ?_ | refine kept_of_fst (by assumption) ?_ | (simp only [kept_mk_iff]; (first | apply keptIn_fold | apply keptIn_flags)) | split | intro _)

theorem execActivateFirmware_kept {cs : Keep} (pcie : Bool) (s : State) (Hs : Kept cs s) : KeptOut cs (execActivateFirmware pcie s) := by
  unfold execActivateFirmware
  try dsimp only
  with_reducible repeat' (first | assumption | apply keptOut_next | apply activate_kept | apply run_kept | dsimp only | refine kept_of_snd (by assumption) ?_ | refine kept_of_snd2 (by assumption) ?_ | refine kept_of_fst (by assumption) ?_ | (simp only [kept_mk_iff]; (first | apply keptIn_fold | apply keptIn_flags)) | split | intro _)

theorem execTormalReady_kept {cs : Keep} (s : State) (Hs : Kept cs s) : KeptOut cs (execTormalReady s) := by
  unfold execTormalReady
  try dsimp only
  with_reducible repeat' (first | assumption | apply keptOut_next | apply tormalReady_kept | apply run_kept | dsimp only | refine kept_of_snd (by assumption) ?_ | refine kept_of_snd2 (by assumption) ?_ | refine kept_of_fst (by assumption) ?_ | (simp only [kept_mk_iff]; (first | apply keptIn_fold | apply keptIn_flags)) | split | intro _)

theorem execFwActTmoExpiry_kept {cs : Keep} (s : State) (Hs : Kept cs s) : KeptOut cs (execFwActTmoExpiry s) := by
  unfold execFwActTmoExpiry
  try dsimp only
  with_reducible repeat' (first | assumption | apply keptOut_next | apply actExpiry_kept | apply run_kept | dsimp only | refine kept_of_snd (by assumption) ?_ | refine kept_of_snd2 (by assumption) ?_ | refine kept_of_fst (by assumption) ?_ | (simp only [kept_mk_iff]; (first | apply keptIn_fold | apply keptIn_flags)) | split | intro _)

theorem execWdtKick_kept {cs : Keep} (m : Nat) (s : State) (Hs : Kept cs s) : KeptOut cs (execWdtKick m s) := by
  unfold execWdtKick
  try dsimp only
  with_reducible repeat' (first | assumption | apply keptOut_next | apply wrWdt_kept | apply run_kept | apply whenOk_kept | dsimp only | refine kept_of_snd (by assumption) ?_ | refine kept_of_snd2 (by assumption) ?_ | refine kept_of_fst (by assumption) ?_ | (simp only [kept_mk_iff]; (first | apply keptIn_fold | apply keptIn_flags)) | split | intro _)

theorem execWdtExpiry_kept {cs : Keep} (s : State) (Hs : Kept cs s) : KeptOut cs (execWdtExpiry s) := by
  unfold execWdtExpiry
  try dsimp only
  with_reducible repeat' (first | assumption | apply keptOut_next | apply wdtExpiry_kept | apply run_kept | dsimp only | refine kept_of_snd (by assumption) ?_ | refine kept_of_snd2 (by assumption) ?_ | refine kept_of_fst (by assumption) ?_ | (simp only [kept_mk_iff]; (first | apply keptIn_fold | apply keptIn_flags)) | split | intro _)

theorem execMctpControl_kept {cs : Keep} (pcie : Bool) (cmd : Nat) (s : State) (Hs : Kept cs s) : KeptOut cs (execMctpControl pcie cmd s) := by
  unfold execMctpControl
  try dsimp only
  with_reducible repeat' (first | assumption | apply keptOut_next | apply mctpControl_kept | apply run_kept | apply whenOk_kept | dsimp only | refine kept_of_snd (by assumption) ?_ | refine kept_of_snd2 (by assumption) ?_ | refine kept_of_fst (by assumption) ?_ | (simp only [kept_mk_iff]; (first | apply keptIn_fold | apply keptIn_flags)) | split | intro _)

theorem execSetEndpointId_kept {cs : Keep} (pcie : Bool) (eid : Nat) (s : State) (Hs : Kept cs s) : KeptOut cs (execSetEndpointId pcie eid s) := by
  unfold execSetEndpointId
  try dsimp only
  with_reducible repeat' (first | assumption | apply keptOut_next | apply setEid_kept | apply run_kept | apply whenOk_kept | dsimp only | refine kept_of_snd (by assumption) ?_ | refine kept_of_snd2 (by assumption) ?_ | refine kept_of_fst (by assumption) ?_ | (simp only [kept_mk_iff]; (first | apply keptIn_fold | apply keptIn_flags)) | split | intro _)

theorem execDynamicAddressAssign_kept {cs : Keep} (addr : Nat) (s : State) (Hs : Kept cs s) : KeptOut cs (execDynamicAddressAssign addr s) := by
  unfold execDynamicAddressAssign
  try dsimp only
  with_reducible repeat' (first | assumption | apply keptOut_next | apply dynAddr_kept | apply run_kept | apply whenOk_kept | dsimp only | refine kept_of_snd (by assumption) ?_ | refine kept_of_snd2 (by assumption) ?_ | refine kept_of_fst (by assumption) ?_ | (simp only [kept_mk_iff]; (first | apply keptIn_fold | apply keptIn_flags)) | split | intro _)

theorem execI3cBusReset_kept {cs : Keep} (smbus : Bool) (s : State) (Hs : Kept cs s) : KeptOut cs (execI3cBusReset smbus s) := by
  unfold execI3cBusReset
  try dsimp only
  with_reducible repeat' (first | assumption | apply keptOut_next | apply busReset_kept | apply run_kept | dsimp only | refine kept_of_snd (by assumption) ?_ | refine kept_of_snd2 (by assumption) ?_ | refine kept_of_fst (by assumption) ?_ | (simp only [kept_mk_iff]; (first | apply keptIn_fold | apply keptIn_flags)) | split | intro _)

theorem execPldmSensorRead_kept {cs : Keep} (pcie : Bool) (n : Nat) (s : State) (Hs : Kept cs s) : KeptOut cs (execPldmSensorRead pcie n s) := by
  unfold execPldmSensorRead
  try dsimp only
  with_reducible repeat' (first | assumption | apply keptOut_next | apply sensorRead_kept | apply run_kept | dsimp only | refine kept_of_snd (by assumption) ?_ | refine kept_of_snd2 (by assumption) ?_ | refine kept_of_fst (by assumption) ?_ | (simp only [kept_mk_iff]; (first | apply keptIn_fold | apply keptIn_flags)) | split | intro _)

theorem execVendorRequest_kept {cs : Keep} (pcie : Bool) (q : TormalReq) (s : State) (Hs : Kept cs s) : KeptOut cs (execVendorRequest pcie q s) := by
  unfold execVendorRequest
  try dsimp only
  with_reducible repeat' (first | assumption | apply keptOut_next | apply vendorRequest_kept | apply run_kept | dsimp only | refine kept_of_snd (by assumption) ?_ | refine kept_of_snd2 (by assumption) ?_ | refine kept_of_fst (by assumption) ?_ | (simp only [kept_mk_iff]; (first | apply keptIn_fold | apply keptIn_flags)) | split | intro _)

theorem execGetVersion_kept {cs : Keep} (pcie : Bool) (s : State) (Hs : Kept cs s) : KeptOut cs (execGetVersion pcie s) := by
  unfold execGetVersion
  try dsimp only
  with_reducible repeat' (first | assumption | apply keptOut_next | apply spdmAnswer_kept | apply spdm_kept | apply run_kept | dsimp only | refine kept_of_snd (by assumption) ?_ | refine kept_of_snd2 (by assumption) ?_ | refine kept_of_fst (by assumption) ?_ | (simp only [kept_mk_iff]; (first | apply keptIn_fold | apply keptIn_flags)) | split | intro _)

theorem execGetCapabilities_kept {cs : Keep} (pcie : Bool) (s : State) (Hs : Kept cs s) : KeptOut cs (execGetCapabilities pcie s) := by
  unfold execGetCapabilities
  try dsimp only
  with_reducible repeat' (first | assumption | apply keptOut_next | apply spdmStage_kept | apply spdmAnswer_kept | apply spdm_kept | apply run_kept | dsimp only | refine kept_of_snd (by assumption) ?_ | refine kept_of_snd2 (by assumption) ?_ | refine kept_of_fst (by assumption) ?_ | (simp only [kept_mk_iff]; (first | apply keptIn_fold | apply keptIn_flags)) | split | intro _)

theorem execNegotiateAlgorithms_kept {cs : Keep} (pcie : Bool) (ok : Bool) (s : State) (Hs : Kept cs s) : KeptOut cs (execNegotiateAlgorithms pcie ok s) := by
  unfold execNegotiateAlgorithms
  try dsimp only
  with_reducible repeat' (first | assumption | apply keptOut_next | apply spdmStage_kept | apply spdmAnswer_kept | apply spdm_kept | apply spdmError_kept | apply run_kept | dsimp only | refine kept_of_snd (by assumption) ?_ | refine kept_of_snd2 (by assumption) ?_ | refine kept_of_fst (by assumption) ?_ | (simp only [kept_mk_iff]; (first | apply keptIn_fold | apply keptIn_flags)) | split | intro _)

theorem execGetDigests_kept {cs : Keep} (pcie : Bool) (s : State) (Hs : Kept cs s) : KeptOut cs (execGetDigests pcie s) := by
  unfold execGetDigests
  try dsimp only
  with_reducible repeat' (first | assumption | apply keptOut_next | apply withCert_kept | apply spdmAnswer_kept | apply spdm_kept | apply run_kept | dsimp only | refine kept_of_snd (by assumption) ?_ | refine kept_of_snd2 (by assumption) ?_ | refine kept_of_fst (by assumption) ?_ | (simp only [kept_mk_iff]; (first | apply keptIn_fold | apply keptIn_flags)) | split | intro _)

theorem execGetCertificate_kept {cs : Keep} (pcie : Bool) (slot : Nat) (s : State) (Hs : Kept cs s) : KeptOut cs (execGetCertificate pcie slot s) := by
  unfold execGetCertificate
  try dsimp only
  with_reducible repeat' (first | assumption | apply keptOut_next | apply withCert_kept | apply spdmAnswer_kept | apply spdm_kept | apply run_kept | dsimp only | refine kept_of_snd (by assumption) ?_ | refine kept_of_snd2 (by assumption) ?_ | refine kept_of_fst (by assumption) ?_ | (simp only [kept_mk_iff]; (first | apply keptIn_fold | apply keptIn_flags)) | split | intro _)

theorem execChallenge_kept {cs : Keep} (pcie : Bool) (slot : Nat) (s : State) (Hs : Kept cs s) : KeptOut cs (execChallenge pcie slot s) := by
  unfold execChallenge
  try dsimp only
  with_reducible repeat' (first | assumption | apply keptOut_next | apply withCert_kept | apply spdmAnswer_kept | apply spdm_kept | apply run_kept | dsimp only | refine kept_of_snd (by assumption) ?_ | refine kept_of_snd2 (by assumption) ?_ | refine kept_of_fst (by assumption) ?_ | (simp only [kept_mk_iff]; (first | apply keptIn_fold | apply keptIn_flags)) | split | intro _)

theorem execGetMeasurements_kept {cs : Keep} (pcie : Bool) (op : Nat) (s : State) (Hs : Kept cs s) : KeptOut cs (execGetMeasurements pcie op s) := by
  unfold execGetMeasurements
  try dsimp only
  with_reducible repeat' (first | assumption | apply keptOut_next | apply getMeasurements_kept | apply spdm_kept | apply run_kept | dsimp only | refine kept_of_snd (by assumption) ?_ | refine kept_of_snd2 (by assumption) ?_ | refine kept_of_fst (by assumption) ?_ | (simp only [kept_mk_iff]; (first | apply keptIn_fold | apply keptIn_flags)) | split | intro _)

theorem execKeyExchange_kept {cs : Keep} (pcie : Bool) (slot : Nat) (s : State) (Hs : Kept cs s) : KeptOut cs (execKeyExchange pcie slot s) := by
  unfold execKeyExchange
  try dsimp only
  with_reducible repeat' (first | assumption | apply keptOut_next | apply keyExchange_kept | apply withCert_kept | apply spdm_kept | apply run_kept | dsimp only | refine kept_of_snd (by assumption) ?_ | refine kept_of_snd2 (by assumption) ?_ | refine kept_of_fst (by assumption) ?_ | (simp only [kept_mk_iff]; (first | apply keptIn_fold | apply keptIn_flags)) | split | intro _)

theorem execFinish_kept {cs : Keep} (pcie : Bool) (id : Nat) (ok : Bool) (s : State) (Hs : Kept cs s) : KeptOut cs (execFinish pcie id ok s) := by
  unfold execFinish
  try dsimp only
  with_reducible repeat' (first | assumption | apply keptOut_next | apply inSession_kept | apply setSession_kept | apply spdmAnswer_kept | apply spdm_kept | apply spdmError_kept | apply run_kept | dsimp only | refine kept_of_snd (by assumption) ?_ | refine kept_of_snd2 (by assumption) ?_ | refine kept_of_fst (by assumption) ?_ | (simp only [kept_mk_iff]; (first | apply keptIn_fold | apply keptIn_flags)) | split | intro _)

theorem execEndSession_kept {cs : Keep} (pcie : Bool) (id : Nat) (s : State) (Hs : Kept cs s) : KeptOut cs (execEndSession pcie id s) := by
  unfold execEndSession
  try dsimp only
  with_reducible repeat' (first | assumption | apply keptOut_next | apply inSession_kept | apply setSession_kept | apply spdmAnswer_kept | apply spdm_kept | apply run_kept | dsimp only | refine kept_of_snd (by assumption) ?_ | refine kept_of_snd2 (by assumption) ?_ | refine kept_of_fst (by assumption) ?_ | (simp only [kept_mk_iff]; (first | apply keptIn_fold | apply keptIn_flags)) | split | intro _)

theorem execHeartbeat_kept {cs : Keep} (pcie : Bool) (id : Nat) (s : State) (Hs : Kept cs s) : KeptOut cs (execHeartbeat pcie id s) := by
  unfold execHeartbeat
  try dsimp only
  with_reducible repeat' (first | assumption | apply keptOut_next | apply inSession_kept | apply spdmAnswer_kept | apply spdm_kept | apply run_kept | dsimp only | refine kept_of_snd (by assumption) ?_ | refine kept_of_snd2 (by assumption) ?_ | refine kept_of_fst (by assumption) ?_ | (simp only [kept_mk_iff]; (first | apply keptIn_fold | apply keptIn_flags)) | split | intro _)

theorem execKeyUpdate_kept {cs : Keep} (pcie : Bool) (id : Nat) (s : State) (Hs : Kept cs s) : KeptOut cs (execKeyUpdate pcie id s) := by
  unfold execKeyUpdate
  try dsimp only
  with_reducible repeat' (first | assumption | apply keptOut_next | apply inSession_kept | apply setSession_kept | apply spdmAnswer_kept | apply spdm_kept | apply run_kept | dsimp only | refine kept_of_snd (by assumption) ?_ | refine kept_of_snd2 (by assumption) ?_ | refine kept_of_fst (by assumption) ?_ | (simp only [kept_mk_iff]; (first | apply keptIn_fold | apply keptIn_flags)) | split | intro _)

theorem debugBegin_kept {cs : Keep} (p : Nat) (s : State) (Hs : Kept cs s) : Kept cs (debugBegin p s) := by
  unfold debugBegin
  try dsimp only
  with_reducible repeat' (first | assumption | apply State.addF_kept | apply State.setW_kept | dsimp only | refine kept_of_snd (by assumption) ?_ | refine kept_of_snd2 (by assumption) ?_ | refine kept_of_fst (by assumption) ?_ | (simp only [kept_mk_iff]; (first | apply keptIn_fold | apply keptIn_flags)) | split | intro _)

theorem wrDbgCmd_kept {cs : Keep} (m : Nat) (v : Nat) (s : State) (Hs : Kept cs s) : Kept cs (wrDbgCmd m v s) := by
  unfold wrDbgCmd
  try dsimp only
  with_reducible repeat' (first | assumption | apply debugBegin_kept | apply debugEnd_kept | apply checkedWrite_kept | dsimp only | refine kept_of_snd (by assumption) ?_ | refine kept_of_snd2 (by assumption) ?_ | refine kept_of_fst (by assumption) ?_ | (simp only [kept_mk_iff]; (first | apply keptIn_fold | apply keptIn_flags)) | split | intro _)

theorem wrCluDbg_kept {cs : Keep} (m : Nat) (k : Nat) (v : Nat) (s : State) (Hs : Kept cs s) : Kept cs (wrCluDbg m k v s) := by
  unfold wrCluDbg
  try dsimp only
  with_reducible repeat' (first | assumption | apply debugEnd_kept | apply checkedWrite_kept | apply State.setF_kept | dsimp only | refine kept_of_snd (by assumption) ?_ | refine kept_of_snd2 (by assumption) ?_ | refine kept_of_fst (by assumption) ?_ | (simp only [kept_mk_iff]; (first | apply keptIn_fold | apply keptIn_flags)) | split | intro _)

theorem dbgResult_kept {cs : Keep} (code : Nat) (data : Nat) (s : State) (Hs : Kept cs s) : Kept cs (dbgResult code data s) := by
  unfold dbgResult
  try dsimp only
  with_reducible repeat' (first | assumption | apply State.setW64_kept | apply State.setF_kept | dsimp only | refine kept_of_snd (by assumption) ?_ | refine kept_of_snd2 (by assumption) ?_ | refine kept_of_fst (by assumption) ?_ | (simp only [kept_mk_iff]; (first | apply keptIn_fold | apply keptIn_flags)) | split | intro _)

theorem dbgRead_kept {cs : Keep} (s : State) (Hs : Kept cs s) : Kept cs (dbgRead s) := by
  unfold dbgRead
  try dsimp only
  with_reducible repeat' (first | assumption | apply dbgResult_kept | apply State.drawn_kept | apply logErr_kept | apply State.addF_kept | dsimp only | refine kept_of_snd (by assumption) ?_ | refine kept_of_snd2 (by assumption) ?_ | refine kept_of_fst (by assumption) ?_ | (simp only [kept_mk_iff]; (first | apply keptIn_fold | apply keptIn_flags)) | split | intro _)

theorem wrDbgGo_kept {cs : Keep} (m : Nat) (v : Nat) (s : State) (Hs : Kept cs s) : Kept cs (wrDbgGo m v s) := by
  unfold wrDbgGo
  try dsimp only
  with_reducible repeat' (first | assumption | apply dbgRead_kept | apply checkedWrite_kept | dsimp only | refine kept_of_snd (by assumption) ?_ | refine kept_of_snd2 (by assumption) ?_ | refine kept_of_fst (by assumption) ?_ | (simp only [kept_mk_iff]; (first | apply keptIn_fold | apply keptIn_flags)) | split | intro _)

theorem wrTrcBase_kept {cs : Keep} (m : Nat) (ofs : Nat) (v : Nat) (s : State) (Hs : Kept cs s) : Kept cs (wrTrcBase m ofs v s) := by
  unfold wrTrcBase
  try dsimp only
  with_reducible repeat' (first | assumption | apply plainWrite_kept | dsimp only | refine kept_of_snd (by assumption) ?_ | refine kept_of_snd2 (by assumption) ?_ | refine kept_of_fst (by assumption) ?_ | (simp only [kept_mk_iff]; (first | apply keptIn_fold | apply keptIn_flags)) | split | intro _)

theorem wrTrcCtl_kept {cs : Keep} (m : Nat) (v : Nat) (s : State) (Hs : Kept cs s) : Kept cs (wrTrcCtl m v s) := by
  unfold wrTrcCtl
  try dsimp only
  with_reducible repeat' (first | assumption | apply checkedWrite_kept | apply refuse_kept | apply State.setW_kept | dsimp only | refine kept_of_snd (by assumption) ?_ | refine kept_of_snd2 (by assumption) ?_ | refine kept_of_fst (by assumption) ?_ | (simp only [kept_mk_iff]; (first | apply keptIn_fold | apply keptIn_flags)) | split | intro _)

theorem execDbgEnter_kept {cs : Keep} (m : Nat) (p : Nat) (s : State) (Hs : Kept cs s) : KeptOut cs (execDbgEnter m p s) := by
  unfold execDbgEnter
  try dsimp only
  with_reducible repeat' (first | assumption | apply keptOut_next | apply wrDbgCmd_kept | apply run_kept | apply whenOk_kept | dsimp only | refine kept_of_snd (by assumption) ?_ | refine kept_of_snd2 (by assumption) ?_ | refine kept_of_fst (by assumption) ?_ | (simp only [kept_mk_iff]; (first | apply keptIn_fold | apply keptIn_flags)) | split | intro _)

theorem execDbgExit_kept {cs : Keep} (m : Nat) (p : Nat) (s : State) (Hs : Kept cs s) : KeptOut cs (execDbgExit m p s) := by
  unfold execDbgExit
  try dsimp only
  with_reducible repeat' (first | assumption | apply keptOut_next | apply wrDbgCmd_kept | apply run_kept | apply whenOk_kept | dsimp only | refine kept_of_snd (by assumption) ?_ | refine kept_of_snd2 (by assumption) ?_ | refine kept_of_fst (by assumption) ?_ | (simp only [kept_mk_iff]; (first | apply keptIn_fold | apply keptIn_flags)) | split | intro _)

theorem execCluDbgWrite_kept {cs : Keep} (m : Nat) (k : Nat) (v : Nat) (s : State) (Hs : Kept cs s) : KeptOut cs (execCluDbgWrite m k v s) := by
  unfold execCluDbgWrite
  try dsimp only
  with_reducible repeat' (first | assumption | apply keptOut_next | apply wrCluDbg_kept | apply run_kept | apply whenOk_kept | dsimp only | refine kept_of_snd (by assumption) ?_ | refine kept_of_snd2 (by assumption) ?_ | refine kept_of_fst (by assumption) ?_ | (simp only [kept_mk_iff]; (first | apply keptIn_fold | apply keptIn_flags)) | split | intro _)

theorem execDbgRdGo_kept {cs : Keep} (m : Nat) (s : State) (Hs : Kept cs s) : KeptOut cs (execDbgRdGo m s) := by
  unfold execDbgRdGo
  try dsimp only
  with_reducible repeat' (first | assumption | apply keptOut_next | apply wrDbgGo_kept | apply run_kept | apply whenOk_kept | dsimp only | refine kept_of_snd (by assumption) ?_ | refine kept_of_snd2 (by assumption) ?_ | refine kept_of_fst (by assumption) ?_ | (simp only [kept_mk_iff]; (first | apply keptIn_fold | apply keptIn_flags)) | split | intro _)

theorem execDbgTrcCtlWrite_kept {cs : Keep} (m : Nat) (v : Nat) (s : State) (Hs : Kept cs s) : KeptOut cs (execDbgTrcCtlWrite m v s) := by
  unfold execDbgTrcCtlWrite
  try dsimp only
  with_reducible repeat' (first | assumption | apply keptOut_next | apply wrTrcCtl_kept | apply run_kept | apply whenOk_kept | dsimp only | refine kept_of_snd (by assumption) ?_ | refine kept_of_snd2 (by assumption) ?_ | refine kept_of_fst (by assumption) ?_ | (simp only [kept_mk_iff]; (first | apply keptIn_fold | apply keptIn_flags)) | split | intro _)

end Sys2Proof.Machine
end

