-- ==== Sys2Proof/Laws/KeptRegs.lean ====
section
/-! SUPPORT.  What the operations of register reads and writes, and a nanosecond of the timebase keep: the queue of waiting
commands, and the canonical form of the registers and the stores.  One lemma per operation. -/

set_option linter.all false

namespace Sys2Proof.Machine

theorem pageRead_kept {cs : Keep} (m : Nat) (ofs : Nat) (size : Nat) (s : State) (Hs : Kept cs s) : Kept cs (pageRead m ofs size s).2 := by
  unfold pageRead
  try dsimp only
  with_reducible repeat' (first | assumption | apply unbacked_kept | apply logErr_kept | dsimp only | refine kept_of_snd (by assumption) ?_ | refine kept_of_snd2 (by assumption) ?_ | refine kept_of_fst (by assumption) ?_ | (simp only [kept_mk_iff]; (first | apply keptIn_fold | apply keptIn_flags)) | split | intro _)

theorem queueRead_kept {cs : Keep} (p : Nat) (ofs : Nat) (size : Nat) (s : State) (Hs : Kept cs s) : Kept cs (queueRead p ofs size s).2 := by
  unfold queueRead
  try dsimp only
  with_reducible repeat' (first | assumption | apply logErr_kept | dsimp only | refine kept_of_snd (by assumption) ?_ | refine kept_of_snd2 (by assumption) ?_ | refine kept_of_fst (by assumption) ?_ | (simp only [kept_mk_iff]; (first | apply keptIn_fold | apply keptIn_flags)) | split | intro _)

theorem execReadDenied_kept {cs : Keep} (m : Nat) (ofs : Nat) (size : Nat) (s : State) (Hs : Kept cs s) : KeptOut cs (execReadDenied m ofs size s) := by
  unfold execReadDenied
  try dsimp only
  with_reducible repeat' (first | assumption | apply keptOut_next | apply queueRead_kept | apply pageRead_kept | apply run_kept | apply whenOk_kept | apply State.emit_kept | dsimp only | refine kept_of_snd (by assumption) ?_ | refine kept_of_snd2 (by assumption) ?_ | refine kept_of_fst (by assumption) ?_ | (simp only [kept_mk_iff]; (first | apply keptIn_fold | apply keptIn_flags)) | split | intro _)

theorem rangeWrite_kept {cs : Keep} (m : Nat) (pg : Nat) (ofs : Nat) (v : Nat) (r : Bool) (s : State) (Hs : Kept cs s) : Kept cs (rangeWrite m pg ofs v r s) := by
  unfold rangeWrite
  try dsimp only
  with_reducible repeat' (first | assumption | apply plainWrite_kept | dsimp only | refine kept_of_snd (by assumption) ?_ | refine kept_of_snd2 (by assumption) ?_ | refine kept_of_fst (by assumption) ?_ | (simp only [kept_mk_iff]; (first | apply keptIn_fold | apply keptIn_flags)) | split | intro _)

theorem wrRoute_kept {cs : Keep} (m : Nat) (hi : Bool) (v : Nat) (s : State) (Hs : Kept cs s) : Kept cs (wrRoute m hi v s) := by
  unfold wrRoute
  try dsimp only
  with_reducible repeat' (first | assumption | apply checkedWrite_kept | dsimp only | refine kept_of_snd (by assumption) ?_ | refine kept_of_snd2 (by assumption) ?_ | refine kept_of_fst (by assumption) ?_ | (simp only [kept_mk_iff]; (first | apply keptIn_fold | apply keptIn_flags)) | split | intro _)

theorem wrGlb_kept {cs : Keep} (m : Nat) (ofs : Nat) (v : Nat) (s : State) (Hs : Kept cs s) : Kept cs (wrGlb m ofs v s) := by
  unfold wrGlb
  try dsimp only
  with_reducible repeat' (first | assumption | apply wrRoute_kept | apply rangeWrite_kept | apply wrCsub_kept | apply wrGlbState_kept | apply plainWrite_kept | dsimp only | refine kept_of_snd (by assumption) ?_ | refine kept_of_snd2 (by assumption) ?_ | refine kept_of_fst (by assumption) ?_ | (simp only [kept_mk_iff]; (first | apply keptIn_fold | apply keptIn_flags)) | split | intro _)

theorem wrPrt_kept {cs : Keep} (m : Nat) (ofs : Nat) (v : Nat) (s : State) (Hs : Kept cs s) : Kept cs (wrPrt m ofs v s) := by
  unfold wrPrt
  try dsimp only
  with_reducible repeat' (first | assumption | apply rangeWrite_kept | apply wrPrtCmdHi_kept | apply wrPrtCmdLo_kept | apply plainWrite_kept | dsimp only | refine kept_of_snd (by assumption) ?_ | refine kept_of_snd2 (by assumption) ?_ | refine kept_of_fst (by assumption) ?_ | (simp only [kept_mk_iff]; (first | apply keptIn_fold | apply keptIn_flags)) | split | intro _)

theorem wrSec_kept {cs : Keep} (m : Nat) (ofs : Nat) (v : Nat) (s : State) (Hs : Kept cs s) : Kept cs (wrSec m ofs v s) := by
  unfold wrSec
  try dsimp only
  with_reducible repeat' (first | assumption | apply rangeWrite_kept | apply wrSecCmd_kept | apply wrIkeyCtl_kept | apply checkedWrite_kept | apply State.setW_kept | dsimp only | refine kept_of_snd (by assumption) ?_ | refine kept_of_snd2 (by assumption) ?_ | refine kept_of_fst (by assumption) ?_ | (simp only [kept_mk_iff]; (first | apply keptIn_fold | apply keptIn_flags)) | split | intro _)

theorem wrRas_kept {cs : Keep} (m : Nat) (ofs : Nat) (v : Nat) (s : State) (Hs : Kept cs s) : Kept cs (wrRas m ofs v s) := by
  unfold wrRas
  try dsimp only
  with_reducible repeat' (first | assumption | apply rangeWrite_kept | apply wrLogPop_kept | apply wrFence_kept | dsimp only | refine kept_of_snd (by assumption) ?_ | refine kept_of_snd2 (by assumption) ?_ | refine kept_of_fst (by assumption) ?_ | (simp only [kept_mk_iff]; (first | apply keptIn_fold | apply keptIn_flags)) | split | intro _)

theorem wrDbg_kept {cs : Keep} (m : Nat) (ofs : Nat) (v : Nat) (s : State) (Hs : Kept cs s) : Kept cs (wrDbg m ofs v s) := by
  unfold wrDbg
  try dsimp only
  with_reducible repeat' (first | assumption | apply rangeWrite_kept | apply wrTrcCtl_kept | apply wrTrcBase_kept | apply wrDbgGo_kept | apply wrDbgCmd_kept | dsimp only | refine kept_of_snd (by assumption) ?_ | refine kept_of_snd2 (by assumption) ?_ | refine kept_of_fst (by assumption) ?_ | (simp only [kept_mk_iff]; (first | apply keptIn_fold | apply keptIn_flags)) | split | intro _)

theorem wrEvq_kept {cs : Keep} (m : Nat) (pg : Nat) (ofs : Nat) (v : Nat) (s : State) (Hs : Kept cs s) : Kept cs (wrEvq m pg ofs v s) := by
  unfold wrEvq
  try dsimp only
  with_reducible repeat' (first | assumption | apply rangeWrite_kept | apply wrEvqCons_kept | apply wrEvqCtl_kept | apply wrEvqHi_kept | apply wrEvqLo_kept | dsimp only | refine kept_of_snd (by assumption) ?_ | refine kept_of_snd2 (by assumption) ?_ | refine kept_of_fst (by assumption) ?_ | (simp only [kept_mk_iff]; (first | apply keptIn_fold | apply keptIn_flags)) | split | intro _)

theorem wrMgt_kept {cs : Keep} (m : Nat) (ofs : Nat) (v : Nat) (s : State) (Hs : Kept cs s) : Kept cs (wrMgt m ofs v s) := by
  unfold wrMgt
  try dsimp only
  with_reducible repeat' (first | assumption | apply wrEvq_kept | apply rangeWrite_kept | apply wrBus_kept | apply wrWdt_kept | dsimp only | refine kept_of_snd (by assumption) ?_ | refine kept_of_snd2 (by assumption) ?_ | refine kept_of_fst (by assumption) ?_ | (simp only [kept_mk_iff]; (first | apply keptIn_fold | apply keptIn_flags)) | split | intro _)

theorem wrFw_kept {cs : Keep} (m : Nat) (ofs : Nat) (v : Nat) (s : State) (Hs : Kept cs s) : Kept cs (wrFw m ofs v s) := by
  unfold wrFw
  try dsimp only
  with_reducible repeat' (first | assumption | apply rangeWrite_kept | apply wrFwCtl_kept | dsimp only | refine kept_of_snd (by assumption) ?_ | refine kept_of_snd2 (by assumption) ?_ | refine kept_of_fst (by assumption) ?_ | (simp only [kept_mk_iff]; (first | apply keptIn_fold | apply keptIn_flags)) | split | intro _)

theorem wrBrg_kept {cs : Keep} (m : Nat) (d : Nat) (ofs : Nat) (v : Nat) (s : State) (Hs : Kept cs s) : Kept cs (wrBrg m d ofs v s) := by
  unfold wrBrg
  try dsimp only
  with_reducible repeat' (first | assumption | apply rangeWrite_kept | apply wrBrgModEn_kept | apply wrBrgCtl_kept | dsimp only | refine kept_of_snd (by assumption) ?_ | refine kept_of_snd2 (by assumption) ?_ | refine kept_of_fst (by assumption) ?_ | (simp only [kept_mk_iff]; (first | apply keptIn_fold | apply keptIn_flags)) | split | intro _)

theorem wrHif_kept {cs : Keep} (m : Nat) (ofs : Nat) (v : Nat) (s : State) (Hs : Kept cs s) : Kept cs (wrHif m ofs v s) := by
  unfold wrHif
  try dsimp only
  with_reducible repeat' (first | assumption | apply wrEvq_kept | apply rangeWrite_kept | apply wrWin_kept | dsimp only | refine kept_of_snd (by assumption) ?_ | refine kept_of_snd2 (by assumption) ?_ | refine kept_of_fst (by assumption) ?_ | (simp only [kept_mk_iff]; (first | apply keptIn_fold | apply keptIn_flags)) | split | intro _)

theorem wrCtlPage_kept {cs : Keep} (m : Nat) (pg : Nat) (ofs : Nat) (v : Nat) (s : State) (Hs : Kept cs s) : Kept cs (wrCtlPage m pg ofs v s) := by
  unfold wrCtlPage
  try dsimp only
  with_reducible repeat' (first | assumption | apply rangeWrite_kept | apply wrFscHp_kept | apply wrShare_kept | dsimp only | refine kept_of_snd (by assumption) ?_ | refine kept_of_snd2 (by assumption) ?_ | refine kept_of_fst (by assumption) ?_ | (simp only [kept_mk_iff]; (first | apply keptIn_fold | apply keptIn_flags)) | split | intro _)

theorem wrSchMem_kept {cs : Keep} (m : Nat) (p : Nat) (ofs : Nat) (v : Nat) (s : State) (Hs : Kept cs s) : Kept cs (wrSchMem m p ofs v s) := by
  unfold wrSchMem
  try dsimp only
  with_reducible repeat' (first | assumption | apply rangeWrite_kept | apply wrFxrCtl_kept | apply wrFxrBase_kept | apply wrAlcCmd_kept | dsimp only | refine kept_of_snd (by assumption) ?_ | refine kept_of_snd2 (by assumption) ?_ | refine kept_of_fst (by assumption) ?_ | (simp only [kept_mk_iff]; (first | apply keptIn_fold | apply keptIn_flags)) | split | intro _)

theorem wrSch_kept {cs : Keep} (m : Nat) (p : Nat) (ofs : Nat) (v : Nat) (s : State) (Hs : Kept cs s) : Kept cs (wrSch m p ofs v s) := by
  unfold wrSch
  try dsimp only
  with_reducible repeat' (first | assumption | apply wrSchMem_kept | apply wrEvq_kept | apply rangeWrite_kept | apply wrTick_kept | apply wrFlowMask_kept | apply wrFlowCfg_kept | apply wrCmdGo_kept | dsimp only | refine kept_of_snd (by assumption) ?_ | refine kept_of_snd2 (by assumption) ?_ | refine kept_of_fst (by assumption) ?_ | (simp only [kept_mk_iff]; (first | apply keptIn_fold | apply keptIn_flags)) | split | intro _)

theorem wrClu_kept {cs : Keep} (m : Nat) (k : Nat) (ofs : Nat) (v : Nat) (s : State) (Hs : Kept cs s) : Kept cs (wrClu m k ofs v s) := by
  unfold wrClu
  try dsimp only
  with_reducible repeat' (first | assumption | apply rangeWrite_kept | apply wrCluDbg_kept | apply wrLpfCtl_kept | apply wrWcfg_kept | dsimp only | refine kept_of_snd (by assumption) ?_ | refine kept_of_snd2 (by assumption) ?_ | refine kept_of_fst (by assumption) ?_ | (simp only [kept_mk_iff]; (first | apply keptIn_fold | apply keptIn_flags)) | split | intro _)

theorem wrPool_kept {cs : Keep} (m : Nat) (c : Nat) (v : Nat) (s : State) (Hs : Kept cs s) : Kept cs (wrPool m c v s) := by
  unfold wrPool
  try dsimp only
  with_reducible repeat' (first | assumption | apply poolReset_kept | apply checkedWrite_kept | apply State.setW_kept | dsimp only | refine kept_of_snd (by assumption) ?_ | refine kept_of_snd2 (by assumption) ?_ | refine kept_of_fst (by assumption) ?_ | (simp only [kept_mk_iff]; (first | apply keptIn_fold | apply keptIn_flags)) | split | intro _)

theorem wrStill_kept {cs : Keep} (m : Nat) (c : Nat) (ofs : Nat) (v : Nat) (r : State → Bool) (s : State) (Hs : Kept cs s) : Kept cs (wrStill m c ofs v r s) := by
  unfold wrStill
  try dsimp only
  with_reducible repeat' (first | assumption | apply plainWrite_kept | dsimp only | refine kept_of_snd (by assumption) ?_ | refine kept_of_snd2 (by assumption) ?_ | refine kept_of_fst (by assumption) ?_ | (simp only [kept_mk_iff]; (first | apply keptIn_fold | apply keptIn_flags)) | split | intro _)

theorem wrCore_kept {cs : Keep} (m : Nat) (c : Nat) (ofs : Nat) (v : Nat) (s : State) (Hs : Kept cs s) : Kept cs (wrCore m c ofs v s) := by
  unfold wrCore
  try dsimp only
  with_reducible repeat' (first | assumption | apply wrStill_kept | apply wrPool_kept | apply rangeWrite_kept | apply wrCoreFlt_kept | apply wrPldCtl_kept | dsimp only | refine kept_of_snd (by assumption) ?_ | refine kept_of_snd2 (by assumption) ?_ | refine kept_of_fst (by assumption) ?_ | (simp only [kept_mk_iff]; (first | apply keptIn_fold | apply keptIn_flags)) | split | intro _)

theorem wrMig_kept {cs : Keep} (m : Nat) (d : Nat) (ofs : Nat) (v : Nat) (s : State) (Hs : Kept cs s) : Kept cs (wrMig m d ofs v s) := by
  unfold wrMig
  try dsimp only
  with_reducible repeat' (first | assumption | apply rangeWrite_kept | dsimp only | refine kept_of_snd (by assumption) ?_ | refine kept_of_snd2 (by assumption) ?_ | refine kept_of_fst (by assumption) ?_ | (simp only [kept_mk_iff]; (first | apply keptIn_fold | apply keptIn_flags)) | split | intro _)

theorem wrTok_kept {cs : Keep} (m : Nat) (e : Nat) (ofs : Nat) (v : Nat) (s : State) (Hs : Kept cs s) : Kept cs (wrTok m e ofs v s) := by
  unfold wrTok
  try dsimp only
  with_reducible repeat' (first | assumption | apply rangeWrite_kept | apply wrCaut_kept | apply wrDctl_kept | apply wrDtab_kept | apply wrSldCtl_kept | apply wrStrmCtl_kept | apply wrVldCtl_kept | apply wrVslot_kept | dsimp only | refine kept_of_snd (by assumption) ?_ | refine kept_of_snd2 (by assumption) ?_ | refine kept_of_fst (by assumption) ?_ | (simp only [kept_mk_iff]; (first | apply keptIn_fold | apply keptIn_flags)) | split | intro _)

theorem wrCkp_kept {cs : Keep} (m : Nat) (d : Nat) (ofs : Nat) (v : Nat) (s : State) (Hs : Kept cs s) : Kept cs (wrCkp m d ofs v s) := by
  unfold wrCkp
  try dsimp only
  with_reducible repeat' (first | assumption | apply wrCkpCmd_kept | apply plainWrite_kept | dsimp only | refine kept_of_snd (by assumption) ?_ | refine kept_of_snd2 (by assumption) ?_ | refine kept_of_fst (by assumption) ?_ | (simp only [kept_mk_iff]; (first | apply keptIn_fold | apply keptIn_flags)) | split | intro _)

theorem wrLmap_kept {cs : Keep} (m : Nat) (l : Nat) (v : Nat) (s : State) (Hs : Kept cs s) : Kept cs (wrLmap m l v s) := by
  unfold wrLmap
  try dsimp only
  with_reducible repeat' (first | assumption | apply checkedWrite_kept | dsimp only | refine kept_of_snd (by assumption) ?_ | refine kept_of_snd2 (by assumption) ?_ | refine kept_of_fst (by assumption) ?_ | (simp only [kept_mk_iff]; (first | apply keptIn_fold | apply keptIn_flags)) | split | intro _)

theorem wrMring_kept {cs : Keep} (m : Nat) (l : Nat) (v : Nat) (s : State) (Hs : Kept cs s) : Kept cs (wrMring m l v s) := by
  unfold wrMring
  try dsimp only
  with_reducible repeat' (first | assumption | apply checkedWrite_kept | apply refuse_kept | apply State.setW_kept | dsimp only | refine kept_of_snd (by assumption) ?_ | refine kept_of_snd2 (by assumption) ?_ | refine kept_of_fst (by assumption) ?_ | (simp only [kept_mk_iff]; (first | apply keptIn_fold | apply keptIn_flags)) | split | intro _)

theorem wrLnk_kept {cs : Keep} (m : Nat) (l : Nat) (ofs : Nat) (v : Nat) (s : State) (Hs : Kept cs s) : Kept cs (wrLnk m l ofs v s) := by
  unfold wrLnk
  try dsimp only
  with_reducible repeat' (first | assumption | apply wrMring_kept | apply wrLmap_kept | apply rangeWrite_kept | apply wrXctl_kept | apply wrLnkCtl_kept | apply plainWrite_kept | dsimp only | refine kept_of_snd (by assumption) ?_ | refine kept_of_snd2 (by assumption) ?_ | refine kept_of_fst (by assumption) ?_ | (simp only [kept_mk_iff]; (first | apply keptIn_fold | apply keptIn_flags)) | split | intro _)

theorem wrBlk_kept {cs : Keep} (m : Nat) (pg : Nat) (ofs : Nat) (v : Nat) (s : State) (Hs : Kept cs s) : Kept cs (wrBlk m pg ofs v s) := by
  unfold wrBlk
  try dsimp only
  with_reducible repeat' (first | assumption | apply wrLnk_kept | apply wrCkp_kept | apply wrTok_kept | apply wrMig_kept | apply wrCore_kept | apply wrClu_kept | apply wrSch_kept | apply wrCtlPage_kept | apply wrHif_kept | apply wrBrg_kept | apply wrFw_kept | apply wrMgt_kept | apply wrDbg_kept | apply wrRas_kept | apply wrSec_kept | apply wrPrt_kept | apply wrGlb_kept | apply rangeWrite_kept | apply wrEvrCtl_kept | apply plainWrite_kept | apply unbacked_kept | dsimp only | refine kept_of_snd (by assumption) ?_ | refine kept_of_snd2 (by assumption) ?_ | refine kept_of_fst (by assumption) ?_ | (simp only [kept_mk_iff]; (first | apply keptIn_fold | apply keptIn_flags)) | split | intro _)

theorem wrWord_kept {cs : Keep} (m : Nat) (pg : Nat) (ofs : Nat) (v : Nat) (s : State) (Hs : Kept cs s) : Kept cs (wrWord m pg ofs v s) := by
  unfold wrWord
  try dsimp only
  with_reducible repeat' (first | assumption | apply wrBlk_kept | apply wrHead_kept | dsimp only | refine kept_of_snd (by assumption) ?_ | refine kept_of_snd2 (by assumption) ?_ | refine kept_of_fst (by assumption) ?_ | (simp only [kept_mk_iff]; (first | apply keptIn_fold | apply keptIn_flags)) | split | intro _)

theorem pageWrite_kept {cs : Keep} (m : Nat) (ofs : Nat) (size : Nat) (v : Nat) (s : State) (Hs : Kept cs s) : Kept cs (pageWrite m ofs size v s) := by
  unfold pageWrite
  try dsimp only
  with_reducible repeat' (first | assumption | apply wrWord_kept | apply unbacked_kept | apply refuse_kept | dsimp only | refine kept_of_snd (by assumption) ?_ | refine kept_of_snd2 (by assumption) ?_ | refine kept_of_fst (by assumption) ?_ | (simp only [kept_mk_iff]; (first | apply keptIn_fold | apply keptIn_flags)) | split | intro _)

theorem queueWrite_kept {cs : Keep} (p : Nat) (ofs : Nat) (size : Nat) (v : Nat) (s : State) (Hs : Kept cs s) : Kept cs (queueWrite p ofs size v s) := by
  unfold queueWrite
  try dsimp only
  with_reducible repeat' (first | assumption | apply wrQueue_kept | apply refuseQ_kept | dsimp only | refine kept_of_snd (by assumption) ?_ | refine kept_of_snd2 (by assumption) ?_ | refine kept_of_fst (by assumption) ?_ | (simp only [kept_mk_iff]; (first | apply keptIn_fold | apply keptIn_flags)) | split | intro _)

theorem execRegisterWrite_kept {cs : Keep} (m : Nat) (ofs : Nat) (size : Nat) (v : Nat) (s : State) (Hs : Kept cs s) : KeptOut cs (execRegisterWrite m ofs size v s) := by
  unfold execRegisterWrite
  try dsimp only
  with_reducible repeat' (first | assumption | apply keptOut_next | apply queueWrite_kept | apply pageWrite_kept | apply run_kept | apply whenOk_kept | dsimp only | refine kept_of_snd (by assumption) ?_ | refine kept_of_snd2 (by assumption) ?_ | refine kept_of_fst (by assumption) ?_ | (simp only [kept_mk_iff]; (first | apply keptIn_fold | apply keptIn_flags)) | split | intro _)

theorem readCtl_kept {cs : Keep} (l : Nat) (p : Nat) (h : PktHdr) (s : State) (Hs : Kept cs s) : Kept cs (readCtl l p h s) := by
  unfold readCtl
  try dsimp only
  with_reducible repeat' (first | assumption | apply pageRead_kept | apply sendCpl_kept | dsimp only | refine kept_of_snd (by assumption) ?_ | refine kept_of_snd2 (by assumption) ?_ | refine kept_of_fst (by assumption) ?_ | (simp only [kept_mk_iff]; (first | apply keptIn_fold | apply keptIn_flags)) | split | intro _)

theorem writeCtl_kept {cs : Keep} (l : Nat) (p : Nat) (h : PktHdr) (data : List Byte) (s : State) (Hs : Kept cs s) : Kept cs (writeCtl l p h data s) := by
  unfold writeCtl
  try dsimp only
  with_reducible repeat' (first | assumption | apply pageWrite_kept | apply sendCpl_kept | dsimp only | refine kept_of_snd (by assumption) ?_ | refine kept_of_snd2 (by assumption) ?_ | refine kept_of_fst (by assumption) ?_ | (simp only [kept_mk_iff]; (first | apply keptIn_fold | apply keptIn_flags)) | split | intro _)

theorem readIn_kept {cs : Keep} (l : Nat) (p : Nat) (since : Nat) (h : PktHdr) (s : State) (Hs : Kept cs s) : Kept cs (readIn l p since h s) := by
  unfold readIn
  try dsimp only
  with_reducible repeat' (first | assumption | apply readCtl_kept | apply readTier_kept | dsimp only | refine kept_of_snd (by assumption) ?_ | refine kept_of_snd2 (by assumption) ?_ | refine kept_of_fst (by assumption) ?_ | (simp only [kept_mk_iff]; (first | apply keptIn_fold | apply keptIn_flags)) | split | intro _)

theorem writeIn_kept {cs : Keep} (l : Nat) (p : Nat) (since : Nat) (h : PktHdr) (data : List Byte) (s : State) (Hs : Kept cs s) : Kept cs (writeIn l p since h data s) := by
  unfold writeIn
  try dsimp only
  with_reducible repeat' (first | assumption | apply writeCtl_kept | apply writeTier_kept | dsimp only | refine kept_of_snd (by assumption) ?_ | refine kept_of_snd2 (by assumption) ?_ | refine kept_of_fst (by assumption) ?_ | (simp only [kept_mk_iff]; (first | apply keptIn_fold | apply keptIn_flags)) | split | intro _)

theorem rxAct_kept {cs : Keep} (l : Nat) (data : List Byte) (p : Nat) (since : Nat) (h : PktHdr) (s : State) (Hs : Kept cs s) : Kept cs (rxAct l data p since h s) := by
  unfold rxAct
  try dsimp only
  with_reducible repeat' (first | assumption | apply writeIn_kept | apply readIn_kept | apply tstreamIn_kept | apply eventIn_kept | apply messageIn_kept | apply atomicIn_kept | dsimp only | refine kept_of_snd (by assumption) ?_ | refine kept_of_snd2 (by assumption) ?_ | refine kept_of_fst (by assumption) ?_ | (simp only [kept_mk_iff]; (first | apply keptIn_fold | apply keptIn_flags)) | split | intro _)

theorem linkRetry_kept {cs : Keep} (l : Nat) (s : State) (Hs : Kept cs s) : Kept cs (linkRetry l s) := by
  unfold linkRetry
  try dsimp only
  with_reducible repeat' (first | assumption | apply rxAct_kept | apply xctlRetry_kept | apply rxServe_kept | apply forUp_kept | apply forUp_kept2 | dsimp only | refine kept_of_snd (by assumption) ?_ | refine kept_of_snd2 (by assumption) ?_ | refine kept_of_fst (by assumption) ?_ | (simp only [kept_mk_iff]; (first | apply keptIn_fold | apply keptIn_flags)) | split | intro _)

theorem execRead_kept {cs : Keep} (l : Nat) (hdr : Nat) (data : List Byte) (errs : Errs) (s : State) (Hs : Kept cs s) : KeptOut cs (execRead l hdr data errs s) := by
  unfold execRead
  try dsimp only
  with_reducible repeat' (first | assumption | apply keptOut_next | apply readIn_kept | apply arrive_kept | apply runArrivalErr_kept | apply whenOk_kept | dsimp only | refine kept_of_snd (by assumption) ?_ | refine kept_of_snd2 (by assumption) ?_ | refine kept_of_fst (by assumption) ?_ | (simp only [kept_mk_iff]; (first | apply keptIn_fold | apply keptIn_flags)) | split | intro _)

theorem execWrite_kept {cs : Keep} (l : Nat) (hdr : Nat) (data : List Byte) (s : State) (Hs : Kept cs s) : KeptOut cs (execWrite l hdr data s) := by
  unfold execWrite
  try dsimp only
  with_reducible repeat' (first | assumption | apply keptOut_next | apply writeIn_kept | apply arrive_kept | apply runArrival_kept | apply whenOk_kept | dsimp only | refine kept_of_snd (by assumption) ?_ | refine kept_of_snd2 (by assumption) ?_ | refine kept_of_fst (by assumption) ?_ | (simp only [kept_mk_iff]; (first | apply keptIn_fold | apply keptIn_flags)) | split | intro _)

theorem tickPerf_kept {cs : Keep} (old : Timebase) (pg : Nat) (s : State) (Hs : Kept cs s) : Kept cs (tickPerf old pg s) := by
  unfold tickPerf
  try dsimp only
  with_reducible repeat' (first | assumption | apply State.add64_kept | dsimp only | refine kept_of_snd (by assumption) ?_ | refine kept_of_snd2 (by assumption) ?_ | refine kept_of_fst (by assumption) ?_ | (simp only [kept_mk_iff]; (first | apply keptIn_fold | apply keptIn_flags)) | split | intro _)

theorem partRetry_kept {cs : Keep} (p : Nat) (s : State) (Hs : Kept cs s) : Kept cs (partRetry p s) := by
  unfold partRetry
  try dsimp only
  with_reducible repeat' (first | assumption | apply recRetry_kept | apply inServe_kept | apply retrySuccs_kept | dsimp only | refine kept_of_snd (by assumption) ?_ | refine kept_of_snd2 (by assumption) ?_ | refine kept_of_fst (by assumption) ?_ | (simp only [kept_mk_iff]; (first | apply keptIn_fold | apply keptIn_flags)) | split | intro _)

theorem retryAll_kept {cs : Keep} (s : State) (Hs : Kept cs s) : Kept cs (retryAll s) := by
  unfold retryAll
  try dsimp only
  with_reducible repeat' (first | assumption | apply partRetry_kept | apply linkRetry_kept | apply ckpRetry_kept | apply happen_kept | apply forEach_kept | dsimp only | refine kept_of_snd (by assumption) ?_ | refine kept_of_snd2 (by assumption) ?_ | refine kept_of_fst (by assumption) ?_ | (simp only [kept_mk_iff]; (first | apply keptIn_fold | apply keptIn_flags)) | split | intro _)

theorem tick_kept {cs : Keep} (s : State) (Hs : Kept cs s) : Kept cs (tick s) := by
  unfold tick
  try dsimp only
  with_reducible repeat' (first | assumption | apply retryAll_kept | apply tickPerf_kept | apply State.addF_kept | apply forEach_kept | dsimp only | refine kept_of_snd (by assumption) ?_ | refine kept_of_snd2 (by assumption) ?_ | refine kept_of_fst (by assumption) ?_ | (simp only [kept_mk_iff]; (first | apply keptIn_fold | apply keptIn_flags)) | split | intro _)

end Sys2Proof.Machine
end

