-- ==== Sys2Proof/Tests/Slice0.lean ====
section
/-! SUPPORT.  Tests: that each check of `wellFormed` refuses what it names, results that the spec states, and for
each statement of Certificates/Slice0/Obligations.lean (`met_<its name>`, in parts where it is long) concrete states
and operands that meet the hypotheses of each of its clauses together; the clauses are numbered in the statement's
order.  Two clauses ask how many spare rows a channel was fused with, which nothing fixes: their witness supposes one. -/

namespace Sys2Proof.Tests
open Sys2Proof Sys2Proof.Machine
set_option linter.all false
set_option Elab.async false
set_option maxRecDepth 20000

/-! ## States the tests start from -/

/-- A device out of cold reset. -/
def dev : State := { State.reset with pins := { held := false, rstN := true } }

/-- A unit in a holder's hands. -/
def unit (res u p : Nat) (s : State) : State :=
  { s with prt := { s.prt with holder := SMap.put s.prt.holder (res * 4096 + u) (some p) none } }

/-- An ENABLED partition with a key. -/
def enP (p : Nat) (s : State) : State :=
  (s.setPart p { st := .enabled }).setKeySlot p { st := .active, owner := p, gen := 1, key := p + 1 }

/-- A page claimed by an owner. -/
def own (m pg : Nat) (s : State) : State := s.setW pg R.PG_OWNER (2 ^ 31 + m)

/-- A page that is enabled. -/
def on (pg : Nat) (s : State) : State := s.setF pg F.PG_CTL_EN 1

/-- Partition 1 with a cluster, a near unit, a mid unit and a link, its controllers in service. -/
def devP : State :=
  on 0x500 (on 0x400 (enP 1 (unit resClu 0 1 (unit resNear 0 1 (unit resMid 0 1 (unit resLnk 3 1 dev))))))

/-- Bytes in tier memory under a partition's key. -/
def bytesAt (p tier addr : Nat) (bs : List Byte) (s : State) : State :=
  storeBytes (s.slotFor p) (memKey tier addr) bs s

/-- The timebase at a time. -/
def atNow (n : Nat) (s : State) : State := { s with tb := { s.tb with now0 := n, now1 := n } }
/-- A block entry (Table 06-1). -/
def ent (addr len tier flags tag : Nat) : List Byte :=
  leBytes 6 addr ++ leBytes 3 len ++ leBytes 1 tier ++ leBytes 2 flags ++ leBytes 4 tag

/-- `devP` with core 0 as given, holding a fetch slot of its cluster, and a pool of 8 buffers. -/
def coreS (k : Core) : State :=
  setPool 0 2 6 (({ devP with clus := [(0, { fetch := [0] })] } : State).setCore 0 k |>.setF (pCORE 0) F.WS_POOL_SIZE 8 |>.setF (pCORE 0) F.WS_POOL_FLOOR 2)

/-- Eight-byte words as bytes. -/
def words (ws : List Nat) : List Byte := ws.flatMap (leBytes 8)

/-- A gather command block: one vertex from offsets, indices and rows of near store, 8 rows of 2 FP32 elements. -/
def gblock (w0 : Nat) : List Byte :=
  words [w0, 0x1000000020000, 0x1000000030000, 0x1000000040000, 2 ^ 32, 0, 0, 8]

/-- A table descriptor: word 0, RDIR pointer, 4 rows of one shard whose map lies at 0x50000. -/
def tdesc (w0 rdir : Nat) : List Byte := words [w0, 4 + 4 * 2 ^ 32, 0x1000000050000, rdir, 0, 0, 0, 0]

/-- A shard map entry in near store. -/
def shardB (base cap sb : Nat) : List Byte :=
  leBytes 6 base ++ leBytes 2 1 ++ leBytes 8 cap ++ leBytes 6 sb ++ leBytes 2 1 ++ leBytes 8 0

/-- `devP` with an operation in slot 5 of partition 1. -/
def withOp (o : OpSlot) (s : State := devP) : State := s.setSlot 1 5 o

/-- A graph command (Table 11-6). -/
def gcmd (op ndec first count slot2 addr tier : Nat) (src : CmdSrc := .reg 7) : GraphCmd :=
  ⟨leBytes 2 op ++ leBytes 2 ndec ++ leBytes 4 first ++ leBytes 4 count ++ leBytes 4 slot2 ++ leBytes 6 addr ++ leBytes 1 tier ++ leBytes 9 0, src⟩

/-- A vocabulary image's header: 300 tokens, byte tokens from 1 on. -/
def vimg (kind size : Nat) : List Byte :=
  leBytes 4 0x48544B53 ++ leBytes 1 kind ++ leBytes 1 1 ++ leBytes 2 (if kind = 1 then 0x0808 else 0) ++ leBytes 4 300 ++ leBytes 4 1 ++
    leBytes 4 (if kind = 1 then 0 else 1) ++ leBytes 4 0 ++ leBytes 8 size ++ List.replicate 32 0

/-- A token-class operation of engine 0 and stream 3 in slot 5, with the stream and vocabulary as given. -/
def tokS (cls arg0 arg1 arg3 : Nat) (st : Stream) (s : State := devP) : State :=
  (withOp { st := .running, exec := some (.token 0), desc := [cls, 0, 0, 0, arg0 + 12, arg1, 0x1000000020000, arg3] } s).setEng 0
    { slots := [(0, { owner := 1, size := 1, valid := true, kind := 1, img := vimg 1 0 })], streams := [(3, st)], held := [(1, 5)] }

/-- An automaton image of one state with one range, or none. -/
def autom (n : Nat) : List Byte :=
  leBytes 4 0x48544B53 ++ [4, 1, 0, 0] ++ leBytes 4 300 ++ leBytes 4 1 ++ leBytes 8 0 ++ leBytes 8 128 ++ List.replicate 32 0 ++
    leBytes 4 5 ++ leBytes 4 n ++ leBytes 8 1 ++ leBytes 4 10 ++ leBytes 4 20 ++ leBytes 8 0

/-- What the fuses and the firmware store hold: SVN 3, PROD, slot A active, both images valid. -/
def nvD : NonVol :=
  { svn := some 3, life := some 2, act := some 0, images := [(0, some ⟨true, 5, 1⟩), (1, some ⟨true, 6, 2⟩)] }

/-- `devP` at a boot stage, with `nvD`. -/
def atStage (n : Nat) : State := ({ devP with nv := nvD } : State).setF pMGT F.MGT_STS_STAGE n

/-- The management core runs and its endpoint serves on I3C. -/
def mgtS (m : Mgmt := {}) : State := { (atStage 3).setF pMGT F.MGT_STS_RUN 1 with mgt := m }

/-- Boot step 7 with every memory trained or calibrated but one. -/
def memS (pg : Nat) : State :=
  (memPages.filter (· != pg)).foldl
    (fun s j => if j < pgOf .msc 0 then s.setF j F.NSC_STS_CAL_OK 1 else s.setF j F.MSC_STS_TRAINED 1) (atStage 7)

/-- An upstream link that is up, with VF Enable. -/
def hifS (h : Hif := { vfEn := true }) : State := { (on pHIF devP).setF pHIF F.HIF_LINK_STS_UP 1 with hif := h }

/-- Window 5 open for partition 1 onto its near memory. -/
def winS : State :=
  (hifS |>.setF pHIF (F.HIF_WIN_CTL_EN.at 16 5) 1 |>.setF pHIF (F.HIF_WIN_CTL_OWNER.at 16 5) 1
    |>.setF pHIF (F.HIF_WIN_SIZE_GRAN.at 16 5) 1 |>.setF pHIF (F.HIF_WIN_BASE_LO_TIER.at 16 5) 1)


theorem info_ne {o : Option (PageType × Nat)} {t : PageType} (h : o.map (fun x => decide (x.1 = t)) ≠ some true) (i : Nat) :
    o ≠ some (t, i) := by
  intro e; subst e; exact h (by simp)

/-- A read that succeeds, as the bytes it gives. -/
theorem ok_getD {a b g : Type} {r : Except a (List b) × g} (h : r.1.toOption.isSome = true) :
    r = (.ok (r.1.toOption.getD []), r.2) := by
  obtain ⟨x, y⟩ := r
  cases x with
  | error _ => cases h
  | ok v => rfl

/-- A plan entry: four bytes from 0x20000 of near store to 0x30000 of tier `t`. -/
def planB (t : Nat) : List Byte :=
  leBytes 6 0x20000 ++ leBytes 2 1 ++ leBytes 6 0x30000 ++ leBytes 2 (256 * t) ++ leBytes 4 4 ++ leBytes 4 77 ++ leBytes 8 0

/-- An operation of class `cls` in slot 5 of partition 1 on core 0, whose plan is that one entry. -/
def planS (cls t : Nat) : State :=
  bytesAt 1 1 0x20000 [1, 2, 3, 4] (bytesAt 1 1 0x10000 (planB t) (on (pSCH 1)
    ((coreS { running := true, op := some { part := 1, slot := 5, opid := 0, cls := cls } }).setSc 1
      { slots := [(5, { st := .running, exec := some (.core 0), desc := [131072 + cls, 0, 0, 0, 0x1000000010000, 0, 0, 0] })],
        flows := [(2, { en := true })] })))

/-- `s` once its operation's plan entry has been read. -/
def planAt (s : State) : State :=
  ((s.core 0).op.elim s (fun h => (planFetch 0 (s.slot 1 5) h (s.finds [])).2))

/-- What an image's sections stand for. -/
def imgSnap : SealedImg := { body := List.replicate 16 0, snap := { units := [[0], [0], [0], []] } }

/-- `devP` with an image key, and an image area of 256 MiB in near store. -/
def areaS : State :=
  (({ devP with prt := { devP.prt with ikeys := [(1, some ⟨7, 8⟩)] } }).setF (pCKP 0) F.CKP_IMG_LO_TIER 1).setW (pCKP 0) R.CKP_IMG_CAP 256

theorem triple_eta {a b g : Type} {x : a × b × g} {u : a} {v : b} (h : x.1 = u) (k : x.2.1 = v) : x = (u, v, x.2.2) := by
  obtain ⟨_, _, _⟩ := x; cases h; cases k; rfl

/-- The code of a failed check. -/
def errOf {e a : Type} : Except e a → Option e
  | .error c => some c
  | .ok _ => none

theorem err_eta {e a b : Type} {x : Except e a × b} {c : e} (h : errOf x.1 = some c) : x = (.error c, x.2) := by
  obtain ⟨y, z⟩ := x
  cases y with
  | error _ => cases h; rfl
  | ok _ => cases h

/-- The head of an image of one chunk, whose 64 bytes are MEM's, that chunk sealed under key 8, and its tag. -/
def memHdr : List Byte :=
  List.replicate 16 0 ++ leBytes 8 5 ++ List.replicate 29 0 ++ [1] ++ List.replicate 18 0 ++ leBytes 8 64 ++ leBytes 4 1 ++
    List.replicate 172 0 ++ [7] ++ List.replicate 7 0 ++ leBytes 8 0 ++ leBytes 8 64
def memCt : List Byte := [189, 89, 198, 156, 108, 87, 112, 51, 4, 37, 124, 242, 15, 46, 201, 49, 105, 11, 225, 0, 166, 28, 227, 77, 169, 11, 154, 140, 83, 22, 214, 108, 167, 15, 237, 215, 81, 20, 205, 40, 65, 111, 232, 249, 64, 201, 73, 212, 250, 223, 245, 198, 132, 216, 111, 178, 220, 115, 58, 43, 169, 188, 182, 76]
def memTag : List Byte := [238, 111, 126, 135, 96, 180, 124, 145, 175, 137, 221, 148, 89, 145, 136, 66]

/-- A line that key 2 has written whole. -/
def wholeL : Line := { key := 2, ver := 1, mask := 2 ^ 64 - 1 }

/-- Bytes of near store from an address on, as memory lists them. -/
def nearBytes (a : Nat) (bs : List Byte) : SMap Byte := (List.range bs.length).zip bs |>.map (fun x => (memKey 1 (a + x.1), x.2))

/-- A committed image's tag table and its one chunk, 16 bytes sealed under key 8, and the header that says so. -/
def sealTags : List Byte := [75, 233, 226, 221, 15, 52, 92, 20, 32, 124, 122, 19, 211, 92, 79, 182]
def sealCt : List Byte := [128, 34, 219, 87, 92, 95, 254, 0, 22, 124, 49, 10, 13, 255, 187, 108]
def sealHdr : List Byte :=
  padTo 4096 (padTo 72 [0x43, 0x4B, 0x50, 0x54, 4, 0, 1, 0, 7] ++ padTo 120 [16, 0, 0, 0, 0, 0, 0, 0, 1] ++ padTo 16 [1] ++
    [57, 35, 180, 119, 55, 137, 114, 27, 243, 64, 172, 243, 197, 48, 110, 44])

/-- `areaS` with that image in the area. -/
def sealS : State :=
  { areaS with
    mem := { areaS.mem with
      lines := (List.range 64 ++ [64, 128]).map (fun i => (memKey 1 (64 * i), wholeL)),
      bytes := nearBytes 0 (sealHdr.take 224) ++ nearBytes 4096 sealTags ++ nearBytes 8192 sealCt }
    ckp := { images := [imgSnap] } }

/-- The run that a RESTORE of `sealS` starts, and `sealS` with it. -/
def sealR : CkpRun := sealS.ckpArea { op := 4, part := 1 }
def sealU : State := ((sealS.finds []).setF (pCKP 0) F.CKP_STS_BUSY 1).setRun (some sealR)

theorem readByte_whole {s : State} {slot k : Nat} (l : s.line k = wholeL) (hd : s.slotDraining slot = false) (hk : s.keyOf slot = 2) :
    s.readByte slot k = (SMap.get s.mem.bytes k 0, false) := by
  have hm : bit wholeL.mask (k % 64) = true := by
    have : ∀ i < 64, bit wholeL.mask i = true := by decide +kernel
    exact this _ (Nat.mod_lt _ (by decide))
  unfold State.readByte State.byteAs
  simp only [l, hd, hk, hm]
  rfl

theorem get_absent {m : SMap Byte} {k : Nat} (h : m.all (fun e => e.1 != k) = true) : SMap.get m k 0 = 0 := by
  induction m with
  | nil => rfl
  | cons e m ih =>
    rw [List.all_cons, Bool.and_eq_true] at h
    obtain ⟨j, v⟩ := e
    unfold SMap.get
    rw [if_neg (by simpa using h.1)]
    exact ih h.2

theorem sealU_key : sealU.slotDraining 1 = false ∧ sealU.keyOf 1 = 2 := by decide +kernel

theorem sealU_lines : ∀ j < 64, SMap.get sealU.mem.lines (2 ^ 48 + 64 * j) {} = wholeL := by decide +kernel

theorem sealU_head : ∀ i < 224, sealU.readByte 1 (memKey 1 (0 + i)) = (sealHdr.getD i 0, false) := by decide +kernel

theorem sealU_rest : sealU.mem.bytes.all (fun e => decide (e.1 < 2 ^ 48 + 224) || decide (2 ^ 48 + 4096 ≤ e.1)) = true := by
  decide +kernel

theorem sealHdr_length : sealHdr.length = 4096 := by
  unfold sealHdr padTo; rw [List.length_append, List.length_take, List.length_replicate]; omega

theorem padTo_zero (n : Nat) (bs : List Byte) (i : Nat) (h : bs.length ≤ i) (k : i < (padTo n bs).length) : (padTo n bs)[i] = 0 := by
  have e : padTo n bs = bs.take n ++ List.replicate (n - bs.length) 0 := rfl
  rw [List.getElem_of_eq e, List.getElem_append_right (by rw [List.length_take]; omega), List.getElem_replicate]

theorem sealHdr_zero (i : Nat) (h : 224 ≤ i) (k : i < sealHdr.length) : sealHdr[i] = 0 :=
  padTo_zero 4096 _ i (Nat.le_trans (by decide +kernel) h) k

/-- The header as it stands in memory. -/
theorem sealU_hdr : sealU.readBytes 1 1 0 4096 = plain sealHdr := by
  unfold State.readBytes plain
  apply List.ext_getElem
  · rw [List.length_map, List.length_map, List.length_range, sealHdr_length]
  · intro i h1 h2
    rw [List.getElem_map, List.getElem_range, List.getElem_map]
    rw [List.length_map] at h2
    by_cases h : i < 224
    · rw [sealU_head i h, List.getD_eq_getElem _ _ h2]
    · have hi : i < 4096 := by rw [sealHdr_length] at h2; exact h2
      have hm : memKey 1 (0 + i) = 2 ^ 48 + i := by show 1 * 2 ^ 48 + (0 + i) = _; omega
      have hl : sealU.line (memKey 1 (0 + i)) = wholeL := by
        show SMap.get sealU.mem.lines (memKey 1 (0 + i) / 64 * 64) {} = _
        rw [hm, show (2 ^ 48 + i) / 64 * 64 = 2 ^ 48 + 64 * (i / 64) by omega]
        exact sealU_lines _ (by omega)
      have hb : SMap.get sealU.mem.bytes (memKey 1 (0 + i)) 0 = 0 := by
        refine get_absent (List.all_eq_true.2 (fun e he => ?_))
        have := List.all_eq_true.1 sealU_rest e he
        rw [hm]
        simp only [Bool.or_eq_true, decide_eq_true_eq] at this
        exact bne_iff_ne.2 (by omega)
      rw [readByte_whole hl sealU_key.1 sealU_key.2, hb, sealHdr_zero i (by omega) h2]

theorem sealU_tags : sealU.readBytes 1 1 4096 16 = plain sealTags := by decide +kernel
theorem sealU_ct : sealU.readBytes 1 1 8192 16 = plain sealCt := by decide +kernel

/-- Partition 1 may reach near unit 0, where channel 0 takes work and counts nothing. -/
theorem near_open {s : State} (e1 : s.fenced 0x400 = false) (e2 : s.takesWork 0x400 = true) (e3 : s.holderOf resNear 0 = some 1)
    (e4 : s.mayUse 1 = true) (e5 : s.f 0x400 F.PG_PERF_SEL_RUN = 0) : s.open_ 1 1 0 (2 ^ 28) := by
  intro a n _ h
  have hc : tierCtl 1 a = 0x400 := by
    show 0x400 + a / 2 ^ 28 % 128 = _
    rw [Nat.div_eq_of_lt (by omega)]
  refine ⟨?_, by rw [hc]; exact e5⟩
  have hr : s.rangeCode 1 a n = 0 := if_pos (by omega)
  have hh : s.holds 1 1 a n = true := by
    unfold State.holds unitsTouched
    have u0 : tierUnit 1 a = (resNear, 0) := by show (resNear, _) = _; rw [Nat.div_eq_of_lt (by omega)]
    have u1 : tierUnit 1 (a + max n 1 - 1) = (resNear, 0) := by show (resNear, _) = _; rw [Nat.div_eq_of_lt (by omega)]
    rw [u0, u1, decide_eq_true (show a + max n 1 ≤ tierSpan 1 by show _ ≤ 2 ^ 35; omega)]
    show (([(resNear, 0 + 0)] : List (Nat × Nat)).all (fun ru => s.holderOf ru.1 ru.2 == some 1)) = true
    rw [List.all_cons, e3]; rfl
  unfold State.accessCode
  rw [hr, hc, e1, e2, hh, e4]; rfl

theorem sealU_open : sealU.open_ 1 1 0 (2 ^ 28) :=
  near_open (by decide +kernel) (by decide +kernel) (by decide +kernel) (by decide +kernel) (by decide +kernel)

/-- What a read of the image gives, from `s` on. -/
theorem readImg_is {s u : State} (k : Counted s u) (r : CkpRun) (ofs n : Nat) (bs : List Byte) (hr : r.part = 1 ∧ r.tier = 1 ∧ r.addr = 0)
    (he : s.mem.errs = []) (hs : (s.access 1).slot = 1) (hd : s.slotDraining 1 = false) (ho : s.open_ 1 1 0 (2 ^ 28))
    (hn : ofs + n ≤ 2 ^ 28) (h : s.readBytes 1 1 ofs n = plain bs) : ∃ t, readImg r ofs n u = (0, bs, t) ∧ Counted s t := by
  have hu : (u.access r.part).slot = 1 := by rw [hr.1, k]; exact hs
  obtain ⟨t, ht, kt⟩ := bulkRead_counted (pCKP 0) 0 r.tier (r.addr + ofs) n 0 (2 ^ 28) (u.access r.part) u (by rw [k]; exact he)
    (by rw [hu, k]; exact hd) (by rw [hr.2.1]; show u.open_ r.part _ _ _; rw [hr.1]; exact k.open_ ho) (Nat.zero_le _)
    (by rw [hr.2.2]; omega)
  rw [hu, k.readBytes, hr.2.1, hr.2.2, Nat.zero_add, h] at ht
  refine ⟨t, ?_, k.trans kt⟩
  have hm : anyMark (plain bs) = false := plain_unmarked bs
  have hp : dataOf (plain bs) = bs := by unfold dataOf plain; rw [List.map_map]; exact List.map_id _
  unfold readImg
  rw [hr.2.1, hr.2.2, Nat.zero_add, ht]
  dsimp only
  rw [hm, hp]
  rfl

theorem sealU_facts : SMap.get sealU.prt.ikeys 1 none = some ⟨7, 8⟩ ∧ sealU.mem.errs = [] ∧ (sealU.access 1).slot = 1 ∧
    sealU.mem.wait = false ∧ sealU.headOk sealR ⟨7, 8⟩ sealHdr = true ∧ sealR.part = 1 ∧ sealR.tier = 1 ∧ sealR.addr = 0 ∧
    hdrChunks sealHdr = 1 ∧ hdrBody sealHdr = 8192 ∧ chunkLen (hdrPayload sealHdr) 0 = 16 := by decide +kernel

theorem sealTags_ok : tagsOk ⟨7, 8⟩ sealHdr sealTags = true := by decide +kernel

theorem sealCt_in : sealU.imageIn ⟨7, 8⟩ sealHdr sealTags sealCt = some imgSnap := by decide +kernel

theorem sealU_takes : sealU.unitsMatch 1 imgSnap.snap = true ∧ sealU.tokFree 1 imgSnap.snap = true := by decide +kernel

/-- The image opens. -/
theorem sealS_opens : ∃ t, readHead sealR sealU = (.ok (sealHdr, sealTags, imgSnap), t) ∧ t.mem.wait = false := by
  obtain ⟨hk, he, hs, hw, hh, hr1, hr2, hr3, hc, hb, hl⟩ := sealU_facts
  have hd := sealU_key.1
  obtain ⟨t1, h1, k1⟩ := readImg_is (s := sealU) (u := sealU) rfl sealR 0 4096 sealHdr ⟨hr1, hr2, hr3⟩ he hs hd sealU_open (by omega) sealU_hdr
  obtain ⟨t2, h2, k2⟩ := readImg_is k1 sealR 4096 16 sealTags ⟨hr1, hr2, hr3⟩ he hs hd sealU_open (by omega) sealU_tags
  obtain ⟨t3, h3, k3⟩ := readImg_is k2 sealR 8192 16 sealCt ⟨hr1, hr2, hr3⟩ he hs hd sealU_open (by omega) sealU_ct
  refine ⟨t3, ?_, by rw [k3]; exact hw⟩
  have hi : t2.imageIn ⟨7, 8⟩ sealHdr sealTags sealCt = some imgSnap := by rw [k2]; exact sealCt_in
  have hm : t2.unitsMatch sealR.part imgSnap.snap = true := by rw [k2, hr1]; exact sealU_takes.1
  have hf : t2.tokFree sealR.part imgSnap.snap = true := by rw [k2, hr1]; exact sealU_takes.2
  unfold readHead
  rw [hr1, hk]
  dsimp only
  rw [h1]
  dsimp only
  rw [if_neg (by decide), hh, if_neg (by decide)]
  unfold readTags
  rw [hc, h2]
  dsimp only
  rw [if_neg (by decide), sealTags_ok, if_neg (by decide)]
  unfold readFirst
  rw [hb, hl, h3]
  dsimp only
  rw [if_neg (by decide), hi]
  dsimp only
  rw [hm, hf, if_neg (by decide)]

/-- A CAPTURE of `areaS` that has begun, and `areaS` with it. -/
def capR : CkpRun := { op := 2, part := 1, ph := .capturing, tier := 1, addr := 0, mib := 256, serial := 3 }
def capS : State :=
  (({ areaS with ckp := { run := some capR } } : State).setF (pCKP 0) F.CKP_STS_BUSY 1).setF (pCKP 0) (F.CKP_PSTS_STATE.at 4 1) 3

theorem gcmCtr_le (ks : List (List Nat)) (iv : List Nat) : ∀ (fuel ctr : Nat) (bs : List Nat), (gcmCtr ks iv fuel ctr bs).length ≤ bs.length
  | 0, _, _ => Nat.zero_le _
  | fuel + 1, ctr, bs => by
    unfold gcmCtr
    split
    · exact Nat.zero_le _
    · have := gcmCtr_le ks iv fuel (ctr + 1) (bs.drop 16)
      rw [List.length_append, xorAll, List.length_zipWith, List.length_take]
      rw [List.length_drop] at this
      omega

theorem gcmSeal_le (key : Nat) (iv aad pt : List Byte) : (gcmSeal key iv aad pt).1.length ≤ pt.length := by
  have := gcmCtr_le (aesKeys (toNats (leBytes 32 key))) (toNats iv) (pt.length + 1) 2 (toNats pt)
  rw [show (toNats pt).length = pt.length from List.length_map ..] at this
  show (ofNats _).length ≤ _
  rw [ofNats, List.length_map]
  exact this

theorem flatMap_le {a b : Type} (f : a → List b) (n : Nat) (h : ∀ x, (f x).length ≤ n) : ∀ l : List a,
    (l.flatMap f).length ≤ l.length * n
  | [] => Nat.zero_le _
  | x :: xs => by
    have := flatMap_le f n h xs
    have := h x
    rw [List.flatMap_cons, List.length_append, List.length_cons, Nat.succ_mul]
    omega

/-- A payload sealed is at most a chunk longer. -/
theorem sealPayload_le (key nonce : Nat) (hdr pl : List Byte) :
    (sealPayload key nonce hdr pl).1.length ≤ chunksOf pl.length * 2 ^ 20 := by
  unfold sealPayload
  dsimp only
  rw [List.flatMap_map]
  have := flatMap_le (fun k => (gcmSeal key (chunkIv nonce k) hdr (chunkOf k pl)).1) (2 ^ 20) (fun k => ?_) (List.range (chunksOf pl.length))
  · rw [List.length_range] at this; exact this
  · refine Nat.le_trans (gcmSeal_le _ _ _ _) ?_
    unfold chunkOf
    rw [List.length_take]
    exact Nat.min_le_left _ _

theorem padTo_length (n : Nat) (bs : List Byte) : (padTo n bs).length = n := by
  unfold padTo; rw [List.length_append, List.length_take, List.length_replicate]; omega

theorem capS_open : (capS.finds []).open_ 1 1 0 (2 ^ 28) :=
  near_open (by decide +kernel) (by decide +kernel) (by decide +kernel) (by decide +kernel) (by decide +kernel)

theorem capS_clean : (capS.finds []).clean := by
  intro k
  show (SMap.get (capS.finds []).mem.lines (k / 64 * 64) {} : Line).poison = false
  rw [show (capS.finds []).mem.lines = [] by decide +kernel]; rfl

theorem capS_ranges : (capS.snap 1 []).ranges = [] := by decide +kernel
theorem capS_small : payloadOf (((capS.snap 1 []).sections 0).filter (fun x => decide (x.1 < 7))) + 64 ≤ 2 ^ 24 := by decide +kernel

theorem capS_key : (capS.finds []).slotDraining ((capS.finds []).access 1).slot = false := by decide +kernel

theorem capS_wait : (capS.finds []).mem.wait = false := by decide +kernel

theorem chunksOf_le {n : Nat} (h : n ≤ 2 ^ 24) : chunksOf n ≤ 16 := by unfold chunksOf ceilDiv; omega

theorem imgBytes_le (n : Nat) (h : n ≤ 2 ^ 24) : imgBytes n ≤ 2 ^ 25 := by
  unfold imgBytes payloadAt roundUp chunksOf ceilDiv
  omega

/-- Two writes of partition 1 in near unit 0, one after the other. -/
theorem two_writes (s : State) (p tier addr u : Nat) (a b : List Byte) (hp : p = 1 ∧ tier = 1 ∧ addr = 0) (c : s.clean)
    (hd : s.slotDraining (s.access 1).slot = false) (ho : s.open_ 1 1 0 (2 ^ 28)) (ha : a.length ≤ 2 ^ 28)
    (hb : u + b.length ≤ 2 ^ 28) :
    let x := bulkWrite (pCKP 0) 0 (s.access p) tier addr (plain a) s
    let y := bulkWrite (pCKP 0) 0 (x.2.access p) tier (addr + u) (plain b) x.2
    x.1 = 0 ∧ y.1 = 0 ∧ y.2.mem.wait = s.mem.wait := by
  obtain ⟨rfl, rfl, rfl⟩ := hp
  intro x y
  have hl (l : List Byte) : (plain l).length = l.length := List.length_map ..
  have hx : x.1 = 0 ∧ Stored s x.2 :=
    bulkWrite_stored _ _ _ _ 0 (2 ^ 28) _ _ _ c hd ho (plain_unmarked _) (Nat.zero_le _) (by rw [hl]; omega)
  have hy : y.1 = 0 ∧ Stored x.2 y.2 :=
    bulkWrite_stored _ _ _ _ 0 (2 ^ 28) _ _ _ hx.2.2.1 ((hx.2.draining 1).trans hd) (hx.2.open_ ho) (plain_unmarked _)
      (Nat.zero_le _) (by rw [hl]; omega)
  exact ⟨hx.1, hy.1, hy.2.2.2.trans hx.2.2.2⟩

theorem stateLine_length (b : Bool) (t : List Byte) : (stateLine b t).length = 64 := by
  unfold stateLine
  rw [List.length_append, padTo_length, List.length_append, List.length_replicate]; rfl

theorem capS_payload (v : Snap) (h : payloadOf ((v.sections 0).filter (fun x => decide (x.1 < 7))) + 64 ≤ 2 ^ 24) (sr : Nat) :
    (payloadBytes sr (bodyBytes sr (payloadOf ((v.sections 0).filter (fun x => decide (x.1 < 7))))) []).length ≤ 2 ^ 24 := by
  have e : poisonRecords [] = [] := rfl
  unfold payloadBytes bodyBytes dataOf
  rw [e, List.append_nil, List.map_nil, List.append_nil, List.length_append, List.length_map, List.length_map, List.length_range,
    List.length_range]
  exact h

theorem seal_length (s : State) (r : CkpRun) (k : ImageKey) (v : Snap)
    (h : payloadOf ((v.sections 0).filter (fun x => decide (x.1 < 7))) + 64 ≤ 2 ^ 24) :
    (s.seal r k v []).1.length = 4096 ∧ (s.seal r k v []).2.2.length ≤ 2 ^ 24 :=
  ⟨padTo_length _ _, Nat.le_trans (sealPayload_le _ _ _ _)
    (Nat.le_trans (Nat.mul_le_mul_right _ (chunksOf_le (capS_payload v h r.serial))) (by decide))⟩

/-- An image's bytes are at most its header line longer. -/
theorem image_length (h t ct : List Byte) (e : h.length = 4096) (hc : ct.length ≤ 2 ^ 24) :
    (withState h (stateLine false []) ++ padTo (payloadAt ct.length - 4096) t ++ ct).length ≤ 2 ^ 28 := by
  have hi := imgBytes_le ct.length hc
  unfold imgBytes at hi
  rw [List.length_append, List.length_append, padTo_length, withState, List.length_append, List.length_append, stateLine_length,
    List.length_take, List.length_drop, e]
  omega

/-- The commit of an image of that size succeeds, whatever bytes the seal gave. -/
theorem commits (s : State) (r : CkpRun) (h t ct mt : List Byte) (x y : Nat × State)
    (hx : x = bulkWrite (pCKP 0) 0 (s.access r.part) r.tier r.addr
      (plain (withState h (stateLine false []) ++ padTo (payloadAt ct.length - 4096) t ++ ct)) s)
    (hy : y = bulkWrite (pCKP 0) 0 (x.2.access r.part) r.tier (r.addr + 192) (plain (stateLine true mt)) x.2)
    (hr : r.part = 1 ∧ r.tier = 1 ∧ r.addr = 0) (c : s.clean) (hd : s.slotDraining (s.access 1).slot = false)
    (ho : s.open_ 1 1 0 (2 ^ 28)) (e : h.length = 4096) (hc : ct.length ≤ 2 ^ 24) :
    x.1 = 0 ∧ y.1 = 0 ∧ y.2.mem.wait = s.mem.wait := by
  subst hy
  subst hx
  exact two_writes s _ _ _ 192 _ (stateLine true mt) hr c hd ho (image_length h t ct e hc) (by rw [stateLine_length]; omega)

theorem capS_ready : readRanges 1 (capS.snap 1 []).ranges (capS.finds []) = (0, [], capS.finds []) := by
  rw [capS_ranges]; rfl

theorem capS_facts : capS.dead = false ∧ capS.ckp.run = some capR ∧ capR.ph = .capturing ∧ capR.who ≠ .cut ∧ capR.dom = false ∧
    capR.op = 2 ∧ capR.part < 8 ∧ capS.enabled capR.part = true ∧ SMap.get capS.prt.ikeys capR.part none = some ⟨7, 8⟩ := by
  decide +kernel

/-- Its commit succeeds, whatever bytes the seal gives: the witness of the clause on a successful commit. -/
theorem capS_commits (m : Nat × List (Byte × Bool) × State) (g : List Byte × List Byte × List Byte) (x y : Nat × State)
    (hm : m = (0, [], capS.finds []))
    (hg : g = m.2.2.seal capR ⟨7, 8⟩ (capS.snap capR.part capR.excl) m.2.1)
    (hx : x = bulkWrite (pCKP 0) 0 (m.2.2.access capR.part) capR.tier capR.addr
      (plain (withState g.1 (stateLine false []) ++ padTo (payloadAt g.2.2.length - 4096) g.2.1 ++ g.2.2)) m.2.2)
    (hy : y = bulkWrite (pCKP 0) 0 (x.2.access capR.part) capR.tier (capR.addr + 192)
      (plain (stateLine true (masterTag (ImageKey.mk 7 8).key capR.nonce g.1 g.2.1))) x.2) :
    m.1 = 0 ∧ imgBytes g.2.2.length ≤ capR.mib * 2 ^ 20 ∧ x.1 = 0 ∧ y.1 = 0 ∧ y.2.mem.wait = false := by
  have h : g.1.length = 4096 ∧ g.2.2.length ≤ 2 ^ 24 := by
    rw [hg, hm]
    exact seal_length (capS.finds []) capR ⟨7, 8⟩ _ capS_small
  have b : imgBytes g.2.2.length ≤ capR.mib * 2 ^ 20 := by
    refine Nat.le_trans (imgBytes_le _ h.2) ?_
    show 2 ^ 25 ≤ 256 * 2 ^ 20
    omega
  have t := commits m.2.2 capR g.1 g.2.1 g.2.2 (masterTag (ImageKey.mk 7 8).key capR.nonce g.1 g.2.1) x y hx hy ⟨rfl, rfl, rfl⟩
    (by rw [hm]; exact capS_clean) (by rw [hm]; exact capS_key) (by rw [hm]; exact capS_open) h.1 h.2
  exact ⟨by rw [hm], b, t.1, t.2.1, t.2.2.trans (by rw [hm]; exact capS_wait)⟩

/-- `devP` with a row of near channel 0 to repair. -/
def scrubS : State := devP.setCtl 0x400 { repairQ := [5] }
theorem scrubS_spare (h : 0 < Config.spareRows 0x400) : (scrubS.ctl 0x400).spareUsed < spareRows 0x400 := by
  rw [show (scrubS.ctl 0x400).spareUsed = 0 by decide +kernel]
  exact Nat.lt_min.2 ⟨h, by decide⟩

/-- `devP` as device 5, link 3 up and in service, its receive buffers free. -/
def linkS : State :=
  [1, 2, 3, 4].foldl (fun s v => s.setF (pLNK 3) (F.LNK_CRD_RX.at 4 v) 64)
    ((((on (pLNK 3) devP).setF (pLNK 3) F.LNK_STS_UP 1).setF (pLNK 3) F.LNK_STS_STATE 8).setF pGLB F.FAB_DEVID_ID 5)

/-- A packet header to device 5 from device 2 (Table 16-7). -/
def hw (opc len space sub addr rlen : Nat) (tag : Nat := 0) : Nat :=
  opc + len * 2 ^ 8 + space * 2 ^ 18 + sub * 2 ^ 20 + 5 * 2 ^ 32 + 2 * 2 ^ 44 + rlen * 2 ^ 56 + tag * 2 ^ 64 + addr * 2 ^ 80

/-! wits -/
def witStreamsAreReadAndTransferred_1_s : State :=
  bytesAt 1 1 0x10000 (ent 0x10000 0 1 0 7) (coreS { tqs := [(0, { items := [.stream false 1 0x10000 0], curTier := 1, curAddr := 0x10000 })] })

def witStreamsAreReadAndTransferred_9_s : State :=
  coreS { tqs := [(0, { items := [.stream false 1 0x10000 0], curTier := 1, curAddr := 0x10010, ents := [{ addr := 0x20001, len := 0x1FF, tier := 1, fence := false, tag := 7, last := true }], reqs := [{ id := 4, tier := 1, addr := 0x20, len := 32, pos := 3, slot := 1 }] })] }

def witGatherCommandsFetchAndLandRows_5_s : State :=
  bytesAt 1 1 0x30000 [8, 0, 0, 0] (coreS { tqs := [(0, { items := [.gath 0x40 0], bufs := 1 })], gth := { active := [({ no := 7, q := 0, wsa := 0x40, block := gblock 0x1001000010, edge := 0, edgeEnd := 1, begun := 1, item := 1 } : GthCmd)] } })

def witGatherCommandsFetchAndLandRows_6_s : State :=
  bytesAt 1 1 0x40020 [0, 0, 0x80, 0x3F, 0, 0, 0, 0xC0] (coreS { tqs := [(0, { items := [.gath 0x40 0], bufs := 1 })], gth := { active := [({ no := 7, q := 0, wsa := 0x40, block := gblock 0x1001000000, rows := [({ seq := 0, tier := 1, addr := 0x40020, len := 8, issued := 8, last := true, deg := 1 } : GthRow)], begun := 1 } : GthCmd)], reqs := [({ id := 4, cmd := 7, seq := 0, tier := 1, addr := 0x40020, len := 8, ofs := 0, slot := 1 } : GthReq)] } })

def witGatherCommandsFetchAndLandRows_7_s : State :=
  bytesAt 1 1 0x40020 [0, 0, 0x80, 0x3F, 0, 0, 0, 0xC0] (coreS { tqs := [(0, { items := [.gath 0x40 0], bufs := 1 })], gth := { active := [({ no := 7, q := 0, wsa := 0x40, block := gblock 0x1001000010, rows := [({ seq := 0, tier := 1, addr := 0x40020, len := 8, issued := 8, last := true, deg := 1 } : GthRow)], begun := 1, acc := [0x3F800000, 0] } : GthCmd)], reqs := [({ id := 4, cmd := 7, seq := 0, tier := 1, addr := 0x40020, len := 8, ofs := 0, slot := 1 } : GthReq)] } })

def witMigrationEnginesWorkThroughTheirLists_1_s : State :=
  bytesAt 1 1 0x40080 ([0, 0, 0x80, 0x3F, 0, 0, 0, 0xC0]) (bytesAt 1 1 0x50000 (shardB 0x40000 4 0x58000) (bytesAt 1 1 0x20000 ([0, 0, 0x80, 0x3F, 0, 0, 0, 0x40]) (bytesAt 1 1 0x10000 (leBytes 4 2) (withOp { st := .running, exec := some (.mig 0), copy := tdesc 0x80142 0, desc := [5, 0, 0, 0, 0x1000000070000, 0x1000000010000, 0x1000000020000, 0x1000000030000] }))))

def witMigrationEnginesWorkThroughTheirLists_1_s1 : State :=
  (migRead 0 1 1 0x10000 4 witMigrationEnginesWorkThroughTheirLists_1_s).2

def witMigrationEnginesWorkThroughTheirLists_1_s2 : State :=
  (migRead 0 1 1 0x20000 8 witMigrationEnginesWorkThroughTheirLists_1_s1).2

def witMigrationEnginesWorkThroughTheirLists_1_s3 : State :=
  (rowAddr (pMIG 0) (witMigrationEnginesWorkThroughTheirLists_1_s2.access 1) 0 (tdesc 0x80142 0) (rdTable (pMIG 0) (witMigrationEnginesWorkThroughTheirLists_1_s2.access 1) 0 (tdesc 0x80142 0)) 2 witMigrationEnginesWorkThroughTheirLists_1_s2).2

def witMigrationEnginesWorkThroughTheirLists_2_s : State :=
  (withOp { st := .running, exec := some (.mig 0), copy := tdesc 0x80142 0, desc := [5, 0, 0, 0, 0x1000000070000, 0x1000000010000, 0x1000000020000, 0x1000000030000] }).setMop 1 5 { next := 1, done := 1 }

def witMigrationEnginesWorkThroughTheirLists_4_s : State :=
  bytesAt 1 1 0x10000 (tdesc 0x80101 0) (withOp { st := .running, exec := some (.mig 0), copy := tdesc 0x80142 0, desc := [17, 0, 0, 0, 0x1000000070000, 0x1000000010000, 0x100000000, 0x1000000030000] })

def witMigrationEnginesWorkThroughTheirLists_5_s : State :=
  bytesAt 1 1 0x40080 ([0, 0, 0x80, 0x3F, 0, 0, 0, 0xC0]) (bytesAt 1 1 0x50000 (shardB 0x40000 4 0x58000) ((withOp { st := .running, exec := some (.mig 0), copy := tdesc 0x80142 0, desc := [17, 0, 0, 0, 0x1000000070000, 0x1000000010000, 0x100000002, 0x1000000030000] }).setMop 1 5 { started := true, serve := tdesc 0x80101 0 }))

def witMigrationEnginesWorkThroughTheirLists_5_s1 : State :=
  (rowAddr (pMIG 0) (witMigrationEnginesWorkThroughTheirLists_5_s.access 1) 0 (tdesc 0x80142 0) (rdTable (pMIG 0) (witMigrationEnginesWorkThroughTheirLists_5_s.access 1) 0 (tdesc 0x80142 0)) 2 witMigrationEnginesWorkThroughTheirLists_5_s).2

def witMigrationEnginesWorkThroughTheirLists_5_s2 : State :=
  (migRead 0 1 1 0x40080 8 witMigrationEnginesWorkThroughTheirLists_5_s1).2

def witMigrationEnginesWorkThroughTheirLists_5_s3 : State :=
  (rowAddr (pMIG 0) (witMigrationEnginesWorkThroughTheirLists_5_s2.access 1) 0 (tdesc 0x80101 0) (rdTable (pMIG 0) (witMigrationEnginesWorkThroughTheirLists_5_s2.access 1) 0 (tdesc 0x80101 0)) 2 witMigrationEnginesWorkThroughTheirLists_5_s2).2

def witMigrationEnginesWorkThroughTheirLists_6_s : State :=
  bytesAt 1 1 0x10000 (leBytes 8 2) (withOp { st := .running, exec := some (.mig 0), copy := tdesc 0x801c2 0x1000000060000, desc := [16, 0, 0, 0, 0x1000000070000, 0x1000000010000, 0, 0x1000000030000] })

def witMigrationEnginesWorkThroughTheirLists_7_s : State :=
  bytesAt 1 1 0x601e0 (List.replicate 8 (0 : Byte)) (bytesAt 1 1 0x50000 (shardB 0x40000 4 0x58000) (bytesAt 1 1 0x10000 (leBytes 8 2) ((withOp { st := .running, exec := some (.mig 0), copy := tdesc 0x801c2 0x1000000060000, desc := [16, 0, 0, 0, 0x1000000070000, 0x1000000010000, 0, 0x1000000030000] }).setMop 1 5 { started := true })))

def witMigrationEnginesWorkThroughTheirLists_7_s1 : State :=
  (migRead 0 1 1 0x10000 8 witMigrationEnginesWorkThroughTheirLists_7_s).2

def witMigrationEnginesWorkThroughTheirLists_8_s : State :=
  (withOp { st := .running, exec := some (.mig 0), copy := tdesc 0x801c2 0x1000000060000, desc := [16, 0, 0, 0, 0x1000000070000, 0x1000000010000, 0, 0x1000000030000] }).setMop 1 5 { started := true, moves := [{ row := 2, oldShard := 0, oldSlot := 2, newShard := 0, newSlot := 5, bucket := 7, home := false }] }

def witMigrationEnginesWorkThroughTheirLists_10_s : State :=
  bytesAt 1 1 0x58000 (leBytes 8 3) (bytesAt 1 1 0x50000 (shardB 0x40000 8 0x58000) ((withOp { st := .running, exec := some (.mig 0), copy := tdesc 0x801c2 0x1000000060000, desc := [16, 0, 0, 0, 0x1000000070000, 0x1000000010000, 0, 0x1000000030000] }).setMop 1 5 { started := true, moves := [{ row := 2, oldShard := 0, oldSlot := 4, newShard := 0, newSlot := 5, bucket := 7, home := false, redirected := true }] }))

def witMigrationEnginesWorkThroughTheirLists_10_s1 : State :=
  (shardOf (pMIG 0) (witMigrationEnginesWorkThroughTheirLists_10_s.access 1) 0 (tdesc 0x801c2 0x1000000060000) 0 witMigrationEnginesWorkThroughTheirLists_10_s).2

def witGraphCommandsActOnTheirSlots_8_s : State :=
  bytesAt 1 1 0x10000 (words [0x2000D, 0x7000000000000, 0, 0, 1, 0, 0, 0]) (devP.setSc 1 { loads := [gcmd 1 0 65534 1 0 0x10000 1], slots := [(65534, { st := .loading })], flows := [(2, { en := true })] })

def witTokenizingFollowsItsVocabulary_1_s : State :=
  bytesAt 1 1 0x10000 ([0x41, 0x42]) (tokS 8 0x1000 0x1000000010000 0x200000002 { en := true, owner := 1 })

def witTokenizingFollowsItsVocabulary_1_s1 : State :=
  (tokRead 0 1 1 0x10000 2 witTokenizingFollowsItsVocabulary_1_s).2

def witTokenizingFollowsItsVocabulary_1_s2 : State :=
  (tokLoop 0 1 (witTokenizingFollowsItsVocabulary_1_s.vslot 0 0) false 3 0 [] [0x41, 0x42] {} witTokenizingFollowsItsVocabulary_1_s1).2

def witTokenizingFollowsItsVocabulary_5_s : State :=
  bytesAt 1 1 0x10000 (vimg 1 0) (devP.setEng 0 { slots := [(0, { owner := 1, size := 1, busy := true, tier := 1, addr := 0x10000 })] })

def witTokenizingFollowsItsVocabulary_5_s1 : State :=
  (tokRead 0 (witTokenizingFollowsItsVocabulary_5_s.vslot 0 0).owner (witTokenizingFollowsItsVocabulary_5_s.vslot 0 0).tier (witTokenizingFollowsItsVocabulary_5_s.vslot 0 0).addr 64 witTokenizingFollowsItsVocabulary_5_s).2

def witTokenizingFollowsItsVocabulary_6_s : State :=
  bytesAt 1 1 0x10000 (vimg 2 128) (devP.setEng 0 { slots := [(0, { owner := 1, size := 1, busy := true, tier := 1, addr := 0x10000 })] })

def witTokenizingFollowsItsVocabulary_7_s : State :=
  bytesAt 1 1 0x10000 (vimg 2 100) (devP.setEng 0 { slots := [(0, { owner := 1, size := 1, busy := true, tier := 1, addr := 0x10000 })] })

def witDetokenizingStopsAndConstrains_1_s : State :=
  bytesAt 1 1 0x10000 (leBytes 4 66) (tokS 9 0 0x1000000010000 0x200000001 { en := true, owner := 1, hold := [0x40] })

def witDetokenizingStopsAndConstrains_1_s1 : State :=
  (detLoop 0 1 (witDetokenizingStopsAndConstrains_1_s.slot 1 5) (witDetokenizingStopsAndConstrains_1_s.strm 0 3) (witDetokenizingStopsAndConstrains_1_s.vslot 0 0) [] 1 0 { hold := [0x40] } witDetokenizingStopsAndConstrains_1_s).2

def witDetokenizingStopsAndConstrains_2_s : State :=
  tokS 9 0 0x1000000010000 0x200000001 { en := true, owner := 1, hold := [0x40], stopped := true }

def witDetokenizingStopsAndConstrains_7_s : State :=
  bytesAt 1 1 0x30000 (autom 1) (tokS 0xA 0x1000 0x1000000010000 0x2800000000 { en := true, owner := 1, caut := 2 ^ 63 + 0x30001 })

def witDetokenizingStopsAndConstrains_7_s1 : State :=
  (autHeader 0 1 (witDetokenizingStopsAndConstrains_7_s.strm 0 3) 300 witDetokenizingStopsAndConstrains_7_s).2

def witDetokenizingStopsAndConstrains_7_s2 : State :=
  (autFull 0 1 ({ en := true, owner := 1, caut := 2 ^ 63 + 0x30001, cstarted := true } : Stream) ((autom 1).take 64) 0 witDetokenizingStopsAndConstrains_7_s1).2

def witDetokenizingStopsAndConstrains_8_s : State :=
  bytesAt 1 1 0x30000 (autom 0) (tokS 0xA 0x1000 0x1000000010000 0x2800000000 { en := true, owner := 1, caut := 2 ^ 63 + 0x30001 })

def witDetokenizingStopsAndConstrains_8_s1 : State :=
  (autHeader 0 1 (witDetokenizingStopsAndConstrains_8_s.strm 0 3) 300 witDetokenizingStopsAndConstrains_8_s).2

def witDetokenizingStopsAndConstrains_9_s : State :=
  bytesAt 1 1 0x10000 (leBytes 4 20) (bytesAt 1 1 0x30000 (autom 1) (tokS 0xA 0x3000 0x1000000010000 0x1 { en := true, owner := 1, caut := 2 ^ 63 + 0x30001 }))

def witDetokenizingStopsAndConstrains_9_s1 : State :=
  (autHeader 0 1 (witDetokenizingStopsAndConstrains_9_s.strm 0 3) 300 witDetokenizingStopsAndConstrains_9_s).2

def witDetokenizingStopsAndConstrains_9_s2 : State :=
  (advLoop 0 1 (witDetokenizingStopsAndConstrains_9_s.slot 1 5) ({ en := true, owner := 1, caut := 2 ^ 63 + 0x30001, cstarted := true } : Stream) ((autom 1).take 64) 1 0 0 witDetokenizingStopsAndConstrains_9_s1).2

def witDetokenizingStopsAndConstrains_9_s3 : State :=
  (autState 0 1 ({ en := true, owner := 1, caut := 2 ^ 63 + 0x30001, cstarted := true } : Stream) ((autom 1).take 64) 0 witDetokenizingStopsAndConstrains_9_s2).2

def witDetokenizingStopsAndConstrains_12_s : State :=
  devP.setEng 0 { stops := [(4, { owner := 1, busy := true, tier := 1, addr := 0x10000 })] }

/-! ## Well-formedness -/

/-- Every row has a well-formed command: here each with every operand at its lowest value (part 1 of 4). -/
theorem test_lowest_operands_are_well_formed_1 :
    ([.brgRetrain 0 0 0, .brgModEnWrite 0 0 false 0, .brgMaxRateWrite 0 0 0, .bridgeTransfer 0 0 0 0
      0 none false, .bridgeReplay 0 0, .bridgeModuleDown 0, .tbsLock 0, .skewMeasure, .evrWindowEnd
      0 0, .clrMin 0 0, .referenceLost, .referenceReturn, .handshakeTimeout (.load 0) 0, .lateAck
      (.load 0), .nearRecalibrate 0 false, .registerWrite 0 0 0 0, .readDenied 0 0 0,
      .unbackedAccess 0 0, .pageClaim 0 0 0, .pageRelease 0 0, .pageEnable 0 0 false, .pageHold 0 0
      false, .pageHeld 0, .softReset 0 0, .softResetDone 0, .softResetTimeout 0, .errFirstClear 0 0,
      .evtEnWrite 0 0 0, .evtSet 0 0 0, .eventRecordWrite 0, .ringLost 0, .evqEnable 0 0 0,
      .evqConsWrite 0 0 0, .glbStateWrite 0 0, .assign 0 0 0 0 0, .unassign 0 0 0 0 0,
      .unassignApplied false, .enable 0 0, .reset 0 0, .disable 0 0, .resetEngineClear 0 0,
      .prtRstTmoExpiry 0, .resetFinish 0, .keySlotFree 0, .vfFlr 0, .vfEnableClear false, .rotateMgt
      0, .rngFault, .memRead 0 0 0 0 0 false [], .memWrite 0 0 0 0 [] false false, .memAtomic 0 0 0
      0 0 [] false false [], .shareWindow 0, .alloc 0 0 0 0, .free 0 0, .query 0 0, .fxrEnable 0 0 0
      0, .fxrEnApplied 0 0, .blockEntryRead 0 0 [], .tqRequestIssue 0 0, .transferComplete 0 0 0 [],
      .bufferRequest 0 .gather 0, .bufferRelease 0 .gather 0, .bufWaitExpiry 0, .fetchSlotGrant 0 0]
      : List Instr).all wellFormed = true := by
  decide +kernel

/-- Every row has a well-formed command: here each with every operand at its lowest value (part 2 of 4). -/
theorem test_lowest_operands_are_well_formed_2 :
    ([.lpfGo 0 0 0, .lpfLoadBegin 0, .lpfDone 0 [], .weightSwap 0, .cluWcfgWrite 0 0 0,
      .ringShardPass 0, .lateDataDiscard (.load 0), .coreSubstitute 0 0 0 0, .coreRetire 0 0 0,
      .csubHeldStart, .programLoad 0 0 0 0, .programLoadDone 0 [], .nop 0, .get 0, .put 0 [], .jmp
      0, .loop 0, .br 0, .stage 0, .trap 0, .seti 0, .addi 0, .add 0, .muli 0, .ld 0 .clean, .st 0,
      .strm 0, .wload 0, .gath 0, .mact 0 .clean, .vacc 0 .clean, .fuse 0, .drain 0 .clean,
      .coreFltClear 0 0, .coreRunlimExpiry 0, .gatherCommandStart 0 [], .gatherRowFetch 0 [],
      .gatherRowArrive 0 0 [], .embedUpdate 0 0 [], .requant 0 0 [], .migrateRows 0 0 [],
      .rowMoveRedirect 0 0 0 [], .rowMoveFinish 0 0 0 [], .load 0, .loadCommit 0 [], .signal 0,
      .link 0, .unload 0, .retry 0, .schCmdGo 0 0 0, .flowcfgWrite 0 0 0, .grant 0 [], .epochApply 0
      [], .delayExpiry 0 [], .move 0 [], .reshard 0 [], .completion 0 0 [], .operationFault 0 0 0
      none [], .tokenize 0 0 [], .vocabLoad 0 0, .vocabLoadDone 0 0 [], .tokVslotWrite 0 0 0,
      .tokStrmCtlWrite 0 0 0, .detokenize 0 0 []] : List Instr).all wellFormed = true := by
  decide +kernel

/-- Every row has a well-formed command: here each with every operand at its lowest value (part 3 of 4). -/
theorem test_lowest_operands_are_well_formed_3 :
    ([.constrainMask 0 0 [], .constrainAdvance 0 0 [], .stopSetLoad 0 0 0 0, .stopSetLoadDone 0 0
      [], .pause 0 0, .pauseQuiesced 0, .ckpQtmoExpiry 0, .capture 0 0 false false, .captureCommit
      [], .captureFail false, .checkpoint 0 [], .checkpointCaptureStart 0 [], .resume 0 0 false,
      .restore 0 0 [], .restoreDone [], .restoreFail false, .abort 0 0, .hold 0 0 [], .holdDone 0 0
      [], .cut 0 0 [], .cutDone 0 0 [], .releaseCut 0 0 [], .abortCut 0 0 [], .ckpDtmoExpiry 0,
      .ikeyLoad 0 0, .ikeyClear 0 0, .linkTrainStart 0 0 0, .linkStop 0 0 0, .ts1 0 [], .ts2 0 [],
      .eqreq 0 [], .eqack 0 [], .trainStepDone 0, .linkUp 0, .trainFail 0, .laneFault 0 0,
      .recoveryEnd 0, .dataFlit 0 [] 0 0, .nopFlit 0 [] 0 0, .creditInit 0 [], .recover 0 [],
      .nopInsert 0, .replayTimerExpiry 0, .read 0 0 [] [], .write 0 0 [], .atomic 0 0 [] [],
      .message 0 0 [], .event 0 0 [], .tstream 0 0 [] [], .cpl 0 0 [], .lnkRtmoExpiry 0,
      .tagQuarantineEnd 0, .lnkXctlGo 0 0 0, .sqTailWrite 0 0 0, .sqFetch 0 [] 0, .cqWrite 0 0,
      .completionInterrupt 0 0, .qCfgWrite 0 0 0, .hostWindowRead 0 0 0 false false [],
      .hostWindowWrite 0 0 [] false false false, .atsInvalidate 0 0 0, .pfFlr, .upstreamReset false,
      .fscPresent 0] : List Instr).all wellFormed = true := by
  decide +kernel

/-- Every row has a well-formed command: here each with every operand at its lowest value (part 4 of 4). -/
theorem test_lowest_operands_are_well_formed_4 :
    ([.fscPerstRelease 0, .fscTrainCheck 0 none, .portLost 0 false, .fscAccept 0 0 0, .fscDrain 0 0,
      .fscDrained 0, .fscPowerWrite 0 0 false, .scrubLine 0 0 .clean false, .rowRepair 0 [] false,
      .rasFence 0 0, .rasLogPop 0, .loopInterval 0 none 0 0 0 0 false, .hotNInput false,
      .thermalTrip, .brownOut, .pwrokFall, .rstNRelease, .bootImageVerify false false,
      .secSelftestDone false, .memoryTrained 0 0 false, .upstreamRelease 0 (0, 0, 0, false),
      .warmReset 0, .requestUpdate false 0, .transferCompletePldm false 0 0, .activateFirmware
      false, .tormalReady, .fwActTmoExpiry, .svnCommit 0, .wdtKick 0, .wdtExpiry, .mctpControl false
      0, .setEndpointId false 0, .pldmSensorRead false 0, .vendorRequest false .other, .getVersion
      false, .getCapabilities false, .negotiateAlgorithms false false, .getDigests false,
      .getCertificate false 0, .challenge false 0, .getMeasurements false 0, .keyExchange false 0,
      .finish false 0 false, .endSession false 0, .heartbeat false 0, .keyUpdate false 0,
      .perfSelWrite 0 0 0, .dbgEnter 0 0, .dbgExit 0 0, .cluDbgWrite 0 0 0, .dbgRdGo 0,
      .dbgTrcCtlWrite 0 0, .rstNAssert, .perstNRelease 0 0 0 false, .bridgeModuleTrained 0 none,
      .bridgeLaneRepair 0 0, .fscPrsntNRise 0 false, .dynamicAddressAssign 0, .i3cBusReset false,
      .doeCdatRead, .cxlSnoop 0, .msixUnmask 0 (.vec 0 false)] : List Instr).all wellFormed = true := by
  decide +kernel

/-- For each check of `wellFormed` that command with that one operand out of range (part 1 of 6). -/
theorem test_ill_formed_operands_are_refused_1 :
    ([.brgRetrain 9 0 0, .brgRetrain 0 2 0, .brgRetrain 0 0 4, .brgModEnWrite 9 0 false 0,
      .brgModEnWrite 0 2 false 0, .brgModEnWrite 0 0 false (2 ^ 32), .brgMaxRateWrite 9 0 0,
      .brgMaxRateWrite 0 2 0, .brgMaxRateWrite 0 0 4, .bridgeTransfer 2 0 0 0 0 none false,
      .bridgeTransfer 0 3 0 0 0 none false, .bridgeTransfer 0 0 16384 0 0 none false,
      .bridgeTransfer 0 0 0 16384 0 none false, .bridgeTransfer 0 0 0 0 40 none false, .bridgeReplay
      2 0, .bridgeReplay 0 40, .bridgeModuleDown 40, .clrMin 9 0, .clrMin 0 16, .handshakeTimeout
      (.load 0) 16384, .nearRecalibrate 128 false, .registerWrite 9 0 0 0, .registerWrite 0 (2 ^ 26
      + 2 ^ 15) 0 0, .registerWrite 0 0 0 (2 ^ 64), .readDenied 9 0 0, .readDenied 0 (2 ^ 26 + 2 ^
      15) 0, .unbackedAccess 9 0, .unbackedAccess 0 (2 ^ 26), .pageClaim 9 0 0, .pageClaim 0 16384
      0, .pageClaim 0 0 16, .pageRelease 9 0, .pageRelease 0 16384, .pageEnable 9 0 false,
      .pageEnable 0 16384 false, .pageHold 9 0 false, .pageHold 0 16384 false, .pageHeld 16384,
      .softReset 9 0, .softReset 0 16384, .softResetDone 16384, .softResetTimeout 16384,
      .errFirstClear 9 0, .errFirstClear 0 16384, .evtEnWrite 9 0 0, .evtEnWrite 0 16384 0,
      .evtEnWrite 0 0 (2 ^ 32), .evtSet 9 0 0, .evtSet 0 16384 0, .evtSet 0 0 (2 ^ 32), .ringLost 9,
      .evqEnable 9 0 0, .evqEnable 0 16384 0, .evqEnable 0 0 (2 ^ 32), .evqConsWrite 9 0 0,
      .evqConsWrite 0 16384 0, .evqConsWrite 0 0 (2 ^ 32), .glbStateWrite 9 0, .glbStateWrite 0 (2 ^
      32), .tbsLock 5, .bridgeTransfer 0 0 0 0 0 (some (8, 0)) false, .bridgeTransfer 0 0 0 0 0
      (some (0, 65536)) false] : List Instr).any wellFormed = false := by
  decide +kernel

/-- For each check of `wellFormed` that command with that one operand out of range (part 2 of 6). -/
theorem test_ill_formed_operands_are_refused_2 :
    ([.assign 9 0 0 0 0, .assign 0 16 0 0 0, .assign 0 0 8 0 0, .assign 0 0 0 (2 ^ 16) 0, .assign 0
      0 0 0 (2 ^ 16), .unassign 9 0 0 0 0, .unassign 0 16 0 0 0, .unassign 0 0 8 0 0, .unassign 0 0
      0 (2 ^ 16) 0, .unassign 0 0 0 0 (2 ^ 16), .enable 9 0, .enable 0 16, .reset 9 0, .reset 0 16,
      .disable 9 0, .disable 0 16, .resetEngineClear 8 0, .resetEngineClear 0 8, .prtRstTmoExpiry 8,
      .resetFinish 8, .keySlotFree 16, .vfFlr 8, .rotateMgt 9, .memRead 9 0 0 0 0 false [], .memRead
      0 16384 0 0 0 false [], .memRead 0 0 4 0 0 false [], .memRead 0 0 0 (2 ^ 48) 0 false [],
      .memWrite 9 0 0 0 [] false false, .memWrite 0 16384 0 0 [] false false, .memWrite 0 0 4 0 []
      false false, .memWrite 0 0 0 (2 ^ 48) [] false false, .memAtomic 9 0 0 0 0 [] false false [],
      .memAtomic 0 16384 0 0 0 [] false false [], .memAtomic 0 0 4 0 0 [] false false [], .memAtomic
      0 0 0 (2 ^ 48) 0 [] false false [], .shareWindow 16384, .alloc 9 0 0 0, .alloc 0 8 0 0, .alloc
      0 0 8 0, .alloc 0 0 0 4, .free 9 0, .free 0 8, .query 9 0, .query 0 8, .fxrEnable 9 0 0 0,
      .fxrEnable 0 8 0 0, .fxrEnable 0 0 16 0, .fxrEnable 0 0 0 (2 ^ 32), .fxrEnApplied 8 0,
      .fxrEnApplied 0 16, .blockEntryRead 200 0 [], .blockEntryRead 0 4 [], .tqRequestIssue 200 0,
      .tqRequestIssue 0 4, .transferComplete 200 0 0 [], .transferComplete 0 4 0 [], .bufferRequest
      200 .gather 0, .bufferRelease 200 .gather 0, .bufWaitExpiry 200, .fetchSlotGrant 48 0] : List
      Instr).any wellFormed = false := by
  decide +kernel

/-- For each check of `wellFormed` that command with that one operand out of range (part 3 of 6). -/
theorem test_ill_formed_operands_are_refused_3 :
    ([.fetchSlotGrant 0 200, .lpfGo 9 0 0, .lpfGo 0 48 0, .lpfGo 0 0 512, .lpfLoadBegin 48, .lpfDone
      48 [], .weightSwap 48, .cluWcfgWrite 9 0 0, .cluWcfgWrite 0 48 0, .cluWcfgWrite 0 0 (2 ^ 32),
      .ringShardPass 48, .coreSubstitute 9 0 0 0, .coreSubstitute 0 2 0 0, .coreSubstitute 0 0 256
      0, .coreSubstitute 0 0 0 256, .coreRetire 9 0 0, .coreRetire 0 2 0, .coreRetire 0 0 256,
      .programLoad 9 0 0 0, .programLoad 0 200 0 0, .programLoad 0 0 8192 0, .programLoad 0 0 0 (2 ^
      16), .programLoadDone 200 [], .nop 200, .get 200, .put 200 [], .jmp 200, .loop 200, .br 200,
      .stage 200, .trap 200, .seti 200, .addi 200, .add 200, .muli 200, .ld 200 .clean, .st 200,
      .strm 200, .wload 200, .gath 200, .mact 200 .clean, .vacc 200 .clean, .fuse 200, .drain 200
      .clean, .coreFltClear 9 0, .coreFltClear 0 200, .coreRunlimExpiry 200, .gatherCommandStart 200
      [], .gatherRowFetch 200 [], .gatherRowArrive 200 0 [], .embedUpdate 8 0 [], .embedUpdate 0
      65536 [], .requant 8 0 [], .requant 0 65536 [], .migrateRows 8 0 [], .migrateRows 0 65536 [],
      .rowMoveRedirect 8 0 0 [], .rowMoveRedirect 0 65536 0 [], .rowMoveFinish 8 0 0 [],
      .rowMoveFinish 0 65536 0 []] : List Instr).any wellFormed = false := by
  decide +kernel

/-- For each check of `wellFormed` that command with that one operand out of range (part 4 of 6). -/
theorem test_ill_formed_operands_are_refused_4 :
    ([.load 8, .loadCommit 8 [], .signal 8, .link 8, .unload 8, .retry 8, .schCmdGo 9 0 0, .schCmdGo
      0 8 0, .schCmdGo 0 0 (2 ^ 32), .flowcfgWrite 9 0 0, .flowcfgWrite 0 8 0, .flowcfgWrite 0 0 (2
      ^ 32), .grant 8 [], .epochApply 8 [], .delayExpiry 8 [], .move 200 [], .reshard 200 [],
      .completion 8 0 [], .completion 0 65536 [], .operationFault 8 0 0 none [], .operationFault 0
      65536 0 none [], .operationFault 0 0 256 none [], .tokenize 8 0 [], .tokenize 0 65536 [],
      .vocabLoad 9 0, .vocabLoad 0 4, .vocabLoadDone 4 0 [], .vocabLoadDone 0 4 [], .tokVslotWrite 9
      0 0, .tokVslotWrite 0 4 0, .tokVslotWrite 0 0 (2 ^ 32), .tokStrmCtlWrite 9 0 0,
      .tokStrmCtlWrite 0 4 0, .tokStrmCtlWrite 0 0 (2 ^ 32), .detokenize 8 0 [], .detokenize 0 65536
      [], .constrainMask 8 0 [], .constrainMask 0 65536 [], .constrainAdvance 8 0 [],
      .constrainAdvance 0 65536 [], .stopSetLoad 9 0 0 0, .stopSetLoad 0 4 0 0, .stopSetLoad 0 0 16
      0, .stopSetLoad 0 0 0 512, .stopSetLoadDone 4 0 [], .stopSetLoadDone 0 320 [], .pause 9 0,
      .pause 0 16, .pauseQuiesced 8, .ckpQtmoExpiry 8, .capture 9 0 false false, .capture 0 16 false
      false, .checkpoint 8 [], .checkpointCaptureStart 8 [], .resume 9 0 false, .resume 0 16 false,
      .restore 9 0 [], .restore 0 16 [], .abort 9 0, .abort 0 16] : List Instr).any wellFormed =
      false := by
  decide +kernel

/-- For each check of `wellFormed` that command with that one operand out of range (part 5 of 6). -/
theorem test_ill_formed_operands_are_refused_5 :
    ([.hold 64 0 [], .hold 0 (2 ^ 128) [], .holdDone 64 0 [], .holdDone 0 (2 ^ 128) [], .cut 64 0
      [], .cut 0 (2 ^ 128) [], .cutDone 64 0 [], .cutDone 0 (2 ^ 128) [], .releaseCut 64 0 [],
      .releaseCut 0 (2 ^ 128) [], .abortCut 64 0 [], .abortCut 0 (2 ^ 128) [], .ckpDtmoExpiry 8,
      .ikeyLoad 9 0, .ikeyLoad 0 16, .ikeyClear 9 0, .ikeyClear 0 16, .linkTrainStart 9 0 0,
      .linkTrainStart 0 64 0, .linkTrainStart 0 0 (2 ^ 32), .linkStop 9 0 0, .linkStop 0 64 0,
      .linkStop 0 0 (2 ^ 32), .ts1 64 [], .ts2 64 [], .eqreq 64 [], .eqack 64 [], .trainStepDone 64,
      .linkUp 64, .trainFail 64, .laneFault 64 0, .laneFault 0 5, .recoveryEnd 64, .dataFlit 64 [] 0
      0, .nopFlit 64 [] 0 0, .creditInit 64 [], .recover 64 [], .nopInsert 64, .replayTimerExpiry
      64, .read 64 0 [] [], .read 0 (2 ^ 128) [] [], .write 64 0 [], .write 0 (2 ^ 128) [], .atomic
      64 0 [] [], .atomic 0 (2 ^ 128) [] [], .message 64 0 [], .message 0 (2 ^ 128) [], .event 64 0
      [], .event 0 (2 ^ 128) [], .tstream 64 0 [] [], .tstream 0 (2 ^ 128) [] [], .cpl 64 0 [], .cpl
      0 (2 ^ 128) [], .lnkRtmoExpiry 16384, .tagQuarantineEnd 16384, .lnkXctlGo 9 0 0, .lnkXctlGo 0
      64 0, .lnkXctlGo 0 0 (2 ^ 32), .sqTailWrite 8 0 0, .sqTailWrite 0 4 0] : List Instr).any
      wellFormed = false := by
  decide +kernel

/-- For each check of `wellFormed` that command with that one operand out of range (part 6 of 6). -/
theorem test_ill_formed_operands_are_refused_6 :
    ([.sqTailWrite 0 0 (2 ^ 32), .sqFetch 8 [] 0, .cqWrite 8 0, .cqWrite 0 4, .completionInterrupt 8
      0, .completionInterrupt 0 4, .qCfgWrite 8 0 0, .qCfgWrite 0 4 0, .qCfgWrite 0 0 (2 ^ 32),
      .hostWindowRead 16 0 0 false false [], .hostWindowWrite 16 0 [] false false false,
      .atsInvalidate 9 0 0, .fscPresent 4, .fscPerstRelease 4, .fscTrainCheck 4 none, .portLost 4
      false, .fscAccept 9 0 0, .fscAccept 0 4 0, .fscDrain 9 0, .fscDrain 0 4, .fscDrained 4,
      .fscPowerWrite 9 0 false, .fscPowerWrite 0 4 false, .scrubLine 16384 0 .clean false,
      .rowRepair 16384 [] false, .rasFence 9 0, .rasFence 0 16384, .rasLogPop 9, .loopInterval 2
      none 0 0 0 0 false, .memoryTrained 16384 0 false, .warmReset 9, .svnCommit 9, .wdtKick 9,
      .mctpControl false 256, .setEndpointId false 256, .perfSelWrite 9 0 0, .perfSelWrite 0 16384
      0, .perfSelWrite 0 0 (2 ^ 32), .dbgEnter 9 0, .dbgEnter 0 8, .dbgExit 9 0, .dbgExit 0 8,
      .cluDbgWrite 9 0 0, .cluDbgWrite 0 48 0, .cluDbgWrite 0 0 (2 ^ 32), .dbgRdGo 9,
      .dbgTrcCtlWrite 9 0, .dbgTrcCtlWrite 0 (2 ^ 32), .bridgeModuleTrained 40 none,
      .bridgeLaneRepair 2 0, .bridgeLaneRepair 0 40, .fscPrsntNRise 4 false, .dynamicAddressAssign
      128, .cxlSnoop (2 ^ 64), .msixUnmask 9 (.vec 0 false), .msixUnmask 0 (.vec 64 false)] : List
      Instr).any wellFormed = false := by
  decide +kernel

/-! ## Results the spec states, one step each -/

/-- The state after one command, where it answers a next state. -/
def after (c : Instr) (s : State) : Option State :=
  match exec c s with
  | .next t => some t
  | _ => none

/-- R38: the PLL's lock sets TBS_STS.LOCK. -/
theorem test_tbs_lock : (after (.tbsLock 0) dev).map (fun t => t.f pTBS F.TBS_STS_LOCK) = some 1 := by decide +kernel
/-- R701: nothing locks in a device that is held in cold reset. -/
theorem test_held_device_does_not_lock : (after (.tbsLock 0) State.reset).map (fun t => decide (t = State.reset)) = some true := by
  decide +kernel
/-- R48: 1,000 ns is the least value PG_TMO_NS takes; 999 is refused with 0x01 and changes nothing. -/
theorem test_timeout_range :
    (after (.registerWrite 14 (pTBS * 4096 + R.PG_TMO_NS) 4 1000) (own 14 pTBS dev)).map (fun t => t.w pTBS R.PG_TMO_NS) = some 1000 ∧
    (after (.registerWrite 14 (pTBS * 4096 + R.PG_TMO_NS) 4 999) (own 14 pTBS dev)).map
      (fun t => (t.w pTBS R.PG_TMO_NS == dev.w pTBS R.PG_TMO_NS, t.f pTBS F.PG_WREJ_OFS_CODE)) = some (true, 1) := by
  decide +kernel
/-- R83: PG_OWNER holds CLAIMED (bit 31) and the owner after a claim. -/
theorem test_claim : (after (.pageClaim 14 pTBS 14) dev).map (fun t => t.w pTBS R.PG_OWNER) = some 0x8000000E := by
  decide +kernel
/-- Core 0 of `devP` at program store entry 0 with one instruction, I2 being 5. -/
def coreAt (w : Nat) : State := coreS { running := true, pc := 0, prog := [(0, some w)], idx := [(2, 5)] }
/-- Table 07-7: ADDI (0x09), Ia 3 in [57:54], Ib 2 in [53:50], SIMM -6: I3 becomes 5 - 6 modulo 2^64, PC 1. -/
theorem test_addi_sign_extends :
    (after (.addi 0) (coreAt (0x09 * 2 ^ 58 + 3 * 2 ^ 54 + 2 * 2 ^ 50 + 0xFFFFFFFA))).map (fun t => (t.ireg 0 3, (t.core 0).pc)) =
      some (0xFFFFFFFFFFFFFFFF, 1) := by decide +kernel
/-- Table 07-7: SETI (0x08), Ia 3, IMM 0xFFFFFFFFFFFF: I3 is zero-extended. -/
theorem test_seti_zero_extends :
    (after (.seti 0) (coreAt (0x08 * 2 ^ 58 + 3 * 2 ^ 54 + 0xFFFFFFFFFFFF))).map (fun t => t.ireg 0 3) = some 0xFFFFFFFFFFFF := by
  decide +kernel
/-- Table 07-7: LOOP (0x04), Ia 2: I2 becomes 4 and PC becomes TGT 77. -/
theorem test_loop_branches :
    (after (.loop 0) (coreAt (0x04 * 2 ^ 58 + 2 * 2 ^ 54 + 77))).map (fun t => (t.ireg 0 2, (t.core 0).pc)) = some (4, 77) := by
  decide +kernel
/-- Table 05-7: a 4 B ADD of 2 to 0xFFFFFFFF leaves 1. -/
theorem test_atomic_add_wraps :
    (after (.memAtomic 1 0x1000 1 0x100000 0x01 [(0, 2)] true true []) (bytesAt 1 1 0x100000 [0xFF, 0xFF, 0xFF, 0xFF] devP)).map
      (fun t => leNat (dataOf (t.readBytes (t.slotFor 1) 1 0x100000 4))) = some 1 := by decide +kernel
/-- Log entry 2: with no command waiting a nanosecond of TBS_NOW passes while LOCK is 1. -/
theorem test_idle_step_counts :
    (match step (dev.setF pTBS F.TBS_STS_LOCK 1) with | .next t => t.tb.now0 | _ => 0) = 1 := by decide +kernel
/-- A step takes the front command and leaves the rest of the queue. -/
theorem test_front_command_runs :
    (match step { dev with pending := [.tbsLock 0, .skewMeasure] } with
      | .next t => (t.f pTBS F.TBS_STS_LOCK, t.pending) | _ => (0, [])) = (1, [.skewMeasure]) := by decide +kernel
/-- FIPS 197, C.3: AES-256 with key 00 01 … 1F of the block 00 11 … FF. -/
theorem test_aes_256 : aesBlock (aesKeys (List.range 32)) ((List.range 16).map (17 * ·)) =
    [0x8E, 0xA2, 0xB7, 0xCA, 0x51, 0x67, 0x45, 0xBF, 0xEA, 0xFC, 0x49, 0x90, 0x4B, 0x49, 0x60, 0x89] := by decide +kernel
/-- Test case 13 of the specification of GCM: AES-256, all zero, nothing to seal. -/
theorem test_gcm_tag : gcmSeal 0 (List.replicate 12 0) [] [] =
    ([], [0x53, 0x0F, 0x8A, 0xFB, 0xC7, 0x45, 0x36, 0xB9, 0xA9, 0x63, 0xB4, 0xF1, 0xC4, 0xCB, 0x73, 0x8B]) := by decide +kernel
/-- Its test case 14: 16 zero bytes. -/
theorem test_gcm_block : gcmSeal 0 (List.replicate 12 0) [] (List.replicate 16 0) =
    ([0xCE, 0xA7, 0x40, 0x3D, 0x4D, 0x60, 0x6B, 0x6E, 0x07, 0x4E, 0xC5, 0xD3, 0xBA, 0xF3, 0x9D, 0x18],
     [0xD0, 0xD1, 0xC8, 0xA7, 0x99, 0x99, 0x6B, 0xF0, 0x26, 0x5B, 0x98, 0xB5, 0xD4, 0x8A, 0xB9, 0x19]) := by decide +kernel

/-! ## Each statement's hypotheses can be met -/

theorem met_AStepRunsTheFrontCommand :
    (∃ c : Instr, ∃ rest : List Instr, ∃ s : State, s.pending = c :: rest) ∧
    (∃ s : State, s.pending = [] ∧ s.linksWaiting = [] ∧ s.partsWaiting = [] ∧ s.ckpWaits = false) := by
  refine ⟨
    ⟨.thermalTrip, [.brownOut], { dev with pending := [.thermalTrip, .brownOut] }, ?_⟩,
    ⟨dev, ?_⟩⟩ <;> decide +kernel

theorem met_ResetLeavesTheResetState :
    (∃ p, p < 8) := by
  refine
    ⟨7, ?_⟩ <;> decide +kernel

theorem met_EveryStepKeepsTheCanonicalForm :
    (∃ s : State, ∃ t, s.wf = true ∧ step s = .next t) := by
  refine
    ⟨State.reset, State.reset, ?_, rfl⟩ <;> decide +kernel

theorem met_CommandsLeaveTheQueueAndADeadDeviceAlone :
    (∃ c : Instr, wellFormed c = false) ∧
    (∃ c : Instr, ∃ s : State, s.dead = true ∧ wakes c = false) := by
  refine ⟨
    ⟨.ts1 64 [], ?_⟩,
    ⟨.ts1 0 [], State.reset, ?_⟩⟩ <;> decide +kernel

theorem met_TimebaseCommandsActOnTheirRegisters :
    (∃ s : State, ∃ late : Nat, s.dead = false ∧ late ≤ 4 ∧ s.f pTBS F.TBS_STS_LOCK = 0 ∧ s.f pMGT F.MGT_STS_STAGE = 3) ∧
    (∃ s : State, ∃ late : Nat, s.dead = false ∧ late ≤ 4 ∧ s.f pTBS F.TBS_STS_LOCK = 0 ∧ s.f pMGT F.MGT_STS_STAGE ≠ 3) ∧
    (∃ s : State, ∃ late : Nat, s.dead = false ∧ late ≤ 4 ∧ s.f pTBS F.TBS_STS_LOCK = 1) ∧
    (∃ s : State, s.dead = false ∧ s.f pTBS F.TBS_STS_LOCK = 1 ∧ s.tb.measAt + 1000000 ≤ s.now) ∧
    (∃ s : State, s.dead = false ∧ s.now < s.tb.measAt + 1000000) ∧
    (∃ s : State, ∃ rate0 rate1 : Nat, s.dead = false ∧ rate0 < 65536 ∧ rate1 < 65536 ∧ s.f pTBS F.TBS_STS_LOCK = 1 ∧
      s.tb.evrAt + 2 ^ s.tb.evrWin * 1000 ≤ s.now) ∧
    (∃ s : State, ∃ m win : Nat, s.dead = false ∧ okMaster m = true ∧ s.reaches m pTBS = true ∧ s.mayWrite m pTBS = true ∧
      s.rstBusy pTBS = false ∧ win ≤ 10) ∧
    (∃ s : State, s.dead = false ∧ s.f pTBS F.TBS_STS_HOLDOVER = 0) ∧
    (∃ s : State, s.dead = false ∧ s.f pTBS F.TBS_STS_HOLDOVER = 1) ∧
    (∃ s : State, ∃ ch : Nat, s.dead = false ∧ ch < 128) := by
  refine ⟨
    ⟨dev.setF pMGT F.MGT_STS_STAGE 3, 4, ?_⟩,
    ⟨dev, 0, ?_⟩,
    ⟨(dev |>.setF pTBS F.TBS_STS_LOCK 1), 0, ?_⟩,
    ⟨atNow 1000000 (dev.setF pTBS F.TBS_STS_LOCK 1), ?_⟩,
    ⟨dev, ?_⟩,
    ⟨atNow 16000 (dev.setF pTBS F.TBS_STS_LOCK 1), 3, 65535, ?_⟩,
    ⟨dev, 14, 10, ?_⟩,
    ⟨dev, ?_⟩,
    ⟨(dev |>.setF pTBS F.TBS_STS_HOLDOVER 1), ?_⟩,
    ⟨dev, 127, ?_⟩⟩ <;> decide +kernel

theorem met_BridgeControlKeepsTrafficMoving :
    (∃ s : State, ∃ m die rate : Nat, s.dead = false ∧ okMaster m = true ∧ die < 2 ∧ rate < 3 ∧ s.reaches m (pBRG die) = true ∧
      s.mayWrite m (pBRG die) = true ∧ s.rstBusy (pBRG die) = false ∧ s.bridge.retrain = []) ∧
    (∃ s : State, ∃ m die rate : Nat, s.dead = false ∧ okMaster m = true ∧ die < 2 ∧ rate < 3 ∧ s.reaches m (pBRG die) = true ∧
      s.mayWrite m (pBRG die) = true ∧ s.rstBusy (pBRG die) = false ∧ s.upMods ≠ []) ∧
    (∃ s : State, ∃ m die rate : Nat, s.dead = false ∧ okMaster m = true ∧ die < 2 ∧ rate < 3 ∧ s.reaches m (pBRG die) = true ∧
      s.mayWrite m (pBRG die) = true ∧ s.rstBusy (pBRG die) = false ∧ rate = s.f (pBRG die) F.BRG_CTL_MAX_RATE) ∧
    (∃ s : State, ∃ m die rate : Nat, s.dead = false ∧ okMaster m = true ∧ die < 2 ∧ rate < 3 ∧ s.reaches m (pBRG die) = true ∧
      s.mayWrite m (pBRG die) = true ∧ s.rstBusy (pBRG die) = false ∧ rate ≠ s.f (pBRG die) F.BRG_CTL_MAX_RATE) ∧
    (∃ s : State, ∃ m die : Nat, ∃ hi : Bool, ∃ v : Nat, s.dead = false ∧ okMaster m = true ∧ die < 2 ∧
      (v < (if hi then 256 else 2 ^ 32)) ∧ s.reaches m (pBRG die) = true ∧ s.mayWrite m (pBRG die) = true ∧
      s.rstBusy (pBRG die) = false ∧ (v ≠ 0 ∨ s.w (pBRG die) (if hi then R.BRG_MOD_EN_LO else R.BRG_MOD_EN_HI) ≠ 0) ∧
      s.bridge.retrain = []) ∧
    (∃ s : State, ∃ m die : Nat, ∃ hi : Bool, ∃ v : Nat, s.dead = false ∧ okMaster m = true ∧ die < 2 ∧
      (v < (if hi then 256 else 2 ^ 32)) ∧ s.reaches m (pBRG die) = true ∧ s.mayWrite m (pBRG die) = true ∧
      s.rstBusy (pBRG die) = false ∧ (v ≠ 0 ∨ s.w (pBRG die) (if hi then R.BRG_MOD_EN_LO else R.BRG_MOD_EN_HI) ≠ 0) ∧
      s.upMods ≠ []) ∧
    (∃ s : State, ∃ m die : Nat, ∃ hi : Bool, s.dead = false ∧ okMaster m = true ∧ die < 2 ∧ s.reaches m (pBRG die) = true ∧
      s.mayWrite m (pBRG die) = true ∧ (s.w (pBRG die) (if hi then R.BRG_MOD_EN_LO else R.BRG_MOD_EN_HI) = 0)) := by
  refine ⟨
    ⟨{ dev with bridge := { trained := 0x3 } }, 14, 1, 2, ?_⟩,
    ⟨{ dev with bridge := { trained := 0x3 } }, 14, 1, 2, ?_⟩,
    ⟨{ dev with bridge := { trained := 0x3 } }, 14, 1, 0, ?_⟩,
    ⟨{ dev with bridge := { trained := 0x3 } }, 14, 1, 2, ?_⟩,
    ⟨{ dev with bridge := { trained := 0x3 } }, 14, 1, true, 255, ?_⟩,
    ⟨{ dev with bridge := { trained := 0x3 } }, 14, 1, true, 255, ?_⟩,
    ⟨dev.setW (pBRG 1) R.BRG_MOD_EN_LO 0, 14, 1, true, ?_⟩⟩ <;> decide +kernel

theorem met_BridgeTransfersAreNeitherLostNorDuplicated :
    (∃ s : State, ∃ die cls src dst mod : Nat, ∃ dep : Option (Nat × Nat), s.dead = false ∧ die < 2 ∧ cls < 3 ∧ src < 16384 ∧
      dst < 16384 ∧ mod < 40 ∧ okDep dep = true ∧ s.modUp mod = true ∧ s.takesWork (pBRG die) = true ∧
      s.bridgeCredit die cls src dst = true ∧ cls = 0) ∧
    (∃ s : State, ∃ die cls src dst mod : Nat, ∃ dep : Option (Nat × Nat), s.dead = false ∧ die < 2 ∧ cls < 3 ∧ src < 16384 ∧
      dst < 16384 ∧ mod < 40 ∧ okDep dep = true ∧ s.modUp mod = true ∧ s.takesWork (pBRG die) = true ∧
      s.bridgeCredit die cls src dst = true ∧ cls = 1) ∧
    (∃ s : State, ∃ die cls src dst mod : Nat, ∃ dep : Option (Nat × Nat), s.dead = false ∧ die < 2 ∧ cls < 3 ∧ src < 16384 ∧
      dst < 16384 ∧ mod < 40 ∧ okDep dep = true ∧ s.modUp mod = true ∧ s.takesWork (pBRG die) = true ∧
      s.bridgeCredit die cls src dst = true ∧ cls = 2) ∧
    (∃ s : State, ∃ die cls src dst mod : Nat, ∃ dep : Option (Nat × Nat), s.dead = false ∧ die < 2 ∧ cls < 3 ∧ src < 16384 ∧
      dst < 16384 ∧ mod < 40 ∧ okDep dep = true ∧ (s.bridgeCredit die cls src dst = false ∨ s.takesWork (pBRG die) = false)) ∧
    (∃ s : State, ∃ die cls src dst mod : Nat, ∃ dep : Option (Nat × Nat), ∃ pre post : List BridgeXfer, ∃ x : BridgeXfer,
      s.dead = false ∧ die < 2 ∧ cls < 3 ∧ src < 16384 ∧ dst < 16384 ∧ mod < 40 ∧ okDep dep = true ∧
      s.bridge.inFlight = pre ++ x :: post ∧ (x.die = die ∧ x.cls = cls ∧ x.src = src ∧ x.dst = dst) ∧ (∀ y ∈ pre,
      ¬(y.die = die ∧ y.cls = cls ∧ y.src = src ∧ y.dst = dst)) ∧ (∀ y ∈ pre ++ post, y.id ≠ x.id)) ∧
    (∃ s : State, ∃ mod : Nat, s.dead = false ∧ mod < 40 ∧ s.modUp mod = true ∧ s.upMods ≠ [mod]) ∧
    (∃ s : State, ∃ mod : Nat, s.dead = false ∧ mod < 40 ∧ s.modUp mod = true ∧ s.upMods = [mod]) ∧
    (∃ s : State, ∃ mod rate : Nat, s.dead = false ∧ mod < 40 ∧ rate ≤ 2 ∧ bit s.bridge.trained mod = false ∧
      s.f (pBRG 0) F.BRG_CTL_MAX_RATE ≤ rate ∧ s.f (pBRG 1) F.BRG_CTL_MAX_RATE ≤ rate) ∧
    (∃ s : State, ∃ mod : Nat, s.dead = false ∧ mod < 40 ∧ bit s.bridge.trained mod = false ∧ 6 < s.f pMGT F.MGT_STS_STAGE ∧
      s.upMods = []) := by
  refine ⟨
    ⟨{ on (pBRG 0) dev with bridge := { trained := 0x3, owed := [(0, 3, 4)] } }, 0, 0, 3, 4, 1, none, ?_⟩,
    ⟨{ on (pBRG 0) dev with bridge := { trained := 0x3 } }, 0, 1, 3, 4, 1, some (1, 5), ?_⟩,
    ⟨{ on (pBRG 0) dev with bridge := { trained := 0x3 } }, 0, 2, 3, 4, 1, none, ?_⟩,
    ⟨{ dev with bridge := { trained := 0x3 } }, 0, 2, 3, 4, 1, none, ?_⟩,
    ⟨{ dev with bridge := { inFlight := [{ id := 7, cls := 2, src := 3, dst := 4, die := 0, mod := 3 }] } }, 0, 2, 3, 4, 3,
      none, [], [], { id := 7, cls := 2, src := 3, dst := 4, die := 0, mod := 3 }, ?_⟩,
    ⟨{ dev with bridge := { trained := 0x3 } }, 1, ?_⟩,
    ⟨{ dev with bridge := { trained := 2 } }, 1, ?_⟩,
    ⟨dev, 39, 2, ?_⟩,
    ⟨dev.setF pMGT F.MGT_STS_STAGE 7, 3, ?_⟩⟩ <;> decide +kernel

theorem met_PageClaimsFollowOwnership :
    (∃ s : State, ∃ m pg owner : Nat, s.dead = false ∧ okMaster m = true ∧ pg < 16384 ∧ owner < 16 ∧ s.reaches m pg = true ∧
      (s.mayClaim m pg = false ∨ ∃ o, s.ownerOf pg = some o ∧ o ≠ m)) ∧
    (∃ s : State, ∃ m pg owner : Nat, s.dead = false ∧ okMaster m = true ∧ pg < 16384 ∧ owner < 16 ∧ owner ≠ m ∧
      s.mayClaim m pg = true ∧ (s.ownerOf pg = none ∨ s.ownerOf pg = some m)) ∧
    (∃ s : State, ∃ m pg : Nat, s.dead = false ∧ okMaster m = true ∧ pg < 16384 ∧ s.reaches m pg = true ∧
      (s.ownerOf pg = some m ∨ m = oTormal)) := by
  refine ⟨
    ⟨own 15 0x20 dev, 14, 0x20, 15, ?_⟩,
    ⟨dev, 14, 0x20, 15, ?_⟩,
    ⟨dev, 14, 0x20, ?_⟩⟩ <;> decide +kernel

theorem met_PageControlStartsAndHoldsBlocks :
    (∃ s : State, ∃ m pg : Nat, s.dead = false ∧ okMaster m = true ∧ pg < 16384 ∧ s.reaches m pg = true ∧
      s.mayWrite m pg = true ∧ s.rstBusy pg = false ∧ s.f pg F.PG_CTL_EN = 0 ∧ (∀ l, pageInfo pg ≠ some (.lnk, l)) ∧ (∀ c,
      pageInfo pg ≠ some (.core, c))) ∧
    (∃ s : State, ∃ m c : Nat, s.dead = false ∧ okMaster m = true ∧ pageInfo (pCORE c) = some (.core, c) ∧
      s.reaches m (pCORE c) = true ∧ s.mayWrite m (pCORE c) = true ∧ s.rstBusy (pCORE c) = false ∧
      s.f (pCORE c) F.PG_CTL_EN = 0 ∧ s.f (pCORE c) F.CORE_PLD_STS_VALID = 1) ∧
    (∃ s : State, ∃ m c : Nat, s.dead = false ∧ okMaster m = true ∧ pageInfo (pCORE c) = some (.core, c) ∧
      s.reaches m (pCORE c) = true ∧ s.mayWrite m (pCORE c) = true ∧ s.f (pCORE c) F.PG_CTL_EN = 0 ∧
      s.f (pCORE c) F.CORE_PLD_STS_VALID = 0) ∧
    (∃ s : State, ∃ m pg : Nat, s.dead = false ∧ okMaster m = true ∧ pg < 16384 ∧ s.reaches m pg = true ∧
      s.mayWrite m pg = true ∧ s.rstBusy pg = false ∧ s.f pg F.PG_CTL_EN = 1 ∧ s.idle pg = true ∧ (∀ l,
      pageInfo pg ≠ some (.lnk, l)) ∧ (∀ c, pageInfo pg ≠ some (.core, c))) ∧
    (∃ s : State, ∃ m pg : Nat, s.dead = false ∧ okMaster m = true ∧ pg < 16384 ∧ s.reaches m pg = true ∧
      s.mayWrite m pg = true ∧ s.f pg F.PG_CTL_EN = 1 ∧ s.idle pg = false) ∧
    (∃ s : State, ∃ m pg : Nat, ∃ hold : Bool, s.dead = false ∧ okMaster m = true ∧ pg < 16384 ∧ s.reaches m pg = true ∧
      (s.mayWrite m pg = true ∨ m = oTormal) ∧ s.rstBusy pg = false ∧ (∀ l, pageInfo pg ≠ some (.lnk, l)) ∧ hold = false) ∧
    (∃ s : State, ∃ pg : Nat, s.dead = false ∧ pg < 16384 ∧ s.f pg F.PG_CTL_HOLD = 1 ∧ s.idle pg = true) := by
  refine ⟨
    ⟨dev, 14, 0x20, ?_, ?_, ?_, ?_, ?_, ?_, ?_, info_ne (?_), info_ne (?_)⟩,
    ⟨(dev |>.setF (pCORE 0) F.CORE_PLD_STS_VALID 1), 14, 0, ?_⟩,
    ⟨dev, 14, 0, ?_⟩,
    ⟨on 0x20 dev, 14, 0x20, ?_, ?_, ?_, ?_, ?_, ?_, ?_, ?_, info_ne (?_), info_ne (?_)⟩,
    ⟨({ dev with ckp := { run := some { op := 1, part := 0 } } } |>.setF 0x28 F.PG_CTL_EN 1), 14, 0x28, ?_⟩,
    ⟨dev, 14, 0x20, false, ?_, ?_, ?_, ?_, ?_, ?_, info_ne (?_), rfl⟩,
    ⟨(dev |>.setF 0x28 F.PG_CTL_HOLD 1), 0x28, ?_⟩⟩ <;> decide +kernel

theorem met_SoftResetRunsToItsEnd :
    (∃ s : State, ∃ m pg : Nat, s.dead = false ∧ okMaster m = true ∧ pg < 16384 ∧ s.reaches m pg = true ∧
      (s.mayWrite m pg = true ∨ m = oTormal) ∧ s.rstBusy pg = false) ∧
    (∃ s : State, ∃ m pg : Nat, s.dead = false ∧ okMaster m = true ∧ pg < 16384 ∧ s.reaches m pg = true ∧
      (s.mayWrite m pg = true ∨ m = oTormal) ∧ s.rstBusy pg = true) ∧
    (∃ s : State, ∃ pg : Nat, ∃ i : Issued, s.dead = false ∧ pg < 16384 ∧ s.rstAt.get pg none = some i ∧
      s.nowOn (dieOfPage pg) ≤ i.since + i.tmo + 512) ∧
    (∃ s : State, ∃ pg : Nat, ∃ i : Issued, s.dead = false ∧ pg < 16384 ∧ s.rstAt.get pg none = some i ∧
      i.since + i.tmo + 512 < s.nowOn (dieOfPage pg)) ∧
    (∃ s : State, ∃ pg : Nat, ∃ i : Issued, s.dead = false ∧ pg < 16384 ∧ s.rstAt.get pg none = some i ∧
      s.nowOn (dieOfPage pg) < i.since + i.tmo) ∧
    (∃ s : State, ∃ pg : Nat, ∃ i : Issued, s.dead = false ∧ pg < 16384 ∧ s.rstAt.get pg none = some i ∧
      i.since + i.tmo ≤ s.nowOn (dieOfPage pg)) := by
  refine ⟨
    ⟨dev, 14, 0x400, ?_⟩,
    ⟨dev.setF 0x400 F.PG_STS_RST_BUSY 1, 14, 0x400, ?_⟩,
    ⟨{ atNow 0 dev with rstAt := [(0x400, some { since := 0, tmo := 1000 })] }, 0x400, { since := 0, tmo := 1000 }, ?_⟩,
    ⟨{ atNow 1513 dev with rstAt := [(0x400, some { since := 0, tmo := 1000 })] }, 0x400, { since := 0, tmo := 1000 }, ?_⟩,
    ⟨{ atNow 0 dev with rstAt := [(0x400, some { since := 0, tmo := 1000 })] }, 0x400, { since := 0, tmo := 1000 }, ?_⟩,
    ⟨{ atNow 1513 dev with rstAt := [(0x400, some { since := 0, tmo := 1000 })] }, 0x400, { since := 0, tmo := 1000 }, ?_⟩⟩ <;> decide +kernel

theorem met_PageHeaderWritesTakeEffect :
    (∃ s : State, ∃ m pg v : Nat, s.dead = false ∧ okMaster m = true ∧ pg < 16384 ∧ v < 2 ^ 32 ∧ s.reaches m pg = true ∧
      s.mayWrite m pg = true ∧ bits v 15 3 = 0) ∧
    (∃ s : State, ∃ m pg v : Nat, s.dead = false ∧ okMaster m = true ∧ pg < 16384 ∧ v < 2 ^ 14 ∧ s.reaches m pg = true ∧
      s.mayWrite m pg = true ∧ perfSelOk pg v = true ∧ (bits v 11 0 ≠ s.f pg F.PG_PERF_SEL_SEL ∨ bit v 13 = true)) ∧
    (∃ s : State, ∃ v : Nat, s.dead = false ∧ s.mayWrite oTormal pGLB = true ∧ s.rstBusy pGLB = false ∧ s.failed = false ∧
      (v = 1 ∨ v = 2 ∨ v = 4)) ∧
    (∃ s : State, ∃ m v : Nat, s.dead = false ∧ okMaster m = true ∧ s.reaches m pGLB = true ∧ s.mayWrite m pGLB = true ∧
      s.failed = true ∧ (v = 1 ∨ v = 2 ∨ v = 4)) := by
  refine ⟨
    ⟨dev, 14, 0x20, 2 ^ 16 + 4, ?_⟩,
    ⟨dev, 14, 0x20, 2 ^ 12 + 1, ?_⟩,
    ⟨dev, 4, ?_⟩,
    ⟨dev.setF pGLB F.GLB_STATE_STATE 3, 14, 1, ?_⟩⟩ <;> decide +kernel

theorem met_WritesWithoutOwnershipAreRefusedWhole :
    (∃ s : State, ∃ m pg o v : Nat, s.dead = false ∧ okMaster m = true ∧ pg < 16384 ∧ 0x100 ≤ o ∧ o < 4096 ∧ o % 4 = 0 ∧
      v < 2 ^ 32 ∧ s.reaches m pg = true ∧ s.mayWrite m pg = false) := by
  refine
    ⟨own 15 0x20 dev, 14, 0x20, 0x100, 1, ?_⟩ <;> decide +kernel

theorem met_TimeoutRegisterAcceptsItsRange :
    (∃ s : State, ∃ m pg v : Nat, s.dead = false ∧ okMaster m = true ∧ pg < 16384 ∧ v < 2 ^ 32 ∧ s.reaches m pg = true ∧
      s.mayWrite m pg = true) := by
  refine
    ⟨dev, 14, 0x20, 4000000000, ?_⟩ <;> decide +kernel

theorem met_ReadsFollowTheReadRights :
    (∃ s : State, ∃ m pg o : Nat, s.dead = false ∧ okMaster m = true ∧ pg < 16384 ∧ o < 4096 ∧ o % 4 = 0 ∧
      s.reaches m pg = true ∧ s.readOk m pg o = true) ∧
    (∃ s : State, ∃ m pg o : Nat, s.dead = false ∧ okMaster m = true ∧ pg < 16384 ∧ o < 4096 ∧ o % 4 = 0 ∧
      s.reaches m pg = true ∧ s.readOk m pg o = false) ∧
    (∃ s : State, ∃ m ofs : Nat, s.dead = false ∧ okMaster m = true ∧ ofs < 2 ^ 26 ∧ s.reaches m (ofs / 4096) = false) := by
  refine ⟨
    ⟨dev, 14, 0x20, 0x100, ?_⟩,
    ⟨own 14 0x2 dev, 15, 0x2, 0x140, ?_⟩,
    ⟨dev, 14, 0x3FFFFFC, ?_⟩⟩ <;> decide +kernel

theorem met_GrantedRecordsReachTheirRing :
    (∃ s : State, ∃ n : Nat, ∃ r : EvRec, ∃ o pg : Nat, let sp := s.f pg F.EVQ_BASE_LO_SPACE; s.dead = false ∧
      s.ev.waiting[n]? = some r ∧ r.sig = none ∧ (∀ x ∈ s.ev.waiting.take n, x.page ≠ r.page) ∧
      mayGrant s.ev.turns s.evPages r.page = true ∧ s.recipients r = [o] ∧ ringPage o = some pg ∧ s.ev.owed.get o 0 = 0 ∧
      (s.evqOn pg = false ∨ s.evqRoom pg = false ∨ sp = 0 ∨ sp = 3) ∧ s.evqOn pg = true ∧ s.evqRoom pg = true ∧ sp = 0) ∧
    (∃ s : State, ∃ n : Nat, ∃ r : EvRec, ∃ o pg : Nat, let sp := s.f pg F.EVQ_BASE_LO_SPACE; s.dead = false ∧
      s.ev.waiting[n]? = some r ∧ r.sig = none ∧ (∀ x ∈ s.ev.waiting.take n, x.page ≠ r.page) ∧
      mayGrant s.ev.turns s.evPages r.page = true ∧ s.recipients r = [o] ∧ ringPage o = some pg ∧ s.ev.owed.get o 0 = 0 ∧
      (s.evqOn pg = false ∨ s.evqRoom pg = false ∨ sp = 0 ∨ sp = 3) ∧ s.evqOn pg = true ∧ s.evqRoom pg = false) ∧
    (∃ s : State, ∃ n : Nat, ∃ r : EvRec, ∃ o pg : Nat, let sp := s.f pg F.EVQ_BASE_LO_SPACE; s.dead = false ∧
      s.ev.waiting[n]? = some r ∧ r.sig = none ∧ (∀ x ∈ s.ev.waiting.take n, x.page ≠ r.page) ∧
      mayGrant s.ev.turns s.evPages r.page = true ∧ s.recipients r = [o] ∧ ringPage o = some pg ∧ s.ev.owed.get o 0 = 0 ∧
      (s.evqOn pg = false ∨ s.evqRoom pg = false ∨ sp = 0 ∨ sp = 3) ∧ s.evqOn pg = false) ∧
    (∃ s : State, ∃ n : Nat, ∃ r : EvRec, ∃ o pg : Nat, let sp := s.f pg F.EVQ_BASE_LO_SPACE; s.dead = false ∧
      s.ev.waiting[n]? = some r ∧ r.sig = none ∧ (∀ x ∈ s.ev.waiting.take n, x.page ≠ r.page) ∧
      mayGrant s.ev.turns s.evPages r.page = true ∧ s.recipients r = [o] ∧ ringPage o = some pg ∧ s.ev.owed.get o 0 = 0 ∧
      (s.evqOn pg = false ∨ s.evqRoom pg = false ∨ sp = 0 ∨ sp = 3) ∧ (s.evqOn pg = false ∨ s.evqRoom pg = false ∨ sp = 0)) ∧
    (∃ s : State, ∃ n : Nat, ∃ r : EvRec, ∃ o pg : Nat,
      let ofs := s.evqBase pg + 32 * (s.w pg R.EVQ_PROD % 2 ^ s.f pg F.EVQ_CTL_LOG2N); let sp := s.f pg F.EVQ_BASE_LO_SPACE;
      s.dead = false ∧ s.ev.waiting[n]? = some r ∧ r.sig = none ∧ (∀ x ∈ s.ev.waiting.take n, x.page ≠ r.page) ∧
      mayGrant s.ev.turns s.evPages r.page = true ∧ s.recipients r = [o] ∧ ringPage o = some pg ∧ s.ev.owed.get o 0 = 0 ∧
      s.evqOn pg = true ∧ s.evqRoom pg = true ∧ (sp = 1 ∨ sp = 2) ∧ s.accessCode o (spaceTier sp) ofs 32 = 0 ∧
      s.slotDraining (s.slotFor o) = false ∧ (∀ i, i < 32 → (s.line (memKey (spaceTier sp) (ofs + i))).poison = false)) ∧
    (∃ s : State, ∃ n : Nat, ∃ r : EvRec, ∃ o pg : Nat,
      let ofs := s.evqBase pg + 32 * (s.w pg R.EVQ_PROD % 2 ^ s.f pg F.EVQ_CTL_LOG2N); let sp := s.f pg F.EVQ_BASE_LO_SPACE;
      s.dead = false ∧ s.ev.waiting[n]? = some r ∧ r.sig = none ∧ (∀ x ∈ s.ev.waiting.take n, x.page ≠ r.page) ∧
      mayGrant s.ev.turns s.evPages r.page = true ∧ s.recipients r = [o] ∧ ringPage o = some pg ∧ s.ev.owed.get o 0 = 0 ∧
      s.evqOn pg = true ∧ s.evqRoom pg = true ∧ (sp = 1 ∨ sp = 2) ∧ s.accessCode o (spaceTier sp) ofs 32 = 0x12) := by
  refine ⟨
    ⟨{ (own 15 pHIF dev).setF pHIF F.EVQ_CTL_EN 1 with ev := { waiting := [{ kind := .soft, page := pHIF, subj := 15, bit := 16 }] } },
      0, { kind := .soft, page := pHIF, subj := 15, bit := 16 }, 15, pHIF, ?_⟩,
    ⟨{ ((own 15 pHIF dev).setF pHIF F.EVQ_CTL_EN 1 |>.setW pHIF R.EVQ_PROD 64 |>.setF pHIF F.EVQ_CTL_LOG2N 6) with ev := { waiting := [{ kind := .soft, page := pHIF, subj := 15, bit := 16 }] } },
      0, { kind := .soft, page := pHIF, subj := 15, bit := 16 }, 15, pHIF, ?_⟩,
    ⟨{ ((own 15 pHIF dev)) with ev := { waiting := [{ kind := .soft, page := pHIF, subj := 15, bit := 16 }] } }, 0,
      { kind := .soft, page := pHIF, subj := 15, bit := 16 }, 15, pHIF, ?_⟩,
    ⟨{ (own 15 pHIF dev).setF pHIF F.EVQ_CTL_EN 1 with ev := { waiting := [{ kind := .soft, page := pHIF, subj := 15, bit := 16 }] } },
      0, { kind := .soft, page := pHIF, subj := 15, bit := 16 }, 15, pHIF, ?_⟩,
    ⟨{ (((on 0x500 (unit resMid 0 14 dev)).setF pMGT F.EVQ_CTL_EN 1 |>.setF pMGT F.EVQ_CTL_LOG2N 6 |>.setF pMGT F.EVQ_BASE_LO_SPACE 1)) with ev := { waiting := [{ kind := .soft, page := pMGT, subj := 14, bit := 16 }] } },
      0, { kind := .soft, page := pMGT, subj := 14, bit := 16 }, 14, pMGT, ?_⟩,
    ⟨{ ((( (unit resMid 0 14 dev)).setF pMGT F.EVQ_CTL_EN 1 |>.setF pMGT F.EVQ_CTL_LOG2N 6 |>.setF pMGT F.EVQ_BASE_LO_SPACE 1)) with ev := { waiting := [{ kind := .soft, page := pMGT, subj := 14, bit := 16 }] } },
      0, { kind := .soft, page := pMGT, subj := 14, bit := 16 }, 14, pMGT, ?_⟩⟩ <;> decide +kernel

theorem met_EventRingsAreRunByTheirRegisters :
    (∃ s : State, ∃ o pg : Nat, s.dead = false ∧ ringPage o = some pg ∧ s.ev.owed.get o 0 ≠ 0 ∧ s.evqOn pg = true ∧
      s.evqRoom pg = true ∧ s.f pg F.EVQ_BASE_LO_SPACE = 0) ∧
    (∃ s : State, ∃ m pg v : Nat, s.dead = false ∧ okMaster m = true ∧ hasEvq pg = true ∧ v < 2 ^ 32 ∧ s.reaches m pg = true ∧
      s.mayWrite m pg = true ∧ s.rstBusy pg = false ∧ s.evqOn pg = false ∧ bit v 0 = true ∧ 6 ≤ bits v 12 8 ∧ bits v 12 8 ≤ 16 ∧
      (regDefAt pg R.EVQ_CTL).any (fun d => defRes0Ok d v) = true ∧ s.ringHeld pg (bits v 12 8) = true) ∧
    (∃ s : State, ∃ m pg v : Nat, s.dead = false ∧ okMaster m = true ∧ hasEvq pg = true ∧ v < 2 ^ 32 ∧ s.reaches m pg = true ∧
      s.mayWrite m pg = true ∧ s.rstBusy pg = false ∧ s.evqOn pg = true ∧
      (v + 2 ^ 32 - s.w pg R.EVQ_CONS) % 2 ^ 32 ≤ s.evqUsed pg) ∧
    (∃ s : State, ∃ m pg v : Nat, s.dead = false ∧ okMaster m = true ∧ hasEvq pg = true ∧ v < 2 ^ 32 ∧ s.reaches m pg = true ∧
      s.mayWrite m pg = true ∧ s.evqUsed pg < (v + 2 ^ 32 - s.w pg R.EVQ_CONS) % 2 ^ 32) ∧
    (∃ s : State, ∃ fn vec : Nat, ∃ mask : Bool, s.dead = false ∧ fn < 9 ∧ vec < 64 ∧ mask = true) ∧
    (∃ s : State, ∃ fn vec : Nat, ∃ mask : Bool, s.dead = false ∧ fn < 9 ∧ vec < 64 ∧ mask = false ∧
      (s.msix fn).pend.get vec false = true ∧ s.f pHIF F.HIF_LINK_STS_UP = 1 ∧ (fn = 0 ∨ s.hif.vfEn = true) ∧
      (s.msix fn).en = true ∧ (s.msix fn).mask = false) ∧
    (∃ s : State, ∃ fn : Nat, ∃ en mask : Bool, s.dead = false ∧ fn < 9 ∧ (en = false ∨ mask = true)) := by
  refine ⟨
    ⟨{ (dev.setF pMGT F.EVQ_CTL_EN 1).setF pMGT F.EVQ_CTL_LOG2N 6 with ev := { owed := [(14, 2)] } }, 14, pMGT, ?_⟩,
    ⟨dev, 14, pMGT, 0x601, ?_⟩,
    ⟨(dev.setF pMGT F.EVQ_CTL_EN 1).setW pMGT R.EVQ_PROD 5, 14, pMGT, 5, ?_⟩,
    ⟨(dev.setF pMGT F.EVQ_CTL_EN 1).setW pMGT R.EVQ_PROD 5, 14, pMGT, 6, ?_⟩,
    ⟨dev, 8, 63, true, ?_⟩,
    ⟨hifS { vfEn := true, msix := [(1, { en := true, pend := [(5, true)] })] }, 1, 5, false, ?_⟩,
    ⟨dev, 8, false, false, ?_⟩⟩ <;> decide +kernel

theorem met_UnitsAreAssignedAndTakenBack :
    (∃ s : State, ∃ m part res first count : Nat, s.dead = false ∧ okMaster m = true ∧ part < 16 ∧ first < 2 ^ 16 ∧
      count < 2 ^ 16 ∧ s.reaches m pPRT = true ∧ s.mayWrite m pPRT = true ∧ s.rstBusy pPRT = false ∧
      prtArgsOk 1 part res first count = true ∧ s.f pPRT F.PRT_STS_BUSY = 0 ∧
      s.assignPre part res (rangeUnits first count) = true) ∧
    (∃ s : State, ∃ m part res first count : Nat, s.dead = false ∧ okMaster m = true ∧ part < 16 ∧ first < 2 ^ 16 ∧
      count < 2 ^ 16 ∧ s.reaches m pPRT = true ∧ s.mayWrite m pPRT = true ∧ s.rstBusy pPRT = false ∧
      prtArgsOk 1 part res first count = true ∧ (s.f pPRT F.PRT_STS_BUSY ≠ 0 ∨
      s.assignPre part res (rangeUnits first count) = false)) ∧
    (∃ s : State, ∃ m part res first count : Nat, s.dead = false ∧ okMaster m = true ∧ part < 16 ∧ first < 2 ^ 16 ∧
      count < 2 ^ 16 ∧ s.reaches m pPRT = true ∧ s.mayWrite m pPRT = true ∧ s.rstBusy pPRT = false ∧
      prtArgsOk 2 part res first count = true ∧ s.f pPRT F.PRT_STS_BUSY = 0 ∧
      s.unassignPre part res (rangeUnits first count) = true ∧ (res = resClu ∨ res = resLnk)) ∧
    (∃ s : State, ∃ m part res first count : Nat, s.dead = false ∧ okMaster m = true ∧ part < 16 ∧ first < 2 ^ 16 ∧
      count < 2 ^ 16 ∧ s.reaches m pPRT = true ∧ s.mayWrite m pPRT = true ∧ s.rstBusy pPRT = false ∧
      prtArgsOk 2 part res first count = true ∧ s.f pPRT F.PRT_STS_BUSY = 0 ∧
      s.unassignPre part res (rangeUnits first count) = true ∧ res ≠ resClu ∧ res ≠ resLnk) ∧
    (∃ s : State, ∃ c : UnassignCmd, s.dead = false ∧ s.prt.unassign = some c ∧ s.now ≤ c.iss.since + c.iss.tmo + 512) ∧
    (∃ s : State, ∃ c : UnassignCmd, s.dead = false ∧ s.prt.unassign = some c ∧ c.iss.since + c.iss.tmo ≤ s.now) := by
  refine ⟨
    ⟨dev, 14, 1, 0, 2, 2, ?_⟩,
    ⟨unit resClu 2 3 dev, 14, 1, 0, 2, 2, ?_⟩,
    ⟨unit resClu 3 1 (unit resClu 2 1 dev), 14, 1, 0, 2, 2, ?_⟩,
    ⟨unit resNear 3 1 (unit resNear 2 1 dev), 14, 1, 1, 2, 2, ?_⟩,
    ⟨{ atNow 1512 dev with prt := { dev.prt with unassign := some ⟨1, 0, 2, 2, ⟨0, 1000⟩⟩ } }, ⟨1, 0, 2, 2, ⟨0, 1000⟩⟩, ?_⟩,
    ⟨{ atNow 1512 dev with prt := { dev.prt with unassign := some ⟨1, 0, 2, 2, ⟨0, 1000⟩⟩ } }, ⟨1, 0, 2, 2, ⟨0, 1000⟩⟩, ?_⟩⟩ <;> decide +kernel

theorem met_KeysAreBoundRetiredAndFreed :
    (∃ s : State, ∃ m part n : Nat, s.dead = false ∧ okMaster m = true ∧ part < 8 ∧ s.reaches m pPRT = true ∧
      s.mayWrite m pPRT = true ∧ s.rstBusy pPRT = false ∧ s.f pPRT F.PRT_STS_BUSY = 0 ∧ s.enablePre part = true ∧
      s.freeSlot = some n) ∧
    (∃ s : State, ∃ m k n : Nat, s.dead = false ∧ okMaster m = true ∧ s.reaches m pSEC = true ∧ s.mayWrite m pSEC = true ∧
      s.rstBusy pSEC = false ∧ s.rngFault = false ∧ s.freeSlot = some n ∧ s.activeSlot oTormal = some k) ∧
    (∃ s : State, ∃ slot : Nat, s.dead = false ∧ slot < 16 ∧ (s.keySlot slot).st = .draining ∧ (¬((s.keySlot slot).owner < 8 ∧
      (s.part (s.keySlot slot).owner).st = .resetting)) ∧ s.cores.any (fun e => e.2.carries slot) = false) ∧
    (∃ s : State, ∃ m p : Nat, s.dead = false ∧ okMaster m = true ∧ p < 8 ∧ s.reaches m pSEC = true ∧ s.mayWrite m pSEC = true ∧
      s.rstBusy pSEC = false ∧ s.f (pCKP 0) F.CKP_STS_BUSY = 0 ∧ s.w64 pSEC R.SEC_IKEY_ID_LO R.SEC_IKEY_ID_HI ≠ 0) ∧
    (∃ s : State, ∃ m p : Nat, s.dead = false ∧ okMaster m = true ∧ p < 8 ∧ s.reaches m pSEC = true ∧ s.mayWrite m pSEC = true ∧
      (s.f (pCKP 0) F.CKP_STS_BUSY ≠ 0 ∨ s.w64 pSEC R.SEC_IKEY_ID_LO R.SEC_IKEY_ID_HI = 0)) ∧
    (∃ s : State, ∃ m p : Nat, s.dead = false ∧ okMaster m = true ∧ p < 8 ∧ s.reaches m pSEC = true ∧ s.mayWrite m pSEC = true ∧
      s.f (pCKP 0) F.CKP_STS_BUSY ≠ 0) := by
  refine ⟨
    ⟨dev.setF pGLB F.GLB_STATE_STATE 1, 14, 7, 0, ?_⟩,
    ⟨dev, 14, 8, 0, ?_⟩,
    ⟨dev.setKeySlot 0 { st := .draining, owner := 1 }, 0, ?_⟩,
    ⟨dev.setW pSEC R.SEC_IKEY_ID_LO 5, 14, 7, ?_⟩,
    ⟨dev, 14, 7, ?_⟩,
    ⟨dev.setF (pCKP 0) F.CKP_STS_BUSY 1, 14, 7, ?_⟩⟩ <;> decide +kernel

theorem met_PartitionResetRunsItsSequence :
    (∃ s : State, ∃ m part n : Nat, s.dead = false ∧ okMaster m = true ∧ part < 8 ∧ s.reaches m pPRT = true ∧
      s.mayWrite m pPRT = true ∧ s.rstBusy pPRT = false ∧ s.f pPRT F.PRT_STS_BUSY = 0 ∧ s.enabled part = true ∧
      s.rngFault = false ∧ s.activeSlot part = some n) ∧
    (∃ s : State, ∃ part cls : Nat, ∃ r : ResetSeq, s.dead = false ∧ part < 8 ∧ cls < 8 ∧ (s.part part).rst = some r ∧
      bit r.eng cls = true) ∧
    (∃ s : State, ∃ part : Nat, ∃ r : ResetSeq, s.dead = false ∧ part < 8 ∧ (s.part part).rst = some r ∧ r.eng ≠ 0 ∧
      r.since + r.tmo * 1000 ≤ s.now) ∧
    (∃ s : State, ∃ part : Nat, ∃ r : ResetSeq, s.dead = false ∧ part < 8 ∧ (s.part part).rst = some r ∧ r.eng ≠ 0 ∧
      s.now < r.since + r.tmo * 1000) ∧
    (∃ s : State, ∃ part : Nat, ∃ r : ResetSeq, s.dead = false ∧ part < 8 ∧ (s.part part).rst = some r ∧ r.eng = 0 ∧
      s.csubOf part = false ∧ r.toFree = true) ∧
    (∃ s : State, ∃ part : Nat, ∃ r : ResetSeq, s.dead = false ∧ part < 8 ∧ (s.part part).rst = some r ∧ r.eng = 0 ∧
      s.csubOf part = false ∧ r.toFree = false ∧ s.unitsOf resClu part = [] ∧ s.unitsOf resLnk part = [] ∧ s.rngFault = false) ∧
    (∃ s : State, ∃ part : Nat, ∃ r : ResetSeq, s.dead = false ∧ part < 8 ∧ (s.part part).rst = some r ∧ r.eng = 0 ∧
      s.csubOf part = false ∧ s.unitsOf resClu part = [] ∧ s.unitsOf resLnk part = [] ∧ s.rngFault = true) ∧
    (∃ s : State, ∃ part : Nat, ∃ r : ResetSeq, s.dead = false ∧ part < 8 ∧ (s.part part).rst = some r ∧ (r.eng ≠ 0 ∨
      s.csubOf part = true)) := by
  refine ⟨
    ⟨devP, 14, 1, 1, ?_⟩,
    ⟨devP.setPart 1 { st := .resetting, rst := some { eng := 0xFF, tmo := 1 } }, 1, 7, { eng := 0xFF, tmo := 1 }, ?_⟩,
    ⟨(atNow 1000 devP).setPart 1 { st := .resetting, rst := some { eng := 0xFF, tmo := 1 } }, 1, { eng := 0xFF, tmo := 1 }, ?_⟩,
    ⟨devP.setPart 1 { st := .resetting, rst := some { eng := 0xFF, tmo := 1 } }, 1, { eng := 0xFF, tmo := 1 }, ?_⟩,
    ⟨(devP).setPart 1 { st := .resetting, rst := some { eng := 0, toFree := true } }, 1, { eng := 0, toFree := true }, ?_⟩,
    ⟨(enP 1 dev).setPart 1 { st := .resetting, rst := some { eng := 0, toFree := false } }, 1, { eng := 0, toFree := false },
      ?_⟩,
    ⟨((enP 1 dev).setF pSEC F.SEC_STS_RNG_FAULT 1).setPart 1 { st := .resetting, rst := some { eng := 0, toFree := false } }, 1,
      { eng := 0, toFree := false }, ?_⟩,
    ⟨devP.setPart 1 { st := .resetting, rst := some { eng := 0xFF, tmo := 1 } }, 1, { eng := 0xFF, tmo := 1 }, ?_⟩⟩ <;> decide +kernel

theorem met_VirtualFunctionsResetTheirPartitions :
    (∃ s : State, ∃ p : Nat, s.dead = false ∧ p < 8 ∧ s.enabled p = false) ∧
    (∃ s : State, ∃ p : Nat, s.dead = false ∧ p < 8 ∧ s.enabled p = true) ∧
    (∃ s : State, s.dead = false ∧ s.hif.vfEn = true) := by
  refine ⟨
    ⟨dev, 1, ?_⟩,
    ⟨{ devP with hif := { vfEn := true } }, 1, ?_⟩,
    ⟨{ devP with hif := { vfEn := true } }, ?_⟩⟩ <;> decide +kernel

theorem met_WritesStoreTheirBytesAndNoOthers :
    (∃ s : State, ∃ own iss tier addr : Nat, ∃ data : List Byte, ∃ rmt : Bool, s.dead = false ∧ okOwner own = true ∧
      iss < 16384 ∧ tier < 4 ∧ addr < 2 ^ 48 ∧ data ≠ [] ∧ s.accessCode own tier addr data.length = 0 ∧
      s.shareOk tier addr data.length (reqClass true rmt) = true ∧ s.slotDraining (s.slotFor own) = false ∧ (∀ i,
      i < data.length → (s.line (memKey tier (addr + i))).poison = false)) ∧
    (∃ s : State, ∃ own iss tier addr : Nat, ∃ data : List Byte, s.dead = false ∧ okOwner own = true ∧ iss < 16384 ∧ tier < 4 ∧
      addr < 2 ^ 48 ∧ data ≠ [] ∧ s.accessCode own tier addr data.length = 0x02) := by
  refine ⟨
    ⟨devP, 1, 0x1000, 1, 0x10003E, [1, 2, 3, 4], true, ?_⟩,
    ⟨devP, 2, 0x1000, 1, 0x10003E, [1, 2, 3, 4], ?_⟩⟩ <;> decide +kernel

theorem met_ReadsDeliverTheOwnersBytes :
    (∃ s : State, ∃ own iss tier addr len : Nat, ∃ rmt : Bool, s.dead = false ∧ okOwner own = true ∧ iss < 16384 ∧ tier < 4 ∧
      addr < 2 ^ 48 ∧ s.accessCode own tier addr len = 0 ∧ s.shareOk tier addr len (reqClass false rmt) = true ∧
      s.slotDraining (s.slotFor own) = true) ∧
    (∃ s : State, ∃ own iss tier addr len : Nat, s.dead = false ∧ okOwner own = true ∧ iss < 16384 ∧ tier < 4 ∧ addr < 2 ^ 48 ∧
      s.accessCode own tier addr len = 0x02) ∧
    (∃ s : State, ∃ own iss tier addr len : Nat, ∃ rmt : Bool, s.dead = false ∧ okOwner own = true ∧ iss < 16384 ∧ tier < 4 ∧
      addr < 2 ^ 48 ∧ 0 < len ∧ s.accessCode own tier addr len = 0 ∧ s.shareOk tier addr len (reqClass false rmt) = true ∧
      s.slotDraining (s.slotFor own) = false ∧ (s.line (memKey tier addr)).poison = false) ∧
    (∃ s : State, ∃ own iss tier addr len : Nat, ∃ rmt : Bool, s.dead = false ∧ okOwner own = true ∧ iss < 16384 ∧ tier < 4 ∧
      addr < 2 ^ 48 ∧ (s.accessCode own tier addr len = 0x12 ∨ s.accessCode own tier addr len = 0 ∧
      s.shareOk tier addr len (reqClass false rmt) = false)) := by
  refine ⟨
    ⟨devP.setKeySlot 1 { st := .draining, owner := 1, gen := 1, key := 2 }, 1, 0x1000, 1, 0x10003E, 4, false, ?_⟩,
    ⟨bytesAt 1 1 0x10003E [1, 2, 3, 4] devP, 2, 0x1000, 1, 0x10003E, 4, ?_⟩,
    ⟨bytesAt 1 1 0x10003E [1, 2, 3, 4] devP, 1, 0x1000, 1, 0x10003E, 4, false, ?_⟩,
    ⟨devP.setF 0x400 F.PG_CTL_HOLD 1, 1, 0x1000, 1, 0x10003E, 4, false, ?_⟩⟩ <;> decide +kernel

theorem met_AtomicsUpdateOneElement :
    (∃ s : State, ∃ own iss tier addr code o v : Nat, ∃ rmt : Bool, s.dead = false ∧ okOwner own = true ∧ iss < 16384 ∧
      tier < 4 ∧ addr < 2 ^ 48 ∧ code ∈ [0x01, 0x02, 0x08, 0x09, 0x10, 0x11, 0x18] ∧ atomicOk addr code [(o, v)] = true ∧
      s.accessCode own tier addr 64 = 0 ∧ s.shareOk tier addr 64 (reqClass true rmt) 2 = true ∧
      s.slotDraining (s.slotFor own) = false ∧ (s.line (memKey tier addr)).poison = false ∧ code = 0x01) ∧
    (∃ s : State, ∃ own iss tier addr code o v : Nat, ∃ rmt : Bool, s.dead = false ∧ okOwner own = true ∧ iss < 16384 ∧
      tier < 4 ∧ addr < 2 ^ 48 ∧ code ∈ [0x01, 0x02, 0x08, 0x09, 0x10, 0x11, 0x18] ∧ atomicOk addr code [(o, v)] = true ∧
      s.accessCode own tier addr 64 = 0 ∧ s.shareOk tier addr 64 (reqClass true rmt) 2 = true ∧
      s.slotDraining (s.slotFor own) = false ∧ (s.line (memKey tier addr)).poison = false ∧ code = 0x02) ∧
    (∃ s : State, ∃ own iss tier addr code o v : Nat, ∃ rmt : Bool, s.dead = false ∧ okOwner own = true ∧ iss < 16384 ∧
      tier < 4 ∧ addr < 2 ^ 48 ∧ code ∈ [0x01, 0x02, 0x08, 0x09, 0x10, 0x11, 0x18] ∧ atomicOk addr code [(o, v)] = true ∧
      s.accessCode own tier addr 64 = 0 ∧ s.shareOk tier addr 64 (reqClass true rmt) 2 = true ∧
      s.slotDraining (s.slotFor own) = false ∧ (s.line (memKey tier addr)).poison = false ∧ code = 0x08) ∧
    (∃ s : State, ∃ own iss tier addr code o v : Nat, ∃ rmt : Bool, s.dead = false ∧ okOwner own = true ∧ iss < 16384 ∧
      tier < 4 ∧ addr < 2 ^ 48 ∧ code ∈ [0x01, 0x02, 0x08, 0x09, 0x10, 0x11, 0x18] ∧ atomicOk addr code [(o, v)] = true ∧
      s.accessCode own tier addr 64 = 0 ∧ s.shareOk tier addr 64 (reqClass true rmt) 2 = true ∧
      s.slotDraining (s.slotFor own) = false ∧ (s.line (memKey tier addr)).poison = false ∧ code = 0x09) ∧
    (∃ s : State, ∃ own iss tier addr code o v : Nat, ∃ rmt : Bool, s.dead = false ∧ okOwner own = true ∧ iss < 16384 ∧
      tier < 4 ∧ addr < 2 ^ 48 ∧ code ∈ [0x01, 0x02, 0x08, 0x09, 0x10, 0x11, 0x18] ∧ atomicOk addr code [(o, v)] = true ∧
      s.accessCode own tier addr 64 = 0 ∧ s.shareOk tier addr 64 (reqClass true rmt) 2 = true ∧
      s.slotDraining (s.slotFor own) = false ∧ (s.line (memKey tier addr)).poison = false ∧ code = 0x10) ∧
    (∃ s : State, ∃ own iss tier addr code o v : Nat, ∃ rmt : Bool, s.dead = false ∧ okOwner own = true ∧ iss < 16384 ∧
      tier < 4 ∧ addr < 2 ^ 48 ∧ code ∈ [0x01, 0x02, 0x08, 0x09, 0x10, 0x11, 0x18] ∧ atomicOk addr code [(o, v)] = true ∧
      s.accessCode own tier addr 64 = 0 ∧ s.shareOk tier addr 64 (reqClass true rmt) 2 = true ∧
      s.slotDraining (s.slotFor own) = false ∧ (s.line (memKey tier addr)).poison = false ∧ code = 0x11) ∧
    (∃ s : State, ∃ own iss tier addr code o v : Nat, ∃ rmt : Bool, s.dead = false ∧ okOwner own = true ∧ iss < 16384 ∧
      tier < 4 ∧ addr < 2 ^ 48 ∧ code ∈ [0x01, 0x02, 0x08, 0x09, 0x10, 0x11, 0x18] ∧ atomicOk addr code [(o, v)] = true ∧
      s.accessCode own tier addr 64 = 0 ∧ s.shareOk tier addr 64 (reqClass true rmt) 2 = true ∧
      s.slotDraining (s.slotFor own) = false ∧ (s.line (memKey tier addr)).poison = false ∧ code = 0x18) ∧
    (∃ s : State, ∃ own iss tier addr code o v : Nat, ∃ rmt ret : Bool, s.dead = false ∧ okOwner own = true ∧ iss < 16384 ∧
      tier < 4 ∧ addr < 2 ^ 48 ∧ code ∈ [0x01, 0x02, 0x08, 0x09, 0x10, 0x11, 0x18] ∧ atomicOk addr code [(o, v)] = true ∧
      s.accessCode own tier addr 64 = 0 ∧ s.shareOk tier addr 64 (reqClass true rmt) 2 = true ∧
      s.slotDraining (s.slotFor own) = false ∧ (s.line (memKey tier addr)).poison = false ∧ (ret = true ∨ code = 0x18)) ∧
    (∃ s : State, ∃ own iss tier addr code o v : Nat, ∃ rmt ret : Bool, s.dead = false ∧ okOwner own = true ∧ iss < 16384 ∧
      tier < 4 ∧ addr < 2 ^ 48 ∧ code ∈ [0x01, 0x02, 0x08, 0x09, 0x10, 0x11, 0x18] ∧ atomicOk addr code [(o, v)] = true ∧
      s.accessCode own tier addr 64 = 0 ∧ s.shareOk tier addr 64 (reqClass true rmt) 2 = true ∧
      s.slotDraining (s.slotFor own) = false ∧ (s.line (memKey tier addr)).poison = false ∧ ret = false ∧ code ≠ 0x18) := by
  refine ⟨
    ⟨bytesAt 1 1 0x100000 [1, 2, 3, 0xFF, 0, 0, 0, 0x80] devP, 1, 0x1000, 1, 0x100000, 0x01, 4, 2 ^ 32 - 1, true, ?_⟩,
    ⟨bytesAt 1 1 0x100000 [1, 2, 3, 0xFF, 0, 0, 0, 0x80] devP, 1, 0x1000, 1, 0x100000, 0x02, 8, 2 ^ 64 - 1, true, ?_⟩,
    ⟨bytesAt 1 1 0x100000 [1, 2, 3, 0xFF] devP, 1, 0x1000, 1, 0x100000, 0x08, 3, 5, true, ?_⟩,
    ⟨bytesAt 1 1 0x100000 [1, 2, 3, 0xFF, 0, 0, 0, 0x80] devP, 1, 0x1000, 1, 0x100000, 0x09, 8, 2 ^ 63, true, ?_⟩,
    ⟨bytesAt 1 1 0x100000 [1, 2, 3, 0xFF, 0, 0, 0, 0x80] devP, 1, 0x1000, 1, 0x100000, 0x10, 4, 5, true, ?_⟩,
    ⟨bytesAt 1 1 0x100000 [1, 2, 3, 0xFF, 0, 0, 0, 0x80] devP, 1, 0x1000, 1, 0x100000, 0x11, 8, 2 ^ 63, true, ?_⟩,
    ⟨bytesAt 1 1 0x100000 [1, 2, 3, 0xFF, 0, 0, 0, 0x80] devP, 1, 0x1000, 1, 0x100000, 0x18, 0, 5 + 7 * 2 ^ 64, true, ?_⟩,
    ⟨bytesAt 1 1 0x100000 [1, 2, 3, 0xFF] devP, 1, 0x1000, 1, 0x100000, 0x08, 3, 5, true, true, ?_⟩,
    ⟨bytesAt 1 1 0x100000 [1, 2, 3, 0xFF] devP, 1, 0x1000, 1, 0x100000, 0x08, 3, 5, true, false, ?_⟩⟩ <;> decide +kernel

theorem met_AllocatorCommandsKeepTheirRecords :
    (∃ s : State, ∃ m p cls die k : Nat, let xs := s.placeIn p (classTiers cls).1 die (s.f (pSCH p) F.ALC_SIZE_GRAN) [];
      s.dead = false ∧ okMaster m = true ∧ p < 8 ∧ cls ≤ 4 ∧ die ≤ 2 ∧ s.reaches m (pSCH p) = true ∧
      s.mayWrite m (pSCH p) = true ∧ s.rstBusy (pSCH p) = false ∧ s.f (pSCH p) F.ALC_STS_BUSY = 0 ∧
      s.holds p (s.alcRec p).1 (s.alcRec p).2 4160 = true ∧
      (List.range 4096).find? (fun k => ((s.al p).live.get k none).isNone) = some k ∧
      s.f (pSCH p) F.ALC_SIZE_GRAN ≤ s.freeGran p (classTiers cls).1 die ∧ xs.length ≤ 256 ∧
      s.spanCode p (s.alcRec p).1 (s.alcRec p).2 (64 + 16 * xs.length) ≠ 0x12) ∧
    (∃ s : State, ∃ m p cls die k : Nat, let xs := s.placeIn p (classTiers cls).1 die (s.f (pSCH p) F.ALC_SIZE_GRAN) [];
      s.dead = false ∧ okMaster m = true ∧ p < 8 ∧ cls ≤ 4 ∧ die ≤ 2 ∧ s.reaches m (pSCH p) = true ∧
      s.mayWrite m (pSCH p) = true ∧ s.rstBusy (pSCH p) = false ∧ s.f (pSCH p) F.ALC_STS_BUSY = 0 ∧
      s.holds p (s.alcRec p).1 (s.alcRec p).2 4160 = true ∧
      (List.range 4096).find? (fun k => ((s.al p).live.get k none).isNone) = some k ∧
      s.f (pSCH p) F.ALC_SIZE_GRAN ≤ s.freeGran p (classTiers cls).1 die ∧ xs.length ≤ 256 ∧
      s.spanCode p (s.alcRec p).1 (s.alcRec p).2 (64 + 16 * xs.length) = 0x12) ∧
    (∃ s : State, ∃ m p cls die k : Nat, s.dead = false ∧ okMaster m = true ∧ p < 8 ∧ cls ≤ 4 ∧ die ≤ 2 ∧
      s.reaches m (pSCH p) = true ∧ s.mayWrite m (pSCH p) = true ∧ s.rstBusy (pSCH p) = false ∧
      s.f (pSCH p) F.ALC_STS_BUSY = 0 ∧ s.holds p (s.alcRec p).1 (s.alcRec p).2 4160 = true ∧
      (List.range 4096).find? (fun k => ((s.al p).live.get k none).isNone) = some k ∧
      (s.freeGran p (classTiers cls).1 die + (if (classTiers cls).2 = 0 then 0 else s.freeGran p (classTiers cls).2 die) < s.f (pSCH p) F.ALC_SIZE_GRAN) ∧
      s.spanCode p (s.alcRec p).1 (s.alcRec p).2 64 ≠ 0x12) ∧
    (∃ s : State, ∃ m p : Nat, ∃ a : Alloc, s.dead = false ∧ okMaster m = true ∧ p < 8 ∧ s.reaches m (pSCH p) = true ∧
      s.mayWrite m (pSCH p) = true ∧ s.rstBusy (pSCH p) = false ∧ s.f (pSCH p) F.ALC_STS_BUSY = 0 ∧ s.alcNamed p = some a ∧
      s.holds p (s.alcRec p).1 (s.alcRec p).2 4160 = true ∧
      s.spanCode p (s.alcRec p).1 (s.alcRec p).2 (64 + 16 * a.exts.length) ≠ 0x12) ∧
    (∃ s : State, ∃ m p : Nat, s.dead = false ∧ okMaster m = true ∧ p < 8 ∧ s.reaches m (pSCH p) = true ∧
      s.mayWrite m (pSCH p) = true ∧ (s.alcNamed p = none ∨ s.f (pSCH p) F.ALC_STS_BUSY ≠ 0)) := by
  refine ⟨
    ⟨((on 0x12 devP).setW (pSCH 1) R.ALC_SIZE 3).setW (pSCH 1) R.ALC_REC_LO 0x00400001, 1, 1, 1, 2, 0, ?_⟩,
    ⟨(((on 0x12 devP).setW (pSCH 1) R.ALC_SIZE 3).setW (pSCH 1) R.ALC_REC_LO 0x00400001).setF 0x400 F.PG_CTL_HOLD 1, 1, 1, 1, 2,
      0, ?_⟩,
    ⟨((on 0x12 devP).setW (pSCH 1) R.ALC_SIZE 0x1000).setW (pSCH 1) R.ALC_REC_LO 0x00400001, 1, 1, 1, 2, 0, ?_⟩,
    ⟨((((on 0x12 devP).setW (pSCH 1) R.ALC_SIZE 3).setW (pSCH 1) R.ALC_REC_LO 0x00400001).setAl 1 { live := [(2, some { seq := 7, cls := 0, die := 0, size := 3, first := 3, spill := 0, exts := [⟨1, 0, 3, 0⟩] })], seq := 8 }).setW (pSCH 1) R.ALC_HANDLE 0x7002,
      1, 1, { seq := 7, cls := 0, die := 0, size := 3, first := 3, spill := 0, exts := [⟨1, 0, 3, 0⟩] }, ?_⟩,
    ⟨((on 0x12 devP).setW (pSCH 1) R.ALC_SIZE 3).setW (pSCH 1) R.ALC_REC_LO 0x00400001, 1, 1, ?_⟩⟩ <;> decide +kernel

theorem met_ShareWindowsAndFixedPointRegions :
    (∃ s : State, ∃ pg : Nat, s.dead = false ∧ pg < 16384 ∧ ctlTier pg ≠ 0 ∧ (s.ctl pg).winAt + 1000 ≤ s.nowOn (dieOfPage pg) ∧
      bit (s.ctl pg).share 31 = false) ∧
    (∃ s : State, ∃ pg : Nat, s.dead = false ∧ pg < 16384 ∧ s.nowOn (dieOfPage pg) < (s.ctl pg).winAt + 1000) ∧
    (∃ s : State, ∃ m p r v : Nat, s.dead = false ∧ okMaster m = true ∧ p < 8 ∧ r < 16 ∧ v < 2 ^ 32 ∧
      s.reaches m (pSCH p) = true ∧ s.mayWrite m (pSCH p) = true ∧ s.rstBusy (pSCH p) = false ∧
      (regDefAt (pSCH p) (R.FXR_CTL + 16 * r)).any (fun d => defRes0Ok d v) = true ∧ bit v 31 = true ∧ bits v 7 0 ≠ 0x80 ∧
      bits v 7 0 ≠ 0x81 ∧ s.fxrEn p r = false ∧ (∀ q, q < 16 → q ≠ r → s.fxrEn p q = true → s.fxrMeet p r q = false) ∧
      s.holds p (s.fxr p r).1 (s.fxr p r).2.1 (s.fxr p r).2.2 = true) ∧
    (∃ s : State, ∃ p r : Nat, s.dead = false ∧ p < 8 ∧ r < 16 ∧ s.fxrEn p r = true) := by
  refine ⟨
    ⟨atNow 1000 dev, 0x500, ?_⟩,
    ⟨(((on 0x12 devP).setW (pSCH 1) (R.FXR_BASE_LO + 32) 0x00200001).setW (pSCH 1) (R.FXR_LEN + 32) 1), 0x500, ?_⟩,
    ⟨(((on 0x12 devP).setW (pSCH 1) (R.FXR_BASE_LO + 32) 0x00200001).setW (pSCH 1) (R.FXR_LEN + 32) 1), 1, 1, 2, 0x8000007F, ?_⟩,
    ⟨(on 0x12 devP).setF (pSCH 1) (F.FXR_CTL_EN.at 16 2) 1, 1, 2, ?_⟩⟩ <;> decide +kernel

theorem met_StreamsAreReadAndTransferred_1 :
    (∃ s : State, ∃ c q : Nat, ∃ it : TqItem, ∃ rest : List TqItem, ∃ bs : Marked, let a := s.tq c q;
      let e := entryOf (bs.map (·.1)); let bad := e.bad true (a.count + 1) (a.segLeft == some 16);
      let code := if bad = true then 0x04 else s.entryCode ((s.cluOf c).getD 0) e; s.dead = false ∧ okCore c = true ∧ q < 4 ∧
      (s.tq c q).items = it :: rest ∧ (∀ wsa pc, it ≠ .gath wsa pc) ∧ (s.tq c q).ended = false ∧ s.hasFetch c = true ∧
      s.entryAt16 c (s.tq c q) = some (.ok bs) ∧ firstMark bs = 0 ∧ code ≠ 0 ∧ a.quiet = true) ∧
    (∃ s : State, ∃ c q : Nat, ∃ it : TqItem, ∃ rest : List TqItem, ∃ bs : Marked, let a := s.tq c q;
      let e := entryOf (bs.map (·.1)); let bad := e.bad true (a.count + 1) (a.segLeft == some 16);
      let code := if bad = true then 0x04 else s.entryCode ((s.cluOf c).getD 0) e; s.dead = false ∧ okCore c = true ∧ q < 4 ∧
      (s.tq c q).items = it :: rest ∧ (∀ wsa pc, it ≠ .gath wsa pc) ∧ (s.tq c q).ended = false ∧ s.hasFetch c = true ∧
      s.entryAt16 c (s.tq c q) = some (.ok bs) ∧ firstMark bs = 0 ∧ code ≠ 0 ∧ a.quiet = false ∧ a.fail = none) ∧
    (∃ s : State, ∃ c q : Nat, ∃ it : TqItem, ∃ rest : List TqItem, ∃ bs : Marked, let a := s.tq c q;
      let e := entryOf (bs.map (·.1)); let bad := e.bad true (a.count + 1) (a.segLeft == some 16);
      let code := if bad = true then 0x04 else s.entryCode ((s.cluOf c).getD 0) e; s.dead = false ∧ okCore c = true ∧ q < 4 ∧
      (s.tq c q).items = it :: rest ∧ (∀ wsa pc, it ≠ .gath wsa pc) ∧ (s.tq c q).ended = false ∧ s.hasFetch c = true ∧
      s.entryAt16 c (s.tq c q) = some (.ok bs) ∧ firstMark bs = 0 ∧ code = 0 ∧ e.link = true) ∧
    (∃ s : State, ∃ c q : Nat, ∃ it : TqItem, ∃ rest : List TqItem, ∃ bs : Marked, let a := s.tq c q;
      let e := entryOf (bs.map (·.1)); let bad := e.bad true (a.count + 1) (a.segLeft == some 16);
      let code := if bad = true then 0x04 else s.entryCode ((s.cluOf c).getD 0) e; s.dead = false ∧ okCore c = true ∧ q < 4 ∧
      (s.tq c q).items = it :: rest ∧ (∀ wsa pc, it ≠ .gath wsa pc) ∧ (s.tq c q).ended = false ∧ s.hasFetch c = true ∧
      s.entryAt16 c (s.tq c q) = some (.ok bs) ∧ firstMark bs = 0 ∧ code = 0 ∧ e.link = false) ∧
    (∃ s : State, ∃ c q tier addr pc : Nat, ∃ rest : List TqItem, s.dead = false ∧ okCore c = true ∧ q < 4 ∧
      (s.tq c q).items = .stream false tier addr pc :: rest ∧ (s.tq c q).curWs = false ∧ (s.tq c q).ended = false ∧
      s.hasFetch c = true ∧ (s.tq c q).lists = [] ∧ s.entryAt16 c (s.tq c q) = none) ∧
    (∃ s : State, ∃ c q tier addr pc : Nat, ∃ rest : List TqItem, ∃ e : BlockEnt, let a := s.tq c q;
      let fenced := e.tier ≠ 0 ∧ s.fenced (tierCtl e.tier (e.addr + e.issued)) = true; s.dead = false ∧ okCore c = true ∧
      q < 4 ∧ (s.tq c q).items = .stream false tier addr pc :: rest ∧ nextEnt (s.tq c q).ents = some e ∧ e.issued < e.len ∧
      fenced ∧ a.reqs = []) ∧
    (∃ s : State, ∃ c q tier addr pc : Nat, ∃ rest : List TqItem, ∃ e : BlockEnt, let a := s.tq c q;
      let full := s.f (pCORE c) (F.TQ_CFG_OUT_MAX.at 4 q) ≤ a.reqs.length;
      let fenced := e.tier ≠ 0 ∧ s.fenced (tierCtl e.tier (e.addr + e.issued)) = true; s.dead = false ∧ okCore c = true ∧
      q < 4 ∧ (s.tq c q).items = .stream false tier addr pc :: rest ∧ nextEnt (s.tq c q).ents = some e ∧ e.issued < e.len ∧
      ¬fenced ∧ (full ∨ s.hasFetch c = false ∨ (e.fence = true ∧ e.issued = 0 ∧ a.reqs ≠ []))) ∧
    (∃ s : State, ∃ c q tier addr pc : Nat, ∃ rest : List TqItem, ∃ e : BlockEnt, let a := s.tq c q;
      let n := min (e.len - e.issued) (tierM e.tier - (e.addr + e.issued) % tierM e.tier);
      let full := s.f (pCORE c) (F.TQ_CFG_OUT_MAX.at 4 q) ≤ a.reqs.length;
      let fenced := e.tier ≠ 0 ∧ s.fenced (tierCtl e.tier (e.addr + e.issued)) = true; s.dead = false ∧ okCore c = true ∧
      q < 4 ∧ (s.tq c q).items = .stream false tier addr pc :: rest ∧ nextEnt (s.tq c q).ents = some e ∧ e.issued < e.len ∧
      ¬fenced ∧ ¬full ∧ s.hasFetch c = true ∧ (e.fence = true → e.issued = 0 → a.reqs = []) ∧ q < 3 ∧ 2 ^ 20 < a.issuePos + n) ∧
    (∃ s : State, ∃ c q tier addr pc : Nat, ∃ rest : List TqItem, ∃ e : BlockEnt, let a := s.tq c q;
      let n := min (e.len - e.issued) (tierM e.tier - (e.addr + e.issued) % tierM e.tier);
      let full := s.f (pCORE c) (F.TQ_CFG_OUT_MAX.at 4 q) ≤ a.reqs.length;
      let fenced := e.tier ≠ 0 ∧ s.fenced (tierCtl e.tier (e.addr + e.issued)) = true; s.dead = false ∧ okCore c = true ∧
      q < 4 ∧ (s.tq c q).items = .stream false tier addr pc :: rest ∧ nextEnt (s.tq c q).ents = some e ∧ e.issued < e.len ∧
      ¬fenced ∧ ¬full ∧ s.hasFetch c = true ∧ (e.fence = true → e.issued = 0 → a.reqs = []) ∧ q < 3 ∧ a.issuePos + n ≤ 2 ^ 20 ∧
      (a.bufs * 4096 ≤ a.issuePos ∨ s.writeOverlap c e.tier (e.addr + e.issued) n = true)) ∧
    (∃ s : State, ∃ c q tier addr pc : Nat, ∃ rest : List TqItem, ∃ e : BlockEnt, let a := s.tq c q;
      let n := min (e.len - e.issued) (tierM e.tier - (e.addr + e.issued) % tierM e.tier);
      let full := s.f (pCORE c) (F.TQ_CFG_OUT_MAX.at 4 q) ≤ a.reqs.length;
      let fenced := e.tier ≠ 0 ∧ s.fenced (tierCtl e.tier (e.addr + e.issued)) = true; s.dead = false ∧ okCore c = true ∧
      q < 4 ∧ (s.tq c q).items = .stream false tier addr pc :: rest ∧ nextEnt (s.tq c q).ents = some e ∧ e.issued < e.len ∧
      ¬fenced ∧ ¬full ∧ s.hasFetch c = true ∧ (e.fence = true → e.issued = 0 → a.reqs = []) ∧ (q < 3 → a.issuePos + n ≤ 2 ^ 20 ∧
      a.issuePos < a.bufs * 4096 ∧ s.writeOverlap c e.tier (e.addr + e.issued) n = false) ∧ (q = 3 →
      coveredBy a.written a.issuePos n = true)) ∧
    (∃ s : State, ∃ c q : Nat, ∃ r : TqReq, s.dead = false ∧ okCore c = true ∧ q < 3 ∧ r.tier < 4 ∧
      (s.tq c q).reqs.find? (fun x => x.id == r.id) = some r ∧ (s.tq c q).fail = none ∧
      s.grantsNow c r.tier r.addr r.len (reqClass false (s.isRmtDie (c / 256) r.tier r.addr)) r.iss) ∧
    (∃ s : State, ∃ c : Nat, ∃ r : TqReq, s.dead = false ∧ okCore c = true ∧ r.tier < 4 ∧
      (s.tq c 3).reqs.find? (fun x => x.id == r.id) = some r ∧ (s.tq c 3).fail = none ∧
      s.grantsNow c r.tier r.addr r.len (reqClass true (s.isRmtDie (c / 256) r.tier r.addr)) r.iss ∧ r.tier = 0) ∧
    (∃ s : State, ∃ c : Nat, ∃ r : TqReq, let d := getDie (s.tq c 3).win (s.tq c 3).pois r.pos r.len; s.dead = false ∧
      okCore c = true ∧ r.tier < 4 ∧ (s.tq c 3).reqs.find? (fun x => x.id == r.id) = some r ∧ (s.tq c 3).fail = none ∧
      s.grantsNow c r.tier r.addr r.len (reqClass true (s.isRmtDie (c / 256) r.tier r.addr)) r.iss ∧ r.tier ≠ 0 ∧
      r.addr + r.len ≤ 2 ^ 48 ∧ s.slotDraining r.slot = false ∧ (∀ x ∈ d, x.2 = 0) ∧ (∀ i, i < r.len →
      (s.line (memKey r.tier (r.addr + i))).poison = false)) ∧
    (∃ s : State, ∃ c q : Nat, ∃ r : TqReq, s.dead = false ∧ okCore c = true ∧ q < 4 ∧ r.tier < 4 ∧
      (s.tq c q).reqs.find? (fun x => x.id == r.id) = some r ∧ s.overdue (pCORE c) r.iss = true) := by
  refine ⟨
    ⟨coreS { tqs := [(0, { items := [.stream false 1 0x10000 3], curTier := 1, curAddr := 0x10000, lbuf := some { tier := 1, addr := 0x10000, data := (ent 0x10000 0 1 0 7).map (·, 0) } })] },
      0, 0, .stream false 1 0x10000 3, [], (ent 0x10000 0 1 0 7).map (·, 0), ?_, ?_, ?_, ?_, (fun _ _ h => nomatch h), ?_, ?_,
      ?_, ?_, ?_, ?_⟩,
    ⟨coreS { tqs := [(0, { items := [.stream false 1 0x10000 3], curTier := 1, curAddr := 0x10000, lbuf := some { tier := 1, addr := 0x10000, data := (ent 0x10000 0 1 0 7).map (·, 0) }, reqs := [{ id := 4, tier := 1, addr := 0x20, len := 32, pos := 3, slot := 1 }] })] },
      0, 0, .stream false 1 0x10000 3, [], (ent 0x10000 0 1 0 7).map (·, 0), ?_, ?_, ?_, ?_, (fun _ _ h => nomatch h), ?_, ?_,
      ?_, ?_, ?_, ?_, ?_⟩,
    ⟨coreS { tqs := [(0, { items := [.stream false 1 0x10000 3], curTier := 1, curAddr := 0x10000, lbuf := some { tier := 1, addr := 0x10000, data := (ent 0x10000 32 1 2 7).map (·, 0) } })] },
      0, 0, .stream false 1 0x10000 3, [], (ent 0x10000 32 1 2 7).map (·, 0), ?_, ?_, ?_, ?_, (fun _ _ h => nomatch h), ?_, ?_,
      ?_, ?_, ?_, ?_⟩,
    ⟨coreS { tqs := [(3, { items := [.stream false 1 0x10000 3], curTier := 1, curAddr := 0x10000, lbuf := some { tier := 1, addr := 0x10000, data := (ent 0x20001 0x1FF 1 1 7).map (·, 0) } })] },
      0, 3, .stream false 1 0x10000 3, [], (ent 0x20001 0x1FF 1 1 7).map (·, 0), ?_, ?_, ?_, ?_, (fun _ _ h => nomatch h), ?_,
      ?_, ?_, ?_, ?_, ?_⟩,
    ⟨witStreamsAreReadAndTransferred_1_s, 0, 0, 1, 0x10000, 0, [], ?_⟩,
    ⟨({ coreS { tqs := [(0, { items := [.stream false 1 0x10000 3], curTier := 1, curAddr := 0x10010, ents := [{ addr := 0x20001, len := 0x1FF, tier := 1, fence := false, tag := 7, last := true }], bufs := 1 })] } with ras := { fenced := [(0x400, true)] } } : State),
      0, 0, 1, 0x10000, 3, [], { addr := 0x20001, len := 0x1FF, tier := 1, fence := false, tag := 7, last := true }, ?_⟩,
    ⟨coreS { tqs := [(0, { items := [.stream false 1 0x10000 3], curTier := 1, curAddr := 0x10010, ents := [{ addr := 0x20001, len := 0x1FF, tier := 1, fence := false, tag := 7, last := true }], bufs := 1 })] } |>.setF (pCORE 0) (F.TQ_CFG_OUT_MAX.at 4 0) 0,
      0, 0, 1, 0x10000, 3, [], { addr := 0x20001, len := 0x1FF, tier := 1, fence := false, tag := 7, last := true }, ?_⟩,
    ⟨coreS { tqs := [(0, { items := [.stream false 1 0x10000 3], curTier := 1, curAddr := 0x10010, ents := [{ addr := 0x20001, len := 0x1FF, tier := 1, fence := false, tag := 7, last := true }], bufs := 1, issuePos := 2 ^ 20 })] } |>.setF (pCORE 0) (F.TQ_CFG_OUT_MAX.at 4 0) 4,
      0, 0, 1, 0x10000, 3, [], { addr := 0x20001, len := 0x1FF, tier := 1, fence := false, tag := 7, last := true }, ?_⟩,
    ⟨coreS { tqs := [(0, { items := [.stream false 1 0x10000 3], curTier := 1, curAddr := 0x10010, ents := [{ addr := 0x20001, len := 0x1FF, tier := 1, fence := false, tag := 7, last := true }], bufs := 0 })] } |>.setF (pCORE 0) (F.TQ_CFG_OUT_MAX.at 4 0) 4,
      0, 0, 1, 0x10000, 3, [], { addr := 0x20001, len := 0x1FF, tier := 1, fence := false, tag := 7, last := true }, ?_⟩,
    ⟨coreS { tqs := [(0, { items := [.stream false 1 0x10000 3], curTier := 1, curAddr := 0x10010, ents := [{ addr := 0x20001, len := 0x1FF, tier := 1, fence := false, tag := 7, last := true }], bufs := 1 })] } |>.setF (pCORE 0) (F.TQ_CFG_OUT_MAX.at 4 0) 4,
      0, 0, 1, 0x10000, 3, [], { addr := 0x20001, len := 0x1FF, tier := 1, fence := false, tag := 7, last := true }, ?_⟩,
    ⟨witStreamsAreReadAndTransferred_9_s, 0, 0, { id := 4, tier := 1, addr := 0x20, len := 32, pos := 3, slot := 1 }, ?_⟩,
    ⟨coreS { tqs := [(3, { win := [(3, 9)], reqs := [{ id := 4, tier := 0, addr := 0x20, len := 32, pos := 3, slot := 1 }] })] },
      0, { id := 4, tier := 0, addr := 0x20, len := 32, pos := 3, slot := 1 }, ?_⟩,
    ⟨coreS { tqs := [(3, { win := [(3, 9)], reqs := [{ id := 4, tier := 1, addr := 0x20, len := 32, pos := 3, slot := 1 }] })] },
      0, { id := 4, tier := 1, addr := 0x20, len := 32, pos := 3, slot := 1 }, ?_, ?_, ?_, ?_, ?_, ⟨?_, ?_, ?_⟩, ?_, ?_, ?_, ?_,
      ?_⟩,
    ⟨atNow 513 (coreS { tqs := [(3, { win := [(3, 9)], reqs := [{ id := 4, tier := 1, addr := 0x20, len := 32, pos := 3, slot := 1 }] })] }),
      0, 3, { id := 4, tier := 1, addr := 0x20, len := 32, pos := 3, slot := 1 }, ?_⟩⟩ <;> (first | decide +kernel | ((try unfold State.grantsNow); decide +kernel))

theorem met_StreamsAreReadAndTransferred_2 :
    (∃ s : State, ∃ c q : Nat, ∃ r : TqReq, s.dead = false ∧ okCore c = true ∧ q < 4 ∧ r.tier < 4 ∧
      (s.tq c q).reqs.find? (fun x => x.id == r.id) = some r ∧ s.overdue (pCORE c) r.iss = false ∧
      s.turnAt r.tier r.addr r.len (reqClass (q == 3) (s.isRmtDie (c / 256) r.tier r.addr)) r.iss.since = false) := by
  refine
    ⟨atNow 5 (coreS { tqs := [(3, { win := [(3, 9)], reqs := [{ id := 4, tier := 1, addr := 0x20, len := 32, pos := 3, slot := 1, iss := { since := 5, tmo := 1000 } }, { id := 5, tier := 1, addr := 0x20, len := 32, pos := 3, slot := 1, iss := { since := 0, tmo := 1000 } }] })] }),
      0, 3, { id := 4, tier := 1, addr := 0x20, len := 32, pos := 3, slot := 1, iss := { since := 5, tmo := 1000 } }, ?_⟩ <;> decide +kernel

theorem met_BuffersAreGrantedWhole :
    (∃ s : State, ∃ c n j : Nat, ∃ r : Requester, ∃ drain : Bool, let fl := s.f (pCORE c) F.WS_POOL_STS_FREE_FLOOR;
      let co := s.f (pCORE c) F.WS_POOL_STS_FREE_COMMON; let size := s.poolSize c;
      let most := if drain then size else size - s.poolFloor c; s.dead = false ∧ okCore c = true ∧ s.wants c r n = some (drain,
      j) ∧ drain = true ∧ j ≤ most ∧ s.poolTurn c (whoOf r) = true ∧ j ≤ fl + co) ∧
    (∃ s : State, ∃ c n j : Nat, ∃ r : Requester, ∃ drain : Bool, let co := s.f (pCORE c) F.WS_POOL_STS_FREE_COMMON;
      let size := s.poolSize c; let most := if drain then size else size - s.poolFloor c; s.dead = false ∧ okCore c = true ∧
      s.wants c r n = some (drain, j) ∧ drain = false ∧ j ≤ most ∧ s.poolTurn c (whoOf r) = true ∧ j ≤ co ∧ r = .gather) ∧
    (∃ s : State, ∃ c n j : Nat, ∃ r : Requester, ∃ drain : Bool, let co := s.f (pCORE c) F.WS_POOL_STS_FREE_COMMON;
      let size := s.poolSize c; let most := if drain then size else size - s.poolFloor c; s.dead = false ∧ okCore c = true ∧
      s.wants c r n = some (drain, j) ∧ drain = false ∧ j ≤ most ∧ s.poolTurn c (whoOf r) = true ∧ j ≤ co ∧ r = .inbound) ∧
    (∃ s : State, ∃ c n j : Nat, ∃ r : Requester, ∃ drain : Bool, let co := s.f (pCORE c) F.WS_POOL_STS_FREE_COMMON;
      let size := s.poolSize c; let most := if drain then size else size - s.poolFloor c; s.dead = false ∧ okCore c = true ∧
      s.wants c r n = some (drain, j) ∧ drain = false ∧ j ≤ most ∧ s.poolTurn c (whoOf r) = true ∧ j ≤ co ∧ r = .handOver) ∧
    (∃ s : State, ∃ c n j : Nat, ∃ r : Requester, ∃ drain : Bool, let fl := s.f (pCORE c) F.WS_POOL_STS_FREE_FLOOR;
      let co := s.f (pCORE c) F.WS_POOL_STS_FREE_COMMON; let size := s.poolSize c;
      let most := if drain then size else size - s.poolFloor c; s.dead = false ∧ okCore c = true ∧ s.wants c r n = some (drain,
      j) ∧ j ≤ most ∧ s.poolTurn c (whoOf r) = true ∧ ((if drain then fl + co else co) < j)) ∧
    (∃ s : State, ∃ c n j : Nat, ∃ r : Requester, ∃ drain : Bool, let size := s.poolSize c;
      let most := if drain then size else size - s.poolFloor c; s.dead = false ∧ okCore c = true ∧ s.wants c r n = some (drain,
      j) ∧ j ≤ most ∧ s.poolTurn c (whoOf r) = false) ∧
    (∃ s : State, ∃ c n j : Nat, ∃ r : Requester, ∃ drain : Bool, let size := s.poolSize c;
      let most := if drain then size else size - s.poolFloor c; s.dead = false ∧ okCore c = true ∧ s.wants c r n = some (drain,
      j) ∧ most < j) ∧
    (∃ s : State, ∃ c q n : Nat, let fl := s.f (pCORE c) F.WS_POOL_STS_FREE_FLOOR;
      let co := s.f (pCORE c) F.WS_POOL_STS_FREE_COMMON; s.dead = false ∧ okCore c = true ∧ q < 3 ∧ (s.tq c q).items = [] ∧
      n ≤ (s.tq c q).bufs ∧ fl ≤ s.poolFloor c ∧ fl + co + n ≤ s.poolSize c ∧ n ≠ 0) ∧
    (∃ s : State, ∃ c : Nat, s.dead = false ∧ okCore c = true ∧ (∀ w ∈ (s.core c).bufWait, w.who ≠ whoOf .inbound →
      s.coreNow c < w.since + s.f (pCORE c) F.WS_BUF_WAIT_US * 1000)) ∧
    (∃ s : State, ∃ c : Nat, ∃ w : BufWait, s.dead = false ∧ okCore c = true ∧ w ∈ (s.core c).bufWait ∧ w.who ≠ whoOf .inbound ∧
      w.since + s.f (pCORE c) F.WS_BUF_WAIT_US * 1000 ≤ s.coreNow c) ∧
    (∃ s : State, ∃ k c : Nat, s.dead = false ∧ okCluster k = true ∧ okCore c = true ∧ c ∈ s.slotWaiters k ∧
      mayGrant (s.clu k).fetchTurns (s.slotWaiters k) c = true ∧ (s.clu k).fetch.length < s.f (pCLU k) F.CLU_PHASE_FETCH_MAX) ∧
    (∃ s : State, ∃ k c : Nat, s.dead = false ∧ okCluster k = true ∧ okCore c = true ∧ (c ∉ s.slotWaiters k ∨
      mayGrant (s.clu k).fetchTurns (s.slotWaiters k) c = false ∨ s.f (pCLU k) F.CLU_PHASE_FETCH_MAX ≤ (s.clu k).fetch.length)) := by
  refine ⟨
    ⟨coreS { tqs := [(3, { need := 2 })] }, 0, 2, 2, .drain, true, ?_⟩,
    ⟨coreS { gth := { active := [({ no := 7, q := 0, wsa := 0x40, block := gblock 0x1001000010 } : GthCmd)] } } |>.setF (pCORE 0) F.GTH_CFG_OUT_MAX 16,
      0, 1, 1, .gather, false, ?_⟩,
    ⟨coreS { bufWait := [{ who := 7, since := 0, retry := true }] }, 0, 1, 1, .inbound, false, ?_⟩,
    ⟨coreS { op := some { part := 1, slot := 5, opid := 9, chain := true, hand := 3, handOk := false } }, 0, 1, 3, .handOver,
      false, ?_⟩,
    ⟨setPool 0 0 1 (coreS { tqs := [(3, { need := 2 })] }), 0, 2, 2, .drain, true, ?_⟩,
    ⟨coreS { bufWait := [{ who := 6, since := 0 }], tqs := [(3, { need := 2 })] }, 0, 2, 2, .drain, true, ?_⟩,
    ⟨coreS { tqs := [(3, { need := 9 })] }, 0, 9, 9, .drain, true, ?_⟩,
    ⟨setPool 0 1 3 (coreS { tqs := [(0, { bufs := 4, packed := 16384 })] }), 0, 0, 4, ?_⟩,
    ⟨coreS {}, 0, ?_⟩,
    ⟨atNow 1000 (coreS { bufWait := [{ who := 6, since := 0 }] }) |>.setF (pCORE 0) F.WS_BUF_WAIT_US 1, 0,
      { who := 6, since := 0 }, ?_⟩,
    ⟨((coreS { tqs := [(0, { items := [.stream false 1 0x10000 3] })] }).setClu 0 {}).setF (pCLU 0) F.CLU_PHASE_FETCH_MAX 1, 0,
      0, ?_⟩,
    ⟨coreS {}, 0, 0, ?_⟩⟩ <;> decide +kernel

theorem met_LayersArePrefetchedSwappedAndPassed_1 :
    (∃ s : State, ∃ m k n p : Nat, s.dead = false ∧ okMaster m = true ∧ k < 48 ∧ 1 ≤ n ∧ n ≤ 256 ∧ s.reaches m (pCLU k) = true ∧
      s.mayWrite m (pCLU k) = true ∧ s.rstBusy (pCLU k) = false ∧ s.holderOf resClu k = some p ∧ s.lpfBusy k = false ∧
      s.holds p (s.lpfList k).1 (s.lpfList k).2 16 = true ∧ s.dbl k = true) ∧
    (∃ s : State, ∃ m k n p : Nat, let cur := if s.swapDue k then (s.clu k).next else (s.clu k).cur; s.dead = false ∧
      okMaster m = true ∧ k < 48 ∧ 1 ≤ n ∧ n ≤ 256 ∧ s.reaches m (pCLU k) = true ∧ s.mayWrite m (pCLU k) = true ∧
      s.rstBusy (pCLU k) = false ∧ s.holderOf resClu k = some p ∧ s.lpfBusy k = false ∧
      s.holds p (s.lpfList k).1 (s.lpfList k).2 16 = true ∧ s.dbl k = false ∧ cur.map (·.code) = some 0) ∧
    (∃ s : State, ∃ m k n p : Nat, let cur := if s.swapDue k then (s.clu k).next else (s.clu k).cur; s.dead = false ∧
      okMaster m = true ∧ k < 48 ∧ 1 ≤ n ∧ n ≤ 256 ∧ s.reaches m (pCLU k) = true ∧ s.mayWrite m (pCLU k) = true ∧
      s.rstBusy (pCLU k) = false ∧ s.holderOf resClu k = some p ∧ s.lpfBusy k = false ∧
      s.holds p (s.lpfList k).1 (s.lpfList k).2 16 = true ∧ s.dbl k = false ∧ cur.map (·.code) ≠ some 0) ∧
    (∃ s : State, ∃ m k n p : Nat, s.dead = false ∧ okMaster m = true ∧ k < 48 ∧ 1 ≤ n ∧ n ≤ 256 ∧ s.reaches m (pCLU k) = true ∧
      s.mayWrite m (pCLU k) = true ∧ s.rstBusy (pCLU k) = false ∧ s.holderOf resClu k = some p ∧ s.lpfBusy k = false ∧
      s.holds p (s.lpfList k).1 (s.lpfList k).2 16 = false) ∧
    (∃ s : State, ∃ m k n p : Nat, s.dead = false ∧ okMaster m = true ∧ k < 48 ∧ 1 ≤ n ∧ n ≤ 256 ∧ s.reaches m (pCLU k) = true ∧
      s.mayWrite m (pCLU k) = true ∧ s.rstBusy (pCLU k) = false ∧ s.holderOf resClu k = some p ∧ s.lpfBusy k = true) ∧
    (∃ s : State, ∃ k : Nat, s.dead = false ∧ k < 48 ∧ (s.clu k).lpfWait = true) ∧
    (∃ s u : State, ∃ k p : Nat, ∃ r r' : LpfRun, ∃ errs : Errs, ∃ o : LpfOut, s.dead = false ∧ k < 48 ∧
      s.holderOf resClu k = some p ∧ (s.clu k).lpf = some r ∧ s.lpfBusy k = true ∧ u.mem.wait = false ∧
      lpfLoop k p (s.wregBytes k) (s.loadBase k) (2 ^ 26) r (s.finds errs) = (o, r', u) ∧ o = .end_ ∧ u.dbl k = true) ∧
    (∃ s u : State, ∃ k p : Nat, ∃ r r' : LpfRun, ∃ errs : Errs, ∃ o : LpfOut, s.dead = false ∧ k < 48 ∧
      s.holderOf resClu k = some p ∧ (s.clu k).lpf = some r ∧ s.lpfBusy k = true ∧ u.mem.wait = false ∧
      lpfLoop k p (s.wregBytes k) (s.loadBase k) (2 ^ 26) r (s.finds errs) = (o, r', u) ∧ o = .end_ ∧ u.dbl k = false) ∧
    (∃ s u : State, ∃ k p : Nat, ∃ r r' : LpfRun, ∃ errs : Errs, ∃ o : LpfOut, ∃ code d, s.dead = false ∧ k < 48 ∧
      s.holderOf resClu k = some p ∧ (s.clu k).lpf = some r ∧ s.lpfBusy k = true ∧ u.mem.wait = false ∧
      lpfLoop k p (s.wregBytes k) (s.loadBase k) (2 ^ 26) r (s.finds errs) = (o, r', u) ∧ o = .fail code d ∧ code < 256 ∧
      u.dbl k = true) ∧
    (∃ s u : State, ∃ k p : Nat, ∃ r r' : LpfRun, ∃ errs : Errs, ∃ o : LpfOut, ∃ code d, s.dead = false ∧ k < 48 ∧
      s.holderOf resClu k = some p ∧ (s.clu k).lpf = some r ∧ s.lpfBusy k = true ∧ u.mem.wait = false ∧
      lpfLoop k p (s.wregBytes k) (s.loadBase k) (2 ^ 26) r (s.finds errs) = (o, r', u) ∧ o = .fail code d ∧ code < 256 ∧
      u.dbl k = false) ∧
    (∃ s u : State, ∃ k p : Nat, ∃ r r' : LpfRun, ∃ errs : Errs, ∃ o : LpfOut, s.dead = false ∧ k < 48 ∧
      s.holderOf resClu k = some p ∧ (s.clu k).lpf = some r ∧ s.lpfBusy k = true ∧ u.mem.wait = false ∧
      lpfLoop k p (s.wregBytes k) (s.loadBase k) (2 ^ 26) r (s.finds errs) = (o, r', u) ∧ o = .wait) ∧
    (∃ s : State, ∃ m k v : Nat, s.dead = false ∧ okMaster m = true ∧ k < 48 ∧ v < 2 ^ 32 ∧ s.reaches m (pCLU k) = true ∧
      s.mayWrite m (pCLU k) = true ∧ s.rstBusy (pCLU k) = false ∧
      (regDefAt (pCLU k) R.CLU_WCFG).any (fun d => defRes0Ok d v) = true ∧ 1 ≤ bits v 22 16 ∧ bits v 22 16 ≤ 64 ∧
      (bits v 7 0 ≤ (if bit v 31 then 128 else 64)) ∧ (∀ c, c ∈ s.slotsOfClu k → s.phase c = 0) ∧ s.lpfBusy k = false ∧
      s.f (pCLU k) F.CLU_LPF_STS_SWAP_PEND = 0 ∧ (s.f (pCLU k) F.CLU_WCFG_MODE ≠ bits v 31 31 ∨
      s.f (pCLU k) F.CLU_WCFG_WREG ≠ bits v 7 0)) ∧
    (∃ s : State, ∃ m k v : Nat, s.dead = false ∧ okMaster m = true ∧ k < 48 ∧ v < 2 ^ 32 ∧ s.reaches m (pCLU k) = true ∧
      s.mayWrite m (pCLU k) = true ∧ s.rstBusy (pCLU k) = false ∧
      (regDefAt (pCLU k) R.CLU_WCFG).any (fun d => defRes0Ok d v) = true ∧ 1 ≤ bits v 22 16 ∧ bits v 22 16 ≤ 64 ∧
      (bits v 7 0 ≤ (if bit v 31 then 128 else 64)) ∧ (∀ c, c ∈ s.slotsOfClu k → s.phase c = 0) ∧ s.lpfBusy k = false ∧
      s.f (pCLU k) F.CLU_LPF_STS_SWAP_PEND = 0 ∧ s.f (pCLU k) F.CLU_WCFG_MODE = bits v 31 31 ∧
      s.f (pCLU k) F.CLU_WCFG_WREG = bits v 7 0) ∧
    (∃ s : State, ∃ m k v : Nat, s.dead = false ∧ okMaster m = true ∧ k < 48 ∧ v < 2 ^ 32 ∧ s.reaches m (pCLU k) = true ∧
      s.mayWrite m (pCLU k) = true ∧ s.rstBusy (pCLU k) = false ∧
      (regDefAt (pCLU k) R.CLU_WCFG).any (fun d => defRes0Ok d v) = true ∧ 1 ≤ bits v 22 16 ∧ bits v 22 16 ≤ 64 ∧
      (bits v 7 0 ≤ (if bit v 31 then 128 else 64)) ∧ v ≠ s.w (pCLU k) R.CLU_WCFG ∧ s.lpfBusy k = true) := by
  refine ⟨
    ⟨on (pCLU 0) (devP.setW (pCLU 0) R.CLU_LPF_LIST_LO 0x10001), 1, 0, 256, 1, ?_⟩,
    ⟨((on (pCLU 0) ({ devP with clus := [(0, { cur := some { bytes := 4 } })] })).setW (pCLU 0) R.CLU_LPF_LIST_LO 0x10001 |>.setF (pCLU 0) F.CLU_WCFG_MODE 1),
      1, 0, 256, 1, ?_⟩,
    ⟨((on (pCLU 0) ({ devP with clus := [(0, { })] })).setW (pCLU 0) R.CLU_LPF_LIST_LO 0x10001 |>.setF (pCLU 0) F.CLU_WCFG_MODE 1),
      1, 0, 256, 1, ?_⟩,
    ⟨devP.setW (pCLU 0) R.CLU_LPF_LIST_LO 0x10002 |>.setW (pCLU 0) R.CLU_LPF_LIST_HI 8, 1, 0, 256, 1, ?_⟩,
    ⟨devP.setF (pCLU 0) F.CLU_LPF_STS_BUSY 1, 1, 0, 256, 1, ?_⟩,
    ⟨{ devP with clus := [(0, { lpfWait := true, epochSeen := true, cur := some {} })] }, 0, ?_⟩,
    ⟨(({ devP with clus := [(0, { lpf := some { tier := 1, addr := 0x10000, lbuf := some { tier := 1, addr := 0x10000, data := (ent 0x20000 32 1 1 7).map (·, 0) } } })] }) |>.setF (pCLU 0) F.CLU_LPF_STS_BUSY 1 |>.setF (pCLU 0) F.CLU_WCFG_MODE 0),
      (lpfLoop 0 1 ((({ devP with clus := [(0, { lpf := some { tier := 1, addr := 0x10000, lbuf := some { tier := 1, addr := 0x10000, data := (ent 0x20000 32 1 1 7).map (·, 0) } } })] }) |>.setF (pCLU 0) F.CLU_LPF_STS_BUSY 1 |>.setF (pCLU 0) F.CLU_WCFG_MODE 0).wregBytes 0) ((({ devP with clus := [(0, { lpf := some { tier := 1, addr := 0x10000, lbuf := some { tier := 1, addr := 0x10000, data := (ent 0x20000 32 1 1 7).map (·, 0) } } })] }) |>.setF (pCLU 0) F.CLU_LPF_STS_BUSY 1 |>.setF (pCLU 0) F.CLU_WCFG_MODE 0).loadBase 0) (2 ^ 26) { tier := 1, addr := 0x10000, lbuf := some { tier := 1, addr := 0x10000, data := (ent 0x20000 32 1 1 7).map (·, 0) } } ((({ devP with clus := [(0, { lpf := some { tier := 1, addr := 0x10000, lbuf := some { tier := 1, addr := 0x10000, data := (ent 0x20000 32 1 1 7).map (·, 0) } } })] }) |>.setF (pCLU 0) F.CLU_LPF_STS_BUSY 1 |>.setF (pCLU 0) F.CLU_WCFG_MODE 0).finds [])).2.2,
      0, 1,
      { tier := 1, addr := 0x10000, lbuf := some { tier := 1, addr := 0x10000, data := (ent 0x20000 32 1 1 7).map (·, 0) } },
      (lpfLoop 0 1 ((({ devP with clus := [(0, { lpf := some { tier := 1, addr := 0x10000, lbuf := some { tier := 1, addr := 0x10000, data := (ent 0x20000 32 1 1 7).map (·, 0) } } })] }) |>.setF (pCLU 0) F.CLU_LPF_STS_BUSY 1 |>.setF (pCLU 0) F.CLU_WCFG_MODE 0).wregBytes 0) ((({ devP with clus := [(0, { lpf := some { tier := 1, addr := 0x10000, lbuf := some { tier := 1, addr := 0x10000, data := (ent 0x20000 32 1 1 7).map (·, 0) } } })] }) |>.setF (pCLU 0) F.CLU_LPF_STS_BUSY 1 |>.setF (pCLU 0) F.CLU_WCFG_MODE 0).loadBase 0) (2 ^ 26) { tier := 1, addr := 0x10000, lbuf := some { tier := 1, addr := 0x10000, data := (ent 0x20000 32 1 1 7).map (·, 0) } } ((({ devP with clus := [(0, { lpf := some { tier := 1, addr := 0x10000, lbuf := some { tier := 1, addr := 0x10000, data := (ent 0x20000 32 1 1 7).map (·, 0) } } })] }) |>.setF (pCLU 0) F.CLU_LPF_STS_BUSY 1 |>.setF (pCLU 0) F.CLU_WCFG_MODE 0).finds [])).2.1,
      [], .end_, ?_⟩,
    ⟨(({ devP with clus := [(0, { lpf := some { tier := 1, addr := 0x10000, lbuf := some { tier := 1, addr := 0x10000, data := (ent 0x20000 32 1 1 7).map (·, 0) } } })] }) |>.setF (pCLU 0) F.CLU_LPF_STS_BUSY 1 |>.setF (pCLU 0) F.CLU_WCFG_MODE 1),
      (lpfLoop 0 1 ((({ devP with clus := [(0, { lpf := some { tier := 1, addr := 0x10000, lbuf := some { tier := 1, addr := 0x10000, data := (ent 0x20000 32 1 1 7).map (·, 0) } } })] }) |>.setF (pCLU 0) F.CLU_LPF_STS_BUSY 1 |>.setF (pCLU 0) F.CLU_WCFG_MODE 1).wregBytes 0) ((({ devP with clus := [(0, { lpf := some { tier := 1, addr := 0x10000, lbuf := some { tier := 1, addr := 0x10000, data := (ent 0x20000 32 1 1 7).map (·, 0) } } })] }) |>.setF (pCLU 0) F.CLU_LPF_STS_BUSY 1 |>.setF (pCLU 0) F.CLU_WCFG_MODE 1).loadBase 0) (2 ^ 26) { tier := 1, addr := 0x10000, lbuf := some { tier := 1, addr := 0x10000, data := (ent 0x20000 32 1 1 7).map (·, 0) } } ((({ devP with clus := [(0, { lpf := some { tier := 1, addr := 0x10000, lbuf := some { tier := 1, addr := 0x10000, data := (ent 0x20000 32 1 1 7).map (·, 0) } } })] }) |>.setF (pCLU 0) F.CLU_LPF_STS_BUSY 1 |>.setF (pCLU 0) F.CLU_WCFG_MODE 1).finds [])).2.2,
      0, 1,
      { tier := 1, addr := 0x10000, lbuf := some { tier := 1, addr := 0x10000, data := (ent 0x20000 32 1 1 7).map (·, 0) } },
      (lpfLoop 0 1 ((({ devP with clus := [(0, { lpf := some { tier := 1, addr := 0x10000, lbuf := some { tier := 1, addr := 0x10000, data := (ent 0x20000 32 1 1 7).map (·, 0) } } })] }) |>.setF (pCLU 0) F.CLU_LPF_STS_BUSY 1 |>.setF (pCLU 0) F.CLU_WCFG_MODE 1).wregBytes 0) ((({ devP with clus := [(0, { lpf := some { tier := 1, addr := 0x10000, lbuf := some { tier := 1, addr := 0x10000, data := (ent 0x20000 32 1 1 7).map (·, 0) } } })] }) |>.setF (pCLU 0) F.CLU_LPF_STS_BUSY 1 |>.setF (pCLU 0) F.CLU_WCFG_MODE 1).loadBase 0) (2 ^ 26) { tier := 1, addr := 0x10000, lbuf := some { tier := 1, addr := 0x10000, data := (ent 0x20000 32 1 1 7).map (·, 0) } } ((({ devP with clus := [(0, { lpf := some { tier := 1, addr := 0x10000, lbuf := some { tier := 1, addr := 0x10000, data := (ent 0x20000 32 1 1 7).map (·, 0) } } })] }) |>.setF (pCLU 0) F.CLU_LPF_STS_BUSY 1 |>.setF (pCLU 0) F.CLU_WCFG_MODE 1).finds [])).2.1,
      [], .end_, ?_⟩,
    ⟨(({ devP with clus := [(0, { lpf := some { tier := 1, addr := 0x10000, lbuf := some { tier := 1, addr := 0x10000, data := (ent 0x10000 0 1 0 7).map (·, 0) } } })] }) |>.setF (pCLU 0) F.CLU_LPF_STS_BUSY 1 |>.setF (pCLU 0) F.CLU_WCFG_MODE 0),
      (lpfLoop 0 1 ((({ devP with clus := [(0, { lpf := some { tier := 1, addr := 0x10000, lbuf := some { tier := 1, addr := 0x10000, data := (ent 0x10000 0 1 0 7).map (·, 0) } } })] }) |>.setF (pCLU 0) F.CLU_LPF_STS_BUSY 1 |>.setF (pCLU 0) F.CLU_WCFG_MODE 0).wregBytes 0) ((({ devP with clus := [(0, { lpf := some { tier := 1, addr := 0x10000, lbuf := some { tier := 1, addr := 0x10000, data := (ent 0x10000 0 1 0 7).map (·, 0) } } })] }) |>.setF (pCLU 0) F.CLU_LPF_STS_BUSY 1 |>.setF (pCLU 0) F.CLU_WCFG_MODE 0).loadBase 0) (2 ^ 26) { tier := 1, addr := 0x10000, lbuf := some { tier := 1, addr := 0x10000, data := (ent 0x10000 0 1 0 7).map (·, 0) } } ((({ devP with clus := [(0, { lpf := some { tier := 1, addr := 0x10000, lbuf := some { tier := 1, addr := 0x10000, data := (ent 0x10000 0 1 0 7).map (·, 0) } } })] }) |>.setF (pCLU 0) F.CLU_LPF_STS_BUSY 1 |>.setF (pCLU 0) F.CLU_WCFG_MODE 0).finds [])).2.2,
      0, 1,
      { tier := 1, addr := 0x10000, lbuf := some { tier := 1, addr := 0x10000, data := (ent 0x10000 0 1 0 7).map (·, 0) } },
      (lpfLoop 0 1 ((({ devP with clus := [(0, { lpf := some { tier := 1, addr := 0x10000, lbuf := some { tier := 1, addr := 0x10000, data := (ent 0x10000 0 1 0 7).map (·, 0) } } })] }) |>.setF (pCLU 0) F.CLU_LPF_STS_BUSY 1 |>.setF (pCLU 0) F.CLU_WCFG_MODE 0).wregBytes 0) ((({ devP with clus := [(0, { lpf := some { tier := 1, addr := 0x10000, lbuf := some { tier := 1, addr := 0x10000, data := (ent 0x10000 0 1 0 7).map (·, 0) } } })] }) |>.setF (pCLU 0) F.CLU_LPF_STS_BUSY 1 |>.setF (pCLU 0) F.CLU_WCFG_MODE 0).loadBase 0) (2 ^ 26) { tier := 1, addr := 0x10000, lbuf := some { tier := 1, addr := 0x10000, data := (ent 0x10000 0 1 0 7).map (·, 0) } } ((({ devP with clus := [(0, { lpf := some { tier := 1, addr := 0x10000, lbuf := some { tier := 1, addr := 0x10000, data := (ent 0x10000 0 1 0 7).map (·, 0) } } })] }) |>.setF (pCLU 0) F.CLU_LPF_STS_BUSY 1 |>.setF (pCLU 0) F.CLU_WCFG_MODE 0).finds [])).2.1,
      [], .fail 0x04 (some (memKey 1 0x10000)), 0x04, some (memKey 1 0x10000), ?_⟩,
    ⟨(({ devP with clus := [(0, { lpf := some { tier := 1, addr := 0x10000, lbuf := some { tier := 1, addr := 0x10000, data := (ent 0x10000 0 1 0 7).map (·, 0) } } })] }) |>.setF (pCLU 0) F.CLU_LPF_STS_BUSY 1 |>.setF (pCLU 0) F.CLU_WCFG_MODE 1),
      (lpfLoop 0 1 ((({ devP with clus := [(0, { lpf := some { tier := 1, addr := 0x10000, lbuf := some { tier := 1, addr := 0x10000, data := (ent 0x10000 0 1 0 7).map (·, 0) } } })] }) |>.setF (pCLU 0) F.CLU_LPF_STS_BUSY 1 |>.setF (pCLU 0) F.CLU_WCFG_MODE 1).wregBytes 0) ((({ devP with clus := [(0, { lpf := some { tier := 1, addr := 0x10000, lbuf := some { tier := 1, addr := 0x10000, data := (ent 0x10000 0 1 0 7).map (·, 0) } } })] }) |>.setF (pCLU 0) F.CLU_LPF_STS_BUSY 1 |>.setF (pCLU 0) F.CLU_WCFG_MODE 1).loadBase 0) (2 ^ 26) { tier := 1, addr := 0x10000, lbuf := some { tier := 1, addr := 0x10000, data := (ent 0x10000 0 1 0 7).map (·, 0) } } ((({ devP with clus := [(0, { lpf := some { tier := 1, addr := 0x10000, lbuf := some { tier := 1, addr := 0x10000, data := (ent 0x10000 0 1 0 7).map (·, 0) } } })] }) |>.setF (pCLU 0) F.CLU_LPF_STS_BUSY 1 |>.setF (pCLU 0) F.CLU_WCFG_MODE 1).finds [])).2.2,
      0, 1,
      { tier := 1, addr := 0x10000, lbuf := some { tier := 1, addr := 0x10000, data := (ent 0x10000 0 1 0 7).map (·, 0) } },
      (lpfLoop 0 1 ((({ devP with clus := [(0, { lpf := some { tier := 1, addr := 0x10000, lbuf := some { tier := 1, addr := 0x10000, data := (ent 0x10000 0 1 0 7).map (·, 0) } } })] }) |>.setF (pCLU 0) F.CLU_LPF_STS_BUSY 1 |>.setF (pCLU 0) F.CLU_WCFG_MODE 1).wregBytes 0) ((({ devP with clus := [(0, { lpf := some { tier := 1, addr := 0x10000, lbuf := some { tier := 1, addr := 0x10000, data := (ent 0x10000 0 1 0 7).map (·, 0) } } })] }) |>.setF (pCLU 0) F.CLU_LPF_STS_BUSY 1 |>.setF (pCLU 0) F.CLU_WCFG_MODE 1).loadBase 0) (2 ^ 26) { tier := 1, addr := 0x10000, lbuf := some { tier := 1, addr := 0x10000, data := (ent 0x10000 0 1 0 7).map (·, 0) } } ((({ devP with clus := [(0, { lpf := some { tier := 1, addr := 0x10000, lbuf := some { tier := 1, addr := 0x10000, data := (ent 0x10000 0 1 0 7).map (·, 0) } } })] }) |>.setF (pCLU 0) F.CLU_LPF_STS_BUSY 1 |>.setF (pCLU 0) F.CLU_WCFG_MODE 1).finds [])).2.1,
      [], .fail 0x04 (some (memKey 1 0x10000)), 0x04, some (memKey 1 0x10000), ?_⟩,
    ⟨(({ devP with clus := [(0, { lpf := some { tier := 1, addr := 0x10000, lbuf := none } })] }).setF 0x400 F.PG_CTL_HOLD 1 |>.setF (pCLU 0) F.CLU_LPF_STS_BUSY 1 |>.setF (pCLU 0) F.CLU_WCFG_MODE 0),
      (lpfLoop 0 1 ((({ devP with clus := [(0, { lpf := some { tier := 1, addr := 0x10000, lbuf := none } })] }).setF 0x400 F.PG_CTL_HOLD 1 |>.setF (pCLU 0) F.CLU_LPF_STS_BUSY 1 |>.setF (pCLU 0) F.CLU_WCFG_MODE 0).wregBytes 0) ((({ devP with clus := [(0, { lpf := some { tier := 1, addr := 0x10000, lbuf := none } })] }).setF 0x400 F.PG_CTL_HOLD 1 |>.setF (pCLU 0) F.CLU_LPF_STS_BUSY 1 |>.setF (pCLU 0) F.CLU_WCFG_MODE 0).loadBase 0) (2 ^ 26) { tier := 1, addr := 0x10000, lbuf := none } ((({ devP with clus := [(0, { lpf := some { tier := 1, addr := 0x10000, lbuf := none } })] }).setF 0x400 F.PG_CTL_HOLD 1 |>.setF (pCLU 0) F.CLU_LPF_STS_BUSY 1 |>.setF (pCLU 0) F.CLU_WCFG_MODE 0).finds [])).2.2,
      0, 1, { tier := 1, addr := 0x10000, lbuf := none },
      (lpfLoop 0 1 ((({ devP with clus := [(0, { lpf := some { tier := 1, addr := 0x10000, lbuf := none } })] }).setF 0x400 F.PG_CTL_HOLD 1 |>.setF (pCLU 0) F.CLU_LPF_STS_BUSY 1 |>.setF (pCLU 0) F.CLU_WCFG_MODE 0).wregBytes 0) ((({ devP with clus := [(0, { lpf := some { tier := 1, addr := 0x10000, lbuf := none } })] }).setF 0x400 F.PG_CTL_HOLD 1 |>.setF (pCLU 0) F.CLU_LPF_STS_BUSY 1 |>.setF (pCLU 0) F.CLU_WCFG_MODE 0).loadBase 0) (2 ^ 26) { tier := 1, addr := 0x10000, lbuf := none } ((({ devP with clus := [(0, { lpf := some { tier := 1, addr := 0x10000, lbuf := none } })] }).setF 0x400 F.PG_CTL_HOLD 1 |>.setF (pCLU 0) F.CLU_LPF_STS_BUSY 1 |>.setF (pCLU 0) F.CLU_WCFG_MODE 0).finds [])).2.1,
      [], .wait, ?_⟩,
    ⟨{ devP with clus := [(0, { cur := some {}, next := some { bytes := 4 } })] }, 1, 0, 0x80010080, ?_⟩,
    ⟨devP.setF (pCLU 0) F.CLU_WCFG_MODE 1 |>.setF (pCLU 0) F.CLU_WCFG_WREG 128, 1, 0, 0x80010080, ?_⟩,
    ⟨devP.setF (pCLU 0) F.CLU_LPF_STS_BUSY 1, 1, 0, 0x80010080, ?_⟩⟩ <;> decide +kernel

theorem met_LayersArePrefetchedSwappedAndPassed_2 :
    (∃ s : State, ∃ k : Nat, ∃ ly : Layer, let n := max 1 (s.f (pCLU k) F.CLU_WCFG_NSHARD); let sh := (s.clu k).shard % n;
      let full := shardBytes ly.bytes n; let len := min full (ly.bytes - sh * full);
      let gets (c : Nat) : Prop := c ∈ s.slotsOfClu k ∧ (s.core c).shard.map (·.shard) = some sh ∧ s.hasFetch c = true;
      s.dead = false ∧ k < 48 ∧ (s.slotsOfClu k).Nodup ∧ (s.clu k).cur = some ly ∧ s.takesWork (pCLU k) = true ∧
      s.fenced (pCLU k) = false ∧ s.ringCode k = 0 ∧ s.ringWaits k = false ∧ (∃ c, c ∈ s.slotsOfClu k ∧
      (s.core c).shard ≠ none ∧ s.hasFetch c = true) ∧ (∀ c, gets c → len ≤ (s.ringWin c).2)) ∧
    (∃ s : State, ∃ k : Nat, s.dead = false ∧ k < 48 ∧ (∀ c, c ∈ s.slotsOfClu k → (s.core c).shard = none ∨
      s.hasFetch c = false)) := by
  refine ⟨
    ⟨(on (pCLU 0) ((coreS { shard := some { shard := 0 } }).setClu 0 { fetch := [0], cur := some { bytes := 4 } }) |>.setF (pCORE 0) F.CORE_RWIN_SIZE 1), 0, { bytes := 4 }, ?_, ?_, ?_, ?_, ?_, ?_, ?_, ?_, ⟨0, ?_⟩, fun c h => by
      have a : ∀ c ∈ ((on (pCLU 0) ((coreS { shard := some { shard := 0 } }).setClu 0 { fetch := [0], cur := some { bytes := 4 } }) |>.setF (pCORE 0) F.CORE_RWIN_SIZE 1)).slotsOfClu 0, (((on (pCLU 0) ((coreS { shard := some { shard := 0 } }).setClu 0 { fetch := [0], cur := some { bytes := 4 } }) |>.setF (pCORE 0) F.CORE_RWIN_SIZE 1)).core c).shard.map (·.shard) = some 0 → 4 ≤ (((on (pCLU 0) ((coreS { shard := some { shard := 0 } }).setClu 0 { fetch := [0], cur := some { bytes := 4 } }) |>.setF (pCORE 0) F.CORE_RWIN_SIZE 1)).ringWin c).2 := by decide +kernel
      exact a c h.1 h.2.1⟩,
    ⟨coreS {}, 0, ?_⟩⟩ <;> decide +kernel

theorem met_CoresAreSubstitutedAndRetired :
    (∃ s : State, ∃ m d f t' n : Nat, s.dead = false ∧ okMaster m = true ∧ d < 2 ∧ f < 200 ∧ 192 ≤ t' ∧ t' < 200 ∧
      s.reaches m pGLB = true ∧ s.mayWrite m pGLB = true ∧ s.rstBusy pGLB = false ∧ s.router.busy = none ∧
      s.role (256 * d + f) = .active ∧ s.role (256 * d + t') = .spare ∧ s.csubResetting (256 * d + f) = false ∧
      s.lcore (256 * d + f) = some n ∧ s.csubWaits (256 * d + f) = false ∧ (s.core (256 * d + f)).op = none) ∧
    (∃ s : State, ∃ m d f t' n : Nat, s.dead = false ∧ okMaster m = true ∧ d < 2 ∧ f < 200 ∧ 192 ≤ t' ∧ t' < 200 ∧
      s.reaches m pGLB = true ∧ s.mayWrite m pGLB = true ∧ s.rstBusy pGLB = false ∧ s.router.busy = none ∧
      s.role (256 * d + f) = .active ∧ s.role (256 * d + t') = .spare ∧ s.csubResetting (256 * d + f) = false ∧
      s.lcore (256 * d + f) = some n ∧ s.csubWaits (256 * d + f) = true) ∧
    (∃ s : State, ∃ m d f t' : Nat, s.dead = false ∧ okMaster m = true ∧ d < 2 ∧ f < 200 ∧ 192 ≤ t' ∧ t' < 200 ∧
      s.reaches m pGLB = true ∧ s.mayWrite m pGLB = true ∧ (s.router.busy ≠ none ∨ s.role (256 * d + t') ≠ .spare)) ∧
    (∃ s : State, ∃ d f t' n : Nat, s.dead = false ∧ d < 2 ∧ f < 200 ∧ 192 ≤ t' ∧ t' < 200 ∧ s.router.busy = some (d, f, t') ∧
      s.lcore (256 * d + f) = some n ∧ f ≠ t' ∧ s.csubWaits (256 * d + f) = true) ∧
    (∃ s : State, ∃ d f t' n : Nat, s.dead = false ∧ d < 2 ∧ f < 200 ∧ 192 ≤ t' ∧ t' < 200 ∧ s.router.busy = some (d, f, t') ∧
      s.lcore (256 * d + f) = some n ∧ f ≠ t' ∧ s.csubWaits (256 * d + f) = false ∧ (s.core (256 * d + f)).op = none) := by
  refine ⟨
    ⟨devP, 14, 0, 3, 199, 3, ?_⟩,
    ⟨devP.setF (pCKP 0) (F.CKP_PSTS_STATE.at 4 1) 1, 14, 0, 3, 192, 3, ?_⟩,
    ⟨{ devP with router := { busy := some (0, 1, 192) } }, 14, 0, 3, 192, ?_⟩,
    ⟨({ devP with router := { busy := some (0, 3, 192), held := true } }.setF (pCKP 0) (F.CKP_PSTS_STATE.at 4 1) 3), 0, 3, 192,
      3, ?_⟩,
    ⟨{ devP with router := { busy := some (0, 3, 192), held := true } }, 0, 3, 192, 3, ?_⟩⟩ <;> decide +kernel

theorem met_IndexAndControlInstructions :
    (∃ s : State, ∃ c w : Nat, s.runs c w ∧ (s.core c).fuse = none ∧ bits w 63 58 = 0x00 ∧ bits w 57 0 = 0) ∧
    (∃ s : State, ∃ c w : Nat, s.runs c w ∧ (s.core c).fuse = none ∧ bits w 63 58 = 0x03 ∧ bits w 57 13 = 0) ∧
    (∃ s : State, ∃ c w : Nat, s.runs c w ∧ (s.core c).fuse = none ∧ bits w 63 58 = 0x04 ∧ bits w 53 13 = 0) ∧
    (∃ s : State, ∃ c w : Nat, s.runs c w ∧ (s.core c).fuse = none ∧ bits w 63 58 = 0x05 ∧ bits w 47 13 = 0 ∧ bits w 49 48 = 0) ∧
    (∃ s : State, ∃ c w : Nat, s.runs c w ∧ (s.core c).fuse = none ∧ bits w 63 58 = 0x05 ∧ bits w 47 13 = 0 ∧ bits w 49 48 = 1) ∧
    (∃ s : State, ∃ c w : Nat, s.runs c w ∧ (s.core c).fuse = none ∧ bits w 63 58 = 0x05 ∧ bits w 47 13 = 0 ∧ bits w 49 48 = 2) ∧
    (∃ s : State, ∃ c w : Nat, s.runs c w ∧ (s.core c).fuse = none ∧ bits w 63 58 = 0x05 ∧ bits w 47 13 = 0 ∧ bits w 49 48 = 3) ∧
    (∃ s : State, ∃ c w : Nat, s.runs c w ∧ (s.core c).fuse = none ∧ bits w 63 58 = 0x08 ∧ bits w 53 48 = 0) ∧
    (∃ s : State, ∃ c w : Nat, s.runs c w ∧ (s.core c).fuse = none ∧ bits w 63 58 = 0x09 ∧ bits w 49 32 = 0) ∧
    (∃ s : State, ∃ c w : Nat, s.runs c w ∧ (s.core c).fuse = none ∧ bits w 63 58 = 0x0A ∧ bits w 45 0 = 0) ∧
    (∃ s : State, ∃ c w : Nat, s.runs c w ∧ (s.core c).fuse = none ∧ bits w 63 58 = 0x0B ∧ bits w 49 32 = 0) ∧
    (∃ s : State, ∃ c w : Nat, let k := s.core c; s.runs c w ∧ (s.core c).fuse = none ∧ bits w 63 58 = 0x00 ∧ bits w 57 0 ≠ 0 ∧
      k.op = none ∧ s.f (pCORE c) F.CORE_CFG_STOP_ON_FLT = 1) := by
  refine ⟨
    ⟨(coreS { running := true, pc := 8191, prog := [(8191, some 0x0)], idx := [(2, 1), (3, 0xFFFFFFFFFFFFFFFF)] }), 0, 0x0, ?_⟩,
    ⟨(coreS { running := true, pc := 8191, prog := [(8191, some 0xc00000000001fff)], idx := [(2, 1), (3, 0xFFFFFFFFFFFFFFFF)] }),
      0, 0xc00000000001fff, ?_⟩,
    ⟨(coreS { running := true, pc := 8191, prog := [(8191, some 0x1080000000000011)], idx := [(2, 1), (3, 0xFFFFFFFFFFFFFFFF)] }),
      0, 0x1080000000000011, ?_⟩,
    ⟨(coreS { running := true, pc := 8191, prog := [(8191, some 0x1408000000000007)], idx := [(2, 1)] }), 0, 0x1408000000000007,
      ?_⟩,
    ⟨(coreS { running := true, pc := 8191, prog := [(8191, some 0x1409000000000007)], idx := [(2, 1)] }), 0, 0x1409000000000007,
      ?_⟩,
    ⟨(coreS { running := true, pc := 8191, prog := [(8191, some 0x148e000000000005)], idx := [(2, 1), (3, 0xFFFFFFFFFFFFFFFF)] }),
      0, 0x148e000000000005, ?_⟩,
    ⟨(coreS { running := true, pc := 8191, prog := [(8191, some 0x140b000000000007)], idx := [(2, 1)] }), 0, 0x140b000000000007,
      ?_⟩,
    ⟨(coreS { running := true, pc := 8191, prog := [(8191, some 0x21c0ffffffffffff)], idx := [(2, 1), (3, 0xFFFFFFFFFFFFFFFF)] }),
      0, 0x21c0ffffffffffff, ?_⟩,
    ⟨(coreS { running := true, pc := 8191, prog := [(8191, some 0x24cc000080000000)], idx := [(2, 1), (3, 0xFFFFFFFFFFFFFFFF)] }),
      0, 0x24cc000080000000, ?_⟩,
    ⟨(coreS { running := true, pc := 8191, prog := [(8191, some 0x28cc800000000000)], idx := [(2, 1), (3, 0xFFFFFFFFFFFFFFFF)] }),
      0, 0x28cc800000000000, ?_⟩,
    ⟨(coreS { running := true, pc := 8191, prog := [(8191, some 0x2ccc0000ffffffff)], idx := [(2, 1), (3, 0xFFFFFFFFFFFFFFFF)] }),
      0, 0x2ccc0000ffffffff, ?_⟩,
    ⟨((coreS { running := true, pc := 8191, prog := [(8191, some 0x1)], idx := [(2, 1), (3, 0xFFFFFFFFFFFFFFFF)] } |>.setF (pCORE 0) F.CORE_CFG_STOP_ON_FLT 1) |>.setF (pCORE 0) F.CORE_CFG_STOP_ON_FLT 1),
      0, 0x1, ?_⟩⟩ <;> (first | decide +kernel | ((try unfold State.runs); decide +kernel))

theorem met_OperationsRunFromGetToPut :
    (∃ s : State, ∃ c w : Nat, let k := s.core c; s.runs c w ∧ (s.core c).fuse = none ∧ bits w 63 58 = 0x01 ∧ bits w 57 0 = 0 ∧
      k.op = none ∧ k.busy = false) ∧
    (∃ s : State, ∃ c w : Nat, let k := s.core c; s.runs c w ∧ (s.core c).fuse = none ∧ bits w 63 58 = 0x01 ∧ bits w 57 0 = 0 ∧
      k.op = none ∧ k.busy = true) ∧
    (∃ s : State, ∃ c w : Nat, let k := s.core c; ∃ h errs,
      let u := completed h.part h.slot ((s.finds errs).setCore c { k with drains := false }); s.runs c w ∧
      (s.core c).fuse = none ∧ k.op = some h ∧ bits w 63 58 = 0x02 ∧ bits w 57 13 = 0 ∧ k.busy = false ∧ u.mem.wait = false) ∧
    (∃ s : State, ∃ c w : Nat, let k := s.core c; ∃ h, s.runs c w ∧ (s.core c).fuse = none ∧ k.op = some h ∧
      bits w 63 58 = 0x02 ∧ bits w 57 13 = 0 ∧ k.busy = true) ∧
    (∃ s : State, ∃ c w : Nat, let k := s.core c; ∃ h, s.runs c w ∧ (s.core c).fuse = none ∧ k.op = some h ∧
      bits w 63 58 = 0x06 ∧ bits w 57 3 = 0 ∧ h.chain = true ∧ h.stage < 3 ∧ (∀ q, q < 3 → bit w q = false →
      (k.tq q).items = [])) ∧
    (∃ s : State, ∃ c w : Nat, let k := s.core c; s.runs c w ∧ (s.core c).fuse = none ∧ bits w 63 58 = 0x07 ∧ bits w 57 16 = 0 ∧
      (∀ h, k.op = some h → h.part < 8)) ∧
    (∃ s : State, ∃ m c : Nat, s.dead = false ∧ okMaster m = true ∧ okCore c = true ∧ s.reaches m (pCORE c) = true ∧
      s.mayWrite m (pCORE c) = true ∧ s.rstBusy (pCORE c) = false ∧ (s.core c).stopped = true) ∧
    (∃ s : State, ∃ c : Nat, ∃ h : HeldOp, s.dead = false ∧ okCore c = true ∧ (s.core c).op = some h ∧ h.part < 8 ∧
      s.f (pCORE c) F.CORE_RUNLIM_US ≠ 0 ∧ h.since + s.f (pCORE c) F.CORE_RUNLIM_US * 1000 ≤ s.coreNow c) ∧
    (∃ s : State, ∃ c : Nat, s.dead = false ∧ okCore c = true ∧ (s.f (pCORE c) F.CORE_RUNLIM_US = 0 ∨ ∀ h,
      (s.core c).op = some h → s.coreNow c < h.since + s.f (pCORE c) F.CORE_RUNLIM_US * 1000)) := by
  refine ⟨
    ⟨(coreS { running := true, pc := 8191, prog := [(8191, some 0x400000000000000)] }), 0, 0x400000000000000, ?_⟩,
    ⟨coreS { running := true, pc := 8191, prog := [(8191, some 0x400000000000000)], tqs := [(0, { items := [.stream false 1 0x10000 3] })] },
      0, 0x400000000000000, ?_⟩,
    ⟨(coreS { running := true, pc := 8191, prog := [(8191, some 0x800000000000007)], op := some { part := 1, slot := 5, opid := 9 } }).setSlot 1 5 { st := .running, exec := some (.core 0) },
      0, 0x800000000000007, { part := 1, slot := 5, opid := 9 }, [], ?_⟩,
    ⟨coreS { running := true, pc := 8191, prog := [(8191, some 0x800000000000007)], op := some { part := 1, slot := 5, opid := 9 }, tqs := [(0, { items := [.stream false 1 0x10000 3] })] },
      0, 0x800000000000007, { part := 1, slot := 5, opid := 9 }, ?_⟩,
    ⟨(coreS { running := true, pc := 8191, prog := [(8191, some 0x1800000000000002)], op := some { part := 1, slot := 5, opid := 9, chain := true, stage := 2 }, tqs := [(0, { bufs := 2, packed := 8192 }), (1, { bufs := 1, packed := 1 })] }),
      0, 0x1800000000000002, ({ part := 1, slot := 5, opid := 9, chain := true, stage := 2 } : HeldOp), ?_⟩,
    ⟨(coreS { running := true, pc := 8191, prog := [(8191, some 0x1c0000000000abcd)], op := some { part := 1, slot := 5, opid := 9 } }),
      0, 0x1c0000000000abcd, ?_⟩,
    ⟨on (pCORE 0) (coreS { stopped := true }), 1, 0, ?_⟩,
    ⟨atNow 1000 (coreS { running := true, op := some { part := 1, slot := 5, opid := 9 } } |>.setF (pCORE 0) F.CORE_RUNLIM_US 1),
      0, ({ part := 1, slot := 5, opid := 9 } : HeldOp), ?_⟩,
    ⟨coreS { running := true, op := some { part := 1, slot := 5, opid := 9 } } |>.setF (pCORE 0) F.CORE_RUNLIM_US 1, 0, ?_⟩⟩ <;> (first | decide +kernel | ((try unfold State.runs); decide +kernel))

theorem met_LoadsStoresAndTransfersAreIssued_1 :
    (∃ s : State, ∃ c w : Nat, let a := (s.ireg c (bits w 53 50) + bits w 23 0) % 2 ^ 24; ∃ d, s.runs c w ∧
      (s.core c).fuse = none ∧ bits w 63 58 = 0x0C ∧ bits w 49 24 = 0 ∧ (s.core c).busy = false ∧ a % 8 = 0 ∧
      s.wsRead c a 8 = .ok d ∧ firstMark d = 0) ∧
    (∃ s : State, ∃ c w : Nat, let a := (s.ireg c (bits w 53 50) + bits w 23 0) % 2 ^ 24; s.runs c w ∧ (s.core c).fuse = none ∧
      bits w 63 58 = 0x0C ∧ bits w 49 24 = 0 ∧ (s.core c).busy = false ∧ a % 8 ≠ 0 ∧ (s.core c).op = none) ∧
    (∃ s : State, ∃ c w : Nat, let a := (s.ireg c (bits w 53 50) + bits w 23 0) % 2 ^ 24; s.runs c w ∧ (s.core c).fuse = none ∧
      bits w 63 58 = 0x0D ∧ bits w 49 24 = 0 ∧ (s.core c).busy = false ∧ a % 8 = 0 ∧ a + 8 ≤ s.staticBytes c) ∧
    (∃ s : State, ∃ c w : Nat, let a := (s.ireg c (bits w 53 50) + bits w 23 0) % 2 ^ 24; ∃ o, s.runs c w ∧
      (s.core c).fuse = none ∧ bits w 63 58 = 0x0D ∧ bits w 49 24 = 0 ∧ (s.core c).busy = false ∧ a % 8 = 0 ∧
      s.regionOf c a = .hand o ∧ o + 8 ≤ 4096 * s.handBufs c) ∧
    (∃ s : State, ∃ c w : Nat, let q := bits w 57 56; let p := s.ireg c (bits w 55 52); s.runs c w ∧ (s.core c).fuse = none ∧
      bits w 63 58 = 0x10 ∧ bits w 51 0 = 0 ∧ s.handWait c = false ∧ bits p 63 50 = 0 ∧ p % 16 = 0 ∧ (s.tq c q).items = []) ∧
    (∃ s : State, ∃ c w : Nat, let q := bits w 57 56; let p := s.ireg c (bits w 55 52); s.runs c w ∧ (s.core c).fuse = none ∧
      bits w 63 58 = 0x10 ∧ bits w 51 0 = 0 ∧ s.handWait c = false ∧ bits p 63 50 = 0 ∧ p % 16 = 0 ∧ q < 3 ∧
      (s.tq c q).relPend = true) ∧
    (∃ s : State, ∃ c w : Nat, let q := bits w 57 56; let p := s.ireg c (bits w 55 52); s.runs c w ∧ (s.core c).fuse = none ∧
      bits w 63 58 = 0x10 ∧ bits w 51 0 = 0 ∧ s.handWait c = false ∧ bits p 63 50 = 0 ∧ p % 16 = 0 ∧ q < 3 ∧
      (s.tq c q).relPend = false) ∧
    (∃ s : State, ∃ c w : Nat, let p := s.ireg c (bits w 55 52); s.runs c w ∧ (s.core c).fuse = none ∧ bits w 63 58 = 0x10 ∧
      bits w 51 0 = 0 ∧ s.handWait c = false ∧ (bits p 63 50 ≠ 0 ∨ p % 16 ≠ 0) ∧ (s.core c).op = none) ∧
    (∃ s : State, ∃ c w : Nat, let k := (s.cluOf c).getD 0; let sh := s.ireg c (bits w 57 54) % 64; s.runs c w ∧
      (s.core c).fuse = none ∧ bits w 63 58 = 0x11 ∧ bits w 53 0 = 0 ∧ s.handWait c = false ∧ (s.core c).shard = none ∧
      sh < s.f (pCLU k) F.CLU_WCFG_NSHARD ∧ s.ringCode k = 0) ∧
    (∃ s : State, ∃ c w : Nat, let k := (s.cluOf c).getD 0; let sh := s.ireg c (bits w 57 54) % 64; s.runs c w ∧
      (s.core c).fuse = none ∧ bits w 63 58 = 0x11 ∧ bits w 53 0 = 0 ∧ s.handWait c = false ∧ (s.core c).shard = none ∧
      s.f (pCLU k) F.CLU_WCFG_NSHARD ≤ sh ∧ (s.core c).op = none) ∧
    (∃ s : State, ∃ c w : Nat, s.runs c w ∧ (s.core c).fuse = none ∧ bits w 63 58 = 0x12 ∧ bits w 51 0 = 0 ∧
      s.handWait c = false ∧ (s.core c).gth.waiting.length < 4 ∧ bits w 57 56 < 3) ∧
    (∃ s : State, ∃ m c d n : Nat, s.dead = false ∧ okMaster m = true ∧ okCore c = true ∧ 1 ≤ n ∧ d + n ≤ 8192 ∧
      s.reaches m (pCORE c) = true ∧ s.mayWrite m (pCORE c) = true ∧ s.rstBusy (pCORE c) = false ∧
      s.f (pCORE c) F.PG_CTL_EN = 0 ∧ s.f (pCORE c) F.CORE_PLD_STS_BUSY = 0 ∧
      s.holds ((s.assignee (pCORE c)).getD oTormal) (s.pldSrc c).1 (s.pldSrc c).2 (8 * n) = true) ∧
    (∃ s : State, ∃ m c d n : Nat, s.dead = false ∧ okMaster m = true ∧ okCore c = true ∧ 1 ≤ n ∧ d + n ≤ 8192 ∧
      s.reaches m (pCORE c) = true ∧ s.mayWrite m (pCORE c) = true ∧ s.rstBusy (pCORE c) = false ∧
      (s.f (pCORE c) F.PG_CTL_EN = 1 ∨ s.f (pCORE c) F.CORE_PLD_STS_BUSY = 1)) ∧
    (∃ s u : State, ∃ c code : Nat, ∃ x : Pld, ∃ errs : Errs, ∃ d : List (Byte × Bool), s.dead = false ∧ okCore c = true ∧
      (s.core c).pld = some x ∧ bulkRead (pCORE c) (c / 256) ⟨x.own, x.slot⟩ x.tier x.addr (8 * x.count) (s.finds errs) = (code,
      d, u) ∧ code = 0 ∧ u.mem.wait = false ∧ anyMark d = false) := by
  refine ⟨
    ⟨(coreS { running := true, pc := 8191, prog := [(8191, some 0x310c000000fffff8)], idx := [(3, 0x28), (4, 0x0102030405060708)], work := [(0x20, 9), (0x27, 1)] }),
      0, 0x310c000000fffff8, getDie [(0x20, 9), (0x27, 1)] [] 0x20 8, ?_⟩,
    ⟨(coreS { running := true, pc := 8191, prog := [(8191, some 0x310c000000fffff9)], idx := [(3, 0x28), (4, 0x0102030405060708)], work := [(0x20, 9), (0x27, 1)] }),
      0, 0x310c000000fffff9, ?_⟩,
    ⟨(coreS { running := true, pc := 8191, prog := [(8191, some 0x350c000000fffff8)], idx := [(3, 0x28), (4, 0x0102030405060708)], work := [(0x20, 9), (0x27, 1)] }),
      0, 0x350c000000fffff8, ?_⟩,
    ⟨(coreS { running := true, pc := 8191, prog := [(8191, some 0x350c000000000008)], idx := [(3, 0xC00FF0), (4, 5)], op := some { part := 1, slot := 5, opid := 9, chain := true, hand := 1 } }),
      0, 0x350c000000000008, 0xFF8, ?_⟩,
    ⟨(coreS { running := true, pc := 8191, prog := [(8191, some 0x4330000000000000)], idx := [(3, 0x1000000010000)] }), 0,
      0x4330000000000000, ?_⟩,
    ⟨(coreS { running := true, pc := 8191, prog := [(8191, some 0x4120000000000000)], idx := [(2, 0x1000000010000)], tqs := [(1, { relPend := true })] }),
      0, 0x4120000000000000, ?_⟩,
    ⟨(coreS { running := true, pc := 8191, prog := [(8191, some 0x4120000000000000)], idx := [(2, 0x1000000010000)], tqs := [(1, { relPend := false })] }),
      0, 0x4120000000000000, ?_⟩,
    ⟨(coreS { running := true, pc := 8191, prog := [(8191, some 0x4330000000000000)], idx := [(3, 0x1000000010008)] }), 0,
      0x4330000000000000, ?_⟩,
    ⟨(coreS { running := true, pc := 8191, prog := [(8191, some 0x44c0000000000000)], idx := [(3, 63)] } |>.setF (pCLU 0) F.CLU_WCFG_NSHARD 64),
      0, 0x44c0000000000000, ?_⟩,
    ⟨(coreS { running := true, pc := 8191, prog := [(8191, some 0x44c0000000000000)], idx := [(3, 63)] } |>.setF (pCLU 0) F.CLU_WCFG_NSHARD 63),
      0, 0x44c0000000000000, ?_⟩,
    ⟨(coreS { running := true, pc := 8191, prog := [(8191, some 0x4a30000000000000)], idx := [(3, 0x40)], tqs := [(2, { bufs := 1, packed := 5, relPend := true })] }),
      0, 0x4a30000000000000, ?_⟩,
    ⟨devP.setW (pCORE 0) R.CORE_PLD_SRC_LO 0x10001, 1, 0, 8191, 1, ?_⟩,
    ⟨on (pCORE 0) devP, 1, 0, 0, 8192, ?_⟩,
    ⟨(bytesAt 1 1 0x10000 [1, 2, 3, 4, 5, 6, 7,
      8] (coreS { pld := some { slot := 1, own := 1, tier := 1, addr := 0x10000, count := 1, dest := 8191 } })),
      (bulkRead (pCORE 0) 0 ⟨1, 1⟩ 1 0x10000 8 (((bytesAt 1 1 0x10000 [1, 2, 3, 4, 5, 6, 7,
      8] (coreS { pld := some { slot := 1, own := 1, tier := 1, addr := 0x10000, count := 1, dest := 8191 } }))).finds [])).2.2,
      0, 0, { slot := 1, own := 1, tier := 1, addr := 0x10000, count := 1, dest := 8191 }, [], (bulkRead (pCORE 0) 0 ⟨1,
      1⟩ 1 0x10000 8 (((bytesAt 1 1 0x10000 [1, 2, 3, 4, 5, 6, 7,
      8] (coreS { pld := some { slot := 1, own := 1, tier := 1, addr := 0x10000, count := 1, dest := 8191 } }))).finds [])).2.1,
      ?_⟩⟩ <;> (first | decide +kernel | ((try unfold State.runs); decide +kernel))

theorem met_LoadsStoresAndTransfersAreIssued_2 :
    (∃ s u : State, ∃ c code : Nat, ∃ x : Pld, ∃ errs : Errs, ∃ d : List (Byte × Bool), s.dead = false ∧ okCore c = true ∧
      (s.core c).pld = some x ∧ bulkRead (pCORE c) (c / 256) ⟨x.own, x.slot⟩ x.tier x.addr (8 * x.count) (s.finds errs) = (code,
      d, u) ∧ code = 0 ∧ u.mem.wait = false ∧ anyMark d = true) ∧
    (∃ s u : State, ∃ c code : Nat, ∃ x : Pld, ∃ errs : Errs, ∃ d : List (Byte × Bool), s.dead = false ∧ okCore c = true ∧
      (s.core c).pld = some x ∧ bulkRead (pCORE c) (c / 256) ⟨x.own, x.slot⟩ x.tier x.addr (8 * x.count) (s.finds errs) = (code,
      d, u) ∧ code ≠ 0 ∧ code < 256 ∧ u.mem.wait = false) ∧
    (∃ s u : State, ∃ c code : Nat, ∃ x : Pld, ∃ errs : Errs, ∃ d : List (Byte × Bool), s.dead = false ∧ okCore c = true ∧
      (s.core c).pld = some x ∧ bulkRead (pCORE c) (c / 256) ⟨x.own, x.slot⟩ x.tier x.addr (8 * x.count) (s.finds errs) = (code,
      d, u) ∧ u.mem.wait = true) := by
  refine ⟨
    ⟨(setPoison (memKey 1 0x10000) true (bytesAt 1 1 0x10000 [1, 2, 3, 4, 5, 6, 7,
      8] (coreS { pld := some { slot := 1, own := 1, tier := 1, addr := 0x10000, count := 1, dest := 8191 } }))),
      (bulkRead (pCORE 0) 0 ⟨1, 1⟩ 1 0x10000 8 (((setPoison (memKey 1 0x10000) true (bytesAt 1 1 0x10000 [1, 2, 3, 4, 5, 6, 7,
      8] (coreS { pld := some { slot := 1, own := 1, tier := 1, addr := 0x10000, count := 1, dest := 8191 } })))).finds [])).2.2,
      0, 0, { slot := 1, own := 1, tier := 1, addr := 0x10000, count := 1, dest := 8191 }, [], (bulkRead (pCORE 0) 0 ⟨1,
      1⟩ 1 0x10000 8 (((setPoison (memKey 1 0x10000) true (bytesAt 1 1 0x10000 [1, 2, 3, 4, 5, 6, 7,
      8] (coreS { pld := some { slot := 1, own := 1, tier := 1, addr := 0x10000, count := 1, dest := 8191 } })))).finds [])).2.1,
      ?_⟩,
    ⟨(coreS { pld := some { slot := 1, own := 1, tier := 2, addr := 0x200000000, count := 1, dest := 8191 } }),
      (bulkRead (pCORE 0) 0 ⟨1,
      1⟩ 2 0x200000000 8 (((coreS { pld := some { slot := 1, own := 1, tier := 2, addr := 0x200000000, count := 1, dest := 8191 } })).finds [])).2.2,
      0, 0x02, { slot := 1, own := 1, tier := 2, addr := 0x200000000, count := 1, dest := 8191 }, [], (bulkRead (pCORE 0) 0 ⟨1,
      1⟩ 2 0x200000000 8 (((coreS { pld := some { slot := 1, own := 1, tier := 2, addr := 0x200000000, count := 1, dest := 8191 } })).finds [])).2.1,
      ?_⟩,
    ⟨(coreS { pld := some { slot := 1, own := 1, tier := 1, addr := 0x10000, count := 1, dest := 8191 } }).setF 0x400 F.PG_CTL_HOLD 1,
      (bulkRead (pCORE 0) 0 ⟨1,
      1⟩ 1 0x10000 8 (((coreS { pld := some { slot := 1, own := 1, tier := 1, addr := 0x10000, count := 1, dest := 8191 } }).setF 0x400 F.PG_CTL_HOLD 1).finds [])).2.2,
      0, 0x12, { slot := 1, own := 1, tier := 1, addr := 0x10000, count := 1, dest := 8191 }, [], (bulkRead (pCORE 0) 0 ⟨1,
      1⟩ 1 0x10000 8 (((coreS { pld := some { slot := 1, own := 1, tier := 1, addr := 0x10000, count := 1, dest := 8191 } }).setF 0x400 F.PG_CTL_HOLD 1).finds [])).2.1,
      ?_⟩⟩ <;> decide +kernel

theorem met_TensorInstructionsWriteTheirSlots :
    (∃ s : State, ∃ c w : Nat, ∃ da db : Marked, let shape := bits w 57 56; let fmt := bits w 55 53; let n := bits w 47 41;
      let kb := s.ireg c (bits w 32 29); let acc := bit w 50; let v := s.tslot c n; s.runs c w ∧ (s.core c).fuse = none ∧
      bits w 63 58 = 0x20 ∧ bits w 24 0 = 0 ∧ bits w 55 53 < 6 ∧ (s.core c).busy = false ∧ s.handWait c = false ∧
      mactBad fmt kb (bit w 51) (bit w 48) = false ∧ (acc = true → v.cls ≠ none → v.cls = some (fmtInt fmt) ∧ v.shape = shape) ∧
      s.wsRead c (s.ireg c (bits w 40 37) % 2 ^ 24) (elemBytes fmt (kb * shapeG shape * shapeR shape * lanesOf fmt)) = .ok da ∧
      (s.wsRead c (s.ireg c (bits w 36 33) % 2 ^ 24) (elemBytes fmt (kb * (if bit w 49 then 1 else shapeG shape) * shapeC shape * lanesOf fmt)) = .ok db) ∧
      firstMark (da ++ db) = 0 ∧ 2 ≤ fmt) ∧
    (∃ s : State, ∃ c w : Nat, ∃ da db : Marked, let shape := bits w 57 56; let fmt := bits w 55 53; let n := bits w 47 41;
      let kb := s.ireg c (bits w 32 29); let acc := bit w 50; let v := s.tslot c n; s.runs c w ∧ (s.core c).fuse = none ∧
      bits w 63 58 = 0x20 ∧ bits w 24 0 = 0 ∧ bits w 55 53 < 6 ∧ (s.core c).busy = false ∧ s.handWait c = false ∧
      mactBad fmt kb (bit w 51) (bit w 48) = false ∧ (acc = true → v.cls ≠ none → v.cls = some (fmtInt fmt) ∧ v.shape = shape) ∧
      s.wsRead c (s.ireg c (bits w 40 37) % 2 ^ 24) (elemBytes fmt (kb * shapeG shape * shapeR shape * lanesOf fmt)) = .ok da ∧
      (s.wsRead c (s.ireg c (bits w 36 33) % 2 ^ 24) (elemBytes fmt (kb * (if bit w 49 then 1 else shapeG shape) * shapeC shape * lanesOf fmt)) = .ok db) ∧
      firstMark (da ++ db) = 0 ∧ fmt = 1 ∧ kb = 1 ∧ acc = false) ∧
    (∃ s : State, ∃ c w : Nat, ∃ d : Marked, let fmt := bits w 57 55; let acc := bit w 52; let sl := bits w 51 45;
      let n := s.ireg c (bits w 40 37); let o := s.ireg c (bits w 36 33); let wd := bits w 32 22; let v := s.tslot c sl;
      s.runs c w ∧ (s.core c).fuse = none ∧ bits w 63 58 = 0x21 ∧ bits w 21 0 = 0 ∧ bits w 57 55 ∈ [1, 4, 5] ∧
      bits w 54 53 ≠ 3 ∧ (s.core c).busy = false ∧ s.handWait c = false ∧ 1 ≤ wd ∧ o + wd ≤ 1024 ∧ 1 ≤ n ∧ n ≤ 2 ^ 20 ∧
      (acc = true → v.cls ≠ none → v.cls = some (fmt == 1) ∧ v.e = 0) ∧
      s.wsRead c (s.ireg c (bits w 44 41) % 2 ^ 24) (elemBytes fmt (n * wd)) = .ok d ∧ firstMark d = 0 ∧ fmt = 1 ∧ n = 1 ∧
      bits w 54 53 = 0) ∧
    (∃ s : State, ∃ c w : Nat, ∃ d : Marked, let fmt := bits w 57 55; let acc := bit w 52; let sl := bits w 51 45;
      let n := s.ireg c (bits w 40 37); let o := s.ireg c (bits w 36 33); let wd := bits w 32 22; let v := s.tslot c sl;
      s.runs c w ∧ (s.core c).fuse = none ∧ bits w 63 58 = 0x21 ∧ bits w 21 0 = 0 ∧ bits w 57 55 ∈ [1, 4, 5] ∧
      bits w 54 53 ≠ 3 ∧ (s.core c).busy = false ∧ s.handWait c = false ∧ 1 ≤ wd ∧ o + wd ≤ 1024 ∧ 1 ≤ n ∧ n ≤ 2 ^ 20 ∧
      (acc = true → v.cls ≠ none → v.cls = some (fmt == 1) ∧ v.e = 0) ∧
      s.wsRead c (s.ireg c (bits w 44 41) % 2 ^ 24) (elemBytes fmt (n * wd)) = .ok d ∧ firstMark d = 0 ∧ fmt = 1 ∧ n = 1 ∧
      bits w 54 53 = 1) ∧
    (∃ s : State, ∃ c w : Nat, ∃ d : Marked, let fmt := bits w 57 55; let acc := bit w 52; let sl := bits w 51 45;
      let n := s.ireg c (bits w 40 37); let o := s.ireg c (bits w 36 33); let wd := bits w 32 22; let v := s.tslot c sl;
      s.runs c w ∧ (s.core c).fuse = none ∧ bits w 63 58 = 0x21 ∧ bits w 21 0 = 0 ∧ bits w 57 55 ∈ [1, 4, 5] ∧
      bits w 54 53 ≠ 3 ∧ (s.core c).busy = false ∧ s.handWait c = false ∧ 1 ≤ wd ∧ o + wd ≤ 1024 ∧ 1 ≤ n ∧ n ≤ 2 ^ 20 ∧
      (acc = true → v.cls ≠ none → v.cls = some (fmt == 1) ∧ v.e = 0) ∧
      s.wsRead c (s.ireg c (bits w 44 41) % 2 ^ 24) (elemBytes fmt (n * wd)) = .ok d ∧ firstMark d = 0 ∧ fmt = 1 ∧ n = 1 ∧
      bits w 54 53 = 2) ∧
    (∃ s : State, ∃ c w : Nat, s.runs c w ∧ (s.core c).fuse = none ∧ bits w 63 58 = 0x22 ∧ bits w 50 0 = 0 ∧ bits w 56 55 ≠ 3 ∧
      (s.core c).busy = false ∧ s.handWait c = false) ∧
    (∃ s : State, ∃ c w : Nat, ∃ a b : Marked, let k := s.core c; let sl := bits w 57 51; let v := s.tslot c sl;
      let wsa := s.ireg c (bits w 43 40) % 2 ^ 24;
      let outs := drainElems v (bits w 50 48) (bits w 47 46) (if bit w 44 then some (a.map Prod.fst) else none) (k.fuse.map (fun f => (f, b.map Prod.fst)));
      let bytes := (if bit w 45 then tileHeader v (k.op.elim 0 (·.opid)) sl w k.fuse outs else []) ++ packOut (bits w 50 48) (outs.map Prod.fst);
      s.runs c w ∧ bits w 63 58 = 0x23 ∧ bits w 35 0 = 0 ∧ bits w 47 46 ≠ 3 ∧ (s.core c).busy = false ∧ s.handWait c = false ∧
      s.optRead c (bit w 44) (s.ireg c (bits w 39 36) % 2 ^ 24) (4 * shapeG v.shape * shapeC v.shape) = .ok a ∧
      s.optRead c k.fuse.isSome (k.fuse.elim 0 (·.wsa)) (k.fuse.elim 0 (fun f => elemBytes (ffmtCode f.fmt) 1024)) = .ok b ∧
      firstMark (a ++ b) = 0 ∧ wsa + bytes.length ≤ s.staticBytes c) := by
  refine ⟨
    ⟨(coreS { running := true, pc := 8191, prog := [(8191, some 0x8280fe0020000000)], idx := [(1, 1)] }), 0, 0x8280fe0020000000,
      List.replicate 256 (0, 0), List.replicate 256 (0, 0), ?_⟩,
    ⟨(coreS { running := true, pc := 8191, prog := [(8191, some 0x8220fe0020000000)], idx := [(1, 1)] }), 0, 0x8220fe0020000000,
      List.replicate 512 (0, 0), List.replicate 512 (0, 0), ?_⟩,
    ⟨(coreS { running := true, pc := 8191, prog := [(8191, some 0x848fe02000800000)], idx := [(1, 1)], work := [(0, 0x80), (1, 5)] }),
      0, 0x848fe02000800000, [(0x80, 0), (5, 0)], ?_⟩,
    ⟨(coreS { running := true, pc := 8191, prog := [(8191, some 0x84afe02000800000)], idx := [(1, 1)], work := [(0, 0x80), (1, 5)] }),
      0, 0x84afe02000800000, [(0x80, 0), (5, 0)], ?_⟩,
    ⟨(coreS { running := true, pc := 8191, prog := [(8191, some 0x84cfe02000800000)], idx := [(1, 1)], work := [(0, 0x80), (1, 5)] }),
      0, 0x84cfe02000800000, [(0x80, 0), (5, 0)], ?_⟩,
    ⟨(coreS { running := true, pc := 8191, prog := [(8191, some 0x8b18000000000000)], idx := [(3, 0x1000040)] }), 0,
      0x8b18000000000000, ?_⟩,
    ⟨(coreS { running := true, pc := 8191, prog := [(8191, some 0x8ff9640000000000)], idx := [(4, 0x40)], tally := [(127, { elems := [(0, 200), (1, 0xFFFFFFFF)], cls := some true, shape := 3 })] }),
      0, 0x8ff9640000000000, [], [], ?_⟩⟩ <;> (first | decide +kernel | ((try unfold State.runs); decide +kernel))

theorem met_GatherCommandsFetchAndLandRows :
    (∃ s : State, ∃ c q wsa pc : Nat, ∃ rest : List (Nat × Nat),
      let n := ((s.core c).gth.active.filter (fun g => g.q == q)).length;
      let d := getDie (s.core c).work (s.core c).workPois wsa 64;
      let g : GthCmd := { no := (s.core c).gth.nextId, q := q, wsa := wsa, pc := pc, block := d.map Prod.fst }; s.dead = false ∧
      okCore c = true ∧ (s.core c).gth.waiting = (q, wsa) :: rest ∧ (s.core c).gth.active.all (·.allOut) = true ∧
      s.hasFetch c = true ∧ ((s.tq c q).items.take n).all isGath = true ∧ (s.tq c q).items[n]? = some (.gath wsa pc) ∧
      wsa + 64 ≤ s.staticBytes c ∧ wsa % 64 = 0 ∧ firstMark d = 0 ∧ g.bad = none ∧ (∀ h, (s.core c).op = some h → h.cls ≠ 4)) ∧
    (∃ s : State, ∃ c q wsa pc : Nat, ∃ rest : List (Nat × Nat),
      let n := ((s.core c).gth.active.filter (fun g => g.q == q)).length;
      let d := getDie (s.core c).work (s.core c).workPois wsa 64;
      let g : GthCmd := { no := (s.core c).gth.nextId, q := q, wsa := wsa, pc := pc, block := d.map Prod.fst }; ∃ w,
      s.dead = false ∧ okCore c = true ∧ (s.core c).gth.waiting = (q, wsa) :: rest ∧
      (s.core c).gth.active.all (·.allOut) = true ∧ s.hasFetch c = true ∧ ((s.tq c q).items.take n).all isGath = true ∧
      (s.tq c q).items[n]? = some (.gath wsa pc) ∧ wsa + 64 ≤ s.staticBytes c ∧ wsa % 64 = 0 ∧ firstMark d = 0 ∧
      g.bad = some w ∧ (s.core c).op = none) ∧
    (∃ s : State, ∃ c : Nat, ∃ g : GthCmd, ∃ row : GthRow, let a := row.addr + row.issued;
      let n := min (row.len - row.issued) (tierM row.tier - a % tierM row.tier); s.dead = false ∧ okCore c = true ∧
      (s.core c).gth.metas = [] ∧ (s.core c).gth.active = [g] ∧ g.allOut = false ∧
      g.rows.find? (fun r => decide (r.issued < r.len)) = some row ∧ s.fenced (tierCtl row.tier a) = false ∧
      s.hasFetch c = true ∧ (s.core c).gth.reqs.length < s.f (pCORE c) F.GTH_CFG_OUT_MAX ∧
      s.writeOverlap c row.tier a n = false) ∧
    (∃ s : State, ∃ c : Nat, ∃ g : GthCmd, ∃ row : GthRow, let a := row.addr + row.issued;
      let n := min (row.len - row.issued) (tierM row.tier - a % tierM row.tier); s.dead = false ∧ okCore c = true ∧
      (s.core c).gth.metas = [] ∧ (s.core c).gth.active = [g] ∧ g.allOut = false ∧
      g.rows.find? (fun r => decide (r.issued < r.len)) = some row ∧ s.fenced (tierCtl row.tier a) = false ∧
      (s.hasFetch c = false ∨ s.f (pCORE c) F.GTH_CFG_OUT_MAX ≤ (s.core c).gth.reqs.length ∨
      s.writeOverlap c row.tier a n = true)) ∧
    (∃ s : State, ∃ c : Nat, ∃ r : ListReq, ∃ rest : List ListReq, s.dead = false ∧ okCore c = true ∧
      (s.core c).gth.metas = r :: rest ∧ (s.core c).gth.active.all (·.allOut) = true ∧ r.tier < 4 ∧
      s.grantsNow c r.tier r.addr (tierM r.tier) (reqClass false (s.isRmtDie (c / 256) r.tier r.addr)) r.iss) ∧
    (∃ s : State, ∃ c : Nat, ∃ g : GthCmd,
      let ahead := if g.mode = 3 then min (g.count + 1 - g.item) (2 ^ 32 - g.edge) else g.edgeEnd - g.edge;
      let tier := ptrTier (g.w 2); let addr := ptrAddr (g.w 2) + 4 * g.edge; let x := gthRead c tier addr 4 (4 * ahead) s; ∃ b,
      s.dead = false ∧ okCore c = true ∧ (s.core c).gth.metas = [] ∧ (s.core c).gth.active = [g] ∧ g.allOut = false ∧
      g.rows.find? (fun r => decide (r.issued < r.len)) = none ∧ g.edge < g.edgeEnd ∧ g.agg ≠ 0 ∧ x.1 = .ok b ∧ g.nv ≤ leNat b) ∧
    (∃ s : State, ∃ c : Nat, ∃ g : GthCmd,
      let ahead := if g.mode = 3 then min (g.count + 1 - g.item) (2 ^ 32 - g.edge) else g.edgeEnd - g.edge;
      let tier := ptrTier (g.w 2); let addr := ptrAddr (g.w 2) + 4 * g.edge; let x := gthRead c tier addr 4 (4 * ahead) s;
      s.dead = false ∧ okCore c = true ∧ (s.core c).gth.metas = [] ∧ (s.core c).gth.active = [g] ∧ g.allOut = false ∧
      g.rows.find? (fun r => decide (r.issued < r.len)) = none ∧ g.edge < g.edgeEnd ∧ g.agg ≠ 0 ∧ x.1 = .error (0x12, 0)) ∧
    (∃ s : State, ∃ c : Nat, ∃ g : GthCmd, ∃ rq : GthReq, ∃ row : GthRow, ∃ rest : List GthRow,
      let cls := reqClass false (s.isRmtDie (c / 256) rq.tier rq.addr); let d := s.readBytes rq.slot rq.tier rq.addr rq.len;
      s.dead = false ∧ okCore c = true ∧ (s.core c).gth.active = [g] ∧ g.no = rq.cmd ∧ g.allOut = false ∧ g.rows = row :: rest ∧
      row.seq = rq.seq ∧ (∀ x, x ∈ rest → x.seq ≠ row.seq) ∧ (s.core c).gth.reqs.find? (fun r => r.id == rq.id) = some rq ∧
      s.overdue (pCORE c) rq.iss = false ∧ s.turnAt rq.tier rq.addr rq.len cls rq.iss.since = true ∧
      s.accessCode (s.corePart c) rq.tier rq.addr rq.len = 0 ∧ anyMark d = false ∧ row.mark = 0 ∧ row.got + rq.len = row.len ∧
      g.seg = false ∧ g.agg = 0) ∧
    (∃ s : State, ∃ c : Nat, ∃ g : GthCmd, ∃ rq : GthReq, ∃ row : GthRow, ∃ rest : List GthRow,
      let cls := reqClass false (s.isRmtDie (c / 256) rq.tier rq.addr); let d := s.readBytes rq.slot rq.tier rq.addr rq.len;
      s.dead = false ∧ okCore c = true ∧ (s.core c).gth.active = [g] ∧ g.no = rq.cmd ∧ g.allOut = false ∧ g.rows = row :: rest ∧
      row.seq = rq.seq ∧ (∀ x, x ∈ rest → x.seq ≠ row.seq) ∧ (s.core c).gth.reqs.find? (fun r => r.id == rq.id) = some rq ∧
      s.overdue (pCORE c) rq.iss = false ∧ s.turnAt rq.tier rq.addr rq.len cls rq.iss.since = true ∧
      s.accessCode (s.corePart c) rq.tier rq.addr rq.len = 0 ∧ anyMark d = false ∧ row.mark = 0 ∧ row.got + rq.len = row.len ∧
      g.seg = false ∧ g.agg ≠ 0 ∧ rest = [] ∧ row.last = true ∧ g.acc ≠ []) ∧
    (∃ s : State, ∃ c : Nat, ∃ rq : GthReq, ∃ g : GthCmd, s.dead = false ∧ okCore c = true ∧
      (s.core c).gth.reqs.find? (fun r => r.id == rq.id) = some rq ∧
      (s.core c).gth.active.find? (fun x => x.no == rq.cmd) = some g ∧ g.rows.any (fun r => r.seq == rq.seq) = true ∧
      s.overdue (pCORE c) rq.iss = true) ∧
    (∃ s : State, ∃ c : Nat, ∃ rq : GthReq, ∃ g : GthCmd, let cls := reqClass false (s.isRmtDie (c / 256) rq.tier rq.addr);
      s.dead = false ∧ okCore c = true ∧ (s.core c).gth.reqs.find? (fun r => r.id == rq.id) = some rq ∧
      (s.core c).gth.active.find? (fun x => x.no == rq.cmd) = some g ∧ g.rows.any (fun r => r.seq == rq.seq) = true ∧
      s.overdue (pCORE c) rq.iss = false ∧ s.turnAt rq.tier rq.addr rq.len cls rq.iss.since = false) := by
  refine ⟨
    ⟨(coreS { work := ((List.range 64).zip (gblock 0x1001000010)).map (fun x => (0x40 + x.1, x.2)), tqs := [(0, { items := [.gath 0x40 5], bufs := 1 })], gth := { waiting := [(0, 0x40)] } }), 0, 0, 0x40, 5, [], ?_, ?_, ?_, ?_, ?_, ?_, ?_, ?_, ?_, ?_, ?_, fun h e => by
      have a : ((coreS { work := ((List.range 64).zip (gblock 0x1001000010)).map (fun x => (0x40 + x.1, x.2)), tqs := [(0, { items := [.gath 0x40 5], bufs := 1 })], gth := { waiting := [(0, 0x40)] } }).core 0).op = none := by decide +kernel
      cases a.symm.trans e⟩,
    ⟨(coreS { work := ((List.range 64).zip (gblock 0x100100001F)).map (fun x => (0x40 + x.1, x.2)), tqs := [(0, { items := [.gath 0x40 5], bufs := 1 })], gth := { waiting := [(0, 0x40)] } }),
      0, 0, 0x40, 5, [], 0, ?_⟩,
    ⟨(coreS { tqs := [(0, { items := [.gath 0x40 0], bufs := 1 })], gth := { active := [({ no := 7, q := 0, wsa := 0x40, block := gblock 0x1001000010, rows := [({ seq := 0, tier := 1, addr := 0x40020, len := 8, issued := 0, last := true, deg := 1 } : GthRow)], begun := 1 } : GthCmd)] } }) |>.setF (pCORE 0) F.GTH_CFG_OUT_MAX 4,
      0,
      ({ no := 7, q := 0, wsa := 0x40, block := gblock 0x1001000010, rows := [({ seq := 0, tier := 1, addr := 0x40020, len := 8, issued := 0, last := true, deg := 1 } : GthRow)], begun := 1 } : GthCmd),
      ({ seq := 0, tier := 1, addr := 0x40020, len := 8, issued := 0, last := true, deg := 1 } : GthRow), ?_⟩,
    ⟨(coreS { tqs := [(0, { items := [.gath 0x40 0], bufs := 1 })], gth := { active := [({ no := 7, q := 0, wsa := 0x40, block := gblock 0x1001000010, rows := [({ seq := 0, tier := 1, addr := 0x40020, len := 8, issued := 0, last := true, deg := 1 } : GthRow)], begun := 1 } : GthCmd)] } }) |>.setF (pCORE 0) F.GTH_CFG_OUT_MAX 0,
      0,
      ({ no := 7, q := 0, wsa := 0x40, block := gblock 0x1001000010, rows := [({ seq := 0, tier := 1, addr := 0x40020, len := 8, issued := 0, last := true, deg := 1 } : GthRow)], begun := 1 } : GthCmd),
      ({ seq := 0, tier := 1, addr := 0x40020, len := 8, issued := 0, last := true, deg := 1 } : GthRow), ?_⟩,
    ⟨coreS { gth := { metas := [{ tier := 1, addr := 0x30000, slot := 1 }] } }, 0, { tier := 1, addr := 0x30000, slot := 1 },
      [], ?_⟩,
    ⟨coreS { tqs := [(0, { items := [.gath 0x40 0], bufs := 1 })], gth := { active := [({ no := 7, q := 0, wsa := 0x40, block := gblock 0x1001000010, edge := 0, edgeEnd := 1, begun := 1, item := 1 } : GthCmd)], blks := [{ tier := 1, addr := 0x30000, data := List.replicate 64 (8, 0) }] } },
      0,
      ({ no := 7, q := 0, wsa := 0x40, block := gblock 0x1001000010, edge := 0, edgeEnd := 1, begun := 1, item := 1 } : GthCmd),
      [8, 8, 8, 8], ?_⟩,
    ⟨witGatherCommandsFetchAndLandRows_5_s, 0,
      ({ no := 7, q := 0, wsa := 0x40, block := gblock 0x1001000010, edge := 0, edgeEnd := 1, begun := 1, item := 1 } : GthCmd),
      ?_⟩,
    ⟨witGatherCommandsFetchAndLandRows_6_s, 0,
      ({ no := 7, q := 0, wsa := 0x40, block := gblock 0x1001000000, rows := [({ seq := 0, tier := 1, addr := 0x40020, len := 8, issued := 8, last := true, deg := 1 } : GthRow)], begun := 1 } : GthCmd),
      ({ id := 4, cmd := 7, seq := 0, tier := 1, addr := 0x40020, len := 8, ofs := 0, slot := 1 } : GthReq),
      ({ seq := 0, tier := 1, addr := 0x40020, len := 8, issued := 8, last := true, deg := 1 } : GthRow), [], ?_⟩,
    ⟨witGatherCommandsFetchAndLandRows_7_s, 0,
      ({ no := 7, q := 0, wsa := 0x40, block := gblock 0x1001000010, rows := [({ seq := 0, tier := 1, addr := 0x40020, len := 8, issued := 8, last := true, deg := 1 } : GthRow)], begun := 1, acc := [0x3F800000, 0] } : GthCmd),
      ({ id := 4, cmd := 7, seq := 0, tier := 1, addr := 0x40020, len := 8, ofs := 0, slot := 1 } : GthReq),
      ({ seq := 0, tier := 1, addr := 0x40020, len := 8, issued := 8, last := true, deg := 1 } : GthRow), [], ?_⟩,
    ⟨atNow 513 (coreS { tqs := [(0, { items := [.gath 0x40 0], bufs := 1 })], gth := { active := [({ no := 7, q := 0, wsa := 0x40, block := gblock 0x1001000000, rows := [({ seq := 0, tier := 1, addr := 0x40020, len := 8, issued := 8, last := true, deg := 1 } : GthRow)], begun := 1 } : GthCmd)], reqs := [({ id := 4, cmd := 7, seq := 0, tier := 1, addr := 0x40020, len := 8, ofs := 0, slot := 1, iss := {} } : GthReq)] } }),
      0, ({ id := 4, cmd := 7, seq := 0, tier := 1, addr := 0x40020, len := 8, ofs := 0, slot := 1, iss := {} } : GthReq),
      ({ no := 7, q := 0, wsa := 0x40, block := gblock 0x1001000000, rows := [({ seq := 0, tier := 1, addr := 0x40020, len := 8, issued := 8, last := true, deg := 1 } : GthRow)], begun := 1 } : GthCmd),
      ?_⟩,
    ⟨atNow 5 (coreS { tqs := [(0, { items := [.gath 0x40 0], bufs := 1 })], gth := { active := [({ no := 7, q := 0, wsa := 0x40, block := gblock 0x1001000000, rows := [({ seq := 0, tier := 1, addr := 0x40020, len := 8, issued := 8, last := true, deg := 1 } : GthRow)], begun := 1 } : GthCmd)], reqs := [({ id := 4, cmd := 7, seq := 0, tier := 1, addr := 0x40020, len := 8, ofs := 0, slot := 1, iss := { since := 5, tmo := 1000 } } : GthReq), ({ id := 5, cmd := 7, seq := 0, tier := 1, addr := 0x40020, len := 8, ofs := 0, slot := 1, iss := { since := 0, tmo := 1000 } } : GthReq)] } }),
      0,
      ({ id := 4, cmd := 7, seq := 0, tier := 1, addr := 0x40020, len := 8, ofs := 0, slot := 1, iss := { since := 5, tmo := 1000 } } : GthReq),
      ({ no := 7, q := 0, wsa := 0x40, block := gblock 0x1001000000, rows := [({ seq := 0, tier := 1, addr := 0x40020, len := 8, issued := 8, last := true, deg := 1 } : GthRow)], begun := 1 } : GthCmd),
      ?_⟩⟩ <;> (first | decide +kernel | ((try unfold State.grantsNow); decide +kernel))

theorem met_MigrationEnginesWorkThroughTheirLists :
    (∃ s : State, ∃ p n d : Nat, ∃ errs : Errs, let o := s.slot p n; let m := s.mop p n; let tt := o.copy;
      let s0 := s.finds errs; ∃ s1 s2 s3 u : State, ∃ rb g : List Byte, ∃ a : RowAt, ∃ x : Nat, s.dead = false ∧ p < 8 ∧
      n < 65536 ∧ s.migOf p n 5 = some d ∧ s.tdWrong p tt 2 = false ∧ m.next ≤ bits (o.arg 1) 63 50 ∧
      migRead d p (ptrTier (o.arg 1)) (ptrAddr (o.arg 1) + 4 * m.next) 4 s0 = (.ok rb, s1) ∧
      (migRead d p (ptrTier (o.arg 2)) (ptrAddr (o.arg 2) + m.next * (bits (o.arg 2) 55 50 + 1) * 64) ((if bit (o.arg 2) 56 then 2 else 4) * tdW tt) s1 = (.ok g,
      s2)) ∧ leNat rb < tdNrows tt ∧
      rowAddr (pMIG d) (s2.access p) d tt (rdTable (pMIG d) (s2.access p) d tt) (leNat rb) s2 = (.ok a, s3) ∧
      (List.range (ceilDiv (recBytes (tdRfmt tt) (tdW tt)) 64)).any (fun i => s3.accessCode p a.tier (a.addr + 64 * i) 64 == 0x12) = false ∧
      (updLines d p a.tier a.addr (if tdRfmt tt == 6 then (if bit (o.arg 2) 56 then 0x06 else 0x05) else 0x03) (gradLanes (tdRfmt tt == 6) (bit (o.arg 2) 56) (tdW tt) g) (ceilDiv (recBytes (tdRfmt tt) (tdW tt)) 64) 0 s3 = (0,
      x, u)) ∧ u.mem.wait = false) ∧
    (∃ s : State, ∃ p n d : Nat, ∃ errs : Errs, let o := s.slot p n; let m := s.mop p n; let tt := o.copy;
      let s0 := s.finds errs; ∃ u : State, s.dead = false ∧ p < 8 ∧ n < 65536 ∧ s.migOf p n 5 = some d ∧
      s.tdWrong p tt 2 = false ∧ bits (o.arg 1) 63 50 < m.next ∧
      migWrite d p (ptrTier (o.arg 3)) (ptrAddr (o.arg 3)) (leBytes 4 m.done ++ leBytes 4 m.same ++ leBytes 4 m.full ++ leBytes 4 m.nonfin) s0 = (0,
      u) ∧ u.mem.wait = false) ∧
    (∃ s : State, ∃ p n d : Nat, let o := s.slot p n; let tt := o.copy; s.dead = false ∧ p < 8 ∧ n < 65536 ∧
      s.migOf p n 5 = some d ∧ s.tdWrong p tt 2 = true ∧ o.frel = false ∧ (s.flow p o.flow).ordered = false) ∧
    (∃ s : State, ∃ p n d : Nat, ∃ errs : Errs, let o := s.slot p n; let m := s.mop p n; let tt := o.copy;
      let s0 := s.finds errs; ∃ s1 : State, ∃ v : List Byte, s.dead = false ∧ p < 8 ∧ n < 65536 ∧ s.migOf p n 0x11 = some d ∧
      m.started = false ∧ migRead d p (ptrTier (o.arg 1)) (ptrAddr (o.arg 1)) 64 s0 = (.ok v, s1) ∧ s1.tdWrong p tt 2 = false ∧
      s1.tdWrong p v 1 = false ∧ requantPair tt v = true ∧ s1.mem.wait = false) ∧
    (∃ s : State, ∃ p n d : Nat, ∃ errs : Errs, let o := s.slot p n; let m := s.mop p n; let tt := o.copy;
      let s0 := s.finds errs; ∃ s1 s2 s3 u : State, ∃ a w : RowAt, ∃ b : List Byte,
      let q := requantRow (tdRfmt m.serve == 1) (decodeRec (tdRfmt tt) (tdFxexp tt) (tdW tt) b); s.dead = false ∧ p < 8 ∧
      n < 65536 ∧ s.migOf p n 0x11 = some d ∧ m.started = true ∧ m.next < bits (o.arg 2) 63 32 ∧
      bits (o.arg 2) 31 0 + m.next < tdNrows tt ∧ bits (o.arg 2) 31 0 + m.next < tdNrows m.serve ∧
      rowAddr (pMIG d) (s.access p) d tt (rdTable (pMIG d) (s.access p) d tt) (bits (o.arg 2) 31 0 + m.next) s0 = (.ok a, s1) ∧
      migRead d p a.tier a.addr (recBytes (tdRfmt tt) (tdW tt)) s1 = (.ok b, s2) ∧
      rowAddr (pMIG d) (s2.access p) d m.serve (rdTable (pMIG d) (s2.access p) d m.serve) (bits (o.arg 2) 31 0 + m.next) s2 = (.ok w,
      s3) ∧
      migWrite d p w.tier w.addr (padTo (64 * tdRst m.serve) (leBytes 2 q.1 ++ leBytes 2 q.2.1 ++ packCodes (tdRfmt m.serve == 1) q.2.2.1)) s3 = (0,
      u) ∧ u.mem.wait = false) ∧
    (∃ s : State, ∃ p n d : Nat, ∃ errs : Errs, let o := s.slot p n; let m := s.mop p n; let tt := o.copy;
      let s0 := s.finds errs; ∃ s1 : State, s.dead = false ∧ p < 8 ∧ n < 65536 ∧ s.migOf p n 0x10 = some d ∧ m.started = false ∧
      tdBad tt (s.sharedOf p) = false ∧ tdRedir tt = true ∧
      listOk d p (ptrTier (o.arg 1)) (ptrAddr (o.arg 1)) (bits (o.arg 1) 63 50 + 1) 0 s0 = (.ok true, s1) ∧ s1.mem.wait = false) ∧
    (∃ s : State, ∃ p n d : Nat, ∃ errs : Errs, let o := s.slot p n; let m := s.mop p n; let tt := o.copy;
      let s0 := s.finds errs; ∃ s1 s2 : State, ∃ eb : List Byte, ∃ a : RowAt, s.dead = false ∧ p < 8 ∧ n < 65536 ∧
      s.migOf p n 0x10 = some d ∧ m.started = true ∧ m.fail = none ∧ m.next ≤ bits (o.arg 1) 63 50 ∧
      migRead d p (ptrTier (o.arg 1)) (ptrAddr (o.arg 1) + 8 * m.next) 8 s0 = (.ok eb, s1) ∧
      m.moves.any (fun x => x.row == bits (leNat eb) 31 0) = false ∧ s.movesOf d < s.f (pMIG d) F.MIG_CFG_MOVES ∧
      bits (leNat eb) 31 0 < tdNrows tt ∧
      rowAddr (pMIG d) (s1.access p) d tt (rdTable (pMIG d) (s1.access p) d tt) (bits (leNat eb) 31 0) s1 = (.ok a, s2) ∧
      bits (leNat eb) 37 32 < tdNshard tt ∧ bits (leNat eb) 37 32 = a.shard ∧ s2.mem.wait = false) ∧
    (∃ s : State, ∃ p n d : Nat, ∃ errs : Errs, let o := s.slot p n; let m := s.mop p n; let tt := o.copy;
      let s0 := s.finds errs; ∃ u : State, ∃ r : Nat, ∃ v : RowMove, s.dead = false ∧ p < 8 ∧ n < 65536 ∧
      s.migOf p n 0x10 = some d ∧ m.moves.find? (fun v => v.row == r && !v.redirected) = some v ∧
      tdRdofs tt + 8 * v.bucket + 8 ≤ s.sharedOf p ∧
      migWrite d p (ptrTier (tdw tt 3)) (ptrAddr (tdw tt 3) + 8 * v.bucket) (leBytes 8 v.entry) s0 = (0, u) ∧
      u.mem.wait = false) ∧
    (∃ s : State, ∃ p n d : Nat, let o := s.slot p n; let m := s.mop p n; let tt := o.copy; ∃ r : Nat, ∃ v : RowMove,
      s.dead = false ∧ p < 8 ∧ n < 65536 ∧ s.migOf p n 0x10 = some d ∧ m.fail = none ∧
      m.moves.find? (fun v => v.row == r && v.redirected) = some v ∧ v.oldSlot < tdRps tt) ∧
    (∃ s : State, ∃ p n d : Nat, ∃ errs : Errs, let o := s.slot p n; let m := s.mop p n; let tt := o.copy;
      let s0 := s.finds errs; ∃ s1 u : State, ∃ r x : Nat, ∃ v : RowMove, ∃ h : Shard, s.dead = false ∧ p < 8 ∧ n < 65536 ∧
      s.migOf p n 0x10 = some d ∧ m.fail = none ∧ m.moves.find? (fun v => v.row == r && v.redirected) = some v ∧
      tdRps tt ≤ v.oldSlot ∧ shardOf (pMIG d) (s.access p) d tt v.oldShard s0 = (.ok h, s1) ∧
      setSpare d p h (v.oldSlot - tdRps tt) false s1 = (0, x, u) ∧ u.mem.wait = false) ∧
    (∃ s : State, ∃ p n d : Nat, let o := s.slot p n; let m := s.mop p n; let tt := o.copy; ∃ r code : Nat, ∃ v : RowMove,
      s.dead = false ∧ p < 8 ∧ n < 65536 ∧ s.migOf p n 0x10 = some d ∧ m.fail = some (code, r) ∧ m.moves = [v] ∧
      v.redirected = true ∧ v.oldSlot < tdRps tt ∧ o.frel = false ∧ (s.flow p o.flow).ordered = false) := by
  refine ⟨
    ⟨witMigrationEnginesWorkThroughTheirLists_1_s, 1, 5, 0, [], witMigrationEnginesWorkThroughTheirLists_1_s1,
      witMigrationEnginesWorkThroughTheirLists_1_s2, witMigrationEnginesWorkThroughTheirLists_1_s3,
      (updLines 0 1 1 0x40080 3 (gradLanes false false 2 [0, 0, 0x80, 0x3F, 0, 0, 0,
      0x40]) 1 0 witMigrationEnginesWorkThroughTheirLists_1_s3).2.2, leBytes 4 2, [0, 0, 0x80, 0x3F, 0, 0, 0, 0x40], ⟨0, 2, 1,
      0x40080⟩, (updLines 0 1 1 0x40080 3 (gradLanes false false 2 [0, 0, 0x80, 0x3F, 0, 0, 0,
      0x40]) 1 0 witMigrationEnginesWorkThroughTheirLists_1_s3).2.1, ?_⟩,
    ⟨witMigrationEnginesWorkThroughTheirLists_2_s, 1, 5, 0, [],
      (migWrite 0 1 1 0x30000 (leBytes 4 1 ++ leBytes 4 0 ++ leBytes 4 0 ++ leBytes 4 0) witMigrationEnginesWorkThroughTheirLists_2_s).2,
      ?_⟩,
    ⟨withOp { st := .running, exec := some (.mig 0), copy := tdesc 0x80101 0, desc := [5, 0, 0, 0, 0x1000000070000, 0x1000000010000, 0x1000000020000, 0x1000000030000] },
      1, 5, 0, ?_⟩,
    ⟨witMigrationEnginesWorkThroughTheirLists_4_s, 1, 5, 0, [],
      (migRead 0 1 1 0x10000 64 witMigrationEnginesWorkThroughTheirLists_4_s).2, tdesc 0x80101 0, ?_⟩,
    ⟨witMigrationEnginesWorkThroughTheirLists_5_s, 1, 5, 0, [], witMigrationEnginesWorkThroughTheirLists_5_s1,
      witMigrationEnginesWorkThroughTheirLists_5_s2, witMigrationEnginesWorkThroughTheirLists_5_s3,
      (migWrite 0 1 1 0x40080 (padTo 64 (let q := requantRow false (decodeRec 4 0 2 [0, 0, 0x80, 0x3F, 0, 0, 0, 0xC0]);
      leBytes 2 q.1 ++ leBytes 2 q.2.1 ++ packCodes false q.2.2.1)) witMigrationEnginesWorkThroughTheirLists_5_s3).2, ⟨0, 2, 1,
      0x40080⟩, ⟨0, 2, 1, 0x40080⟩, [0, 0, 0x80, 0x3F, 0, 0, 0, 0xC0], ?_⟩,
    ⟨witMigrationEnginesWorkThroughTheirLists_6_s, 1, 5, 0, [],
      (listOk 0 1 1 0x10000 1 0 witMigrationEnginesWorkThroughTheirLists_6_s).2, ?_⟩,
    ⟨witMigrationEnginesWorkThroughTheirLists_7_s, 1, 5, 0, [], witMigrationEnginesWorkThroughTheirLists_7_s1,
      (rowAddr (pMIG 0) (witMigrationEnginesWorkThroughTheirLists_7_s1.access 1) 0 (tdesc 0x801c2 0x1000000060000) (rdTable (pMIG 0) (witMigrationEnginesWorkThroughTheirLists_7_s1.access 1) 0 (tdesc 0x801c2 0x1000000060000)) 2 witMigrationEnginesWorkThroughTheirLists_7_s1).2,
      leBytes 8 2, ⟨0, 2, 1, 0x40080⟩, ?_⟩,
    ⟨witMigrationEnginesWorkThroughTheirLists_8_s, 1, 5, 0, [],
      (migWrite 0 1 1 0x60038 (leBytes 8 ({ row := 2, oldShard := 0, oldSlot := 2, newShard := 0, newSlot := 5, bucket := 7, home := false } : RowMove).entry) witMigrationEnginesWorkThroughTheirLists_8_s).2,
      2, { row := 2, oldShard := 0, oldSlot := 2, newShard := 0, newSlot := 5, bucket := 7, home := false }, ?_⟩,
    ⟨(withOp { st := .running, exec := some (.mig 0), copy := tdesc 0x801c2 0x1000000060000, desc := [16, 0, 0, 0, 0x1000000070000, 0x1000000010000, 0, 0x1000000030000] }).setMop 1 5 { started := true, moves := [{ row := 2, oldShard := 0, oldSlot := 2, newShard := 0, newSlot := 5, bucket := 7, home := false, redirected := true }] },
      1, 5, 0, 2,
      { row := 2, oldShard := 0, oldSlot := 2, newShard := 0, newSlot := 5, bucket := 7, home := false, redirected := true },
      ?_⟩,
    ⟨witMigrationEnginesWorkThroughTheirLists_10_s, 1, 5, 0, [], witMigrationEnginesWorkThroughTheirLists_10_s1,
      (setSpare 0 1 { tier := 1, base := 0x40000, cap := 8, sbTier := 1, sbAddr := 0x58000 } 0 false witMigrationEnginesWorkThroughTheirLists_10_s1).2.2,
      2,
      (setSpare 0 1 { tier := 1, base := 0x40000, cap := 8, sbTier := 1, sbAddr := 0x58000 } 0 false witMigrationEnginesWorkThroughTheirLists_10_s1).2.1,
      { row := 2, oldShard := 0, oldSlot := 4, newShard := 0, newSlot := 5, bucket := 7, home := false, redirected := true },
      { tier := 1, base := 0x40000, cap := 8, sbTier := 1, sbAddr := 0x58000 }, ?_⟩,
    ⟨(withOp { st := .running, exec := some (.mig 0), copy := tdesc 0x801c2 0x1000000060000, desc := [16, 0, 0, 0, 0x1000000070000, 0x1000000010000, 0, 0x1000000030000] }).setMop 1 5 { started := true, fail := some (2, 2), moves := [{ row := 2, oldShard := 0, oldSlot := 2, newShard := 0, newSlot := 5, bucket := 7, home := false, redirected := true }] },
      1, 5, 0, 2, 2,
      { row := 2, oldShard := 0, oldSlot := 2, newShard := 0, newSlot := 5, bucket := 7, home := false, redirected := true },
      ?_⟩⟩ <;> decide +kernel

theorem met_GraphCommandsActOnTheirSlots_1 :
    (∃ s : State, ∃ p : Nat, ∃ c : GraphCmd, ∃ rest : List GraphCmd, s.dead = false ∧ p < 8 ∧ (s.sc p).cmdQ = c :: rest ∧
      c.ok = true ∧ c.op = 1 ∧ s.rangeCode c.tier c.addr (64 * c.count) = 0 ∧ s.holds p c.tier c.addr (64 * c.count) = true ∧
      s.rangeAll p c.first c.count (fun o => o.st == .empty) = true) ∧
    (∃ s : State, ∃ p : Nat, ∃ c : GraphCmd, ∃ rest : List GraphCmd, ∃ tag, s.dead = false ∧ p < 8 ∧ (s.sc p).cmdQ = c :: rest ∧
      c.ok = true ∧ c.op = 1 ∧ s.rangeCode c.tier c.addr (64 * c.count) = 0 ∧ s.holds p c.tier c.addr (64 * c.count) = true ∧
      c.src = .reg tag ∧ tag < 65536 ∧ s.rangeAll p c.first c.count (fun o => o.st == .empty) = false) ∧
    (∃ s : State, ∃ p : Nat, ∃ c : GraphCmd, ∃ rest : List GraphCmd, s.dead = false ∧ p < 8 ∧ (s.sc p).cmdQ = c :: rest ∧
      c.ok = true ∧ c.op = 2 ∧ (s.slot p c.first).st = .waiting ∧ c.ndec < (s.slot p c.first).count) ∧
    (∃ s : State, ∃ p : Nat, ∃ c : GraphCmd, ∃ rest : List GraphCmd, s.dead = false ∧ p < 8 ∧ (s.sc p).cmdQ = c :: rest ∧
      c.ok = true ∧ c.op = 2 ∧ (s.slot p c.first).st = .waiting ∧ c.ndec = (s.slot p c.first).count) ∧
    (∃ s : State, ∃ p : Nat, ∃ c : GraphCmd, ∃ rest : List GraphCmd, s.dead = false ∧ p < 8 ∧ (s.sc p).cmdQ = c :: rest ∧
      c.ok = true ∧ c.op = 2 ∧ (s.slot p c.first).st = .empty) ∧
    (∃ s : State, ∃ p : Nat, ∃ c : GraphCmd, ∃ rest : List GraphCmd, s.dead = false ∧ p < 8 ∧ (s.sc p).cmdQ = c :: rest ∧
      c.ok = true ∧ c.op = 3 ∧ ((s.slot p c.first).st = .waiting ∨ (s.slot p c.first).st = .ready ∨
      (s.slot p c.first).st = .running) ∧ (s.slot p c.slot2).st = .waiting ∧ (s.sc p).links.length < 16384) ∧
    (∃ s : State, ∃ p : Nat, ∃ c : GraphCmd, ∃ rest : List GraphCmd, s.dead = false ∧ p < 8 ∧ (s.sc p).cmdQ = c :: rest ∧
      c.ok = true ∧ c.op = 4 ∧
      s.rangeAll p c.first c.count (fun o => o.st == .empty || o.st == .waiting || o.st == .ready || o.st == .faulted) = true) ∧
    (∃ s : State, ∃ p : Nat, ∃ c : GraphCmd, ∃ rest : List GraphCmd, s.dead = false ∧ p < 8 ∧ (s.sc p).cmdQ = c :: rest ∧
      c.ok = true ∧ c.op = 5 ∧ (s.slot p c.first).st = .faulted) ∧
    (∃ s : State, ∃ p : Nat, ∃ c : GraphCmd, ∃ rest : List GraphCmd, ∃ errs : Errs,
      let x := readDescs p c.tier c.addr c.first c.count 0 ((s.finds errs).setSc p { s.sc p with loads := rest }); ∃ ds,
      s.dead = false ∧ p < 8 ∧ (s.sc p).loads = c :: rest ∧ x.1 = .ok ds ∧ x.2.mem.wait = false ∧ ds.length = c.count ∧ (∀ i,
      i < c.count → (s.slot p (c.first + i)).held = 0)) ∧
    (∃ s : State, ∃ p : Nat, ∃ c : GraphCmd, ∃ rest : List GraphCmd, ∃ errs : Errs,
      let x := readDescs p c.tier c.addr c.first c.count 0 ((s.finds errs).setSc p { s.sc p with loads := rest });
      s.dead = false ∧ p < 8 ∧ (s.sc p).loads = c :: rest ∧ x.2.mem.wait = true) ∧
    (∃ s : State, ∃ m p v : Nat, s.dead = false ∧ okMaster m = true ∧ p < 8 ∧ v < 2 ^ 32 ∧ bit v 31 = true ∧
      (regDefAt (pSCH p) R.SCH_CMD_GO).any (fun d => defRes0Ok d v) = true ∧ s.reaches m (pSCH p) = true ∧
      s.mayWrite m (pSCH p) = true ∧ s.rstBusy (pSCH p) = false ∧ s.f (pSCH p) F.SCH_CMD_STS_BUSY = 0 ∧ s.takesCmds p = true ∧
      s.qfree p ≠ 0) ∧
    (∃ s : State, ∃ m p v : Nat, s.dead = false ∧ okMaster m = true ∧ p < 8 ∧ v < 2 ^ 32 ∧ bit v 31 = true ∧
      (regDefAt (pSCH p) R.SCH_CMD_GO).any (fun d => defRes0Ok d v) = true ∧ s.reaches m (pSCH p) = true ∧
      s.mayWrite m (pSCH p) = true ∧ s.rstBusy (pSCH p) = false ∧ s.f (pSCH p) F.SCH_CMD_STS_BUSY = 0 ∧ (s.takesCmds p = false ∨
      s.qfree p = 0)) ∧
    (∃ s : State, ∃ m p v : Nat, s.dead = false ∧ okMaster m = true ∧ p < 8 ∧ v < 2 ^ 32 ∧ bit v 31 = true ∧
      (regDefAt (pSCH p) R.SCH_CMD_GO).any (fun d => defRes0Ok d v) = true ∧ s.reaches m (pSCH p) = true ∧
      s.mayWrite m (pSCH p) = true ∧ s.rstBusy (pSCH p) = false ∧ s.f (pSCH p) F.SCH_CMD_STS_BUSY = 1) ∧
    (∃ s : State, ∃ m p v : Nat, let n := s.f (pSCH p) F.SCH_FLOWSEL_FLOW; s.dead = false ∧ okMaster m = true ∧ p < 8 ∧
      v < 2 ^ 32 ∧ (regDefAt (pSCH p) R.SCH_FLOWCFG).any (fun d => defRes0Ok d v) = true ∧ 1 ≤ bits v 8 0 ∧ bits v 8 0 ≤ 256 ∧
      s.reaches m (pSCH p) = true ∧ s.mayWrite m (pSCH p) = true ∧ s.rstBusy (pSCH p) = false ∧ s.flowRes p n = 0 ∧
      s.inSvc p n = 0) := by
  refine ⟨
    ⟨devP.setSc 1 { cmdQ := [gcmd 1 0 65534 2 0 0x10000 1] }, 1, gcmd 1 0 65534 2 0 0x10000 1, [], ?_⟩,
    ⟨devP.setSc 1 { cmdQ := [gcmd 1 0 65534 2 0 0x10000 1], slots := [(65535, { st := .ready })] }, 1,
      gcmd 1 0 65534 2 0 0x10000 1, [], 7, ?_⟩,
    ⟨devP.setSc 1 { cmdQ := [gcmd 2 3 5 1 0 0 0], slots := [(5, { st := .waiting, count := 4 })] }, 1, gcmd 2 3 5 1 0 0 0, [],
      ?_⟩,
    ⟨devP.setSc 1 { cmdQ := [gcmd 2 3 5 1 0 0 0], slots := [(5, { st := .waiting, count := 3 })] }, 1, gcmd 2 3 5 1 0 0 0, [],
      ?_⟩,
    ⟨devP.setSc 1 { cmdQ := [gcmd 2 3 5 1 0 0 0] }, 1, gcmd 2 3 5 1 0 0 0, [], ?_⟩,
    ⟨devP.setSc 1 { cmdQ := [gcmd 3 0 5 1 6 0 0], slots := [(5, { st := .running }), (6, { st := .waiting, count := 1 })] }, 1,
      gcmd 3 0 5 1 6 0 0, [], ?_⟩,
    ⟨devP.setSc 1 { cmdQ := [gcmd 4 0 5 2 0 0 0], slots := [(5, { st := .faulted }), (7, { st := .running })], links := [(5, 7)] },
      1, gcmd 4 0 5 2 0 0 0, [], ?_⟩,
    ⟨devP.setSc 1 { cmdQ := [gcmd 5 0 5 1 0 0 0], slots := [(5, { st := .faulted })] }, 1, gcmd 5 0 5 1 0 0 0, [], ?_⟩,
    ⟨witGraphCommandsActOnTheirSlots_8_s, 1, gcmd 1 0 65534 1 0 0x10000 1, [], [], [[0x2000D, 0x7000000000000, 0, 0, 1, 0, 0,
      0]], ?_⟩,
    ⟨(devP.setSc 1 { loads := [gcmd 1 0 65534 1 0 0x10000 1], slots := [(65534, { st := .loading })] }).setF 0x400 F.PG_CTL_HOLD 1,
      1, gcmd 1 0 65534 1 0 0x10000 1, [], [], ?_⟩,
    ⟨on (pSCH 1) devP, 1, 1, 0x8000ABCD, ?_⟩,
    ⟨devP, 1, 1, 0x8000ABCD, ?_⟩,
    ⟨(devP |>.setF (pSCH 1) F.SCH_CMD_STS_BUSY 1), 1, 1, 0x8000ABCD, ?_⟩,
    ⟨devP.setSc 1 { flows := [(0, { ordered := true })] }, 1, 1, 0x80000100, ?_⟩⟩ <;> decide +kernel

theorem met_GraphCommandsActOnTheirSlots_2 :
    (∃ s : State, ∃ m p v : Nat, let n := s.f (pSCH p) F.SCH_FLOWSEL_FLOW; s.dead = false ∧ okMaster m = true ∧ p < 8 ∧
      v < 2 ^ 32 ∧ (regDefAt (pSCH p) R.SCH_FLOWCFG).any (fun d => defRes0Ok d v) = true ∧ 1 ≤ bits v 8 0 ∧ bits v 8 0 ≤ 256 ∧
      s.reaches m (pSCH p) = true ∧ s.mayWrite m (pSCH p) = true ∧ s.rstBusy (pSCH p) = false ∧ s.flowRes p n ≠ 0 ∧
      (s.flow p n).ordered ≠ bit v 30) := by
  refine
    ⟨devP.setSc 1 { slots := [(5, { st := .ready, desc := [1] })] }, 1, 1, 0xC0000001, ?_⟩ <;> decide +kernel

theorem met_OperationsAreGrantedCompletedAndReleased_1 :
    (∃ s : State, ∃ p : Nat, s.dead = false ∧ p < 8 ∧ s.pickOp p = none) ∧
    (∃ s : State, ∃ p n : Nat, ∃ o : OpSlot, ∃ x, s.pickOp p = some (n, o) ∧ x ∈ s.eligible p) ∧
    (∃ s : State, ∃ p n : Nat, ∃ o : OpSlot, ∃ e : Exec, ∃ c, s.dead = false ∧ p < 8 ∧ s.pickOp p = some (n, o) ∧
      s.pickExec p o = some e ∧ e = .core c ∧ o.cls ≠ 3 ∧ clsTile o.cls = true) ∧
    (∃ s : State, ∃ p n : Nat, ∃ o : OpSlot, ∃ e : Exec, s.dead = false ∧ p < 8 ∧ s.pickOp p = some (n, o) ∧
      s.pickExec p o = some e ∧ e = .sched ∧ o.cls = cDELAY) ∧
    (∃ s : State, ∃ p n : Nat, ∃ o : OpSlot, ∃ e : Exec, ∃ i, s.dead = false ∧ p < 8 ∧ s.pickOp p = some (n, o) ∧
      s.pickExec p o = some e ∧ e = .token i) ∧
    (∃ s : State, ∃ p n : Nat, ∃ o : OpSlot, ∃ e : Exec,
      let desc := s.readBytes (s.slotFor p) (ptrTier (o.arg 0)) (ptrAddr (o.arg 0)) 64;
      let code := s.accessCode p (ptrTier (o.arg 0)) (ptrAddr (o.arg 0)) 64; ∃ d, s.dead = false ∧ p < 8 ∧ s.pickOp p = some (n,
      o) ∧ s.pickExec p o = some e ∧ e = .mig d ∧ code = 0 ∧ anyMark desc = false) ∧
    (∃ s : State, ∃ p n : Nat, ∃ o : OpSlot, ∃ e : Exec, let code := s.accessCode p (ptrTier (o.arg 0)) (ptrAddr (o.arg 0)) 64;
      ∃ d, s.dead = false ∧ p < 8 ∧ s.pickOp p = some (n, o) ∧ s.pickExec p o = some e ∧ e = .mig d ∧ code = 0x12) ∧
    (∃ s : State, ∃ p n : Nat, ∃ o : OpSlot, ∃ e : Exec, ∃ d, s.dead = false ∧ p < 8 ∧ s.pickOp p = some (n, o) ∧
      s.pickExec p o = some e ∧ e = .ckp d) ∧
    (∃ s : State, ∃ p n : Nat, ∃ o : OpSlot, ∃ e : Exec, s.dead = false ∧ p < 8 ∧ s.pickOp p = some (n, o) ∧
      s.pickExec p o = some e ∧ e = .sched ∧ (s.flow p o.flow).ordered = true) ∧
    (∃ s : State, ∃ p n : Nat, s.dead = false ∧ p < 8 ∧ n < 65536 ∧ (s.slot p n).fin = false) ∧
    (∃ s : State, ∃ p n : Nat, let o := s.slot p n; s.dead = false ∧ p < 8 ∧ n < 65536 ∧ o.fin = true ∧ o.st = .running ∧
      o.heldRel = false ∧ (s.flow p o.flow).ordered = false ∧ o.persist = false) ∧
    (∃ s : State, ∃ p n : Nat, let o := s.slot p n; let q := s.sc p; s.dead = false ∧ p < 8 ∧ n < 65536 ∧ o.fin = true ∧
      o.st = .running ∧ o.heldRel = false ∧ (s.flow p o.flow).ordered = false ∧ bits (o.dw 2) 49 48 = 0 ∧
      bits (o.dw 3) 63 52 = 0 ∧ (∀ e, e ∈ q.links → e.1 ≠ n) ∧ o.persist = true) ∧
    (∃ s : State, ∃ p n : Nat, let o := s.slot p n; let q := s.sc p; s.dead = false ∧ p < 8 ∧ n < 65536 ∧ o.fin = true ∧
      o.st = .running ∧ o.heldRel = false ∧ (s.flow p o.flow).ordered = false ∧ bits (o.dw 2) 49 48 = 1 ∧
      bits (o.dw 3) 63 52 = 0 ∧ (∀ e, e ∈ q.links → e.1 ≠ n) ∧ bits (o.dw 2) 15 0 ≠ n ∧
      (s.slot p (bits (o.dw 2) 15 0)).st = .waiting ∧ 1 < (s.slot p (bits (o.dw 2) 15 0)).count) ∧
    (∃ s : State, ∃ p n : Nat, let o := s.slot p n; let q := s.sc p; s.dead = false ∧ p < 8 ∧ n < 65536 ∧ o.fin = true ∧
      o.st = .running ∧ o.heldRel = false ∧ (s.flow p o.flow).ordered = false ∧ bits (o.dw 2) 49 48 = 1 ∧
      bits (o.dw 3) 63 52 = 0 ∧ (∀ e, e ∈ q.links → e.1 ≠ n) ∧ bits (o.dw 2) 15 0 ≠ n ∧
      (s.slot p (bits (o.dw 2) 15 0)).st = .waiting ∧ (s.slot p (bits (o.dw 2) 15 0)).count = 1) := by
  refine ⟨
    ⟨devP, 1, ?_⟩,
    ⟨on (pSCH 1) ((devP).setSc 1 { slots := [(5, ({ st := .ready, desc := [0x2000D, 0, 0, 0, 3, 0, 0, 0] } : OpSlot))], flows := [(2, { en := true })] }),
      1, 5, ({ st := .ready, desc := [0x2000D, 0, 0, 0, 3, 0, 0, 0] } : OpSlot), (5,
      ({ st := .ready, desc := [0x2000D, 0, 0, 0, 3, 0, 0, 0] } : OpSlot)), ?_⟩,
    ⟨on (pSCH 1) ((on (pCORE 0) (coreS { running := true, inGet := true, tally := [(3, { e := 1 })] })).setSc 1 { slots := [(5, ({ st := .ready, desc := [0x20001, 0, 0, 0, 1, 2, 3, 4] } : OpSlot))], flows := [(2, { en := true })] }),
      1, 5, ({ st := .ready, desc := [0x20001, 0, 0, 0, 1, 2, 3, 4] } : OpSlot), (.core 0), 0, ?_⟩,
    ⟨on (pSCH 1) ((atNow 1500 devP).setSc 1 { slots := [(5, ({ st := .ready, desc := [0x2000D, 0, 0, 0, 3, 0, 0, 0] } : OpSlot))], flows := [(2, { en := true })] }),
      1, 5, ({ st := .ready, desc := [0x2000D, 0, 0, 0, 3, 0, 0, 0] } : OpSlot), .sched, ?_⟩,
    ⟨on (pSCH 1) ((on (pTOK 0) devP).setSc 1 { slots := [(5, ({ st := .ready, desc := [0x20008, 0, 0, 0, 12, 0, 0, 0] } : OpSlot))], flows := [(2, { en := true })] }),
      1, 5, ({ st := .ready, desc := [0x20008, 0, 0, 0, 12, 0, 0, 0] } : OpSlot), .token 0, 0, ?_⟩,
    ⟨on (pSCH 1) ((bytesAt 1 1 0x70000 (tdesc 0x801c2 0) (on (pMIG 0) devP)).setSc 1 { slots := [(5, ({ st := .ready, desc := [0x20005, 0, 0, 0, 0x1000000070000, 0, 0, 0] } : OpSlot))], flows := [(2, { en := true })] }),
      1, 5, ({ st := .ready, desc := [0x20005, 0, 0, 0, 0x1000000070000, 0, 0, 0] } : OpSlot), .mig 0, 0, ?_⟩,
    ⟨on (pSCH 1) ((bytesAt 1 1 0x70000 (tdesc 0x801c2 0) (on (pMIG 0) devP)).setSc 1 { slots := [(5, ({ st := .ready, desc := [0x20005, 0, 0, 0, 0x1000000070000, 0, 0, 0] } : OpSlot))], flows := [(2, { en := true })] }) |>.setF 0x400 F.PG_CTL_HOLD 1,
      1, 5, ({ st := .ready, desc := [0x20005, 0, 0, 0, 0x1000000070000, 0, 0, 0] } : OpSlot), .mig 0, 0, ?_⟩,
    ⟨on (pSCH 1) ((on (pCKP 0) devP).setSc 1 { slots := [(5, ({ st := .ready, desc := [0x2000F, 0, 0, 0, 0, 0, 0, 0] } : OpSlot))], flows := [(2, { en := true })] }),
      1, 5, ({ st := .ready, desc := [0x2000F, 0, 0, 0, 0, 0, 0, 0] } : OpSlot), .ckp 0, 0, ?_⟩,
    ⟨on (pSCH 1) ((devP).setSc 1 { slots := [(5, ({ st := .ready, desc := [0x2000D, 0, 0, 0, 3, 0, 0, 0] } : OpSlot))], flows := [(2, { en := true, ordered := true, nextSeq := 9, nextRel := 9 })] }),
      1, 5, ({ st := .ready, desc := [0x2000D, 0, 0, 0, 3, 0, 0, 0] } : OpSlot), .sched, ?_⟩,
    ⟨on (pSCH 1) ((devP).setSc 1 { slots := [(5, ({ st := .running, exec := some .sched, desc := [0x2000D, 0, 0, 0, 3, 0, 0, 0] } : OpSlot))], flows := [(2, { en := true })] }),
      1, 5, ?_⟩,
    ⟨on (pSCH 1) ((devP).setSc 1 { slots := [(5, ({ st := .running, exec := some .sched, desc := [0x2000D, 0, 0, 0, 3, 0, 0, 0], fin := true } : OpSlot))], flows := [(2, { en := true })] }),
      1, 5, ?_⟩,
    ⟨on (pSCH 1) (devP.setSc 1 { slots := [(5, ({ st := .running, exec := some .sched, desc := [0x2040D, 0, 0, 0, 3, 0, 0, 0], fin := true } : OpSlot)), (6, { st := .waiting, count := 2 })], flows := [(2, { en := true })] }),
      1, 5, ?_⟩,
    ⟨on (pSCH 1) (devP.setSc 1 { slots := [(5, ({ st := .running, exec := some .sched, desc := [0x2000D, 0, 0x1000000000006, 0, 3, 0, 0, 0], fin := true } : OpSlot)), (6, { st := .waiting, count := 2 })], flows := [(2, { en := true })] }),
      1, 5, ?_⟩,
    ⟨on (pSCH 1) (devP.setSc 1 { slots := [(5, ({ st := .running, exec := some .sched, desc := [0x2000D, 0, 0x1000000000006, 0, 3, 0, 0, 0], fin := true } : OpSlot)), (6, { st := .waiting, count := 1 })], flows := [(2, { en := true })] }),
      1, 5, ?_⟩⟩ <;> decide +kernel

theorem met_OperationsAreGrantedCompletedAndReleased_2 :
    (∃ s : State, ∃ p n : Nat, let o := s.slot p n; let q := s.sc p; s.dead = false ∧ p < 8 ∧ n < 65536 ∧ o.fin = true ∧
      o.st = .running ∧ o.heldRel = false ∧ (s.flow p o.flow).ordered = true ∧ (∀ r, r ∈ q.rel → r.flow = o.flow →
      r.seq = (s.flow p o.flow).nextRel → r.st = .running ∧ r.slot ≠ n)) ∧
    (∃ s : State, ∃ p n code : Nat, s.dead = false ∧ p < 8 ∧ n < 65536 ∧ code < 256 ∧ (s.slot p n).st = .running ∧
      (s.slot p n).heldRel = false ∧ (s.slot p n).frel = false ∧ (s.flow p (s.slot p n).flow).ordered = false ∧
      (s.slot p n).exec = some .sched) ∧
    (∃ s : State, ∃ p n code : Nat, ∃ c h, s.dead = false ∧ p < 8 ∧ n < 65536 ∧ code < 256 ∧ (s.slot p n).st = .running ∧
      (s.slot p n).heldRel = false ∧ (s.slot p n).frel = false ∧ (s.flow p (s.slot p n).flow).ordered = false ∧
      (s.slot p n).exec = some (.core c) ∧ (s.core c).op = some h ∧ h.part = p ∧ h.slot = n) ∧
    (∃ s : State, ∃ p d n : Nat, ∃ rest : List (Nat × Nat), s.dead = false ∧ p < 8 ∧ (s.sc p).delay = (d, n) :: rest ∧
      ((s.sc p).frozen = true ∨ s.now < d)) ∧
    (∃ s : State, ∃ p d n : Nat, ∃ rest : List (Nat × Nat), ∃ errs : Errs,
      let u := completed p n ((s.finds errs).setSc p { s.sc p with delay := rest }); s.dead = false ∧ p < 8 ∧
      (s.sc p).delay = (d, n) :: rest ∧ (s.sc p).frozen = false ∧ d ≤ s.now ∧ u.mem.wait = false) ∧
    (∃ s : State, ∃ p n : Nat, ∃ o : OpSlot, s.dead = false ∧ p < 8 ∧
      (s.sc p).slots.find? (fun e => e.2.cls == cEPOCH && e.2.st == .running && !e.2.heldRel) = some (n, o) ∧
      s.drained p n = false) ∧
    (∃ s : State, ∃ p n : Nat, ∃ o : OpSlot, ∃ errs : Errs, let u := completed p n (epochDone p (s.finds errs));
      s.dead = false ∧ p < 8 ∧
      (s.sc p).slots.find? (fun e => e.2.cls == cEPOCH && e.2.st == .running && !e.2.heldRel) = some (n, o) ∧
      s.drained p n = true ∧ ptrTier (o.arg 0) = 0 ∧ (∀ k, k < 48 → bit (o.arg 1) k = false) ∧ u.mem.wait = false) ∧
    (∃ s s1 u : State, ∃ c : Nat, ∃ h h1 : HeldOp, ∃ errs : Errs, ∃ res : PlanRes, let o := s.slot h.part h.slot;
      let e := planEnt h1.ent; let y := u.setCore c { u.core c with op := some { h1 with ofs := e.len, bwait := none } };
      let x := y.setCore c { y.core c with op := some { h1 with next := h.next + 1, ent := [], ofs := 0, bwait := none } };
      let v := completed h.part h.slot x; s.dead = false ∧ okCore c = true ∧ (s.core c).op = some h ∧ s.hasFetch c = true ∧
      s.fenced (pCORE c) = false ∧ h.ent = [] ∧ o.nent = h.next + 1 ∧ planFetch c o h (s.finds errs) = (.done, s1) ∧
      (s1.core c).op = some h1 ∧ planLen e 0 = e.len ∧ e.len ≠ 0 ∧ planPiece c h.part h.slot e 0 e.len s1 = (res, u) ∧
      (u.tq c 3).reqs = [] ∧ res = .done ∧ v.mem.wait = false ∧ h.cls = cMOVE) ∧
    (∃ s s1 u : State, ∃ c : Nat, ∃ h h1 : HeldOp, ∃ errs : Errs, ∃ res : PlanRes, let o := s.slot h.part h.slot;
      let e := planEnt h1.ent; let y := u.setCore c { u.core c with op := some { h1 with ofs := e.len, bwait := none } };
      let x := y.setCore c { y.core c with op := some { h1 with next := h.next + 1, ent := [], ofs := 0, bwait := none } };
      let v := completed h.part h.slot x; s.dead = false ∧ okCore c = true ∧ (s.core c).op = some h ∧ s.hasFetch c = true ∧
      s.fenced (pCORE c) = false ∧ h.ent = [] ∧ o.nent = h.next + 1 ∧ planFetch c o h (s.finds errs) = (.done, s1) ∧
      (s1.core c).op = some h1 ∧ planLen e 0 = e.len ∧ e.len ≠ 0 ∧ planPiece c h.part h.slot e 0 e.len s1 = (res, u) ∧
      (u.tq c 3).reqs = [] ∧ res = .done ∧ v.mem.wait = false ∧ h.cls = cRESHARD) ∧
    (∃ s s1 u : State, ∃ c : Nat, ∃ h h1 : HeldOp, ∃ errs : Errs, ∃ res : PlanRes, let o := s.slot h.part h.slot;
      let e := planEnt h1.ent; s.dead = false ∧ okCore c = true ∧ (s.core c).op = some h ∧ s.hasFetch c = true ∧
      s.fenced (pCORE c) = false ∧ h.ent = [] ∧ o.nent = h.next + 1 ∧ planFetch c o h (s.finds errs) = (.done, s1) ∧
      (s1.core c).op = some h1 ∧ planLen e 0 = e.len ∧ e.len ≠ 0 ∧ planPiece c h.part h.slot e 0 e.len s1 = (res, u) ∧
      (u.tq c 3).reqs = [] ∧ res = .wait ∧ s1.mem.wait = false ∧ h.cls = cMOVE) ∧
    (∃ s s1 u : State, ∃ c : Nat, ∃ h h1 : HeldOp, ∃ errs : Errs, ∃ res : PlanRes, let o := s.slot h.part h.slot;
      let e := planEnt h1.ent; s.dead = false ∧ okCore c = true ∧ (s.core c).op = some h ∧ s.hasFetch c = true ∧
      s.fenced (pCORE c) = false ∧ h.ent = [] ∧ o.nent = h.next + 1 ∧ planFetch c o h (s.finds errs) = (.done, s1) ∧
      (s1.core c).op = some h1 ∧ planLen e 0 = e.len ∧ e.len ≠ 0 ∧ planPiece c h.part h.slot e 0 e.len s1 = (res, u) ∧
      (u.tq c 3).reqs = [] ∧ res = .wait ∧ s1.mem.wait = false ∧ h.cls = cRESHARD) ∧
    (∃ s : State, ∃ c : Nat, ∃ h : HeldOp, s.dead = false ∧ okCore c = true ∧ (s.core c).op = some h ∧
      (s.slot h.part h.slot).nent ≤ h.next ∧ (s.tq c 3).reqs ≠ [] ∧ h.cls = cMOVE) ∧
    (∃ s : State, ∃ c : Nat, ∃ h : HeldOp, s.dead = false ∧ okCore c = true ∧ (s.core c).op = some h ∧
      (s.slot h.part h.slot).nent ≤ h.next ∧ (s.tq c 3).reqs ≠ [] ∧ h.cls = cRESHARD) := by
  refine ⟨
    ⟨on (pSCH 1) ((devP).setSc 1 { slots := [(5, ({ st := .running, exec := some .sched, desc := [0x2000D, 0, 0, 0, 3, 0, 0, 0], fin := true } : OpSlot))], flows := [(2, { en := true, ordered := true, nextSeq := 9, nextRel := 7 })], rel := [{ flow := 2, seq := 7, slot := 4 }, { flow := 2, seq := 8, slot := 5 }] }),
      1, 5, ?_⟩,
    ⟨on (pSCH 1) ((devP).setSc 1 { slots := [(5, ({ st := .running, exec := some .sched, desc := [0x2000D, 0, 0, 0, 3, 0, 0, 0] } : OpSlot))], flows := [(2, { en := true })] }),
      1, 5, 0x11, ?_⟩,
    ⟨on (pSCH 1) ((coreS { running := true, op := some { part := 1, slot := 5, opid := 0 } }).setSc 1 { slots := [(5, ({ st := .running, exec := some (.core 0), desc := [0x20001, 0, 0, 0, 3, 0, 0, 0] } : OpSlot))], flows := [(2, { en := true })] }),
      1, 5, 0x05, 0, ({ part := 1, slot := 5, opid := 0 } : HeldOp), ?_⟩,
    ⟨on (pSCH 1) ((atNow 999 devP).setSc 1 { slots := [(5, ({ st := .running, exec := some .sched, desc := [0x2000D, 0, 0, 0, 3, 0, 0, 0] } : OpSlot))], flows := [(2, { en := true })], delay := [(1000, 5)] }),
      1, 1000, 5, [], ?_⟩,
    ⟨on (pSCH 1) ((atNow 1000 devP).setSc 1 { slots := [(5, ({ st := .running, exec := some .sched, desc := [0x2000D, 0, 0, 0, 3, 0, 0, 0] } : OpSlot))], flows := [(2, { en := true })], delay := [(1000, 5)] }),
      1, 1000, 5, [], [], ?_⟩,
    ⟨on (pSCH 1) (devP.setSc 1 { slots := [(5, ({ st := .running, exec := some .sched, desc := [0x2000C, 0, 0, 0, 0, 0, 0, 0] } : OpSlot)), (6, ({ st := .running, exec := some .sched, desc := [0x2000D, 0, 0, 0, 3, 0, 0, 0] } : OpSlot))] }),
      1, 5, ({ st := .running, exec := some .sched, desc := [0x2000C, 0, 0, 0, 0, 0, 0, 0] } : OpSlot), ?_⟩,
    ⟨on (pSCH 1) ((devP).setSc 1 { slots := [(5, ({ st := .running, exec := some .sched, desc := [0x2000C, 0, 0, 0, 0, 0, 0, 0] } : OpSlot))], flows := [(2, { en := true })] }),
      1, 5, ({ st := .running, exec := some .sched, desc := [0x2000C, 0, 0, 0, 0, 0, 0, 0] } : OpSlot), [], ?_⟩,
    ⟨(planS 7 1), planAt (planS 7 1), (planPiece 0 1 5 (planEnt (planB 1)) 0 4 (planAt (planS 7 1))).2, 0,
      { part := 1, slot := 5, opid := 0, cls := 7 }, { part := 1, slot := 5, opid := 0, cls := 7, ent := planB 1 }, [], .done,
      ?_⟩,
    ⟨(planS 11 1), planAt (planS 11 1), (planPiece 0 1 5 (planEnt (planB 1)) 0 4 (planAt (planS 11 1))).2, 0,
      { part := 1, slot := 5, opid := 0, cls := 11 }, { part := 1, slot := 5, opid := 0, cls := 11, ent := planB 1 }, [], .done,
      ?_⟩,
    ⟨((planS 7 2).setF 0x500 F.PG_CTL_HOLD 1), planAt ((planS 7 2).setF 0x500 F.PG_CTL_HOLD 1),
      (planPiece 0 1 5 (planEnt (planB 2)) 0 4 (planAt ((planS 7 2).setF 0x500 F.PG_CTL_HOLD 1))).2, 0,
      { part := 1, slot := 5, opid := 0, cls := 7 }, { part := 1, slot := 5, opid := 0, cls := 7, ent := planB 2 }, [], .wait,
      ?_⟩,
    ⟨((planS 11 2).setF 0x500 F.PG_CTL_HOLD 1), planAt ((planS 11 2).setF 0x500 F.PG_CTL_HOLD 1),
      (planPiece 0 1 5 (planEnt (planB 2)) 0 4 (planAt ((planS 11 2).setF 0x500 F.PG_CTL_HOLD 1))).2, 0,
      { part := 1, slot := 5, opid := 0, cls := 11 }, { part := 1, slot := 5, opid := 0, cls := 11, ent := planB 2 }, [], .wait,
      ?_⟩,
    ⟨(planS 7 1).setCore 0 { (planS 7 1).core 0 with op := some { part := 1, slot := 5, opid := 0, cls := 7, next := 1 }, tqs := [(3, { reqs := [{ id := 4, tier := 1, addr := 0x20, len := 32, pos := 3, slot := 1 }] })] },
      0, { part := 1, slot := 5, opid := 0, cls := 7, next := 1 }, ?_⟩,
    ⟨(planS 11 1).setCore 0 { (planS 11 1).core 0 with op := some { part := 1, slot := 5, opid := 0, cls := 11, next := 1 }, tqs := [(3, { reqs := [{ id := 4, tier := 1, addr := 0x20, len := 32, pos := 3, slot := 1 }] })] },
      0, { part := 1, slot := 5, opid := 0, cls := 11, next := 1 }, ?_⟩⟩ <;> decide +kernel

theorem met_TokenizingFollowsItsVocabulary :
    (∃ s s1 s2 u : State, ∃ p n e : Nat, ∃ d : List Byte, ∃ a : TokAcc, ∃ errs : Errs, let o := s.slot p n;
      let st := s.strm e o.strm; let cin := if o.start then [] else st.carry; s.dead = false ∧ p < 8 ∧ n < 65536 ∧
      s.tokOf p n 8 = some e ∧ s.tokStartCode e p n = 0 ∧
      tokRead e p (ptrTier (o.arg 1)) (ptrAddr (o.arg 1)) o.inLen (s.finds errs) = (.ok d, s1) ∧
      tokLoop e p (s.vslot e st.vslot) o.end_ ((cin ++ d).length + 1) 0 [] (cin ++ d) {} s1 = (.ok a, s2) ∧
      a.toks.length ≤ o.cap ∧ tokWrite e p n (tokHeader o cin.length a 0 ++ a.toks.flatMap (leBytes 4)) s2 = (0, u) ∧
      u.mem.wait = false) ∧
    (∃ s : State, ∃ p n e : Nat, s.dead = false ∧ p < 8 ∧ n < 65536 ∧ s.tokOf p n 8 = some e ∧ s.tokStartCode e p n ≠ 0 ∧
      (s.slot p n).frel = false ∧ (s.flow p (s.slot p n).flow).ordered = false) ∧
    (∃ s : State, ∃ p n e : Nat, ∃ x : TokAfter, let o := s.slot p n; s.dead = false ∧ p < 8 ∧ n < 65536 ∧ o.st = .running ∧
      o.heldRel = false ∧ o.fin = true ∧ o.exec = some (.token e) ∧
      (s.eng e).after.find? (fun x => x.part == p && x.slot == n) = some x) ∧
    (∃ s : State, ∃ m e : Nat, let n := s.vsel e; s.dead = false ∧ okMaster m = true ∧ e < 4 ∧ s.reaches m (pTOK e) = true ∧
      s.mayWrite m (pTOK e) = true ∧ s.rstBusy (pTOK e) = false ∧ (s.vslot e n).busy = false ∧ (s.vslot e n).size ≠ 0 ∧
      s.heldBound e n = false) ∧
    (∃ s : State, ∃ m e : Nat, let n := s.vsel e; s.dead = false ∧ okMaster m = true ∧ e < 4 ∧ s.reaches m (pTOK e) = true ∧
      s.mayWrite m (pTOK e) = true ∧ s.rstBusy (pTOK e) = false ∧ ((s.vslot e n).busy = true ∨ (s.vslot e n).size = 0 ∨
      s.heldBound e n = true)) ∧
    (∃ s s1 s2 : State, ∃ e n : Nat, ∃ h body : List Byte, ∃ errs : Errs, let v := s.vslot e n; s.dead = false ∧ e < 4 ∧ n < 4 ∧
      v.busy = true ∧ s.holds v.owner v.tier v.addr 64 = true ∧ tokRead e v.owner v.tier v.addr 64 (s.finds errs) = (.ok h,
      s1) ∧ s1.mem.wait = false ∧ fieldOf h 4 1 ≠ 2 ∧ hashHdrOk h (v.size * 65536) = true ∧
      s.holds v.owner v.tier v.addr (hashSize h) = true ∧
      tokRead e v.owner v.tier (v.addr + 64) (hashSize h - 64) s1 = (.ok body, s2) ∧ s2.mem.wait = false) ∧
    (∃ s s1 : State, ∃ e n : Nat, ∃ h : List Byte, ∃ errs : Errs, let v := s.vslot e n; s.dead = false ∧ e < 4 ∧ n < 4 ∧
      v.busy = true ∧ s.holds v.owner v.tier v.addr 64 = true ∧ tokRead e v.owner v.tier v.addr 64 (s.finds errs) = (.ok h,
      s1) ∧ s1.mem.wait = false ∧ fieldOf h 4 1 = 2 ∧ trieHdrOk h = true ∧ v.tier = 1 ∧
      s.holds v.owner 1 v.addr (imgSize h) = true) ∧
    (∃ s s1 : State, ∃ e n : Nat, ∃ h : List Byte, ∃ errs : Errs, let v := s.vslot e n; s.dead = false ∧ e < 4 ∧ n < 4 ∧
      v.busy = true ∧ s.holds v.owner v.tier v.addr 64 = true ∧ tokRead e v.owner v.tier v.addr 64 (s.finds errs) = (.ok h,
      s1) ∧ s1.mem.wait = false ∧ fieldOf h 4 1 = 2 ∧ (trieHdrOk h = false ∨ v.tier ≠ 1)) ∧
    (∃ s : State, ∃ m e v : Nat, let n := s.vsel e; s.dead = false ∧ okMaster m = true ∧ e < 4 ∧ v < 2 ^ 32 ∧
      s.reaches m (pTOK e) = true ∧ s.mayWrite m (pTOK e) = true ∧ s.rstBusy (pTOK e) = false ∧
      (regDefAt (pTOK e) R.TOK_VSLOT).any (fun d => defRes0Ok d v) = true ∧ bits v 31 28 < 8 ∧ bits v 8 0 < 320 ∧
      bits v 8 0 + bits v 24 16 ≤ 320 ∧ (∀ k, k < 4 → k ≠ n → (s.vslot e k).size = 0) ∧ (s.vslot e n).busy = false ∧
      s.enBound e n = false ∧ (s.eng e).stops = []) ∧
    (∃ s : State, ∃ m e v : Nat, let n := s.vsel e; s.dead = false ∧ okMaster m = true ∧ e < 4 ∧ v < 2 ^ 32 ∧
      s.reaches m (pTOK e) = true ∧ s.mayWrite m (pTOK e) = true ∧ s.rstBusy (pTOK e) = false ∧
      (regDefAt (pTOK e) R.TOK_VSLOT).any (fun d => defRes0Ok d v) = true ∧ bits v 31 28 < 8 ∧ bits v 8 0 < 320 ∧
      bits v 8 0 + bits v 24 16 ≤ 320 ∧ (∀ k, k < 4 → k ≠ n → (s.vslot e k).size = 0) ∧ s.enBound e n = true ∧
      (s.vslot e n).owner ≠ bits v 31 28) ∧
    (∃ s : State, ∃ m e v : Nat, let n := s.ssel e; s.dead = false ∧ okMaster m = true ∧ e < 4 ∧ v < 2 ^ 32 ∧
      s.reaches m (pTOK e) = true ∧ s.mayWrite m (pTOK e) = true ∧ s.rstBusy (pTOK e) = false ∧
      (regDefAt (pTOK e) R.TOK_STRM_CTL).any (fun d => defRes0Ok d v) = true ∧ bits v 19 16 < 8 ∧ s.strmHeld e n = false ∧
      (bit v 31 = true → (s.vslot e (bits v 1 0)).owner = bits v 19 16)) ∧
    (∃ s : State, ∃ m e v : Nat, let n := s.ssel e; let st := s.strm e n; s.dead = false ∧ okMaster m = true ∧ e < 4 ∧
      v < 2 ^ 32 ∧ s.reaches m (pTOK e) = true ∧ s.mayWrite m (pTOK e) = true ∧ s.rstBusy (pTOK e) = false ∧
      (regDefAt (pTOK e) R.TOK_STRM_CTL).any (fun d => defRes0Ok d v) = true ∧ bits v 19 16 < 8 ∧ s.strmHeld e n = true ∧
      st.en ≠ bit v 31) := by
  refine ⟨
    ⟨witTokenizingFollowsItsVocabulary_1_s, witTokenizingFollowsItsVocabulary_1_s1, witTokenizingFollowsItsVocabulary_1_s2,
      (tokWrite 0 1 5 (tokHeader (witTokenizingFollowsItsVocabulary_1_s.slot 1 5) 0 ({ toks := [66, 67], fallback := true } : TokAcc) 0 ++ ({ toks := [66, 67], fallback := true } : TokAcc).toks.flatMap (leBytes 4)) witTokenizingFollowsItsVocabulary_1_s2).2,
      1, 5, 0, [0x41, 0x42], ({ toks := [66, 67], fallback := true } : TokAcc), [], ?_⟩,
    ⟨tokS 8 0x1000 0x1000000010000 0x200000002 { en := true, owner := 2 }, 1, 5, 0, ?_⟩,
    ⟨(withOp { st := .running, fin := true, exec := some (.token 0), desc := [8] }).setEng 0 { after := [{ part := 1, slot := 5, strm := { en := true } }] },
      1, 5, 0, { part := 1, slot := 5, strm := { en := true } }, ?_⟩,
    ⟨devP.setEng 0 { slots := [(0, { size := 1 })] }, 14, 0, ?_⟩,
    ⟨devP.setEng 0 { slots := [(0, { size := 1, busy := true })] }, 14, 0, ?_⟩,
    ⟨witTokenizingFollowsItsVocabulary_5_s, witTokenizingFollowsItsVocabulary_5_s1,
      (tokRead 0 1 1 0x10040 8192 witTokenizingFollowsItsVocabulary_5_s1).2, 0, 0, vimg 1 0,
      (tokRead 0 1 1 0x10040 8192 witTokenizingFollowsItsVocabulary_5_s1).1.toOption.getD [], [], ?_, ?_, ?_, ?_, ?_, ?_, ?_,
      ?_, ?_, ?_, ok_getD (?_), ?_⟩,
    ⟨witTokenizingFollowsItsVocabulary_6_s, (tokRead 0 1 1 0x10000 64 witTokenizingFollowsItsVocabulary_6_s).2, 0, 0,
      vimg 2 128, [], ?_⟩,
    ⟨witTokenizingFollowsItsVocabulary_7_s, (tokRead 0 1 1 0x10000 64 witTokenizingFollowsItsVocabulary_7_s).2, 0, 0,
      vimg 2 100, [], ?_⟩,
    ⟨devP, 14, 0, 0x11400000, ?_⟩,
    ⟨devP.setEng 0 { streams := [(3, { en := true, owner := 1 })] }, 14, 0, 0x10010000, ?_⟩,
    ⟨devP.setEng 0 { slots := [(2, { owner := 1 })] }, 14, 0, 0x80010002, ?_⟩,
    ⟨tokS 8 0x1000 0x1000000010000 0x200000002 { en := true, owner := 1 } |>.setF (pTOK 0) F.TOK_STRM_SEL_STREAM 3, 14, 0,
      0x10000, ?_⟩⟩ <;> decide +kernel

theorem met_DetokenizingStopsAndConstrains :
    (∃ s : State, ∃ p n e : Nat, ∃ errs : Errs, let o := s.slot p n; let st := s.strm e o.strm;
      let sb := s.stopBlk e (bits st.dctl 8 0); ∃ s1 u : State, ∃ a : DetAcc, s.dead = false ∧ p < 8 ∧ n < 65536 ∧
      s.tokOf p n 9 = some e ∧ s.tokStartCode e p n = 0 ∧ (bit st.dctl 31 = true → sb.valid = true ∧ sb.owner = p) ∧
      o.start = false ∧ st.stopped = false ∧ o.end_ = false ∧
      (detLoop e p o st (s.vslot e st.vslot) (if bit st.dctl 31 then sb.strs else []) o.inLen 0 { hold := st.hold } (s.finds errs) = (.ok a,
      s1)) ∧ a.out.length ≤ o.cap ∧ tokWrite e p n (detHeader o a (st.stopped || a.stop.isSome) false 0 ++ a.out) s1 = (0, u) ∧
      u.mem.wait = false) ∧
    (∃ s : State, ∃ p n e : Nat, ∃ errs : Errs, let o := s.slot p n; let st := s.strm e o.strm;
      let sb := s.stopBlk e (bits st.dctl 8 0); ∃ u : State, s.dead = false ∧ p < 8 ∧ n < 65536 ∧ s.tokOf p n 9 = some e ∧
      s.tokStartCode e p n = 0 ∧ (bit st.dctl 31 = true → sb.valid = true ∧ sb.owner = p) ∧ o.start = false ∧
      st.stopped = true ∧ tokWrite e p n (detHeader o { hold := st.hold } true false 0) (s.finds errs) = (0, u) ∧
      u.mem.wait = false) ∧
    (∃ strs : List (List Byte), ∃ b : List Byte, ∃ at_ x : Nat, ∃ y st, firstStop strs b = some (at_, x) ∧ y < strs.length ∧
      (strs.getD y []) ≠ [] ∧ occursAt b (strs.getD y []) st = true) ∧
    (∃ strs : List (List Byte), ∃ b : List Byte, ∃ y, firstStop strs b = none ∧ y < strs.length ∧ (strs.getD y []) ≠ []) ∧
    (∃ s s1 s2 u : State, ∃ p n e : Nat, ∃ h : List Byte, ∃ acc : Bool, ∃ rs : List AutRange, ∃ errs : Errs,
      let o := s.slot p n; let st0 := s.strm e o.strm; let ntok := imgNtok (s.vslot e st0.vslot).img;
      let st := if o.start then { st0 with cstate := fieldOf h 16 4, cstarted := true } else st0; s.dead = false ∧ p < 8 ∧
      n < 65536 ∧ s.conOf p n false = some e ∧ s.tokStartCode e p n = 0 ∧ bit st0.caut 63 = true ∧ bits (o.arg 0) 15 14 = 0 ∧
      o.inLen = 0 ∧ autHeader e p st0 ntok (s.finds errs) = (.ok h, s1) ∧ (o.start = true ∨ st0.cstarted = true) ∧
      autFull e p st h st.cstate s1 = (.ok (acc, rs), s2) ∧ rs ≠ [] ∧ (maskBits rs ntok).length ≤ o.cap ∧
      tokWrite e p n (conHeader o ((List.range ntok).filter (fun t => (rangeFor rs t).isSome)).length st.cstate acc 0 ++ maskBits rs ntok) s2 = (0,
      u) ∧ u.mem.wait = false) ∧
    (∃ s s1 s2 : State, ∃ p n e : Nat, ∃ h : List Byte, ∃ acc : Bool, ∃ rs : List AutRange, ∃ errs : Errs, let o := s.slot p n;
      let st0 := s.strm e o.strm; let ntok := imgNtok (s.vslot e st0.vslot).img;
      let st := if o.start then { st0 with cstate := fieldOf h 16 4, cstarted := true } else st0; s.dead = false ∧ p < 8 ∧
      n < 65536 ∧ s.conOf p n false = some e ∧ s.tokStartCode e p n = 0 ∧ bit st0.caut 63 = true ∧ bits (o.arg 0) 15 14 = 0 ∧
      o.inLen = 0 ∧ autHeader e p st0 ntok (s.finds errs) = (.ok h, s1) ∧ (o.start = true ∨ st0.cstarted = true) ∧
      autFull e p st h st.cstate s1 = (.ok (acc, rs), s2) ∧ rs = [] ∧ o.frel = false ∧ (s.flow p o.flow).ordered = false ∧
      s2.mem.wait = false) ∧
    (∃ s s1 s2 s3 u : State, ∃ p n e q ofs nr : Nat, ∃ h : List Byte, ∃ acc : Bool, ∃ errs : Errs, let o := s.slot p n;
      let st0 := s.strm e o.strm; let st := if o.start then { st0 with cstate := fieldOf h 16 4, cstarted := true } else st0;
      s.dead = false ∧ p < 8 ∧ n < 65536 ∧ s.conOf p n true = some e ∧ s.tokStartCode e p n = 0 ∧ bit st0.caut 63 = true ∧
      autHeader e p st0 (imgNtok (s.vslot e st0.vslot).img) (s.finds errs) = (.ok h, s1) ∧ (o.start = true ∨
      st0.cstarted = true) ∧ advLoop e p o st h o.inLen 0 st.cstate s1 = (.ok q, s2) ∧ autState e p st h q s2 = (.ok (acc, ofs,
      nr), s3) ∧ tokWrite e p n (conHeader o o.inLen q acc 0) s3 = (0, u) ∧ u.mem.wait = false) ∧
    (∃ s : State, ∃ m e own blk : Nat, s.dead = false ∧ okMaster m = true ∧ e < 4 ∧ own < 8 ∧ blk < 320 ∧
      s.reaches m (pTOK e) = true ∧ s.mayWrite m (pTOK e) = true ∧ s.rstBusy (pTOK e) = false ∧ s.stopBusy e = false ∧ (∀ k,
      k < 4 → (s.vslot e k).size = 0) ∧ (∀ x, x ∈ (s.eng e).streams → x.2.en = false)) ∧
    (∃ s : State, ∃ m e own blk : Nat, s.dead = false ∧ okMaster m = true ∧ e < 4 ∧ own < 8 ∧ blk < 320 ∧
      s.reaches m (pTOK e) = true ∧ s.mayWrite m (pTOK e) = true ∧ s.rstBusy (pTOK e) = false ∧ s.stopBusy e = true) ∧
    (∃ s s1 : State, ∃ e blk : Nat, ∃ b : List Byte, ∃ errs : Errs, let v := s.stopBlk e blk; s.dead = false ∧ e < 4 ∧
      blk < 320 ∧ v.busy = true ∧ s.holds v.owner v.tier v.addr 16704 = true ∧
      tokRead e v.owner v.tier v.addr 16704 (s.finds errs) = (.ok b, s1) ∧ s1.mem.wait = false) := by
  refine ⟨
    ⟨witDetokenizingStopsAndConstrains_1_s, 1, 5, 0, [], witDetokenizingStopsAndConstrains_1_s1,
      (tokWrite 0 1 5 (detHeader (witDetokenizingStopsAndConstrains_1_s.slot 1 5) ({ out := [0x40, 0x41], ntok := 1 } : DetAcc) false false 0 ++ [0x40,
      0x41]) witDetokenizingStopsAndConstrains_1_s1).2, ({ out := [0x40, 0x41], ntok := 1 } : DetAcc), ?_⟩,
    ⟨witDetokenizingStopsAndConstrains_2_s, 1, 5, 0, [],
      (tokWrite 0 1 5 (detHeader (witDetokenizingStopsAndConstrains_2_s.slot 1 5) { hold := [0x40] } true false 0) witDetokenizingStopsAndConstrains_2_s).2,
      ?_⟩,
    ⟨[[2, 3], [9], [3]], [1, 2, 3], 1, 0, 2, 2, ?_⟩,
    ⟨[[9], [7, 8]], [1, 2, 3], 1, ?_⟩,
    ⟨witDetokenizingStopsAndConstrains_7_s, witDetokenizingStopsAndConstrains_7_s1, witDetokenizingStopsAndConstrains_7_s2,
      (tokWrite 0 1 5 (conHeader (witDetokenizingStopsAndConstrains_7_s.slot 1 5) 11 0 true 0 ++ maskBits [(10, 20,
      0)] 300) witDetokenizingStopsAndConstrains_7_s2).2, 1, 5, 0, (autom 1).take 64, true, [(10, 20, 0)], [], ?_⟩,
    ⟨witDetokenizingStopsAndConstrains_8_s, witDetokenizingStopsAndConstrains_8_s1,
      (autFull 0 1 ({ en := true, owner := 1, caut := 2 ^ 63 + 0x30001, cstarted := true } : Stream) ((autom 1).take 64) 0 witDetokenizingStopsAndConstrains_8_s1).2,
      1, 5, 0, (autom 1).take 64, true, [], [], ?_⟩,
    ⟨witDetokenizingStopsAndConstrains_9_s, witDetokenizingStopsAndConstrains_9_s1, witDetokenizingStopsAndConstrains_9_s2,
      witDetokenizingStopsAndConstrains_9_s3,
      (tokWrite 0 1 5 (conHeader (witDetokenizingStopsAndConstrains_9_s.slot 1 5) 1 0 true 0) witDetokenizingStopsAndConstrains_9_s3).2,
      1, 5, 0, 0, 80, 1, (autom 1).take 64, true, [], ?_⟩,
    ⟨devP, 14, 0, 7, 319, ?_⟩,
    ⟨devP.setEng 0 { stops := [(4, { busy := true })] }, 14, 0, 7, 319, ?_⟩,
    ⟨witDetokenizingStopsAndConstrains_12_s, (tokRead 0 1 1 0x10000 16704 (witDetokenizingStopsAndConstrains_12_s.finds [])).2,
      0, 4, (tokRead 0 1 1 0x10000 16704 (witDetokenizingStopsAndConstrains_12_s.finds [])).1.toOption.getD [], [], ?_, ?_, ?_,
      ?_, ?_, ok_getD (?_), ?_⟩⟩ <;> decide +kernel

theorem met_HandshakeTimeoutsAreLoggedAndCounted :
    (∃ s : State, ∃ c resp : Nat, ∃ x : Pld, s.dead = false ∧ okCore c = true ∧ resp < 16384 ∧ (s.core c).pld = some x ∧
      s.expired (pCORE c) x.iss = false) ∧
    (∃ s : State, ∃ c resp : Nat, ∃ x : Pld,
      let old := (s.ras.tmos.get resp []).filter (fun u => decide (s.now < u + s.f pRAS F.RAS_ESC_CFG_WIN_US * 1000));
      s.dead = false ∧ okCore c = true ∧ resp < 16384 ∧ (s.core c).pld = some x ∧ s.expired (pCORE c) x.iss = true ∧
      old.length + 1 < s.f pRAS F.RAS_ESC_CFG_TMO_THR) ∧
    (∃ s : State, ∃ c resp : Nat, ∃ x : Pld,
      let old := (s.ras.tmos.get resp []).filter (fun u => decide (s.now < u + s.f pRAS F.RAS_ESC_CFG_WIN_US * 1000));
      s.dead = false ∧ okCore c = true ∧ resp < 16384 ∧ (s.core c).pld = some x ∧ s.expired (pCORE c) x.iss = true ∧
      s.f pRAS F.RAS_ESC_CFG_TMO_THR ≤ old.length + 1 ∧ s.ras.log.length < 256) ∧
    (∃ s : State, ∃ c q resp : Nat, ∃ r : TqReq, s.dead = false ∧ okCore c = true ∧ resp < 16384 ∧ r.tier < 4 ∧
      (s.tq c q).reqs.find? (fun x => x.id == r.id) = some r ∧ s.expired (pCORE c) r.iss = false) ∧
    (∃ s : State, ∃ c q resp : Nat, ∃ r : TqReq, s.dead = false ∧ okCore c = true ∧ resp < 16384 ∧ r.tier < 4 ∧
      (s.tq c q).reqs.find? (fun x => x.id == r.id) = some r ∧ s.expired (pCORE c) r.iss = true) ∧
    (∃ s : State, ∃ p n resp : Nat, let o := s.slot p n; s.dead = false ∧ p < 8 ∧ n < 65536 ∧ resp < 16384 ∧ o.bulk = true ∧
      o.frel = false ∧ (s.flow p o.flow).ordered = false ∧ s.expired (execPage p o.exec) o.iss = false) ∧
    (∃ s : State, ∃ p n resp : Nat, let o := s.slot p n; s.dead = false ∧ p < 8 ∧ n < 65536 ∧ resp < 16384 ∧ o.bulk = true ∧
      o.frel = false ∧ (s.flow p o.flow).ordered = false ∧ s.expired (execPage p o.exec) o.iss = true ∧ (∀ c,
      o.exec ≠ some (.core c))) ∧
    (∃ s : State, ∃ id resp : Nat, ∃ x : BridgeXfer, s.dead = false ∧ resp < 16384 ∧
      s.bridge.inFlight.find? (fun y => y.id == id) = some x ∧ x.die < 2 ∧ s.expired (pBRG x.die) x.iss = false) ∧
    (∃ s : State, ∃ id resp : Nat, ∃ x : BridgeXfer, s.dead = false ∧ resp < 16384 ∧
      s.bridge.inFlight.find? (fun y => y.id == id) = some x ∧ x.die < 2 ∧ s.expired (pBRG x.die) x.iss = true ∧ x.dep = none) ∧
    (∃ s : State, ∃ p n code : Nat, s.dead = false ∧ p < 8 ∧ n < 65536 ∧ code < 256) := by
  refine ⟨
    ⟨(atNow 999 (coreS { pld := some { iss := { since := 0, tmo := 1000 }, slot := 1, own := 1, tier := 1, addr := 0x10000, count := 1, dest := 8191 } })).setF pRAS F.RAS_ESC_CFG_TMO_THR 3,
      0, 0x400,
      { iss := { since := 0, tmo := 1000 }, slot := 1, own := 1, tier := 1, addr := 0x10000, count := 1, dest := 8191 }, ?_⟩,
    ⟨(atNow 1000 (coreS { pld := some { iss := { since := 0, tmo := 1000 }, slot := 1, own := 1, tier := 1, addr := 0x10000, count := 1, dest := 8191 } })).setF pRAS F.RAS_ESC_CFG_TMO_THR 3,
      0, 0x400,
      { iss := { since := 0, tmo := 1000 }, slot := 1, own := 1, tier := 1, addr := 0x10000, count := 1, dest := 8191 }, ?_⟩,
    ⟨(atNow 1000 (coreS { pld := some { iss := { since := 0, tmo := 1000 }, slot := 1, own := 1, tier := 1, addr := 0x10000, count := 1, dest := 8191 } })).setF pRAS F.RAS_ESC_CFG_TMO_THR 1,
      0, 0x400,
      { iss := { since := 0, tmo := 1000 }, slot := 1, own := 1, tier := 1, addr := 0x10000, count := 1, dest := 8191 }, ?_⟩,
    ⟨(atNow 999 (coreS { tqs := [(3, { reqs := [{ id := 4, tier := 1, addr := 0x20, len := 32, pos := 3, slot := 1, iss := { since := 0, tmo := 1000 } }] })] })).setF pRAS F.RAS_ESC_CFG_TMO_THR 3,
      0, 3, 0x400, { id := 4, tier := 1, addr := 0x20, len := 32, pos := 3, slot := 1, iss := { since := 0, tmo := 1000 } }, ?_⟩,
    ⟨(atNow 1000 (coreS { tqs := [(3, { reqs := [{ id := 4, tier := 1, addr := 0x20, len := 32, pos := 3, slot := 1, iss := { since := 0, tmo := 1000 } }] })] })).setF pRAS F.RAS_ESC_CFG_TMO_THR 3,
      0, 3, 0x400, { id := 4, tier := 1, addr := 0x20, len := 32, pos := 3, slot := 1, iss := { since := 0, tmo := 1000 } }, ?_⟩,
    ⟨(atNow 999 (withOp { st := .running, exec := some (.mig 0), desc := [5, 0], iss := { since := 0, tmo := 1000 } })), 1, 5,
      0x400, ?_⟩,
    ⟨(atNow 1000 (withOp { st := .running, exec := some (.mig 0), desc := [5, 0], iss := { since := 0, tmo := 1000 } })), 1, 5, 0x400, ?_, ?_, ?_, ?_, ?_, ?_, ?_, ?_, fun c h => by
      have a : ((atNow 1000 (withOp { st := .running, exec := some (.mig 0), desc := [5, 0], iss := { since := 0, tmo := 1000 } })).slot 1 5).exec = some (.mig 0) := by decide +kernel
      cases a.symm.trans h⟩,
    ⟨{ atNow 999 devP with bridge := { inFlight := [{ id := 7, cls := 2, src := 0, dst := 1, die := 0, mod := 3, iss := { since := 0, tmo := 1000 } }] } },
      7, 0x400, { id := 7, cls := 2, src := 0, dst := 1, die := 0, mod := 3, iss := { since := 0, tmo := 1000 } }, ?_⟩,
    ⟨{ atNow 1000 devP with bridge := { inFlight := [{ id := 7, cls := 2, src := 0, dst := 1, die := 0, mod := 3, iss := { since := 0, tmo := 1000 } }] } },
      7, 0x400, { id := 7, cls := 2, src := 0, dst := 1, die := 0, mod := 3, iss := { since := 0, tmo := 1000 } }, ?_⟩,
    ⟨devP.setF pRAS F.RAS_ESC_CFG_TMO_THR 1, 0, 0, 0, ?_⟩⟩ <;> decide +kernel

theorem met_ScrubbingFindsAndRecords :
    (∃ s : State, ∃ pg ofs : Nat, ∃ ecc : Ecc, s.dead = false ∧ pg < 16384 ∧ ctlTier pg ≠ 0 ∧ s.fenced pg = false ∧
      s.takesWork pg = true ∧ s.scrubEn (ctlTier pg) = true ∧ ofs < s.scrubBytes pg ∧ ofs = (s.ctl pg).scrubNext ∧
      (ctlTier pg = 3 → s.f pg F.FSC_HP_STS_READY ≠ 0) ∧ (s.line (memKey (ctlTier pg) (ctlBase pg + ofs))).poison = false ∧
      (∀ o, s.lineHolder (ctlTier pg) (ctlBase pg + ofs) = some o → o < 8 → (s.part o).st ≠ .resetting) ∧
      s.ras.log.length < 256 ∧ ecc = .clean) ∧
    (∃ s : State, ∃ pg ofs : Nat, ∃ ecc : Ecc, s.dead = false ∧ pg < 16384 ∧ ctlTier pg ≠ 0 ∧ s.fenced pg = false ∧
      s.takesWork pg = true ∧ s.scrubEn (ctlTier pg) = true ∧ ofs < s.scrubBytes pg ∧ ofs = (s.ctl pg).scrubNext ∧
      (ctlTier pg = 3 → s.f pg F.FSC_HP_STS_READY ≠ 0) ∧ (s.line (memKey (ctlTier pg) (ctlBase pg + ofs))).poison = false ∧
      (∀ o, s.lineHolder (ctlTier pg) (ctlBase pg + ofs) = some o → o < 8 → (s.part o).st ≠ .resetting) ∧
      s.ras.log.length < 256 ∧ ecc = .ce) ∧
    (∃ s : State, ∃ pg ofs : Nat, ∃ ecc : Ecc, s.dead = false ∧ pg < 16384 ∧ ctlTier pg ≠ 0 ∧ s.fenced pg = false ∧
      s.takesWork pg = true ∧ s.scrubEn (ctlTier pg) = true ∧ ofs < s.scrubBytes pg ∧ ofs = (s.ctl pg).scrubNext ∧
      (ctlTier pg = 3 → s.f pg F.FSC_HP_STS_READY ≠ 0) ∧ (s.line (memKey (ctlTier pg) (ctlBase pg + ofs))).poison = false ∧
      (∀ o, s.lineHolder (ctlTier pg) (ctlBase pg + ofs) = some o → o < 8 → (s.part o).st ≠ .resetting) ∧
      s.ras.log.length < 256 ∧ ecc = .ue) ∧
    (0 < Config.spareRows 0x400 → ∃ s : State, ∃ pg row : Nat, ∃ rest uncorr : List Nat, ∃ bad : Bool, s.dead = false ∧
      pg < 16384 ∧ (ctlTier pg = 1 ∨ ctlTier pg = 2) ∧ s.fenced pg = false ∧ s.takesWork pg = true ∧
      (s.ctl pg).repairQ = row :: rest ∧ (s.ctl pg).spareUsed < spareRows pg ∧ bad = false ∧ uncorr = []) ∧
    (0 < Config.spareRows 0x400 → ∃ s : State, ∃ pg row : Nat, ∃ rest : List Nat, ∃ bad : Bool, s.dead = false ∧ pg < 16384 ∧
      (ctlTier pg = 1 ∨ ctlTier pg = 2) ∧ s.fenced pg = false ∧ s.takesWork pg = true ∧ (s.ctl pg).repairQ = row :: rest ∧
      (s.ctl pg).spareUsed < spareRows pg ∧ bad = true) ∧
    (∃ s : State, ∃ pg row : Nat, ∃ rest : List Nat, s.dead = false ∧ pg < 16384 ∧ (ctlTier pg = 1 ∨ ctlTier pg = 2) ∧
      s.fenced pg = false ∧ s.takesWork pg = true ∧ (s.ctl pg).repairQ = row :: rest ∧ spareRows pg ≤ (s.ctl pg).spareUsed) := by
  refine ⟨
    ⟨(devP.setF pRAS F.RAS_SCRUB_NEAR_EN 1), 0x400, 0, .clean, ?_, ?_, ?_, ?_, ?_, ?_, ?_, ?_, ?_, ?_, fun o h _ => by
      have a : (devP.setF pRAS F.RAS_SCRUB_NEAR_EN 1).lineHolder 1 0 = some 1 := by decide +kernel
      cases a.symm.trans h
      decide +kernel, ?_, rfl⟩,
    ⟨(devP.setF pRAS F.RAS_SCRUB_NEAR_EN 1), 0x400, 0, .ce, ?_, ?_, ?_, ?_, ?_, ?_, ?_, ?_, ?_, ?_, fun o h _ => by
      have a : (devP.setF pRAS F.RAS_SCRUB_NEAR_EN 1).lineHolder 1 0 = some 1 := by decide +kernel
      cases a.symm.trans h
      decide +kernel, ?_, rfl⟩,
    ⟨(devP.setF pRAS F.RAS_SCRUB_NEAR_EN 1), 0x400, 0, .ue, ?_, ?_, ?_, ?_, ?_, ?_, ?_, ?_, ?_, ?_, fun o h _ => by
      have a : (devP.setF pRAS F.RAS_SCRUB_NEAR_EN 1).lineHolder 1 0 = some 1 := by decide +kernel
      cases a.symm.trans h
      decide +kernel, ?_, rfl⟩,
    fun h => ⟨scrubS, 0x400, 5, [], [], false, ?_, ?_, ?_, ?_, ?_, ?_, scrubS_spare h, ?_, ?_⟩,
    fun h => ⟨scrubS, 0x400, 5, [], true, ?_, ?_, ?_, ?_, ?_, ?_, scrubS_spare h, ?_⟩,
    ⟨(devP.setCtl 0x400 { repairQ := [5], spareUsed := 64 }), 0x400, 5, [], ?_, ?_, ?_, ?_, ?_, ?_,
      Nat.le_trans (Nat.min_le_right _ _) (?_)⟩⟩ <;> decide +kernel

theorem met_FencingAndTheHistoryLog :
    (∃ s : State, ∃ pg : Nat, s.dead = false ∧ pg < 16384 ∧ s.mayWrite oTormal pRAS = true ∧ s.rstBusy pRAS = false ∧
      s.fenced pg = false ∧ s.idle pg = true ∧ s.ras.log.length < 256 ∧ (∃ i, pageInfo pg = some (.nsc, i) ∨
      pageInfo pg = some (.msc, i) ∨ pageInfo pg = some (.fsc, i) ∨ pageInfo pg = some (.mig, i) ∨ pageInfo pg = some (.ckp,
      i))) ∧
    (∃ s : State, ∃ m pg : Nat, s.dead = false ∧ okMaster m = true ∧ pg < 16384 ∧ s.reaches m pRAS = true ∧
      s.mayWrite m pRAS = true ∧ fenceable pg = false) ∧
    (∃ s : State, ∃ e : HistEntry, ∃ es : List HistEntry, s.dead = false ∧ s.mayWrite oTormal pRAS = true ∧
      s.rstBusy pRAS = false ∧ s.ras.log = e :: es) ∧
    (∃ s : State, s.dead = false ∧ s.mayWrite oTormal pRAS = true ∧ s.rstBusy pRAS = false ∧ s.ras.log = []) := by
  refine ⟨
    ⟨devP, 0x400, ?_, ?_, ?_, ?_, ?_, ?_, ?_, ⟨0, .inl (?_)⟩⟩,
    ⟨devP, 14, 0x1000, ?_⟩,
    ⟨{ devP with ras := { log := [{ kind := 3, tier := 1, addr := 0x40, page := 0x400, owner := 16, time := 5 }] } },
      { kind := 3, tier := 1, addr := 0x40, page := 0x400, owner := 16, time := 5 }, [], ?_⟩,
    ⟨devP, ?_⟩⟩ <;> decide +kernel

theorem met_PausesStartEndAndResume :
    (∃ s : State, ∃ m p : Nat, s.dead = false ∧ okMaster m = true ∧ p < 8 ∧ s.reaches m (pCKP 0) = true ∧
      s.mayWrite m (pCKP 0) = true ∧ s.rstBusy (pCKP 0) = false ∧ s.ckp.run = none ∧ s.enabled p = true ∧ s.pauseSt p = 0) ∧
    (∃ s : State, ∃ m p : Nat, s.dead = false ∧ okMaster m = true ∧ p < 8 ∧ s.reaches m (pCKP 0) = true ∧
      s.mayWrite m (pCKP 0) = true ∧ s.rstBusy (pCKP 0) = false ∧ (s.ckp.run ≠ none ∨ s.enabled p = false ∨ s.pauseSt p ≠ 0)) ∧
    (∃ s : State, ∃ p : Nat, ∃ r : CkpRun, s.dead = false ∧ p < 8 ∧ s.enabled p = true ∧ s.pauseSt p = 1 ∧
      s.quiet p none = true ∧ s.ckp.run = some r ∧ r.part = p ∧ r.who = .cmd ∧ r.op = 1 ∧ r.ph = .pausing ∧ s.member p = none) ∧
    (∃ s : State, ∃ p : Nat, s.dead = false ∧ p < 8 ∧ (s.pauseSt p ≠ 1 ∨ s.enabled p = false ∨ s.quiet p (s.ckpSelf p) = false)) ∧
    (∃ s : State, ∃ p : Nat, ∃ r : CkpRun, s.dead = false ∧ p < 8 ∧ s.pauseSt p = 1 ∧
      SMap.get s.ckp.pauseAt p 0 + s.f (pCKP 0) F.CKP_QTMO_US * 1000 ≤ s.now ∧ s.ckp.run = some r ∧ r.part = p ∧ r.who = .cmd ∧
      r.dom = false) ∧
    (∃ s : State, ∃ p : Nat, s.dead = false ∧ p < 8 ∧ (s.pauseSt p ≠ 1 ∨
      s.now < SMap.get s.ckp.pauseAt p 0 + s.f (pCKP 0) F.CKP_QTMO_US * 1000)) ∧
    (∃ s : State, ∃ m p : Nat, s.dead = false ∧ okMaster m = true ∧ p < 8 ∧ s.reaches m (pCKP 0) = true ∧
      s.mayWrite m (pCKP 0) = true ∧ s.rstBusy (pCKP 0) = false ∧ s.pauseSt p = 2 ∧ s.ckp.run = none ∧ (s.sc p).frozen = true) ∧
    (∃ s : State, ∃ m p : Nat, s.dead = false ∧ okMaster m = true ∧ p < 8 ∧ s.reaches m (pCKP 0) = true ∧
      s.mayWrite m (pCKP 0) = true ∧ s.rstBusy (pCKP 0) = false ∧ s.pauseSt p ≠ 2) := by
  refine ⟨
    ⟨devP, 14, 1, ?_⟩,
    ⟨devP.setF (pCKP 0) (F.CKP_PSTS_STATE.at 4 1) 2, 14, 1, ?_⟩,
    ⟨(({ devP with ckp := { run := some ({ op := 1, part := 1 } : CkpRun) } }.setF (pCKP 0) F.CKP_STS_BUSY 1).setF (pCKP 0) (F.CKP_PSTS_STATE.at 4 1) 1),
      1, ({ op := 1, part := 1 } : CkpRun), ?_⟩,
    ⟨devP.setSc 1 { cmdQ := [gcmd 2 1 1 1 0 0 0] } |>.setF (pCKP 0) (F.CKP_PSTS_STATE.at 4 1) 1, 1, ?_⟩,
    ⟨(({ atNow 1000 devP with ckp := { run := some ({ op := 1, part := 1 } : CkpRun) } }.setF (pCKP 0) F.CKP_STS_BUSY 1).setF (pCKP 0) (F.CKP_PSTS_STATE.at 4 1) 1) |>.setF (pCKP 0) F.CKP_QTMO_US 1,
      1, ({ op := 1, part := 1 } : CkpRun), ?_⟩,
    ⟨(atNow 999 devP).setF (pCKP 0) F.CKP_QTMO_US 1, 1, ?_⟩,
    ⟨(devP.setSc 1 { frozen := true }).setF (pCKP 0) (F.CKP_PSTS_STATE.at 4 1) 2, 14, 1, ?_⟩,
    ⟨devP, 14, 1, ?_⟩⟩ <;> decide +kernel

theorem met_CapturesCommitWholeOrNotAtAll :
    (∃ s : State, ∃ m p : Nat, ∃ again : Bool, let r := s.ckpArea { op := 2, part := p, resume := again, since := s.now };
      s.dead = false ∧ okMaster m = true ∧ p < 8 ∧ s.reaches m (pCKP 0) = true ∧ s.mayWrite m (pCKP 0) = true ∧
      s.rstBusy (pCKP 0) = false ∧ s.ckp.run = none ∧ s.enabled p = true ∧ (SMap.get s.prt.ikeys p none).isSome = true ∧
      s.holds p r.tier r.addr (r.mib * 2 ^ 20) = true ∧ (r.nexcl = 0 ∨ s.holds p r.exTier r.exAddr (4 * r.nexcl) = true) ∧
      s.pauseSt p = 0) ∧
    (∃ s : State, ∃ m p : Nat, ∃ again : Bool, let r := s.ckpArea { op := 2, part := p, resume := again, since := s.now };
      let x := capCheck r ((s.setF (pCKP 0) F.CKP_STS_BUSY 1).setRun (some r)); let y := capHeader (x.2.1.begun x.2.2) x.2.2;
      s.dead = false ∧ okMaster m = true ∧ p < 8 ∧ s.reaches m (pCKP 0) = true ∧ s.mayWrite m (pCKP 0) = true ∧
      s.rstBusy (pCKP 0) = false ∧ s.ckp.run = none ∧ s.enabled p = true ∧ (SMap.get s.prt.ikeys p none).isSome = true ∧
      s.holds p r.tier r.addr (r.mib * 2 ^ 20) = true ∧ (r.nexcl = 0 ∨ s.holds p r.exTier r.exAddr (4 * r.nexcl) = true) ∧
      s.pauseSt p = 2 ∧ x.1 = 0 ∧ y.1 = 0 ∧ y.2.mem.wait = false) ∧
    (∃ s : State, ∃ m p : Nat, ∃ again : Bool, let r := s.ckpArea { op := 2, part := p, resume := again, since := s.now };
      let x := capCheck r ((s.setF (pCKP 0) F.CKP_STS_BUSY 1).setRun (some r)); s.dead = false ∧ okMaster m = true ∧ p < 8 ∧
      s.reaches m (pCKP 0) = true ∧ s.mayWrite m (pCKP 0) = true ∧ s.rstBusy (pCKP 0) = false ∧ s.ckp.run = none ∧
      s.enabled p = true ∧ (SMap.get s.prt.ikeys p none).isSome = true ∧ s.holds p r.tier r.addr (r.mib * 2 ^ 20) = true ∧
      (r.nexcl = 0 ∨ s.holds p r.exTier r.exAddr (4 * r.nexcl) = true) ∧ s.pauseSt p = 2 ∧ x.1 ≠ 0 ∧ x.2.2.mem.wait = false) ∧
    (∃ s : State, ∃ m p : Nat, s.dead = false ∧ okMaster m = true ∧ p < 8 ∧ s.reaches m (pCKP 0) = true ∧
      s.mayWrite m (pCKP 0) = true ∧ s.rstBusy (pCKP 0) = false ∧ (s.ckp.run ≠ none ∨ s.enabled p = false ∨
      SMap.get s.prt.ikeys p none = none ∨ (s.pauseSt p ≠ 0 ∧ s.pauseSt p ≠ 2))) ∧
    (∃ s : State, ∃ r : CkpRun, ∃ k : ImageKey, ∃ errs : Errs, let v := s.snap r.part r.excl;
      let m := readRanges r.part v.ranges (s.finds errs); let g := m.2.2.seal r k v m.2.1; let n := g.2.2.length;
      let x := bulkWrite (pCKP 0) 0 (m.2.2.access r.part) r.tier r.addr (plain (withState g.1 (stateLine false []) ++ padTo (payloadAt n - 4096) g.2.1 ++ g.2.2)) m.2.2;
      let y := bulkWrite (pCKP 0) 0 (x.2.access r.part) r.tier (r.addr + 192) (plain (stateLine true (masterTag k.key r.nonce g.1 g.2.1))) x.2;
      s.dead = false ∧ s.ckp.run = some r ∧ r.ph = .capturing ∧ r.who ≠ .cut ∧ r.dom = false ∧ r.op = 2 ∧ r.part < 8 ∧
      s.enabled r.part = true ∧ SMap.get s.prt.ikeys r.part none = some k ∧ m.1 = 0 ∧ imgBytes n ≤ r.mib * 2 ^ 20 ∧ x.1 = 0 ∧
      y.1 = 0 ∧ y.2.mem.wait = false) ∧
    (∃ s : State, ∃ r : CkpRun, ∃ k : ImageKey, ∃ errs : Errs, let v := s.snap r.part r.excl;
      let m := readRanges r.part v.ranges (s.finds errs); s.dead = false ∧ s.ckp.run = some r ∧ r.ph = .capturing ∧
      r.who ≠ .cut ∧ r.dom = false ∧ r.op = 2 ∧ r.part < 8 ∧ s.enabled r.part = true ∧
      SMap.get s.prt.ikeys r.part none = some k ∧ m.1 ≠ 0 ∧ m.2.2.mem.wait = false ∧ r.who = .cmd) ∧
    (∃ s : State, ∃ r : CkpRun, s.dead = false ∧ s.ckp.run = some r ∧ r.ph = .capturing ∧ r.who = .cmd ∧ r.op = 2 ∧
      r.dom = false ∧ r.part < 8 ∧ s.enabled r.part = true ∧ SMap.get s.prt.ikeys r.part none = none) ∧
    (∃ s : State, ∃ r : CkpRun, ∃ tmo, s.dead = false ∧ s.ckp.run = some r ∧ r.ph = .capturing ∧ r.who = .cmd ∧ r.op = 2 ∧
      r.dom = false ∧ r.part < 8 ∧ (tmo = true → s.expired (pCKP 0) r.iss = true)) ∧
    (∃ s : State, ∃ r : CkpRun, s.dead = false ∧ s.ckp.run = some r ∧ r.ph = .capturing ∧ r.who = .cmd ∧ r.op = 2 ∧
      r.dom = false ∧ r.part < 8 ∧ s.expired (pCKP 0) r.iss = false) ∧
    (∃ s : State, ∃ m p : Nat, ∃ r : CkpRun, s.dead = false ∧ okMaster m = true ∧ p < 8 ∧ s.reaches m (pCKP 0) = true ∧
      s.mayWrite m (pCKP 0) = true ∧ s.rstBusy (pCKP 0) = false ∧ s.ckp.run = some r ∧ r.part = p ∧ r.op = 2 ∧ r.dom = false ∧
      r.who = .cmd ∧ r.ph = .capturing) := by
  refine ⟨
    ⟨(({ devP with prt := { devP.prt with ikeys := [(1, some ⟨7, 8⟩)] } }).setF (pCKP 0) F.CKP_IMG_LO_TIER 1).setW (pCKP 0) R.CKP_IMG_CAP 256,
      14, 1, false, ?_⟩,
    ⟨(areaS.setF (pCKP 0) (F.CKP_PSTS_STATE.at 4 1) 2), 14, 1, false, ?_⟩,
    ⟨((areaS.setF (pCKP 0) (F.CKP_PSTS_STATE.at 4 1) 2).setW (pCKP 0) R.CKP_IMG_CAP 0), 14, 1, false, ?_⟩,
    ⟨devP, 14, 1, ?_⟩,
    (by
      obtain ⟨f1, f2, f3, f4, f5, f6, f7, f8, f9⟩ := capS_facts
      refine ⟨capS, capR, ⟨7, 8⟩, [], f1, f2, f3, f4, f5, f6, f7, f8, f9, capS_commits _ _ _ _ capS_ready rfl rfl rfl⟩),
    ⟨(((({ areaS with ckp := { run := some ({ op := 2, part := 1, ph := .capturing, tier := 1, addr := 0x100000, mib := 1, serial := 3 } : CkpRun) } } : State).setF (pCKP 0) F.CKP_STS_BUSY 1).setF (pCKP 0) (F.CKP_PSTS_STATE.at 4 1) 3)).setAl 1 { live := [(0, some { seq := 1, cls := 0, die := 0, size := 2 ^ 21, first := 0, spill := 0, exts := [{ tier := 2, start := 512, len := 1, lstart := 0 }] })] },
      ({ op := 2, part := 1, ph := .capturing, tier := 1, addr := 0x100000, mib := 1, serial := 3 } : CkpRun), ⟨7, 8⟩, [], ?_⟩,
    ⟨(({ devP with ckp := { run := some ({ op := 2, part := 1, ph := .capturing, tier := 1, addr := 0x100000, serial := 3 } : CkpRun) } }.setF (pCKP 0) F.CKP_STS_BUSY 1).setF (pCKP 0) (F.CKP_PSTS_STATE.at 4 1) 3),
      ({ op := 2, part := 1, ph := .capturing, tier := 1, addr := 0x100000, serial := 3 } : CkpRun), ?_⟩,
    ⟨((({ atNow 999 areaS with ckp := { run := some ({ op := 2, part := 1, ph := .capturing, tier := 1, addr := 0x100000, mib := 1, serial := 3, iss := { since := 0, tmo := 1000 } } : CkpRun) } } : State).setF (pCKP 0) F.CKP_STS_BUSY 1).setF (pCKP 0) (F.CKP_PSTS_STATE.at 4 1) 3),
      ({ op := 2, part := 1, ph := .capturing, tier := 1, addr := 0x100000, mib := 1, serial := 3, iss := { since := 0, tmo := 1000 } } : CkpRun),
      false, ?_⟩,
    ⟨((({ atNow 999 areaS with ckp := { run := some ({ op := 2, part := 1, ph := .capturing, tier := 1, addr := 0x100000, mib := 1, serial := 3, iss := { since := 0, tmo := 1000 } } : CkpRun) } } : State).setF (pCKP 0) F.CKP_STS_BUSY 1).setF (pCKP 0) (F.CKP_PSTS_STATE.at 4 1) 3),
      ({ op := 2, part := 1, ph := .capturing, tier := 1, addr := 0x100000, mib := 1, serial := 3, iss := { since := 0, tmo := 1000 } } : CkpRun),
      ?_⟩,
    ⟨(({ devP with ckp := { run := some ({ op := 2, part := 1, ph := .capturing, tier := 1, addr := 0x100000, serial := 3 } : CkpRun) } }.setF (pCKP 0) F.CKP_STS_BUSY 1).setF (pCKP 0) (F.CKP_PSTS_STATE.at 4 1) 3),
      14, 1, ({ op := 2, part := 1, ph := .capturing, tier := 1, addr := 0x100000, serial := 3 } : CkpRun), ?_⟩⟩ <;> decide +kernel

theorem met_CheckpointsPauseTheirPartition :
    (∃ s : State, ∃ p n : Nat, ∃ r : CkpRun, s.dead = false ∧ p < 8 ∧ s.enabled p = true ∧ s.ckp.run = some r ∧ r.who = .op n ∧
      r.part = p ∧ r.ph = .granted) ∧
    (∃ s : State, ∃ p n : Nat, ∃ r : CkpRun, s.dead = false ∧ p < 8 ∧ s.enabled p = true ∧ s.ckp.run = some r ∧ r.who = .op n ∧
      r.part = p ∧ r.ph = .pausing ∧ s.pauseSt p = 1 ∧ s.quiet p (some n) = true ∧ s.member p = none) ∧
    (∃ s : State, ∃ p n d : Nat, ∃ r : CkpRun, ∃ errs : Errs, let u := s.finds errs;
      let x := if (SMap.get s.prt.ikeys p none).isNone then (0x11, r, u) else capCheck r u; s.dead = false ∧ p < 8 ∧
      s.enabled p = true ∧ s.ckp.run = some r ∧ r.who = .op n ∧ r.part = p ∧ r.ph = .held ∧ x.1 ≠ 0 ∧ x.2.2.mem.wait = false ∧
      (s.slot p n).st = .running ∧ (s.slot p n).heldRel = false ∧ (s.slot p n).frel = false ∧
      (s.flow p (s.slot p n).flow).ordered = false ∧ (s.slot p n).exec = some (.ckp d)) ∧
    (∃ s : State, ∃ p n : Nat, ∃ r : CkpRun, ∃ errs : Errs, let u := s.finds errs;
      let x := if (SMap.get s.prt.ikeys p none).isNone then (0x11, r, u) else capCheck r u;
      let v := completed p n (x.2.2.setRun (some { x.2.1 with ph := .draining })); s.dead = false ∧ p < 8 ∧ s.enabled p = true ∧
      s.ckp.run = some r ∧ r.who = .op n ∧ r.part = p ∧ r.ph = .held ∧ x.1 = 0 ∧ v.mem.wait = false) ∧
    (∃ s : State, ∃ p : Nat, s.dead = false ∧ p < 8 ∧ (s.enabled p = false ∨ (∀ r, s.ckp.run = some r → r.part ≠ p))) ∧
    (∃ s : State, ∃ p n : Nat, ∃ r : CkpRun, ∃ errs : Errs, let y := capHeader (r.begun s) (s.finds errs); s.dead = false ∧
      p < 8 ∧ s.ckp.run = some r ∧ r.part = p ∧ r.who = .op n ∧ r.ph = .draining ∧ s.enabled p = true ∧ (s.sc p).succs = [] ∧
      (s.tagsWhere (fun t => t.who == .succ p)).isEmpty = true ∧ s.fab.wait.any (fun o => o.who == .succ p) = false ∧
      y.2.mem.wait = false ∧ y.1 = 0) ∧
    (∃ s : State, ∃ p n : Nat, ∃ r : CkpRun, ∃ errs : Errs, let y := capHeader (r.begun s) (s.finds errs); s.dead = false ∧
      p < 8 ∧ s.ckp.run = some r ∧ r.part = p ∧ r.who = .op n ∧ r.ph = .draining ∧ s.enabled p = true ∧ (s.sc p).succs = [] ∧
      (s.tagsWhere (fun t => t.who == .succ p)).isEmpty = true ∧ s.fab.wait.any (fun o => o.who == .succ p) = false ∧
      y.2.mem.wait = false ∧ y.1 ≠ 0 ∧ r.op = 2) ∧
    (∃ s : State, ∃ p n : Nat, ∃ r : CkpRun, s.dead = false ∧ p < 8 ∧ s.ckp.run = some r ∧ r.part = p ∧ r.who = .op n ∧
      r.ph = .draining ∧ ((s.sc p).succs ≠ [] ∨ (s.tagsWhere (fun t => t.who == .succ p)).isEmpty = false ∨
      s.fab.wait.any (fun o => o.who == .succ p) = true)) := by
  refine ⟨
    ⟨({ withOp ({ st := .running, exec := some (.ckp 0), desc := [0x2000F, 0, 0, 0, 0, 0, 0, 0] } : OpSlot) with ckp := { run := some ({ op := 2, part := 1, who := .op 5, ph := .granted } : CkpRun) } }.setF (pCKP 0) F.CKP_STS_BUSY 1),
      1, 5, ({ op := 2, part := 1, who := .op 5, ph := .granted } : CkpRun), ?_⟩,
    ⟨((({ (withOp { st := .running, exec := some (.ckp 0), desc := [0x2000F, 0, 0, 0, 0, 0, 0, 0] } areaS) with ckp := { run := some ({ op := 2, part := 1, who := .op 5, ph := .pausing, tier := 1, addr := 0x100000, mib := 1 } : CkpRun) } } : State).setF (pCKP 0) F.CKP_STS_BUSY 1).setF (pCKP 0) (F.CKP_PSTS_STATE.at 4 1) 1),
      1, 5, ({ op := 2, part := 1, who := .op 5, ph := .pausing, tier := 1, addr := 0x100000, mib := 1 } : CkpRun), ?_⟩,
    ⟨(({ withOp ({ st := .running, exec := some (.ckp 0), desc := [0x2000F, 0, 0, 0, 0, 0, 0, 0] } : OpSlot) with ckp := { run := some ({ op := 2, part := 1, who := .op 5, ph := .held } : CkpRun) } }.setF (pCKP 0) F.CKP_STS_BUSY 1).setF (pCKP 0) (F.CKP_PSTS_STATE.at 4 1) 2),
      1, 5, 0, ({ op := 2, part := 1, who := .op 5, ph := .held } : CkpRun), [], ?_⟩,
    ⟨((({ (withOp { st := .running, exec := some (.ckp 0), desc := [0x2000F, 0, 0, 0, 0, 0, 0, 0] } areaS) with ckp := { run := some ({ op := 2, part := 1, who := .op 5, ph := .held, tier := 1, addr := 0, mib := 256 } : CkpRun) } } : State).setF (pCKP 0) F.CKP_STS_BUSY 1).setF (pCKP 0) (F.CKP_PSTS_STATE.at 4 1) 2),
      1, 5, ({ op := 2, part := 1, who := .op 5, ph := .held, tier := 1, addr := 0, mib := 256 } : CkpRun), [], ?_⟩,
    ⟨devP, 1, ?_⟩,
    ⟨((({ (withOp { st := .running, exec := some (.ckp 0), desc := [0x2000F, 0, 0, 0, 0, 0, 0, 0] } areaS) with ckp := { run := some ({ op := 2, part := 1, who := .op 5, ph := .draining, tier := 1, addr := 0x100000, mib := 1 } : CkpRun) } } : State).setF (pCKP 0) F.CKP_STS_BUSY 1).setF (pCKP 0) (F.CKP_PSTS_STATE.at 4 1) 2),
      1, 5, ({ op := 2, part := 1, who := .op 5, ph := .draining, tier := 1, addr := 0x100000, mib := 1 } : CkpRun), [], ?_⟩,
    ⟨(({ devP with ckp := { run := some ({ op := 2, part := 1, who := .op 5, ph := .draining } : CkpRun) } }.setF (pCKP 0) F.CKP_STS_BUSY 1).setF (pCKP 0) (F.CKP_PSTS_STATE.at 4 1) 2),
      1, 5, ({ op := 2, part := 1, who := .op 5, ph := .draining } : CkpRun), [], ?_⟩,
    ⟨(({ ({ devP with fab := { tags := [(4, some { who := .succ 1, part := 1, link := 3, opc := 7, since := 0, rtmo := 9 })] } } : State) with ckp := { run := some ({ op := 2, part := 1, who := .op 5, ph := .draining } : CkpRun) } }.setF (pCKP 0) F.CKP_STS_BUSY 1).setF (pCKP 0) (F.CKP_PSTS_STATE.at 4 1) 2),
      1, 5, ({ op := 2, part := 1, who := .op 5, ph := .draining } : CkpRun), ?_⟩⟩ <;> decide +kernel

theorem met_RestoresPutTheImageBack :
    (∃ s : State, ∃ m p : Nat, let r := s.ckpArea { op := 4, part := p }; s.dead = false ∧ okMaster m = true ∧ p < 8 ∧
      s.reaches m (pCKP 0) = true ∧ s.mayWrite m (pCKP 0) = true ∧ s.rstBusy (pCKP 0) = false ∧ s.ckp.run = none ∧
      s.restorePre p = true ∧ s.holds p r.tier r.addr (r.mib * 2 ^ 20) = false) ∧
    (∃ s : State, ∃ m p : Nat, ∃ errs : Errs, let r := s.ckpArea { op := 4, part := p };
      let u := ((s.finds errs).setF (pCKP 0) F.CKP_STS_BUSY 1).setRun (some r); ∃ h v k, s.dead = false ∧ okMaster m = true ∧
      p < 8 ∧ s.reaches m (pCKP 0) = true ∧ s.mayWrite m (pCKP 0) = true ∧ s.rstBusy (pCKP 0) = false ∧ s.ckp.run = none ∧
      s.restorePre p = true ∧ s.holds p r.tier r.addr (r.mib * 2 ^ 20) = true ∧ readImg r 0 4096 u = (0, h, v) ∧
      SMap.get s.prt.ikeys p none = some k ∧ v.headOk r k h = false ∧ v.mem.wait = false) ∧
    (∃ s : State, ∃ m p : Nat, ∃ errs : Errs, let r := s.ckpArea { op := 4, part := p };
      let u := ((s.finds errs).setF (pCKP 0) F.CKP_STS_BUSY 1).setRun (some r); ∃ code v, s.dead = false ∧ okMaster m = true ∧
      p < 8 ∧ s.reaches m (pCKP 0) = true ∧ s.mayWrite m (pCKP 0) = true ∧ s.rstBusy (pCKP 0) = false ∧ s.ckp.run = none ∧
      s.restorePre p = true ∧ s.holds p r.tier r.addr (r.mib * 2 ^ 20) = true ∧ readHead r u = (.error code, v) ∧
      v.mem.wait = false) ∧
    (∃ s : State, ∃ m p : Nat, ∃ errs : Errs, let r := s.ckpArea { op := 4, part := p };
      let u := ((s.finds errs).setF (pCKP 0) F.CKP_STS_BUSY 1).setRun (some r); ∃ h tags i v, s.dead = false ∧
      okMaster m = true ∧ p < 8 ∧ s.reaches m (pCKP 0) = true ∧ s.mayWrite m (pCKP 0) = true ∧ s.rstBusy (pCKP 0) = false ∧
      s.ckp.run = none ∧ s.restorePre p = true ∧ s.holds p r.tier r.addr (r.mib * 2 ^ 20) = true ∧ readHead r u = (.ok (h, tags,
      i), v) ∧ v.mem.wait = false) ∧
    (∃ s : State, ∃ m p : Nat, s.dead = false ∧ okMaster m = true ∧ p < 8 ∧ s.reaches m (pCKP 0) = true ∧
      s.mayWrite m (pCKP 0) = true ∧ s.rstBusy (pCKP 0) = false ∧ (s.ckp.run ≠ none ∨ s.restorePre p = false)) ∧
    (∃ s : State, ∃ r : CkpRun, ∃ i : SealedImg, ∃ errs : Errs, let x := readPayload r i (s.finds errs);
      let y := putRanges r.part i.snap.ranges 0 (payloadMem r.hdr x.2.1) (0, putSnap r.part i.snap x.2.2); s.dead = false ∧
      s.ckp.run = some r ∧ r.ph = .restoring ∧ r.part < 8 ∧ r.op = 4 ∧ r.img = some i ∧ s.enabled r.part = true ∧ x.1 = 0 ∧
      y.1 = 0 ∧ y.2.mem.wait = false) ∧
    (∃ s : State, ∃ r : CkpRun, ∃ i : SealedImg, ∃ errs : Errs, let x := readPayload r i (s.finds errs); s.dead = false ∧
      s.ckp.run = some r ∧ r.ph = .restoring ∧ r.part < 8 ∧ r.op = 4 ∧ r.img = some i ∧ s.enabled r.part = true ∧ x.1 ≠ 0 ∧
      x.2.2.mem.wait = false) ∧
    (∃ s : State, ∃ r : CkpRun, ∃ i : SealedImg, ∃ errs : Errs, let x := readPayload r i (s.finds errs);
      let y := putRanges r.part i.snap.ranges 0 (payloadMem r.hdr x.2.1) (0, putSnap r.part i.snap x.2.2); s.dead = false ∧
      s.ckp.run = some r ∧ r.ph = .restoring ∧ r.part < 8 ∧ r.op = 4 ∧ r.img = some i ∧ s.enabled r.part = true ∧ x.1 = 0 ∧
      y.1 ≠ 0 ∧ y.2.mem.wait = false) ∧
    (∃ s : State, ∃ r : CkpRun, ∃ i : SealedImg, s.dead = false ∧ s.ckp.run = some r ∧ r.ph = .restoring ∧ r.part < 8 ∧
      r.op = 4 ∧ r.img = some i ∧ s.enabled r.part = false) ∧
    (∃ s : State, ∃ r : CkpRun, ∃ i : SealedImg, s.dead = false ∧ s.ckp.run = some r ∧ r.ph = .restoring ∧ r.part < 8 ∧
      r.op = 4 ∧ r.img = some i ∧ s.expired (pCKP 0) r.iss = true) ∧
    (∃ s : State, ∃ r : CkpRun, ∃ i : SealedImg, s.dead = false ∧ s.ckp.run = some r ∧ r.ph = .restoring ∧ r.part < 8 ∧
      r.op = 4 ∧ r.img = some i ∧ s.expired (pCKP 0) r.iss = false) := by
  refine ⟨
    ⟨areaS.setW (pCKP 0) R.CKP_IMG_CAP 257, 14, 1, ?_⟩,
    ⟨(bytesAt 1 1 0 [0, 0, 0, 0] areaS), 14, 1, [], _, _, ⟨7, 8⟩, ?_, ?_, ?_, ?_, ?_, ?_, ?_, ?_, ?_, triple_eta (?_) rfl, ?_,
      ?_, ?_⟩,
    ⟨(setPoison (memKey 1 0) true areaS), 14, 1, [], 0x06, _, ?_, ?_, ?_, ?_, ?_, ?_, ?_, ?_, ?_, err_eta (?_), ?_⟩,
    (by
      obtain ⟨t, e, hw⟩ := sealS_opens
      refine ⟨sealS, 14, 1, [], sealHdr, sealTags, imgSnap, t, ?_, ?_, ?_, ?_, ?_, ?_, ?_, ?_, ?_, e, hw⟩ <;> decide +kernel),
    ⟨devP, 14, 1, ?_⟩,
    ⟨((({ atNow 999 areaS with ckp := { run := some ({ op := 4, part := 1, ph := .restoring, tier := 1, addr := 0x100000, img := some { imgSnap with body := [] }, iss := { since := 0, tmo := 1000 } } : CkpRun) } } : State).setF (pCKP 0) F.CKP_STS_BUSY 1).setF (pCKP 0) (F.CKP_PSTS_STATE.at 4 1) 4),
      ({ op := 4, part := 1, ph := .restoring, tier := 1, addr := 0x100000, img := some { imgSnap with body := [] }, iss := { since := 0, tmo := 1000 } } : CkpRun),
      { imgSnap with body := [] }, [], ?_⟩,
    ⟨((({ atNow 999 devP with ckp := { run := some ({ op := 4, part := 1, ph := .restoring, tier := 1, addr := 0x100000, img := some { imgSnap with body := [] }, iss := { since := 0, tmo := 1000 } } : CkpRun) } } : State).setF (pCKP 0) F.CKP_STS_BUSY 1).setF (pCKP 0) (F.CKP_PSTS_STATE.at 4 1) 4),
      ({ op := 4, part := 1, ph := .restoring, tier := 1, addr := 0x100000, img := some { imgSnap with body := [] }, iss := { since := 0, tmo := 1000 } } : CkpRun),
      { imgSnap with body := [] }, [], ?_⟩,
    ⟨bytesAt 1 1 0x102000 memCt (((({ areaS with ckp := { run := some ({ op := 4, part := 1, ph := .restoring, tier := 1, addr := 0x100000, hdr := memHdr, tags := memTag, img := some { body := [], snap := { units := [[0], [0], [0], []], alloc := { live := [(0, some { seq := 1, cls := 0, die := 0, size := 2 ^ 21, first := 0, spill := 0, exts := [{ tier := 2, start := 512, len := 1, lstart := 0 }] })] }, incl := [0] } } } : CkpRun) } } : State).setF (pCKP 0) F.CKP_STS_BUSY 1).setF (pCKP 0) (F.CKP_PSTS_STATE.at 4 1) 4)),
      ({ op := 4, part := 1, ph := .restoring, tier := 1, addr := 0x100000, hdr := memHdr, tags := memTag, img := some { body := [], snap := { units := [[0], [0], [0], []], alloc := { live := [(0, some { seq := 1, cls := 0, die := 0, size := 2 ^ 21, first := 0, spill := 0, exts := [{ tier := 2, start := 512, len := 1, lstart := 0 }] })] }, incl := [0] } } } : CkpRun),
      { body := [], snap := { units := [[0], [0], [0], []], alloc := { live := [(0, some { seq := 1, cls := 0, die := 0, size := 2 ^ 21, first := 0, spill := 0, exts := [{ tier := 2, start := 512, len := 1, lstart := 0 }] })] }, incl := [0] } },
      [], ?_⟩,
    ⟨((({ atNow 999 (areaS.setPart 1 { st := .resetting }) with ckp := { run := some ({ op := 4, part := 1, ph := .restoring, tier := 1, addr := 0x100000, img := some { imgSnap with body := [] }, iss := { since := 0, tmo := 1000 } } : CkpRun) } } : State).setF (pCKP 0) F.CKP_STS_BUSY 1).setF (pCKP 0) (F.CKP_PSTS_STATE.at 4 1) 4),
      ({ op := 4, part := 1, ph := .restoring, tier := 1, addr := 0x100000, img := some { imgSnap with body := [] }, iss := { since := 0, tmo := 1000 } } : CkpRun),
      { imgSnap with body := [] }, ?_⟩,
    ⟨((({ atNow 1000 areaS with ckp := { run := some ({ op := 4, part := 1, ph := .restoring, tier := 1, addr := 0x100000, img := some { imgSnap with body := [] }, iss := { since := 0, tmo := 1000 } } : CkpRun) } } : State).setF (pCKP 0) F.CKP_STS_BUSY 1).setF (pCKP 0) (F.CKP_PSTS_STATE.at 4 1) 4),
      ({ op := 4, part := 1, ph := .restoring, tier := 1, addr := 0x100000, img := some { imgSnap with body := [] }, iss := { since := 0, tmo := 1000 } } : CkpRun),
      { imgSnap with body := [] }, ?_⟩,
    ⟨((({ atNow 999 areaS with ckp := { run := some ({ op := 4, part := 1, ph := .restoring, tier := 1, addr := 0x100000, img := some { imgSnap with body := [] }, iss := { since := 0, tmo := 1000 } } : CkpRun) } } : State).setF (pCKP 0) F.CKP_STS_BUSY 1).setF (pCKP 0) (F.CKP_PSTS_STATE.at 4 1) 4),
      ({ op := 4, part := 1, ph := .restoring, tier := 1, addr := 0x100000, img := some { imgSnap with body := [] }, iss := { since := 0, tmo := 1000 } } : CkpRun),
      { imgSnap with body := [] }, ?_⟩⟩ <;> decide +kernel

theorem met_DomainCapturesCutTogether_1 :
    (∃ s : State, ∃ m p : Nat, ∃ again : Bool,
      let r := s.ckpArea { op := 2, part := p, dom := true, resume := again, since := s.now, cutId := s.ckpCut };
      let u := startPause p false ((s.setF (pCKP 0) F.CKP_STS_BUSY 1).setRun (some r)); let x := cutAll p 1 r.cutId u.peers u;
      s.dead = false ∧ okMaster m = true ∧ p < 8 ∧ s.reaches m (pCKP 0) = true ∧ s.mayWrite m (pCKP 0) = true ∧
      s.rstBusy (pCKP 0) = false ∧ s.ckp.run = none ∧ s.enabled p = true ∧ (SMap.get s.prt.ikeys p none).isSome = true ∧
      s.pauseSt p = 0 ∧ s.ckpCut ≠ 0 ∧ s.holds p r.tier r.addr (r.mib * 2 ^ 20) = true ∧ (r.nexcl = 0 ∨
      s.holds p r.exTier r.exAddr (4 * r.nexcl) = true) ∧ x.1 = true) ∧
    (∃ s : State, ∃ m p : Nat, ∃ again : Bool,
      let r := s.ckpArea { op := 2, part := p, dom := true, resume := again, since := s.now, cutId := s.ckpCut };
      let u := startPause p false ((s.setF (pCKP 0) F.CKP_STS_BUSY 1).setRun (some r)); let x := cutAll p 1 r.cutId u.peers u;
      s.dead = false ∧ okMaster m = true ∧ p < 8 ∧ s.reaches m (pCKP 0) = true ∧ s.mayWrite m (pCKP 0) = true ∧
      s.rstBusy (pCKP 0) = false ∧ s.ckp.run = none ∧ s.enabled p = true ∧ (SMap.get s.prt.ikeys p none).isSome = true ∧
      s.pauseSt p = 0 ∧ s.ckpCut ≠ 0 ∧ s.holds p r.tier r.addr (r.mib * 2 ^ 20) = true ∧ (r.nexcl = 0 ∨
      s.holds p r.exTier r.exAddr (4 * r.nexcl) = true) ∧ x.1 = false) ∧
    (∃ s : State, ∃ m p : Nat, s.dead = false ∧ okMaster m = true ∧ p < 8 ∧ s.reaches m (pCKP 0) = true ∧
      s.mayWrite m (pCKP 0) = true ∧ s.rstBusy (pCKP 0) = false ∧ (s.ckpCut = 0 ∨ s.pauseSt p ≠ 0)) ∧
    (∃ s : State, ∃ l w p id d : Nat, ∃ r : CkpRun, ∃ data : List Byte, let r2 := { r with cutSent := true, done := [] };
      let x := cutAll p 3 r.cutId s.peers (s.setRun (some { r with done := r.done ++ [d] }));
      let c := capCheck r2 (x.2.setRun (some r2)); let y := capHeader (c.2.1.begun c.2.2) c.2.2; s.dead = false ∧
      okLink l = true ∧ okHeader w = true ∧ s.coordOf p id (hdrOf w).src = some (r, d) ∧ r.done.length + 1 = s.peers.length ∧
      p < 8 ∧ r.who = .cmd ∧ s.cutIn l w 2 data = some (p, id) ∧ r.cutSent = false ∧ s.pauseSt p = 2 ∧ x.1 = true ∧ c.1 = 0 ∧
      y.1 = 0 ∧ y.2.mem.wait = false) ∧
    (∃ s : State, ∃ l w p id d : Nat, ∃ r : CkpRun, ∃ data : List Byte,
      let x := cutAll p 3 r.cutId s.peers (s.setRun (some { r with done := r.done ++ [d] })); s.dead = false ∧ okLink l = true ∧
      okHeader w = true ∧ s.coordOf p id (hdrOf w).src = some (r, d) ∧ r.done.length + 1 = s.peers.length ∧ p < 8 ∧
      r.who = .cmd ∧ s.cutIn l w 2 data = some (p, id) ∧ r.cutSent = false ∧ s.pauseSt p = 2 ∧ x.1 = false) ∧
    (∃ s : State, ∃ l w p id d : Nat, ∃ r : CkpRun, ∃ data : List Byte, s.dead = false ∧ okLink l = true ∧ okHeader w = true ∧
      s.coordOf p id (hdrOf w).src = some (r, d) ∧ r.done.length + 1 = s.peers.length ∧ p < 8 ∧ r.who = .cmd ∧
      s.cutIn l w 4 data = some (p, id) ∧ r.cutSent = true ∧ fieldOf data 8 1 = 0 ∧ r.ph = .domain) ∧
    (∃ s : State, ∃ l w p id d : Nat, ∃ r : CkpRun, ∃ data : List Byte, s.dead = false ∧ okLink l = true ∧ okHeader w = true ∧
      s.coordOf p id (hdrOf w).src = some (r, d) ∧ p < 8 ∧ r.who = .cmd ∧ s.cutIn l w 4 data = some (p, id) ∧ r.cutSent = true ∧
      fieldOf data 8 1 ≠ 0) ∧
    (∃ s : State, ∃ p : Nat, ∃ r : CkpRun, s.dead = false ∧ p < 8 ∧ s.ckp.run = some r ∧ r.part = p ∧ r.dom = true ∧
      r.who = .cmd ∧ r.since + s.f (pCKP 0) F.CKP_DTMO_MS * 1000000 ≤ s.now) ∧
    (∃ s : State, ∃ p : Nat, ∃ r : CkpRun, s.dead = false ∧ p < 8 ∧ s.ckp.run = some r ∧ r.part = p ∧ r.dom = true ∧
      r.who = .cmd ∧ s.now < r.since + s.f (pCKP 0) F.CKP_DTMO_MS * 1000000) ∧
    (∃ s : State, ∃ l w p id : Nat, ∃ m : CutMember, ∃ data : List Byte,
      let r := s.ckpArea { op := 2, part := p, who := .cut, cutId := id };
      let c := capCheck r ((s.setRun (some r)).setF (pCKP 0) F.CKP_STS_BUSY 1); let y := capHeader (c.2.1.begun c.2.2) c.2.2;
      s.dead = false ∧ okLink l = true ∧ okHeader w = true ∧ p < 8 ∧ s.cutIn l w 3 data = some (p, id) ∧ s.member p = some m ∧
      s.pauseSt p = 2 ∧ m.held = true ∧ m.done = false ∧ s.pcut p = id ∧ s.ckp.run = none ∧
      (SMap.get s.prt.ikeys p none).isSome = true ∧ c.1 = 0 ∧ y.1 = 0 ∧ y.2.mem.wait = false) ∧
    (∃ s : State, ∃ l w p id : Nat, ∃ m : CutMember, ∃ data : List Byte,
      let r := s.ckpArea { op := 2, part := p, who := .cut, cutId := id };
      let c := capCheck r ((s.setRun (some r)).setF (pCKP 0) F.CKP_STS_BUSY 1); s.dead = false ∧ okLink l = true ∧
      okHeader w = true ∧ p < 8 ∧ s.cutIn l w 3 data = some (p, id) ∧ s.member p = some m ∧ s.pauseSt p = 2 ∧ m.held = true ∧
      m.done = false ∧ s.pcut p = id ∧ s.ckp.run = none ∧ (SMap.get s.prt.ikeys p none).isSome = true ∧ c.1 ≠ 0 ∧
      c.2.2.mem.wait = false) ∧
    (∃ s : State, ∃ l w p id : Nat, ∃ data : List Byte, s.dead = false ∧ okLink l = true ∧ okHeader w = true ∧
      s.cutIn l w 1 data = some (p, id) ∧ s.pauseSt p = 0 ∧ p < 8 ∧ id < 2 ^ 64) ∧
    (∃ s : State, ∃ l w : Nat, ∃ data : List Byte, s.dead = false ∧ okLink l = true ∧ okHeader w = true ∧
      s.cutIn l w 1 data = none) ∧
    (∃ s : State, ∃ l w : Nat, ∃ data : List Byte, s.dead = false ∧ okLink l = true ∧ okHeader w = true ∧
      s.cutIn l w 2 data = none) := by
  refine ⟨
    ⟨((({ areaS with fab := { lmap := [(4097, (true, 9)), (4098, (true, 10))], rt := [(9, 8), (10, 8)] } } : State).setF (pLNK 3) F.LNK_STS_UP 1).setF (pLNK 3) F.LNK_PEER_FVER 3 |>.setF (pCKP 0) F.CKP_DOM_NDEV 2|>.setW (pCKP 0) R.CKP_CUT_LO 0x55667788 |>.setW (pCKP 0) R.CKP_CUT_HI 0x11223344),
      14, 1, false, ?_⟩,
    ⟨((({ areaS with fab := { lmap := [(4097, (true, 9)), (4098, (true, 10))], rt := [] } } : State).setF (pLNK 3) F.LNK_STS_UP 1).setF (pLNK 3) F.LNK_PEER_FVER 3 |>.setF (pCKP 0) F.CKP_DOM_NDEV 2|>.setW (pCKP 0) R.CKP_CUT_LO 0x55667788 |>.setW (pCKP 0) R.CKP_CUT_HI 0x11223344),
      14, 1, false, ?_⟩,
    ⟨(devP.setF (pLNK 3) F.LNK_STS_UP 1), 14, 1, ?_⟩,
    ⟨(({ ((({ areaS with fab := { lmap := [(4097, (true, 9)), (4098, (true, 10))], rt := [(9, 8), (10, 8)] } } : State).setF (pLNK 3) F.LNK_STS_UP 1).setF (pLNK 3) F.LNK_PEER_FVER 3 |>.setF (pCKP 0) F.CKP_DOM_NDEV 2|>.setF (pCKP 0) (F.CKP_PSTS_STATE.at 4 1) 2) with ckp := { run := some ({ op := 2, part := 1, dom := true, cutId := 0x1122334455667788, tier := 1, addr := 0, mib := 256 } : CkpRun) } } : State).setF (pCKP 0) F.CKP_STS_BUSY 1),
      3, 0x900000201007, 1, 0x1122334455667788, 1,
      ({ op := 2, part := 1, dom := true, cutId := 0x1122334455667788, tier := 1, addr := 0, mib := 256 } : CkpRun),
      leBytes 16 0x1122334455667788, ?_⟩,
    ⟨(({ ((({ areaS with fab := { lmap := [(4097, (true, 9)), (4098, (true, 10))], rt := [] } } : State).setF (pLNK 3) F.LNK_STS_UP 1).setF (pLNK 3) F.LNK_PEER_FVER 3 |>.setF (pCKP 0) F.CKP_DOM_NDEV 2|>.setF (pCKP 0) (F.CKP_PSTS_STATE.at 4 1) 2) with ckp := { run := some ({ op := 2, part := 1, dom := true, cutId := 0x1122334455667788, tier := 1, addr := 0x100000, mib := 1 } : CkpRun) } } : State).setF (pCKP 0) F.CKP_STS_BUSY 1),
      3, 0x900000201007, 1, 0x1122334455667788, 1,
      ({ op := 2, part := 1, dom := true, cutId := 0x1122334455667788, tier := 1, addr := 0x100000, mib := 1 } : CkpRun),
      leBytes 16 0x1122334455667788, ?_⟩,
    ⟨(({ ((({ areaS with fab := { lmap := [(4097, (true, 9)), (4098, (true, 10))], rt := [(9, 8), (10, 8)] } } : State).setF (pLNK 3) F.LNK_STS_UP 1).setF (pLNK 3) F.LNK_PEER_FVER 3 |>.setF (pCKP 0) F.CKP_DOM_NDEV 2) with ckp := { run := some ({ op := 2, part := 1, dom := true, cutId := 0x1122334455667788, cutSent := true, ph := .domain } : CkpRun) } } : State).setF (pCKP 0) F.CKP_STS_BUSY 1),
      3, 0x900000401007, 1, 0x1122334455667788, 1,
      ({ op := 2, part := 1, dom := true, cutId := 0x1122334455667788, cutSent := true, ph := .domain } : CkpRun),
      leBytes 16 0x1122334455667788, ?_⟩,
    ⟨(({ ((({ areaS with fab := { lmap := [(4097, (true, 9)), (4098, (true, 10))], rt := [(9, 8), (10, 8)] } } : State).setF (pLNK 3) F.LNK_STS_UP 1).setF (pLNK 3) F.LNK_PEER_FVER 3 |>.setF (pCKP 0) F.CKP_DOM_NDEV 2) with ckp := { run := some ({ op := 2, part := 1, dom := true, cutId := 0x1122334455667788, cutSent := true, ph := .domain } : CkpRun) } } : State).setF (pCKP 0) F.CKP_STS_BUSY 1),
      3, 0x900000401007, 1, 0x1122334455667788, 1,
      ({ op := 2, part := 1, dom := true, cutId := 0x1122334455667788, cutSent := true, ph := .domain } : CkpRun),
      leBytes 8 0x1122334455667788 ++ leBytes 8 6, ?_⟩,
    ⟨(({ (atNow 1000000 (areaS.setF (pCKP 0) F.CKP_DTMO_MS 1)) with ckp := { run := some ({ op := 2, part := 1, dom := true, cutId := 0x1122334455667788 } : CkpRun) } } : State).setF (pCKP 0) F.CKP_STS_BUSY 1),
      1, ({ op := 2, part := 1, dom := true, cutId := 0x1122334455667788 } : CkpRun), ?_⟩,
    ⟨(({ (atNow 999999 (areaS.setF (pCKP 0) F.CKP_DTMO_MS 1)) with ckp := { run := some ({ op := 2, part := 1, dom := true, cutId := 0x1122334455667788 } : CkpRun) } } : State).setF (pCKP 0) F.CKP_STS_BUSY 1),
      1, ({ op := 2, part := 1, dom := true, cutId := 0x1122334455667788 } : CkpRun), ?_⟩,
    ⟨(((areaS.setF (pLNK 3) F.LNK_STS_UP 1).setMember 1 (some ({ link := 3, src := 9, since := 0, held := true } : CutMember))).setF (pCKP 0) (F.CKP_PSTS_STATE.at 4 1) 2 |> setPcut 1 0x1122334455667788),
      3, 0x900000301007, 1, 0x1122334455667788, ({ link := 3, src := 9, since := 0, held := true } : CutMember),
      leBytes 16 0x1122334455667788, ?_⟩,
    ⟨((((areaS.setW (pCKP 0) R.CKP_IMG_CAP 0).setF (pLNK 3) F.LNK_STS_UP 1).setMember 1 (some ({ link := 3, src := 9, since := 0, held := true } : CutMember))).setF (pCKP 0) (F.CKP_PSTS_STATE.at 4 1) 2 |> setPcut 1 0x1122334455667788),
      3, 0x900000301007, 1, 0x1122334455667788, ({ link := 3, src := 9, since := 0, held := true } : CutMember),
      leBytes 16 0x1122334455667788, ?_⟩,
    ⟨(devP.setF (pLNK 3) F.LNK_STS_UP 1), 3, 0x900000101007, 1, 0x1122334455667788, leBytes 16 0x1122334455667788, ?_⟩,
    ⟨(devP.setF (pLNK 3) F.LNK_STS_UP 1), 3, 0x900000001007, leBytes 16 0x1122334455667788, ?_⟩,
    ⟨(devP.setF (pLNK 3) F.LNK_STS_UP 1), 3, 0x900000001007, leBytes 16 0x1122334455667788, ?_⟩⟩ <;> decide +kernel

theorem met_DomainCapturesCutTogether_2 :
    (∃ s : State, ∃ l w : Nat, ∃ data : List Byte, s.dead = false ∧ okLink l = true ∧ okHeader w = true ∧
      s.cutIn l w 3 data = none) ∧
    (∃ s : State, ∃ l w : Nat, ∃ data : List Byte, s.dead = false ∧ okLink l = true ∧ okHeader w = true ∧
      s.cutIn l w 4 data = none) ∧
    (∃ s : State, ∃ l w : Nat, ∃ data : List Byte, s.dead = false ∧ okLink l = true ∧ okHeader w = true ∧
      s.cutIn l w 5 data = none) ∧
    (∃ s : State, ∃ l w : Nat, ∃ data : List Byte, s.dead = false ∧ okLink l = true ∧ okHeader w = true ∧
      s.cutIn l w 6 data = none) ∧
    (∃ s : State, ∃ l w p id d : Nat, ∃ r : CkpRun, ∃ data : List Byte, s.dead = false ∧ okLink l = true ∧ okHeader w = true ∧
      s.coordOf p id (hdrOf w).src = some (r, d) ∧ r.done.length + 1 < s.peers.length ∧ s.cutIn l w 2 data = some (p, id) ∧
      r.cutSent = false) ∧
    (∃ s : State, ∃ l w p id d : Nat, ∃ r : CkpRun, ∃ data : List Byte, s.dead = false ∧ okLink l = true ∧ okHeader w = true ∧
      s.coordOf p id (hdrOf w).src = some (r, d) ∧ r.done.length + 1 < s.peers.length ∧ s.cutIn l w 4 data = some (p, id) ∧
      r.cutSent = true ∧ fieldOf data 8 1 = 0) ∧
    (∃ s : State, ∃ l w p id : Nat, ∃ m : CutMember, ∃ data : List Byte, s.dead = false ∧ okLink l = true ∧ okHeader w = true ∧
      s.cutIn l w 3 data = some (p, id) ∧ s.member p = some m ∧ s.pauseSt p = 2 ∧ m.held = true ∧ m.done = false ∧
      s.pcut p = id ∧ SMap.get s.prt.ikeys p none = none) ∧
    (∃ s : State, ∃ l w p id : Nat, ∃ data : List Byte, s.dead = false ∧ okLink l = true ∧ okHeader w = true ∧ p < 8 ∧
      s.pauseSt p = 2 ∧ s.pcut p = id ∧ s.cutIn l w 5 data = some (p, id)) ∧
    (∃ s : State, ∃ l w p id : Nat, ∃ data : List Byte, s.dead = false ∧ okLink l = true ∧ okHeader w = true ∧ p < 8 ∧
      s.pauseSt p = 2 ∧ s.pcut p = id ∧ s.cutIn l w 6 data = some (p, id) ∧ s.ckp.run = none ∧ (s.member p).isSome = true) ∧
    (∃ s : State, ∃ p : Nat, ∃ m : CutMember, s.dead = false ∧ p < 8 ∧ s.ckp.run = none ∧ s.member p = some m ∧ m.done = false ∧
      m.since + s.f (pCKP 0) F.CKP_DTMO_MS * 1000000 ≤ s.now) ∧
    (∃ s : State, ∃ p : Nat, ∃ m : CutMember, s.dead = false ∧ p < 8 ∧ s.ckp.run = none ∧ s.member p = some m ∧ m.done = false ∧
      s.now < m.since + s.f (pCKP 0) F.CKP_DTMO_MS * 1000000) := by
  refine ⟨
    ⟨(devP.setF (pLNK 3) F.LNK_STS_UP 1), 3, 0x900000001007, leBytes 16 0x1122334455667788, ?_⟩,
    ⟨(devP.setF (pLNK 3) F.LNK_STS_UP 1), 3, 0x900000001007, leBytes 16 0x1122334455667788, ?_⟩,
    ⟨(devP.setF (pLNK 3) F.LNK_STS_UP 1), 3, 0x900000001007, leBytes 16 0x1122334455667788, ?_⟩,
    ⟨(devP.setF (pLNK 3) F.LNK_STS_UP 1), 3, 0x900000001007, leBytes 16 0x1122334455667788, ?_⟩,
    ⟨(({ ((({ areaS with fab := { lmap := [(4097, (true, 9)), (4098, (true, 10))], rt := [(9, 8), (10, 8)] } } : State).setF (pLNK 3) F.LNK_STS_UP 1).setF (pLNK 3) F.LNK_PEER_FVER 3 |>.setF (pCKP 0) F.CKP_DOM_NDEV 3) with ckp := { run := some ({ op := 2, part := 1, dom := true, cutId := 0x1122334455667788 } : CkpRun) } } : State).setF (pCKP 0) F.CKP_STS_BUSY 1),
      3, 0x900000201007, 1, 0x1122334455667788, 1, ({ op := 2, part := 1, dom := true, cutId := 0x1122334455667788 } : CkpRun),
      leBytes 16 0x1122334455667788, ?_⟩,
    ⟨(({ ((({ areaS with fab := { lmap := [(4097, (true, 9)), (4098, (true, 10))], rt := [(9, 8), (10, 8)] } } : State).setF (pLNK 3) F.LNK_STS_UP 1).setF (pLNK 3) F.LNK_PEER_FVER 3 |>.setF (pCKP 0) F.CKP_DOM_NDEV 3) with ckp := { run := some ({ op := 2, part := 1, dom := true, cutId := 0x1122334455667788, cutSent := true } : CkpRun) } } : State).setF (pCKP 0) F.CKP_STS_BUSY 1),
      3, 0x900000401007, 1, 0x1122334455667788, 1,
      ({ op := 2, part := 1, dom := true, cutId := 0x1122334455667788, cutSent := true } : CkpRun),
      leBytes 16 0x1122334455667788, ?_⟩,
    ⟨(((devP.setF (pLNK 3) F.LNK_STS_UP 1).setMember 1 (some ({ link := 3, src := 9, since := 0, held := true } : CutMember))).setF (pCKP 0) (F.CKP_PSTS_STATE.at 4 1) 2 |> setPcut 1 0x1122334455667788),
      3, 0x900000301007, 1, 0x1122334455667788, ({ link := 3, src := 9, since := 0, held := true } : CutMember),
      leBytes 16 0x1122334455667788, ?_⟩,
    ⟨(((devP.setF (pLNK 3) F.LNK_STS_UP 1).setMember 1 (some ({ link := 3, src := 9, since := 0, held := true } : CutMember))).setF (pCKP 0) (F.CKP_PSTS_STATE.at 4 1) 2 |> setPcut 1 0x1122334455667788),
      3, 0x900000501007, 1, 0x1122334455667788, leBytes 16 0x1122334455667788, ?_⟩,
    ⟨(((devP.setF (pLNK 3) F.LNK_STS_UP 1).setMember 1 (some ({ link := 3, src := 9, since := 0, held := true } : CutMember))).setF (pCKP 0) (F.CKP_PSTS_STATE.at 4 1) 2 |> setPcut 1 0x1122334455667788),
      3, 0x900000601007, 1, 0x1122334455667788, leBytes 16 0x1122334455667788, ?_⟩,
    ⟨(atNow 1000000 (((((devP.setF (pLNK 3) F.LNK_STS_UP 1).setMember 1 (some ({ link := 3, src := 9, since := 0 } : CutMember))).setF (pCKP 0) (F.CKP_PSTS_STATE.at 4 1) 1 |> setPcut 1 0x1122334455667788)).setF (pCKP 0) F.CKP_DTMO_MS 1)),
      1, ({ link := 3, src := 9, since := 0 } : CutMember), ?_⟩,
    ⟨(atNow 999999 (((((devP.setF (pLNK 3) F.LNK_STS_UP 1).setMember 1 (some ({ link := 3, src := 9, since := 0 } : CutMember))).setF (pCKP 0) (F.CKP_PSTS_STATE.at 4 1) 1 |> setPcut 1 0x1122334455667788)).setF (pCKP 0) F.CKP_DTMO_MS 1)),
      1, ({ link := 3, src := 9, since := 0 } : CutMember), ?_⟩⟩ <;> decide +kernel

theorem met_LinksTrainByTheirSteps_1 :
    (∃ s : State, ∃ m l v : Nat, s.dead = false ∧ okMaster m = true ∧ l < 64 ∧ v < 128 ∧ s.reaches m (pLNK l) = true ∧
      s.mayWrite m (pLNK l) = true ∧ s.rstBusy (pLNK l) = false ∧ bits v 3 2 ≠ 0 ∧ bit v 0 = true ∧
      s.f (pLNK l) F.PG_CTL_EN = 1 ∧ s.fenced (pLNK l) = false ∧ s.linkUp l = false ∧ s.f (pLNK l) F.LNK_STS_STATE = 0) ∧
    (∃ s : State, ∃ m l v : Nat, s.dead = false ∧ okMaster m = true ∧ l < 64 ∧ v < 128 ∧ s.reaches m (pLNK l) = true ∧
      s.mayWrite m (pLNK l) = true ∧ s.rstBusy (pLNK l) = false ∧ bits v 3 2 = 0) ∧
    (∃ s : State, ∃ m l v : Nat, s.dead = false ∧ okMaster m = true ∧ l < 64 ∧ v < 128 ∧ s.reaches m (pLNK l) = true ∧
      s.mayWrite m (pLNK l) = true ∧ s.rstBusy (pLNK l) = false ∧ bits v 3 2 ≠ 0 ∧ s.linkUp l = true ∧ s.flitsOn l = true ∧
      s.tagsWhere (fun r => r.link == l) = [] ∧ s.fab.wait = []) ∧
    (∃ s : State, ∃ l : Nat, ∃ b : List Byte, s.dead = false ∧ l < 64 ∧ blockOk 0x1E 3 b = true ∧ cb b 2 < 32 ∧
      s.f (pLNK l) F.LNK_STS_STATE = 1 ∧ 7 ≤ SMap.get (s.link l).ts1 (cb b 1) 0) ∧
    (∃ s : State, ∃ l : Nat, ∃ b : List Byte, s.dead = false ∧ l < 64 ∧ blockOk 0x1E 3 b = true ∧ cb b 2 < 32 ∧
      s.f (pLNK l) F.LNK_STS_STATE = 1 ∧ SMap.get (s.link l).ts1 (cb b 1) 0 < 7) ∧
    (∃ s : State, ∃ l : Nat, ∃ b : List Byte, s.dead = false ∧ l < 64 ∧ blockOk 0x2D 9 b = true ∧
      s.f (pLNK l) F.LNK_STS_STATE = 3 ∧ cb b 3 < 32 ∧ cb b 7 < 16) ∧
    (∃ s : State, ∃ l : Nat, ∃ b : List Byte, s.dead = false ∧ l < 64 ∧ blockOk 0x33 4 b = true ∧
      s.f (pLNK l) F.LNK_STS_STATE = 5 ∧ cb b 2 = 0 ∧ cb b 3 ≤ 10) ∧
    (∃ s : State, ∃ l : Nat, ∃ b : List Byte, s.dead = false ∧ l < 64 ∧ blockOk 0x33 4 b = true ∧
      s.f (pLNK l) F.LNK_STS_STATE = 5 ∧ cb b 2 = 1 ∧ cb b 3 < 8 ∧ bits (cb b 3) 1 0 ≠ 3) ∧
    (∃ s : State, ∃ l : Nat, ∃ b : List Byte, s.dead = false ∧ l < 64 ∧ blockOk 0x33 4 b = true ∧
      s.f (pLNK l) F.LNK_STS_STATE = 5 ∧ cb b 2 = 2) ∧
    (∃ s : State, ∃ l : Nat, ∃ b : List Byte, s.dead = false ∧ l < 64 ∧ blockOk 0x33 4 b = true ∧
      s.f (pLNK l) F.LNK_STS_STATE = 5 ∧ 2 < cb b 2) ∧
    (∃ s : State, ∃ l : Nat, ∃ b : List Byte, s.dead = false ∧ l < 64 ∧ blockOk 0x55 4 b = true ∧
      s.f (pLNK l) F.LNK_STS_STATE = 5 ∧ cb b 2 = 1) ∧
    (∃ s : State, ∃ l : Nat, ∃ b : List Byte, s.dead = false ∧ l < 64 ∧ b.length ≠ 32) ∧
    (∃ s : State, ∃ l : Nat, s.dead = false ∧ l < 64 ∧ s.f (pLNK l) F.LNK_STS_STATE = 1 ∧
      (s.f (pLNK l) F.LNK_LANE_STS_GOOD = 31 ∨ (s.link l).stepAt + 1000000 ≤ s.nowOn (l / 32))) ∧
    (∃ s : State, ∃ l : Nat, s.dead = false ∧ l < 64 ∧ s.f (pLNK l) F.LNK_STS_STATE = 1 ∧
      s.f (pLNK l) F.LNK_LANE_STS_GOOD ≠ 31 ∧ s.nowOn (l / 32) < (s.link l).stepAt + 1000000) := by
  refine ⟨
    ⟨(own 14 (pLNK 3) devP |>.setF (pLNK 3) F.PG_CTL_EN 1), 14, 3, 13, ?_⟩,
    ⟨own 14 (pLNK 3) devP, 14, 3, 1, ?_⟩,
    ⟨own 14 (pLNK 3) devP |>.setF (pLNK 3) F.LNK_STS_UP 1 |>.setF (pLNK 3) F.LNK_STS_STATE 8, 14, 3, 12, ?_⟩,
    ⟨(devP.setLink 3 { ts1 := [(2, 7)] } |>.setF (pLNK 3) F.LNK_STS_STATE 1), 3, [30, 2, 31] ++ List.replicate 29 0, ?_⟩,
    ⟨(devP.setF (pLNK 3) F.LNK_LANE_STS_GOOD 31 |>.setF (pLNK 3) F.LNK_STS_STATE 1), 3, [30, 2, 31] ++ List.replicate 29 0, ?_⟩,
    ⟨(devP |>.setF (pLNK 3) F.LNK_STS_STATE 3), 3, [45, 4, 1, 31, 15, 0, 0, 15] ++ List.replicate 24 0, ?_⟩,
    ⟨(devP |>.setF (pLNK 3) F.LNK_STS_STATE 5), 3, [51, 4, 0, 10] ++ List.replicate 28 0, ?_⟩,
    ⟨((devP).setF (pLNK 3) F.LNK_STS_STATE 5), 3, [51, 4, 1, 1] ++ List.replicate 28 0, ?_⟩,
    ⟨(devP |>.setF (pLNK 3) F.LNK_STS_STATE 5), 3, [51, 4, 2] ++ List.replicate 29 0, ?_⟩,
    ⟨(devP |>.setF (pLNK 3) F.LNK_STS_STATE 5), 3, [51, 4, 3] ++ List.replicate 29 0, ?_⟩,
    ⟨(devP |>.setF (pLNK 3) F.LNK_STS_STATE 5), 3, [85, 4, 1] ++ List.replicate 29 0, ?_⟩,
    ⟨devP, 3, [0x1E], ?_⟩,
    ⟨(devP.setF (pLNK 3) F.LNK_LANE_STS_GOOD 31 |>.setF (pLNK 3) F.LNK_STS_STATE 1), 3, ?_⟩,
    ⟨((atNow 999999 devP).setF (pLNK 3) F.LNK_LANE_STS_GOOD 15 |>.setF (pLNK 3) F.LNK_STS_STATE 1), 3, ?_⟩⟩ <;> decide +kernel

theorem met_LinksTrainByTheirSteps_2 :
    (∃ s : State, ∃ l : Nat, ∃ ls, s.dead = false ∧ l < 64 ∧ s.f (pLNK l) F.LNK_STS_STATE = 2 ∧
      activeSet (Nat.land (s.f (pLNK l) F.LNK_LANE_STS_GOOD) (s.link l).peerMask) (s.f (pLNK l) F.LNK_CTL_SPARE_EN) (s.f (pLNK l) F.LNK_CTL_WIDTH2_EN) = some ls) ∧
    (∃ s : State, ∃ l : Nat, let gen := min (s.link l).attempt (bits (fieldOf (s.link l).ts2 1 1) 1 0); s.dead = false ∧
      l < 64 ∧ s.f (pLNK l) F.LNK_STS_STATE = 3 ∧ 8 ≤ (s.link l).ts2n ∧ 1 ≤ gen ∧ 2 ≤ gen) ∧
    (∃ s : State, ∃ l : Nat, s.dead = false ∧ l < 64 ∧ s.f (pLNK l) F.LNK_STS_STATE = 3 ∧ (s.link l).ts2n < 8) ∧
    (∃ s : State, ∃ l : Nat, s.dead = false ∧ l < 64 ∧ s.f (pLNK l) F.LNK_STS_STATE = 4) ∧
    (∃ s : State, ∃ l : Nat, s.dead = false ∧ l < 64 ∧ s.f (pLNK l) F.LNK_STS_STATE = 5 ∧
      Nat.land (s.link l).ready (s.f (pLNK l) F.LNK_STS_ACTIVE) = s.f (pLNK l) F.LNK_STS_ACTIVE) ∧
    (∃ s : State, ∃ l : Nat, s.dead = false ∧ l < 64 ∧ s.f (pLNK l) F.LNK_STS_STATE = 5 ∧
      Nat.land (s.link l).ready (s.f (pLNK l) F.LNK_STS_ACTIVE) ≠ s.f (pLNK l) F.LNK_STS_ACTIVE) ∧
    (∃ s : State, ∃ l : Nat, s.dead = false ∧ l < 64 ∧ s.f (pLNK l) F.LNK_STS_STATE = 6) ∧
    (∃ s : State, ∃ l : Nat, s.dead = false ∧ l < 64 ∧ s.f (pLNK l) F.LNK_STS_STATE = 7 ∧ (s.link l).credIn = 31 ∧
      (s.link l).txq = []) ∧
    (∃ s : State, ∃ l : Nat, s.dead = false ∧ l < 64 ∧ (s.f (pLNK l) F.LNK_STS_STATE ≠ 7 ∨ (s.link l).credIn ≠ 31)) ∧
    (∃ s : State, ∃ l : Nat, s.dead = false ∧ l < 64 ∧ 1 ≤ s.f (pLNK l) F.LNK_STS_STATE ∧ s.f (pLNK l) F.LNK_STS_STATE ≤ 7 ∧
      2 ≤ (s.link l).attempt) ∧
    (∃ s : State, ∃ l : Nat, s.dead = false ∧ l < 64 ∧ 1 ≤ s.f (pLNK l) F.LNK_STS_STATE ∧ s.f (pLNK l) F.LNK_STS_STATE ≤ 7 ∧
      (s.link l).attempt < 2) ∧
    (∃ s : State, ∃ l : Nat, s.dead = false ∧ l < 64 ∧ s.f (pLNK l) F.LNK_STS_STATE = 0 ∧ s.f (pLNK l) F.LNK_STS_TFAIL = 1 ∧
      s.wantsUp l = true ∧ (s.link l).stepAt + s.f (pLNK l) F.LNK_TRN_TMO_MS * 1000000 ≤ s.nowOn (l / 32)) ∧
    (∃ s : State, ∃ l : Nat, s.dead = false ∧ l < 64 ∧ s.f (pLNK l) F.LNK_STS_STATE = 0 ∧ s.f (pLNK l) F.LNK_STS_TFAIL = 1 ∧
      s.wantsUp l = true ∧ s.nowOn (l / 32) < (s.link l).stepAt + s.f (pLNK l) F.LNK_TRN_TMO_MS * 1000000) ∧
    (∃ s : State, ∃ l : Nat, s.dead = false ∧ l < 64 ∧ 8 ≤ s.f (pLNK l) F.LNK_STS_STATE) := by
  refine ⟨
    ⟨((devP.setLink 3 { peerMask := 31 }).setF (pLNK 3) F.LNK_LANE_STS_GOOD 15 |>.setF (pLNK 3) F.LNK_STS_STATE 2), 3, [0, 1, 2,
      3], ?_⟩,
    ⟨((devP.setLink 3 { ts2n := 8, ts2 := [0, 3, 0, 0] ++ List.replicate 28 0 }).setF (pLNK 3) F.LNK_STS_STATE 3), 3, ?_⟩,
    ⟨(devP |>.setF (pLNK 3) F.LNK_STS_STATE 3), 3, ?_⟩,
    ⟨((devP).setF (pLNK 3) F.LNK_STS_STATE 4), 3, ?_⟩,
    ⟨(devP |>.setF (pLNK 3) F.LNK_STS_STATE 5), 3, ?_⟩,
    ⟨((devP.setF (pLNK 3) F.LNK_STS_ACTIVE 15).setF (pLNK 3) F.LNK_STS_STATE 5), 3, ?_⟩,
    ⟨(devP |>.setF (pLNK 3) F.LNK_STS_STATE 6), 3, ?_⟩,
    ⟨(devP.setLink 3 { credIn := 31 } |>.setF (pLNK 3) F.LNK_STS_STATE 7), 3, ?_⟩,
    ⟨devP, 3, ?_⟩,
    ⟨devP.setLink 3 { attempt := 2 } |>.setF (pLNK 3) F.LNK_STS_STATE 7, 3, ?_⟩,
    ⟨devP.setLink 3 { attempt := 1 } |>.setF (pLNK 3) F.LNK_STS_STATE 7, 3, ?_⟩,
    ⟨(atNow 5000000000 ((on (pLNK 3) devP).setF (pLNK 3) F.LNK_CTL_LINK 1)).setF (pLNK 3) F.LNK_STS_TFAIL 1, 3, ?_⟩,
    ⟨((on (pLNK 3) devP).setF (pLNK 3) F.LNK_CTL_LINK 1).setF (pLNK 3) F.LNK_STS_TFAIL 1, 3, ?_⟩,
    ⟨devP.setF (pLNK 3) F.LNK_STS_STATE 8, 3, ?_⟩⟩ <;> decide +kernel

theorem met_FlitsArriveInOrderOrAreReplayed_1 :
    (∃ s : State, ∃ l lane : Nat, ∃ sp, s.dead = false ∧ l < 64 ∧ lane < 5 ∧ s.f (pLNK l) F.LNK_STS_STATE = 8 ∧
      bit (s.f (pLNK l) F.LNK_STS_ACTIVE) lane = true ∧ bit (s.f (pLNK l) F.LNK_LANE_STS_FAULT) lane = false ∧ sp < 5 ∧
      sp ≠ lane ∧ bit (s.f (pLNK l) F.LNK_STS_ACTIVE) sp = false ∧ bit (s.f (pLNK l) F.LNK_LANE_STS_FAULT) sp = false ∧
      bit (s.f (pLNK l) F.LNK_LANE_STS_GOOD) sp = true ∧ s.f (pLNK l) F.LNK_CTL_SPARE_EN = 1 ∧ s.f (pLNK l) F.LNK_STS_WIDTH = 4) ∧
    (∃ s : State, ∃ l lane : Nat, s.dead = false ∧ l < 64 ∧ lane < 5 ∧ s.f (pLNK l) F.LNK_STS_STATE = 8 ∧
      bit (s.f (pLNK l) F.LNK_STS_ACTIVE) lane = true ∧ bit (s.f (pLNK l) F.LNK_LANE_STS_FAULT) lane = false ∧
      s.f (pLNK l) F.LNK_CTL_SPARE_EN = 0 ∧ s.f (pLNK l) F.LNK_CTL_WIDTH2_EN = 1 ∧
      2 ≤ (lowLanes (s.f (pLNK l) F.LNK_STS_ACTIVE - 2 ^ lane) 5).length) ∧
    (∃ s : State, ∃ l lane : Nat, s.dead = false ∧ l < 64 ∧ lane < 5 ∧ bit (s.f (pLNK l) F.LNK_LANE_STS_FAULT) lane = false ∧
      bit (s.f (pLNK l) F.LNK_STS_ACTIVE) lane = false) ∧
    (∃ s : State, ∃ l : Nat, s.dead = false ∧ l < 64 ∧ s.f (pLNK l) F.LNK_STS_STATE = 9 ∧ (s.link l).txq = [] ∧
      (s.link l).unacked = []) ∧
    (∃ s : State, ∃ l : Nat, s.dead = false ∧ l < 64 ∧ s.f (pLNK l) F.LNK_STS_STATE ≠ 9) ∧
    (∃ s : State, ∃ l : Nat, ∃ h : FlitHdr, ∃ body : List Byte, ∃ b : List Byte, s.dead = false ∧ l < 64 ∧
      parseFlit b = some (h, body) ∧ (s.link l).txq = [] ∧ h.ftype = 1 ∧ s.flitsOn l = true ∧ h.ackv = false ∧ h.nak = false ∧
      5 ≤ h.cvc ∧ h.seq = (s.link l).rxSeq) ∧
    (∃ s : State, ∃ l : Nat, ∃ h : FlitHdr, ∃ body : List Byte, ∃ b : List Byte, s.dead = false ∧ l < 64 ∧
      parseFlit b = some (h, body) ∧ (s.link l).txq = [] ∧ h.ftype = 1 ∧ s.flitsOn l = true ∧ h.ackv = false ∧ h.nak = false ∧
      5 ≤ h.cvc ∧ h.seq ≠ (s.link l).rxSeq) ∧
    (∃ s : State, ∃ l : Nat, ∃ h : FlitHdr, ∃ body : List Byte, ∃ b : List Byte, s.dead = false ∧ l < 64 ∧
      parseFlit b = some (h, body) ∧ (s.link l).txq = [] ∧ h.ftype = 0 ∧ s.flitsOn l = true ∧ h.ackv = false ∧ h.nak = false ∧
      h.cvc < 5) ∧
    (∃ s : State, ∃ l : Nat, ∃ h : FlitHdr, ∃ body : List Byte, ∃ b : List Byte, s.dead = false ∧ l < 64 ∧
      parseFlit b = some (h, body) ∧ (s.link l).txq = [] ∧ h.ftype = 0 ∧ s.flitsOn l = true ∧ h.ackv = true ∧ h.nak = false ∧
      5 ≤ h.cvc) ∧
    (∃ s : State, ∃ l : Nat, ∃ h : FlitHdr, ∃ body : List Byte, ∃ b : List Byte, s.dead = false ∧ l < 64 ∧
      parseFlit b = some (h, body) ∧ (s.link l).txq = [] ∧ h.ftype = 2 ∧ fieldOf body 0 1 = 1 ∧ fieldOf body 1 1 < 5 ∧
      s.f (pLNK l) F.LNK_STS_STATE = 7) ∧
    (∃ s : State, ∃ l : Nat, ∃ h : FlitHdr, ∃ body : List Byte, ∃ b : List Byte, s.dead = false ∧ l < 64 ∧
      parseFlit b = some (h, body) ∧ (s.link l).txq = [] ∧ h.ftype = 2 ∧ fieldOf body 0 1 = 2 ∧
      s.f (pLNK l) F.LNK_STS_STATE = 8 ∧ h.ackv = false ∧ h.nak = false ∧ 5 ≤ h.cvc) ∧
    (∃ s : State, ∃ l : Nat, ∃ b : List Byte, s.dead = false ∧ l < 64 ∧ s.flitsOn l = true ∧ parseFlit b = none) ∧
    (∃ s : State, ∃ l : Nat, s.dead = false ∧ l < 64 ∧ s.flitsOn l = true ∧ 4095 ≤ (s.link l).nonNop ∧ (s.link l).txq = []) ∧
    (∃ s : State, ∃ l : Nat, s.dead = false ∧ l < 64 ∧ (s.link l).nonNop < 4095) := by
  refine ⟨
    ⟨(devP.setF (pLNK 3) F.LNK_STS_UP 1 |>.setF (pLNK 3) F.LNK_STS_STATE 8 |>.setF (pLNK 3) F.LNK_STS_ACTIVE 15 |>.setF (pLNK 3) F.LNK_STS_WIDTH 4 |>.setF (pLNK 3) F.LNK_LANE_STS_GOOD 31 |>.setF (pLNK 3) F.LNK_CTL_SPARE_EN 1 |>.setF (pLNK 3) F.LNK_STS_STATE 8 |>.setF (pLNK 3) F.LNK_CTL_SPARE_EN 1 |>.setF (pLNK 3) F.LNK_STS_WIDTH 4),
      3, 2, 4, ?_⟩,
    ⟨(devP.setF (pLNK 3) F.LNK_STS_UP 1 |>.setF (pLNK 3) F.LNK_STS_STATE 8 |>.setF (pLNK 3) F.LNK_STS_ACTIVE 15 |>.setF (pLNK 3) F.LNK_STS_WIDTH 4 |>.setF (pLNK 3) F.LNK_LANE_STS_GOOD 31 |>.setF (pLNK 3) F.LNK_CTL_SPARE_EN 0 |>.setF (pLNK 3) F.LNK_STS_STATE 8 |>.setF (pLNK 3) F.LNK_CTL_WIDTH2_EN 1),
      3, 0, ?_⟩,
    ⟨devP.setF (pLNK 3) F.LNK_STS_UP 1 |>.setF (pLNK 3) F.LNK_STS_STATE 8 |>.setF (pLNK 3) F.LNK_STS_ACTIVE 15 |>.setF (pLNK 3) F.LNK_STS_WIDTH 4 |>.setF (pLNK 3) F.LNK_LANE_STS_GOOD 31,
      3, 4, ?_⟩,
    ⟨(devP |>.setF (pLNK 3) F.LNK_STS_STATE 9), 3, ?_⟩,
    ⟨devP, 3, ?_⟩,
    ⟨devP.setF (pLNK 3) F.LNK_STS_UP 1 |>.setF (pLNK 3) F.LNK_STS_STATE 8, 3, ({ ftype := 1, seq := 0, cvc := 5 } : FlitHdr),
      padTo 244 ([]), flitBytes ({ ftype := 1, seq := 0, cvc := 5 } : FlitHdr) ([]), ?_⟩,
    ⟨((devP.setF (pLNK 3) F.LNK_STS_UP 1).setF (pLNK 3) F.LNK_STS_STATE 8), 3, ({ ftype := 1, seq := 1, cvc := 5 } : FlitHdr),
      padTo 244 [], flitBytes ({ ftype := 1, seq := 1, cvc := 5 } : FlitHdr) [], ?_⟩,
    ⟨devP.setF (pLNK 3) F.LNK_STS_UP 1 |>.setF (pLNK 3) F.LNK_STS_STATE 8, 3, ({ ftype := 0, cvc := 4, crd := 8191 } : FlitHdr),
      padTo 244 ([]), flitBytes ({ ftype := 0, cvc := 4, crd := 8191 } : FlitHdr) ([]), ?_⟩,
    ⟨(devP.setF (pLNK 3) F.LNK_STS_UP 1 |>.setF (pLNK 3) F.LNK_STS_STATE 8).setLink 3 { unacked := [⟨0, []⟩, ⟨1, []⟩, ⟨2, []⟩] },
      3, ({ ftype := 0, ack := 2, ackv := true, cvc := 7 } : FlitHdr), padTo 244 ([]),
      flitBytes ({ ftype := 0, ack := 2, ackv := true, cvc := 7 } : FlitHdr) ([]), ?_⟩,
    ⟨(devP |>.setF (pLNK 3) F.LNK_STS_STATE 7), 3, ({ ftype := 2 } : FlitHdr), padTo 244 ([1, 4, 0x00, 0x20]),
      flitBytes ({ ftype := 2 } : FlitHdr) ([1, 4, 0x00, 0x20]), ?_⟩,
    ⟨(devP |>.setF (pLNK 3) F.LNK_STS_STATE 8), 3, ({ ftype := 2, cvc := 5 } : FlitHdr), padTo 244 ([2]),
      flitBytes ({ ftype := 2, cvc := 5 } : FlitHdr) ([2]), ?_⟩,
    ⟨devP.setF (pLNK 3) F.LNK_STS_UP 1 |>.setF (pLNK 3) F.LNK_STS_STATE 8, 3, List.replicate 255 0, ?_⟩,
    ⟨(devP.setF (pLNK 3) F.LNK_STS_UP 1 |>.setF (pLNK 3) F.LNK_STS_STATE 8).setLink 3 { nonNop := 4095 }, 3, ?_⟩,
    ⟨devP.setLink 3 { nonNop := 4094 }, 3, ?_⟩⟩ <;> decide +kernel

theorem met_FlitsArriveInOrderOrAreReplayed_2 :
    (∃ s : State, ∃ l : Nat, s.dead = false ∧ l < 64 ∧ s.flitsOn l = true ∧ (s.link l).unacked ≠ [] ∧
      (s.link l).progAt + s.f (pLNK l) F.LNK_RPLY_TMR_NS ≤ s.nowOn (l / 32) ∧ (s.link l).noProg < s.f (pLNK l) F.LNK_RPLY_MAX) ∧
    (∃ s : State, ∃ l : Nat, s.dead = false ∧ l < 64 ∧ s.flitsOn l = true ∧ (s.link l).unacked ≠ [] ∧
      (s.link l).progAt + s.f (pLNK l) F.LNK_RPLY_TMR_NS ≤ s.nowOn (l / 32) ∧ s.f (pLNK l) F.LNK_RPLY_MAX ≤ (s.link l).noProg ∧
      s.tagsWhere (fun r => r.link == l) = [] ∧ s.fab.wait = [] ∧ s.wantsUp l = true) ∧
    (∃ s : State, ∃ l : Nat, s.dead = false ∧ l < 64 ∧ s.nowOn (l / 32) < (s.link l).progAt + s.f (pLNK l) F.LNK_RPLY_TMR_NS) := by
  refine ⟨
    ⟨((atNow 5000000000 (devP.setF (pLNK 3) F.LNK_STS_UP 1 |>.setF (pLNK 3) F.LNK_STS_STATE 8)).setLink 3 { unacked := [Flit.mk 0 [1]] }),
      3, ?_⟩,
    ⟨(atNow 5000000000 ((on (pLNK 3) ((devP.setF (pLNK 3) F.LNK_STS_UP 1).setF (pLNK 3) F.LNK_STS_STATE 8)).setF (pLNK 3) F.LNK_CTL_LINK 1)).setLink 3 { unacked := [Flit.mk 0 [1]], noProg := 255 },
      3, ?_⟩,
    ⟨(devP |>.setF (pLNK 3) F.LNK_STS_STATE 9), 3, ?_⟩⟩ <;> decide +kernel

theorem met_ArrivingRequestsActAndAreAnswered_1 :
    (∃ s : State, ∃ l w : Nat, ∃ data : List Byte, ∃ errs : Errs, ∃ c, c ∈ [(1, Instr.read l w data errs, s.finds errs), (2,
      .write l w data, s), (3, .atomic l w data errs, s.finds errs), (4, .message l w data, s), (5, .event l w data, s), (6,
      .tstream l w data errs, s.finds errs)] ∧ s.pins.held = false ∧ l < 64 ∧ w < 2 ^ 128 ∧ (s.linkUp l = false ∨
      (hdrOf w).opc ≠ c.1 ∨ s.crdRx l (rxPkt w data).vc < (rxPkt w data).units)) ∧
    (∃ s : State, ∃ l w : Nat, ∃ data : List Byte, ∃ errs : Errs, ∃ c, c ∈ [(1, Instr.read l w data errs, s.finds errs), (2,
      .write l w data, s), (3, .atomic l w data errs, s.finds errs), (4, .message l w data, s), (5, .event l w data, s), (6,
      .tstream l w data errs, s.finds errs)] ∧ s.comes l w data ∧ (hdrOf w).opc = c.1 ∧ (s.failed = true ∨
      s.pins.tripped = true)) ∧
    (∃ s : State, ∃ l w : Nat, ∃ data : List Byte, ∃ errs : Errs, ∃ c, c ∈ [(1, Instr.read l w data errs, s.finds errs), (2,
      .write l w data, s), (3, .atomic l w data errs, s.finds errs), (4, .message l w data, s), (5, .event l w data, s), (6,
      .tstream l w data errs, s.finds errs)] ∧ s.comes l w data ∧ (hdrOf w).opc = c.1 ∧ s.failed = false ∧
      s.pins.tripped = false ∧ s.holderOf resLnk l = none) ∧
    (∃ s : State, ∃ l w : Nat, ∃ data : List Byte, ∃ errs : Errs, ∃ c, ∃ p, c ∈ [(1, Instr.read l w data errs, s.finds errs),
      (2, .write l w data, s), (3, .atomic l w data errs, s.finds errs), (4, .message l w data, s), (5, .event l w data, s), (6,
      .tstream l w data errs, s.finds errs)] ∧ s.comes l w data ∧ (hdrOf w).opc = c.1 ∧ s.failed = false ∧
      s.pins.tripped = false ∧ s.holderOf resLnk l = some p ∧ p < 8 ∧ (s.part p).st ≠ .free ∧
      (hdrOf w).dst ≠ s.f pGLB F.FAB_DEVID_ID) ∧
    (∃ s : State, ∃ l w : Nat, ∃ data : List Byte, ∃ errs : Errs, ∃ c, ∃ p, c ∈ [(1, Instr.read l w data errs, s.finds errs),
      (2, .write l w data, s), (3, .atomic l w data errs, s.finds errs), (4, .message l w data, s), (5, .event l w data, s), (6,
      .tstream l w data errs, s.finds errs)] ∧ s.comes l w data ∧ (hdrOf w).opc = c.1 ∧ s.failed = false ∧
      s.pins.tripped = false ∧ s.holderOf resLnk l = some p ∧ p < 8 ∧ (s.part p).st ≠ .free ∧
      (hdrOf w).dst = s.f pGLB F.FAB_DEVID_ID ∧ (s.part p).st = .resetting) ∧
    (∃ s : State, ∃ l w : Nat, ∃ data : List Byte, ∃ errs : Errs, ∃ c, ∃ p, c ∈ [(1, Instr.read l w data errs, s.finds errs),
      (2, .write l w data, s), (3, .atomic l w data errs, s.finds errs), (4, .message l w data, s), (5, .event l w data, s), (6,
      .tstream l w data errs, s.finds errs)] ∧ s.comes l w data ∧ (hdrOf w).opc = c.1 ∧ s.failed = false ∧
      s.pins.tripped = false ∧ s.holderOf resLnk l = some p ∧ p < 8 ∧ (s.part p).st ≠ .free ∧
      (hdrOf w).dst = s.f pGLB F.FAB_DEVID_ID ∧ (s.part p).st ≠ .resetting ∧ 3 ≤ s.pauseSt p) ∧
    (∃ s : State, ∃ l w : Nat, ∃ data : List Byte, ∃ errs : Errs, ∃ c, ∃ p, c ∈ [(1, Instr.read l w data errs, s.finds errs),
      (2, .write l w data, s), (3, .atomic l w data errs, s.finds errs), (4, .message l w data, s), (5, .event l w data, s), (6,
      .tstream l w data errs, s.finds errs)] ∧ s.comes l w data ∧ (hdrOf w).opc = c.1 ∧ s.failed = false ∧
      s.pins.tripped = false ∧ s.holderOf resLnk l = some p ∧ p < 8 ∧ (s.part p).st ≠ .free ∧
      (hdrOf w).dst = s.f pGLB F.FAB_DEVID_ID ∧ (s.part p).st ≠ .resetting ∧ s.pauseSt p < 3 ∧ reqOk w (hdrOf w) data = false) ∧
    (∃ s : State, ∃ l w : Nat, ∃ data : List Byte, ∃ errs : Errs, ∃ c, ∃ p, c ∈ [(1, Instr.read l w data errs, s.finds errs),
      (2, .write l w data, s), (3, .atomic l w data errs, s.finds errs), (4, .message l w data, s), (5, .event l w data, s), (6,
      .tstream l w data errs, s.finds errs)] ∧ s.comes l w data ∧ (hdrOf w).opc = c.1 ∧ s.failed = false ∧
      s.pins.tripped = false ∧ s.holderOf resLnk l = some p ∧ p < 8 ∧ (s.part p).st ≠ .free ∧
      (hdrOf w).dst = s.f pGLB F.FAB_DEVID_ID ∧ (s.part p).st ≠ .resetting ∧ s.pauseSt p < 3 ∧ reqOk w (hdrOf w) data = true ∧
      s.f (pLNK l) F.PG_CTL_EN = 0) ∧
    (∃ s : State, ∃ l w : Nat, ∃ data : List Byte, ∃ errs : Errs, ∃ c, ∃ p, c ∈ [(1, Instr.read l w data errs, s.finds errs),
      (2, .write l w data, s), (3, .atomic l w data errs, s.finds errs), (4, .message l w data, s), (5, .event l w data, s), (6,
      .tstream l w data errs, s.finds errs)] ∧ s.comes l w data ∧ (hdrOf w).opc = c.1 ∧ s.failed = false ∧
      s.pins.tripped = false ∧ s.holderOf resLnk l = some p ∧ p < 8 ∧ (s.part p).st ≠ .free ∧
      (hdrOf w).dst = s.f pGLB F.FAB_DEVID_ID ∧ (s.part p).st ≠ .resetting ∧ s.pauseSt p < 3 ∧ reqOk w (hdrOf w) data = true ∧
      s.f (pLNK l) F.PG_CTL_EN = 1 ∧ s.f (pLNK l) F.PG_CTL_HOLD = 1) ∧
    (∃ s : State, ∃ l w p : Nat, ∃ data : List Byte, ∃ errs : Errs, let h := hdrOf w;
      let v := rxTake l (rxPkt w data) (s.finds errs); let at_ := s.nowOn (l / 32);
      let r := memRead (pLNK l) (v.access p) h.space h.addr (h.rlen + 1) true v;
      let turn := v.turnAt h.space h.addr (h.rlen + 1) (reqClass false true) at_; s.comes l w data ∧ s.admits l w data p ∧
      s.f (pLNK l) F.PG_CTL_HOLD = 0 ∧ h.opc = 0x01 ∧ h.space ≠ 0 ∧ turn = true ∧ r.1 ≠ 0x12 ∧ r.2.2.mem.wait = false) ∧
    (∃ s : State, ∃ l w p : Nat, ∃ data : List Byte, ∃ errs : Errs, let h := hdrOf w;
      let v := rxTake l (rxPkt w data) (s.finds errs); let at_ := s.nowOn (l / 32);
      let r := memRead (pLNK l) (v.access p) h.space h.addr (h.rlen + 1) true v;
      let turn := v.turnAt h.space h.addr (h.rlen + 1) (reqClass false true) at_; s.comes l w data ∧ s.admits l w data p ∧
      s.f (pLNK l) F.PG_CTL_HOLD = 0 ∧ h.opc = 0x01 ∧ h.space ≠ 0 ∧ (turn = false ∨ r.1 = 0x12)) ∧
    (∃ s : State, ∃ l w p : Nat, ∃ data : List Byte, ∃ errs : Errs, let h := hdrOf w;
      let v := rxTake l (rxPkt w data) (s.finds errs); let x := pageRead p h.addr (h.rlen + 1) v; s.comes l w data ∧
      s.admits l w data p ∧ s.f (pLNK l) F.PG_CTL_HOLD = 0 ∧ h.opc = 0x01 ∧ h.space = 0 ∧ x.2.mem.wait = false) ∧
    (∃ s : State, ∃ l w p : Nat, ∃ data : List Byte, let h := hdrOf w; let u := rxTake l (rxPkt w data) s;
      let marked := maskBytes h.addr (if h.poison then h.pmask else 0) data; let at_ := s.nowOn (l / 32);
      let r := memWrite (pLNK l) (u.access p) h.space h.addr marked true u;
      let turn := u.turnAt h.space h.addr data.length (reqClass true true) at_; s.comes l w data ∧ s.admits l w data p ∧
      s.f (pLNK l) F.PG_CTL_HOLD = 0 ∧ h.opc = 0x02 ∧ h.space ≠ 0 ∧ turn = true ∧ r.1 ≠ 0x12 ∧ r.2.mem.wait = false) ∧
    (∃ s : State, ∃ l w p : Nat, ∃ data : List Byte, let h := hdrOf w; let u := rxTake l (rxPkt w data) s;
      let marked := maskBytes h.addr (if h.poison then h.pmask else 0) data; let at_ := s.nowOn (l / 32);
      let r := memWrite (pLNK l) (u.access p) h.space h.addr marked true u;
      let turn := u.turnAt h.space h.addr data.length (reqClass true true) at_; s.comes l w data ∧ s.admits l w data p ∧
      s.f (pLNK l) F.PG_CTL_HOLD = 0 ∧ h.opc = 0x02 ∧ h.space ≠ 0 ∧ (turn = false ∨ r.1 = 0x12)) := by
  refine ⟨
    ⟨(linkS.setF (pLNK 3) F.LNK_STS_UP 0), 3, hw 1 0 1 0 0x1000 63, [], [], (1, Instr.read 3 (hw 1 0 1 0 0x1000 63) [] [],
      ((linkS.setF (pLNK 3) F.LNK_STS_UP 0)).finds []), .head _, ?_, ?_, ?_, ?_⟩,
    ⟨(linkS.setF pGLB F.GLB_STATE_STATE 3), 3, hw 1 0 1 0 0x1000 63, [], [], (1, Instr.read 3 (hw 1 0 1 0 0x1000 63) [] [],
      ((linkS.setF pGLB F.GLB_STATE_STATE 3)).finds []), .head _, ?_, ?_, ?_⟩,
    ⟨{ linkS with prt := { linkS.prt with holder := [] } }, 3, hw 1 0 1 0 0x1000 63, [], [], (1,
      Instr.read 3 (hw 1 0 1 0 0x1000 63) [] [], ({ linkS with prt := { linkS.prt with holder := [] } }).finds []), .head _, ?_,
      ?_, ?_, ?_, ?_⟩,
    ⟨(linkS.setF pGLB F.FAB_DEVID_ID 6), 3, hw 1 0 1 0 0x1000 63, [], [], (1, Instr.read 3 (hw 1 0 1 0 0x1000 63) [] [],
      ((linkS.setF pGLB F.FAB_DEVID_ID 6)).finds []), 1, .head _, ?_, ?_, ?_, ?_, ?_, ?_, ?_, ?_⟩,
    ⟨(linkS.setPart 1 { st := .resetting }), 3, hw 1 0 1 0 0x1000 63, [], [], (1, Instr.read 3 (hw 1 0 1 0 0x1000 63) [] [],
      ((linkS.setPart 1 { st := .resetting })).finds []), 1, .head _, ?_, ?_, ?_, ?_, ?_, ?_, ?_, ?_, ?_⟩,
    ⟨(linkS.setF (pCKP 0) (F.CKP_PSTS_STATE.at 4 1) 3), 3, hw 1 0 1 0 0x1000 63, [], [], (1,
      Instr.read 3 (hw 1 0 1 0 0x1000 63) [] [], ((linkS.setF (pCKP 0) (F.CKP_PSTS_STATE.at 4 1) 3)).finds []), 1, .head _, ?_,
      ?_, ?_, ?_, ?_, ?_, ?_, ?_, ?_, ?_⟩,
    ⟨linkS, 3, hw 1 0 1 0 0x10FF 63, [], [], (1, Instr.read 3 (hw 1 0 1 0 0x10FF 63) [] [], (linkS).finds []), 1, .head _, ?_,
      ?_, ?_, ?_, ?_, ?_, ?_, ?_, ?_, ?_, ?_⟩,
    ⟨(linkS.setF (pLNK 3) F.PG_CTL_EN 0), 3, hw 1 0 1 0 0x1000 63, [], [], (1, Instr.read 3 (hw 1 0 1 0 0x1000 63) [] [],
      ((linkS.setF (pLNK 3) F.PG_CTL_EN 0)).finds []), 1, .head _, ?_, ?_, ?_, ?_, ?_, ?_, ?_, ?_, ?_, ?_, ?_, ?_⟩,
    ⟨(linkS.setF (pLNK 3) F.PG_CTL_HOLD 1), 3, hw 1 0 1 0 0x1000 63, [], [], (1, Instr.read 3 (hw 1 0 1 0 0x1000 63) [] [],
      ((linkS.setF (pLNK 3) F.PG_CTL_HOLD 1)).finds []), 1, .head _, ?_, ?_, ?_, ?_, ?_, ?_, ?_, ?_, ?_, ?_, ?_, ?_, ?_⟩,
    ⟨linkS, 3, hw 1 0 1 0 0x1000 63, 1, [], [], ?_, ?_, ?_, ?_, ?_, ?_, ?_, ?_⟩,
    ⟨(linkS.setF 0x400 F.PG_CTL_HOLD 1), 3, hw 1 0 1 0 0x1000 63, 1, [], [], ?_, ?_, ?_, ?_, ?_, ?_⟩,
    ⟨linkS, 3, hw 1 0 0 0 0x1000 3, 1, [], [], ?_, ?_, ?_, ?_, ?_, ?_⟩,
    ⟨linkS, 3, hw 2 8 1 0 0x1000 0, 1, (leBytes 8 0x0706050403020100), ?_, ?_, ?_, ?_, ?_, ?_, ?_, ?_⟩,
    ⟨(linkS.setF 0x400 F.PG_CTL_HOLD 1), 3, hw 2 8 1 0 0x1000 0, 1, (leBytes 8 0x0706050403020100), ?_, ?_, ?_, ?_, ?_, ?_⟩⟩ <;> (first | decide +kernel | ((try unfold State.admits); (try unfold State.comes); decide +kernel))

theorem met_ArrivingRequestsActAndAreAnswered_2 :
    (∃ s : State, ∃ l w p : Nat, ∃ data : List Byte, let h := hdrOf w; let u := rxTake l (rxPkt w data) s;
      let x := pageWrite p h.addr h.len (leNat data) u; s.comes l w data ∧ s.admits l w data p ∧
      s.f (pLNK l) F.PG_CTL_HOLD = 0 ∧ h.opc = 0x02 ∧ h.space = 0 ∧ x.mem.wait = false) ∧
    (∃ s : State, ∃ l w p : Nat, ∃ data : List Byte, ∃ errs : Errs, let h := hdrOf w;
      let v := rxTake l (rxPkt w data) (s.finds errs); let at_ := s.nowOn (l / 32); let sz := atomicSize h.sub;
      let lanes := if h.sub = 0x18 then [(h.addr % 64, fieldOf data 0 16)] else (List.range (h.len / max 1 sz)).map (fun i => (h.addr % 64 + i * sz, fieldOf data (i * sz) sz));
      let r := memAtomic (pLNK l) (v.access p) h.space (h.addr / 64 * 64) h.sub lanes true v;
      let turn := v.turnAt h.space (h.addr / 64 * 64) 64 2 at_ 2; s.comes l w data ∧ s.admits l w data p ∧
      s.f (pLNK l) F.PG_CTL_HOLD = 0 ∧ h.opc = 0x03 ∧ turn = true ∧ r.1 ≠ 0x12 ∧ r.2.2.mem.wait = false) ∧
    (∃ s : State, ∃ l w p : Nat, ∃ data : List Byte, ∃ errs : Errs, let h := hdrOf w;
      let v := rxTake l (rxPkt w data) (s.finds errs); let at_ := s.nowOn (l / 32); let sz := atomicSize h.sub;
      let lanes := if h.sub = 0x18 then [(h.addr % 64, fieldOf data 0 16)] else (List.range (h.len / max 1 sz)).map (fun i => (h.addr % 64 + i * sz, fieldOf data (i * sz) sz));
      let r := memAtomic (pLNK l) (v.access p) h.space (h.addr / 64 * 64) h.sub lanes true v;
      let turn := v.turnAt h.space (h.addr / 64 * 64) 64 2 at_ 2; s.comes l w data ∧ s.admits l w data p ∧
      s.f (pLNK l) F.PG_CTL_HOLD = 0 ∧ h.opc = 0x03 ∧ (turn = false ∨ r.1 = 0x12)) ∧
    (∃ s : State, ∃ l w p : Nat, ∃ data : List Byte, let h := hdrOf w; s.comes l w data ∧ s.admits l w data p ∧
      s.f (pLNK l) F.PG_CTL_HOLD = 0 ∧ h.opc = 0x05 ∧ s.mem.wait = false ∧ h.addr < 65536 ∧ (s.sc p).inQ = [] ∧
      s.takesWork (pSCH p) = true) ∧
    (∃ s : State, ∃ l w p : Nat, ∃ data : List Byte, let h := hdrOf w; s.comes l w data ∧ s.admits l w data p ∧
      s.f (pLNK l) F.PG_CTL_HOLD = 0 ∧ h.opc = 0x05 ∧ s.mem.wait = false ∧ h.addr < 65536 ∧ (s.sc p).inQ.length < 256 ∧
      s.takesWork (pSCH p) = false) ∧
    (∃ s : State, ∃ l w p : Nat, ∃ data : List Byte, let h := hdrOf w; s.comes l w data ∧ s.admits l w data p ∧
      s.f (pLNK l) F.PG_CTL_HOLD = 0 ∧ h.opc = 0x05 ∧ s.mem.wait = false ∧ h.addr < 65536 ∧ 256 ≤ (s.sc p).inQ.length) ∧
    (∃ s : State, ∃ l w p : Nat, ∃ data : List Byte, let h := hdrOf w; s.comes l w data ∧ s.admits l w data p ∧
      s.f (pLNK l) F.PG_CTL_HOLD = 0 ∧ h.opc = 0x05 ∧ s.mem.wait = false ∧ 65536 ≤ h.addr) ∧
    (∃ s : State, ∃ l w p : Nat, ∃ data : List Byte, let h := hdrOf w; s.comes l w data ∧ s.admits l w data p ∧
      s.f (pLNK l) F.PG_CTL_HOLD = 0 ∧ h.opc = 0x04 ∧ s.mem.wait = false ∧ s.f (pLNK l) F.LNK_MRING_CTL_EN = 0) ∧
    (∃ s : State, ∃ l w p : Nat, ∃ data : List Byte, let h := hdrOf w; let prod := s.f (pLNK l) F.LNK_MRING_PROD_CNT;
      let size := 2 ^ s.f (pLNK l) F.LNK_MRING_CTL_LOG2N;
      let full := (prod + 2 ^ 32 - s.f (pLNK l) F.LNK_MRING_CONS_CNT) % 2 ^ 32 = size; s.comes l w data ∧ s.admits l w data p ∧
      s.f (pLNK l) F.PG_CTL_HOLD = 0 ∧ h.opc = 0x04 ∧ s.mem.wait = false ∧ s.f (pLNK l) F.LNK_MRING_CTL_EN ≠ 0 ∧ full) ∧
    (∃ s : State, ∃ l w p : Nat, ∃ data : List Byte, let h := hdrOf w; let u := rxTake l (rxPkt w data) s;
      let at_ := s.nowOn (l / 32); let prod := s.f (pLNK l) F.LNK_MRING_PROD_CNT;
      let size := 2 ^ s.f (pLNK l) F.LNK_MRING_CTL_LOG2N;
      let full := (prod + 2 ^ 32 - s.f (pLNK l) F.LNK_MRING_CONS_CNT) % 2 ^ 32 = size;
      let r := memWrite (pLNK l) (u.access p) (s.mring l).1 ((s.mring l).2 + 64 * (prod % size)) (plain (leBytes 2 h.src ++ leBytes 1 h.len ++ List.replicate 5 0 ++ leBytes 8 at_ ++ padTo 48 data)) false u;
      s.comes l w data ∧ s.admits l w data p ∧ s.f (pLNK l) F.PG_CTL_HOLD = 0 ∧ h.opc = 0x04 ∧ s.mem.wait = false ∧
      s.f (pLNK l) F.LNK_MRING_CTL_EN ≠ 0 ∧ ¬ full ∧ r.1 = 0 ∧ r.2.mem.wait = false) ∧
    (∃ s : State, ∃ l w p : Nat, ∃ data : List Byte, let h := hdrOf w; let u := rxTake l (rxPkt w data) s;
      let at_ := s.nowOn (l / 32); let prod := s.f (pLNK l) F.LNK_MRING_PROD_CNT;
      let size := 2 ^ s.f (pLNK l) F.LNK_MRING_CTL_LOG2N;
      let full := (prod + 2 ^ 32 - s.f (pLNK l) F.LNK_MRING_CONS_CNT) % 2 ^ 32 = size;
      let r := memWrite (pLNK l) (u.access p) (s.mring l).1 ((s.mring l).2 + 64 * (prod % size)) (plain (leBytes 2 h.src ++ leBytes 1 h.len ++ List.replicate 5 0 ++ leBytes 8 at_ ++ padTo 48 data)) false u;
      s.comes l w data ∧ s.admits l w data p ∧ s.f (pLNK l) F.PG_CTL_HOLD = 0 ∧ h.opc = 0x04 ∧ s.mem.wait = false ∧
      s.f (pLNK l) F.LNK_MRING_CTL_EN ≠ 0 ∧ ¬ full ∧ r.1 = 0x12) ∧
    (∃ s : State, ∃ l w p : Nat, ∃ data : List Byte, ∃ errs : Errs, let h := hdrOf w;
      let v := rxTake l (rxPkt w data) (s.finds errs); let at_ := s.nowOn (l / 32);
      let r := readPlain (pLNK l) (v.access p) h.space h.addr 64 v true;
      let turn := v.turnAt h.space h.addr 64 (reqClass true true) at_; s.comes l w data ∧ s.admits l w data p ∧
      s.f (pLNK l) F.PG_CTL_HOLD = 0 ∧ h.opc = 0x06 ∧ (turn = false ∨ r.1 = 0x12)) ∧
    (∃ s : State, ∃ l w p : Nat, ∃ data : List Byte, ∃ errs : Errs, let h := hdrOf w;
      let v := rxTake l (rxPkt w data) (s.finds errs); let at_ := s.nowOn (l / 32);
      let r := readPlain (pLNK l) (v.access p) h.space h.addr 64 v true; let d := r.2.1; let size := 2 ^ fieldOf d 7 1;
      let tail := fieldOf d 16 8; let turn := v.turnAt h.space h.addr 64 (reqClass true true) at_; s.comes l w data ∧
      s.admits l w data p ∧ s.f (pLNK l) F.PG_CTL_HOLD = 0 ∧ h.opc = 0x06 ∧ turn = true ∧ r.1 = 0 ∧ 1 ≤ fieldOf d 6 1 ∧
      fieldOf d 6 1 < 4 ∧ 12 ≤ fieldOf d 7 1 ∧ fieldOf d 7 1 ≤ 40 ∧ (d.drop 24).all (· == 0) = true ∧
      fieldOf d 8 8 + size < tail + h.len ∧ r.2.2.mem.wait = false) ∧
    (∃ s : State, ∃ l w p : Nat, ∃ data : List Byte, ∃ errs : Errs, let h := hdrOf w;
      let v := rxTake l (rxPkt w data) (s.finds errs); let marked := maskBytes h.addr (if h.poison then h.pmask else 0) data;
      let at_ := s.nowOn (l / 32); let r := readPlain (pLNK l) (v.access p) h.space h.addr 64 v true; let d := r.2.1;
      let size := 2 ^ fieldOf d 7 1; let tail := fieldOf d 16 8;
      let y := ringAppend (pLNK l) (r.2.2.access p) (fieldOf d 6 1) (fieldOf d 0 6) size tail h.len marked r.2.2;
      let z := memWrite (pLNK l) (y.2.access p) h.space (h.addr + 16) (plain (leBytes 8 (tail + h.len))) true y.2;
      let turn := v.turnAt h.space h.addr 64 (reqClass true true) at_; s.comes l w data ∧ s.admits l w data p ∧
      s.f (pLNK l) F.PG_CTL_HOLD = 0 ∧ h.opc = 0x06 ∧ turn = true ∧ r.1 = 0 ∧ 1 ≤ fieldOf d 6 1 ∧ fieldOf d 6 1 < 4 ∧
      12 ≤ fieldOf d 7 1 ∧ fieldOf d 7 1 ≤ 40 ∧ (d.drop 24).all (· == 0) = true ∧ tail + h.len ≤ fieldOf d 8 8 + size ∧
      y.1 = 0 ∧ z.1 = 0 ∧ z.2.mem.wait = false) := by
  refine ⟨
    ⟨linkS, 3, hw 2 4 0 0 0x1000 0, 1, [1, 2, 3, 4], ?_, ?_, ?_, ?_, ?_, ?_⟩,
    ⟨linkS, 3, hw 3 8 1 0x01 0x1000 0, 1, (leBytes 8 0x0706050403020100), [], ?_, ?_, ?_, ?_, ?_, ?_, ?_⟩,
    ⟨(linkS.setF 0x400 F.PG_CTL_HOLD 1), 3, hw 3 8 1 0x01 0x1000 0, 1, (leBytes 8 0x0706050403020100), [], ?_, ?_, ?_, ?_, ?_⟩,
    ⟨(on (pSCH 1) linkS), 3, hw 5 0 0 0 7 0, 1, [], ?_, ?_, ?_, ?_, ?_, ?_, ?_, ?_⟩,
    ⟨linkS, 3, hw 5 0 0 0 7 0, 1, [], ?_, ?_, ?_, ?_, ?_, ?_, ?_, ?_⟩,
    ⟨(linkS.setSc 1 { inQ := List.replicate 256 { link := 3, hdr := 0 } }), 3, hw 5 0 0 0 7 0, 1, [], ?_, ?_, ?_, ?_, ?_, ?_,
      ?_⟩,
    ⟨linkS, 3, hw 5 0 0 0 0x10000 0, 1, [], ?_, ?_, ?_, ?_, ?_, ?_⟩,
    ⟨linkS, 3, hw 4 8 0 0 0 0, 1, (leBytes 8 0x0706050403020100), ?_, ?_, ?_, ?_, ?_, ?_⟩,
    ⟨((linkS.setF (pLNK 3) F.LNK_MRING_CTL_EN 1 |>.setF (pLNK 3) F.LNK_MRING_CTL_LOG2N 6 |>.setF (pLNK 3) F.LNK_MRING_LO_TIER 1).setF (pLNK 3) F.LNK_MRING_PROD_CNT 64),
      3, hw 4 8 0 0 0 0, 1, (leBytes 8 0x0706050403020100), ?_, ?_, ?_, ?_, ?_, ?_, ?_⟩,
    ⟨(linkS.setF (pLNK 3) F.LNK_MRING_CTL_EN 1 |>.setF (pLNK 3) F.LNK_MRING_CTL_LOG2N 6 |>.setF (pLNK 3) F.LNK_MRING_LO_TIER 1),
      3, hw 4 8 0 0 0 0, 1, (leBytes 8 0x0706050403020100), ?_, ?_, ?_, ?_, ?_, ?_, ?_, ?_, ?_⟩,
    ⟨((linkS.setF (pLNK 3) F.LNK_MRING_CTL_EN 1 |>.setF (pLNK 3) F.LNK_MRING_CTL_LOG2N 6 |>.setF (pLNK 3) F.LNK_MRING_LO_TIER 1).setF 0x400 F.PG_CTL_HOLD 1),
      3, hw 4 8 0 0 0 0, 1, (leBytes 8 0x0706050403020100), ?_, ?_, ?_, ?_, ?_, ?_, ?_, ?_⟩,
    ⟨(linkS.setF 0x400 F.PG_CTL_HOLD 1), 3, hw 6 8 1 0 0x1000 0, 1, (leBytes 8 0x0706050403020100), [], ?_, ?_, ?_, ?_, ?_⟩,
    ⟨(bytesAt 1 1 0x1000 (leBytes 6 0x20000 ++ [1, 12] ++ leBytes 8 0 ++ leBytes 8 4096 ++ List.replicate 40 0) linkS), 3,
      hw 6 8 1 0 0x1000 0, 1, (leBytes 8 0x0706050403020100), [], ?_, ?_, ?_, ?_, ?_, ?_, ?_, ?_, ?_, ?_, ?_, ?_, ?_⟩,
    ⟨(bytesAt 1 1 0x1000 (leBytes 6 0x20000 ++ [1, 12] ++ leBytes 8 0 ++ leBytes 8 0 ++ List.replicate 40 0) linkS), 3,
      hw 6 8 1 0 0x1000 0, 1, (leBytes 8 0x0706050403020100), [], ?_, ?_, ?_, ?_, ?_, ?_, ?_, ?_, ?_, ?_, ?_, ?_, ?_, ?_⟩⟩ <;> (first | decide +kernel | ((try unfold State.admits); (try unfold State.comes); decide +kernel))

theorem met_RequestsEndWithTheirCompletions_1 :
    (∃ s : State, ∃ l w : Nat, ∃ data : List Byte, s.dead = false ∧ l < 64 ∧ w < 2 ^ 128 ∧ (s.linkUp l = false ∨
      (hdrOf w).opc ≠ 0x10 ∨ s.crdRx l 1 < (rxPkt w data).units)) ∧
    (∃ s : State, ∃ l w : Nat, ∃ data : List Byte, let g := (hdrOf w).tag; s.dead = false ∧ l < 64 ∧ w < 2 ^ 128 ∧
      s.linkUp l = true ∧ (hdrOf w).opc = 0x10 ∧ (rxPkt w data).units ≤ s.crdRx l 1 ∧ s.tagReq g = none) ∧
    (∃ s : State, ∃ l w : Nat, ∃ data : List Byte, let g := (hdrOf w).tag; ∃ r, s.dead = false ∧ l < 64 ∧ w < 2 ^ 128 ∧
      s.linkUp l = true ∧ (hdrOf w).opc = 0x10 ∧ (rxPkt w data).units ≤ s.crdRx l 1 ∧ s.tagReq g = some r ∧ r.part < 8 ∧
      (s.part r.part).st = .resetting ∧ r.late (s.nowOn (r.link / 32)) = false ∧ s.fab.wait = []) ∧
    (∃ s : State, ∃ l w : Nat, ∃ data : List Byte, let g := (hdrOf w).tag; ∃ r p, s.dead = false ∧ l < 64 ∧ w < 2 ^ 128 ∧
      s.linkUp l = true ∧ (hdrOf w).opc = 0x10 ∧ (rxPkt w data).units ≤ s.crdRx l 1 ∧ s.tagReq g = some r ∧ s.fab.wait = [] ∧
      r.late (s.nowOn (r.link / 32)) = true ∧ r.who = .succ p ∧ p < 8 ∧ r.link < 64) ∧
    (∃ s : State, ∃ l w : Nat, ∃ data : List Byte, let g := (hdrOf w).tag; ∃ r, ∃ p n c, s.dead = false ∧ l < 64 ∧ w < 2 ^ 128 ∧
      s.linkUp l = true ∧ (hdrOf w).opc = 0x10 ∧ (rxPkt w data).units ≤ s.crdRx l 1 ∧ s.tagReq g = some r ∧ s.fab.wait = [] ∧
      r.late (s.nowOn (r.link / 32)) = false ∧ (r.part < 8 → (s.part r.part).st ≠ .resetting) ∧ r.link < 64 ∧
      (hdrOf w).sub < 10 ∧ r.who = .op p n ∧ s.planCoreOf p n r.id = some c ∧ (s.slot p n).drain = false ∧ (hdrOf w).sub = 0) ∧
    (∃ s : State, ∃ l w : Nat, ∃ data : List Byte, let g := (hdrOf w).tag; ∃ r, ∃ p n c, ∃ h, s.dead = false ∧ l < 64 ∧
      w < 2 ^ 128 ∧ s.linkUp l = true ∧ (hdrOf w).opc = 0x10 ∧ (rxPkt w data).units ≤ s.crdRx l 1 ∧ s.tagReq g = some r ∧
      s.fab.wait = [] ∧ r.late (s.nowOn (r.link / 32)) = false ∧ (r.part < 8 → (s.part r.part).st ≠ .resetting) ∧ r.link < 64 ∧
      (hdrOf w).sub < 10 ∧ r.who = .op p n ∧ s.planCoreOf p n r.id = some c ∧ (s.slot p n).drain = false ∧ (hdrOf w).sub ≠ 0 ∧
      (s.slot p n).st = .running ∧ (s.slot p n).heldRel = false ∧ (s.slot p n).frel = false ∧
      (s.flow p (s.slot p n).flow).ordered = false ∧ (s.core c).op = some h ∧ h.part = p ∧ h.slot = n) ∧
    (∃ s : State, ∃ l w : Nat, ∃ data : List Byte, let g := (hdrOf w).tag; ∃ r, ∃ p, s.dead = false ∧ l < 64 ∧ w < 2 ^ 128 ∧
      s.linkUp l = true ∧ (hdrOf w).opc = 0x10 ∧ (rxPkt w data).units ≤ s.crdRx l 1 ∧ s.tagReq g = some r ∧ s.fab.wait = [] ∧
      r.late (s.nowOn (r.link / 32)) = false ∧ (r.part < 8 → (s.part r.part).st ≠ .resetting) ∧ r.link < 64 ∧
      (hdrOf w).sub < 10 ∧ r.who = .succ p ∧ (hdrOf w).sub = 0) ∧
    (∃ s : State, ∃ l w : Nat, ∃ data : List Byte, let g := (hdrOf w).tag; ∃ r, ∃ k, s.dead = false ∧ l < 64 ∧ w < 2 ^ 128 ∧
      s.linkUp l = true ∧ (hdrOf w).opc = 0x10 ∧ (rxPkt w data).units ≤ s.crdRx l 1 ∧ s.tagReq g = some r ∧ s.fab.wait = [] ∧
      r.late (s.nowOn (r.link / 32)) = false ∧ (r.part < 8 → (s.part r.part).st ≠ .resetting) ∧ r.link < 64 ∧
      (hdrOf w).sub < 10 ∧ r.who = .xctl k ∧ k < 64 ∧ data = []) ∧
    (∃ s : State, ∃ l w : Nat, ∃ data : List Byte, let g := (hdrOf w).tag;
      let y := rxFree l true (rxPkt w data) (rxTake l (rxPkt w data) s); ∃ r, ∃ k, let z := freeReq g y;
      let own := (s.assignee (pLNK k)).getD (s.defSubj (pLNK k));
      let a := s.f (pLNK k) F.LNK_XRSP_LO_ADDR * 4 + s.f (pLNK k) F.LNK_XRSP_HI_ADDR * 2 ^ 32; s.dead = false ∧ l < 64 ∧
      w < 2 ^ 128 ∧ s.linkUp l = true ∧ (hdrOf w).opc = 0x10 ∧ (rxPkt w data).units ≤ s.crdRx l 1 ∧ s.tagReq g = some r ∧
      s.fab.wait = [] ∧ r.late (s.nowOn (r.link / 32)) = false ∧ (r.part < 8 → (s.part r.part).st ≠ .resetting) ∧ r.link < 64 ∧
      (hdrOf w).sub < 10 ∧ r.who = .xctl k ∧ k < 64 ∧ data ≠ [] ∧ (hdrOf w).sub = 0 ∧
      z.accessCode own (s.f (pLNK k) F.LNK_XRSP_LO_TIER) a data.length ≠ 0x12) ∧
    (∃ s : State, ∃ g : Nat, ∃ r : FabReq, s.dead = false ∧ g < 16384 ∧ s.tagReq g = some r ∧
      s.nowOn (r.link / 32) < r.since + r.rtmo) ∧
    (∃ s : State, ∃ g : Nat, ∃ r : FabReq, ∃ k, s.dead = false ∧ g < 16384 ∧ s.tagReq g = some r ∧
      r.since + r.rtmo ≤ s.nowOn (r.link / 32) ∧ r.who = .xctl k ∧ k < 64 ∧ r.link < 64 ∧ s.fab.wait = []) ∧
    (∃ s : State, ∃ g : Nat, ∃ r : FabReq, ∃ p n c h, s.dead = false ∧ g < 16384 ∧ s.tagReq g = some r ∧
      r.since + r.rtmo ≤ s.nowOn (r.link / 32) ∧ r.who = .op p n ∧ s.planCoreOf p n r.id = some c ∧ r.link < 64 ∧
      s.fab.wait = [] ∧ (s.slot p n).drain = false ∧ (s.slot p n).st = .running ∧ (s.slot p n).heldRel = false ∧
      (s.slot p n).frel = false ∧ (s.flow p (s.slot p n).flow).ordered = false ∧ (s.core c).op = some h ∧ h.part = p ∧
      h.slot = n) ∧
    (∃ s : State, ∃ g e : Nat, s.dead = false ∧ g < 16384 ∧ s.tagQuar g = some e ∧ s.now < e) ∧
    (∃ s : State, ∃ g e : Nat, s.dead = false ∧ g < 16384 ∧ s.tagQuar g = some e ∧ e ≤ s.now ∧ s.fab.wait = []) := by
  refine ⟨
    ⟨(devP.setF (pLNK 3) F.LNK_STS_UP 1), 3, (({ opc := 0x10, tag := 16383 } : PktHdr)).word, [], ?_⟩,
    ⟨linkS, 3, hw 0x10 0 0 0 0 0 7, [], ?_⟩,
    ⟨{ (linkS.setPart 1 { st := .resetting }) with fab := { tags := [(7, some ({ who := .xctl 3, part := 1, link := 3, opc := 1, since := 0, rtmo := 1000, id := 0 } : FabReq))] } },
      3, hw 0x10 0 0 0 0 0 7, [],
      ({ who := .xctl 3, part := 1, link := 3, opc := 1, since := 0, rtmo := 1000, id := 0 } : FabReq), ?_⟩,
    ⟨{ (atNow 20000 linkS) with fab := { tags := [(7, some ({ who := .succ 1, part := 1, link := 3, opc := 1, since := 0, rtmo := 1000, id := 0 } : FabReq))] } },
      3, hw 0x10 0 0 0 0 0 7, [],
      ({ who := .succ 1, part := 1, link := 3, opc := 1, since := 0, rtmo := 1000, id := 0 } : FabReq), 1, ?_⟩,
    ⟨{ (((((planS cMOVE 2).setF (pLNK 3) F.LNK_STS_UP 1).setF (pLNK 3) F.LNK_STS_STATE 8).setF (pLNK 3) (F.LNK_CRD_RX.at 4 1) 64).setTq 0 3 { reqs := [{ id := 0, tier := 4, addr := 0, len := 4, pos := 0, slot := 0 }] }) with fab := { tags := [(7, some ({ who := .op 1 5, part := 1, link := 3, opc := 1, since := 0, rtmo := 1000, id := 0 } : FabReq))] } },
      3, hw 0x10 0 0 0 0 0 7, [],
      ({ who := .op 1 5, part := 1, link := 3, opc := 1, since := 0, rtmo := 1000, id := 0 } : FabReq), 1, 5, 0, ?_⟩,
    ⟨{ (((((planS cMOVE 2).setF (pLNK 3) F.LNK_STS_UP 1).setF (pLNK 3) F.LNK_STS_STATE 8).setF (pLNK 3) (F.LNK_CRD_RX.at 4 1) 64).setTq 0 3 { reqs := [{ id := 0, tier := 4, addr := 0, len := 4, pos := 0, slot := 0 }] }) with fab := { tags := [(7, some ({ who := .op 1 5, part := 1, link := 3, opc := 1, since := 0, rtmo := 1000, id := 0 } : FabReq))] } },
      3, hw 0x10 0 0 2 0 0 7, [],
      ({ who := .op 1 5, part := 1, link := 3, opc := 1, since := 0, rtmo := 1000, id := 0 } : FabReq), 1, 5, 0,
      { part := 1, slot := 5, opid := 0, cls := cMOVE }, ?_⟩,
    ⟨{ linkS with fab := { tags := [(7, some ({ who := .succ 1, part := 1, link := 3, opc := 1, since := 0, rtmo := 1000, id := 0 } : FabReq))] } },
      3, hw 0x10 0 0 0 0 0 7, [],
      ({ who := .succ 1, part := 1, link := 3, opc := 1, since := 0, rtmo := 1000, id := 0 } : FabReq), 1, ?_⟩,
    ⟨{ linkS with fab := { tags := [(7, some ({ who := .xctl 3, part := 1, link := 3, opc := 1, since := 0, rtmo := 1000, id := 0 } : FabReq))] } },
      3, hw 0x10 0 0 0 0 0 7, [],
      ({ who := .xctl 3, part := 1, link := 3, opc := 1, since := 0, rtmo := 1000, id := 0 } : FabReq), 3, ?_⟩,
    ⟨{ ((linkS.setF (pLNK 3) F.LNK_XRSP_LO_TIER 1).setF (pLNK 3) F.LNK_XRSP_LO_ADDR 0x1000) with fab := { tags := [(7, some ({ who := .xctl 3, part := 1, link := 3, opc := 1, since := 0, rtmo := 1000, id := 0 } : FabReq))] } },
      3, hw 0x10 4 0 0 0 0 7, [1, 2, 3, 4],
      ({ who := .xctl 3, part := 1, link := 3, opc := 1, since := 0, rtmo := 1000, id := 0 } : FabReq), 3, ?_⟩,
    ⟨({ atNow 999 (devP.setF (pLNK 3) F.LNK_STS_UP 1) with fab := { tags := [(16383, some ({ who := (.xctl 3), part := 1, link := 3, opc := 1, since := 0, rtmo := 1000 } : FabReq))] } } : State),
      16383, ({ who := (.xctl 3), part := 1, link := 3, opc := 1, since := 0, rtmo := 1000 } : FabReq), ?_⟩,
    ⟨({ atNow 1000 (devP.setF (pLNK 3) F.LNK_STS_UP 1) with fab := { tags := [(16383, some ({ who := (.xctl 3), part := 1, link := 3, opc := 1, since := 0, rtmo := 1000 } : FabReq))] } } : State),
      16383, ({ who := (.xctl 3), part := 1, link := 3, opc := 1, since := 0, rtmo := 1000 } : FabReq), 3, ?_⟩,
    ⟨{ (atNow 1000 (((((planS cMOVE 2).setF (pLNK 3) F.LNK_STS_UP 1).setF (pLNK 3) F.LNK_STS_STATE 8).setF (pLNK 3) (F.LNK_CRD_RX.at 4 1) 64).setTq 0 3 { reqs := [{ id := 0, tier := 4, addr := 0, len := 4, pos := 0, slot := 0 }] })) with fab := { tags := [(7, some ({ who := .op 1 5, part := 1, link := 3, opc := 1, since := 0, rtmo := 1000, id := 0 } : FabReq))] } },
      7, ({ who := .op 1 5, part := 1, link := 3, opc := 1, since := 0, rtmo := 1000, id := 0 } : FabReq), 1, 5, 0,
      { part := 1, slot := 5, opid := 0, cls := cMOVE }, ?_⟩,
    ⟨({ atNow 999 (devP.setF (pLNK 3) F.LNK_STS_UP 1) with fab := { quar := [(16383, some 1000)] } } : State), 16383, 1000, ?_⟩,
    ⟨({ atNow 1000 (devP.setF (pLNK 3) F.LNK_STS_UP 1) with fab := { quar := [(16383, some 1000)] } } : State), 16383, 1000, ?_⟩⟩ <;> decide +kernel

theorem met_RequestsEndWithTheirCompletions_2 :
    (∃ s : State, ∃ m l : Nat, ∃ g, s.dead = false ∧ okMaster m = true ∧ l < 64 ∧ s.reaches m (pLNK l) = true ∧
      s.mayWrite m (pLNK l) = true ∧ s.rstBusy (pLNK l) = false ∧ s.linkUp l = true ∧ s.f (pLNK l) F.LNK_XSTS_BUSY = 0 ∧
      1 ≤ (hdrOf (s.xhdr l)).opc ∧ (hdrOf (s.xhdr l)).opc ≤ 6 ∧ hdrReserved (s.xhdr l) = false ∧
      3 ≤ s.f (pLNK l) F.LNK_PEER_FVER ∧ s.freeTag = some g ∧ (hdrOf (s.xhdr l)).len = 0) ∧
    (∃ s : State, ∃ m l : Nat, ∃ g, let own := (s.assignee (pLNK l)).getD (s.defSubj (pLNK l));
      let a := s.f (pLNK l) F.LNK_XDATA_LO_ADDR * 4 + s.f (pLNK l) F.LNK_XDATA_HI_ADDR * 2 ^ 32;
      let u := ((s.setF (pLNK l) F.LNK_XSTS_BUSY 1).setF (pLNK l) F.LNK_XSTS_CODE 0).setF (pLNK l) F.LNK_XSTS_STATUS 0;
      let v := u.setLink l { u.link l with xpend := false };
      let x := readPlain (pLNK l) (v.access own) (s.f (pLNK l) F.LNK_XDATA_LO_TIER) a (hdrOf (s.xhdr l)).len v; s.dead = false ∧
      okMaster m = true ∧ l < 64 ∧ s.reaches m (pLNK l) = true ∧ s.mayWrite m (pLNK l) = true ∧ s.rstBusy (pLNK l) = false ∧
      s.linkUp l = true ∧ s.f (pLNK l) F.LNK_XSTS_BUSY = 0 ∧ 1 ≤ (hdrOf (s.xhdr l)).opc ∧ (hdrOf (s.xhdr l)).opc ≤ 6 ∧
      hdrReserved (s.xhdr l) = false ∧ 3 ≤ s.f (pLNK l) F.LNK_PEER_FVER ∧ s.freeTag = some g ∧ (hdrOf (s.xhdr l)).len ≠ 0 ∧
      u.spanCode own (s.f (pLNK l) F.LNK_XDATA_LO_TIER) a (hdrOf (s.xhdr l)).len ≠ 0x12 ∧ x.1 = 0) ∧
    (∃ s : State, ∃ m l : Nat, ∃ g, let own := (s.assignee (pLNK l)).getD (s.defSubj (pLNK l));
      let a := s.f (pLNK l) F.LNK_XDATA_LO_ADDR * 4 + s.f (pLNK l) F.LNK_XDATA_HI_ADDR * 2 ^ 32;
      let u := ((s.setF (pLNK l) F.LNK_XSTS_BUSY 1).setF (pLNK l) F.LNK_XSTS_CODE 0).setF (pLNK l) F.LNK_XSTS_STATUS 0;
      let v := u.setLink l { u.link l with xpend := false };
      let x := readPlain (pLNK l) (v.access own) (s.f (pLNK l) F.LNK_XDATA_LO_TIER) a (hdrOf (s.xhdr l)).len v; s.dead = false ∧
      okMaster m = true ∧ l < 64 ∧ s.reaches m (pLNK l) = true ∧ s.mayWrite m (pLNK l) = true ∧ s.rstBusy (pLNK l) = false ∧
      s.linkUp l = true ∧ s.f (pLNK l) F.LNK_XSTS_BUSY = 0 ∧ 1 ≤ (hdrOf (s.xhdr l)).opc ∧ (hdrOf (s.xhdr l)).opc ≤ 6 ∧
      hdrReserved (s.xhdr l) = false ∧ 3 ≤ s.f (pLNK l) F.LNK_PEER_FVER ∧ s.freeTag = some g ∧ (hdrOf (s.xhdr l)).len ≠ 0 ∧
      u.spanCode own (s.f (pLNK l) F.LNK_XDATA_LO_TIER) a (hdrOf (s.xhdr l)).len ≠ 0x12 ∧ x.1 ≠ 0) ∧
    (∃ s : State, ∃ m l : Nat, s.dead = false ∧ okMaster m = true ∧ l < 64 ∧ s.reaches m (pLNK l) = true ∧
      s.mayWrite m (pLNK l) = true ∧ 1 ≤ (hdrOf (s.xhdr l)).opc ∧ (hdrOf (s.xhdr l)).opc ≤ 6 ∧ hdrReserved (s.xhdr l) = false ∧
      (s.f (pLNK l) F.LNK_XSTS_BUSY = 1 ∨ s.linkUp l = false)) ∧
    (∃ s : State, ∃ m l : Nat, s.dead = false ∧ okMaster m = true ∧ l < 64 ∧ s.reaches m (pLNK l) = true ∧
      s.mayWrite m (pLNK l) = true ∧ ((hdrOf (s.xhdr l)).opc = 0 ∨ 6 < (hdrOf (s.xhdr l)).opc)) := by
  refine ⟨
    ⟨own 14 (pLNK 3) ((devP.setF (pLNK 3) F.LNK_STS_UP 1).setW (pLNK 3) R.LNK_XHDR_W 6) |>.setF (pLNK 3) F.LNK_PEER_FVER 3, 14,
      3, 0, ?_⟩,
    ⟨((((own 1 (pLNK 3) linkS).setW (pLNK 3) R.LNK_XHDR_W 0x406).setF (pLNK 3) F.LNK_PEER_FVER 3).setF (pLNK 3) F.LNK_XDATA_LO_TIER 1).setF (pLNK 3) F.LNK_XDATA_LO_ADDR 0x400,
      1, 3, 0, ?_⟩,
    ⟨((((own 1 (pLNK 3) (setPoison (memKey 1 0x1000) true linkS)).setW (pLNK 3) R.LNK_XHDR_W 0x406).setF (pLNK 3) F.LNK_PEER_FVER 3).setF (pLNK 3) F.LNK_XDATA_LO_TIER 1).setF (pLNK 3) F.LNK_XDATA_LO_ADDR 0x400,
      1, 3, 0, ?_⟩,
    ⟨own 14 (pLNK 3) (devP.setW (pLNK 3) R.LNK_XHDR_W 6), 14, 3, ?_⟩,
    ⟨own 14 (pLNK 3) ((devP.setF (pLNK 3) F.LNK_STS_UP 1).setW (pLNK 3) R.LNK_XHDR_W 7), 14, 3, ?_⟩⟩ <;> decide +kernel

theorem met_QueuePairsFetchAndComplete_1 :
    (∃ s : State, ∃ p q v : Nat, s.dead = false ∧ p < 8 ∧ q < 4 ∧ v < 2 ^ 32 ∧ s.enabled p = true ∧ (s.qp p q).en = true ∧
      v < 2 ^ (s.qp p q).log2n ∧ (s.qp p q).log2n ≤ 12) ∧
    (∃ s : State, ∃ p q v : Nat, s.dead = false ∧ p < 8 ∧ q < 4 ∧ v < 2 ^ 32 ∧ s.enabled p = true ∧ (s.qp p q).log2n ≤ 12 ∧
      2 ^ (s.qp p q).log2n ≤ v) ∧
    (∃ s : State, ∃ p q v : Nat, s.dead = false ∧ p < 8 ∧ q < 4 ∧ v < 2 ^ 32 ∧ s.enabled p = false) ∧
    (∃ s : State, ∃ p q v : Nat, s.dead = false ∧ p < 8 ∧ q < 4 ∧ v < 2 ^ 32 ∧ s.enabled p = true ∧ qRes0 0x10 v = true ∧
      4 ≤ bits v 11 8 ∧ bits v 11 8 ≤ 12 ∧ bit v 31 = true ∧ (s.qp p q).en = false ∧ (s.qp p q).busy = false) ∧
    (∃ s : State, ∃ p q v : Nat, s.dead = false ∧ p < 8 ∧ q < 4 ∧ v < 2 ^ 32 ∧ s.enabled p = true ∧ qRes0 0x10 v = true ∧
      4 ≤ bits v 11 8 ∧ bits v 11 8 ≤ 12 ∧ bit v 31 = true ∧ (s.qp p q).en = false ∧ (s.qp p q).busy = true) ∧
    (∃ s : State, ∃ p q v : Nat, s.dead = false ∧ p < 8 ∧ q < 4 ∧ v < 2 ^ 32 ∧ s.enabled p = true ∧ qRes0 0x10 v = true ∧
      4 ≤ bits v 11 8 ∧ bits v 11 8 ≤ 12 ∧ (s.qp p q).en = true ∧ v + 2 ^ 31 = (s.qp p q).cfgWord ∧ bit v 31 = false) ∧
    (∃ s : State, ∃ p q : Nat, ∃ entry : List Byte, s.dead = false ∧ p < 8 ∧ s.enabled p = true ∧
      s.f pHIF F.HIF_LINK_STS_UP = 1 ∧ s.nextQ p = some q ∧ s.overdue pHIF ((s.qp p q).fetch.getD (s.issue pHIF)) = false ∧
      entry.length = 64 ∧ (entry.drop 34).all (· == 0) = true ∧ s.takesCmds p = true ∧ s.qfree p ≠ 0) ∧
    (∃ s : State, ∃ p q : Nat, ∃ entry : List Byte, s.dead = false ∧ p < 8 ∧ s.enabled p = true ∧
      s.f pHIF F.HIF_LINK_STS_UP = 1 ∧ s.nextQ p = some q ∧ s.overdue pHIF ((s.qp p q).fetch.getD (s.issue pHIF)) = false ∧
      entry.length = 64 ∧ (entry.drop 34).any (· != 0) = true ∧ (s.qp p q).waiting.length ≤ (s.qp p q).open_) ∧
    (∃ s : State, ∃ p q : Nat, ∃ entry : List Byte, s.dead = false ∧ p < 8 ∧ s.enabled p = true ∧
      s.f pHIF F.HIF_LINK_STS_UP = 1 ∧ s.nextQ p = some q ∧ s.overdue pHIF ((s.qp p q).fetch.getD (s.issue pHIF)) = false ∧
      entry.length = 64 ∧ (entry.drop 34).all (· == 0) = true ∧ (s.takesCmds p = false ∨ s.qfree p = 0) ∧
      (s.qp p q).waiting.length ≤ (s.qp p q).open_) ∧
    (∃ s : State, ∃ p q : Nat, ∃ res, s.dead = false ∧ p < 8 ∧ s.enabled p = true ∧ s.f pHIF F.HIF_LINK_STS_UP = 1 ∧
      s.nextQ p = some q ∧ s.overdue pHIF ((s.qp p q).fetch.getD (s.issue pHIF)) = false ∧ res ≠ 0 ∧ res ≠ 0x03) ∧
    (∃ s : State, ∃ p q : Nat, s.dead = false ∧ p < 8 ∧ s.enabled p = true ∧ s.f pHIF F.HIF_LINK_STS_UP = 1 ∧
      s.nextQ p = some q ∧ s.overdue pHIF ((s.qp p q).fetch.getD (s.issue pHIF)) = false ∧ (s.qp p q).fetch = none) ∧
    (∃ s : State, ∃ p q : Nat, ∃ i, s.dead = false ∧ p < 8 ∧ s.enabled p = true ∧ s.f pHIF F.HIF_LINK_STS_UP = 1 ∧
      s.nextQ p = some q ∧ s.overdue pHIF ((s.qp p q).fetch.getD (s.issue pHIF)) = false ∧ (s.qp p q).fetch = some i ∧
      s.expired pHIF i = true) ∧
    (∃ s : State, ∃ p q : Nat, ∃ e es, s.dead = false ∧ p < 8 ∧ q < 4 ∧ (s.qp p q).waiting = e :: es ∧
      (s.part p).st = .resetting) ∧
    (∃ s : State, ∃ p q : Nat, ∃ e es, s.dead = false ∧ p < 8 ∧ q < 4 ∧ (s.qp p q).waiting = e :: es ∧
      (s.part p).st ≠ .resetting ∧ (s.qp p q).ien = true) := by
  refine ⟨
    ⟨hifS ({ vfEn := true, qps := [(7, {en := true, log2n := 12})] }), 1, 3, 4095, ?_⟩,
    ⟨hifS ({ vfEn := true, qps := [(7, {en := true, log2n := 12})] }), 1, 3, 4096, ?_⟩,
    ⟨{ dev with hif := { vfEn := true, qps := [(7, {en := true})] } }, 1, 3, 3, ?_⟩,
    ⟨hifS ({ vfEn := true, qps := [(7, { log2n := 4 })] }), 1, 3, 3221556224, ?_⟩,
    ⟨hifS ({ vfEn := true, qps := [(7, { open_ := 1 })] }), 1, 3, 3221556224, ?_⟩,
    ⟨hifS { vfEn := true, qps := [(7, { en := true, log2n := 4 })] }, 1, 3, 0x400, ?_⟩,
    ⟨(on (pSCH 1) (hifS ({ vfEn := true, qps := [(7, {en := true, log2n := 4, sqTail := 3, sqHead := 15})] })) |>.setF pHIF F.HIF_LINK_STS_UP 1),
      1, 3, (gcmd 2 3 5 1 0 0 0).bytes ++ leBytes 2 77 ++ List.replicate 30 0, ?_⟩,
    ⟨(hifS ({ vfEn := true, qps := [(7, {en := true, log2n := 4, sqTail := 3, sqHead := 15})] }) |>.setF pHIF F.HIF_LINK_STS_UP 1),
      1, 3, List.replicate 64 1, ?_⟩,
    ⟨(hifS ({ vfEn := true, qps := [(7, {en := true, log2n := 4, sqTail := 3, sqHead := 15})] }) |>.setF pHIF F.HIF_LINK_STS_UP 1),
      1, 3, (gcmd 2 3 5 1 0 0 0).bytes ++ leBytes 2 77 ++ List.replicate 30 0, ?_⟩,
    ⟨((hifS { vfEn := true, qps := [(7, { en := true, log2n := 4, sqTail := 3, sqHead := 15 })] }) |>.setF pHIF F.HIF_LINK_STS_UP 1),
      1, 3, 5, ?_⟩,
    ⟨(hifS ({ vfEn := true, qps := [(7, {en := true, log2n := 4, sqTail := 3, sqHead := 15})] }) |>.setF pHIF F.HIF_LINK_STS_UP 1),
      1, 3, ?_⟩,
    ⟨(atNow 1000 (hifS { vfEn := true, qps := [(7, { en := true, log2n := 4, sqTail := 3, sqHead := 15, fetch := some { since := 0, tmo := 1000 } })] }) |>.setF pHIF F.HIF_LINK_STS_UP 1),
      1, 3, { since := 0, tmo := 1000 }, ?_⟩,
    ⟨(hifS { vfEn := true, qps := [(7, { en := true, ien := true, log2n := 4, open_ := 2, waiting := [({ cid := 77, status := 0, sqHead := 3 } : CqEnt)] })] }).setPart 1 { st := .resetting },
      1, 3, ({ cid := 77, status := 0, sqHead := 3 } : CqEnt), [], ?_⟩,
    ⟨hifS ({ vfEn := true, qps := [(7, {en := true, ien := true, log2n := 4, written := 16, open_ := 2, waiting := [({ cid := 77, status := 0, sqHead := 3 } : CqEnt)]})] }),
      1, 3, ({ cid := 77, status := 0, sqHead := 3 } : CqEnt), [], ?_⟩⟩ <;> decide +kernel

theorem met_QueuePairsFetchAndComplete_2 :
    (∃ s : State, ∃ p q : Nat, s.dead = false ∧ p < 8 ∧ q < 4 ∧ (s.qp p q).waiting = []) ∧
    (∃ s : State, ∃ p q : Nat, s.dead = false ∧ p < 8 ∧ q < 4 ∧ (s.qp p q).intAt.isSome = true ∧ (∀ u,
      (s.qp p q).msgAt = some u → u + 1000 ≤ s.now) ∧ s.f pHIF F.HIF_LINK_STS_UP = 1 ∧ s.hif.vfEn = true ∧
      (s.msix (p + 1)).en = true) ∧
    (∃ s : State, ∃ p q : Nat, s.dead = false ∧ p < 8 ∧ q < 4 ∧ ((s.qp p q).intAt = none ∨ (∃ u, (s.qp p q).msgAt = some u ∧
      s.now < u + 1000))) := by
  refine ⟨
    ⟨hifS ({ vfEn := true, qps := [(7, { en := true })] }), 1, 3, ?_⟩,
    ⟨hifS { vfEn := true, qps := [(7, { en := true, ien := true, vec := 63, intAt := some 5 })], msix := [(2, { en := true, unmasked := [(63, true)] })] },
      1, 3, ?_, ?_, ?_, ?_, (fun _ h => nomatch h), ?_, ?_, ?_⟩,
    ⟨atNow 1999 (hifS { vfEn := true, qps := [(7, { en := true, ien := true, vec := 63, intAt := some 5, msgAt := some 1000 })], msix := [(2, { unmasked := [(63, true)] })] }),
      1, 3, ?_⟩⟩ <;> decide +kernel

theorem met_HostWindowsAndFunctionsAnswer_1 :
    (∃ s : State, ∃ i ofs len : Nat, ∃ bar4 : Bool, ∃ data : List Byte, s.dead = false ∧ i < 16 ∧ data.length = len ∧
      s.winReach i ofs len bar4 = false) ∧
    (∃ s : State, ∃ i ofs len : Nat, ∃ bar4 : Bool, ∃ data : List Byte, s.dead = false ∧ i < 16 ∧ data.length = len ∧
      s.winReach i ofs len bar4 = true ∧ s.winCode i ofs len ≠ 0 ∧ s.winCode i ofs len ≠ 0x12) ∧
    (∃ s : State, ∃ i ofs len : Nat, ∃ bar4 : Bool, ∃ data : List Byte, ∃ tmo : Bool, s.dead = false ∧ i < 16 ∧
      data.length = len ∧ s.winReach i ofs len bar4 = true ∧ (s.winCode i ofs len = 0 ∨ s.winCode i ofs len = 0x12) ∧
      s.accLate i ofs len false tmo = true) ∧
    (∃ s : State, ∃ i ofs len : Nat, ∃ bar4 : Bool, ∃ data : List Byte, ∃ tmo : Bool, s.dead = false ∧ i < 16 ∧
      data.length = len ∧ s.winReach i ofs len bar4 = true ∧ (s.winCode i ofs len = 0 ∨ s.winCode i ofs len = 0x12) ∧
      s.accLate i ofs len true tmo = true) ∧
    (∃ s : State, ∃ i ofs len : Nat, ∃ bar4 : Bool, ∃ data : List Byte, ∃ tmo : Bool, s.dead = false ∧ i < 16 ∧
      data.length = len ∧ s.winReach i ofs len bar4 = true ∧ (s.winCode i ofs len = 0 ∨ s.winCode i ofs len = 0x12) ∧
      (s.winCode i ofs len = 0x12 ∨ tmo = true ∨ s.shareOk (s.winTier i) (s.winAddr i ofs) len 2 = false) ∧
      s.accLate i ofs len false tmo = false) ∧
    (∃ s : State, ∃ i ofs len : Nat, ∃ bar4 : Bool, ∃ data : List Byte, ∃ tmo : Bool, s.dead = false ∧ i < 16 ∧
      data.length = len ∧ s.winReach i ofs len bar4 = true ∧ (s.winCode i ofs len = 0 ∨ s.winCode i ofs len = 0x12) ∧
      (s.winCode i ofs len = 0x12 ∨ tmo = true ∨ s.shareOk (s.winTier i) (s.winAddr i ofs) len 2 = false) ∧
      s.accLate i ofs len true tmo = false) ∧
    (∃ s : State, ∃ i ofs len : Nat, ∃ bar4 : Bool, ∃ data : List Byte, ∃ tmo : Bool, ∃ errs : Errs,
      let u := accDone i ofs len false (s.finds errs);
      let r := readBlocks pHIF (u.access (s.winOwner i)) (s.winTier i) (fun _ => true) (mBlocks (s.winTier i) (len + 1) (s.winAddr i ofs) len) u;
      s.dead = false ∧ i < 16 ∧ data.length = len ∧ s.winReach i ofs len bar4 = true ∧ s.winCode i ofs len = 0 ∧ tmo = false ∧
      s.shareOk (s.winTier i) (s.winAddr i ofs) len 2 = true ∧ s.accLate i ofs len false false = false ∧ r.2.2.mem.wait = false) ∧
    (∃ s : State, ∃ i ofs len : Nat, ∃ bar4 : Bool, ∃ data : List Byte, ∃ pois tmo : Bool,
      let u := accDone i ofs len true (s.finds []);
      let r := writeBlocks pHIF (u.access (s.winOwner i)) (s.winTier i) (fun _ => true) (mBlocks (s.winTier i) (len + 1) (s.winAddr i ofs) len) (data.map (·, pois)) u;
      s.dead = false ∧ i < 16 ∧ data.length = len ∧ s.winReach i ofs len bar4 = true ∧ s.winCode i ofs len = 0 ∧ tmo = false ∧
      s.shareOk (s.winTier i) (s.winAddr i ofs) len 2 = true ∧ s.accLate i ofs len true false = false ∧ r.2.mem.wait = false) ∧
    (∃ s : State, ∃ fn : Nat, s.dead = false ∧ fn < 9) ∧
    (∃ s : State, ∃ a, s.dead = false ∧ s.f pHIF F.HIF_LINK_STS_UP = 1 ∧ a < 2 ^ 64) ∧
    (∃ s : State, s.dead = false ∧ s.hif.vfEn = true) ∧
    (∃ s : State, s.dead = false ∧ s.hif.vfEn = false) ∧
    (∃ s : State, ∃ perst : Bool, s.dead = false ∧ s.f pHIF F.HIF_LINK_STS_UP = 1 ∧ perst = true) ∧
    (∃ s : State, s.dead = false ∧ s.f pHIF F.HIF_LINK_STS_UP = 1 ∧ (∀ p, p < 8 → s.enabled p = false)) := by
  refine ⟨
    ⟨dev, 5, 64, 64, true, List.replicate 64 7, ?_⟩,
    ⟨winS, 5, 2097089, 64, true, List.replicate 64 7, ?_⟩,
    ⟨({ (atNow 1000 winS) with hif := { winS.hif with accs := [{ win := 5, ofs := 64, len := 64, write := false, iss := { since := 0, tmo := 1000 } }] } } : State),
      5, 64, 64, true, List.replicate 64 7, true, ?_⟩,
    ⟨({ (atNow 1000 winS) with hif := { winS.hif with accs := [{ win := 5, ofs := 64, len := 64, write := true, iss := { since := 0, tmo := 1000 } }] } } : State),
      5, 64, 64, true, List.replicate 64 7, true, ?_⟩,
    ⟨winS, 5, 64, 64, true, List.replicate 64 7, true, ?_⟩,
    ⟨winS, 5, 64, 64, true, List.replicate 64 7, true, ?_⟩,
    ⟨winS, 5, 64, 64, true, List.replicate 64 7, false, [], ?_⟩,
    ⟨winS, 5, 64, 64, true, List.replicate 64 7, false, false, ?_⟩,
    ⟨{ dev with hif := { atc := [(3, 9), (3, 10), (3, 11), (4, 10)] } }, 3, ?_⟩,
    ⟨(winS.setF pHIF F.HIF_LINK_STS_CXL 3 |>.setF pHIF F.HIF_LINK_STS_UP 1), 18446744073709551615, ?_⟩,
    ⟨{ dev with hif := { vfEn := true } }, ?_⟩,
    ⟨hifS {}, ?_⟩,
    ⟨(winS |>.setF pHIF F.HIF_LINK_STS_UP 1), true, ?_⟩,
    ⟨({ dev.setF pHIF F.HIF_LINK_STS_UP 1 with hif := { atc := [(3, 9)] } } |>.setF pHIF F.HIF_LINK_STS_UP 1), ?_⟩⟩ <;> decide +kernel

theorem met_HostWindowsAndFunctionsAnswer_2 :
    (∃ s : State, ∃ gen width cxl : Nat, s.dead = false ∧ s.f pHIF F.HIF_LINK_STS_UP = 0 ∧ s.pins.upReleased = true ∧ 4 ≤ gen ∧
      gen ≤ 6 ∧ (width = 4 ∨ width = 8 ∨ width = 16) ∧ cxl ≤ 3) ∧
    (∃ s : State, s.dead = false ∧ s.pins.upReleased = false) := by
  refine ⟨
    ⟨{ dev with pins := { dev.pins with upReleased := true } }, 6, 16, 3, ?_⟩,
    ⟨dev, ?_⟩⟩ <;> decide +kernel

theorem met_FarPortsAreBroughtUpAndLost_1 :
    (∃ s : State, ∃ i : Nat, s.dead = false ∧ i < 4 ∧ s.f (pFSC i) F.FSC_HP_POWER = 1 ∧ (s.fscSlot i).step = .off) ∧
    (∃ s : State, ∃ i : Nat, s.dead = false ∧ i < 4 ∧ (s.fscSlot i).step = .perst ∧
      (s.fscSlot i).since + (s.fscSlot i).wait ≤ s.nowOn (dieOfPage (pFSC i))) ∧
    (∃ s : State, ∃ i : Nat, s.dead = false ∧ i < 4 ∧ s.nowOn (dieOfPage (pFSC i)) < (s.fscSlot i).since + (s.fscSlot i).wait) ∧
    (∃ s : State, ∃ i : Nat, ∃ gen width cxl, s.dead = false ∧ i < 4 ∧ (s.fscSlot i).step = .train ∧ gen ≤ 2 ∧ (width = 1 ∨
      width = 2 ∨ width = 4 ∨ width = 8) ∧ cxl ≤ 3 ∧ s.nowOn (dieOfPage (pFSC i)) ≤ (s.fscSlot i).since + (s.fscSlot i).wait) ∧
    (∃ s : State, ∃ i : Nat, s.dead = false ∧ i < 4 ∧ (s.fscSlot i).step = .train ∧
      (s.fscSlot i).since + (s.fscSlot i).wait ≤ s.nowOn (dieOfPage (pFSC i))) ∧
    (∃ s : State, ∃ m i cap : Nat, s.dead = false ∧ okMaster m = true ∧ i < 4 ∧ s.reaches m (pFSC i) = true ∧
      s.mayWrite m (pFSC i) = true ∧ s.rstBusy (pFSC i) = false ∧ s.f (pFSC i) F.FSC_HP_POWER = 1 ∧
      s.f (pFSC i) F.FSC_STS_LINK_UP = 1 ∧ s.f (pFSC i) F.FSC_STS_CXL ≠ 0 ∧ s.farWithin i (min cap 512) = true) ∧
    (∃ s : State, ∃ m i cap : Nat, s.dead = false ∧ okMaster m = true ∧ i < 4 ∧ s.reaches m (pFSC i) = true ∧
      s.mayWrite m (pFSC i) = true ∧ s.rstBusy (pFSC i) = false ∧ (s.f (pFSC i) F.FSC_STS_LINK_UP = 0 ∨
      s.f (pFSC i) F.FSC_STS_CXL = 0 ∨ s.farWithin i (min cap 512) = false)) ∧
    (∃ s : State, ∃ m i : Nat, s.dead = false ∧ okMaster m = true ∧ i < 4 ∧ s.reaches m (pFSC i) = true ∧
      s.mayWrite m (pFSC i) = true ∧ s.rstBusy (pFSC i) = false ∧ s.f (pFSC i) F.FSC_HP_POWER = 1 ∧
      s.f (pFSC i) F.FSC_HP_STS_DRAINED = 0 ∧ s.f (pFSC i) F.FSC_HP_STS_LOST = 0) ∧
    (∃ s : State, ∃ m i : Nat, s.dead = false ∧ okMaster m = true ∧ i < 4 ∧ s.reaches m (pFSC i) = true ∧
      s.mayWrite m (pFSC i) = true ∧ s.rstBusy (pFSC i) = false ∧ s.f (pFSC i) F.FSC_HP_POWER = 1 ∧
      (s.f (pFSC i) F.FSC_HP_STS_DRAINED = 1 ∨ s.f (pFSC i) F.FSC_HP_STS_LOST = 1)) ∧
    (∃ s : State, ∃ m i : Nat, s.dead = false ∧ okMaster m = true ∧ i < 4 ∧ s.reaches m (pFSC i) = true ∧
      s.mayWrite m (pFSC i) = true ∧ s.rstBusy (pFSC i) = false ∧ s.f (pFSC i) F.FSC_HP_POWER = 0 ∧
      s.f (pFSC i) F.FSC_STS_PRESENT = 1 ∧ (s.fscSlot i).step = .off) ∧
    (∃ s : State, ∃ i : Nat, s.dead = false ∧ i < 4 ∧ (s.fscSlot i).draining = true ∧ s.askers (pFSC i) = []) ∧
    (∃ s : State, ∃ i : Nat, s.dead = false ∧ i < 4 ∧ ((s.fscSlot i).draining = false ∨ s.askers (pFSC i) ≠ [])) ∧
    (∃ s : State, ∃ i : Nat, ∃ gone, s.dead = false ∧ i < 4 ∧ s.f (pFSC i) F.FSC_HP_STS_READY = 1 ∧ s.askers (pFSC i) = [] ∧
      gone = true) ∧
    (∃ s : State, ∃ i : Nat, ∃ c h, s.dead = false ∧ i < 4 ∧ s.f (pFSC i) F.FSC_HP_STS_READY = 1 ∧ s.askers (pFSC i) = [c] ∧
      (s.core c).op = some h ∧ (s.slot h.part h.slot).st = .running ∧ (s.slot h.part h.slot).heldRel = false ∧
      (s.slot h.part h.slot).frel = false ∧ (s.flow h.part (s.slot h.part h.slot).flow).ordered = false ∧
      (s.slot h.part h.slot).exec = some (.core c)) := by
  refine ⟨
    ⟨(dev |>.setF (pFSC 3) F.FSC_HP_POWER 1), 3, ?_⟩,
    ⟨({ atNow 15 dev with fsc := [(3, { step := .perst, since := 5, wait := 10 })] } : State), 3, ?_⟩,
    ⟨({ atNow 14 dev with fsc := [(3, { step := .perst, since := 5, wait := 10 })] } : State), 3, ?_⟩,
    ⟨({ dev with fsc := [(3, { step := .train })] } : State), 3, 2, 8, 3, ?_⟩,
    ⟨({ atNow 15 dev with fsc := [(3, { step := .train, since := 5, wait := 10 })] } : State), 3, ?_⟩,
    ⟨(own 14 (pFSC 3) (unit resFar 2047 1 (storeBytes 1 (memKey 3 (2 ^ 41 * 3)) [1,
      2] (dev.setF (pFSC 3) F.FSC_STS_CXL 3))) |>.setF (pFSC 3) F.FSC_HP_POWER 1 |>.setF (pFSC 3) F.FSC_STS_LINK_UP 1), 14, 3,
      600, ?_⟩,
    ⟨own 14 (pFSC 3) dev, 14, 3, 600, ?_⟩,
    ⟨(own 14 (pFSC 3) dev |>.setF (pFSC 3) F.FSC_HP_POWER 1), 14, 3, ?_⟩,
    ⟨(own 14 (pFSC 3) ({ dev with fsc := [(3, { step := .up })] } : State) |>.setF (pFSC 3) F.FSC_HP_POWER 1 |>.setF (pFSC 3) F.FSC_HP_STS_DRAINED 1),
      14, 3, ?_⟩,
    ⟨(own 14 (pFSC 3) dev |>.setF (pFSC 3) F.FSC_HP_POWER 0 |>.setF (pFSC 3) F.FSC_STS_PRESENT 1), 14, 3, ?_⟩,
    ⟨({ dev with fsc := [(3, { step := .up, draining := true })] } : State), 3, ?_⟩,
    ⟨({ dev with fsc := [(3, { step := .up })] } : State), 3, ?_⟩,
    ⟨dev.setF (pFSC 3) F.FSC_HP_STS_READY 1, 3, true, ?_⟩,
    ⟨(((withOp { st := .running, exec := some (.core 0) } (coreS { op := some { part := 1, slot := 5, opid := 9 } })).setTq 0 0 { reqs := [{ id := 4, tier := 3, addr := 0x20, len := 32, pos := 3, slot := 1 }] }).setF (pFSC 0) F.FSC_HP_STS_READY 1),
      0, 0, { part := 1, slot := 5, opid := 9 }, ?_⟩⟩ <;> decide +kernel

theorem met_FarPortsAreBroughtUpAndLost_2 :
    (∃ s : State, ∃ i : Nat, ∃ gone, s.dead = false ∧ i < 4 ∧ s.f (pFSC i) F.FSC_HP_STS_READY = 0 ∧ gone = true) ∧
    (∃ s : State, ∃ i : Nat, s.dead = false ∧ i < 4 ∧ s.f (pFSC i) F.FSC_HP_STS_READY ≠ 0) := by
  refine ⟨
    ⟨dev, 3, true, ?_⟩,
    ⟨dev.setF (pFSC 3) F.FSC_HP_STS_READY 1, 3, ?_⟩⟩ <;> decide +kernel

theorem met_PowerFollowsItsLoops :
    (∃ s : State, ∃ die pkg : Nat, ∃ tj : Option Int, ∃ hbm : Int, s.dead = false ∧ die < 2 ∧ s.pwr.started = true ∧
      SMap.get s.pwr.next die 0 ≤ s.nowOn die ∧ bit s.pwr.avsErr die = false ∧
      s.f pPWR F.PWR_VLIM_VMIN ≤ s.f pPWR F.PWR_VLIM_VMAX ∧ ((∀ x, tj = some x → (s.f pPWR F.PWR_TLIM_THROT : Int) < x) ∨
      95 < hbm ∨ s.pins.hotIn = true ∨ (s.f pPWR F.PWR_CAP_EN = 1 ∧ s.f pPWR F.PWR_CAP_W ≤ pkg))) ∧
    (∃ s : State, ∃ die : Nat, ∃ c hbm : Int, s.dead = false ∧ die < 2 ∧ s.pwr.started = true ∧
      SMap.get s.pwr.next die 0 ≤ s.nowOn die ∧ bit s.pwr.avsErr die = false ∧ c ≤ (s.f pPWR F.PWR_TLIM_THROT : Int) ∧
      hbm ≤ 95 ∧ s.pins.hotIn = false ∧ s.f pPWR F.PWR_CAP_EN = 0 ∧ s.f pPWR F.PWR_MODE_MODE = 0) ∧
    (∃ s : State, ∃ die : Nat, ∃ c hbm : Int, s.dead = false ∧ die < 2 ∧ s.pwr.started = true ∧
      SMap.get s.pwr.next die 0 ≤ s.nowOn die ∧ bit s.pwr.avsErr die = false ∧ c ≤ (s.f pPWR F.PWR_TLIM_THROT : Int) ∧
      hbm ≤ 95 ∧ s.pins.hotIn = false ∧ s.f pPWR F.PWR_CAP_EN = 0 ∧ s.f pPWR F.PWR_MODE_MODE ≠ 0) ∧
    (∃ s : State, ∃ die : Nat, ∃ tj : Option Int, ∃ hbm : Int, s.dead = false ∧ die < 2 ∧ s.pwr.started = true ∧
      SMap.get s.pwr.next die 0 ≤ s.nowOn die ∧ tripsAt tj hbm = true) ∧
    (∃ s : State, ∃ die : Nat, s.dead = false ∧ die < 2 ∧ (s.pwr.started = false ∨ s.nowOn die < SMap.get s.pwr.next die 0)) ∧
    (∃ s : State, s.pins.held = false ∧ s.pins.tripped = false) := by
  refine ⟨
    ⟨({ dev with pwr := { started := true } } : State) |>.setF pPWR F.PWR_VLIM_VMIN 600 |>.setF pPWR F.PWR_VLIM_VMAX 900, 1, 0,
      none, 96, ?_, ?_, ?_, ?_, ?_, ?_, .inr (.inl (?_))⟩,
    ⟨({ dev with pwr := { started := true } } : State) |>.setF pPWR F.PWR_VLIM_VMIN 600 |>.setF pPWR F.PWR_VLIM_VMAX 900 |>.setF pPWR F.PWR_TLIM_THROT 95 |>.setF pPWR F.PWR_LOOP_STEP 5 |>.setF pPWR F.PWR_LOOP_US 100 |>.setF pPWR F.PWR_VSET_MV 750 |>.setF pPWR F.PWR_CAP_EN 0 |>.setF pPWR F.PWR_MODE_MODE 0,
      1, 95, 95, ?_⟩,
    ⟨({ dev with pwr := { started := true } } : State) |>.setF pPWR F.PWR_TLIM_THROT 95 |>.setF pPWR F.PWR_CAP_EN 0 |>.setF pPWR F.PWR_MODE_MODE 1,
      1, 95, 95, ?_⟩,
    ⟨({ dev with pwr := { started := true } } : State), 1, none, 105, ?_⟩,
    ⟨({ atNow 999 dev with pwr := { started := true, next := [(1, 1000)] } } : State), 1, ?_⟩,
    ⟨dev, ?_⟩⟩ <;> decide +kernel

theorem met_BootAndResetRunTheirSteps_1 :
    (∃ s : State, s.pins.held = true ∧ s.pins.tripped = false ∧ s.life ≠ 4) ∧
    (∃ s : State, s.pins.held = true ∧ s.pins.tripped = false ∧ s.life = 4) ∧
    (∃ s : State, s.pins.held = false) ∧
    (∃ s : State, s.dead = false ∧ s.stage = 2 ∧ s.f pFW F.FW_STS_RECOVERY = 0 ∧ s.fwSlot ≤ 1 ∧ s.svn ≤ (s.fwImg s.fwSlot).svn) ∧
    (∃ s : State, s.dead = false ∧ s.stage = 2 ∧ s.f pFW F.FW_STS_RECOVERY = 0 ∧ s.fwSlot ≤ 1 ∧
      s.svn ≤ (s.fwImg (1 - s.fwSlot)).svn) ∧
    (∃ s : State, s.dead = false ∧ s.stage ≠ 2) ∧
    (∃ s : State, s.dead = false ∧ s.stage = 4 ∧ s.upMods = [] ∧ s.mgt.warm = false) ∧
    (∃ s : State, s.dead = false ∧ s.stage ≠ 4) ∧
    (∃ s : State, ∃ pg : Nat, s.dead = false ∧ pg < 16384 ∧ s.stage = 7 ∧ pg ∈ memPages ∧ s.memOk pg = false ∧
      s.fenced pg = false ∧ (∀ j ∈ memPages, j ≠ pg → (s.memOk j || s.fenced j) = true) ∧ pg < pgOf .msc 0) ∧
    (∃ s : State, ∃ pg rate : Nat, s.dead = false ∧ pg < 16384 ∧ s.stage = 7 ∧ pg ∈ memPages ∧ s.memOk pg = false ∧
      s.fenced pg = false ∧ (∀ j ∈ memPages, j ≠ pg → (s.memOk j || s.fenced j) = true) ∧ pgOf .msc 0 ≤ pg ∧ (rate = 92 ∨
      rate = 80 ∨ rate = 64)) ∧
    (∃ s : State, ∃ pg : Nat, s.dead = false ∧ pg < 16384 ∧ s.stage = 7 ∧ pg ∈ memPages ∧ s.memOk pg = false ∧
      s.fenced pg = false ∧ (∀ j ∈ memPages, j ≠ pg → (s.memOk j || s.fenced j) = true) ∧ s.askers pg = []) ∧
    (∃ s : State, s.dead = false ∧ s.stage ≠ 7) ∧
    (∃ s : State, ∃ gen width cxl : Nat, s.dead = false ∧ s.stage = 11 ∧ s.pins.perstN = true ∧ s.f pHIF F.HIF_LINK_STS_UP = 0 ∧
      4 ≤ gen ∧ gen ≤ 6 ∧ (width = 4 ∨ width = 8 ∨ width = 16) ∧ cxl ≤ 3) ∧
    (∃ s : State, s.dead = false ∧ s.stage ≠ 11) := by
  refine ⟨
    ⟨{ State.reset with nv := nvD }, ?_⟩,
    ⟨{ State.reset with nv := { nvD with life := some 4 } }, ?_⟩,
    ⟨dev, ?_⟩,
    ⟨atStage 2, ?_⟩,
    ⟨atStage 2, ?_⟩,
    ⟨atStage 3, ?_⟩,
    ⟨atStage 4, ?_⟩,
    ⟨atStage 5, ?_⟩,
    ⟨memS (pgOf .nsc 127), pgOf .nsc 127, ?_⟩,
    ⟨memS (pgOf .msc 0), pgOf .msc 0, 64, ?_⟩,
    ⟨memS (pgOf .nsc 0), pgOf .nsc 0, ?_⟩,
    ⟨atStage 6, ?_⟩,
    ⟨({ atStage 11 with pins := { dev.pins with perstN := true } } : State), 6, 16, 3, ?_⟩,
    ⟨atStage 10, ?_⟩⟩ <;> decide +kernel

theorem met_BootAndResetRunTheirSteps_2 :
    (∃ s : State, ∃ m : Nat, s.dead = false ∧ okMaster m = true ∧ s.reaches m pFW = true ∧ s.mayWrite m pFW = true ∧
      s.rstBusy pFW = false ∧ s.f pFW F.FW_STS_ACTIVATING = 1) ∧
    (∃ s : State, ∃ m : Nat, s.dead = false ∧ okMaster m = true ∧ s.reaches m pFW = true ∧ s.mayWrite m pFW = true ∧
      s.rstBusy pFW = false ∧ s.f pFW F.FW_STS_ACTIVATING = 0 ∧ s.svnLocksOut = false) ∧
    (∃ s : State, ∃ m : Nat, s.dead = false ∧ okMaster m = true ∧ s.reaches m pFW = true ∧ s.mayWrite m pFW = true ∧
      s.rstBusy pFW = false ∧ s.svnLocksOut = true) := by
  refine ⟨
    ⟨(own 14 pFW (atStage 11) |>.setF pFW F.FW_STS_ACTIVATING 1), 14, ?_⟩,
    ⟨own 14 pFW (atStage 11), 14, ?_⟩,
    ⟨own 14 pFW { dev with nv := { nvD with images := [(0, some ⟨true, 7, 1⟩), (1, some ⟨true, 6, 2⟩)] } }, 14, ?_⟩⟩ <;> decide +kernel

theorem met_ManagementUpdatesAndWatches_1 :
    (∃ s : State, ∃ pcie : Bool, ∃ comp, s.dead = false ∧ s.serves pcie = true ∧ s.fwSlot ≤ 1 ∧ s.mgt.updating = false ∧
      s.mgt.act = none ∧ comp ≠ 1) ∧
    (∃ s : State, ∃ pcie : Bool, s.dead = false ∧ s.serves pcie = true ∧ s.fwSlot ≤ 1 ∧ s.mgt.updating = true) ∧
    (∃ s : State, ∃ pcie : Bool, s.dead = false ∧ s.serves pcie = true ∧ s.fwSlot ≤ 1 ∧ s.mgt.updating = false ∧
      s.mgt.act.isSome = true) ∧
    (∃ s : State, ∃ pcie : Bool, s.dead = false ∧ s.serves pcie = true ∧ s.fwSlot ≤ 1 ∧ s.mgt.updating = false ∧
      s.mgt.act = none ∧ (s.fwImg (1 - s.fwSlot)).valid = false) ∧
    (∃ s : State, ∃ pcie : Bool, s.dead = false ∧ s.serves pcie = true ∧ s.fwSlot ≤ 1 ∧ s.mgt.updating = false ∧
      s.mgt.act = none ∧ (s.fwImg (1 - s.fwSlot)).valid = true ∧ s.failed = false) ∧
    (∃ s : State, ∃ sig : Bool, ∃ svn build : Nat, s.dead = false ∧ s.fwSlot ≤ 1 ∧ svn < 64 ∧ build < 2 ^ 24 ∧
      s.mgt.updating = true ∧ (sig && decide (s.svn ≤ svn)) = false) ∧
    (∃ s : State, ∃ svn build : Nat, s.dead = false ∧ s.fwSlot ≤ 1 ∧ svn < 64 ∧ build < 2 ^ 24 ∧ s.mgt.updating = false) ∧
    (∃ s : State, ∃ a : FwAct, s.dead = false ∧ s.mgt.act = some a ∧ a.back = false ∧ s.recovery = false ∧
      s.now ≤ a.since + s.actTmo ∧ a.prev < 16 ∧ s.failed = false) ∧
    (∃ s : State, ∃ a : FwAct, s.dead = false ∧ s.mgt.act = some a ∧ a.back = false ∧ s.recovery = false ∧
      a.since + s.actTmo ≤ s.now ∧ s.fwSlot ≤ 1) ∧
    (∃ s : State, ∃ a : FwAct, s.dead = false ∧ s.mgt.act = some a ∧ a.back = false ∧ s.recovery = false ∧
      s.now < a.since + s.actTmo) ∧
    (∃ s : State, s.dead = false ∧ s.mgt.act = none ∧ s.f pMGT F.MGT_STS_RUN = 0 ∧ 3 ≤ s.stage) ∧
    (∃ s : State, ∃ m : Nat, s.dead = false ∧ okMaster m = true ∧ s.reaches m pMGT = true ∧ s.mayWrite m pMGT = true ∧
      s.rstBusy pMGT = false ∧ 10 ≤ s.f pMGT F.MGT_WDT_MS ∧ s.f pMGT F.MGT_WDT_MS ≤ 60000) ∧
    (∃ s : State, s.dead = false ∧ s.f pMGT F.MGT_WDT_EN = 1 ∧ 3 ≤ s.stage ∧
      s.mgt.kickAt + s.f pMGT F.MGT_WDT_MS * 1000000 ≤ s.now) ∧
    (∃ s : State, s.dead = false ∧ (s.f pMGT F.MGT_WDT_EN = 0 ∨ s.now < s.mgt.kickAt + s.f pMGT F.MGT_WDT_MS * 1000000)) := by
  refine ⟨
    ⟨mgtS, false, 0, ?_⟩,
    ⟨mgtS { updating := true }, false, ?_⟩,
    ⟨atNow 1000100 ((mgtS { act := some ({ since := 100, prev := 2 } : FwAct) }).setF pFW F.FW_ACT_TMO_MS 1), false, ?_⟩,
    ⟨{ mgtS with nv := { nvD with images := [(0, some ⟨true, 5, 1⟩), (1, some ⟨false, 6, 2⟩)] } }, false, ?_⟩,
    ⟨mgtS, false, ?_⟩,
    ⟨mgtS { updating := true }, false, 2, 2 ^ 24 - 1, ?_⟩,
    ⟨mgtS, 63, 0, ?_⟩,
    ⟨atNow 1000100 ((mgtS { act := some ({ since := 100, prev := 2 } : FwAct) }).setF pFW F.FW_ACT_TMO_MS 1),
      ({ since := 100, prev := 2 } : FwAct), ?_⟩,
    ⟨atNow 1000100 ((mgtS { act := some ({ since := 100, prev := 2 } : FwAct) }).setF pFW F.FW_ACT_TMO_MS 1),
      ({ since := 100, prev := 2 } : FwAct), ?_⟩,
    ⟨atNow 1000099 ((mgtS { act := some ({ since := 100, prev := 2 } : FwAct) }).setF pFW F.FW_ACT_TMO_MS 1),
      ({ since := 100, prev := 2 } : FwAct), ?_⟩,
    ⟨atNow 77 (atStage 3), ?_⟩,
    ⟨own 14 pMGT mgtS |>.setF pMGT F.MGT_WDT_MS 10, 14, ?_⟩,
    ⟨(atNow 10000000 mgtS |>.setF pMGT F.MGT_WDT_MS 10 |>.setF pMGT F.MGT_WDT_EN 1), ?_⟩,
    ⟨atNow 9999999 mgtS |>.setF pMGT F.MGT_WDT_MS 10 |>.setF pMGT F.MGT_WDT_EN 1, ?_⟩⟩ <;> decide +kernel

theorem met_ManagementUpdatesAndWatches_2 :
    (∃ s : State, ∃ addr : Nat, s.dead = false ∧ addr < 128 ∧ 3 ≤ s.stage ∧ s.f pMGT F.MGT_BUS_SMBUS = 0) := by
  refine
    ⟨mgtS, 127, ?_⟩ <;> decide +kernel

theorem met_TheEndpointAnswersRequests :
    (∃ s : State, ∃ pcie : Bool, ∃ cmd, s.dead = false ∧ s.serves pcie = true ∧ cmd < 256) ∧
    (∃ s : State, ∃ pcie : Bool, ∃ eid, s.dead = false ∧ s.serves pcie = true ∧ eid ≠ 0 ∧ eid < 0xFF) ∧
    (∃ s : State, ∃ pcie : Bool, ∃ n, ∃ size v, s.dead = false ∧ s.serves pcie = true ∧ s.recovery = false ∧
      s.updating = false ∧ s.sensor n = some (size, v)) ∧
    (∃ s : State, ∃ pcie : Bool, ∃ n, s.dead = false ∧ s.serves pcie = true ∧ s.recovery = false ∧ s.updating = false ∧
      s.sensor n = none) ∧
    (∃ s : State, ∃ pcie : Bool, s.dead = false ∧ s.serves pcie = true ∧ s.recovery = false ∧ s.updating = true) ∧
    (∃ s : State, ∃ pcie : Bool, ∃ lf auth, s.dead = false ∧ s.serves pcie = true ∧ s.recovery = false ∧
      s.f pMGT F.MGT_STS_RUN = 1 ∧ lifeStep s.life lf = true ∧ (lf = 2 ∨ auth = true)) ∧
    (∃ s : State, ∃ pcie : Bool, ∃ lf auth, s.dead = false ∧ s.serves pcie = true ∧ s.recovery = false ∧
      s.f pMGT F.MGT_STS_RUN = 1 ∧ (lifeStep s.life lf = false ∨ (lf ≠ 2 ∧ auth = false))) ∧
    (∃ s : State, ∃ pcie : Bool, s.dead = false ∧ s.serves pcie = false) := by
  refine ⟨
    ⟨mgtS, false, 255, ?_⟩,
    ⟨mgtS, false, 0xFE, ?_⟩,
    ⟨mgtS, false, 8, 0, mgtS.glbState, ?_⟩,
    ⟨mgtS, false, 9, ?_⟩,
    ⟨mgtS.setF pGLB F.GLB_STATE_STATE 4, false, ?_⟩,
    ⟨(mgtS |>.setF pMGT F.MGT_STS_RUN 1), false, 3, true, ?_⟩,
    ⟨(mgtS |>.setF pMGT F.MGT_STS_RUN 1), false, 3, false, ?_⟩,
    ⟨atStage 2, false, ?_⟩⟩ <;> decide +kernel

theorem met_SpdmNegotiatesMeasuresAndKeepsSessions :
    (∃ s : State, ∃ pcie : Bool, s.dead = false ∧ s.serves pcie = true ∧ s.recovery = false ∧ s.updating = false ∧
      1 ≤ s.mgt.spdm) ∧
    (∃ s : State, ∃ pcie : Bool, s.dead = false ∧ s.serves pcie = true ∧ s.recovery = false ∧ s.updating = false ∧
      2 ≤ s.mgt.spdm) ∧
    (∃ s : State, ∃ pcie : Bool, s.dead = false ∧ s.serves pcie = true ∧ s.recovery = false ∧ s.updating = false ∧
      s.mgt.spdm < 1) ∧
    (∃ s : State, ∃ pcie : Bool, s.dead = false ∧ s.serves pcie = true ∧ s.recovery = false ∧ s.updating = false ∧
      s.mgt.spdm < 3) ∧
    (∃ s : State, ∃ pcie : Bool, ∃ slot, s.dead = false ∧ s.serves pcie = true ∧ s.recovery = false ∧ s.updating = false ∧
      3 ≤ s.mgt.spdm ∧ s.deviceKey = true ∧ slot ≠ 0) ∧
    (∃ s : State, ∃ pcie : Bool, ∃ op, s.dead = false ∧ s.serves pcie = true ∧ s.recovery = false ∧ s.updating = false ∧
      3 ≤ s.mgt.spdm ∧ 1 ≤ op ∧ op ≤ 6) ∧
    (∃ s : State, ∃ pcie : Bool, ∃ op, s.dead = false ∧ s.serves pcie = true ∧ s.recovery = false ∧ s.updating = false ∧
      3 ≤ s.mgt.spdm ∧ 6 < op ∧ op ≠ 0xFF) ∧
    (∃ s : State, ∃ pcie : Bool, ∃ id x op, s.dead = false ∧ s.serves pcie = true ∧ s.recovery = false ∧ s.updating = false ∧
      3 ≤ s.mgt.spdm ∧ s.mgt.sessions.find? (fun y => y.id == id && y.open_ == op) = some x ∧ op = false) ∧
    (∃ s : State, ∃ pcie : Bool, ∃ id x op, s.dead = false ∧ s.serves pcie = true ∧ s.recovery = false ∧ s.updating = false ∧
      3 ≤ s.mgt.spdm ∧ s.mgt.sessions.find? (fun y => y.id == id && y.open_ == op) = some x ∧ op = true) ∧
    (∃ s : State, ∃ pcie : Bool, ∃ id op, s.dead = false ∧ s.serves pcie = true ∧ s.recovery = false ∧ s.updating = false ∧
      3 ≤ s.mgt.spdm ∧ s.mgt.sessions.find? (fun y => y.id == id && y.open_ == op) = none ∧ op = false) ∧
    (∃ s : State, ∃ pcie : Bool, ∃ id op, s.dead = false ∧ s.serves pcie = true ∧ s.recovery = false ∧ s.updating = false ∧
      3 ≤ s.mgt.spdm ∧ s.mgt.sessions.find? (fun y => y.id == id && y.open_ == op) = none ∧ op = true) ∧
    (∃ s : State, ∃ pcie : Bool, s.dead = false ∧ s.serves pcie = true ∧ s.recovery = false ∧ s.updating = true) := by
  refine ⟨
    ⟨mgtS { spdm := 1 }, false, ?_⟩,
    ⟨mgtS { spdm := 2 }, false, ?_⟩,
    ⟨mgtS {}, false, ?_⟩,
    ⟨mgtS { spdm := 2 }, false, ?_⟩,
    ⟨(mgtS { spdm := 3 }).setF pSEC F.SEC_STS_READY 1, false, 1, ?_⟩,
    ⟨mgtS { spdm := 3 }, false, 6, ?_⟩,
    ⟨mgtS { spdm := 3 }, false, 7, ?_⟩,
    ⟨mgtS { spdm := 3, sessions := [({ id := 4, open_ := false } : SpdmSession)] }, false, 4,
      ({ id := 4, open_ := false } : SpdmSession), 6, ?_⟩,
    ⟨mgtS { spdm := 3, sessions := [({ id := 4, open_ := true } : SpdmSession)] }, false, 4,
      ({ id := 4, open_ := true } : SpdmSession), true, ?_⟩,
    ⟨mgtS { spdm := 3 }, false, 4, 6, ?_⟩,
    ⟨mgtS { spdm := 3 }, false, 4, true, ?_⟩,
    ⟨(mgtS { spdm := 3 }).setF pGLB F.GLB_STATE_STATE 4, false, ?_⟩⟩ <;> decide +kernel

theorem met_DebugNeedsConsent :
    (∃ s : State, ∃ m p : Nat, s.dead = false ∧ okMaster m = true ∧ p < 8 ∧ s.reaches m pDBG = true ∧ s.mayWrite m pDBG = true ∧
      s.rstBusy pDBG = false ∧ s.enabled p = true ∧ s.debugConsent p = true ∧ s.inDebug p = false) ∧
    (∃ s : State, ∃ m p : Nat, s.dead = false ∧ okMaster m = true ∧ p < 8 ∧ s.reaches m pDBG = true ∧ s.mayWrite m pDBG = true ∧
      s.rstBusy pDBG = false ∧ s.debugConsent p = false ∧ s.f pFW F.FW_STS_LIFE ≠ 1) ∧
    (∃ s : State, ∃ m k p v : Nat, s.dead = false ∧ okMaster m = true ∧ k < 48 ∧ v < 4 ∧ s.reaches m (pCLU k) = true ∧
      s.mayWrite m (pCLU k) = true ∧ s.rstBusy (pCLU k) = false ∧ s.holderOf resClu k = some p ∧ p < 8 ∧ v % 2 = 0) ∧
    (∃ s : State, ∃ m k p v : Nat, s.dead = false ∧ okMaster m = true ∧ k < 48 ∧ v < 4 ∧ s.reaches m (pCLU k) = true ∧
      s.mayWrite m (pCLU k) = true ∧ s.rstBusy (pCLU k) = false ∧ s.holderOf resClu k = some p ∧ p < 8 ∧ v % 2 = 1) ∧
    (∃ s : State, ∃ m p : Nat, s.dead = false ∧ okMaster m = true ∧ s.reaches m pDBG = true ∧ s.mayWrite m pDBG = true ∧
      s.rstBusy pDBG = false ∧ s.f pDBG F.DBG_RD_STS_BUSY = 0 ∧ s.f pDBG F.DBG_RD_ADDR_OFS % 8 = 0 ∧
      s.f pDBG F.DBG_RD_ADDR_OFS + 8 ≤ dbgSize (s.f pDBG F.DBG_RD_SEL_RES) ∧
      s.f pDBG F.DBG_RD_SEL_UNIT < dbgUnits (s.f pDBG F.DBG_RD_SEL_RES) ∧
      s.dbgHolder (s.f pDBG F.DBG_RD_SEL_RES) (s.f pDBG F.DBG_RD_SEL_UNIT) (s.f pDBG F.DBG_RD_SEL_ENGINE) = some p ∧
      s.inDebug p = false) ∧
    (∃ s : State, ∃ m p : Nat, s.dead = false ∧ okMaster m = true ∧ s.reaches m pDBG = true ∧ s.mayWrite m pDBG = true ∧
      s.rstBusy pDBG = false ∧ s.f pDBG F.DBG_RD_STS_BUSY = 0 ∧ s.f pDBG F.DBG_RD_ADDR_OFS % 8 = 0 ∧
      s.f pDBG F.DBG_RD_ADDR_OFS + 8 ≤ dbgSize (s.f pDBG F.DBG_RD_SEL_RES) ∧
      s.f pDBG F.DBG_RD_SEL_UNIT < dbgUnits (s.f pDBG F.DBG_RD_SEL_RES) ∧
      s.dbgHolder (s.f pDBG F.DBG_RD_SEL_RES) (s.f pDBG F.DBG_RD_SEL_UNIT) (s.f pDBG F.DBG_RD_SEL_ENGINE) = some p ∧
      s.inDebug p = true ∧ s.f pDBG F.DBG_RD_SEL_RES = 5) ∧
    (∃ s : State, ∃ m v n : Nat, s.dead = false ∧ okMaster m = true ∧ s.reaches m pDBG = true ∧ s.mayWrite m pDBG = true ∧
      s.rstBusy pDBG = false ∧ v = 2 ^ 31 + n * 2 ^ 16 ∧ 8 ≤ n ∧ n ≤ 24 ∧ s.f pDBG F.DBG_TRC_CTL_EN = 0 ∧ s.trcOwned n = true) ∧
    (∃ s : State, ∃ m v n : Nat, s.dead = false ∧ okMaster m = true ∧ s.reaches m pDBG = true ∧ s.mayWrite m pDBG = true ∧
      s.rstBusy pDBG = false ∧ v = 2 ^ 31 + n * 2 ^ 16 ∧ 8 ≤ n ∧ n ≤ 24 ∧ s.f pDBG F.DBG_TRC_CTL_EN = 0 ∧ s.trcOwned n = false) ∧
    (∃ s : State, ∃ m v n : Nat, s.dead = false ∧ okMaster m = true ∧ s.reaches m pDBG = true ∧ s.mayWrite m pDBG = true ∧
      s.rstBusy pDBG = false ∧ v = 2 ^ 31 + n * 2 ^ 16 ∧ 8 ≤ n ∧ n ≤ 24 ∧ s.f pDBG F.DBG_TRC_CTL_EN = 1 ∧
      s.w pDBG R.DBG_TRC_CTL ≠ v ∧ s.w pDBG R.DBG_TRC_CTL ≠ v + 2 ^ 31) ∧
    (∃ s : State, ∃ m v n : Nat, s.dead = false ∧ okMaster m = true ∧ s.reaches m pDBG = true ∧ s.mayWrite m pDBG = true ∧
      s.rstBusy pDBG = false ∧ v = 2 ^ 31 + n * 2 ^ 16 ∧ 8 ≤ n ∧ n ≤ 24 ∧ s.w pDBG R.DBG_TRC_CTL = v) := by
  refine ⟨
    ⟨own 14 pDBG devP |>.setF (pCLU 0) F.CLU_DBG_DEBUG 1, 14, 1, ?_⟩,
    ⟨own 14 pDBG devP, 14, 1, ?_⟩,
    ⟨own 14 (pCLU 0) devP |>.setW pDBG R.DBG_STS 3, 14, 0, 1, 2, ?_⟩,
    ⟨own 14 (pCLU 0) devP |>.setW pDBG R.DBG_STS 3, 14, 0, 1, 1, ?_⟩,
    ⟨own 14 pDBG devP |>.setF pDBG F.DBG_RD_SEL_RES 5 |>.setF pDBG F.DBG_RD_ADDR_OFS (8 * 2 ^ 20 - 8), 14, 1, ?_⟩,
    ⟨(own 14 pDBG devP |>.setF pDBG F.DBG_RD_SEL_RES 5 |>.setF pDBG F.DBG_RD_ADDR_OFS (8 * 2 ^ 20 - 8) |>.setW pDBG R.DBG_STS 2 |>.setF pDBG F.DBG_RD_SEL_RES 5),
      14, 1, ?_⟩,
    ⟨own 14 pDBG (unit resNear 0 oTormal dev) |>.setF pDBG F.DBG_TRC_LO_TIER 1, 14, 2 ^ 31 + 8 * 2 ^ 16, 8, ?_⟩,
    ⟨own 14 pDBG devP, 14, 2 ^ 31 + 24 * 2 ^ 16, 24, ?_⟩,
    ⟨(own 14 pDBG devP |>.setF pDBG F.DBG_TRC_CTL_EN 1), 14, 2 ^ 31 + 24 * 2 ^ 16, 24, ?_⟩,
    ⟨(own 14 pDBG devP |>.setW pDBG R.DBG_TRC_CTL (2 ^ 31 + 24 * 2 ^ 16)), 14, 2 ^ 31 + 24 * 2 ^ 16, 24, ?_⟩⟩ <;> decide +kernel

end Sys2Proof.Tests
end

