-- ==== Sys2Proof/Proofs/Happening.lean ====
section
/-! PROOF.  What the frame of every meaning adds to its effect: the event edges change PG_EVT_PEND of the pages
named and the records waiting, and the model's note of the command in progress is cleared. -/

namespace Sys2Proof.Machine

variable {ks : List Nat} {s t u : State}

/-- The PG_EVT_PEND registers of pages. -/
def pendRegs (pgs : List Nat) : List Nat := pgs.map fun pg => pg * 4096 + R.PG_EVT_PEND

theorem not_mem_pendRegs {pgs : List Nat} {k : Nat} (h : k % 4096 ≠ R.PG_EVT_PEND) : k ∉ pendRegs pgs := by
  intro hm
  obtain ⟨pg, -, rfl⟩ := List.mem_map.1 hm
  simp only [R.PG_EVT_PEND] at h
  omega

theorem OnlyRegsEv.trans {js : List Nat} (h : OnlyRegsEv ks s t) (k : OnlyRegsEv js t u) : OnlyRegsEv (ks ++ js) s u := by
  refine ⟨?_, fun i hi => ?_⟩
  · calc { u with regs := s.regs, ev := s.ev }
      _ = { { u with regs := t.regs, ev := t.ev } with regs := s.regs, ev := s.ev } := rfl
      _ = { t with regs := s.regs, ev := s.ev } := by rw [k.1]
      _ = s := h.1
  · rw [List.mem_append, not_or] at hi
    exact (k.2 i hi.2).trans (h.2 i hi.1)

/-! ## Event edges -/

theorem OnlyRegsEv.pendSet_pend (h : OnlyRegsEv ks s t) (pg b : Nat) (hk : pg * 4096 + R.PG_EVT_PEND ∈ ks) :
    OnlyRegsEv ks s (Machine.pendSet pg b t) := by
  unfold Machine.pendSet
  dsimp only
  split
  · exact h
  · split
    · exact (h.setW _ _ _ hk).emitRec _
    · exact h.setW _ _ _ hk

theorem OnlyRegsEv.edges_pend (h : OnlyRegsEv ks s t) (pg old : Nat) (hk : pg * 4096 + R.PG_EVT_PEND ∈ ks) :
    OnlyRegsEv ks s (Machine.edges pg old t) := by
  refine OnlyRegsEv.forUp _ (fun b u hu => ?_) _ _ _ h
  split
  · exact hu.pendSet_pend _ _ hk
  · exact hu

/-- The event edges of pages change their PG_EVT_PEND registers and may send records. -/
theorem happen_only (pgs : List Nat) (k : State → State) (s : State) : OnlyRegsEv (pendRegs pgs) (k s) (happen pgs k s) := by
  unfold Machine.happen
  have step : ∀ (ps : List Nat) (v : State), (∀ p ∈ ps, p ∈ pgs) → OnlyRegsEv (pendRegs pgs) (k s) v →
      OnlyRegsEv (pendRegs pgs) (k s) (Sys2Proof.forEach (fun pg t => Machine.edges pg (s.rawBlk pg) t) ps v) := by
    intro ps
    induction ps with
    | nil => exact fun _ _ hv => hv
    | cons p ps ih =>
      exact fun v hp hv => ih _ (fun q hq => hp q (.tail _ hq))
        (hv.edges_pend _ _ (List.mem_map_of_mem (hp p (.head _))))
  exact step pgs _ (fun _ hp => hp) (.refl _ _)

theorem forUp_same {σ : Type} {f : Nat → σ → σ} {x : σ} (h : ∀ n, f n x = x) (n i : Nat) : forUp f n i x = x := by
  induction n generalizing i with
  | zero => rfl
  | succ n ih => rw [forUp, h, ih]

/-- Conditions that have not changed raise no bit. -/
theorem edges_same (pg : Nat) (s : State) : edges pg (s.rawBlk pg) s = s :=
  forUp_same (fun b => by simp) 16 16

/-- A happening that changes no condition raises no bit of its pages. -/
theorem happen_same (pgs : List Nat) (k : State → State) (s : State) (h : ∀ pg, s.rawBlk pg = (k s).rawBlk pg) :
    happen pgs k s = k s := by
  unfold happen
  induction pgs with
  | nil => rfl
  | cons p ps ih => rw [Sys2Proof.forEach, h p, edges_same, ih]

/-! ## What registers and records leave alone -/

theorem OnlyRegsEv.mem_eq (h : OnlyRegsEv ks s t) : t.mem = s.mem := (congrArg State.mem h.1 :)
theorem OnlyRegsEv.ras_eq (h : OnlyRegsEv ks s t) : t.ras = s.ras := (congrArg State.ras h.1 :)
theorem OnlyRegsEv.sch_eq (h : OnlyRegsEv ks s t) : t.sch = s.sch := (congrArg State.sch h.1 :)
theorem OnlyRegsEv.cores_eq (h : OnlyRegsEv ks s t) : t.cores = s.cores := (congrArg State.cores h.1 :)
theorem OnlyRegsEv.bridge_eq (h : OnlyRegsEv ks s t) : t.bridge = s.bridge := (congrArg State.bridge h.1 :)
theorem OnlyRegsEv.tb_eq (h : OnlyRegsEv ks s t) : t.tb = s.tb := (congrArg State.tb h.1 :)

theorem OnlyRegsEv.core_eq (h : OnlyRegsEv ks s t) (c : Nat) : t.core c = s.core c := by
  simp only [State.core, h.cores_eq]

/-- A field of no PG_EVT_PEND register reads after the event edges as before. -/
theorem OnlyRegsEv.f_pend {pgs : List Nat} (h : OnlyRegsEv (pendRegs pgs) s t) (pg : Nat) (y : Fld)
    (hy : y.ofs < 4096 ∧ y.ofs ≠ R.PG_EVT_PEND := by decide) : t.f pg y = s.f pg y :=
  h.f_eq (not_mem_pendRegs (by rw [Nat.mul_add_mod', Nat.mod_eq_of_lt hy.1]; exact hy.2))

/-! ## Commands whose accesses may wait -/

@[simp] theorem finds_f (s : State) (errs : Errs) (pg : Nat) (y : Fld) : (s.finds errs).f pg y = s.f pg y := rfl
@[simp] theorem finds_core (s : State) (errs : Errs) (c : Nat) : (s.finds errs).core c = s.core c := rfl
@[simp] theorem finds_tq (s : State) (errs : Errs) (c q : Nat) : (s.finds errs).tq c q = s.tq c q := rfl
@[simp] theorem finds_slot (s : State) (errs : Errs) (p n : Nat) : (s.finds errs).slot p n = s.slot p n := rfl
@[simp] theorem finds_bridge (s : State) (errs : Errs) : (s.finds errs).bridge = s.bridge := rfl
@[simp] theorem finds_sch (s : State) (errs : Errs) : (s.finds errs).sch = s.sch := rfl
@[simp] theorem finds_tb (s : State) (errs : Errs) : (s.finds errs).tb = s.tb := rfl
@[simp] theorem finds_expired (s : State) (errs : Errs) (pg : Nat) (i : Issued) :
    (s.finds errs).expired pg i = s.expired pg i := rfl

/-- The note of what the present command's reads find is cleared. -/
def State.forgets (s : State) : State := { s with mem := { s.mem with errs := [] } }

theorem settle_of_granted {errs : Errs} {k : State → State} (h : (k (s.finds errs)).mem.wait = false) :
    settle errs k s = (k (s.finds errs)).forgets := by
  simp only [State.finds] at h
  simp only [settle, h, State.finds, State.forgets, Bool.false_eq_true, if_false]

/-- `t` is the effect `u` of a command of which no access waits, but for the event edges of pages `pgs`. -/
def Settles (pgs : List Nat) (u t : State) : Prop := OnlyRegsEv (pendRegs pgs) u.forgets t

namespace Settles

variable {pgs : List Nat}

theorem only (h : Settles pgs u t) : OnlyRegsEv (pendRegs pgs) u.forgets t := h

theorem f_eq (h : Settles pgs u t) (pg : Nat) (y : Fld)
    (hy : y.ofs < 4096 ∧ y.ofs ≠ R.PG_EVT_PEND := by decide) : t.f pg y = u.f pg y :=
  h.only.f_pend pg y hy

theorem core_eq (h : Settles pgs u t) (c : Nat) : t.core c = u.core c := h.only.core_eq c
theorem ras_eq (h : Settles pgs u t) : t.ras = u.ras := h.only.ras_eq
theorem sch_eq (h : Settles pgs u t) : t.sch = u.sch := h.only.sch_eq
theorem bridge_eq (h : Settles pgs u t) : t.bridge = u.bridge := h.only.bridge_eq

/-- Where the effect changes no store of memory, neither does the command. -/
theorem sameMem {errs : Errs} (h : Settles pgs u t) (hu : u.mem = (s.finds errs).mem) : SameMem s t := by
  have hm : t.mem = { u.mem with errs := [] } := h.only.mem_eq
  unfold SameMem
  rw [hm, hu]
  rfl

end Settles

/-- Where no access of a command waits, its outcome is its effect, but for the event edges. -/
theorem goes_runErr {c : Instr} {P : State → Prop} {errs : Errs} {pgs : List Nat} {k : State → State}
    (h : exec c s = runErr errs pgs s k) (hd : s.dead = false) (hw : (k (s.finds errs)).mem.wait = false)
    (hp : ∀ t, Settles pgs (k (s.finds errs)) t → P t) : Goes c s P := by
  have honly := happen_only pgs (settle errs k) s
  rw [settle_of_granted hw] at honly
  exact goes_run h hd (hp _ honly)

/-- A command without effect waits. -/
theorem goes_waits {c : Instr} {errs : Errs} {pgs : List Nat} {k : State → State}
    (h : exec c s = runErr errs pgs s k) (hd : s.dead = false) (hk : k (s.finds errs) = s.finds errs) :
    Goes c s fun t => Waits s t := by
  have hset : settle errs k s = (s.finds errs).forgets := by
    rw [settle_of_granted (by rw [hk]; rfl), hk]
  refine goes_run h hd ?_
  rw [happen_same pgs _ s (fun pg => by rw [hset]; rfl), hset]
  exact ⟨rfl, rfl⟩

end Sys2Proof.Machine
end

