-- ==== Sys2Proof/Proofs/HeaderWrite.lean ====
section
/-! PROOF.  A 32-bit write of a header register other than PG_OWNER and PG_CTL (R63, R76, R93), and with it the range of
PG_TMO_NS (R48). -/

namespace Sys2Proof.Machine

variable {s : State} {m pg ofs v : Nat}

/-! ## A refused write -/

/-- The registers, of any page, that an error does not change read as before it was logged. -/
theorem logErr_f_other (pg code subj detail aux : Nat) (s : State) (pg' : Nat) (y : Fld)
    (hy : y.ofs < 4096 ∧ y.ofs ∉ [R.PG_EVT_PEND, R.PG_ERR_FIRST, R.PG_ERR_CNT, R.PG_PERF_VAL_LO, R.PG_PERF_VAL_HI] := by decide) :
    (logErr pg code subj detail aux s).f pg' y = s.f pg' y := by
  refine logErr_f pg code subj detail aux s pg' y ?_
  obtain ⟨hlt, hne⟩ := hy
  simp only [noted, List.mem_cons, List.not_mem_nil, or_false, R.PG_EVT_PEND, R.PG_ERR_FIRST, R.PG_ERR_CNT,
    R.PG_PERF_VAL_LO, R.PG_PERF_VAL_HI] at hne ⊢
  omega

theorem pendSet_f (pg b : Nat) (s : State) (y : Fld) (hy : y.ofs ≠ R.PG_EVT_PEND) :
    (pendSet pg b s).f pg y = s.f pg y :=
  ((OnlyRegsEv.refl [pg * 4096 + R.PG_EVT_PEND] s).pendSet_pend pg b (.head _)).f_eq
    (by simpa only [List.mem_singleton, Nat.add_left_cancel_iff] using hy)

/-- R93: a refused write is recorded with its code. -/
theorem refuse_fields (m pg ofs code : Nat) (s : State) :
    (refuse m pg ofs code s).f pg F.PG_WREJ_OFS_CODE = code % 256 ∧ (refuse m pg ofs code s).f pg F.PG_STS_WREJ = 1 := by
  unfold refuse
  dsimp only
  rw [logErr_f_other _ _ _ _ _ _ _ F.PG_WREJ_OFS_CODE, logErr_f_other _ _ _ _ _ _ _ F.PG_STS_WREJ]
  split
  case isTrue h =>
    exact ⟨State.f_setF_same _ _ _ _ (by decide) (by decide), h⟩
  case isFalse =>
    rw [pendSet_f _ _ _ _ (by decide), pendSet_f _ _ _ _ (by decide),
      State.f_setF_other _ _ _ _ _ (by decide) (by decide) (by decide)]
    exact ⟨State.f_setF_same _ _ _ _ (by decide) (by decide), State.f_setF_same _ _ _ _ (by decide) (by decide)⟩

/-- A refused write changes header registers only. -/
theorem refuse_high (m pg ofs code : Nat) (s : State) {k : Nat} (hk : 0x100 ≤ k % 4096) :
    (refuse m pg ofs code s).reg k = s.reg k := by
  refine ((OnlyRegsEv.refl (refusedRegs pg) s).refuse m pg ofs code (fun _ h => h)).2 k ?_
  simp only [refusedRegs, noted, List.mem_cons, List.not_mem_nil, or_false, R.PG_WREJ_OFS, R.PG_STS, R.PG_EVT_PEND,
    R.PG_ERR_FIRST, R.PG_ERR_CNT, R.PG_PERF_VAL_LO, R.PG_PERF_VAL_HI]
  omega

/-! ## A write of a header register -/

theorem headWrite_accepts {range : State → Bool} {eff : State → State} (hr : s.reaches m pg = true)
    (hw : s.mayWrite m pg = true) (hv : (regDefAt pg ofs).elim (v == 0) (fun d => defRes0Ok d v) = true)
    (hok : range s = true) : headWrite m pg ofs v range eff s = eff s := by
  simp [headWrite, hr, hw, hv, hok]

theorem headWrite_out_of_range {range : State → Bool} {eff : State → State} (hr : s.reaches m pg = true)
    (hw : s.mayWrite m pg = true) (hok : range s = false) :
    headWrite m pg ofs v range eff s = refuse m pg ofs 0x01 s := by
  simp [headWrite, hr, hw, hok]

theorem pageInfo_isSome_of_reaches (h : s.reaches m pg = true) : (pageInfo pg).isSome = true := by
  unfold State.reaches at h
  split at h
  · exact nomatch h
  · next e => rw [e]; rfl

/-- PG_TMO_NS stands in every page, and none of its bits is Res0. -/
theorem tmo_res0Ok (h : (pageInfo pg).isSome = true) (v : Nat) :
    (regDefAt pg R.PG_TMO_NS).elim (v == 0) (fun d => defRes0Ok d v) = true := by
  obtain ⟨ti, e⟩ := Option.isSome_iff_exists.1 h
  unfold regDefAt
  rw [e]
  rfl

theorem wrWord_tmo : wrWord m pg R.PG_TMO_NS v s = wrTmo m pg v s := rfl

theorem wrTmo_accepts (hr : s.reaches m pg = true) (hw : s.mayWrite m pg = true) (hv : 1000 ≤ v ∧ v ≤ 4000000000) :
    wrTmo m pg v s = s.setW pg R.PG_TMO_NS v :=
  headWrite_accepts hr hw (tmo_res0Ok (pageInfo_isSome_of_reaches hr) v) (by simp [hv])

theorem wrTmo_out_of_range (hr : s.reaches m pg = true) (hw : s.mayWrite m pg = true)
    (hv : ¬ (1000 ≤ v ∧ v ≤ 4000000000)) : wrTmo m pg v s = refuse m pg R.PG_TMO_NS 0x01 s :=
  headWrite_out_of_range hr hw (by rwa [Bool.and_eq_false_iff, decide_eq_false_iff_not, decide_eq_false_iff_not, ← not_and_or])

/-- R76: a 32-bit write of a master at an aligned offset of a page that its window backs. -/
theorem goes_registerWrite {P : State → Prop} (hd : s.dead = false) (hm : okMaster m = true) (hpg : pg < 16384)
    (ho : ofs < 4096) (ha : ofs % 4 = 0) (hv : v < 2 ^ 32) (hr : s.reaches m pg = true)
    (hp : ∀ pgs t, OnlyRegsEv (pendRegs pgs) (wrWord m pg ofs v s) t → P t) :
    Goes (.registerWrite m (pg * 4096 + ofs) 4 v) s P := by
  have hk : pageWrite m (pg * 4096 + ofs) 4 v s = wrWord m pg ofs v s := by
    have hq : (pg * 4096 + ofs) / 4096 = pg := by omega
    have hr' : (pg * 4096 + ofs) % 4096 = ofs := by omega
    have hv' : v % 4294967296 = v := Nat.mod_eq_of_lt hv
    simp [pageWrite, hq, hr', hr, ha, hv']
  have hexec : exec (.registerWrite m (pg * 4096 + ofs) 4 v) s =
      run (s.writePages (pg * 4096 + ofs) v) s (pageWrite m (pg * 4096 + ofs) 4 v) := by
    show execRegisterWrite m (pg * 4096 + ofs) 4 v s = _
    have hb : pg * 4096 + ofs < 2 ^ 26 := by omega
    have hok : (okMaster m && okOffset m (pg * 4096 + ofs) && below (2 ^ 64) v) = true := by
      simp only [hm, okOffset, below, hb, decide_true, Bool.true_or, Bool.and_true, Bool.true_and, decide_eq_true_eq]
      omega
    rw [execRegisterWrite, hok, whenOk, if_pos rfl, if_neg (by omega), Nat.mod_eq_of_lt hb]
  exact goes_run hexec hd (hp _ _ (hk ▸ happen_only _ (pageWrite m (pg * 4096 + ofs) 4 v) s))

/-! ## The range of PG_TMO_NS -/

/-- R48: a value in range is held, and no other register changes, but for event bits. -/
theorem tmo_accepted {pgs : List Nat} {t : State} (hv : v < 2 ^ 32)
    (ht : OnlyRegsEv (pendRegs pgs) (s.setW pg R.PG_TMO_NS v) t) :
    t.w pg R.PG_TMO_NS = v ∧ ∀ k, k ≠ pg * 4096 + R.PG_TMO_NS → k % 4096 ≠ R.PG_EVT_PEND → t.reg k = s.reg k := by
  have hreg : ∀ k, k % 4096 ≠ R.PG_EVT_PEND → t.reg k = (s.setW pg R.PG_TMO_NS v).reg k :=
    fun k hk => ht.2 k (not_mem_pendRegs hk)
  constructor
  · rw [State.w, hreg _ (by simp only [R.PG_TMO_NS, R.PG_EVT_PEND]; omega)]
    exact State.w_setW_same s pg _ v hv
  · exact fun k hne hk => (hreg k hk).trans (State.reg_setW s pg _ v k hne)

/-- R48, R93: a value out of range is refused with 0x01, and the register keeps what it holds. -/
theorem tmo_refused {pgs : List Nat} {t : State}
    (ht : OnlyRegsEv (pendRegs pgs) (refuse m pg R.PG_TMO_NS 0x01 s) t) :
    t.w pg R.PG_TMO_NS = s.w pg R.PG_TMO_NS ∧ t.f pg F.PG_WREJ_OFS_CODE = 0x01 ∧ t.f pg F.PG_STS_WREJ = 1 ∧
      ∀ k, 0x100 ≤ k % 4096 → t.reg k = s.reg k := by
  have hreg : ∀ k, k % 4096 ≠ R.PG_EVT_PEND → t.reg k = (refuse m pg R.PG_TMO_NS 0x01 s).reg k :=
    fun k hk => ht.2 k (not_mem_pendRegs hk)
  refine ⟨?_, (ht.f_pend pg _).trans (refuse_fields m pg _ 0x01 s).1, (ht.f_pend pg _).trans (refuse_fields m pg _ 0x01 s).2,
    fun k hk => ?_⟩
  · have hkept := ((OnlyRegsEv.refl (refusedRegs pg) s).refuse m pg R.PG_TMO_NS 0x01 (fun _ h => h)).2
      (pg * 4096 + R.PG_TMO_NS) (by simp [refusedRegs, noted])
    rw [State.w, hreg _ (by simp only [R.PG_TMO_NS, R.PG_EVT_PEND]; omega), hkept, State.w]
  · rw [hreg k (by simp only [R.PG_EVT_PEND]; omega), refuse_high m pg _ _ s hk]

/-- Settles O13: the write reaches the register's own range check, which lets the value in or refuses it. -/
theorem timeoutRegisterAcceptsItsRange : Obligations.TimeoutRegisterAcceptsItsRange := by
  intro s m pg v hd hm hpg hv hr hw
  refine goes_registerWrite hd hm hpg (by decide) rfl hv hr (fun pgs t ht => ?_)
  rw [wrWord_tmo] at ht
  split
  case isTrue hin =>
    rw [wrTmo_accepts hr hw hin] at ht
    have hset := (OnlyRegsEv.refl [pg * 4096 + R.PG_TMO_NS] s).setW pg R.PG_TMO_NS v (.head _)
    exact ⟨(hset.trans ht).1, tmo_accepted hv ht⟩
  case isFalse hout =>
    rw [wrTmo_out_of_range hr hw hout] at ht
    have href := (OnlyRegsEv.refl (refusedRegs pg) s).refuse m pg R.PG_TMO_NS 0x01 (fun _ h => h)
    exact ⟨(href.trans ht).1, tmo_refused ht⟩

end Sys2Proof.Machine
end

