-- ==== Sys2Proof/Proofs/Granted.lean ====
section
/-! PROOF.  What accesses to memory leave alone besides: a granted or failed read or write of a line touches registers,
records, controllers and the stores of memory, and makes no command wait (R95, R135). -/

namespace Sys2Proof.Machine

variable {s t u : State}

/-- From `s` to `t` registers, records, controllers, the stores of memory and the free values drawn may have changed,
and nothing else; no access waits that did not. -/
def Accessed (s t : State) : Prop :=
  t = { s with regs := t.regs, ev := t.ev, mem := t.mem, ctls := t.ctls, fresh := t.fresh } ∧ t.mem.wait = s.mem.wait

theorem Accessed.refl (s : State) : Accessed s s := ⟨rfl, rfl⟩

theorem Accessed.trans (h : Accessed s t) (k : Accessed t u) : Accessed s u :=
  ⟨by rw [k.1, h.1], k.2.trans h.2⟩

theorem Accessed.wait_eq (h : Accessed s t) : t.mem.wait = s.mem.wait := h.2
theorem Accessed.sch_eq (h : Accessed s t) : t.sch = s.sch := (congrArg State.sch h.1 :)

theorem OnlyRegsEv.accessed {ks : List Nat} (h : OnlyRegsEv ks s t) : Accessed s t :=
  ⟨by conv_rhs => rw [← h.1], congrArg Memory.wait h.mem_eq⟩

theorem setF_accessed (s : State) (pg : Nat) (x : Fld) (v : Nat) : Accessed s (s.setF pg x v) := ⟨rfl, rfl⟩
theorem addF_accessed (s : State) (pg : Nat) (x : Fld) (n : Nat) : Accessed s (s.addF pg x n) := ⟨rfl, rfl⟩
theorem setW64_accessed (s : State) (pg lo hi v : Nat) : Accessed s (s.setW64 pg lo hi v) := ⟨rfl, rfl⟩
theorem setCtl_accessed (s : State) (pg : Nat) (v : Ctl) : Accessed s (s.setCtl pg v) := ⟨rfl, rfl⟩
theorem setPoison_accessed (k : Nat) (p : Bool) (s : State) : Accessed s (setPoison k p s) := ⟨rfl, rfl⟩

theorem perfOwn_accessed (pg code n own : Nat) (s : State) : Accessed s (perfOwn pg code n own s) :=
  ((OnlyRegsEv.refl (noted pg) s).perfOwn pg code n own (fun _ h => h)).accessed

theorem logErr_accessed (pg code subj detail aux : Nat) (s : State) : Accessed s (logErr pg code subj detail aux s) :=
  ((OnlyRegsEv.refl (noted pg) s).logErr pg code subj detail aux (fun _ h => h)).accessed

theorem forUp_accessed {f : Nat → State → State} (hf : ∀ i t, Accessed t (f i t)) :
    ∀ n i s, Accessed s (forUp f n i s)
  | 0, _, s => .refl s
  | n + 1, i, s => (hf i s).trans (forUp_accessed hf n (i + 1) _)

/-! ## Reads -/

theorem queueRow_accessed (tier addr : Nat) (s : State) : Accessed s (queueRow tier addr s) := by
  unfold queueRow
  dsimp only
  split
  · exact .refl s
  · exact (setCtl_accessed s _ _).trans (addF_accessed _ _ _ _)

theorem trackCe_accessed (tier addr : Nat) (s : State) : Accessed s (trackCe tier addr s) := by
  unfold trackCe
  split
  · exact .refl s
  · dsimp only
    split
    · exact (setCtl_accessed s _ _).trans (queueRow_accessed _ _ _)
    · exact setCtl_accessed s _ _

theorem lineEcc_accessed (tier addr : Nat) (ecc : Ecc) (s : State) : Accessed s (lineEcc tier addr ecc s) := by
  have hbad : ∀ pg subj n, Accessed s
      (logErr pg 0x07 subj (lineDetail tier addr) 0 (setPoison (memKey tier addr) true (s.addF pRAS F.RAS_CNT_UE_CNT n))) :=
    fun pg subj n => (addF_accessed s _ _ n).trans ((setPoison_accessed _ _ _).trans (logErr_accessed pg _ subj _ _ _))
  cases ecc with
  | clean => exact .refl s
  | ce => exact (addF_accessed s _ _ _).trans (trackCe_accessed _ _ _)
  | ue =>
    simp only [lineEcc]
    split
    · exact .refl s
    · exact (hbad _ _ 1).trans (queueRow_accessed _ _ _)
  | expander =>
    simp only [lineEcc]
    split
    · exact hbad _ _ 1
    · exact .refl s

theorem demandEcc_accessed (tier addr len : Nat) (s : State) : Accessed s (demandEcc tier addr len s) := by
  unfold demandEcc
  split
  · exact .refl s
  · exact forUp_accessed (fun l t => lineEcc_accessed tier (64 * l) _ t) _ _ s

theorem account_accessed (own tier addr len cls : Nat) (s : State) : Accessed s (account own tier addr len cls s) := by
  have hset : ∀ v c1 n1 c2 n2, Accessed s (perfOwn (tierCtl tier addr) c2 n2 own
      (perfOwn (tierCtl tier addr) c1 n1 own (s.setCtl (tierCtl tier addr) v))) := fun v c1 n1 c2 n2 =>
    (setCtl_accessed s _ v).trans ((perfOwn_accessed _ c1 n1 own _).trans (perfOwn_accessed _ c2 n2 own _))
  unfold account
  dsimp only
  split
  · exact (hset _ _ _ _ _).trans (perfOwn_accessed _ _ _ _ _)
  · exact hset _ _ _ _ _

theorem drainLog_accessed (slot tier addr : Nat) (s : State) : Accessed s (drainLog slot tier addr s) := by
  unfold drainLog
  split
  · exact logErr_accessed _ _ _ _ _ s
  · exact .refl s

theorem accessFail_accessed (iss o tier addr code : Nat) (s : State) : Accessed s (accessFail iss o tier addr code s) := by
  unfold accessFail
  split
  · exact logErr_accessed _ _ _ _ _ s
  · split
    · exact .refl s
    · exact logErr_accessed _ _ _ _ _ s

theorem memRead_accessed (iss tier addr len : Nat) (a : Access) (rmt : Bool) (s : State) :
    Accessed s (memRead iss a tier addr len rmt s).2.2 := by
  unfold memRead
  dsimp only
  split
  · exact accessFail_accessed _ _ _ _ _ s
  · exact (account_accessed _ _ _ _ _ s).trans ((demandEcc_accessed _ _ _ _).trans (drainLog_accessed _ _ _ _))

theorem memRead_code (iss tier addr len : Nat) (a : Access) (rmt : Bool) (s : State) :
    (memRead iss a tier addr len rmt s).1 = s.accessCode a.own tier addr len := by
  unfold memRead
  dsimp only
  split
  · rfl
  · next h => exact (not_not.1 h).symm

/-- A read that its controller takes now, granted or not, makes no command wait. -/
theorem readPlain_accessed (iss tier addr len : Nat) (a : Access) (s : State) (rmt : Bool)
    (h : s.accessCode a.own tier addr len ≠ 0x12) : Accessed s (readPlain iss a tier addr len s rmt).2.2 := by
  have hread := memRead_accessed iss tier addr len a rmt s
  have hcode := memRead_code iss tier addr len a rmt s
  unfold readPlain
  dsimp only
  split
  · rw [awaitIf, if_neg (by rw [hcode]; exact h)]
    exact hread
  · split <;> exact hread

/-! ## Writes -/

theorem storeBytes_accessed (slot : Nat) : ∀ (bs : List Byte) (k : Nat) (s : State), Accessed s (storeBytes slot k bs s)
  | [], _, s => .refl s
  | b :: bs, k, s => Accessed.trans ⟨rfl, rfl⟩ (storeBytes_accessed slot bs (k + 1) (storeByte slot k b s))

theorem writeChunk_accessed (slot tier addr : Nat) (data : List (Byte × Bool)) (s : State) :
    Accessed s (writeChunk slot tier addr data s).2 := by
  unfold writeChunk
  dsimp only
  split
  · exact setPoison_accessed _ _ s
  · split
    · exact (storeBytes_accessed _ _ _ s).trans (setPoison_accessed _ _ _)
    · split
      · exact .refl s
      · exact storeBytes_accessed _ _ _ s

theorem writeChunks_accessed (slot tier : Nat) : ∀ (cs : List (Nat × List (Byte × Bool))) (r : Nat × State),
    Accessed r.2 (writeChunks slot tier cs r).2
  | [], r => .refl r.2
  | c :: cs, r => (writeChunk_accessed slot tier c.1 c.2 r.2).trans (writeChunks_accessed slot tier cs _)

theorem memWrite_accessed (iss tier addr : Nat) (a : Access) (data : List (Byte × Bool)) (rmt : Bool) (s : State) :
    Accessed s (memWrite iss a tier addr data rmt s).2 := by
  unfold memWrite
  dsimp only
  split
  · exact accessFail_accessed _ _ _ _ _ s
  · exact (account_accessed _ _ _ _ _ s).trans ((drainLog_accessed _ _ _ _).trans (writeChunks_accessed _ _ _ (0, _)))

theorem counted_accessed {r : Nat × State} (h : Accessed s r.2) (k : Nat) :
    Accessed s (if r.1 = 0 then r.2.setF pDBG F.DBG_TRC_PROD_PROD k else r.2.addF pDBG F.DBG_TRC_LOST_LOST 1) := by
  split
  · exact h.trans (setF_accessed _ _ _ _)
  · exact h.trans (addF_accessed _ _ _ _)

/-- R728 to R731: a trace record is a write of memory and a count. -/
theorem trace_accessed (p n kind code : Nat) (tag : Option Nat) (s : State) : Accessed s (trace p n kind code tag s) := by
  unfold trace
  dsimp only
  split
  · split
    · exact addF_accessed s _ _ _
    · exact counted_accessed (memWrite_accessed _ _ _ _ _ _ s) _
  · exact .refl s

/-- R473: the header of a faulted token-class operation is a write of memory. -/
theorem tokHdrFault_accessed (e p n code : Nat) (s : State) : Accessed s (tokHdrFault e p n code s) := by
  unfold tokHdrFault
  dsimp only
  split
  · exact Accessed.trans ⟨rfl, rfl⟩ (memWrite_accessed _ _ _ _ _ _ { s with fresh := s.fresh + 5 })
  · exact .refl s

end Sys2Proof.Machine
end

