-- ==== Sys2Proof/Proofs/FaultWaits.lean ====
section
/-! PROOF.  A fault of an operation never waits for a controller: what it sends over the fabric leaves memory alone, and
the successors it signals are read where their controllers take the reads, or are kept for later (R95, R419, R426). -/

namespace Sys2Proof.Machine

variable (s : State)

theorem forUp_keeps {σ α : Type} (g : σ → α) {f : Nat → σ → σ} (hf : ∀ i x, g (f i x) = g x) :
    ∀ n i x, g (forUp f n i x) = g x
  | 0, _, _ => rfl
  | n + 1, i, x => (forUp_keeps g hf n (i + 1) (f i x)).trans (hf i x)

theorem forEach_keeps {σ α β : Type} (g : σ → α) {f : β → σ → σ} (hf : ∀ b x, g (f b x) = g x) :
    ∀ l x, g (forEach f l x) = g x
  | [], _ => rfl
  | b :: l, x => (forEach_keeps g hf l (f b x)).trans (hf b x)

/-! ## Errors and counters -/

@[simp] theorem perf_mem (pg code n : Nat) : (perf pg code n s).mem = s.mem :=
  ((OnlyRegsEv.refl (noted pg) s).perf pg code n (fun _ h => h)).mem_eq

@[simp] theorem logErr_mem (pg code subj detail aux : Nat) : (logErr pg code subj detail aux s).mem = s.mem :=
  ((OnlyRegsEv.refl (noted pg) s).logErr pg code subj detail aux (fun _ h => h)).mem_eq

/-! ## What goes out over the fabric -/

@[simp] theorem sendBits_mem (l lane n v : Nat) : (sendBits l lane n v s).mem = s.mem := by
  unfold sendBits
  split <;> rfl

@[simp] theorem sendBlock_mem (l lane hdr v : Nat) : (sendBlock l lane hdr v s).mem = s.mem := by
  unfold sendBlock
  dsimp only
  split
  · exact sendBits_mem _ _ _ _ _
  · split
    · rfl
    · exact sendBits_mem _ _ _ _ _

@[simp] theorem sendRaw_mem (l : Nat) (bs : List Byte) : (sendRaw l bs s).mem = s.mem := by
  unfold sendRaw
  dsimp only
  split
  · rfl
  · exact forUp_keeps State.mem (fun _ _ => sendBlock_mem _ _ _ _ _) 8 0 _

@[simp] theorem sendNop_mem (l : Nat) (nak : Bool) (cvc crd : Nat) : (sendNop l nak cvc crd s).mem = s.mem :=
  sendRaw_mem _ _ _

@[simp] theorem sendFlit_mem (l : Nat) (f : Flit) : (sendFlit l f s).mem = s.mem := by
  unfold sendFlit
  split <;> simp

@[simp] theorem sendBodies_mem (l : Nat) : ∀ (bs : List (List Byte)) (s : State), (sendBodies l bs s).mem = s.mem
  | [], _ => rfl
  | _ :: bs, _ => (sendBodies_mem l bs _).trans (sendFlit_mem _ _ _)

@[simp] theorem flush_mem (l : Nat) : ∀ (fuel : Nat) (s : State), (flush l fuel s).mem = s.mem
  | 0, _ => rfl
  | fuel + 1, s => by
    unfold flush
    split
    · split
      · rfl
      · simp [flush_mem l fuel]
    · rfl

@[simp] theorem enqueuePkt_mem (l : Nat) (p : Packet) : (enqueuePkt l p s).mem = s.mem := flush_mem l _ _

@[simp] theorem issueReq_mem (o : FabOut) : (issueReq o s).2.mem = s.mem := by
  unfold issueReq
  split
  · rfl
  · dsimp only
    split
    · rfl
    · split
      · rfl
      · exact enqueuePkt_mem _ _ _

@[simp] theorem sendEvent_mem (p lid slot : Nat) : (sendEvent p lid slot s).mem = s.mem := by
  unfold sendEvent
  dsimp only
  generalize hr : issueReq _ s = r
  have hmem : r.2.mem = s.mem := hr ▸ issueReq_mem s _
  obtain ⟨res, t⟩ := r
  cases res with
  | sent => exact hmem
  | waits => exact hmem
  | noPath => exact (logErr_mem _ _ _ _ _ _).trans hmem

/-! ## Scoreboards and release -/

@[simp] theorem becomeReady_mem (p n : Nat) : (becomeReady p n s).mem = s.mem := by
  simp only [becomeReady, State.setSlot_mem, State.setSc_mem]

@[simp] theorem orphan_mem (p n : Nat) : (orphan p n s).mem = s.mem := by simp [orphan]

@[simp] theorem decrement_mem (p n : Nat) : (decrement p n s).mem = s.mem := by
  unfold decrement
  dsimp only
  split
  case h_1 => split <;> simp
  case h_2 => simp
  case h_3 => split <;> simp
  case h_4 => split <;> simp
  case h_5 => simp
  case h_6 => simp

@[simp] theorem decrementAll_mem (p : Nat) (l : List Nat) : (forEach (decrement p) l s).mem = s.mem :=
  forEach_keeps State.mem (fun n t => decrement_mem t p n) l s

@[simp] theorem succWord_mem (p w : Nat) : (succWord p w s).mem = s.mem := by
  unfold succWord
  split
  · simp
  · split <;> simp

/-- A word of an extended successor list is read only where its controller takes the read. -/
theorem succFrom_wait (p tier : Nat) (edges : List Nat) : ∀ (k addr : Nat) (s : State),
    (succFrom p tier edges k addr s).mem.wait = s.mem.wait
  | 0, _, s => by rw [succFrom, decrementAll_mem]
  | k + 1, addr, s => by
    unfold succFrom
    split
    · rfl
    case isFalse h =>
      have hread := fun rmt => (readPlain_accessed (pSCH p) tier addr 4 (s.access p) s rmt h).wait_eq
      dsimp only
      rw [succFrom_wait p tier edges k]
      split
      · rw [succWord_mem]; exact hread _
      · split
        · rw [logErr_mem]; exact hread _
        · exact hread _

theorem signalSuccs_wait (p n : Nat) : (signalSuccs p n s).mem.wait = s.mem.wait := by
  unfold signalSuccs
  dsimp only
  rw [succFrom_wait, decrementAll_mem]

@[simp] theorem rearm_mem (p n : Nat) : (rearm p n s).mem = s.mem := by
  unfold rearm
  dsimp only
  split
  · split <;> simp only [becomeReady_mem, State.setSlot_mem]
  · rfl

theorem release_wait (p n : Nat) : (release p n s).mem.wait = s.mem.wait := by
  rw [release, rearm_mem, signalSuccs_wait]
  exact (trace_accessed p n 3 0 none s).wait_eq

theorem advance_wait (p fl : Nat) : ∀ (fuel : Nat) (s : State), (advance p fl fuel s).mem.wait = s.mem.wait
  | 0, _ => rfl
  | fuel + 1, s => by
    unfold advance
    dsimp only
    split
    · rfl
    · rw [advance_wait p fl fuel]
      split
      · exact release_wait _ p _
      · rfl

theorem releaseNow_wait (p n : Nat) : (releaseNow p n s).mem.wait = s.mem.wait := by
  unfold releaseNow
  dsimp only
  split
  · exact advance_wait p _ _ _
  · exact release_wait _ p n

/-- R426, R453: an operation's fault makes no command wait. -/
theorem opFault_wait (p n code : Nat) (tag : Option Nat) : (opFault p n code tag s).mem.wait = s.mem.wait := by
  have htrace : (dropUnsent p n (trace p n 4 code tag s)).mem.wait = s.mem.wait := (trace_accessed p n 4 code tag s).wait_eq
  unfold opFault
  dsimp only
  split
  · split
    · split
      · exact htrace
      · rw [releaseNow_wait]; exact htrace
    · split
      · rw [advance_wait]; exact htrace
      · exact htrace
  · rfl

/-! ## A core's fault -/

@[simp] theorem leaveFetch_mem (c : Nat) : (leaveFetch c s).mem = s.mem := by
  unfold leaveFetch
  split
  · rfl
  · split <;> rfl

@[simp] theorem coreDrop_mem (c : Nat) (flt : Bool) : (coreDrop c flt s).mem = s.mem := by
  unfold coreDrop
  dsimp only
  rw [leaveFetch_mem]
  split <;> simp only [poolReset, setPool, State.setF_mem, State.setCore_mem, unwaitInbound]

@[simp] theorem coreFltSet_mem (c pc code sub aux : Nat) : (coreFltSet c pc code sub aux s).mem = s.mem := by
  unfold coreFltSet
  dsimp only
  split <;> simp only [State.setF_mem]

theorem coreFaultAt_wait (c pc code sub aux : Nat) (tag : Option Nat) :
    (coreFaultAt c pc code sub aux tag s).mem.wait = s.mem.wait := by
  unfold coreFaultAt
  dsimp only
  split
  · rw [coreDrop_mem, perf_mem, opFault_wait, coreFltSet_mem]
  · rw [coreDrop_mem, coreFltSet_mem]

theorem coreFaultLogAt_wait (c pc code detail : Nat) (tag : Option Nat) :
    (coreFaultLogAt c pc code detail tag s).mem.wait = s.mem.wait := by
  rw [coreFaultLogAt, coreFaultAt_wait, logErr_mem]

/-- R299: a core that drops its operation keeps neither it, nor its transfers, nor its tally slots. -/
theorem coreDrop_core (c : Nat) (flt : Bool) : (coreDrop c flt s).dropped c := by
  have hclu : ∀ t : State, (leaveFetch c t).core c = t.core c := by
    intro t
    unfold leaveFetch
    split
    · rfl
    · split <;> rfl
  unfold State.dropped coreDrop
  dsimp only
  rw [hclu]
  simp only [poolReset, setPool, State.setF_core, State.core_setCore_same, and_self]

theorem coreFaultAt_dropped (c pc code sub aux : Nat) (tag : Option Nat) :
    (coreFaultAt c pc code sub aux tag s).dropped c := by
  unfold coreFaultAt
  dsimp only
  split <;> exact coreDrop_core _ c true

end Sys2Proof.Machine
end

