-- ==== Sys2Proof/Proofs/Abandoned.lean ====
section
/-! PROOF.  What it does to the device that a handshake is abandoned: the handshake is remembered, its timeout counts
against the responder, and a responder with too many is held (R54, R662). -/

namespace Sys2Proof.Machine

variable {s t : State}

/-- The state with another RAS state. -/
def State.withRas (s : State) (r : Ras) : State := { s with ras := r }

@[simp] theorem State.withRas_ras (s : State) (r : Ras) : (s.withRas r).ras = r := rfl
@[simp] theorem State.withRas_mem (s : State) (r : Ras) : (s.withRas r).mem = s.mem := rfl
@[simp] theorem State.withRas_sch (s : State) (r : Ras) : (s.withRas r).sch = s.sch := rfl

theorem setF_withRas (s : State) (pg : Nat) (x : Fld) (v : Nat) (r : Ras) :
    (s.setF pg x v).withRas r = (s.withRas r).setF pg x v := rfl

/-! ## The history log -/

theorem hist_logged (kind tier addr page owner : Nat) (h : s.ras.log.length < 256) :
    ∃ e, hist kind tier addr page owner s = s.withRas { s.ras with log := s.ras.log ++ [e] } ∧ e.kind = kind ∧
      e.page = page :=
  ⟨_, if_pos h, rfl, rfl⟩

/-- A history entry changes the log alone, or the overflow bit where the log is full. -/
theorem hist_only (kind tier addr page owner : Nat) (s : State) :
    OnlyRegsEv [pRAS * 4096 + R.RAS_LOG_STS] (s.withRas (hist kind tier addr page owner s).ras)
      (hist kind tier addr page owner s) := by
  unfold hist
  split
  · exact .refl _ _
  · rw [State.setF_ras]
    exact (OnlyRegsEv.refl _ s).setF pRAS F.RAS_LOG_STS_OVF 1 (.head _)

theorem hist_f (kind tier addr page owner : Nat) (s : State) (pg : Nat) (y : Fld)
    (h : pg * 4096 + y.ofs ≠ pRAS * 4096 + R.RAS_LOG_STS) : (hist kind tier addr page owner s).f pg y = s.f pg y :=
  (hist_only kind tier addr page owner s).f_eq (by rwa [List.mem_singleton])

/-! ## Timeouts counted against a responder -/

/-- The times of the timeouts counted against a responder that lie within the window (R662). -/
def State.recentTmos (s : State) (resp : Nat) : List Nat :=
  (SMap.get s.ras.tmos resp []).filter (fun u => decide (s.now < u + s.f pRAS F.RAS_ESC_CFG_WIN_US * 1000))

/-- R662: a timeout below the threshold is noted. -/
theorem escalate_below {resp : Nat} (h : (s.recentTmos resp).length + 1 < s.f pRAS F.RAS_ESC_CFG_TMO_THR) :
    escalate resp s = s.withRas { s.ras with tmos := SMap.put s.ras.tmos resp (s.now :: s.recentTmos resp) [] } :=
  if_neg (Nat.not_le.2 h)

/-- R662: the timeout that reaches the threshold holds the responder, and the count begins anew. -/
theorem escalate_holds {resp : Nat} (h : s.f pRAS F.RAS_ESC_CFG_TMO_THR ≤ (s.recentTmos resp).length + 1) :
    escalate resp s = logErr pRAS 0x03 oTormal resp 0 (hist 8 0 0 resp oTormal
      ((s.withRas { s.ras with tmos := SMap.put s.ras.tmos resp [] [] }).setF resp F.PG_CTL_HOLD 1)) :=
  if_pos h

/-- The registers that a timeout may change through its responder: its HOLD, and RAS's log and header. -/
def heldRegs (resp : Nat) : List Nat := (resp * 4096 + R.PG_CTL) :: (pRAS * 4096 + R.RAS_LOG_STS) :: noted pRAS

theorem escalate_only (resp : Nat) (s : State) :
    OnlyRegsEv (heldRegs resp) (s.withRas (escalate resp s).ras) (escalate resp s) := by
  rcases Nat.lt_or_ge ((s.recentTmos resp).length + 1) (s.f pRAS F.RAS_ESC_CFG_TMO_THR) with h | h
  · rw [escalate_below h]
    exact .refl _ _
  · rw [escalate_holds h]
    have hhist := hist_only 8 0 0 resp oTormal
      ((s.withRas { s.ras with tmos := SMap.put s.ras.tmos resp [] [] }).setF resp F.PG_CTL_HOLD 1)
    generalize hist 8 0 0 resp oTormal _ = v at hhist ⊢
    have hlog := (OnlyRegsEv.refl (noted pRAS) v).logErr pRAS 0x03 oTormal resp 0 (fun _ h => h)
    rw [hlog.ras_eq]
    rw [setF_withRas] at hhist
    exact (((OnlyRegsEv.refl [resp * 4096 + R.PG_CTL] (s.withRas v.ras)).setF resp F.PG_CTL_HOLD 1 (.head _)).trans
      hhist).trans hlog

/-! ## A handshake abandoned -/

/-- An abandoned handshake and its escalation change the RAS state, HOLD of the responder and RAS's registers. -/
theorem abandon_only (hs : Hs) (resp : Nat) (s : State) :
    OnlyRegsEv (heldRegs resp) (s.withRas (abandon hs resp s).ras) (abandon hs resp s) :=
  escalate_only resp (s.withRas { s.ras with abandoned := s.ras.abandoned ++ [hs] })

@[simp] theorem abandon_mem (hs : Hs) (resp : Nat) (s : State) : (abandon hs resp s).mem = s.mem :=
  (abandon_only hs resp s).mem_eq

theorem abandon_core (hs : Hs) (resp : Nat) (s : State) (c : Nat) : (abandon hs resp s).core c = s.core c :=
  (abandon_only hs resp s).core_eq c

theorem abandon_sch (hs : Hs) (resp : Nat) (s : State) : (abandon hs resp s).sch = s.sch :=
  (abandon_only hs resp s).sch_eq

theorem abandon_bridge (hs : Hs) (resp : Nat) (s : State) : (abandon hs resp s).bridge = s.bridge :=
  (abandon_only hs resp s).bridge_eq

/-- Outside RAS's page an abandoned handshake changes no field but HOLD. -/
theorem abandon_f (hs : Hs) (resp : Nat) (s : State) (pg : Nat) (y : Fld) (hpg : pg ≠ pRAS)
    (hy : y.ofs < 4096 ∧ y.ofs ≠ R.PG_CTL := by decide) : (abandon hs resp s).f pg y = s.f pg y := by
  refine (abandon_only hs resp s).f_eq ?_
  obtain ⟨hlt, hne⟩ := hy
  simp only [heldRegs, noted, List.mem_cons, List.not_mem_nil, or_false, R.PG_CTL, R.RAS_LOG_STS, R.PG_EVT_PEND,
    R.PG_ERR_FIRST, R.PG_ERR_CNT, R.PG_PERF_VAL_LO, R.PG_PERF_VAL_HI] at hne ⊢
  omega

theorem hist_abandoned (kind tier addr page owner : Nat) (s : State) :
    (hist kind tier addr page owner s).ras.abandoned = s.ras.abandoned := by
  unfold hist
  split
  · rfl
  · rw [State.setF_ras]

theorem logErr_ras (pg code subj detail aux : Nat) (s : State) : (logErr pg code subj detail aux s).ras = s.ras :=
  ((OnlyRegsEv.refl (noted pg) s).logErr pg code subj detail aux (fun _ h => h)).ras_eq

theorem escalate_abandoned (resp : Nat) (s : State) : (escalate resp s).ras.abandoned = s.ras.abandoned := by
  rcases Nat.lt_or_ge ((s.recentTmos resp).length + 1) (s.f pRAS F.RAS_ESC_CFG_TMO_THR) with h | h
  · rw [escalate_below h]
    rfl
  · rw [escalate_holds h, logErr_ras, hist_abandoned, State.setF_ras]
    rfl

/-- R54: an abandoned handshake is remembered. -/
theorem abandon_abandoned (hs : Hs) (resp : Nat) (s : State) :
    (abandon hs resp s).ras.abandoned = s.ras.abandoned ++ [hs] :=
  escalate_abandoned resp _

/-- R662: below the threshold an abandoned handshake is counted, and nothing is logged in the history. -/
theorem abandon_below (hs : Hs) {resp : Nat} (h : (s.recentTmos resp).length + 1 < s.f pRAS F.RAS_ESC_CFG_TMO_THR) :
    SMap.get (abandon hs resp s).ras.tmos resp [] = s.now :: s.recentTmos resp ∧
      (abandon hs resp s).ras.log = s.ras.log := by
  have hesc : abandon hs resp s = _ :=
    escalate_below (s := s.withRas { s.ras with abandoned := s.ras.abandoned ++ [hs] }) h
  rw [hesc]
  simp only [State.withRas_ras, SMap.get_put_same, and_true]
  rfl

/-- R662: at the threshold the responder is held, and the history log and RAS's page say so. -/
theorem abandon_holds (hs : Hs) {resp : Nat} (h : s.f pRAS F.RAS_ESC_CFG_TMO_THR ≤ (s.recentTmos resp).length + 1)
    (hlog : s.ras.log.length < 256) :
    (abandon hs resp s).f resp F.PG_CTL_HOLD = 1 ∧ (abandon hs resp s).f pRAS F.PG_ERR_CNT_LAST = 0x03 ∧
      SMap.get (abandon hs resp s).ras.tmos resp [] = [] ∧
      ∃ e, (abandon hs resp s).ras.log = s.ras.log ++ [e] ∧ e.kind = 8 ∧ e.page = resp := by
  have hesc : abandon hs resp s = _ :=
    escalate_holds (s := s.withRas { s.ras with abandoned := s.ras.abandoned ++ [hs] }) h
  rw [hesc]
  generalize hu : (State.withRas _ _).setF resp F.PG_CTL_HOLD 1 = u
  have hras : u.ras.log = s.ras.log ∧ SMap.get u.ras.tmos resp [] = [] := by
    rw [← hu, State.setF_ras]
    simp only [State.withRas_ras, SMap.get_put_same, and_self]
  obtain ⟨e, he, hkind, hpage⟩ := hist_logged (s := u) 8 0 0 resp oTormal (by rw [hras.1]; exact hlog)
  have hhold : (hist 8 0 0 resp oTormal u).f resp F.PG_CTL_HOLD = 1 := by
    rw [hist_f _ _ _ _ _ _ _ _ (by simp only [R.RAS_LOG_STS]; omega), ← hu]
    exact State.f_setF_same _ _ _ _ (by decide) (by decide)
  refine ⟨?_, (logErr_fields pRAS 0x03 oTormal resp 0 _).1, ?_, e, ?_, hkind, hpage⟩
  · exact (logErr_f_other _ _ _ _ _ _ _ _).trans hhold
  · rw [logErr_ras, he]
    exact hras.2
  · rw [logErr_ras, he]
    exact congrArg (· ++ [e]) hras.1

end Sys2Proof.Machine
end

