-- ==== Sys2Proof/Proofs/HandshakeTimeouts.lean ====
section
/-! PROOF.  Handshake timeouts (R49 to R55, R255, R662) and uncorrectable SRAM errors of a scheduler (R644, Table
18-1). -/

namespace Sys2Proof.Machine

variable {s t : State}

/-! ## An operation's fault at its executor -/

theorem State.slot_congr (h : t.sch = s.sch) (p n : Nat) : t.slot p n = s.slot p n := by
  simp only [State.slot, State.sc, h]

theorem State.flow_congr (h : t.sch = s.sch) (p n : Nat) : t.flow p n = s.flow p n := by
  simp only [State.flow, State.sc, h]

/-- R426: a running operation without FREL, in an atomic flow, becomes FAULTED. -/
theorem opFault_faulted {p n code : Nat} {tag : Option Nat} (hrun : (s.slot p n).st = .running)
    (hheld : (s.slot p n).heldRel = false) (hfrel : (s.slot p n).frel = false)
    (hatomic : (s.flow p (s.slot p n).flow).ordered = false) : ((opFault p n code tag s).slot p n).st = .faulted := by
  have hflow : ∀ fl, (dropUnsent p n (trace p n 4 code tag s)).flow p fl = s.flow p fl :=
    State.flow_congr (trace_accessed p n 4 code tag s).sch_eq p
  simp only [opFault, hrun, hheld, hfrel, State.flow_setSlot, hflow, hatomic, State.slot_setSlot_same, BEq.rfl,
    Bool.not_false, Bool.and_self, Bool.false_eq_true, if_true, if_false]

/-- `u` holds partition `p`'s operation slot `n` and its flows as `s` does, and makes no command wait that `s` does not. -/
def SameOp (p n : Nat) (s u : State) : Prop :=
  u.slot p n = s.slot p n ∧ (∀ fl, u.flow p fl = s.flow p fl) ∧ u.mem.wait = s.mem.wait

theorem SameOp.of_sch {p n : Nat} (h : t.sch = s.sch) (hw : t.mem.wait = s.mem.wait) : SameOp p n s t :=
  ⟨State.slot_congr h p n, State.flow_congr h p, hw⟩

theorem tokFltSet_accessed (e code p addr : Nat) (o : OpSlot) (s : State) : Accessed s (tokFltSet e code o p addr s) := by
  unfold tokFltSet
  dsimp only
  exact (setF_accessed _ _ _ _).trans ((setF_accessed _ _ _ _).trans ((setF_accessed _ _ _ _).trans
    ((setF_accessed _ _ _ _).trans ((setF_accessed _ _ _ _).trans (setW64_accessed _ _ _ _ _)))))

theorem tokForget_sch (e p n : Nat) (s : State) : (tokForget e p n s).sch = s.sch := rfl
theorem tokForget_mem (e p n : Nat) (s : State) : (tokForget e p n s).mem = s.mem := rfl

/-- R473: before a token-class operation ends, its engine touches registers, memory and its own state. -/
theorem tokFault_ends (e p n code addr : Nat) (s : State) :
    ∃ u, tokFault e p n code addr true true s = opFault p n code none u ∧ SameOp p n s u := by
  have hfault : ∀ v, v = logErr (pTOK e) code p (if code = 0x06 then addr else 0) 0 (tokHdrFault e p n code s) →
      tokFault e p n code addr true true s =
        opFault p n code none (tokForget e p n (tokFltSet e code (v.slot p n) p addr v)) := by
    intro v hv
    simp only [tokFault, hv, if_true]
  generalize hv : logErr (pTOK e) code p (if code = 0x06 then addr else 0) 0 (tokHdrFault e p n code s) = v at hfault
  have hlog : Accessed s (tokFltSet e code (v.slot p n) p addr v) :=
    (tokHdrFault_accessed e p n code s).trans ((hv ▸ logErr_accessed _ _ _ _ _ _).trans (tokFltSet_accessed _ _ _ _ _ _))
  exact ⟨_, hfault v rfl, .of_sch (by rw [tokForget_sch, hlog.sch_eq]) (by rw [tokForget_mem, hlog.wait_eq])⟩

/-- R400: before an operation of a migration engine ends, its engine touches registers and its own state. -/
theorem migFault_ends (d p n code : Nat) (s : State) :
    ∃ u, migFltEnd d p n code 0 (logErr (pMIG d) code p 0 0 s) = opFault p n code none u ∧ SameOp p n s u := by
  refine ⟨_, rfl, .of_sch ?_ ?_⟩
  · simp only [State.setMop_sch, State.setW64_sch, State.setF_sch]
    exact (logErr_accessed _ _ _ _ _ s).sch_eq
  · simp only [State.setMop_mem, State.setW64_mem, State.setF_mem, logErr_mem]

/-- R431: the scheduler's own operation leaves the delay list before it ends. -/
theorem schedFault_ends (p n code : Nat) (s : State) :
    SameOp p n s (logErr (pSCH p) code p n 0
      (s.setSc p { s.sc p with delay := (s.sc p).delay.filter (fun e => e.2 != n) })) := by
  have hlog := (logErr_accessed (pSCH p) code p n 0
    (s.setSc p { s.sc p with delay := (s.sc p).delay.filter (fun e => e.2 != n) })).sch_eq
  refine ⟨?_, fun fl => ?_, by rw [logErr_mem, State.setSc_mem]⟩
  · rw [State.slot_congr hlog]
    simp only [State.slot, State.sc_setSc_same]
  · rw [State.flow_congr hlog]
    simp only [State.flow, State.sc_setSc_same]

/-- A running operation that no core executes faults after its executor has noted the fault. -/
theorem execFault_off_core {p n : Nat} (code : Nat) (hrun : (s.slot p n).st = .running)
    (hheld : (s.slot p n).heldRel = false) (hcore : ∀ c, (s.slot p n).exec ≠ some (.core c)) :
    ∃ u, execFault p n code s = opFault p n code none u ∧ SameOp p n s u := by
  unfold execFault
  dsimp only
  rw [if_pos (by rw [hrun, hheld]; rfl)]
  split
  case h_1 c h => exact absurd h (hcore c)
  case h_2 e _ => exact tokFault_ends e p n code 0 s
  case h_3 d _ => exact migFault_ends d p n code s
  case h_4 d _ => exact ⟨_, rfl, .of_sch (logErr_accessed _ _ _ _ _ s).sch_eq (by rw [logErr_mem])⟩
  case h_5 => exact ⟨_, rfl, schedFault_ends p n code s⟩

/-- R53, R426: an operation without FREL that no core executes, in an atomic flow, is FAULTED by its executor's fault,
which makes no command wait. -/
theorem execFault_faulted {p n : Nat} (code : Nat) (hrun : (s.slot p n).st = .running)
    (hheld : (s.slot p n).heldRel = false) (hcore : ∀ c, (s.slot p n).exec ≠ some (.core c))
    (hfrel : (s.slot p n).frel = false) (hatomic : (s.flow p (s.slot p n).flow).ordered = false) :
    ((execFault p n code s).slot p n).st = .faulted ∧ (execFault p n code s).mem.wait = s.mem.wait := by
  obtain ⟨u, he, hslot, hflow, hwait⟩ := execFault_off_core code hrun hheld hcore
  rw [← hslot] at hrun hheld hfrel
  rw [← hslot, ← hflow] at hatomic
  rw [he]
  exact ⟨opFault_faulted hrun hheld hfrel hatomic, (opFault_wait u p n code none).trans hwait⟩

/-! ## The command -/

theorem exec_handshakeTimeout (hs : Hs) {resp : Nat} (h : resp < 16384) (s : State) :
    exec (.handshakeTimeout hs resp) s = runErr [] (resp :: s.hsPages hs) s (hsTimeout hs resp) := by
  show whenOk (okPage resp) s _ = _
  rw [whenOk, okPage, below, if_pos (decide_eq_true h)]

/-! ## A program load -/

theorem hsTimeout_load {c resp : Nat} {x : Pld} (h : (s.core c).pld = some x) :
    hsTimeout (.load c) resp s =
      if s.expired (pCORE c) x.iss then
        pldFail c 0x03 (abandon (.load c) resp (logErr (pCORE c) 0x03 x.own 0 0 s)) else s := by
  simp only [hsTimeout, h]

/-- The fields of CORE_PLD_STS after a load has failed. -/
theorem pldFail_status (c : Nat) (s : State) :
    (pldFail c 0x03 s).f (pCORE c) F.CORE_PLD_STS_BUSY = 0 ∧ (pldFail c 0x03 s).f (pCORE c) F.CORE_PLD_STS_ERR = 1 ∧
      (pldFail c 0x03 s).f (pCORE c) F.CORE_PLD_STS_CODE = 0x03 := by
  simp only [pldFail, State.setCore_f]
  exact ⟨State.f_setW_same s _ _ F.CORE_PLD_STS_BUSY (by decide), State.f_setW_same s _ _ F.CORE_PLD_STS_ERR (by decide),
    State.f_setW_same s _ _ F.CORE_PLD_STS_CODE (by decide)⟩

theorem pldFail_f (c code : Nat) (s : State) (pg : Nat) (y : Fld)
    (hy : y.ofs < 4096 ∧ y.ofs ≠ R.CORE_PLD_STS := by decide) : (pldFail c code s).f pg y = s.f pg y := by
  obtain ⟨hlt, hne⟩ := hy
  rw [pldFail, State.setCore_f, State.f, State.f, State.reg_setW _ _ _ _ _ (by simp only [R.CORE_PLD_STS] at hne ⊢; omega)]

theorem pldFail_ras (c code : Nat) (s : State) : (pldFail c code s).ras = s.ras := by
  simp only [pldFail, State.setCore_ras, State.setW_ras]

theorem pldFail_mem (c code : Nat) (s : State) : (pldFail c code s).mem = s.mem := by
  simp only [pldFail, State.setCore_mem, State.setW_mem]

theorem pldFail_pld (c code : Nat) (s : State) : ((pldFail c code s).core c).pld = none := by
  simp only [pldFail, State.core_setCore_same]

theorem pldFail_core_ne {c d : Nat} (h : d ≠ c) (code : Nat) (s : State) : (pldFail c code s).core d = s.core d := by
  rw [pldFail, State.core_setCore_ne _ _ _ _ h, State.setW_core]

theorem pCORE_ne_pRAS (c : Nat) : pCORE c ≠ pRAS := by
  show 0x1000 + c ≠ 5
  omega

theorem recentTmos_congr (hras : t.ras = s.ras) (htb : t.tb = s.tb)
    (hf : t.f pRAS F.RAS_ESC_CFG_WIN_US = s.f pRAS F.RAS_ESC_CFG_WIN_US) (resp : Nat) :
    t.recentTmos resp = s.recentTmos resp := by
  simp only [State.recentTmos, State.now, hras, htb, hf]

theorem finds_recentTmos (s : State) (errs : Errs) (resp : Nat) : (s.finds errs).recentTmos resp = s.recentTmos resp := rfl

/-- An error logged outside RAS's page changes nothing that a timeout is counted by. -/
theorem logErr_recentTmos {pg : Nat} (h : pg ≠ pRAS) (code subj detail aux : Nat) (s : State) (resp : Nat) :
    (logErr pg code subj detail aux s).recentTmos resp = s.recentTmos resp := by
  have hframe := (OnlyRegsEv.refl (noted pg) s).logErr pg code subj detail aux (fun _ h => h)
  exact recentTmos_congr hframe.ras_eq hframe.tb_eq
    (logErr_f_page pg code subj detail aux s pRAS _ h.symm (by decide)) resp

/-- R52 to R55: what the timeout of a program load does to its core, and to its responder. -/
theorem goes_loadTimeout {c resp : Nat} {x : Pld} (hd : s.dead = false) (hresp : resp < 16384)
    (hx : (s.core c).pld = some x) (hexp : s.expired (pCORE c) x.iss = true) :
    Goes (.handshakeTimeout (.load c) resp) s fun t =>
      t.ras.abandoned = s.ras.abandoned ++ [.load c] ∧ (t.core c).pld = none ∧
      t.f (pCORE c) F.CORE_PLD_STS_BUSY = 0 ∧ t.f (pCORE c) F.CORE_PLD_STS_ERR = 1 ∧
      t.f (pCORE c) F.CORE_PLD_STS_CODE = 0x03 ∧ t.f (pCORE c) F.PG_ERR_CNT_LAST = 0x03 ∧
      (∀ d, d ≠ c → t.core d = s.core d) ∧ SameMem s t ∧
      ((s.recentTmos resp).length + 1 < s.f pRAS F.RAS_ESC_CFG_TMO_THR →
        SMap.get t.ras.tmos resp [] = s.now :: s.recentTmos resp ∧ t.ras.log = s.ras.log) ∧
      (s.f pRAS F.RAS_ESC_CFG_TMO_THR ≤ (s.recentTmos resp).length + 1 → s.ras.log.length < 256 →
        t.f resp F.PG_CTL_HOLD = 1 ∧ t.f pRAS F.PG_ERR_CNT_LAST = 0x03 ∧ SMap.get t.ras.tmos resp [] = [] ∧
        ∃ e, t.ras.log = s.ras.log ++ [e] ∧ e.kind = 8 ∧ e.page = resp) := by
  have hk := hsTimeout_load (s := s.finds []) (resp := resp) ((congrArg Core.pld (finds_core s [] c)).trans hx)
  rw [finds_expired, if_pos hexp] at hk
  have hlogged := logErr_fields (pCORE c) 0x03 x.own 0 0 (s.finds [])
  have hframe := (OnlyRegsEv.refl (noted (pCORE c)) (s.finds [])).logErr (pCORE c) 0x03 x.own 0 0 (fun _ h => h)
  have hrecent := (logErr_recentTmos (pCORE_ne_pRAS c) 0x03 x.own 0 0 (s.finds []) resp).trans (finds_recentTmos s [] resp)
  have hthr := logErr_f_page (pCORE c) 0x03 x.own 0 0 (s.finds []) pRAS F.RAS_ESC_CFG_TMO_THR (pCORE_ne_pRAS c).symm (by decide)
  rw [finds_f] at hthr
  generalize logErr (pCORE c) 0x03 x.own 0 0 (s.finds []) = a at hk hlogged hframe hrecent hthr
  have hmem : (pldFail c 0x03 (abandon (.load c) resp a)).mem = (s.finds []).mem := by
    rw [pldFail_mem, abandon_mem, hframe.mem_eq]
  refine goes_runErr (exec_handshakeTimeout _ hresp s) hd (by rw [hk, hmem]; rfl) (fun t ht => ?_)
  rw [hk] at ht
  have hras : t.ras = (abandon (.load c) resp a).ras := ht.ras_eq.trans (pldFail_ras c _ _)
  have haras : a.ras = s.ras := hframe.ras_eq
  obtain ⟨hbusy, herr, hcode⟩ := pldFail_status c (abandon (.load c) resp a)
  refine ⟨?_, ?_, (ht.f_eq _ _).trans hbusy, (ht.f_eq _ _).trans herr, (ht.f_eq _ _).trans hcode, ?_, fun d hne => ?_,
    ht.sameMem hmem, fun hlow => ?_, fun hhigh hlen => ?_⟩
  · rw [hras, abandon_abandoned, haras]
  · rw [ht.core_eq, pldFail_pld]
  · exact (ht.f_eq _ _).trans ((pldFail_f _ _ _ _ _).trans ((abandon_f _ _ _ _ _ (pCORE_ne_pRAS c)).trans hlogged.1))
  · rw [ht.core_eq, pldFail_core_ne hne, abandon_core, hframe.core_eq, finds_core]
  · obtain ⟨htmos, hlog⟩ := abandon_below (s := a) (.load c) (resp := resp) (by rw [hrecent, hthr]; exact hlow)
    have hnow : a.now = s.now := by rw [State.now, hframe.tb_eq, finds_tb]
    rw [hras, htmos, hlog, haras, hrecent, hnow]
    exact ⟨rfl, rfl⟩
  · obtain ⟨hhold, hlast, htmos, hlog⟩ := abandon_holds (s := a) (.load c) (resp := resp)
      (by rw [hrecent, hthr]; exact hhigh) (by rw [haras]; exact hlen)
    rw [hras, ← haras]
    exact ⟨(ht.f_eq _ _).trans ((pldFail_f _ _ _ _ _).trans hhold),
      (ht.f_eq _ _).trans ((pldFail_f _ _ _ _ _).trans hlast), htmos, hlog⟩

end Sys2Proof.Machine
end

