-- ==== Sys2Proof/Proofs/TimeoutsOfRequests.lean ====
section
/-! PROOF.  The timeouts of a transfer queue's request, of an operation's executor and of a transfer in the die bridge
(R49, R52, R53), what arrives late (R54, R255), and an uncorrectable error in a scheduler's SRAM (R644, Table 18-1). -/

namespace Sys2Proof.Machine

variable {s t : State}

/-- A handshake whose time has not passed is not found timed out. -/
theorem goes_notExpired {hs : Hs} {resp pg : Nat} {i : Issued} {k : State} (hd : s.dead = false) (hresp : resp < 16384)
    (hk : hsTimeout hs resp (s.finds []) = if (s.finds []).expired pg i = true then k else s.finds [])
    (hexp : s.expired pg i = false) : Goes (.handshakeTimeout hs resp) s fun t => Waits s t :=
  goes_waits (exec_handshakeTimeout hs hresp s) hd (by rw [hk, finds_expired, hexp, if_neg Bool.false_ne_true])

/-! ## A request of a transfer queue -/

/-- The request of a tier that goes by an identity is the one the timeout finds. -/
theorem find_tier {l : List TqReq} {r : TqReq} (h : l.find? (fun x => x.id == r.id) = some r) (ht : r.tier < 4) :
    l.find? (fun x => x.id == r.id && decide (x.tier < 4)) = some r := by
  rw [List.find?_eq_some_iff_append] at h ⊢
  obtain ⟨hid, as, bs, hl, has⟩ := h
  exact ⟨by rw [hid, decide_eq_true ht]; rfl, as, bs, hl, fun a ha => by rw [Bool.not_and, has a ha, Bool.true_or]⟩

theorem hsTimeout_tq {c q resp : Nat} {r : TqReq} (h : (s.tq c q).reqs.find? (fun x => x.id == r.id) = some r)
    (ht : r.tier < 4) :
    hsTimeout (.tq c q r.id) resp s =
      if s.expired (pCORE c) r.iss = true then coreTimeout c (s.tq c q).pc (.tq c q r.id) r.tier r.addr (some r.tag) s
      else s := by
  simp only [hsTimeout, find_tier h ht]

/-- R52, R53: a core whose request has timed out drops its operation, and the fault makes no command wait. -/
theorem coreTimeout_drops (c pc : Nat) (hs : Hs) (tier addr : Nat) (tag : Option Nat) (s : State) :
    (coreTimeout c pc hs tier addr tag s).dropped c ∧ (coreTimeout c pc hs tier addr tag s).mem.wait = s.mem.wait :=
  ⟨coreFaultAt_dropped _ _ _ _ _ _ _, by rw [coreTimeout, coreFaultLogAt_wait, abandon_mem]⟩

theorem goes_tqTimeout {c q resp : Nat} {r : TqReq} (hd : s.dead = false) (hresp : resp < 16384)
    (h : (s.tq c q).reqs.find? (fun x => x.id == r.id) = some r) (ht : r.tier < 4)
    (hexp : s.expired (pCORE c) r.iss = true) :
    Goes (.handshakeTimeout (.tq c q r.id) resp) s fun t => t.dropped c := by
  have hk := hsTimeout_tq (s := s.finds []) (resp := resp) (by rwa [finds_tq]) ht
  rw [finds_expired, if_pos hexp] at hk
  obtain ⟨hdrop, hwait⟩ := coreTimeout_drops c ((s.finds []).tq c q).pc (.tq c q r.id) r.tier r.addr (some r.tag) (s.finds [])
  refine goes_runErr (exec_handshakeTimeout _ hresp s) hd (by rw [hk, hwait]; rfl) (fun t ht => ?_)
  rw [hk] at ht
  unfold State.dropped at hdrop ⊢
  rw [ht.core_eq]
  exact hdrop

/-! ## The requests of an operation's executor -/

theorem OpSlot.bulk_running {o : OpSlot} (h : o.bulk = true) : o.st = .running ∧ o.heldRel = false := by
  simp only [OpSlot.bulk, Bool.and_eq_true, beq_iff_eq, Bool.not_eq_true'] at h
  obtain ⟨⟨⟨hst, hrel⟩, -⟩, -⟩ := h
  exact ⟨hst, hrel⟩

theorem hsTimeout_op {p n resp : Nat} (h : (s.slot p n).bulk = true) :
    hsTimeout (.op p n) resp s =
      if s.expired (execPage p (s.slot p n).exec) (s.slot p n).iss = true then
        execFault p n 0x03 (abandon (.op p n) resp s) else s := by
  simp only [hsTimeout, h, Bool.true_and]

theorem goes_opTimeout {p n resp : Nat} (hd : s.dead = false) (hresp : resp < 16384) (h : (s.slot p n).bulk = true)
    (hfrel : (s.slot p n).frel = false) (hatomic : (s.flow p (s.slot p n).flow).ordered = false)
    (hexp : s.expired (execPage p (s.slot p n).exec) (s.slot p n).iss = true)
    (hcore : ∀ c, (s.slot p n).exec ≠ some (.core c)) :
    Goes (.handshakeTimeout (.op p n) resp) s fun t => (t.slot p n).st = .faulted := by
  have hk := hsTimeout_op (s := s.finds []) (resp := resp) (by rwa [finds_slot])
  rw [finds_slot, finds_expired, if_pos hexp] at hk
  have hsch : (abandon (.op p n) resp (s.finds [])).sch = s.sch := (abandon_sch _ _ _).trans (finds_sch s [])
  have hslot := State.slot_congr hsch p n
  obtain ⟨hrun, hheld⟩ := OpSlot.bulk_running h
  obtain ⟨hfault, hwait⟩ := execFault_faulted (s := abandon (.op p n) resp (s.finds [])) 0x03 (hslot ▸ hrun)
    (hslot ▸ hheld) (hslot ▸ hcore) (hslot ▸ hfrel) (by rw [hslot, State.flow_congr hsch]; exact hatomic)
  refine goes_runErr (exec_handshakeTimeout _ hresp s) hd (by rw [hk, hwait, abandon_mem]; rfl) (fun t ht => ?_)
  rw [hk] at ht
  rw [State.slot_congr ht.sch_eq]
  exact hfault

/-! ## A transfer in the die bridge -/

theorem hsTimeout_bridge {id resp : Nat} {x : BridgeXfer} (h : s.bridge.inFlight.find? (fun y => y.id == id) = some x) :
    hsTimeout (.bridge id) resp s = if s.expired (pBRG x.die) x.iss = true then bridgeTimeout x resp s else s := by
  simp only [hsTimeout, h]

/-- R99: what a discarded transfer on which no operation depends leaves in the bridge, and what it leaves alone. -/
theorem dropXfer_leaves {x : BridgeXfer} (h : x.dep = none) (code : Nat) (s : State) :
    (dropXfer code x s).bridge.inFlight = s.bridge.inFlight.filter (fun y => y.id != x.id) ∧
      (dropXfer code x s).bridge.used =
        SMap.put s.bridge.used (x.die * 3 + x.cls) (SMap.get s.bridge.used (x.die * 3 + x.cls) 0 - 1) 0 ∧
      (dropXfer code x s).regs = s.regs ∧ (dropXfer code x s).mem = s.mem := by
  unfold dropXfer
  rw [h]
  dsimp only
  split <;> exact ⟨rfl, rfl, rfl, rfl⟩

theorem pBRG_ne_pRAS {die : Nat} (h : die < 2) : pBRG die ≠ pRAS := by
  show 0xA + die ≠ 5
  omega

/-- R52: what the timeout of a transfer on which no operation depends does to the bridge and its page. -/
theorem bridgeTimeout_leaves {x : BridgeXfer} (hdep : x.dep = none) (hdie : x.die < 2) (resp : Nat) (s : State) :
    (bridgeTimeout x resp s).bridge.inFlight = s.bridge.inFlight.filter (fun y => y.id != x.id) ∧
      (bridgeTimeout x resp s).bridge.used =
        SMap.put s.bridge.used (x.die * 3 + x.cls) (SMap.get s.bridge.used (x.die * 3 + x.cls) 0 - 1) 0 ∧
      (bridgeTimeout x resp s).f (pBRG x.die) F.PG_ERR_CNT_LAST = 0x03 ∧ (bridgeTimeout x resp s).mem = s.mem := by
  unfold bridgeTimeout
  dsimp only
  generalize x.dep.elim (s.defSubj (pBRG x.die)) (·.1) = subj
  have hlogged := (logErr_fields (pBRG x.die) 0x03 subj 0 0 s).1
  have hframe := (OnlyRegsEv.refl (noted (pBRG x.die)) s).logErr (pBRG x.die) 0x03 subj 0 0 (fun _ h => h)
  generalize logErr (pBRG x.die) 0x03 subj 0 0 s = a at hlogged hframe ⊢
  have hlast := (abandon_f (.bridge x.id) resp a (pBRG x.die) F.PG_ERR_CNT_LAST (pBRG_ne_pRAS hdie)).trans hlogged
  have hbridge := (abandon_bridge (.bridge x.id) resp a).trans hframe.bridge_eq
  have hmem := (abandon_mem (.bridge x.id) resp a).trans hframe.mem_eq
  generalize abandon (.bridge x.id) resp a = b at hlast hbridge hmem ⊢
  obtain ⟨hfly, hused, hregs, hkept⟩ := dropXfer_leaves hdep 0x03 b
  rw [State.addF_bridge, State.addF_mem, hfly, hused, hkept, hbridge, hmem]
  refine ⟨rfl, rfl, ?_, rfl⟩
  rw [State.f_addF_other _ _ _ _ _ (by decide) (by decide) (by decide), State.f_congr hregs, hlast]

theorem goes_bridgeTimeout {id resp : Nat} {x : BridgeXfer} (hd : s.dead = false) (hresp : resp < 16384)
    (h : s.bridge.inFlight.find? (fun y => y.id == id) = some x) (hdie : x.die < 2)
    (hexp : s.expired (pBRG x.die) x.iss = true) (hdep : x.dep = none) :
    Goes (.handshakeTimeout (.bridge id) resp) s fun t =>
      (∀ y ∈ t.bridge.inFlight, y.id ≠ id) ∧ t.f (pBRG x.die) F.PG_ERR_CNT_LAST = 0x03 ∧
      t.bridge.used.get (x.die * 3 + x.cls) 0 = s.bridge.used.get (x.die * 3 + x.cls) 0 - 1 := by
  have hid : x.id = id := by simpa using List.find?_some h
  have hk := hsTimeout_bridge (s := s.finds []) (resp := resp) (by rwa [finds_bridge])
  rw [finds_expired, if_pos hexp] at hk
  obtain ⟨hfly, hused, hlast, hmem⟩ := bridgeTimeout_leaves hdep hdie resp (s.finds [])
  refine goes_runErr (exec_handshakeTimeout _ hresp s) hd (by rw [hk, hmem]; rfl) (fun t ht => ?_)
  rw [hk] at ht
  rw [ht.bridge_eq, hfly, hused, hid, SMap.get_put_same, finds_bridge]
  exact ⟨fun y hy => by simpa using List.of_mem_filter hy, (ht.f_eq _ _).trans hlast, rfl⟩

/-! ## What arrives late -/

theorem goes_lateAck (hs : Hs) (hd : s.dead = false) :
    Goes (.lateAck hs) s fun t => t = { s with ras := { s.ras with abandoned := s.ras.abandoned.erase hs } } :=
  goes_run (pgs := []) (k := lateArrival hs) rfl hd rfl

theorem goes_lateDataDiscard (hs : Hs) (hd : s.dead = false) :
    Goes (.lateDataDiscard hs) s fun t => t = { s with ras := { s.ras with abandoned := s.ras.abandoned.erase hs } } :=
  goes_run (pgs := []) (k := lateArrival hs) rfl hd rfl

/-! ## An SRAM error of a scheduler -/

theorem pageInfo_pSCH {p : Nat} (h : p < 8) : pageInfo (pSCH p) = some (.sch, p + 1) := by
  revert h p
  decide

/-- R644: an error of a scheduler's SRAM is counted and joins the history log. -/
theorem sramUe_sched {p : Nat} (h : p < 8) (own : Nat) (s : State) :
    sramUe (pSCH p) own s = hist 7 0 0 (pSCH p) own (s.addF pRAS F.RAS_CNT_SRAM_UE_CNT 1) := by
  unfold sramUe
  rw [pageInfo_pSCH h]

/-- R644, Table 18-1: the page of a scheduler whose SRAM has failed logs 0x07 and is held, and RAS counts the error. -/
theorem schedSram_fields {p : Nat} (hp : p < 8) (n : Nat) (s : State) :
    (sramFault p n .sched s).f (pSCH p) F.PG_CTL_HOLD = 1 ∧ (sramFault p n .sched s).f (pSCH p) F.PG_ERR_CNT_LAST = 0x07 ∧
      (sramFault p n .sched s).f pRAS F.RAS_CNT_SRAM_UE_CNT =
        min (2 ^ (F.RAS_CNT_SRAM_UE_CNT.hi + 1 - F.RAS_CNT_SRAM_UE_CNT.lo) - 1) (s.f pRAS F.RAS_CNT_SRAM_UE_CNT + 1) := by
  have hpg : pSCH p ≠ pRAS := by
    show 0x11 + p ≠ 5
    omega
  have hcount : (sramUe (pSCH p) p s).f pRAS F.RAS_CNT_SRAM_UE_CNT =
      min (2 ^ (F.RAS_CNT_SRAM_UE_CNT.hi + 1 - F.RAS_CNT_SRAM_UE_CNT.lo) - 1) (s.f pRAS F.RAS_CNT_SRAM_UE_CNT + 1) := by
    rw [sramUe_sched hp, hist_f _ _ _ _ _ _ _ _ (by decide)]
    exact State.f_addF_same s pRAS _ 1 (by decide) (by decide)
  simp only [sramFault]
  refine ⟨State.f_setF_same _ _ _ _ (by decide) (by decide), ?_, ?_⟩
  · rw [State.f_setF_other _ _ _ _ _ (by decide) (by decide) (by decide)]
    exact (logErr_fields _ _ _ _ _ _).1
  · rw [State.f_setF_page _ _ _ _ _ _ hpg (by decide) (by decide), logErr_f_page _ _ _ _ _ _ _ _ hpg.symm (by decide)]
    exact hcount

/-- An error of a scheduler's SRAM changes neither memory nor an operation slot. -/
theorem schedSram_keeps {p : Nat} (hp : p < 8) (n : Nat) (s : State) :
    (sramFault p n .sched s).mem = s.mem ∧ (sramFault p n .sched s).sch = s.sch := by
  have hlog := (OnlyRegsEv.refl (noted (pSCH p)) (sramUe (pSCH p) p s)).logErr (pSCH p) 0x07 p 0 0 (fun _ h => h)
  have hhist := hist_only 7 0 0 (pSCH p) p (s.addF pRAS F.RAS_CNT_SRAM_UE_CNT 1)
  simp only [sramFault, State.setF_mem, State.setF_sch]
  rw [hlog.mem_eq, hlog.sch_eq, sramUe_sched hp, hhist.mem_eq, hhist.sch_eq, State.withRas_mem, State.withRas_sch,
    State.addF_mem, State.addF_sch]
  exact ⟨rfl, rfl⟩

theorem exec_operationFault {p n code : Nat} (site : Sram) (errs : Errs) (hp : p < 8) (hn : n < 65536)
    (hc : code < 256) (s : State) :
    exec (.operationFault p n code (some site) errs) s = runErr errs (s.faultPages p n) s (sramFault p n site) := by
  show whenOk (okPart p && okSlot n && below 256 code) s _ = _
  rw [whenOk, okPart, okSlot, below, below, below, if_pos (by simp only [hp, hn, hc, decide_true, Bool.and_self])]

theorem goes_schedSram {p n code : Nat} (errs : Errs) (hd : s.dead = false) (hp : p < 8) (hn : n < 65536)
    (hc : code < 256) :
    Goes (.operationFault p n code (some .sched) errs) s fun t =>
      t.f (pSCH p) F.PG_CTL_HOLD = 1 ∧ t.f (pSCH p) F.PG_ERR_CNT_LAST = 0x07 ∧
      t.f pRAS F.RAS_CNT_SRAM_UE_CNT =
        min (2 ^ (F.RAS_CNT_SRAM_UE_CNT.hi + 1 - F.RAS_CNT_SRAM_UE_CNT.lo) - 1) (s.f pRAS F.RAS_CNT_SRAM_UE_CNT + 1) ∧
      (t.sc p).slots = (s.sc p).slots ∧ SameMem s t := by
  obtain ⟨hhold, hlast, hcount⟩ := schedSram_fields hp n (s.finds errs)
  obtain ⟨hmem, hsch⟩ := schedSram_keeps hp n (s.finds errs)
  refine goes_runErr (exec_operationFault .sched errs hp hn hc s) hd (by rw [hmem]; rfl) (fun t ht => ?_)
  refine ⟨(ht.f_eq _ _).trans hhold, (ht.f_eq _ _).trans hlast, (ht.f_eq _ _).trans hcount, ?_, ht.sameMem hmem⟩
  rw [State.sc, ht.sch_eq, hsch, finds_sch, State.sc]

/-- Settles O40, command by command: each timeout's effect, where its time has passed, and none before. -/
theorem handshakeTimeoutsAreLoggedAndCounted : Obligations.HandshakeTimeoutsAreLoggedAndCounted := by
  refine ⟨?load, ?tq, ?op, ?bridge, fun s hs hd => ⟨goes_lateAck hs hd, goes_lateDataDiscard hs hd⟩,
    fun s p n code errs hd hp hn hc => goes_schedSram errs hd hp hn hc⟩
  case load =>
    intro s c resp x hd _ hresp hx old
    have hk := hsTimeout_load (s := s.finds []) (resp := resp) ((congrArg Core.pld (finds_core s [] c)).trans hx)
    exact ⟨goes_notExpired hd hresp hk, goes_loadTimeout hd hresp hx⟩
  case tq =>
    intro s c q resp r hd _ hresp htier hfind
    have hk := hsTimeout_tq (s := s.finds []) (resp := resp) (by rwa [finds_tq]) htier
    exact ⟨goes_notExpired hd hresp hk, goes_tqTimeout hd hresp hfind htier⟩
  case op =>
    intro s p n resp hd _ _ hresp o hbulk hfrel hatomic
    have hk := hsTimeout_op (s := s.finds []) (resp := resp) (by rwa [finds_slot])
    rw [finds_slot] at hk
    exact ⟨goes_notExpired hd hresp hk, goes_opTimeout hd hresp hbulk hfrel hatomic⟩
  case bridge =>
    intro s id resp x hd hresp hfind hdie
    have hk := hsTimeout_bridge (s := s.finds []) (resp := resp) (by rwa [finds_bridge])
    exact ⟨goes_notExpired hd hresp hk, goes_bridgeTimeout hd hresp hfind hdie⟩

end Sys2Proof.Machine
end

