-- ==== Sys2Proof/Proofs/LinkSends.lean ====
section
/-! PROOF.  What sending on a link leaves alone: a flit that goes out changes the link's own state, its credits and its
page's counter, and nothing that a command goes by (R580 to R585, R724); and the NOP flit that returns the credits of
an accepted packet (R584). -/

namespace Sys2Proof.Machine

variable {s t u : State} {l : Nat}

/-- The offsets of a link page's counter and credits. -/
def sendOffsets : List Nat :=
  [R.PG_PERF_VAL_LO, R.PG_PERF_VAL_HI, R.LNK_CRD, R.LNK_CRD + 4, R.LNK_CRD + 8, R.LNK_CRD + 12, R.LNK_CRD + 16]

/-- The registers that sending on a link changes: its page's counter and its credits. -/
def sendRegs (l : Nat) : List Nat := sendOffsets.map (pLNK l * 4096 + ·)

/-- From `s` to `t` the state of links, what has gone out, and the credits and counter of link `l` may have changed, and
nothing else. -/
def Sent (l : Nat) (s t : State) : Prop :=
  t = { s with regs := t.regs, links := t.links, out := t.out } ∧ ∀ k, k ∉ sendRegs l → t.reg k = s.reg k

namespace Sent

theorem refl (l : Nat) (s : State) : Sent l s s := ⟨rfl, fun _ _ => rfl⟩

theorem trans (h : Sent l s t) (k : Sent l t u) : Sent l s u :=
  ⟨by rw [k.1, h.1], fun i hi => (k.2 i hi).trans (h.2 i hi)⟩

theorem fab_eq (h : Sent l s t) : t.fab = s.fab := (congrArg State.fab h.1 :)
theorem mem_eq (h : Sent l s t) : t.mem = s.mem := (congrArg State.mem h.1 :)
theorem sch_eq (h : Sent l s t) : t.sch = s.sch := (congrArg State.sch h.1 :)
theorem cores_eq (h : Sent l s t) : t.cores = s.cores := (congrArg State.cores h.1 :)
theorem prt_eq (h : Sent l s t) : t.prt = s.prt := (congrArg State.prt h.1 :)
theorem tb_eq (h : Sent l s t) : t.tb = s.tb := (congrArg State.tb h.1 :)
theorem router_eq (h : Sent l s t) : t.router = s.router := (congrArg State.router h.1 :)

/-- A field of no credit register and no counter reads as before. -/
theorem f_eq (h : Sent l s t) (pg : Nat) (y : Fld)
    (hy : y.ofs < 4096 ∧ y.ofs ≠ R.PG_PERF_VAL_LO ∧ y.ofs ≠ R.PG_PERF_VAL_HI ∧ (y.ofs < R.LNK_CRD ∨ R.LNK_CRD + 16 < y.ofs)
      := by decide) : t.f pg y = s.f pg y := by
  have hk : pg * 4096 + y.ofs ∉ sendRegs l := by
    obtain ⟨hlt, hlo, hhi, hcrd⟩ := hy
    simp only [sendRegs, sendOffsets, List.map_cons, List.map_nil, List.mem_cons, List.not_mem_nil, or_false, R.PG_PERF_VAL_LO,
      R.PG_PERF_VAL_HI, R.LNK_CRD] at hlo hhi hcrd ⊢
    omega
  simp only [State.f, h.2 _ hk]

end Sent

/-! ## What goes out on the lanes -/

theorem sendBits_sent (l lane n v : Nat) (s : State) : Sent l s (sendBits l lane n v s) := by
  unfold sendBits
  split <;> exact ⟨rfl, fun _ _ => rfl⟩

theorem setLink_sent (l j : Nat) (v : LinkSt) (s : State) : Sent l s (s.setLink j v) := ⟨rfl, fun _ _ => rfl⟩

theorem sendBlock_sent (l lane hdr v : Nat) (s : State) : Sent l s (sendBlock l lane hdr v s) := by
  unfold sendBlock
  dsimp only
  split
  · exact sendBits_sent _ _ _ _ s
  · split
    · exact setLink_sent _ _ _ s
    · exact (setLink_sent _ _ _ s).trans (sendBits_sent _ _ _ _ _)

theorem forUp_sent {f : Nat → State → State} (hf : ∀ i t, Sent l t (f i t)) : ∀ n i s, Sent l s (forUp f n i s)
  | 0, _, s => .refl l s
  | n + 1, i, s => (hf i s).trans (forUp_sent hf n (i + 1) _)

theorem sendRaw_sent (l : Nat) (bs : List Byte) (s : State) : Sent l s (sendRaw l bs s) := by
  have hemit : Sent l s (s.emit (.block l bs)) := ⟨rfl, fun _ _ => rfl⟩
  unfold sendRaw
  dsimp only
  split
  · exact hemit
  · exact hemit.trans (forUp_sent (fun _ _ => sendBlock_sent _ _ _ _ _) 8 0 _)

theorem sendNop_sent (l : Nat) (nak : Bool) (cvc crd : Nat) (s : State) : Sent l s (sendNop l nak cvc crd s) :=
  (setLink_sent l l _ s).trans (sendRaw_sent _ _ _)

/-! ## Packets that go out -/

theorem ne_of_not_mem_sendRegs {k o : Nat} (hk : k ∉ sendRegs l) (h : o ∈ sendOffsets) : k ≠ pLNK l * 4096 + o :=
  fun e => hk (e.symm ▸ List.mem_map_of_mem h)

theorem setCounter_sent (l v : Nat) (s : State) :
    Sent l s (s.setW64 (pLNK l) R.PG_PERF_VAL_LO R.PG_PERF_VAL_HI v) :=
  ⟨rfl, fun _ hk => State.reg_setW64 _ _ _ _ _ _ (ne_of_not_mem_sendRegs hk (by decide))
    (ne_of_not_mem_sendRegs hk (by decide))⟩

theorem perf_sent (l code n : Nat) (s : State) : Sent l s (perf (pLNK l) code n s) := by
  unfold perf perfOwn
  dsimp only
  split
  · exact setCounter_sent l _ s
  · exact .refl l s

/-- The credits of a channel are among the registers that sending changes. -/
theorem setCredit_sent {v : Nat} (hv : v < 5) (x : Fld) (hx : x.ofs = R.LNK_CRD) (n : Nat) (s : State) :
    Sent l s (s.setF (pLNK l) (x.at 4 v) n) := by
  have hmem : ∀ v, v < 5 → R.LNK_CRD + 4 * v ∈ sendOffsets := by decide
  exact ⟨rfl, fun k hk => State.reg_setF _ _ _ _ _ (ne_of_not_mem_sendRegs hk (by rw [Fld.at, hx]; exact hmem v hv))⟩

theorem sendFlit_sent (l : Nat) (f : Flit) (s : State) : Sent l s (sendFlit l f s) := by
  have hflit : ∀ (t : State) (k : LinkSt) (bs : List Byte), Sent l t (perf (pLNK l) 0x80 1 (sendRaw l bs (t.setLink l k))) :=
    fun t k bs => (setLink_sent l l k t).trans ((sendRaw_sent l bs _).trans (perf_sent l _ _ _))
  unfold sendFlit
  dsimp only
  split
  · exact (sendNop_sent _ _ _ _ s).trans (hflit _ _ _)
  · exact hflit s _ _

theorem sendBodies_sent (l : Nat) : ∀ (bs : List (List Byte)) (s : State), Sent l s (sendBodies l bs s)
  | [], s => .refl l s
  | _ :: bs, s => (setLink_sent l l _ s).trans ((sendFlit_sent l _ _).trans (sendBodies_sent l bs _))

/-- R585: the packet that goes next is of one of the five channels. -/
theorem nextPacket_channel {p : Packet} (h : s.nextPacket l = some p) : p.vc < 5 := by
  obtain ⟨v, hv, hp⟩ := List.mem_filterMap.1 (List.mem_of_head? h)
  obtain ⟨q, hq, hsend⟩ := Option.bind_eq_some_iff.1 hp
  have hqp : q = p := by
    split at hsend
    · exact Option.some.inj hsend
    · exact nomatch hsend
  have hvc : p.vc = v := by simpa [hqp] using List.find?_some hq
  simp only [List.map_cons, List.map_nil, List.mem_cons, List.not_mem_nil, or_false] at hv
  omega

theorem flush_sent (l : Nat) : ∀ (fuel : Nat) (s : State), Sent l s (flush l fuel s)
  | 0, s => .refl l s
  | fuel + 1, s => by
    unfold flush
    split
    · split
      · exact .refl l s
      case h_2 p hp =>
        exact (setLink_sent l l _ s).trans ((setCredit_sent (nextPacket_channel hp) F.LNK_CRD_TX rfl _ _).trans
          ((perf_sent l _ _ _).trans ((sendBodies_sent l _ _).trans (flush_sent l fuel _))))
    · exact .refl l s

theorem enqueuePkt_sent (l : Nat) (p : Packet) (s : State) : Sent l s (enqueuePkt l p s) :=
  (setLink_sent l l _ s).trans (flush_sent l _ _)

/-! ## Credits that return (R584) -/

theorem State.sentOn_congr (h : t.out = s.out) (l : Nat) : t.sentOn l = s.sentOn l := by
  simp only [State.sentOn, h]

theorem sendBits_sentOn (j l lane n v : Nat) (s : State) : (sendBits l lane n v s).sentOn j = s.sentOn j := by
  unfold sendBits
  split <;> rfl

theorem sendBlock_sentOn (j l lane hdr v : Nat) (s : State) : (sendBlock l lane hdr v s).sentOn j = s.sentOn j := by
  unfold sendBlock
  dsimp only
  split
  · exact sendBits_sentOn _ _ _ _ _ s
  · split
    · rfl
    · exact sendBits_sentOn _ _ _ _ _ _

/-- A flit that goes out is the latest sent on its link. -/
theorem sendRaw_sentOn (l : Nat) (bs : List Byte) (s : State) : (sendRaw l bs s).sentOn l = bs :: s.sentOn l := by
  have hemit : (s.emit (.block l bs)).sentOn l = bs :: s.sentOn l := by
    simp only [State.sentOn, State.emit, List.filterMap_cons, if_true]
  unfold sendRaw
  dsimp only
  split
  · exact hemit
  · exact (forUp_keeps (State.sentOn · l) (fun _ _ => sendBlock_sentOn _ _ _ _ _ _) 8 0 _).trans hemit

@[simp] theorem State.setF_sentOn (s : State) (pg : Nat) (x : Fld) (v l : Nat) : (s.setF pg x v).sentOn l = s.sentOn l :=
  State.sentOn_congr (State.setF_out s pg x v) l

theorem sendNop_sentOn (l : Nat) (nak : Bool) (cvc crd : Nat) (s : State) :
    (sendNop l nak cvc crd s).sentOn l =
      flitBytes { ftype := 0, ack := (s.link l).rxSeq, ackv := true, nak := nak, cvc := cvc, crd := crd } [] :: s.sentOn l := by
  rw [sendNop, sendRaw_sentOn, State.sentOn_congr (State.setLink_out s l _)]

/-- Table 16-6: a receive buffer holds fewer units than its credit field can count. -/
theorem rxBuf_lt (v : Nat) : rxBuf v < 2 ^ 13 := by
  unfold rxBuf
  split <;> decide

/-- A channel's receive credits, set. -/
theorem crdRx_setF_same {v n : Nat} (hn : n < 2 ^ 13) : (s.setF (pLNK l) (F.LNK_CRD_RX.at 4 v) n).crdRx l v = n :=
  (State.f_setF_same s (pLNK l) (F.LNK_CRD_RX.at 4 v) n (show 16 ≤ 28 by decide) (show 28 < 32 by decide)).trans
    (Nat.mod_eq_of_lt hn)

theorem crdRx_lt (s : State) (l v : Nat) : s.crdRx l v < 2 ^ 13 := bits_lt _ _ _

/-- What the completion store does with a packet: it takes the packet, and its credits return. -/
def cplStored (l : Nat) (p : Packet) (s : State) : State := rxFree l true p (rxTake l p s)

theorem rxTake_sent {p : Packet} (hv : p.vc < 5) (s : State) : Sent l s (rxTake l p s) :=
  setCredit_sent hv F.LNK_CRD_RX rfl _ s

theorem linkUp_rxTake {p : Packet} (hv : p.vc < 5) (hup : s.linkUp l = true) : (rxTake l p s).linkUp l = true := by
  rw [State.linkUp, (rxTake_sent hv s).f_eq (pLNK l) F.LNK_STS_UP]
  exact hup

theorem cplStored_eq {p : Packet} (hv : p.vc < 5) (hup : s.linkUp l = true) :
    cplStored l p s = sendNop l false p.vc p.units
      ((rxTake l p s).setF (pLNK l) (F.LNK_CRD_RX.at 4 p.vc) (min (rxBuf p.vc) ((rxTake l p s).crdRx l p.vc + p.units))) := by
  rw [cplStored, rxFree, linkUp_rxTake hv hup, Bool.and_self, if_pos rfl]

theorem cplStored_sent {p : Packet} (hv : p.vc < 5) (hup : s.linkUp l = true) : Sent l s (cplStored l p s) := by
  rw [cplStored_eq hv hup]
  exact (rxTake_sent hv s).trans ((setCredit_sent hv F.LNK_CRD_RX rfl _ _).trans (sendNop_sent _ _ _ _ _))

theorem sendNop_regs (l : Nat) (nak : Bool) (cvc crd : Nat) (s : State) : (sendNop l nak cvc crd s).regs = s.regs := by
  have hbits : ∀ lane n v (t : State), (sendBits l lane n v t).regs = t.regs := fun lane n v t => by
    unfold sendBits
    split <;> rfl
  have hblock : ∀ lane hdr v (t : State), (sendBlock l lane hdr v t).regs = t.regs := fun lane hdr v t => by
    unfold sendBlock
    dsimp only
    split
    · exact hbits _ _ _ t
    · split
      · rfl
      · exact hbits _ _ _ _
  unfold sendNop sendRaw
  dsimp only
  split
  · rfl
  · exact forUp_keeps State.regs (fun _ _ => hblock _ _ _ _) 8 0 _

/-- R584: the packet's credits are back in its channel's buffer. -/
theorem cplStored_crdRx {p : Packet} (hv : p.vc < 5) (hup : s.linkUp l = true) (hu : p.units ≤ s.crdRx l p.vc) :
    (cplStored l p s).crdRx l p.vc = min (rxBuf p.vc) (s.crdRx l p.vc) := by
  have htake : (rxTake l p s).crdRx l p.vc = s.crdRx l p.vc - p.units :=
    crdRx_setF_same (Nat.lt_of_le_of_lt (Nat.sub_le _ _) (crdRx_lt s l _))
  rw [cplStored_eq hv hup, State.crdRx, State.f_congr (sendNop_regs _ _ _ _ _), ← State.crdRx,
    crdRx_setF_same (Nat.lt_of_le_of_lt (Nat.min_le_left _ _) (rxBuf_lt _)), htake, Nat.sub_add_cancel hu]

/-- R584: the NOP flit that returns a packet's credits is the latest sent on its link. -/
theorem cplStored_sentOn {p : Packet} (hv : p.vc < 5) (hup : s.linkUp l = true) :
    (cplStored l p s).sentOn l =
      flitBytes { ftype := 0, ack := (s.link l).rxSeq, ackv := true, cvc := p.vc, crd := p.units } [] :: s.sentOn l := by
  rw [cplStored_eq hv hup, sendNop_sentOn, State.setF_sentOn, State.setF_link, rxTake, State.setF_sentOn, State.setF_link]

/-! ## A request that goes out (R600) -/

/-- The request of `o` outstanding on link `l` from now on. -/
def State.asRequest (s : State) (o : FabOut) (l : Nat) : FabReq :=
  { who := o.who, part := o.part, link := l, opc := (hdrOf o.hdr).opc, since := s.nowOn (l / 32),
    rtmo := s.f (pLNK l) F.LNK_RTMO_US * 1000, id := o.id, etag := o.etag }

/-- The transaction layer with tag `g` granted to a request. -/
def Fab.grant (x : Fab) (g : Nat) (r : FabReq) : Fab :=
  { x with tags := SMap.put x.tags g (some r) none, nextTag := (g + 1) % 16384 }

theorem State.freeTag_congr (h : t.fab = s.fab) : t.freeTag = s.freeTag := by
  simp only [State.freeTag, State.tagReq, State.tagQuar, h]

/-- R600, R608: a request that names an up link whose peer knows it takes the free tag, and goes to its link. -/
theorem offer_named {o : FabOut} {g : Nat} (hlink : o.link = some l) (hup : s.linkUp l = true)
    (hfver : 3 ≤ s.f (pLNK l) F.LNK_PEER_FVER) (htag : s.freeTag = some g) :
    Sent l { s with fab := s.fab.grant g (s.asRequest o l) } (offer o s) := by
  have hpath : s.outPath o = some (l, bits o.hdr 43 32) := by simp only [State.outPath, hlink, hup, if_true]
  have hissue : ∃ p, issueReq o s = (.sent, enqueuePkt l p { s with fab := s.fab.grant g (s.asRequest o l) }) := by
    simp only [issueReq, hpath, fverOk, hfver, htag, if_true, Bool.not_true, Bool.false_eq_true, if_false]
    exact ⟨_, rfl⟩
  obtain ⟨p, hp⟩ := hissue
  rw [offer, hp]
  exact enqueuePkt_sent l p _

end Sys2Proof.Machine
end

