-- ==== Sys2Proof/Proofs/LinkPages.lean ====
section
/-! PROOF.  What does not touch a link's page: accesses to memory (R135, R150) and errors logged in
another page (R93). -/

namespace Sys2Proof.Machine

variable {s t u : State}

/-- Every register of a link's page reads in `t` as in `s`. -/
def LinkPagesKept (s t : State) : Prop := ∀ l, l < 64 → ∀ o, o < 4096 → t.reg (pLNK l * 4096 + o) = s.reg (pLNK l * 4096 + o)

/-- The page is no link's. -/
def OffLinks (pg : Nat) : Prop := ∀ l, l < 64 → pg ≠ pLNK l

theorem offLinks_iff {pg : Nat} : OffLinks pg ↔ pg < 0x300 ∨ 0x340 ≤ pg := by
  constructor
  · intro h
    by_contra hc
    exact h (pg - 0x300) (by omega) (show pg = 0x300 + (pg - 0x300) by omega)
  · intro h l hl (e : pg = 0x300 + l)
    omega

theorem offLinks_tierCtl (tier addr : Nat) : OffLinks (tierCtl tier addr) := by
  rw [offLinks_iff]
  unfold tierCtl
  split <;> omega

theorem offLinks_core (c : Nat) : OffLinks (pCORE c) :=
  offLinks_iff.2 (Or.inr (show 0x340 ≤ 0x1000 + c by omega))

theorem offLinks_ras : OffLinks pRAS := offLinks_iff.2 (by decide)
theorem offLinks_dbg : OffLinks pDBG := offLinks_iff.2 (by decide)

namespace LinkPagesKept

theorem refl (s : State) : LinkPagesKept s s := fun _ _ _ _ => rfl

theorem of_regs (h : t.regs = s.regs) : LinkPagesKept s t := fun _ _ _ _ => State.reg_congr h _

theorem trans (h : LinkPagesKept s t) (k : LinkPagesKept t u) : LinkPagesKept s u :=
  fun l hl o ho => (k l hl o ho).trans (h l hl o ho)

theorem f_eq (h : LinkPagesKept s t) {l : Nat} (hl : l < 64) (y : Fld) (hy : y.ofs < 4096 := by decide) :
    t.f (pLNK l) y = s.f (pLNK l) y := by
  simp only [State.f, h l hl _ hy]

theorem of_only {ks : List Nat} (h : OnlyRegsEv ks s t) (hk : ∀ k ∈ ks, OffLinks (k / 4096)) : LinkPagesKept s t :=
  fun l hl o ho => h.2 _ (fun hm => hk _ hm l hl (by omega))

end LinkPagesKept

theorem offLinks_noted {pg : Nat} (h : OffLinks pg) : ∀ k ∈ noted pg, OffLinks (k / 4096) := by
  intro k hk
  have hpg : k / 4096 = pg := by
    simp only [noted, List.mem_cons, List.not_mem_nil, or_false, R.PG_EVT_PEND, R.PG_ERR_FIRST, R.PG_ERR_CNT,
      R.PG_PERF_VAL_LO, R.PG_PERF_VAL_HI] at hk
    omega
  rwa [hpg]

section
variable {pg : Nat} (h : OffLinks pg)
include h

theorem setF_linkPages (x : Fld) (v : Nat) (s : State) (hx : x.ofs < 4096 := by decide) : LinkPagesKept s (s.setF pg x v) :=
  fun l hl o ho => State.reg_setF _ _ _ _ _ (by have := h l hl; omega)

theorem addF_linkPages (x : Fld) (n : Nat) (s : State) (hx : x.ofs < 4096 := by decide) : LinkPagesKept s (s.addF pg x n) :=
  setF_linkPages h x _ s hx

theorem perfOwn_linkPages (code n own : Nat) (s : State) : LinkPagesKept s (perfOwn pg code n own s) :=
  .of_only ((OnlyRegsEv.refl (noted pg) s).perfOwn pg code n own (fun _ h => h)) (offLinks_noted h)

theorem logErr_linkPages (code subj detail aux : Nat) (s : State) : LinkPagesKept s (logErr pg code subj detail aux s) :=
  .of_only ((OnlyRegsEv.refl (noted pg) s).logErr pg code subj detail aux (fun _ h => h)) (offLinks_noted h)

end

theorem forUp_linkPages {f : Nat → State → State} (hf : ∀ i t, LinkPagesKept t (f i t)) :
    ∀ n i s, LinkPagesKept s (forUp f n i s)
  | 0, _, s => .refl s
  | n + 1, i, s => (hf i s).trans (forUp_linkPages hf n (i + 1) _)

/-! ## Accesses to memory -/

theorem setCtl_linkPages (pg : Nat) (v : Ctl) (s : State) : LinkPagesKept s (s.setCtl pg v) :=
  .of_regs (State.setCtl_regs s pg v)

theorem setPoison_linkPages (k : Nat) (p : Bool) (s : State) : LinkPagesKept s (setPoison k p s) :=
  .of_regs (State.setLine_regs s k _)

theorem queueRow_linkPages (tier addr : Nat) (s : State) : LinkPagesKept s (queueRow tier addr s) := by
  unfold queueRow
  dsimp only
  split
  · exact .refl s
  · exact (setCtl_linkPages _ _ s).trans (addF_linkPages offLinks_ras F.RAS_REPAIR_STS_QUEUED 1 _)

theorem trackCe_linkPages (tier addr : Nat) (s : State) : LinkPagesKept s (trackCe tier addr s) := by
  unfold trackCe
  split
  · exact .refl s
  · dsimp only
    split
    · exact (setCtl_linkPages _ _ s).trans (queueRow_linkPages _ _ _)
    · exact setCtl_linkPages _ _ s

theorem lineEcc_linkPages (tier addr : Nat) (ecc : Ecc) (s : State) : LinkPagesKept s (lineEcc tier addr ecc s) := by
  have hue : ∀ subj, LinkPagesKept s (logErr (tierCtl tier addr) 0x07 subj (lineDetail tier addr) 0
      (setPoison (memKey tier addr) true (s.addF pRAS F.RAS_CNT_UE_CNT 1))) := fun subj =>
    (addF_linkPages offLinks_ras F.RAS_CNT_UE_CNT 1 s).trans ((setPoison_linkPages _ _ _).trans
      (logErr_linkPages (offLinks_tierCtl _ _) 0x07 subj _ 0 _))
  cases ecc with
  | clean => exact .refl s
  | ce => exact (addF_linkPages offLinks_ras F.RAS_CNT_CE_CNT 1 s).trans (trackCe_linkPages _ _ _)
  | ue =>
    simp only [lineEcc]
    split
    · exact .refl s
    · exact (hue _).trans (queueRow_linkPages _ _ _)
  | expander =>
    simp only [lineEcc]
    split
    · exact hue _
    · exact .refl s

theorem demandEcc_linkPages (tier addr len : Nat) (s : State) : LinkPagesKept s (demandEcc tier addr len s) := by
  unfold demandEcc
  split
  · exact .refl s
  · exact forUp_linkPages (fun l t => lineEcc_linkPages tier (64 * l) _ t) _ _ s

theorem account_linkPages (own tier addr len cls : Nat) (s : State) : LinkPagesKept s (account own tier addr len cls s) := by
  have hctl := offLinks_tierCtl tier addr
  have hcount : ∀ v c1 n1 c2 n2, LinkPagesKept s (perfOwn (tierCtl tier addr) c2 n2 own
      (perfOwn (tierCtl tier addr) c1 n1 own (s.setCtl (tierCtl tier addr) v))) := fun v c1 n1 c2 n2 =>
    (setCtl_linkPages _ v s).trans ((perfOwn_linkPages hctl c1 n1 own _).trans (perfOwn_linkPages hctl c2 n2 own _))
  unfold account
  dsimp only
  split
  · exact (hcount _ _ _ _ _).trans (perfOwn_linkPages hctl _ _ _ _)
  · exact hcount _ _ _ _ _

theorem drainLog_linkPages (slot tier addr : Nat) (s : State) : LinkPagesKept s (drainLog slot tier addr s) := by
  unfold drainLog
  split
  · exact logErr_linkPages (offLinks_tierCtl _ _) _ _ _ _ s
  · exact .refl s

theorem accessFail_linkPages {iss : Nat} (hiss : OffLinks iss) (o tier addr code : Nat) (s : State) :
    LinkPagesKept s (accessFail iss o tier addr code s) := by
  unfold accessFail
  split
  · exact logErr_linkPages (offLinks_tierCtl _ _) _ _ _ _ s
  · split
    · exact .refl s
    · exact logErr_linkPages hiss _ _ _ _ s

theorem storeBytes_regs (slot : Nat) : ∀ (bs : List Byte) (k : Nat) (s : State), (storeBytes slot k bs s).regs = s.regs
  | [], _, _ => rfl
  | b :: bs, k, s => storeBytes_regs slot bs (k + 1) (storeByte slot k b s)

theorem writeChunk_regs (slot tier addr : Nat) (data : List (Byte × Bool)) (s : State) :
    (writeChunk slot tier addr data s).2.regs = s.regs := by
  unfold writeChunk
  dsimp only
  split
  · exact State.setLine_regs s _ _
  · split
    · exact (State.setLine_regs _ _ _).trans (storeBytes_regs _ _ _ s)
    · split
      · rfl
      · exact storeBytes_regs _ _ _ s

theorem writeChunks_regs (slot tier : Nat) : ∀ (cs : List (Nat × List (Byte × Bool))) (r : Nat × State),
    (writeChunks slot tier cs r).2.regs = r.2.regs
  | [], _ => rfl
  | c :: cs, r => (writeChunks_regs slot tier cs _).trans (writeChunk_regs slot tier c.1 c.2 r.2)

/-- A write of another block than a link's leaves the links' pages alone. -/
theorem memWrite_linkPages {iss : Nat} (hiss : OffLinks iss) (tier addr : Nat) (a : Access) (data : List (Byte × Bool))
    (rmt : Bool) (s : State) : LinkPagesKept s (memWrite iss a tier addr data rmt s).2 := by
  unfold memWrite
  dsimp only
  split
  · exact accessFail_linkPages hiss _ _ _ _ s
  · exact (account_linkPages _ _ _ _ _ s).trans ((drainLog_linkPages _ _ _ _).trans (.of_regs (writeChunks_regs _ _ _ (0, _))))

/-- A read that a link's block issues changes only header registers of its page: those of an error logged. -/
theorem memRead_f {l : Nat} (hl : l < 64) (iss tier addr len : Nat) (a : Access) (rmt : Bool) (s : State) (y : Fld)
    (hy : y.ofs < 4096 ∧ y.ofs ∉ [R.PG_EVT_PEND, R.PG_ERR_FIRST, R.PG_ERR_CNT, R.PG_PERF_VAL_LO, R.PG_PERF_VAL_HI]) :
    (memRead iss a tier addr len rmt s).2.2.f (pLNK l) y = s.f (pLNK l) y := by
  unfold memRead
  dsimp only
  split
  · unfold accessFail
    split
    · exact logErr_f_other _ _ _ _ _ s _ y hy
    · split
      · rfl
      · exact logErr_f_other _ _ _ _ _ s _ y hy
  · exact ((account_linkPages _ _ _ _ _ s).trans ((demandEcc_linkPages _ _ _ _).trans (drainLog_linkPages _ _ _ _))).f_eq
      hl y hy.1

theorem readPlain_f {l : Nat} (hl : l < 64) (iss tier addr len : Nat) (a : Access) (s : State) (rmt : Bool) (y : Fld)
    (hy : y.ofs < 4096 ∧ y.ofs ∉ [R.PG_EVT_PEND, R.PG_ERR_FIRST, R.PG_ERR_CNT, R.PG_PERF_VAL_LO, R.PG_PERF_VAL_HI]
      := by decide) : (readPlain iss a tier addr len s rmt).2.2.f (pLNK l) y = s.f (pLNK l) y := by
  have hread := memRead_f hl iss tier addr len a rmt s y hy
  unfold readPlain awaitIf
  dsimp only
  split
  · split <;> exact hread
  · split <;> exact hread

theorem counted_linkPages {r : Nat × State} (h : LinkPagesKept s r.2) (k : Nat) :
    LinkPagesKept s (if r.1 = 0 then r.2.setF pDBG F.DBG_TRC_PROD_PROD k else r.2.addF pDBG F.DBG_TRC_LOST_LOST 1) := by
  split
  · exact h.trans (setF_linkPages offLinks_dbg _ _ _)
  · exact h.trans (addF_linkPages offLinks_dbg _ _ _)

theorem trace_linkPages (p n kind code : Nat) (tag : Option Nat) (s : State) :
    LinkPagesKept s (trace p n kind code tag s) := by
  unfold trace
  dsimp only
  split
  · split
    · exact addF_linkPages offLinks_dbg _ _ s
    · exact counted_linkPages (memWrite_linkPages offLinks_dbg _ _ _ _ _ s) _
  · exact .refl s

end Sys2Proof.Machine
end

