-- ==== Sys2Proof/Proofs/PlanFaults.lean ====
section
/-! PROOF.  The fault of an operation of which a core runs the plan (R298 to R301, R426): it leaves the
transaction layer and the pages of links alone. -/

namespace Sys2Proof.Machine

variable {s t u : State}

/-! ## The fault of an operation of which a core runs the plan -/

/-- Core slot `c` runs the plan of the operation in slot `n`, of which request `id` is outstanding; the operation is in an
atomic flow, and has neither FREL nor a release that waits. -/
structure State.RunsPlan (s : State) (p n id c : Nat) : Prop where
  plan : s.planCoreOf p n id = some c
  drain : (s.slot p n).drain = false
  running : (s.slot p n).st = .running
  unreleased : (s.slot p n).heldRel = false
  noFrel : (s.slot p n).frel = false
  atomic : (s.flow p (s.slot p n).flow).ordered = false
  held : ∃ h, (s.core c).op = some h ∧ h.part = p ∧ h.slot = n

theorem State.core_congr (h : t.cores = s.cores) (c : Nat) : t.core c = s.core c := by
  simp only [State.core, h]

theorem State.planCoreOf_congr (hsch : t.sch = s.sch) (hcores : t.cores = s.cores) (p n id : Nat) :
    t.planCoreOf p n id = s.planCoreOf p n id := by
  unfold State.planCoreOf
  rw [State.slot_congr hsch]
  split
  · rw [State.tq, State.tq, State.core_congr hcores]
  · rfl

theorem State.RunsPlan.congr {p n id c : Nat} (h : s.RunsPlan p n id c) (hsch : t.sch = s.sch) (hcores : t.cores = s.cores) :
    t.RunsPlan p n id c where
  plan := (State.planCoreOf_congr hsch hcores p n id).trans h.plan
  drain := by rw [State.slot_congr hsch]; exact h.drain
  running := by rw [State.slot_congr hsch]; exact h.running
  unreleased := by rw [State.slot_congr hsch]; exact h.unreleased
  noFrel := by rw [State.slot_congr hsch]; exact h.noFrel
  atomic := by rw [State.slot_congr hsch, State.flow_congr hsch]; exact h.atomic
  held := by rw [State.core_congr hcores]; exact h.held

/-- The operation slot of an operation that has faulted. -/
def OpSlot.fault (o : OpSlot) : OpSlot := { o with st := .faulted, exec := none, fin := false, copy := [] }

/-- R426: an operation without FREL in an atomic flow is traced, what it has not sent is dropped, and it is FAULTED. -/
theorem opFault_eq {p n code : Nat} {tag : Option Nat} (hrun : (s.slot p n).st = .running)
    (hheld : (s.slot p n).heldRel = false) (hfrel : (s.slot p n).frel = false)
    (hatomic : (s.flow p (s.slot p n).flow).ordered = false) :
    opFault p n code tag s = (dropUnsent p n (trace p n 4 code tag s)).setSlot p n (s.slot p n).fault := by
  have hflow : ∀ fl, (dropUnsent p n (trace p n 4 code tag s)).flow p fl = s.flow p fl :=
    State.flow_congr (trace_accessed p n 4 code tag s).sch_eq p
  simp only [opFault, hrun, hheld, hfrel, State.flow_setSlot, hflow, hatomic, BEq.rfl, Bool.not_false, Bool.and_self,
    Bool.false_eq_true, if_true, if_false, OpSlot.fault]

/-- From `s` to `t` the transaction layer and the links' pages are as they were. -/
def FabricKept (s t : State) : Prop := t.fab = s.fab ∧ LinkPagesKept s t

theorem FabricKept.trans (h : FabricKept s t) (k : FabricKept t u) : FabricKept s u :=
  ⟨k.1.trans h.1, h.2.trans k.2⟩

theorem Accessed.fab_eq (h : Accessed s t) : t.fab = s.fab := (congrArg State.fab h.1 :)
theorem Accessed.cores_eq (h : Accessed s t) : t.cores = s.cores := (congrArg State.cores h.1 :)
theorem Accessed.tb_eq (h : Accessed s t) : t.tb = s.tb := (congrArg State.tb h.1 :)

theorem opFault_fabric {p n code : Nat} {tag : Option Nat} (hrun : (s.slot p n).st = .running)
    (hheld : (s.slot p n).heldRel = false) (hfrel : (s.slot p n).frel = false)
    (hatomic : (s.flow p (s.slot p n).flow).ordered = false) (hwait : s.fab.wait = []) :
    FabricKept s (opFault p n code tag s) := by
  have htrace : (trace p n 4 code tag s).fab = s.fab := (trace_accessed p n 4 code tag s).fab_eq
  have hdrop : (dropUnsent p n (trace p n 4 code tag s)).fab = s.fab := by
    rw [dropUnsent, htrace, hwait, List.filter_nil, ← hwait]
  rw [opFault_eq hrun hheld hfrel hatomic]
  exact ⟨(State.setSlot_fab _ _ _ _).trans hdrop, (trace_linkPages p n 4 code tag s).trans (.of_regs (State.setSlot_regs _ _ _ _))⟩

/-! ## A core's fault -/

theorem coreFltSet_accessed (c pc code sub aux : Nat) (s : State) : Accessed s (coreFltSet c pc code sub aux s) := by
  unfold coreFltSet
  dsimp only
  split
  · exact (setF_accessed _ _ _ _).trans ((setF_accessed _ _ _ _).trans ((setF_accessed _ _ _ _).trans (setF_accessed _ _ _ _)))
  · exact .refl s

theorem coreFltSet_linkPages (c pc code sub aux : Nat) (s : State) : LinkPagesKept s (coreFltSet c pc code sub aux s) := by
  have hc := offLinks_core c
  unfold coreFltSet
  dsimp only
  split
  · exact (setF_linkPages hc F.CORE_FLT_VALID _ _).trans ((setF_linkPages hc F.CORE_FLT_SUB _ _).trans
      ((setF_linkPages hc F.CORE_FLT_PC _ _).trans (setF_linkPages hc F.CORE_FLT_AUX_AUX _ _)))
  · exact .refl s

theorem leaveFetch_regs (c : Nat) (s : State) : (leaveFetch c s).regs = s.regs := by
  unfold leaveFetch
  split
  · rfl
  · split <;> rfl

theorem leaveFetch_sch (c : Nat) (s : State) : (leaveFetch c s).sch = s.sch := by
  unfold leaveFetch
  split
  · rfl
  · split <;> rfl

theorem leaveFetch_fab (c : Nat) (s : State) : (leaveFetch c s).fab = s.fab := by
  unfold leaveFetch
  split
  · rfl
  · split <;> rfl

theorem poolReset_linkPages (c : Nat) (s : State) : LinkPagesKept s (poolReset c s) :=
  (setF_linkPages (offLinks_core c) F.WS_POOL_STS_FREE_FLOOR _ _).trans
    (setF_linkPages (offLinks_core c) F.WS_POOL_STS_FREE_COMMON _ _)

theorem unwaitInbound_sch (c : Nat) (s : State) : (unwaitInbound c s).sch = s.sch := State.setCore_sch _ _ _
theorem unwaitInbound_fab (c : Nat) (s : State) : (unwaitInbound c s).fab = s.fab := State.setCore_fab _ _ _
theorem unwaitInbound_regs (c : Nat) (s : State) : (unwaitInbound c s).regs = s.regs := State.setCore_regs _ _ _

theorem poolReset_sch (c : Nat) (s : State) : (poolReset c s).sch = s.sch := by
  simp only [poolReset, setPool, State.setF_sch]

theorem poolReset_fab (c : Nat) (s : State) : (poolReset c s).fab = s.fab := by
  simp only [poolReset, setPool, State.setF_fab]

/-- R299: a core that drops its operation leaves the scheduler and the fabric alone. -/
theorem coreDrop_sch (c : Nat) (flt : Bool) (s : State) : (coreDrop c flt s).sch = s.sch := by
  unfold coreDrop
  dsimp only
  rw [leaveFetch_sch, poolReset_sch, State.setCore_sch]
  split
  · exact unwaitInbound_sch _ s
  · rfl

theorem coreDrop_fab (c : Nat) (flt : Bool) (s : State) : (coreDrop c flt s).fab = s.fab := by
  unfold coreDrop
  dsimp only
  rw [leaveFetch_fab, poolReset_fab, State.setCore_fab]
  split
  · exact unwaitInbound_fab _ s
  · rfl

theorem coreDrop_linkPages (c : Nat) (flt : Bool) (s : State) : LinkPagesKept s (coreDrop c flt s) := by
  unfold coreDrop
  dsimp only
  refine LinkPagesKept.trans ?_ ((poolReset_linkPages c _).trans (.of_regs (leaveFetch_regs c _)))
  refine LinkPagesKept.of_regs ((State.setCore_regs _ _ _).trans ?_)
  split
  · exact unwaitInbound_regs _ s
  · rfl

/-! ## The fault of a plan's request (R426, R591) -/

/-- Operation `n` of partition `p` is FAULTED in `t`, and core `c` has dropped it; fabric and links are as in `s`. -/
structure PlanFaulted (p n c : Nat) (s t : State) : Prop where
  slot : (t.slot p n) = (s.slot p n).fault
  dropped : t.dropped c
  fabric : FabricKept s t

theorem perf_accessed (pg code n : Nat) (s : State) : Accessed s (perf pg code n s) := perfOwn_accessed pg code n oTormal s

/-- R299: the operation that a core runs ends with the fault, and the core drops it. -/
theorem coreFaultAt_operation {c : Nat} {k : HeldOp} (pc code sub aux : Nat) (tag : Option Nat)
    (h : ((coreFltSet c pc code sub aux s).core c).op = some k) :
    coreFaultAt c pc code sub aux tag s =
      coreDrop c true (perf (pCORE c) 0x32 1 (opFault k.part k.slot code tag (coreFltSet c pc code sub aux s))) := by
  unfold coreFaultAt
  dsimp only
  rw [h]

/-- A fault of the core that runs a plan ends the plan's operation. -/
theorem coreFaultAt_ends {p n id c : Nat} (h : s.RunsPlan p n id c) (hwait : s.fab.wait = []) (pc code sub aux : Nat)
    (tag : Option Nat) : PlanFaulted p n c s (coreFaultAt c pc code sub aux tag s) := by
  have hset := coreFltSet_accessed c pc code sub aux s
  have hrun := h.congr hset.sch_eq hset.cores_eq
  obtain ⟨k, hop, hpart, hslot⟩ := hrun.held
  have hdrop := coreFaultAt_operation pc code sub aux tag hop
  rw [hpart, hslot] at hdrop
  refine ⟨?slot, coreFaultAt_dropped s _ _ _ _ _ _, ?fabric⟩
  case slot =>
    rw [hdrop, State.slot_congr (coreDrop_sch _ _ _), State.slot_congr (perf_accessed _ _ _ _).sch_eq,
      opFault_eq hrun.running hrun.unreleased hrun.noFrel hrun.atomic, State.slot_setSlot_same, State.slot_congr hset.sch_eq]
  case fabric =>
    have hfault := opFault_fabric (code := code) (tag := tag) hrun.running hrun.unreleased hrun.noFrel hrun.atomic
      (by rw [hset.fab_eq, hwait])
    rw [hdrop]
    exact FabricKept.trans ⟨hset.fab_eq, coreFltSet_linkPages c pc code sub aux s⟩ (hfault.trans
      ⟨(coreDrop_fab _ _ _).trans (perf_accessed _ _ _ _).fab_eq,
        (perfOwn_linkPages (offLinks_core c) _ _ _ _).trans (coreDrop_linkPages _ _ _)⟩)

/-- Nothing is to be released of an operation whose release does not wait for acknowledgements. -/
theorem drainEnd_of_drain_false {p n : Nat} (h : (s.slot p n).drain = false) : drainEnd p n s = s := by
  simp [drainEnd, h]

theorem PlanFaulted.of_logged {p n c : Nat} (h : PlanFaulted p n c t u) (hsch : t.sch = s.sch) (hkept : FabricKept s t) :
    PlanFaulted p n c s u :=
  ⟨h.slot.trans (congrArg OpSlot.fault (State.slot_congr hsch p n)), h.dropped, hkept.trans h.fabric⟩

/-- R591, R601: an outstanding request of a plan that ends with a failure faults the operation. -/
theorem failWho_plan {p n id c : Nat} (h : s.RunsPlan p n id c) (hwait : s.fab.wait = []) (etag code status : Nat) :
    PlanFaulted p n c s (failWho (.op p n) id etag code status s) := by
  have hlog := logErr_accessed (pCORE c) code (s.corePart c) 0 0 s
  have hlogged := h.congr hlog.sch_eq hlog.cores_eq
  have hfault := (coreFaultAt_ends hlogged (by rw [hlog.fab_eq, hwait]) (s.core c).pc code 0 0 (some etag)).of_logged
    hlog.sch_eq ⟨hlog.fab_eq, logErr_linkPages (offLinks_core c) code (s.corePart c) 0 0 s⟩
  rw [failWho, h.plan]
  dsimp only
  rw [coreFaultLog, coreFaultLogAt, drainEnd_of_drain_false (by rw [hfault.slot]; exact h.drain)]
  exact hfault

end Sys2Proof.Machine
end

