-- ==== Sys2Proof/Proofs/ReleasedRequests.lean ====
section
/-! PROOF.  A request whose completion has not come in time is released, and its tag is usable again once
its quarantine has ended (R601, R603). -/

namespace Sys2Proof.Machine

variable {s t : State} {g j k p n c e : Nat} {r : FabReq}

/-! ## What registers and records leave alone -/

theorem OnlyRegsEv.fab_eq {ks : List Nat} (h : OnlyRegsEv ks s t) : t.fab = s.fab := (congrArg State.fab h.1 :)
theorem OnlyRegsEv.out_eq {ks : List Nat} (h : OnlyRegsEv ks s t) : t.out = s.out := (congrArg State.out h.1 :)

/-- A register's field reads alike in every page after a register at another offset has been set. -/
theorem State.f_setF_ofs (s : State) (pg pg' : Nat) (x y : Fld) (v : Nat)
    (h : x.ofs < 4096 ∧ y.ofs < 4096 ∧ x.ofs ≠ y.ofs := by decide) : (s.setF pg x v).f pg' y = s.f pg' y := by
  simp only [State.f]
  rw [State.reg_setF]
  omega

/-- The outcome of a command is its effect, but for the event edges of pages. -/
theorem goes_happens {c : Instr} {P : State → Prop} {pgs : List Nat} {k : State → State} (h : exec c s = run pgs s k)
    (hd : s.dead = false) (hp : ∀ t, OnlyRegsEv (pendRegs pgs) (k s) t → P t) : Goes c s P :=
  goes_run h hd (hp _ (happen_only pgs k s))

/-- A command without effect. -/
theorem goes_nowhere {c : Instr} {pgs : List Nat} {k : State → State} (h : exec c s = run pgs s k) (hd : s.dead = false)
    (hk : k s = s) : Goes c s fun t => t = s :=
  goes_run h hd ((happen_same pgs k s (fun pg => by rw [hk])).trans hk)

/-! ## Tags (R600, R603) -/

theorem State.tagReq_congr (h : t.fab = s.fab) (g : Nat) : t.tagReq g = s.tagReq g := by simp only [State.tagReq, h]
theorem State.tagQuar_congr (h : t.fab = s.fab) (g : Nat) : t.tagQuar g = s.tagQuar g := by simp only [State.tagQuar, h]
theorem State.nowOn_congr (h : t.tb = s.tb) (die : Nat) : t.nowOn die = s.nowOn die := by simp only [State.nowOn, h]
theorem State.now_congr (h : t.tb = s.tb) : t.now = s.now := by simp only [State.now, h]
theorem State.part_congr (h : t.prt = s.prt) (p : Nat) : t.part p = s.part p := by simp only [State.part, h]

/-- With no request waiting for a tag, none goes out. -/
theorem pump_idle (h : s.fab.wait = []) : pump s = s := by simp [pump, h]

@[simp] theorem freeReq_regs (g : Nat) (s : State) : (freeReq g s).regs = s.regs := rfl
@[simp] theorem freeReq_mem (g : Nat) (s : State) : (freeReq g s).mem = s.mem := rfl
@[simp] theorem freeReq_sch (g : Nat) (s : State) : (freeReq g s).sch = s.sch := rfl
@[simp] theorem freeReq_cores (g : Nat) (s : State) : (freeReq g s).cores = s.cores := rfl
@[simp] theorem freeReq_wait (g : Nat) (s : State) : (freeReq g s).fab.wait = s.fab.wait := rfl

@[simp] theorem quarantine_regs (g : Nat) (s : State) : (quarantine g s).regs = s.regs := rfl
@[simp] theorem quarantine_mem (g : Nat) (s : State) : (quarantine g s).mem = s.mem := rfl
@[simp] theorem quarantine_sch (g : Nat) (s : State) : (quarantine g s).sch = s.sch := rfl
@[simp] theorem quarantine_cores (g : Nat) (s : State) : (quarantine g s).cores = s.cores := rfl
@[simp] theorem quarantine_wait (g : Nat) (s : State) : (quarantine g s).fab.wait = s.fab.wait := rfl

theorem freeReq_tagReq_same (g : Nat) (s : State) : (freeReq g s).tagReq g = none := by
  simp only [State.tagReq, freeReq, SMap.get_put_same]

theorem freeReq_tagReq_ne (h : j ≠ g) (s : State) : (freeReq g s).tagReq j = s.tagReq j := by
  simp only [State.tagReq, freeReq, SMap.get_put_ne _ _ _ _ _ _ h]

theorem quarantine_tagReq (g : Nat) (s : State) : (quarantine g s).tagReq g = none := by
  simp only [State.tagReq, quarantine, SMap.get_put_same]

theorem quarantine_tagQuar (g : Nat) (s : State) :
    (quarantine g s).tagQuar g = some (s.now + s.f pGLB F.FAB_TAG_QNS_MS * 1000000) := by
  simp only [State.tagQuar, quarantine, SMap.get_put_same]

theorem pGLB_ne_pLNK (l : Nat) : pGLB ≠ pLNK l := by
  show 0 ≠ 0x300 + l
  omega

theorem pSCH_ne_pLNK {p : Nat} (hp : p < 8) (l : Nat) : pSCH p ≠ pLNK l := by
  show 0x11 + p ≠ 0x300 + l
  omega

/-! ## Requests that end without their completions (R601, R603) -/

/-- Request `r` released, not acknowledged: logged in the page of its link, and its tag quarantined. -/
def released (g : Nat) (r : FabReq) (s : State) : State := quarantine g (logErr (pLNK r.link) 0x17 r.part 0 0 s)

theorem released_tagReq (g : Nat) (r : FabReq) (s : State) : (released g r s).tagReq g = none := quarantine_tagReq g _

theorem released_wait (g : Nat) (r : FabReq) (s : State) : (released g r s).fab.wait = s.fab.wait := by
  rw [released, quarantine_wait, (logErr_accessed _ _ _ _ _ s).fab_eq]

theorem released_mem (g : Nat) (r : FabReq) (s : State) : (released g r s).mem = s.mem := by
  rw [released, quarantine_mem, logErr_mem]

theorem released_sch (g : Nat) (r : FabReq) (s : State) : (released g r s).sch = s.sch := by
  rw [released, quarantine_sch, (logErr_accessed _ _ _ _ _ s).sch_eq]

theorem released_cores (g : Nat) (r : FabReq) (s : State) : (released g r s).cores = s.cores := by
  rw [released, quarantine_cores, (logErr_accessed _ _ _ _ _ s).cores_eq]

theorem released_last (g : Nat) (r : FabReq) (s : State) : (released g r s).f (pLNK r.link) F.PG_ERR_CNT_LAST = 0x17 := by
  rw [released, State.f_congr (quarantine_regs _ _)]
  exact (logErr_fields (pLNK r.link) 0x17 r.part 0 0 s).1

/-- R603: the tag stays unusable for FAB_TAG_QNS. -/
theorem released_tagQuar (g : Nat) (r : FabReq) (s : State) :
    (released g r s).tagQuar g = some (s.now + s.f pGLB F.FAB_TAG_QNS_MS * 1000000) := by
  rw [released, quarantine_tagQuar, State.now_congr (logErr_accessed (pLNK r.link) 0x17 r.part 0 0 s).tb_eq,
    logErr_f_page _ _ _ _ _ _ _ _ (pGLB_ne_pLNK r.link) (by decide)]

theorem rtmoExpiry_early (h : s.tagReq g = some r) (ht : s.nowOn (r.link / 32) < r.since + r.rtmo) :
    rtmoExpiry g s = s := by
  unfold rtmoExpiry
  rw [h]
  exact if_neg (Nat.not_le_of_lt ht)

theorem failReq_of_tagReq (h : s.tagReq g = some r) (code : Nat) :
    failReq g code s = failWho r.who r.id r.etag code 0 (quarantine g s) := by
  unfold failReq
  rw [h]

/-- R601: a request whose LNK_RTMO has passed is released with 0x17, and what asked for it fails. -/
theorem rtmoExpiry_due (h : s.tagReq g = some r) (ht : r.since + r.rtmo ≤ s.nowOn (r.link / 32)) :
    rtmoExpiry g s = pump (failWho r.who r.id r.etag 0x17 0 (released g r s)) := by
  have hlog : (logErr (pLNK r.link) 0x17 r.part 0 0 s).tagReq g = some r :=
    (State.tagReq_congr (logErr_accessed _ _ _ _ _ s).fab_eq g).trans h
  unfold rtmoExpiry
  rw [h]
  dsimp only
  rw [if_pos ht, failReq_of_tagReq hlog, released]

/-! ## LNK_RTMO_EXPIRY (R601) -/

/-- The pages that LNK_RTMO_EXPIRY may touch. -/
def State.rtmoPages (s : State) (g : Nat) : List Nat :=
  match s.tagReq g with
  | some r => s.linkPages r.link
  | none => []

theorem exec_lnkRtmoExpiry (hg : g < 16384) (s : State) :
    exec (.lnkRtmoExpiry g) s = run (s.rtmoPages g) s (rtmoExpiry g) := by
  show whenOk (below 16384 g) s (run (s.rtmoPages g) s (rtmoExpiry g)) = _
  rw [whenOk, below, if_pos (decide_eq_true hg)]

theorem goes_rtmoExpiry (hd : s.dead = false) (hg : g < 16384) {P : State → Prop}
    (hp : ∀ pgs t, OnlyRegsEv (pendRegs pgs) (rtmoExpiry g s) t → P t) : Goes (.lnkRtmoExpiry g) s P :=
  goes_happens (exec_lnkRtmoExpiry hg s) hd (hp _)

/-- R601: before its time, a request is not released. -/
theorem goes_rtmoExpiry_early (hd : s.dead = false) (hg : g < 16384) (hr : s.tagReq g = some r)
    (ht : s.nowOn (r.link / 32) < r.since + r.rtmo) : Goes (.lnkRtmoExpiry g) s fun t => t = s :=
  goes_nowhere (exec_lnkRtmoExpiry hg s) hd (rtmoExpiry_early hr ht)

/-- LNK_XSTS of link `k` reports that what LNK_XCTL sent was released without its completion. -/
def xctlReleased (k : Nat) (s : State) : State :=
  ((s.setF (pLNK k) F.LNK_XSTS_BUSY 0).setF (pLNK k) F.LNK_XSTS_CODE 0x17).setF (pLNK k) F.LNK_XSTS_STATUS 0

theorem xctlReleased_fields (k : Nat) (s : State) :
    (xctlReleased k s).f (pLNK k) F.LNK_XSTS_BUSY = 0 ∧ (xctlReleased k s).f (pLNK k) F.LNK_XSTS_CODE = 0x17 ∧
      ∀ pg, (xctlReleased k s).f pg F.PG_ERR_CNT_LAST = s.f pg F.PG_ERR_CNT_LAST := by
  unfold xctlReleased
  refine ⟨?_, ?_, fun pg => ?_⟩
  · rw [State.f_setF_other _ _ _ _ _ (by decide) (by decide) (by decide),
      State.f_setF_other _ _ _ _ _ (by decide) (by decide) (by decide), State.f_setF_same _ _ _ _ (by decide) (by decide)]
    rfl
  · rw [State.f_setF_other _ _ _ _ _ (by decide) (by decide) (by decide), State.f_setF_same _ _ _ _ (by decide) (by decide)]
    rfl
  · rw [State.f_setF_ofs _ _ _ _ _ _, State.f_setF_ofs _ _ _ _ _ _, State.f_setF_ofs _ _ _ _ _ _]

theorem xctlReleased_fab (k : Nat) (s : State) : (xctlReleased k s).fab = s.fab := by
  simp only [xctlReleased, State.setF_fab]

theorem xctlReleased_mem (k : Nat) (s : State) : (xctlReleased k s).mem = s.mem := by
  simp only [xctlReleased, State.setF_mem]

/-- R601, R603: an LNK_XCTL request without its completion ends with 0x17 in LNK_XSTS. -/
theorem goes_rtmoExpiry_xctl (hd : s.dead = false) (hg : g < 16384) (hr : s.tagReq g = some r)
    (ht : r.since + r.rtmo ≤ s.nowOn (r.link / 32)) (hwho : r.who = .xctl k) (hwait : s.fab.wait = []) :
    Goes (.lnkRtmoExpiry g) s fun t =>
      t.tagReq g = none ∧ t.tagQuar g = some (s.now + s.f pGLB F.FAB_TAG_QNS_MS * 1000000) ∧
      t.f (pLNK k) F.LNK_XSTS_BUSY = 0 ∧ t.f (pLNK k) F.LNK_XSTS_CODE = 0x17 ∧
      t.f (pLNK r.link) F.PG_ERR_CNT_LAST = 0x17 ∧ t.mem = s.mem := by
  have hdone : rtmoExpiry g s = xctlReleased k (released g r s) := by
    rw [rtmoExpiry_due hr ht, hwho]
    exact pump_idle (by
      show (xctlReleased k (released g r s)).fab.wait = []
      rw [xctlReleased_fab, released_wait, hwait])
  obtain ⟨hbusy, hcode, hlast⟩ := xctlReleased_fields k (released g r s)
  refine goes_rtmoExpiry hd hg (fun pgs t ht => ?_)
  rw [hdone] at ht
  refine ⟨?tag, ?quar, ?busy, ?xcode, ?last, ?mem⟩
  case tag => rw [State.tagReq_congr ht.fab_eq, State.tagReq_congr (xctlReleased_fab _ _), released_tagReq]
  case quar => rw [State.tagQuar_congr ht.fab_eq, State.tagQuar_congr (xctlReleased_fab _ _), released_tagQuar]
  case busy => rw [ht.f_pend _ _, hbusy]
  case xcode => rw [ht.f_pend _ _, hcode]
  case last => rw [ht.f_pend _ _, hlast, released_last]
  case mem => rw [ht.mem_eq, xctlReleased_mem, released_mem]

/-- R601, R603: a plan's request without its completion faults the operation. -/
theorem goes_rtmoExpiry_plan (hd : s.dead = false) (hg : g < 16384) (hr : s.tagReq g = some r)
    (ht : r.since + r.rtmo ≤ s.nowOn (r.link / 32)) (hwho : r.who = .op p n) (hplan : s.RunsPlan p n r.id c)
    (hlink : r.link < 64) (hwait : s.fab.wait = []) :
    Goes (.lnkRtmoExpiry g) s fun t =>
      t.tagReq g = none ∧ t.tagQuar g = some (s.now + s.f pGLB F.FAB_TAG_QNS_MS * 1000000) ∧
      t.f (pLNK r.link) F.PG_ERR_CNT_LAST = 0x17 ∧ (t.slot p n).st = .faulted ∧ t.dropped c := by
  have hidle : (released g r s).fab.wait = [] := by rw [released_wait, hwait]
  have hfault := failWho_plan (hplan.congr (released_sch g r s) (released_cores g r s)) hidle r.etag 0x17 0
  have hdone : rtmoExpiry g s = failWho (.op p n) r.id r.etag 0x17 0 (released g r s) := by
    rw [rtmoExpiry_due hr ht, hwho, pump_idle (by rw [hfault.fabric.1, hidle])]
  obtain ⟨hslot, hdropped, hfab, hpages⟩ := hfault
  refine goes_rtmoExpiry hd hg (fun pgs t ht => ?_)
  rw [hdone] at ht
  refine ⟨?tag, ?quar, ?last, ?slot, ?dropped⟩
  case tag => rw [State.tagReq_congr ht.fab_eq, State.tagReq_congr hfab, released_tagReq]
  case quar => rw [State.tagQuar_congr ht.fab_eq, State.tagQuar_congr hfab, released_tagQuar]
  case last => rw [ht.f_pend _ _, hpages.f_eq hlink _, released_last]
  case slot =>
    rw [State.slot_congr ht.sch_eq, hslot]
    rfl
  case dropped =>
    unfold State.dropped at hdropped ⊢
    rwa [ht.core_eq]

/-! ## The end of a quarantine (R603) -/

theorem exec_tagQuarantineEnd (hg : g < 16384) (s : State) : exec (.tagQuarantineEnd g) s = run [] s (quarEnd g) := by
  show whenOk (below 16384 g) s _ = _
  rw [whenOk, below, if_pos (decide_eq_true hg)]

/-- Tag `g` is usable again. -/
def unquarantined (g : Nat) (s : State) : State := { s with fab := { s.fab with quar := SMap.put s.fab.quar g none none } }

theorem quarEnd_early (he : s.tagQuar g = some e) (ht : s.now < e) : quarEnd g s = s := by
  unfold quarEnd
  rw [he]
  exact if_neg (Nat.not_le_of_lt ht)

theorem quarEnd_due (he : s.tagQuar g = some e) (ht : e ≤ s.now) (hwait : s.fab.wait = []) :
    quarEnd g s = unquarantined g s := by
  unfold quarEnd
  rw [he]
  dsimp only
  rw [if_pos ht]
  exact pump_idle hwait

theorem goes_quarantineEnd (hd : s.dead = false) (hg : g < 16384) (he : s.tagQuar g = some e) (ht : e ≤ s.now)
    (hwait : s.fab.wait = []) :
    Goes (.tagQuarantineEnd g) s fun t =>
      t.tagQuar g = none ∧ (∀ j, j ≠ g → t.tagQuar j = s.tagQuar j) ∧ { t with fab := s.fab } = s := by
  refine goes_run (exec_tagQuarantineEnd hg s) hd ?_
  rw [happen, forEach, quarEnd_due he ht hwait]
  refine ⟨?_, fun j hj => ?_, rfl⟩
  · simp only [State.tagQuar, unquarantined, SMap.get_put_same]
  · simp only [State.tagQuar, unquarantined, SMap.get_put_ne _ _ _ _ _ _ hj]

end Sys2Proof.Machine
end

