-- ==== Sys2Proof/Proofs/Completions.lean ====
section
/-! PROOF.  A completion that comes on a link (R584, R591, R599): it is stray, or it finishes or faults what
asked for it. -/

namespace Sys2Proof.Machine

variable {s t u : State} {l w g : Nat} {data : List Byte} {r : FabReq}

/-! ## The completion store -/

/-- A completion comes on an up link, within the credits of its channel (R583). -/
structure State.CplComes (s : State) (l w : Nat) (data : List Byte) : Prop where
  live : s.dead = false
  link : l < 64
  word : w < 2 ^ 128
  up : s.linkUp l = true
  opc : (hdrOf w).opc = 0x10
  units : (rxPkt w data).units ≤ s.crdRx l 1

theorem exec_cpl (hl : l < 64) (hw : w < 2 ^ 128) (s : State) :
    exec (.cpl l w data) s = run (s.linkPages l) s (cplIn l w data) := by
  show whenOk (okLink l && okHeader w) s _ = _
  rw [whenOk, okLink, okHeader, below, below, if_pos (by rw [decide_eq_true hl, decide_eq_true hw]; rfl)]

theorem cplIn_ignored (h : s.linkUp l = false ∨ (hdrOf w).opc ≠ 0x10 ∨ s.crdRx l 1 < (rxPkt w data).units) :
    cplIn l w data s = s := by
  refine if_pos ?_
  obtain hdown | hopc | hunits := h
  · simp only [hdown, Bool.not_false, Bool.true_or]
  · simp only [hopc, ne_eq, not_false_eq_true, decide_true, Bool.or_true, Bool.true_or]
  · rw [Bool.or_eq_true]
    exact Or.inr (decide_eq_true hunits)

/-- `y` is `s` once the completion store holds what has come, and its credits have returned (R584). -/
structure CplHeld (l w : Nat) (data : List Byte) (s y : State) : Prop where
  eq : y = cplStored l (rxPkt w data) s
  only : Sent l s y
  nop : y.sentOn l =
    flitBytes { ftype := 0, ack := (s.link l).rxSeq, ackv := true, cvc := 1, crd := (rxPkt w data).units } [] :: s.sentOn l
  credits : y.crdRx l 1 = min 4096 (s.crdRx l 1)

theorem CplHeld.tagReq_eq {y : State} (h : CplHeld l w data s y) (g : Nat) : y.tagReq g = s.tagReq g :=
  State.tagReq_congr h.only.fab_eq g

namespace State.CplComes

theorem vc (h : s.CplComes l w data) : (rxPkt w data).vc = 1 := by
  show vcOf (hdrOf w).opc = 1
  rw [h.opc]
  rfl

theorem stored (h : s.CplComes l w data) : CplHeld l w data s (cplStored l (rxPkt w data) s) := by
  have hvc : (rxPkt w data).vc < 5 := by rw [h.vc]; decide
  have hnop := cplStored_sentOn (s := s) hvc h.up
  have hcredits := cplStored_crdRx (s := s) hvc h.up (by rw [h.vc]; exact h.units)
  rw [h.vc] at hnop hcredits
  exact ⟨rfl, cplStored_sent hvc h.up, hnop, hcredits⟩

theorem cplIn_eq (h : s.CplComes l w data) : cplIn l w data s = cplTake l w data (cplStored l (rxPkt w data) s) := by
  have hpkt : rxPkt w data = { vc := 1, hdr := w, data := data } := by
    rw [rxPkt, h.opc]
    rfl
  have hunits := Nat.not_lt.2 h.units
  rw [hpkt] at hunits ⊢
  rw [cplIn, h.up, h.opc, decide_eq_false hunits]
  exact if_neg (by decide)

/-- What the completion does goes by the state that its store leaves. -/
theorem goes (h : s.CplComes l w data) {P : State → Prop}
    (hp : ∀ y, CplHeld l w data s y → ∀ pgs t, OnlyRegsEv (pendRegs pgs) (cplTake l w data y) t → P t) :
    Goes (.cpl l w data) s P :=
  goes_happens (exec_cpl h.link h.word s) h.live (fun t ht => hp _ h.stored _ t (by rwa [h.cplIn_eq] at ht))

end State.CplComes

/-! ## A completion whose tag is not outstanding (R599) -/

theorem goes_strayCpl (h : s.CplComes l w data) (hg : s.tagReq (hdrOf w).tag = none) :
    Goes (.cpl l w data) s fun t =>
      t.f (pLNK l) F.LNK_CNT_STRAY_CNT =
        min (2 ^ (F.LNK_CNT_STRAY_CNT.hi + 1 - F.LNK_CNT_STRAY_CNT.lo) - 1) (s.f (pLNK l) F.LNK_CNT_STRAY_CNT + 1) ∧
      t.sentOn l = flitBytes { ftype := 0, ack := (s.link l).rxSeq, ackv := true, cvc := 1, crd := (rxPkt w data).units } [] ::
        s.sentOn l ∧
      t.crdRx l 1 = min 4096 (s.crdRx l 1) ∧ t.fab = s.fab ∧ t.mem = s.mem ∧ t.sch = s.sch ∧ t.cores = s.cores := by
  refine h.goes (fun y hy pgs t ht => ?_)
  have htake : cplTake l w data y = cplStray l y := by
    unfold cplTake
    rw [hy.tagReq_eq, hg]
  rw [htake, cplStray] at ht
  refine ⟨?stray, ?sent, ?crd, ?fab, ?mem, ?sch, ?cores⟩
  case stray =>
    rw [ht.f_pend _ _, State.f_addF_same _ _ _ _ (by decide) (by decide), hy.only.f_eq _ _]
  case sent => rw [State.sentOn_congr ht.out_eq, State.sentOn_congr (State.addF_out _ _ _ _), hy.nop]
  case crd =>
    rw [State.crdRx, ht.f_pend _ _ (by decide), State.f_addF_other _ _ _ _ _ (by decide) (by decide) (by decide)]
    exact hy.credits
  case fab => rw [ht.fab_eq, State.addF_fab, hy.only.fab_eq]
  case mem => rw [ht.mem_eq, State.addF_mem, hy.only.mem_eq]
  case sch => rw [ht.sch_eq, State.addF_sch, hy.only.sch_eq]
  case cores => rw [ht.cores_eq, State.addF_cores, hy.only.cores_eq]

/-! ## A completion of an outstanding request -/

/-- The completion that comes is of request `r`, and no request waits for a tag. -/
structure State.CplOf (s : State) (l w : Nat) (data : List Byte) (r : FabReq) : Prop extends s.CplComes l w data where
  tag : s.tagReq (hdrOf w).tag = some r
  idle : s.fab.wait = []

/-- R601: a completion that comes when its request must have timed out finds it released, and is stray. -/
theorem goes_lateCpl {p : Nat} (h : s.CplOf l w data r) (hlate : r.late (s.nowOn (r.link / 32)) = true)
    (hwho : r.who = .succ p) (hp : p < 8) :
    Goes (.cpl l w data) s fun t =>
      t.tagReq (hdrOf w).tag = none ∧ t.f (pLNK r.link) F.PG_ERR_CNT_LAST = 0x17 ∧ t.f (pSCH p) F.PG_ERR_CNT_LAST = 0x17 ∧
      t.mem = s.mem ∧ t.sch = s.sch := by
  refine h.goes (fun y hy pgs t ht => ?_)
  have htag := (hy.tagReq_eq (hdrOf w).tag).trans h.tag
  have hnow := State.nowOn_congr hy.only.tb_eq (r.link / 32)
  have hdue : r.since + r.rtmo ≤ y.nowOn (r.link / 32) := by
    rw [FabReq.late, decide_eq_true_eq, ← hnow] at hlate
    omega
  have htake : cplTake l w data y = cplStray l (logErr (pSCH p) 0x17 p 0 0 (released (hdrOf w).tag r y)) := by
    unfold cplTake
    rw [htag]
    dsimp only
    rw [hnow, if_pos hlate, rtmoExpiry_due htag hdue, hwho]
    show cplStray l (pump (logErr (pSCH p) 0x17 p 0 0 (released (hdrOf w).tag r y))) = _
    rw [pump_idle (by rw [(logErr_accessed _ _ _ _ _ _).fab_eq, released_wait, hy.only.fab_eq, h.idle])]
  rw [htake, cplStray] at ht
  have hlog := logErr_accessed (pSCH p) 0x17 p 0 0 (released (hdrOf w).tag r y)
  refine ⟨?tag, ?link, ?sched, ?mem, ?sch⟩
  case tag => rw [State.tagReq_congr ht.fab_eq, State.tagReq_congr (State.addF_fab _ _ _ _), State.tagReq_congr hlog.fab_eq,
    released_tagReq]
  case link =>
    rw [ht.f_pend _ _, State.addF, State.f_setF_ofs _ _ _ _ _ _, logErr_f_page _ _ _ _ _ _ _ _ (pSCH_ne_pLNK hp r.link).symm (by decide),
      released_last]
  case sched => rw [ht.f_pend _ _, State.f_addF_page _ _ _ _ _ _ (pSCH_ne_pLNK hp l).symm (by decide) (by decide),
    (logErr_fields _ _ _ _ _ _).1]
  case mem => rw [ht.mem_eq, State.addF_mem, logErr_mem, released_mem, hy.only.mem_eq]
  case sch => rw [ht.sch_eq, State.addF_sch, hlog.sch_eq, released_sch, hy.only.sch_eq]

/-! ## A completion that comes in time -/

theorem codeOf_lt (status : Nat) : codeOf status < 256 := by
  unfold codeOf
  split <;> decide

theorem cplTake_inTime (h : s.tagReq (hdrOf w).tag = some r) (ht : r.late (s.nowOn (r.link / 32)) = false)
    (hu : cplDone r (hdrOf w) data s = u) (hwait : u.fab.wait = []) : cplTake l w data s = u := by
  unfold cplTake
  rw [h]
  dsimp only
  rw [ht, if_neg Bool.false_ne_true, hu, pump_idle hwait]

/-- The completion comes before its request must have timed out. -/
structure State.CplInTime (s : State) (l w : Nat) (data : List Byte) (r : FabReq) : Prop extends s.CplOf l w data r where
  inTime : r.late (s.nowOn (r.link / 32)) = false

/-- The outcome goes by what the completion does to the state `y` that the completion store leaves. -/
theorem State.CplInTime.goes (h : s.CplInTime l w data r) {P : State → Prop} (k : State → State)
    (hk : ∀ y, CplHeld l w data s y → cplDone r (hdrOf w) data y = k y ∧ (k y).fab.wait = [])
    (hp : ∀ y, CplHeld l w data s y → ∀ pgs t, OnlyRegsEv (pendRegs pgs) (k y) t → P t) : Goes (.cpl l w data) s P := by
  refine State.CplComes.goes h.toCplComes (fun y hy pgs t ht => ?_)
  obtain ⟨hdone, hwait⟩ := hk y hy
  rw [cplTake_inTime ((hy.tagReq_eq _).trans h.tag) (by rw [State.nowOn_congr hy.only.tb_eq, h.inTime]) hdone hwait] at ht
  exact hp y hy pgs t ht

theorem CplHeld.wait_eq {y : State} (hy : CplHeld l w data s y) : y.fab.wait = s.fab.wait := congrArg Fab.wait hy.only.fab_eq

theorem CplHeld.part_eq {y : State} (hy : CplHeld l w data s y) (p : Nat) : y.part p = s.part p :=
  State.part_congr hy.only.prt_eq p

/-- Table 04-4 step 5: a completion of a partition in reset is dropped, and its tag is quarantined. -/
theorem goes_resettingCpl (h : s.CplInTime l w data r) (hp : r.part < 8) (hrst : (s.part r.part).st = .resetting) :
    Goes (.cpl l w data) s fun t =>
      t.tagReq (hdrOf w).tag = none ∧ t.tagQuar (hdrOf w).tag = some (s.now + s.f pGLB F.FAB_TAG_QNS_MS * 1000000) ∧
      t.mem = s.mem ∧ t.sch = s.sch ∧ t.cores = s.cores := by
  refine h.goes (quarantine (hdrOf w).tag) (fun y hy => ⟨?_, ?_⟩) (fun y hy pgs t ht => ?_)
  · rw [cplDone, if_pos ⟨hp, by rw [hy.part_eq, hrst]⟩]
  · rw [quarantine_wait, hy.wait_eq, h.idle]
  · rw [State.tagReq_congr ht.fab_eq, quarantine_tagReq, State.tagQuar_congr ht.fab_eq, quarantine_tagQuar,
      State.now_congr hy.only.tb_eq, hy.only.f_eq _ _, ht.mem_eq, quarantine_mem, hy.only.mem_eq, ht.sch_eq, quarantine_sch,
      hy.only.sch_eq, ht.cores_eq, quarantine_cores, hy.only.cores_eq]
    exact ⟨rfl, rfl, rfl, rfl, rfl⟩

/-! ## The request of a live partition -/

/-- The completion that comes in time is of a live partition, or of what no partition asked for. -/
structure State.CplLive (s : State) (l w : Nat) (data : List Byte) (r : FabReq) : Prop extends s.CplInTime l w data r where
  live_part : r.part < 8 → (s.part r.part).st ≠ .resetting

section
variable {p n c k : Nat} {h : PktHdr}

/-- The request is answered: its tag is free, and a failure is logged in the page of its link. -/
def answered (r : FabReq) (h : PktHdr) (s : State) : State :=
  if h.sub = 0 then freeReq h.tag s else logErr (pLNK r.link) (codeOf h.sub) r.part 0 0 (freeReq h.tag s)

theorem answered_ok (hok : h.sub = 0) (s : State) : answered r h s = freeReq h.tag s := if_pos hok

theorem answered_failed (hok : h.sub ≠ 0) (s : State) :
    answered r h s = logErr (pLNK r.link) (codeOf h.sub) r.part 0 0 (freeReq h.tag s) := if_neg hok

theorem answered_accessed (r : FabReq) (h : PktHdr) (s : State) : Accessed (freeReq h.tag s) (answered r h s) := by
  unfold answered
  split
  · exact .refl _
  · exact logErr_accessed _ _ _ _ _ _

theorem answered_mem (r : FabReq) (h : PktHdr) (s : State) : (answered r h s).mem = s.mem := by
  unfold answered
  split
  · exact freeReq_mem _ s
  · rw [logErr_mem, freeReq_mem]

theorem answered_tagReq (r : FabReq) (h : PktHdr) (s : State) : (answered r h s).tagReq h.tag = none :=
  (State.tagReq_congr (answered_accessed r h s).fab_eq _).trans (freeReq_tagReq_same _ s)

theorem answered_wait (r : FabReq) (h : PktHdr) (s : State) : (answered r h s).fab.wait = s.fab.wait := by
  rw [(answered_accessed r h s).fab_eq, freeReq_wait]

theorem answered_last (hok : h.sub ≠ 0) (s : State) :
    (answered r h s).f (pLNK r.link) F.PG_ERR_CNT_LAST = codeOf h.sub := by
  rw [answered_failed hok, (logErr_fields _ _ _ _ _ _).1, Nat.mod_eq_of_lt (codeOf_lt _)]

theorem cplDone_xctl (hwho : r.who = .xctl k) (hlive : ¬ (r.part < 8 ∧ (s.part r.part).st = .resetting)) :
    cplDone r h data s = xctlDone k h data (answered r h s) := by
  unfold cplDone
  rw [if_neg hlive, hwho]
  rfl

theorem cplDone_op_ok (hwho : r.who = .op p n) (hlive : ¬ (r.part < 8 ∧ (s.part r.part).st = .resetting)) (hok : h.sub = 0) :
    cplDone r h data s = planAck p n r.id (answered r h s) := by
  unfold cplDone
  rw [if_neg hlive, hwho]
  exact if_pos hok

theorem cplDone_op_failed (hwho : r.who = .op p n) (hlive : ¬ (r.part < 8 ∧ (s.part r.part).st = .resetting))
    (hok : h.sub ≠ 0) :
    cplDone r h data s = failWho (.op p n) r.id r.etag (codeOf h.sub) h.sub (answered r h s) := by
  unfold cplDone
  rw [if_neg hlive, hwho]
  exact if_neg hok

theorem cplDone_succ_ok (hwho : r.who = .succ p) (hlive : ¬ (r.part < 8 ∧ (s.part r.part).st = .resetting)) (hok : h.sub = 0) :
    cplDone r h data s = answered r h s := by
  unfold cplDone
  rw [if_neg hlive, hwho]
  exact if_pos hok

end

theorem State.CplLive.held (h : s.CplLive l w data r) {y : State} (hy : CplHeld l w data s y) :
    ¬ (r.part < 8 ∧ (y.part r.part).st = .resetting) := by
  rw [hy.part_eq]
  exact fun ⟨hp, hst⟩ => h.live_part hp hst

/-! ## What asked for it: an operation's plan, or a release (R415, R416, R420) -/

section
variable {p n c id : Nat}

theorem CplHeld.tagReq_answered {y : State} (hy : CplHeld l w data s y) {j : Nat} (hj : j ≠ (hdrOf w).tag)
    (hok : (hdrOf w).sub = 0) : (answered r (hdrOf w) y).tagReq j = s.tagReq j := by
  rw [answered_ok hok, freeReq_tagReq_ne hj, hy.tagReq_eq]

/-- The state of cores and operations when a completion is acted upon is that in which it came. -/
theorem CplHeld.sch_eq {y : State} (hy : CplHeld l w data s y) : (answered r (hdrOf w) y).sch = s.sch := by
  rw [(answered_accessed r (hdrOf w) y).sch_eq, freeReq_sch, hy.only.sch_eq]

theorem CplHeld.cores_eq {y : State} (hy : CplHeld l w data s y) : (answered r (hdrOf w) y).cores = s.cores := by
  rw [(answered_accessed r (hdrOf w) y).cores_eq, freeReq_cores, hy.only.cores_eq]

theorem CplHeld.idle {y : State} (hy : CplHeld l w data s y) (h : s.CplOf l w data r) :
    (answered r (hdrOf w) y).fab.wait = [] := by
  rw [answered_wait, hy.wait_eq, h.idle]

/-- The plan's request `id` is no longer among those of its core, whose counter has counted it. -/
def acked (c id : Nat) (s : State) : State :=
  dropReq c 3 id (perf (pCORE c) 0x37 ((((s.tq c 3).reqs.find? (fun r => r.id == id)).map (·.len)).getD 0) s)

theorem acked_sch (c id : Nat) (s : State) : (acked c id s).sch = s.sch := by
  rw [acked, dropReq, State.setTq_sch, (perf_accessed _ _ _ s).sch_eq]

theorem acked_fab (c id : Nat) (s : State) : (acked c id s).fab = s.fab := by
  rw [acked, dropReq, State.setTq_fab, (perf_accessed _ _ _ s).fab_eq]

theorem acked_mem (c id : Nat) (s : State) : (acked c id s).mem = s.mem := by
  rw [acked, dropReq, State.setTq_mem, perf_mem]

theorem State.tq_congr (h : t.cores = s.cores) (c q : Nat) : t.tq c q = s.tq c q := by
  simp only [State.tq, State.core_congr h]

theorem acked_reqs (c id : Nat) (s : State) :
    ((acked c id s).tq c 3).reqs = (s.tq c 3).reqs.filter (fun x => x.id != id) := by
  rw [acked, dropReq, State.tq_setTq_same, State.tq_congr (perf_accessed _ _ _ s).cores_eq]

theorem acked_core_ne {d : Nat} (h : d ≠ c) (id : Nat) (s : State) : (acked c id s).core d = s.core d := by
  rw [acked, dropReq, State.setTq, State.core_setCore_ne _ _ _ _ h, State.core_congr (perf_accessed _ _ _ s).cores_eq]

theorem planAck_eq (hplan : s.planCoreOf p n id = some c) (hdrain : (s.slot p n).drain = false) :
    planAck p n id s = acked c id s := by
  rw [planAck, hplan]
  show drainEnd p n (acked c id s) = _
  exact drainEnd_of_drain_false (by rw [State.slot_congr (acked_sch c id s)]; exact hdrain)

/-- R415, R591: the completion of a plan's write takes the write off its core's queue. -/
theorem goes_planCpl (h : s.CplLive l w data r) (hok : (hdrOf w).sub = 0) (hwho : r.who = .op p n)
    (hplan : s.planCoreOf p n r.id = some c) (hdrain : (s.slot p n).drain = false) :
    Goes (.cpl l w data) s fun t =>
      t.tagReq (hdrOf w).tag = none ∧ (∀ j, j ≠ (hdrOf w).tag → t.tagReq j = s.tagReq j) ∧
      (t.tq c 3).reqs = (s.tq c 3).reqs.filter (fun x => x.id != r.id) ∧ t.sch = s.sch ∧ t.mem = s.mem ∧
      ∀ d, d ≠ c → t.core d = s.core d := by
  refine State.CplInTime.goes h.toCplInTime (fun y => acked c r.id (answered r (hdrOf w) y)) (fun y hy => ⟨?done, ?idle⟩)
    (fun y hy pgs t ht => ⟨?tag, fun j hj => ?tags, ?reqs, ?sch, ?mem, fun d hd => ?cores⟩)
  case done =>
    rw [cplDone_op_ok hwho (h.held hy) hok]
    exact planAck_eq ((State.planCoreOf_congr hy.sch_eq hy.cores_eq p n r.id).trans hplan)
      (by rw [State.slot_congr hy.sch_eq]; exact hdrain)
  case idle => rw [acked_fab, hy.idle h.toCplOf]
  case tag => rw [State.tagReq_congr ht.fab_eq, State.tagReq_congr (acked_fab _ _ _), answered_tagReq]
  case tags => rw [State.tagReq_congr ht.fab_eq, State.tagReq_congr (acked_fab _ _ _), hy.tagReq_answered hj hok]
  case reqs => rw [State.tq_congr ht.cores_eq, acked_reqs, State.tq_congr hy.cores_eq]
  case sch => rw [ht.sch_eq, acked_sch, hy.sch_eq]
  case mem => rw [ht.mem_eq, acked_mem, answered_mem, hy.only.mem_eq]
  case cores => rw [ht.core_eq, acked_core_ne hd, State.core_congr hy.cores_eq]

/-- R591, Table 16-9: a completion with a failure is logged, and faults the operation of the plan. -/
theorem goes_planFailedCpl (h : s.CplLive l w data r) (hlink : r.link < 64) (hok : (hdrOf w).sub ≠ 0)
    (hwho : r.who = .op p n) (hplan : s.RunsPlan p n r.id c) :
    Goes (.cpl l w data) s fun t =>
      t.tagReq (hdrOf w).tag = none ∧ t.f (pLNK r.link) F.PG_ERR_CNT_LAST = codeOf (hdrOf w).sub ∧
      (t.slot p n).st = .faulted ∧ t.dropped c := by
  have hfault : ∀ y, CplHeld l w data s y → PlanFaulted p n c (answered r (hdrOf w) y)
      (failWho (.op p n) r.id r.etag (codeOf (hdrOf w).sub) (hdrOf w).sub (answered r (hdrOf w) y)) := fun y hy =>
    failWho_plan (hplan.congr hy.sch_eq hy.cores_eq) (hy.idle h.toCplOf) _ _ _
  refine State.CplInTime.goes h.toCplInTime
    (fun y => failWho (.op p n) r.id r.etag (codeOf (hdrOf w).sub) (hdrOf w).sub (answered r (hdrOf w) y))
    (fun y hy => ⟨cplDone_op_failed hwho (h.held hy) hok, ?idle⟩) (fun y hy pgs t ht => ?_)
  case idle => rw [(hfault y hy).fabric.1, hy.idle h.toCplOf]
  obtain ⟨hslot, hdropped, hfab, hpages⟩ := hfault y hy
  refine ⟨?tag, ?last, ?slot, ?dropped⟩
  case tag => rw [State.tagReq_congr ht.fab_eq, State.tagReq_congr hfab, answered_tagReq]
  case last => rw [ht.f_pend _ _, hpages.f_eq hlink _, answered_last hok]
  case slot =>
    rw [State.slot_congr ht.sch_eq, hslot]
    rfl
  case dropped =>
    unfold State.dropped at hdropped ⊢
    rwa [ht.core_eq]

/-- R420: the completion of a remote decrement frees its tag, and that is all. -/
theorem goes_succCpl (h : s.CplLive l w data r) (hok : (hdrOf w).sub = 0) (hwho : r.who = .succ p) :
    Goes (.cpl l w data) s fun t =>
      t.tagReq (hdrOf w).tag = none ∧ (∀ j, j ≠ (hdrOf w).tag → t.tagReq j = s.tagReq j) ∧ t.sch = s.sch ∧
      t.cores = s.cores ∧ t.mem = s.mem := by
  refine State.CplInTime.goes h.toCplInTime (answered r (hdrOf w))
    (fun y hy => ⟨cplDone_succ_ok hwho (h.held hy) hok, hy.idle h.toCplOf⟩)
    (fun y hy pgs t ht => ⟨?tag, fun j hj => ?tags, ?sch, ?cores, ?mem⟩)
  case tag => rw [State.tagReq_congr ht.fab_eq, answered_tagReq]
  case tags => rw [State.tagReq_congr ht.fab_eq, hy.tagReq_answered hj hok]
  case sch => rw [ht.sch_eq, hy.sch_eq]
  case cores => rw [ht.cores_eq, hy.cores_eq]
  case mem => rw [ht.mem_eq, answered_mem, hy.only.mem_eq]

end

end Sys2Proof.Machine
end

