-- ==== Sys2Proof/Proofs/XctlCompletions.lean ====
section
/-! PROOF.  The completion of what LNK_XCTL sent (R588). -/

namespace Sys2Proof.Machine

variable {s t u : State} {l w g k : Nat} {data : List Byte} {r : FabReq} {h : PktHdr}

/-! ## LNK_XSTS -/

/-- LNK_XSTS of link `k` reports the end of what LNK_XCTL sent. -/
def reported (k status code : Nat) (s : State) : State :=
  ((s.setF (pLNK k) F.LNK_XSTS_BUSY 0).setF (pLNK k) F.LNK_XSTS_STATUS status).setF (pLNK k) F.LNK_XSTS_CODE code

theorem reported_fields (k status code : Nat) (s : State) :
    (reported k status code s).f (pLNK k) F.LNK_XSTS_BUSY = 0 ∧
      (reported k status code s).f (pLNK k) F.LNK_XSTS_STATUS = status % 256 ∧
      (reported k status code s).f (pLNK k) F.LNK_XSTS_CODE = code % 256 := by
  unfold reported
  refine ⟨?_, ?_, State.f_setF_same _ _ _ _ (by decide) (by decide)⟩
  · rw [State.f_setF_other _ _ _ _ _ (by decide) (by decide) (by decide),
      State.f_setF_other _ _ _ _ _ (by decide) (by decide) (by decide), State.f_setF_same _ _ _ _ (by decide) (by decide)]
    rfl
  · rw [State.f_setF_other _ _ _ _ _ (by decide) (by decide) (by decide), State.f_setF_same _ _ _ _ (by decide) (by decide)]
    rfl

theorem reported_fab (k status code : Nat) (s : State) : (reported k status code s).fab = s.fab := by
  simp only [reported, State.setF_fab]

theorem reported_mem (k status code : Nat) (s : State) : (reported k status code s).mem = s.mem := by
  simp only [reported, State.setF_mem]

/-- Who the accesses of LNK_XCTL of a link are for. -/
def State.xctlOwner (s : State) (k : Nat) : Nat := (s.assignee (pLNK k)).getD (s.defSubj (pLNK k))

theorem State.assignee_congr (hprt : t.prt = s.prt) (hrouter : t.router = s.router) (pg : Nat) :
    t.assignee pg = s.assignee pg := by
  have hclu : ∀ c, t.cluOf c = s.cluOf c := fun c => by simp only [State.cluOf, State.lcore, hrouter]
  have hunit : t.unitOfPage pg = s.unitOfPage pg := by
    unfold State.unitOfPage
    split
    case h_2 => rw [hclu]
    all_goals rfl
  simp only [State.assignee, hunit, State.holderOf, hprt]

theorem State.xctlOwner_congr (hprt : t.prt = s.prt) (hrouter : t.router = s.router)
    (hclaim : t.f (pLNK k) F.PG_OWNER_CLAIMED = s.f (pLNK k) F.PG_OWNER_CLAIMED)
    (howner : t.f (pLNK k) F.PG_OWNER_OWNER = s.f (pLNK k) F.PG_OWNER_OWNER) : t.xctlOwner k = s.xctlOwner k := by
  simp only [State.xctlOwner, State.assignee_congr hprt hrouter, State.defSubj, State.ownerOf, hclaim, howner]

/-! ## The completion of an LNK_XCTL -/

/-- Where LNK_XRSP of link `k` points. -/
def State.xrspAddr (s : State) (k : Nat) : Nat := s.f (pLNK k) F.LNK_XRSP_LO_ADDR * 4 + s.f (pLNK k) F.LNK_XRSP_HI_ADDR * 2 ^ 32

/-- Link `k` has no completion's data to write. -/
def noXrsp (k : Nat) (s : State) : State := s.setLink k { s.link k with xrsp := none }

/-- The write of a completion's data to LNK_XRSP. -/
def xrspWrite (k : Nat) (h : PktHdr) (data : List Byte) (s : State) : Nat × State :=
  memWrite (pLNK k) ((noXrsp k s).access (s.xctlOwner k)) (s.f (pLNK k) F.LNK_XRSP_LO_TIER) (s.xrspAddr k)
    (maskBytes 0 (if h.poison then h.pmask else 0) data) false (noXrsp k s)

/-- The code that LNK_XSTS reports, where the write of the data has ended with `code`. -/
def PktHdr.xcode (h : PktHdr) (code : Nat) : Nat := if h.sub = 0 then code else codeOf h.sub

theorem xctlDone_empty (k : Nat) (h : PktHdr) (s : State) :
    xctlDone k h [] s = reported k h.sub (h.xcode 0) (noXrsp k s) := rfl

theorem xctlDone_data (hne : data ≠ [])
    (hcode : s.accessCode (s.xctlOwner k) (s.f (pLNK k) F.LNK_XRSP_LO_TIER) (s.xrspAddr k) data.length ≠ 0x12) :
    xctlDone k h data s = reported k h.sub (h.xcode (xrspWrite k h data s).1) (xrspWrite k h data s).2 := by
  obtain ⟨b, bs, rfl⟩ := List.exists_cons_of_ne_nil hne
  have hheld : (!(b :: bs).isEmpty && s.accessCode (s.xctlOwner k) (s.f (pLNK k) F.LNK_XRSP_LO_TIER) (s.xrspAddr k)
      (b :: bs).length == 0x12) = false := by
    rw [beq_eq_false_iff_ne.2 hcode, Bool.and_false]
  unfold State.xctlOwner State.xrspAddr at hheld
  unfold xctlDone
  dsimp only
  rw [hheld]
  rfl

theorem noXrsp_fab (k : Nat) (s : State) : (noXrsp k s).fab = s.fab := State.setLink_fab _ _ _
theorem noXrsp_mem (k : Nat) (s : State) : (noXrsp k s).mem = s.mem := State.setLink_mem _ _ _

theorem xrspWrite_fab (k : Nat) (h : PktHdr) (data : List Byte) (s : State) : (xrspWrite k h data s).2.fab = s.fab := by
  rw [xrspWrite, (memWrite_accessed _ _ _ _ _ _ _).fab_eq, noXrsp_fab]

theorem codeOf_zero : codeOf 0 = 0 := rfl

theorem PktHdr.xcode_zero (h : PktHdr) : h.xcode 0 = codeOf h.sub := by
  unfold PktHdr.xcode
  split
  case isTrue hok => rw [hok, codeOf_zero]
  case isFalse => rfl

/-- R588: an LNK_XCTL completion without data. -/
theorem goes_xctlCpl_empty (h : s.CplLive l w [] r) (hwho : r.who = .xctl k) (hsub : (hdrOf w).sub < 10) :
    Goes (.cpl l w []) s fun t =>
      t.tagReq (hdrOf w).tag = none ∧ t.f (pLNK k) F.LNK_XSTS_BUSY = 0 ∧ t.f (pLNK k) F.LNK_XSTS_STATUS = (hdrOf w).sub ∧
      t.f (pLNK k) F.LNK_XSTS_CODE = codeOf (hdrOf w).sub ∧ t.mem = s.mem := by
  refine State.CplInTime.goes h.toCplInTime
    (fun y => reported k (hdrOf w).sub ((hdrOf w).xcode 0) (noXrsp k (answered r (hdrOf w) y))) (fun y hy => ⟨?done, ?idle⟩)
    (fun y hy pgs t ht => ?_)
  case done => rw [cplDone_xctl hwho (h.held hy), xctlDone_empty]
  case idle => rw [reported_fab, noXrsp_fab, hy.idle h.toCplOf]
  obtain ⟨hbusy, hstatus, hcode⟩ := reported_fields k (hdrOf w).sub (PktHdr.xcode (hdrOf w) 0) (noXrsp k (answered r (hdrOf w) y))
  refine ⟨?tag, ?busy, ?ended, ?xcode, ?mem⟩
  case tag => rw [State.tagReq_congr ht.fab_eq, State.tagReq_congr (reported_fab _ _ _ _),
    State.tagReq_congr (noXrsp_fab _ _), answered_tagReq]
  case busy => rw [ht.f_pend _ _, hbusy]
  case ended => rw [ht.f_pend _ _, hstatus, Nat.mod_eq_of_lt (by omega)]
  case xcode => rw [ht.f_pend _ _, hcode, PktHdr.xcode_zero, Nat.mod_eq_of_lt (codeOf_lt _)]
  case mem => rw [ht.mem_eq, reported_mem, noXrsp_mem, answered_mem, hy.only.mem_eq]

/-- The registers that say where the data goes, and for whom, are untouched when a completion is acted upon. -/
theorem CplHeld.xrsp_eq {y : State} (hy : CplHeld l w data s y) (g k : Nat) :
    (freeReq g y).xctlOwner k = s.xctlOwner k ∧
      (freeReq g y).f (pLNK k) F.LNK_XRSP_LO_TIER = s.f (pLNK k) F.LNK_XRSP_LO_TIER ∧
      (freeReq g y).xrspAddr k = s.xrspAddr k := by
  have hregs : ∀ pg x, (freeReq g y).f pg x = y.f pg x := State.f_congr (freeReq_regs g y)
  refine ⟨State.xctlOwner_congr hy.only.prt_eq hy.only.router_eq ?_ ?_, ?_, ?_⟩
  · rw [hregs, hy.only.f_eq _ _]
  · rw [hregs, hy.only.f_eq _ _]
  · rw [hregs, hy.only.f_eq _ _]
  · rw [State.xrspAddr, hregs, hregs, hy.only.f_eq _ _, hy.only.f_eq _ _, State.xrspAddr]

/-- R588: the data of an LNK_XCTL completion goes to LNK_XRSP, once its controller takes the write. -/
theorem goes_xctlCpl_data (h : s.CplLive l w data r) (hwho : r.who = .xctl k) (hne : data ≠ []) (hok : (hdrOf w).sub = 0)
    (hcode : (freeReq (hdrOf w).tag (cplStored l (rxPkt w data) s)).accessCode (s.xctlOwner k)
      (s.f (pLNK k) F.LNK_XRSP_LO_TIER) (s.xrspAddr k) data.length ≠ 0x12) :
    let u := noXrsp k (freeReq (hdrOf w).tag (cplStored l (rxPkt w data) s))
    let x := memWrite (pLNK k) (u.access (s.xctlOwner k)) (s.f (pLNK k) F.LNK_XRSP_LO_TIER) (s.xrspAddr k)
      (maskBytes 0 (if (hdrOf w).poison then (hdrOf w).pmask else 0) data) false u
    Goes (.cpl l w data) s fun t =>
      t.tagReq (hdrOf w).tag = none ∧ t.f (pLNK k) F.LNK_XSTS_BUSY = 0 ∧ t.f (pLNK k) F.LNK_XSTS_STATUS = 0 ∧
      t.f (pLNK k) F.LNK_XSTS_CODE = x.1 % 256 ∧ t.mem = x.2.mem := by
  intro u x
  have hx : ∀ y, CplHeld l w data s y → xrspWrite k (hdrOf w) data (answered r (hdrOf w) y) = x := fun y hy => by
    obtain ⟨hown, htier, haddr⟩ := hy.xrsp_eq (hdrOf w).tag k
    rw [answered_ok hok, xrspWrite, hown, htier, haddr, hy.eq]
  refine State.CplInTime.goes h.toCplInTime (fun _ => reported k (hdrOf w).sub (PktHdr.xcode (hdrOf w) x.1) x.2)
    (fun y hy => ⟨?done, ?idle⟩) (fun y hy pgs t ht => ?_)
  case done =>
    obtain ⟨hown, htier, haddr⟩ := hy.xrsp_eq (hdrOf w).tag k
    rw [cplDone_xctl hwho (h.held hy), xctlDone_data hne (by rw [answered_ok hok, hown, htier, haddr, hy.eq]; exact hcode), hx y hy]
  case idle => rw [reported_fab, ← hx y hy, xrspWrite_fab, hy.idle h.toCplOf]
  obtain ⟨hbusy, hstatus, hcode⟩ := reported_fields k (hdrOf w).sub (PktHdr.xcode (hdrOf w) x.1) x.2
  refine ⟨?tag, ?busy, ?ended, ?xcode, ?mem⟩
  case tag => rw [State.tagReq_congr ht.fab_eq, State.tagReq_congr (reported_fab _ _ _ _), ← hx y hy,
    State.tagReq_congr (xrspWrite_fab _ _ _ _), answered_tagReq]
  case busy => rw [ht.f_pend _ _, hbusy]
  case ended => rw [ht.f_pend _ _, hstatus, hok]
  case xcode => rw [ht.f_pend _ _, hcode, PktHdr.xcode, if_pos hok]
  case mem => rw [ht.mem_eq, reported_mem]

end Sys2Proof.Machine
end

