-- ==== Sys2Proof/Proofs/LinkTransactions.lean ====
section
/-! PROOF.  LNK_XCTL (R588): the transaction that software wrote goes out, or is refused; and with it,
how requests end (R583, R584, R591, R599 to R603). -/

namespace Sys2Proof.Machine

variable {s t u : State} {m l g v w : Nat} {data : List Byte}

/-! ## A write of a register with a range and a precondition (R76, R93) -/

section
variable {pg ofs : Nat} {range pre : State → Bool} {eff : State → State}

theorem checkedWrite_accepts (hr : s.reaches m pg = true) (hw : s.mayWrite m pg = true)
    (hv : (regDefAt pg ofs).elim (v == 0) (fun d => defRes0Ok d v) = true) (hrange : range s = true)
    (hrst : s.rstBusy pg = false) (hpre : pre s = true) : checkedWrite m pg ofs v range pre eff s = eff s := by
  simp [checkedWrite, hr, hw, hv, hrange, hrst, hpre]

theorem checkedWrite_out_of_range (hr : s.reaches m pg = true) (hw : s.mayWrite m pg = true) (hrange : range s = false) :
    checkedWrite m pg ofs v range pre eff s = refuse m pg ofs 0x01 s := by
  simp [checkedWrite, hr, hw, hrange]

theorem checkedWrite_unmet (hr : s.reaches m pg = true) (hw : s.mayWrite m pg = true)
    (hv : (regDefAt pg ofs).elim (v == 0) (fun d => defRes0Ok d v) = true) (hrange : range s = true)
    (hpre : pre s = false) : checkedWrite m pg ofs v range pre eff s = refuse m pg ofs 0x11 s := by
  simp [checkedWrite, hr, hw, hv, hrange, hpre]

end

/-! ## What an accepted GO does -/

/-- LNK_XSTS of link `l` reports that a transaction of LNK_XCTL is outstanding. -/
def xctlStarted (l : Nat) (s : State) : State :=
  ((s.setF (pLNK l) F.LNK_XSTS_BUSY 1).setF (pLNK l) F.LNK_XSTS_CODE 0).setF (pLNK l) F.LNK_XSTS_STATUS 0

/-- The transaction of LNK_XCTL goes on: its controller takes the read of its data, if it has any. -/
def xctlReady (l : Nat) (s : State) : State :=
  (xctlStarted l s).setLink l { (xctlStarted l s).link l with xpend := false }

/-- What LNK_XCTL of link `l` sends, with its data. -/
def State.xctlOut (s : State) (l : Nat) (data : List Byte) : FabOut :=
  { who := .xctl l, part := s.xctlOwner l, link := some l, hdr := s.xhdr l, data := data }

/-- Where LNK_XDATA of link `l` points. -/
def State.xdataAddr (s : State) (l : Nat) : Nat :=
  s.f (pLNK l) F.LNK_XDATA_LO_ADDR * 4 + s.f (pLNK l) F.LNK_XDATA_HI_ADDR * 2 ^ 32

/-- The read of the data from LNK_XDATA. -/
def xdataRead (l : Nat) (s : State) : Nat × List Byte × State :=
  readPlain (pLNK l) ((xctlReady l s).access (s.xctlOwner l)) (s.f (pLNK l) F.LNK_XDATA_LO_TIER) (s.xdataAddr l)
    (hdrOf (s.xhdr l)).len (xctlReady l s)

theorem xctlSend_empty (h : (hdrOf (s.xhdr l)).len = 0) : xctlSend l s = offer (s.xctlOut l []) (xctlReady l s) := by
  have hheld : ((hdrOf (s.xhdr l)).len != 0 && (xctlStarted l s).spanCode (s.xctlOwner l)
      (s.f (pLNK l) F.LNK_XDATA_LO_TIER) (s.xdataAddr l) (hdrOf (s.xhdr l)).len == 0x12) = false := by
    rw [bne_eq_false_iff_eq.2 h, Bool.false_and]
  unfold State.xctlOwner State.xdataAddr xctlStarted at hheld
  unfold xctlSend
  dsimp only
  rw [hheld, if_neg Bool.false_ne_true, if_pos h]
  exact if_neg (not_not.2 rfl)

theorem xctlSend_data (h : (hdrOf (s.xhdr l)).len ≠ 0)
    (hspan : (xctlStarted l s).spanCode (s.xctlOwner l) (s.f (pLNK l) F.LNK_XDATA_LO_TIER) (s.xdataAddr l)
      (hdrOf (s.xhdr l)).len ≠ 0x12) :
    xctlSend l s =
      if (xdataRead l s).1 ≠ 0 then
        ((xdataRead l s).2.2.setF (pLNK l) F.LNK_XSTS_BUSY 0).setF (pLNK l) F.LNK_XSTS_CODE (xdataRead l s).1
      else offer (s.xctlOut l (xdataRead l s).2.1) (xdataRead l s).2.2 := by
  have hheld : ((hdrOf (s.xhdr l)).len != 0 && (xctlStarted l s).spanCode (s.xctlOwner l)
      (s.f (pLNK l) F.LNK_XDATA_LO_TIER) (s.xdataAddr l) (hdrOf (s.xhdr l)).len == 0x12) = false := by
    rw [beq_eq_false_iff_ne.2 hspan, Bool.and_false]
  unfold State.xctlOwner State.xdataAddr xctlStarted at hheld
  unfold xctlSend
  dsimp only
  rw [hheld, if_neg h]
  rfl

/-! ## What the transaction finds -/

theorem xctlStarted_fields (l : Nat) (s : State) :
    (xctlStarted l s).f (pLNK l) F.LNK_XSTS_BUSY = 1 ∧ (xctlStarted l s).f (pLNK l) F.LNK_XSTS_CODE = 0 := by
  unfold xctlStarted
  constructor
  · rw [State.f_setF_other _ _ _ _ _ (by decide) (by decide) (by decide),
      State.f_setF_other _ _ _ _ _ (by decide) (by decide) (by decide), State.f_setF_same _ _ _ _ (by decide) (by decide)]
    rfl
  · rw [State.f_setF_other _ _ _ _ _ (by decide) (by decide) (by decide), State.f_setF_same _ _ _ _ (by decide) (by decide)]
    rfl

theorem xctlReady_accessed (l : Nat) (s : State) :
    (xctlReady l s).fab = s.fab ∧ (xctlReady l s).tb = s.tb ∧ (xctlReady l s).mem = s.mem := by
  simp only [xctlReady, xctlStarted, State.setLink_fab, State.setLink_tb, State.setLink_mem, State.setF_fab, State.setF_tb,
    State.setF_mem, and_self]

/-- The transaction of LNK_XCTL of link `l` is reported outstanding in `x`, and can go out there as it can in `s`. -/
structure XctlMayGo (l : Nat) (s x : State) : Prop where
  fab : x.fab = s.fab
  tb : x.tb = s.tb
  busy : x.f (pLNK l) F.LNK_XSTS_BUSY = 1
  code : x.f (pLNK l) F.LNK_XSTS_CODE = 0
  up : x.f (pLNK l) F.LNK_STS_UP = s.f (pLNK l) F.LNK_STS_UP
  fver : x.f (pLNK l) F.LNK_PEER_FVER = s.f (pLNK l) F.LNK_PEER_FVER

theorem xctlMayGo_ready (l : Nat) (s : State) : XctlMayGo l s (xctlReady l s) := by
  obtain ⟨hfab, htb, -⟩ := xctlReady_accessed l s
  obtain ⟨hbusy, hcode⟩ := xctlStarted_fields l s
  refine ⟨hfab, htb, ?_, ?_, ?_, ?_⟩ <;> rw [xctlReady, State.setLink_f]
  · exact hbusy
  · exact hcode
  · rw [xctlStarted, State.f_setF_ofs _ _ _ _ _ _, State.f_setF_ofs _ _ _ _ _ _, State.f_setF_ofs _ _ _ _ _ _]
  · rw [xctlStarted, State.f_setF_ofs _ _ _ _ _ _, State.f_setF_ofs _ _ _ _ _ _, State.f_setF_ofs _ _ _ _ _ _]

theorem readPlain_fab_tb (iss tier addr len : Nat) (a : Access) (s : State) (rmt : Bool) :
    (readPlain iss a tier addr len s rmt).2.2.fab = s.fab ∧ (readPlain iss a tier addr len s rmt).2.2.tb = s.tb := by
  have hread := memRead_accessed iss tier addr len a rmt s
  unfold readPlain awaitIf
  dsimp only
  split
  · split <;> exact ⟨hread.fab_eq, hread.tb_eq⟩
  · split <;> exact ⟨hread.fab_eq, hread.tb_eq⟩

theorem xctlMayGo_read (hl : l < 64) (s : State) : XctlMayGo l s (xdataRead l s).2.2 := by
  obtain ⟨hfab, htb, hbusy, hcode, hup, hfver⟩ := xctlMayGo_ready l s
  unfold xdataRead
  exact ⟨(readPlain_fab_tb _ _ _ _ _ _ _).1.trans hfab, (readPlain_fab_tb _ _ _ _ _ _ _).2.trans htb,
    (readPlain_f hl _ _ _ _ _ _ _ _).trans hbusy, (readPlain_f hl _ _ _ _ _ _ _ _).trans hcode,
    (readPlain_f hl _ _ _ _ _ _ _ _).trans hup, (readPlain_f hl _ _ _ _ _ _ _ _).trans hfver⟩

/-- Tag `g` is that of the transaction which LNK_XCTL of link `l` sent when it was written in `s`. -/
def State.XctlSent (s : State) (l g : Nat) (t : State) : Prop :=
  t.f (pLNK l) F.LNK_XSTS_BUSY = 1 ∧ t.f (pLNK l) F.LNK_XSTS_CODE = 0 ∧
    ∃ r, t.tagReq g = some r ∧ r.who = .xctl l ∧ r.link = l ∧ r.opc = (hdrOf (s.xhdr l)).opc ∧ r.since = s.nowOn (l / 32)

/-- R588, R600: what LNK_XCTL sends takes the free tag. -/
theorem offer_xctl {x : State} (h : XctlMayGo l s x) (hup : s.linkUp l = true) (hfver : 3 ≤ s.f (pLNK l) F.LNK_PEER_FVER)
    (htag : s.freeTag = some g) (data : List Byte) :
    s.XctlSent l g (offer (s.xctlOut l data) x) ∧ (offer (s.xctlOut l data) x).mem = x.mem := by
  have hxup : x.linkUp l = true := by rw [State.linkUp, h.up]; exact hup
  have hoffer := offer_named (o := s.xctlOut l data) rfl hxup (by rw [h.fver]; exact hfver)
    ((State.freeTag_congr h.fab).trans htag)
  refine ⟨⟨?busy, ?xcode, x.asRequest (s.xctlOut l data) l, ?tag, rfl, rfl, rfl, State.nowOn_congr h.tb _⟩, hoffer.mem_eq⟩
  case busy => exact (hoffer.f_eq (pLNK l) F.LNK_XSTS_BUSY).trans h.busy
  case xcode => exact (hoffer.f_eq (pLNK l) F.LNK_XSTS_CODE).trans h.code
  case tag =>
    rw [State.tagReq, hoffer.fab_eq]
    simp only [Fab.grant, SMap.get_put_same]

/-! ## The command -/

theorem pageInfo_pLNK (h : l < 64) : pageInfo (pLNK l) = some (.lnk, l) := by
  revert h l
  decide

theorem xctl_res0Ok (hl : l < 64) :
    (regDefAt (pLNK l) R.LNK_XCTL).elim (2 ^ 31 == 0) (fun d => defRes0Ok d (2 ^ 31)) = true := by
  unfold regDefAt
  rw [pageInfo_pLNK hl]
  rfl

/-- Master `m` writes GO to LNK_XCTL of link `l`, whose page it may write. -/
structure State.XctlWritten (s : State) (m l : Nat) : Prop where
  live : s.dead = false
  master : okMaster m = true
  link : l < 64
  reaches : s.reaches m (pLNK l) = true
  writes : s.mayWrite m (pLNK l) = true

/-- LNK_XHDR of link `l` holds a request's header. -/
structure State.XhdrOk (s : State) (l : Nat) : Prop where
  low : 1 ≤ (hdrOf (s.xhdr l)).opc
  high : (hdrOf (s.xhdr l)).opc ≤ 6
  reserved : hdrReserved (s.xhdr l) = false

theorem bit_go : bit (2 ^ 31) 31 = true := by decide

theorem State.XctlWritten.accepted (h : s.XctlWritten m l) (hx : s.XhdrOk l) (hrst : s.rstBusy (pLNK l) = false)
    (hbusy : s.f (pLNK l) F.LNK_XSTS_BUSY = 0) (hup : s.linkUp l = true) : wrXctl m l (2 ^ 31) s = xctlSend l s := by
  unfold wrXctl
  dsimp only
  rw [checkedWrite_accepts h.reaches h.writes (xctl_res0Ok h.link) (by simp [hx.low, hx.high, hx.reserved]) hrst
    (by simp [hbusy, hup]), if_pos bit_go]

theorem State.XctlWritten.refused_unmet (h : s.XctlWritten m l) (hx : s.XhdrOk l)
    (hbusy : s.f (pLNK l) F.LNK_XSTS_BUSY = 1 ∨ s.linkUp l = false) :
    wrXctl m l (2 ^ 31) s = refuse m (pLNK l) R.LNK_XCTL 0x11 s := by
  unfold wrXctl
  dsimp only
  refine checkedWrite_unmet h.reaches h.writes (xctl_res0Ok h.link) (by simp [hx.low, hx.high, hx.reserved]) ?_
  rw [bit_go]
  obtain hb | hdown := hbusy
  · simp [hb]
  · simp [hdown]

theorem State.XctlWritten.refused_range (h : s.XctlWritten m l)
    (hopc : (hdrOf (s.xhdr l)).opc = 0 ∨ 6 < (hdrOf (s.xhdr l)).opc) :
    wrXctl m l (2 ^ 31) s = refuse m (pLNK l) R.LNK_XCTL 0x01 s := by
  unfold wrXctl
  dsimp only
  refine checkedWrite_out_of_range h.reaches h.writes ?_
  rw [bit_go]
  obtain h0 | h6 := hopc
  · simp [h0]
  · simp [Nat.not_le_of_lt h6]

theorem exec_lnkXctlGo (h : s.XctlWritten m l) :
    exec (.lnkXctlGo m l (2 ^ 31)) s = run [pLNK l] s (wrXctl m l (2 ^ 31)) := by
  show whenOk (okMaster m && okLink l && okWord (2 ^ 31)) s (run [pLNK (l % 64)] s (wrXctl m (l % 64) (2 ^ 31 % 2 ^ 32))) = _
  have hmod : (2 : Nat) ^ 31 % 2 ^ 32 = 2 ^ 31 := by decide
  rw [whenOk, okLink, below, okWord, below, h.master, decide_eq_true h.link, if_pos (by decide), Nat.mod_eq_of_lt h.link, hmod]

theorem goes_xctlGo (h : s.XctlWritten m l) {P : State → Prop}
    (hp : ∀ t, OnlyRegsEv (pendRegs [pLNK l]) (wrXctl m l (2 ^ 31) s) t → P t) : Goes (.lnkXctlGo m l (2 ^ 31)) s P :=
  goes_happens (exec_lnkXctlGo h) h.live hp

/-- LNK_XCTL of link `l` can send: nothing is outstanding there, and a tag is free. -/
structure State.XctlFree (s : State) (l g : Nat) : Prop extends s.XhdrOk l where
  rst : s.rstBusy (pLNK l) = false
  up : s.linkUp l = true
  busy : s.f (pLNK l) F.LNK_XSTS_BUSY = 0
  fver : 3 ≤ s.f (pLNK l) F.LNK_PEER_FVER
  tag : s.freeTag = some g

theorem State.XctlSent.of_only {pgs : List Nat} (h : s.XctlSent l g u) (ht : OnlyRegsEv (pendRegs pgs) u t) :
    s.XctlSent l g t := by
  obtain ⟨hbusy, hcode, hreq⟩ := h
  exact ⟨(ht.f_pend _ _).trans hbusy, (ht.f_pend _ _).trans hcode, by rwa [State.tagReq_congr ht.fab_eq]⟩

/-- R588: a header without data goes out at once. -/
theorem goes_xctlGo_empty (h : s.XctlWritten m l) (hx : s.XctlFree l g) (hlen : (hdrOf (s.xhdr l)).len = 0) :
    Goes (.lnkXctlGo m l (2 ^ 31)) s fun t => s.XctlSent l g t ∧ t.mem = s.mem := by
  obtain ⟨hsent, hmem⟩ := offer_xctl (xctlMayGo_ready l s) hx.up hx.fver hx.tag []
  refine goes_xctlGo h (fun t ht => ?_)
  rw [h.accepted hx.toXhdrOk hx.rst hx.busy hx.up, xctlSend_empty hlen] at ht
  exact ⟨hsent.of_only ht, by rw [ht.mem_eq, hmem, (xctlReady_accessed l s).2.2]⟩

/-- R588: the data is read from LNK_XDATA, and goes out with the header. -/
theorem goes_xctlGo_data (h : s.XctlWritten m l) (hx : s.XctlFree l g) (hlen : (hdrOf (s.xhdr l)).len ≠ 0)
    (hspan : (xctlStarted l s).spanCode (s.xctlOwner l) (s.f (pLNK l) F.LNK_XDATA_LO_TIER) (s.xdataAddr l)
      (hdrOf (s.xhdr l)).len ≠ 0x12) (hread : (xdataRead l s).1 = 0) :
    Goes (.lnkXctlGo m l (2 ^ 31)) s fun t => s.XctlSent l g t ∧ t.mem = (xdataRead l s).2.2.mem := by
  obtain ⟨hsent, hmem⟩ := offer_xctl (xctlMayGo_read h.link s) hx.up hx.fver hx.tag (xdataRead l s).2.1
  refine goes_xctlGo h (fun t ht => ?_)
  rw [h.accepted hx.toXhdrOk hx.rst hx.busy hx.up, xctlSend_data hlen hspan, if_neg (not_not.2 hread)] at ht
  exact ⟨hsent.of_only ht, by rw [ht.mem_eq, hmem]⟩

/-- R588: data that cannot be read ends the transaction before it goes out. -/
theorem goes_xctlGo_unread (h : s.XctlWritten m l) (hx : s.XctlFree l g) (hlen : (hdrOf (s.xhdr l)).len ≠ 0)
    (hspan : (xctlStarted l s).spanCode (s.xctlOwner l) (s.f (pLNK l) F.LNK_XDATA_LO_TIER) (s.xdataAddr l)
      (hdrOf (s.xhdr l)).len ≠ 0x12) (hread : (xdataRead l s).1 ≠ 0) :
    Goes (.lnkXctlGo m l (2 ^ 31)) s fun t =>
      t.f (pLNK l) F.LNK_XSTS_BUSY = 0 ∧ t.f (pLNK l) F.LNK_XSTS_CODE = (xdataRead l s).1 % 256 ∧ t.fab = s.fab ∧
      t.mem = (xdataRead l s).2.2.mem := by
  refine goes_xctlGo h (fun t ht => ?_)
  rw [h.accepted hx.toXhdrOk hx.rst hx.busy hx.up, xctlSend_data hlen hspan, if_pos hread] at ht
  refine ⟨?busy, ?xcode, ?fab, ?mem⟩
  case busy =>
    rw [ht.f_pend _ _, State.f_setF_other _ _ _ _ _ (by decide) (by decide) (by decide),
      State.f_setF_same _ _ _ _ (by decide) (by decide)]
    rfl
  case xcode =>
    rw [ht.f_pend _ _, State.f_setF_same _ _ _ _ (by decide) (by decide)]
    rfl
  case fab => rw [ht.fab_eq, State.setF_fab, State.setF_fab, (xctlMayGo_read h.link s).fab]
  case mem => rw [ht.mem_eq, State.setF_mem, State.setF_mem]

/-- R93: a refused write of LNK_XCTL is recorded with its code, and changes nothing else. -/
theorem goes_xctlGo_refused (h : s.XctlWritten m l) {code : Nat}
    (href : wrXctl m l (2 ^ 31) s = refuse m (pLNK l) R.LNK_XCTL code s) :
    Goes (.lnkXctlGo m l (2 ^ 31)) s fun t =>
      t.f (pLNK l) F.PG_WREJ_OFS_CODE = code % 256 ∧ OnlyRegsEv (refusedRegs (pLNK l)) s t := by
  refine goes_xctlGo h (fun t ht => ?_)
  rw [href] at ht
  have honly := (OnlyRegsEv.refl (refusedRegs (pLNK l)) s).refuse m (pLNK l) R.LNK_XCTL code (fun _ hk => hk)
  refine ⟨(ht.f_pend _ _).trans (refuse_fields _ _ _ _ _).1, (honly.trans ht).mono (fun k hk => ?_)⟩
  obtain hk | hk := List.mem_append.1 hk
  · exact hk
  · rw [List.mem_singleton.1 hk]
    simp [refusedRegs, noted]

/-! ## How requests end -/

/-- R591: the completion of a plan's request finishes it, or faults the plan's operation. -/
theorem goes_opCpl {r : FabReq} (h : s.CplLive l w data r) (hlink : r.link < 64) :
    (∀ p n c, r.who = .op p n → s.planCoreOf p n r.id = some c → (s.slot p n).drain = false →
      ((hdrOf w).sub = 0 →
        Goes (.cpl l w data) s fun t =>
          t.tagReq (hdrOf w).tag = none ∧ (∀ j, j ≠ (hdrOf w).tag → t.tagReq j = s.tagReq j) ∧
          (t.tq c 3).reqs = (s.tq c 3).reqs.filter (fun x => x.id != r.id) ∧ t.sch = s.sch ∧ t.mem = s.mem ∧
          ∀ d, d ≠ c → t.core d = s.core d) ∧
      (∀ k, (hdrOf w).sub ≠ 0 → (s.slot p n).st = .running → (s.slot p n).heldRel = false → (s.slot p n).frel = false →
        (s.flow p (s.slot p n).flow).ordered = false → (s.core c).op = some k → k.part = p → k.slot = n →
        Goes (.cpl l w data) s fun t =>
          t.tagReq (hdrOf w).tag = none ∧ t.f (pLNK r.link) F.PG_ERR_CNT_LAST = codeOf (hdrOf w).sub ∧
          (t.slot p n).st = .faulted ∧ t.dropped c)) :=
  fun _ _ _ hwho hplan hdrain => ⟨fun hok => goes_planCpl h hok hwho hplan hdrain,
    fun k hfail hrun hheld hfrel hatomic hop hpart hslot => goes_planFailedCpl h hlink hfail hwho
      ⟨hplan, hdrain, hrun, hheld, hfrel, hatomic, k, hop, hpart, hslot⟩⟩

/-- Settles O51, command by command: a completion by what its tag and its time say, a request whose time has passed, the
end of a quarantine, and LNK_XCTL by what its checks find. -/
theorem requestsEndWithTheirCompletions : Obligations.RequestsEndWithTheirCompletions := by
  refine ⟨?cpl, ?rtmo, ?quarantine, ?xctl⟩
  case cpl =>
    intro s l w data hd hl hw g y
    refine ⟨fun hout => goes_nowhere (exec_cpl hl hw s) hd (cplIn_ignored hout), fun hup hopc hunits => ?_⟩
    have hcomes : s.CplComes l w data := ⟨hd, hl, hw, hup, hopc, hunits⟩
    refine ⟨goes_strayCpl hcomes, ?resetting, ?late, ?inTime⟩
    case resetting =>
      exact fun r hr hp hrst hlate hwait => goes_resettingCpl ⟨⟨hcomes, hr, hwait⟩, hlate⟩ hp hrst
    case late =>
      exact fun r p hr hwait hlate hwho hp _ => goes_lateCpl ⟨hcomes, hr, hwait⟩ hlate hwho hp
    case inTime =>
      intro r hr hwait hlate hpart hlink hsub
      have hlive : s.CplLive l w data r := ⟨⟨⟨hcomes, hr, hwait⟩, hlate⟩, hpart⟩
      refine ⟨goes_opCpl hlive hlink, fun p hwho hok => goes_succCpl hlive hok hwho, fun k hwho _ => ⟨?_, ?_⟩⟩
      · rintro rfl
        exact goes_xctlCpl_empty hlive hwho hsub
      · exact fun hne hok hcode => goes_xctlCpl_data hlive hwho hne hok hcode
  case rtmo =>
    intro s g r hd hg hr
    refine ⟨goes_rtmoExpiry_early hd hg hr, ?software, ?plan⟩
    case software => exact fun k ht hwho _ _ hwait => goes_rtmoExpiry_xctl hd hg hr ht hwho hwait
    case plan =>
      exact fun p n c k ht hwho hplan hlink hwait hdrain hrun hheld hfrel hatomic hop hpart hslot =>
        goes_rtmoExpiry_plan hd hg hr ht hwho ⟨hplan, hdrain, hrun, hheld, hfrel, hatomic, k, hop, hpart, hslot⟩ hlink hwait
  case quarantine =>
    intro s g e hd hg he
    exact ⟨fun ht => goes_nowhere (exec_tagQuarantineEnd hg s) hd (quarEnd_early he ht),
      fun ht hwait => goes_quarantineEnd hd hg he ht hwait⟩
  case xctl =>
    intro s m l hd hm hl hr hw
    have hwritten : s.XctlWritten m l := ⟨hd, hm, hl, hr, hw⟩
    refine ⟨?sends, ?unmet, ?range⟩
    case sends =>
      intro g hrst hup hbusy hlow hhigh hres hfver htag
      have hfree : s.XctlFree l g := ⟨⟨hlow, hhigh, hres⟩, hrst, hup, hbusy, hfver, htag⟩
      exact ⟨goes_xctlGo_empty hwritten hfree, fun hlen hspan =>
        ⟨goes_xctlGo_data hwritten hfree hlen hspan, goes_xctlGo_unread hwritten hfree hlen hspan⟩⟩
    case unmet =>
      exact fun hlow hhigh hres hbusy =>
        goes_xctlGo_refused hwritten (hwritten.refused_unmet ⟨hlow, hhigh, hres⟩ hbusy)
    case range => exact fun hopc => goes_xctlGo_refused hwritten (hwritten.refused_range hopc)

end Sys2Proof.Machine
end
